-- ==== Sys2Proof/Word.lean ====
section
/-! DEFINITION. The word types of the device (R10, R14) and their plainest readings. -/

namespace Sys2Proof

/-- One byte. -/
abbrev Byte := BitVec 8
/-- A 16-bit token (R20). -/
abbrev W16 := BitVec 16
/-- An instruction word, a lane of a v register, an element register. -/
abbrev W32 := BitVec 32
/-- A g or a register, a pointer, a control register. -/
abbrev W64 := BitVec 64
/-- A key, a base counter, a seed, a tile-table entry. -/
abbrev W128 := BitVec 128
/-- A v register: 256 lanes of 32 bits, lane j at bits [32j+31 : 32j] (R14, R132). -/
abbrev VReg := BitVec 8192
/-- An m register: mask bit i governs lane i (R14, R15). -/
abbrev MReg := BitVec 256

end Sys2Proof
end

