-- ==== Sys2Proof/Syntax.lean ====
section
/-! DEFINITION. Every step of the machine: one constructor per row of spec/opcode_table.json.
Words of the five instruction streams carry the fields of their encodings (R72, R74, R77, R79, R81); the E syllables carry
the fields of R82; an event carries what an agent outside the instruction streams supplies (a physical outcome such as a
self-test result), apart from a host access, whose address and data stand on the host bus of State, and from the reel
instance of an event of one instance, which the cursor of State names. The rows without operands come last. -/

namespace Sys2Proof

/-- The instructions and events of the device. A row's docstring names the rule that governs it. -/
inductive Instr where
  /-- ADD (R94). Writes g[a] + g[b] to g[d], wrapping or saturating under R95. -/
  | add (d a b : BitVec 5)
  /-- SUB (R94). Writes g[a] − g[b] to g[d], wrapping or saturating under R95. -/
  | sub (d a b : BitVec 5)
  /-- AND (R94). Writes the bitwise AND of g[a] and g[b] to g[d]. -/
  | and (d a b : BitVec 5)
  /-- OR (R94). Writes the bitwise OR of g[a] and g[b] to g[d]. -/
  | or (d a b : BitVec 5)
  /-- XOR (R94). Writes the bitwise XOR of g[a] and g[b] to g[d]. -/
  | xor (d a b : BitVec 5)
  /-- SHL (R94). Shifts g[a] left by g[b][5:0] into g[d]. -/
  | shl (d a b : BitVec 5)
  /-- SHR (R94). Shifts g[a] right logically by g[b][5:0] into g[d]. -/
  | shr (d a b : BitVec 5)
  /-- SRA (R94). Shifts g[a] right arithmetically by g[b][5:0] into g[d]. -/
  | sra (d a b : BitVec 5)
  /-- MUL (R94). Writes the low 64 bits of the signed product to g[d]. -/
  | mul (d a b : BitVec 5)
  /-- MULH (R94). Writes the high 64 bits of the signed 128-bit product to g[d]. -/
  | mulh (d a b : BitVec 5)
  /-- DIV (R95). Signed division truncated toward zero, with the divide-by-zero and saturation rules of R95. -/
  | div (d a b : BitVec 5)
  /-- DIVU (R95). Unsigned division, giving all ones on division by zero. -/
  | divu (d a b : BitVec 5)
  /-- REM (R95). Signed remainder, giving g[a] on division by zero. -/
  | rem (d a b : BitVec 5)
  /-- REMU (R95). Unsigned remainder, giving g[a] on division by zero. -/
  | remu (d a b : BitVec 5)
  /-- MIN (R94). Writes the signed minimum of g[a] and g[b] to g[d]. -/
  | min (d a b : BitVec 5)
  /-- MAX (R94). Writes the signed maximum of g[a] and g[b] to g[d]. -/
  | max (d a b : BitVec 5)
  /-- MINU (R94). Writes the unsigned minimum of g[a] and g[b] to g[d]. -/
  | minu (d a b : BitVec 5)
  /-- MAXU (R94). Writes the unsigned maximum of g[a] and g[b] to g[d]. -/
  | maxu (d a b : BitVec 5)
  /-- SLT (R94). Writes 1 to g[d] if g[a] < g[b] as signed values, else 0. -/
  | slt (d a b : BitVec 5)
  /-- SLTU (R94). Writes 1 to g[d] if g[a] < g[b] as unsigned values, else 0. -/
  | sltu (d a b : BitVec 5)
  /-- CLZ (R94). Writes the count of leading zeros of g[a] to g[d]. -/
  | clz (d a : BitVec 5)
  /-- POPC (R94). Writes the count of one bits of g[a] to g[d]. -/
  | popc (d a : BitVec 5)
  /-- ADDI (R96). Adds the sign-extended immediate to g[a], as ADD. -/
  | addi (d a : BitVec 5) (i : BitVec 15)
  /-- ANDI (R96). ANDs g[a] with the zero-extended immediate. -/
  | andi (d a : BitVec 5) (i : BitVec 15)
  /-- ORI (R96). ORs g[a] with the zero-extended immediate. -/
  | ori (d a : BitVec 5) (i : BitVec 15)
  /-- XORI (R96). XORs g[a] with the zero-extended immediate. -/
  | xori (d a : BitVec 5) (i : BitVec 15)
  /-- SHLI (R96). Shifts g[a] left by an immediate amount. -/
  | shli (d a : BitVec 5) (i : BitVec 6)
  /-- SHRI (R96). Shifts g[a] right logically by an immediate amount. -/
  | shri (d a : BitVec 5) (i : BitVec 6)
  /-- SRAI (R96). Shifts g[a] right arithmetically by an immediate amount. -/
  | srai (d a : BitVec 5) (i : BitVec 6)
  /-- SLTI (R96). Writes 1 if g[a] is below the signed immediate, else 0. -/
  | slti (d a : BitVec 5) (i : BitVec 15)
  /-- SLTUI (R96). Writes 1 if g[a] is below the sign-extended immediate compared unsigned, else 0. -/
  | sltui (d a : BitVec 5) (i : BitVec 15)
  /-- LIH (R97). Loads sext(imm20 << 12, 32) into g[d], untainted. -/
  | lih (d : BitVec 5) (i : BitVec 20)
  /-- ADDPC (R97). Writes pc + sext(imm20 << 12, 32) to g[d], untainted. -/
  | addpc (d : BitVec 5) (i : BitVec 20)
  /-- BEQ (R98). Branches when g[a] equals g[b]. -/
  | beq (a b : BitVec 5) (o : BitVec 15)
  /-- BNE (R98). Branches when g[a] differs from g[b]. -/
  | bne (a b : BitVec 5) (o : BitVec 15)
  /-- BLT (R98). Branches when g[a] < g[b], signed. -/
  | blt (a b : BitVec 5) (o : BitVec 15)
  /-- BGE (R98). Branches when g[a] ≥ g[b], signed. -/
  | bge (a b : BitVec 5) (o : BitVec 15)
  /-- BLTU (R98). Branches when g[a] < g[b], unsigned. -/
  | bltu (a b : BitVec 5) (o : BitVec 15)
  /-- BGEU (R98). Branches when g[a] ≥ g[b], unsigned. -/
  | bgeu (a b : BitVec 5) (o : BitVec 15)
  /-- JAL (R99). Writes pc + 4 to g[d] and jumps by the 20-bit word offset. -/
  | jal (d : BitVec 5) (o : BitVec 20)
  /-- JALR (R99). Jumps to g[a] + imm, writing pc + 4 to g[d], trapping FETCH_ALIGN on a misaligned target. -/
  | jalr (d a : BitVec 5) (i : BitVec 15)
  /-- LOOP (R100). Decrements g[a] and branches while the new value is nonzero. -/
  | loop (a : BitVec 5) (o : BitVec 15)
  /-- LD (R101). Loads a zero-extended value of the given size into g[d] and clears its taint. -/
  | ld (d a : BitVec 5) (z : BitVec 2) (o : BitVec 13)
  /-- LDSX (R101). Loads a sign-extended value of the given size into g[d] and clears its taint. -/
  | ldsx (d a : BitVec 5) (z : BitVec 2) (o : BitVec 13)
  /-- ST (R101). Stores the low bits of g[s] at the effective address. -/
  | st (s a : BitVec 5) (z : BitVec 2) (o : BitVec 13)
  /-- LDC (R101). Loads like LD and sets the destination's taint bit. -/
  | ldc (d a : BitVec 5) (z : BitVec 2) (o : BitVec 13)
  /-- FENCE (R106). Holds issue until every earlier S access has performed at the named scope, flushes included. -/
  | fence (s : BitVec 3)
  /-- AMOSWAP (R107). Atomically replaces the memory value with g[b] and returns the old value. -/
  | amoswap (d a b : BitVec 5) (z : BitVec 1)
  /-- AMOADD (R107). Atomically adds g[b] to memory and returns the old value. -/
  | amoadd (d a b : BitVec 5) (z : BitVec 1)
  /-- AMOAND (R107). Atomically ANDs g[b] into memory and returns the old value. -/
  | amoand (d a b : BitVec 5) (z : BitVec 1)
  /-- AMOOR (R107). Atomically ORs g[b] into memory and returns the old value. -/
  | amoor (d a b : BitVec 5) (z : BitVec 1)
  /-- AMOXOR (R107). Atomically XORs g[b] into memory and returns the old value. -/
  | amoxor (d a b : BitVec 5) (z : BitVec 1)
  /-- AMOMIN (R107). Atomically stores the signed minimum and returns the old value. -/
  | amomin (d a b : BitVec 5) (z : BitVec 1)
  /-- AMOMAX (R107). Atomically stores the signed maximum and returns the old value. -/
  | amomax (d a b : BitVec 5) (z : BitVec 1)
  /-- AMOMINU (R107). Atomically stores the unsigned minimum and returns the old value. -/
  | amominu (d a b : BitVec 5) (z : BitVec 1)
  /-- AMOMAXU (R107). Atomically stores the unsigned maximum and returns the old value. -/
  | amomaxu (d a b : BitVec 5) (z : BitVec 1)
  /-- CAS (R108). Compares memory with g[d], writes g[b] on equality, and returns the old value. -/
  | cas (d a b : BitVec 5) (z : BitVec 1)
  /-- SPT (R110). Tests a generic pointer against the R31 checks without trapping and writes the result bits. -/
  | spt (d a : BitVec 5)
  /-- SPC_GLOBAL (R111). Casts g[a] to a global pointer. -/
  | spcGlobal (d a : BitVec 5)
  /-- SPC_PRIVATE (R111). Casts an offset to a private pointer owned by the executing core. -/
  | spcPrivate (d a : BitVec 5)
  /-- SPC_TILE (R111). Casts an offset and handle to a tile pointer owned by the executing core. -/
  | spcTile (d a b : BitVec 5)
  /-- SPC_SHARED (R111). Builds a domain-shared pointer from a target core, handle and offset. -/
  | spcShared (d a b : BitVec 5)
  /-- SPC_OFFSET (R111). Extracts the byte offset of a generic pointer. -/
  | spcOffset (d a : BitVec 5)
  /-- TOKS (R112). Sends a 16-bit token on a local channel to the engine or copy stream, releasing earlier stores at core scope. -/
  | toks (s : BitVec 5) (c : BitVec 4) (i : BitVec 8)
  /-- TOKS_REMOTE (R112). Places a token for another core's inbound channel in the outbound buffer, releasing earlier stores at package scope. -/
  | toksRemote (s : BitVec 5) (t : BitVec 8) (c : BitVec 3) (i : BitVec 8)
  /-- TOKW (R114). Waits on a channel, pops the oldest token into g[d] and acquires its release. -/
  | tokw (d : BitVec 5) (c : BitVec 4)
  /-- CUE (R115). At the timed level holds until TAKECC equals the cue cycle or traps TIMING_FAULT; otherwise retires at once. -/
  | cue (n : BitVec 20)
  /-- GSET (R116). Sets a guard slot to unresolved, false, true, or from a register. -/
  | gset (d : BitVec 5) (s : BitVec 4) (v : BitVec 8)
  /-- WFE (R117). Tests and clears event bits, holding until a tested bit is set. -/
  | wfe (d : BitVec 5) (m : BitVec 8)
  /-- SEV (R117). Sets event bits in another core's EVENTS, releasing earlier stores at package scope. -/
  | sev (d : BitVec 5) (m : BitVec 8)
  /-- CUT (R118). Names a route tag and makes the context arrive at its cut once its conditions hold. -/
  | cut (t : BitVec 3)
  /-- CUT_COMPLETE (R273). A cut completes 8 + 4·h_max cc after its last arrival, advancing TAKE and BTCNT and starting the splice. -/
  | cutComplete (t : BitVec 3)
  /-- DOMR (R120). Writes the context's rank or the member count of its domain at a level. -/
  | domr (d : BitVec 5) (l : BitVec 3) (w : BitVec 8)
  /-- SEEDRD (R121). Reads the low or high half of the top seed-stack entry. -/
  | seedrd (d : BitVec 5) (h : BitVec 8)
  /-- RNGK (R122). Sets a random-number handle's key from g[b]:g[a]. -/
  | rngk (n : BitVec 4) (a b : BitVec 5)
  /-- RNGA (R122). Adds g[b]:g[a] to a random-number handle's base counter modulo 2^128. -/
  | rnga (n : BitVec 4) (a b : BitVec 5)
  /-- FOLIO (R123). Binds a folio slot to an image address, counts and hash after checking them. -/
  | folio (a b : BitVec 5) (s : BitVec 6)
  /-- FUNBIND (R123). Returns a folio slot to empty and untags its frame. -/
  | funbind (s : BitVec 6)
  /-- TALLOC (R125). Allocates a tile at the lowest free aligned base and writes its entry. -/
  | talloc (d a b : BitVec 5) (h : BitVec 8)
  /-- TFREE (R126). Holds until the handle's busy count is zero, then frees the tile. -/
  | tfree (h : BitVec 8)
  /-- TINFO (R126). Reads one half of a tile-table entry. -/
  | tinfo (d : BitVec 5) (h i : BitVec 8)
  /-- TRING (R127). Produces, consumes or waits on a ring tile's slots. -/
  | tring (r : BitVec 5) (h c : BitVec 8)
  /-- TRAP (R129). Traps precisely with TRAP_INSN and TVAL = imm8. -/
  | trap (n : BitVec 8)
  /-- CSRR (R129). Reads a control register into g[d]. -/
  | csrr (d : BitVec 5) (c : BitVec 12)
  /-- CSRW (R129). Writes g[s] to a control register, subject to the value checks of R35. -/
  | csrw (s : BitVec 5) (c : BitVec 12)
  /-- CSRS (R129). ORs g[s] and imm8 into a control register. -/
  | csrs (s : BitVec 5) (c : BitVec 12) (i : BitVec 8)
  /-- PFX (R67). Prefix word giving the next word a guard, a cycle bound and modifiers. -/
  | pfx (g : BitVec 4) (p : BitVec 1) (e m : BitVec 4) (f : BitVec 12)
  /-- VADD (R136). Lane-wise floating-point addition. -/
  | vadd (d a b : BitVec 6) (k : BitVec 3) (f : BitVec 4)
  /-- VSUB (R136). Lane-wise floating-point subtraction. -/
  | vsub (d a b : BitVec 6) (k : BitVec 3) (f : BitVec 4)
  /-- VMUL (R136). Lane-wise floating-point multiplication. -/
  | vmul (d a b : BitVec 6) (k : BitVec 3) (f : BitVec 4)
  /-- VFMA (R137). Lane-wise fused multiply-add, rounded once. -/
  | vfma (d a b c : BitVec 6) (n : BitVec 1)
  /-- VFMS (R137). Lane-wise fused multiply-subtract, rounded once. -/
  | vfms (d a b c : BitVec 6) (n : BitVec 1)
  /-- VMIN (R136). Lane-wise floating-point minimum. -/
  | vmin (d a b : BitVec 6) (k : BitVec 3) (f : BitVec 4)
  /-- VMAX (R136). Lane-wise floating-point maximum. -/
  | vmax (d a b : BitVec 6) (k : BitVec 3) (f : BitVec 4)
  /-- VABS (R136). Clears each lane's sign bit. -/
  | vabs (d a : BitVec 6) (k : BitVec 3) (f : BitVec 4)
  /-- VNEG (R136). Inverts each lane's sign bit. -/
  | vneg (d a : BitVec 6) (k : BitVec 3) (f : BitVec 4)
  /-- VCMP (R138). Compares FP32 lanes under a condition code. -/
  | vcmp (d a b : BitVec 6) (k : BitVec 3) (f : BitVec 4)
  /-- VSEL (R139). Selects va or vb per lane by the old vd. -/
  | vsel (d a b : BitVec 6) (k : BitVec 3)
  /-- VCVT (R140). Converts each lane between formats. -/
  | vcvt (d a : BitVec 6) (k : BitVec 3) (f : BitVec 4)
  /-- VRND (R141). Rounds each FP32 lane to an integral value. -/
  | vrnd (d a : BitVec 6) (k : BitVec 3)
  /-- VIADD (R142). Lane-wise integer addition, wrapping or saturating. -/
  | viadd (d a b : BitVec 6) (k : BitVec 3) (f : BitVec 4)
  /-- VISUB (R142). Lane-wise integer subtraction. -/
  | visub (d a b : BitVec 6) (k : BitVec 3) (f : BitVec 4)
  /-- VIMUL (R142). Lane-wise integer multiplication. -/
  | vimul (d a b : BitVec 6) (k : BitVec 3) (f : BitVec 4)
  /-- VAND (R142). Lane-wise bitwise AND. -/
  | vand (d a b : BitVec 6) (k : BitVec 3)
  /-- VOR (R142). Lane-wise bitwise OR. -/
  | vor (d a b : BitVec 6) (k : BitVec 3)
  /-- VXOR (R142). Lane-wise bitwise XOR. -/
  | vxor (d a b : BitVec 6) (k : BitVec 3)
  /-- VSHL (R142). Lane-wise left shift. -/
  | vshl (d a b : BitVec 6) (k : BitVec 3)
  /-- VSHR (R142). Lane-wise logical right shift. -/
  | vshr (d a b : BitVec 6) (k : BitVec 3)
  /-- VSRA (R142). Lane-wise arithmetic right shift. -/
  | vsra (d a b : BitVec 6) (k : BitVec 3)
  /-- VIMIN (R142). Lane-wise integer minimum, signed or unsigned. -/
  | vimin (d a b : BitVec 6) (k : BitVec 3) (f : BitVec 4)
  /-- VIMAX (R142). Lane-wise integer maximum, signed or unsigned. -/
  | vimax (d a b : BitVec 6) (k : BitVec 3) (f : BitVec 4)
  /-- VICMP (R142). Lane-wise integer comparison. -/
  | vicmp (d a b : BitVec 6) (k : BitVec 3) (f : BitVec 4)
  /-- VBMUL (R169). Forms exact packed products into a register pair. -/
  | vbmul (d a b : BitVec 6) (x y : BitVec 3) (s : BitVec 1)
  /-- VBDOT (R170). Forms an exact packed dot product per lane. -/
  | vbdot (d a b : BitVec 6) (x y : BitVec 3) (s : BitVec 1)
  /-- VBMAC (R170). Adds an exact packed dot product to each lane. -/
  | vbmac (d a b : BitVec 6) (x y : BitVec 3) (s : BitVec 1)
  /-- VLD (R143). Loads one 256-element vector from a tile in every cluster. -/
  | vld (d : BitVec 6) (h : BitVec 8) (o : BitVec 11)
  /-- VST (R143). Stores one 256-element vector to a tile in every cluster. -/
  | vst (d : BitVec 6) (h : BitVec 8) (o : BitVec 11)
  /-- VLDX (R145). Loads single tile elements by index. -/
  | vldx (d a b : BitVec 6) (k : BitVec 3)
  /-- VSTX (R145). Stores single tile elements by index. -/
  | vstx (d a b : BitVec 6) (k : BitVec 3)
  /-- VBCAST (R147). Broadcasts lane L of va. -/
  | vbcast (d a : BitVec 6) (l : BitVec 8) (k : BitVec 3)
  /-- VMOV (R147). Copies va to vd. -/
  | vmov (d a : BitVec 6) (k : BitVec 3)
  /-- VPERM (R147). Permutes lanes of va by indices in vb. -/
  | vperm (d a b : BitVec 6) (k : BitVec 3)
  /-- VSHUF (R147). Interleaves, deinterleaves or reverses lanes. -/
  | vshuf (d a b : BitVec 6) (k : BitVec 3) (f : BitVec 4)
  /-- VEXT (R147). Reads va from another cluster. -/
  | vext (d a : BitVec 6) (k : BitVec 3) (n : BitVec 4)
  /-- VINS (R147). Inserts va[0] into lane L. -/
  | vins (d a : BitVec 6) (l : BitVec 8) (k : BitVec 3)
  /-- VMSET (R148). Sets a mask from a register, to all ones or to all zeros. -/
  | vmset (d : BitVec 3) (a : BitVec 6) (k : BitVec 3) (f : BitVec 4)
  /-- VMAND (R148). ANDs two masks. -/
  | vmand (d a b k : BitVec 3)
  /-- VMOR (R148). ORs two masks. -/
  | vmor (d a b k : BitVec 3)
  /-- VMNOT (R148). Inverts a mask. -/
  | vmnot (d a k : BitVec 3)
  /-- VMPOP (R148). Counts a mask's set bits into a vector register. -/
  | vmpop (d : BitVec 6) (a k : BitVec 3)
  /-- VRED (R149). Reduces enabled lanes, or forms a tree level. -/
  | vred (d a b : BitVec 6) (k : BitVec 3) (f : BitVec 4)
  /-- VSCAN (R150). Writes an inclusive scan of va. -/
  | vscan (d a : BitVec 6) (k : BitVec 3) (f : BitVec 4)
  /-- VFN (R151). Evaluates a built-in function on each lane. -/
  | vfn (d a : BitVec 6) (k : BitVec 3) (f : BitVec 4)
  /-- VGATE (R152). Computes a gated SiLU or GELU activation. -/
  | vgate (d a b g : BitVec 6)
  /-- VSTAT (R153). Forms or merges a statistics state. -/
  | vstat (d a b : BitVec 6) (k : BitVec 3) (f : BitVec 4)
  /-- VNORM (R154). Normalises lanes by a statistics state. -/
  | vnorm (d a b : BitVec 6) (k : BitVec 3) (f : BitVec 4)
  /-- VSMAX (R155). Initialises, updates or merges a softmax state. -/
  | vsmax (d a b : BitVec 6) (k : BitVec 3) (f : BitVec 4)
  /-- VSMXN (R156). Writes softmax probabilities from a final state. -/
  | vsmxn (d a b : BitVec 6) (k : BitVec 3)
  /-- VX (R176). Runs a resident folio in each lane, or traps FOLIO_ABSENT. -/
  | vx (d a b s : BitVec 6) (k : BitVec 1)
  /-- VRNG (R157). Draws MCG-128 words per lane. -/
  | vrng (d a c : BitVec 6) (k : BitVec 3) (n : BitVec 4)
  /-- VSYB (R160). Sets a sync bit, releasing the cluster's tile stores. -/
  | vsyb (n : BitVec 4)
  /-- VSYW (R160). Waits for and clears a sync bit, acquiring. -/
  | vsyw (n : BitVec 4)
  /-- VBR (R159). Branches when vd[0] is nonzero. -/
  | vbr (d : BitVec 6) (o : BitVec 19)
  /-- VLOOP (R159). Decrements vd[0] and branches while nonzero. -/
  | vloop (d : BitVec 6) (o : BitVec 19)
  /-- VRING (R128). Produces, consumes or waits on a ring from the V stream. -/
  | vring (r : BitVec 2) (h c : BitVec 8)
  /-- VTOKS (R161). Sends a token from the V stream. -/
  | vtoks (s : BitVec 6) (c : BitVec 4)
  /-- VTOKW (R161). Waits for and pops a token into vd. -/
  | vtokw (d : BitVec 6) (c : BitVec 4)
  /-- VCUE (R162). Holds the V stream until the cue cycle at the timed level. -/
  | vcue (n : BitVec 20)
  /-- VFLAGS (R163). Writes NFLAGS to vd after earlier V instructions complete. -/
  | vflags (d : BitVec 6)
  /-- MNEST (R198). Writes one field of a level of the shadow nest. -/
  | mnest (l : BitVec 3) (f : BitVec 2) (v : BitVec 20)
  /-- MFMT (R193). Sets the activation format. -/
  | mfmt (x : BitVec 1) (t : BitVec 2) (f : BitVec 4)
  /-- MWLD (R196). Loads the shadow bank from a weight tile. -/
  | mwld (h : BitVec 8) (f : BitVec 4)
  /-- MWLD_F (R196). Fetches a weight tile from global memory, then loads the shadow bank. -/
  | mwldF (h : BitVec 8) (n f : BitVec 4)
  /-- MWLD_S (R196). Loads the shadow bank from a paired weight stream. -/
  | mwldS (f : BitVec 4)
  /-- MACC (R200). Sets the accumulator mode, tree depth and NaN arm bit. -/
  | macc (n : BitVec 2) (d : BitVec 4) (m : BitVec 2)
  /-- MGO (R199). Checks and launches a loop nest of matrix steps. -/
  | mgo (a b : BitVec 8)
  /-- MGO_F (R199). Fetches the activation tile, then launches a loop nest of matrix steps. -/
  | mgoF (a b : BitVec 8) (n : BitVec 4)
  /-- MSPLIT (R201). Sets the node index j. -/
  | msplit (v : BitVec 20)
  /-- MQ_OPEN (R201). Clears the leaf counts of accumulator rows. -/
  | mqOpen (n : BitVec 16) (h : BitVec 8)
  /-- MQ_CLOSE (R201). Pads unfinished tree rows with +0 leaves. -/
  | mqClose (n : BitVec 16) (h : BitVec 8)
  /-- MTOKS (R206). Sends a token after earlier M instructions complete. -/
  | mtoks (c : BitVec 4) (v : BitVec 16)
  /-- MTOKW (R206). Waits for and pops a token in the M stream. -/
  | mtokw (c : BitVec 4)
  /-- MCUE (R206). Holds the M stream until the cue cycle at the timed level. -/
  | mcue (n : BitVec 20)
  /-- MRING (R128). Produces, consumes or waits on a ring from the M stream. -/
  | mring (r : BitVec 2) (c h : BitVec 8)
  /-- CLA (R211). Loads a 16-bit chunk of an address register. -/
  | cla (d : BitVec 4) (k : BitVec 2) (v : BitVec 16)
  /-- CADD (R211). Adds a sign-extended immediate to an address register. -/
  | cadd (d : BitVec 4) (i : BitVec 20)
  /-- CADD_REG (R211). Adds one address register to another. -/
  | caddReg (d s : BitVec 4)
  /-- CCPY (R217). Copies rows from global memory into a tile, transposing into planes when tr = 1. -/
  | ccpy (a : BitVec 4) (q : BitVec 3) (h s : BitVec 8) (t : BitVec 1)
  /-- CCPY_OUT (R217). Copies rows from a tile to global memory. -/
  | ccpyOut (a : BitVec 4) (q : BitVec 3) (h s : BitVec 8) (t : BitVec 1)
  /-- CCPYS (R219). Expands 2:4 structured-sparse rows into a dense tile. -/
  | ccpys (a : BitVec 4) (q : BitVec 3) (h s : BitVec 8)
  /-- CWST (R222). Opens a compressed weight stream for a paired MWLD.s. -/
  | cwst (a : BitVec 4) (q : BitVec 3)
  /-- CTAB (R221). Writes the shadow decompressor code table from a tile. -/
  | ctab (q : BitVec 3) (h : BitVec 8)
  /-- CGATH (R223). Gathers table rows by index into a tile. -/
  | cgath (a b c : BitVec 4) (q : BitVec 3) (h : BitVec 8)
  /-- CSCAT (R223). Scatters tile rows to table rows by index. -/
  | cscat (a b c : BitVec 4) (q : BitVec 3) (h : BitVec 8)
  /-- CXFER (R224). Copies own tile bytes to another core's tile as a splice transfer. -/
  | cxfer (a : BitVec 4) (q : BitVec 3) (h : BitVec 8)
  /-- CRED (R227). Reduces element-wise across a group by the canonical tree. -/
  | cred (a b c : BitVec 4) (q : BitVec 3) (x : BitVec 1) (l : BitVec 4) (o : BitVec 2)
  /-- CBCST (R228). Broadcasts bytes from the root to every participant. -/
  | cbcst (a b c : BitVec 4) (q : BitVec 3) (x : BitVec 1)
  /-- CPREF (R230). Prefetches global bytes into B-die SRAM. -/
  | cpref (a b : BitVec 4) (q : BitVec 3)
  /-- CMIG (R231). Requests migration of a page to HBM4E or LPDDR-6. -/
  | cmig (a : BitVec 4) (q : BitVec 3) (t : BitVec 1)
  /-- CRRD (R229). Reads another package's HBM4E stack through its base-die port. -/
  | crrd (a b c : BitVec 4) (q : BitVec 3)
  /-- CWAITM (R232). Waits until the named scoreboard tokens clear, then acquires. -/
  | cwaitm (m : BitVec 8)
  /-- CTOKS (R232). Sends a token releasing copies already completed. -/
  | ctoks (d : BitVec 4) (v : BitVec 16) (c : BitVec 4)
  /-- CTOKS_ALL (R232). Waits for every earlier copy, then sends a token. -/
  | ctoksAll (d : BitVec 4) (v : BitVec 16) (c : BitVec 4)
  /-- CTOKW (R232). Pops a token and discards its value. -/
  | ctokw (c : BitVec 4)
  /-- CTOKW_LD (R232). Pops a token into an address register. -/
  | ctokwLd (d c : BitVec 4)
  /-- CTOKW_ADD (R232). Pops a token and adds it to an address register. -/
  | ctokwAdd (d c : BitVec 4)
  /-- CCUE (R232). Holds the C stream until the cue cycle at the timed level. -/
  | ccue (n : BitVec 20)
  /-- CFENCE (R232). Waits until earlier copies complete and perform at a scope. -/
  | cfence (s : BitVec 3)
  /-- CRING (R128). Produces, consumes or waits on a ring from the C stream. -/
  | cring (r : BitVec 2) (c h : BitVec 8)
  /-- FLOAD (R248). Checks and loads bundles into an element's loop buffer. -/
  | fload (h : BitVec 8) (e : BitVec 6) (b : BitVec 5) (n : BitVec 6)
  /-- FOPEN (R250). Binds an edge element's port to a tile as input. -/
  | fopen (h : BitVec 8) (e : BitVec 6) (r : BitVec 1) (l : BitVec 8)
  /-- FOPEN_OUT (R250). Binds an edge element's port to a tile as output. -/
  | fopenOut (h : BitVec 8) (e : BitVec 6) (r : BitVec 1) (l : BitVec 8)
  /-- FCLOSE (R250). Unbinds a port. -/
  | fclose (h : BitVec 8) (e : BitVec 6)
  /-- FSCHED (R249). Sets an element's firing period and phase. -/
  | fsched (e : BitVec 6) (p f : BitVec 4)
  /-- FSCHED_OFF (R249). Marks an element as not started by FSTART. -/
  | fschedOff (e : BitVec 6) (p f : BitVec 4)
  /-- FSTART (R254). Checks ports, clears queues and starts a fabric run with window W. -/
  | fstart (w : BitVec 20)
  /-- FQRY (R256). Sends an element's status, register half or port count as a token. -/
  | fqry (c : BitVec 1) (r : BitVec 4) (w : BitVec 2) (e : BitVec 6)
  /-- FTOKS (R256). Sends a token releasing earlier F reads and port writes. -/
  | ftoks (c : BitVec 4) (v : BitVec 16)
  /-- FTOKW (R256). Waits for and pops a token in the F stream. -/
  | ftokw (c : BitVec 4)
  /-- FCUE (R256). Holds the F stream until the cue cycle at the timed level. -/
  | fcue (n : BitVec 20)
  /-- FRING (R128). Produces, consumes or waits on a ring from the F stream. -/
  | fring (r : BitVec 2) (c h : BitVec 8)
  /-- E_ADD (R243). Element addition of two registers. -/
  | eAdd (d a b : BitVec 4)
  /-- E_SUB (R243). Element subtraction of two registers. -/
  | eSub (d a b : BitVec 4)
  /-- E_AND (R243). Element bitwise AND. -/
  | eAnd (d a b : BitVec 4)
  /-- E_OR (R243). Element bitwise OR. -/
  | eOr (d a b : BitVec 4)
  /-- E_XOR (R243). Element bitwise XOR. -/
  | eXor (d a b : BitVec 4)
  /-- E_SHL (R243). Element left shift. -/
  | eShl (d a b : BitVec 4)
  /-- E_SHR (R243). Element logical or arithmetic right shift. -/
  | eShr (d a b : BitVec 4) (sg : BitVec 1)
  /-- E_CMP (R243). Element comparison writing 1 or 0. -/
  | eCmp (d a b : BitVec 4) (cc : BitVec 3)
  /-- E_SEL (R243). Element selection by a condition register. -/
  | eSel (d a b c : BitVec 4)
  /-- E_MIN (R243). Element signed or unsigned minimum. -/
  | eMin (d a b : BitVec 4) (u : BitVec 1)
  /-- E_MAX (R243). Element signed or unsigned maximum. -/
  | eMax (d a b : BitVec 4) (u : BitVec 1)
  /-- E_MUL16 (R243). Exact 16 × 16-bit element product. -/
  | eMul16 (d a b : BitVec 4) (u : BitVec 1)
  /-- E_POPC (R243). Element population count. -/
  | ePopc (d a : BitVec 4)
  /-- E_MOV (R243). Element register move. -/
  | eMov (d a : BitVec 4)
  /-- E_CXCH (R243). Compare-exchange writing the larger and the smaller value. -/
  | eCxch (d c a b : BitVec 4) (sg : BitVec 1)
  /-- E_LDI (R244). Loads a sign-extended 17-bit immediate. -/
  | eLdi (d : BitVec 4) (i : BitVec 17)
  /-- E_LDI_H (R244). Loads an immediate into the upper 16 bits. -/
  | eLdiH (d : BitVec 4) (i : BitVec 16)
  /-- E_LDS (R244). Loads a word of element local memory. -/
  | eLds (d a : BitVec 4) (i : BitVec 17)
  /-- E_STS (R244). Stores a word to element local memory. -/
  | eSts (s a : BitVec 4) (i : BitVec 17)
  /-- E_LOOP (R244). Decrements a register and branches to a bundle while it is nonzero. -/
  | eLoop (d : BitVec 4) (t : BitVec 6)
  /-- E_RECV (R245). Pops a stream word from a queue. -/
  | eRecv (d : BitVec 4) (dir : BitVec 3)
  /-- E_SEND (R245). Pushes a word with code 0. -/
  | eSend (s : BitVec 4) (dir : BitVec 3)
  /-- E_PEEK (R245). Reads the code of the head word without popping it. -/
  | ePeek (d : BitVec 4) (dir : BitVec 3)
  /-- E_EMIT (R245). Pushes a word with an immediate sideband code. -/
  | eEmit (s : BitVec 4) (dir : BitVec 3) (sc : BitVec 2)
  /-- E_EMIT_REG (R245). Pushes a word with its sideband code taken from a register. -/
  | eEmitReg (s : BitVec 4) (dir : BitVec 3) (k : BitVec 4)
  /-- E_BUB (R245). Pushes a bubble. -/
  | eBub (dir : BitVec 3)
  /-- LOTTERY_GRANT (R285). A shared unit draws a grant among contending queues by tickets. -/
  | lotteryGrant (u : BitVec 8)
  /-- DIERST_COMPLETE (R353). A die operation ends, setting fail if the die is out and clearing busy. -/
  | dierstComplete (pass : Bool) (trained : BitVec 8)
  /-- PAGE_MIGRATION (R306). A page counter reaching up triggers a promotion in hardware mode or a host request. -/
  | pageMigration (b : BitVec 4) (f : BitVec 23)
  /-- MIGRATION_EPOCH_END (R305). At an epoch end, demotion candidates are moved while free frames are below low. -/
  | migrationEpochEnd (b : BitVec 4)
  /-- REMOTE_READ_REQUEST (R309). A remote package's read reaches a base-die port and is checked against the access-control table. -/
  | remoteReadRequest (b : BitVec 4) (pkg : BitVec 16) (a : BitVec 36) (n : BitVec 24)
  /-- PEER_REQUEST (R359). A Vexfy peer's memory request is checked against the windows and performed or refused. -/
  | peerRequest (pkg : BitVec 16) (p : BitVec 5) (wr : Bool) (a : BitVec 56) (n : BitVec 24) (bs : List (BitVec 8))
  /-- BOOT (R369). Input held at 50 V for 100 ms starts the verified boot chain, self-test, training and key derivation. -/
  | boot (passed : BitVec 36) (trained : BitVec 288)
  /-- RESUMPTION (R381). Input restored to 50 V for 100 ms restarts the boot chain and restores interrupted takes. -/
  | resumption (passed : BitVec 36) (trained : BitVec 288)
  /-- UCIE_FLIT_CRC_ERROR (R351). A flit failing its CRC is discarded and its request completes with LINK_CRC. -/
  | ucieFlitCrcError (socket : BitVec 6) (m : BitVec 3) (c : BitVec 12) (k : BitVec 3) (far : BitVec 6)
  /-- MODULE_RETRAIN (R351). A module with 8 CRC errors within 2^20 cc is taken out of service and retrained. -/
  | moduleRetrain (socket : BitVec 6) (m : BitVec 3)
  /-- MODULE_RETRAIN_END (R351). Retraining ends, returning the module to service or retiring it. -/
  | moduleRetrainEnd (socket : BitVec 6) (m : BitVec 3) (ok : Bool)
  /-- VEXFY_FLIT_RESEND (R355). A Vexfy flit failing its CRC is resent from the replay buffer. -/
  | vexfyFlitResend (p : BitVec 5) (ok : Bool)
  /-- VEXFY_PORT_DOWN (R355). Sixteen failed resends in a row take a Vexfy port down and end its collectives. -/
  | vexfyPortDown (p : BitVec 5)
  /-- PATROL_SCRUB (R299). A patrol scrubber reads, corrects or poisons a block on its timer. -/
  | patrolScrub (unit : BitVec 2) (b : BitVec 8) (blk : BitVec 31)
  /-- HISTOGRAM_SAMPLE (R383). Temperature and power histograms are sampled each second. -/
  | histogramSample (tm tv tg tb ts th : BitVec 9)
  /-- POWER_LIMIT_WINDOW (R376). Each 1 ms the limiter measures power and sets the count of suppressed cycles. -/
  | powerLimitWindow (pwr : BitVec 16) (gate : BitVec 6)
  /-- VEXFY_PORT_TRAINED (R356). A Vexfy port finishes training, sets up, learns the peer identifier and asserts MSI-X vector 8. -/
  | vexfyPortTrained (p : BitVec 5) (peer : BitVec 16)
  /-- REMOTE_COLLECTIVE_FRAME (R227). A .xp collective contribution or result from another package arrives over a Vexfy port and is combined or written at this package's participant. -/
  | remoteCollectiveFrame (rank : BitVec 6) (lcore : BitVec 8) (e : BitVec 48 × Option (BitVec 21)) (v : BitVec 32)
  /-- LOAD_DATA_RETURN (R92). A load's data arrives and it retires, writing its destination or leaving a deferred error for the first reader. -/
  | loadDataReturn
  /-- MARK (R105). Places a marker in both S queues so that later accesses cannot perform before earlier ones. -/
  | mark
  /-- CUE_REACHED (R115). A held cue instruction of any stream retires when TAKECC reaches its cue cycle. -/
  | cueReached
  /-- SEV_DELIVERY (R117). An SEV's bits reach the target EVENTS register after the R8 latency. -/
  | sevDelivery
  /-- CUT_ARRIVAL (R118). A context arrives at a cut once its accesses have performed and its engine and copy queues are drained to a wait. -/
  | cutArrival
  /-- REMOTE_TOKEN_DELIVERY (R113). Remote tokens enter inbound channels in the splice after the sender's cut, in sender-core order. -/
  | remoteTokenDelivery
  /-- ERET (R332). Leaves handler mode, resumes every stopped stream and restores any FOLIO_ABSENT-kept registers. -/
  | eret
  /-- HALT (R130). Stops the S stream, or removes the context in handler mode. -/
  | halt
  /-- NOP (R129). Does nothing in the S stream. -/
  | nop
  /-- VFORK (R158). Ends lockstep and gives each cluster its own program counter. -/
  | vfork
  /-- VJOIN (R158). Holds forked clusters until all meet, then resumes lockstep. -/
  | vjoin
  /-- VNOP (R163). Does nothing in the V stream. -/
  | vnop
  /-- MWLD_COMPLETE (R196). A bank load finishes writing its columns and the shadow bank becomes LOADED. -/
  | mwldComplete
  /-- CWST_PAIRING (R222). A CWST reaching the copy engine activates a written shadow code table and pairs with the oldest unpaired MWLD.s. -/
  | cwstPairing
  /-- MWSW (R197). Exchanges the active and shadow weight banks. -/
  | mwsw
  /-- MGO_STEP (R199). One step of a running MGO forms its chunk sums and writes them, or traps on a first NaN or split misalignment. -/
  | mgoStep
  /-- OPERAND_FETCH_COMPLETE (R204). The copy raised by an MGO or MWLD with f = 1 completes, releasing the first step or bank write. -/
  | operandFetchComplete
  /-- MWAIT (R206). Holds until earlier M instructions complete. -/
  | mwait
  /-- MWAIT_END (R206). Holds until earlier M instructions complete, then stops the M stream. -/
  | mwaitEnd
  /-- MNOP (R206). Does nothing in the M stream. -/
  | mnop
  /-- CXFER_ARRIVAL (R224). A splice transfer arrives at its target, is checked and written, or fails with a deferred XFER_TARGET. -/
  | cxferArrival
  /-- COPY_COMPLETE (R213). A copy's last write performs, lowering its scoreboard and busy counts or recording a deferred error. -/
  | copyComplete
  /-- CNOP (R232). Does nothing in the C stream. -/
  | cnop
  /-- RUN_COMPLETE (R254). A fabric run completes when every started element has halted and every output queue has drained. -/
  | runComplete
  /-- FABRIC_BOUND (R255). A run still incomplete when its fabric cycle count reaches W stops and traps. -/
  | fabricBound
  /-- INPUT_PORT_PUSH (R251). An input port pushes the next tile word into its queue in a fabric cycle. -/
  | inputPortPush
  /-- OUTPUT_PORT_WRITE (R252). An output port takes its oldest queued word and writes it to the tile. -/
  | outputPortWrite
  /-- FWAIT (R256). Completes when earlier F instructions have completed. -/
  | fwait
  /-- FWAIT_END (R256). Completes when earlier F instructions complete, then stops the F stream. -/
  | fwaitEnd
  /-- E_HALT (R244). Halts the element. -/
  | eHalt
  /-- E_NOP (R83). Does nothing in its slot. -/
  | eNop
  /-- PACKET_ENQUEUE (R364). A host write to CMDQ word 3 enqueues the staged packet, or discards it when the FIFO is full. -/
  | packetEnqueue
  /-- PACKET_DISPATCH (R260). The sequencer moves the FIFO head packet into its instance queue once that queue has room. -/
  | packetDispatch
  /-- LAUNCH (R265). Checks slate, image and remap, then creates and starts a reel's contexts. -/
  | launch
  /-- PUSHSEED (R287). Queues a seed push for a chosen package cut. -/
  | pushseed
  /-- POPSEED (R287). Queues a seed pop for a chosen package cut. -/
  | popseed
  /-- FORKSEED (R287). Queues a push of a child seed derived by SHA3-256. -/
  | forkseed
  /-- SETLEVEL (R277). Requests a determinism level pending until the next package cut. -/
  | setlevel
  /-- SIGNAL (R261). Holds the instance's later packets until every earlier packet has taken effect. -/
  | signal
  /-- SIGNAL_REPORT (R262). A waiting SIGNAL writes its status record once every earlier packet has taken effect or lapsed. -/
  | signalReport
  /-- REEL_RETIREMENT (R262). When every S stream has halted and every queue has drained, the instance retires, lapsing pending changes and writing the run record and retirement status. -/
  | reelRetirement
  /-- STATQ_READ (R364). A host read of STATQ word 0x08 removes the oldest status record. -/
  | statqRead
  /-- SLICE_SWITCH (R270). A time-sliced core saves the running context and restores the next qualifying one. -/
  | sliceSwitch
  /-- WAIT_HOLD_EXPIRY (R270). A context that has held every stream at a wait for 256 cc triggers a slice switch. -/
  | waitHoldExpiry
  /-- BOUND_OVERRUN (R282). An instruction's cycle bound expires and it traps, stops at a unit boundary, or completes and traps. -/
  | boundOverrun
  /-- WATCHPOINT (R311). A pending watchpoint report is taken as an asynchronous trap at the next S-stream instruction boundary. -/
  | watchpoint
  /-- WATCHPOINT_MATCH (R311). A write to a watched atom performs and its home reports it to the hub. -/
  | watchpointMatch
  /-- FOLIO_FRAME_LOAD (R180). After a FOLIO_ABSENT handler returns, the frame loader chooses, reads, checks and writes a frame, then retries the VX. -/
  | folioFrameLoad
  /-- PREEMPTION (R335). The hub stops a context's streams and writes its save area. -/
  | preemption
  /-- CONTEXT_RESTORE (R335). A saved context is restored on a physical core and its streams resume. -/
  | contextRestore
  /-- QUIESCE_SAVE_TIMEOUT (R339). A context whose save does not complete within 65,536 cc during quiesce is removed with DIE_QUIESCED. -/
  | quiesceSaveTimeout
  /-- CTXCMD_RESUME (R368). Resumes a context stopped for the host. -/
  | ctxcmdResume
  /-- CTXCMD_REMOVE (R337). Removes a context with CONTEXT_REMOVED. -/
  | ctxcmdRemove
  /-- DIERST_RESET (R353). Quiesces, resets and retests one die. -/
  | dierstReset
  /-- DIERST_DISABLE (R353). Quiesces a die and powers it down. -/
  | dierstDisable
  /-- DIERST_ENABLE (R353). Resets, retests and retrains a disabled die. -/
  | dierstEnable
  /-- XLINV (R304). Starts a broadcast invalidation of translations over a range of an instance. -/
  | xlinv
  /-- XLINV_COMPLETE (R304). An invalidation completes once every cache has dropped the range and dependent accesses have performed, clearing busy. -/
  | xlinvComplete
  /-- REMAPGO (R389). Commits a staged remap table, pre-empting the contexts that move. -/
  | remapgo
  /-- REMAP_COMMIT_COMPLETE (R389). When every moving context is saved, the live table takes the staged values and busy clears. -/
  | remapCommitComplete
  /-- REMAP_ENTRY_WRITE (R389). A host write to a remap entry of a running instance changes the staged copy. -/
  | remapEntryWrite
  /-- MIGCMD (R306). A host command moves a page frame to the other tier. -/
  | migcmd
  /-- FOLREQ_READ (R366). A host read of the last FOLREQ word removes the folio request. -/
  | folreqRead
  /-- FOLRESP (R366). The host grants or refuses a pending folio load. -/
  | folresp
  /-- ELOGQ_READ (R367). A host read of ELOGQ word 0x18 removes the oldest error log record. -/
  | elogqRead
  /-- ELOGCNT_WRITE (R367). A write to ELOGCNT clears the lost-record count. -/
  | elogcntWrite
  /-- PCHASH_WRITE (R298). Writes a pseudo-channel hash mask while en = 0, or is discarded and sets hlock. -/
  | pchashWrite
  /-- HBMCTL_WRITE (R298). Sets stack service and scrub rate; writing en = 0 clears hlock. -/
  | hbmctlWrite
  /-- PCCNT_WRITE (R384). Writes a pseudo-channel counter, with same-cycle counts added on top. -/
  | pccntWrite
  /-- SRAMCTL_WRITE (R294). Sets the retain partition size for later misses, discarding reserved values. -/
  | sramctlWrite
  /-- MIGCTL_WRITE (R305). Sets the migration thresholds and epoch, discarding reserved values. -/
  | migctlWrite
  /-- PKGID_WRITE (R357). Sets the package identifier, discarded while any port is up. -/
  | pkgidWrite
  /-- COLLTAB_WRITE (R358). Writes a collective group entry, discarded while any instance holds a reel. -/
  | colltabWrite
  /-- VXPORT_WRITE (R356). Trains a Vexfy port or takes it down. -/
  | vxportWrite
  /-- FUNCMODE_WRITE (R366). Selects hardware or host-assisted modes, with the discard and timing rules of R366. -/
  | funcmodeWrite
  /-- PWRCTL_WRITE (R376). Sets the power limit, clamped to the rating. -/
  | pwrctlWrite
  /-- BOCTL_WRITE (R379). Sets the drain window, journalling and trigger arm, discarding invalid writes. -/
  | boctlWrite
  /-- BOOTSTAT_RETRY (R370). In recovery, restarts the boot chain from the staging buffer. -/
  | bootstatRetry
  /-- BOCMD_ENTER (R378). Makes brown-out entry start now, between trigger and entry. -/
  | bocmdEnter
  /-- BOCMD_RESUME (R378). Lets resumption proceed while the package waits to resume. -/
  | bocmdResume
  /-- REGISTER_WRITE (R361). A host write to a control-window register that has no row of its own. -/
  | registerWrite
  /-- BAR2_HOST_READ (R363). A host read through the BAR2 aperture is translated and performed at its home. -/
  | bar2HostRead
  /-- BAR2_HOST_WRITE (R363). A host write through the BAR2 aperture is translated and performed at its home. -/
  | bar2HostWrite
  /-- POWER_OFF (R375). Input falling below 20 V removes power from the package. -/
  | powerOff
  /-- BROWNOUT_TRIGGER (R377). Input below 46 V for 20 µs with arm set triggers brown-out handling. -/
  | brownoutTrigger
  /-- BROWNOUT_ENTRY (R380). The package stops, drains, spills and enters retention. -/
  | brownoutEntry
  /-- BROWNOUT_HOST_TIMEOUT (R377). 5 ms after the trigger under host-assisted policy, entry begins without the host. -/
  | brownoutHostTimeout
  /-- DRAIN_WINDOW_EXPIRY (R380). The drain window ends win ms after the trigger and instances short of their cut are removed with BROWNOUT. -/
  | drainWindowExpiry
  /-- RETENTION_LOSS (R382). Input below 20 V for 1 ms in retention loses the retention image. -/
  | retentionLoss
  /-- LIFETIME_COMMIT (R383). Live lifetime counters are committed to the module store every 3,600 s of powered time. -/
  | lifetimeCommit
  /-- ENTROPY_HEALTH_FAILURE (R373). A failed entropy health test holds requests and increments counter 10. -/
  | entropyHealthFailure
  /-- STORE_PERFORM (R104). A queued S-stream store performs at its home, freeing its store-queue entry or leaving an error pending for the next MARK, FENCE, CUT or HALT. -/
  | storePerform
  /-- V_INSTRUCTION_COMPLETION (R163). A V instruction completes after its latency, writing its result and, for a tile access, lowering its handle's busy count. -/
  | vInstructionCompletion
  /-- MQ_ROW (R208). One row of a running MQ is processed in the engine, feeding padding leaves through tree_step, with the first-NaN test and pi.m advancing by one. -/
  | mqRow
  /-- PAGE_MOVE_COMPLETE (R306). A migration move finishes its 64 KiB copy, rewrites the leaf, updates bitmap and counters and releases the held accesses to the new frame, or is abandoned on an uncorrectable atom. -/
  | pageMoveComplete
  /-- ENTROPY_HEALTH_PASS (R373). The entropy source passes its health tests again, and the requests and packets waiting on it proceed. -/
  | entropyHealthPass
  /-- DAILY_HISTOGRAM_SAMPLE (R383). Once each day the HBM4E correction counts of each B-die are sampled into histograms 8 to 19. -/
  | dailyHistogramSample
  deriving DecidableEq, Repr, Inhabited

end Sys2Proof
end

