-- ==== Sys2Proof/WellFormed.lean ====
section
/-! DEFINITION. What the encoding rules demand of an instruction beyond the widths of its fields: its sub-function code is
assigned (R63, else ILLEGAL_OPCODE) and none of its field values is declared reserved (else RESERVED_FIELD). -/

namespace Sys2Proof

/-- The instruction streams (R13) and the syllables of E bundles (R82). -/
inductive Stream where
  | s | v | m | c | f | e
  deriving DecidableEq, Repr, Inhabited

/-- Why the decoder refuses a word (R63, R64, R77). -/
inductive DecodeError where
  /-- ILLEGAL_OPCODE. -/
  | illegal
  /-- RESERVED_FIELD. -/
  | reserved
  /-- PREFIX_MISUSE. -/
  | misuse
  /-- NEST_CONFIG: a level field of 6 or 7 in the MN format. -/
  | nestConfig
  deriving DecidableEq, Repr, Inhabited

/-- The streams whose words can hold the instruction; none for an event. -/
def streamsOf : Instr → List Stream
  | .add .. => [.s]
  | .sub .. => [.s]
  | .and .. => [.s]
  | .or .. => [.s]
  | .xor .. => [.s]
  | .shl .. => [.s]
  | .shr .. => [.s]
  | .sra .. => [.s]
  | .mul .. => [.s]
  | .mulh .. => [.s]
  | .div .. => [.s]
  | .divu .. => [.s]
  | .rem .. => [.s]
  | .remu .. => [.s]
  | .min .. => [.s]
  | .max .. => [.s]
  | .minu .. => [.s]
  | .maxu .. => [.s]
  | .slt .. => [.s]
  | .sltu .. => [.s]
  | .clz .. => [.s]
  | .popc .. => [.s]
  | .addi .. => [.s]
  | .andi .. => [.s]
  | .ori .. => [.s]
  | .xori .. => [.s]
  | .shli .. => [.s]
  | .shri .. => [.s]
  | .srai .. => [.s]
  | .slti .. => [.s]
  | .sltui .. => [.s]
  | .lih .. => [.s]
  | .addpc .. => [.s]
  | .beq .. => [.s]
  | .bne .. => [.s]
  | .blt .. => [.s]
  | .bge .. => [.s]
  | .bltu .. => [.s]
  | .bgeu .. => [.s]
  | .jal .. => [.s]
  | .jalr .. => [.s]
  | .loop .. => [.s]
  | .ld .. => [.s]
  | .ldsx .. => [.s]
  | .st .. => [.s]
  | .ldc .. => [.s]
  | .fence .. => [.s]
  | .amoswap .. => [.s]
  | .amoadd .. => [.s]
  | .amoand .. => [.s]
  | .amoor .. => [.s]
  | .amoxor .. => [.s]
  | .amomin .. => [.s]
  | .amomax .. => [.s]
  | .amominu .. => [.s]
  | .amomaxu .. => [.s]
  | .cas .. => [.s]
  | .spt .. => [.s]
  | .spcGlobal .. => [.s]
  | .spcPrivate .. => [.s]
  | .spcTile .. => [.s]
  | .spcShared .. => [.s]
  | .spcOffset .. => [.s]
  | .toks .. => [.s]
  | .toksRemote .. => [.s]
  | .tokw .. => [.s]
  | .cue .. => [.s]
  | .gset .. => [.s]
  | .wfe .. => [.s]
  | .sev .. => [.s]
  | .cut .. => [.s]
  | .cutComplete .. => []
  | .domr .. => [.s]
  | .seedrd .. => [.s]
  | .rngk .. => [.s]
  | .rnga .. => [.s]
  | .folio .. => [.s]
  | .funbind .. => [.s]
  | .talloc .. => [.s]
  | .tfree .. => [.s]
  | .tinfo .. => [.s]
  | .tring .. => [.s]
  | .trap .. => [.s]
  | .csrr .. => [.s]
  | .csrw .. => [.s]
  | .csrs .. => [.s]
  | .pfx .. => [.s, .v, .m, .c, .f]
  | .vadd .. => [.v]
  | .vsub .. => [.v]
  | .vmul .. => [.v]
  | .vfma .. => [.v]
  | .vfms .. => [.v]
  | .vmin .. => [.v]
  | .vmax .. => [.v]
  | .vabs .. => [.v]
  | .vneg .. => [.v]
  | .vcmp .. => [.v]
  | .vsel .. => [.v]
  | .vcvt .. => [.v]
  | .vrnd .. => [.v]
  | .viadd .. => [.v]
  | .visub .. => [.v]
  | .vimul .. => [.v]
  | .vand .. => [.v]
  | .vor .. => [.v]
  | .vxor .. => [.v]
  | .vshl .. => [.v]
  | .vshr .. => [.v]
  | .vsra .. => [.v]
  | .vimin .. => [.v]
  | .vimax .. => [.v]
  | .vicmp .. => [.v]
  | .vbmul .. => [.v]
  | .vbdot .. => [.v]
  | .vbmac .. => [.v]
  | .vld .. => [.v]
  | .vst .. => [.v]
  | .vldx .. => [.v]
  | .vstx .. => [.v]
  | .vbcast .. => [.v]
  | .vmov .. => [.v]
  | .vperm .. => [.v]
  | .vshuf .. => [.v]
  | .vext .. => [.v]
  | .vins .. => [.v]
  | .vmset .. => [.v]
  | .vmand .. => [.v]
  | .vmor .. => [.v]
  | .vmnot .. => [.v]
  | .vmpop .. => [.v]
  | .vred .. => [.v]
  | .vscan .. => [.v]
  | .vfn .. => [.v]
  | .vgate .. => [.v]
  | .vstat .. => [.v]
  | .vnorm .. => [.v]
  | .vsmax .. => [.v]
  | .vsmxn .. => [.v]
  | .vx .. => [.v]
  | .vrng .. => [.v]
  | .vsyb .. => [.v]
  | .vsyw .. => [.v]
  | .vbr .. => [.v]
  | .vloop .. => [.v]
  | .vring .. => [.v]
  | .vtoks .. => [.v]
  | .vtokw .. => [.v]
  | .vcue .. => [.v]
  | .vflags .. => [.v]
  | .mnest .. => [.m]
  | .mfmt .. => [.m]
  | .mwld .. => [.m]
  | .mwldF .. => [.m]
  | .mwldS .. => [.m]
  | .macc .. => [.m]
  | .mgo .. => [.m]
  | .mgoF .. => [.m]
  | .msplit .. => [.m]
  | .mqOpen .. => [.m]
  | .mqClose .. => [.m]
  | .mtoks .. => [.m]
  | .mtokw .. => [.m]
  | .mcue .. => [.m]
  | .mring .. => [.m]
  | .cla .. => [.c]
  | .cadd .. => [.c]
  | .caddReg .. => [.c]
  | .ccpy .. => [.c]
  | .ccpyOut .. => [.c]
  | .ccpys .. => [.c]
  | .cwst .. => [.c]
  | .ctab .. => [.c]
  | .cgath .. => [.c]
  | .cscat .. => [.c]
  | .cxfer .. => [.c]
  | .cred .. => [.c]
  | .cbcst .. => [.c]
  | .cpref .. => [.c]
  | .cmig .. => [.c]
  | .crrd .. => [.c]
  | .cwaitm .. => [.c]
  | .ctoks .. => [.c]
  | .ctoksAll .. => [.c]
  | .ctokw .. => [.c]
  | .ctokwLd .. => [.c]
  | .ctokwAdd .. => [.c]
  | .ccue .. => [.c]
  | .cfence .. => [.c]
  | .cring .. => [.c]
  | .fload .. => [.f]
  | .fopen .. => [.f]
  | .fopenOut .. => [.f]
  | .fclose .. => [.f]
  | .fsched .. => [.f]
  | .fschedOff .. => [.f]
  | .fstart .. => [.f]
  | .fqry .. => [.f]
  | .ftoks .. => [.f]
  | .ftokw .. => [.f]
  | .fcue .. => [.f]
  | .fring .. => [.f]
  | .eAdd .. => [.e]
  | .eSub .. => [.e]
  | .eAnd .. => [.e]
  | .eOr .. => [.e]
  | .eXor .. => [.e]
  | .eShl .. => [.e]
  | .eShr .. => [.e]
  | .eCmp .. => [.e]
  | .eSel .. => [.e]
  | .eMin .. => [.e]
  | .eMax .. => [.e]
  | .eMul16 .. => [.e]
  | .ePopc .. => [.e]
  | .eMov .. => [.e]
  | .eCxch .. => [.e]
  | .eLdi .. => [.e]
  | .eLdiH .. => [.e]
  | .eLds .. => [.e]
  | .eSts .. => [.e]
  | .eLoop .. => [.e]
  | .eRecv .. => [.e]
  | .eSend .. => [.e]
  | .ePeek .. => [.e]
  | .eEmit .. => [.e]
  | .eEmitReg .. => [.e]
  | .eBub .. => [.e]
  | .lotteryGrant .. => []
  | .dierstComplete .. => []
  | .pageMigration .. => []
  | .migrationEpochEnd .. => []
  | .remoteReadRequest .. => []
  | .peerRequest .. => []
  | .boot .. => []
  | .resumption .. => []
  | .ucieFlitCrcError .. => []
  | .moduleRetrain .. => []
  | .moduleRetrainEnd .. => []
  | .vexfyFlitResend .. => []
  | .vexfyPortDown .. => []
  | .patrolScrub .. => []
  | .histogramSample .. => []
  | .powerLimitWindow .. => []
  | .vexfyPortTrained .. => []
  | .remoteCollectiveFrame .. => []
  | .loadDataReturn => []
  | .mark => [.s]
  | .cueReached => []
  | .sevDelivery => []
  | .cutArrival => []
  | .remoteTokenDelivery => []
  | .eret => [.s]
  | .halt => [.s]
  | .nop => [.s]
  | .vfork => [.v]
  | .vjoin => [.v]
  | .vnop => [.v]
  | .mwldComplete => []
  | .cwstPairing => []
  | .mwsw => [.m]
  | .mgoStep => []
  | .operandFetchComplete => []
  | .mwait => [.m]
  | .mwaitEnd => [.m]
  | .mnop => [.m]
  | .cxferArrival => []
  | .copyComplete => []
  | .cnop => [.c]
  | .runComplete => []
  | .fabricBound => []
  | .inputPortPush => []
  | .outputPortWrite => []
  | .fwait => [.f]
  | .fwaitEnd => [.f]
  | .eHalt => [.e]
  | .eNop => [.e]
  | .packetEnqueue => []
  | .packetDispatch => []
  | .launch => []
  | .pushseed => []
  | .popseed => []
  | .forkseed => []
  | .setlevel => []
  | .signal => []
  | .signalReport => []
  | .reelRetirement => []
  | .statqRead => []
  | .sliceSwitch => []
  | .waitHoldExpiry => []
  | .boundOverrun => []
  | .watchpoint => []
  | .watchpointMatch => []
  | .folioFrameLoad => []
  | .preemption => []
  | .contextRestore => []
  | .quiesceSaveTimeout => []
  | .ctxcmdResume => []
  | .ctxcmdRemove => []
  | .dierstReset => []
  | .dierstDisable => []
  | .dierstEnable => []
  | .xlinv => []
  | .xlinvComplete => []
  | .remapgo => []
  | .remapCommitComplete => []
  | .remapEntryWrite => []
  | .migcmd => []
  | .folreqRead => []
  | .folresp => []
  | .elogqRead => []
  | .elogcntWrite => []
  | .pchashWrite => []
  | .hbmctlWrite => []
  | .pccntWrite => []
  | .sramctlWrite => []
  | .migctlWrite => []
  | .pkgidWrite => []
  | .colltabWrite => []
  | .vxportWrite => []
  | .funcmodeWrite => []
  | .pwrctlWrite => []
  | .boctlWrite => []
  | .bootstatRetry => []
  | .bocmdEnter => []
  | .bocmdResume => []
  | .registerWrite => []
  | .bar2HostRead => []
  | .bar2HostWrite => []
  | .powerOff => []
  | .brownoutTrigger => []
  | .brownoutEntry => []
  | .brownoutHostTimeout => []
  | .drainWindowExpiry => []
  | .retentionLoss => []
  | .lifetimeCommit => []
  | .entropyHealthFailure => []
  | .storePerform => []
  | .vInstructionCompletion => []
  | .mqRow => []
  | .pageMoveComplete => []
  | .entropyHealthPass => []
  | .dailyHistogramSample => []

/-- The sub-function code of the instruction is one its rule assigns. Rules: R135 (type codes), R138, R140, R142, R147,
R148, R149, R150, R151, R152, R153, R154, R155. -/
def fnAssigned : Instr → Bool
  | .vadd _ _ _ _ f | .vsub _ _ _ _ f | .vmul _ _ _ _ f | .vmin _ _ _ _ f | .vmax _ _ _ _ f => f.toNat < 3
  | .vabs _ _ _ f | .vneg _ _ _ f => f.toNat < 3
  | .vcmp _ _ _ _ f => f.toNat < 8
  | .vcvt _ _ _ f => f.toNat < 15
  | .viadd _ _ _ _ f | .visub _ _ _ _ f | .vimul _ _ _ _ f => f.toNat < 3
  | .vimin _ _ _ _ f | .vimax _ _ _ _ f => f.toNat < 2
  | .vicmp _ _ _ _ f => f.toNat < 6
  | .vshuf _ _ _ _ f => f.toNat < 5
  | .vmset _ _ _ f => f.toNat < 3
  | .vred _ _ _ _ f => f.toNat < 6 || f.toNat == 7
  | .vscan _ _ _ f => f.toNat < 4
  | .vfn _ _ _ f => f.toNat < 14
  | .vgate _ _ _ g => g.toNat < 2
  | .vstat _ _ _ _ f | .vnorm _ _ _ _ f => f.toNat < 2
  | .vsmax _ _ _ _ f => f.toNat < 3
  | _ => true

/-- The modifier field of a prefix word is one its stream allows (R35, R67, R69). -/
def modsOk (st : Stream) (f : BitVec 12) : Bool :=
  let n := f.toNat
  let scope := n / 512; let order := n / 128 % 4; let cache := n / 32 % 4
  let round := n / 4 % 8; let sat := n / 2 % 2; let mv := n % 2
  match st with
  | .s => if mv == 0 then n == 0 else scope ≤ 4 && cache ≤ 2 && round == 0
  | .v => if mv == 0 then n % 512 == 0 else order == 0 && cache == 0 && round ≤ 3
  | .m => if mv == 0 then n == 0 else scope == 0 && order == 0 && cache ≤ 2 && round == 0 && sat == 0
  | .c => if mv == 0 then n == 0 else scope ≤ 4 && cache ≤ 2 && round == 0 && sat == 0
  | .f => n ≤ 1
  | .e => false

/-- None of the instruction's field values is one that its rule declares reserved. `st` matters to PFX alone (R67, R69). -/
def valuesOk (st : Stream) : Instr → Bool
  | .pfx g p e m f => !(g == 0 && p == 1) && !(m == 0 && e != 0) && !(st == .s && g != 0) && modsOk st f
  | .loop a _ => a != 0
  | .ldsx _ _ z _ => z != 3
  | .fence s => s.toNat ≤ 4
  | .toks _ c _ => c == 0 || c == 2
  | .toksRemote _ t _ _ => t.toNat ≤ 207
  | .tokw _ c => c == 1 || c == 3 || (6 ≤ c.toNat && c.toNat ≤ 13)
  | .gset d s v => s != 0 && (v == 0 || v == 2 || v == 3 || v == 4) && (v == 4 || d == 0)
  | .wfe _ m => m != 0
  | .domr _ l w => l != 0 && w.toNat ≤ 1
  | .seedrd _ h => h.toNat ≤ 1
  | .tinfo _ _ i => i.toNat ≤ 1
  | .tring r _ c => r.toNat ≤ 3 && c != 0
  | .vshuf _ _ b _ f => f != 4 || b == 0
  | .vbmul d _ _ _ _ _ => d.toNat % 2 == 0
  | .vmset d a _ f => d != 0 && (f == 0 || a == 0)
  | .vmand d _ _ _ | .vmor d _ _ _ => d != 0
  | .vmnot d _ _ => d != 0
  | .vred _ _ b _ f => f == 7 || b == 0
  | .vstat _ _ b k f => if f == 0 then b == 0 else k == 0
  | .vsmax _ a b k f => if f == 0 then b == 0 else if f == 1 then k == 0 else a == 0 && b == 0 && k == 0
  | .vrng _ _ c _ _ => c.toNat ≤ 2
  | .vring _ _ c => c != 0
  | .vtoks _ c => c == 1 || c == 4
  | .vtokw _ c => c == 0 || c == 5
  | .mnest l _ _ => l.toNat ≤ 5
  | .mfmt x t f =>
    (f == 6 || f == 8 || f == 9 || f == 10 || f == 11 || f == 12 || f == 15) && (t == 0 || f == 15) && (x == 0 || f == 10)
  | .macc n d m => n != 3 && m != 3 && (if m == 2 then d != 0 else d == 0)
  | .mqOpen n _ | .mqClose n _ => n != 0
  | .mtoks c _ => c == 1 || c == 4
  | .mtokw c => c == 0 || c == 5
  | .mring _ c _ => c != 0
  | .ccpy a _ _ s t | .ccpyOut a _ _ s t => a.toNat ≤ 12 && (t == 0 || s.toNat < 4)
  | .ccpys a _ _ _ => a.toNat ≤ 12
  | .cgath _ _ c _ _ | .cscat _ _ c _ _ => c.toNat ≤ 13
  | .cxfer a _ _ => a.toNat ≤ 14
  | .cwaitm m => m != 0
  | .ctoks _ _ c | .ctoksAll _ _ c => c == 3 || c == 5
  | .ctokw c => c == 2 || c == 4
  | .ctokwLd _ c | .ctokwAdd _ c => c == 2 || c == 4
  | .cfence s => s.toNat ≤ 4
  | .cring _ c _ => c != 0
  | .fsched _ p f | .fschedOff _ p f => f.toNat ≤ p.toNat
  | .fopen _ _ r l | .fopenOut _ _ r l => r == 1 || l == 0
  | .fstart w => w != 0
  | .fqry _ r w _ => r == 0 || w == 1 || w == 2
  | .ftoks c _ => c == 1 || c == 4
  | .ftokw c => c == 0 || c == 5
  | .fring _ c _ => c != 0
  | .eCmp _ _ _ cc => cc.toNat ≤ 5
  | .eCxch d c _ _ _ => d != c
  | .eRecv _ dir | .eSend _ dir | .ePeek _ dir => dir.toNat ≤ 4
  | .eEmit _ dir sc => dir.toNat ≤ 4 && sc != 1
  | .eEmitReg _ dir _ => dir.toNat ≤ 4
  | .eBub dir => dir.toNat ≤ 4
  | _ => true

/-- The instruction is a word of the stream that the decoder accepts. -/
def wellFormed (st : Stream) (i : Instr) : Bool :=
  (streamsOf i).contains st && fnAssigned i && valuesOk st i

end Sys2Proof
end

