-- ==== Sys2Proof/Config.lean ====
section
/-! DEFINITION. What the manual leaves open, as constants without a body: the order in which the agents of the package act,
the bytes of a stack whose hash has changed, the entropy source, the fuses, the module store and FIPS 204. -/

namespace Sys2Proof

/-- One choice of the schedule: which agent of the package acts next (log entry 2). -/
inductive Action where
  /-- A stream of a context takes one instruction word; `cl` is the cluster of a forked V stream. -/
  | stream (ctx : BitVec 12) (st : Stream) (cl : BitVec 4)
  /-- An event of the table that no instruction word starts happens, with the named context in focus. -/
  | event (ctx : BitVec 12) (i : Instr)
  /-- The host writes a register or FIFO word of BAR0 (R361). -/
  | hostWrite (off : BitVec 24) (v : W64)
  /-- The host reads a word of BAR0 (R361). -/
  | hostRead (off : BitVec 24)
  /-- The host reads BAR2 (R363), 2^z bytes. -/
  | bar2Read (off : BitVec 28) (z : BitVec 2)
  /-- The host writes BAR2 (R363), 2^z bytes. -/
  | bar2Write (off : BitVec 28) (z : BitVec 2) (v : W64)
  /-- The copy engine of a context reads or writes the next atom of its oldest copy (R234, R312). -/
  | copyUnit (ctx : BitVec 12)
  /-- The operand fetcher of a context moves its next atom (R204, R312). -/
  | fetchAtom (ctx : BitVec 12)
  /-- The fabric of a gather core completes one fabric cycle (R254). -/
  | fabricCycle (ctx : BitVec 12)
  /-- A bit of an atom of global memory, of a scratchpad word or of a private word fails (R291, R299, R300): the atom or word
  number, and whether the error is one that cannot be corrected. Log entry 10 (DESIGN CHOICE). -/
  | upsetAtom (atom : BitVec 38) (bad : Bool)
  | upsetWord (ctx : BitVec 12) (priv : Bool) (word : BitVec 20) (bad : Bool)
  /-- One core cycle passes (R7). -/
  | cycle
  deriving DecidableEq, Repr, Inhabited

namespace Config

/-- FREE VALUE: the action at tick `n` of a run whose agenda is empty (log entry 2). -/
opaque freeAction : Nat → Action

/-- FREE VALUE: the byte at a physical address of a stack after hash change number `epoch`, until written (R298).
Log entry 8 (DESIGN CHOICE). -/
opaque freeByte : Nat → Nat → Byte

/-- FREE VALUE: how many bytes of a failing operand fetch at a tick had been written before the failure (R204).
Log entry 8 (DESIGN CHOICE). -/
opaque freeCount : Nat → Nat

/-- FREE VALUE: a value the manual states no rule for, at a tick (log entries name its uses). -/
opaque freeWord : Nat → W64

/-- FREE VALUE: the word that a fabric port reads at a byte beyond the extent of its tile: context, take, number of the
FSTART, fabric cycle, scratchpad byte. Log entry 36 (DESIGN CHOICE). -/
opaque freeTileWord : Nat → Nat → Nat → Nat → Nat → W32

/-- FREE VALUE: whether another package refuses a remote read (R229, R309): package, stack, address, tick.
Log entry 9 (DESIGN CHOICE). -/
opaque remoteDenied : Nat → Nat → Nat → Nat → Bool

/-- FREE VALUE: byte at an address of another package's stack at a tick, none in an uncorrectable atom (R229, R309).
Log entry 9 (DESIGN CHOICE). -/
opaque remoteByte : Nat → Nat → Nat → Nat → Option Byte

/-- FREE VALUE: the n-th 128-bit value the entropy source issues (R373). Log entry 7 (DESIGN CHOICE). -/
opaque entropy : Nat → W128

/-- FREE VALUE: the fused digest KH of Moahan's public key (15_bringup). Log entry 7 (DESIGN CHOICE). -/
opaque fuseKH : List Byte

/-- FREE VALUE: the fused device secret UDS (15_bringup). -/
opaque fuseUDS : List Byte

/-- FREE VALUE: the fused security version fsvn (15_bringup). -/
opaque fuseFsvn : Nat

/-- FREE VALUE: the firmware images that the module store holds at manufacture, MEAS0 to MEAS6 in order (R369). -/
opaque factoryStore : List (List Byte)

/-- FREE VALUE: how the bytes of an image divide into public key, security version, signature and signed rest (R369);
none for a malformed image. The manual gives no image format. -/
opaque parseImage : List Byte → Option (List Byte × Nat × List Byte × List Byte)

/-- FREE VALUE: size of the image that the staging buffer begins with (R370). The manual gives no image format. -/
opaque imageSize : List Byte → Nat

/-- FREE VALUE: ML-DSA-44 verification of FIPS 204: public key, message, signature. -/
opaque mldsaVerify : List Byte → List Byte → List Byte → Bool

/-- FREE VALUE: ML-DSA-44 public key (1,312 bytes) of a 32-byte seed. -/
opaque mldsaPub : List Byte → Nat → Byte

/-- FREE VALUE: byte n of the ML-DSA-44 deterministic signature (2,420 bytes) under the key of a seed. -/
opaque mldsaSign : List Byte → List Byte → Nat → Byte

/-- FREE VALUE: the stepping code of IDENT (R362). Log entry 6 (DESIGN CHOICE). -/
opaque stepping : BitVec 8

/-- FREE VALUE: a message data word of an MSI-X table entry after power-on (R361 gives the table no reset).
Log entry 6 (DESIGN CHOICE). -/
opaque msixReset : Nat → W32

end Config
end Sys2Proof
end

