-- ==== Sys2Proof/Machine/State.lean ====
section
/-! DEFINITION. The state of the package: contexts (01_machine_state), reel instances and the hub (10_execution, 14_package,
15_bringup), physical memory and the B-dies (11_memory), and what is in flight between them. State is plain data. -/

namespace Sys2Proof.Machine

/-! ## Memory -/

/-- Sparse bytes by address: strictly rising addresses, no entry equal to what an unlisted address reads as. `junk` lists
the stacks whose hash has changed (index of the B-die, number of the change), newest first (R298). -/
structure Mem where
  cells : List Host.Cell := []
  junk : List (Nat × Nat) := []
  deriving DecidableEq, Repr, Inhabited

/-! ## What happens before (R314) -/

/-- A writer of global memory: a context and the code of its stream, 255 for the hub and the host, 254 for its save area (R295). -/
abbrev Agent := BitVec 12 × BitVec 8

/-- MODEL'S OWN: the writes that happen before a point of a stream: for each writer, the number of choices below which its writes
were performed (R314). Log entry 16 (DEDUCED). -/
abbrev Known := List (Agent × Nat)

/-- MODEL'S OWN: bytes that a release store wrote and nothing has overwritten, with what its stream had released, its scope and
context and its domain level (R314, R316). Log entry 16 (DEDUCED). -/
structure Mark where
  bytes : List Nat
  known : Known
  scope : BitVec 3
  ctx : BitVec 12
  dsl : Nat
  deriving DecidableEq, Repr, Inhabited

/-- MODEL'S OWN: what the streams of a context have acquired, and what waits to be acquired with a token, a guard slot, a ring's
slots, an event bit or a word of its scratchpad; and when its last copy completed (R314). Log entry 16 (DEDUCED). -/
structure Before where
  s : Known := []
  e : Known := []
  c : Known := []
  copied : Nat := 0
  tok : Vector (List Known) 14 := Vector.replicate 14 []
  gd : Vector Known 16 := Vector.replicate 16 []
  rings : List (BitVec 8 × List Known) := []
  ev : Vector Known 8 := Vector.replicate 8 []
  marks : List Mark := []
  deriving DecidableEq, Repr

/-! ## Streams -/

/-- A pending prefix word (R67) and the address it was fetched from. -/
structure Pfx where
  gslot : BitVec 4
  gpol : BitVec 1
  bexp : BitVec 4
  bman : BitVec 4
  mods : BitVec 12
  addr : W64
  deriving DecidableEq, Repr, Inhabited

/-- What a held instruction waits for: the wait code and the object of R283. -/
structure Wait where
  kind : BitVec 4
  obj : BitVec 20
  deriving DecidableEq, Repr, Inhabited

/-- The fetch side of one stream, or of one forked cluster (R13). -/
structure Strm where
  /-- Address of the next word (R13). -/
  pc : W64 := 0
  /-- The prefix word already fetched, if any (R71). -/
  pfx : Option Pfx := none
  /-- Sequence number of the next instruction (R328). -/
  seq : W64 := 0
  /-- The stream fetches nothing more: HALT, MWAIT.end, FWAIT.end, or no code section (R90, R130). -/
  halted : Bool := false
  /-- The wait the stream is held at, if it has tested its next instruction and held (R283). -/
  wait : Option Wait := none
  /-- Running cycles of the context when the next instruction reached its queue head (R68). -/
  headCc : Option Nat := none
  /-- The guard of the next instruction has been tested and lets it execute (R70). -/
  guardOk : Bool := false
  /-- Number of the cue instruction that directly precedes the next instruction (R278). -/
  afterCue : Option (BitVec 20) := none
  /-- The cycle in which the stream last issued (R92, R212: at most one instruction per cc). -/
  lastCc : Option Nat := none
  /-- The handle whose busy count the next instruction, a ring wait that has issued, holds (R128). -/
  busy : Option (BitVec 8) := none
  /-- MODDEF as it stood when the next instruction of an engine or copy stream reached its queue head (R35). -/
  mod : Option W64 := none
  /-- Running cycle of the context in which the stream last had its turn and kept its instruction (R282, R330). -/
  tried : Option Nat := none
  /-- The next instruction raises a cause, and waits for those that go first (R329, R330). -/
  trapping : Bool := false
  /-- The word at `pc`, once it has been fetched (R63, R299). -/
  word : Option W32 := none
  /-- The reel gives the context no code for this stream (R90). -/
  absent : Bool := false
  deriving DecidableEq, Repr, Inhabited

/-! ## The S stream's queues -/

/-- Where an access lands after the checks and the translation of its pointer (R31, R102). -/
inductive Loc where
  /-- Physical address, and the virtual address it came from. -/
  | glob (pa va : Nat)
  /-- Byte of the private memory of the accessing core. -/
  | priv (off : Nat)
  /-- Scratchpad byte of a logical core of the instance. -/
  | spad (core off : Nat)
  deriving DecidableEq, Repr, Inhabited

/-- A queued load (R103). `barL`, `barS`: every load, every store of the stream numbered below performs first. -/
structure LoadEnt where
  num : Nat
  ea : W64
  loc : Loc
  size : Nat
  d : BitVec 5
  sgn : Bool
  tnt : Bool
  acq : Bool
  cache : BitVec 2
  barL : Nat
  barS : Nat
  /-- The load has a cycle bound, and retires at its queue head when its data arrives (R68, R92, R93). -/
  head : Bool := false
  deriving DecidableEq, Repr, Inhabited

/-- A queued store (R103). -/
structure StoreEnt where
  num : Nat
  ea : W64
  loc : Loc
  size : Nat
  val : W64
  scope : BitVec 3
  rel : Bool
  cache : BitVec 2
  seq : W64
  barL : Nat
  barS : Nat
  /-- MODDEF's domain level at issue (R316). -/
  dsl : Nat := 0
  deriving DecidableEq, Repr, Inhabited

/-- An error of a performed access not yet raised (R104): the load's destination, none for a store; cause; TVAL. -/
structure SErr where
  d : Option (BitVec 5)
  cause : BitVec 7
  tval : W64
  deriving DecidableEq, Repr, Inhabited

/-- A token in the outbound buffer (R112). `due`: the cycle in which it enters its channel and the cycle of the cut whose
splice carries it, set at that cut (R113, R275). -/
structure OutTok where
  core : BitVec 8
  ch : BitVec 3
  val : W16
  due : Option (Nat × Nat)
  known : Known := []
  deriving DecidableEq, Repr, Inhabited

/-- The S stream's queues and buffers (R103, R104, R112, R117). -/
structure SQueues where
  loads : List LoadEnt := []
  stores : List StoreEnt := []
  errs : List SErr := []
  outq : List OutTok := []
  /-- Number of the next access. -/
  num : Nat := 0
  /-- Ordering bounds that later accesses inherit (R105, R313). -/
  barL : Nat := 0
  barS : Nat := 0
  /-- One more than the number of the last LDC (R313). -/
  ldcEnd : Nat := 0
  deriving DecidableEq, Repr, Inhabited

/-! ## Tiles, folios -/

/-- A tile-table entry (R17). -/
structure Tile where
  valid : Bool := false
  level : BitVec 3 := 0
  fmt : BitVec 4 := 0
  rows : W16 := 0
  cols : W16 := 0
  busy : BitVec 8 := 0
  base : BitVec 23 := 0
  size : BitVec 24 := 0
  slots : BitVec 8 := 0
  head : BitVec 8 := 0
  filled : BitVec 8 := 0
  deriving DecidableEq, Repr, Inhabited

/-- A folio slot entry (R25); `st`: 0 empty, 1 bound, 2 resident. -/
structure FolioSlot where
  st : BitVec 2 := 0
  nin : BitVec 6 := 0
  lat : BitVec 8 := 0
  image : BitVec 56 := 0
  hash : BitVec 48 := 0
  deriving DecidableEq, Repr, Inhabited

/-- A loadable frame of a physical core, the same in its 16 clusters (R26, R178). -/
structure Frame where
  valid : Bool := false
  ctx : BitVec 12 := 0
  slot : BitVec 6 := 0
  image : List Byte := []
  /-- Order of the last load or use, for replacement (R181). -/
  stamp : Nat := 0
  deriving DecidableEq, Repr, Inhabited

/-- The loadable frames of one physical core. -/
structure CoreFrames where
  socket : BitVec 6
  core : BitVec 4
  frames : Vector Frame 4
  deriving DecidableEq, Repr

/-! ## The vector engine -/

/-- One of the 16 clusters of a vector core (R14). -/
structure Cluster where
  v : Vector VReg 64 := Vector.replicate 64 0
  m : Vector MReg 7 := Vector.replicate 7 (BitVec.allOnes 256)
  /-- The cluster's own sequencer while forked (R158). -/
  st : Strm := {}
  /-- The address of the VJOIN it is held at (R158). -/
  join : Option W64 := none
  deriving DecidableEq, Repr

/-- A V instruction that has executed and not completed: its flags and the handle it keeps busy (R18, R133).
Log entry 14 (DEDUCED). -/
structure VPend where
  seq : W64
  flags : W32
  handle : Option (BitVec 8)
  deriving DecidableEq, Repr, Inhabited

/-- Vector engine state (R14, R158). -/
structure VState where
  cl : Vector Cluster 16 := Vector.replicate 16 {}
  y : W16 := 0
  forked : Bool := false
  pend : List VPend := []
  /-- The handles of the clusters of a lockstep VLDX or VSTX in progress (R145, R165). -/
  xh : List (BitVec 8) := []
  /-- The flags of the units that a lockstep VSTX has completed; they are raised when it completes (R133). -/
  xflags : BitVec 8 := 0
  deriving DecidableEq, Repr

/-! ## The matrix engine -/

/-- One level of a loop nest (R190). -/
structure NestLv where
  count : W32 := 1
  sa : W32 := 0
  su : W32 := 0
  sw : W32 := 0
  deriving DecidableEq, Repr, Inhabited

/-- A weight bank (R190). -/
structure Bank where
  fmt : BitVec 4 := 0
  nw : BitVec 14 := 0
  loaded : Bool := false
  bytes : Mem := {}
  deriving DecidableEq, Repr, Inhabited

/-- The long M instruction in progress (R191, R208); with pi.m it is the micro-program counter of R13.
Log entry 115 (DEDUCED). -/
structure MCur where
  i : Instr
  addr : W64
  seq : W64
  cache : BitVec 2
  headCc : Nat
  bound : Nat
  /-- The operand fetch is done, or there is none (R204). -/
  fetched : Bool
  /-- Number of the paired CWST, for a stream-form MWLD (R196). -/
  pair : Option W64
  /-- The global address the operand fetcher reads, captured at the queue head (R204). -/
  base : W64 := 0
  /-- An operand fetch in progress: its captured translations, and the bytes moved so far (R204, R312). -/
  pages : List (Nat × Nat) := []
  put : Nat := 0
  deriving DecidableEq, Repr, Inhabited

/-- Matrix engine state (R190). -/
structure MState where
  shadowNest : Vector NestLv 6 := Vector.replicate 6 {}
  activeNest : Vector NestLv 6 := Vector.replicate 6 {}
  /-- Activation format: fmt, Q4 type, x3 (R193). -/
  fmt : BitVec 4 := 0xB
  qt : BitVec 2 := 0
  x3 : BitVec 1 := 0
  /-- Accumulator mode, depth, arm bit (R200). -/
  mode : BitVec 2 := 0
  depth : BitVec 4 := 0
  arm : Bool := true
  j : BitVec 20 := 0
  active : Bank := {}
  shadow : Bank := {}
  cur : Option MCur := none
  /-- The format of the stream-form MWLD at the queue head that waits for its CWST (R196). -/
  want : Option (BitVec 4) := none
  deriving DecidableEq, Repr

/-! ## The copy engine -/

/-- A copy that has issued and not completed, with its captured operands (R212). -/
structure Copy where
  i : Instr
  seq : W64
  addr : W64
  /-- The address registers it names, in the order its rule reads them. -/
  ops : List W64
  /-- Captured translations: virtual 64 KiB page number and physical base (R215). -/
  pages : List (Nat × Nat)
  scope : BitVec 3
  order : BitVec 2
  cache : BitVec 2
  /-- Running cycles at the queue head, and the bound, 0 for none (R214). -/
  headCc : Nat
  bound : Nat
  /-- Handles kept busy (R17). -/
  handles : List (BitVec 8)
  /-- The code table captured by a CWST (R308). -/
  table : List W32
  /-- Take in which it issued (R225). -/
  take : W64
  /-- Cycle of issue, for the arrival time of a splice transfer (R225). -/
  issueCc : Nat
  /-- A splice transfer has left, or a collective has been gathered (R224, R226). -/
  sent : Bool
  /-- Contributions of remote packages to a collective (R227): rank, element, value. -/
  remote : List (Nat × Nat × W32)
  /-- What the frames of remote ranks say that their collective is (R226): rank, and the fields that must agree. -/
  heads : List (Nat × BitVec 48) := []
  /-- The bytes of the current unit, or of a collective's contribution and then of its result, that have been read; a byte that
  an error concerns is none (R215, R312). -/
  got : List (Option Byte) := []
  /-- Bytes of the current unit or result that have been written, and whether the result stands (R227, R312). -/
  put : Nat := 0
  combined : Bool := false
  /-- MODDEF's domain level and saturation at the queue head (R226). -/
  dsl : Nat := 0
  sat : Bool := false
  deriving DecidableEq, Repr, Inhabited

/-- A deferred copy error not yet raised (R215). -/
structure CErr where
  seq : W64
  sb : BitVec 3
  cause : BitVec 7
  val : W32
  deriving DecidableEq, Repr, Inhabited

/-- Copy-stream state (R211, R212, R220). -/
structure CState where
  a : Vector W64 16 := Vector.replicate 16 0
  sb : Vector W16 8 := Vector.replicate 8 0
  copies : List Copy := []
  errs : List CErr := []
  /-- Active and shadow code tables of the weight decompressor (R220): entry c is the word c at creation, a literal of c + 1 bytes. -/
  activeTab : Vector W32 256 := Vector.ofFn fun i => BitVec.ofNat 32 i.val
  shadowTab : Vector W32 256 := Vector.ofFn fun i => BitVec.ofNat 32 i.val
  shadowWritten : Bool := false
  deriving DecidableEq, Repr

/-! ## The fabric -/

/-- A stream word (R238): data and code 2·LR + LS. -/
structure FWord where
  data : W32
  code : BitVec 2
  deriving DecidableEq, Repr, Inhabited

/-- A port binding (R250). -/
structure Port where
  handle : BitVec 8
  out : Bool
  rag : Bool
  hl : BitVec 8
  row : W32 := 0
  col : W32 := 0
  /-- The stream has ended: the last word is pushed, or a code 3 word was written (R251, R252). -/
  ended : Bool := false
  deriving DecidableEq, Repr, Inhabited

/-- What a port has done in the fabric cycle in progress: a word pushed or written with the port's next position, an error of
R253 or an uncorrectable word of a tile (R291). -/
inductive PMove where
  | push (w : FWord) (p : Port)
  | took (p : Port)
  | bad (reason : BitVec 4)
  | ecc (h : BitVec 8) (off : Nat)
  deriving DecidableEq, Repr, Inhabited

/-- A fabric element (R237). -/
structure Elem where
  loop : Vector (BitVec 96) 64 := Vector.replicate 64 0
  n : BitVec 7 := 0
  loaded : Bool := false
  pc : BitVec 6 := 0
  halted : Bool := true
  e : Vector W32 16 := Vector.replicate 16 0
  lmem : Vector W32 256 := Vector.replicate 256 0
  /-- Period less one, phase, off (R249). -/
  per : BitVec 4 := 0
  pha : BitVec 4 := 0
  off : Bool := false
  /-- Input queues north, east, south, west, port, at most 2 words each (R239). -/
  q : Vector (List FWord) 5 := Vector.replicate 5 []
  port : Option Port := none
  outq : List FWord := []
  /-- The element takes part in the run in progress (R254). -/
  started : Bool := false
  deriving DecidableEq, Repr

/-- The fabric (R236 to R256). -/
structure FState where
  el : Vector Elem 64 := Vector.replicate 64 {}
  /-- Words moved by each port in the last run, modulo 2^16 (R256). -/
  lastMoved : Vector W16 64 := Vector.replicate 64 0
  /-- The window of the run in progress; its FSTART is at the queue head (R254). -/
  run : Option (BitVec 20) := none
  /-- What the ports have done in the fabric cycle in progress: element and move (R251, R252). -/
  moves : List (BitVec 6 × PMove) := []
  /-- The core cycle, of those in which the context has been running, that last counted as a fabric cycle (R240). -/
  lastCc : Option Nat := none
  deriving DecidableEq, Repr

/-! ## Contexts -/

/-- Where the state of a context is held (R12, R334, R337). -/
inductive Life where
  /-- No such context. -/
  | none
  /-- Held in a physical core. -/
  | running
  /-- Held in its save area. -/
  | saved
  /-- Held in its save area, stopped for the host. -/
  | stopped
  /-- Removed. -/
  | removed
  deriving DecidableEq, Repr, Inhabited

/-- The trap registers as kept across a FOLIO_ABSENT handler (R183), and the trapping slot. -/
structure KeptTrap where
  cause : W64
  tval : W64
  epc : W64
  tseqs : W64
  tseqe : W64
  tseqc : W64
  slot : BitVec 6
  /-- The cluster whose VX has trapped, while the clusters are forked. -/
  cl : Option (BitVec 4) := none
  deriving DecidableEq, Repr, Inhabited

/-- Trap state of a context (R32, R331). -/
structure TrapState where
  tvec : W64 := 0
  epc : W64 := 0
  cause : BitVec 7 := 0
  tval : W64 := 0
  tseqs : W64 := 0
  tseqe : W64 := 0
  tseqc : W64 := 0
  fvec : W64 := 0
  hmode : Bool := false
  kept : Option KeptTrap := none
  /-- A folio load is under way before the V stream resumes (R180): the slot, and 0 not begun, 1 asked of the host, 2 granted
  by it, 3 refused (R182). -/
  load : Option (BitVec 6 × BitVec 2) := none
  /-- The frame that the load under way has chosen (R180 step 1), and the cluster of its VX while the clusters are forked. -/
  loadFrame : BitVec 2 := 0
  loadCl : Option (BitVec 4) := none
  /-- The pending WATCHPOINT report (R336). -/
  wpend : Option W64 := none
  deriving DecidableEq, Repr, Inhabited

/-- A context: the complete visible state of one logical core running one reel (01_machine_state). -/
structure Ctx where
  /-- 256 × instance + logical core (R11). -/
  id : BitVec 12 := 0
  life : Life := .none
  member : W64 := 0
  /-- Determinism level in force (R277), and the cue sheet in use (R32). -/
  level : BitVec 2 := 0
  castcls : W16 := 0xFFFF
  moddef : W64 := 0x6600
  nflags : W32 := 0
  /-- The flags raised in one running cycle, and that cycle: a CSRW of the same cycle does not clear them (R29). -/
  raised : Nat × W32 := (0, 0)
  take : W64 := 0
  /-- The cycle at which TAKECC was 0 (R32). -/
  takeStart : Nat := 0
  /-- The take is demoted for this context (R279). -/
  demoted : Bool := false
  /-- Cycles in which the context has run (R270, R282). -/
  runCc : Nat := 0
  /-- Consecutive cycles in which every stream was held (R270). -/
  holdCc : Nat := 0
  /-- The route tag whose cut it has arrived at (R118). -/
  arrived : Option (BitVec 3) := none
  /-- The write of its save area waits for the homes that hold it, and for S accesses that a removal has left to perform; the
  vector that follows it, 0 for none (R298, R306, R334, R337). -/
  imageDue : Option (BitVec 6) := none
  t : TrapState := {}
  /-- The S, engine and C streams (R13). -/
  s : Strm := {}
  e : Strm := {}
  c : Strm := {}
  g : Vector W64 32 := Vector.replicate 32 0
  taint : W32 := 0
  events : BitVec 8 := 0
  sq : SQueues := {}
  gd : Vector (BitVec 2) 16 := Vector.replicate 16 0
  /-- The guard slots that queue heads have found resolved in one running cycle, and that cycle (R21). -/
  tested : Nat × W16 := (0, 0)
  rn : Vector (W128 × W128) 16 := Vector.replicate 16 (0, 0)
  tok : Vector (List W16) 14 := Vector.replicate 14 []
  tiles : Vector Tile 256 := Vector.replicate 256 {}
  folio : Vector FolioSlot 64 := Vector.replicate 64 {}
  piV : W32 := 0
  piM : W32 := 0
  piC : W32 := 0
  piF : W32 := 0
  spad : Mem := {}
  priv : Mem := {}
  /-- Scratchpad and private words with an uncorrectable error (R291): word numbers. -/
  badSpad : List Nat := []
  badPriv : List Nat := []
  /-- Words with an error that no read has met yet: word number, and whether it is a double one (R291). -/
  flipSpad : List (Nat × Bool) := []
  flipPriv : List (Nat × Bool) := []
  v : VState := {}
  m : MState := {}
  cp : CState := {}
  f : FState := {}
  hb : Before := {}
  deriving DecidableEq, Repr

/-! ## Reel instances -/

/-- A seed-stack or level change waiting for its cut (R24, R277, R287). -/
structure Change where
  op : BitVec 8
  tag : W16
  arg : W32
  seed : W128
  take : W64
  /-- Its take had passed when the sequencer executed it (R287). -/
  late : Bool
  deriving DecidableEq, Repr, Inhabited

/-- A command packet (R261). -/
structure Packet where
  w0 : W64
  w1 : W64
  w2 : W64
  w3 : W64
  deriving DecidableEq, Repr, Inhabited

/-- A change applied, as the run record lists it (R372): op, TAKE, argument, seed. -/
structure RunChange where
  op : BitVec 8
  take : W32
  arg : W64
  seed : W128
  deriving DecidableEq, Repr, Inhabited

/-- An SEV on its way (R117): target context, bits, the cycle of arrival. -/
structure SevFlight where
  ctx : BitVec 12
  bits : BitVec 8
  due : Nat
  known : Known := []
  deriving DecidableEq, Repr, Inhabited

/-- What the resume point of an instance holds (R379): contexts, seed stack, pending changes, levels, and the journal: each
granule of 256 bytes changed since (address / 256) with its contents at the resume point. Log entry 68 (DEDUCED). -/
structure Resume where
  ctxs : List Ctx
  seeds : List W128
  pending : List Change
  level : BitVec 2
  castcls : W16
  take : W64
  undo : List (Nat × List Byte)
  /-- SEVs on their way, and the cycle of the resume point. -/
  sevs : List SevFlight
  cc : Nat
  /-- The journal has overflowed. -/
  overflow : Bool
  deriving DecidableEq, Repr

/-- A reel instance (10_execution). -/
structure Inst where
  /-- The instance holds a reel. -/
  holds : Bool := false
  /-- Packets moved to the instance (R260), and the one granted to it by the lottery that waits to execute. -/
  pkts : List Packet := []
  granted : Bool := false
  /-- The granted packet waits: a SIGNAL for earlier changes (R261), a seed for the entropy source (R373). -/
  waiting : Bool := false
  tag : W16 := 0
  tickets : BitVec 8 := 0
  launchLevel : BitVec 2 := 0
  launchCast : W64 := 0
  launchCls : W16 := 0xFFFF
  tfd : Bool := false
  btcfg : Vector W16 8 := Vector.replicate 8 0
  /-- Cuts completed on each route tag (R14, R32). -/
  btcnt : Vector W32 8 := Vector.replicate 8 0
  mtk : Vector (BitVec 8) 208 := Vector.replicate 208 0
  ptk : Vector (BitVec 8) 16 := Vector.replicate 16 0
  reelHash : List Byte := []
  slateHash : List Byte := []
  /-- Cue sheets in order: class, and (cue number, cycle) records (R90, R266); cue count N (R115). -/
  sheets : List (W64 × List (W32 × W32)) := []
  cues : Nat := 0
  launchCc : Nat := 0
  seeds : List W128 := []
  /-- Requested level, level in force, cue sheet in use (R277). -/
  reqLevel : BitVec 2 := 0
  level : BitVec 2 := 0
  castcls : W16 := 0xFFFF
  /-- The remap has changed: CASTCLS is chosen again at the next package cut (R269). -/
  recls : Bool := false
  pending : List Change := []
  ptroot : W64 := 0
  savebase : W64 := 0
  runrec : W64 := 0
  remap : Vector W32 208 := Vector.replicate 208 0
  staged : List (BitVec 8 × W32) := []
  changes : List RunChange := []
  changeCount : W16 := 0
  changeDigest : List Byte := []
  seedDigest : List Byte := []
  /-- Flags byte of the run record (R372). -/
  recFlags : BitVec 8 := 0
  resume : Option Resume := none
  deriving DecidableEq, Repr

/-! ## The hub -/

/-- A status record (R262). -/
structure Status where
  code : BitVec 8
  tag : W16
  inst : BitVec 4
  op : BitVec 8
  value : W64
  deriving DecidableEq, Repr, Inhabited

/-- An error log record of four words (R367). -/
structure ELog where
  w0 : W64
  w1 : W64
  w2 : W64
  w3 : W64
  deriving DecidableEq, Repr, Inhabited

/-- A folio request (R366), and how many of its words the host has read is not state: a read of the last word removes it. -/
structure FolReq where
  ctx : BitVec 12
  slot : BitVec 6
  image : BitVec 56
  hash : BitVec 48
  deriving DecidableEq, Repr, Inhabited

/-- The phase of a die operation in progress (R353). -/
structure DieOp where
  socket : BitVec 6
  op : BitVec 2
  /-- The cycle in which the operation began. -/
  q : Nat
  /-- The die has entered quiesce, and its links are fenced (R353 steps 2 and 3). -/
  fenced : Bool := false
  /-- The remap tables that take effect once every context that moves is saved: instance and entries (R353 step 1). -/
  tables : List (BitVec 4 × Vector W32 208)
  deriving DecidableEq, Repr

/-- The power state of R375 and the phase of a brown-out (R377 to R381). -/
inductive Power where
  /-- Unpowered. -/
  | off
  /-- Boot or active (BOOTSTAT tells which). -/
  | on
  /-- Trigger seen under FUNCMODE.brown = 1, waiting for the host (R377). -/
  | triggered
  /-- Entry under way: streams stopped or draining (R380). -/
  | entering
  /-- Retention. -/
  | retention
  /-- Resumption waits for the host (R381). -/
  | waiting
  deriving DecidableEq, Repr, Inhabited

/-- What the retention region keeps (R380): for each instance that survives, what it restarts from; the measurements. -/
structure Retained where
  insts : List (BitVec 4 × Resume)
  meas : List (List Byte)
  deriving DecidableEq, Repr

/-- The access the host presents on its bus: BAR0 or BAR2 offset, size code, data (R361, R363). Log entry 95 (DESIGN CHOICE). -/
structure Bus where
  off : BitVec 28 := 0
  z : BitVec 2 := 3
  v : W64 := 0
  deriving DecidableEq, Repr, Inhabited

/-- A context block: the watchpoints of R310, and CTXSTAT as its last context left it when its reel retired (R368).
Log entry 72 (DEDUCED). -/
structure CtxBlock where
  wpaddr : Vector W64 4 := Vector.replicate 4 0
  wpctl : Vector W64 4 := Vector.replicate 4 0
  /-- The comparators installed for each watchpoint: virtual page and physical frame, of 64 KiB (R311). -/
  wpat : Vector (List (Nat × Nat)) 4 := Vector.replicate 4 []
  stat : W64 := 0
  deriving DecidableEq, Repr, Inhabited

/-- The hub's registers and FIFOs (14_package, 15_bringup). Log entry 5 (DESIGN CHOICE). -/
structure Hub where
  bus : Bus := {}
  /-- The value the last host read returned. -/
  hostOut : W64 := 0
  cmdq : List Packet := []
  stage : Vector W64 4 := Vector.replicate 4 0
  /-- Packets discarded since the last record of code 0x07 (R260). -/
  dropped : W64 := 0
  statq : List Status := []
  /-- Records the sequencer holds while the status FIFO is full (R364). -/
  statWait : List Status := []
  product : BitVec 8 := 0x36
  good : BitVec 36 := 0
  /-- Dies the host has disabled (R352). -/
  disabled : BitVec 36 := 0
  pkgid : W16 := 0
  funcmode : BitVec 6 := 0
  /-- The mig bit in force, which follows FUNCMODE.mig at epoch ends (R366). -/
  migMode : BitVec 1 := 0
  dieOp : Option DieOp := none
  dieFail : Bool := false
  /-- Writes held while an operation is in progress (R352). -/
  dieHeld : List W64 := []
  /-- Invalidation in progress: its value and the cycle it began; a write held meanwhile (R304). -/
  xl : Option (W64 × Nat) := none
  xlHeld : List W64 := []
  bar2 : W64 := 0
  linkUp : Vector (BitVec 8) 36 := Vector.replicate 36 0
  linkFailed : Vector (BitVec 8) 36 := Vector.replicate 36 0
  linkCrc : Vector W16 36 := Vector.replicate 36 0
  /-- The dies whose modules are powered and have trained (R387). -/
  trained : BitVec 36 := 0
  /-- Recent CRC errors of a module: socket, module, cycle (R351). -/
  crcLog : List (Nat × Nat × Nat) := []
  /-- Modules out of service and retraining: socket, module, the cycle it was taken out (R351). -/
  retrain : List (Nat × Nat × Nat) := []
  colltab : Vector W64 64 := Vector.replicate 64 0
  windows : Vector (W64 × W64) 16 := Vector.replicate 16 (0, 0)
  folreq : List FolReq := []
  /-- The instance of a remap commit in progress, the fail bit, and the writes held meanwhile, oldest first (R389, R390). -/
  remapBusy : Option (BitVec 4) := none
  remapFail : Bool := false
  remapHeld : List Bus := []
  elogq : List ELog := []
  elogLost : W32 := 0
  /-- Vectors sent to the host, oldest first; events retained while their vector is masked; MSI-X table words (R365). -/
  msix : List (BitVec 6) := []
  msixHeld : List (BitVec 6) := []
  msixTab : List (Nat × W32) := []
  /-- BOOTSTAT.state, stage, reason (R370). -/
  boot : BitVec 4 := 0
  bootStage : BitVec 4 := 0
  bootReason : BitVec 4 := 0
  /-- The restarted chain takes stage 1 from the staging buffer (R370). -/
  fromStaging : Bool := false
  staging : Mem := {}
  /-- Module store: firmware images accepted from the staging buffer, newest first (R370). -/
  storeImg : Option (List Byte) := none
  meas : Vector (List Byte) 7 := Vector.replicate 7 (List.replicate 32 0)
  limit : W16 := 4500
  pwr : W16 := 0
  gate : BitVec 6 := 0
  boWin : BitVec 8 := 100
  boArm : Bool := true
  boJen : Bool := false
  bostat : W64 := 0
  power : Power := .on
  /-- Instances that have stopped at a brown-out entry (R380); the host lets the resumption proceed (R378). -/
  drained : BitVec 16 := 0
  resumeOk : Bool := false
  retained : Option Retained := none
  seedLog : List (Nat × List Byte) := []
  slogCnt : W64 := 0
  /-- Entropy values issued so far, and whether the health tests pass (R373). -/
  entropyN : Nat := 0
  entropyOk : Bool := true
  /-- Lottery generators that have been drawn from or seeded apart (R285): unit number and state. -/
  lottery : List (Nat × W32) := []
  /-- The units' grants in the cycle of their last: unit and cycle (R284). -/
  granted : List (Nat × Nat) := []
  /-- The lottery seed in use, from which a unit without an entry starts (R285). -/
  lotbase : W32 := 0
  /-- Lifetime counters and histogram bins, live and committed (R383). -/
  life : List (Nat × W64) := []
  lifeSaved : List (Nat × W64) := []
  bins : List (Nat × W32) := []
  binsSaved : List (Nat × W32) := []
  /-- Corrections seen at the last daily sample, by B-die (R383). -/
  dayBase : List (Nat × W64) := []
  /-- Context blocks that do not stand at reset, by context (R310, R368). -/
  blocks : List (BitVec 12 × CtxBlock) := []
  deriving DecidableEq, Repr

/-! ## B-dies, ports, flights -/

/-- Registers of a B-die block (R294, R297, R300, R305, R309). -/
structure BDie where
  pchash : Vector (BitVec 23) 6 := Vector.ofFn fun i => BitVec.ofNat 23 (2 ^ (7 + i.val))
  scrub : BitVec 5 := 16
  hlock : Bool := false
  en : Bool := false
  hbmCor : W32 := 0
  hbmUnc : W32 := 0
  lpCor : W32 := 0
  lpUnc : W32 := 0
  retain : BitVec 6 := 0
  migctl : W64 := 0x180140000000
  migbase : W64 := 0
  migrmap : W64 := 0
  migcnt : W64 := 0
  pccnt : Vector W32 64 := Vector.replicate 64 0
  /-- The pseudo-channels of the granules counted in one cycle, and that cycle: they add to a value that the host writes in it
  (R384). -/
  pcNow : Nat × List Nat := (0, [])
  act : Vector (W64 × W64) 64 := Vector.replicate 64 (0, 0)
  deriving DecidableEq, Repr

/-- A line of B-die SRAM (R294), most recently used first in its list: line number, partition, dirty, the bytes DRAM holds
while it is dirty, and whose writes it holds: each writer, and the number of choices at its first write (R295). -/
structure Line where
  line : Nat
  retain : Bool
  dirty : Bool
  old : List Byte
  who : List (Agent × Nat)
  deriving DecidableEq, Repr, Inhabited

/-- A Vexfy port (R355, R356). -/
structure VxPort where
  en : Bool := false
  up : Bool := false
  peer : W16 := 0
  retry : W16 := 0
  /-- Failed resends in a row (R355). -/
  fails : Nat := 0
  deriving DecidableEq, Repr, Inhabited

/-- A splice transfer on its way (R224, R225): sender, the copy's number, target context, handle, offset, bytes, and the
cycle of its last byte, 0 where the sender is not timed. -/
structure XferFlight where
  src : BitVec 12
  seq : W64
  dst : BitVec 12
  h : BitVec 8
  off : Nat
  /-- A byte that an error of the source concerns is none (R215). -/
  bytes : List (Option Byte)
  due : Nat
  /-- The cycle in which the first word arrives (R8). -/
  first : Nat := 0
  /-- The checks at the target have passed, and it writes there: the handle counts as busy (R224). -/
  begun : Bool := false
  /-- Bytes written so far, whole atoms but for the first (R312). -/
  put : Nat := 0
  deriving DecidableEq, Repr, Inhabited

/-- A cut whose last participant has arrived (R273): instance, tag, the cycle in which it completes. -/
structure CutFlight where
  inst : BitVec 4
  tag : BitVec 3
  due : Nat
  deriving DecidableEq, Repr, Inhabited

/-- A page move in progress (R306): B-die, source frame, destination frame. -/
structure PageMove where
  b : BitVec 4
  src : Nat
  dst : Nat
  leafPa : Nat
  deriving DecidableEq, Repr, Inhabited

/-- A matching write on its way to the hub (R311): the watching context and the report. -/
structure WpMatch where
  ctx : BitVec 12
  tval : W64
  deriving DecidableEq, Repr, Inhabited

/-- A migration request the engine holds (R231, R306): B-die, frame. -/
structure MigReq where
  b : BitVec 4
  f : Nat
  /-- It has been handed to the host, which finishes it (R366). -/
  host : Bool := false
  deriving DecidableEq, Repr, Inhabited

/-- This package's reply to the read request of a remote package or peer (R309, R359): 0 data, 1 refused, 2 an error
completion. -/
structure RdReply where
  pkg : W16
  code : BitVec 2
  bytes : List Byte
  deriving DecidableEq, Repr, Inhabited

/-- The stream in which the machine acts, its cluster, and the instance of an event (MODEL'S OWN).
Log entry 95 (DESIGN CHOICE). -/
structure Cursor where
  st : Stream := .s
  cl : BitVec 4 := 0
  inst : BitVec 4 := 0
  /-- The fabric element of a syllable on its own. -/
  el : BitVec 6 := 0
  /-- The socket for which the flit of the access that the event performs has failed its CRC (R351). -/
  loss : Option (BitVec 6) := none
  deriving DecidableEq, Repr, Inhabited

/-- The package. `me` is the context in focus and `rest` the other contexts in ascending CTXID. -/
structure State where
  me : Ctx := {}
  rest : List Ctx := []
  cur : Cursor := {}
  /-- MODEL'S OWN: the choices of the schedule still to come, and the number of choices taken. -/
  agenda : List Action := []
  tick : Nat := 0
  /-- Core cycles since power-on (R7). -/
  cc : Nat := 0
  insts : Vector Inst 16 := Vector.replicate 16 {}
  hub : Hub := {}
  bdies : Vector BDie 12 := Vector.replicate 12 {}
  ports : Vector VxPort 18 := Vector.replicate 18 {}
  cores : List CoreFrames := []
  mem : Mem := {}
  sram : List Line := []
  /-- Poisoned global atoms (R299): physical address / 32. -/
  poison : List Nat := []
  /-- Global atoms with an error that no read has met yet: atom number, and whether it is uncorrectable (R299, R300). -/
  flips : List (Nat × Bool) := []
  sevs : List SevFlight := []
  xfers : List XferFlight := []
  cuts : List CutFlight := []
  moves : List PageMove := []
  migReqs : List MigReq := []
  matches_ : List WpMatch := []
  /-- MODEL'S OWN: release stores to global memory, by physical address (R314). -/
  marks : List Mark := []
  replies : List RdReply := []
  deriving DecidableEq, Repr

/-- Reasons to stop with a fault. -/
inductive Fault where
  /-- Raised by the hub's own accesses (a save, a restore, a run record, a page move) to a physical address that R292 gives
  no contents: the manual requires system software not to place these there and gives no effect. Safe. -/
  | physicalHole (pa : Nat)
  deriving DecidableEq, Repr

/-- Reasons to refuse. -/
inductive Refusal where
  /-- Raised by the dispatcher for an instruction without a meaning. Safe. -/
  | notModelled (mnemonic : String)
  deriving DecidableEq, Repr

/-- The package at power-on, before the boot chain has run (R297, R345, R370): every field at its reset value. The product
is an XN-36. Log entries 1, 5 (DESIGN CHOICE). -/
def State.reset : State := {}

end Sys2Proof.Machine
end

