-- ==== Sys2Proof/Machine/Agents.lean ====
section
/-! DEFINITION. Which row of the table an access of the host to BAR0 is (R361, R362, R368, R370, R378). -/

namespace Sys2Proof.Machine

/-- The row of a write to the hub block (R362). -/
def hubWriteRow (off : Nat) (v : W64) : Instr :=
  let op := v.extractLsb' 6 2
  let cmd := v.extractLsb' 0 2
  if 0x400 ≤ off && off < 0x600 then .colltabWrite
  else
    match off with
    | 0x008 => .pkgidWrite
    | 0x010 => .funcmodeWrite
    | 0x018 => if op = 1 then .dierstReset else if op = 2 then .dierstDisable else if op = 3 then .dierstEnable else .registerWrite
    | 0x040 => .xlinv
    | 0x058 => .remapgo
    | 0x920 => .folresp
    | 0xA80 => .pwrctlWrite
    | 0xA90 => .boctlWrite
    | 0xAA0 => if cmd = 1 then .bocmdEnter else if cmd = 2 then .bocmdResume else .registerWrite
    | 0xAB0 => if v.getLsbD 63 then .bootstatRetry else .registerWrite
    | 0xB20 => .elogcntWrite
    | _ => .registerWrite

/-- The row of a write to a B-die block. -/
def bdieWriteRow (off : Nat) : Instr :=
  if off < 0x30 then .pchashWrite
  else if 0x100 ≤ off && off < 0x300 then .pccntWrite
  else
    match off with
    | 0x30 => .hbmctlWrite
    | 0x48 => .sramctlWrite
    | 0x50 => .migctlWrite
    | 0x70 => .migcmd
    | _ => .registerWrite

/-- The row of a write to a context block (R368). -/
def ctxWriteRow (off : Nat) (v : W64) : Instr :=
  if off % 256 = 0x48 && off / 256 % 256 < 208 then
    if v.extractLsb' 0 2 = 1 then .ctxcmdResume else if v.extractLsb' 0 2 = 2 then .ctxcmdRemove else .registerWrite
  else .registerWrite

/-- The row of a host write to BAR0 (R361). -/
def hostWriteRow (off : Nat) (v : W64) : Instr :=
  if 0x40000 ≤ off && off < 0x44000 then .remapEntryWrite
  else if off % 8 ≠ 0 then .registerWrite
  else if off < 0x10000 then hubWriteRow off v
  else if off = 0x10018 then .packetEnqueue
  else if 0x100000 ≤ off && off < 0x200000 then bdieWriteRow (off % 0x10000)
  else if 0x200000 ≤ off && off < 0x300000 then (if off % 0x10000 < 0x30 then .vxportWrite else .registerWrite)
  else if 0x400000 ≤ off && off < 0x500000 then ctxWriteRow off v
  else .registerWrite

/-- The row of a host read of BAR0 that does more than answer a value (R364, R366, R367). -/
def hostReadRow (off : Nat) : Option Instr :=
  match off with
  | 0x20008 => some .statqRead
  | 0x918 => some .folreqRead
  | 0xB18 => some .elogqRead
  | _ => none

/-- The rows that only an access of the host starts. -/
def onBusOnly : Instr → Bool
  | .packetEnqueue | .statqRead | .folreqRead | .elogqRead | .pkgidWrite | .funcmodeWrite | .dierstReset | .dierstDisable
  | .dierstEnable | .xlinv | .remapgo | .remapEntryWrite | .colltabWrite | .folresp | .pwrctlWrite | .boctlWrite | .bocmdEnter
  | .bocmdResume | .bootstatRetry | .elogcntWrite | .pchashWrite | .hbmctlWrite | .pccntWrite | .sramctlWrite | .migctlWrite
  | .migcmd | .vxportWrite | .ctxcmdResume | .ctxcmdRemove | .registerWrite | .bar2HostRead | .bar2HostWrite => true
  | _ => false

end Sys2Proof.Machine
end

