-- ==== Sys2Proof/Machine/Num.lean ====
section
/-! DEFINITION. Binary floating point of 02_arithmetic: formats, exact values, the rounding helper, lane operations, conversions. -/

namespace Sys2Proof.Machine

/-! ### Flags (R28) -/

/-- The NFLAGS bits [7:0] that an operation raises. -/
abbrev Flags := BitVec 8

def fNv : Flags := 0x01
def fDz : Flags := 0x02
def fOf : Flags := 0x04
def fUf : Flags := 0x08
def fNx : Flags := 0x10
def fSat : Flags := 0x20
def fEmptyRow : Flags := 0x40
def fNanin : Flags := 0x80

/-- `f` when `c` holds, no flag otherwise. -/
def Flags.when (c : Bool) (f : Flags) : Flags := if c then f else 0

/-! ### Rounding modes (R34, R47) -/

inductive Rm where
  | rne | rtz | rup | rdn
  deriving DecidableEq, Repr

/-- The codes of MODDEF.round: 000 nearest-even, 001 toward zero, 010 toward +inf, 011 toward −inf (R34). -/
def Rm.ofCode (c : BitVec 3) : Rm :=
  if c = 1 then .rtz else if c = 2 then .rup else if c = 3 then .rdn else .rne

/-- The mode rounds a magnitude of this sign away from zero (R48). -/
def Rm.away (m : Rm) (neg : Bool) : Bool :=
  match m with
  | .rup => !neg
  | .rdn => neg
  | _ => false

/-! ### Exact values -/

/-- The exact dyadic number m·2^e. -/
structure Dy where
  m : Int
  e : Int
  deriving DecidableEq, Repr

def Dy.zero : Dy := ⟨0, 0⟩

/-- m·2^(e − lo) as an integer, for lo ≤ e. -/
def Dy.at (x : Dy) (lo : Int) : Int := x.m * (2 : Int) ^ (x.e - lo).toNat

def Dy.add (x y : Dy) : Dy :=
  let lo := if x.e ≤ y.e then x.e else y.e
  ⟨x.at lo + y.at lo, lo⟩

def Dy.neg (x : Dy) : Dy := ⟨-x.m, x.e⟩
def Dy.sub (x y : Dy) : Dy := x.add y.neg
def Dy.mul (x y : Dy) : Dy := ⟨x.m * y.m, x.e + y.e⟩
def Dy.abs (x : Dy) : Dy := ⟨x.m.natAbs, x.e⟩
def Dy.lt (x y : Dy) : Bool := (x.sub y).m < 0
def Dy.le (x y : Dy) : Bool := (x.sub y).m ≤ 0
def Dy.eqv (x y : Dy) : Bool := (x.sub y).m = 0
def Dy.ofInt (n : Int) : Dy := ⟨n, 0⟩
def Dy.scale (x : Dy) (k : Int) : Dy := ⟨x.m, x.e + k⟩

/-- ⌊log2 |x|⌋ of a nonzero x. -/
def Dy.log2 (x : Dy) : Int := (Nat.log2 x.m.natAbs : Int) + x.e

/-- ⌊x⌋. -/
def Dy.floor (x : Dy) : Int :=
  if x.e ≥ 0 then x.m * (2 : Int) ^ x.e.toNat else x.m.fdiv ((2 : Int) ^ (-x.e).toNat)

/-- A dyadic number that stands for n/d in every rounding of at most `bits − 2` significant bits: the truncated
quotient with one sticky bit below it. -/
def Dy.quot (n d : Nat) (bits : Nat) : Dy :=
  if n = 0 ∨ d = 0 then .zero
  else
    let k := bits + Nat.log2 d + 1 - Nat.log2 n
    let q := n * 2 ^ k / d
    let r := n * 2 ^ k % d
    ⟨(2 * q + (if r = 0 then 0 else 1) : Nat), -(k : Int) - 1⟩

/-- A dyadic number that stands for √x (x ≥ 0) in the same sense. -/
def Dy.sqrt (x : Dy) (bits : Nat) : Dy :=
  if x.m ≤ 0 then .zero
  else
    let n := x.m.natAbs
    let k0 := 2 * bits
    -- make the exponent even
    let k := if (x.e - k0) % 2 = 0 then k0 else k0 + 1
    let a := n * 2 ^ k
    let r := Nat.sqrt a
    ⟨(2 * r + (if r * r = a then 0 else 1) : Nat), (x.e - k) / 2 - 1⟩

/-- The nonnegative number m·2^sh rounded to an integer under the mode for the sign; true when it was inexact (R48). -/
def roundNat (m : Nat) (sh : Int) (rm : Rm) (neg : Bool) : Nat × Bool :=
  if sh ≥ 0 then (m * 2 ^ sh.toNat, false)
  else
    let d := 2 ^ (-sh).toNat
    let q := m / d
    let r := m % d
    if r = 0 then (q, false)
    else
      let up := match rm with
        | .rne => decide (d < 2 * r) || (decide (2 * r = d) && decide (q % 2 = 1))
        | .rtz => false
        | .rup => !neg
        | .rdn => neg
      (if up then q + 1 else q, true)

/-! ### Formats (R39) -/

/-- A binary format: p significant bits, ew exponent bits, bias. -/
structure FFmt where
  p : Nat
  ew : Nat
  bias : Int
  /-- E4M3: no infinity, and one NaN of each sign (R39). -/
  e4m3 : Bool
  deriving DecidableEq, Repr

def FFmt.fp32 : FFmt := ⟨24, 8, 127, false⟩
def FFmt.fp16 : FFmt := ⟨11, 5, 15, false⟩
def FFmt.bf16 : FFmt := ⟨8, 8, 127, false⟩
def FFmt.e5m2 : FFmt := ⟨3, 5, 15, false⟩
def FFmt.fe4m3 : FFmt := ⟨4, 4, 7, true⟩

def FFmt.fbits (f : FFmt) : Nat := f.p - 1
def FFmt.bits (f : FFmt) : Nat := f.p + f.ew
def FFmt.emax (f : FFmt) : Int := if f.e4m3 then 8 else f.bias
def FFmt.emin (f : FFmt) : Int := 1 - f.bias
def FFmt.signBit (f : FFmt) (neg : Bool) : Nat := if neg then 2 ^ (f.p + f.ew - 1) else 0
/-- The bit pattern of an infinity (E4M3 has none: its largest finite value). -/
def FFmt.inf (f : FFmt) (neg : Bool) : Nat :=
  f.signBit neg + (if f.e4m3 then 0x7E else (2 ^ f.ew - 1) * 2 ^ (f.p - 1))
def FFmt.maxFin (f : FFmt) (neg : Bool) : Nat :=
  f.signBit neg + (if f.e4m3 then 0x7E else (2 ^ f.ew - 1) * 2 ^ (f.p - 1) - 1)
/-- The default NaN (R40). -/
def FFmt.defNan (f : FFmt) : Nat :=
  if f.e4m3 then 0x7F else (2 ^ f.ew - 1) * 2 ^ (f.p - 1) + 2 ^ (f.p - 2)

/-- What a bit pattern denotes (R39). -/
inductive FV where
  /-- sign, signalling, the fraction field -/
  | nan (neg snan : Bool) (frac : Nat)
  | inf (neg : Bool)
  /-- sign and exact magnitude m·2^e -/
  | fin (neg : Bool) (m : Nat) (e : Int)
  deriving DecidableEq, Repr

def FFmt.neg (f : FFmt) (w : Nat) : Bool := w / 2 ^ (f.p + f.ew - 1) % 2 = 1
def FFmt.expo (f : FFmt) (w : Nat) : Nat := w / 2 ^ (f.p - 1) % 2 ^ f.ew
def FFmt.frac (f : FFmt) (w : Nat) : Nat := w % 2 ^ (f.p - 1)

/-- The value of a bit pattern (R39). -/
def FFmt.decode (f : FFmt) (w : Nat) : FV :=
  let neg := f.neg w
  let ex := f.expo w
  let fr := f.frac w
  if f.e4m3 then
    if ex = 0xF ∧ fr = 7 then .nan neg false 0
    else if ex = 0 then .fin neg fr (f.emin - (f.p - 1))
    else .fin neg (fr + 2 ^ (f.p - 1)) (ex - f.bias - (f.p - 1))
  else if ex = 2 ^ f.ew - 1 then
    if fr = 0 then .inf neg else .nan neg (decide (fr / 2 ^ (f.p - 2) % 2 = 0)) fr
  else if ex = 0 then .fin neg fr (f.emin - (f.p - 1))
  else .fin neg (fr + 2 ^ (f.p - 1)) (ex - f.bias - (f.p - 1))

def FV.isNan : FV → Bool
  | .nan .. => true
  | _ => false
def FV.isSnan : FV → Bool
  | .nan _ s _ => s
  | _ => false
def FV.isInf : FV → Bool
  | .inf _ => true
  | _ => false
def FV.isZero : FV → Bool
  | .fin _ m _ => m = 0
  | _ => false
def FV.isNeg : FV → Bool
  | .nan n _ _ => n
  | .inf n => n
  | .fin n _ _ => n
/-- The exact value of a finite pattern, 0 otherwise. -/
def FV.dy : FV → Dy
  | .fin neg m e => ⟨if neg then -(m : Int) else m, e⟩
  | _ => .zero

/-- A NaN pattern with its quiet bit set, its sign and payload kept (R50). -/
def FFmt.quiet (f : FFmt) (w : Nat) : Nat :=
  if f.e4m3 then w else if w / 2 ^ (f.p - 2) % 2 = 1 then w else w + 2 ^ (f.p - 2)

/-- round_fp32 of R48 for the format `f` (E4M3 overflows to ±448 in every mode, with of, nx and sat as R51 gives). -/
def roundFp (f : FFmt) (x : Dy) (zs : Bool) (rm : Rm) (ftz : Bool) : Nat × Flags :=
  if x.m = 0 then (f.signBit zs, 0)
  else
    let neg := decide (x.m < 0)
    let m := x.m.natAbs
    let l := x.log2
    let pm1 : Int := (f.p : Int) - 1
    -- tininess, detected after rounding with unbounded exponent
    let kt := (roundNat m (x.e - (l - pm1)) rm neg).1
    let tiny := Dy.lt ⟨kt, l - pm1⟩ ⟨1, f.emin⟩
    let qe := if l ≥ f.emin then l - pm1 else f.emin - pm1
    let r := roundNat m (x.e - qe) rm neg
    let k := r.1
    let inexact := r.2
    -- the overflow threshold: 2^(emax+1), or above 448 for E4M3
    let big := if f.e4m3 then Dy.lt ⟨448, 0⟩ ⟨k, qe⟩ else Dy.le ⟨1, f.emax + 1⟩ ⟨k, qe⟩
    if big then
      if f.e4m3 then (f.maxFin neg, fOf ||| fNx ||| fSat)
      else if rm = .rne ∨ rm.away neg then (f.inf neg, fOf ||| fNx)
      else (f.maxFin neg, fOf ||| fNx)
    else
      let fl := Flags.when inexact fNx ||| Flags.when (tiny && inexact) fUf
      let sub := k < 2 ^ (f.p - 1)
      if ftz ∧ sub ∧ k ≠ 0 then (f.signBit neg, fl ||| fUf ||| fNx)
      else if sub then (f.signBit neg + k, fl)
      else
        -- k = 2^p only after a carry out of the significand
        let k' := if k = 2 ^ f.p then k / 2 else k
        let e' := if k = 2 ^ f.p then qe + 1 else qe
        (f.signBit neg + (e' + pm1 + f.bias).toNat * 2 ^ (f.p - 1) + (k' - 2 ^ (f.p - 1)), fl)

/-- round_fp32(x, +, nearest-even, 0) (R186), a zero result taking the given sign. -/
def rne32 (x : Dy) (zs : Bool) : Nat × Flags := roundFp .fp32 x zs .rne false

/-! ### NaN operands (R49, R50) -/

/-- The flags that the NaN operands of an operation raise: nanin, and nv for a signalling one (R49). -/
def nanFlags (vs : List FV) : Flags :=
  Flags.when (vs.any FV.isNan) fNanin ||| Flags.when (vs.any FV.isSnan) fNv

/-- The first NaN operand in operand order, quieted; `none` when no operand is NaN (R50). -/
def firstNan (f : FFmt) : List Nat → Option Nat
  | [] => none
  | w :: ws => if (f.decode w).isNan then some (f.quiet w) else firstNan f ws

/-! ### Lane arithmetic (R49, R50, R136, R137) -/

/-- The sign of an exact zero sum: that of equal-signed operands, else + (− toward −inf) (R49). -/
def zeroSumSign (na nb : Bool) (rm : Rm) : Bool := if na = nb then na else decide (rm = .rdn)

/-- The core of addition on classified, non-NaN operands. -/
def addFV (f : FFmt) (a b : FV) (rm : Rm) (ftz : Bool) : Nat × Flags :=
  match a, b with
  | .inf na, .inf nb => if na = nb then (f.inf na, 0) else (f.defNan, fNv)
  | .inf na, _ => (f.inf na, 0)
  | _, .inf nb => (f.inf nb, 0)
  | a, b => roundFp f (a.dy.add b.dy) (zeroSumSign a.isNeg b.isNeg rm) rm ftz

def FV.negate : FV → FV
  | .nan n s fr => .nan n s fr
  | .inf n => .inf !n
  | .fin n m e => .fin (!n) m e

/-- a + b. -/
def fpAdd (f : FFmt) (rm : Rm) (a b : Nat) : Nat × Flags :=
  let va := f.decode a
  let vb := f.decode b
  match firstNan f [a, b] with
  | some q => (q, nanFlags [va, vb])
  | none => addFV f va vb rm false

/-- a − b (a NaN operand keeps its sign). -/
def fpSub (f : FFmt) (rm : Rm) (a b : Nat) : Nat × Flags :=
  let va := f.decode a
  let vb := f.decode b
  match firstNan f [a, b] with
  | some q => (q, nanFlags [va, vb])
  | none => addFV f va vb.negate rm false

/-- The exact product of non-NaN operands, or `none` for 0 × ∞. -/
def mulFV (a b : FV) : Option FV :=
  let n := a.isNeg != b.isNeg
  match a, b with
  | .fin _ m e, .fin _ m' e' => some (.fin n (m * m') (e + e'))
  | a, b => if a.isZero || b.isZero then none else some (.inf n)

/-- a × b. -/
def fpMul (f : FFmt) (rm : Rm) (a b : Nat) : Nat × Flags :=
  let va := f.decode a
  let vb := f.decode b
  match firstNan f [a, b] with
  | some q => (q, nanFlags [va, vb])
  | none =>
    match mulFV va vb with
    | none => (f.defNan, fNv)
    | some (.inf n) => (f.inf n, 0)
    | some v => roundFp f v.dy v.isNeg rm false

/-- round(±(a × b) ± c): `pneg` negates the exact product, `cneg` the addend (R137). -/
def fpFma (f : FFmt) (rm : Rm) (pneg cneg : Bool) (a b c : Nat) : Nat × Flags :=
  let va := f.decode a
  let vb := f.decode b
  let vc := f.decode c
  let abNan := va.isNan || vb.isNan
  let prod := mulFV va vb
  let badProd := !abNan && prod.isNone
  match firstNan f [a, b, c] with
  | some q => (q, nanFlags [va, vb, vc] ||| Flags.when badProd fNv)
  | none =>
    match prod with
    | none => (f.defNan, fNv)
    | some p =>
      let p' := if pneg then p.negate else p
      let c' := if cneg then vc.negate else vc
      addFV f p' c' rm false

/-- The order of non-NaN values with −0 below +0. -/
def ltFV (a b : FV) : Bool :=
  match a, b with
  | .inf na, .inf nb => na && !nb
  | .inf na, _ => na
  | _, .inf nb => !nb
  | a, b => a.dy.lt b.dy || (a.dy.eqv b.dy && a.isNeg && !b.isNeg)

/-- The order of non-NaN values with −0 equal to +0. -/
def ltNum (a b : FV) : Bool :=
  match a, b with
  | .inf na, .inf nb => na && !nb
  | .inf na, _ => na
  | _, .inf nb => !nb
  | a, b => a.dy.lt b.dy

/-- Minimum: −0 below +0, va when equal, NaNs propagated (R50). -/
def fpMin (f : FFmt) (a b : Nat) : Nat × Flags :=
  let va := f.decode a
  let vb := f.decode b
  match firstNan f [a, b] with
  | some q => (q, nanFlags [va, vb])
  | none => (if ltFV vb va then b else a, 0)

/-- Maximum, as fpMin. -/
def fpMax (f : FFmt) (a b : Nat) : Nat × Flags :=
  let va := f.decode a
  let vb := f.decode b
  match firstNan f [a, b] with
  | some q => (q, nanFlags [va, vb])
  | none => (if ltFV va vb then b else a, 0)

/-- a ÷ b, nearest-even with subnormals kept (the div of 05_vector). -/
def fpDiv (f : FFmt) (a b : Nat) : Nat × Flags :=
  let va := f.decode a
  let vb := f.decode b
  let n := va.isNeg != vb.isNeg
  match firstNan f [a, b] with
  | some q => (q, nanFlags [va, vb])
  | none =>
    match va, vb with
    | .inf _, .inf _ => (f.defNan, fNv)
    | .inf _, _ => (f.inf n, 0)
    | _, .inf _ => (f.signBit n, 0)
    | .fin _ m e, .fin _ m' e' =>
      if m' = 0 then (if m = 0 then (f.defNan, fNv) else (f.inf n, fDz))
      else if m = 0 then (f.signBit n, 0)
      else
        let q := (Dy.quot m m' 64).scale (e - e')
        roundFp f ⟨if n then -q.m else q.m, q.e⟩ n .rne false
    | _, _ => (f.defNan, fNv)

/-- √a, nearest-even (correctly rounded). -/
def fpSqrt (a : Nat) : Nat × Flags :=
  let f := FFmt.fp32
  match f.decode a with
  | .nan n s fr => (f.quiet a, nanFlags [.nan n s fr])
  | .inf true => (f.defNan, fNv)
  | .inf false => (a, 0)
  | .fin neg m e =>
    if m = 0 then (a, 0)
    else if neg then (f.defNan, fNv)
    else roundFp f (Dy.sqrt ⟨m, e⟩ 64) false .rne false

/-! ### Comparison (R138) -/

/-- The condition of VCMP and the flags it raises: fn 0 eq, 1 ne, 2 lt, 3 le, 4 gt, 5 ge, 6 un, 7 or. -/
def fpCmp (fn : Nat) (a b : Nat) : Bool × Flags :=
  let va := FFmt.fp32.decode a
  let vb := FFmt.fp32.decode b
  let un := va.isNan || vb.isNan
  let lt := !un && ltNum va vb
  let gt := !un && ltNum vb va
  let eq := !un && !lt && !gt
  let quietTest := fn = 0 ∨ fn = 1 ∨ fn = 6 ∨ fn = 7
  let nv := if quietTest then va.isSnan || vb.isSnan else un
  let r := match fn with
    | 0 => eq
    | 1 => !eq
    | 2 => lt
    | 3 => lt || eq
    | 4 => gt
    | 5 => gt || eq
    | 6 => un
    | _ => !un
  (r, Flags.when un fNanin ||| Flags.when nv fNv)

/-! ### Integers (R41) -/

/-- An exact integer brought into w bits: wrapped, or clamped to [lo, hi] with sat (R41). -/
def toWidth (w : Nat) (lo hi : Int) (satOn : Bool) (x : Int) : Nat × Flags :=
  if satOn then
    if x < lo then ((lo % 2 ^ w).toNat, fSat)
    else if x > hi then ((hi % 2 ^ w).toNat, fSat)
    else ((x % 2 ^ w).toNat, 0)
  else ((x % 2 ^ w).toNat, 0)

/-- to_i32 (R170). -/
def toI32 (satOn : Bool) (x : Int) : Nat × Flags := toWidth 32 (-2147483648) 2147483647 satOn x

/-- Two's complement reading of the low n bits. -/
def sintOf (n : Nat) (x : Nat) : Int :=
  let y := x % 2 ^ n
  if y < 2 ^ (n - 1) then (y : Int) else (y : Int) - (2 : Int) ^ n

/-! ### Conversions (R51) -/

/-- FP32 to a narrower float of the format `f`. -/
def cvtFromF32 (f : FFmt) (rm : Rm) (a : Nat) : Nat × Flags :=
  match FFmt.fp32.decode a with
  | .nan neg s fr =>
    let fl := nanFlags [.nan neg s fr]
    if f.e4m3 then (f.signBit neg + 0x7F, fl)
    else
      -- sign kept, quiet bit set, the highest payload bits that fit kept
      let pay := fr / 2 ^ (24 - f.p)
      (f.quiet (f.signBit neg + (2 ^ f.ew - 1) * 2 ^ (f.p - 1) + pay % 2 ^ (f.p - 1)), fl)
  | .inf neg => if f.e4m3 then (f.maxFin neg, fOf ||| fNx ||| fSat) else (f.inf neg, 0)
  | .fin neg m e => roundFp f (FV.fin neg m e).dy neg rm false

/-- A narrower float to FP32, exact; `quietly` leaves every flag down (R143), otherwise nanin and nv as R49. -/
def cvtToF32 (f : FFmt) (quietly : Bool) (a : Nat) : Nat × Flags :=
  let g := FFmt.fp32
  match f.decode a with
  | .nan neg s fr =>
    let fl := if quietly then 0 else nanFlags [.nan neg s fr]
    if f.e4m3 then (g.signBit neg + g.defNan, fl)
    else (g.quiet (g.signBit neg + 0xFF * 2 ^ 23 + fr * 2 ^ (24 - f.p)), fl)
  | .inf neg => (g.inf neg, 0)
  | .fin neg m e => ((roundFp g (FV.fin neg m e).dy neg .rne false).1, 0)

/-- A float (as FP32) to an integer of w bits with range [lo, hi]: clamped, with sat and nx; NaN gives 0 with nv. -/
def cvtF32ToInt (w : Nat) (lo hi : Int) (rm : Rm) (a : Nat) : Nat × Flags :=
  match FFmt.fp32.decode a with
  | .nan neg s fr => (0, nanFlags [.nan neg s fr] ||| fNv)
  | .inf neg => (((if neg then lo else hi) % 2 ^ w).toNat, fSat ||| fNx)
  | .fin neg m e =>
    let r := roundNat m e rm neg
    let x : Int := if neg then -(r.1 : Int) else r.1
    if x < lo then ((lo % 2 ^ w).toNat, fSat ||| fNx)
    else if x > hi then ((hi % 2 ^ w).toNat, fSat ||| fNx)
    else ((x % 2 ^ w).toNat, Flags.when r.2 fNx)

/-- I32 to FP32. -/
def cvtI32ToF32 (rm : Rm) (a : Nat) : Nat × Flags :=
  roundFp .fp32 (Dy.ofInt (sintOf 32 a)) false rm false

/-- I32 to a narrower integer by R41, written extended to 32 bits. -/
def cvtI32ToInt (signed : Bool) (w : Nat) (satOn : Bool) (a : Nat) : Nat × Flags :=
  let lo : Int := if signed then -(2 : Int) ^ (w - 1) else 0
  let hi : Int := if signed then (2 : Int) ^ (w - 1) - 1 else (2 : Int) ^ w - 1
  let r := toWidth w lo hi satOn (sintOf 32 a)
  ((if signed then (sintOf w r.1 % 2 ^ 32).toNat else r.1), r.2)

/-- An FP32 value rounded to an integral FP32 value (R141). -/
def fpRoundInt (rm : Rm) (a : Nat) : Nat × Flags :=
  match FFmt.fp32.decode a with
  | .nan neg s fr => (FFmt.fp32.quiet a, nanFlags [.nan neg s fr])
  | .inf _ => (a, 0)
  | .fin neg m e =>
    if m = 0 then (a, 0)
    else
      let r := roundNat m e rm neg
      ((roundFp .fp32 ⟨if neg then -(r.1 : Int) else r.1, 0⟩ neg .rne false).1, Flags.when r.2 fNx)

/-! ### The canonical tree (R56) -/

/-- tree_add (R56). -/
def treeAdd (p q : Nat) : Nat × Flags :=
  let f := FFmt.fp32
  let vp := f.decode p
  let vq := f.decode q
  match firstNan f [p, q] with
  | some r => (r, nanFlags [vp, vq])
  | none =>
    match vp, vq with
    | .inf a, .inf b => if a = b then (f.inf a, 0) else (f.defNan, fNv)
    | .inf a, _ => (f.inf a, 0)
    | _, .inf b => (f.inf b, 0)
    | vp, vq => roundFp f (vp.dy.add vq.dy) (vp.isNeg && vq.isNeg) .rne true

/-- One level of the tree: adjacent pairs added, a lone last node paired with +0 (R56). -/
def treeLevel : List Nat → List Nat × Flags
  | [] => ([], 0)
  | [a] => let r := treeAdd a 0; ([r.1], r.2)
  | a :: b :: rest =>
    let r := treeAdd a b
    let t := treeLevel rest
    (r.1 :: t.1, r.2 ||| t.2)

/-- `n` levels of the tree. -/
def treeLevels : Nat → List Nat → List Nat × Flags
  | 0, l => (l, 0)
  | n + 1, l =>
    let t := treeLevel l
    let r := treeLevels n t.1
    (r.1, t.2 ||| r.2)

/-- The least d with n ≤ 2^d. -/
def ceilLog2 (n : Nat) : Nat := if n ≤ 1 then 0 else Nat.log2 (n - 1) + 1

/-- The canonical tree over the chunk sums in order; +0 leaves fill up to the next power of two (R56). -/
def canonicalTree (leaves : List Nat) : Nat × Flags :=
  let d := ceilLog2 leaves.length
  let padded := leaves ++ List.replicate (2 ^ d - leaves.length) 0
  let r := treeLevels d padded
  (r.1.headD 0, r.2)

/-- chunk_sum_f32 (R55) of the elements in index order. -/
def chunkSumF32 (xs : List Nat) : Nat × Flags :=
  let f := FFmt.fp32
  let vs := xs.map f.decode
  match firstNan f xs with
  | some q => (q, nanFlags vs)
  | none =>
    let pinf := vs.any (fun v => v.isInf && !v.isNeg)
    let ninf := vs.any (fun v => v.isInf && v.isNeg)
    if pinf && ninf then (f.defNan, fNv)
    else if pinf then (f.inf false, 0)
    else if ninf then (f.inf true, 0)
    else roundFp f (vs.foldl (fun a v => a.add v.dy) Dy.zero) false .rne true

end Sys2Proof.Machine
end

