-- ==== Sys2Proof/Machine/Block.lean ====
section
/-! DEFINITION. Element formats and block formats (R37, R38, R42 to R46, R52, R53) and the matrix chunk sum (R54). -/

namespace Sys2Proof.Machine

/-! ### Format codes (R37) -/

/-- Bits per element of a format code, the scale bytes apart (R37). -/
def fmtBits (fmt : Nat) : Nat :=
  match fmt with
  | 0x0 => 32 | 0x1 => 16 | 0x2 => 16 | 0x3 => 8 | 0x4 => 8 | 0x5 => 32 | 0x6 => 8 | 0x7 => 8
  | 0x8 => 4 | 0x9 => 2 | 0xA => 16 | 0xB => 8 | 0xC => 2 | 0xD => 16 | 0xE => 8 | _ => 4

/-- B16, B8, B2, W16, W8 and Q4 carry scale bytes. -/
def fmtIsBlock (fmt : Nat) : Bool := decide (0xA ≤ fmt)
/-- The narrow floats of a scalar tile and their formats. -/
def fmtFloat (fmt : Nat) : Option FFmt :=
  match fmt with
  | 0x1 => some .fp16 | 0x2 => some .bf16 | 0x3 => some .fe4m3 | 0x4 => some .e5m2 | _ => none

/-- The padded bytes of a row of `cols` block-format elements (R42). -/
def blockRowBytes (fmt cols : Nat) : Nat :=
  let sig := cols * fmtBits fmt / 8
  (sig + cols / 32 + 31) / 32 * 32

/-- Planes of an activation format with Q4 type T (R193); x3 triples B16. -/
def planesOf (fmt t : Nat) (x3 : Bool) : Nat :=
  match fmt with
  | 0xA => if x3 then 24 else 8
  | 0xB => 4
  | 0x6 => 4
  | 0xF => if t = 0 then 2 else 4
  | 0x8 => 2
  | _ => 1

/-- Bytes of a plane-tile chunk record: 64·P + 32 (R194). -/
def recBytes (planes : Nat) : Nat := 64 * planes + 32

/-- Weight formats: column limit and bytes per tile row (R195). -/
def weightLimit (fmt : Nat) : Nat :=
  match fmt with
  | 0xD => 2048 | 0xE => 4096 | 0x6 => 4096 | 0xF => 8192 | 0x8 => 8192 | _ => 0
def weightRowBytes (fmt : Nat) : Nat :=
  match fmt with
  | 0xD => 544 | 0xE => 288 | 0x6 => 256 | 0xF => 160 | 0x8 => 128 | _ => 0

/-! ### Q4 (R44, R45) -/

def q4Uniform : List Int := [0, 1, 2, 3, 4, 5, 6, 7, -8, -7, -6, -5, -4, -3, -2, -1]
def q4E2m1 : List Int := [0, 1, 2, 3, 4, 6, 8, 12, 0, -1, -2, -3, -4, -6, -8, -12]
def q4Pow2 : List Int := [0, 1, 2, 4, 8, 16, 32, 64, 0, -1, -2, -4, -8, -16, -32, -64]
def q4Hybrid : List Int := [0, 1, 2, 3, 4, 6, 8, 16, 0, -1, -2, -3, -4, -6, -8, -16]

/-- The signed integer s of a Q4 code under its type (R45). -/
def q4Value (t code : Nat) : Int :=
  (match t with
    | 0 => q4Uniform | 1 => q4E2m1 | 2 => q4Pow2 | _ => q4Hybrid).getD code 0

/-- The type offset t of R44. -/
def q4Offset (t : Nat) : Int := if t = 1 then -1 else 0

/-- The significand of an element code of a format (R43, R46); Q4 codes decode under type `t`. -/
def sigOf (fmt t code : Nat) : Int := if fmt = 0xF then q4Value t code else sintOf (fmtBits fmt) code

/-- The element exponent x of a block with this scale byte, so that each element is s × 2^x; `none` for a NaN block
(R43, R44, R46). Plain integer tiles have the implied scale of R46. -/
def blockExp (fmt scale : Nat) : Option Int :=
  match fmt with
  | 0x6 | 0x8 | 0x9 => some 0
  | 0xF => if scale % 64 = 63 then none else some ((scale % 64 : Nat) - 31 + q4Offset (scale / 64 % 4))
  | _ => if scale = 0xFF then none else some ((scale : Int) - 127 - ((fmtBits fmt : Int) - 2))

/-! ### Decoding to FP32 (R51) -/

/-- A block element as FP32: exact, then rounded nearest-even without flush; a NaN block gives the default NaN. -/
def blockElemF32 (fmt scale code : Nat) : Nat × Flags :=
  match blockExp fmt scale with
  | none => (FFmt.fp32.defNan, 0)
  | some x => roundFp .fp32 ⟨sigOf fmt (scale / 64 % 4) code, x⟩ false .rne false

/-! ### Encoding (R52, R53) -/

/-- max |x| of a block. -/
def dyMaxAbs (xs : List Dy) : Dy := xs.foldl (fun a x => if a.lt x.abs then x.abs else a) Dy.zero

/-- Encodes a block of FP32 patterns to B16, W16, B8, W8 or B2: scale byte, significand codes, flags (R52). -/
def encodeBlock (fmt : Nat) (xs : List Nat) : Nat × List Nat × Flags :=
  let n := fmtBits fmt
  let vs := xs.map FFmt.fp32.decode
  if vs.any (fun v => v.isNan || v.isInf) then (0xFF, xs.map (fun _ => 0), nanFlags vs ||| fNv)
  else
    let ds := vs.map FV.dy
    let m := dyMaxAbs ds
    if m.m = 0 then (0, xs.map (fun _ => 0), 0)
    else
      let e := m.log2
      let sc : Int := if e + 127 < 0 then 0 else e + 127
      let unit : Int := sc - 127 - ((n : Int) - 2)
      let lim : Nat := 2 ^ (n - 1) - 1
      let one (d : Dy) : Nat × Flags :=
        let r := roundNat d.m.natAbs (d.e - unit) .rne (decide (d.m < 0))
        let clamp := decide (lim < r.1)
        let k := if clamp then lim else r.1
        let v : Int := if d.m < 0 then -(k : Int) else k
        ((v % 2 ^ n).toNat, Flags.when clamp (fSat ||| fNx) ||| Flags.when r.2 fNx)
      let cs := ds.map one
      (sc.toNat, cs.map Prod.fst, cs.foldl (fun a c => a ||| c.2) 0)

/-- Distance |n·2^e − v·2^k| as a dyadic. -/
def dyDist (x : Dy) (v : Int) : Dy := (x.sub (Dy.ofInt v)).abs

/-- The code of the nearest listed value of Q4 type `t` to the quotient, in units of 2^(−offset): a tie goes to the code
whose bit 0 is 0, and a zero result is code 0000 (R53 step 5). -/
def q4Nearest (t : Nat) (q : Dy) : Nat :=
  let cand := (List.range 16).filter (fun c => !(decide (t ≠ 0) && decide (c = 8)))
  let best := cand.foldl (fun (b : Nat) c =>
    let db := dyDist q (q4Value t b)
    let dc := dyDist q (q4Value t c)
    if dc.lt db then c
    else if dc.eqv db && decide (c % 2 = 0) && decide (b % 2 = 1) then c else b) 0
  if q4Value t best = 0 then 0 else best

/-- Encodes a block of FP32 patterns to Q4 of type T: scale byte, codes, flags (R53). -/
def encodeQ4 (t : Nat) (xs : List Nat) : Nat × List Nat × Flags :=
  let vs := xs.map FFmt.fp32.decode
  if vs.any (fun v => v.isNan || v.isInf) then (t * 64 + 0x3F, xs.map (fun _ => 0), nanFlags vs ||| fNv)
  else
    let ds := vs.map FV.dy
    let m := dyMaxAbs ds
    if m.m = 0 then (t * 64, xs.map (fun _ => 0), 0)
    else
      let g : Int := match t with | 0 => 2 | 1 => 2 | 2 => 6 | _ => 4
      let e0 := m.log2 - g + 31
      let e : Int := if e0 < 0 then 0 else if e0 > 62 then 62 else e0
      -- the quotient x ÷ 2^(e−31), in the units of the listed integers s (s × 2^offset is the listed value)
      let one (d : Dy) : Nat × Flags :=
        let q := d.scale (-(e - 31) - q4Offset t)
        let hi : Int := match t with | 0 => 7 | 1 => 12 | 2 => 64 | _ => 16
        let lo : Int := match t with | 0 => -8 | 1 => -12 | 2 => -64 | _ => -16
        let c := q4Nearest t q
        let sat := (Dy.ofInt hi).lt q || q.lt (Dy.ofInt lo)
        (c, Flags.when sat fSat ||| Flags.when (!(q.eqv (Dy.ofInt (q4Value t c)))) fNx)
      let cs := ds.map one
      (t * 64 + e.toNat, cs.map Prod.fst, cs.foldl (fun a c => a ||| c.2) 0)

/-! ### The matrix chunk sum (R54, R203) -/

/-- A decoded block: its exponent (`none` for a NaN block) and its 32 significands. -/
structure Blk where
  x : Option Int
  s : List Int
  deriving DecidableEq, Repr

/-- The exact dot product of two blocks' significands. -/
def dotInt : List Int → List Int → Int
  | a :: as, b :: bs => a * b + dotInt as bs
  | _, _ => 0

/-- chunk_sum_mx over block pairs: 8 of them, or 24 for three-term activations (R54, R203). -/
def chunkSumMx (pairs : List (Blk × Blk)) : Nat × Flags :=
  if pairs.any (fun p => p.1.x.isNone || p.2.x.isNone) then (FFmt.fp32.defNan, fNanin)
  else
    let terms : List (Int × Int) := pairs.map (fun p => (dotInt p.1.s p.2.s, p.1.x.getD 0 + p.2.x.getD 0))
    let live := terms.filter (fun t => decide (t.1 ≠ 0))
    match live with
    | [] => (0, 0)
    | t0 :: rest =>
      let mx := rest.foldl (fun a t => if a < t.2 then t.2 else a) t0.2
      let lo := mx - 72
      let step (acc : Int × Bool) (t : Int × Int) : Int × Bool :=
        let sh := t.2 - lo
        if sh ≥ 0 then (acc.1 + t.1 * 2 ^ sh.toNat, acc.2)
        else
          let d : Int := 2 ^ (-sh).toNat
          (acc.1 + t.1.fdiv d, acc.2 || decide (t.1.fmod d ≠ 0))
      let r := live.foldl step (0, false)
      roundFp .fp32 ⟨2 * r.1 + (if r.2 then 1 else 0), lo - 1⟩ false .rne true

end Sys2Proof.Machine
end

