-- ==== Sys2Proof/Machine/Fn.lean ====
section
/-! DEFINITION. The built-in functions of VFN and VGATE (R151, R185 to R187), and MCG-128 (R59 to R61). The ROM values are the
correctly rounded values that R186 defines; they are formed here from series in 512-bit fixed point. -/

namespace Sys2Proof.Machine

/-! ### Fixed point with 512 fractional bits -/

def fxBits : Nat := 512
def fxOne : Int := (2 : Int) ^ fxBits
def fxMul (a b : Int) : Int := (a * b) / fxOne
def fxDiv (a b : Int) : Int := (a * fxOne) / b
def fxOfRat (n d : Int) : Int := n * fxOne / d
def fxDy (a : Int) : Dy := ⟨a, -(fxBits : Int)⟩

/-- Σ x^(k+j)/((k+1)…(k+j)) by Horner's rule over `n` terms: the exponential series. -/
def fxExpSeries (x : Int) : Nat → Nat → Int
  | 0, _ => fxOne
  | n + 1, k => fxOne + fxMul x (fxExpSeries x n (k + 1)) / (k : Int)

/-- `n` squarings. -/
def fxSquares : Nat → Int → Int
  | 0, a => a
  | n + 1, a => fxSquares n (fxMul a a)

/-- e^x for 0 ≤ x ≤ 32. -/
def fxExpPos (x : Int) : Int := fxSquares 8 (fxExpSeries (x / 256) 90 1)

/-- e^x for any x of that magnitude, and for negative x down to −256. -/
def fxExp (x : Int) : Int :=
  if x ≥ 0 then fxExpPos x else fxDiv fxOne (fxSquares 4 (fxExpPos (-x / 16)))

/-- Σ z^(2k)/(2k+1) over `n` terms, z² given. -/
def fxAtanhSeries (z2 : Int) : Nat → Nat → Int
  | 0, _ => 0
  | n + 1, k => fxOne / (2 * k + 1 : Int) + fxMul z2 (fxAtanhSeries z2 n (k + 1))

/-- ln(n/d) for 1 ≤ n/d ≤ 2. -/
def fxLn (n d : Int) : Int :=
  let z := fxOfRat (n - d) (n + d)
  2 * fxMul z (fxAtanhSeries (fxMul z z) 170 0)

def fxLn2 : Int := fxLn 2 1

/-- Σ (−z²)^k/(2k+1). -/
def fxAtanSeries (z2 : Int) : Nat → Nat → Int
  | 0, _ => 0
  | n + 1, k => fxOne / (2 * k + 1 : Int) - fxMul z2 (fxAtanSeries z2 n (k + 1))

def fxAtanInv (q : Int) : Int :=
  let z := fxOfRat 1 q
  fxMul z (fxAtanSeries (fxMul z z) 130 0)

/-- π by Machin's formula. -/
def fxPi : Int := 16 * fxAtanInv 5 - 4 * fxAtanInv 239

/-- Σ (−x²)^k/((2k+c)!/c!) : the sine series for c = 1, the cosine series for c = 0. -/
def fxTrigSeries (x2 : Int) : Nat → Nat → Int
  | 0, _ => fxOne
  | n + 1, k => fxOne - fxMul x2 (fxTrigSeries x2 n (k + 2)) / (((k + 1) * (k + 2) : Nat) : Int)

def fxSinSmall (x : Int) : Int := fxMul x (fxTrigSeries (fxMul x x) 70 1)
def fxCosSmall (x : Int) : Int := fxTrigSeries (fxMul x x) 70 0

/-- sin 2π(i/256), exact at the multiples of a quarter turn. -/
def fxSinTurn (i : Nat) : Int :=
  let q := i % 256 / 64
  let r := i % 64
  let x := 2 * fxPi * r / 256
  let s := if r = 0 then 0 else fxSinSmall x
  let c := if r = 0 then fxOne else fxCosSmall x
  match q with
  | 0 => s
  | 1 => c
  | 2 => -s
  | _ => -c

def fxCosTurn (i : Nat) : Int := fxSinTurn (i + 64)

/-- Σ 2^k x^(2k)/(3·5·…·(2k+1)), with 2x² given: the all-positive error-function series. -/
def fxErfSeries (tx2 : Int) : Nat → Nat → Int
  | 0, _ => fxOne
  | n + 1, k => fxOne + fxMul tx2 (fxErfSeries tx2 n (k + 1)) / (2 * k + 3 : Int)

/-- 2/√π. -/
def fxTwoOverSqrtPi : Int := 2 * fxDiv fxOne (Nat.sqrt ((fxPi * fxOne).toNat) : Int)

/-- e^(−x²), x = i/32. -/
def fxGauss (i : Nat) : Int := fxExp (-(fxOfRat (i * i) 1024))

/-- erf(i/32); within 2^−64 of 1 from i/32 = 7 on. -/
def fxErf (i : Nat) : Int :=
  if i ≥ 224 then fxOne - fxOne / 2 ^ 64
  else
    let x := fxOfRat i 32
    fxMul (fxMul fxTwoOverSqrtPi (fxGauss i)) (fxMul x (fxErfSeries (2 * fxMul x x) 400 0))

/-- tanh(i/32). -/
def fxTanh (i : Nat) : Int :=
  let e := fxExpPos (fxOfRat i 16)
  fxDiv (e - fxOne) (e + fxOne)

/-- (1 + i/32)^(−1/2). -/
def fxRsqrt (i : Nat) : Int := (Nat.sqrt (2 ^ (2 * fxBits) * 32 / (32 + i)) : Int)

/-! ### Segments (R186) -/

/-- The seven reduced functions of R187. -/
inductive SegFn where
  | exp2 | log2 | tanh | erf | rsqrt | sin | cos
  deriving DecidableEq, Repr

/-- Segments per unit of ρ (R187). -/
def SegFn.segs : SegFn → Nat
  | .exp2 => 64 | .log2 => 128 | .tanh => 32 | .erf => 32 | .rsqrt => 32 | .sin => 256 | .cos => 256

/-- mono is false for sin and cos only (R187). -/
def SegFn.mono : SegFn → Bool
  | .sin => false | .cos => false | _ => true

/-- f(i/S). -/
def SegFn.value (f : SegFn) (i : Nat) : Int :=
  match f with
  | .exp2 => fxExpPos (fxLn2 * i / 64)
  | .log2 => if i = 0 then 0 else fxDiv (fxLn (128 + i) 128) fxLn2
  | .tanh => fxTanh i
  | .erf => fxErf i
  | .rsqrt => fxRsqrt i
  | .sin => fxSinTurn i
  | .cos => fxCosTurn i

/-- f′(i/S)/S. -/
def SegFn.slope (f : SegFn) (i : Nat) : Int :=
  match f with
  | .exp2 => fxMul fxLn2 (fxExpPos (fxLn2 * i / 64)) / 64
  | .log2 => fxDiv (fxOfRat 1 (128 + i)) fxLn2
  | .tanh => let t := fxTanh i; (fxOne - fxMul t t) / 32
  | .erf => fxMul fxTwoOverSqrtPi (fxGauss i) / 32
  | .rsqrt => let r := fxRsqrt i; -(fxMul r (fxMul r r) / 64)
  | .sin => 2 * fxMul fxPi (fxCosTurn i) / 256
  | .cos => -(2 * fxMul fxPi (fxSinTurn i) / 256)

/-- The exact value of a finite FP32 pattern. -/
def dy32 (w : Nat) : Dy := (FFmt.fp32.decode w).dy

/-- segment(f, S, ρ, mono) and the flags of its last fused step (R186, R187). -/
def segment (f : SegFn) (rho : Dy) : Nat × Flags :=
  let s := f.segs
  let rs := rho.mul (Dy.ofInt s)
  let i := rs.floor.toNat
  let t := rs.sub (Dy.ofInt i)
  let r (x : Dy) : Nat := (rne32 x false).1
  let y0 := r (fxDy (f.value i))
  let y1 := r (fxDy (f.value (i + 1)))
  let d0 := r (fxDy (f.slope i))
  let d1 := r (fxDy (f.slope (i + 1)))
  let dy := (dy32 y1).sub (dy32 y0)
  let c2 := r (((dy.mul (Dy.ofInt 3)).sub ((dy32 d0).mul (Dy.ofInt 2))).sub (dy32 d1))
  let c3 := r (((dy.mul (Dy.ofInt (-2))).add (dy32 d0)).add (dy32 d1))
  let q1 := r ((t.mul (dy32 c3)).add (dy32 c2))
  let q2 := r ((t.mul (dy32 q1)).add (dy32 d0))
  let v := rne32 ((t.mul (dy32 q2)).add (dy32 y0)) false
  if f.mono then
    let lo := if (dy32 y0).le (dy32 y1) then y0 else y1
    let hi := if (dy32 y0).le (dy32 y1) then y1 else y0
    let a := if (dy32 v.1).lt (dy32 hi) then v.1 else hi
    (if (dy32 a).lt (dy32 lo) then lo else a, v.2)
  else v

/-! ### The functions (R151, R187) -/

/-- x rounded to nearest at `k` fractional bits. -/
def fxRoundAt (x : Int) (k : Nat) : Dy :=
  ⟨(x + (2 : Int) ^ (fxBits - k - 1)).fdiv ((2 : Int) ^ (fxBits - k)), -(k : Int)⟩

/-- C1, log2 e to 64 significant bits. -/
def constC1 : Dy := fxRoundAt (fxDiv fxOne fxLn2) 63
/-- C2, ln 2 to 64 significant bits. -/
def constC2 : Dy := fxRoundAt fxLn2 64
/-- C3, 1/(2π) to 160 fractional bits. -/
def constC3 : Dy := fxRoundAt (fxDiv fxOne (2 * fxPi)) 160

def f32one : Nat := 0x3F800000
def f32half : Nat := 0x3F000000
def f32pinf : Nat := 0x7F800000
def f32ninf : Nat := 0xFF800000
def f32nzero : Nat := 0x80000000
def f32dnan : Nat := 0x7FC00000

/-- 2^u rebuilt from u: n = ⌊u⌋, ρ = min(rne32(u − n), 1 − 2^−24) (R187). -/
def pow2Of (u : Dy) : Nat × Flags :=
  let n := u.floor
  let rho0 := dy32 (rne32 (u.sub (Dy.ofInt n)) false).1
  let top : Dy := ⟨16777215, -24⟩
  let rho := if top.lt rho0 then top else rho0
  let sg := (segment .exp2 rho).1
  -- beyond these exponents the rounded result no longer changes
  let n' : Int := if n > 400 then 400 else if n < -400 then -400 else n
  roundFp .fp32 ((dy32 sg).scale n') false .rne false

/-- e + log2 of the significand, unrounded (R187). -/
def log2Sum (m : Nat) (e : Int) : Dy :=
  let l := Nat.log2 m
  let mu : Dy := ⟨m, -(l : Int)⟩
  let sg := (segment .log2 (mu.sub (Dy.ofInt 1))).1
  (Dy.ofInt (e + l)).add (dy32 sg)

/-- The NaN result of a function (R151). -/
def fnNan (a : Nat) : Nat × Flags := (FFmt.fp32.quiet a, nanFlags [FFmt.fp32.decode a])

def fnExp2 (a : Nat) : Nat × Flags :=
  match FFmt.fp32.decode a with
  | .nan .. => fnNan a
  | .inf neg => (if neg then 0 else f32pinf, 0)
  | .fin neg m e => if m = 0 then (f32one, 0) else pow2Of (FV.fin neg m e).dy

def fnExp (a : Nat) : Nat × Flags :=
  match FFmt.fp32.decode a with
  | .nan .. => fnNan a
  | .inf neg => (if neg then 0 else f32pinf, 0)
  | .fin neg m e => if m = 0 then (f32one, 0) else pow2Of ((FV.fin neg m e).dy.mul constC1)

def fnLog2 (a : Nat) : Nat × Flags :=
  match FFmt.fp32.decode a with
  | .nan .. => fnNan a
  | .inf neg => if neg then (f32dnan, fNv) else (f32pinf, 0)
  | .fin neg m e =>
    if m = 0 then (f32ninf, fDz) else if neg then (f32dnan, fNv) else rne32 (log2Sum m e) false

def fnLog (a : Nat) : Nat × Flags :=
  match FFmt.fp32.decode a with
  | .nan .. => fnNan a
  | .inf neg => if neg then (f32dnan, fNv) else (f32pinf, 0)
  | .fin neg m e =>
    if m = 0 then (f32ninf, fDz) else if neg then (f32dnan, fNv) else rne32 ((log2Sum m e).mul constC2) false

/-- tanh and erf: odd, ±1 from 16 on. -/
def fnOdd (f : SegFn) (a : Nat) : Nat × Flags :=
  match FFmt.fp32.decode a with
  | .nan .. => fnNan a
  | .inf neg => (FFmt.fp32.signBit neg + f32one, 0)
  | .fin neg m e =>
    if m = 0 then (a, 0)
    else if Dy.le ⟨16, 0⟩ ⟨m, e⟩ then (FFmt.fp32.signBit neg + f32one, 0)
    else
      let r := segment f ⟨m, e⟩
      (FFmt.fp32.signBit neg + r.1 % 2 ^ 31, r.2)

/-- recip, correctly rounded. -/
def fnRecip (a : Nat) : Nat × Flags :=
  match FFmt.fp32.decode a with
  | .nan .. => fnNan a
  | .inf neg => (FFmt.fp32.signBit neg, 0)
  | .fin neg m _ => if m = 0 then (FFmt.fp32.inf neg, fDz) else fpDiv .fp32 f32one a

def fnSigmoid (a : Nat) : Nat × Flags :=
  match FFmt.fp32.decode a with
  | .nan .. => fnNan a
  | .inf neg => (if neg then 0 else f32one, 0)
  | .fin _ m _ =>
    if m = 0 then (f32half, 0)
    else
      let ex := (fnExp (if FFmt.fp32.neg a then a - 2 ^ 31 else a + 2 ^ 31)).1
      fnRecip (fpAdd .fp32 .rne f32one ex).1

def fnRsqrt (a : Nat) : Nat × Flags :=
  match FFmt.fp32.decode a with
  | .nan .. => fnNan a
  | .inf neg => if neg then (f32dnan, fNv) else (0, 0)
  | .fin neg m e =>
    if m = 0 then (FFmt.fp32.inf neg, fDz)
    else if neg then (f32dnan, fNv)
    else
      let l : Int := (Nat.log2 m : Int) + e
      -- x = μ·2^(2h), μ in [1, 4)
      let h := l / 2
      let r := segment .rsqrt ((⟨m, e - 2 * h⟩ : Dy).sub (Dy.ofInt 1))
      ((roundFp .fp32 ((dy32 r.1).scale (-h)) false .rne false).1, r.2)

/-- Log entry 22 (DEDUCED). -/
def fnSilu (a : Nat) : Nat × Flags :=
  match FFmt.fp32.decode a with
  | .nan .. => fnNan a
  | .inf neg => (if neg then f32nzero else f32pinf, 0)
  | .fin _ m _ => if m = 0 then (a, 0) else fpMul .fp32 .rne a (fnSigmoid a).1

def fnGelu (a : Nat) : Nat × Flags :=
  match FFmt.fp32.decode a with
  | .nan .. => fnNan a
  | .inf neg => (if neg then f32nzero else f32pinf, 0)
  | .fin _ m _ =>
    if m = 0 then (a, 0)
    else
      let h := (fpMul .fp32 .rne a 0x3F3504F3).1
      let w := (rne32 (((Dy.ofInt 1).add (dy32 (fnOdd .erf h).1)).scale (-1)) false).1
      fpMul .fp32 .rne a w

/-- sin and cos: ρ is the fraction of x/(2π), rounded toward zero to FP32. -/
def fnTrig (f : SegFn) (a : Nat) : Nat × Flags :=
  match FFmt.fp32.decode a with
  | .nan .. => fnNan a
  | .inf _ => (f32dnan, fNv)
  | .fin neg m e =>
    if m = 0 then (if f = .cos then (f32one, 0) else (a, 0))
    else
      let p := (FV.fin neg m e).dy.mul constC3
      let fr := p.sub (Dy.ofInt p.floor)
      segment f (dy32 (roundFp .fp32 fr false .rtz false).1)

/-- VFN by its fn code (R151); fn 0xE and 0xF are unassigned. Log entry 22 (DEDUCED). -/
def vfn (fn : Nat) (a : Nat) : Nat × Flags :=
  match fn with
  | 0x0 => fnExp2 a
  | 0x1 => fnLog2 a
  | 0x2 => fnExp a
  | 0x3 => fnLog a
  | 0x4 => fnOdd .tanh a
  | 0x5 => fnSigmoid a
  | 0x6 => fnOdd .erf a
  | 0x7 => fnRsqrt a
  | 0x8 => fpSqrt a
  | 0x9 => fnRecip a
  | 0xA => fnSilu a
  | 0xB => fnGelu a
  | 0xC => fnTrig .sin a
  | _ => fnTrig .cos a

/-! ### MCG-128 (R59 to R61) -/

/-- Four 32-bit words, word 0 first. -/
structure Quad where
  a : W32
  b : W32
  c : W32
  d : W32
  deriving DecidableEq, Repr

/-- Word j of a 128-bit value, word 0 the least significant. -/
def wordOf (x : W128) (j : Nat) : W32 := x.extractLsb' (32 * j) 32

/-- The quarter round. -/
def qr (x : Quad) : Quad :=
  let a := x.a + x.b
  let d := (x.d ^^^ a).rotateLeft 16
  let c := x.c + d
  let b := (x.b ^^^ c).rotateLeft 12
  let a := a + b
  let d := (d ^^^ a).rotateLeft 8
  let c := c + d
  let b := (b ^^^ c).rotateLeft 7
  ⟨a, b, c, d⟩

/-- mcg128(K, C) (R59). -/
def mcg128 (k c : W128) : W128 :=
  let x0 : Quad :=
    ⟨(wordOf c 0 ^^^ 0x9E3779B9) + wordOf k 0, (wordOf c 1 ^^^ 0x7F4A7C15) + wordOf k 1,
     (wordOf c 2 ^^^ 0xF39CC060) + wordOf k 2, (wordOf c 3 ^^^ 0x5CEDC834) + wordOf k 3⟩
  let x1 := qr x0
  let x2 := qr ⟨x1.a + wordOf k 1, x1.b + wordOf k 2, x1.c + wordOf k 3, x1.d + wordOf k 0⟩
  (x2.d ^^^ wordOf k 1) ++ (x2.c ^^^ wordOf k 0) ++ (x2.b ^^^ wordOf k 3) ++ (x2.a ^^^ wordOf k 2)

/-- A draw at an offset (R60). -/
def rngDraw (key base off : W128) : W128 := mcg128 key (base + off)

/-- unif_co(y) and unif_oc(y) as FP32 patterns (R61). -/
def unifCo (y : W32) : W32 :=
  BitVec.ofNat 32 (roundFp .fp32 ⟨(y.toNat / 256 : Nat), -24⟩ false .rne false).1
def unifOc (y : W32) : W32 :=
  BitVec.ofNat 32 (roundFp .fp32 ⟨(y.toNat / 256 + 1 : Nat), -24⟩ false .rne false).1

end Sys2Proof.Machine
end

