-- ==== Sys2Proof/Machine/Mem.lean ====
section
/-! DEFINITION. Sparse byte memory in its canonical form, and the byte-order readings built on one byte (R10). -/

namespace Sys2Proof.Machine

/-- Byte of a sorted cell list, if listed. -/
def cellsGet : List Host.Cell → Nat → Option Byte
  | [], _ => none
  | (k, b) :: t, a => if k = a then some b else if a < k then none else cellsGet t a

/-- Put a byte into a sorted cell list. -/
def cellsPut : List Host.Cell → Nat → Byte → List Host.Cell
  | [], a, b => [(a, b)]
  | (k, x) :: t, a, b => if k = a then (a, b) :: t else if a < k then (a, b) :: (k, x) :: t else (k, x) :: cellsPut t a b

/-- Remove an address from a sorted cell list. -/
def cellsDel : List Host.Cell → Nat → List Host.Cell
  | [], _ => []
  | (k, x) :: t, a => if k = a then t else if a < k then (k, x) :: t else (k, x) :: cellsDel t a

/-- The addresses of a cell list rise strictly, all above `lo`. -/
def cellsSorted : Option Nat → List Host.Cell → Bool
  | _, [] => true
  | lo, (k, _) :: t => (match lo with | none => true | some l => l < k) && cellsSorted (some k) t

/-- B-die index of a physical address (R292). -/
def dieOf (pa : Nat) : Nat := pa / 2 ^ 39 % 16

/-- Offset of a physical address in its B-die's window (R292). -/
def offOf (pa : Nat) : Nat := pa % 2 ^ 39

/-- The address lies in an HBM4E stack (R292). -/
def isHbm (pa : Nat) : Bool := 0x4000000000 ≤ offOf pa && offOf pa < 0x5000000000

/-- What an unlisted address reads as: 0 (log entry 4), and a free value in a stack whose hash has changed (R298).
Log entry 4 (DESIGN CHOICE). -/
def Mem.dflt (m : Mem) (a : Nat) : Byte :=
  if isHbm a then
    match m.junk.lookup (dieOf a) with
    | none => 0
    | some e => Config.freeByte e a
  else 0

/-- Read one byte. Log entry 4 (DESIGN CHOICE). -/
def Mem.get (m : Mem) (a : Nat) : Byte := (cellsGet m.cells a).getD (m.dflt a)

/-- Write one byte, keeping the canonical form. -/
def Mem.set (m : Mem) (a : Nat) (b : Byte) : Mem :=
  { m with cells := if b = m.dflt a then cellsDel m.cells a else cellsPut m.cells a b }

/-- The canonical form. -/
def Mem.wf (m : Mem) : Bool := cellsSorted none m.cells && m.cells.all fun c => c.2 != m.dflt c.1

/-- The `n` bytes from address `a` on. -/
def Mem.read (m : Mem) (a : Nat) : Nat → List Byte
  | 0 => []
  | n + 1 => m.get a :: Mem.read m (a + 1) n

/-- Write bytes from address `a` on. -/
def Mem.write (m : Mem) (a : Nat) : List Byte → Mem
  | [] => m
  | b :: t => Mem.write (m.set a b) (a + 1) t

/-- Write single bytes, in order. -/
def Mem.setAll (m : Mem) (l : List (Nat × Byte)) : Mem := l.foldl (fun m p => m.set p.1 p.2) m

/-- The number that bytes hold, little-endian (R10). -/
def leNat : List Byte → Nat
  | [] => 0
  | b :: t => b.toNat + 256 * leNat t

/-- The `n` little-endian bytes of a number (R10). -/
def leBytes : Nat → Nat → List Byte
  | 0, _ => []
  | n + 1, v => BitVec.ofNat 8 v :: leBytes n (v / 256)

/-- Little-endian number of `n` bytes at `a`. -/
def Mem.readLE (m : Mem) (a n : Nat) : Nat := leNat (m.read a n)

/-- Write the `n` low bytes of a number at `a`, little-endian. -/
def Mem.writeLE (m : Mem) (a n v : Nat) : Mem := m.write a (leBytes n v)

/-- Little-endian word at `a`. -/
def Mem.w64 (m : Mem) (a : Nat) : W64 := BitVec.ofNat 64 (m.readLE a 8)

/-- Little-endian 32-bit word at `a`. -/
def Mem.w32 (m : Mem) (a : Nat) : W32 := BitVec.ofNat 32 (m.readLE a 4)

/-- An address lies in a stack whose unlisted bytes are not 0 (R298). -/
def Mem.junky (m : Mem) (a : Nat) : Bool := isHbm a && (m.junk.lookup (dieOf a)).isSome

/-- The `n` bytes from address `a` on, as a memory of its own that starts at 0. -/
def Mem.window (m : Mem) (a n : Nat) : Mem :=
  { cells := if m.junky a then (List.range n).filterMap fun k => let b := m.get (a + k); if b = 0 then none else some (k, b)
             else (m.cells.filter fun c => a ≤ c.1 && c.1 < a + n && c.2 != 0).map fun c => (c.1 - a, c.2) }

/-- The cells of a list at addresses from lo to hi − 1. -/
def cellsIn (lo hi : Nat) (l : List Host.Cell) : List Host.Cell := l.filter fun c => lo ≤ c.1 && c.1 < hi

/-- Replace the bytes of the regions (start, length), ascending, by those of a cell list, every other byte of a region by 0. -/
def Mem.overlay (m : Mem) (regions : List (Nat × Nat)) (cs : List Host.Cell) : Mem :=
  let lo := match regions.head? with | some r => r.1 | none => 0
  let hi := match regions.getLast? with | some r => r.1 + r.2 | none => 0
  let old := m.cells.filter fun c => !(regions.any fun r => r.1 ≤ c.1 && c.1 < r.1 + r.2)
  let cs := if regions.any fun r => m.junky r.1 then
      regions.flatMap fun r => (List.range r.2).map fun k => (r.1 + k, (cellsGet cs (r.1 + k)).getD 0)
    else cs
  let mid := (cs.foldr (fun c (m : Mem) => m.set c.1 c.2) { m with cells := cellsIn lo hi old }).cells
  { m with cells := old.filter (fun c => c.1 < lo) ++ cellsIn lo hi mid ++ old.filter fun c => lo ≤ c.1 && hi ≤ c.1 }

/-- Forget the contents of a stack after a change of its hash, the one with number `e` (R298). -/
def Mem.scramble (m : Mem) (b e : Nat) : Mem :=
  { cells := m.cells.filter fun c => !(isHbm c.1 && dieOf c.1 == b),
    junk := (b, e) :: m.junk }

end Sys2Proof.Machine
end

