-- ==== Sys2Proof/Machine/Net.lean ====
section
/-! DEFINITION. Sockets, die kinds, the router mesh and the route-round crossbar (R3 to R8, R345 to R349). -/

namespace Sys2Proof.Machine

/-- Die kinds with the codes of CASTK0 and CASTK1 (R345). -/
inductive Kind where
  | empty | g | b | h | s | m | v
  deriving DecidableEq, Repr

/-- The 3-bit kind code (R345). -/
def Kind.code : Kind → Nat
  | .empty => 0 | .g => 1 | .b => 2 | .h => 3 | .s => 4 | .m => 5 | .v => 6

/-- The product is an XN-18. -/
def isXn18 (product : BitVec 8) : Bool := product == 0x18

/-- The kind of die a socket holds (R4, R5). Log entry 1 (DESIGN CHOICE). -/
def kindOf (product : BitVec 8) (s : Nat) : Kind :=
  if isXn18 product then
    if [0, 17].contains s then .g else if [1, 2, 3, 4, 11, 12].contains s then .b else if s = 6 then .h
    else if s = 5 then .s else if [7, 9, 14, 16].contains s then .m else if [8, 10, 13, 15].contains s then .v else .empty
  else
    if [0, 5, 30, 35].contains s then .g else if [1, 2, 3, 4, 12, 17, 18, 23, 31, 32, 33, 34].contains s then .b
    else if s = 6 then .h else if [11, 24, 29].contains s then .s
    else if [7, 9, 14, 16, 19, 21, 26, 28].contains s then .m
    else if [8, 10, 13, 15, 20, 22, 25, 27].contains s then .v else .empty

/-- Number of sockets of the product (R3). -/
def nSockets (product : BitVec 8) : Nat := if isXn18 product then 18 else 36

/-- Sockets of a kind in ascending order. -/
def socketsOf (product : BitVec 8) (k : Kind) : List Nat :=
  (List.range 36).filter fun s => kindOf product s == k

/-- The socket of B-die index b (R292). -/
def bSocket (product : BitVec 8) (b : Nat) : Option Nat := (socketsOf product .b)[b]?

/-- The die in a socket passed test and is not disabled or in reset (R345). -/
def Hub.isGood (h : Hub) (s : Nat) : Bool := h.good.getLsbD s

/-- The operation of R353 has brought this socket's die into quiesce. -/
def Hub.isQuiesced (h : Hub) (s : Nat) : Bool :=
  match h.dieOp with
  | some d => d.socket.toNat == s
  | none => false

/-- The die takes requests: good and not being quiesced (R353). -/
def Hub.serves (h : Hub) (s : Nat) : Bool := h.isGood s && !h.isQuiesced s

/-- Manhattan hops between two sockets (R8). -/
def hops (a b : Nat) : Nat :=
  let d := fun x y => if x ≤ y then y - x else x - y
  d (a / 6) (b / 6) + d (a % 6) (b % 6)

/-- The neighbour of a socket in direction 0 north, 1 east, 2 south, 3 west (R347, R349). -/
def neighbour (product : BitVec 8) (s d : Nat) : Option Nat :=
  let rows := nSockets product / 6
  let r := s / 6; let c := s % 6
  match d with
  | 0 => if 0 < r then some (s - 6) else none
  | 1 => if c < 5 then some (s + 1) else none
  | 2 => if r + 1 < rows then some (s + 6) else none
  | 3 => if 0 < c then some (s - 1) else none
  | _ => none

/-- A hop leaving a socket in a direction is usable: at least one of its two modules is trained at both ends (R347). -/
def hopUsable (h : Hub) (s d : Nat) : Bool :=
  match neighbour h.product s d with
  | none => false
  | some t =>
    let back := (d + 2) % 4
    let up := fun x m => (h.linkUp.toArray.getD x 0).getLsbD m
    (up s (2 * d) && up t (2 * back)) || (up s (2 * d + 1) && up t (2 * back + 1))

/-- The direction of the direct path's next hop: along the row first, then along the column (R347). -/
def pathDir (a b : Nat) : Nat := if a % 6 < b % 6 then 1 else if b % 6 < a % 6 then 3 else if a / 6 < b / 6 then 2 else 0

/-- Every hop of the direct path from a socket is usable (R347); `n` bounds its length. -/
def pathUsable (h : Hub) : Nat → Nat → Nat → Bool
  | 0, a, b => a == b
  | n + 1, a, b =>
    if a == b then true
    else
      let d := pathDir a b
      match neighbour h.product a d with
      | none => false
      | some t => hopUsable h a d && pathUsable h n t b

/-- The direct path from `a` to `b` enters socket `sk` from its direction `d` (R347). -/
def pathEnters (product : BitVec 8) (sk d : Nat) : Nat → Nat → Nat → Bool
  | 0, _, _ => false
  | n + 1, a, b =>
    if a == b then false
    else
      match neighbour product a (pathDir a b) with
      | none => false
      | some t => (t == sk && (pathDir a b + 2) % 4 == d) || pathEnters product sk d n t b

/-- Module m of a socket receives flits of requests from `a` to `b`, or of their responses, on the direct path (R347, R351). -/
def carries (h : Hub) (a b sk m : Nat) : Bool :=
  (pathUsable h 16 a b && pathEnters h.product sk (m / 2) 16 a b) || (pathUsable h 16 b a && pathEnters h.product sk (m / 2) 16 b a)

/-- The die has entered quiesce: the S-dies no longer offer it the crossbar (R353 step 3). -/
def Hub.isFenced (h : Hub) (s : Nat) : Bool :=
  match h.dieOp with
  | some d => d.socket.toNat == s && d.fenced
  | none => false

/-- The S-die whose crossbar serves route-rounds: the lowest good one not being quiesced (R348). -/
def crossbar (h : Hub) : Option Nat := (socketsOf h.product .s).find? h.serves

/-- The route between two sockets: hop count and whether it is a route-round; none when unreachable (R347, R348). -/
def route (h : Hub) (a b : Nat) : Option (Nat × Bool) :=
  if pathUsable h 16 a b then some (hops a b, false)
  else if (crossbar h).isSome && !h.isFenced a && !h.isFenced b then some (hops a b, true) else none

/-- Cycles from the sending of a first word to its arrival (R8). Log entry 50 (DEDUCED). Between sockets without a route, an SEV, a
remote token or a cut's message takes the time of the direct path. Log entry 101 (DESIGN CHOICE). -/
def latency (h : Hub) (a b : Nat) : Nat :=
  match route h a b with
  | some (n, rr) => 10 + 2 * n + if rr then 6 else 0
  | none => 10 + 2 * hops a b

/-- Every hop of the package is usable (R349). -/
def allHopsUsable (h : Hub) : Bool :=
  (List.range (nSockets h.product)).all fun s =>
    (List.range 4).all fun d => (neighbour h.product s d).isNone || hopUsable h s d

/-- Kind of the physical die a logical core needs (R11). -/
def coreKind (n : Nat) : Kind := if n < 64 then .m else if n < 192 then .v else .g

/-- The engine stream of a logical core (R13). -/
def engineOf (n : Nat) : Stream := if n < 64 then .m else if n < 192 then .v else .f

/-- Logical die of a logical core (R11). -/
def logicalDie (n : Nat) : Nat := if n < 64 then n / 8 else if n < 192 then 8 + (n - 64) / 16 else 16 + (n - 192) / 4

/-- Core within its logical die (R11). -/
def coreInDie (n : Nat) : Nat := if n < 64 then n % 8 else if n < 192 then (n - 64) % 16 else (n - 192) % 4

end Sys2Proof.Machine
end

