-- ==== Sys2Proof/Machine/SaveArea.lean ====
section
/-! DEFINITION. The save area of a context (R341 to R344): the image as bytes, and the state that an image, as the host may
have rewritten it, gives back (R334). -/

namespace Sys2Proof.Machine

/-- Logical core of a CTXID (R11). -/
def lcoreOf (id : BitVec 12) : Nat := id.toNat % 256

/-- Reel instance of a CTXID (R11). -/
def instOf (id : BitVec 12) : BitVec 4 := id.extractLsb' 8 4

/-- Logical core of a context. -/
def Ctx.lcore (c : Ctx) : Nat := lcoreOf c.id

/-- The engine stream of the context in focus (R13). -/
def Ctx.engine (c : Ctx) : Stream := engineOf c.lcore

/-- Set or clear one bit. -/
def setBit {n : Nat} (x : BitVec n) (i : Nat) (b : Bool) : BitVec n :=
  if b then x ||| BitVec.twoPow n i else x &&& ~~~(BitVec.twoPow n i)

/-- Where the stream restarts: the prefix's address if the instruction has one (R65). -/
def Strm.restart (st : Strm) : W64 :=
  match st.pfx with
  | some p => p.addr
  | none => st.pc

/-! ## The save area (R341 to R344) -/

/-- Bytes of a 64-bit field list placed one after another. -/
def wordsBytes (l : List W64) : List Byte := l.flatMap fun w => leBytes 8 w.toNat

/-- Status word of the header (R343). -/
def statusBits (c : Ctx) : Nat :=
  let b := fun (x : Bool) (n : Nat) => if x then 2 ^ n else 0
  b c.t.hmode 0 + b (c.s.halted || c.life = .removed) 1 + b (c.life = .removed) 2 + b c.v.forked 3 + b c.t.wpend.isSome 4 +
  b c.cp.shadowWritten 5 + b (c.life = .stopped) 6 + b (c.t.hmode && c.t.kept.isSome) 7

/-- CTXSTAT (R368). -/
def Ctx.stat (c : Ctx) : W64 := BitVec.ofNat 64 (statusBits c % 128 + c.t.cause.toNat * 256)

/-- A tile-table entry as 128 bits (R17). -/
def Tile.bits (t : Tile) : Nat :=
  (if t.valid then 2 ^ 127 else 0) + t.level.toNat * 2 ^ 124 + t.fmt.toNat * 2 ^ 120 + t.rows.toNat * 2 ^ 104 +
  t.cols.toNat * 2 ^ 88 + t.busy.toNat * 2 ^ 80 + t.base.toNat * 2 ^ 48 + t.size.toNat * 2 ^ 24 + t.slots.toNat * 2 ^ 16 +
  t.head.toNat * 2 ^ 8 + t.filled.toNat

/-- A tile-table entry from its 128 bits. -/
def Tile.ofBits (n : Nat) : Tile :=
  { valid := n / 2 ^ 127 % 2 == 1, level := BitVec.ofNat 3 (n / 2 ^ 124), fmt := BitVec.ofNat 4 (n / 2 ^ 120),
    rows := BitVec.ofNat 16 (n / 2 ^ 104), cols := BitVec.ofNat 16 (n / 2 ^ 88), busy := BitVec.ofNat 8 (n / 2 ^ 80),
    base := BitVec.ofNat 23 (n / 2 ^ 48), size := BitVec.ofNat 24 (n / 2 ^ 24), slots := BitVec.ofNat 8 (n / 2 ^ 16),
    head := BitVec.ofNat 8 (n / 2 ^ 8), filled := BitVec.ofNat 8 n }

/-- A folio slot entry as 128 bits (R25). -/
def FolioSlot.bits (f : FolioSlot) : Nat :=
  f.st.toNat * 2 ^ 126 + f.nin.toNat * 2 ^ 120 + f.lat.toNat * 2 ^ 112 + f.image.toNat * 2 ^ 56 + f.hash.toNat

/-- A folio slot entry from its 128 bits. -/
def FolioSlot.ofBits (n : Nat) : FolioSlot :=
  { st := BitVec.ofNat 2 (n / 2 ^ 126), nin := BitVec.ofNat 6 (n / 2 ^ 120), lat := BitVec.ofNat 8 (n / 2 ^ 112),
    image := BitVec.ofNat 56 (n / 2 ^ 56), hash := BitVec.ofNat 48 n }

/-- The imm25 of MFMT that the activation format corresponds to (R193, R343). -/
def MState.fmtWord (m : MState) : Nat := m.fmt.toNat + 16 * m.qt.toNat + 64 * m.x3.toNat

/-- Accumulator word of the header (R343). -/
def MState.accWord (m : MState) : Nat := m.mode.toNat + 4 * m.depth.toNat + if m.arm then 64 else 0

/-- Bank word of the header (R343). -/
def Bank.word (b : Bank) : Nat := b.fmt.toNat + 16 * b.nw.toNat + if b.loaded then 2 ^ 18 else 0

/-- Bytes of a nest (R343). -/
def nestBytes (n : Vector NestLv 6) : List Byte :=
  n.toList.flatMap fun l => leBytes 4 l.count.toNat ++ leBytes 4 l.sa.toNat ++ leBytes 4 l.su.toNat ++ leBytes 4 l.sw.toNat

/-- The segments (offset, bytes) of the header, in ascending order (R343). -/
def headerSegs (c : Ctx) : List (Nat × List Byte) :=
  let kept : List W64 := match c.t.kept with
    | some k => if c.t.hmode then [k.cause, k.tval, k.epc, k.tseqs, k.tseqe, k.tseqc] else []
    | none => []
  [(0x000, wordsBytes [c.id.setWidth 64, BitVec.ofNat 64 (statusBits c), c.moddef, c.nflags.setWidth 64, c.t.tvec, c.t.epc,
      c.t.cause.setWidth 64, c.t.tval, c.t.tseqs, c.t.tseqe, c.t.tseqc, c.t.fvec, c.events.setWidth 64]),
   (0x068, leBytes 4 c.piV.toNat ++ leBytes 4 c.piM.toNat ++ leBytes 4 c.piC.toNat ++ leBytes 4 c.piF.toNat),
   (0x078, leBytes 8 (c.gd.toList.reverse.foldl (fun n x => 4 * n + x.toNat) 0)),
   (0x080, c.cp.sb.toList.flatMap fun x => leBytes 4 x.toNat),
   (0x0A0, wordsBytes [c.s.restart, c.c.restart, c.e.restart, (c.t.wpend.getD 0)]),
   (0x0C0, if c.v.forked then wordsBytes (c.v.cl.toList.map fun k => k.st.restart) else []),
   (0x140, wordsBytes c.g.toList), (0x240, leBytes 8 c.taint.toNat),
   (0x248, wordsBytes [c.s.seq, c.e.seq, c.c.seq]), (0x260, wordsBytes c.cp.a.toList),
   (0x300, c.rn.toList.flatMap fun r => leBytes 16 r.1.toNat ++ leBytes 16 r.2.toNat),
   (0x500, nestBytes c.m.shadowNest), (0x560, nestBytes c.m.activeNest),
   (0x5C0, leBytes 4 c.m.fmtWord ++ leBytes 4 c.m.accWord ++ leBytes 4 c.m.j.toNat ++
      leBytes 4 c.m.active.word ++ leBytes 4 c.m.shadow.word),
   (0x5D8, wordsBytes kept)]

/-- The record of a fabric element (R344). -/
def elemBytes (x : Elem) : List Byte :=
  let qw := fun (w : FWord) => leBytes 8 (w.data.toNat + w.code.toNat * 2 ^ 32 + 2 ^ 63)
  let q2 := fun (l : List FWord) => ((l.flatMap qw) ++ List.replicate 16 (0 : Byte)).take 16
  let port := match x.port with
    | none => List.replicate 12 (0 : Byte)
    | some p => [p.handle, if p.out then 1 else 0, if p.rag then 1 else 0, p.hl] ++ leBytes 4 p.row.toNat ++ leBytes 4 p.col.toNat
  (x.loop.toList.flatMap fun b => leBytes 12 b.toNat) ++
  [BitVec.ofNat 8 ((x.n.toNat - 1) + if x.loaded then 128 else 0), x.pc.setWidth 8, if x.halted then 1 else 0,
   BitVec.ofNat 8 (x.per.toNat + 16 * x.pha.toNat), if x.off then 1 else 0] ++ List.replicate 11 0 ++
  (x.e.toList.flatMap fun w => leBytes 4 w.toNat) ++ (x.q.toList.flatMap q2) ++ port ++ List.replicate 84 0 ++
  (x.lmem.toList.flatMap fun w => leBytes 4 w.toNat)

/-- Bytes of a big register, skipping a register of zeros. -/
def regSeg (off n : Nat) (v : Nat) : List (Nat × List Byte) := if v = 0 then [] else [(off, leBytes n v)]

/-- Every segment of the image but memories, in ascending order (R342). -/
def imageSegs (c : Ctx) : List (Nat × List Byte) :=
  headerSegs c ++
  [(0x1000, c.tiles.toList.flatMap fun t => leBytes 16 t.bits), (0x2000, c.folio.toList.flatMap fun f => leBytes 16 f.bits),
   (0x2400, (c.cp.activeTab.toList ++ c.cp.shadowTab.toList).flatMap fun w => leBytes 4 w.toNat),
   (0x2C00, c.tok.toList.flatMap fun q => ((q.flatMap fun t => leBytes 2 t.toNat) ++ List.replicate 64 0).take 64),
   (0x2F80, c.tok.toList.map fun q => BitVec.ofNat 8 q.length), (0x2F90, leBytes 2 c.v.y.toNat)] ++
  (if c.engine = .f then [(0x6000, c.f.el.toList.flatMap elemBytes)] else [])

/-- V and m registers (R342). -/
def vectorSegs (c : Ctx) : List (Nat × List Byte) :=
  ((List.range 16).flatMap fun k => (List.range 64).flatMap fun i =>
    regSeg (0x80000 + 65536 * k + 1024 * i) 1024 (((c.v.cl.toArray.getD k {}).v.toArray.getD i 0).toNat)) ++
  ((List.range 16).flatMap fun k => (List.range 7).flatMap fun i =>
    regSeg (0x180000 + 256 * k + 32 * i) 32 (((c.v.cl.toArray.getD k {}).m.toArray.getD i 0).toNat))

/-- The nonzero bytes of segments as cells above a base. -/
def segCells (base : Nat) (segs : List (Nat × List Byte)) : List Host.Cell :=
  segs.flatMap fun p => (p.2.zipIdx (base + p.1)).filterMap fun q => if q.1 = 0 then none else some (q.2, q.1)

/-- Cells of a memory moved up by a base. -/
def shiftCells (base : Nat) (m : Mem) : List Host.Cell := m.cells.map fun c => (base + c.1, c.2)

/-- The regions of the save area that a context's core kind has (R342); the queue records are the hub's own.
Log entry 20 (DEDUCED). -/
def imageRegions (c : Ctx) : List (Nat × Nat) :=
  [(0, 0x3000)] ++ (if c.engine = .f then [(0x6000, 0x20000)] else []) ++ [(0x26000, 0x1A000), (0x40000, 0x40000)] ++
  (if c.engine = .v then [(0x80000, 0x101000)] else []) ++ [(0x181000, 0x7F000)] ++
  (if c.engine = .m then [(0x200000, 0x400000)] else []) ++ [(0x600000, 0x200000), (0x800000, 0x800000)]

/-- The cells of the save-area image, ascending (R342). -/
def imageCells (base : Nat) (c : Ctx) : List Host.Cell :=
  segCells base (imageSegs c) ++ shiftCells (base + 0x40000) c.priv ++
  (if c.engine = .v then segCells base (vectorSegs c) else []) ++
  (if c.engine = .m then shiftCells (base + 0x200000) c.m.active.bytes ++ shiftCells (base + 0x400000) c.m.shadow.bytes else []) ++
  shiftCells (base + 0x800000) c.spad

/-! ## Reading it back (R334) -/

/-- A reader of one save area: the number of `n` bytes at an offset. -/
abbrev Area := Nat → Nat → Nat

/-- The save area at a physical address. -/
def areaAt (m : Mem) (base : Nat) : Area := fun off n => m.readLE (base + off) n

/-- A 64-bit field. -/
def Area.d (a : Area) (off : Nat) : W64 := BitVec.ofNat 64 (a off 8)
/-- A 32-bit field. -/
def Area.w (a : Area) (off : Nat) : W32 := BitVec.ofNat 32 (a off 4)

/-- A stream whose restart address is read back; a different address replaces what was fetched. -/
def Strm.restartAt (st : Strm) (v : W64) : Strm :=
  if v = st.restart then st else { st with pc := v &&& ~~~3, pfx := none }

/-- A loop nest (R343). -/
def readNest (a : Area) (off : Nat) : Vector NestLv 6 :=
  Vector.ofFn fun l => { count := a.w (off + 16 * l.val), sa := a.w (off + 16 * l.val + 4), su := a.w (off + 16 * l.val + 8),
                         sw := a.w (off + 16 * l.val + 12) }

/-- A bank's word (R343). -/
def Bank.withWord (b : Bank) (w : Nat) (bytes : Mem) : Bank :=
  { b with fmt := BitVec.ofNat 4 w, nw := BitVec.ofNat 14 (w / 16), loaded := w / 2 ^ 18 % 2 == 1, bytes := bytes }

/-- The matrix engine's part of the save area (R342, R343). -/
def MState.readBack (m : MState) (a : Area) (mem : Mem) (base : Nat) : MState :=
  let f := a 0x5C0 4; let acc := a 0x5C4 4
  { m with shadowNest := readNest a 0x500, activeNest := readNest a 0x560, fmt := BitVec.ofNat 4 f,
           qt := BitVec.ofNat 2 (f / 16), x3 := BitVec.ofNat 1 (f / 64), mode := BitVec.ofNat 2 acc,
           depth := BitVec.ofNat 4 (acc / 4), arm := acc / 64 % 2 == 1, j := BitVec.ofNat 20 (a 0x5C8 4),
           active := m.active.withWord (a 0x5CC 4) (mem.window (base + 0x200000) 0x200000),
           shadow := m.shadow.withWord (a 0x5D0 4) (mem.window (base + 0x400000) 0x200000) }

/-- The clusters' registers (R342). -/
def readClusters (v : VState) (a : Area) (forked : Bool) : VState :=
  let one := fun (k : Fin 16) (c : Cluster) =>
    let v := Vector.ofFn fun (i : Fin 64) => BitVec.ofNat 8192 (a (0x80000 + 65536 * k.val + 1024 * i.val) 1024)
    let m := Vector.ofFn fun (i : Fin 7) => BitVec.ofNat 256 (a (0x180000 + 256 * k.val + 32 * i.val) 32)
    { c with v := v, m := m, st := if forked then c.st.restartAt (a.d (0xC0 + 8 * k.val)) else c.st }
  { v with cl := Vector.ofFn fun k => one k v.cl[k], forked := forked }

/-- The words of an input queue (R344). -/
def readQueue (a : Area) (off : Nat) : List FWord :=
  [a.d off, a.d (off + 8)].filterMap fun w =>
    if w.getLsbD 63 then some { data := w.setWidth 32, code := w.extractLsb' 32 2 } else none

/-- A fabric element's record (R344); whether it takes part in the run in progress is the hub's own record. -/
def Elem.readBack (x : Elem) (a : Area) (off : Nat) : Elem :=
  let b := fun (k : Nat) => a (off + k) 1
  let port := x.port.map fun p =>
    { p with handle := BitVec.ofNat 8 (b 928), out := b 929 % 2 == 1, rag := b 930 % 2 == 1, hl := BitVec.ofNat 8 (b 931),
             row := a.w (off + 932), col := a.w (off + 936) }
  { x with loop := Vector.ofFn fun i => BitVec.ofNat 96 (a (off + 12 * i.val) 12), n := BitVec.ofNat 7 (b 768 % 64 + 1),
           loaded := 128 ≤ b 768, pc := BitVec.ofNat 6 (b 769), halted := b 770 % 2 == 1, per := BitVec.ofNat 4 (b 771),
           pha := BitVec.ofNat 4 (b 771 / 16), off := b 772 % 2 == 1, e := Vector.ofFn fun i => a.w (off + 784 + 4 * i.val),
           q := Vector.ofFn fun i => readQueue a (off + 848 + 16 * i.val), port := port,
           lmem := Vector.ofFn fun i => a.w (off + 1024 + 4 * i.val) }

/-- The registers kept across a FOLIO_ABSENT handler (R183, R343). -/
def KeptTrap.readBack (k : KeptTrap) (a : Area) : KeptTrap :=
  { k with cause := a.d 0x5D8, tval := a.d 0x5E0, epc := a.d 0x5E8, tseqs := a.d 0x5F0, tseqe := a.d 0x5F8, tseqc := a.d 0x600 }

/-- The trap registers (R343). -/
def TrapState.readBack (t : TrapState) (a : Area) : TrapState :=
  let st := a 8 8
  { t with tvec := a.d 0x20, epc := a.d 0x28, cause := BitVec.ofNat 7 (a 0x30 8), tval := a.d 0x38, tseqs := a.d 0x40,
           tseqe := a.d 0x48, tseqc := a.d 0x50, fvec := a.d 0x58, hmode := st % 2 == 1,
           kept := if st / 128 % 2 == 1 then t.kept.map fun k => k.readBack a else t.kept,
           wpend := if st / 16 % 2 == 1 then some (a.d 0xB8) else none }

/-- The copy stream's part (R342, R343). -/
def CState.readBack (c : CState) (a : Area) : CState :=
  { c with a := Vector.ofFn fun i => a.d (0x260 + 8 * i.val), sb := Vector.ofFn fun i => BitVec.ofNat 16 (a (0x80 + 4 * i.val) 4),
           activeTab := Vector.ofFn fun i => a.w (0x2400 + 4 * i.val), shadowTab := Vector.ofFn fun i => a.w (0x2800 + 4 * i.val),
           shadowWritten := a 8 8 / 32 % 2 == 1 }

/-- A context's state as its save area holds it; the queue records stay the hub's own (R334, R342). -/
def Ctx.readBack (c : Ctx) (mem : Mem) (base : Nat) : Ctx :=
  let a := areaAt mem base
  let tok := fun (n : Fin 14) => (List.range (Nat.min 32 (a (0x2F80 + n.val) 1))).map fun k =>
    BitVec.ofNat 16 (a (0x2C00 + 64 * n.val + 2 * k) 2)
  let v := { c.v with y := BitVec.ofNat 16 (a 0x2F90 2) }
  let gd := a 0x78 8
  { c with
    moddef := a.d 0x10, nflags := BitVec.ofNat 32 (a 0x18 8), events := BitVec.ofNat 8 (a 0x60 8), t := c.t.readBack a
    piV := a.w 0x68, piM := a.w 0x6C, piC := a.w 0x70, piF := a.w 0x74
    gd := Vector.ofFn fun i => BitVec.ofNat 2 (gd / 4 ^ i.val)
    s := { (c.s.restartAt (a.d 0xA0)) with halted := a 8 8 / 2 % 2 == 1, seq := a.d 0x248 }
    c := { (c.c.restartAt (a.d 0xA8)) with seq := a.d 0x258 }
    e := { (c.e.restartAt (a.d 0xB0)) with seq := a.d 0x250 }
    g := Vector.ofFn fun i => a.d (0x140 + 8 * i.val), taint := BitVec.ofNat 32 (a 0x240 8)
    rn := Vector.ofFn fun i => (BitVec.ofNat 128 (a (0x300 + 32 * i.val) 16), BitVec.ofNat 128 (a (0x310 + 32 * i.val) 16))
    tiles := Vector.ofFn fun i => Tile.ofBits (a (0x1000 + 16 * i.val) 16)
    folio := Vector.ofFn fun i => FolioSlot.ofBits (a (0x2000 + 16 * i.val) 16)
    tok := Vector.ofFn tok, cp := c.cp.readBack a
    v := if c.engine = .v then readClusters v a (a 8 8 / 8 % 2 == 1) else v
    m := if c.engine = .m then c.m.readBack a mem base else c.m
    f := if c.engine = .f then { c.f with el := Vector.ofFn fun i => (c.f.el[i]).readBack a (0x6000 + 2048 * i.val) } else c.f
    priv := mem.window (base + 0x40000) 0x40000, spad := mem.window (base + 0x800000) 0x800000 }

end Sys2Proof.Machine
end

