-- ==== Sys2Proof/Machine/Ops.lean ====
section
/-! DEFINITION. The named operations over the state: contexts and instances, registers, stream bookkeeping, the pointer
checks of R31, translation (R302), accesses to global, private and tile memory with the B-die SRAM, the traps of R331, their
return (R332), removal (R337) and the save area (R341 to R344). -/

namespace Sys2Proof.Machine

/-! ## Contexts and instances -/

/-- Insert a context in ascending CTXID. -/
def insertCtx (c : Ctx) : List Ctx → List Ctx
  | [] => [c]
  | d :: t => if c.id.toNat ≤ d.id.toNat then c :: d :: t else d :: insertCtx c t

/-- Every existing context, the one in focus first. -/
def State.ctxs (s : State) : List Ctx := if s.me.life = .none then s.rest else s.me :: s.rest

/-- The context with the given CTXID. -/
def State.ctx? (s : State) (id : BitVec 12) : Option Ctx := s.ctxs.find? fun c => c.id == id

/-- Change the context with the given CTXID, if it exists. -/
def State.modCtx (s : State) (id : BitVec 12) (f : Ctx → Ctx) : State :=
  if s.me.id = id ∧ s.me.life ≠ .none then { s with me := f s.me }
  else { s with rest := s.rest.map fun c => if c.id = id then f c else c }

/-- Change every existing context. -/
def State.mapCtxs (s : State) (f : Ctx → Ctx) : State :=
  { s with me := (if s.me.life = .none then s.me else f s.me), rest := s.rest.map f }

/-- Bring a context into focus. -/
def State.focus (s : State) (id : BitVec 12) : Option State :=
  if s.me.id = id ∧ s.me.life ≠ .none then some s
  else
    match s.rest.find? fun c => c.id == id with
    | none => none
    | some c =>
      let others := s.rest.filter fun d => d.id != id
      some { s with me := c, rest := if s.me.life = .none then others else insertCtx s.me others }

/-- CTXID of a logical core of an instance (R11). -/
def ctxIdOf (i : BitVec 4) (n : Nat) : BitVec 12 := BitVec.ofNat 12 (256 * i.toNat + n)

/-- Reel instance by number. -/
def State.inst (s : State) (i : BitVec 4) : Inst := s.insts[i.toNat]'(by have := i.isLt; omega)

/-- Change a reel instance. -/
def State.modInst (s : State) (i : BitVec 4) (f : Inst → Inst) : State :=
  { s with insts := s.insts.set i.toNat (f (s.inst i)) (by have := i.isLt; omega) }

/-- The instance of the context in focus. -/
def State.myInst (s : State) : Inst := s.inst (instOf s.me.id)

/-- TAKECC (R32). Log entry 92 (DEDUCED). -/
def State.takecc (s : State) (c : Ctx) : Nat := s.cc - c.takeStart

/-- Remap entry of a context (R267). -/
def State.remapEntry (s : State) (id : BitVec 12) : W32 := (s.inst (instOf id)).remap.toArray.getD (lcoreOf id) 0

/-- Socket of a remap entry (R267). -/
def entSocket (e : W32) : Nat := (e.extractLsb' 26 6).toNat
/-- Core within the die of a remap entry (R267). -/
def entCore (e : W32) : Nat := (e.extractLsb' 22 4).toNat
/-- Slice of a remap entry (R267). -/
def entSlice (e : W32) : Nat := (e.extractLsb' 19 3).toNat
/-- Number of contexts sharing the core less one (R267). -/
def entNslice (e : W32) : Nat := (e.extractLsb' 16 3).toNat

/-- Socket of the physical core that the remap table gives a context. -/
def State.socketOf (s : State) (id : BitVec 12) : Nat := entSocket (s.remapEntry id)

/-- Physical address of a context's save area (R341). -/
def State.saveAddr (s : State) (id : BitVec 12) : Nat :=
  ((s.inst (instOf id)).savebase.extractLsb' 24 19).toNat * 2 ^ 24 + lcoreOf id * 2 ^ 24

/-- Saves are enabled for the context's instance (R341). -/
def State.canSave (s : State) (id : BitVec 12) : Bool := (s.inst (instOf id)).savebase.getLsbD 0

/-- A context as others find it: one that is stopped for the host is what its save area holds, once it has been written (R334,
R386). -/
def State.view (s : State) (id : BitVec 12) : Option Ctx :=
  (s.ctx? id).map fun c => if c.life = .stopped && c.imageDue.isNone then c.readBack s.mem (s.saveAddr id) else c

/-- A context that is stopped for the host is read back from its save area (R334). -/
def State.refresh (s : State) (id : BitVec 12) : State :=
  match s.view id with
  | some c => s.modCtx id fun _ => c
  | none => s

/-! ## Registers -/

/-- Read gN: g0 reads as zero (R15). -/
def Ctx.rg (c : Ctx) (r : BitVec 5) : W64 := if r = 0 then 0 else c.g[r.toNat]'r.isLt

/-- Taint of gN: g0 is never tainted (R15). -/
def Ctx.tnt (c : Ctx) (r : BitVec 5) : Bool := r ≠ 0 && c.taint.getLsbD r.toNat

/-- Write gN and its taint bit; a write to g0 is discarded (R15, R16). -/
def Ctx.wg (c : Ctx) (r : BitVec 5) (v : W64) (t : Bool) : Ctx :=
  if r = 0 then c
  else { c with g := c.g.set r.toNat v r.isLt, taint := setBit c.taint r.toNat t }

/-- Guard slot (R21); slot 0 is no slot. -/
def Ctx.guard (c : Ctx) (i : BitVec 4) : BitVec 2 := c.gd[i.toNat]'i.isLt

/-- Tile-table entry (R17). -/
def Ctx.tile (c : Ctx) (h : BitVec 8) : Tile := c.tiles[h.toNat]'h.isLt

/-- Write a tile-table entry. -/
def Ctx.setTile (c : Ctx) (h : BitVec 8) (t : Tile) : Ctx := { c with tiles := c.tiles.set h.toNat t h.isLt }

/-- Raise or lower the busy count of a handle (R17, R18). -/
def Ctx.busyUp (c : Ctx) (h : BitVec 8) : Ctx := let t := c.tile h; c.setTile h { t with busy := t.busy + 1 }
/-- Lower the busy count of a handle (R17). -/
def Ctx.busyDown (c : Ctx) (h : BitVec 8) : Ctx :=
  let t := c.tile h; c.setTile h { t with busy := if t.busy = 0 then 0 else t.busy - 1 }

/-- The flags raised so far in the running cycle (R29). -/
def Ctx.raisedNow (c : Ctx) : W32 := if c.raised.1 = c.runCc then c.raised.2 else 0

/-- Raise numeric flags (R29). -/
def Ctx.raise (c : Ctx) (f : W32) : Ctx :=
  if f = 0 then c else { c with nflags := c.nflags ||| f, raised := (c.runCc, c.raisedNow ||| f) }

/-- Token channel (R20). -/
def Ctx.chan (c : Ctx) (i : Nat) : List W16 := c.tok.toArray.getD i []

/-- Write a token channel. -/
def Ctx.setChan (c : Ctx) (i : Nat) (l : List W16) : Ctx := { c with tok := c.tok.setIfInBounds i l }

/-! ## Modifiers (R34, R69, R93, R214) -/

/-- The prefix replaces the modifiers of MODDEF (R69). -/
def Pfx.mv (p : Pfx) : Bool := p.mods.getLsbD 0

/-- MODDEF for the instruction at the head of a stream: as it stood when an engine or copy stream's reached the head (R35). -/
def Ctx.moddefAt (c : Ctx) (st : Strm) : W64 := st.mod.getD c.moddef

/-- The context with MODDEF as the instruction at the head of a stream has it (R35). -/
def Ctx.headed (c : Ctx) (st : Strm) : Ctx := { c with moddef := c.moddefAt st }

/-- The modifier fields of R34 in force at the head of a stream, in MODDEF's bit positions [11:1]. -/
def modBits (c : Ctx) (st : Strm) : BitVec 12 :=
  match st.pfx with
  | some q => if q.mv then q.mods else (c.moddefAt st).extractLsb' 0 12
  | none => (c.moddefAt st).extractLsb' 0 12

/-- Scope in force (R34). -/
def mScope (c : Ctx) (st : Strm) : BitVec 3 := (modBits c st).extractLsb' 9 3
/-- Order in force (R34). -/
def mOrder (c : Ctx) (st : Strm) : BitVec 2 := (modBits c st).extractLsb' 7 2
/-- Cache policy in force (R34). -/
def mCache (c : Ctx) (st : Strm) : BitVec 2 := (modBits c st).extractLsb' 5 2
/-- Rounding code in force (R34). -/
def mRound (c : Ctx) (st : Strm) : BitVec 3 := (modBits c st).extractLsb' 2 3
/-- Saturation in force (R34, R41). -/
def mSat (c : Ctx) (st : Strm) : Bool := (modBits c st).getLsbD 1
/-- Domain level for domain-shared access (R34, R69). -/
def Ctx.dsl (c : Ctx) : Nat := (c.moddef.extractLsb' 13 3).toNat

/-- The cycle bound of a prefix in cc, 0 for none (R68). -/
def boundOf (p : Option Pfx) : Nat :=
  match p with
  | some q => q.bman.toNat * 2 ^ q.bexp.toNat
  | none => 0

/-- The mask field of a V-stream prefix (R69). -/
def pfxMask (p : Option Pfx) : BitVec 3 :=
  match p with
  | some q => q.mods.extractLsb' 9 3
  | none => 0

/-! ## Stream bookkeeping -/

/-- The stream has retired its instruction and goes on at `pc` (R92, R328). -/
def Strm.next (st : Strm) (pc : W64) (cc : Nat) : Strm :=
  { st with pc := pc, pfx := none, seq := st.seq + 1, wait := none, headCc := none, guardOk := false,
            afterCue := none, lastCc := some cc, busy := none, mod := none, tried := none, trapping := false, word := none }

/-- The stream in which the machine acts. -/
def State.strm (s : State) : Strm :=
  match s.cur.st with
  | .s => s.me.s
  | .c => s.me.c
  | .v => if s.me.v.forked then (s.me.v.cl[s.cur.cl.toNat]'s.cur.cl.isLt).st else s.me.e
  | .m | .f | .e => s.me.e

/-- Replace the stream in which the machine acts. -/
def State.setStrm (s : State) (st : Strm) : State :=
  match s.cur.st with
  | .s => { s with me := { s.me with s := st } }
  | .c => { s with me := { s.me with c := st } }
  | .v =>
    if s.me.v.forked then
      let k := s.me.v.cl[s.cur.cl.toNat]'s.cur.cl.isLt
      { s with me := { s.me with v := { s.me.v with cl := s.me.v.cl.set s.cur.cl.toNat { k with st := st } s.cur.cl.isLt } } }
    else { s with me := { s.me with e := st } }
  | .m | .f | .e => { s with me := { s.me with e := st } }

/-- Retire the current instruction of the current stream; the next word follows it. -/
def State.retire (s : State) : State := s.setStrm (s.strm.next (s.strm.pc + 4) s.cc)

/-- Retire the current instruction of the current stream and continue at `pc`. -/
def State.retireTo (s : State) (pc : W64) : State := s.setStrm (s.strm.next pc s.cc)

/-- Retire an S-stream instruction. -/
def State.retireS (s : State) : State := { s with me := { s.me with s := s.me.s.next (s.me.s.pc + 4) s.cc } }

/-- Retire an S-stream instruction and continue at `pc`. -/
def State.retireSTo (s : State) (pc : W64) : State := { s with me := { s.me with s := s.me.s.next pc s.cc } }

/-- The instruction stays at its queue head, held (R283 codes). -/
def Strm.held (st : Strm) (kind : BitVec 4) (obj : Nat) (runCc : Nat) : Strm :=
  { st with wait := some { kind := kind, obj := BitVec.ofNat 20 obj },
            headCc := some (st.headCc.getD runCc), tried := some runCc, trapping := false }

/-- The current instruction of the current stream holds. -/
def State.hold (s : State) (kind : BitVec 4) (obj : Nat) : State := s.setStrm (s.strm.held kind obj s.me.runCc)

/-- An S-stream instruction holds. -/
def State.holdS (s : State) (kind : BitVec 4) (obj : Nat) : State :=
  { s with me := { s.me with s := s.me.s.held kind obj s.me.runCc } }

/-- The head of a stream is considered, first in this running cycle unless it has been (R68); an engine or copy stream's takes
MODDEF as it then stands (R35). -/
def Strm.arrive (st : Strm) (runCc : Nat) (moddef : Option W64) : Strm :=
  { st with headCc := some (st.headCc.getD runCc), mod := moddef.map st.mod.getD }

/-- The instruction at the head of the current stream no longer keeps a handle busy (R128, R248). -/
def State.freeRing (s : State) : State :=
  match s.strm.busy with
  | some h => ({ s with me := s.me.busyDown h }).setStrm { s.strm with busy := none }
  | none => s

/-! ## Pointers (R30, R31) -/

/-- What a generic pointer names after checks 1 to 4 of R31. -/
inductive PLoc where
  | glob (va : Nat)
  | priv (off : Nat)
  /-- Logical core, handle, byte offset in the tile, and scratchpad offset. -/
  | tile (core : Nat) (h : BitVec 8) (off base : Nat)
  deriving DecidableEq, Repr

/-- The domain field of MEMBER at a level (R33). -/
def domField (member : W64) (l : Nat) : Nat := if l = 0 then 0 else (member.toNat / 2 ^ (8 * (l - 1))) % 256

/-- Two contexts share a domain at a level (R33). -/
def shareDomain (a b : W64) (l : Nat) : Bool := domField a l == domField b l

/-- Tag of a pointer (R30). -/
def ptrTag (p : W64) : Nat := (p.extractLsb' 60 4).toNat

/-- Check 1 of R31: the tag is assigned, the fields shown as 0 are 0, the logical core is at most 207. Log entry 25 (DEDUCED). -/
def ptrCheck1 (p : W64) : Bool :=
  let t := ptrTag p
  if p.extractLsb' 56 4 ≠ 0 then false
  else if t == 0 then true
  else if t == 8 then
    p.extractLsb' 48 8 = 0 && p.extractLsb' 32 4 = 0 && (p.extractLsb' 36 12).toNat ≤ 207
  else if t == 9 then p.extractLsb' 32 4 = 0 && (p.extractLsb' 36 12).toNat ≤ 207
  else if t == 10 then p.extractLsb' 32 4 = 0 && (p.extractLsb' 44 12).toNat ≤ 207
  else false

/-- Check 2 of R31: owner or domain. -/
def ptrCheck2 (s : State) (c : Ctx) (p : W64) : Bool :=
  let t := ptrTag p
  if t == 8 || t == 9 then (p.extractLsb' 36 12).toNat == c.lcore
  else if t == 10 then
    match s.ctx? (ctxIdOf (instOf c.id) (p.extractLsb' 44 12).toNat) with
    | some d => shareDomain c.member d.member c.dsl
    | none => false
  else true

/-- The logical core and handle that a tile or domain-shared pointer names. -/
def ptrTileRef (c : Ctx) (p : W64) : Nat × BitVec 8 :=
  if ptrTag p == 9 then (c.lcore, p.extractLsb' 48 8) else ((p.extractLsb' 44 12).toNat, p.extractLsb' 36 8)

/-- The tile entry that a tile or domain-shared pointer names. -/
def ptrTile (s : State) (c : Ctx) (p : W64) : Tile :=
  let r := ptrTileRef c p
  if r.1 = c.lcore then c.tile r.2
  else
    match s.view (ctxIdOf (instOf c.id) r.1) with
    | some d => d.tile r.2
    | none => {}

/-- Check 3 of R31: the handle is valid. -/
def ptrCheck3 (s : State) (c : Ctx) (p : W64) : Bool :=
  if ptrTag p == 9 || ptrTag p == 10 then (ptrTile s c p).valid else true

/-- Check 4 of R31: the access lies within the tile, or within the 256 KiB of private memory. -/
def ptrCheck4 (s : State) (c : Ctx) (p : W64) (size : Nat) : Bool :=
  let off := (p.extractLsb' 0 32).toNat
  let t := ptrTag p
  if t == 8 then off < 0x40000 && off + size ≤ 0x40000
  else if t == 9 || t == 10 then
    let n := (ptrTile s c p).size.toNat
    off < n && off + size ≤ n
  else true

/-- Cause codes used by name (R326). -/
def cSpaceForeign : BitVec 7 := 0x13
/-- SPACE_BAD_TAG (R326). -/
def cSpaceBadTag : BitVec 7 := 0x14
/-- SPACE_RANGE (R326). -/
def cSpaceRange : BitVec 7 := 0x15
/-- TILE_UNALLOCATED (R326). -/
def cTileUnalloc : BitVec 7 := 0x16

/-- The checks 1 to 4 of R31 in order; the first that fails gives its cause. -/
def checkPtr (s : State) (c : Ctx) (p : W64) (size : Nat) : Except (BitVec 7) PLoc :=
  if !ptrCheck1 p then .error cSpaceBadTag
  else if !ptrCheck2 s c p then .error cSpaceForeign
  else if !ptrCheck3 s c p then .error cTileUnalloc
  else if !ptrCheck4 s c p size then .error cSpaceRange
  else
    let off := (p.extractLsb' 0 32).toNat
    if ptrTag p == 0 then .ok (.glob (p.extractLsb' 0 56).toNat)
    else if ptrTag p == 8 then .ok (.priv off)
    else .ok (.tile (ptrTileRef c p).1 (ptrTileRef c p).2 off ((ptrTile s c p).base.toNat + off))

/-! ## Translation (R292, R301, R302) -/

/-- The address has contents that a reel may use: its B-die exists and passed test, and it lies in mappable LPDDR-6 (less
the journal of R379) or in HBM4E. -/
def mappable (h : Hub) (pa : Nat) : Bool :=
  match bSocket h.product (dieOf pa) with
  | none => false
  | some sk =>
    pa < 2 ^ 43 && h.isGood sk &&
    (offOf pa < (if h.boJen then 0x2DC0000000 else 0x2FC0000000) || isHbm pa)

/-- The address exists on the package, for the hub's own accesses (R292). -/
def physExists (h : Hub) (pa : Nat) : Bool :=
  (bSocket h.product (dieOf pa)).isSome && pa < 2 ^ 43 && offOf pa < 0x5000000000

/-- Byte span of the page that a leaf at a level maps (R302). -/
def pageSize (lvl : Nat) : Nat := if lvl = 3 then 2 ^ 30 else if lvl = 2 then 2 ^ 21 else 2 ^ 16

/-- Index of a virtual address into a table of a level (R302). -/
def vaIndex (va lvl : Nat) : Nat :=
  if lvl = 4 then va / 2 ^ 39 % 2 ^ 17 else if lvl = 3 then va / 2 ^ 30 % 512
  else if lvl = 2 then va / 2 ^ 21 % 512 else va / 2 ^ 16 % 32

/-- A bit that R302 reserves is nonzero. -/
def entryReserved (e : W64) : Bool :=
  e.extractLsb' 43 21 ≠ 0 || e.extractLsb' 5 3 ≠ 0 || e.getLsbD 2 ||
  (if e.getLsbD 1 then e.extractLsb' 8 8 ≠ 0 else e.getLsbD 4 || e.getLsbD 3)

/-- B-die registers by index. -/
def State.bdie (s : State) (b : Nat) : BDie := s.bdies.toArray.getD b {}

/-- Change a B-die's registers. -/
def State.modBdie (s : State) (b : Nat) (f : BDie → BDie) : State :=
  { s with bdies := s.bdies.setIfInBounds b (f (s.bdie b)) }

/-- Accesses to the frame of a physical address hold at its home: the stack is out of service (R298), or the frame moves
(R306). -/
def State.holdsAt (s : State) (pa : Nat) : Bool :=
  (isHbm pa && !(s.bdie (dieOf pa)).en) || s.moves.any fun m => m.b.toNat == dieOf pa && m.src == pa / 65536

/-- The atoms of global memory that no read can give: poisoned ones, and those with an error that none has met yet (R299). -/
def State.badAtoms (s : State) : List Nat := s.poison ++ (s.flips.filter (·.2)).map (·.1)

/-- What a walk answers: the physical address, the address of the leaf entry and its bits, the table entries read, and whether
it cannot go on yet, or has met an entry that no read can give. -/
structure Walk where
  pa : Option Nat
  leafPa : Nat
  leaf : W64
  reads : List Nat
  hold : Bool := false
  bad : Bool := false
  deriving DecidableEq, Repr

/-- The walk of R302 from the table at `t`, level by level; without an answer and a hold it is the fault. -/
def walkFrom (s : State) (va : Nat) (wr : Bool) : Nat → Nat → List Nat → Walk
  | 0, _, rd => { pa := none, leafPa := 0, leaf := 0, reads := rd }
  | lvl + 1, t, rd =>
    let l := lvl + 1
    let a := t + 8 * vaIndex va l
    let stop : Walk := { pa := none, leafPa := a, leaf := 0, reads := rd }
    if !mappable s.hub t then stop
    else if s.holdsAt a then { stop with hold := true }
    else if s.badAtoms.contains (a / 32) then { stop with reads := rd ++ [a], bad := true }
    else
      let e := s.mem.w64 a
      let stop := { stop with reads := rd ++ [a], leaf := e }
      if !e.getLsbD 0 || entryReserved e then stop
      else if e.getLsbD 1 then
        let frame := (e.extractLsb' 16 27).toNat * 2 ^ 16
        if l = 4 || frame % pageSize l ≠ 0 then stop
        else
          let pa := frame + va % pageSize l
          if !mappable s.hub pa || (wr && !e.getLsbD 3) then stop
          else { stop with pa := some pa }
      else if l = 1 then stop
      else walkFrom s va wr lvl ((e.extractLsb' 8 35).toNat * 2 ^ 8) (rd ++ [a])

/-- The walk of an instance's space (R301, R302). Log entry 17 (DEDUCED). -/
def walk (s : State) (i : BitVec 4) (va : Nat) (wr : Bool) : Walk :=
  let r := (s.inst i).ptroot
  if !r.getLsbD 0 then { pa := none, leafPa := 0, leaf := 0, reads := [] }
  else walkFrom s va wr 4 ((r.extractLsb' 20 23).toNat * 2 ^ 20) []

/-! ## B-die SRAM and the pseudo-channel counters (R294 to R297, R384) -/

/-- Parity of the ones of a number below 2^23. -/
def parity23 (x : BitVec 23) : Bool := (List.range 23).foldl (fun b i => b != x.getLsbD i) false

/-- The pseudo-channel of a stack address (R296). -/
def pcSelect (d : BDie) (a : Nat) : Nat :=
  (List.range 6).foldl (fun n i =>
    let fold := parity23 (BitVec.ofNat 23 (a / 2 ^ 13) &&& d.pchash.toArray.getD i 0)
    if (a / 2 ^ (7 + i) % 2 == 1) != fold then n + 2 ^ i else n) 0

/-- The pseudo-channels of the granules that a B-die has counted in cycle `cc` (R384). -/
def BDie.countedIn (d : BDie) (cc : Nat) : List Nat := if d.pcNow.1 = cc then d.pcNow.2 else []

/-- Count one granule transfer of the stack that homes a line (R384); LPDDR-6 has no counters. -/
def State.countGranule (s : State) (pa : Nat) : State :=
  if isHbm pa then
    s.modBdie (dieOf pa) fun d =>
      let p := pcSelect d (offOf pa - 0x4000000000)
      { d with pccnt := d.pccnt.setIfInBounds p (d.pccnt.toArray.getD p 0 + 1), pcNow := (s.cc, p :: d.countedIn s.cc) }
  else s

/-- Write a dirty line back to DRAM (R295). -/
def State.writeBack (s : State) (l : Line) : State := if l.dirty then s.countGranule (l.line * 128) else s

/-- Lines that a partition of a B-die can hold (R294): banks of 4 MiB. -/
def partLines (d : BDie) (retain : Bool) : Nat := (if retain then d.retain.toNat else 64 - d.retain.toNat) * 32768

/-- Remove the least recently used line of a full partition (R294). -/
def State.evict (s : State) (b : Nat) (retain : Bool) : State :=
  let mine := s.sram.filter fun l => dieOf (l.line * 128) == b && l.retain == retain
  if mine.length < partLines (s.bdie b) retain then s
  else
    match mine.getLast? with
    | none => s
    | some l => { s.writeBack l with sram := s.sram.filter fun x => x.line != l.line }

/-- Whose writes a line holds, once `w` has written too, at choice `tick`. -/
def Line.byWriter (l : Line) (w : Agent) (tick : Nat) : List (Agent × Nat) :=
  if (l.who.lookup w).isSome then l.who else (w, tick) :: l.who

/-- One access to one 128-byte line through its B-die's SRAM (R294, R384): a write of `w`, which overwrites the line if `whole`,
or a read. -/
def State.sramLine (s : State) (line : Nat) (w : Option (Agent)) (whole : Bool) (cache : BitVec 2) : State :=
  let b := dieOf (line * 128)
  let old := s.mem.read (line * 128) 128
  match s.sram.find? fun l => l.line == line with
  | some l =>
    let others := s.sram.filter fun x => x.line != line
    let l' := match w with
      | some w => { l with dirty := true, old := if l.dirty then l.old else old, who := l.byWriter w s.tick }
      | none => l
    { s with sram := l' :: others }
  | none =>
    let retain := cache == 2 && (s.bdie b).retain != 0
    match w with
    | some w =>
      if cache == 1 then s.countGranule (line * 128)
      else
        let s := (if whole then s else s.countGranule (line * 128)).evict b retain
        { s with sram := { line := line, retain := retain, dirty := true, old := old, who := [(w, s.tick)] } :: s.sram }
    | none =>
      let s := s.countGranule (line * 128)
      if cache == 1 then s
      else
        let s := s.evict b retain
        { s with sram := { line := line, retain := retain, dirty := false, old := [], who := [] } :: s.sram }

/-- The lines that `n` bytes from `pa` touch. -/
def linesOf (pa n : Nat) : List Nat :=
  if n = 0 then [] else (List.range ((pa + n - 1) / 128 - pa / 128 + 1)).map fun k => pa / 128 + k

/-- Physical address of the access counter of a frame of a B-die (R305). -/
def BDie.counterPa (d : BDie) (frame : Nat) : Nat := (d.migcnt.extractLsb' 16 27).toNat * 65536 + frame % 2 ^ 23

/-- The migration engine, while it runs, counts a granule access to a frame, saturating at 255 (R305). Its own accesses to its
structures, which lie in LPDDR-6, take no line of the SRAM. Log entry 77 (DEDUCED). -/
def State.countFrame (s : State) (line : Nat) : State :=
  let d := s.bdie (dieOf (line * 128))
  if !d.migctl.getLsbD 0 then s
  else
    let a := d.counterPa (line / 512)
    let n := s.mem.get a
    if n = 255 then s else { s with mem := s.mem.set a (n + 1) }

/-- A read of `n` bytes through the SRAM. -/
def State.sramRead (s : State) (pa n : Nat) (cache : BitVec 2) : State :=
  (linesOf pa n).foldl (fun s l => (s.sramLine l none false cache).countFrame l) s

/-- A write of `n` bytes through the SRAM, before the bytes change. -/
def State.sramWrite (s : State) (pa n : Nat) (cache : BitVec 2) (w : Agent) : State :=
  (linesOf pa n).foldl (fun s l => (s.sramLine l (some w) (pa ≤ l * 128 && l * 128 + 128 ≤ pa + n) cache).countFrame l) s

/-- The bytes DRAM holds, which a dirty line hides (R295, R309). -/
def State.dramRead (s : State) (pa n : Nat) : List Byte :=
  (List.range n).map fun k =>
    let a := pa + k
    match s.sram.find? fun l => l.line == a / 128 && l.dirty with
    | some l => l.old.getD (a % 128) 0
    | none => s.mem.get a

/-- Write back the dirty lines that are chosen; they stay, clean (R295). -/
def State.flushLines (s : State) (p : Line → Bool) : State :=
  let s' := (s.sram.filter fun l => l.dirty && p l).foldl (fun s l => s.writeBack l) s
  { s' with sram := s'.sram.map fun l => if l.dirty && p l then { l with dirty := false, old := [], who := [] } else l }

/-- The number of choices below which a writer's writes happen before (R314). -/
def Known.bound (k : Known) (w : Agent) : Nat := (k.lookup w).getD 0

/-- What two streams know, together. -/
def Known.join (a b : Known) : Known :=
  b.foldl (fun a p => (p.1, Nat.max p.2 (a.bound p.1)) :: a.filter fun q => q.1 != p.1) a

/-- A write that a line holds happens before. -/
def Line.covered (l : Line) (k : Known) : Bool := l.who.any fun p => p.2 < k.bound p.1

/-- A fence or release at system scope writes back the dirty lines that hold writes which happen before it, and no other (R295,
R316). -/
def State.release (s : State) (k : Known) : State := s.flushLines fun l => l.covered k

/-- What a context has acquired in a stream (R314). -/
def Before.of (b : Before) : Stream → Known
  | .s => b.s
  | .c => b.c
  | _ => b.e

/-- What a release of a stream of a context releases at choice `tick`: what it has acquired, and the stream's own writes, of the C
stream those of the copies that have completed (R314). Log entry 16 (DEDUCED). -/
def Ctx.gives (c : Ctx) (st : Stream) (tick : Nat) : Known :=
  match st with
  | .s => c.hb.s.join [((c.id, 0), tick)]
  | .c => c.hb.c.join [((c.id, 3), c.hb.copied)]
  | _ => c.hb.e

/-- A stream acquires what a release carries (R314). -/
def Ctx.acquire (c : Ctx) (st : Stream) (k : Known) : Ctx :=
  { c with hb := match st with
      | .s => { c.hb with s := c.hb.s.join k }
      | .c => { c.hb with c := c.hb.c.join k }
      | _ => { c.hb with e := c.hb.e.join k } }

/-- What the current stream releases now. -/
def State.gives (s : State) : Known := s.me.gives s.cur.st s.tick

/-- The current stream acquires. -/
def State.acquire (s : State) (k : Known) : State := { s with me := s.me.acquire s.cur.st k }

/-- Bytes that another write overwrites no longer bear a release. -/
def unmark (l : List Mark) (p : Nat → Bool) : List Mark :=
  l.filterMap fun m => let at_ := m.bytes.filter fun a => !p a; if at_.isEmpty then none else some { m with bytes := at_ }

/-- Scratchpad bytes are overwritten. -/
def Ctx.unmark (c : Ctx) (p : Nat → Bool) : Ctx :=
  { c with hb := { c.hb with marks := Machine.unmark c.hb.marks p } }

/-- Write back every dirty line that holds writes of an instance (R320). Log entry 16 (DEDUCED). -/
def State.flushInst (s : State) (i : BitVec 4) : State :=
  s.flushLines fun l => l.who.any fun w => instOf w.1.1 == i && lcoreOf w.1.1 < 208

/-- Write back every dirty line of a B-die (R339, R353). Log entry 82 (DEDUCED). -/
def State.flushDie (s : State) (b : Nat) : State :=
  let mine := s.sram.filter fun l => l.dirty && dieOf (l.line * 128) == b
  let s := mine.foldl (fun s l => s.writeBack l) s
  { s with sram := s.sram.filter fun l => dieOf (l.line * 128) != b }

/-! ## Hub bookkeeping -/

/-- A dword of the MSI-X table: four per vector, the last one's bit 0 its mask (R361, R365). -/
def Hub.msixWord (h : Hub) (n : Nat) : W32 := (h.msixTab.lookup n).getD (Config.msixReset n)

/-- The vector is masked in the MSI-X table. -/
def Hub.masked (h : Hub) (v : BitVec 6) : Bool := (h.msixWord (4 * v.toNat + 3)).getLsbD 0

/-- Events whose vectors are no longer masked leave for the host, oldest first (R365). -/
def Hub.release (h : Hub) : Hub :=
  { h with msix := h.msix ++ h.msixHeld.filter fun v => !h.masked v, msixHeld := h.msixHeld.filter h.masked }

/-- Assert an MSI-X vector once; the event is retained while the vector is masked (R365). -/
def State.msi (s : State) (v : Nat) : State :=
  { s with hub := ({ s.hub with msixHeld := s.hub.msixHeld ++ [BitVec.ofNat 6 v] }).release }

/-- Add 1 to a lifetime counter, saturating (R383). -/
def State.lifeInc (s : State) (k : Nat) : State :=
  let old := (s.hub.life.lookup k).getD 0
  let new := if old = BitVec.allOnes 64 then old else old + 1
  { s with hub := { s.hub with life := (k, new) :: s.hub.life.filter fun p => p.1 != k } }

/-- Add n to a lifetime counter (R383). -/
def State.lifeAdd (s : State) (k : Nat) : Nat → State
  | 0 => s
  | n + 1 => (s.lifeInc k).lifeAdd k n

/-- Write an error log record under FUNCMODE.elog (R367). Hub cycles since boot are counted as two to a core cycle that passes.
Log entry 100 (DESIGN CHOICE). -/
def State.elog (s : State) (event : Nat) (socket : Nat) (cause : Nat) (ctx : Option (BitVec 12)) (w1 w3 : W64) : State :=
  if !s.hub.funcmode.getLsbD 5 then s
  else if 64 ≤ s.hub.elogq.length then
    { s with hub := { s.hub with elogLost := if s.hub.elogLost = 0xFFFFFFFF then s.hub.elogLost else s.hub.elogLost + 1 } }
  else
    let id : Nat := match ctx with | some i => i.toNat | none => 0xFFFF
    let w2 : Nat := match ctx with | some i => s.cc - (s.inst (instOf i)).launchCc | none => 2 * s.cc
    let r : ELog := { w0 := BitVec.ofNat 64 (event * 2 ^ 56 + socket * 2 ^ 48 + cause * 2 ^ 40 + id), w1 := w1,
                      w2 := BitVec.ofNat 64 w2, w3 := w3 }
    ({ s with hub := { s.hub with elogq := s.hub.elogq ++ [r] } }).msi 6

/-- The record of a read that fails at an atom, or of an atom that is poisoned; `who`: the context whose access failed, and the
cause that it raises (R299, R367). Log entry 76 (DEDUCED). -/
def State.logBad (s : State) (who : Option (BitVec 12 × BitVec 7)) (pa : Nat) : State :=
  s.elog 0x02 ((bSocket s.hub.product (dieOf pa)).getD 0) (match who with | some w => w.2.toNat | none => 0) (who.map (·.1))
    (BitVec.ofNat 64 (pa / 32 * 32)) (if isHbm pa then 0 else 1)

/-! ## Errors of global memory (R299, R300) -/

/-- Add 1 to a saturating 32-bit count. -/
def satInc (x : W32) : W32 := if x = 0xFFFFFFFF then x else x + 1

/-- A corrected atom is counted and logged, with no context (R299, R300, R367, R383). Log entry 76 (DEDUCED). -/
def State.noteCor (s : State) (pa : Nat) : State :=
  let hbm := isHbm pa
  let b := dieOf pa
  let s := s.modBdie b fun d => if hbm then { d with hbmCor := satInc d.hbmCor } else { d with lpCor := satInc d.lpCor }
  (s.lifeInc ((if hbm then 16 else 32) + b)).elog 0x01 ((bSocket s.hub.product b).getD 0) 0 none (BitVec.ofNat 64 (pa / 32 * 32))
    (if hbm then 0 else 1)

/-- An uncorrectable atom is poisoned and counted (R299, R300, R383). -/
def State.noteUnc (s : State) (pa : Nat) : State :=
  let s := s.modBdie (dieOf pa) fun d =>
    if isHbm pa then { d with hbmUnc := satInc d.hbmUnc } else { d with lpUnc := satInc d.lpUnc }
  ({ s with poison := (pa / 32) :: s.poison.erase (pa / 32) }).lifeInc (48 + dieOf pa)

/-- The errors that a read of `n` bytes meets first: one of a single bit is corrected, written back and counted, another poisons
its atom and is counted (R299, R300). -/
def State.meet (s : State) (pa n : Nat) : State :=
  let hit := fun (f : Nat × Bool) => pa / 32 ≤ f.1 && f.1 ≤ (pa + n - 1) / 32
  (s.flips.filter hit).foldl (fun s f => if f.2 then s.noteUnc (f.1 * 32) else s.noteCor (f.1 * 32))
    { s with flips := s.flips.filter fun f => !hit f }

/-- The table reads of a walk, under the normal policy (R294, R384), with the errors they meet; a poisoned entry is counted
(R302). `who`: the context whose access walks, and the cause that a fault raises. -/
def State.countWalk (s : State) (w : Walk) (who : Option (BitVec 12 × BitVec 7) := none) : State :=
  let s := w.reads.foldl (fun s a => (s.sramRead a 8 0).meet a 8) s
  if w.bad then (s.lifeInc (48 + dieOf w.leafPa)).logBad who w.leafPa else s

/-- The walks that the hub makes for itself. -/
def State.countWalks (s : State) (l : List Walk) : State := l.foldl (fun s w => s.countWalk w) s

/-! ## Watchpoints (R310, R311) -/

/-- Who writes (R311); kind 5 is the host or the hub, whose writes match no watchpoint. -/
structure Writer where
  kind : BitVec 4 := 0
  ctx : BitVec 12 := 0
  st : BitVec 8 := 0xFF
  seq : W64 := 0
  /-- Package of a remote writer. -/
  pkg : W16 := 0
  /-- The instance's own write, which its journal records (R379). -/
  own : Bool := true
  deriving DecidableEq, Repr, Inhabited

/-- Whose write a line of an instance's memory holds: a stream's, or the hub's or host's (R295). -/
def Writer.who (w : Writer) (i : BitVec 4) : Agent :=
  if w.kind = 4 || w.kind = 5 then (ctxIdOf i 0, 0xFF) else (w.ctx, w.st)

/-- The stream code of R283 and R311. -/
def streamCode : Stream → Nat
  | .s => 0 | .m => 1 | .v => 2 | .c => 3 | .f => 4 | .e => 4

/-- The context block of a context (R368). Log entry 72 (DEDUCED). -/
def Hub.block (h : Hub) (id : BitVec 12) : CtxBlock := (h.blocks.lookup id).getD {}

/-- A context block takes new contents. -/
def Hub.setBlock (h : Hub) (id : BitVec 12) (b : CtxBlock) : Hub :=
  { h with blocks := (id, b) :: h.blocks.filter fun p => p.1 != id }

/-- First watched atom of a watchpoint, in the virtual space, and how many there are (R310). -/
def CtxBlock.range (b : CtxBlock) (n : Nat) : Nat × Nat :=
  (((b.wpaddr.toArray.getD n 0).extractLsb' 5 51).toNat, ((b.wpctl.toArray.getD n 0).extractLsb' 1 20).toNat + 1)

/-- The comparators that the hub installs for a watchpoint: the mapped 64 KiB pages of its range and their frames (R311).
Log entry 18 (DEDUCED). -/
def State.comparators (s : State) (id : BitVec 12) (n : Nat) : List (Nat × Walk) :=
  let b := s.hub.block id
  if !(b.wpctl.toArray.getD n 0).getLsbD 0 then []
  else
    let (first, atoms) := b.range n
    (List.range ((first + atoms - 1) / 2048 - first / 2048 + 1)).map fun q =>
      let page := first / 2048 + q
      (page, walk s (instOf id) (page * 65536) false)

/-- A watchpoint of a context is armed or translated again (R311), by walks that count as others do (R294). -/
def State.installWp (s : State) (id : BitVec 12) (n : Nat) : State :=
  let b := s.hub.block id
  let l := s.comparators id n
  let at_ := l.filterMap fun p => p.2.pa.map fun pa => (p.1, pa / 65536)
  let t := s.countWalks (l.map (·.2))
  { t with hub := t.hub.setBlock id { b with wpat := b.wpat.setIfInBounds n at_ } }

/-- Index, within watchpoint `n` of a context, of the first watched atom among `k` bytes at a physical address.
Log entry 18 (DEDUCED). -/
def watchHit (s : State) (c : Ctx) (n : Nat) (pa k : Nat) : Option Nat :=
  let b := s.hub.block c.id
  let (first, atoms) := b.range n
  (b.wpat.toArray.getD n []).findSome? fun p =>
    (List.range ((pa + k - 1) / 32 - pa / 32 + 1)).findSome? fun j =>
      let atom := pa / 32 + j
      let v := p.1 * 2048 + atom % 2048
      if p.2 = atom / 2048 && first ≤ v && v < first + atoms then some (v - first) else none

/-- The report of a match (R311). Log entry 18 (DEDUCED). -/
def watchTval (w : Writer) (n idx : Nat) : W64 :=
  let who : Nat := if w.kind = 4 then w.pkg.toNat else w.ctx.toNat
  let st : Nat := if w.kind = 4 then 0 else w.st.toNat
  let low : Nat := if w.kind = 4 then idx else w.seq.toNat % 2 ^ 32
  BitVec.ofNat 64 (w.kind.toNat * 2 ^ 60 + n * 2 ^ 56 + who * 2 ^ 40 + st * 2 ^ 32 + low)

/-- Report the watchpoints that a write of `k` bytes at `pa` matches. -/
def State.watch (s : State) (w : Writer) (pa k : Nat) : State :=
  let found := s.ctxs.flatMap fun c =>
    if c.life = .removed || w.kind = 5 then []
    else (List.range 4).filterMap fun n =>
      (watchHit s c n pa k).map fun i => ({ ctx := c.id, tval := watchTval w n i } : WpMatch)
  { s with matches_ := s.matches_ ++ found }

/-- A write of `k` bytes at `pa` meets the watchpoints (R311), and what releases had left there is overwritten (R314). -/
def State.wrote (s : State) (w : Writer) (pa k : Nat) : State :=
  let s := s.watch w pa k
  { s with marks := unmark s.marks fun a => pa ≤ a && a < pa + k }

/-! ## Global memory -/

/-- What an access to memory answers. -/
inductive Acc (α : Type) where
  /-- It cannot perform yet. -/
  | hold
  /-- It completes with an error: the cause (R104, R215). -/
  | err (cause : BitVec 7)
  | ok (a : α)
  deriving Repr

/-- Why a request between two sockets is not answered: its flit failed (R351), or the far die cannot be reached (R348). -/
def State.unanswered (s : State) (a b : Nat) : Option (BitVec 7) :=
  if s.cur.loss = some (BitVec.ofNat 6 b) then some 0x51 else if (route s.hub a b).isNone then some 0x50 else none

/-- An access to the home of `pa` from a socket: it holds while the stack is out of service (R298), and fails when the
home has been quiesced or cannot be reached (R339, R348). -/
def homeState (s : State) (fromSk : Nat) (pa : Nat) : Acc Unit :=
  match bSocket s.hub.product (dieOf pa) with
  | none => .err 0x50
  | some sk =>
    if !s.hub.serves sk then .err 0x50
    else
      match s.unanswered fromSk sk with
      | some e => .err e
      | none => if s.holdsAt pa then .hold else .ok ()

/-- An atom among `n` bytes at `pa` is one that no read can give (R299). -/
def poisoned (s : State) (pa n : Nat) : Bool :=
  s.badAtoms.any fun a => pa / 32 ≤ a && a ≤ (pa + n - 1) / 32

/-- Read `n` bytes within one page of global memory at their home. -/
def State.globRead (s : State) (fromSk pa n : Nat) (cache : BitVec 2) : Acc (List Byte × State) :=
  match homeState s fromSk pa with
  | .hold => .hold
  | .err c => .err c
  | .ok () =>
    if poisoned s pa n then .err 0x17
    else .ok (s.mem.read pa n, (s.sramRead pa n cache).meet pa n)

/-- The journal of an instance takes the granules of a write that it does not hold yet, as they stand (R379).
Log entry 68 (DEDUCED). -/
def State.journal (s : State) (i : BitVec 4) (pa n : Nat) : State :=
  match (s.inst i).resume with
  | none => s
  | some r =>
    let undo := (List.range ((pa + n - 1) / 256 - pa / 256 + 1)).foldl (fun u k =>
      let g := pa / 256 + k
      if u.any fun p => p.1 == g then u else (g, s.mem.read (g * 256) 256) :: u) r.undo
    let spilled := r.overflow || (undo.filter fun p => dieOf (p.1 * 256) == dieOf pa).length > 2 ^ 24
    s.modInst i fun x => { x with resume := some { r with undo := undo, overflow := spilled } }

/-- An atom lies wholly among `n` bytes at `pa`. -/
def wholeAtom (pa n a : Nat) : Bool := pa ≤ a * 32 && a * 32 + 32 ≤ pa + n

/-- Atoms that are written whole are good again (R299). -/
def State.healAtoms (s : State) (whole : Nat → Bool) : State :=
  { s with poison := s.poison.filter fun a => !whole a, flips := s.flips.filter fun f => !whole f.1 }

/-- Write bytes within one page of global memory at their home; a write of less than an atom that cannot be read fails
(R299). -/
def State.globWrite (s : State) (fromSk pa : Nat) (bs : List Byte) (cache : BitVec 2) (i : BitVec 4) (w : Writer) :
    Acc State :=
  match homeState s fromSk pa with
  | .hold => .hold
  | .err c => .err c
  | .ok () =>
    let n := bs.length
    if s.badAtoms.any fun a => pa / 32 ≤ a && a ≤ (pa + n - 1) / 32 && !wholeAtom pa n a then .err 0x17
    else
      let s := ((s.healAtoms (wholeAtom pa n)).sramWrite pa n cache (w.who i)).meet pa n
      let s := if w.own then s.journal i pa n else s
      let s := s.wrote w pa n
      .ok { s with mem := s.mem.write pa bs }

/-! ## Scratchpads and private memory (R290, R291) -/

/-- A word of `n` bytes at `off` has an uncorrectable error. -/
def badWord (bad : List Nat) (off n : Nat) : Bool := bad.any fun w => off / 8 ≤ w && w ≤ (off + n - 1) / 8

/-- `n` bytes at `off` cover a word whole. -/
def wholeWord (off n w : Nat) : Bool := off ≤ w * 8 && w * 8 + 8 ≤ off + n

/-- Words that a write of `n` bytes at `off` covers whole are good again. -/
def healWords (bad : List Nat) (off n : Nat) : List Nat := bad.filter fun w => !wholeWord off n w

/-- The scratchpad words that no read can give (R291). -/
def Ctx.spadBad (c : Ctx) : List Nat := c.badSpad ++ (c.flipSpad.filter (·.2)).map (·.1)

/-- The words of private memory that no read can give (R291). -/
def Ctx.privBad (c : Ctx) : List Nat := c.badPriv ++ (c.flipPriv.filter (·.2)).map (·.1)

/-- Read `n` scratchpad bytes; none when a failing word is among them. -/
def Ctx.spadRead (c : Ctx) (off n : Nat) : Option (List Byte) :=
  if badWord c.spadBad off n then none else some (c.spad.read off n)

/-- Write scratchpad bytes; none when a failing word is covered in part (R291). -/
def Ctx.spadWrite (c : Ctx) (off : Nat) (bs : List Byte) : Option Ctx :=
  let n := bs.length
  if badWord (healWords c.spadBad off n) off n then none
  else some ({ c with spad := c.spad.write off bs, badSpad := healWords c.badSpad off n,
                      flipSpad := c.flipSpad.filter fun f => !wholeWord off n f.1 }.unmark fun a => off ≤ a && a < off + n)

/-- Read private bytes. -/
def Ctx.privRead (c : Ctx) (off n : Nat) : Option (List Byte) :=
  if badWord c.privBad off n then none else some (c.priv.read off n)

/-- Write private bytes. -/
def Ctx.privWrite (c : Ctx) (off : Nat) (bs : List Byte) : Option Ctx :=
  let n := bs.length
  if badWord (healWords c.privBad off n) off n then none
  else some { c with priv := c.priv.write off bs, badPriv := healWords c.badPriv off n,
                     flipPriv := c.flipPriv.filter fun f => !wholeWord off n f.1 }

/-- A tile pointer (R30). -/
def tilePtr (lcore : Nat) (h : BitVec 8) (off : Nat) : W64 :=
  BitVec.ofNat 64 (9 * 2 ^ 60 + h.toNat * 2 ^ 48 + lcore * 2 ^ 36 + off)

/-- The pointer of a scratchpad byte: that of the tile which holds it, 0 if none does (R30). -/
def Ctx.spadPtr (c : Ctx) (a : Nat) : W64 :=
  let held := fun (h : BitVec 8) => (c.tile h).valid && (c.tile h).base.toNat ≤ a && a < (c.tile h).base.toNat + (c.tile h).size.toNat
  match ((List.range 256).map (BitVec.ofNat 8)).find? held with
  | some h => tilePtr c.lcore h (a - (c.tile h).base.toNat)
  | none => 0

/-- The pointer of a private byte (R30). -/
def Ctx.privPtr (c : Ctx) (a : Nat) : W64 := BitVec.ofNat 64 (8 * 2 ^ 60 + c.lcore * 2 ^ 36 + a)

/-- The errors that a read of `n` bytes of a context's scratchpad or private memory meets first: one of a single bit is
corrected, written back and counted, another leaves its word failing (R291, R367, R383). -/
def State.meetWords (s : State) (id : BitVec 12) (priv : Bool) (off n : Nat) : State :=
  match s.ctx? id with
  | none => s
  | some c =>
    let hit := fun (f : Nat × Bool) => off / 8 ≤ f.1 && f.1 ≤ (off + n - 1) / 8
    let met := (if priv then c.flipPriv else c.flipSpad).filter hit
    if met.isEmpty then s
    else
      let bad := (met.filter (·.2)).map (·.1)
      let s := s.modCtx id fun c =>
        if priv then { c with flipPriv := c.flipPriv.filter fun f => !hit f, badPriv := bad ++ c.badPriv }
        else { c with flipSpad := c.flipSpad.filter fun f => !hit f, badSpad := bad ++ c.badSpad }
      (met.filter fun f => !f.2).foldl (fun s f =>
        (s.lifeInc (64 + s.socketOf id)).elog 0x01 (s.socketOf id) 0 (some id)
          (if priv then c.privPtr (8 * f.1) else c.spadPtr (8 * f.1)) 2) s

/-- The hub reads or writes `n` bytes of a save area through the SRAM under the streaming policy (R294, R384). Log entry 97
(DESIGN CHOICE). -/
def State.sramBulk (s : State) (pa n : Nat) (w : Option Agent) : State :=
  if isHbm pa || (s.bdie (dieOf pa)).migctl.getLsbD 0 then
    (linesOf pa n).foldl (fun s l => (s.sramLine l w true 1).countFrame l) s
  else
    match w with
    | none => s
    | some w =>
      { s with sram := s.sram.map fun l =>
          if pa ≤ l.line * 128 && l.line * 128 < pa + n then
            { l with dirty := true, old := if l.dirty then l.old else s.mem.read (l.line * 128) 128, who := l.byWriter w s.tick }
          else l }

/-- The context is held in its save area. -/
def Ctx.away (c : Ctx) : Bool := c.life = .saved || c.life = .stopped

/-- The save area of a context cannot be written now: a home holds accesses to it (R298, R306). -/
def State.areaHeld (s : State) (id : BitVec 12) : Bool :=
  let a := s.saveAddr id
  s.canSave id && ((isHbm a && !(s.bdie (dieOf a)).en) ||
    s.moves.any fun m => m.b.toNat == dieOf a && m.src / 256 == a / 2 ^ 24)

/-- Write the save-area image of a context into DRAM (R342). Log entry 20 (DEDUCED). Log entry 97 (DESIGN CHOICE). -/
def State.writeImage (s : State) (id : BitVec 12) : State :=
  match s.ctx? id with
  | none => s
  | some c =>
    if !s.canSave id then s
    else
      let base := s.saveAddr id
      let regions := (imageRegions c).map fun r => (base + r.1, r.2)
      let s := regions.foldl (fun s r => (s.journal (instOf id) r.1 r.2).sramBulk r.1 r.2 (some (id, 0xFE))) s
      let s := s.healAtoms fun a => regions.any fun r => wholeAtom r.1 r.2 a
      { s with mem := s.mem.overlay regions (imageCells base c) }

/-- The image of a context can be written now: no home holds it, and what a removal has left to complete has completed (R298,
R306, R337). -/
def State.imageReady (s : State) (c : Ctx) : Bool :=
  !s.areaHeld c.id && (c.life ≠ .removed || (c.sq.loads.isEmpty && c.sq.stores.isEmpty && c.cp.copies.isEmpty))

/-- The image of a context is written, and vector `v` follows unless it is 0; or both wait (R298, R306). -/
def State.putImage (s : State) (id : BitVec 12) (v : BitVec 6) : State :=
  match s.ctx? id with
  | none => s
  | some c =>
    let v := v ||| c.imageDue.getD 0
    if !s.imageReady c then s.modCtx id fun c => { c with imageDue := some v }
    else
      let t := (s.modCtx id fun c => { c with imageDue := none }).writeImage id
      if v = 0 then t else t.msi v.toNat

/-- The images whose homes no longer hold them are written. -/
def State.flushImages (s : State) : State :=
  s.ctxs.foldl (fun s c => match c.imageDue with | some v => if s.imageReady c then s.putImage c.id v else s | none => s) s

/-- The image of a saved or stopped context takes the bytes of a change of its state, through the SRAM, its journal and its atoms
(R271, R334, R336); that of a removed one keeps its final state (R338), and one that waits to be written takes them then. -/
def State.poke (s : State) (id : BitVec 12) (segs : List (Nat × List Byte)) : State :=
  match s.ctx? id with
  | some c =>
    if !c.away || !s.canSave id || c.imageDue.isSome then s
    else if s.areaHeld id then s.modCtx id fun c => { c with imageDue := some 0 }
    else
      segs.foldl (fun s p =>
        let pa := s.saveAddr id + p.1; let n := p.2.length
        let s := (((s.healAtoms (wholeAtom pa n)).journal (instOf id) pa n).sramBulk pa n (some (id, 0xFE))).meet pa n
        { s with mem := s.mem.write pa p.2 }) s
  | none => s

/-- A change of a context that may be saved, and of the bytes of its image that the change touches. -/
def State.update (s : State) (id : BitVec 12) (f : Ctx → Ctx) (segs : Ctx → List (Nat × List Byte)) : State :=
  let t := (s.refresh id).modCtx id f
  match t.ctx? id with
  | some c => t.poke id (segs c)
  | none => t

/-- The reads of a restore from a context's save area, with the errors they meet (R299, R335). -/
def State.readImage (s : State) (id : BitVec 12) : State :=
  match s.ctx? id with
  | none => s
  | some c => (imageRegions c).foldl (fun s r => (s.sramBulk (s.saveAddr id + r.1) r.2 none).meet (s.saveAddr id + r.1) r.2) s

/-! ## S-stream accesses performed (R103, R337) -/

/-- Why the scratchpad of context `d` does not answer context `c` (R348, R351). -/
def State.unreached (s : State) (c d : Ctx) : Option (BitVec 7) :=
  if c.id = d.id then none else s.unanswered (s.socketOf c.id) (s.socketOf d.id)

/-- The context's save area cannot be reached yet: it is still to be written, or a home holds it (R298, R306). -/
def State.awayHeld (s : State) (d : Ctx) : Bool := d.away && (d.imageDue.isSome || s.areaHeld d.id)

/-- Physical address of a scratchpad byte in a context's save area (R342). -/
def State.imagePa (s : State) (d : Ctx) (off : Nat) : Nat := s.saveAddr d.id + 0x800000 + off

/-- Context `c` accesses `n` scratchpad bytes of context `d`: the core that holds them answers, or the home of its save area (R271,
R348, R386), where an atom may be held, unreachable or failing, as for any access (R298, R299, R306, R339). -/
def State.reach (s : State) (c d : Ctx) (off n : Nat) (wr : Bool) : Acc Unit :=
  if c.id = d.id || !d.away then match s.unreached c d with | some e => .err e | none => .ok ()
  else if d.imageDue.isSome then .hold
  else
    let pa := s.imagePa d off
    match homeState s (s.socketOf c.id) pa with
    | .ok () =>
      if s.badAtoms.any fun a => pa / 32 ≤ a && a ≤ (pa + n - 1) / 32 && !(wr && wholeAtom pa n a) then .err 0x17 else .ok ()
    | r => r

/-- The granules of a context's save area that a read of its scratchpad passes, with the errors met there (R294, R299, R384).
Log entry 97 (DESIGN CHOICE). -/
def State.readAway (s : State) (d : Ctx) (off n : Nat) : State :=
  if d.away then (s.sramBulk (s.imagePa d off) n none).meet (s.imagePa d off) n else s

/-- The bytes at a location, for the access of context `c`. -/
def State.locRead (s : State) (c : Ctx) (l : Loc) (n : Nat) (cache : BitVec 2) : Acc (List Byte × State) :=
  match l with
  | .glob pa _ => s.globRead (s.socketOf c.id) pa n cache
  | .priv off => match c.privRead off n with | some b => .ok (b, s.meetWords c.id true off n) | none => .err 0x17
  | .spad core off =>
    if core = c.lcore then match c.spadRead off n with | some b => .ok (b, s.meetWords c.id false off n) | none => .err 0x17
    else
      match s.view (ctxIdOf (instOf c.id) core) with
      | some d =>
        match s.reach c d off n false with
        | .hold => .hold
        | .err e => .err e
        | .ok () =>
          match d.spadRead off n with
          | some b => .ok (b, (s.readAway d off n).meetWords d.id false off n)
          | none => .err 0x17
      | none => .err 0x50

/-- Write the bytes at a location, for the access of context `c`. A write into a saved context's scratchpad reaches its
saved image (R271, R386). -/
def State.locWrite (s : State) (c : Ctx) (l : Loc) (bs : List Byte) (cache : BitVec 2) (w : Writer) : Acc State :=
  match l with
  | .glob pa _ => s.globWrite (s.socketOf c.id) pa bs cache (instOf c.id) w
  | .priv off =>
    match c.privWrite off bs with
    | some c' => .ok ((s.modCtx c.id fun _ => c').meetWords c.id true off bs.length)
    | none => .err 0x17
  | .spad core off =>
    let id := ctxIdOf (instOf c.id) core
    match s.view id with
    | some d =>
      match s.reach c d off bs.length true with
      | .hold => .hold
      | .err e => .err e
      | .ok () =>
        match d.spadWrite off bs with
        | some d' => .ok (((s.modCtx id fun _ => d').poke id [(0x800000 + off, bs)]).meetWords id false off bs.length)
        | none => .err 0x17
    | none => .err 0x50

/-- The scope of a release covers a context (R316). -/
def State.covers (s : State) (m : Mark) (c : Ctx) : Bool :=
  let shared := fun (l : Nat) =>
    instOf c.id == instOf m.ctx && (match s.ctx? m.ctx with | some d => shareDomain c.member d.member l | none => false)
  if m.scope = 0 then c.id == m.ctx else if m.scope = 1 then shared 2 else if m.scope = 2 then shared m.dsl else true

/-- What the release stores whose bytes an acquiring load of `n` bytes returns have released, towards context `c` (R314, R316). -/
def State.released (s : State) (c : Ctx) (l : Loc) (n : Nat) : Known :=
  let seen := fun (ms : List Mark) (a : Nat) =>
    (ms.filter fun m => s.covers m c && m.bytes.any fun b => a ≤ b && b < a + n).foldl (fun (k : Known) m => k.join m.known) []
  match l with
  | .glob pa _ => seen s.marks pa
  | .priv _ => []
  | .spad core off =>
    match s.ctx? (ctxIdOf (instOf c.id) core) with
    | some d => seen d.hb.marks off
    | none => []

/-- The bytes at a location bear the release of the store that has written them (R314). -/
def State.bear (s : State) (c : Ctx) (l : Loc) (n : Nat) (k : Known) (scope : BitVec 3) (dsl : Nat) : State :=
  let mark := fun (a : Nat) => ({ bytes := List.range' a n, known := k, scope := scope, ctx := c.id, dsl := dsl } : Mark)
  match l with
  | .glob pa _ => { s with marks := mark pa :: s.marks }
  | .priv _ => s
  | .spad core off =>
    s.modCtx (ctxIdOf (instOf c.id) core) fun d => { d with hb := { d.hb with marks := mark off :: d.hb.marks } }

/-- The virtual or pointer address range of two accesses overlaps (R103, R313). -/
def locOverlap (a : Loc) (n : Nat) (b : Loc) (m : Nat) : Bool :=
  match a, b with
  | .glob p _, .glob q _ => p < q + m && q < p + n
  | .priv p, .priv q => p < q + m && q < p + n
  | .spad c p, .spad d q => c = d && p < q + m && q < p + n
  | _, _ => false

/-- Access `b` of `m` bytes covers access `a` of `n` bytes wholly; the answer is the offset of `a` in `b` (R103). -/
def locInside (a : Loc) (n : Nat) (b : Loc) (m : Nat) : Option Nat :=
  match a, b with
  | .glob p _, .glob q _ => if q ≤ p && p + n ≤ q + m then some (p - q) else none
  | .priv p, .priv q => if q ≤ p && p + n ≤ q + m then some (p - q) else none
  | .spad c p, .spad d q => if c = d && q ≤ p && p + n ≤ q + m then some (p - q) else none
  | _, _ => none

/-- The value a load writes: zero- or sign-extended from its size (R101). -/
def extendLoad (sgn : Bool) (size v : Nat) : W64 :=
  if sgn && 2 ^ (8 * size - 1) ≤ v then BitVec.ofNat 64 (v + 2 ^ 64 - 2 ^ (8 * size)) else BitVec.ofNat 64 v

/-- An access of `n` bytes that fails at an atom has read its granules and meets their errors, and the failure is logged (R299,
R367, R384). Log entry 76 (DEDUCED). -/
def State.logFail (s : State) (who : Option (BitVec 12 × BitVec 7)) (pa n : Nat) (cache : BitVec 2) : State :=
  let at_ := (s.badAtoms.filter fun a => pa / 32 ≤ a && a ≤ (pa + n - 1) / 32).foldl Nat.min ((pa + n - 1) / 32)
  ((s.sramRead pa n cache).meet pa n).logBad who (Nat.max pa (at_ * 32))

/-- One of the context in focus, which raises `cause`. -/
def State.failed (s : State) (cause : BitVec 7) (pa n : Nat) (cache : BitVec 2) : State := s.logFail (some (s.me.id, cause)) pa n cache

/-- A piece of a copy of the context in focus, whose granules have been counted, fails at an atom (R215, R367).
Log entry 76 (DEDUCED). -/
def State.logAtom (s : State) (pa : Nat) : State := (s.meet pa 1).logBad (some (s.me.id, 0x17)) pa

/-- One that fails at a word of a core's memories is logged with its pointer (R291, R367). Log entry 76 (DEDUCED). -/
def State.logWord (s : State) (p : W64) : State := s.elog 0x02 (s.socketOf s.me.id) 0x17 (some s.me.id) p 2

/-- An S access that fails so is logged. -/
def State.logAccess (s : State) (cause : BitVec 7) (l : Loc) (ea : W64) (n : Nat) (cache : BitVec 2) : State :=
  if cause = 0x17 then
    match l with
    | .glob pa _ => s.failed cause pa n cache
    | .priv off => (s.meetWords s.me.id true off 1).logWord ea
    | .spad core off => (s.meetWords (ctxIdOf (instOf s.me.id) core) false off 1).logWord ea
  else s

/-- Perform the oldest queued load of the context in focus, when the order of R313 allows it; none when it must wait. One that
waits at its queue head retires (R92). -/
def performLoad (s : State) : Option State :=
  match s.me.sq.loads with
  | [] => none
  | l :: ls =>
    let stores := s.me.sq.stores
    if stores.any fun x => x.num < l.barS then none
    else
      let left := fun (s : State) => if l.head then s.retireS else s
      let done := fun (s : State) (v : W64) =>
        left { s with me := { s.me with sq := { s.me.sq with loads := ls } }.wg l.d v l.tnt }
      match (stores.filter fun x => x.num < l.num && locOverlap l.loc l.size x.loc x.size).getLast? with
      | some x =>
        match locInside l.loc l.size x.loc x.size with
        | some k => some (done s (extendLoad l.sgn l.size (x.val.toNat / 2 ^ (8 * k) % 2 ^ (8 * l.size))))
        | none => none
      | none =>
        match s.locRead s.me l.loc l.size l.cache with
        | .hold => none
        | .err c =>
          let errs := s.me.sq.errs ++ [{ d := some l.d, cause := c, tval := l.ea }]
          some (left (({ s with me := { s.me with sq := { s.me.sq with loads := ls, errs := errs } } }).logAccess c l.loc l.ea l.size l.cache))
        | .ok (bs, s') =>
          let k := if l.acq || l.tnt then s.released s.me l.loc l.size else []
          some (done { s' with me := s'.me.acquire .s k } (extendLoad l.sgn l.size (leNat bs)))

/-- Perform the oldest queued store of the context in focus, when the order of R313 allows it; a release at system scope first
writes back what it covers (R295, R316). -/
def performStore (s : State) : Option State :=
  match s.me.sq.stores with
  | [] => none
  | x :: xs =>
    if s.me.sq.loads.any fun l => l.num < x.barL || (l.num < x.num && locOverlap l.loc l.size x.loc x.size) then none
    else
      let s0 := { s with me := { s.me with sq := { s.me.sq with stores := xs } } }
      let w : Writer := { kind := 0, ctx := s.me.id, st := 0, seq := x.seq }
      let k := s0.me.gives .s s0.tick
      let s1 := if x.scope = 4 && x.rel then s0.release k else s0
      match s1.locWrite s1.me x.loc (leBytes x.size x.val.toNat) x.cache w with
      | .hold => none
      | .err c =>
        let errs := s0.me.sq.errs ++ [{ d := none, cause := c, tval := x.ea }]
        some (({ s0 with me := { s0.me with sq := { s0.me.sq with errs := errs } } }).logAccess c x.loc x.ea x.size x.cache)
      | .ok s' => some (if x.rel then s'.bear s'.me x.loc x.size k x.scope x.dsl else s')

/-- Let issued S accesses perform until none can; one that its home holds stays (R298, R337). -/
def drainS : Nat → State → State
  | 0, s => s
  | n + 1, s =>
    match performLoad s with
    | some s' => drainS n s'
    | none => match performStore s with | some s' => drainS n s' | none => s

/-! ## Traps (R329 to R332, R334, R337) -/

/-- Flags of V instructions in flight are raised, and their handles freed, when the record is formed (R164). -/
def Ctx.settleV (c : Ctx) : Ctx :=
  let c := c.v.pend.foldl (fun c p =>
    let c := c.raise p.flags
    match p.handle with | some h => c.busyDown h | none => c) c
  { c with v := { c.v with pend := [] } }

/-- Number of the oldest engine instruction that has not completed (R329); `cl` is the cluster that raised the cause.
Log entry 15 (DEDUCED). -/
def Ctx.oldestE (c : Ctx) (cl : Option (BitVec 4)) : W64 :=
  match c.m.cur with
  | some m => m.seq
  | none =>
    if c.v.forked then
      match cl with
      | some k => (c.v.cl[k.toNat]'k.isLt).st.seq
      | none => BitVec.ofNat 64 (c.v.cl.toList.foldl (fun n k => Nat.min n k.st.seq.toNat) (2 ^ 64 - 1))
    else c.e.seq

/-- Number of the oldest C instruction that has not completed (R329). -/
def Ctx.oldestC (c : Ctx) : W64 :=
  match c.cp.copies with
  | k :: _ => k.seq
  | [] => c.c.seq

/-- Clear what a stopped stream remembers of its head instruction. -/
def Strm.unwait (st : Strm) : Strm :=
  { st with wait := none, guardOk := false, headCc := none, afterCue := none, mod := none, tried := none, trapping := false,
            word := none }

/-- A wait on what an engine or the copy engine has not completed, or on its space, is tested again. -/
def Strm.retest (st : Strm) : Strm :=
  match st.wait with
  | some w => if w.kind = 0 || w.kind = 5 || w.kind = 7 then { st with wait := none } else st
  | none => st

/-- A stopped stream stands at its restart address (R65). -/
def Strm.stop (st : Strm) : Strm := { st.unwait with pc := st.restart, pfx := none }

/-- A stopped long matrix instruction without a completed unit begins again, its operand fetch included (R208).
Log entry 38 (DEDUCED). -/
def Ctx.restartM (c : Ctx) : Ctx :=
  { c with m := { c.m with want := none, cur := c.m.cur.map fun m =>
      let m := { m with pages := [], put := 0 }
      if c.piM = 0 then { m with fetched := m.fetched && (match m.i with | .mgoF .. | .mwldF .. => false | _ => true) } else m } }

/-- A copy that stops at unit boundaries has begun a unit and not completed it (R234, R312). -/
def Copy.mid (k : Copy) : Bool :=
  match k.i with
  | .ccpy .. | .ccpyOut .. | .ccpys .. | .cgath .. | .cscat .. | .crrd .. => !k.got.isEmpty || k.put ≠ 0
  | _ => false

/-- The oldest copy has begun what is not stopped: a unit of a copy that stops at unit boundaries, a transfer on its way, the
writing of a collective's result. A trap waits for it (R234, R329). Log entry 117 (DEDUCED). -/
def Copy.under (k : Copy) : Bool :=
  match k.i with
  | .cxfer .. => k.sent
  | .cred .. | .cbcst .. => k.combined
  | _ => k.mid

/-- The copy engine is within what is not stopped. -/
def Ctx.copyUnder (c : Ctx) : Bool := match c.cp.copies with | k :: _ => k.under | [] => false

/-- A weight stream that is stopped starts from its beginning, and a collective that has not been combined gathers its
contribution again (R234). Log entry 117 (DEDUCED). -/
def Ctx.restartC (c : Ctx) : Ctx :=
  { c with cp := { c.cp with copies := c.cp.copies.map fun k => match k.i with
      | .cwst .. => { k with got := [] }
      | .cred .. | .cbcst .. => if k.combined then k else { k with got := [] }
      | _ => k } }

/-- A fabric cycle in progress when a run is stopped begins again (R255). Log entry 53 (DESIGN CHOICE). -/
def Ctx.settleF (c : Ctx) : Ctx := { c with f := { c.f with moves := [] } }

/-- A load that waits at its queue head has had no effect when its stream stops there (R68, R329). -/
def SQueues.stop (q : SQueues) : SQueues := { q with loads := q.loads.filter fun l => !l.head }

/-- The record of R329: every stream stops at its restart address (R65). Log entry 15 (DEDUCED). -/
def Ctx.record (c : Ctx) (cl : Option (BitVec 4)) : Ctx :=
  let c := c.settleV.restartM.restartC.settleF
  { c with sq := c.sq.stop, t := { c.t with epc := c.s.restart, tseqs := c.s.seq, tseqe := c.oldestE cl, tseqc := c.oldestC },
           s := c.s.stop, e := c.e.stop, c := c.c.stop, arrived := none,
           v := { c.v with cl := c.v.cl.map fun k => { k with st := k.st.stop } } }

/-- At the timed level an event demotes the take of the whole instance (R279). -/
def State.demote (s : State) (i : BitVec 4) : State :=
  if (s.inst i).level = 0 then s.mapCtxs fun c => if instOf c.id = i then { c with demoted := true } else c else s

/-- The abandonment of a folio load: the slot is bound again, and the frame it had chosen stays invalid (R184). -/
def Ctx.dropLoad (c : Ctx) : Ctx := { c with t := { c.t with load := none } }

/-- A copy that is never stopped part-way (R234). -/
def Copy.splice (k : Copy) : Bool :=
  match k.i with
  | .cxfer .. | .cred .. | .cbcst .. => true
  | _ => false

/-- CRED or CBCST. -/
def Copy.isCollective (k : Copy) : Bool := match k.i with | .cred .. | .cbcst .. => true | _ => false

/-- The scoreboard token of a copy instruction (R212). -/
def sbOf : Instr → BitVec 3
  | .ccpy _ q _ _ _ | .ccpyOut _ q _ _ _ | .ccpys _ q _ _ | .cwst _ q | .ctab q _ | .cgath _ _ _ q _ | .cscat _ _ _ q _
  | .cxfer _ q _ | .cred _ _ _ q _ _ _ | .cbcst _ _ _ q _ | .cpref _ _ q | .cmig _ q _ | .crrd _ _ _ q => q
  | _ => 0

/-- The splice instruction that a removed context's copy engine has begun completes, and the unit that another copy has begun;
every other copy is discarded (R337). -/
def CState.discard (c : CState) : CState :=
  let kept := match c.copies with
    | k :: _ => if k.under || k.isCollective then [k] else []
    | [] => []
  { c with copies := kept, sb := Vector.ofFn fun q => BitVec.ofNat 16 (kept.filter fun k => sbOf k.i == BitVec.ofNat 3 q.val).length }

/-- The busy counts that the copies of a removed context leave. -/
def Ctx.busyOf (c : Ctx) (h : BitVec 8) : BitVec 8 := BitVec.ofNat 8 (c.cp.copies.filter fun k => k.handles.contains h).length

/-- Removal of the context in focus, whose record stands; its save area and the report follow the last of its S accesses (R337).
Log entry 123 (DEDUCED). -/
def State.finishRemoval (s : State) (cause : BitVec 7) (tval : W64) : State :=
  let c := s.me
  let c := { c with t := { c.t with cause := cause, tval := tval, load := none } }
  let c := { c with m := { c.m with cur := none }, cp := c.cp.discard, f := { c.f with run := none } }
  let c := { c with tiles := Vector.ofFn fun h => { c.tiles[h] with busy := c.busyOf (BitVec.ofNat 8 h.val) } }
  let s := drainS 256 { s with me := c }
  let c := { s.me with tok := Vector.replicate 14 [], v := { s.me.v with y := 0 }, life := .removed }
  let s := ({ s with me := c }).modInst (instOf c.id) fun i => { i with recFlags := i.recFlags ||| 1 }
  let s := s.elog 0x08 (s.socketOf c.id) cause.toNat (some c.id) 0 tval
  if s.canSave c.id then s.putImage c.id 5 else s.msi 5

/-- Removal of the context in focus (R337). -/
def State.remove (s : State) (cause : BitVec 7) (tval : W64) : State :=
  ({ s with me := s.me.record none }).finishRemoval cause tval

/-- The word at the head of a stream is to be fetched again. -/
def Strm.refetch (st : Strm) : Strm := { st with word := none }

/-- A context as its save keeps it: what its engines had in progress stands at a restart point (R335). -/
def Ctx.atRest (c : Ctx) : Ctx :=
  let c := c.settleV.restartM.restartC.settleF.dropLoad
  { c with raised := (0, 0), holdCc := 0, s := c.s.refetch, e := c.e.refetch, c := c.c.refetch,
           v := { c.v with cl := c.v.cl.map fun k => { k with st := k.st.refetch } } }

/-- Save the context in focus, or remove it while SAVEBASE.v is 0 (R341). Vector `v` follows a save, unless it is 0.
Log entry 97 (DESIGN CHOICE). -/
def State.save (s : State) (life : Life) (v : BitVec 6 := 0) : State :=
  let id := s.me.id
  if !s.canSave id then s.remove 0x53 0
  else ({ s with me := { s.me.atRest with life := life } }).putImage id v

/-- A pc is a multiple of 4: the low two bits of a vector or a return address are not used (R13). Log entry 34 (DEDUCED). -/
def alignPc (v : W64) : W64 := v &&& ~~~3

/-- A trap of the context in focus: handler entry, removal, or hand-over to the host (R331, R334). Log entry 34 (DEDUCED). -/
def State.takeTrapFrom (s : State) (cl : Option (BitVec 4)) (cause : BitVec 7) (tval : W64) : State :=
  let s := s.demote (instOf s.me.id)
  if s.me.t.hmode then s.remove 0x06 (BitVec.ofNat 64 (cause.toNat * 2 ^ 56 + tval.toNat % 2 ^ 56))
  else
    let old := s.me.t
    let c := (s.me.record cl).dropLoad
    let kept : Option KeptTrap :=
      if cause = 0x20 then
        some { cause := old.cause.setWidth 64, tval := old.tval, epc := old.epc, tseqs := old.tseqs, tseqe := old.tseqe,
               tseqc := old.tseqc, slot := tval.extractLsb' 0 6, cl := cl }
      else none
    let c := { c with t := { c.t with cause := cause, tval := tval, kept := kept } }
    let s := { s with me := c }
    if s.hub.funcmode.getLsbD 2 then
      if s.canSave c.id then s.save .stopped 4 else s.finishRemoval 0x53 0
    else
      let v := if cause = 0x20 && old.fvec ≠ 0 then old.fvec else old.tvec
      if v = 0 then s.finishRemoval cause tval
      else { s with me := { c with t := { c.t with hmode := true }, s := { c.s with pc := alignPc v, halted := false } } }

/-- The S stream has had its turn in this cycle, or takes none (R330). -/
def State.sSettled (s : State) : Bool :=
  let st := s.me.s
  st.halted || st.lastCc = some s.cc || st.tried = some s.me.runCc || (s.me.t.wpend.isSome && !s.me.t.hmode)

/-- A sequencer of the engine stream has had its turn in this cycle without raising a cause, or can raise none in it: none is
taken before a long matrix instruction in progress has ended (R207, R330). -/
def State.eSettled (s : State) (st : Strm) : Bool :=
  st.halted || st.lastCc = some s.cc || (st.tried = some s.me.runCc && !st.trapping) || s.me.m.cur.isSome ||
  (s.me.engine = .v && s.me.t.load.isSome)

/-- The clusters below `n` have had their turns so. -/
def State.lowerSettled (s : State) (n : Nat) : Bool :=
  (s.me.v.cl.toList.take n).all fun k => k.join.isSome || s.eSettled k.st

/-- The engine stream has had its turns in this cycle, of every cluster while they are forked. -/
def State.engineSettled (s : State) : Bool := if s.me.v.forked then s.lowerSettled 16 else s.eSettled s.me.e

/-- The cause that the instruction of a stream raises may be taken: every earlier instruction of the stream has completed
(R93, R207, R214), the copy engine is where it may stop (R329), and the streams that go first have raised none in this cycle
(R330). Log entries 102, 117 (DEDUCED). -/
def State.mayTrap (s : State) (st : Stream) (cl : BitVec 4) : Bool :=
  !s.me.copyUnder &&
  match st with
  | .s => true
  | .c =>
    s.me.cp.copies.isEmpty && s.sSettled && s.engineSettled
  | _ => s.me.m.cur.isNone && s.sSettled && (!s.me.v.forked || s.lowerSettled cl.toNat)

/-- The cluster in which the machine acts, while the clusters are forked. -/
def State.curCluster (s : State) : Option (BitVec 4) := if s.cur.st = .v && s.me.v.forked then some s.cur.cl else none

/-- A trap raised by the instruction of the current stream, which waits for what goes first. -/
def State.trap (s : State) (cause : BitVec 7) (tval : W64) : State :=
  if s.mayTrap s.cur.st s.cur.cl then s.takeTrapFrom s.curCluster cause tval
  else s.setStrm { s.strm.held 0 0 s.me.runCc with trapping := true }

/-- Forget an error of a performed access: it is raised (R104). -/
def Ctx.dropErr (c : Ctx) (e : SErr) : Ctx := { c with sq := { c.sq with errs := c.sq.errs.erase e } }

/-- The S stream's instruction raises the error of an earlier access (R104), once the trap may be taken. -/
def State.raiseS (s : State) (e : SErr) : State :=
  if s.mayTrap .s 0 then ({ s with me := s.me.dropErr e }).takeTrapFrom none e.cause e.tval
  else { s with me := { s.me with s := { s.me.s.held 0 0 s.me.runCc with trapping := true } } }

/-- A failing word of a tile: ECC_UNCORRECTABLE with its tile pointer (R291, R367), once the trap is taken. -/
def State.eccTrap (s : State) (p : W64) : State :=
  if s.mayTrap s.cur.st s.cur.cl then
    let base := (s.me.tile (p.extractLsb' 48 8)).base.toNat
    ((s.meetWords s.me.id false (base + (p.extractLsb' 0 32).toNat) 1).logWord p).trap 0x17 p
  else s.trap 0x17 p

/-- The bounds of long instructions, runs and copies count again from the resumption of their stream (R282).
Log entry 28 (DEDUCED). -/
def Ctx.rearm (c : Ctx) : Ctx :=
  { c with m := { c.m with cur := c.m.cur.map fun m => { m with headCc := c.runCc } },
           cp := { c.cp with copies := c.cp.copies.map fun k => { k with headCc := c.runCc } } }

/-- The S stream goes on in `st` after a handler or the host: HMODE := 0; after a FOLIO_ABSENT handler the kept registers come
back (R183) and a bound slot is loaded before the V stream resumes (R180). -/
def State.comeBack (s : State) (st : Strm) : State :=
  let t := s.me.t
  let me := { (s.me.rearm) with s := st }
  match t.kept with
  | none => { s with me := { me with t := { t with hmode := false } } }
  | some k =>
    let bound := (me.folio[k.slot.toNat]).st == 1#2
    let t := { t with hmode := false, cause := k.cause.setWidth 7, tval := k.tval, epc := k.epc, kept := none }
    let t := { t with tseqs := k.tseqs, tseqe := k.tseqe, tseqc := k.tseqc }
    { s with me := { me with t := { t with load := if bound then some (k.slot, 0) else none, loadCl := k.cl } } }

/-- The return of R332: HMODE := 0 and pc := EPC; a stream without code stays as one that has halted (R90). Log entries 28, 34 (DEDUCED). -/
def State.eret (s : State) : State :=
  s.comeBack { s.me.s.next (alignPc s.me.t.epc) s.cc with halted := s.me.s.absent }

/-- A context that was stopped for the host goes on at EPC as after a return; no instruction has executed (R328, R334). -/
def State.resume (s : State) : State :=
  s.comeBack { s.me.s.stop with pc := alignPc s.me.t.epc, halted := s.me.s.absent }

/-- The package lets the streams of an instance issue: it is neither stopped nor draining past the instance's cut (R380). -/
def Hub.lets (h : Hub) (i : BitVec 4) : Bool :=
  h.boot = 1 && (h.power = .on || h.power = .triggered || (h.power = .entering && !h.drained.getLsbD i.toNat))

/-- Act on a context in focus, and bring the old focus back. -/
def State.within (s : State) (id : BitVec 12) (f : State → State) : State :=
  let old := s.me.id
  match s.focus id with
  | none => s
  | some t => let u := f t; (u.focus old).getD u

/-! ## Outcomes -/

/-- The kind of every meaning: it answers a next state. -/
abbrev Res := Host.Outcome State Fault Refusal

/-- A trap as a step's answer: a next state (R331). -/
def State.trapR (s : State) (cause : BitVec 7) (tval : W64) : Res := .next (s.trap cause tval)

end Sys2Proof.Machine
end

