-- ==== Sys2Proof/Machine/Cycle.lean ====
section
/-! DEFINITION. The passing of one core cycle (R7), which waits until every event due in this cycle has happened. -/

namespace Sys2Proof.Machine

/-- Cycle of a cue in the sheet in use (R115). -/
def cueCycle (s : State) (c : Ctx) (n : Nat) : Option Nat :=
  match (s.inst (instOf c.id)).sheets[c.castcls.toNat]? with
  | none => none
  | some sh => (sh.2.lookup (BitVec.ofNat 32 n)).map (·.toNat)

/-- Cue instructions of the context hold for their cycle: timed level in force and not demoted (R276, R279). -/
def Ctx.timed (c : Ctx) : Bool := c.level = 0 && !c.demoted

/-- The stream is held at a cue whose cycle has come (R115). -/
def cueDue (s : State) (c : Ctx) (st : Strm) : Bool :=
  match st.wait with
  | some w => w.kind = 3 && (!c.timed || (match cueCycle s c w.obj.toNat with | some y => y ≤ s.takecc c | none => true))
  | none => false

/-- The sequencers of the engine stream: one, or the clusters' own while forked (R158). -/
def Ctx.engineSts (c : Ctx) : List Strm := if c.v.forked then c.v.cl.toList.map (·.st) else [c.e]

/-- Those of them that may take a turn: not at a VJOIN, and not while a folio of the context is being loaded (R158, R180). -/
def Ctx.goingSts (c : Ctx) : List Strm :=
  if c.engine = .v && c.t.load.isSome then []
  else if c.v.forked then (c.v.cl.toList.filter fun k => k.join.isNone).map (·.st) else [c.e]

/-- The bound of a head instruction has expired (R68, R282). -/
def boundExpired (c : Ctx) (st : Strm) : Bool :=
  let b := boundOf st.pfx
  match st.headCc with
  | some h => b ≠ 0 && h + b ≤ c.runCc
  | none => false

/-- The bound of a copy has expired (R214). -/
def Copy.expired (k : Copy) (runCc : Nat) : Bool := k.bound ≠ 0 && k.headCc + k.bound ≤ runCc

/-- The TVAL of BOUND_OVERRUN: stream code, cluster, what the instruction waits for, sequence number (R283). -/
def boundTval (st cl : Nat) (w : Option Wait) (seq : W64) : W64 :=
  let kind := match w with | some x => x.kind.toNat | none => 0
  let obj := match w with | some x => x.obj.toNat | none => 0
  BitVec.ofNat 64 (st * 2 ^ 60 + cl * 2 ^ 56 + kind * 2 ^ 52 + obj * 2 ^ 32 + seq.toNat % 2 ^ 32)

/-- The bound of the long matrix instruction, or of the oldest copy, has expired (R214, R282). -/
def longExpired (c : Ctx) : Bool :=
  (match c.m.cur with | some m => m.bound ≠ 0 && m.headCc + m.bound ≤ c.runCc | none => false) ||
  (match c.cp.copies with | k :: _ => k.expired c.runCc | [] => false)

/-- The head of a stream must have a turn before the cycle ends: its bound ends with the cycle (R68); it directly follows a cue
that let it through (R162, R278); the guard, the sync bit or an event bit that holds it has been set (R21, R117, R160).
Log entry 103 (DEDUCED). -/
def turnDue (c : Ctx) (st : Strm) : Bool :=
  let fresh := st.tried ≠ some c.runCc
  let b := boundOf st.pfx
  !st.halted &&
  ((fresh && b ≠ 0 && (match st.headCc with | some h => h + b = c.runCc + 1 | none => false)) ||
   (fresh && c.timed && st.afterCue.isSome && st.lastCc.isNone) ||
   (match st.wait with
    | some w => (w.kind = 1 && c.guard (w.obj.setWidth 4) ≠ 0) || (w.kind = 6 && c.v.y.getLsbD w.obj.toNat) ||
        (w.kind = 8 && c.events &&& w.obj.setWidth 8 ≠ 0)
    | none => false))

/-- The head of a stream is due; `first`: nothing that the stream has issued before keeps its traps waiting. -/
def headDue (s : State) (c : Ctx) (first : Bool) (st : Strm) : Bool :=
  cueDue s c st || turnDue c st || (first && (boundExpired c st || st.trapping))

/-- A context has an event that must happen before the cycle ends; a trap waits for the copy engine (R329). -/
def Ctx.dueNow (s : State) (c : Ctx) : Bool :=
  let free := !c.copyUnder
  c.life = .running && s.hub.lets (instOf c.id) &&
  (headDue s c free c.s ||
   (!c.t.hmode && ((free && (c.t.wpend.isSome || longExpired c)) || headDue s c (free && c.cp.copies.isEmpty) c.c ||
     c.goingSts.any (headDue s c (free && c.m.cur.isNone)))))

/-- The staged entry of a logical core of an instance (R389). -/
def Inst.stagedEntry (i : Inst) (n : Nat) : W32 := (i.staged.lookup (BitVec.ofNat 8 n)).getD (i.remap.toArray.getD n 0)

/-- The table that a commit or a die operation in progress is about to put in force, for the instance of a context. -/
def State.newEntry (s : State) (id : BitVec 12) : Option W32 :=
  if s.hub.remapBusy = some (instOf id) then some ((s.inst (instOf id)).stagedEntry (lcoreOf id))
  else
    match s.hub.dieOp with
    | some d => (d.tables.lookup (instOf id)).map fun t => t.toArray.getD (lcoreOf id) 0
    | none => none

/-- The context is to move (R339, R389). -/
def State.moving (s : State) (id : BitVec 12) : Bool :=
  match s.newEntry id with
  | some e => e != s.remapEntry id
  | none => false

/-- The time for the saves of a die operation has passed, and a context that must move still runs (R339). -/
def State.saveLate (s : State) (c : Ctx) : Bool :=
  match s.hub.dieOp with
  | some d => c.life = .running && s.moving c.id && d.q + 65536 ≤ s.cc
  | none => false

/-- Something of a splice transfer is due: its last byte, or its first word unless the target's handle can take no further use
(R8, R18, R225); a home that holds the target's save area keeps it waiting. Log entry 49 (DEDUCED). -/
def State.xferDue (s : State) (f : XferFlight) : Bool :=
  let held := match s.ctx? f.dst with | some d => s.awayHeld d | none => false
  let full := match s.ctx? f.dst with | some d => (d.tile f.h).valid && (d.tile f.h).busy = 255 | none => false
  !held && if f.begun then decide (f.due ≤ s.cc) else f.first ≤ s.cc && !full

/-- Something is due in this cycle: a stream's turn, cue or bound, an SEV (R117), a cut (R273), the end of a retraining (R351),
a removal (R339), a remote token or a splice transfer's last byte (R225, R275). Log entry 98 (DESIGN CHOICE). -/
def State.dueNow (s : State) : Bool :=
  (s.ctxs.any fun c => c.dueNow s || s.saveLate c) || (s.sevs.any fun f => f.due ≤ s.cc) || (s.cuts.any fun f => f.due ≤ s.cc) ||
  (s.xfers.any s.xferDue) || (s.hub.retrain.any fun r => r.2.2 + 65536 ≤ s.cc) ||
  (s.ctxs.any fun c => c.sq.outq.any fun o => match o.due with | some d => d.1 ≤ s.cc | none => false)

/-- The stream is halted or held at a wait (R270). Log entry 33 (DEDUCED). -/
def Strm.waits (st : Strm) : Bool := st.halted || (match st.wait with | some w => w.kind ≠ 0 | none => false)

/-- Every stream of the context is held at a wait (R270); a cluster at its VJOIN waits too. Log entry 33 (DEDUCED). -/
def Ctx.allHeld (c : Ctx) : Bool :=
  c.s.waits && c.c.waits &&
  (if c.v.forked then c.v.cl.toList.all fun k => k.st.waits || k.join.isSome else c.e.waits)

/-! ## Arrival at cuts (R118, R272, R385) -/

/-- The stream is held at a token wait on one of its channels, a cue, or a ring wait, or has halted (R118); a cue-checked
wait that holds is a timing fault (R280). Log entry 93 (DEDUCED). -/
def rests (s : State) (c : Ctx) (chans : List Nat) (st : Strm) : Bool :=
  st.halted ||
  (match st.wait with
   | some w => (w.kind = 2 && chans.contains w.obj.toNat && !(c.timed && st.afterCue.isSome)) || (w.kind = 3 && !cueDue s c st) || w.kind = 4
   | none => false)

/-- Nothing that an engine or the copy stream has issued is incomplete. -/
def Ctx.enginesIdle (c : Ctx) : Bool :=
  c.cp.copies.isEmpty && c.v.pend.isEmpty && c.m.cur.isNone && c.f.run.isNone

/-- Every issued S access has performed. -/
def Ctx.sDone (c : Ctx) : Bool := c.sq.loads.isEmpty && c.sq.stores.isEmpty

/-- The context may arrive at the cut that its S stream names (R118). -/
def cutReady (s : State) (c : Ctx) : Bool :=
  c.sDone && c.enginesIdle && (c.engineSts.all fun st => rests s c [0, 5] st) && rests s c [2, 4] c.c

/-- The S stream has halted and every queue has drained (R130, R385); a removed context counts so (R338).
Log entry 93 (DEDUCED). -/
def Ctx.drained (c : Ctx) : Bool :=
  let idle := fun (ch : Nat) (st : Strm) =>
    st.halted || (st.wait = some { kind := 2, obj := BitVec.ofNat 20 ch } && !(c.timed && st.afterCue.isSome))
  (c.life = .removed && c.sDone) ||
  (c.life ≠ .stopped && !c.t.hmode && c.s.halted && c.sDone && c.enginesIdle && c.cp.errs.isEmpty && idle 2 c.c &&
   (c.e.halted || (c.engine = .v && !c.v.forked && idle 0 c.e)))

/-- The context belongs to the domain of a route tag (R33, R272). -/
def inDomain (i : Inst) (c : Ctx) (tag : BitVec 3) : Bool :=
  let cfg := i.btcfg.toArray.getD tag.toNat 0
  let l := (cfg.extractLsb' 8 3).toNat
  l ≠ 0 && domField c.member l == (cfg.extractLsb' 0 8).toNat

/-- The contexts that take part in the cuts of a tag of an instance. -/
def State.parts (s : State) (i : BitVec 4) (tag : BitVec 3) : List Ctx :=
  s.ctxs.filter fun c => instOf c.id == i && inDomain (s.inst i) c tag

/-- The context counts as arrived at the cut of a tag (R118, R272, R331, R334). -/
def Ctx.hasArrived (c : Ctx) (tag : BitVec 3) : Bool :=
  c.drained || (c.arrived = some tag && !c.t.hmode && c.life ≠ .stopped)

/-- Every participant of a tag has arrived, one of them at its CUT instruction. -/
def State.allArrived (s : State) (i : BitVec 4) (tag : BitVec 3) : Bool :=
  let ps := s.parts i tag
  (ps.all fun c => c.hasArrived tag) && ps.any fun c => c.arrived = some tag

/-- Cycles from the last arrival to completion: 8 + 4·h_max (R273). -/
def State.cutDelay (s : State) (i : BitVec 4) (tag : BitVec 3) : Nat :=
  8 + 4 * (s.parts i tag).foldl (fun m c =>
    let sk := s.socketOf c.id
    let h := match route s.hub 6 sk with | some (n, rr) => n + (if rr then 3 else 0) | none => hops 6 sk
    Nat.max m h) 0

/-- Cuts whose last participant has arrived in this cycle are on their way; one whose participant has trapped since is not. -/
def State.startCuts (s : State) : State :=
  let kept := s.cuts.filter fun f => s.allArrived f.inst f.tag
  let all := (List.range 16).flatMap fun i => (List.range 8).map fun t => (BitVec.ofNat 4 i, BitVec.ofNat 3 t)
  let new := all.filterMap fun p =>
    if (s.inst p.1).holds && !(kept.any fun f => f.inst == p.1 && f.tag == p.2) && s.allArrived p.1 p.2 then
      some ({ inst := p.1, tag := p.2, due := s.cc + s.cutDelay p.1 p.2 } : CutFlight)
    else none
  { s with cuts := kept ++ new }

/-- One cycle of a context (R68, R270). -/
def Ctx.tick (c : Ctx) : Ctx :=
  if c.life = .running then { c with runCc := c.runCc + 1, holdCc := if c.allHeld then c.holdCc + 1 else 0 } else c

/-! ## Patrol scrubbers (R291, R298 to R300) -/

/-- A scrubber of a B-die reads a block of 4 KiB: it corrects as a reader would, and an uncorrectable atom that it finds is
poisoned and reported to no stream (R299). Log entry 75 (DEDUCED). -/
def State.scrubMem (s : State) (b blk : Nat) (hbm : Bool) : State :=
  let pa := b * 2 ^ 39 + (if hbm then 0x4000000000 else 0) + blk * 4096
  let found := s.flips.filter fun f => f.2 && pa / 32 ≤ f.1 && f.1 < pa / 32 + 128
  found.foldl (fun s f => s.logBad none (f.1 * 32)) (s.meet pa 4096)

/-- A scrubber of a core reads a block of its scratchpad or private memory; a double error leaves the word failing (R291). -/
def State.scrubCore (s : State) (c : Ctx) (blk : Nat) (priv : Bool) : State :=
  let found := (if priv then c.flipPriv else c.flipSpad).filter fun f => f.2 && f.1 / 512 = blk
  found.foldl (fun s f => s.elog 0x02 (s.socketOf c.id) 0 (some c.id) (if priv then c.privPtr (8 * f.1) else c.spadPtr (8 * f.1)) 2)
    (s.meetWords c.id priv (blk * 4096) 4096)

/-- The block of `size` that a scrubber which reads one every 2^period cc reads in this cycle. -/
def scrubBlock (cc period size : Nat) : Option Nat :=
  if period = 0 || cc % 2 ^ period ≠ 0 then none else some (cc / 2 ^ period % size)

/-- The scrubber of a B-die's tier runs. -/
def State.scrubs (s : State) (b : Nat) (hbm : Bool) : Bool :=
  match bSocket s.hub.product b with
  | some sk => s.hub.serves sk && (!hbm || (s.bdie b).en)
  | none => false

/-- The blocks that the scrubbers read in this cycle: of each stack, of its LPDDR-6 at the stack's rate, of each core's memories.
Log entry 75 (DEDUCED). -/
def State.scrub (s : State) : State :=
  if s.hub.boot ≠ 1 then s
  else
    let tier := fun (hbm : Bool) (s : State) (b : Nat) =>
      match (if s.scrubs b hbm then scrubBlock s.cc (s.bdie b).scrub.toNat (if hbm then 2 ^ 24 else 2 ^ 26) else none) with
      | some k => s.scrubMem b k hbm
      | none => s
    let s := (List.range 12).foldl (fun s b => tier false (tier true s b) b) s
    match scrubBlock s.cc 19 2048 with
    | some k => (s.ctxs.filter fun c => c.life == .running).foldl (fun s c => (s.scrubCore c k false).scrubCore c (k % 64) true) s
    | none => s

/-! ## The cycle -/

/-- The passing of one core cycle, before which the images that homes have held are written. The package must be powered. Log entry 50 (DEDUCED). Log entry 98 (DESIGN CHOICE). -/
def doCycle (s : State) : State :=
  if s.dueNow || s.hub.power = .off || s.hub.power = .retention then s
  else ({ s.flushImages.startCuts.mapCtxs Ctx.tick with cc := s.cc + 1 }).scrub

end Sys2Proof.Machine
end

