-- ==== Sys2Proof/Machine/Operands.lean ====
section
/-! DEFINITION. Operand forms: immediates and targets of the S formats (R72, R96 to R102), lanes of v registers and bits of m
registers (R14, R132), and the effective address of an S access (R102). -/

namespace Sys2Proof.Machine

/-! ## S immediates and targets -/

/-- sext(imm20 << 12, 32) (R97). -/
def upperImm (i : BitVec 20) : W64 := (i ++ (0 : BitVec 12)).signExtend 64

/-- pc + 4 × sext(off) (R98, R99). -/
def target {n : Nat} (pc : W64) (o : BitVec n) : W64 := pc + 4 * o.signExtend 64

/-- Count of leading zeros, 0 to 64 (R94). -/
def clz64 (x : W64) : W64 := if x = 0 then 64 else BitVec.ofNat 64 (63 - Nat.log2 x.toNat)

/-- Number of the low `n` bits of x that are one (R94). -/
def popcount {w : Nat} (x : BitVec w) : Nat → Nat
  | 0 => 0
  | n + 1 => (if x.getLsbD n then 1 else 0) + popcount x n

/-- A condition as a word: 1 or 0 (R94). -/
def boolWord (b : Bool) : W64 := if b then 1 else 0

/-- The low 32 bits, sign-extended (R107). -/
def sextW (v : W64) : W64 := (v.setWidth 32).signExtend 64

/-! ## Lanes and masks -/

/-- Lane j of a v register: bits [32j+31 : 32j] (R132). -/
def lane (v : VReg) (j : Nat) : W32 := v.extractLsb' (32 * j) 32

/-- The 256 lanes of a v register. -/
def lanes (v : VReg) : List W32 := (List.range 256).map (lane v)

/-- The number whose fields of w bits, lowest first, are listed. -/
def packNat (w : Nat) (l : List Nat) : Nat := l.foldr (fun x n => x + 2 ^ w * n) 0

/-- The v register with the listed lanes. -/
def ofLanes (l : List W32) : VReg := BitVec.ofNat 8192 (packNat 32 (l.map (·.toNat)))

/-- The m register whose bit j is f j. -/
def packMask (f : Nat → Bool) : MReg := BitVec.ofNat 256 (packNat 1 ((List.range 256).map fun j => if f j then 1 else 0))

/-- v register of a cluster. -/
def Cluster.vreg (k : Cluster) (r : BitVec 6) : VReg := k.v[r.toNat]'r.isLt

/-- Write a v register of a cluster. -/
def Cluster.setV (k : Cluster) (r : BitVec 6) (x : VReg) : Cluster := { k with v := k.v.set r.toNat x r.isLt }

/-- m register of a cluster; the field value 0 is all lanes active (R15). -/
def Cluster.mreg (k : Cluster) (r : BitVec 3) : MReg :=
  if h : r = 0 then BitVec.allOnes 256
  else k.m[r.toNat - 1]'(by have := r.isLt; omega)

/-- Write an m register of a cluster; there is no m0 (R15). -/
def Cluster.setM (k : Cluster) (r : BitVec 3) (x : MReg) : Cluster :=
  { k with m := if r = 0 then k.m else k.m.set (r.toNat - 1) x (by have := r.isLt; omega) }

/-- Cluster by number. -/
def VState.cluster (v : VState) (k : BitVec 4) : Cluster := v.cl[k.toNat]'k.isLt

/-- Change a cluster. -/
def VState.setCluster (v : VState) (k : BitVec 4) (x : Cluster) : VState := { v with cl := v.cl.set k.toNat x k.isLt }

/-! ## S accesses -/

/-- The address field of a pointer that alignment is judged by: the virtual address, or the offset (R102). -/
def ptrAddr (p : W64) : Nat := if ptrTag p = 0 then (p.extractLsb' 0 56).toNat else (p.extractLsb' 0 32).toNat

/-- The effective address of an access with an offset field (R102). -/
def effAddr (base : W64) (o : BitVec 13) : W64 := base + o.signExtend 64

/-- What the checks of R102 answer: a trap with its cause, or the place of the access. -/
inductive Place where
  | trap (cause : BitVec 7)
  /-- The translation cannot go on yet (R298, R306). -/
  | hold
  | at (l : Loc)
  deriving DecidableEq, Repr

/-- The checks of R102 on an access of `size` bytes at `ea`, in order, and the translation of a global address.
Log entry 17 (DEDUCED). -/
def place (s : State) (ea : W64) (size : Nat) (wr : Bool) : Place :=
  match checkPtr s s.me ea size with
  | .error c => .trap c
  | .ok p =>
    if ptrAddr ea % size ≠ 0 then .trap 0x11
    else
      match p with
      | .priv off => .at (.priv off)
      | .tile core _ _ sp => .at (.spad core sp)
      | .glob va =>
        let w := walk s (instOf s.me.id) va wr
        match w.pa with
        | none => if w.hold then .hold else .trap 0x10
        | some pa => .at (.glob pa va)

/-- The state after the table reads of the translation of a pointer (R294). -/
def State.walked (s : State) (ea : W64) (wr : Bool) : State :=
  if ptrTag ea = 0 then
    s.countWalk (walk s (instOf s.me.id) (ea.extractLsb' 0 56).toNat wr) (some (s.me.id, 0x10)) else s

/-- An S access stops with the cause that its checks give; a translation that faults has read its tables (R102, R302), once the trap
is taken. -/
def State.placeTrap (s : State) (cause : BitVec 7) (ea : W64) (wr : Bool) : Res :=
  (if cause = 0x10 && s.mayTrap s.cur.st s.cur.cl then s.walked ea wr else s).trapR cause ea

end Sys2Proof.Machine
end

