-- ==== Sys2Proof/Machine/Flags.lean ====
section
/-! DEFINITION. The flags an S result raises (R29, R95), results of the S arithmetic, and the writing of an S result. -/

namespace Sys2Proof.Machine

/-- Raise flags by their NFLAGS byte (R28). -/
def Ctx.raiseFl (c : Ctx) (f : Flags) : Ctx := c.raise (f.setWidth 32)

/-- An S instruction retires with a result: NFLAGS raised, g[d] and its taint written (R16, R92). -/
def State.putS (s : State) (d : BitVec 5) (v : W64) (t : Bool) (f : Flags := 0) : State :=
  { s with me := (s.me.raiseFl f).wg d v t }.retireS

/-- An exact result under R41 with w = 64 and signed bounds. -/
def fit64 (satOn : Bool) (x : Int) : W64 × Flags :=
  let r := toWidth 64 (-(2 ^ 63)) (2 ^ 63 - 1) satOn x
  (BitVec.ofNat 64 r.1, r.2)

/-- DIV (R95). -/
def divS (satOn : Bool) (a b : W64) : W64 × Flags :=
  if b = 0 then (BitVec.allOnes 64, Flags.when (a != 0) fDz) else fit64 satOn (Int.tdiv a.toInt b.toInt)

/-- DIVU (R95). -/
def divU (a b : W64) : W64 × Flags :=
  if b = 0 then (BitVec.allOnes 64, Flags.when (a != 0) fDz) else (BitVec.ofNat 64 (a.toNat / b.toNat), 0)

/-- REM: s64(a) − s64(b) × the DIV result; a when b = 0 (R94, R95). -/
def remS (a b : W64) : W64 × Flags :=
  if b = 0 then (a, Flags.when (a != 0) fDz) else (BitVec.ofInt 64 (Int.tmod a.toInt b.toInt), 0)

/-- REMU (R95). -/
def remU (a b : W64) : W64 × Flags :=
  if b = 0 then (a, Flags.when (a != 0) fDz) else (BitVec.ofNat 64 (a.toNat % b.toNat), 0)

/-- sat_on of the S stream (R93, R95). -/
def State.satOn (s : State) : Bool := mSat s.me s.me.s

end Sys2Proof.Machine
end

