-- ==== Sys2Proof/Machine/Waits.lean ====
section
/-! DEFINITION. What the streams wait on, once for all streams: cues (R115, R162), cue-checked waits (R278, R280), token
channels (R20), rings (R19, R127, R128), and the ordering of what an S-stream release covers (R314). -/

namespace Sys2Proof.Machine

/-! ## Timing faults (R278 to R280) -/

/-- A cue reached late or a cue-checked wait that held: a trap, or at tfd = 1 the demotion of the take and a count, after
which `go` says how the instruction goes on as at the ordered level (R280). -/
def State.timingFault (s : State) (n : BitVec 20) (go : State → Res) : Res :=
  if s.myInst.tfd then go ((((s.demote (instOf s.me.id)).lifeInc 4).elog 0x09 (s.socketOf s.me.id) 0 (some s.me.id) 0 (n.setWidth 64)).setStrm { s.strm with afterCue := none })
  else s.trapR 0x48 (n.setWidth 64)

/-- Other streams held at this wait test it again: what they wait for has changed. At a guard or a sync bit they go on being held
until they have, in this cycle (R21, R160). -/
def Ctx.wake (c : Ctx) (kind : BitVec 4) (obj : Nat) : Ctx :=
  let f := fun (st : Strm) =>
    if st.wait = some { kind := kind, obj := BitVec.ofNat 20 obj } then
      { st with wait := if kind = 1 || kind = 6 then st.wait else none, tried := none }
    else st
  { c with s := f c.s, e := f c.e, c := f c.c, v := { c.v with cl := c.v.cl.map fun k => { k with st := f k.st } } }

/-- The cue before a cue-checked wait that did not complete in the cycle in which it first reached its queue head.
Log entries 35, 103 (DEDUCED). -/
def State.lateWait (s : State) : Option (BitVec 20) :=
  match s.me.timed, s.strm.afterCue, s.strm.headCc with
  | true, some n, some h => if h < s.me.runCc then some n else none
  | _, _, _ => none

/-- A wait instruction: complete as `done` says if it can, else hold; cue-checked at the timed level (R278). -/
def State.wait (s : State) (kind : BitVec 4) (obj : Nat) (done : State → Option State) : Res :=
  let go := fun (s : State) => (match done s with | some t => .next t | none => .next (s.hold kind obj) : Res)
  match s.lateWait with
  | some n => s.timingFault n go
  | none => go s

/-! ## Cues (R115, R162) -/

/-- A cue at the timed level retires, and the next instruction of the stream issues in the same cycle (R162). -/
def Strm.passCue (st : Strm) (n : BitVec 20) (cc : Nat) : Strm :=
  { st.next (st.pc + 4) cc with afterCue := some n, lastCc := none }

/-- CUE, VCUE, MCUE, CCUE and FCUE of the current stream (R115). -/
def State.cue (s : State) (n : BitVec 20) : Res :=
  if s.myInst.cues ≤ n.toNat then s.trapR 0x4A (n.setWidth 64)
  else if s.me.timed then
    match cueCycle s s.me n.toNat with
    | none => .next s.retire
    | some y =>
      if s.takecc s.me < y then .next (s.hold 3 n.toNat)
      else if s.takecc s.me = y then .next (s.setStrm (s.strm.passCue n s.cc))
      else s.timingFault n fun s => .next s.retire
  else .next s.retire

/-! ## Tokens (R20) -/

/-- Push a token on a channel, with what its release carries (R314); none while the channel holds 32. -/
def Ctx.pushTok (c : Ctx) (ch : Nat) (v : W16) (k : Known) : Option Ctx :=
  if (c.chan ch).length < 32 then
    let hb := { c.hb with tok := c.hb.tok.setIfInBounds ch ((c.hb.tok.toArray.getD ch []).take (c.chan ch).length ++ [k]) }
    some (({ c with hb := hb }.setChan ch (c.chan ch ++ [v])).wake 2 ch)
  else none

/-- Pop the oldest token of a channel; none while it is empty. -/
def Ctx.popTok (c : Ctx) (ch : Nat) : Option (W16 × Ctx) :=
  match c.chan ch with
  | [] => none
  | t :: r =>
    let hb := { c.hb with tok := c.hb.tok.setIfInBounds ch (c.hb.tok.toArray.getD ch []).tail }
    some (t, ({ c with hb := hb }.setChan ch r).wake 2 ch)

/-- What the oldest token of a channel carries (R314). -/
def Ctx.tokKnown (c : Ctx) (ch : Nat) : Known := (c.hb.tok.toArray.getD ch []).headD []

/-- A token send of the current stream: hold while the channel is full. -/
def State.sendTok (s : State) (ch : Nat) (v : W16) : Res :=
  match s.me.pushTok ch v s.gives with
  | none => .next (s.hold 2 ch)
  | some c => .next ({ s with me := c }).retire

/-- A token wait of the current stream: pop, acquire, apply the token, retire (R314). -/
def State.takeTok (s : State) (ch : Nat) (put : W16 → State → State) : Res :=
  s.wait 2 ch fun s =>
    match s.me.popTok ch with
    | none => none
    | some (t, c) => some (put t (({ s with me := c }).acquire (s.me.tokKnown ch))).retire

/-! ## Rings (R127, R128) -/

/-- The traps of a ring instruction: an invalid handle, a tile that is no ring, a count above slots. -/
def ringTrap (c : Ctx) (h cnt : BitVec 8) : Option (BitVec 7) :=
  let t := c.tile h
  if !t.valid then some 0x16
  else if t.level ≠ 3 || t.slots.toNat < cnt.toNat then some 0x18
  else none

/-- The condition of a role: 0 produce, 1 consume, 2 waitfill, 3 waitfree. -/
def ringReady (t : Tile) (role cnt : Nat) : Bool :=
  if role = 0 || role = 3 then cnt ≤ t.slots.toNat - t.filled.toNat else cnt ≤ t.filled.toNat

/-- The ring after the role's effect. -/
def ringStep (t : Tile) (role cnt : Nat) : Tile :=
  if role = 0 then { t with filled := BitVec.ofNat 8 (t.filled.toNat + cnt) }
  else if role = 1 then
    { t with head := BitVec.ofNat 8 ((t.head.toNat + cnt) % t.slots.toNat), filled := BitVec.ofNat 8 (t.filled.toNat - cnt) }
  else t

/-- The ring wait of the current stream holds; in an engine or copy stream its handle stays busy (R128). -/
def State.holdRing (s : State) (h : BitVec 8) : State :=
  let s := s.hold 4 h.toNat
  if s.cur.st = .s || s.strm.busy.isSome then s
  else if (s.me.tile h).busy = 255 then s.hold 7 h.toNat
  else ({ s with me := s.me.busyUp h }).setStrm { s.strm with busy := some h }

/-- The slots of a ring after a role, with what their produces carry: the S stream's release, another stream none (R314). -/
def Ctx.ringKnown (c : Ctx) (h : BitVec 8) (role cnt : Nat) (k : Known) : Ctx :=
  let l := ((c.hb.rings.lookup h).getD []).take (c.tile h).filled.toNat
  let new := if role = 0 then l ++ List.replicate cnt k else if role = 1 then l.drop cnt else l
  { c with hb := { c.hb with rings := (h, new) :: c.hb.rings.filter fun p => p.1 != h } }

/-- What the produces that satisfy a consume or waitfill of `cnt` slots carry (R314). -/
def Ctx.ringGives (c : Ctx) (h : BitVec 8) (role cnt : Nat) : Known :=
  if role = 1 || role = 2 then (((c.hb.rings.lookup h).getD []).take cnt).foldl Known.join [] else []

/-- A ring instruction of the current stream. `settled`: what a produce waits for has happened (R127, R128).
Log entry 35 (DEDUCED). -/
def State.ring (s : State) (h cnt : BitVec 8) (role : Nat) (settled : Bool) : Res :=
  match ringTrap s.me h cnt with
  | some c => s.trapR c (h.setWidth 64)
  | none =>
    let go := fun (s : State) =>
      (if (role = 0 && !settled) || !ringReady (s.me.tile h) role cnt.toNat then .next (s.holdRing h)
       else
        let s := s.freeRing
        let s := s.acquire (s.me.ringGives h role cnt.toNat)
        let me := s.me.ringKnown h role cnt.toNat (if s.cur.st = .s then s.gives else [])
        let s := { s with me := me }
        .next ({ s with me := (s.me.setTile h (ringStep (s.me.tile h) role cnt.toNat)).wake 4 h.toNat }).retire : Res)
    match (if s.cur.st = .s then s.lateWait else none) with
    | some n => s.timingFault n go
    | none => go s

/-! ## The S stream's order -/

/-- The oldest pending store error (R104). -/
def Ctx.storeErr (c : Ctx) : Option SErr := c.sq.errs.find? fun e => e.d.isNone

/-- An instruction that raises a pending error first (R104). -/
def State.raising (s : State) (err : Option SErr) (go : State → Res) : Res :=
  match err with
  | some e => .next (s.raiseS e)
  | none => go s

/-! ## Deferred copy errors (R215) -/

/-- The TVAL of a deferred copy error (R215). -/
def CErr.tval (e : CErr) : W64 := BitVec.ofNat 64 (e.seq.toNat % 2 ^ 32 * 2 ^ 32 + e.val.toNat)

/-- A deferred copy error is raised at the current instruction, which has no effect (R215). -/
def State.raiseCopy (s : State) (e : CErr) : State :=
  if s.mayTrap s.cur.st s.cur.cl then
    ({ s with me := { s.me with cp := { s.me.cp with errs := s.me.cp.errs.erase e } } }).trap e.cause e.tval
  else s.trap e.cause e.tval

end Sys2Proof.Machine
end

