-- ==== Sys2Proof/Machine/VectorOps.lean ====
section
/-! DEFINITION. How a V instruction runs: in every cluster in lockstep, in its own cluster while forked (R132); under a mask
(R15, R134); its flags and the handle it keeps busy until it completes (R133, R146). -/

namespace Sys2Proof.Machine

/-- The clusters that execute the instruction (R132). -/
def State.vClusters (s : State) : List (BitVec 4) :=
  if s.me.v.forked then [s.cur.cl] else (List.range 16).map fun k => BitVec.ofNat 4 k

/-- Rounding mode in force for the V stream (R134). -/
def State.vRm (s : State) : Rm := Rm.ofCode (mRound s.me s.strm)

/-- Saturation in force for the V stream (R134). -/
def State.vSat (s : State) : Bool := mSat s.me s.strm

/-- The mask of an instruction without a mask field, from its prefix (R69, R134). -/
def State.vPfxMask (s : State) : BitVec 3 := pfxMask s.strm.pfx

/-- The instruction has executed: its register effects stand; its flags and its handle wait for its completion (R133).
Log entry 14 (DEDUCED). -/
def State.vDone (s : State) (v : VState) (f : Flags) (h : Option (BitVec 8)) : State :=
  let c := match h with | some x => s.me.busyUp x | none => s.me
  let p : VPend := { seq := s.strm.seq, flags := f.setWidth 32, handle := h }
  ({ s with me := { c with v := { v with pend := v.pend ++ [p] } } }).retire

/-- Run a cluster's function in every executing cluster; each sees the registers as they stood before. -/
def State.vApply (s : State) (f : BitVec 4 → Cluster → Cluster × Flags) : VState × Flags :=
  s.vClusters.foldl (fun (r : VState × Flags) k =>
    let x := f k (s.me.v.cluster k)
    (r.1.setCluster k x.1, r.2 ||| x.2)) (s.me.v, 0)

/-- A V instruction that touches registers alone. -/
def State.vRun (s : State) (f : BitVec 4 → Cluster → Cluster × Flags) : Res :=
  let r := s.vApply f
  .next (s.vDone r.1 r.2 none)

/-- Enabled lanes take their new values and raise their flags; the others keep theirs (R15). -/
def laneMap (old : VReg) (mask : MReg) (f : Nat → W32 × Flags) : VReg × Flags :=
  let r := (List.range 256).map fun j => if mask.getLsbD j then f j else (lane old j, 0)
  (ofLanes (r.map (·.1)), r.foldl (fun a x => a ||| x.2) 0)

/-- A lane result from the numeric functions. -/
def w32 (r : Nat × Flags) : W32 × Flags := (BitVec.ofNat 32 r.1, r.2)

/-- A lane instruction: the destination, its mask, and each enabled lane's value (R134). -/
def State.vLanes (s : State) (d : BitVec 6) (k : BitVec 3) (f : BitVec 4 → Cluster → Nat → W32 × Flags) : Res :=
  s.vRun fun n c =>
    let r := laneMap (c.vreg d) (c.mreg k) (f n c)
    (c.setV d r.1, r.2)

/-- A lane instruction of one source. -/
def State.vLane1 (s : State) (d a : BitVec 6) (k : BitVec 3) (f : W32 → W32 × Flags) : Res :=
  s.vLanes d k fun _ c j => f (lane (c.vreg a) j)

/-- A lane instruction of two sources. -/
def State.vLane2 (s : State) (d a b : BitVec 6) (k : BitVec 3) (f : W32 → W32 → W32 × Flags) : Res :=
  s.vLanes d k fun _ c j => f (lane (c.vreg a) j) (lane (c.vreg b) j)

/-- The enabled lanes of a register, in lane order, as FP32 patterns. -/
def enabledLanes (v : VReg) (mask : MReg) : List Nat :=
  (List.range 256).filterMap fun j => if mask.getLsbD j then some (lane v j).toNat else none

/-- V_INSTRUCTION_COMPLETION: the oldest executed V instruction completes, raising its flags and freeing its handle (R133,
R163). -/
def execVInstructionCompletion (s : State) : Res :=
  match s.me.v.pend with
  | [] => .next s
  | p :: rest =>
    let c := { s.me with v := { s.me.v with pend := rest } }
    let c := c.raise p.flags
    let c := match p.handle with | some h => c.busyDown h | none => c
    .next { s with me := { c with e := c.e.retest, v := { c.v with cl := c.v.cl.map fun k => { k with st := k.st.retest } } } }

/-- CLUSTER_MODE at the word of the instruction (R158, R326). Log entry 110 (DEDUCED). -/
def State.clusterMode (s : State) : Res := s.trapR 0x24 s.strm.pc

/-- An instruction that lockstep alone allows (R147, R128, R161). -/
def State.lockstepOnly (s : State) (go : Res) : Res := if s.me.v.forked then s.clusterMode else go

end Sys2Proof.Machine
end

