-- ==== Sys2Proof/Machine/VectorTile.lean ====
section
/-! DEFINITION. Tile accesses of the V stream (R143 to R146, R165) and the element codings they use (R38, R42, R51). -/

namespace Sys2Proof.Machine

/-! ## Scratchpad bytes -/

/-- The scratchpad offset of the first failing word among `n` bytes at `a`, if any (R291). -/
def Ctx.firstBad (c : Ctx) (a n : Nat) : Option Nat :=
  if c.spadBad.isEmpty || n = 0 then none
  else ((List.range ((a + n - 1) / 8 - a / 8 + 1)).map fun k => a / 8 + k).find? fun w => c.spadBad.contains w

/-- Write single bytes, in order, at scratchpad offsets; the error word of a write that covers a failing word in part is the
answer on the left (R291). -/
def Ctx.spadCells (c : Ctx) (l : List (Nat × Byte)) : Except Nat Ctx :=
  let m := c.spad.setAll l
  let c := c.unmark fun a => l.any fun p => p.1 = a
  if c.spadBad.isEmpty && c.flipSpad.isEmpty then .ok { c with spad := m }
  else
    let covered := fun (w : Nat) => ((List.range 8).filter fun k => l.any fun p => p.1 = 8 * w + k).length
    match c.spadBad.find? fun w => 0 < covered w && covered w < 8 with
    | some w => .error w
    | none => .ok { c with spad := m, badSpad := c.badSpad.filter fun w => covered w = 0,
                           flipSpad := c.flipSpad.filter fun f => covered f.1 < 8 }

/-- Own scratchpad words are read, each at an offset over a number of bytes: single-bit errors are corrected and counted
(R291). -/
def State.meetOwn (s : State) (l : List (Nat × Nat)) : State :=
  if s.me.flipSpad.isEmpty then s else l.foldl (fun s p => s.meetWords s.me.id false p.1 p.2) s

/-! ## Elements (R38, R51, R143) -/

/-- A lane as VLD decodes an element of a scalar format, raising no flag (R143). -/
def loadElem (fmt : Nat) (x : Nat) : W32 :=
  match fmtFloat fmt with
  | some f => BitVec.ofNat 32 (cvtToF32 f true x).1
  | none =>
    if fmt = 0x7 then BitVec.ofNat 32 x
    else if fmt = 0x0 || fmt = 0x5 then BitVec.ofNat 32 x
    else BitVec.ofInt 32 (sintOf (fmtBits fmt) x)

/-- An element of a scalar format as VST encodes a lane, with its flags (R143). -/
def storeElem (fmt : Nat) (rm : Rm) (sat : Bool) (w : W32) : Nat × Flags :=
  match fmtFloat fmt with
  | some f => cvtFromF32 f rm w.toNat
  | none =>
    if fmt = 0x0 || fmt = 0x5 then (w.toNat, 0)
    else
      let r := cvtI32ToInt (fmt ≠ 0x7) (fmtBits fmt) sat w.toNat
      (r.1 % 2 ^ fmtBits fmt, r.2)

/-- Element `i` of a scalar format in the scratchpad from `base` (R38). -/
def Ctx.elemAt (c : Ctx) (base fmt i : Nat) : Nat :=
  let n := fmtBits fmt
  c.spad.readLE (base + i * n / 8) ((n + 7) / 8) / 2 ^ (i * n % 8) % 2 ^ n

/-- The bytes of element `i`, the other bits of a shared byte as `old` holds them (R144). -/
def elemCells (old : Nat → Byte) (base fmt i x : Nat) : List (Nat × Byte) :=
  let n := fmtBits fmt
  let a := base + i * n / 8
  if 8 ≤ n then (leBytes (n / 8) x).zipIdx.map fun p => (a + p.2, p.1)
  else
    let b := old a
    let sh := i * n % 8
    [(a, (b &&& ~~~(BitVec.ofNat 8 ((2 ^ n - 1) * 2 ^ sh))) ||| BitVec.ofNat 8 (x * 2 ^ sh))]

/-! ## Vectors (R143) -/

/-- Where vector `u` of a tile lies: its significand or element bytes and, in a block format, its 8 scale bytes, as offsets in
the tile (R42, R143). -/
def vecSpan (t : Tile) (u : Nat) : (Nat × Nat) × (Nat × Nat) :=
  let fmt := t.fmt.toNat
  let n := fmtBits fmt
  if fmtIsBlock fmt then
    let cols := t.cols.toNat
    let row := 256 * u / cols; let col := 256 * u % cols
    let rb := row * blockRowBytes fmt cols
    ((rb + col * n / 8, 32 * n), (rb + cols * n / 8 + col / 32, 8))
  else ((32 * u * n, 32 * n), (0, 0))

/-- Every byte of the vector lies in the tile (R144). Log entry 36 (DESIGN CHOICE). -/
def vecInside (t : Tile) (u : Nat) : Bool :=
  let sp := vecSpan t u
  sp.1.1 + sp.1.2 ≤ t.size.toNat && sp.2.1 + sp.2.2 ≤ t.size.toNat

/-- The row-group index: off, or off[8:0] for a Q4 tile (R143). -/
def vecGroup (t : Tile) (o : BitVec 11) : Nat := if t.fmt = 0xF then (o.extractLsb' 0 9).toNat else o.toNat

/-- Checks 1 to 3 of R144 for the executing clusters: the cause and TVAL of the first that fails. -/
def vecCheck (s : State) (h : BitVec 8) (o : BitVec 11) (ld : Bool) : Option (BitVec 7 × W64) :=
  let t := s.me.tile h
  if !t.valid then some (0x16, h.setWidth 64)
  else if t.level = 1 || (fmtIsBlock t.fmt.toNat && t.cols.toNat % 256 ≠ 0) ||
      (t.fmt = 0xF && ld && o.extractLsb' 9 2 ≠ 0) then some (0x18, h.setWidth 64)
  else
    match s.vClusters.find? fun k => !vecInside t (16 * vecGroup t o + k.toNat) with
    | some k => some (0x1A, k.setWidth 64)
    | none => none

/-- The 256 lanes that VLD reads from vector `u` (R143). -/
def vecLoad (c : Ctx) (t : Tile) (u : Nat) : Array W32 :=
  let fmt := t.fmt.toNat
  let n := fmtBits fmt
  let sp := vecSpan t u
  let base := t.base.toNat
  let bits := c.spad.readLE (base + sp.1.1) sp.1.2
  let scales := (c.spad.read (base + sp.2.1) sp.2.2).toArray
  ((List.range 256).map fun j =>
    let x := bits / 2 ^ (n * j) % 2 ^ n
    if fmtIsBlock fmt then BitVec.ofNat 32 (blockElemF32 fmt (scales.getD (j / 32) 0).toNat x).1 else loadElem fmt x).toArray

/-- The first failing word that an enabled lane of the vector reads, as an offset in the scratchpad. -/
def vecBad (c : Ctx) (t : Tile) (u : Nat) (mask : MReg) : Option Nat :=
  if c.spadBad.isEmpty then none
  else
    let n := fmtBits t.fmt.toNat
    let sp := vecSpan t u
    let base := t.base.toNat
    (List.range 256).findSome? fun j =>
      if !mask.getLsbD j then none
      else
        match c.firstBad (base + sp.1.1 + j * n / 8) ((n + 7) / 8) with
        | some w => some w
        | none => if fmtIsBlock t.fmt.toNat then c.firstBad (base + sp.2.1 + j / 32) 1 else none

/-- The bytes that the enabled lanes of a vector read, as offsets in the scratchpad and lengths. -/
def vecReads (t : Tile) (u : Nat) (mask : MReg) : List (Nat × Nat) :=
  let n := fmtBits t.fmt.toNat
  let sp := vecSpan t u
  let base := t.base.toNat
  ((List.range 256).filter mask.getLsbD).flatMap fun j =>
    (base + sp.1.1 + j * n / 8, (n + 7) / 8) :: (if fmtIsBlock t.fmt.toNat then [(base + sp.2.1 + j / 32, 1)] else [])

/-- A failing word stops a V tile access: ECC_UNCORRECTABLE with its tile pointer (R291). -/
def State.tileEcc (s : State) (h : BitVec 8) (w : Nat) : Res :=
  .next (s.eccTrap (tilePtr s.me.lcore h (8 * w - (s.me.tile h).base.toNat)))

/-- VLD (R143, R144). -/
def execVld (d : BitVec 6) (h : BitVec 8) (o : BitVec 11) (s : State) : Res :=
  let t := s.me.tile h
  let mk := s.vPfxMask
  let u := fun (k : BitVec 4) => 16 * vecGroup t o + k.toNat
  match vecCheck s h o true with
  | some e => s.trapR e.1 e.2
  | none =>
    if t.busy = 255 then .next (s.hold 7 h.toNat)
    else
      match s.vClusters.findSome? fun k => vecBad s.me t (u k) ((s.me.v.cluster k).mreg mk) with
      | some w => s.tileEcc h w
      | none =>
        let r := s.vApply fun k c =>
          let x := vecLoad s.me t (u k)
          let m := laneMap (c.vreg d) (c.mreg mk) fun j => (x.getD j 0, 0)
          (c.setV d m.1, 0)
        let reads := s.vClusters.flatMap fun k => vecReads t (u k) ((s.me.v.cluster k).mreg mk)
        .next ((s.vDone r.1 0 (some h)).meetOwn reads)

/-! ## VST (R143, R144) -/

/-- A block whose lanes are neither all enabled nor all disabled exists. -/
def splitBlock (m : MReg) : Bool :=
  (List.range 8).any fun b => let x : BitVec 32 := m.extractLsb' (32 * b) 32; x ≠ 0 && x ≠ BitVec.allOnes 32

/-- The bytes, at scratchpad offsets, that VST writes for one cluster in a block format, and its flags (R52, R53, R143). -/
def blockCells (t : Tile) (u qt : Nat) (v : VReg) (m : MReg) : List (Nat × Byte) × Flags :=
  let fmt := t.fmt.toNat
  let n := fmtBits fmt
  let sp := vecSpan t u
  let base := t.base.toNat
  (List.range 8).foldl (fun (r : List (Nat × Byte) × Flags) b =>
    if !m.getLsbD (32 * b) then r
    else
      let xs := (List.range 32).map fun i => (lane v (32 * b + i)).toNat
      let e := if fmt = 0xF then encodeQ4 qt xs else encodeBlock fmt xs
      let sig := (leBytes (4 * n) (packNat n e.2.1)).zipIdx.map fun p => (base + sp.1.1 + 4 * n * b + p.2, p.1)
      (r.1 ++ sig ++ [(base + sp.2.1 + b, BitVec.ofNat 8 e.1)], r.2 ||| e.2.2)) ([], 0)

/-- The same in a scalar format: the elements of the enabled lanes, a shared byte keeping its other elements. -/
def scalarCells (c : Ctx) (t : Tile) (u : Nat) (rm : Rm) (sat : Bool) (v : VReg) (m : MReg) : List (Nat × Byte) × Flags :=
  let fmt := t.fmt.toNat
  (List.range 256).foldl (fun (r : List (Nat × Byte) × Flags) j =>
    if !m.getLsbD j then r
    else
      let e := storeElem fmt rm sat (lane v j)
      let old := fun (a : Nat) => match r.1.getLast? with
        | some p => if p.1 = a then p.2 else c.spad.get a
        | none => c.spad.get a
      let new := elemCells old t.base.toNat fmt (256 * u + j) e.1
      let kept := match r.1.getLast?, new with
        | some p, q :: _ => if p.1 = q.1 then r.1.dropLast else r.1
        | _, _ => r.1
      (kept ++ new, r.2 ||| e.2)) ([], 0)

/-- A sub-byte format's byte that is only partly enabled lies in a failing word (R291). -/
def subByteBad (c : Ctx) (t : Tile) (u : Nat) (m : MReg) : Option Nat :=
  let n := fmtBits t.fmt.toNat
  if 8 ≤ n || fmtIsBlock t.fmt.toNat then none
  else
    let per := 8 / n
    (List.range (256 / per)).findSome? fun b =>
      let on := (List.range per).filter fun i => m.getLsbD (per * b + i)
      if on.length = 0 || on.length = per then none else c.firstBad (t.base.toNat + 32 * u * n + b) 1

/-- VST (R143, R144); field d names the source register. -/
def execVst (d : BitVec 6) (h : BitVec 8) (o : BitVec 11) (s : State) : Res :=
  let t := s.me.tile h
  let mk := s.vPfxMask
  let blk := fmtIsBlock t.fmt.toNat
  let u := fun (k : BitVec 4) => 16 * vecGroup t o + k.toNat
  let mask := fun (k : BitVec 4) => (s.me.v.cluster k).mreg mk
  match vecCheck s h o false with
  | some e => s.trapR e.1 e.2
  | none =>
    if blk && s.vClusters.any fun k => splitBlock (mask k) then s.trapR 0x18 (h.setWidth 64)
    else if t.busy = 255 then .next (s.hold 7 h.toNat)
    else
      match s.vClusters.findSome? fun k => subByteBad s.me t (u k) (mask k) with
      | some w => s.tileEcc h w
      | none =>
        let r := s.vClusters.foldl (fun (r : List (Nat × Byte) × Flags) k =>
          let v := (s.me.v.cluster k).vreg d
          let x := if blk then blockCells t (u k) (o.toNat / 512) v (mask k)
                   else scalarCells s.me t (u k) s.vRm s.vSat v (mask k)
          (r.1 ++ x.1, r.2 ||| x.2)) ([], 0)
        match s.me.spadCells r.1 with
        | .error w => s.tileEcc h w
        | .ok c => let s := { s with me := c }; .next ((s.vDone s.me.v r.2 (some h)).meetOwn (r.1.map fun p => (p.1, 1)))

/-! ## VLDX and VSTX (R145, R165) -/

/-- The handle that each executing cluster names, captured when the instruction begins (R145). -/
def State.xHandles (s : State) (b : BitVec 6) : List (BitVec 4 × BitVec 8) :=
  s.vClusters.zipIdx.map fun p =>
    (p.1, match s.me.v.xh[p.2]? with
          | some h => h
          | none => (lane ((s.me.v.cluster p.1).vreg b) 0).setWidth 8)

/-- The two passes of R145, over the lanes still to be done: the cause and TVAL of the first check that fails. -/
def xCheck (s : State) (a : BitVec 6) (k : BitVec 3) (hs : List (BitVec 4 × BitVec 8)) : Option (BitVec 7 × W64) :=
  let first := hs.findSome? fun p =>
    let t := s.me.tile p.2
    let tv := BitVec.ofNat 64 (p.2.toNat + 256 * p.1.toNat)
    if !t.valid then some (0x16, tv)
    else if fmtIsBlock t.fmt.toNat || t.level = 1 then some (0x18, tv) else none
  match first with
  | some e => some e
  | none =>
    hs.findSome? fun p =>
      let t := s.me.tile p.2
      let c := s.me.v.cluster p.1
      let n := fmtBits t.fmt.toNat
      ((List.range 256).find? fun j =>
        s.me.piV.toNat ≤ j && (c.mreg k).getLsbD j && t.size.toNat * 8 < ((lane (c.vreg a) j).toNat + 1) * n).map fun j =>
          (0x1A, BitVec.ofNat 64 (256 * p.1.toNat + j))

/-- The lanes of a unit: 16 from pi.v in lockstep, all of them while forked (R165). -/
def State.xLanes (s : State) : List Nat :=
  if s.me.v.forked then List.range 256 else (List.range 16).map fun i => s.me.piV.toNat + i

/-- A unit has been done: the next one follows, or the instruction retires with the flags of all its units (R133, R165); while
forked its handle stays busy until it completes (R146). -/
def State.xNext (s : State) (hs : List (BitVec 8)) (f : Flags) : State :=
  if s.me.v.forked then s.vDone s.me.v f hs.head?
  else
    let f := if s.me.piV = 0 then f else s.me.v.xflags ||| f
    let up := if s.me.piV = 0 then hs.eraseDups.foldl Ctx.busyUp s.me else s.me
    if s.me.piV.toNat + 16 < 256 then
      ({ s with me := { up with piV := s.me.piV + 16, v := { up.v with xh := hs, xflags := f } } }).hold 0 0
    else
      let c := hs.eraseDups.foldl Ctx.busyDown up
      let s := { s with me := { c with piV := 0, v := { c.v with xh := [], xflags := 0 } } }
      s.vDone s.me.v f none

/-- The bytes of the elements that the enabled lanes among `ls` name in a cluster, as offsets in the scratchpad and lengths. -/
def xSpans (s : State) (a : BitVec 6) (k : BitVec 3) (p : BitVec 4 × BitVec 8) (ls : List Nat) : List (Nat × Nat) :=
  let t := s.me.tile p.2; let c := s.me.v.cluster p.1; let n := fmtBits t.fmt.toNat
  (ls.filter (c.mreg k).getLsbD).map fun j => (t.base.toNat + (lane (c.vreg a) j).toNat * n / 8, (n + 7) / 8)

/-- The first failing word that a lane still to be done names, in any cluster: no cluster writes then (R164, R291).
Log entry 31 (DEDUCED). -/
def xBad (s : State) (a : BitVec 6) (k : BitVec 3) (hs : List (BitVec 4 × BitVec 8)) : Option (BitVec 8 × Nat) :=
  if s.me.spadBad.isEmpty then none
  else
    let left := (List.range 256).filter fun j => s.me.piV.toNat ≤ j
    hs.findSome? fun p => (xSpans s a k p left).findSome? fun e => (s.me.firstBad e.1 e.2).map fun w => (p.2, w)

/-- A step of VLDX or VSTX: the checks, then one unit. Log entry 31 (DEDUCED). -/
def State.indexed (s : State) (a b : BitVec 6) (k : BitVec 3) (go : List (BitVec 4 × BitVec 8) → Res) : Res :=
  let hs := s.xHandles b
  match xCheck s a k hs with
  | some e => s.trapR e.1 e.2
  | none =>
    if s.me.piV = 0 && hs.any fun p => (s.me.tile p.2).busy = 255 then .next (s.hold 7 0)
    else match xBad s a k hs with | some e => s.tileEcc e.1 e.2 | none => go hs

/-- VLDX: one unit (R145). Log entry 31 (DEDUCED). -/
def execVldx (d a b : BitVec 6) (k : BitVec 3) (s : State) : Res :=
  s.indexed a b k fun hs =>
    let ls := s.xLanes
    let v := hs.foldl (fun (v : VState) p =>
      let t := s.me.tile p.2; let c := s.me.v.cluster p.1
      let r := (List.range 256).map fun j =>
        if ls.contains j && (c.mreg k).getLsbD j then
          loadElem t.fmt.toNat (s.me.elemAt t.base.toNat t.fmt.toNat (lane (c.vreg a) j).toNat)
        else lane (c.vreg d) j
      v.setCluster p.1 (c.setV d (ofLanes r))) s.me.v
    let reads := hs.flatMap fun p => xSpans s a k p ls
    .next ((({ s with me := { s.me with v := v } }).xNext (hs.map fun (q : BitVec 4 × BitVec 8) => q.2) 0).meetOwn reads)

/-- A higher cluster has written the same element in an earlier unit: its value remains (R145). -/
def xShadowed (s : State) (a : BitVec 6) (k : BitVec 3) (hs : List (BitVec 4 × BitVec 8)) (p : BitVec 4 × BitVec 8) (i : W32) : Bool :=
  hs.any fun q => p.1.toNat < q.1.toNat && q.2 = p.2 &&
    (List.range s.me.piV.toNat).any fun j =>
      let c := s.me.v.cluster q.1
      (c.mreg k).getLsbD j && lane (c.vreg a) j = i

/-- VSTX: one unit (R145); field d names the source register. -/
def execVstx (d a b : BitVec 6) (k : BitVec 3) (s : State) : Res :=
  s.indexed a b k fun hs =>
    let ls := s.xLanes
    let r := hs.foldl (fun (r : Mem × Flags) p =>
      let t := s.me.tile p.2; let c := s.me.v.cluster p.1
      (ls.filter (c.mreg k).getLsbD).foldl (fun (r : Mem × Flags) j =>
        let i := lane (c.vreg a) j
        let e := storeElem t.fmt.toNat s.vRm s.vSat (lane (c.vreg d) j)
        (if xShadowed s a k hs p i then r.1 else r.1.setAll (elemCells r.1.get t.base.toNat t.fmt.toNat i.toNat e.1),
         r.2 ||| e.2)) r) (s.me.spad, 0)
    let writes := hs.flatMap fun p => xSpans s a k p ls
    let me := { s.me with spad := r.1 }.unmark fun (x : Nat) => writes.any fun p => p.1 ≤ x && x < p.1 + p.2
    .next ((({ s with me := me }).xNext (hs.map fun (q : BitVec 4 × BitVec 8) => q.2) r.2).meetOwn writes)

end Sys2Proof.Machine
end

