-- ==== Sys2Proof/Machine/CopyMem.lean ====
section
/-! DEFINITION. The memory accesses of copies (R215, R216, R291, R299, R312): translation at issue, reads and writes byte by
byte with the errors of single atoms, tile ends, and the weight-stream decompressor (R220, R222). -/

namespace Sys2Proof.Machine

/-- A byte of a copy; none where an error concerns it (R215). -/
abbrev CByte := Option Byte

/-- An error a copy meets: its cause and TVAL [31:0] (R215). -/
abbrev CFault := Option (BitVec 7 × W32)

/-- The first of two errors. -/
def CFault.or (a b : CFault) : CFault := match a with | some e => some e | none => b

/-! ## Pages (R215) -/

/-- The pieces (address, length) of a virtual range, one per 64 KiB page. -/
def pageSegs (va n : Nat) : List (Nat × Nat) :=
  if n = 0 then []
  else (List.range ((va + n - 1) / 65536 - va / 65536 + 1)).map fun k =>
    let p := va / 65536 + k
    let lo := Nat.max va (p * 65536)
    (lo, Nat.min (va + n) (p * 65536 + 65536) - lo)

/-- What translating the pages of ranges answers: a walk that must wait, the first faulting address, or the captured pages. -/
inductive Captured where
  | hold
  | fault (va : Nat) (s : State)
  | ok (pages : List (Nat × Nat)) (s : State)

/-- Translate the pages of ranges in order (R215). -/
def captures (i : BitVec 4) (wr : Bool) : List (Nat × Nat) → List (Nat × Nat) → State → Captured
  | [], pages, s => .ok pages s
  | (va, _) :: rest, pages, s =>
    let p := va / 65536
    if (pages.lookup p).isSome then captures i wr rest pages s
    else
      let w := walk s i va wr
      if w.hold then .hold
      else
        match w.pa with
        | none => .fault va (s.countWalk w (some (s.me.id, 0x10)))
        | some pa => captures i wr rest ((p, pa - va % 65536) :: pages) (s.countWalk w (some (s.me.id, 0x10)))

/-- The physical address of a virtual one under captured pages. -/
def pagePa (pages : List (Nat × Nat)) (va : Nat) : Option Nat := (pages.lookup (va / 65536)).map (· + va % 65536)

/-! ## Atoms (R312, R323) -/

/-- Bytes to be written from address `a` on, without those of a destination atom that an error concerns (R215). -/
def wholeAtoms (a : Nat) (bs : List CByte) : List (Nat × Byte) :=
  let l := bs.zipIdx.map fun p => (a + p.2, p.1)
  let bad := l.filterMap fun p => if p.2.isNone then some (p.1 / 32) else none
  l.filterMap fun p => match p.2 with
    | some b => if bad.contains (p.1 / 32) then none else some (p.1, b)
    | none => none

/-! ## Global ends -/

/-- The value of a home's error: DIE_QUIESCED names the socket (R326, R354). -/
def homeSocket (s : State) (pa : Nat) : W32 := BitVec.ofNat 32 ((bSocket s.hub.product (dieOf pa)).getD 0)

/-- The lines of `n` bytes at `pa` are accessed through the SRAM: by a write of `w`, one of `left` bytes from `pa` on, or by a
read. The access that reaches line `seen` has reached it before, and counts it no further (R384). -/
def State.touchLines (s : State) (pa n left : Nat) (seen : Option Nat) (w : Option Agent) (cache : BitVec 2) :
    State :=
  (linesOf pa n).foldl (fun s l =>
    if seen ≠ some l then (s.sramLine l w (pa ≤ l * 128 && l * 128 + 128 ≤ pa + left) cache).countFrame l
    else if cache = 1 && !(s.sram.any fun x => x.line == l) then s
    else s.sramLine l w false cache) s

/-- The line at `pa` that an access has reached with an earlier piece. -/
def seenLine (pa : Nat) (first : Bool) : Option Nat := if first || pa % 128 = 0 then none else some (pa / 128)

/-- Read pieces of global memory through captured pages (R213, R299); `first`: no piece of the access has been read before. -/
def readSegs (pages : List (Nat × Nat)) (cache : BitVec 2) : Bool → List (Nat × Nat) → State → List CByte → CFault →
    Acc (List CByte × CFault × State)
  | _, [], s, bs, e => .ok (bs, e, s)
  | first, (va, n) :: rest, s, bs, e =>
    match pagePa pages va with
    | none => readSegs pages cache true rest s (bs ++ List.replicate n none) e
    | some pa =>
      match homeState s (s.socketOf s.me.id) pa with
      | .hold => .hold
      | .err c => readSegs pages cache true rest s (bs ++ List.replicate n none) (e.or (some (c, homeSocket s pa)))
      | .ok () =>
        let bad := s.badAtoms
        let new := (s.mem.read pa n).zipIdx.map fun p => if bad.contains ((pa + p.2) / 32) then none else some p.1
        let fails := new.findIdx? (·.isNone)
        let s := (s.touchLines pa n n (seenLine pa first) none cache).meet pa n
        let s := match fails with | some k => s.logAtom (pa + k) | none => s
        readSegs pages cache true rest s (bs ++ new) (e.or (fails.map fun k => (0x17, BitVec.ofNat 32 (va + k))))

/-- Read a global range. -/
def State.cpGlobRead (s : State) (pages : List (Nat × Nat)) (cache : BitVec 2) (va n : Nat) (first : Bool := true) :
    Acc (List CByte × CFault × State) :=
  readSegs pages cache first (pageSegs va n) s [] none

/-- Cells at consecutive addresses as runs (address, bytes). -/
def cellSegs (l : List (Nat × Byte)) : List (Nat × List Byte) :=
  l.foldr (fun c r => match r with
    | (a, bs) :: t => if c.1 + 1 = a then (c.1, c.2 :: bs) :: t else (c.1, [c.2]) :: (a, bs) :: t
    | [] => [(c.1, [c.2])]) []

/-- The runs (address, length) of cells. -/
def cellRuns (l : List (Nat × Byte)) : List (Nat × Nat) := (cellSegs l).map fun p => (p.1, p.2.length)

/-- The runs of a write pass the SRAM, the journal and the watchpoints; `left`: the bytes of the whole access from `pa` on. -/
def State.passRuns (s : State) (pa left : Nat) (seen : Option Nat) (cache : BitVec 2) (w : Writer) (runs : List (Nat × Nat)) :
    State :=
  let i := instOf s.me.id
  (runs.foldl (fun (r : State × Option Nat) q =>
    (((r.1.touchLines q.1 q.2 (left - (q.1 - pa)) r.2 (some (w.who i)) cache).journal i q.1 q.2).wrote w q.1 q.2,
     some ((q.1 + q.2 - 1) / 128))) (s, seen)).1

/-- Write pieces of global memory through captured pages (R213, R299), of an access with `more` bytes after them. An atom that
an error concerns is not written: it passes neither the journal nor a watchpoint (R321, R323). -/
def writeSegs (pages : List (Nat × Nat)) (cache : BitVec 2) (w : Writer) (more : Nat) : Bool → List (Nat × Nat) → List CByte →
    State → CFault → Acc (CFault × State)
  | _, [], _, s, e => .ok (e, s)
  | first, (va, n) :: rest, bs, s, e =>
    let mine := bs.take n
    match pagePa pages va with
    | none => writeSegs pages cache w more true rest (bs.drop n) s e
    | some pa =>
      match homeState s (s.socketOf s.me.id) pa with
      | .hold => .hold
      | .err c => writeSegs pages cache w more true rest (bs.drop n) s (e.or (some (c, homeSocket s pa)))
      | .ok () =>
        let cells := wholeAtoms pa mine
        let whole := fun (a : Nat) => wholeAtom pa n a && cells.any fun p => p.1 / 32 == a
        let bad := s.badAtoms.filter fun a => !whole a
        let kept := cells.filter fun p => !bad.contains (p.1 / 32)
        let fails := cells.find? fun p => bad.contains (p.1 / 32)
        let s := (s.healAtoms whole).passRuns pa (n + more) (seenLine pa first) cache w (cellRuns kept)
        let s := s.meet pa n
        let s := match fails with | some p => s.logAtom p.1 | none => s
        writeSegs pages cache w more true rest (bs.drop n) { s with mem := s.mem.setAll kept }
          (e.or (fails.map fun p => (0x17, BitVec.ofNat 32 (va + (p.1 - pa)))))

/-- Write a global range. -/
def State.cpGlobWrite (s : State) (pages : List (Nat × Nat)) (cache : BitVec 2) (w : Writer) (va : Nat) (bs : List CByte)
    (first : Bool := true) (more : Nat := 0) : Acc (CFault × State) :=
  writeSegs pages cache w more first (pageSegs va bs.length) bs s none

/-! ## Tile ends (R291) -/

/-- Read own scratchpad bytes of a tile at `base`. -/
def Ctx.cpTileRead (c : Ctx) (base off n : Nat) : List CByte × CFault :=
  let bad := c.spadBad
  let bs := (c.spad.read (base + off) n).zipIdx.map fun p => if bad.contains ((base + off + p.2) / 8) then none else some p.1
  (bs, (bs.findIdx? (·.isNone)).map fun k => (0x17, BitVec.ofNat 32 (off + k)))

/-- The cells that a write of scratchpad bytes of a tile at `base` makes, and the first word that fails: a failing word covered
in part keeps its atom (R291). -/
def Ctx.tileCells (c : Ctx) (base off : Nat) (bs : List CByte) : List (Nat × Byte) × Option Nat :=
  let cells := wholeAtoms (base + off) bs
  let covered := fun (w : Nat) => ((List.range 8).filter fun k => cells.any fun p => p.1 = 8 * w + k).length
  let bad := c.spadBad.filter fun w => 0 < covered w && covered w < 8
  (cells.filter fun p => !bad.any fun w => w / 4 == p.1 / 32, bad.head?)

/-- Write own scratchpad bytes of a tile at `base`. -/
def Ctx.cpTileWrite (c : Ctx) (base off : Nat) (bs : List CByte) : Ctx × CFault :=
  let r := c.tileCells base off bs
  let good := fun (w : Nat) => (r.1.filter fun p => p.1 / 8 == w).length == 8
  ({ c with spad := c.spad.setAll r.1,
            badSpad := if c.badSpad.isEmpty then [] else c.badSpad.filter fun w => !good w,
            flipSpad := if c.flipSpad.isEmpty then [] else c.flipSpad.filter fun f => !good f.1 }.unmark fun a =>
              r.1.any fun p => p.1 = a,
   r.2.map fun w => (0x17, BitVec.ofNat 32 (8 * w - base)))

/-- A copy's error at a failing word of the tile of context `d` at `base` is logged (R367). -/
def State.logTile (s : State) (d : Ctx) (base : Nat) (e : CFault) : State :=
  match e with
  | some x => (s.meetWords d.id false (base + x.2.toNat) 1).logWord (d.spadPtr (base + x.2.toNat))
  | none => s

/-- The focus of the state reads its own tile. -/
def State.ownRead (s : State) (base off n : Nat) : Acc (List CByte × CFault × State) :=
  let r := s.me.cpTileRead base off n
  .ok (r.1, r.2, (s.meetWords s.me.id false (base + off) n).logTile s.me base r.2)

/-- A copy writes the tile of a context, running or saved, at `base` (R271). -/
def State.tileWrite (s : State) (id : BitVec 12) (base off : Nat) (bs : List CByte) : CFault × State :=
  match s.view id with
  | none => (none, s)
  | some d =>
    let r := d.cpTileWrite base off bs
    let s := (s.modCtx id fun _ => r.1).poke id ((cellSegs (d.tileCells base off bs).1).map fun p => (0x800000 + p.1, p.2))
    (r.2, (s.meetWords id false (base + off) bs.length).logTile d base r.2)

/-- The focus of the state writes its own tile. -/
def State.cpTile (s : State) (base off : Nat) (bs : List CByte) : CFault × State := s.tileWrite s.me.id base off bs

/-! ## Ends of copies -/

/-- Where a unit of a copy reads or writes. -/
inductive CEnd where
  | glob (va : Nat)
  /-- A tile's base, and an offset in it. -/
  | tile (base off : Nat)
  /-- Zeros. -/
  | zero
  /-- A stack of another package, and an address in it (R229). -/
  | remote (src a : Nat)
  deriving DecidableEq, Repr

/-- An own tile pointer or a global pointer as an end (R226, R229). -/
def ptrEnd (c : Ctx) (p : W64) : CEnd :=
  if ptrTag p = 0 then .glob (p.extractLsb' 0 56).toNat
  else .tile (c.tile (p.extractLsb' 48 8)).base.toNat (p.extractLsb' 0 32).toNat

/-- Bytes from an end's offset `o` to the end of its atom (R312). -/
def CEnd.atom (e : CEnd) (o : Nat) : Nat :=
  match e with
  | .glob va => 32 - (va + o) % 32
  | .tile base off => 32 - (base + off + o) % 32
  | .zero => 32
  | .remote _ a => 32 - (a + o) % 32

/-- Read `n` bytes of an end from offset `o` on, for a copy that issued in cycle `cc`. -/
def State.endRead (s : State) (pages : List (Nat × Nat)) (cache : BitVec 2) (cc : Nat) (e : CEnd) (o n : Nat) :
    Acc (List CByte × CFault × State) :=
  match e with
  | .glob va => s.cpGlobRead pages cache (va + o) n (o = 0)
  | .tile base off => s.ownRead base (off + o) n
  | .zero => .ok (List.replicate n (some 0), none, s)
  | .remote src a =>
    let bs := (List.range n).map fun j => Config.remoteByte src (a + o + j) cc s.tick
    .ok (bs, (bs.findIdx? (·.isNone)).map fun j => (0x17, BitVec.ofNat 32 (a + o + j)), s)

/-- Write bytes to an end from offset `o` on, of an access with `more` bytes after them. -/
def State.endWrite (s : State) (pages : List (Nat × Nat)) (cache : BitVec 2) (w : Writer) (e : CEnd) (o : Nat)
    (bs : List CByte) (more : Nat) : Acc (CFault × State) :=
  match e with
  | .glob va => s.cpGlobWrite pages cache w (va + o) bs (o = 0) more
  | .tile base off => .ok (s.cpTile base (off + o) bs)
  | _ => .ok (none, s)

/-- The checks of R31 on an own tile pointer or a global pointer that reaches `n` bytes: the cause of the first that fails. -/
def endCheck (s : State) (p : W64) (n : Nat) : Option (BitVec 7) :=
  if ptrTag p ≠ 0 && ptrTag p ≠ 9 then some 0x14
  else
    match checkPtr s s.me p n with
    | .error c => some c
    | .ok (.glob va) => if 2 ^ 56 < va + n then some 0x14 else none
    | .ok _ => none

/-- The ranges of a pointer's bytes that need translation. -/
def endSegs (p : W64) (n : Nat) : List (Nat × Nat) :=
  if ptrTag p = 0 then pageSegs (p.extractLsb' 0 56).toNat n else []

/-- The handles that a pointer names (R212). -/
def endHandles (p : W64) : List (BitVec 8) := if ptrTag p = 9 then [p.extractLsb' 48 8] else []

/-! ## Code tables and the decompressor (R220, R222) -/

/-- The code-table entry is well formed (R220, R221). -/
def codeOk (e : W32) : Bool :=
  let kind := e.extractLsb' 30 2
  kind ≠ 3 && e.extractLsb' 24 6 = 0 &&
  (kind = 2 || e.extractLsb' 16 8 = 0) && (kind ≠ 0 || e.extractLsb' 8 8 = 0)

/-- Decompress a stream from byte `pos` on, with `lit` bytes of the literal at `code` still to come and `left` bytes still to
be produced; the output comes in reverse. On the left: the stream offset of the failing code, or the stream's length. -/
def decompress (tab : List W32) : List Byte → (pos lit code left : Nat) → List Byte → Except Nat (List Byte)
  | [], pos, lit, code, left, out => if lit ≠ 0 then .error code else if left ≠ 0 then .error pos else .ok out
  | b :: t, pos, lit, code, left, out =>
    if lit ≠ 0 then decompress tab t (pos + 1) (lit - 1) code (left - 1) (b :: out)
    else
      let e := tab.getD b.toNat 0
      let n := (e.extractLsb' 0 8).toNat + 1
      let b0 : Byte := e.extractLsb' 8 8
      let b1 : Byte := e.extractLsb' 16 8
      let kind := e.extractLsb' 30 2
      let total := if kind = 2 then 2 * n else n
      if left < total then .error pos
      else if kind = 0 then decompress tab t (pos + 1) n pos left out
      else if kind = 1 then decompress tab t (pos + 1) 0 pos (left - n) (List.replicate n b0 ++ out)
      else decompress tab t (pos + 1) 0 pos (left - 2 * n) ((List.replicate n [b1, b0]).flatten ++ out)

end Sys2Proof.Machine
end

