-- ==== Sys2Proof/Decode.lean ====
section
/-! DEFINITION. The decoder of the five instruction streams and of E-bundle syllables (R63, R64, R72 to R83), total on
any word and rejecting by name, and the encoder written from the same tables. -/

namespace Sys2Proof

/-- Field of `n` bits from bit `lo`. -/
def fld (w : W32) (lo n : Nat) : BitVec n := w.extractLsb' lo n

/-- The checks of R64 after the opcode is known: the sub-function codes, then the reserved fields, then the field values
that the instruction declares reserved. -/
def finish (st : Stream) (w : W32) (i : Instr) (resv : List (Nat × Nat)) : Except DecodeError Instr :=
  if !fnAssigned i then .error .illegal
  else if resv.any (fun p => w.toNat / 2 ^ p.1 % 2 ^ p.2 != 0) then .error .reserved
  else if !valuesOk st i then .error .reserved
  else .ok i

/-- Opcode 0x01 of the S stream by its sub-code. -/
def decodeS01 (n : Nat) (w : W32) : Except DecodeError Instr :=
  match n with
  | 0x0 => finish .s w (.add (fld w 20 5) (fld w 15 5) (fld w 10 5)) []
  | 0x1 => finish .s w (.sub (fld w 20 5) (fld w 15 5) (fld w 10 5)) []
  | 0x2 => finish .s w (.and (fld w 20 5) (fld w 15 5) (fld w 10 5)) []
  | 0x3 => finish .s w (.or (fld w 20 5) (fld w 15 5) (fld w 10 5)) []
  | 0x4 => finish .s w (.xor (fld w 20 5) (fld w 15 5) (fld w 10 5)) []
  | 0x5 => finish .s w (.shl (fld w 20 5) (fld w 15 5) (fld w 10 5)) []
  | 0x6 => finish .s w (.shr (fld w 20 5) (fld w 15 5) (fld w 10 5)) []
  | 0x7 => finish .s w (.sra (fld w 20 5) (fld w 15 5) (fld w 10 5)) []
  | 0x8 => finish .s w (.mul (fld w 20 5) (fld w 15 5) (fld w 10 5)) []
  | 0x9 => finish .s w (.mulh (fld w 20 5) (fld w 15 5) (fld w 10 5)) []
  | 0xA => finish .s w (.div (fld w 20 5) (fld w 15 5) (fld w 10 5)) []
  | 0xB => finish .s w (.divu (fld w 20 5) (fld w 15 5) (fld w 10 5)) []
  | 0xC => finish .s w (.rem (fld w 20 5) (fld w 15 5) (fld w 10 5)) []
  | 0xD => finish .s w (.remu (fld w 20 5) (fld w 15 5) (fld w 10 5)) []
  | 0xE => finish .s w (.min (fld w 20 5) (fld w 15 5) (fld w 10 5)) []
  | 0xF => finish .s w (.max (fld w 20 5) (fld w 15 5) (fld w 10 5)) []
  | 0x10 => finish .s w (.minu (fld w 20 5) (fld w 15 5) (fld w 10 5)) []
  | 0x11 => finish .s w (.maxu (fld w 20 5) (fld w 15 5) (fld w 10 5)) []
  | 0x12 => finish .s w (.slt (fld w 20 5) (fld w 15 5) (fld w 10 5)) []
  | 0x13 => finish .s w (.sltu (fld w 20 5) (fld w 15 5) (fld w 10 5)) []
  | 0x14 => finish .s w (.clz (fld w 20 5) (fld w 15 5)) [(10, 5)]
  | 0x15 => finish .s w (.popc (fld w 20 5) (fld w 15 5)) [(10, 5)]
  | _ => .error .illegal

/-- Opcode 0x26 of the S stream by its sub-code. -/
def decodeS26 (n : Nat) (w : W32) : Except DecodeError Instr :=
  match n with
  | 0 => finish .s w (.amoswap (fld w 20 5) (fld w 15 5) (fld w 10 5) (fld w 4 1)) []
  | 1 => finish .s w (.amoadd (fld w 20 5) (fld w 15 5) (fld w 10 5) (fld w 4 1)) []
  | 2 => finish .s w (.amoand (fld w 20 5) (fld w 15 5) (fld w 10 5) (fld w 4 1)) []
  | 3 => finish .s w (.amoor (fld w 20 5) (fld w 15 5) (fld w 10 5) (fld w 4 1)) []
  | 4 => finish .s w (.amoxor (fld w 20 5) (fld w 15 5) (fld w 10 5) (fld w 4 1)) []
  | 5 => finish .s w (.amomin (fld w 20 5) (fld w 15 5) (fld w 10 5) (fld w 4 1)) []
  | 6 => finish .s w (.amomax (fld w 20 5) (fld w 15 5) (fld w 10 5) (fld w 4 1)) []
  | 7 => finish .s w (.amominu (fld w 20 5) (fld w 15 5) (fld w 10 5) (fld w 4 1)) []
  | 8 => finish .s w (.amomaxu (fld w 20 5) (fld w 15 5) (fld w 10 5) (fld w 4 1)) []
  | _ => .error .illegal

/-- Opcode 0x29 of the S stream by its sub-code. -/
def decodeS29 (n : Nat) (w : W32) : Except DecodeError Instr :=
  match n with
  | 0x0 => finish .s w (.spcGlobal (fld w 20 5) (fld w 15 5)) [(10, 5)]
  | 0x8 => finish .s w (.spcPrivate (fld w 20 5) (fld w 15 5)) [(10, 5)]
  | 0x9 => finish .s w (.spcTile (fld w 20 5) (fld w 15 5) (fld w 10 5)) []
  | 0xA => finish .s w (.spcShared (fld w 20 5) (fld w 15 5) (fld w 10 5)) []
  | 0x10 => finish .s w (.spcOffset (fld w 20 5) (fld w 15 5)) [(10, 5)]
  | _ => .error .illegal

/-- Opcode 0x30 of the S stream by its sub-code. -/
def decodeS30 (n : Nat) (w : W32) : Except DecodeError Instr :=
  match n with
  | 0x0 => finish .s w (.toks (fld w 20 5) (fld w 8 4) (fld w 0 8)) [(12, 7)]
  | 0x1 => finish .s w (.toksRemote (fld w 20 5) (fld w 11 8) (fld w 8 3) (fld w 0 8)) []
  | _ => .error .reserved

/-- The map of opcodes: decode of a word of the S stream (R72, R73). The 0 word and an unassigned cell are `illegal` (R63). -/
def decodeSOp (op : Nat) (w : W32) : Except DecodeError Instr :=
  match op with
  | 0x01 => decodeS01 (w.toNat % 0x400) w
  | 0x02 => finish .s w (.addi (fld w 20 5) (fld w 15 5) (fld w 0 15)) []
  | 0x03 => finish .s w (.andi (fld w 20 5) (fld w 15 5) (fld w 0 15)) []
  | 0x04 => finish .s w (.ori (fld w 20 5) (fld w 15 5) (fld w 0 15)) []
  | 0x05 => finish .s w (.xori (fld w 20 5) (fld w 15 5) (fld w 0 15)) []
  | 0x06 => finish .s w (.shli (fld w 20 5) (fld w 15 5) (fld w 0 6)) [(6, 9)]
  | 0x07 => finish .s w (.shri (fld w 20 5) (fld w 15 5) (fld w 0 6)) [(6, 9)]
  | 0x08 => finish .s w (.srai (fld w 20 5) (fld w 15 5) (fld w 0 6)) [(6, 9)]
  | 0x09 => finish .s w (.slti (fld w 20 5) (fld w 15 5) (fld w 0 15)) []
  | 0x0A => finish .s w (.sltui (fld w 20 5) (fld w 15 5) (fld w 0 15)) []
  | 0x0C => finish .s w (.lih (fld w 20 5) (fld w 0 20)) []
  | 0x0D => finish .s w (.addpc (fld w 20 5) (fld w 0 20)) []
  | 0x10 => finish .s w (.beq (fld w 20 5) (fld w 15 5) (fld w 0 15)) []
  | 0x11 => finish .s w (.bne (fld w 20 5) (fld w 15 5) (fld w 0 15)) []
  | 0x12 => finish .s w (.blt (fld w 20 5) (fld w 15 5) (fld w 0 15)) []
  | 0x13 => finish .s w (.bge (fld w 20 5) (fld w 15 5) (fld w 0 15)) []
  | 0x14 => finish .s w (.bltu (fld w 20 5) (fld w 15 5) (fld w 0 15)) []
  | 0x15 => finish .s w (.bgeu (fld w 20 5) (fld w 15 5) (fld w 0 15)) []
  | 0x16 => finish .s w (.jal (fld w 20 5) (fld w 0 20)) []
  | 0x17 => finish .s w (.jalr (fld w 20 5) (fld w 15 5) (fld w 0 15)) []
  | 0x18 => finish .s w (.loop (fld w 20 5) (fld w 0 15)) [(15, 5)]
  | 0x20 => finish .s w (.ld (fld w 20 5) (fld w 15 5) (fld w 13 2) (fld w 0 13)) []
  | 0x21 => finish .s w (.ldsx (fld w 20 5) (fld w 15 5) (fld w 13 2) (fld w 0 13)) []
  | 0x22 => finish .s w (.st (fld w 20 5) (fld w 15 5) (fld w 13 2) (fld w 0 13)) []
  | 0x23 => finish .s w (.ldc (fld w 20 5) (fld w 15 5) (fld w 13 2) (fld w 0 13)) []
  | 0x24 => finish .s w (.mark) [(0, 25)]
  | 0x25 => finish .s w (.fence (fld w 8 3)) [(0, 8), (11, 14)]
  | 0x26 => if fld w 5 5 != 0 then .error .illegal else decodeS26 (w.toNat % 0x10) w
  | 0x27 => if fld w 1 9 != 0 then .error .illegal else finish .s w (.cas (fld w 20 5) (fld w 15 5) (fld w 10 5) (fld w 0 1)) []
  | 0x28 => finish .s w (.spt (fld w 20 5) (fld w 15 5)) [(0, 15)]
  | 0x29 => decodeS29 (w.toNat % 0x400) w
  | 0x30 => decodeS30 (w.toNat / 0x80000 % 0x2) w
  | 0x31 => finish .s w (.tokw (fld w 20 5) (fld w 8 4)) [(0, 8), (12, 8)]
  | 0x32 => finish .s w (.cue (fld w 0 20)) [(20, 5)]
  | 0x33 => finish .s w (.gset (fld w 20 5) (fld w 8 4) (fld w 0 8)) [(12, 8)]
  | 0x34 => finish .s w (.wfe (fld w 20 5) (fld w 0 8)) [(8, 12)]
  | 0x35 => finish .s w (.sev (fld w 20 5) (fld w 0 8)) [(8, 12)]
  | 0x36 => finish .s w (.cut (fld w 8 3)) [(0, 8), (11, 14)]
  | 0x37 => finish .s w (.domr (fld w 20 5) (fld w 8 3) (fld w 0 8)) [(11, 9)]
  | 0x38 => finish .s w (.seedrd (fld w 20 5) (fld w 0 8)) [(8, 12)]
  | 0x39 => if fld w 0 10 != 0 then .error .illegal else finish .s w (.rngk (fld w 20 4) (fld w 15 5) (fld w 10 5)) [(24, 1)]
  | 0x3A => if fld w 0 10 != 0 then .error .illegal else finish .s w (.rnga (fld w 20 4) (fld w 15 5) (fld w 10 5)) [(24, 1)]
  | 0x3C => finish .s w (.folio (fld w 15 5) (fld w 10 5) (fld w 0 6)) [(6, 4), (20, 5)]
  | 0x3D => finish .s w (.funbind (fld w 8 6)) [(0, 8), (14, 11)]
  | 0x40 => finish .s w (.talloc (fld w 20 5) (fld w 15 5) (fld w 10 5) (fld w 0 8)) [(8, 2)]
  | 0x41 => finish .s w (.tfree (fld w 8 8)) [(0, 8), (16, 9)]
  | 0x42 => finish .s w (.tinfo (fld w 20 5) (fld w 8 8) (fld w 0 8)) [(16, 4)]
  | 0x43 => finish .s w (.tring (fld w 20 5) (fld w 8 8) (fld w 0 8)) [(16, 4)]
  | 0x48 => finish .s w (.trap (fld w 0 8)) [(8, 17)]
  | 0x49 => finish .s w (.eret) [(0, 25)]
  | 0x4A => finish .s w (.csrr (fld w 20 5) (fld w 8 12)) [(0, 8)]
  | 0x4B => finish .s w (.csrw (fld w 20 5) (fld w 8 12)) [(0, 8)]
  | 0x4C => finish .s w (.csrs (fld w 20 5) (fld w 8 12) (fld w 0 8)) []
  | 0x4D => finish .s w (.halt) [(0, 25)]
  | 0x4E => finish .s w (.nop) [(0, 25)]
  | 0x7F => finish .s w (.pfx (fld w 21 4) (fld w 20 1) (fld w 16 4) (fld w 12 4) (fld w 0 12)) []
  | _ => .error .illegal

/-- Decode of a word of the S stream (R72, R73). The 0 word and an unassigned cell are `illegal` (R63). -/
def decodeS (w : W32) : Except DecodeError Instr := decodeSOp (w.toNat / 0x2000000) w

/-- The map of opcodes: decode of a word of the V stream (R74, R76). The 0 word and an unassigned cell are `illegal` (R63). -/
def decodeVOp (op : Nat) (w : W32) : Except DecodeError Instr :=
  match op with
  | 0x01 => finish .v w (.vadd (fld w 19 6) (fld w 13 6) (fld w 7 6) (fld w 4 3) (fld w 0 4)) []
  | 0x02 => finish .v w (.vsub (fld w 19 6) (fld w 13 6) (fld w 7 6) (fld w 4 3) (fld w 0 4)) []
  | 0x03 => finish .v w (.vmul (fld w 19 6) (fld w 13 6) (fld w 7 6) (fld w 4 3) (fld w 0 4)) []
  | 0x04 => finish .v w (.vfma (fld w 19 6) (fld w 13 6) (fld w 7 6) (fld w 1 6) (fld w 0 1)) []
  | 0x05 => finish .v w (.vfms (fld w 19 6) (fld w 13 6) (fld w 7 6) (fld w 1 6) (fld w 0 1)) []
  | 0x06 => finish .v w (.vmin (fld w 19 6) (fld w 13 6) (fld w 7 6) (fld w 4 3) (fld w 0 4)) []
  | 0x07 => finish .v w (.vmax (fld w 19 6) (fld w 13 6) (fld w 7 6) (fld w 4 3) (fld w 0 4)) []
  | 0x08 => finish .v w (.vabs (fld w 19 6) (fld w 13 6) (fld w 4 3) (fld w 0 4)) [(7, 6)]
  | 0x09 => finish .v w (.vneg (fld w 19 6) (fld w 13 6) (fld w 4 3) (fld w 0 4)) [(7, 6)]
  | 0x0A => finish .v w (.vcmp (fld w 19 6) (fld w 13 6) (fld w 7 6) (fld w 4 3) (fld w 0 4)) []
  | 0x0B => finish .v w (.vsel (fld w 19 6) (fld w 13 6) (fld w 7 6) (fld w 4 3)) [(0, 4)]
  | 0x0C => finish .v w (.vcvt (fld w 19 6) (fld w 13 6) (fld w 4 3) (fld w 0 4)) [(7, 6)]
  | 0x0D => finish .v w (.vrnd (fld w 19 6) (fld w 13 6) (fld w 4 3)) [(0, 4), (7, 6)]
  | 0x10 => finish .v w (.viadd (fld w 19 6) (fld w 13 6) (fld w 7 6) (fld w 4 3) (fld w 0 4)) []
  | 0x11 => finish .v w (.visub (fld w 19 6) (fld w 13 6) (fld w 7 6) (fld w 4 3) (fld w 0 4)) []
  | 0x12 => finish .v w (.vimul (fld w 19 6) (fld w 13 6) (fld w 7 6) (fld w 4 3) (fld w 0 4)) []
  | 0x13 => if fld w 0 4 != 0 then .error .illegal else finish .v w (.vand (fld w 19 6) (fld w 13 6) (fld w 7 6) (fld w 4 3)) []
  | 0x14 => if fld w 0 4 != 0 then .error .illegal else finish .v w (.vor (fld w 19 6) (fld w 13 6) (fld w 7 6) (fld w 4 3)) []
  | 0x15 => if fld w 0 4 != 0 then .error .illegal else finish .v w (.vxor (fld w 19 6) (fld w 13 6) (fld w 7 6) (fld w 4 3)) []
  | 0x16 => if fld w 0 4 != 0 then .error .illegal else finish .v w (.vshl (fld w 19 6) (fld w 13 6) (fld w 7 6) (fld w 4 3)) []
  | 0x17 => if fld w 0 4 != 0 then .error .illegal else finish .v w (.vshr (fld w 19 6) (fld w 13 6) (fld w 7 6) (fld w 4 3)) []
  | 0x18 => if fld w 0 4 != 0 then .error .illegal else finish .v w (.vsra (fld w 19 6) (fld w 13 6) (fld w 7 6) (fld w 4 3)) []
  | 0x19 => finish .v w (.vimin (fld w 19 6) (fld w 13 6) (fld w 7 6) (fld w 4 3) (fld w 0 4)) []
  | 0x1A => finish .v w (.vimax (fld w 19 6) (fld w 13 6) (fld w 7 6) (fld w 4 3) (fld w 0 4)) []
  | 0x1B => finish .v w (.vicmp (fld w 19 6) (fld w 13 6) (fld w 7 6) (fld w 4 3) (fld w 0 4)) []
  | 0x20 => finish .v w (.vbmul (fld w 19 6) (fld w 13 6) (fld w 7 6) (fld w 4 3) (fld w 1 3) (fld w 0 1)) []
  | 0x21 => finish .v w (.vbdot (fld w 19 6) (fld w 13 6) (fld w 7 6) (fld w 4 3) (fld w 1 3) (fld w 0 1)) []
  | 0x22 => finish .v w (.vbmac (fld w 19 6) (fld w 13 6) (fld w 7 6) (fld w 4 3) (fld w 1 3) (fld w 0 1)) []
  | 0x28 => finish .v w (.vld (fld w 19 6) (fld w 11 8) (fld w 0 11)) []
  | 0x29 => finish .v w (.vst (fld w 19 6) (fld w 11 8) (fld w 0 11)) []
  | 0x2A => finish .v w (.vldx (fld w 19 6) (fld w 13 6) (fld w 7 6) (fld w 4 3)) [(0, 4)]
  | 0x2B => finish .v w (.vstx (fld w 19 6) (fld w 13 6) (fld w 7 6) (fld w 4 3)) [(0, 4)]
  | 0x2C => finish .v w (.vbcast (fld w 19 6) (fld w 13 6) (fld w 2 2 ++ fld w 7 6) (fld w 4 3)) [(0, 2)]
  | 0x2D => finish .v w (.vmov (fld w 19 6) (fld w 13 6) (fld w 4 3)) [(0, 4), (7, 6)]
  | 0x2E => finish .v w (.vperm (fld w 19 6) (fld w 13 6) (fld w 7 6) (fld w 4 3)) [(0, 4)]
  | 0x2F => finish .v w (.vshuf (fld w 19 6) (fld w 13 6) (fld w 7 6) (fld w 4 3) (fld w 0 4)) []
  | 0x30 => finish .v w (.vext (fld w 19 6) (fld w 13 6) (fld w 4 3) (fld w 0 4)) [(7, 6)]
  | 0x31 => finish .v w (.vins (fld w 19 6) (fld w 13 6) (fld w 2 2 ++ fld w 7 6) (fld w 4 3)) [(0, 2)]
  | 0x34 => finish .v w (.vmset (fld w 19 3) (fld w 13 6) (fld w 4 3) (fld w 0 4)) [(7, 6), (22, 3)]
  | 0x35 => finish .v w (.vmand (fld w 19 3) (fld w 13 3) (fld w 7 3) (fld w 4 3)) [(0, 4), (10, 3), (16, 3), (22, 3)]
  | 0x36 => finish .v w (.vmor (fld w 19 3) (fld w 13 3) (fld w 7 3) (fld w 4 3)) [(0, 4), (10, 3), (16, 3), (22, 3)]
  | 0x37 => finish .v w (.vmnot (fld w 19 3) (fld w 13 3) (fld w 4 3)) [(0, 4), (7, 6), (16, 3), (22, 3)]
  | 0x38 => finish .v w (.vmpop (fld w 19 6) (fld w 13 3) (fld w 4 3)) [(0, 4), (7, 6), (16, 3)]
  | 0x3A => finish .v w (.vred (fld w 19 6) (fld w 13 6) (fld w 7 6) (fld w 4 3) (fld w 0 4)) []
  | 0x3B => finish .v w (.vscan (fld w 19 6) (fld w 13 6) (fld w 4 3) (fld w 0 4)) [(7, 6)]
  | 0x40 => finish .v w (.vfn (fld w 19 6) (fld w 13 6) (fld w 4 3) (fld w 0 4)) [(7, 6)]
  | 0x41 => finish .v w (.vgate (fld w 19 6) (fld w 13 6) (fld w 7 6) (fld w 1 6)) [(0, 1)]
  | 0x42 => finish .v w (.vstat (fld w 19 6) (fld w 13 6) (fld w 7 6) (fld w 4 3) (fld w 0 4)) []
  | 0x43 => finish .v w (.vnorm (fld w 19 6) (fld w 13 6) (fld w 7 6) (fld w 4 3) (fld w 0 4)) []
  | 0x44 => finish .v w (.vsmax (fld w 19 6) (fld w 13 6) (fld w 7 6) (fld w 4 3) (fld w 0 4)) []
  | 0x45 => finish .v w (.vsmxn (fld w 19 6) (fld w 13 6) (fld w 7 6) (fld w 4 3)) [(0, 4)]
  | 0x48 => finish .v w (.vx (fld w 19 6) (fld w 13 6) (fld w 7 6) (fld w 1 6) (fld w 0 1)) []
  | 0x49 => finish .v w (.vrng (fld w 19 6) (fld w 13 6) (fld w 7 6) (fld w 4 3) (fld w 0 4)) []
  | 0x50 => finish .v w (.vfork) [(0, 25)]
  | 0x51 => finish .v w (.vjoin) [(0, 25)]
  | 0x52 => finish .v w (.vsyb (fld w 0 4)) [(4, 21)]
  | 0x53 => finish .v w (.vsyw (fld w 0 4)) [(4, 21)]
  | 0x54 => finish .v w (.vbr (fld w 19 6) (fld w 0 19)) []
  | 0x55 => finish .v w (.vloop (fld w 19 6) (fld w 0 19)) []
  | 0x56 => finish .v w (.vring (fld w 19 2) (fld w 11 8) (fld w 0 8)) [(8, 3), (21, 4)]
  | 0x58 => finish .v w (.vtoks (fld w 19 6) (fld w 0 4)) [(4, 15)]
  | 0x59 => finish .v w (.vtokw (fld w 19 6) (fld w 0 4)) [(4, 15)]
  | 0x5A => finish .v w (.vcue (fld w 0 20)) [(20, 5)]
  | 0x5B => finish .v w (.vflags (fld w 19 6)) [(0, 19)]
  | 0x5C => finish .v w (.vnop) [(0, 25)]
  | 0x7F => finish .v w (.pfx (fld w 21 4) (fld w 20 1) (fld w 16 4) (fld w 12 4) (fld w 0 12)) []
  | _ => .error .illegal

/-- Decode of a word of the V stream (R74, R76). The 0 word and an unassigned cell are `illegal` (R63). Log entry 12 (DEDUCED). -/
def decodeV (w : W32) : Except DecodeError Instr := decodeVOp (w.toNat / 0x2000000) w

/-- Opcode 0x03 of the M stream by its sub-code. -/
def decodeM03 (n : Nat) (w : W32) : Except DecodeError Instr :=
  match n with
  | 0x0 => finish .m w (.mwld (fld w 17 8) (fld w 0 4)) [(6, 11)]
  | 0x1 => finish .m w (.mwldS (fld w 0 4)) [(6, 19)]
  | 0x2 => finish .m w (.mwldF (fld w 17 8) (fld w 9 4) (fld w 0 4)) [(6, 3), (13, 4)]
  | _ => .error .reserved

/-- Opcode 0x06 of the M stream by its sub-code. -/
def decodeM06 (n : Nat) (w : W32) : Except DecodeError Instr :=
  match n with
  | 0x0 => finish .m w (.mgo (fld w 17 8) (fld w 9 8)) [(1, 8)]
  | 0x1 => finish .m w (.mgoF (fld w 17 8) (fld w 9 8) (fld w 1 4)) [(5, 4)]
  | _ => .error .reserved

/-- Opcode 0x08 of the M stream by its sub-code. -/
def decodeM08 (n : Nat) (w : W32) : Except DecodeError Instr :=
  match n with
  | 0x0 => finish .m w (.mqClose (fld w 8 16) (fld w 0 8)) []
  | 0x1 => finish .m w (.mqOpen (fld w 8 16) (fld w 0 8)) []
  | _ => .error .reserved

/-- Opcode 0x13 of the M stream by its sub-code. -/
def decodeM13 (n : Nat) (w : W32) : Except DecodeError Instr :=
  match n with
  | 0x0 => finish .m w (.mwait) [(1, 24)]
  | 0x1 => finish .m w (.mwaitEnd) [(1, 24)]
  | _ => .error .reserved

/-- The map of opcodes: decode of a word of the M stream (R77, R78). The 0 word and an unassigned cell are `illegal` (R63).
Log entry 119 (DESIGN CHOICE). -/
def decodeMOp (op : Nat) (w : W32) : Except DecodeError Instr :=
  match op with
  | 0x01 => if 6 ≤ w.toNat / 0x400000 % 8 then .error .nestConfig else finish .m w (.mnest (fld w 22 3) (fld w 20 2) (fld w 0 20)) []
  | 0x02 => finish .m w (.mfmt (fld w 6 1) (fld w 4 2) (fld w 0 4)) [(7, 18)]
  | 0x03 => decodeM03 (w.toNat / 0x10 % 0x4) w
  | 0x04 => finish .m w (.mwsw) [(0, 25)]
  | 0x05 => finish .m w (.macc (fld w 6 2) (fld w 2 4) (fld w 0 2)) [(8, 17)]
  | 0x06 => decodeM06 (w.toNat % 0x2) w
  | 0x07 => if 6 ≤ w.toNat / 0x400000 % 8 then .error .nestConfig else finish .m w (.msplit (fld w 0 20)) [(20, 5)]
  | 0x08 => decodeM08 (w.toNat / 0x1000000 % 0x2) w
  | 0x10 => finish .m w (.mtoks (fld w 16 4) (fld w 0 16)) [(20, 5)]
  | 0x11 => finish .m w (.mtokw (fld w 16 4)) [(0, 16), (20, 5)]
  | 0x12 => finish .m w (.mcue (fld w 0 20)) [(20, 5)]
  | 0x13 => decodeM13 (w.toNat % 0x2) w
  | 0x14 => finish .m w (.mnop) [(0, 25)]
  | 0x15 => finish .m w (.mring (fld w 16 2) (fld w 8 8) (fld w 0 8)) [(18, 7)]
  | 0x7F => finish .m w (.pfx (fld w 21 4) (fld w 20 1) (fld w 16 4) (fld w 12 4) (fld w 0 12)) []
  | _ => .error .illegal

/-- Decode of a word of the M stream (R77, R78). The 0 word and an unassigned cell are `illegal` (R63). -/
def decodeM (w : W32) : Except DecodeError Instr := decodeMOp (w.toNat / 0x2000000) w

/-- Opcode 0x02 of the C stream by its sub-code. -/
def decodeC02 (n : Nat) (w : W32) : Except DecodeError Instr :=
  match n with
  | 0x0 => finish .c w (.cadd (fld w 21 4) (fld w 0 20)) []
  | 0x1 => finish .c w (.caddReg (fld w 21 4) (fld w 0 4)) [(4, 16)]
  | _ => .error .reserved

/-- Opcode 0x08 of the C stream by its sub-code. -/
def decodeC08 (n : Nat) (w : W32) : Except DecodeError Instr :=
  match n with
  | 0x0 => finish .c w (.ccpy (fld w 21 4) (fld w 18 3) (fld w 10 8) (fld w 2 8) (fld w 1 1)) []
  | 0x1 => finish .c w (.ccpyOut (fld w 21 4) (fld w 18 3) (fld w 10 8) (fld w 2 8) (fld w 1 1)) []
  | _ => .error .reserved

/-- Opcode 0x19 of the C stream by its sub-code. -/
def decodeC19 (n : Nat) (w : W32) : Except DecodeError Instr :=
  match n with
  | 0x0 => finish .c w (.ctoks (fld w 21 4) (fld w 4 16) (fld w 0 4)) []
  | 0x1 => finish .c w (.ctoksAll (fld w 21 4) (fld w 4 16) (fld w 0 4)) []
  | _ => .error .reserved

/-- Opcode 0x1A of the C stream by its sub-code. -/
def decodeC1A (n : Nat) (w : W32) : Except DecodeError Instr :=
  match n with
  | 0x0 => finish .c w (.ctokw (fld w 0 4)) [(6, 19)]
  | 0x1 => finish .c w (.ctokwLd (fld w 21 4) (fld w 0 4)) [(6, 15)]
  | 0x2 => finish .c w (.ctokwAdd (fld w 21 4) (fld w 0 4)) [(6, 15)]
  | _ => .error .reserved

/-- The map of opcodes: decode of a word of the C stream (R79, R80). The 0 word and an unassigned cell are `illegal` (R63). -/
def decodeCOp (gather : Bool) (op : Nat) (w : W32) : Except DecodeError Instr :=
  match op with
  | 0x01 => finish .c w (.cla (fld w 21 4) (fld w 19 2) (fld w 0 16)) [(16, 3)]
  | 0x02 => decodeC02 (w.toNat / 0x100000 % 0x2) w
  | 0x08 => decodeC08 (w.toNat % 0x2) w
  | 0x09 => finish .c w (.ccpys (fld w 21 4) (fld w 18 3) (fld w 10 8) (fld w 2 8)) [(0, 2)]
  | 0x0A => finish .c w (.cwst (fld w 21 4) (fld w 18 3)) [(0, 18)]
  | 0x0B => finish .c w (.ctab (fld w 18 3) (fld w 10 8)) [(0, 10), (21, 4)]
  | 0x0C => if gather then finish .c w (.cgath (fld w 21 4) (fld w 17 4) (fld w 13 4) (fld w 10 3) (fld w 0 8)) [(8, 2)] else .error .illegal
  | 0x0D => if gather then finish .c w (.cscat (fld w 21 4) (fld w 17 4) (fld w 13 4) (fld w 10 3) (fld w 0 8)) [(8, 2)] else .error .illegal
  | 0x10 => finish .c w (.cxfer (fld w 21 4) (fld w 18 3) (fld w 10 8)) [(0, 10)]
  | 0x11 => finish .c w (.cred (fld w 21 4) (fld w 17 4) (fld w 13 4) (fld w 10 3) (fld w 6 1) (fld w 2 4) (fld w 0 2)) [(7, 3)]
  | 0x12 => finish .c w (.cbcst (fld w 21 4) (fld w 17 4) (fld w 13 4) (fld w 10 3) (fld w 6 1)) [(0, 6), (7, 3)]
  | 0x13 => finish .c w (.cpref (fld w 21 4) (fld w 17 4) (fld w 10 3)) [(0, 10), (13, 4)]
  | 0x14 => finish .c w (.cmig (fld w 21 4) (fld w 10 3) (fld w 0 1)) [(1, 9), (13, 8)]
  | 0x15 => finish .c w (.crrd (fld w 21 4) (fld w 17 4) (fld w 13 4) (fld w 10 3)) [(0, 10)]
  | 0x18 => finish .c w (.cwaitm (fld w 0 8)) [(8, 17)]
  | 0x19 => decodeC19 (w.toNat / 0x100000 % 0x2) w
  | 0x1A => decodeC1A (w.toNat / 0x10 % 0x4) w
  | 0x1B => finish .c w (.ccue (fld w 0 20)) [(20, 5)]
  | 0x1C => finish .c w (.cfence (fld w 0 3)) [(3, 22)]
  | 0x1D => finish .c w (.cnop) [(0, 25)]
  | 0x1E => finish .c w (.cring (fld w 16 2) (fld w 8 8) (fld w 0 8)) [(18, 7)]
  | 0x7F => finish .c w (.pfx (fld w 21 4) (fld w 20 1) (fld w 16 4) (fld w 12 4) (fld w 0 12)) []
  | _ => .error .illegal

/-- Decode of a word of the C stream (R79, R80). The 0 word and an unassigned cell are `illegal` (R63). -/
def decodeC (gather : Bool) (w : W32) : Except DecodeError Instr := decodeCOp gather (w.toNat / 0x2000000) w

/-- Opcode 0x02 of the F stream by its sub-code. -/
def decodeF02 (n : Nat) (w : W32) : Except DecodeError Instr :=
  match n with
  | 0x0 => finish .f w (.fopen (fld w 17 8) (fld w 11 6) (fld w 9 1) (fld w 1 8)) [(0, 1)]
  | 0x1 => finish .f w (.fopenOut (fld w 17 8) (fld w 11 6) (fld w 9 1) (fld w 1 8)) [(0, 1)]
  | _ => .error .reserved

/-- Opcode 0x04 of the F stream by its sub-code. -/
def decodeF04 (n : Nat) (w : W32) : Except DecodeError Instr :=
  match n with
  | 0x0 => finish .f w (.fsched (fld w 11 6) (fld w 7 4) (fld w 3 4)) [(0, 2), (17, 8)]
  | 0x1 => finish .f w (.fschedOff (fld w 11 6) (fld w 7 4) (fld w 3 4)) [(0, 2), (17, 8)]
  | _ => .error .reserved

/-- Opcode 0x06 of the F stream by its sub-code. -/
def decodeF06 (n : Nat) (w : W32) : Except DecodeError Instr :=
  match n with
  | 0x0 => finish .f w (.fwait) [(1, 24)]
  | 0x1 => finish .f w (.fwaitEnd) [(1, 24)]
  | _ => .error .reserved

/-- The map of opcodes: decode of a word of the F stream (R81). The 0 word and an unassigned cell are `illegal` (R63). -/
def decodeFOp (op : Nat) (w : W32) : Except DecodeError Instr :=
  match op with
  | 0x01 => finish .f w (.fload (fld w 17 8) (fld w 11 6) (fld w 6 5) (fld w 0 6)) []
  | 0x02 => decodeF02 (w.toNat / 0x400 % 0x2) w
  | 0x03 => finish .f w (.fclose (fld w 17 8) (fld w 11 6)) [(0, 11)]
  | 0x04 => decodeF04 (w.toNat / 0x4 % 0x2) w
  | 0x05 => finish .f w (.fstart (fld w 0 20)) [(20, 5)]
  | 0x06 => decodeF06 (w.toNat % 0x2) w
  | 0x07 => finish .f w (.fqry (fld w 12 1) (fld w 8 4) (fld w 6 2) (fld w 0 6)) [(13, 12)]
  | 0x08 => finish .f w (.ftoks (fld w 16 4) (fld w 0 16)) [(20, 5)]
  | 0x09 => finish .f w (.ftokw (fld w 16 4)) [(0, 16), (20, 5)]
  | 0x0A => finish .f w (.fcue (fld w 0 20)) [(20, 5)]
  | 0x0B => finish .f w (.fring (fld w 16 2) (fld w 8 8) (fld w 0 8)) [(18, 7)]
  | 0x7F => finish .f w (.pfx (fld w 21 4) (fld w 20 1) (fld w 16 4) (fld w 12 4) (fld w 0 12)) []
  | _ => .error .illegal

/-- Decode of a word of the F stream (R81). The 0 word and an unassigned cell are `illegal` (R63). -/
def decodeF (w : W32) : Except DecodeError Instr := decodeFOp (w.toNat / 0x2000000) w
/-- Syllable opcode 0x11 by its sub-code. -/
def decodeE11 (n : Nat) (w : W32) : Except DecodeError Instr :=
  match n with
  | 0 => finish .e w (.eLdi (fld w 21 4) (fld w 0 17)) []
  | 1 => finish .e w (.eLdiH (fld w 21 4) (fld w 0 16)) [(16, 1)]
  | _ => .error .reserved

/-- Syllable opcode 0x1B by its sub-code. -/
def decodeE1B (n : Nat) (w : W32) : Except DecodeError Instr :=
  match n with
  | 0 => finish .e w (.eEmit (fld w 21 4) (fld w 18 3) (fld w 16 2)) [(0, 4), (5, 11)]
  | 1 => finish .e w (.eEmitReg (fld w 21 4) (fld w 18 3) (fld w 0 4)) [(5, 13)]
  | _ => .error .reserved

/-- The map of opcodes: decode of one E-bundle syllable (R82, R83, R243, R244, R245), the slot apart; opcode 0x7F is `misuse` (R83). -/
def decodeEOp (op : Nat) (w : W32) : Except DecodeError Instr :=
  match op with
  | 0x01 => finish .e w (.eAdd (fld w 21 4) (fld w 17 4) (fld w 13 4)) [(0, 13)]
  | 0x02 => finish .e w (.eSub (fld w 21 4) (fld w 17 4) (fld w 13 4)) [(0, 13)]
  | 0x03 => finish .e w (.eAnd (fld w 21 4) (fld w 17 4) (fld w 13 4)) [(0, 13)]
  | 0x04 => finish .e w (.eOr (fld w 21 4) (fld w 17 4) (fld w 13 4)) [(0, 13)]
  | 0x05 => finish .e w (.eXor (fld w 21 4) (fld w 17 4) (fld w 13 4)) [(0, 13)]
  | 0x06 => finish .e w (.eShl (fld w 21 4) (fld w 17 4) (fld w 13 4)) [(0, 13)]
  | 0x07 => finish .e w (.eShr (fld w 21 4) (fld w 17 4) (fld w 13 4) (fld w 0 1)) [(1, 12)]
  | 0x08 => finish .e w (.eCmp (fld w 21 4) (fld w 17 4) (fld w 13 4) (fld w 0 3)) [(3, 10)]
  | 0x09 => finish .e w (.eSel (fld w 21 4) (fld w 17 4) (fld w 13 4) (fld w 9 4)) [(0, 9)]
  | 0x0A => finish .e w (.eMin (fld w 21 4) (fld w 17 4) (fld w 13 4) (fld w 0 1)) [(1, 12)]
  | 0x0B => finish .e w (.eMax (fld w 21 4) (fld w 17 4) (fld w 13 4) (fld w 0 1)) [(1, 12)]
  | 0x0C => finish .e w (.eMul16 (fld w 21 4) (fld w 17 4) (fld w 13 4) (fld w 0 1)) [(1, 12)]
  | 0x0D => finish .e w (.ePopc (fld w 21 4) (fld w 17 4)) [(0, 17)]
  | 0x10 => finish .e w (.eMov (fld w 21 4) (fld w 17 4)) [(0, 17)]
  | 0x11 => decodeE11 (w.toNat / 0x20000 % 0x10) w
  | 0x18 => finish .e w (.eRecv (fld w 21 4) (fld w 18 3)) [(0, 18)]
  | 0x19 => finish .e w (.eSend (fld w 21 4) (fld w 18 3)) [(0, 18)]
  | 0x1A => finish .e w (.ePeek (fld w 21 4) (fld w 18 3)) [(0, 18)]
  | 0x1B => decodeE1B (w.toNat / 0x10 % 0x2) w
  | 0x1C => finish .e w (.eBub (fld w 18 3)) [(0, 18), (21, 4)]
  | 0x20 => finish .e w (.eLds (fld w 21 4) (fld w 17 4) (fld w 0 17)) []
  | 0x21 => finish .e w (.eSts (fld w 21 4) (fld w 17 4) (fld w 0 17)) []
  | 0x28 => finish .e w (.eCxch (fld w 21 4) (fld w 9 4) (fld w 17 4) (fld w 13 4) (fld w 0 1)) [(1, 8)]
  | 0x30 => finish .e w (.eLoop (fld w 21 4) (fld w 0 6)) [(6, 15)]
  | 0x31 => finish .e w (.eHalt) [(0, 25)]
  | 0x3F => finish .e w (.eNop) [(0, 25)]
  | 0x7F => .error .misuse
  | _ => .error .illegal

/-- Decode of one E-bundle syllable (R82, R83, R243, R244, R245), the slot apart; opcode 0x7F is `misuse` (R83). -/
def decodeE (w : W32) : Except DecodeError Instr := decodeEOp (w.toNat / 0x2000000) w

/-- The bits of an instruction, from the same encoding tables (R72 to R83). An event has no word: 0, the reserved word. -/
def encodeNat : Instr → Nat
  | .add d a b => 0x02000000 + d.toNat * 0x100000 + a.toNat * 0x8000 + b.toNat * 0x400
  | .sub d a b => 0x02000001 + d.toNat * 0x100000 + a.toNat * 0x8000 + b.toNat * 0x400
  | .and d a b => 0x02000002 + d.toNat * 0x100000 + a.toNat * 0x8000 + b.toNat * 0x400
  | .or d a b => 0x02000003 + d.toNat * 0x100000 + a.toNat * 0x8000 + b.toNat * 0x400
  | .xor d a b => 0x02000004 + d.toNat * 0x100000 + a.toNat * 0x8000 + b.toNat * 0x400
  | .shl d a b => 0x02000005 + d.toNat * 0x100000 + a.toNat * 0x8000 + b.toNat * 0x400
  | .shr d a b => 0x02000006 + d.toNat * 0x100000 + a.toNat * 0x8000 + b.toNat * 0x400
  | .sra d a b => 0x02000007 + d.toNat * 0x100000 + a.toNat * 0x8000 + b.toNat * 0x400
  | .mul d a b => 0x02000008 + d.toNat * 0x100000 + a.toNat * 0x8000 + b.toNat * 0x400
  | .mulh d a b => 0x02000009 + d.toNat * 0x100000 + a.toNat * 0x8000 + b.toNat * 0x400
  | .div d a b => 0x0200000A + d.toNat * 0x100000 + a.toNat * 0x8000 + b.toNat * 0x400
  | .divu d a b => 0x0200000B + d.toNat * 0x100000 + a.toNat * 0x8000 + b.toNat * 0x400
  | .rem d a b => 0x0200000C + d.toNat * 0x100000 + a.toNat * 0x8000 + b.toNat * 0x400
  | .remu d a b => 0x0200000D + d.toNat * 0x100000 + a.toNat * 0x8000 + b.toNat * 0x400
  | .min d a b => 0x0200000E + d.toNat * 0x100000 + a.toNat * 0x8000 + b.toNat * 0x400
  | .max d a b => 0x0200000F + d.toNat * 0x100000 + a.toNat * 0x8000 + b.toNat * 0x400
  | .minu d a b => 0x02000010 + d.toNat * 0x100000 + a.toNat * 0x8000 + b.toNat * 0x400
  | .maxu d a b => 0x02000011 + d.toNat * 0x100000 + a.toNat * 0x8000 + b.toNat * 0x400
  | .slt d a b => 0x02000012 + d.toNat * 0x100000 + a.toNat * 0x8000 + b.toNat * 0x400
  | .sltu d a b => 0x02000013 + d.toNat * 0x100000 + a.toNat * 0x8000 + b.toNat * 0x400
  | .clz d a => 0x02000014 + d.toNat * 0x100000 + a.toNat * 0x8000
  | .popc d a => 0x02000015 + d.toNat * 0x100000 + a.toNat * 0x8000
  | .addi d a i => 0x04000000 + d.toNat * 0x100000 + a.toNat * 0x8000 + i.toNat
  | .andi d a i => 0x06000000 + d.toNat * 0x100000 + a.toNat * 0x8000 + i.toNat
  | .ori d a i => 0x08000000 + d.toNat * 0x100000 + a.toNat * 0x8000 + i.toNat
  | .xori d a i => 0x0A000000 + d.toNat * 0x100000 + a.toNat * 0x8000 + i.toNat
  | .shli d a i => 0x0C000000 + d.toNat * 0x100000 + a.toNat * 0x8000 + i.toNat
  | .shri d a i => 0x0E000000 + d.toNat * 0x100000 + a.toNat * 0x8000 + i.toNat
  | .srai d a i => 0x10000000 + d.toNat * 0x100000 + a.toNat * 0x8000 + i.toNat
  | .slti d a i => 0x12000000 + d.toNat * 0x100000 + a.toNat * 0x8000 + i.toNat
  | .sltui d a i => 0x14000000 + d.toNat * 0x100000 + a.toNat * 0x8000 + i.toNat
  | .lih d i => 0x18000000 + d.toNat * 0x100000 + i.toNat
  | .addpc d i => 0x1A000000 + d.toNat * 0x100000 + i.toNat
  | .beq a b o => 0x20000000 + a.toNat * 0x100000 + b.toNat * 0x8000 + o.toNat
  | .bne a b o => 0x22000000 + a.toNat * 0x100000 + b.toNat * 0x8000 + o.toNat
  | .blt a b o => 0x24000000 + a.toNat * 0x100000 + b.toNat * 0x8000 + o.toNat
  | .bge a b o => 0x26000000 + a.toNat * 0x100000 + b.toNat * 0x8000 + o.toNat
  | .bltu a b o => 0x28000000 + a.toNat * 0x100000 + b.toNat * 0x8000 + o.toNat
  | .bgeu a b o => 0x2A000000 + a.toNat * 0x100000 + b.toNat * 0x8000 + o.toNat
  | .jal d o => 0x2C000000 + d.toNat * 0x100000 + o.toNat
  | .jalr d a i => 0x2E000000 + d.toNat * 0x100000 + a.toNat * 0x8000 + i.toNat
  | .loop a o => 0x30000000 + a.toNat * 0x100000 + o.toNat
  | .ld d a z o => 0x40000000 + d.toNat * 0x100000 + a.toNat * 0x8000 + z.toNat * 0x2000 + o.toNat
  | .ldsx d a z o => 0x42000000 + d.toNat * 0x100000 + a.toNat * 0x8000 + z.toNat * 0x2000 + o.toNat
  | .st s a z o => 0x44000000 + s.toNat * 0x100000 + a.toNat * 0x8000 + z.toNat * 0x2000 + o.toNat
  | .ldc d a z o => 0x46000000 + d.toNat * 0x100000 + a.toNat * 0x8000 + z.toNat * 0x2000 + o.toNat
  | .fence s => 0x4A000000 + s.toNat * 0x100
  | .amoswap d a b z => 0x4C000000 + d.toNat * 0x100000 + a.toNat * 0x8000 + b.toNat * 0x400 + z.toNat * 0x10
  | .amoadd d a b z => 0x4C000001 + d.toNat * 0x100000 + a.toNat * 0x8000 + b.toNat * 0x400 + z.toNat * 0x10
  | .amoand d a b z => 0x4C000002 + d.toNat * 0x100000 + a.toNat * 0x8000 + b.toNat * 0x400 + z.toNat * 0x10
  | .amoor d a b z => 0x4C000003 + d.toNat * 0x100000 + a.toNat * 0x8000 + b.toNat * 0x400 + z.toNat * 0x10
  | .amoxor d a b z => 0x4C000004 + d.toNat * 0x100000 + a.toNat * 0x8000 + b.toNat * 0x400 + z.toNat * 0x10
  | .amomin d a b z => 0x4C000005 + d.toNat * 0x100000 + a.toNat * 0x8000 + b.toNat * 0x400 + z.toNat * 0x10
  | .amomax d a b z => 0x4C000006 + d.toNat * 0x100000 + a.toNat * 0x8000 + b.toNat * 0x400 + z.toNat * 0x10
  | .amominu d a b z => 0x4C000007 + d.toNat * 0x100000 + a.toNat * 0x8000 + b.toNat * 0x400 + z.toNat * 0x10
  | .amomaxu d a b z => 0x4C000008 + d.toNat * 0x100000 + a.toNat * 0x8000 + b.toNat * 0x400 + z.toNat * 0x10
  | .cas d a b z => 0x4E000000 + d.toNat * 0x100000 + a.toNat * 0x8000 + b.toNat * 0x400 + z.toNat
  | .spt d a => 0x50000000 + d.toNat * 0x100000 + a.toNat * 0x8000
  | .spcGlobal d a => 0x52000000 + d.toNat * 0x100000 + a.toNat * 0x8000
  | .spcPrivate d a => 0x52000008 + d.toNat * 0x100000 + a.toNat * 0x8000
  | .spcTile d a b => 0x52000009 + d.toNat * 0x100000 + a.toNat * 0x8000 + b.toNat * 0x400
  | .spcShared d a b => 0x5200000A + d.toNat * 0x100000 + a.toNat * 0x8000 + b.toNat * 0x400
  | .spcOffset d a => 0x52000010 + d.toNat * 0x100000 + a.toNat * 0x8000
  | .toks s c i => 0x60000000 + s.toNat * 0x100000 + c.toNat * 0x100 + i.toNat
  | .toksRemote s t c i => 0x60080000 + s.toNat * 0x100000 + t.toNat * 0x800 + c.toNat * 0x100 + i.toNat
  | .tokw d c => 0x62000000 + d.toNat * 0x100000 + c.toNat * 0x100
  | .cue n => 0x64000000 + n.toNat
  | .gset d s v => 0x66000000 + d.toNat * 0x100000 + s.toNat * 0x100 + v.toNat
  | .wfe d m => 0x68000000 + d.toNat * 0x100000 + m.toNat
  | .sev d m => 0x6A000000 + d.toNat * 0x100000 + m.toNat
  | .cut t => 0x6C000000 + t.toNat * 0x100
  | .cutComplete _ => 0
  | .domr d l w => 0x6E000000 + d.toNat * 0x100000 + l.toNat * 0x100 + w.toNat
  | .seedrd d h => 0x70000000 + d.toNat * 0x100000 + h.toNat
  | .rngk n a b => 0x72000000 + n.toNat * 0x100000 + a.toNat * 0x8000 + b.toNat * 0x400
  | .rnga n a b => 0x74000000 + n.toNat * 0x100000 + a.toNat * 0x8000 + b.toNat * 0x400
  | .folio a b s => 0x78000000 + a.toNat * 0x8000 + b.toNat * 0x400 + s.toNat
  | .funbind s => 0x7A000000 + s.toNat * 0x100
  | .talloc d a b h => 0x80000000 + d.toNat * 0x100000 + a.toNat * 0x8000 + b.toNat * 0x400 + h.toNat
  | .tfree h => 0x82000000 + h.toNat * 0x100
  | .tinfo d h i => 0x84000000 + d.toNat * 0x100000 + h.toNat * 0x100 + i.toNat
  | .tring r h c => 0x86000000 + r.toNat * 0x100000 + h.toNat * 0x100 + c.toNat
  | .trap n => 0x90000000 + n.toNat
  | .csrr d c => 0x94000000 + d.toNat * 0x100000 + c.toNat * 0x100
  | .csrw s c => 0x96000000 + s.toNat * 0x100000 + c.toNat * 0x100
  | .csrs s c i => 0x98000000 + s.toNat * 0x100000 + c.toNat * 0x100 + i.toNat
  | .pfx g p e m f => 0xFE000000 + g.toNat * 0x200000 + p.toNat * 0x100000 + e.toNat * 0x10000 + m.toNat * 0x1000 + f.toNat
  | .vadd d a b k f => 0x02000000 + d.toNat * 0x80000 + a.toNat * 0x2000 + b.toNat * 0x80 + k.toNat * 0x10 + f.toNat
  | .vsub d a b k f => 0x04000000 + d.toNat * 0x80000 + a.toNat * 0x2000 + b.toNat * 0x80 + k.toNat * 0x10 + f.toNat
  | .vmul d a b k f => 0x06000000 + d.toNat * 0x80000 + a.toNat * 0x2000 + b.toNat * 0x80 + k.toNat * 0x10 + f.toNat
  | .vfma d a b c n => 0x08000000 + d.toNat * 0x80000 + a.toNat * 0x2000 + b.toNat * 0x80 + c.toNat * 0x2 + n.toNat
  | .vfms d a b c n => 0x0A000000 + d.toNat * 0x80000 + a.toNat * 0x2000 + b.toNat * 0x80 + c.toNat * 0x2 + n.toNat
  | .vmin d a b k f => 0x0C000000 + d.toNat * 0x80000 + a.toNat * 0x2000 + b.toNat * 0x80 + k.toNat * 0x10 + f.toNat
  | .vmax d a b k f => 0x0E000000 + d.toNat * 0x80000 + a.toNat * 0x2000 + b.toNat * 0x80 + k.toNat * 0x10 + f.toNat
  | .vabs d a k f => 0x10000000 + d.toNat * 0x80000 + a.toNat * 0x2000 + k.toNat * 0x10 + f.toNat
  | .vneg d a k f => 0x12000000 + d.toNat * 0x80000 + a.toNat * 0x2000 + k.toNat * 0x10 + f.toNat
  | .vcmp d a b k f => 0x14000000 + d.toNat * 0x80000 + a.toNat * 0x2000 + b.toNat * 0x80 + k.toNat * 0x10 + f.toNat
  | .vsel d a b k => 0x16000000 + d.toNat * 0x80000 + a.toNat * 0x2000 + b.toNat * 0x80 + k.toNat * 0x10
  | .vcvt d a k f => 0x18000000 + d.toNat * 0x80000 + a.toNat * 0x2000 + k.toNat * 0x10 + f.toNat
  | .vrnd d a k => 0x1A000000 + d.toNat * 0x80000 + a.toNat * 0x2000 + k.toNat * 0x10
  | .viadd d a b k f => 0x20000000 + d.toNat * 0x80000 + a.toNat * 0x2000 + b.toNat * 0x80 + k.toNat * 0x10 + f.toNat
  | .visub d a b k f => 0x22000000 + d.toNat * 0x80000 + a.toNat * 0x2000 + b.toNat * 0x80 + k.toNat * 0x10 + f.toNat
  | .vimul d a b k f => 0x24000000 + d.toNat * 0x80000 + a.toNat * 0x2000 + b.toNat * 0x80 + k.toNat * 0x10 + f.toNat
  | .vand d a b k => 0x26000000 + d.toNat * 0x80000 + a.toNat * 0x2000 + b.toNat * 0x80 + k.toNat * 0x10
  | .vor d a b k => 0x28000000 + d.toNat * 0x80000 + a.toNat * 0x2000 + b.toNat * 0x80 + k.toNat * 0x10
  | .vxor d a b k => 0x2A000000 + d.toNat * 0x80000 + a.toNat * 0x2000 + b.toNat * 0x80 + k.toNat * 0x10
  | .vshl d a b k => 0x2C000000 + d.toNat * 0x80000 + a.toNat * 0x2000 + b.toNat * 0x80 + k.toNat * 0x10
  | .vshr d a b k => 0x2E000000 + d.toNat * 0x80000 + a.toNat * 0x2000 + b.toNat * 0x80 + k.toNat * 0x10
  | .vsra d a b k => 0x30000000 + d.toNat * 0x80000 + a.toNat * 0x2000 + b.toNat * 0x80 + k.toNat * 0x10
  | .vimin d a b k f => 0x32000000 + d.toNat * 0x80000 + a.toNat * 0x2000 + b.toNat * 0x80 + k.toNat * 0x10 + f.toNat
  | .vimax d a b k f => 0x34000000 + d.toNat * 0x80000 + a.toNat * 0x2000 + b.toNat * 0x80 + k.toNat * 0x10 + f.toNat
  | .vicmp d a b k f => 0x36000000 + d.toNat * 0x80000 + a.toNat * 0x2000 + b.toNat * 0x80 + k.toNat * 0x10 + f.toNat
  | .vbmul d a b x y s => 0x40000000 + d.toNat * 0x80000 + a.toNat * 0x2000 + b.toNat * 0x80 + x.toNat * 0x10 + y.toNat * 0x2 + s.toNat
  | .vbdot d a b x y s => 0x42000000 + d.toNat * 0x80000 + a.toNat * 0x2000 + b.toNat * 0x80 + x.toNat * 0x10 + y.toNat * 0x2 + s.toNat
  | .vbmac d a b x y s => 0x44000000 + d.toNat * 0x80000 + a.toNat * 0x2000 + b.toNat * 0x80 + x.toNat * 0x10 + y.toNat * 0x2 + s.toNat
  | .vld d h o => 0x50000000 + d.toNat * 0x80000 + h.toNat * 0x800 + o.toNat
  | .vst d h o => 0x52000000 + d.toNat * 0x80000 + h.toNat * 0x800 + o.toNat
  | .vldx d a b k => 0x54000000 + d.toNat * 0x80000 + a.toNat * 0x2000 + b.toNat * 0x80 + k.toNat * 0x10
  | .vstx d a b k => 0x56000000 + d.toNat * 0x80000 + a.toNat * 0x2000 + b.toNat * 0x80 + k.toNat * 0x10
  | .vbcast d a l k => 0x58000000 + d.toNat * 0x80000 + a.toNat * 0x2000 + l.toNat % 0x40 * 0x80 + l.toNat / 0x40 * 0x4 + k.toNat * 0x10
  | .vmov d a k => 0x5A000000 + d.toNat * 0x80000 + a.toNat * 0x2000 + k.toNat * 0x10
  | .vperm d a b k => 0x5C000000 + d.toNat * 0x80000 + a.toNat * 0x2000 + b.toNat * 0x80 + k.toNat * 0x10
  | .vshuf d a b k f => 0x5E000000 + d.toNat * 0x80000 + a.toNat * 0x2000 + b.toNat * 0x80 + k.toNat * 0x10 + f.toNat
  | .vext d a k n => 0x60000000 + d.toNat * 0x80000 + a.toNat * 0x2000 + k.toNat * 0x10 + n.toNat
  | .vins d a l k => 0x62000000 + d.toNat * 0x80000 + a.toNat * 0x2000 + l.toNat % 0x40 * 0x80 + l.toNat / 0x40 * 0x4 + k.toNat * 0x10
  | .vmset d a k f => 0x68000000 + d.toNat * 0x80000 + a.toNat * 0x2000 + k.toNat * 0x10 + f.toNat
  | .vmand d a b k => 0x6A000000 + d.toNat * 0x80000 + a.toNat * 0x2000 + b.toNat * 0x80 + k.toNat * 0x10
  | .vmor d a b k => 0x6C000000 + d.toNat * 0x80000 + a.toNat * 0x2000 + b.toNat * 0x80 + k.toNat * 0x10
  | .vmnot d a k => 0x6E000000 + d.toNat * 0x80000 + a.toNat * 0x2000 + k.toNat * 0x10
  | .vmpop d a k => 0x70000000 + d.toNat * 0x80000 + a.toNat * 0x2000 + k.toNat * 0x10
  | .vred d a b k f => 0x74000000 + d.toNat * 0x80000 + a.toNat * 0x2000 + b.toNat * 0x80 + k.toNat * 0x10 + f.toNat
  | .vscan d a k f => 0x76000000 + d.toNat * 0x80000 + a.toNat * 0x2000 + k.toNat * 0x10 + f.toNat
  | .vfn d a k f => 0x80000000 + d.toNat * 0x80000 + a.toNat * 0x2000 + k.toNat * 0x10 + f.toNat
  | .vgate d a b g => 0x82000000 + d.toNat * 0x80000 + a.toNat * 0x2000 + b.toNat * 0x80 + g.toNat * 0x2
  | .vstat d a b k f => 0x84000000 + d.toNat * 0x80000 + a.toNat * 0x2000 + b.toNat * 0x80 + k.toNat * 0x10 + f.toNat
  | .vnorm d a b k f => 0x86000000 + d.toNat * 0x80000 + a.toNat * 0x2000 + b.toNat * 0x80 + k.toNat * 0x10 + f.toNat
  | .vsmax d a b k f => 0x88000000 + d.toNat * 0x80000 + a.toNat * 0x2000 + b.toNat * 0x80 + k.toNat * 0x10 + f.toNat
  | .vsmxn d a b k => 0x8A000000 + d.toNat * 0x80000 + a.toNat * 0x2000 + b.toNat * 0x80 + k.toNat * 0x10
  | .vx d a b s k => 0x90000000 + d.toNat * 0x80000 + a.toNat * 0x2000 + b.toNat * 0x80 + s.toNat * 0x2 + k.toNat
  | .vrng d a c k n => 0x92000000 + d.toNat * 0x80000 + a.toNat * 0x2000 + c.toNat * 0x80 + k.toNat * 0x10 + n.toNat
  | .vsyb n => 0xA4000000 + n.toNat
  | .vsyw n => 0xA6000000 + n.toNat
  | .vbr d o => 0xA8000000 + d.toNat * 0x80000 + o.toNat
  | .vloop d o => 0xAA000000 + d.toNat * 0x80000 + o.toNat
  | .vring r h c => 0xAC000000 + r.toNat * 0x80000 + h.toNat * 0x800 + c.toNat
  | .vtoks s c => 0xB0000000 + s.toNat * 0x80000 + c.toNat
  | .vtokw d c => 0xB2000000 + d.toNat * 0x80000 + c.toNat
  | .vcue n => 0xB4000000 + n.toNat
  | .vflags d => 0xB6000000 + d.toNat * 0x80000
  | .mnest l f v => 0x02000000 + l.toNat * 0x400000 + f.toNat * 0x100000 + v.toNat
  | .mfmt x t f => 0x04000000 + x.toNat * 0x40 + t.toNat * 0x10 + f.toNat
  | .mwld h f => 0x06000000 + h.toNat * 0x20000 + f.toNat
  | .mwldF h n f => 0x06000020 + h.toNat * 0x20000 + n.toNat * 0x200 + f.toNat
  | .mwldS f => 0x06000010 + f.toNat
  | .macc n d m => 0x0A000000 + n.toNat * 0x40 + d.toNat * 0x4 + m.toNat
  | .mgo a b => 0x0C000000 + a.toNat * 0x20000 + b.toNat * 0x200
  | .mgoF a b n => 0x0C000001 + a.toNat * 0x20000 + b.toNat * 0x200 + n.toNat * 0x2
  | .msplit v => 0x0E000000 + v.toNat
  | .mqOpen n h => 0x11000000 + n.toNat * 0x100 + h.toNat
  | .mqClose n h => 0x10000000 + n.toNat * 0x100 + h.toNat
  | .mtoks c v => 0x20000000 + c.toNat * 0x10000 + v.toNat
  | .mtokw c => 0x22000000 + c.toNat * 0x10000
  | .mcue n => 0x24000000 + n.toNat
  | .mring r c h => 0x2A000000 + r.toNat * 0x10000 + c.toNat * 0x100 + h.toNat
  | .cla d k v => 0x02000000 + d.toNat * 0x200000 + k.toNat * 0x80000 + v.toNat
  | .cadd d i => 0x04000000 + d.toNat * 0x200000 + i.toNat
  | .caddReg d s => 0x04100000 + d.toNat * 0x200000 + s.toNat
  | .ccpy a q h s t => 0x10000000 + a.toNat * 0x200000 + q.toNat * 0x40000 + h.toNat * 0x400 + s.toNat * 0x4 + t.toNat * 0x2
  | .ccpyOut a q h s t => 0x10000001 + a.toNat * 0x200000 + q.toNat * 0x40000 + h.toNat * 0x400 + s.toNat * 0x4 + t.toNat * 0x2
  | .ccpys a q h s => 0x12000000 + a.toNat * 0x200000 + q.toNat * 0x40000 + h.toNat * 0x400 + s.toNat * 0x4
  | .cwst a q => 0x14000000 + a.toNat * 0x200000 + q.toNat * 0x40000
  | .ctab q h => 0x16000000 + q.toNat * 0x40000 + h.toNat * 0x400
  | .cgath a b c q h => 0x18000000 + a.toNat * 0x200000 + b.toNat * 0x20000 + c.toNat * 0x2000 + q.toNat * 0x400 + h.toNat
  | .cscat a b c q h => 0x1A000000 + a.toNat * 0x200000 + b.toNat * 0x20000 + c.toNat * 0x2000 + q.toNat * 0x400 + h.toNat
  | .cxfer a q h => 0x20000000 + a.toNat * 0x200000 + q.toNat * 0x40000 + h.toNat * 0x400
  | .cred a b c q x l o => 0x22000000 + a.toNat * 0x200000 + b.toNat * 0x20000 + c.toNat * 0x2000 + q.toNat * 0x400 + x.toNat * 0x40 + l.toNat * 0x4 + o.toNat
  | .cbcst a b c q x => 0x24000000 + a.toNat * 0x200000 + b.toNat * 0x20000 + c.toNat * 0x2000 + q.toNat * 0x400 + x.toNat * 0x40
  | .cpref a b q => 0x26000000 + a.toNat * 0x200000 + b.toNat * 0x20000 + q.toNat * 0x400
  | .cmig a q t => 0x28000000 + a.toNat * 0x200000 + q.toNat * 0x400 + t.toNat
  | .crrd a b c q => 0x2A000000 + a.toNat * 0x200000 + b.toNat * 0x20000 + c.toNat * 0x2000 + q.toNat * 0x400
  | .cwaitm m => 0x30000000 + m.toNat
  | .ctoks d v c => 0x32000000 + d.toNat * 0x200000 + v.toNat * 0x10 + c.toNat
  | .ctoksAll d v c => 0x32100000 + d.toNat * 0x200000 + v.toNat * 0x10 + c.toNat
  | .ctokw c => 0x34000000 + c.toNat
  | .ctokwLd d c => 0x34000010 + d.toNat * 0x200000 + c.toNat
  | .ctokwAdd d c => 0x34000020 + d.toNat * 0x200000 + c.toNat
  | .ccue n => 0x36000000 + n.toNat
  | .cfence s => 0x38000000 + s.toNat
  | .cring r c h => 0x3C000000 + r.toNat * 0x10000 + c.toNat * 0x100 + h.toNat
  | .fload h e b n => 0x02000000 + h.toNat * 0x20000 + e.toNat * 0x800 + b.toNat * 0x40 + n.toNat
  | .fopen h e r l => 0x04000000 + h.toNat * 0x20000 + e.toNat * 0x800 + r.toNat * 0x200 + l.toNat * 0x2
  | .fopenOut h e r l => 0x04000400 + h.toNat * 0x20000 + e.toNat * 0x800 + r.toNat * 0x200 + l.toNat * 0x2
  | .fclose h e => 0x06000000 + h.toNat * 0x20000 + e.toNat * 0x800
  | .fsched e p f => 0x08000000 + e.toNat * 0x800 + p.toNat * 0x80 + f.toNat * 0x8
  | .fschedOff e p f => 0x08000004 + e.toNat * 0x800 + p.toNat * 0x80 + f.toNat * 0x8
  | .fstart w => 0x0A000000 + w.toNat
  | .fqry c r w e => 0x0E000000 + c.toNat * 0x1000 + r.toNat * 0x100 + w.toNat * 0x40 + e.toNat
  | .ftoks c v => 0x10000000 + c.toNat * 0x10000 + v.toNat
  | .ftokw c => 0x12000000 + c.toNat * 0x10000
  | .fcue n => 0x14000000 + n.toNat
  | .fring r c h => 0x16000000 + r.toNat * 0x10000 + c.toNat * 0x100 + h.toNat
  | .eAdd d a b => 0x02000000 + d.toNat * 0x200000 + a.toNat * 0x20000 + b.toNat * 0x2000
  | .eSub d a b => 0x04000000 + d.toNat * 0x200000 + a.toNat * 0x20000 + b.toNat * 0x2000
  | .eAnd d a b => 0x06000000 + d.toNat * 0x200000 + a.toNat * 0x20000 + b.toNat * 0x2000
  | .eOr d a b => 0x08000000 + d.toNat * 0x200000 + a.toNat * 0x20000 + b.toNat * 0x2000
  | .eXor d a b => 0x0A000000 + d.toNat * 0x200000 + a.toNat * 0x20000 + b.toNat * 0x2000
  | .eShl d a b => 0x0C000000 + d.toNat * 0x200000 + a.toNat * 0x20000 + b.toNat * 0x2000
  | .eShr d a b sg => 0x0E000000 + d.toNat * 0x200000 + a.toNat * 0x20000 + b.toNat * 0x2000 + sg.toNat
  | .eCmp d a b cc => 0x10000000 + d.toNat * 0x200000 + a.toNat * 0x20000 + b.toNat * 0x2000 + cc.toNat
  | .eSel d a b c => 0x12000000 + d.toNat * 0x200000 + a.toNat * 0x20000 + b.toNat * 0x2000 + c.toNat * 0x200
  | .eMin d a b u => 0x14000000 + d.toNat * 0x200000 + a.toNat * 0x20000 + b.toNat * 0x2000 + u.toNat
  | .eMax d a b u => 0x16000000 + d.toNat * 0x200000 + a.toNat * 0x20000 + b.toNat * 0x2000 + u.toNat
  | .eMul16 d a b u => 0x18000000 + d.toNat * 0x200000 + a.toNat * 0x20000 + b.toNat * 0x2000 + u.toNat
  | .ePopc d a => 0x1A000000 + d.toNat * 0x200000 + a.toNat * 0x20000
  | .eMov d a => 0x20000000 + d.toNat * 0x200000 + a.toNat * 0x20000
  | .eCxch d c a b sg => 0x50000000 + d.toNat * 0x200000 + c.toNat * 0x200 + a.toNat * 0x20000 + b.toNat * 0x2000 + sg.toNat
  | .eLdi d i => 0x22000000 + d.toNat * 0x200000 + i.toNat
  | .eLdiH d i => 0x22020000 + d.toNat * 0x200000 + i.toNat
  | .eLds d a i => 0x40000000 + d.toNat * 0x200000 + a.toNat * 0x20000 + i.toNat
  | .eSts s a i => 0x42000000 + s.toNat * 0x200000 + a.toNat * 0x20000 + i.toNat
  | .eLoop d t => 0x60000000 + d.toNat * 0x200000 + t.toNat
  | .eRecv d dir => 0x30000000 + d.toNat * 0x200000 + dir.toNat * 0x40000
  | .eSend s dir => 0x32000000 + s.toNat * 0x200000 + dir.toNat * 0x40000
  | .ePeek d dir => 0x34000000 + d.toNat * 0x200000 + dir.toNat * 0x40000
  | .eEmit s dir sc => 0x36000000 + s.toNat * 0x200000 + dir.toNat * 0x40000 + sc.toNat * 0x10000
  | .eEmitReg s dir k => 0x36000010 + s.toNat * 0x200000 + dir.toNat * 0x40000 + k.toNat
  | .eBub dir => 0x38000000 + dir.toNat * 0x40000
  | .lotteryGrant _ => 0
  | .dierstComplete _ _ => 0
  | .pageMigration _ _ => 0
  | .migrationEpochEnd _ => 0
  | .remoteReadRequest _ _ _ _ => 0
  | .peerRequest _ _ _ _ _ _ => 0
  | .boot _ _ => 0
  | .resumption _ _ => 0
  | .ucieFlitCrcError _ _ _ _ _ => 0
  | .moduleRetrain _ _ => 0
  | .moduleRetrainEnd _ _ _ => 0
  | .vexfyFlitResend _ _ => 0
  | .vexfyPortDown _ => 0
  | .patrolScrub _ _ _ => 0
  | .histogramSample _ _ _ _ _ _ => 0
  | .powerLimitWindow _ _ => 0
  | .vexfyPortTrained _ _ => 0
  | .remoteCollectiveFrame _ _ _ _ => 0
  | .loadDataReturn => 0
  | .mark => 0x48000000
  | .cueReached => 0
  | .sevDelivery => 0
  | .cutArrival => 0
  | .remoteTokenDelivery => 0
  | .eret => 0x92000000
  | .halt => 0x9A000000
  | .nop => 0x9C000000
  | .vfork => 0xA0000000
  | .vjoin => 0xA2000000
  | .vnop => 0xB8000000
  | .mwldComplete => 0
  | .cwstPairing => 0
  | .mwsw => 0x08000000
  | .mgoStep => 0
  | .operandFetchComplete => 0
  | .mwait => 0x26000000
  | .mwaitEnd => 0x26000001
  | .mnop => 0x28000000
  | .cxferArrival => 0
  | .copyComplete => 0
  | .cnop => 0x3A000000
  | .runComplete => 0
  | .fabricBound => 0
  | .inputPortPush => 0
  | .outputPortWrite => 0
  | .fwait => 0x0C000000
  | .fwaitEnd => 0x0C000001
  | .eHalt => 0x62000000
  | .eNop => 0x7E000000
  | .packetEnqueue => 0
  | .packetDispatch => 0
  | .launch => 0
  | .pushseed => 0
  | .popseed => 0
  | .forkseed => 0
  | .setlevel => 0
  | .signal => 0
  | .signalReport => 0
  | .reelRetirement => 0
  | .statqRead => 0
  | .sliceSwitch => 0
  | .waitHoldExpiry => 0
  | .boundOverrun => 0
  | .watchpoint => 0
  | .watchpointMatch => 0
  | .folioFrameLoad => 0
  | .preemption => 0
  | .contextRestore => 0
  | .quiesceSaveTimeout => 0
  | .ctxcmdResume => 0
  | .ctxcmdRemove => 0
  | .dierstReset => 0
  | .dierstDisable => 0
  | .dierstEnable => 0
  | .xlinv => 0
  | .xlinvComplete => 0
  | .remapgo => 0
  | .remapCommitComplete => 0
  | .remapEntryWrite => 0
  | .migcmd => 0
  | .folreqRead => 0
  | .folresp => 0
  | .elogqRead => 0
  | .elogcntWrite => 0
  | .pchashWrite => 0
  | .hbmctlWrite => 0
  | .pccntWrite => 0
  | .sramctlWrite => 0
  | .migctlWrite => 0
  | .pkgidWrite => 0
  | .colltabWrite => 0
  | .vxportWrite => 0
  | .funcmodeWrite => 0
  | .pwrctlWrite => 0
  | .boctlWrite => 0
  | .bootstatRetry => 0
  | .bocmdEnter => 0
  | .bocmdResume => 0
  | .registerWrite => 0
  | .bar2HostRead => 0
  | .bar2HostWrite => 0
  | .powerOff => 0
  | .brownoutTrigger => 0
  | .brownoutEntry => 0
  | .brownoutHostTimeout => 0
  | .drainWindowExpiry => 0
  | .retentionLoss => 0
  | .lifetimeCommit => 0
  | .entropyHealthFailure => 0
  | .storePerform => 0
  | .vInstructionCompletion => 0
  | .mqRow => 0
  | .pageMoveComplete => 0
  | .entropyHealthPass => 0
  | .dailyHistogramSample => 0

/-- The 32-bit word of an instruction. -/
def encode (i : Instr) : W32 := BitVec.ofNat 32 (encodeNat i)

/-- Decode in a stream. `gather` selects the C-stream map of a gather core (R80). Log entries 11, 12 (DEDUCED). -/
def decode (st : Stream) (gather : Bool) (w : W32) : Except DecodeError Instr :=
  match st with
  | .s => decodeS w
  | .v => decodeV w
  | .m => decodeM w
  | .c => decodeC gather w
  | .f => decodeF w
  | .e => decodeE w

/-- The opcodes that may not follow a prefix word (R64, R67): PFX in any stream; in the S stream the branches, JAL, JALR,
LOOP, TRAP, ERET and HALT; in the V stream VFORK, VJOIN, VBR and VLOOP. -/
def noPrefix (st : Stream) (w : W32) : Bool :=
  let op := w.toNat / 0x2000000
  op == 0x7F ||
  match st with
  | .s => (0x10 ≤ op && op ≤ 0x18) || op == 0x48 || op == 0x49 || op == 0x4D
  | .v => op == 0x50 || op == 0x51 || op == 0x54 || op == 0x55
  | .m | .c | .f | .e => false

/-- The decode procedure of R64, prefix misuse first. -/
def decodeAt (st : Stream) (gather afterPfx : Bool) (w : W32) : Except DecodeError Instr :=
  if afterPfx && noPrefix st w then .error .misuse else decode st gather w

/-- The streams whose maps are tried, in this order, on a word given without its stream. -/
def tableStreams : List Stream := [.s, .v, .m, .c, .f]

/-- The first stream of `tableStreams` whose map gives the word an instruction. Log entry 3 (DESIGN CHOICE). -/
def tableStream (w : W32) : Option (Stream × Instr) :=
  tableStreams.findSome? fun st =>
    match decode st true w with
    | .ok i => some (st, i)
    | .error _ => none

/-- The instruction the decoder reads from a word given without its stream (every row with an encoding has 32 bits).
Log entry 3 (DESIGN CHOICE). -/
def decodeTableWord (nbits w : Nat) : Option Instr :=
  if nbits ≤ 32 && w < 2 ^ nbits then (tableStream (BitVec.ofNat 32 w)).map (·.2) else none

end Sys2Proof
end

