-- ==== Sys2Proof/Machine/Fetch.lean ====
section
/-! DEFINITION. From a stream to an instruction: fetch (R63, R327), decode (R64, R65), the register interlock of the S stream
(R92, R104), prefix checks (R67, R69, R71) and guards (R70). -/

namespace Sys2Proof.Machine

/-- What a stream does with its turn before an instruction executes. -/
inductive Front where
  /-- Nothing executes: the machine goes on in this state. -/
  | stay (s : State)
  /-- The instruction executes. -/
  | run (i : Instr) (s : State)

/-- What fetching a word answers. -/
inductive Fetched where
  | hold
  | fault
  | word (w : W32)
  deriving DecidableEq, Repr

/-- The word at an address of the context's instance (R13, R327). Log entry 19 (DEDUCED). -/
def fetchWord (s : State) (addr : W64) : Fetched :=
  if addr.extractLsb' 56 8 ≠ 0 then .fault
  else
    let w := walk s (instOf s.me.id) addr.toNat false
    match w.pa with
    | none => if w.hold then .hold else .fault
    | some pa =>
      match homeState s (s.socketOf s.me.id) pa with
      | .err _ => .fault
      | .hold => .hold
      | .ok () => if poisoned s pa 4 then .fault else .word (s.mem.w32 pa)

/-- The accesses of a fetch: the table reads of its walk, and the read of the word under the normal policy (R294, R384), with
the errors they meet (R299). Log entry 19 (DEDUCED). -/
def State.fetched (s : State) (addr : W64) : State :=
  if addr.extractLsb' 56 8 ≠ 0 then s
  else
    let w := walk s (instOf s.me.id) addr.toNat false
    let s := s.countWalk w (some (s.me.id, 0x07))
    match w.pa with
    | none => s
    | some pa =>
      match homeState s (s.socketOf s.me.id) pa with
      | .ok () => if poisoned s pa 4 then s.failed 0x07 pa 4 0 else (s.sramRead pa 4 0).meet pa 4
      | _ => s

/-- The cause of a refused word (R63, R64, R77). -/
def decodeCause : DecodeError → BitVec 7
  | .illegal => 0x01
  | .reserved => 0x02
  | .misuse => 0x03
  | .nestConfig => 0x31

/-- The V-stream opcodes whose format is VV, and VRING: a prefix mask before them is reserved (R69, R128). -/
def noPrefixMask (w : W32) : Bool :=
  let op := w.toNat / 0x2000000
  (1 ≤ op && op ≤ 3) || (6 ≤ op && op ≤ 0xD) || (0x10 ≤ op && op ≤ 0x1B) || (0x2A ≤ op && op ≤ 0x31) ||
  (0x34 ≤ op && op ≤ 0x38) || op == 0x3A || op == 0x3B || op == 0x40 || (0x42 ≤ op && op ≤ 0x45) || op == 0x49 || op == 0x56

/-- The g registers an S instruction reads (R92). -/
def gReads : Instr → List (BitVec 5)
  | .add _ a b | .sub _ a b | .and _ a b | .or _ a b | .xor _ a b | .shl _ a b | .shr _ a b | .sra _ a b | .mul _ a b
  | .mulh _ a b | .div _ a b | .divu _ a b | .rem _ a b | .remu _ a b | .min _ a b | .max _ a b | .minu _ a b | .maxu _ a b
  | .slt _ a b | .sltu _ a b => [a, b]
  | .clz _ a | .popc _ a => [a]
  | .addi _ a _ | .andi _ a _ | .ori _ a _ | .xori _ a _ | .slti _ a _ | .sltui _ a _ => [a]
  | .shli _ a _ | .shri _ a _ | .srai _ a _ => [a]
  | .beq a b _ | .bne a b _ | .blt a b _ | .bge a b _ | .bltu a b _ | .bgeu a b _ => [a, b]
  | .jalr _ a _ | .loop a _ => [a]
  | .ld _ a _ _ | .ldsx _ a _ _ | .ldc _ a _ _ => [a]
  | .st x a _ _ => [x, a]
  | .amoswap _ a b _ | .amoadd _ a b _ | .amoand _ a b _ | .amoor _ a b _ | .amoxor _ a b _ | .amomin _ a b _
  | .amomax _ a b _ | .amominu _ a b _ | .amomaxu _ a b _ => [a, b]
  | .cas d a b _ => [d, a, b]
  | .spt _ a | .spcGlobal _ a | .spcPrivate _ a | .spcOffset _ a => [a]
  | .spcTile _ a b | .spcShared _ a b => [a, b]
  | .toks x _ _ | .toksRemote x _ _ _ => [x]
  | .gset d _ v => if v = 4 then [d] else []
  | .sev d _ => [d]
  | .rngk _ a b | .rnga _ a b | .folio a b _ | .talloc _ a b _ => [a, b]
  | .csrw x _ | .csrs x _ _ => [x]
  | _ => []

/-- The g register an S instruction writes (R92). -/
def gWrites : Instr → List (BitVec 5)
  | .add d _ _ | .sub d _ _ | .and d _ _ | .or d _ _ | .xor d _ _ | .shl d _ _ | .shr d _ _ | .sra d _ _ | .mul d _ _
  | .mulh d _ _ | .div d _ _ | .divu d _ _ | .rem d _ _ | .remu d _ _ | .min d _ _ | .max d _ _ | .minu d _ _ | .maxu d _ _
  | .slt d _ _ | .sltu d _ _ => [d]
  | .clz d _ | .popc d _ => [d]
  | .addi d _ _ | .andi d _ _ | .ori d _ _ | .xori d _ _ | .slti d _ _ | .sltui d _ _ => [d]
  | .shli d _ _ | .shri d _ _ | .srai d _ _ => [d]
  | .lih d _ | .addpc d _ => [d]
  | .jal d _ | .jalr d _ _ => [d]
  | .loop a _ => [a]
  | .ld d _ _ _ | .ldsx d _ _ _ | .ldc d _ _ _ => [d]
  | .amoswap d _ _ _ | .amoadd d _ _ _ | .amoand d _ _ _ | .amoor d _ _ _ | .amoxor d _ _ _ | .amomin d _ _ _
  | .amomax d _ _ _ | .amominu d _ _ _ | .amomaxu d _ _ _ | .cas d _ _ _ => [d]
  | .spt d _ | .spcGlobal d _ | .spcPrivate d _ | .spcOffset d _ => [d]
  | .spcTile d _ _ | .spcShared d _ _ => [d]
  | .tokw d _ | .wfe d _ | .domr d _ _ | .seedrd d _ | .talloc d _ _ _ | .tinfo d _ _ | .csrr d _ => [d]
  | _ => []

/-- A queued load has yet to write a register that the instruction reads or writes (R92). -/
def loadPending (c : Ctx) (i : Instr) : Bool :=
  c.sq.loads.any fun l => l.d ≠ 0 && ((gReads i).contains l.d || (gWrites i).contains l.d)

/-- The first load error that the instruction meets by reading the load's destination (R104). Log entry 116 (DEDUCED). -/
def loadError (c : Ctx) (i : Instr) : Option SErr :=
  c.sq.errs.find? fun e => match e.d with | some d => (gReads i).contains d | none => false

/-- The interlock of the S stream: hold, a deferred load error, or the state in which the instruction issues; no value is
predicted (R313). Log entry 111 (DESIGN CHOICE). -/
def interlock (s : State) (i : Instr) : Front :=
  if loadPending s.me i then .stay (s.holdS 0 0)
  else
    match loadError s.me i with
    | some e => .stay (s.raiseS e)
    | none => .run i s

/-- Note that a queue head has found a guard slot resolved in this running cycle (R21). -/
def Ctx.noteTest (c : Ctx) (g : BitVec 4) : Ctx :=
  { c with tested := (c.runCc, (if c.tested.1 = c.runCc then c.tested.2 else 0) ||| BitVec.twoPow 16 g.toNat) }

/-- The guard of a queue head (R70): hold while unresolved, discard, or execute; a VLDX or VSTX in progress (R165) and an
FSTART whose run is in progress go on. -/
def guardTest (s : State) (i : Instr) : Front :=
  match s.strm.pfx with
  | none => .run i s
  | some p =>
    if p.gslot = 0 || s.strm.guardOk || (s.cur.st = .v && !s.me.v.forked && s.me.piV ≠ 0) ||
        (s.cur.st = .f && s.me.f.run.isSome) then .run i s
    else
      let g := s.me.guard p.gslot
      if g = 0 then .stay (s.hold 1 p.gslot.toNat)
      else
        let s := { s with me := s.me.noteTest p.gslot }
        if (g = 3) = (p.gpol = 1) then .stay s.freeRing.retire
        else .run i ((s.acquire (s.me.hb.gd[p.gslot.toNat]'p.gslot.isLt)).setStrm { s.strm with guardOk := true })

/-- A stream may issue: the context runs and the package lets it; outside a handler, or the S stream (R331); a V stream not
while a folio is being loaded (R180); the S stream not while a WATCHPOINT waits for its boundary (R311, R332). -/
def canIssue (s : State) (st : Stream) : Bool :=
  s.me.life = .running && s.hub.lets (instOf s.me.id) &&
  (if st = .s then s.me.t.hmode || s.me.t.wpend.isNone else !s.me.t.hmode && (st ≠ .v || s.me.t.load.isNone))

/-- The stream exists in the context in focus (R13). -/
def hasStream (c : Ctx) (st : Stream) : Bool := st = .s || st = .c || st = c.engine

/-- The stream takes a turn: it exists, may issue, has not halted or reached its VJOIN, has not issued in this cycle (R92, R212)
and its instruction's bound has not expired (R68). -/
def State.hasTurn (s : State) : Bool :=
  let st := s.cur.st
  let joined := st = .v && s.me.v.forked && (s.me.v.cl[s.cur.cl.toNat]'s.cur.cl.isLt).join.isSome
  hasStream s.me st && canIssue s st && !s.strm.halted && !joined && s.strm.lastCc ≠ some s.cc && !boundExpired s.me s.strm

/-- The head of the current stream is considered (R68); engine and copy streams take MODDEF with it (R35). -/
def State.arriveAt (s : State) : State :=
  s.setStrm (s.strm.arrive s.me.runCc (if s.cur.st = .s then none else some s.me.moddef))

/-- The word at the head of the current stream cannot be fetched yet: it has not reached the queue head (R68). -/
def State.fetchHold (s : State) : State :=
  s.setStrm { s.strm with wait := some { kind := 0, obj := 0 }, tried := some s.me.runCc, trapping := false }

/-- The current stream has its word (R63). -/
def State.gotWord (s : State) (w : W32) : State := s.setStrm { s.strm with word := some w }

/-- What fetching the word at the head of the current stream answers, and the state after its accesses; a word is fetched once
(R63, R294). Log entry 19 (DEDUCED). -/
def State.fetch (s : State) : Fetched × State :=
  match s.strm.word with
  | some w => (.word w, s)
  | none =>
    match fetchWord s s.strm.pc with
    | .hold => (.hold, s)
    | .fault => (.fault, if s.strm.trapping then s else s.fetched s.strm.pc)
    | .word w => (.word w, (s.fetched s.strm.pc).gotWord w)

/-- The address that a refused word reports: that of its prefix, if it has one, but for NEST_CONFIG (R65, R326).
Log entry 110 (DEDUCED). -/
def Strm.refusedAt (st : Strm) : DecodeError → W64
  | .nestConfig => st.pc
  | _ => st.restart

/-- One turn of a stream: fetch, decode, interlock and guard. Log entry 11 (DEDUCED). -/
def front (s : State) (id : BitVec 12) (st : Stream) (cl : BitVec 4) : Front :=
  match s.focus id with
  | none => .stay s
  | some s0 =>
    let s := { s0 with cur := { st := st, cl := cl, inst := instOf id } }
    if !s.hasTurn then .stay s
    else
      match s.fetch with
      | (.hold, s) => .stay s.fetchHold
      | (.fault, s) => .stay (s.arriveAt.trap 0x07 s.strm.pc)
      | (.word w, s) =>
        let s := s.arriveAt
        match decodeAt st (s.me.engine == .f) s.strm.pfx.isSome w with
        | .error e => .stay (s.trap (decodeCause e) (s.strm.refusedAt e))
        | .ok i =>
          if st = .v && pfxMask s.strm.pfx ≠ 0 && noPrefixMask w then .stay (s.trap 0x02 s.strm.restart)
          else if st = .s then interlock s i
          else guardTest s i

end Sys2Proof.Machine
end

