-- ==== Sys2Proof/Machine/Matrix.lean ====
section
/-! DEFINITION. The M stream (R190 to R210): configuration, banks, the loop nest, the accumulator modes, the operand fetch and
completion. Effects occur in issue order, one whole instruction after another (R191): while a long instruction is in progress
(MState.cur) only MCUE and MNOP, which change no matrix state, leave the queue head. -/

namespace Sys2Proof.Machine

/-! ## Issue -/

/-- An M instruction whose effect follows every earlier M instruction (R191, R329). Log entry 13 (DEDUCED). -/
def State.mAfter (s : State) (go : Res) : Res := if s.me.m.cur.isNone then go else .next (s.hold 0 0)

/-- Replace the matrix state and retire. -/
def State.mRetire (s : State) (m : MState) : Res := .next ({ s with me := { s.me with m := m } }).retire

/-- Raise the busy counts of handles in turn; none when a count is at its limit (R18). -/
def Ctx.busyEach (c : Ctx) : List (BitVec 8) → Option Ctx
  | [] => some c
  | h :: t => if (c.tile h).busy = 255 then none else (c.busyUp h).busyEach t

/-- Raise the busy count of every handle that a command names, each once (R17, R212). -/
def Ctx.busyAll (c : Ctx) (l : List (BitVec 8)) : Option Ctx := c.busyEach l.eraseDups

/-- Lower the busy count of every handle that a command names, each once. -/
def Ctx.freeAll (c : Ctx) (l : List (BitVec 8)) : Ctx := l.eraseDups.foldl Ctx.busyDown c

/-- A long instruction leaves its queue head and is in progress (R191, R210). -/
def State.mStart (s : State) (i : Instr) (hs : List (BitVec 8)) (base : W64) (fetched : Bool) : Res :=
  match s.me.busyAll hs with
  | none => .next (s.hold 7 (hs.headD 0).toNat)
  | some c =>
    let st := s.strm
    let m : MCur := { i := i, addr := st.restart, seq := st.seq, cache := mCache s.me st,
                      headCc := st.headCc.getD s.me.runCc, bound := boundOf st.pfx, fetched := fetched, pair := none,
                      base := base }
    .next ({ s with me := { c with m := { c.m with cur := some m } } }).retire

/-- The handles an instruction in progress keeps busy (R191). -/
def mHandles : Instr → List (BitVec 8)
  | .mgo a b | .mgoF a b _ => [a, b]
  | .mwld h _ | .mwldF h _ _ => [h]
  | .mqOpen _ h | .mqClose _ h => [h]
  | _ => []

/-- The instruction in progress completes (R191). -/
def State.mDone (s : State) : State :=
  match s.me.m.cur with
  | none => s
  | some m =>
    let c := s.me.freeAll (mHandles m.i)
    { s with me := { c with piM := 0, m := { c.m with cur := none } } }

/-! ## Configuration (R193, R197, R198, R200, R201) -/

/-- MNEST (R198). -/
def execMnest (l : BitVec 3) (f : BitVec 2) (v : BitVec 20) (s : State) : Res :=
  s.mAfter
    (let old := s.me.m.shadowNest.toArray.getD l.toNat {}
     let x : W32 := v.signExtend 32
     let new : NestLv :=
       if f = 0 then { old with count := v.setWidth 32 } else if f = 1 then { old with sa := x }
       else if f = 2 then { old with su := x } else { old with sw := x }
     s.mRetire { s.me.m with shadowNest := s.me.m.shadowNest.setIfInBounds l.toNat new })

/-- MFMT (R193). -/
def execMfmt (x : BitVec 1) (t : BitVec 2) (f : BitVec 4) (s : State) : Res :=
  s.mAfter (s.mRetire { s.me.m with fmt := f, qt := t, x3 := x })

/-- MACC (R200). -/
def execMacc (n : BitVec 2) (d : BitVec 4) (m : BitVec 2) (s : State) : Res :=
  s.mAfter (s.mRetire { s.me.m with mode := m, depth := d, arm := if n = 1 then true else if n = 2 then false else s.me.m.arm })

/-- MSPLIT (R201). -/
def execMsplit (v : BitVec 20) (s : State) : Res := s.mAfter (s.mRetire { s.me.m with j := v })

/-- MWSW (R197); BANK_STATE reports the address of its own word (R326). Log entry 110 (DEDUCED). -/
def execMwsw (s : State) : Res :=
  s.mAfter
    (if !s.me.m.shadow.loaded then s.trapR 0x33 s.strm.pc
     else s.mRetire { s.me.m with active := s.me.m.shadow, shadow := s.me.m.active })

/-! ## Weight loads (R195, R196) -/

/-- The fmt of a weight source is one of R195. -/
def isWeightFmt (f : BitVec 4) : Bool := weightLimit f.toNat != 0

/-- The checks of the tile forms of MWLD: the cause and TVAL of the first that fails (R196). -/
def mwldCheck (c : Ctx) (h : BitVec 8) (f : BitVec 4) : Option (BitVec 7 × W64) :=
  let t := c.tile h
  let tv : W64 := h.setWidth 64
  if !isWeightFmt f then some (0x32, tv)
  else if !t.valid then some (0x16, tv)
  else if t.level ≠ 0 || t.cols ≠ 256 || weightLimit f.toNat < t.rows.toNat ||
      t.size.toNat < t.rows.toNat * weightRowBytes f.toNat then some (0x18, tv)
  else if t.fmt ≠ f then some (0x32, tv) else none

/-- MWLD from a tile (R196). -/
def execMwld (h : BitVec 8) (f : BitVec 4) (s : State) : Res :=
  s.mAfter
    (match mwldCheck s.me h f with
     | some e => s.trapR e.1 e.2
     | none => s.mStart (.mwld h f) [h] 0 true)

/-- The checks of the operand fetcher on aN (R204). -/
def fetchCheck (c : Ctx) (n : BitVec 4) : Option (BitVec 7 × W64) :=
  let p := c.cp.a[n.toNat]'n.isLt
  if p.extractLsb' 56 8 ≠ 0 then some (0x14, p) else if p.toNat % 32 ≠ 0 then some (0x11, p) else none

/-- MWLD with an operand fetch (R196, R204). -/
def execMwldF (h : BitVec 8) (n f : BitVec 4) (s : State) : Res :=
  s.mAfter
    (match mwldCheck s.me h f with
     | some e => s.trapR e.1 e.2
     | none =>
       match fetchCheck s.me n with
       | some e => s.trapR e.1 e.2
       | none => s.mStart (.mwldF h n f) [h] (s.me.cp.a[n.toNat]'n.isLt) false)

/-- MWLD from a weight stream (R196): it holds at its queue head until it is paired with a CWST; FORMAT_MISMATCH names no
handle. Log entry 106 (DESIGN CHOICE). -/
def execMwldS (f : BitVec 4) (s : State) : Res :=
  s.mAfter
    (if !isWeightFmt f then s.trapR 0x32 0
     else .next (({ s with me := { s.me with m := { s.me.m with want := some f } } }).hold 0 0))

/-! ## The loop nest (R198, R199) -/

/-- Low and high extremes of Σ i[l]·stride[l] over the nest (R199 check 6). -/
def nestSpan (n : Vector NestLv 6) (stride : NestLv → W32) : Int × Int :=
  n.toList.foldl (fun (r : Int × Int) l =>
    let x := ((l.count.toNat : Int) - 1) * (stride l).toInt
    (r.1 + if x < 0 then x else 0, r.2 + if 0 < x then x else 0)) (0, 0)

/-- Steps of a nest (R199). -/
def nestTotal (n : Vector NestLv 6) : Nat := n.toList.foldl (fun p l => p * l.count.toNat) 1

/-- Σ i[l]·stride[l] at step t, level 0 varying fastest (R199). -/
def nestIndex (stride : NestLv → W32) : List NestLv → Nat → Int
  | [], _ => 0
  | l :: rest, t =>
    if l.count = 0 then 0
    else ((t % l.count.toNat : Nat) : Int) * (stride l).toInt + nestIndex stride rest (t / l.count.toNat)

/-- Planes of the activation format in force (R193). -/
def MState.planes (m : MState) : Nat := planesOf m.fmt.toNat m.qt.toNat (m.x3 == 1)

/-- Tree mode is in force. -/
def MState.tree (m : MState) : Bool := m.mode == 2

/-- The checks of MGO after it has copied the nest: cause and TVAL of the first that fails (R199). `w`: the word address.
Log entry 36 (DESIGN CHOICE). -/
def mgoCheck (c : Ctx) (a b : BitVec 8) (w : W64) : Option (BitVec 7 × W64) :=
  let ta := c.tile a; let tb := c.tile b
  let va : W64 := a.setWidth 64; let vb : W64 := b.setWidth 64
  let m := c.m
  let recs := ta.rows.toNat * (ta.cols.toNat / 256)
  let nest := m.shadowNest
  let q := nestSpan nest (·.sa); let u := nestSpan nest (·.su); let x := nestSpan nest (·.sw)
  let d : Int := m.depth.toNat
  let lo : Int := if m.tree then u.1 * (d + 2) else u.1
  let hi : Int := if m.tree then u.2 * (d + 2) + d + 1 else u.2
  let last : Int := 4 * (hi * tb.cols.toNat + if m.tree then 1 else m.active.nw.toNat)
  if !ta.valid then some (0x16, va)
  else if !tb.valid then some (0x16, vb)
  else if ta.level ≠ 1 || ta.cols.toNat % 256 ≠ 0 || ta.size.toNat < recs * recBytes m.planes then some (0x18, va)
  else if tb.level ≠ 2 then some (0x18, vb)
  else if ta.fmt ≠ m.fmt then some (0x32, va)
  else if nest.toList.any (fun l => l.count == 0) || 2 ^ 32 ≤ nestTotal nest then some (0x31, w)
  else if !m.active.loaded then some (0x33, w)
  else if q.1 < 0 || recs ≤ q.2 then some (0x1A, va)
  else if lo < 0 || tb.rows.toNat ≤ hi || tb.cols.toNat < m.active.nw.toNat || tb.size.toNat < last then some (0x1A, vb)
  else if x.1 < 0 || (m.tree && 2 ^ m.depth.toNat - 1 < x.2) then some (0x34, vb) else none

/-- MGO at its queue head: the nest is copied, the checks are made, the steps are queued (R199). -/
def State.mgoHead (s : State) (i : Instr) (a b : BitVec 8) (n : Option (BitVec 4)) : Res :=
  s.mAfter
    (let s := { s with me := { s.me with m := { s.me.m with activeNest := s.me.m.shadowNest } } }
     match mgoCheck s.me a b s.strm.pc with
     | some e => s.trapR e.1 e.2
     | none =>
       match n with
       | none => s.mStart i [a, b] 0 true
       | some n =>
         match fetchCheck s.me n with
         | some e => s.trapR e.1 e.2
         | none => s.mStart i [a, b] (s.me.cp.a[n.toNat]'n.isLt) false)

/-- MGO (R199). -/
def execMgo (a b : BitVec 8) (s : State) : Res := s.mgoHead (.mgo a b) a b none
/-- MGO with an operand fetch (R199, R204). -/
def execMgoF (a b : BitVec 8) (n : BitVec 4) (s : State) : Res := s.mgoHead (.mgoF a b n) a b (some n)

/-! ## Chunk values (R54, R194, R195, R203) -/

/-- Two's complement of `n` planes of a record from plane `p0` on: element i (R194). -/
def planeSig (planes : Array Nat) (p0 n i : Nat) : Int :=
  sintOf (2 * n) (packNat 2 ((List.range n).map fun p => planes.getD (p0 + p) 0 / 4 ^ i % 4))

/-- The blocks of a chunk record: 8, or 24 for three terms (R194, R203). -/
def recBlocks (m : MState) (bs : List Byte) : List Blk :=
  let p := m.planes
  let planes := ((List.range p).map fun k => leNat ((bs.drop (64 * k)).take 64)).toArray
  let scales := ((bs.drop (64 * p)).map fun b => b.toNat).toArray
  let terms := if m.x3 = 1 then 3 else 1
  let per := p / terms
  (List.range (8 * terms)).map fun b =>
    let e := scales.getD b 0
    let scale := if m.fmt = 0xF then e % 64 + 64 * m.qt.toNat else e
    { x := blockExp m.fmt.toNat scale, s := (List.range 32).map fun i => planeSig planes (per * (b / 8)) per (32 * (b % 8) + i) }

/-- The blocks of weight column n of a bank (R195). -/
def colBlocks (k : Bank) (n : Nat) : List Blk :=
  let f := k.fmt.toNat
  let w := fmtBits f
  let base := n * weightRowBytes f
  (List.range 8).map fun b =>
    let scale := if fmtIsBlock f then (k.bytes.get (base + 32 * w + b)).toNat else 0
    let bits := k.bytes.readLE (base + 4 * w * b) (4 * w)
    { x := blockExp f scale, s := (List.range 32).map fun i => sigOf f (scale / 64) (bits / 2 ^ (w * i) % 2 ^ w) }

/-- chunk_value of a record and a column (R54, R203). -/
def chunkValue (r : List Blk) (k : Bank) (n : Nat) : Nat × Flags :=
  let w := colBlocks k n
  chunkSumMx (r.zip (w ++ w ++ w))

/-! ## Steps (R199 to R201, R205) -/

/-- Byte of accumulator element (row, n) in the scratchpad (R199). -/
def accAt (t : Tile) (row n : Nat) : Nat := t.base.toNat + 4 * (row * t.cols.toNat + n)

/-- The element there. -/
def Ctx.accGet (c : Ctx) (t : Tile) (row n : Nat) : Nat := c.spad.readLE (accAt t row n) 4

/-- One column of tree_step: the level it ends at and the value (R201). -/
def treeClimb (c : Ctx) (t : Tile) (b n cnt d : Nat) : Nat → Nat → Nat × Flags → Nat × (Nat × Flags)
  | 0, l, v => (l, v)
  | k + 1, l, v =>
    if l < d && cnt / 2 ^ l % 2 = 1 then
      let r := treeAdd (c.accGet t (b + l) n) v.1
      treeClimb c t b n cnt d k (l + 1) (r.1, v.2 ||| r.2)
    else (l, v)

/-- What a step or leaf does: a failing word, a split error, or the elements to write (row, column, value) with their flags, and
the scratchpad bytes it has read. -/
inductive Leaf where
  | ecc (word : Nat)
  | split
  | writes (l : List (Nat × Nat × Nat)) (f : Flags) (reads : List (Nat × Nat) := [])
  deriving Repr

/-- The first failing word among the columns 0 to nw − 1 of rows. -/
def accBad (c : Ctx) (t : Tile) (rows : List Nat) (nw : Nat) : Option Nat :=
  rows.findSome? fun r => c.firstBad (accAt t r 0) (4 * nw)

/-- tree_step of one leaf at physical row b (R201); the count is written last. -/
def treeLeaf (c : Ctx) (t : Tile) (d b w : Nat) (leaf : List (Nat × Flags)) : Leaf :=
  match accBad c t [b + d + 1] 1 with
  | some x => .ecc x
  | none =>
    let cnt := c.accGet t (b + d + 1) 0
    if 2 ^ d ≤ cnt || cnt ≠ w then .split
    else
      let l := (treeClimb c t b 0 cnt d d 0 (0, 0)).1
      match accBad c t ((List.range l).map (b + ·)) leaf.length with
      | some x => .ecc x
      | none =>
        let vs := leaf.zipIdx.map fun p => (p.2, treeClimb c t b p.2 cnt d d 0 p.1)
        .writes (vs.map (fun p => (b + p.2.1, p.1, p.2.2.1)) ++ [(b + d + 1, 0, cnt + 1)])
          (vs.foldl (fun f p => f ||| p.2.2.2) 0)
          ((accAt t (b + d + 1) 0, 4) :: (List.range l).map fun i => (accAt t (b + i) 0, 4 * leaf.length))

/-- Write accumulator elements. -/
def Ctx.accWrite (c : Ctx) (t : Tile) (l : List (Nat × Nat × Nat)) : Except Nat Ctx :=
  c.spadCells (l.flatMap fun e => (leBytes 4 e.2.2).zipIdx.map fun p => (accAt t e.1 e.2.1 + p.2, p.1))

/-- The TVAL of a first NaN or of a split error at a step (R205, R207). -/
def stepTval (chunk u col : Nat) : W64 :=
  BitVec.ofNat 64 (chunk % 2 ^ 20 * 2 ^ 44 + u % 2 ^ 16 * 2 ^ 28 + col % 2 ^ 13 * 2 ^ 15 + chunk / 2 ^ 20 % 2 ^ 15)

/-- The machine acts for the long matrix instruction in progress, whose cause waits for no other instruction. -/
def State.asStep (s : State) : State := { s with cur := { s.cur with st := .s } }

/-- The long matrix instruction in progress traps, t being the state then, once the S stream has had its turn in this cycle (R330)
and the copy engine is where it may stop (R329); until then nothing happens. Log entries 102, 117 (DEDUCED). -/
def State.stepTrap (s t : State) : Res := .next (if s.sSettled && !s.me.copyUnder then t else s)

/-- Apply a step or leaf: its trap, or the context after its writes. `arm` is tested before every write (R205). -/
def State.leaf (s : State) (t : Tile) (h : BitVec 8) (chunk u : Nat) (x : Leaf) (cols : Nat) : Except State State :=
  match x with
  | .ecc w => .error (s.asStep.eccTrap (tilePtr s.me.lcore h (8 * w - t.base.toNat)))
  | .split => .error (s.asStep.trap 0x34 (stepTval chunk u 0))
  | .writes l f rd =>
    match (l.take cols).find? fun e => (FFmt.fp32.decode e.2.2).isNan with
    | some e =>
      if s.me.m.arm then
        let s := { s with me := { s.me with m := { s.me.m with arm := false } } }
        .error (s.asStep.trap 0x30 (stepTval chunk u e.2.1))
      else finish l f rd
    | none => finish l f rd
where
  /-- The writes are made and the flags raised. -/
  finish (l : List (Nat × Nat × Nat)) (f : Flags) (rd : List (Nat × Nat)) : Except State State :=
    let s := s.meetOwn rd
    match s.me.accWrite t l with
    | .error w => .error (s.asStep.eccTrap (tilePtr s.me.lcore h (8 * w - t.base.toNat)))
    | .ok c => .ok { s with me := c.raise (f.setWidth 32) }

/-- One step of the nest of an MGO over tiles a and b (R199). -/
def mgoStepAt (s : State) (a b : BitVec 8) (t : Nat) : Except State State :=
  let m := s.me.m
  let ta := s.me.tile a; let tb := s.me.tile b
  let nest := m.activeNest.toList
  let q := (nestIndex (·.sa) nest t).toNat
  let u := (nestIndex (·.su) nest t).toNat
  let w := (nestIndex (·.sw) nest t).toNat
  let rec_ := ta.base.toNat + recBytes m.planes * q
  let nw := m.active.nw.toNat
  let chunk := if m.tree then m.j.toNat * 2 ^ m.depth.toNat + w else w
  match s.me.firstBad rec_ (recBytes m.planes) with
  | some x => .error (s.asStep.eccTrap (tilePtr s.me.lcore a (8 * x - ta.base.toNat)))
  | none =>
    let s := s.meetOwn [(rec_, recBytes m.planes)]
    let blocks := recBlocks m (s.me.spad.read rec_ (recBytes m.planes))
    let sums := (List.range nw).map fun n => chunkValue blocks m.active n
    let x : Leaf :=
      if m.mode = 2 then treeLeaf s.me tb m.depth.toNat (u * (m.depth.toNat + 2)) w sums
      else if m.mode = 1 then
        match accBad s.me tb [u] nw with
        | some x => .ecc x
        | none =>
          let vs := sums.zipIdx.map fun p =>
            let r := treeAdd (s.me.accGet tb u p.2) p.1.1
            (p.2, r.1, p.1.2 ||| r.2)
          .writes (vs.map fun p => (u, p.1, p.2.1)) (vs.foldl (fun f p => f ||| p.2.2) 0) [(accAt tb u 0, 4 * nw)]
      else .writes (sums.zipIdx.map fun p => (u, p.2, p.1.1)) (sums.foldl (fun f p => f ||| p.2) 0)
    s.leaf tb b chunk u x nw

/-- The engine of the context in focus runs. -/
def State.mRuns (s : State) : Bool := canIssue s .m

/-- MGO_STEP: the next step of the MGO in progress (R199). -/
def execMgoStep (s : State) : Res :=
  if !s.mRuns then .next s
  else
    match s.me.m.cur with
    | none => .next s
    | some m =>
      let go := fun (a b : BitVec 8) =>
        (if !m.fetched then .next s
         else
          match mgoStepAt s a b s.me.piM.toNat with
          | .error t => s.stepTrap t
          | .ok s =>
            let n := s.me.piM + 1
            if nestTotal s.me.m.activeNest ≤ n.toNat then .next s.mDone
            else .next { s with me := { s.me with piM := n } } : Res)
      match m.i with
      | .mgo a b => go a b
      | .mgoF a b _ => go a b
      | _ => .next s

/-! ## MQ (R201) -/

/-- The checks of MQ: cause and TVAL of the first that fails (R201). Log entry 36 (DESIGN CHOICE). -/
def mqCheck (c : Ctx) (n : BitVec 16) (h : BitVec 8) (w : W64) : Option (BitVec 7 × W64) :=
  let t := c.tile h
  let v : W64 := h.setWidth 64
  let d := c.m.depth.toNat
  let nw := if c.m.active.loaded then c.m.active.nw.toNat else 0
  let rows := n.toNat * (d + 2)
  if !c.m.tree then some (0x31, w)
  else if !t.valid then some (0x16, v)
  else if t.level ≠ 2 then some (0x18, v)
  else if t.rows.toNat < rows || t.cols = 0 || t.cols.toNat < nw ||
      t.size.toNat < 4 * ((rows - 1) * t.cols.toNat + 1) then some (0x1A, v) else none

/-- MQ at its queue head. -/
def State.mqHead (s : State) (i : Instr) (n : BitVec 16) (h : BitVec 8) : Res :=
  s.mAfter
    (match mqCheck s.me n h s.strm.pc with
     | some e => s.trapR e.1 e.2
     | none => s.mStart i [h] 0 true)

/-- MQ open (R201). -/
def execMqOpen (n : BitVec 16) (h : BitVec 8) (s : State) : Res := s.mqHead (.mqOpen n h) n h
/-- MQ close (R201). -/
def execMqClose (n : BitVec 16) (h : BitVec 8) (s : State) : Res := s.mqHead (.mqClose n h) n h

/-- Feed leaves of +0 to logical row u until its count is 2^D (R201); `k` bounds the leaves. -/
def mqFeed (t : Tile) (h : BitVec 8) (u nw : Nat) : Nat → State → Except State State
  | 0, s => .ok s
  | k + 1, s =>
    let d := s.me.m.depth.toNat
    let b := u * (d + 2)
    let cnt := s.me.accGet t (b + d + 1) 0
    if 2 ^ d ≤ cnt then .ok s
    else
      match s.leaf t h (s.me.m.j.toNat * 2 ^ d + cnt) u (treeLeaf s.me t d b cnt (List.replicate nw (0, 0))) nw with
      | .error e => .error e
      | .ok s => mqFeed t h u nw k s

/-- MQ_ROW: the next row of the MQ in progress (R201, R208). -/
def execMqRow (s : State) : Res :=
  if !s.mRuns then .next s
  else
    let u := s.me.piM.toNat
    let d := s.me.m.depth.toNat
    let done := fun (n : BitVec 16) (r : Except State State) =>
      (match r with
       | .error t => s.stepTrap t
       | .ok s => if n.toNat ≤ u + 1 then .next s.mDone else .next { s with me := { s.me with piM := s.me.piM + 1 } } : Res)
    match s.me.m.cur with
    | none => .next s
    | some m =>
      match m.i with
      | .mqOpen n h => done n (s.leaf (s.me.tile h) h 0 u (.writes [(u * (d + 2) + d + 1, 0, 0)] 0) 0)
      | .mqClose n h =>
        let t := s.me.tile h
        let nw := if s.me.m.active.loaded then s.me.m.active.nw.toNat else 0
        (match accBad s.me t [u * (d + 2) + d + 1] 1 with
         | some x => s.stepTrap (s.asStep.eccTrap (tilePtr s.me.lcore h (8 * x - t.base.toNat)))
         | none => done n (mqFeed t h u nw (2 ^ d) s))
      | _ => .next s

/-! ## Tokens, cues and completion (R206) -/

/-- MTOKS (R206). -/
def execMtoks (c : BitVec 4) (v : BitVec 16) (s : State) : Res := s.mAfter (s.sendTok c.toNat v)
/-- MTOKW (R206). -/
def execMtokw (c : BitVec 4) (s : State) : Res := s.mAfter (s.takeTok c.toNat fun _ s => s)
/-- MCUE (R206). Log entry 13 (DEDUCED). -/
def execMcue (n : BitVec 20) (s : State) : Res := s.cue n
/-- MWAIT (R206). -/
def execMwait (s : State) : Res := s.mAfter (.next s.retire)
/-- MWAIT with end: the M stream fetches nothing more (R206). -/
def execMwaitEnd (s : State) : Res :=
  s.mAfter (.next (let t := s.retire; t.setStrm { t.strm with halted := true }))
/-- MNOP (R206). -/
def execMnop (s : State) : Res := .next s.retire
/-- MRING (R128): a produce waits for every earlier M instruction. -/
def execMring (r : BitVec 2) (c h : BitVec 8) (s : State) : Res := s.mAfter (s.ring h c r.toNat true)

end Sys2Proof.Machine
end

