-- ==== Sys2Proof/Machine/VectorStat.lean ====
section
/-! DEFINITION. Reductions, scans, statistics, normalisation and softmax of the V stream (R149, R150, R153 to R156). -/

namespace Sys2Proof.Machine

/-- FP32 operations of R153: nearest-even, subnormals kept; a pattern with the flags raised so far. -/
abbrev FR := Nat × Flags

/-- add (R153). -/
def frAdd (a b : FR) : FR := let r := fpAdd .fp32 .rne a.1 b.1; (r.1, a.2 ||| b.2 ||| r.2)
/-- add(a, −b) (R153). -/
def frSub (a b : FR) : FR := let r := fpSub .fp32 .rne a.1 b.1; (r.1, a.2 ||| b.2 ||| r.2)
/-- mul (R153). -/
def frMul (a b : FR) : FR := let r := fpMul .fp32 .rne a.1 b.1; (r.1, a.2 ||| b.2 ||| r.2)
/-- div (R153). -/
def frDiv (a b : FR) : FR := let r := fpDiv .fp32 a.1 b.1; (r.1, a.2 ||| b.2 ||| r.2)
/-- A built-in function (R151). -/
def frFn (fn : Nat) (a : FR) : FR := let r := vfn fn a.1; (r.1, a.2 ||| r.2)

/-- The pattern is a NaN. -/
def isNan32 (w : Nat) : Bool := (FFmt.fp32.decode w).isNan
/-- The pattern is an infinity. -/
def isInf32 (w : Nat) : Bool := (FFmt.fp32.decode w).isInf
/-- The pattern is +0 or −0. -/
def isZero32 (w : Nat) : Bool := (FFmt.fp32.decode w).isZero

/-- A count as FP32. -/
def fp32Count (n : Nat) : Nat := (rne32 (Dy.ofInt n) false).1

/-- The flags of the NaNs among operands (R49). -/
def nanFlags32 (xs : List Nat) : Flags := nanFlags (xs.map FFmt.fp32.decode)

/-- VRED.max and .min (R149): the extreme value, −0 below +0; the first NaN, quieted. -/
def redExtreme (mx : Bool) (xs : List Nat) : Nat × Flags :=
  match firstNan .fp32 xs with
  | some q => (q, nanFlags32 xs)
  | none =>
    let op := fun (a b : Nat) => (if mx then fpMax .fp32 a b else fpMin .fp32 a b).1
    (xs.foldl op (if mx then f32ninf else f32pinf), 0)

/-- The exact sum of I32 lanes, brought into I32 once (R149, R150). -/
def redIsum (sat : Bool) (xs : List Nat) : Nat × Flags := toI32 sat (xs.foldl (fun n x => n + sintOf 32 x) 0)

/-- VRED but for .tree: the reduction of the enabled lanes (R149). -/
def redValue (fn : Nat) (sat : Bool) (xs : List Nat) : Nat × Flags :=
  match fn with
  | 0 => chunkSumF32 xs
  | 1 => redExtreme true xs
  | 2 => redExtreme false xs
  | 3 => redIsum sat xs
  | 4 => (xs.foldl (fun a x => if sintOf 32 a < sintOf 32 x then x else a) 0x80000000, 0)
  | _ => (xs.foldl (fun a x => if sintOf 32 x < sintOf 32 a then x else a) 0x7FFFFFFF, 0)

/-- VRED (R149). -/
def execVred (d a b : BitVec 6) (k : BitVec 3) (f : BitVec 4) (s : State) : Res :=
  if f = 7 then
    s.vLanes d k fun _ c j =>
      let x := if j < 128 then c.vreg a else c.vreg b
      let i := if j < 128 then 2 * j else 2 * j - 256
      w32 (treeAdd (lane x i).toNat (lane x (i + 1)).toNat)
  else
    s.vRun fun _ c =>
      let r := redValue f.toNat s.vSat (enabledLanes (c.vreg a) (c.mreg k))
      (c.setV d (ofLanes (List.replicate 256 (BitVec.ofNat 32 r.1))), r.2)

/-- VSCAN's value at lane j (R150). -/
def scanValue (fn : Nat) (sat : Bool) (x : VReg) (m : MReg) (j : Nat) : Nat × Flags :=
  let all := (List.range (j + 1)).map fun i => if m.getLsbD i then (lane x i).toNat else 0
  let on := (List.range (j + 1)).filterMap fun i => if m.getLsbD i then some (lane x i).toNat else none
  match fn with
  | 0 => chunkSumF32 all
  | 1 => redIsum sat all
  | 2 => redExtreme true on
  | _ => redExtreme false on

/-- VSCAN (R150). -/
def execVscan (d a : BitVec 6) (k : BitVec 3) (f : BitVec 4) (s : State) : Res :=
  s.vLanes d k fun _ c j => w32 (scanValue f.toNat s.vSat (c.vreg a) (c.mreg k) j)

/-! ## Statistics (R153, R154) -/

/-- Lane j of a state register as a value without flags. -/
def st32 (v : VReg) (j : Nat) : FR := ((lane v j).toNat, 0)

/-- The exact sum of finite FP32 values. -/
def exactSum (xs : List Dy) : Dy := xs.foldl Dy.add Dy.zero

/-- A quotient of an exact sum by a count, in the sense of Dy.quot. -/
def dyOver (x : Dy) (n : Nat) : Dy :=
  let q := Dy.quot x.m.natAbs n 128
  { m := if x.m < 0 then -q.m else q.m, e := q.e + x.e }

/-- stat_chunk (R153): n, mean, M2. -/
def statChunk (xs : List Nat) : (Nat × Nat × Nat) × Flags :=
  if xs.isEmpty then ((0, 0, 0), 0)
  else
    let n := fp32Count xs.length
    match firstNan .fp32 xs with
    | some q => ((n, q, q), nanFlags32 xs)
    | none =>
      if xs.any isInf32 then let r := chunkSumF32 xs; ((n, r.1, 0x7FC00000), r.2 ||| fNv)
      else
        let ds := xs.map fun x => (FFmt.fp32.decode x).dy
        let mean := roundFp .fp32 (dyOver (exactSum ds) xs.length) false .rne true
        let mu := (FFmt.fp32.decode mean.1).dy
        let m2 := roundFp .fp32 (exactSum (ds.map fun x => (x.sub mu).mul (x.sub mu))) false .rne true
        ((n, mean.1, m2.1), mean.2 ||| m2.2)

/-- stat_merge (R49, R153): the left state's NaN comes first; the tests of a count raise its NaN's flags. -/
def statMerge (an am a2 bn bm b2 : FR) : (Nat × Nat × Nat) × Flags :=
  if isZero32 an.1 then ((bn.1, bm.1, b2.1), 0)
  else if isZero32 bn.1 then ((an.1, am.1, a2.1), nanFlags32 [an.1])
  else
    let n := frAdd an bn
    let d := if isNan32 am.1 then (FFmt.fp32.quiet am.1, nanFlags32 [am.1, bm.1]) else frSub bm am
    let w := frDiv bn n
    let mean := frAdd am (frMul d w)
    let m2 := frAdd (frAdd a2 b2) (frMul (frMul d d) (frMul an w))
    ((n.1, mean.1, m2.1), mean.2 ||| m2.2)

/-- Lanes 0, 1, 2, … take the listed values; the others keep theirs. -/
def setLow (v : VReg) (l : List Nat) : VReg :=
  ofLanes ((List.range 256).map fun j => match l[j]? with | some x => BitVec.ofNat 32 x | none => lane v j)

/-- VSTAT (R153). -/
def execVstat (d a b : BitVec 6) (k : BitVec 3) (f : BitVec 4) (s : State) : Res :=
  s.vRun fun _ c =>
    let x := c.vreg a; let y := c.vreg b
    let r := if f = 0 then statChunk (enabledLanes x (c.mreg k))
             else statMerge (st32 x 0) (st32 x 1) (st32 x 2) (st32 y 0) (st32 y 1) (st32 y 2)
    (c.setV d (setLow (c.vreg d) [r.1.1, r.1.2.1, r.1.2.2]), r.2)

/-- VNORM (R154). -/
def execVnorm (d a b : BitVec 6) (k : BitVec 3) (f : BitVec 4) (s : State) : Res :=
  s.vLanes d k fun _ c =>
    let y := c.vreg b
    let n := st32 y 0; let mean := st32 y 1; let m2 := st32 y 2; let eps := st32 y 3
    let var := frDiv m2 n
    let r := frFn 7 (frAdd (if f = 0 then var else frAdd var (frMul mean mean)) eps)
    fun j =>
      let x : FR := ((lane (c.vreg a) j).toNat, 0)
      if isZero32 n.1 then (0x7FC00000, fNv)
      else w32 (if f = 0 then frMul (frSub x mean) r else frMul x r)

/-! ## Softmax (R155, R156) -/

/-- The maximum of FP32 values, −0 below +0. -/
def max32 (a b : Nat) : Nat := (fpMax .fp32 a b).1

/-- mul(s, vfn_exp(add(m, −m2))) (R155). -/
def rescale (s m m2 : FR) : FR := frMul s (frFn 2 (frSub m m2))

/-- VSMAX fn 0 on a state and the enabled lanes (R49, R155). -/
def smaxUpdate (m s k cnt : Nat) (xs : List Nat) : List Nat × Flags :=
  let c := frAdd (cnt, 0) (fp32Count xs.length, 0)
  if isNan32 m then ([m, s, k, c.1], c.2 ||| nanFlags32 [m])
  else
    match firstNan .fp32 xs with
    | some q => ([q, s, k, c.1], c.2 ||| nanFlags32 xs)
    | none =>
      let mx := xs.foldl max32 f32ninf
      if mx = f32pinf || m = f32pinf then
        let k1 := frAdd (if m = f32pinf then k else 0, 0) (fp32Count (xs.filter fun x => x = f32pinf).length, 0)
        ([f32pinf, 0, k1.1, c.1], c.2 ||| k1.2)
      else if mx = f32ninf && m = f32ninf then ([m, s, k, c.1], c.2)
      else
        let m2 := max32 m mx
        let es := xs.map fun x => frFn 2 (frSub (x, 0) (m2, 0))
        let part := chunkSumF32 (es.map (·.1))
        let fl := es.foldl (fun f e => f ||| e.2) part.2
        let t := frAdd (rescale (s, 0) (m, 0) (m2, 0)) (part.1, fl)
        ([m2, t.1, k, c.1], c.2 ||| t.2)

/-- VSMAX fn 1 (R49, R155). Log entry 30 (DEDUCED). -/
def smaxMerge (am as ak ac bm bs bk bc : Nat) : List Nat × Flags :=
  let c := frAdd (ac, 0) (bc, 0)
  if isNan32 am then ([am, as, ak, c.1], c.2 ||| nanFlags32 [am, bm])
  else if isNan32 bm then ([bm, as, ak, c.1], c.2 ||| nanFlags32 [bm])
  else if am = f32pinf || bm = f32pinf then
    let k := frAdd (if am = f32pinf then ak else 0, 0) (if bm = f32pinf then bk else 0, 0)
    ([f32pinf, 0, k.1, c.1], c.2 ||| k.2)
  else if am = f32ninf && bm = f32ninf then ([f32ninf, 0, 0, c.1], c.2)
  else
    let m := max32 am bm
    let t := frAdd (rescale (as, 0) (am, 0) (m, 0)) (rescale (bs, 0) (bm, 0) (m, 0))
    ([m, t.1, 0, c.1], c.2 ||| t.2)

/-- VSMAX (R155): fn 0 update, 1 merge, 2 init. -/
def execVsmax (d a b : BitVec 6) (k : BitVec 3) (f : BitVec 4) (s : State) : Res :=
  s.vRun fun _ c =>
    let g := fun (v : VReg) (j : Nat) => (lane v j).toNat
    let o := c.vreg d; let x := c.vreg a; let y := c.vreg b
    let r := if f = 2 then ([f32ninf, 0, 0, 0], (0 : Flags))
             else if f = 0 then smaxUpdate (g o 0) (g o 1) (g o 2) (g o 3) (enabledLanes x (c.mreg k))
             else smaxMerge (g x 0) (g x 1) (g x 2) (g x 3) (g y 0) (g y 1) (g y 2) (g y 3)
    (c.setV d (setLow o r.1), r.2)

/-- VSMXN at one lane (R49, R156). Log entry 30 (DEDUCED). -/
def smxnLane (m s k cnt x : Nat) : Nat × Flags :=
  let tested := nanFlags32 [cnt]
  if isNan32 m then (0x7FC00000, 0)
  else if isZero32 cnt || m = f32ninf then (0, tested ||| fEmptyRow)
  else if m = f32pinf then (if x = f32pinf then frDiv (f32one, tested) (k, 0) else (0, tested ||| nanFlags32 [x]))
  else frDiv (frFn 2 (frSub (x, tested) (m, 0))) (s, 0)

/-- VSMXN (R156). -/
def execVsmxn (d a b : BitVec 6) (k : BitVec 3) (s : State) : Res :=
  s.vLanes d k fun _ c j =>
    let y := c.vreg b
    w32 (smxnLane (lane y 0).toNat (lane y 1).toNat (lane y 2).toNat (lane y 3).toNat (lane (c.vreg a) j).toNat)

end Sys2Proof.Machine
end

