-- ==== Sys2Proof/Machine/Copy.lean ====
section
/-! DEFINITION. The C stream (R211 to R235): address registers, the issue of copies, their units and completion, splice
transfers, collectives, tokens and fences; and the bank loads and operand fetches of the matrix engine that read through it
(R196, R204, R222). -/

namespace Sys2Proof.Machine

/-! ## Address registers (R211) -/

/-- Address register. -/
def Ctx.ar (c : Ctx) (r : BitVec 4) : W64 := c.cp.a[r.toNat]'r.isLt

/-- Write an address register. -/
def Ctx.setAr (c : Ctx) (r : BitVec 4) (v : W64) : Ctx := { c with cp := { c.cp with a := c.cp.a.set r.toNat v r.isLt } }

/-- CLA (R211). -/
def execCla (d : BitVec 4) (k : BitVec 2) (v : BitVec 16) (s : State) : Res :=
  let old := s.me.ar d
  let m : W64 := (0xFFFF : W64) <<< (16 * k.toNat)
  let new := if k = 0 then v.setWidth 64 else (old &&& ~~~m) ||| (v.setWidth 64 <<< (16 * k.toNat))
  .next ({ s with me := s.me.setAr d new }).retire

/-- CADD of an immediate (R211). -/
def execCadd (d : BitVec 4) (i : BitVec 20) (s : State) : Res :=
  .next ({ s with me := s.me.setAr d (s.me.ar d + i.signExtend 64) }).retire

/-- CADD of a register (R211). -/
def execCaddReg (d r : BitVec 4) (s : State) : Res :=
  .next ({ s with me := s.me.setAr d (s.me.ar d + s.me.ar r) }).retire

/-! ## Errors and completion of copies (R213, R215) -/

/-- A copy in the context in focus meets an error; its first one is kept (R215). Log entry 40 (DEDUCED). -/
def State.cpErr (s : State) (k : Copy) (e : CFault) : State :=
  match e with
  | none => s
  | some x =>
    if s.me.cp.errs.any fun y => y.seq == k.seq then s
    else
      let y : CErr := { seq := k.seq, sb := sbOf k.i, cause := x.1, val := x.2 }
      { s with me := { s.me with cp := { s.me.cp with errs := s.me.cp.errs ++ [y] } } }

/-- Operand register `n` of a copy. -/
def Copy.op (k : Copy) (n : Nat) : W64 := k.ops.getD n 0

/-- The writer that a copy is (R311). -/
def Copy.writer (k : Copy) (c : Ctx) : Writer := { kind := 2, ctx := c.id, st := 3, seq := k.seq }

/-- The oldest copy stands so. -/
def Ctx.setHead (c : Ctx) (k : Copy) : Ctx := { c with cp := { c.cp with copies := k :: c.cp.copies.tail } }

/-- The oldest copy of the focus stands so. -/
def State.setHead (s : State) (k : Copy) : State := { s with me := s.me.setHead k }

/-- The context that a CXFER is addressed to (R224). -/
def Copy.target (k : Copy) (s : State) : BitVec 12 := ctxIdOf (instOf s.me.id) ((k.op 0).extractLsb' 44 12).toNat

/-- Bytes of a CXFER (R224). -/
def Copy.xferLen (k : Copy) : Nat := ((k.op 1).extractLsb' 40 24).toNat

/-- The copy engine may begin with its oldest copy, or with its next unit: the C stream may issue, or the context has been
removed while a splice instruction was incomplete (R337), and no bound has expired (R214, R282). -/
def State.copyStarts (s : State) (k : Copy) : Bool :=
  (canIssue s .c && !k.expired s.me.runCc) || (s.hub.boot = 1 && s.me.life = .removed)

/-- A transfer of the context in focus finds no way to its target: the cause, and the socket of the core, or of the home of its
save area (R271, R339, R348). -/
def State.noWay (s : State) (dst : BitVec 12) : CFault :=
  match s.ctx? dst with
  | some d =>
    (match s.reach s.me d 0 0 true with
     | .err e => some (e, if d.away then homeSocket s (s.imagePa d 0) else BitVec.ofNat 32 (s.socketOf dst))
     | _ => none)
  | none => (s.unanswered (s.socketOf s.me.id) (s.socketOf dst)).map fun e => (e, BitVec.ofNat 32 (s.socketOf dst))

/-- A CXFER that has become the oldest incomplete copy leaves for its target, or finds no way to it (R224, R225, R348). Its time
counts from its queue head, at every level (R289). Log entry 49 (DEDUCED). -/
def State.startHead (s : State) : State :=
  match s.me.cp.copies with
  | k :: _ =>
    (match k.i with
     | .cxfer .. =>
       if k.sent || !s.copyStarts k then s
       else
         let dst := k.target s
         let from_ := s.socketOf s.me.id; let to_ := s.socketOf dst
         let s := s.setHead { k with sent := true }
         match s.noWay dst with
         | some e => s.cpErr k (some e)
         | none =>
           let first := Nat.max s.cc (k.issueCc + latency s.hub from_ to_)
           let f : XferFlight := { src := s.me.id, seq := k.seq, dst := dst, h := (k.op 0).extractLsb' 36 8,
                                   off := ((k.op 0).extractLsb' 0 32).toNat, bytes := [], first := first,
                                   due := Nat.max s.cc (k.issueCc + latency s.hub from_ to_ + (k.xferLen + 191) / 192) }
           { s with xfers := s.xfers ++ [f] }
     | _ => s)
  | [] => s

/-- The oldest incomplete copy completes: its counts fall (R213). One that cannot stop part-way and whose bound has expired
traps as completed (R282). Log entry 40 (DEDUCED). -/
def State.endCopy (s : State) : State :=
  match s.me.cp.copies with
  | [] => s
  | k :: rest =>
    let s := if k.splice && k.expired s.me.runCc && s.me.life = .running && !s.me.t.hmode then
        s.takeTrapFrom none 0x49 (boundTval 3 0 none k.seq)
      else s
    let q := sbOf k.i
    let n := s.me.cp.sb[q.toNat]'q.isLt
    let c := s.me.freeAll k.handles
    let sb := c.cp.sb.set q.toNat (n - 1) q.isLt
    let c := { c with cp := { c.cp with copies := rest, sb := sb }, piC := 0, c := c.c.retest, s := c.s.retest,
                      hb := { c.hb with copied := s.tick + 1 } }
    { s with me := c }

/-- The oldest incomplete copy completes, and the copy engine goes on to the next (R213). -/
def State.finishCopy (s : State) : State := s.endCopy.startHead

/-! ## Issue (R212, R215) -/

/-- What a copy instruction captures at issue. -/
structure Capture where
  ops : List W64
  handles : List (BitVec 8)
  pages : List (Nat × Nat) := []
  table : List W32 := []
  err : CFault := none

/-- The copy issues in state `s1`, in which its translations have been made; it holds in `s` while the copy engine, its
scoreboard token or a handle is full (R18, R22, R212). -/
def State.cIssue (s s1 : State) (i : Instr) (x : Capture) : Res :=
  let q := sbOf i
  if 32 ≤ s.me.cp.copies.length || (s.me.cp.sb[q.toNat]'q.isLt) = 65535 then .next (s.hold 7 0)
  else
    match s1.me.busyAll x.handles with
    | none => .next (s.hold 7 (x.handles.headD 0).toNat)
    | some c =>
      let st := s.strm
      let k : Copy := { i := i, seq := st.seq, addr := st.restart, ops := x.ops, pages := x.pages, scope := mScope s.me st,
                        order := mOrder s.me st, cache := mCache s.me st, headCc := st.headCc.getD s.me.runCc,
                        bound := boundOf st.pfx, handles := x.handles, table := x.table, take := s.me.take, issueCc := s.cc,
                        sent := false, remote := [], dsl := (s.me.headed st).dsl, sat := (s.me.moddefAt st).getLsbD 1 }
      let sb := c.cp.sb.set q.toNat ((c.cp.sb[q.toNat]'q.isLt) + 1) q.isLt
      let s2 := ({ s1 with me := { c with cp := { c.cp with copies := c.cp.copies ++ [k], sb := sb } } }).cpErr k x.err
      .next (if s.me.cp.copies.isEmpty then (s2.retire).startHead else s2.retire)

/-- A trap, taken in state `s1` in which the accesses of the instruction's checks have been made, once it may be taken. -/
def State.trapIn (s s1 : State) (cause : BitVec 7) (tval : W64) : Res :=
  (if s.mayTrap s.cur.st s.cur.cl then s1 else s).trapR cause tval

/-- Translate the pages of a copy, else PAGE_FAULT at the first faulting address (R215). -/
def State.cTranslate (s s1 : State) (wr : Bool) (segs : List (Nat × Nat)) (pages : List (Nat × Nat))
    (go : List (Nat × Nat) → State → Res) : Res :=
  match captures (instOf s.me.id) wr segs pages s1 with
  | .hold => .next (s.hold 0 0)
  | .fault va s2 => s.trapIn s2 0x10 (BitVec.ofNat 64 va)
  | .ok pages s2 => go pages s2

/-! ## Tile copies (R216 to R219) -/

/-- A copy descriptor (R216). -/
structure Desc where
  base : W64
  len : Nat
  n1 : Nat
  n2 : Nat
  st1 : Int
  st2 : Int
  toff : Nat
  bad : Bool

/-- The descriptor in four registers. -/
def descOf (ops : List W64) : Desc :=
  let r := fun n => ops.getD n (0 : W64)
  { base := r 0, len := ((r 1).extractLsb' 40 24).toNat, n1 := ((r 1).extractLsb' 20 20).toNat,
    n2 := ((r 1).extractLsb' 0 20).toNat, st1 := ((r 2).extractLsb' 32 32).toInt, st2 := ((r 2).extractLsb' 0 32).toInt,
    toff := ((r 3).extractLsb' 0 32).toNat, bad := (r 3).extractLsb' 32 32 ≠ 0 }

/-- Rows of the copy. -/
def Desc.rows (d : Desc) : Nat := d.n1 * d.n2

/-- Global address of row r, in row order: i2 outer, i1 inner (R216). -/
def Desc.row (d : Desc) (r : Nat) : Nat :=
  (((d.base.toNat : Int) + (r / d.n1 : Nat) * d.st2 + (r % d.n1 : Nat) * d.st1) % 2 ^ 64).toNat

/-- The four registers from a[d] on. -/
def descRegs (c : Ctx) (d : BitVec 4) : List W64 := [c.ar d, c.ar (d + 1), c.ar (d + 2), c.ar (d + 3)]

/-- First tile byte of the copy (R216). -/
def tileStart (t : Tile) (slot : Nat) (toff : Nat) : Nat :=
  if t.level = 3 then toff + slot * (t.size.toNat / t.slots.toNat) else toff

/-- Bytes of the tile, or of a ring's slot, from which the extent of a copy counts. -/
def tileRoom (t : Tile) : Nat := if t.level = 3 then t.size.toNat / t.slots.toNat else t.size.toNat

/-- The checks 1 to 4 of R217: cause and TVAL of the first that fails. `bad`: a further COPY_FAULT and its TVAL; `gl`, `tl`:
bytes of a row on the global and on the tile side. -/
def descCheck (c : Ctx) (a : BitVec 4) (h slot : BitVec 8) (bad : Option (BitVec 4)) (gl tl : Nat) : Option (BitVec 7 × W64) :=
  let t := c.tile h
  let d := descOf (descRegs c a)
  let tv : W64 := a.setWidth 64
  if !t.valid then some (0x16, h.setWidth 64)
  else if d.len = 0 || d.n1 = 0 || d.n2 = 0 || d.bad || (slot ≠ 0 && t.level ≠ 3) ||
      (t.level = 3 && t.slots.toNat ≤ slot.toNat) then some (0x38, tv)
  else
    match bad with
    | some r => some (0x38, r.setWidth 64)
    | none =>
      if tileRoom t < d.toff + d.rows * tl then some (0x1A, tv)
      else if d.base.extractLsb' 56 8 ≠ 0 then some (0x14, d.base)
      else
        match (List.range d.rows).find? fun r => 2 ^ 56 < d.row r + gl with
        | some r => some (0x14, BitVec.ofNat 64 (d.row r))
        | none => none

/-- The global ranges of a descriptor's rows, in row order. -/
def Desc.segs (d : Desc) (gl : Nat) : List (Nat × Nat) := (List.range d.rows).flatMap fun r => pageSegs (d.row r) gl

/-- A tile copy at its queue head. -/
def State.tileCopy (s : State) (i : Instr) (a : BitVec 4) (h slot : BitVec 8) (wr : Bool) (bad : Option (BitVec 4)) (gl tl : Nat) :
    Res :=
  match descCheck s.me a h slot bad gl tl with
  | some e => s.trapR e.1 e.2
  | none =>
    let ops := descRegs s.me a
    s.cTranslate s wr ((descOf ops).segs gl) [] fun pages s1 =>
      s.cIssue s1 i { ops := ops, handles := [h], pages := pages }

/-- Bytes of a transposing copy's record row (R218). Log entry 43 (DEDUCED). -/
def trRow (t : Tile) (qt : Nat) : Nat := t.cols.toNat / 256 * recBytes (planesOf t.fmt.toNat qt false)

/-- Bytes of a transposing copy's global row (R218). Log entry 43 (DEDUCED). -/
def trLen (t : Tile) : Nat :=
  let f := t.fmt.toNat
  if fmtIsBlock f then blockRowBytes f t.cols.toNat else t.cols.toNat * fmtBits f / 8

/-- What a transposing copy refuses beyond R217: TVAL is d for its tile and fields, as R217 gives, else the register of the
failing field (R218, R233). -/
def trBad (t : Tile) (d : Desc) (a : BitVec 4) (qt : BitVec 8) : Option (BitVec 4) :=
  if t.level ≠ 1 || (qt ≠ 0 && t.fmt ≠ 0xF) || t.cols.toNat % 256 ≠ 0 then some a
  else if d.len ≠ trLen t then some (a + 1)
  else if d.toff % trRow t qt.toNat ≠ 0 then some (a + 3) else none

/-- CCPY from global memory to a tile; with t = 1 field s holds the Q4 type (R217, R218). -/
def execCcpy (a : BitVec 4) (q : BitVec 3) (h sl : BitVec 8) (t : BitVec 1) (s : State) : Res :=
  let tl := s.me.tile h
  let d := descOf (descRegs s.me a)
  if t = 0 then s.tileCopy (.ccpy a q h sl t) a h sl false none d.len d.len
  else s.tileCopy (.ccpy a q h sl t) a h 0 false (trBad tl d a sl) d.len (trRow tl sl.toNat)

/-- CCPY from a tile to global memory; t = 1 is a COPY_FAULT (R217). -/
def execCcpyOut (a : BitVec 4) (q : BitVec 3) (h sl : BitVec 8) (t : BitVec 1) (s : State) : Res :=
  let d := descOf (descRegs s.me a)
  s.tileCopy (.ccpyOut a q h sl t) a h sl true (if t = 1 then some a else none) d.len d.len

/-- Bytes of an element of CCPYS; none for a format or level it refuses: a ring is no row tile (R219). Log entry 113 (DEDUCED). -/
def sparseWidth (t : Tile) : Option Nat :=
  if t.level ≠ 0 then none
  else if [0x6, 0x7, 0x3, 0x4].contains t.fmt.toNat then some 1
  else if [0x1, 0x2].contains t.fmt.toNat then some 2 else none

/-- Bytes of a source row of CCPYS (R219). -/
def sparseRow (len eb : Nat) : Nat := len / 2 + len / (8 * eb)

/-- CCPYS (R219); a len that is no multiple of 8·eb names its register (R233). -/
def execCcpys (a : BitVec 4) (q : BitVec 3) (h sl : BitVec 8) (s : State) : Res :=
  let d := descOf (descRegs s.me a)
  match sparseWidth (s.me.tile h) with
  | none => s.tileCopy (.ccpys a q h sl) a h sl false (some a) d.len d.len
  | some eb =>
    s.tileCopy (.ccpys a q h sl) a h sl false (if d.len % (8 * eb) ≠ 0 then some (a + 1) else none) (sparseRow d.len eb) d.len

/-- A 2:4 row: its dense bytes; none when a group's positions are out of order (R219). -/
def sparseExpand (eb len : Nat) (src : List CByte) : Option (List CByte) :=
  let a := src.toArray
  let groups := len / (4 * eb)
  let at_ := fun (k : Nat) => (a.getD k none)
  let metaOf := fun (q : Nat) => (at_ (len / 2 + q / 2)).map fun b => b.toNat / 16 ^ (q % 2) % 16
  if (List.range groups).any fun q => match metaOf q with | some m => decide (m / 4 ≤ m % 4) | none => false then none
  else
    some ((List.range groups).flatMap fun q =>
      match metaOf q with
      | none => List.replicate (4 * eb) none
      | some m => (List.range 4).flatMap fun e => (List.range eb).map fun b =>
          if e = m % 4 then at_ (2 * q * eb + b) else if e = m / 4 then at_ ((2 * q + 1) * eb + b) else some 0)

/-- A row of a transposing copy as the bytes of its chunk records (R218). -/
def transpose (t : Tile) (qt : Nat) (src : List CByte) : List CByte :=
  let a := src.toArray
  let f := t.fmt.toNat
  let n := fmtBits f
  let p := planesOf f qt false
  let at_ := fun (k : Nat) => a.getD k none
  let sig := fun (e : Nat) =>
    let bytes := (List.range ((n + 7) / 8)).map fun b => at_ (e * n / 8 + b)
    if bytes.any (·.isNone) then none
    else
      let x := leNat (bytes.map (·.getD 0)) / 2 ^ (e * n % 8) % 2 ^ n
      some (if f = 0xF && qt ≠ 0 then (q4Value qt x % 256).toNat else x)
  (List.range (t.cols.toNat / 256)).flatMap fun c =>
    let sigs := ((List.range 256).map fun i => sig (256 * c + i)).toArray
    ((List.range p).flatMap fun k => (List.range 64).map fun b =>
      let four := (List.range 4).map fun j => (sigs.getD (4 * b + j) none)
      if four.any (·.isNone) then (none : CByte)
      else some (BitVec.ofNat 8 (packNat 2 (four.map fun x => x.getD 0 / 4 ^ k % 4)))) ++
    ((List.range 8).map fun b => if fmtIsBlock f then at_ (t.cols.toNat * n / 8 + 8 * c + b) else some 0) ++
    List.replicate 24 (some 0)

/-! ## Weight streams (R221, R222) -/

/-- CTAB (R221): the entries are read, as the earlier copies left them, and checked at issue. The tile's level is not checked.
Log entries 41, 42 (DEDUCED). Log entry 112 (DESIGN CHOICE). -/
def execCtab (q : BitVec 3) (h : BitVec 8) (s : State) : Res :=
  let t := s.me.tile h
  if !t.valid then s.trapR 0x16 (h.setWidth 64)
  else if t.size.toNat < 1024 then s.trapR 0x1A 0
  else if !s.me.cp.copies.isEmpty then .next (s.hold 0 0)
  else
    let r := s.me.cpTileRead t.base.toNat 0 1024
    let s1 := (s.meetWords s.me.id false t.base.toNat 1024).logTile s.me t.base.toNat r.2
    match r.2 with
    | some e => s.cIssue s1 (.ctab q h) { ops := [], handles := [h], err := some e }
    | none =>
      let tab := (List.range 256).map fun n => BitVec.ofNat 32 (s.me.spad.readLE (t.base.toNat + 4 * n) 4)
      match tab.findIdx? fun e => !codeOk e with
      | some n => s.trapIn s1 0x3D (BitVec.ofNat 64 n)
      | none => s.cIssue s1 (.ctab q h) { ops := [], handles := [h], table := tab }

/-- CWST (R222). Log entry 114 (DESIGN CHOICE). -/
def execCwst (a : BitVec 4) (q : BitVec 3) (s : State) : Res :=
  let p := s.me.ar a
  let r := s.me.ar (a + 1)
  let n := (r >>> 32).toNat
  if 14 < a.toNat then s.trapR 0x38 (a.setWidth 64)
  else if n = 0 || r.extractLsb' 0 16 = 0 || r.extractLsb' 16 16 ≠ 0 then s.trapR 0x38 ((a + 1).setWidth 64)
  else if p.extractLsb' 56 8 ≠ 0 || 2 ^ 56 < p.toNat + n then s.trapR 0x14 p
  else s.cTranslate s false (pageSegs p.toNat n) [] fun pages s1 =>
    s.cIssue s1 (.cwst a q) { ops := [p, r], handles := [], pages := pages }

/-- The CWST that has reached the copy engine makes a written shadow table active and captures the table (R222, R308). -/
def Ctx.reachCwst (c : Ctx) (k : Copy) (rest : List Copy) : Ctx :=
  let tab := if c.cp.shadowWritten then c.cp.shadowTab else c.cp.activeTab
  let k := { k with table := tab.toList }
  { c with cp := { c.cp with activeTab := tab, shadowWritten := false, copies := k :: rest } }

/-- The stream-form MWLD that holds at the queue head leaves it, paired with the copy of number `seq`. -/
def State.pairHead (s : State) (f : BitVec 4) (seq : W64) : State :=
  let st := s.me.e
  let m : MCur := { i := .mwldS f, addr := st.restart, seq := st.seq, cache := mCache s.me st,
                    headCc := st.headCc.getD s.me.runCc, bound := boundOf st.pfx, fetched := true, pair := some seq }
  { s with me := { s.me with e := st.next (st.pc + 4) s.cc, m := { s.me.m with cur := some m, want := none } } }

/-- CWST_PAIRING: the oldest copy is a CWST; it reaches the copy engine and pairs with the stream-form MWLD that holds at its
queue head, unless that one's column limit is passed (R196, R222). -/
def execCwstPairing (s : State) : Res :=
  if !canIssue s .c then .next s
  else
    match s.me.cp.copies with
    | [] => .next s
    | k :: rest =>
      (match (if k.expired s.me.runCc then .cnop else k.i) with
       | .cwst _ _ =>
         let s := { s with me := if k.table.isEmpty then s.me.reachCwst k rest else s.me }
         (match s.me.m.want with
          | some f =>
            if weightLimit f.toNat < ((k.op 1).extractLsb' 0 16).toNat then
              let t := { s with cur := { s.cur with st := .m } }
              if t.mayTrap .m 0 then t.endCopy.trapR 0x31 s.me.e.pc else .next s
            else .next (s.pairHead f k.seq)
          | none => .next s)
       | _ => .next s)

/-! ## Operand fetch and bank loads (R196, R204, R222) -/

/-- The tile that an instruction with an operand fetch fills. -/
def fetchTile : Instr → Option (BitVec 8)
  | .mgoF a _ _ => some a
  | .mwldF h _ _ => some h
  | _ => none

/-- The operand fetch that is to run, or in progress: the instruction, its tile, the first address and the length (R204). -/
def State.fetching (s : State) : Option (MCur × BitVec 8 × Nat × Nat) :=
  match s.me.m.cur with
  | none => none
  | some m =>
    match (if m.fetched then none else fetchTile m.i) with
    | none => none
    | some h => some (m, h, m.base.toNat, (s.me.tile h).size.toNat)

/-- The operand fetch of the long matrix instruction has moved `put` bytes, all of them if `done`. -/
def State.fetchPut (s : State) (m : MCur) (pages : List (Nat × Nat)) (put : Nat) (done : Bool) : State :=
  { s with me := { s.me with m := { s.me.m with cur := some { m with pages := pages, put := put, fetched := done } } } }

/-- A failing operand fetch whose translations reach `k` bytes has written some of the atoms before the failure, which ones is
open (R204). Log entry 8 (DESIGN CHOICE). -/
def State.partFetch (s : State) (m : MCur) (pages : List (Nat × Nat)) (base va k : Nat) : State :=
  let n := (Nat.min k (Config.freeCount s.tick) / 32 - m.put / 32) * 32
  match s.cpGlobRead pages m.cache (va + m.put) n with
  | .ok (bs, _, s) => (s.cpTile base m.put bs).2
  | _ => s

/-- One atom of an operand fetch is read and written, its pages having been translated (R204, R312). -/
def fetchAtom (s : State) : State :=
  if !s.mRuns then s
  else
    match s.fetching with
    | none => s
    | some (m, h, va, n) =>
      if 2 ^ 56 < va + n || n ≤ m.put + 32 then s
      else
        match (if m.pages.isEmpty then captures (instOf s.me.id) false (pageSegs va n) [] s else .ok m.pages s) with
        | .ok pages s =>
          (match s.cpGlobRead pages m.cache (va + m.put) 32 (m.put = 0) with
           | .ok (bs, none, s) =>
             ((s.cpTile (s.me.tile h).base.toNat m.put bs).2).fetchPut m pages (m.put + 32) false
           | _ => s)
        | _ => s

/-- OPERAND_FETCH_COMPLETE: the rest of the tile is filled (R204). One whose bytes pass the address 2^56 has no pointer.
Log entry 38 (DEDUCED). Log entry 108 (DESIGN CHOICE). -/
def execOperandFetchComplete (s : State) : Res :=
  if !s.mRuns then .next s
  else
    match s.fetching with
    | none => .next s
    | some (m, h, va, n) =>
      let base := (s.me.tile h).base.toNat
      let rest := n - m.put
      if 2 ^ 56 < va + n then s.stepTrap (s.asStep.trap 0x14 m.base)
      else
        match (if m.pages.isEmpty then captures (instOf s.me.id) false (pageSegs va n) [] s else .ok m.pages s) with
        | .hold => .next s
        | .fault bad s1 =>
          let pages := match captures (instOf s.me.id) false (pageSegs va (bad - va)) [] s with | .ok p _ => p | _ => []
          s.stepTrap ((s1.partFetch m pages base va (bad - va)).asStep.trap 0x10 (BitVec.ofNat 64 bad))
        | .ok pages s1 =>
          match s1.cpGlobRead pages m.cache (va + m.put) rest (m.put = 0) with
          | .hold => .next s
          | .err c => s.stepTrap (s1.asStep.trap c m.base)
          | .ok (bs, e, s2) =>
            match e, bs.findIdx? (·.isNone) with
            | some x, some k =>
              s.stepTrap ((s2.partFetch m pages base va (m.put + k)).asStep.trap x.1 (BitVec.ofNat 64 (va + m.put + k)))
            | _, _ => .next (((s2.cpTile base m.put bs).2).fetchPut m pages n true)

/-- The cells of a memory from `a` on, `n` bytes, moved to 0. -/
def Mem.slice (m : Mem) (a n : Nat) : List Host.Cell :=
  (m.cells.filter fun c => a ≤ c.1 && c.1 < a + n).map fun c => (c.1 - a, c.2)

/-- The shadow bank with columns 0 to nw − 1 filled (R196). -/
def Bank.fill (k : Bank) (fmt : BitVec 4) (nw : Nat) (cells : List Host.Cell) : Bank :=
  { fmt := fmt, nw := BitVec.ofNat 14 nw, loaded := true, bytes := k.bytes.overlay [(0, nw * weightRowBytes fmt.toNat)] cells }

/-- A tile-form MWLD writes the bank, or traps on a failing word (R196, R291). -/
def State.loadTile (s : State) (h : BitVec 8) (f : BitVec 4) : Res :=
  let t := s.me.tile h
  let n := t.rows.toNat * weightRowBytes f.toNat
  match s.me.firstBad t.base.toNat n with
  | some w =>
    let sh := { s.me.m.shadow with loaded := false }
    s.stepTrap (({ s with me := { s.me with m := { s.me.m with shadow := sh } } }).asStep.eccTrap
      (tilePtr s.me.lcore h (8 * w - t.base.toNat)))
  | none =>
    let sh := s.me.m.shadow.fill f t.rows.toNat (s.me.spad.slice t.base.toNat n)
    .next ((({ s with me := { s.me with m := { s.me.m with shadow := sh } } }).meetOwn [(t.base.toNat, n)])).mDone

/-- The cache policy of a weight stream's reads, which allocate in SRAM only under the retain policy (R308). -/
def Copy.streamCache (k : Copy) : BitVec 2 := if k.cache = 2 then 2 else 1

/-- Bytes of a weight stream (R222). -/
def Copy.streamLen (k : Copy) : Nat := (k.op 1 >>> 32).toNat

/-- A paired stream-form MWLD and its CWST complete (R222). Log entry 44 (DEDUCED). -/
def State.loadStream (s : State) (f : BitVec 4) (k : Copy) : Res :=
  let nw := ((k.op 1).extractLsb' 0 16).toNat
  let out := nw * weightRowBytes f.toNat
  let o := k.got.length
  match s.cpGlobRead k.pages k.streamCache ((k.op 0).toNat + o) (k.streamLen - o) (o = 0) with
  | .hold => .next s
  | .err _ => .next s
  | .ok (bs, e, s) =>
    let bs := k.got ++ bs
    let r := if bs.any (·.isNone) then .error 0 else decompress k.table (bs.map (·.getD 0)) 0 0 0 out []
    match r with
    | .ok o =>
      let sh := s.me.m.shadow.fill f nw (o.reverse.zipIdx.map fun p => (p.2, p.1))
      .next ({ s with me := { s.me with m := { s.me.m with shadow := sh } } }).mDone.finishCopy
    | .error off =>
      let junk := (List.range out).map fun a => (a, Config.freeByte s.tick a)
      let sh := { s.me.m.shadow.fill f nw junk with loaded := false }
      let s := s.cpErr k (e.or (some (0x3C, BitVec.ofNat 32 off)))
      .next ({ s with me := { s.me with m := { s.me.m with shadow := sh } } }).mDone.finishCopy

/-- MWLD_COMPLETE (R196). Log entry 44 (DEDUCED). -/
def execMwldComplete (s : State) : Res :=
  if !s.mRuns then .next s
  else
    match s.me.m.cur with
    | none => .next s
    | some m =>
      match m.i with
      | .mwld h f => s.loadTile h f
      | .mwldF h _ f => if m.fetched then s.loadTile h f else .next s
      | .mwldS f =>
        (match m.pair, s.me.cp.copies with
         | some _, k :: _ => if s.copyStarts k then s.loadStream f k else .next s
         | _, _ => .next s)
      | _ => .next s

/-! ## Gather and scatter (R223) -/

/-- The table operands of CGATH and CSCAT: len, n, nrows, stride, toff (R223). -/
structure Gath where
  len : Nat
  n : Nat
  nrows : Nat
  stride : Nat
  toff : Nat
  bad : Bool

/-- The operands in a[ac] to a[ac+2]. -/
def gathOf (r0 r1 r2 : W64) : Gath :=
  { len := (r0.extractLsb' 40 24).toNat, n := (r0.extractLsb' 20 20).toNat, nrows := (r1.extractLsb' 32 32).toNat,
    stride := (r1.extractLsb' 0 32).toNat, toff := (r2.extractLsb' 0 32).toNat,
    bad := r0.extractLsb' 0 20 ≠ 0 || r2.extractLsb' 32 32 ≠ 0 }

/-- The padding index (R223). -/
def padIndex : W32 := 0xFFFFFFFF

/-- The checks 2 to 5 of R223: cause and TVAL of the first that fails. -/
def gathCheck (s : State) (a b c : BitVec 4) (h : BitVec 8) : Option (BitVec 7 × W64) :=
  let t := s.me.tile h
  let base := s.me.ar a; let idx := s.me.ar b
  let g := gathOf (s.me.ar c) (s.me.ar (c + 1)) (s.me.ar (c + 2))
  let tv : W64 := c.setWidth 64
  if !t.valid then some (0x16, h.setWidth 64)
  else if g.len = 0 || g.n = 0 || g.nrows = 0 || g.bad then some (0x38, tv)
  else if t.size.toNat < g.toff + g.n * g.len then some (0x1A, tv)
  else
    match endCheck s idx (4 * g.n) with
    | some e => some (e, idx)
    | none => if base.extractLsb' 56 8 ≠ 0 then some (0x14, base) else none

/-- CGATH or CSCAT at its queue head (R223). Log entries 45, 46 (DEDUCED). -/
def State.gather (s : State) (i : Instr) (a b c : BitVec 4) (h : BitVec 8) (wr : Bool) : Res :=
  match gathCheck s a b c h with
  | some e => s.trapR e.1 e.2
  | none =>
    let base := s.me.ar a; let idx := s.me.ar b
    let ops := [base, idx, s.me.ar c, s.me.ar (c + 1), s.me.ar (c + 2)]
    let g := gathOf (s.me.ar c) (s.me.ar (c + 1)) (s.me.ar (c + 2))
    if !s.me.cp.copies.isEmpty then .next (s.hold 0 0)
    else s.cTranslate s false (endSegs idx (4 * g.n)) [] fun pages s1 =>
      match s1.endRead pages (mCache s.me s.strm) s.cc (ptrEnd s.me idx) 0 (4 * g.n) with
      | .hold => .next (s.hold 0 0)
      | .err e => s.trapIn s1 e idx
      | .ok (bs, e, s2) =>
        match e with
        | some x => s.trapIn s2 x.1 idx
        | none =>
          let m := (bs.map (·.getD 0)).toArray
          let tab := (List.range g.n).map fun k =>
            BitVec.ofNat 32 (leNat ((List.range 4).map fun j => m.getD (4 * k + j) 0))
          match tab.findIdx? fun x => x ≠ padIndex && g.nrows ≤ x.toNat with
          | some k => s.trapIn s2 0x38 (BitVec.ofNat 64 k)
          | none =>
            let rows := tab.filter (· ≠ padIndex)
            let at_ := fun (x : W32) => base.toNat + x.toNat * g.stride
            match rows.find? fun x => 2 ^ 56 < at_ x + g.len with
            | some _ => s.trapIn s2 0x14 base
            | none => s.cTranslate s2 wr (rows.flatMap fun x => pageSegs (at_ x) g.len) [] fun pages s3 =>
              s.cIssue s3 i { ops := ops, handles := h :: endHandles idx, pages := pages, table := tab }

/-- CGATH (R223). -/
def execCgath (a b c : BitVec 4) (q : BitVec 3) (h : BitVec 8) (s : State) : Res := s.gather (.cgath a b c q h) a b c h false
/-- CSCAT (R223). -/
def execCscat (a b c : BitVec 4) (q : BitVec 3) (h : BitVec 8) (s : State) : Res := s.gather (.cscat a b c q h) a b c h true

/-! ## Splice transfers (R224, R225) -/

/-- CXFER (R224); a nonzero [39:32] of a[d+1] names its register (R233). -/
def execCxfer (a : BitVec 4) (q : BitVec 3) (h : BitVec 8) (s : State) : Res :=
  let p := s.me.ar a; let r := s.me.ar (a + 1)
  let t := s.me.tile h
  let len := (r.extractLsb' 40 24).toNat
  let tv : W64 := a.setWidth 64
  if !t.valid then s.trapR 0x16 (h.setWidth 64)
  else if len = 0 then s.trapR 0x38 tv
  else if r.extractLsb' 32 8 ≠ 0 then s.trapR 0x38 ((a + 1).setWidth 64)
  else if t.size.toNat < (r.extractLsb' 0 32).toNat + len then s.trapR 0x1A tv
  else if ptrTag p ≠ 10 || !ptrCheck1 p then s.trapR 0x14 p
  else if !ptrCheck2 s (s.me.headed s.strm) p then s.trapR 0x13 p
  else s.cIssue s (.cxfer a q h) { ops := [p, r], handles := [h] }

/-- The sender's transfer that is on its way. Log entry 49 (DEDUCED). -/
def State.flight (s : State) : Option XferFlight := s.xfers.find? fun f => f.src == s.me.id

/-- The transfer on its way stands so. -/
def State.setFlight (s : State) (f : XferFlight) : State :=
  { s with xfers := s.xfers.map fun x => if x.src == f.src then f else x }

/-- The transfer on its way ends, with the error that its copy takes. -/
def State.endFlight (s : State) (f : XferFlight) (k : Copy) (e : CFault) : State :=
  ({ s with xfers := s.xfers.filter fun x => x.src != f.src }).cpErr k e

/-- The entry of a target's handle in its tile table, as its image holds it. -/
def tileSeg (h : BitVec 8) (c : Ctx) : List (Nat × List Byte) := [(0x1000 + 16 * h.toNat, leBytes 16 (c.tile h).bits)]

/-- A transfer of copy `k` goes on: it reads bytes of the source, arrives at its target, which is checked then, or writes bytes
there: those of an atom if `atoms`, else all (R224, R312). Its first word arrives 10 + 2h cc after it was sent (R8), and the last
is written when the transfer is due (R225); one whose flit is lost, or that finds its way closed, ends (R348, R351). -/
def State.xferStep (s : State) (k : Copy) (f : XferFlight) (atoms : Bool) : State :=
  let len := k.xferLen
  let src := s.me.tile (k.handles.headD 0)
  let o := f.bytes.length
  let upTo := fun (a n : Nat) => if atoms then Nat.min (32 - a % 32) n else n
  if o < len then
    let a := src.base.toNat + ((k.op 1).extractLsb' 0 32).toNat
    match s.ownRead a o (upTo (a + o) (len - o)) with
    | .ok (bs, e, s) =>
      (s.setFlight { f with bytes := f.bytes ++ bs }).cpErr k (e.map fun x => (x.1, x.2 + (k.op 1).extractLsb' 0 32))
    | _ => s
  else if s.cc < f.first then s
  else
    match s.view f.dst, s.noWay f.dst with
    | none, _ => s.endFlight f k (some (0x39, BitVec.ofNat 32 (lcoreOf f.dst)))
    | some _, some e =>
      let s := if f.begun then s.update f.dst (fun c => c.busyDown f.h) (tileSeg f.h) else s
      s.endFlight f k (some e)
    | some d, none =>
      let t := d.tile f.h
      if s.awayHeld d then s
      else if d.life = .removed || (!f.begun && (!t.valid || t.size.toNat < f.off + len)) then
        s.endFlight f k (some (0x39, BitVec.ofNat 32 (lcoreOf f.dst)))
      else if !f.begun then
        if t.busy = 255 then s
        else (s.update f.dst (fun c => c.busyUp f.h) (tileSeg f.h)).setFlight { f with begun := true }
      else
        let n := upTo (t.base.toNat + f.off + f.put) (len - f.put)
        let last := f.put + n = len
        if last && s.cc < f.due then s
        else
          let r := s.tileWrite f.dst t.base.toNat (f.off + f.put) ((f.bytes.drop f.put).take n)
          let s := r.2.cpErr k r.1
          if last then (s.update f.dst (fun c => c.busyDown f.h) (tileSeg f.h)).endFlight f k none
          else s.setFlight { f with put := f.put + n }

/-- CXFER_ARRIVAL: the transfer of the context in focus arrives at its target, running or saved, and is checked there; when its
last byte is due, what is left of it is written (R8, R224, R225, R271). Log entry 49 (DEDUCED). -/
def execCxferArrival (s : State) : Res :=
  let go := fun (s : State) =>
    match s.flight, s.me.cp.copies with
    | some f, k :: _ => if s.cc < f.first || (f.begun && s.cc < f.due) then s else s.xferStep k f false
    | _, _ => s
  .next (go (go (go s)))

/-! ## Collectives (R226 to R228, R338, R358) -/

/-- The contexts that take part with a context in a collective of the instance, in rank order (R226). -/
def State.group (s : State) (c : Ctx) (dsl : Nat) : List Ctx :=
  (List.range 208).filterMap fun n =>
    match s.ctx? (ctxIdOf (instOf c.id) n) with
    | some d => if shareDomain c.member d.member dsl then some d else none
    | none => none

/-- The valid entries of the collective group table, in entry order (R358). -/
def collEntries (h : Hub) : List W64 := h.colltab.toList.filter fun e => e.getLsbD 63

/-- Vexfy ports of the product (R355). -/
def vexfyPorts (product : BitVec 8) : Nat := 6 * (socketsOf product .s).length

/-- This package's rank in the group table; none when the table does not suit a .xp collective (R226, R358). -/
def collRank (h : Hub) : Option Nat :=
  let es := collEntries h
  let port := fun (e : W64) => (e.extractLsb' 16 6).toNat
  if es.length < 2 || (es.filter fun e => port e = 0x3F).length ≠ 1 ||
      es.any (fun e => port e ≠ 0x3F && vexfyPorts h.product ≤ port e) then none
  else es.findIdx? fun e => port e = 0x3F

/-- The port of a rank in the group table. -/
def rankPort (h : Hub) (rank : Nat) : Nat := (((collEntries h).getD rank 0).extractLsb' 16 6).toNat

/-- A Vexfy port carries data: it is up, on an S-die that serves (R1, R355). -/
def State.portUp (s : State) (p : Nat) : Bool :=
  (s.ports.toArray.getD p {}).up && (match (socketsOf s.hub.product .s)[p / 6]? with | some k => s.hub.serves k | none => false)

/-- The S-die that has a Vexfy port. -/
def portSocket (product : BitVec 8) (p : Nat) : Option Nat := (socketsOf product .s)[p / 6]?

/-- The way of the context in focus to a port finds no answer: its S-die is being quiesced, or the die cannot be reached, or the
flit has failed (R339, R348, R351): the cause, and the die's socket. -/
def State.portFault (s : State) (p : Nat) : Option (BitVec 7 × W32) :=
  match portSocket s.hub.product p with
  | none => none
  | some k =>
    (if s.hub.isFenced k then some 0x50 else s.unanswered (s.socketOf s.me.id) k).map fun e => (e, BitVec.ofNat 32 k)

/-- The lowest rank of another package that no port in service reaches (R1, R354); a port of a die that is being quiesced answers
with an error instead (R339). -/
def State.deadRank (s : State) (me : Nat) : Option Nat :=
  (List.range (collEntries s.hub).length).find? fun r =>
    r ≠ me && !s.portUp (rankPort s.hub r) && !((portSocket s.hub.product (rankPort s.hub r)).any s.hub.isFenced)

/-- COLL_CONFIG as the issuer can see it: a group table that does not suit, a rank without a port, a root at or above the group
size (R226, R358). Log entries 47, 107 (DEDUCED). -/
def State.collFault (s : State) (x : BitVec 1) (root members : Nat) (bcast : Bool) : Option W64 :=
  let open_ : W64 := (Config.freeWord s.tick).setWidth 32 |>.setWidth 64
  if x = 1 then
    match collRank s.hub with
    | none => some open_
    | some me =>
      match s.deadRank me with
      | some r => some (BitVec.ofNat 64 r)
      | none => if bcast && members ≤ root then some open_ else none
  else if bcast && members ≤ root then some open_ else none

/-- A CRED or CBCST at its queue head; `unit` bytes per element, `most` elements at most (R226). Log entry 47 (DEDUCED). -/
def State.collective (s : State) (i : Instr) (a b c : BitVec 4) (x : BitVec 1) (unit most : Nat) (bcast : Bool) : Res :=
  let src := s.me.ar a; let dst := s.me.ar b; let r := s.me.ar c
  let n := (r.extractLsb' 0 32).toNat
  let root := (r.extractLsb' 32 8).toNat
  let tv : W64 := c.setWidth 64
  let group := s.group s.me (s.me.headed s.strm).dsl
  let members := if x = 1 then (collEntries s.hub).length else group.length
  let reads := !bcast || (if x = 1 then collRank s.hub = some root
    else (group.findIdx? fun d => d.id == s.me.id) = some root)
  if n = 0 || most < n || r.extractLsb' 40 24 ≠ 0 || (!bcast && root ≠ 0) then s.trapR 0x38 tv
  else
    match (if reads then endCheck s src (unit * n) else if ptrCheck1 src then none else some 0x14) with
    | some e => s.trapR e src
    | none =>
      match endCheck s dst (unit * n) with
      | some e => s.trapR e dst
      | none =>
        match s.collFault x root members bcast with
        | some v => s.trapR 0x3A v
        | none =>
          let rs := if reads then endSegs src (unit * n) else []
          s.cTranslate s false rs [] fun pages s1 =>
            s.cTranslate s1 true (endSegs dst (unit * n)) [] fun wpages s2 =>
              s.cIssue s2 i { ops := [src, dst, r], handles := (if reads then endHandles src else []) ++ endHandles dst,
                              pages := wpages ++ pages }

/-- CRED (R226, R227). -/
def execCred (a b c : BitVec 4) (q : BitVec 3) (x : BitVec 1) (l : BitVec 4) (o : BitVec 2) (s : State) : Res :=
  s.collective (.cred a b c q x l o) a b c x 4 (2 ^ 21) false

/-- CBCST (R226, R228). -/
def execCbcst (a b c : BitVec 4) (q : BitVec 3) (x : BitVec 1) (s : State) : Res :=
  s.collective (.cbcst a b c q x) a b c x 1 (2 ^ 23) true

/-- What every participant must agree on: kind, sat for an isum, op and level, root and n (R226, R227). -/
def Copy.fields (k : Copy) : Option (BitVec 48) :=
  match k.i with
  | .cred _ _ _ _ _ l o => some ((0#1 ++ BitVec.ofBool (o == 3 && k.sat)) ++ (o ++ (l ++ (k.op 2).extractLsb' 0 40)))
  | .cbcst .. => some (2#2 ++ (0#6 ++ (k.op 2).extractLsb' 0 40))
  | _ => none

/-- The copy is a collective of the instance (x = 0), or one across packages (x = 1). -/
def Copy.isColl (k : Copy) (x : BitVec 1) : Bool :=
  match k.i with
  | .cred _ _ _ _ y _ _ | .cbcst _ _ _ _ y => x == y
  | _ => false

/-- Bytes of a contribution to a collective, and of its result (R226). -/
def Copy.span (k : Copy) : Nat :=
  ((k.op 2).extractLsb' 0 32).toNat * (match k.i with | .cred .. => 4 | _ => 1)

/-- The participant of a rank contributes: every one of a reduction, the root of a broadcast (R228). -/
def Copy.gives (k : Copy) (rank : Nat) : Bool :=
  match k.i with
  | .cbcst .. => ((k.op 2).extractLsb' 32 8).toNat == rank
  | _ => true

/-- The combination of the contributions of one element in rank order (R227). -/
def redOne (o : BitVec 2) (sat : Bool) (leaves : List Nat) : Nat × Flags :=
  if o = 3 then redIsum sat leaves
  else if leaves.length = 1 then (leaves.headD 0, 0)
  else if o = 0 then canonicalTree leaves else redExtreme (o == 1) leaves

/-- Element e of a contribution, none where an error concerns it. -/
def elemOf (bs : Array CByte) (e : Nat) : Option Nat :=
  let l := (List.range 4).map fun j => bs.getD (4 * e + j) none
  if l.any (·.isNone) then none else some (leNat (l.map (·.getD 0)))

/-- The result bytes of a reduction over contributions, and the flags raised (R227). -/
def redAll (o : BitVec 2) (sat : Bool) (n : Nat) (srcs : List (Array CByte)) : List CByte × Flags :=
  (List.range n).foldl (fun (r : List CByte × Flags) e =>
    let xs := srcs.map fun b => elemOf b e
    if xs.any (·.isNone) then (r.1 ++ List.replicate 4 none, r.2)
    else
      let v := redOne o sat (xs.map (·.getD 0))
      (r.1 ++ (leBytes 4 v.1).map some, r.2 ||| v.2)) ([], 0)

/-- The result bytes of a collective from what the ranks have contributed, and the flags raised (R227, R228). -/
def Copy.combine (k : Copy) (srcs : List (List CByte)) : List CByte × Flags :=
  match k.i with
  | .cred _ _ _ _ _ _ o => redAll o k.sat ((k.op 2).extractLsb' 0 32).toNat (srcs.map (·.toArray))
  | _ => (srcs.getD ((k.op 2).extractLsb' 32 8).toNat [], 0)

/-- The copy engine of a participant takes part: its streams are not stopped, or it has been removed while its collective was
incomplete (R329, R337). -/
def State.takesPart (s : State) (d : Ctx) (k : Copy) : Bool :=
  d.life = .removed || (d.life = .running && s.hub.lets (instOf d.id) && !d.t.hmode && !k.expired d.runCc)

/-- The oldest copy of a context, where it is a collective of the named group within the instance and takes part (R226). -/
def State.mate (s : State) (d : Ctx) (ids : List (BitVec 12)) : Option Copy :=
  match d.cp.copies with
  | k :: _ => if k.isColl 0 && (s.group d k.dsl).map (·.id) == ids && s.takesPart d k then some k else none
  | [] => none

/-- The collective of the focus ends without a result, with an error (R226, R338, R339). -/
def State.endColl (s : State) (e : BitVec 7 × W32) : State :=
  match s.me.cp.copies with
  | k :: _ => (s.cpErr k (some e)).finishCopy
  | [] => s

/-- The collective of the focus ends with COLL_CONFIG (R226, R338). -/
def State.failColl (s : State) (rank : Nat) : State := s.endColl (0x3A, BitVec.ofNat 32 rank)

/-- What participant `e` contributes does not reach participant `d`: the cause, and the socket of `e` (R339, R348, R351). -/
def State.legFault (s : State) (d e : Ctx) : Option (BitVec 7 × W32) :=
  let a := s.socketOf d.id; let b := s.socketOf e.id
  (if d.id = e.id then none
   else if d.id = s.me.id then s.unanswered a b
   else if (route s.hub a b).isNone then some 0x50 else none).map fun c => (c, BitVec.ofNat 32 b)

/-- The first contribution that does not reach participant `d`, in rank order. -/
def State.legsFault (s : State) (k : Copy) (g : List Ctx) (d : Ctx) : Option (BitVec 7 × W32) :=
  g.zipIdx.findSome? fun p => if k.gives p.2 then s.legFault d p.1 else none

/-- Every contribution's first word has had the time to reach every participant (R8). -/
def State.legsTime (s : State) (g : List Ctx) (ks : List Copy) : Bool :=
  (g.zip ks).all fun p => g.all fun d =>
    d.id == p.1.id || decide (p.2.issueCc + latency s.hub (s.socketOf p.1.id) (s.socketOf d.id) ≤ s.cc)

/-- The result of a collective stands at a participant: it is to be written, and its flags are raised (R227). -/
def Ctx.takeResult (bs : List CByte) (f : Flags) (c : Ctx) : Ctx :=
  match c.cp.copies with
  | k :: _ => (c.raise (f.setWidth 32)).setHead { k with got := bs, put := 0, combined := true }
  | [] => c

/-- NFLAGS of a context, as its image holds it. -/
def flagSeg (c : Ctx) : List (Nat × List Byte) := [(0x018, leBytes 8 c.nflags.toNat)]

/-- A collective of the instance is combined once every participant's oldest copy is the same one and has given its
contribution; where one differs, or a removed one will issue none, it ends without a result (R226, R227, R338), and so it does at
one that a contribution does not reach (R339). Log entries 47, 48 (DEDUCED). -/
def State.localColl (s : State) (k : Copy) : State :=
  let g := s.group s.me k.dsl
  let ids := g.map (·.id)
  let mates := g.map fun c => s.mate c ids
  match g.findIdx? fun c => c.life == .removed && (s.mate c ids).isNone with
  | some r => s.failColl r
  | none =>
    if mates.any (·.isNone) then s
    else
      let ks := mates.filterMap id
      match ks.findIdx? fun x => x.fields != (ks.headD k).fields with
      | some r => ids.foldl (fun s i => s.within i fun t => t.failColl r) s
      | none =>
        if (ks.zipIdx.any fun p => p.1.gives p.2 && p.1.got.length < p.1.span) || !s.legsTime g ks then s
        else
          let r := k.combine (ks.map (·.got))
          let ends := g.map fun d => (d.id, s.legsFault k g d)
          ends.foldl (fun s p => match p.2 with
            | some e => s.within p.1 fun t => t.endColl e
            | none => s.update p.1 (Ctx.takeResult r.1 r.2) flagSeg) s

/-- Element e of the contribution of a remote rank, if its frame has come (R227). -/
def Copy.frame (k : Copy) (rank e : Nat) : Option W32 :=
  (k.remote.find? fun f => f.1 == rank && f.2.1 == e).map fun f => f.2.2

/-- The bytes of a remote contribution; none while a frame is missing. -/
def Copy.frames (k : Copy) (rank : Nat) : Option (List CByte) :=
  let l := (List.range ((k.span + 3) / 4)).map (k.frame rank)
  if l.any (·.isNone) then none
  else some ((l.flatMap fun w => (leBytes 4 (w.getD 0).toNat).map some).take k.span)

/-- The mark of a rank that will contribute nothing: its port is lost, or its participant removed (R338, R354). -/
def goneMark : Nat := 2 ^ 32

/-- The lowest rank that will contribute nothing. -/
def Copy.goneRank (k : Copy) : Option Nat :=
  (List.range 64).find? fun r => k.remote.any fun f => f.1 == r && f.2.1 == goneMark

/-- A .xp collective is combined when every other rank's frames have come; it ends without a result when a rank is lost, or
names another collective (R226, R227, R338, R354). Log entry 107 (DEDUCED). -/
def State.xpColl (s : State) (k : Copy) : State :=
  match k.goneRank, collRank s.hub with
  | some r, _ => s.failColl r
  | none, none => s.failColl ((Config.freeWord s.tick).setWidth 32).toNat
  | none, some me =>
    let ranks := List.range (collEntries s.hub).length
    match ranks.findSome? fun r => if r = me then none else s.portFault (rankPort s.hub r) with
    | some e => s.endColl e
    | none =>
      let heads := ranks.map fun r => if r = me then k.fields else k.heads.lookup r
      if heads.any (·.isNone) then s
      else
        match heads.findIdx? fun x => x != heads.headD none with
        | some r => s.failColl r
        | none =>
          let srcs := ranks.map fun r =>
            if !k.gives r then some [] else if r = me then (if k.got.length < k.span then none else some k.got) else k.frames r
          if srcs.any (·.isNone) then s
          else
            let r := k.combine (srcs.map (·.getD []))
            s.update s.me.id (Ctx.takeResult r.1 r.2) flagSeg

/-- The rank of the context in focus among the participants of its collective. -/
def State.collSelf (s : State) (k : Copy) : Nat :=
  if k.isColl 1 then (collRank s.hub).getD 0
  else ((s.group s.me k.dsl).findIdx? fun d => d.id == s.me.id).getD 0

/-- Who writes the result of a collective: the copy, or the package at the root of a broadcast across packages (R311).
Log entry 109 (DEDUCED). -/
def State.collWriter (s : State) (k : Copy) : Writer :=
  let root := ((k.op 2).extractLsb' 32 8).toNat
  match k.i with
  | .cbcst _ _ _ _ x =>
    if x = 1 && collRank s.hub ≠ some root then
      { kind := 4, ctx := s.me.id, pkg := ((collEntries s.hub).getD root 0).extractLsb' 0 16 }
    else k.writer s.me
  | _ => k.writer s.me

/-- The collective of the focus goes on: it reads its contribution, is combined, or writes its result; an atom at a time if
`atoms`, else all (R227, R312). -/
def State.collStep (s : State) (k : Copy) (atoms : Bool) : State :=
  let upTo := fun (e : CEnd) (o n : Nat) => if atoms then Nat.min (e.atom o) n else n
  if k.combined then
    let e := ptrEnd s.me (k.op 1)
    let left := k.got.length - k.put
    let n := upTo e k.put left
    match s.endWrite k.pages k.cache (s.collWriter k) e k.put ((k.got.drop k.put).take n) (left - n) with
    | .ok (x, s) =>
      let s := s.cpErr k x
      if left ≤ n then s.finishCopy else s.setHead { k with put := k.put + n }
    | _ => s
  else if k.gives (s.collSelf k) && k.got.length < k.span then
    let e := ptrEnd s.me (k.op 0)
    match s.endRead k.pages k.cache k.issueCc e k.got.length (upTo e k.got.length (k.span - k.got.length)) with
    | .ok (bs, x, s) => (s.setHead { k with got := k.got ++ bs }).cpErr k x
    | _ => s
  else if k.isColl 1 then s.xpColl k else s.localColl k

/-- REMOTE_COLLECTIVE_FRAME: what another rank says and gives for the collective that is the oldest copy of the context: the
fields that must agree, and the element, or none where its participant has been removed; it comes over that rank's port
(R1, R227, R338). -/
def execRemoteCollectiveFrame (rank : BitVec 6) (lcore : BitVec 8) (e : BitVec 48 × Option (BitVec 21)) (v : BitVec 32)
    (s : State) : Res :=
  match s.me.cp.copies with
  | [] => .next s
  | k :: _ =>
    let r := rank.toNat
    if !k.isColl 1 || k.combined || lcore.toNat ≠ s.me.lcore || collRank s.hub = some r || (collEntries s.hub).length ≤ r ||
        !s.portUp (rankPort s.hub r) then .next s
    else
      let k := if (k.heads.lookup r).isSome then k else { k with heads := (r, e.1) :: k.heads }
      let x : Nat × Nat × W32 := match e.2 with | none => (r, goneMark, 0) | some n => (r, n.toNat, v)
      let k := if (k.frame r x.2.1).isSome then k else { k with remote := x :: k.remote }
      .next (s.setHead k)

/-! ## Prefetch, migration, remote reads (R229 to R231) -/

/-- CPREF (R230). -/
def execCpref (a b : BitVec 4) (q : BitVec 3) (s : State) : Res :=
  let p := s.me.ar a; let n := s.me.ar b
  if p.extractLsb' 56 8 ≠ 0 then s.trapR 0x14 p
  else if n = 0 || 2 ^ 30 < n.toNat then s.trapR 0x38 (b.setWidth 64)
  else s.cIssue s (.cpref a b q) { ops := [p, n], handles := [] }

/-- CMIG (R231). -/
def execCmig (a : BitVec 4) (q : BitVec 3) (t : BitVec 1) (s : State) : Res :=
  let p := s.me.ar a
  if p.extractLsb' 56 8 ≠ 0 then s.trapR 0x14 p else s.cIssue s (.cmig a q t) { ops := [p], handles := [] }

/-- CRRD (R229). -/
def execCrrd (a b c : BitVec 4) (q : BitVec 3) (s : State) : Res :=
  let r := s.me.ar a; let dst := s.me.ar b; let n := s.me.ar c
  if r.toNat % 32 ≠ 0 || r.extractLsb' 36 8 ≠ 0 || 11 < (r.extractLsb' 44 4).toNat then s.trapR 0x38 (a.setWidth 64)
  else if n.toNat % 32 ≠ 0 || n = 0 || 2 ^ 23 < n.toNat then s.trapR 0x38 (c.setWidth 64)
  else
    match endCheck s dst n.toNat with
    | some e => s.trapR e dst
    | none =>
      s.cTranslate s true (endSegs dst n.toNat) [] fun pages s1 =>
        s.cIssue s1 (.crrd a b c q) { ops := [r, dst, n], handles := endHandles dst, pages := pages }

/-! ## The copy engine (R213, R234) -/

/-- Units of a copy that stops at unit boundaries: rows, positions, 4 KiB blocks; 0 for the others (R234).
Log entry 39 (DEDUCED). -/
def Copy.units (k : Copy) : Nat :=
  match k.i with
  | .ccpy .. | .ccpyOut .. | .ccpys .. => (descOf k.ops).rows
  | .cgath .. | .cscat .. => k.table.length
  | .crrd .. => ((k.op 2).toNat + 4095) / 4096
  | _ => 0

/-- A unit of a copy: where it reads `n` bytes, where it writes, and what it makes of them; none ends the copy (R219). -/
structure CUnit where
  src : CEnd
  n : Nat
  dst : CEnd
  out : List CByte → Option (List CByte) := some

/-- An own tile's byte as an end. -/
def Tile.end_ (t : Tile) (off : Nat) : CEnd := .tile t.base.toNat off

/-- Unit u of copy k; none where it moves nothing (R217 to R219, R223, R229). -/
def State.unitOf (s : State) (k : Copy) (u : Nat) : Option CUnit :=
  let d := descOf k.ops
  let g := gathOf (k.op 2) (k.op 3) (k.op 4)
  let x := k.table.getD u padIndex
  let rowAt := CEnd.glob ((k.op 0).toNat + x.toNat * g.stride)
  match k.i with
  | .ccpy _ _ h sl t =>
    let tl := s.me.tile h
    some (if t = 0 then { src := .glob (d.row u), n := d.len, dst := tl.end_ (tileStart tl sl.toNat d.toff + u * d.len) }
          else { src := .glob (d.row u), n := d.len, dst := tl.end_ (d.toff + u * trRow tl sl.toNat),
                 out := fun bs => some (transpose tl sl.toNat bs) })
  | .ccpyOut _ _ h sl _ =>
    let tl := s.me.tile h
    some { src := tl.end_ (tileStart tl sl.toNat d.toff + u * d.len), n := d.len, dst := .glob (d.row u) }
  | .ccpys _ _ h sl =>
    let tl := s.me.tile h
    let eb := (sparseWidth tl).getD 1
    some { src := .glob (d.row u), n := sparseRow d.len eb, dst := tl.end_ (tileStart tl sl.toNat d.toff + u * d.len),
           out := sparseExpand eb d.len }
  | .cgath _ _ _ _ h =>
    some { src := if x = padIndex then .zero else rowAt, n := g.len, dst := (s.me.tile h).end_ (g.toff + u * g.len) }
  | .cscat _ _ _ _ h =>
    if x = padIndex then none else some { src := (s.me.tile h).end_ (g.toff + u * g.len), n := g.len, dst := rowAt }
  | .crrd .. =>
    let r := k.op 0
    let dst := match ptrEnd s.me (k.op 1) with
      | .glob va => CEnd.glob (va + 4096 * u)
      | .tile base off => .tile base (off + 4096 * u)
      | e => e
    some { src := .remote (r.extractLsb' 44 20).toNat ((r.extractLsb' 0 36).toNat + 4096 * u),
           n := Nat.min 4096 ((k.op 2).toNat - 4096 * u), dst := dst }
  | _ => none

/-- The stack of another package refuses the read of a CRRD (R229, R309). -/
def Copy.denied (k : Copy) : Bool :=
  match k.i with
  | .crrd .. => Config.remoteDenied ((k.op 0).extractLsb' 44 20).toNat ((k.op 0).extractLsb' 0 36).toNat (k.op 2).toNat k.issueCc
  | _ => false

/-- The oldest copy has done units below `u`: it stands at a unit boundary (R234). A removed context's ends there (R337). -/
def State.unitDone (s : State) (k : Copy) (u : Nat) : State :=
  let s := ({ s with me := { s.me with piC := BitVec.ofNat 32 u } }).setHead { k with got := [], put := 0 }
  if s.me.life = .removed then s.finishCopy else s

/-- The oldest copy goes on with its unit: it reads, then writes; an atom if `atoms`, else all of it (R234, R312); none while its
accesses hold. Log entry 39 (DEDUCED). -/
def State.unitStep (s : State) (k : Copy) (atoms : Bool) : Option State :=
  let u := s.me.piC.toNat
  match s.unitOf k u with
  | none => some (s.unitDone k (u + 1))
  | some x =>
    if k.denied then some ((s.cpErr k (some (0x3B, (k.op 0).extractLsb' 0 32))).unitDone k k.units)
    else if k.got.length < x.n then
      let left := x.n - k.got.length
      match s.endRead k.pages k.cache k.issueCc x.src k.got.length (if atoms then Nat.min (x.src.atom k.got.length) left else left) with
      | .ok (bs, e, s) => some ((s.cpErr k e).setHead { k with got := k.got ++ bs })
      | _ => none
    else
      match x.out k.got with
      | none => some ((s.cpErr k (some (0x38, BitVec.ofNat 32 u))).unitDone k k.units)
      | some bs =>
        let left := bs.length - k.put
        let n := if atoms then Nat.min (x.dst.atom k.put) left else left
        match s.endWrite k.pages k.cache (k.writer s.me) x.dst k.put ((bs.drop k.put).take n) (left - n) with
        | .ok (e, s) =>
          let s := s.cpErr k e
          some (if left ≤ n then s.unitDone k (u + 1) else s.setHead { k with put := k.put + n })
        | _ => none

/-- The copy engine may act on its oldest copy: it may begin with it, or the copy has begun what is not stopped (R234, R337). -/
def State.copyRuns (s : State) (k : Copy) : Bool := s.copyStarts k || (s.hub.boot = 1 && s.me.life ≠ .none && k.under)

/-- The oldest copy goes on by an atom if `atoms`, else by a unit's read or write; none where it cannot. -/
def State.copyStep (s : State) (atoms : Bool) : Option State :=
  match s.me.cp.copies with
  | [] => none
  | k :: _ =>
    if !s.copyRuns k then none
    else
      let s := s.refresh s.me.id
      match k.i with
      | .cxfer .. => if k.sent then s.flight.map fun f => s.xferStep k f atoms else some s.startHead
      | .cred .. | .cbcst .. => some (s.collStep k atoms)
      | .cwst .. =>
        let o := k.got.length
        if o < k.streamLen && (s.me.m.cur.any fun m => m.pair == some k.seq) then
          let e := CEnd.glob (k.op 0).toNat
          match s.endRead k.pages k.streamCache k.issueCc e o (if atoms then Nat.min (e.atom o) (k.streamLen - o) else k.streamLen - o) with
          | .ok (bs, x, s) => some ((s.cpErr k x).setHead { k with got := k.got ++ bs })
          | _ => none
        else none
      | _ => if k.units ≤ s.me.piC.toNat then none else s.unitStep k atoms

/-- The copy engine reads or writes the next atom of its oldest copy (R234, R312). -/
def copyUnit (s : State) : State := (s.copyStep true).getD s

/-- At most n further steps of the oldest copy, the one numbered `seq`. -/
def copySteps (seq : W64) : Nat → State → State
  | 0, s => s
  | n + 1, s =>
    match s.me.cp.copies with
    | [] => s
    | k :: _ =>
      if k.seq ≠ seq then s
      else
        match s.copyStep false with
        | some t => copySteps seq n t
        | none => s

/-- Bring ranges into the SRAM of their homes; what cannot be reached, and what holds, is skipped (R230). -/
def prefetch (cache : BitVec 2) : List (Nat × Nat) → State → State
  | [], s => s
  | (va, n) :: rest, s =>
    let w := walk s (instOf s.me.id) va false
    let s := s.countWalk w (some (s.me.id, 0))
    match w.pa with
    | none => prefetch cache rest s
    | some pa =>
      match homeState s (s.socketOf s.me.id) pa with
      | .ok () => prefetch cache rest ((s.sramRead pa n cache).meet pa n)
      | _ => prefetch cache rest s

/-- Ask for the migration of the page that holds an address, when it lies in the other tier (R231). -/
def State.askMove (s : State) (va : Nat) (toLpddr : Bool) : State :=
  let w := walk s (instOf s.me.id) va false
  let s := s.countWalk w (some (s.me.id, 0))
  match w.pa with
  | none => s
  | some pa =>
    if isHbm pa ≠ toLpddr then s
    else
      let r : MigReq := { b := BitVec.ofNat 4 (dieOf pa), f := pa / 65536, host := s.hub.migMode == 1 }
      let s := { s with migReqs := s.migReqs ++ [r] }
      if s.hub.migMode = 1 then s.msi 3 else s

/-- COPY_COMPLETE: the oldest copy does what is left of it and completes, unless something holds it (R213). -/
def execCopyComplete (s : State) : Res :=
  match s.me.cp.copies with
  | [] => .next s
  | k :: _ =>
    if !s.copyRuns k then .next s
    else
      match k.i with
      | .cxfer .. =>
        if !k.sent then .next s.startHead
        else if s.flight.isNone then .next (s.refresh s.me.id).finishCopy else .next s
      | .cred .. | .cbcst .. => .next (copySteps k.seq 3 s)
      | .cwst .. => .next s
      | .ctab .. =>
        let cp := if k.table.isEmpty then s.me.cp
          else { s.me.cp with shadowTab := Vector.ofFn fun n => k.table.getD n.val 0, shadowWritten := true }
        .next ({ s with me := { s.me with cp := cp } }).finishCopy
      | .cpref .. => .next (prefetch k.cache (pageSegs (k.op 0).toNat (k.op 1).toNat) s).finishCopy
      | .cmig _ _ t => .next (s.askMove (k.op 0).toNat (t == 1)).finishCopy
      | _ =>
        let t := copySteps k.seq (2 * (k.units - s.me.piC.toNat)) s
        match t.me.cp.copies with
        | x :: _ => if x.seq = k.seq && k.units ≤ t.me.piC.toNat then .next t.finishCopy else .next t
        | [] => .next t

/-! ## Scoreboards, tokens, cues and fences (R232) -/

/-- Every token of the mask reads clear (R22). -/
def sbClear (c : Ctx) (m : BitVec 8) : Bool :=
  (List.range 8).all fun n => !m.getLsbD n || c.cp.sb.toArray.getD n 0 == 0

/-- CWAITM (R232). -/
def execCwaitm (m : BitVec 8) (s : State) : Res :=
  s.wait 5 m.toNat fun s =>
    if !sbClear s.me m then none
    else
      match s.me.cp.errs.find? fun e => m.getLsbD e.sb.toNat with
      | some e => some (s.raiseCopy e)
      | none => some s.retire

/-- An instruction that waits for every earlier copy and raises what is pending (R215, R232). -/
def State.afterCopies (s : State) (go : Res) : Res :=
  if !s.me.cp.copies.isEmpty then .next (s.hold 0 0)
  else match s.me.cp.errs.head? with | some e => .next (s.raiseCopy e) | none => go

/-- The token of CTOKS: a[d][15:0] + v (R232). -/
def ctoken (c : Ctx) (d : BitVec 4) (v : BitVec 16) : W16 := (c.ar d).setWidth 16 + v

/-- CTOKS (R232). -/
def execCtoks (d : BitVec 4) (v : BitVec 16) (c : BitVec 4) (s : State) : Res := s.sendTok c.toNat (ctoken s.me d v)
/-- CTOKS with all (R232). -/
def execCtoksAll (d : BitVec 4) (v : BitVec 16) (c : BitVec 4) (s : State) : Res :=
  s.afterCopies (s.sendTok c.toNat (ctoken s.me d v))

/-- A CTOKW pops its token; held where the stream would count as drained for HALT, it raises a pending error (R215, R385). -/
def State.ctokw (s : State) (c : BitVec 4) (put : W16 → State → State) : Res :=
  let held := { s.me with c := { s.me.c with wait := some { kind := 2, obj := c.setWidth 20 } },
                          cp := { s.me.cp with errs := [] } }
  match (if (s.me.chan c.toNat).isEmpty && held.drained then s.me.cp.errs.head? else none) with
  | some e => .next (s.raiseCopy e)
  | none => s.takeTok c.toNat put

/-- CTOKW (R232). -/
def execCtokw (c : BitVec 4) (s : State) : Res := s.ctokw c fun _ s => s
/-- CTOKW into an address register (R232). -/
def execCtokwLd (d c : BitVec 4) (s : State) : Res :=
  s.ctokw c fun t s => { s with me := s.me.setAr d (t.setWidth 64) }
/-- CTOKW added to an address register (R232). -/
def execCtokwAdd (d c : BitVec 4) (s : State) : Res :=
  s.ctokw c fun t s => { s with me := s.me.setAr d (s.me.ar d + t.setWidth 64) }

/-- CCUE (R232). -/
def execCcue (n : BitVec 20) (s : State) : Res := s.cue n

/-- CFENCE; at system scope with the write-backs of R295 (R232). Log entry 16 (DEDUCED). -/
def execCfence (sc : BitVec 3) (s : State) : Res :=
  s.afterCopies (.next (if sc = 4 then s.release (s.me.gives .c s.tick) else s).retire)

/-- CNOP (R232). -/
def execCnop (s : State) : Res := .next s.retire

/-- CRING (R128): a produce waits for every earlier copy. -/
def execCring (r : BitVec 2) (c h : BitVec 8) (s : State) : Res := s.ring h c r.toNat s.me.cp.copies.isEmpty

end Sys2Proof.Machine
end

