-- ==== Sys2Proof/Machine/Sha3.lean ====
section
/-! DEFINITION. SHA3-256 (FIPS 202), the digest of R89, R287, R369 and R372, on lists of bytes. -/

namespace Sys2Proof.Machine

/-- Rotation offsets of Keccak's rho step, lane x + 5y. -/
def keccakRot : List Nat :=
  [0, 1, 62, 28, 27, 36, 44, 6, 55, 20, 3, 10, 43, 25, 39, 41, 45, 15, 21, 8, 18, 2, 61, 56, 14]

/-- Round constants of Keccak's iota step. -/
def keccakRC : List W64 :=
  [0x0000000000000001, 0x0000000000008082, 0x800000000000808A, 0x8000000080008000, 0x000000000000808B, 0x0000000080000001,
   0x8000000080008081, 0x8000000000008009, 0x000000000000008A, 0x0000000000000088, 0x0000000080008009, 0x000000008000000A] ++
  [0x000000008000808B, 0x800000000000008B, 0x8000000000008089, 0x8000000000008003, 0x8000000000008002, 0x8000000000000080,
   0x000000000000800A, 0x800000008000000A, 0x8000000080008081, 0x8000000000008080, 0x0000000080000001, 0x8000000080008008]

/-- Lane (x, y) of the state. -/
def keccakLane (a : Array W64) (x y : Nat) : W64 := a.getD (x % 5 + 5 * (y % 5)) 0

/-- One round. -/
def keccakRound (a : Array W64) (rc : W64) : Array W64 :=
  let c := fun x => keccakLane a x 0 ^^^ keccakLane a x 1 ^^^ keccakLane a x 2 ^^^ keccakLane a x 3 ^^^ keccakLane a x 4
  let cs := Array.ofFn (n := 5) fun x => c x.val
  let d := fun x => cs.getD ((x + 4) % 5) 0 ^^^ (cs.getD ((x + 1) % 5) 0).rotateLeft 1
  let t := Array.ofFn (n := 25) fun i => a.getD i.val 0 ^^^ d (i.val % 5)
  let r := Array.ofFn (n := 25) fun i => (t.getD i.val 0).rotateLeft (keccakRot.getD i.val 0)
  -- pi: B[y, 2x+3y] = r[x, y], so B[X, Y] = r[x, y] with x = X + 3Y, y = X
  let b := Array.ofFn (n := 25) fun i => let X := i.val % 5; let Y := i.val / 5; keccakLane r (X + 3 * Y) X
  let e := Array.ofFn (n := 25) fun i =>
    let x := i.val % 5; let y := i.val / 5
    keccakLane b x y ^^^ (~~~ keccakLane b (x + 1) y &&& keccakLane b (x + 2) y)
  e.setIfInBounds 0 (e.getD 0 0 ^^^ rc)

/-- Keccak-f[1600]. -/
def keccakF (a : Array W64) : Array W64 := keccakRC.foldl keccakRound a

/-- Eight little-endian bytes as a word. -/
def leWord (l : List Byte) : W64 := BitVec.ofNat 64 (l.foldr (fun b n => n * 256 + b.toNat) 0)

/-- Absorb one 136-byte block. -/
def keccakAbsorb (a : Array W64) (blk : List Byte) : Array W64 :=
  keccakF (Array.ofFn (n := 25) fun i =>
    if i.val < 17 then a.getD i.val 0 ^^^ leWord ((blk.drop (8 * i.val)).take 8) else a.getD i.val 0)

/-- Absorb `n` whole blocks. -/
def keccakBlocks : Nat → List Byte → Array W64 → Array W64
  | 0, _, a => a
  | n + 1, m, a => keccakBlocks n (m.drop 136) (keccakAbsorb a (m.take 136))

/-- The padded message: suffix 01, then 1 0* 1. -/
def sha3Pad (m : List Byte) : List Byte :=
  let k := 136 - m.length % 136
  if k == 1 then m ++ [0x86] else m ++ [0x06] ++ List.replicate (k - 2) 0 ++ [0x80]

/-- SHA3-256. -/
def sha3 (m : List Byte) : List Byte :=
  let p := sha3Pad m
  let a := keccakBlocks (p.length / 136) p (Array.replicate 25 0)
  (List.range 32).map fun i => (a.getD (i / 8) 0).extractLsb' (8 * (i % 8)) 8

end Sys2Proof.Machine
end

