-- ==== Sys2Proof/Machine/Bricks.lean ====
section
/-! DEFINITION. Brick instructions, folio images, VX and the folio loader (R167 to R184). -/

namespace Sys2Proof.Machine

/-! ## Bricks (R167 to R170) -/

/-- Operand width of a code (R75). -/
def brickWidth (c : BitVec 3) : Nat := [2, 4, 6, 8, 12, 16, 24, 32].getD c.toNat 32

/-- Elements per lane (R167). -/
def perLane (w : Nat) : Nat := 32 / w

/-- Element i of a packed register, signed or not (R167). -/
def brickElem (v : VReg) (w : Nat) (sg : Bool) (i : Nat) : Int :=
  let x := (lane v (i / perLane w)).toNat / 2 ^ (w * (i % perLane w)) % 2 ^ w
  if sg then sintOf w x else x

/-- g: elements that pair in a lane (R168). -/
def brickGroup (x y : BitVec 3) : Nat := Nat.min (perLane (brickWidth x)) (perLane (brickWidth y))

/-- The product slot width of VBMUL; none when the widths do not pair (R169). -/
def slotWidth (x y : BitVec 3) : Option Nat := [4, 8, 16, 32].find? fun p => brickWidth x + brickWidth y ≤ p

/-- Lane j of register `r` (0 or 1) of VBMUL's destination pair (R169). -/
def vbmulLane (a b : VReg) (x y : BitVec 3) (sg : Bool) (wp r j : Nat) : W32 :=
  let q := 32 / wp
  let nm := Nat.min (256 * brickGroup x y) (512 * q)
  BitVec.ofNat 32 (packNat wp ((List.range q).map fun t =>
    let i := 256 * q * r + q * j + t
    if i < nm then (brickElem a (brickWidth x) sg i * brickElem b (brickWidth y) sg i % 2 ^ wp).toNat else 0))

/-- VBMUL (R169). -/
def execVbmul (d a b : BitVec 6) (x y : BitVec 3) (sg : BitVec 1) (s : State) : Res :=
  match slotWidth x y with
  | none => s.trapR 0x22 s.strm.pc
  | some wp =>
    s.vRun fun _ c =>
      let m := c.mreg s.vPfxMask
      let f := fun (r : Nat) (j : Nat) => (vbmulLane (c.vreg a) (c.vreg b) x y (sg == 1) wp r j, (0 : Flags))
      ((c.setV d (laneMap (c.vreg d) m (f 0)).1).setV (d + 1) (laneMap (c.vreg (d + 1)) m (f 1)).1, 0)

/-- The exact dot product of a lane (R170). -/
def brickDot (a b : VReg) (x y : BitVec 3) (sg : Bool) (j : Nat) : Int :=
  let g := brickGroup x y
  (List.range g).foldl (fun n t =>
    n + brickElem a (brickWidth x) sg (g * j + t) * brickElem b (brickWidth y) sg (g * j + t)) 0

/-- VBDOT (R170). -/
def execVbdot (d a b : BitVec 6) (x y : BitVec 3) (sg : BitVec 1) (s : State) : Res :=
  s.vLanes d s.vPfxMask fun _ c j => w32 (toI32 s.vSat (brickDot (c.vreg a) (c.vreg b) x y (sg == 1) j))

/-- VBMAC (R170). -/
def execVbmac (d a b : BitVec 6) (x y : BitVec 3) (sg : BitVec 1) (s : State) : Res :=
  s.vLanes d s.vPfxMask fun _ c j =>
    w32 (toI32 s.vSat (sintOf 32 (lane (c.vreg d) j).toNat + brickDot (c.vreg a) (c.vreg b) x y (sg == 1) j))

/-! ## Folio images (R173, R174) -/

/-- Little-endian field of an image. -/
def imgField (img : List Byte) (off n : Nat) : Nat := leNat ((img.drop off).take n)

/-- Node record k (R173). -/
def nodeWord (img : List Byte) (k : Nat) : W64 := BitVec.ofNat 64 (imgField img (32 + 8 * k) 8)

/-- Lookup word i (R173). -/
def lutWord (img : List Byte) (i : Nat) : W32 := BitVec.ofNat 32 (imgField img (imgField img 0x14 4 + 4 * i) 4)

/-- The value of a source code (R174). -/
def nodeSource (vals : List W64) (ins : List W32) (k : BitVec 1) (code : BitVec 8) : W64 :=
  let n := code.toNat
  if n = 0 then 0
  else if n ≤ 3 then (ins.getD (n - 1) 0).setWidth 64
  else if n = 4 then k.setWidth 64
  else vals.getD (n - 16) 0

/-- The low `w` bits of a node value as an integer. -/
def lowBits (x : W64) (w : Nat) (sg : Bool) : Int := if sg then sintOf w x.toNat else (x.toNat % 2 ^ w : Nat)

/-- The value of a node and the flag it raises (R174). -/
def nodeValue (img : List Byte) (r : W64) (a b c : W64) : W64 × Flags :=
  let p := r.toNat % 2 ^ 34
  let sg := p / 2 ^ 12 % 2 = 1
  match (r.extractLsb' 58 6).toNat with
  | 0x01 =>
    let len := p / 64 % 64
    let x := a.toNat / 2 ^ (p % 64) % 2 ^ len
    (if sg then BitVec.ofInt 64 (sintOf len x) else BitVec.ofNat 64 x, 0)
  | 0x02 => (BitVec.ofInt 64 (lowBits a (p % 64) sg * lowBits b (p / 64 % 64) sg), 0)
  | 0x03 => (a + b, 0)
  | 0x04 => (a - b, 0)
  | 0x05 =>
    let amt := sintOf 7 p
    (if 0 ≤ amt then a <<< amt.toNat else a.sshiftRight (-amt).toNat, 0)
  | 0x06 => (if p % 4 = 0 then a &&& b else if p % 4 = 1 then a ||| b else a ^^^ b, 0)
  | 0x07 => (if a ≠ 0 then b else c, 0)
  | 0x08 => (if p % 2 = 0 then (if b.slt a then b else a) else if a.slt b then b else a, 0)
  | 0x09 => ((lutWord img (p % 256 + a.toNat % 2 ^ (p / 256 % 16))).signExtend 64, 0)
  | 0x0A => ((BitVec.ofNat 32 p).signExtend 64, 0)
  | 0x0B =>
    let hi : Int := 2 ^ (p % 64 - 1) - 1
    let lo : Int := -(2 ^ (p % 64 - 1))
    if a.toInt < lo then (BitVec.ofInt 64 lo, fSat) else if hi < a.toInt then (BitVec.ofInt 64 hi, fSat) else (a, 0)
  | _ => (a, 0)

/-- The values of the nodes in order, and the flags raised (R176). -/
def evalNodes (img : List Byte) (ins : List W32) (kb : BitVec 1) : Nat → Nat → List W64 → Flags → List W64 × Flags
  | 0, _, vals, f => (vals, f)
  | n + 1, k, vals, f =>
    let r := nodeWord img k
    let src := fun (lo : Nat) => nodeSource vals ins kb (r.extractLsb' lo 8)
    let v := nodeValue img r (src 50) (src 42) (src 34)
    evalNodes img ins kb n (k + 1) (vals ++ [v.1]) (f ||| v.2)

/-- A folio on one lane (R176). -/
def folioLane (img : List Byte) (ins : List W32) (kb : BitVec 1) : W32 × Flags :=
  let r := evalNodes img ins kb (imgField img 6 2) 0 [] 0
  ((r.1.getLast?.getD 0).setWidth 32, r.2)

/-! ## Frames (R26, R178) -/

/-- The frames of the physical core that runs the context in focus. -/
def State.coreFrames (s : State) : Vector Frame 4 :=
  let e := s.remapEntry s.me.id
  match s.cores.find? fun k => k.socket.toNat == entSocket e && k.core.toNat == entCore e with
  | some k => k.frames
  | none => Vector.replicate 4 {}

/-- Replace the frames of that core. -/
def State.setFrames (s : State) (f : Vector Frame 4) : State :=
  let e := s.remapEntry s.me.id
  let others := s.cores.filter fun k => !(k.socket.toNat == entSocket e && k.core.toNat == entCore e)
  { s with cores := { socket := BitVec.ofNat 6 (entSocket e), core := BitVec.ofNat 4 (entCore e), frames := f } :: others }

/-- A frame carries the tag of a slot of a context (R26). -/
def Frame.tagged (f : Frame) (id : BitVec 12) (slot : BitVec 6) : Bool := f.valid && f.ctx == id && f.slot == slot

/-- A resident slot has been read by a VX: its frame was used at this tick (R181). -/
def State.useFrame (s : State) (slot : BitVec 6) : State :=
  s.setFrames (s.coreFrames.map fun f => if f.tagged s.me.id slot then { f with stamp := s.tick } else f)

/-- VX (R176, R179). -/
def execVx (d a b slot : BitVec 6) (k : BitVec 1) (s : State) : Res :=
  let e := s.me.folio[slot.toNat]'slot.isLt
  match (if e.st = 2 then s.coreFrames.toList.find? fun f => f.tagged s.me.id slot else none) with
  | none => s.trapR 0x20 (BitVec.ofNat 64 (slot.toNat + if e.st = 0 then 64 else 0))
  | some f =>
    if e.nin.toNat < 2 && b ≠ 0 then s.trapR 0x02 s.strm.restart
    else
      let s := s.useFrame slot
      s.vLanes d s.vPfxMask fun _ c j =>
        let in1 := if 2 ≤ e.nin.toNat then lane (c.vreg b) j else 0
        let in2 := if e.nin = 3 then lane (c.vreg d) j else 0
        folioLane f.image [lane (c.vreg a) j, in1, in2] k

/-! ## Loading (R175, R180 to R182) -/

/-- Bricks of a node (R174). -/
def nodeBricks (r : W64) : Nat :=
  let p := r.toNat % 2 ^ 34
  if (r.extractLsb' 58 6).toNat = 2 then ((p % 64 + 1) / 2) * ((p / 64 % 64 + 1) / 2) else 0

/-- The cc figure of a node type (R174). -/
def nodeCc (ty : Nat) : Nat := if ty = 2 || ty = 9 then 2 else if ty = 0xA || ty = 0xC then 0 else 1

/-- The source fields that a node type uses, of a, b and c (R174). -/
def nodeUses (ty : Nat) : List Nat :=
  if ty = 0xA then [] else if ty = 7 then [50, 42, 34]
  else if [2, 3, 4, 6, 8].contains ty then [50, 42] else [50]

/-- Check 5 of R175 on node k. -/
def nodeSourcesOk (r : W64) (k nin : Nat) : Bool :=
  let ty := (r.extractLsb' 58 6).toNat
  1 ≤ ty && ty ≤ 0xC &&
  [50, 42, 34].all fun lo =>
    let c := (r.extractLsb' lo 8).toNat
    (c ≤ 4 || (16 ≤ c && c - 16 < k)) && !(c = 2 && nin < 2) && !(c = 3 && nin < 3)

/-- Check 6 of R175 on a node: param allowed, unused fields zero. -/
def nodeParamOk (r : W64) (nlut : Nat) : Bool :=
  let ty := (r.extractLsb' 58 6).toNat
  let p := r.toNat % 2 ^ 34
  let unused := [50, 42, 34].all fun lo => (nodeUses ty).contains lo || r.extractLsb' lo 8 = (0 : BitVec 8)
  unused &&
  (match ty with
   | 0x01 => p < 2 ^ 13 && 1 ≤ p / 64 % 64 && p / 64 % 64 ≤ 32 && p % 64 + p / 64 % 64 ≤ 64
   | 0x02 => p < 2 ^ 13 && 1 ≤ p % 64 && p % 64 ≤ 32 && 1 ≤ p / 64 % 64 && p / 64 % 64 ≤ 32
   | 0x05 => p < 128 && p ≠ 64
   | 0x06 => p ≤ 2
   | 0x08 => p ≤ 1
   | 0x09 => p < 2 ^ 12 && 1 ≤ p / 256 && p / 256 ≤ 8 && p % 256 + 2 ^ (p / 256) ≤ nlut
   | 0x0A => p < 2 ^ 32
   | 0x0B => 2 ≤ p && p ≤ 32
   | _ => p = 0)

/-- Node depths in order (R174). -/
def nodeDepths (img : List Byte) : Nat → Nat → List Nat → List Nat
  | 0, _, ds => ds
  | n + 1, k, ds =>
    let r := nodeWord img k
    let src := [50, 42, 34].map fun lo => let c := (r.extractLsb' lo 8).toNat; if 16 ≤ c then ds.getD (c - 16) 0 else 0
    nodeDepths img n (k + 1) (ds ++ [nodeCc (r.extractLsb' 58 6).toNat + src.foldl Nat.max 0])

/-- Checks 1 to 3 of R175 on the header: the number of the first that fails. -/
def headerCheck (h : List Byte) (e : FolioSlot) : Option Nat :=
  let nn := imgField h 6 2; let nl := imgField h 0xA 2
  if imgField h 0 4 ≠ 0x494C4F46 || imgField h 4 2 ≠ 1 || imgField h 0xE 2 ≠ 0 || imgField h 0x18 8 ≠ 0 then some 1
  else if imgField h 8 1 ≠ e.nin.toNat || imgField h 9 1 ≠ e.lat.toNat then some 2
  else if nn < 2 || 128 < nn || 256 < nl || imgField h 0x10 4 ≠ 32 + 8 * nn + 4 * nl || imgField h 0x14 4 ≠ 32 + 8 * nn then some 3
  else none

/-- Checks 4 to 9 of R175 on the whole image. -/
def bodyCheck (img : List Byte) (e : FolioSlot) : Option Nat :=
  let nn := imgField img 6 2; let nl := imgField img 0xA 2
  let nodes := (List.range nn).map fun k => nodeWord img k
  let isOut := fun (r : W64) => (r.extractLsb' 58 6).toNat = 0xC
  if leNat ((sha3 img).take 6) ≠ e.hash.toNat then some 4
  else if !(nodes.zipIdx.all fun p => nodeSourcesOk p.1 p.2 e.nin.toNat) then some 5
  else if !(nodes.all fun r => nodeParamOk r nl) then some 6
  else if (nodes.filter fun r => isOut r).length ≠ 1 || !isOut (nodes.getLast?.getD 0) then some 7
  else if imgField img 0xC 2 ≠ nodes.foldl (fun n r => n + nodeBricks r) 0 then some 8
  else if e.lat.toNat < (nodeDepths img nn 0 []).getLast?.getD 0 + 2 then some 9
  else none

/-- What reading the image answers (R180 step 2). Log entry 32 (DEDUCED). -/
inductive ImgRead where
  | hold
  /-- The address that fails translation. -/
  | fault (va : Nat) (s : State)
  /-- The bytes cannot be read. -/
  | bad (s : State)
  | ok (bs : List Byte) (s : State)

/-- Read `n` granules of 32 bytes of an instance's space. Log entry 32 (DEDUCED). -/
def readVirt (s : State) (va : Nat) : Nat → ImgRead
  | 0 => .ok [] s
  | n + 1 =>
    match readVirt s va n with
    | .ok bs s =>
      let a := va + 32 * n
      let w := walk s (instOf s.me.id) a false
      let t := s.countWalk w (some (s.me.id, 0x10))
      match w.pa with
      | none => if w.hold then .hold else .fault a t
      | some pa =>
        match t.globRead (t.socketOf t.me.id) pa 32 0 with
        | .hold => .hold
        | .err c => .bad (if c = 0x17 then t.failed c pa 32 0 else t)
        | .ok (b, s) => .ok (bs ++ b) s
    | r => r

/-- The frame that the loader takes (R181). -/
def chooseFrame (c : Ctx) (fs : List Frame) : Nat :=
  let find := fun (p : Frame → Bool) => (List.range 4).find? fun i => p (fs.getD i {})
  match find fun f => !f.valid with
  | some i => i
  | none =>
    match find fun f => f.ctx ≠ c.id with
    | some i => i
    | none =>
      match find fun f => (c.folio[f.slot.toNat]'f.slot.isLt).st ≠ 2 with
      | some i => i
      | none => (List.range 4).foldl (fun b i => if (fs.getD i {}).stamp < (fs.getD b {}).stamp then i else b) 0

/-- A slot of the context falls back to bound (R181). -/
def Ctx.unreside (c : Ctx) (slot : BitVec 6) : Ctx :=
  { c with folio := c.folio.set slot.toNat (let e := c.folio[slot.toNat]'slot.isLt; if e.st = 2 then { e with st := 1 } else e) slot.isLt }

/-- The frame with number `i` is taken: it carries no tag, and a slot of this context that it held is bound. -/
def State.takeFrame (s : State) (i : Nat) : State :=
  let f := s.coreFrames.toArray.getD i {}
  let s := if f.valid && f.ctx == s.me.id then { s with me := s.me.unreside f.slot } else s
  s.setFrames (s.coreFrames.setIfInBounds i { f with valid := false })

/-- The load fails: the VX traps, and the chosen frame keeps no tag (R180). -/
def State.loadFails (s : State) (cause : BitVec 7) (tval : W64) : State :=
  ({ s with me := s.me.dropLoad }).takeTrapFrom s.me.t.loadCl cause tval

/-- The load that went from `s` to `t` fails, once the copy engine lets the trap be taken (R329). Log entry 117 (DEDUCED). -/
def State.loadEnds (s t : State) (cause : BitVec 7) (tval : W64) : State :=
  if s.me.copyUnder then s else t.loadFails cause tval

/-- The image is loaded and the slot is resident (R180 steps 4 and 5). -/
def State.loadDone (s : State) (slot : BitVec 6) (img : List Byte) : State :=
  let e := s.me.folio[slot.toNat]'slot.isLt
  let i := s.me.t.loadFrame.toNat
  let s := { s with me := { s.me.dropLoad with folio := s.me.folio.set slot.toNat { e with st := 2 } slot.isLt } }
  s.setFrames (s.coreFrames.setIfInBounds i { valid := true, ctx := s.me.id, slot := slot, image := img, stamp := s.tick })

/-- Steps 2 to 5 of R180: the header is read and checked before the rest. Log entry 105 (DESIGN CHOICE). -/
def State.loadFolio (s : State) (slot : BitVec 6) : State :=
  let e := s.me.folio[slot.toNat]'slot.isLt
  let rest := fun (s : State) (size : Nat) (go : List Byte → State → State) =>
    match readVirt s e.image.toNat ((size + 31) / 32) with
    | .hold => s
    | .fault va t => s.loadEnds t 0x10 (BitVec.ofNat 64 va)
    | .bad t => s.loadEnds t 0x21 4
    | .ok bs t => go (bs.take size) t
  rest s 32 fun h t =>
    match headerCheck h e with
    | some n => s.loadEnds t 0x21 (BitVec.ofNat 64 n)
    | none =>
      rest s (imgField h 0x10 4) fun img t =>
        match bodyCheck img e with
        | some n => s.loadEnds t 0x21 (BitVec.ofNat 64 n)
        | none => t.loadDone slot img

/-- Step 1 of R180: the loader takes a frame, whose tag is then invalid. -/
def State.pickFrame (s : State) (slot : BitVec 6) (ph : BitVec 2) : State :=
  let i := chooseFrame s.me s.coreFrames.toList
  let s := s.takeFrame i
  { s with me := { s.me with t := { s.me.t with load := some (slot, ph), loadFrame := BitVec.ofNat 2 i } } }

/-- The hub asks the host for a folio load, while FOLREQ has room (R182, R366). -/
def State.askFolio (s : State) (slot : BitVec 6) : State :=
  if 16 ≤ s.hub.folreq.length then s
  else
    let e := s.me.folio[slot.toNat]'slot.isLt
    let r : FolReq := { ctx := s.me.id, slot := slot, image := e.image, hash := e.hash }
    (({ s with hub := { s.hub with folreq := s.hub.folreq ++ [r] } }).pickFrame slot 1).msi 2

/-- FOLIO_FRAME_LOAD: the load that an ERET began takes a frame and is asked of the host or goes on, and is carried out (R180,
R182). -/
def execFolioFrameLoad (s : State) : Res :=
  match s.me.t.load with
  | none => .next s
  | some (slot, ph) =>
    if s.me.life ≠ .running || s.me.t.hmode then .next s
    else if (s.me.folio[slot.toNat]'slot.isLt).st ≠ 1 then .next { s with me := s.me.dropLoad }
    else if ph = 0 then .next (if s.hub.funcmode.getLsbD 1 then s.askFolio slot else s.pickFrame slot 2)
    else if ph = 1 then .next s
    else if ph = 3 then .next (s.loadEnds s 0x21 0x10)
    else .next (s.loadFolio slot)

end Sys2Proof.Machine
end

