-- ==== Sys2Proof/Machine/Fabric.lean ====
section
/-! DEFINITION. The F stream and the fabric (R236 to R259): elements, syllables, ports, the fabric cycle and the run. -/

namespace Sys2Proof.Machine

/-! ## Elements (R236, R239) -/

/-- Element by number. -/
def FState.elem (f : FState) (e : BitVec 6) : Elem := f.el[e.toNat]'e.isLt

/-- Replace an element. -/
def FState.setElem (f : FState) (e : BitVec 6) (x : Elem) : FState := { f with el := f.el.set e.toNat x e.isLt }

/-- Every element number. -/
def elems : List (BitVec 6) := (List.range 64).map fun n => BitVec.ofNat 6 n

/-- The neighbour in a direction: north, east, south, west (R236). -/
def elNeighbour (e : BitVec 6) (d : Nat) : Option (BitVec 6) :=
  let r := e.toNat / 8; let c := e.toNat % 8
  match d with
  | 0 => if 0 < r then some (e - 8) else none
  | 1 => if c < 7 then some (e + 1) else none
  | 2 => if r < 7 then some (e + 8) else none
  | 3 => if 0 < c then some (e - 1) else none
  | _ => none

/-- The element lies on the edge and has a port (R236). -/
def isEdge (e : BitVec 6) : Bool := e.toNat / 8 == 0 || e.toNat / 8 == 7 || e.toNat % 8 == 0 || e.toNat % 8 == 7

/-- Input queue of an element. -/
def Elem.queue (x : Elem) (d : Nat) : List FWord := x.q.toArray.getD d []

/-- e register of an element. -/
def Elem.reg (x : Elem) (r : BitVec 4) : W32 := x.e[r.toNat]'r.isLt

/-- The queue that a word sent from an element in a direction enters holds fewer than 2 words (R239, R241). -/
def hasRoom (f : FState) (e : BitVec 6) (d : Nat) : Bool :=
  if d = 4 then (f.elem e).outq.length < 2
  else match elNeighbour e d with | some n => ((f.elem n).queue ((d + 2) % 4)).length < 2 | none => false

/-! ## Syllables (R242 to R245) -/

/-- What a syllable does at the end of its cycle. -/
structure Eff where
  regs : List (BitVec 4 × W32) := []
  lmem : Option (Nat × W32) := none
  pop : Option Nat := none
  push : Option (Nat × FWord) := none
  jump : Option (BitVec 6) := none
  halt : Bool := false
  deriving DecidableEq, Repr, Inhabited

/-- The effects of the syllables of one bundle together. -/
def Eff.and (a b : Eff) : Eff :=
  { regs := a.regs ++ b.regs, lmem := if a.lmem.isSome then a.lmem else b.lmem,
    pop := if a.pop.isSome then a.pop else b.pop, push := if a.push.isSome then a.push else b.push,
    jump := if a.jump.isSome then a.jump else b.jump, halt := a.halt || b.halt }

/-- Write one register. -/
def Eff.put (d : BitVec 4) (v : W32) : Eff := { regs := [(d, v)] }

/-- Push a word towards a direction, when its queue has room (R241). -/
def pushEff (f : FState) (e : BitVec 6) (dir : BitVec 3) (data : W32) (code : BitVec 2) : Option Eff :=
  if hasRoom f e dir.toNat then some { push := some (dir.toNat, { data := if code = 1 then 0 else data, code := code }) }
  else none

/-- The head word of a queue (R241). -/
def headWord (x : Elem) (dir : BitVec 3) : Option FWord := (x.queue dir.toNat).head?

/-- The condition of CMP (R243). -/
def elemCond (cc : BitVec 3) (a b : W32) : Bool :=
  match cc.toNat with
  | 0 => a = b | 1 => a ≠ b | 2 => a.slt b | 3 => !a.slt b | 4 => a.ult b | _ => !a.ult b

/-- Local-memory word of LDS and STS (R244). -/
def lmemAt (x : Elem) (a : BitVec 4) (i : BitVec 17) : Nat := (x.reg a + i.signExtend 32).toNat % 256

/-- The effect of a syllable at an element, all sources read at the start of the cycle; none when it is not ready (R241 to
R245). Log entry 21 (DEDUCED). -/
def eff (f : FState) (e : BitVec 6) (i : Instr) : Option Eff :=
  let x := f.elem e
  let r := x.reg
  match i with
  | .eAdd d a b => some (.put d (r a + r b))
  | .eSub d a b => some (.put d (r a - r b))
  | .eAnd d a b => some (.put d (r a &&& r b))
  | .eOr d a b => some (.put d (r a ||| r b))
  | .eXor d a b => some (.put d (r a ^^^ r b))
  | .eShl d a b => some (.put d (r a <<< ((r b).toNat % 32)))
  | .eShr d a b sg => some (.put d (if sg = 1 then (r a).sshiftRight ((r b).toNat % 32) else r a >>> ((r b).toNat % 32)))
  | .eCmp d a b cc => some (.put d (if elemCond cc (r a) (r b) then 1 else 0))
  | .eSel d a b c => some (.put d (if r a ≠ 0 then r b else r c))
  | .eMin d a b u => some (.put d (if (if u = 1 then (r a).ult (r b) else (r a).slt (r b)) then r a else r b))
  | .eMax d a b u => some (.put d (if (if u = 1 then (r a).ult (r b) else (r a).slt (r b)) then r b else r a))
  | .eMul16 d a b u =>
    let p : BitVec 16 := (r a).setWidth 16; let q : BitVec 16 := (r b).setWidth 16
    some (.put d (if u = 1 then p.setWidth 32 * q.setWidth 32 else p.signExtend 32 * q.signExtend 32))
  | .ePopc d a => some (.put d (BitVec.ofNat 32 (popcount (r a) 32)))
  | .eMov d a => some (.put d (r a))
  | .eCxch d c a b sg =>
    let lt := if sg = 1 then (r a).slt (r b) else (r a).ult (r b)
    some { regs := [(d, if lt then r b else r a), (c, if lt then r a else r b)] }
  | .eLdi d i => some (.put d (i.signExtend 32))
  | .eLdiH d i => some (.put d ((i ++ (0 : BitVec 16)) ||| ((r d) &&& 0xFFFF)))
  | .eLds d a i => some (.put d (x.lmem.toArray.getD (lmemAt x a i) 0))
  | .eSts s a i => some { lmem := some (lmemAt x a i, r s) }
  | .eLoop d t =>
    let n := r d - 1
    some { regs := [(d, n)], jump := if n ≠ 0 then some t else none }
  | .eHalt => some { halt := true }
  | .eRecv d dir => (headWord x dir).map fun w => { regs := [(d, w.data)], pop := some dir.toNat }
  | .ePeek d dir => (headWord x dir).map fun w => .put d (w.code.setWidth 32)
  | .eSend s dir => pushEff f e dir (r s) 0
  | .eEmit s dir sc => pushEff f e dir (r s) sc
  | .eEmitReg s dir k => pushEff f e dir (r s) ((r k).setWidth 2)
  | .eBub dir => pushEff f e dir 0 1
  | _ => some {}

/-- Syllable k of a bundle (R82). -/
def syllableWord (b : BitVec 96) (k : Nat) : W32 := b.extractLsb' (32 * k) 32

/-- The three syllables of a bundle; a bundle that FLOAD let pass decodes (R246). -/
def bundle (b : BitVec 96) : List Instr :=
  [0, 1, 2].map fun k => match decodeE (syllableWord b k) with | .ok i => i | .error _ => .eNop

/-- The effect of a bundle; none when its link syllable is not ready (R241). -/
def bundleEff (f : FState) (e : BitVec 6) (l : List Instr) : Option Eff :=
  l.foldl (fun r i => match r, eff f e i with | some a, some b => some (a.and b) | _, _ => none) (some {})

/-- The element's own part of an effect (R242). -/
def Elem.apply (x : Elem) (a : Eff) : Elem :=
  let n := x.n.toNat
  let pc : BitVec 6 := match a.jump with
    | some t => t
    | none => BitVec.ofNat 6 (if n = 0 then x.pc.toNat + 1 else (x.pc.toNat + 1) % n)
  let e := a.regs.foldl (fun (e : Vector W32 16) p => e.set p.1.toNat p.2 p.1.isLt) x.e
  let lm := match a.lmem with | some p => x.lmem.setIfInBounds p.1 p.2 | none => x.lmem
  let q := match a.pop with | some d => x.q.setIfInBounds d (x.queue d).tail | none => x.q
  { x with pc := pc, e := e, lmem := lm, q := q, halted := x.halted || a.halt }

/-- A word enters the queue it was sent to (R239). -/
def FState.deliver (f : FState) (e : BitVec 6) (a : Eff) : FState :=
  match a.push with
  | none => f
  | some (d, w) =>
    if d = 4 then let x := f.elem e; f.setElem e { x with outq := x.outq ++ [w] }
    else match elNeighbour e d with
      | none => f
      | some n =>
        let x := f.elem n
        let k := (d + 2) % 4
        f.setElem n { x with q := x.q.setIfInBounds k (x.queue k ++ [w]) }

/-! ## Ports (R250 to R253) -/

/-- Where a port goes after a word (R251, R252). Log entry 52 (DEDUCED). -/
def Port.after (p : Port) (cols : Nat) (w : FWord) : Port :=
  let ends := if p.rag then w.code ≠ 0 else 2 ≤ w.code.toNat || cols ≤ p.col.toNat + 1
  let p := if ends then { p with row := p.row + 1, col := 0 } else { p with col := p.col + 1 }
  { p with ended := p.ended || w.code == 3 }

/-- The error of a word pushed to an output port at its position (R252, R253). Log entry 51 (DEDUCED). -/
def outError (t : Tile) (p : Port) (w : FWord) : Option (BitVec 4) :=
  let cols := t.cols.toNat
  let last := p.col.toNat + 1 = cols
  if p.ended then some 1
  else if !p.rag && ((2 ≤ w.code.toNat && !last) || (w.code = 0 && last)) then some 2
  else if !p.rag && w.code = 1 then some 3
  else if t.rows.toNat ≤ p.row.toNat then some 4
  else if p.rag && w.code ≠ 1 && cols ≤ p.col.toNat then some 5 else none

/-- The position at which a port pushed to now writes: its own, moved on by the words still queued. -/
def Elem.pushPort (x : Elem) (p : Port) (cols : Nat) : Port := x.outq.foldl (fun p w => p.after cols w) p

/-- The error of an effect that pushes to the element's own port; a word for a port that is no output is caught by FSTART. -/
def effError (c : Ctx) (e : BitVec 6) (a : Eff) : Option (BitVec 4) :=
  match a.push with
  | some (4, w) =>
    (match (c.f.elem e).port with
     | some p => let t := c.tile p.handle; outError t ((c.f.elem e).pushPort p t.cols.toNat) w
     | none => none)
  | _ => none

/-- Word (r, j) of a port tile lies at this byte of the tile (R251). -/
def portOff (t : Tile) (r j : Nat) : Nat := 4 * (r * t.cols.toNat + j)

/-- The word at a byte of a tile lies within its extent (R18). -/
def Tile.holdsWord (t : Tile) (off : Nat) : Bool := off + 4 ≤ t.size.toNat

/-- The word that a port reads at a byte of a tile, or the failing scratchpad word; beyond the tile's extent it is open, a
value of the run and the fabric cycle alone (R240, R259).
Log entry 36 (DESIGN CHOICE). -/
def Ctx.portWord (c : Ctx) (t : Tile) (off : Nat) : Nat ⊕ W32 :=
  if !t.holdsWord off then
    .inr (Config.freeTileWord c.id.toNat c.take.toNat c.e.seq.toNat c.piF.toNat (t.base.toNat + off))
  else
    match c.firstBad (t.base.toNat + off) 4 with
    | some w => .inl (8 * w - t.base.toNat)
    | none => .inr (c.spad.w32 (t.base.toNat + off))

/-- What an input port does in a cycle, if it has a word to move and room for it (R251). Log entry 120 (DESIGN CHOICE). -/
def inputMove (c : Ctx) (x : Elem) (p : Port) : Option PMove :=
  let t := c.tile p.handle
  let rows := t.rows.toNat
  let r := p.row.toNat; let j := p.col.toNat
  if p.ended || rows ≤ r || 2 ≤ (x.queue 4).length then none
  else
    let lastRow := r + 1 = rows
    let word := fun (len : Nat) =>
      (match c.portWord t (portOff t r j) with
       | .inl k => .ecc p.handle k
       | .inr v =>
         let code : BitVec 2 := if j + 1 = len then (if lastRow then 3 else 2) else 0
         let w : FWord := { data := v, code := code }
         .push w (p.after len w) : PMove)
    if !p.rag then some (word t.cols.toNat)
    else
      match c.portWord (c.tile p.hl) (4 * r) with
      | .inl k => some (.ecc p.hl k)
      | .inr v =>
        let n := v.toInt
        if n < 0 || (t.cols.toNat : Int) < n then some (.bad 6)
        else if n = 0 then
          let w : FWord := { data := 0, code := 1 }
          some (.push w (p.after 0 w))
        else some (word n.toNat)

/-- What an output port writes in a cycle: tile bytes and a length (handle, offset, value). -/
def outWrites (p : Port) (t : Tile) (w : FWord) : List (BitVec 8 × Nat × W32) :=
  let r := p.row.toNat; let j := p.col.toNat
  let word := (p.handle, portOff t r j, w.data)
  if !p.rag then [word]
  else if w.code = 0 then [word]
  else if w.code = 1 then [(p.hl, 4 * r, 0)]
  else [word, (p.hl, 4 * r, BitVec.ofNat 32 (j + 1))]

/-- Write port words; the failing scratchpad word of the first write that fails is the answer on the left (R291). A word beyond
its tile's extent is written nowhere. Log entry 36 (DESIGN CHOICE). -/
def portWrite (c : Ctx) : List (BitVec 8 × Nat × W32) → Except (BitVec 8 × Nat) Ctx
  | [] => .ok c
  | (h, off, v) :: rest =>
    let t := c.tile h
    if !t.holdsWord off then portWrite c rest
    else
      match c.spadCells ((leBytes 4 v.toNat).zipIdx.map fun p => (t.base.toNat + off + p.2, p.1)) with
      | .error w => .error (h, 8 * w - t.base.toNat)
      | .ok c => portWrite c rest

/-- The port of an element acts in the fabric cycle in progress, unless it has acted: an input port reads its word, an output
port takes its word, which is written as the cycle ends (R251, R252). Log entry 53 (DESIGN CHOICE). -/
def Ctx.portAct (c : Ctx) (e : BitVec 6) (out : Bool) : Ctx :=
  let x := c.f.elem e
  let log := fun (c : Ctx) (m : PMove) => { c with f := { c.f with moves := c.f.moves ++ [(e, m)] } }
  match x.port with
  | none => c
  | some p =>
    if p.out != out || !x.started || (c.f.moves.any fun m => m.1 == e) then c
    else if !out then match inputMove c x p with | some m => log c m | none => c
    else match x.outq with
      | [] => c
      | w :: _ => log c (.took (p.after (c.tile p.handle).cols.toNat w))

/-- The writes of the output port of an element in a fabric cycle. -/
def Ctx.portWrites (c : Ctx) (e : BitVec 6) : List (BitVec 8 × Nat × W32) :=
  let x := c.f.elem e
  match x.port, x.outq with
  | some p, w :: _ => if p.out && x.started then outWrites p (c.tile p.handle) w else []
  | _, _ => []

/-- Every output port writes, in element order; one whose word fails writes nothing and its error is its move (R291). -/
def Ctx.portsWrite (c : Ctx) : Ctx :=
  elems.foldl (fun c e =>
    match portWrite c (c.portWrites e) with
    | .ok c => c
    | .error z =>
      { c with f := { c.f with moves := c.f.moves.map fun m => if m.1 == e then (e, .ecc z.1 z.2) else m } }) c

/-- The scratchpad words that the ports of a fabric cycle read, or write in part: offset and length. -/
def Ctx.portSpans (c : Ctx) : List (Nat × Nat) :=
  elems.flatMap fun e =>
    let x := c.f.elem e
    match x.port with
    | none => []
    | some p =>
      let at_ := fun (h : BitVec 8) (off : Nat) => ((c.tile h).base.toNat + off, 4)
      if !x.started then []
      else if p.out then (c.portWrites e).map fun w => at_ w.1 w.2.1
      else if (inputMove c x p).isNone then []
      else at_ p.handle (portOff (c.tile p.handle) p.row.toNat p.col.toNat) ::
        (if p.rag then [at_ p.hl (4 * p.row.toNat)] else [])

/-- The port has something to do in the fabric cycle in progress. -/
def Ctx.portIdle (c : Ctx) (e : BitVec 6) (out : Bool) : Bool := (c.portAct e out).f.moves.length == c.f.moves.length

/-! ## The fabric cycle (R240 to R242, R253) -/

/-- The element fires in fabric cycle t: its bundle's effect (R241). -/
def firing (f : FState) (t : Nat) (e : BitVec 6) : Option Eff :=
  let x := f.elem e
  if !x.started || x.halted || t % (x.per.toNat + 1) ≠ x.pha.toNat then none
  else bundleEff f e (bundle (x.loop[x.pc.toNat]'x.pc.isLt))

/-- What a port did becomes part of the state at the end of the cycle. Log entry 53 (DESIGN CHOICE). -/
def FState.commit (f : FState) (m : BitVec 6 × PMove) : FState :=
  let x := f.elem m.1
  let moved := f.lastMoved.set m.1.toNat ((f.lastMoved[m.1.toNat]'m.1.isLt) + 1) m.1.isLt
  match m.2 with
  | .push w p =>
    { (f.setElem m.1 { x with port := some p, q := x.q.setIfInBounds 4 (x.queue 4 ++ [w]) }) with lastMoved := moved }
  | .took p => { (f.setElem m.1 { x with port := some p, outq := x.outq.tail }) with lastMoved := moved }
  | _ => f

/-- The trap of an error in fabric cycle t at an element: cause and TVAL (R253, R291). Log entry 51 (DEDUCED). -/
def fabricError (lcore t : Nat) (e : BitVec 6) : PMove ⊕ (BitVec 4 × BitVec 6) → Option (BitVec 7 × W64)
  | .inl (.bad r) => some (0x41, BitVec.ofNat 64 (t * 2 ^ 32 + e.toNat * 2 ^ 16 + r.toNat * 2 ^ 8 + 64))
  | .inl (.ecc h off) => some (0x17, tilePtr lcore h off)
  | .inl _ => none
  | .inr (r, pc) => some (0x41, BitVec.ofNat 64 (t * 2 ^ 32 + e.toNat * 2 ^ 16 + r.toNat * 2 ^ 8 + pc.toNat))

/-- Every started element has halted and every output queue is empty (R254). -/
def FState.finished (f : FState) : Bool :=
  f.el.toList.all fun x => !x.started || (x.halted && x.outq.isEmpty)

/-- One fabric cycle of the context in focus: the trap it raises, if any, and the context after it (R240 to R242, R253).
Log entry 54 (DEDUCED). -/
def fabricStep (c : Ctx) : Option (BitVec 7 × W64) × Ctx :=
  let t := c.piF.toNat
  let c := (elems.foldl (fun c e => (c.portAct e false).portAct e true) c).portsWrite
  let f := c.f
  let fired := elems.filterMap fun e => (firing f t e).map fun a => (e, a)
  let bad := fired.filterMap fun p => (effError c p.1 p.2).map fun r => (p.1, r)
  let good := fired.filter fun p => !(bad.any fun b => b.1 == p.1)
  let errs := elems.findSome? fun e =>
    match f.moves.findSome? fun m => if m.1 == e then fabricError c.lcore t e (.inl m.2) else none with
    | some x => some x
    | none => bad.findSome? fun b => if b.1 == e then fabricError c.lcore t e (.inr (b.2, (f.elem e).pc)) else none
  let f1 := good.foldl (fun (f : FState) p => f.setElem p.1 ((f.elem p.1).apply p.2)) f
  let f2 := f.moves.foldl FState.commit { f1 with moves := [] }
  let f3 := good.foldl (fun (f : FState) p => f.deliver p.1 p.2) f2
  (errs, { c with f := { f3 with lastCc := some c.runCc }, piF := c.piF + 1 })

/-- The run is over: it is abandoned or complete, and pi.f reads 0 (R254, R255). -/
def Ctx.endRun (c : Ctx) : Ctx := { c with f := { c.f with run := none, moves := [] }, piF := 0 }

/-- The machine acts in the F stream. -/
def State.asF (s : State) : State := { s with cur := { s.cur with st := .f } }

/-- A fabric cycle of the run in progress: one at most in a core cycle (R240). One that ends in a trap waits for what goes first
(R330). -/
def fabricCycle (s : State) : State :=
  match s.me.f.run with
  | none => s
  | some w =>
    if !canIssue s .f || s.me.f.finished || w.toNat ≤ s.me.piF.toNat || s.me.f.lastCc = some s.me.runCc then s
    else
      let u := s.asF.meetOwn s.me.portSpans
      let r := fabricStep u.me
      match r.1 with
      | none => { u with me := r.2 }
      | some e =>
        if !s.mayTrap .f s.cur.cl then s
        else
          let t := { u with me := r.2.endRun }
          if e.1 = 0x17 then t.eccTrap e.2 else t.trap e.1 e.2

/-- The first port of a direction that has something to do in the fabric cycle in progress acts. -/
def State.onePort (s : State) (out : Bool) : Res :=
  match s.me.f.run with
  | none => .next s
  | some w =>
    if !canIssue s .f || s.me.f.finished || w.toNat ≤ s.me.piF.toNat || s.me.f.lastCc = some s.me.runCc then .next s
    else
      match elems.find? fun e => !s.me.portIdle e out with
      | none => .next s
      | some e => .next { s with me := s.me.portAct e out }

/-- INPUT_PORT_PUSH: an input port takes its next tile word in the fabric cycle in progress; the word is in its queue from the
next cycle on (R251). -/
def execInputPortPush (s : State) : Res := s.onePort false

/-- OUTPUT_PORT_WRITE: an output port writes its oldest queued word in the fabric cycle in progress; the word is in the tile when
the cycle ends (R252). -/
def execOutputPortWrite (s : State) : Res := s.onePort true

/-- Rows that a ragged output port did not reach (R252). Log entry 52 (DEDUCED). -/
def unreached (t : Tile) (p : Port) : List Nat :=
  let r := p.row.toNat + if p.col = 0 then 0 else 1
  (List.range t.rows.toNat).filter fun k => r ≤ k

/-- RUN_COMPLETE: the run completes with its FSTART (R252, R254). -/
def execRunComplete (s : State) : Res :=
  if s.me.f.run.isNone || !canIssue s .f || !s.me.f.finished then .next s
  else
    let zeros := s.me.f.el.toList.flatMap fun x =>
      match x.port with
      | some p => if x.started && p.out && p.rag then (unreached (s.me.tile p.handle) p).map fun r => (p.hl, 4 * r, (0 : W32)) else []
      | none => []
    match portWrite s.me zeros with
    | .error z =>
      .next (if s.mayTrap .f s.cur.cl then ({ s.asF with me := s.me.endRun }).eccTrap (tilePtr s.me.lcore z.1 z.2) else s)
    | .ok c =>
      let el := c.f.el.map fun x => { x with q := Vector.replicate 5 [], outq := [] }
      .next ({ s.asF with me := { c with f := { c.f with el := el } }.endRun }).retire

/-- The mask of the started elements that have not halted (R255). -/
def FState.unhalted (f : FState) : W64 :=
  BitVec.ofNat 64 (packNat 1 (f.el.toList.map fun x => if x.started && !x.halted then 1 else 0))

/-- FABRIC_BOUND: the run has reached its window without completing (R255). -/
def execFabricBound (s : State) : Res :=
  match s.me.f.run with
  | none => .next s
  | some w =>
    if !canIssue s .f || s.me.f.finished || s.me.piF.toNat < w.toNat || !s.mayTrap .f s.cur.cl then .next s
    else ({ s.asF with me := s.me.endRun }).trapR 0x40 s.me.f.unhalted

/-! ## One syllable -/

/-- A syllable, as a bundle of its own, at the element that the cursor names (R242). Log entry 21 (DEDUCED). -/
def State.syllable (s : State) (i : Instr) : Res :=
  let e := s.cur.el
  match eff s.me.f e i with
  | none => .next s
  | some a =>
    match effError s.me e a with
    | some r =>
      ({ s with me := s.me.endRun }).trapR 0x41
        (BitVec.ofNat 64 (s.me.piF.toNat * 2 ^ 32 + e.toNat * 2 ^ 16 + r.toNat * 2 ^ 8 + (s.me.f.elem e).pc.toNat))
    | none =>
      let f := s.me.f
      .next { s with me := { s.me with f := (f.setElem e ((f.elem e).apply a)).deliver e a } }

/-- E_ADD (R243). -/
def execEAdd (d a b : BitVec 4) (s : State) : Res := s.syllable (.eAdd d a b)
/-- E_SUB (R243). -/
def execESub (d a b : BitVec 4) (s : State) : Res := s.syllable (.eSub d a b)
/-- E_AND (R243). -/
def execEAnd (d a b : BitVec 4) (s : State) : Res := s.syllable (.eAnd d a b)
/-- E_OR (R243). -/
def execEOr (d a b : BitVec 4) (s : State) : Res := s.syllable (.eOr d a b)
/-- E_XOR (R243). -/
def execEXor (d a b : BitVec 4) (s : State) : Res := s.syllable (.eXor d a b)
/-- E_SHL (R243). -/
def execEShl (d a b : BitVec 4) (s : State) : Res := s.syllable (.eShl d a b)
/-- E_SHR (R243). -/
def execEShr (d a b : BitVec 4) (sg : BitVec 1) (s : State) : Res := s.syllable (.eShr d a b sg)
/-- E_CMP (R243). -/
def execECmp (d a b : BitVec 4) (cc : BitVec 3) (s : State) : Res := s.syllable (.eCmp d a b cc)
/-- E_SEL (R243). -/
def execESel (d a b c : BitVec 4) (s : State) : Res := s.syllable (.eSel d a b c)
/-- E_MIN (R243). -/
def execEMin (d a b : BitVec 4) (u : BitVec 1) (s : State) : Res := s.syllable (.eMin d a b u)
/-- E_MAX (R243). -/
def execEMax (d a b : BitVec 4) (u : BitVec 1) (s : State) : Res := s.syllable (.eMax d a b u)
/-- E_MUL16 (R243). -/
def execEMul16 (d a b : BitVec 4) (u : BitVec 1) (s : State) : Res := s.syllable (.eMul16 d a b u)
/-- E_POPC (R243). -/
def execEPopc (d a : BitVec 4) (s : State) : Res := s.syllable (.ePopc d a)
/-- E_MOV (R243). -/
def execEMov (d a : BitVec 4) (s : State) : Res := s.syllable (.eMov d a)
/-- E_CXCH (R243). -/
def execECxch (d c a b : BitVec 4) (sg : BitVec 1) (s : State) : Res := s.syllable (.eCxch d c a b sg)
/-- E_LDI (R244). -/
def execELdi (d : BitVec 4) (i : BitVec 17) (s : State) : Res := s.syllable (.eLdi d i)
/-- E_LDI_H (R244). -/
def execELdiH (d : BitVec 4) (i : BitVec 16) (s : State) : Res := s.syllable (.eLdiH d i)
/-- E_LDS (R244). -/
def execELds (d a : BitVec 4) (i : BitVec 17) (s : State) : Res := s.syllable (.eLds d a i)
/-- E_STS (R244). -/
def execESts (x a : BitVec 4) (i : BitVec 17) (s : State) : Res := s.syllable (.eSts x a i)
/-- E_LOOP (R244). -/
def execELoop (d : BitVec 4) (t : BitVec 6) (s : State) : Res := s.syllable (.eLoop d t)
/-- E_RECV (R245). -/
def execERecv (d : BitVec 4) (dir : BitVec 3) (s : State) : Res := s.syllable (.eRecv d dir)
/-- E_SEND (R245). -/
def execESend (x : BitVec 4) (dir : BitVec 3) (s : State) : Res := s.syllable (.eSend x dir)
/-- E_PEEK (R245). -/
def execEPeek (d : BitVec 4) (dir : BitVec 3) (s : State) : Res := s.syllable (.ePeek d dir)
/-- E_EMIT (R245). -/
def execEEmit (x : BitVec 4) (dir : BitVec 3) (sc : BitVec 2) (s : State) : Res := s.syllable (.eEmit x dir sc)
/-- E_EMIT_REG (R245). -/
def execEEmitReg (x : BitVec 4) (dir : BitVec 3) (k : BitVec 4) (s : State) : Res := s.syllable (.eEmitReg x dir k)
/-- E_BUB (R245). -/
def execEBub (dir : BitVec 3) (s : State) : Res := s.syllable (.eBub dir)
/-- E_HALT (R244). -/
def execEHalt (s : State) : Res := s.syllable (.eHalt)
/-- E_NOP (R83). -/
def execENop (s : State) : Res := s.syllable (.eNop)

/-! ## The F stream (R247 to R250, R254, R256) -/

/-- The slots that an operation may occupy (R83). -/
def slotOk (k : Nat) : Instr → Bool
  | .eNop | .eMov .. | .eLdi .. | .eLdiH .. => true
  | .eAdd .. | .eSub .. | .eAnd .. | .eOr .. | .eXor .. | .eShl .. | .eShr .. | .eMin .. | .eMax .. | .ePopc .. => k ≤ 1
  | .eCmp .. | .eSel .. | .eCxch .. => k == 1
  | .eMul16 .. => k == 0
  | _ => k == 2

/-- The registers that a syllable writes (R246). -/
def sylDests : Instr → List (BitVec 4)
  | .eAdd d _ _ | .eSub d _ _ | .eAnd d _ _ | .eOr d _ _ | .eXor d _ _ | .eShl d _ _ | .eShr d _ _ _ | .eCmp d _ _ _
  | .eSel d _ _ _ | .eMin d _ _ _ | .eMax d _ _ _ | .eMul16 d _ _ _ | .ePopc d _ | .eMov d _ | .eLdi d _ | .eLdiH d _
  | .eLds d _ _ | .eLoop d _ | .eRecv d _ | .ePeek d _ => [d]
  | .eCxch d c _ _ _ => [d, c]
  | _ => []

/-- The link direction of a syllable. -/
def sylDir : Instr → Option (BitVec 3)
  | .eRecv _ d | .eSend _ d | .ePeek _ d | .eEmit _ d _ | .eEmitReg _ d _ | .eBub d => some d
  | _ => none

/-- The direction exists at the element (R246). -/
def dirOk (e : BitVec 6) (d : BitVec 3) : Bool := if d = 4 then isEdge e else (elNeighbour e d.toNat).isSome

/-- The cause for which FLOAD refuses a bundle of a program of n bundles at an element: that of its lowest bad syllable, whose
fields are looked at before its slot, else that of a register written twice (R83, R246). Log entry 104 (DESIGN CHOICE). -/
def bundleBad (e : BitVec 6) (n : Nat) (b : BitVec 96) : Option (BitVec 7) :=
  let one := fun (k : Nat) =>
    (match decodeE (syllableWord b k) with
     | .error x => some (decodeCause x)
     | .ok i =>
       if !slotOk k i then some 0x01
       else if (match sylDir i with | some d => !dirOk e d | none => false) then some 0x02
       else match i with | .eLoop _ t => if n ≤ t.toNat then some 0x02 else none | _ => none : Option (BitVec 7))
  match [0, 1, 2].findSome? one with
  | some c => some c
  | none =>
    let ds := (bundle b).flatMap sylDests
    if ds.eraseDups.length = ds.length then none else some 0x02

/-- FLOAD (R248): it makes its handle busy in one turn, and reads the tile and completes in a later one. -/
def execFload (h : BitVec 8) (e : BitVec 6) (b : BitVec 5) (n : BitVec 6) (s : State) : Res :=
  let t := s.me.tile h
  let cnt := n.toNat + 1
  let at_ := t.base.toNat + 1024 * b.toNat
  if !t.valid then s.trapR 0x16 (h.setWidth 64)
  else if t.level ≠ 0 then s.trapR 0x18 (h.setWidth 64)
  else if t.size.toNat < 1024 * b.toNat + 12 * cnt then s.trapR 0x1A (h.setWidth 64)
  else if s.strm.busy.isNone then
    if t.busy = 255 then .next (s.hold 7 h.toNat)
    else
      let s := ({ s with me := s.me.busyUp h }).hold 0 0
      .next (s.setStrm { s.strm with busy := some h })
  else
    -- a trap that must wait keeps the handle busy
    let done := fun (s : State) => if s.mayTrap s.cur.st s.cur.cl then s.freeRing else s
    match s.me.firstBad at_ (12 * cnt) with
    | some w => (done s).tileEcc h w
    | none =>
      let s := s.meetOwn [(at_, 12 * cnt)]
      let bs := (List.range cnt).map fun k => BitVec.ofNat 96 (s.me.spad.readLE (at_ + 12 * k) 12)
      match bs.zipIdx.findSome? fun p => (bundleBad e cnt p.1).map fun c => (c, p.2) with
      | some (c, k) => (done s).trapR c (BitVec.ofNat 64 (e.toNat * 2 ^ 16 + k))
      | none =>
        let s := s.freeRing
        let x := s.me.f.elem e
        let loop := bs.zipIdx.foldl (fun (l : Vector (BitVec 96) 64) p => l.setIfInBounds p.2 p.1) x.loop
        let x := { x with loop := loop, n := BitVec.ofNat 7 cnt, loaded := true }
        .next ({ s with me := { s.me with f := s.me.f.setElem e x } }).retire

/-- The tile suits a port (R250). -/
def portTileOk (t : Tile) : Bool := t.level = 0 && (t.fmt = 0 || t.fmt = 5)

/-- The tile suits the lengths of a ragged port (R250). -/
def lenTileOk (t l : Tile) : Bool := l.level = 0 && l.fmt = 5 && t.rows.toNat ≤ l.rows.toNat * l.cols.toNat

/-- FOPEN in either direction (R250). -/
def State.openPort (s : State) (h : BitVec 8) (e : BitVec 6) (rag : Bool) (hl : BitVec 8) (out : Bool) : Res :=
  let t := s.me.tile h; let l := s.me.tile hl
  let x := s.me.f.elem e
  if !t.valid then s.trapR 0x16 (h.setWidth 64)
  else if rag && !l.valid then s.trapR 0x16 (hl.setWidth 64)
  else if !portTileOk t then s.trapR 0x18 (h.setWidth 64)
  else if rag && !lenTileOk t l then s.trapR 0x18 (hl.setWidth 64)
  else if !isEdge e || x.port.isSome then s.trapR 0x42 (e.setWidth 64)
  else if t.busy = 255 || (rag && (l.busy = 255 || (h = hl && t.busy = 254))) then .next (s.hold 7 h.toNat)
  else
    let c := if rag then (s.me.busyUp h).busyUp hl else s.me.busyUp h
    let p : Port := { handle := h, out := out, rag := rag, hl := hl }
    .next ({ s with me := { c with f := c.f.setElem e { x with port := some p } } }).retire

/-- FOPEN of an input port (R250). -/
def execFopen (h : BitVec 8) (e : BitVec 6) (r : BitVec 1) (l : BitVec 8) (s : State) : Res := s.openPort h e (r == 1) l false
/-- FOPEN of an output port (R250). -/
def execFopenOut (h : BitVec 8) (e : BitVec 6) (r : BitVec 1) (l : BitVec 8) (s : State) : Res := s.openPort h e (r == 1) l true

/-- FCLOSE (R250). -/
def execFclose (h : BitVec 8) (e : BitVec 6) (s : State) : Res :=
  let x := s.me.f.elem e
  match (match x.port with | some p => if p.handle = h then some p else none | none => none) with
  | none => s.trapR 0x42 (e.setWidth 64)
  | some p =>
    let c := if p.rag then (s.me.busyDown h).busyDown p.hl else s.me.busyDown h
    .next ({ s with me := { c with f := c.f.setElem e { x with port := none } } }).retire

/-- FSCHED of an element (R249). -/
def State.schedule (s : State) (e : BitVec 6) (p f : BitVec 4) (off : Bool) : Res :=
  let x := s.me.f.elem e
  .next ({ s with me := { s.me with f := s.me.f.setElem e { x with per := p, pha := f, off := off } } }).retire

/-- FSCHED (R249). -/
def execFsched (e : BitVec 6) (p f : BitVec 4) (s : State) : Res := s.schedule e p f false
/-- FSCHED with off (R249). -/
def execFschedOff (e : BitVec 6) (p f : BitVec 4) (s : State) : Res := s.schedule e p f true

/-- FSTART starts the element (R254). -/
def Elem.starts (x : Elem) : Bool := x.loaded && !x.off

/-- The element's program uses its port in a way that its binding does not allow (R254 step 1). -/
def portMissing (x : Elem) : Bool :=
  let l := (x.loop.toList.take x.n.toNat).flatMap bundle
  let inp := l.any fun i => match i with | .eRecv _ d | .ePeek _ d => d == 4 | _ => false
  let out := l.any fun i => match i with | .eSend _ d | .eEmit _ d _ | .eEmitReg _ d _ | .eBub d => d == 4 | _ => false
  let isIn := match x.port with | some p => !p.out | none => false
  let isOut := match x.port with | some p => p.out | none => false
  (inp && !isIn) || (out && !isOut)

/-- Every queue and port position is cleared and the elements start (R254 step 2). -/
def FState.begin (f : FState) (w : BitVec 20) : FState :=
  let el := f.el.map fun x =>
    let port := x.port.map fun p => { p with row := 0, col := 0, ended := false }
    let x := { x with q := Vector.replicate 5 [], outq := [], port := port, started := x.starts }
    if x.starts then { x with pc := 0, halted := false } else x
  { f with el := el, run := some w, moves := [], lastCc := none, lastMoved := Vector.replicate 64 0 }

/-- FSTART (R254). It stays at its queue head until its run has ended. Log entry 121 (DESIGN CHOICE). -/
def execFstart (w : BitVec 20) (s : State) : Res :=
  if s.me.f.run.isSome then .next (s.hold 0 0)
  else
    match elems.find? fun e => (s.me.f.elem e).starts && portMissing (s.me.f.elem e) with
    | some e => s.trapR 0x42 (e.setWidth 64)
    | none => .next (({ s with me := { s.me with f := s.me.f.begin w, piF := 0 } }).hold 0 0)

/-- The token of FQRY (R256). -/
def fqryToken (f : FState) (e : BitVec 6) (r : BitVec 4) (w : BitVec 2) : W16 :=
  let x := f.elem e
  let b := fun (v : Bool) (n : Nat) => if v then 2 ^ n else 0
  if w = 0 then BitVec.ofNat 16 (b x.halted 15 + b x.loaded 14 + b x.off 13 + b x.port.isSome 12 + x.pc.toNat)
  else if w = 1 then (x.reg r).setWidth 16
  else if w = 2 then (x.reg r).extractLsb' 16 16
  else f.lastMoved[e.toNat]'e.isLt

/-- FQRY (R256). -/
def execFqry (c : BitVec 1) (r : BitVec 4) (w : BitVec 2) (e : BitVec 6) (s : State) : Res :=
  s.sendTok (if c = 0 then 1 else 4) (fqryToken s.me.f e r w)

/-- FTOKS (R256). -/
def execFtoks (c : BitVec 4) (v : BitVec 16) (s : State) : Res := s.sendTok c.toNat v
/-- FTOKW (R256). -/
def execFtokw (c : BitVec 4) (s : State) : Res := s.takeTok c.toNat fun _ s => s
/-- FCUE (R256). -/
def execFcue (n : BitVec 20) (s : State) : Res := s.cue n
/-- FWAIT (R256): the F stream is serial (R247). -/
def execFwait (s : State) : Res := .next s.retire
/-- FWAIT with end: the F stream fetches nothing more (R256). -/
def execFwaitEnd (s : State) : Res := .next (let t := s.retire; t.setStrm { t.strm with halted := true })
/-- FRING (R128). -/
def execFring (r : BitVec 2) (c h : BitVec 8) (s : State) : Res := s.ring h c r.toNat true

end Sys2Proof.Machine
end

