-- ==== Sys2Proof/Machine/Hub.lean ====
section
/-! DEFINITION. The hub's sequencer: command packets and status records (R260 to R262), the lottery (R284, R285), the entropy
source and its log (R373, R374), the remap tables and cast classes (R266 to R269), seeds and levels (R277, R287), signals. -/

namespace Sys2Proof.Machine

/-! ## Status records (R262, R364) -/

/-- The sequencer works: the package is ready and no brown-out entry has begun (R369, R380). -/
def Hub.active (h : Hub) : Bool := h.boot = 1 && (h.power = .on || h.power = .triggered)

/-- The MSI-X vector that follows a status record (R262, R365). -/
def Status.vector (r : Status) : Option Nat :=
  if r.code ≠ 0 then some 1 else if r.op = 6 then some 0 else none

/-- A record enters the status FIFO. -/
def State.pushStatus (s : State) (r : Status) : State :=
  let s := { s with hub := { s.hub with statq := s.hub.statq ++ [r] } }
  match r.vector with
  | some v => s.msi v
  | none => s

/-- The sequencer writes a status record, and holds it while the FIFO of 256 is full (R364). -/
def State.status (s : State) (code : BitVec 8) (tag : W16) (i : BitVec 4) (op : BitVec 8) (value : W64) : State :=
  let r : Status := { code := code, tag := tag, inst := i, op := op, value := value }
  if 256 ≤ s.hub.statq.length || !s.hub.statWait.isEmpty then { s with hub := { s.hub with statWait := s.hub.statWait ++ [r] } }
  else s.pushStatus r

/-- The oldest record leaves the status FIFO, and a held one enters it (R364). -/
def State.popStatus (s : State) : State :=
  let s := { s with hub := { s.hub with statq := s.hub.statq.tail } }
  match s.hub.statWait with
  | r :: t => ({ s with hub := { s.hub with statWait := t } }).pushStatus r
  | [] => s

/-- First word of a status record (R262). -/
def Status.word0 (r : Status) : W64 :=
  BitVec.ofNat 64 (r.code.toNat * 2 ^ 32 + r.tag.toNat * 2 ^ 16 + r.inst.toNat * 2 ^ 8 + r.op.toNat)

/-! ## Packets (R260, R261, R364) -/

/-- Operation of a packet (R261). -/
def Packet.op (p : Packet) : BitVec 8 := p.w0.extractLsb' 0 8
/-- Instance of a packet (R261). -/
def Packet.inst (p : Packet) : BitVec 4 := p.w0.extractLsb' 8 4
/-- The host's tag of a packet (R261). -/
def Packet.tag (p : Packet) : W16 := p.w0.extractLsb' 16 16
/-- Argument of a packet (R261). -/
def Packet.arg (p : Packet) : W32 := p.w0.extractLsb' 32 32

/-- An unassigned op, an instance above 15, or a reserved field that is not 0 (R261). Log entry 64 (DEDUCED). -/
def Packet.bad (p : Packet) : Bool :=
  p.w0.extractLsb' 12 4 ≠ 0 ||
  (match p.op.toNat with
   | 1 => p.arg.extractLsb' 8 24 ≠ 0 || p.w2 ≠ 0 || p.w3 ≠ 0
   | 2 => p.arg.extractLsb' 1 31 ≠ 0 || (p.arg.getLsbD 0 && (p.w1 ≠ 0 || p.w2 ≠ 0))
   | 3 => p.arg ≠ 0 || p.w1 ≠ 0 || p.w2 ≠ 0
   | 4 => p.w1 ≠ 0 || p.w2 ≠ 0
   | 5 => 2 < p.arg.toNat || p.w1 ≠ 0 || p.w2 ≠ 0 || p.w3 ≠ 0
   | 6 => p.w1 ≠ 0 || p.w2 ≠ 0 || p.w3 ≠ 0
   | _ => true)

/-- PACKET_ENQUEUE: the host's write of CMDQ word 3 enqueues the staged packet, or discards it (R260, R364). -/
def execPacketEnqueue (s : State) : Res :=
  if !s.hub.active then .next s
  else
    let st := s.hub.stage.set 3 s.hub.bus.v
    let h := { s.hub with stage := st }
    let p : Packet := { w0 := st[0], w1 := st[1], w2 := st[2], w3 := st[3] }
    .next { s with hub := if 256 ≤ h.cmdq.length then { h with dropped := h.dropped + 1 } else { h with cmdq := h.cmdq ++ [p] } }

/-- PACKET_DISPATCH: the packet at the FIFO head moves into its instance's queue of 16; room has freed, so discarded packets
are reported (R260). -/
def execPacketDispatch (s : State) : Res :=
  match s.hub.cmdq with
  | [] => .next s
  | p :: t =>
    if !s.hub.active || !s.hub.statWait.isEmpty || 16 ≤ (s.inst p.inst).pkts.length then .next s
    else
      let n := s.hub.dropped
      let s := ({ s with hub := { s.hub with cmdq := t, dropped := 0 } }).modInst p.inst fun i => { i with pkts := i.pkts ++ [p] }
      .next (if n = 0 then s else s.status 0x07 0 0 0 n)

/-- The packet that the sequencer executes for the instance of the event, if it has that op. -/
def State.packet (s : State) (op : Nat) : Option Packet :=
  let i := s.inst s.cur.inst
  if !s.hub.active || !s.hub.statWait.isEmpty || !i.granted || i.waiting then none
  else
    match i.pkts with
    | p :: _ => if p.op.toNat = op then some p else none
    | [] => none

/-- The packet of an instance has executed. -/
def State.packetDone (s : State) (i : BitVec 4) : State :=
  s.modInst i fun x => { x with pkts := x.pkts.tail, granted := false, waiting := false }

/-- The packet of an instance has executed, with a status record (R262). -/
def State.packetStatus (s : State) (i : BitVec 4) (p : Packet) (code : BitVec 8) (value : W64) : State :=
  (s.packetDone i).status code p.tag i p.op value

/-! ## The entropy source and the seed log (R373, R374) -/

/-- A seed leaves the entropy source for an instance, after it has entered the seed log; kinds 1 initial seed, 2 PUSHSEED,
3 lottery. -/
def State.drawSeed (s : State) (kind : Nat) (i : BitVec 4) (u take : Nat) : W128 × State :=
  let x := Config.entropy s.hub.entropyN
  let n := s.hub.slogCnt.toNat
  let seed := if kind = 3 then leBytes 4 x.toNat ++ List.replicate 12 0 else leBytes 16 x.toNat
  let entry := leBytes 8 n ++ [BitVec.ofNat 8 kind, i.setWidth 8, BitVec.ofNat 8 u, 0] ++ leBytes 4 take ++ seed
  let log := (n % 1024, entry) :: s.hub.seedLog.filter fun p => p.1 != n % 1024
  let h := { s.hub with entropyN := s.hub.entropyN + 1, slogCnt := s.hub.slogCnt + 1, seedLog := log }
  (x, ({ s with hub := h }).modInst i fun y => { y with seedDigest := sha3 (y.seedDigest ++ entry) })

/-- ENTROPY_HEALTH_FAILURE: requests wait, and lifetime counter 10 counts (R367, R373). -/
def execEntropyHealthFailure (s : State) : Res :=
  .next ((({ s with hub := { s.hub with entropyOk := false } }).lifeInc 10).elog 0x0A 0xFF 0 none 0 0)

/-- ENTROPY_HEALTH_PASS: the packets that waited on the source proceed (R373). -/
def execEntropyHealthPass (s : State) : Res :=
  let go := fun (i : Inst) => if (match i.pkts with | p :: _ => p.op != 6 | [] => true) then { i with waiting := false } else i
  .next { s with hub := { s.hub with entropyOk := true }, insts := s.insts.map go }

/-! ## The lottery (R284, R285) -/

/-- The value with which the generator of a unit starts (R285). -/
def lotStart (base : W32) (u : Nat) : W32 :=
  let x := base ^^^ BitVec.ofNat 32 ((u + 1) * 0x9E3779B9)
  if x = 0 then 1 else x

/-- Generator of a unit. -/
def Hub.lotGen (h : Hub) (u : Nat) : W32 := (h.lottery.lookup u).getD (lotStart h.lotbase u)

/-- Write the generator of a unit. -/
def Hub.setLot (h : Hub) (u : Nat) (x : W32) : Hub := { h with lottery := (u, x) :: h.lottery.filter fun p => p.1 != u }

/-- A draw leaves its unit's generator at x; while no instance holds a reel it stays at its seed (R285). -/
def State.setLot (s : State) (u : Nat) (x : W32) : State :=
  if s.insts.toList.any (·.holds) then { s with hub := s.hub.setLot u x } else s

/-- The generators rest at their seeds while no instance holds a reel (R285). -/
def State.restLottery (s : State) : State :=
  if s.insts.toList.any (·.holds) then s else { s with hub := { s.hub with lottery := [], lotbase := 0 } }

/-- xorshift32 (R285). -/
def xorshift32 (x : W32) : W32 :=
  let x := x ^^^ (x <<< 13)
  let x := x ^^^ (x >>> 17)
  x ^^^ (x <<< 5)

/-- The queue whose cumulative ticket interval holds r (R285). -/
def lotPick {α : Type} : List (α × Nat) → Nat → Option α
  | [], _ => none
  | (q, t) :: l, r => if r < t then some q else lotPick l (r - t)

/-- A grant among contending queues in ascending order: the queue and the generator after it (R285). -/
def lotGrant {α : Type} (c : List (α × Nat)) (x : W32) : Option α × W32 :=
  let t := c.foldl (fun n p => n + p.2) 0
  if t = 0 then (c.head?.map (·.1), x)
  else
    let y := xorshift32 x
    (lotPick c (y.toNat % t), y)

/-- The tickets that an instance brings to the hub sequencer (R284). -/
def Inst.hubTickets (i : Inst) : Nat :=
  if i.holds then i.tickets.toNat
  else match i.pkts with | p :: _ => if p.op = 1 then p.arg.toNat % 256 else 1 | [] => 0

/-- The instances that contend for the sequencer: a queued packet, none being executed. -/
def State.seqQueues (s : State) : List (BitVec 4 × Nat) :=
  ((List.range 16).map fun n => BitVec.ofNat 4 n).filterMap fun i =>
    let x := s.inst i
    if x.pkts.isEmpty || x.granted then none else some (i, x.hubTickets)

/-- The sequencer is executing a packet that does not wait. -/
def State.seqBusy (s : State) : Bool := s.insts.toList.any fun i => i.granted && !i.waiting

/-- The hub sequencer chooses the instance whose packet executes next (R260); a packet of code 0x01 ends at once (R262).
Log entry 64 (DEDUCED). -/
def State.grantSequencer (s : State) : State :=
  if !s.hub.active || !s.hub.statWait.isEmpty || s.seqBusy then s
  else
    let r := lotGrant s.seqQueues (s.hub.lotGen 128)
    match r.1 with
    | none => s
    | some i =>
      let s := s.setLot 128 r.2
      match (s.inst i).pkts with
      | p :: _ => if p.bad then s.packetStatus i p 0x01 0 else s.modInst i fun x => { x with granted := true }
      | [] => s

/-- The B-die that a queued access waits for, none for one outside global memory. -/
def Loc.die : Loc → Option Nat
  | .glob pa _ => some (dieOf pa)
  | _ => none

/-- The oldest queued S access of a context is homed at a B-die: true for a load, false for a store (R293). -/
def portHead (c : Ctx) (b : Nat) : Option Bool :=
  let l := match c.sq.loads with | x :: _ => if x.loc.die = some b then some x.num else none | [] => none
  let x := match c.sq.stores with | x :: _ => if x.loc.die = some b then some x.num else none | [] => none
  match l, x with
  | some n, some m => some (n < m)
  | some _, none => some true
  | none, some _ => some false
  | none, none => none

/-- Queues of contexts in ascending CTXID (R284). -/
def ascending (q : List (BitVec 12 × Nat)) : List (BitVec 12 × Nat) :=
  q.foldl (fun l p => (l.filter fun x => x.1.toNat < p.1.toNat) ++ [p] ++ l.filter fun x => p.1.toNat < x.1.toNat) []

/-- A request port of a B-die grants one of the contexts whose S access waits for it, and the access performs if its stream's
order lets it (R284, R293). Log entry 81 (DEDUCED). -/
def State.grantPort (s : State) (u b : Nat) : State :=
  let q := s.ctxs.filterMap fun c =>
    if c.life = .running && (portHead c b).isSome then
      some (c.id, ((s.inst (instOf c.id)).mtk.toArray.getD c.lcore 0).toNat)
    else none
  let r := lotGrant (ascending q) (s.hub.lotGen u)
  match r.1 with
  | none => s
  | some id =>
    let s := s.setLot u r.2
    match s.focus id with
    | none => s
    | some t =>
      if portHead t.me b = some true then (performLoad t).getD t else (performStore t).getD t

/-- A gather context has a port word to move (R284). Log entry 81 (DEDUCED). -/
def portWaits (c : Ctx) : Bool :=
  c.life = .running && !c.t.hmode && (match c.f.run with | some w => c.piF.toNat < w.toNat | none => false) &&
  !c.f.finished && c.f.lastCc ≠ some c.runCc && elems.any fun e => !c.portIdle e false || !c.portIdle e true

/-- A stream port of a G-die grants one of its contexts, whose port moves one word (R284). -/
def State.grantStream (s : State) (u sk : Nat) : State :=
  let q := s.ctxs.filterMap fun c =>
    if c.engine = .f && s.socketOf c.id == sk && portWaits c then
      some (c.id, ((s.inst (instOf c.id)).ptk.toArray.getD (c.lcore - 192) 0).toNat)
    else none
  let r := lotGrant (ascending q) (s.hub.lotGen u)
  match r.1 with
  | none => s
  | some id =>
    let s := s.setLot u r.2
    match s.focus id with
    | none => s
    | some t =>
      if !canIssue t .f then t
      else
        match elems.find? fun e => !t.me.portIdle e false with
        | some e => { t with me := t.me.portAct e false }
        | none =>
          match elems.find? fun e => !t.me.portIdle e true with
          | some e => { t with me := t.me.portAct e true }
          | none => t

/-- The B-die index of a socket (R292). -/
def bIndex (product : BitVec 8) (sk : Nat) : Option Nat :=
  let l := socketsOf product .b
  if l.contains sk then some (l.idxOf sk) else none

/-- LOTTERY_GRANT: unit u makes a grant, the one of this cycle; the hub's cycles are two to a core cycle (R7, R284, R285). -/
def execLotteryGrant (u : BitVec 8) (s : State) : Res :=
  let n := u.toNat
  let now := s.hub.granted.filter fun p => p == (n, s.cc)
  if (if n = 128 then 2 else 1) ≤ now.length then .next s
  else
  let s := { s with hub := { s.hub with granted := (n, s.cc) :: now ++ s.hub.granted.filter fun p => p.1 != n } }
  if n = 128 then .next s.grantSequencer
  else if 64 ≤ n then .next (if kindOf s.hub.product (n - 64) = .g then s.grantStream n (n - 64) else s)
  else match bIndex s.hub.product n with
    | some b => .next (s.grantPort n b)
    | none => .next s

/-! ## The remap tables and cast classes (R266 to R269) -/

/-- Number of a core's logical die among those of its kind, and how many there are (R268). -/
def dieInKind (n : Nat) : Nat × Nat :=
  if n < 64 then (n / 8, 8) else if n < 192 then ((n - 64) / 16, 8) else ((n - 192) / 4, 4)

/-- The good sockets of a kind, ascending (R268). -/
def goodOf (h : Hub) (k : Kind) : List Nat := (socketsOf h.product k).filter h.isGood

/-- A remap entry (R267). -/
def remapWord (socket core slice nslice : Nat) : W32 :=
  BitVec.ofNat 32 (socket * 2 ^ 26 + core * 2 ^ 22 + slice * 2 ^ 19 + nslice * 2 ^ 16 + 1)

/-- The canonical remap entry of a logical core (R268). -/
def canonEntry (h : Hub) (n : Nat) : W32 :=
  let ds := goodOf h (coreKind n)
  let g := ds.length
  let i := (dieInKind n).1
  let sharing := ((List.range (dieInKind n).2).filter fun j => j % g == i % g).length
  remapWord (ds.getD (i % g) 0) (coreInDie n) (i / g) (sharing - 1)

/-- The kind without a good die, for the status value of R262: 0 M, 1 V, 2 G. -/
def lackingKind (h : Hub) : Option Nat :=
  if (goodOf h .m).isEmpty then some 0 else if (goodOf h .v).isEmpty then some 1
  else if (goodOf h .g).isEmpty then some 2 else none

/-- The canonical remap (R268). -/
def canonRemap (h : Hub) : Vector W32 208 := Vector.ofFn fun i => canonEntry h i.val

/-- Cores of a die of a kind (R11). -/
def coresOf : Kind → Nat
  | .m => 8 | .v => 16 | .g => 4 | _ => 0

/-- The entry of a logical core meets the conditions of R269 in its table. -/
def entryOk (h : Hub) (t : Vector W32 208) (n : Nat) : Bool :=
  let e := t.toArray.getD n 0
  let k := coreKind n
  let group := t.toList.filter fun x => x.getLsbD 0 && entSocket x == entSocket e && entCore x == entCore e
  e.getLsbD 0 && kindOf h.product (entSocket e) == k && h.isGood (entSocket e) && entCore e < coresOf k &&
  group.length == entNslice e + 1 &&
  (List.range (entNslice e + 1)).all fun q => (group.filter fun x => entSlice x == q).length == 1

/-- The first logical core whose entry fails a condition of R269. -/
def tableFails (h : Hub) (t : Vector W32 208) : Option Nat := (List.range 208).find? fun n => !entryOk h t n

/-- The cast class: the value of CAST0 (R266, R346). -/
def castClass (h : Hub) : W64 := BitVec.ofNat 64 (h.product.toNat * 2 ^ 56 + h.good.toNat)

/-- The sheet that a table and the cast select; 0xFFFF for none (R265, R349). -/
def chooseCls (h : Hub) (t : Vector W32 208) (sheets : List (W64 × List (W32 × W32))) : W16 :=
  if (lackingKind h).isNone && t == canonRemap h && allHopsUsable h then
    match sheets.findIdx? fun x => x.1 == castClass h with
    | some k => BitVec.ofNat 16 k
    | none => 0xFFFF
  else 0xFFFF

/-- Whether the hub builds the remap tables itself (R366). -/
def Hub.hardRemap (h : Hub) : Bool := !h.funcmode.getLsbD 3

/-! ## Seeds, levels and signals (R24, R261, R277, R287) -/

/-- TAKE of an instance: that of its lowest logical core that has not been removed. Log entry 55 (DEDUCED). -/
def State.instTake (s : State) (i : BitVec 4) : W64 :=
  let cs := (List.range 208).filterMap fun n => s.ctx? (ctxIdOf i n)
  match cs.find? fun c => c.life != .removed with
  | some c => c.take
  | none => (cs.head?.map (·.take)).getD 0

/-- A seed or level packet becomes a pending change (R277, R287). Log entries 55, 56 (DEDUCED). -/
def State.pend (s : State) (i : BitVec 4) (p : Packet) (seed : W128) (take : W64) : State :=
  let late := take ≠ 0 && take.toNat ≤ (s.instTake i).toNat
  let c : Change := { op := p.op, tag := p.tag, arg := p.arg, seed := seed, take := take, late := late }
  (s.modInst i fun x => { x with pending := x.pending ++ [c] }).packetDone i

/-- Execute a packet that needs an instance with a reel (R262 code 0x02). -/
def State.withReel (s : State) (op : Nat) (go : BitVec 4 → Packet → State) : Res :=
  match s.packet op with
  | none => .next s
  | some p => let i := s.cur.inst; .next (if (s.inst i).holds then go i p else s.packetStatus i p 0x02 0)

/-- PUSHSEED (R287); an entropy seed is drawn now, and waits while the source fails (R373). -/
def execPushseed (s : State) : Res :=
  s.withReel 2 fun i p =>
    if p.arg.getLsbD 0 then
      if !s.hub.entropyOk then s.modInst i fun x => { x with waiting := true }
      else let r := s.drawSeed 2 i 0 (s.instTake i).toNat; r.2.pend i p r.1 p.w3
    else s.pend i p (p.w2 ++ p.w1) p.w3

/-- POPSEED (R287). -/
def execPopseed (s : State) : Res := s.withReel 3 fun i p => s.pend i p 0 p.w3

/-- FORKSEED (R287). -/
def execForkseed (s : State) : Res := s.withReel 4 fun i p => s.pend i p 0 p.w3

/-- SETLEVEL (R277). -/
def execSetlevel (s : State) : Res := s.withReel 5 fun i p => s.pend i p 0 0

/-- SIGNAL: reports at once when no earlier change is pending, else waits (R261). -/
def execSignal (s : State) : Res :=
  s.withReel 6 fun i p =>
    if (s.inst i).pending.isEmpty then s.packetStatus i p 0x00 (p.arg.setWidth 64)
    else s.modInst i fun x => { x with waiting := true }

/-- SIGNAL_REPORT: a waiting SIGNAL reports once every earlier change has applied or lapsed (R261, R262).
Log entry 94 (DEDUCED). -/
def execSignalReport (s : State) : Res :=
  let i := s.cur.inst
  let x := s.inst i
  match x.pkts with
  | p :: _ =>
    if s.hub.active && s.hub.statWait.isEmpty && x.waiting && p.op = 6 && x.pending.isEmpty then
      .next (s.packetStatus i p 0x00 (p.arg.setWidth 64))
    else .next s
  | [] => .next s

/-- The child seed of FORKSEED (R287). -/
def forkSeed (parent : W128) (index : W32) : W128 :=
  BitVec.ofNat 128 (leNat ((sha3 (leBytes 16 parent.toNat ++ leBytes 4 index.toNat)).take 16))

/-- An entry of the change list of the run record (R372). -/
def RunChange.bytes (c : RunChange) : List Byte :=
  [c.op, 0, 0, 0] ++ leBytes 4 c.take.toNat ++ leBytes 8 c.arg.toNat ++ leBytes 16 c.seed.toNat

/-- A change that took effect enters the run record (R372). -/
def Inst.noteChange (i : Inst) (c : RunChange) : Inst :=
  { i with changes := if i.changes.length < 64 then i.changes ++ [c] else i.changes,
           changeCount := i.changeCount + 1, changeDigest := sha3 (i.changeDigest ++ c.bytes),
           recFlags := if 64 ≤ i.changes.length then i.recFlags ||| 8 else i.recFlags }

end Sys2Proof.Machine
end

