-- ==== Sys2Proof/Machine/Cuts.lean ====
section
/-! DEFINITION. The completion of a cut (R118, R272, R273): takes, the splice of remote tokens (R113, R275), and at a package
cut the pending seed and level changes (R277, R287), the rebuilt remap (R269, R353) and the resume point (R379). -/

namespace Sys2Proof.Machine

/-- CTXIDs of an instance's contexts in ascending order. -/
def State.idsOf (s : State) (i : BitVec 4) : List (BitVec 12) :=
  ((List.range 208).map (ctxIdOf i)).filter fun id => (s.ctx? id).isSome

/-! ## The splice of remote tokens (R113, R275) -/

/-- Tokens on their way to a channel from the contexts other than `id`. -/
def tokensBound (s : State) (id : BitVec 12) (core : BitVec 8) (ch : BitVec 3) : Nat :=
  s.ctxs.foldl (fun n c =>
    if c.id = id || instOf c.id ≠ instOf id then n
    else n + (c.sq.outq.filter fun o => o.due.isSome && o.core == core && o.ch == ch).length) 0

/-- The channel has room for one more token of the splice, `own` of the sender's being on their way (R113). -/
def spliceRoom (s : State) (id : BitVec 12) (o : OutTok) (own : Nat) : Bool :=
  match s.ctx? (ctxIdOf (instOf id) o.core.toNat) with
  | some d => d.life = .removed || (d.chan (6 + o.ch.toNat)).length + tokensBound s id o.core o.ch + own < 32
  | none => true

/-- The cycle in which the last token that this splice carries for a channel, from the senders among `ids`, enters it. -/
def State.lastDue (s : State) (ids : List (BitVec 12)) (core : BitVec 8) (ch : BitVec 3) : Nat :=
  (s.ctxs.filter fun c => ids.contains c.id).foldl (fun n c =>
    c.sq.outq.foldl (fun n o => match o.due with
      | some d => if d.2 = s.cc && o.core == core && o.ch == ch then Nat.max n d.1 else n
      | none => n) n) 0

/-- The tokens of a sender that the splice of this cut carries; none enters its channel before those of the senders before it,
`ids` (R113, R275). -/
def State.sendTokens (s : State) (ids : List (BitVec 12)) (id : BitVec 12) : State :=
  s.modCtx id fun c =>
    let out := c.sq.outq.foldl (fun (l : List OutTok) o =>
      let own := (l.filter fun x => x.due.isSome && x.core == o.core && x.ch == o.ch).length
      if o.due.isSome || !spliceRoom s id o own then l ++ [o]
      else
        let lat := latency s.hub (s.socketOf id) (s.socketOf (ctxIdOf (instOf id) o.core.toNat))
        l ++ [{ o with due := some (Nat.max (s.cc + lat) (s.lastDue ids o.core o.ch), s.cc) }]) []
    { c with sq := { c.sq with outq := out } }

/-! ## Takes -/

/-- The completion of a cut of a tag at one participant (R32, R118, R279). -/
def Ctx.cutDone (c : Ctx) (t : BitVec 3) (cc : Nat) : Ctx :=
  if c.life = .removed then c
  else
    let c := { c with take := c.take + 1, takeStart := cc, demoted := false }
    if c.arrived = some t then { c with arrived := none, s := c.s.next (c.s.pc + 4) cc } else c

/-- What arrival at a cut releases: every access of the context before it (R314). -/
def Ctx.arrives (c : Ctx) (tick : Nat) : Known := ((c.gives .s tick).join c.hb.e).join (c.gives .c tick)

/-- Every stream of a participant acquires what the participants of a cut have released (R314). -/
def Ctx.acquireAll (c : Ctx) (k : Known) : Ctx := ((c.acquire .s k).acquire .m k).acquire .c k

/-- Where the completion of a cut has changed a context's image: the S stream's address and number (R271). -/
def cutSegs (c : Ctx) : List (Nat × List Byte) := [(0x0A0, leBytes 8 c.s.restart.toNat), (0x248, leBytes 8 c.s.seq.toNat)]

/-! ## Pending changes (R24, R277, R287) -/

/-- A change that takes effect: noted in the run record, with its status record (R262, R372). -/
def State.changed (s : State) (i : BitVec 4) (c : Change) (seed : W128) (f : Inst → Inst) (code : BitVec 8) (value : W64) :
    State :=
  let n : RunChange := { op := c.op, take := (s.instTake i).setWidth 32, arg := c.arg.setWidth 64, seed := seed }
  (s.modInst i fun x => (f x).noteChange n).status code c.tag i c.op value

/-- One pending change at the package cut that it is due at. -/
def State.applyChange (s : State) (i : BitVec 4) (c : Change) : State :=
  let x := s.inst i
  let code : BitVec 8 := if c.late then 0x09 else 0x00
  let depth := s.status 0x06 c.tag i c.op (BitVec.ofNat 64 x.seeds.length)
  let push := fun (seed : W128) =>
    if 16 ≤ x.seeds.length then depth
    else s.changed i c seed (fun x => { x with seeds := seed :: x.seeds }) code (s.instTake i)
  match c.op.toNat with
  | 2 => push c.seed
  | 3 =>
    if x.seeds.length ≤ 1 then depth
    else s.changed i c 0 (fun x => { x with seeds := x.seeds.tail }) code (s.instTake i)
  | 4 => push (forkSeed (x.seeds.headD 0) c.arg)
  | _ =>
    let none_ := c.arg = 0 && x.castcls = 0xFFFF
    s.changed i c 0 (fun x => { x with reqLevel := c.arg.setWidth 2 }) (if none_ then 0x08 else 0x00)
      (if none_ then 0xFFFF else s.instTake i)

/-- The change applies at this package cut (R277, R287). -/
def Change.due (c : Change) (take : W64) : Bool := c.op = 5 || c.take.toNat ≤ take.toNat

/-- Every change due at this package cut applies, in packet order. -/
def State.applyPending (s : State) (i : BitVec 4) : State :=
  let take := s.instTake i
  let l := (s.inst i).pending
  let s := s.modInst i fun x => { x with pending := x.pending.filter fun c => !c.due take }
  (l.filter fun c => c.due take).foldl (fun s c => s.applyChange i c) s

/-- The level in force and the sheet in use reach every context (R277). Log entry 62 (DEDUCED). -/
def State.setLevel (s : State) (i : BitVec 4) : State :=
  let x := s.inst i
  let lvl : BitVec 2 := if x.reqLevel = 0 && x.castcls = 0xFFFF then 1 else x.reqLevel
  let s := s.modInst i fun x => { x with level := lvl, recFlags := if lvl = 2 then x.recFlags ||| 2 else x.recFlags }
  s.mapCtxs fun c => if instOf c.id = i && c.life ≠ .removed then { c with level := lvl, castcls := x.castcls } else c

/-! ## The remap at a package cut (R269, R353) -/

/-- Save the contexts of an instance whose entry differs from a new table, and put the table in force. Log entry 58 (DEDUCED). -/
def State.moveAll (s : State) (i : BitVec 4) (t : Vector W32 208) : State :=
  let moved := (s.idsOf i).filter fun id =>
    match s.ctx? id with
    | some c => c.life = .running && s.remapEntry id ≠ t.toArray.getD (lcoreOf id) 0
    | none => false
  let s := if moved.isEmpty then s else s.demote i
  let s := moved.foldl (fun s id => s.within id fun s => s.save .saved) s
  s.modInst i fun x => { x with remap := t, staged := [], recls := true }

/-- A die that has rejoined the cast enters the canonical remap (R353 step 6). Log entries 57, 58 (DEDUCED). -/
def State.rejoin (s : State) (i : BitVec 4) : State :=
  if s.hub.hardRemap && s.hub.dieOp.isNone && (lackingKind s.hub).isNone && (s.inst i).remap ≠ canonRemap s.hub then
    s.moveAll i (canonRemap s.hub)
  else s

/-- CASTCLS is chosen again after a change of the remap (R269, R277). -/
def State.reclass (s : State) (i : BitVec 4) : State :=
  let x := s.inst i
  if !x.recls then s
  else
    let k := chooseCls s.hub x.remap x.sheets
    let n : RunChange := { op := 6, take := (s.instTake i).setWidth 32, arg := k.setWidth 64, seed := 0 }
    s.modInst i fun x => let y := { x with castcls := k, recls := false }; if k = x.castcls then y else y.noteChange n

/-! ## The resume point (R379) -/

/-- The state that an instance would restart from. -/
def State.snapshot (s : State) (i : BitVec 4) : Resume :=
  let x := s.inst i
  { ctxs := s.ctxs.filter fun c => instOf c.id == i, seeds := x.seeds, pending := x.pending, level := x.level,
    castcls := x.castcls, take := s.instTake i, undo := [], sevs := s.sevs.filter fun f => instOf f.ctx == i, cc := s.cc,
    overflow := false }

/-- A new resume point while takes are journalled, or none. -/
def State.mark (s : State) (i : BitVec 4) : State :=
  s.modInst i fun x => { x with resume := if s.hub.boJen then some (s.snapshot i) else none }

/-- An instance that drains at brown-out entry stops at the package cut that it completes (R380). -/
def State.drainCut (s : State) (i : BitVec 4) : State :=
  if s.hub.power = .entering && !s.hub.drained.getLsbD i.toNat then
    let s := s.modInst i fun x => { x with resume := some (s.snapshot i) }
    { s with hub := { s.hub with drained := setBit s.hub.drained i.toNat true } }
  else s

/-- What a cut on a package tag does beside (R277, R287, R379). Log entry 57 (DEDUCED). -/
def State.packageCut (s : State) (i : BitVec 4) : State :=
  ((((s.rejoin i).reclass i).applyPending i |>.setLevel i).mark i).drainCut i

/-- A cut completes now: its participants' takes end, and the splice begins (R118, R273). Log entry 92 (DEDUCED). -/
def State.completeCut (s : State) (i : BitVec 4) (t : BitVec 3) : State :=
  let ids := (s.idsOf i).filter fun id => (s.parts i t).any fun c => c.id == id
  let s := ids.foldl (fun s id => s.sendTokens (ids.takeWhile (· != id)) id) s
  let known := (s.parts i t).foldl (fun (k : Known) c => k.join (c.arrives s.tick)) []
  let s := ids.foldl (fun s id => s.update id (fun c => (c.cutDone t s.cc).acquireAll known) cutSegs) s
  let s := s.modInst i fun x => { x with btcnt := x.btcnt.set t.toNat ((x.btcnt[t.toNat]'t.isLt) + 1) t.isLt }
  let lvl := ((s.inst i).btcfg[t.toNat]'t.isLt).extractLsb' 8 3
  if lvl = 7 then s.packageCut i else s

/-- CUT_COMPLETE: the cut of a tag of the event's instance completes in its cycle; one that a participant has left since no
longer does (R273, R331). -/
def execCutComplete (t : BitVec 3) (s : State) : Res :=
  let i := s.cur.inst
  match s.cuts.find? fun f => f.inst == i && f.tag == t && f.due ≤ s.cc with
  | none => .next s
  | some f =>
    let s := { s with cuts := s.cuts.erase f }
    .next (if s.allArrived i t then s.completeCut i t else s)

end Sys2Proof.Machine
end

