-- ==== Sys2Proof/Machine/ScalarSys.lean ====
section
/-! DEFINITION. The S stream's folio, tile, ring and system instructions (R123 to R130), the control registers (R32, R35) and
the prefix word of every stream (R67). -/

namespace Sys2Proof.Machine

/-! ## Folio slots (R123) -/

/-- The frame that carries a slot's tag loses it (R25, R184). -/
def State.dropFrame (s : State) (id : BitVec 12) (slot : BitVec 6) : State :=
  { s with cores := s.cores.map fun k =>
      { k with frames := k.frames.map fun f => if f.valid && f.ctx == id && f.slot == slot then { f with valid := false } else f } }

/-- Folio slot entry. -/
def Ctx.slot (c : Ctx) (i : BitVec 6) : FolioSlot := c.folio[i.toNat]'i.isLt

/-- Write a folio slot entry. -/
def Ctx.setSlot (c : Ctx) (i : BitVec 6) (f : FolioSlot) : Ctx := { c with folio := c.folio.set i.toNat f i.isLt }

/-- FOLIO_IMAGE's code for the operands of FOLIO, if one of its cases holds (R123). -/
def folioCode (a b : W64) : Option W64 :=
  if a.extractLsb' 56 8 ≠ 0 then some 0x11
  else if a.extractLsb' 0 8 ≠ 0 then some 0x12
  else if b.extractLsb' 0 6 = 0 || 3 < (b.extractLsb' 0 6).toNat then some 0x13
  else if b.extractLsb' 6 2 ≠ 0 then some 0x14
  else none

/-- The slot entry that FOLIO writes (R123). -/
def boundSlot (a b : W64) : FolioSlot :=
  { st := 1, nin := b.extractLsb' 0 6, lat := b.extractLsb' 8 8, image := a.extractLsb' 0 56, hash := b.extractLsb' 16 48 }

/-- FOLIO (R123). -/
def execFolio (a b : BitVec 5) (i : BitVec 6) (s : State) : Res :=
  match folioCode (s.me.rg a) (s.me.rg b) with
  | some code => s.trapR 0x21 code
  | none => .next ({ s.dropFrame s.me.id i with me := s.me.setSlot i (boundSlot (s.me.rg a) (s.me.rg b)) }).retireS

/-- FUNBIND (R123): the entry is empty again. -/
def execFunbind (i : BitVec 6) (s : State) : Res :=
  .next ({ s.dropFrame s.me.id i with me := s.me.setSlot i {} }).retireS

/-! ## Tiles (R125, R126) -/

/-- The format suits the level (R125). -/
def fmtSuits (level : BitVec 3) (fmt : BitVec 4) : Bool :=
  if level = 1 then [0x6, 0x8, 0x9, 0xA, 0xB, 0xC, 0xF].contains fmt.toNat
  else if level = 2 then fmt = 0 else true

/-- The tile that TALLOC's operands describe, before it has a base; none when TILE_DESC applies (R125). -/
def tileDesc (a b : W64) : Option Tile :=
  let level : BitVec 3 := a.extractLsb' 0 3
  let fmt : BitVec 4 := a.extractLsb' 4 4
  let slots : BitVec 8 := a.extractLsb' 8 8
  let rows : W16 := a.extractLsb' 16 16
  let cols : W16 := a.extractLsb' 32 16
  let n := b.toNat
  if a.extractLsb' 48 16 ≠ 0 || a.getLsbD 3 || 3 < level.toNat || rows = 0 || cols = 0 then none
  else if n = 0 || n % 256 ≠ 0 || 2 ^ 23 < n then none
  else if level = 3 && (slots = 0 || n % (256 * slots.toNat) ≠ 0) then none
  else if level ≠ 3 && slots ≠ 0 then none
  else if !fmtSuits level fmt then none
  else some { valid := true, level := level, fmt := fmt, rows := rows, cols := cols, size := BitVec.ofNat 24 n, slots := slots }

/-- The bytes [base, base + n) are free and lie in the 8 MiB (R125). Log entry 37 (DEDUCED). -/
def spadFree (c : Ctx) (base n : Nat) : Bool :=
  base + n ≤ 2 ^ 23 &&
  c.tiles.toList.all fun t => !t.valid || base + n ≤ t.base.toNat || t.base.toNat + t.size.toNat ≤ base

/-- The lowest 256-byte-aligned base at which `n` bytes are free: 0, or after the end of a tile (R125). Log entry 37 (DEDUCED). -/
def spadPlace (c : Ctx) (n : Nat) : Option Nat :=
  let ends := 0 :: c.tiles.toList.filterMap fun t =>
    if t.valid then some ((t.base.toNat + t.size.toNat + 255) / 256 * 256) else none
  (ends.filter fun b => spadFree c b n).min?

/-- TALLOC (R125). -/
def execTalloc (d a b : BitVec 5) (h : BitVec 8) (s : State) : Res :=
  match (if (s.me.tile h).valid then none else tileDesc (s.me.rg a) (s.me.rg b)) with
  | none => s.trapR 0x18 (h.setWidth 64)
  | some t =>
    match spadPlace s.me t.size.toNat with
    | none => s.trapR 0x19 (h.setWidth 64)
    | some base =>
      .next ({ s with me := (s.me.setTile h { t with base := BitVec.ofNat 23 base }).wg d (BitVec.ofNat 64 base) false }).retireS

/-- TFREE (R18, R126). Log entry 26 (DEDUCED). -/
def execTfree (h : BitVec 8) (s : State) : Res :=
  let t := s.me.tile h
  if !t.valid then s.trapR 0x16 (h.setWidth 64)
  else if t.busy ≠ 0 then .next (s.holdS 7 h.toNat)
  else .next ({ s with me := s.me.setTile h { t with valid := false } }).retireS

/-- TINFO (R126). -/
def execTinfo (d : BitVec 5) (h i : BitVec 8) (s : State) : Res :=
  let n := (s.me.tile h).bits
  .next (s.putS d (BitVec.ofNat 64 (if i = 0 then n else n / 2 ^ 64)) false)

/-- TRING (R127): a produce releases the earlier S accesses. -/
def execTring (r : BitVec 5) (h c : BitVec 8) (s : State) : Res := s.ring h c r.toNat s.me.sDone

/-! ## Control registers (R32, R35) -/

/-- The value of a control register; none for an unassigned selector (R32). -/
def csrRead (s : State) (n : Nat) : Option W64 :=
  let c := s.me
  match n with
  | 0x000 => some (c.id.setWidth 64)
  | 0x001 => some (BitVec.ofNat 64 c.lcore)
  | 0x002 => some c.member
  | 0x003 => some (c.level.setWidth 64)
  | 0x004 => some c.take
  | 0x005 => some (BitVec.ofNat 64 (s.takecc c))
  | 0x006 => some (c.castcls.setWidth 64)
  | 0x010 => some c.moddef
  | 0x011 => some (c.nflags.setWidth 64)
  | 0x020 => some c.t.tvec
  | 0x021 => some c.t.epc
  | 0x022 => some (c.t.cause.setWidth 64)
  | 0x023 => some c.t.tval
  | 0x024 => some c.t.tseqs
  | 0x025 => some c.t.tseqe
  | 0x026 => some c.t.tseqc
  | 0x028 => some c.t.fvec
  | 0x030 => some (c.piV.setWidth 64)
  | 0x031 => some (c.piM.setWidth 64)
  | 0x032 => some (c.piC.setWidth 64)
  | 0x033 => some (c.piF.setWidth 64)
  | 0x040 => some (BitVec.ofNat 64 s.myInst.seeds.length)
  | 0x060 => some (BitVec.ofNat 64 (s.cc - s.myInst.launchCc))
  | n =>
    if 0x050 ≤ n ∧ n < 0x058 then some ((s.myInst.btcfg.toArray.getD (n - 0x050) 0).setWidth 64)
    else if 0x058 ≤ n ∧ n < 0x060 then some ((s.myInst.btcnt.toArray.getD (n - 0x058) 0).setWidth 64)
    else none

/-- MODDEF would hold no reserved value (R34, R35). -/
def moddefOk (v : W64) : Bool :=
  v.extractLsb' 16 48 = 0 && !v.getLsbD 12 && !v.getLsbD 0 && 2 ≤ (v.extractLsb' 13 3).toNat &&
  (v.extractLsb' 9 3).toNat ≤ 4 && v.extractLsb' 5 2 ≠ 3 && (v.extractLsb' 2 3).toNat ≤ 3

/-- What a write to a control register answers. -/
inductive CsrWrite where
  /-- Unassigned or read-only. -/
  | illegal
  /-- It would leave a reserved value (R35). -/
  | reserved
  | ok (c : Ctx)

/-- A write to a control register (R32, R35): NFLAGS takes the value, and the flags raised in the same cycle on top (R29). -/
def csrWrite (c : Ctx) (n : Nat) (v : W64) : CsrWrite :=
  match n with
  | 0x010 => if moddefOk v then .ok { c with moddef := v } else .reserved
  | 0x011 => if v.extractLsb' 8 56 = 0 then .ok { c with nflags := v.setWidth 32 ||| c.raisedNow } else .reserved
  | 0x020 => .ok { c with t := { c.t with tvec := v } }
  | 0x021 => .ok { c with t := { c.t with epc := v } }
  | 0x028 => .ok { c with t := { c.t with fvec := v } }
  | _ => .illegal

/-- CSRR (R129). -/
def execCsrr (d : BitVec 5) (n : BitVec 12) (s : State) : Res :=
  match csrRead s n.toNat with
  | none => s.trapR 0x01 s.me.s.restart
  | some v => .next (s.putS d v false)

/-- A control register is written (R35, R129). -/
def State.putCsr (s : State) (n : BitVec 12) (v : W64) : Res :=
  match csrWrite s.me n.toNat v with
  | .illegal => s.trapR 0x01 s.me.s.restart
  | .reserved => s.trapR 0x02 s.me.s.restart
  | .ok c => .next ({ s with me := c }).retireS

/-- CSRW (R129). -/
def execCsrw (x : BitVec 5) (n : BitVec 12) (s : State) : Res := s.putCsr n (s.me.rg x)

/-- CSRS (R129). -/
def execCsrs (x : BitVec 5) (n : BitVec 12) (i : BitVec 8) (s : State) : Res :=
  s.putCsr n ((csrRead s n.toNat).getD 0 ||| s.me.rg x ||| i.setWidth 64)

/-! ## System (R129, R130) -/

/-- TRAP (R129). -/
def execTrap (n : BitVec 8) (s : State) : Res := s.trapR 0x05 (n.setWidth 64)

/-- ERET (R129, R332). -/
def execEret (s : State) : Res := if s.me.t.hmode then .next s.eret else s.trapR 0x01 s.me.s.restart

/-- HALT (R130, R332): pending errors are raised first; in handler mode it removes the context. -/
def execHalt (s : State) : Res :=
  s.raising s.me.sq.errs.head? fun s =>
    if s.me.t.hmode then .next (s.remove s.me.t.cause s.me.t.tval)
    else if !s.me.sDone then .next (s.holdS 0 0)
    else .next { s with me := { s.me with s := { s.me.s.next s.me.s.pc s.cc with halted := true } } }

/-- NOP (R129). -/
def execNop (s : State) : Res := .next s.retireS

/-- PFX: the next word of the stream is modified (R67, R71). -/
def execPfx (g : BitVec 4) (p : BitVec 1) (e m : BitVec 4) (f : BitVec 12) (s : State) : Res :=
  let st := s.strm
  let x : Pfx := { gslot := g, gpol := p, bexp := e, bman := m, mods := f, addr := st.pc }
  .next (s.setStrm { st with pfx := some x, pc := st.pc + 4, word := none })

end Sys2Proof.Machine
end

