-- ==== Sys2Proof/Machine/Loader.lean ====
section
/-! DEFINITION. Slates (R263, R264), the reel image and its checks (R89 to R91), LAUNCH (R265) and the retirement of a reel
with its run record (R262, R320, R372). -/

namespace Sys2Proof.Machine

/-! ## The hub's accesses to an instance's space (R294) -/

/-- What a read or write of the hub answers; a write answers no bytes. -/
inductive HubAns where
  /-- It waits: a stack is out of service, or a page moves. -/
  | hold
  /-- A page fails translation, or an atom cannot be read; what was done before stands (R384). -/
  | bad (s : State)
  | ok (bs : List Byte) (s : State)

/-- A stretch of virtual addresses divided at page boundaries of 64 KiB; the number bounds the pieces. -/
def pieces : Nat → Nat → Nat → List (Nat × Nat)
  | 0, _, _ => []
  | k + 1, va, n =>
    if n = 0 then [] else let m := Nat.min n (65536 - va % 65536); (va, m) :: pieces k (va + m) (n - m)

/-- The pieces of `n` bytes at `va`. -/
def piecesOf (va n : Nat) : List (Nat × Nat) := pieces (n / 65536 + 2) va n

/-- Read pieces under the streaming policy. -/
def hubReadPieces (s : State) (i : BitVec 4) : List (Nat × Nat) → HubAns
  | [] => .ok [] s
  | (va, n) :: rest =>
    if 2 ^ 56 < va + n then .bad s
    else
      let w := walk s i va false
      if w.hold then .hold
      else
        let s := s.countWalk w
        match w.pa with
        | none => .bad s
        | some pa =>
          match s.globRead 6 pa n 1 with
          | .hold => .hold
          | .err c => .bad (if c = 0x17 then s.logFail none pa n 1 else s)
          | .ok (b, s) =>
            match hubReadPieces s i rest with
            | .ok bs s => .ok (b ++ bs) s
            | r => r

/-- Read `n` bytes of an instance's space. -/
def hubRead (s : State) (i : BitVec 4) (va n : Nat) : HubAns := hubReadPieces s i (piecesOf va n)

/-- The writer that the hub and the host are. -/
def hubWriter : Writer := { kind := 5, own := false }

/-- Write bytes to pieces of an instance's space, under the streaming policy. -/
def hubWritePieces (s : State) (i : BitVec 4) (wr : Bool) (by_ : Writer) : List (Nat × Nat) → List Byte → HubAns
  | [], _ => .ok [] s
  | (va, n) :: rest, bs =>
    if 2 ^ 56 < va + n then .bad s
    else
      let w := walk s i va wr
      if w.hold then .hold
      else
        let s := s.countWalk w
        match w.pa with
        | none => .bad s
        | some pa =>
          match s.globWrite 6 pa (bs.take n) 1 i by_ with
          | .hold => .hold
          | .err c => .bad (if c = 0x17 then s.logFail none pa n 1 else s)
          | .ok s => hubWritePieces s i wr by_ rest (bs.drop n)

/-! ## Slates (R263, R264) -/

/-- Little-endian number of `n` bytes at an offset. -/
def fieldAt (b : List Byte) (off n : Nat) : Nat := leNat ((b.drop off).take n)

/-- A slate's bytes, 1,632 of them (R263). -/
abbrev Slate := List Byte

/-- Determinism level of a slate. -/
def slateLevel (b : Slate) : BitVec 2 := BitVec.ofNat 2 (fieldAt b 6 1)
/-- The initial seed comes from the entropy source. -/
def slateEseed (b : Slate) : Bool := fieldAt b 7 1 / 2 % 2 == 1
/-- Route tag configuration of a slate. -/
def slateBt (b : Slate) (n : Nat) : Nat := fieldAt b (0x28 + 2 * n) 2

/-- A btcfg entry fails (R263, R264). -/
def btBad (e : Nat) : Bool :=
  let lvl := e / 256 % 8; let id := e % 256
  2048 ≤ e || (lvl == 0 && id != 0) || (lvl == 2 && 19 < id) || (lvl == 7 && id != 0)

/-- Offset of the first field of a slate that fails (R264). Log entry 59 (DEDUCED). -/
def slateFails (b : Slate) : Option Nat :=
  if fieldAt b 0 4 ≠ 0x45544C53 then some 0
  else if fieldAt b 4 2 ≠ 1 then some 4
  else if 2 < fieldAt b 6 1 then some 6
  else if 4 ≤ fieldAt b 7 1 then some 7
  else if slateEseed b && fieldAt b 0x10 16 ≠ 0 then some 0x10
  else if fieldAt b 0x26 2 ≠ 0 then some 0x26
  else
    match (List.range 8).find? fun n => btBad (slateBt b n) with
    | some n => some (0x28 + 2 * n)
    | none =>
      if fieldAt b 0x38 8 ≠ 0 then some 0x38
      else ((List.range 16).find? fun n => !(fieldAt b 0x24 2).testBit n && fieldAt b (0x460 + 32 * n) 32 ≠ 0).map
        fun n => 0x460 + 32 * n

/-! ## The reel image (R89, R90) -/

/-- A section with its contents (R90). -/
structure Section where
  type : Nat
  stream : Nat
  first : Nat
  last : Nat
  vaddr : Nat
  aux : Nat
  data : List Byte
  deriving DecidableEq, Repr, Inhabited

/-- The section covers a logical core. -/
def Section.covers (x : Section) (n : Nat) : Bool := x.first ≤ n && n ≤ x.last

/-- The section has a load address (R90). -/
def Section.loads (x : Section) : Bool := x.type == 2 || (x.type == 1 && x.stream ≤ 4)

/-- The E sections (R90). -/
def Section.isE (x : Section) : Bool := x.type == 1 && x.stream == 5

/-- Entry k of the section table; none when a field R90 reserves is not 0 or the contents lie outside the image. -/
def sectionAt (img : List Byte) (k : Nat) : Option Section :=
  let e := (img.drop (fieldAt img 0x18 8 + 40 * k)).take 40
  let type := fieldAt e 0 1; let stream := fieldAt e 1 1
  let off := fieldAt e 8 8; let size := fieldAt e 16 8
  let x : Section := { type := type, stream := stream, first := fieldAt e 4 2, last := fieldAt e 6 2, vaddr := fieldAt e 24 8,
                       aux := fieldAt e 32 8, data := (img.drop off).take size }
  if e.length < 40 || type = 0 || 7 < type || fieldAt e 2 2 ≠ 0 || x.last < x.first || 207 < x.last then none
  else if img.length < off + size || (type ≠ 1 && stream ≠ 0) || 5 < stream then none
  else if !x.loads && x.vaddr ≠ 0 then none
  else if type ≠ 5 && !x.isE && x.aux ≠ 0 then none
  else if x.isE && 256 ≤ x.aux then none
  else some x

/-- The header's fields are those of R89, and its digest matches. Log entry 60 (DEDUCED). -/
def headerOk (img : List Byte) : Bool :=
  fieldAt img 0 4 == 0x4C525244 && fieldAt img 4 2 == 1 && fieldAt img 6 2 == 64 && fieldAt img 0xC 4 == 0 &&
  fieldAt img 0x10 8 == img.length && 64 ≤ img.length && fieldAt img 0x18 8 % 8 == 0 &&
  (img.drop 0x20).take 32 == sha3 (img.take 0x20 ++ List.replicate 32 0 ++ img.drop 64)

/-- The reel hash (R89). -/
def reelHashOf (img : List Byte) : List Byte := (img.drop 0x20).take 32

/-- The sections of an image in table order. -/
def sectionsOf (img : List Byte) : Option (List Section) := (List.range (fieldAt img 8 4)).mapM (sectionAt img)

/-- Two sections are copies of one section for different cores (R90). -/
def copies (a b : Section) : Bool :=
  a.type == b.type && a.stream == b.stream && a.vaddr == b.vaddr && a.data == b.data && (a.last < b.first || b.last < a.first)

/-- Two sections cover one logical core. -/
def meet (a b : Section) : Bool := a.first ≤ b.last && b.first ≤ a.last

/-- Two sections exclude each other (R91). -/
def clash (a b : Section) : Bool :=
  (a.type == 1 && b.type == 1 && a.stream ≤ 4 && a.stream == b.stream && meet a b) ||
  (a.isE && b.isE && a.aux == b.aux && meet a b) ||
  (a.loads && b.loads && a.vaddr < b.vaddr + b.data.length && b.vaddr < a.vaddr + a.data.length && !copies a b) ||
  (a.type == 5 && b.type == 5 && a.aux == b.aux)

/-- Some pair of a list's entries, in order, meets a relation. -/
def anyPair {α : Type} (r : α → α → Bool) : List α → Bool
  | [] => false
  | a :: t => t.any (r a) || anyPair r t

/-- The stream's code suits every core that the section covers (R13, R91). -/
def kindOk (x : Section) : Bool :=
  x.type != 1 || ((List.range 208).all fun n => !x.covers n ||
    (match x.stream with
     | 0 => true | 3 => true | 1 => engineOf n == .m | 2 => engineOf n == .v | _ => engineOf n == .f))

/-- The records of a section. -/
def records (size : Nat) (b : List Byte) : List (List Byte) :=
  (List.range (b.length / size)).map fun k => (b.drop (size * k)).take size

/-- The operands of the TALLOC that a tile record stands for (R90, R125). -/
def tileOperands (r : List Byte) : W64 × W64 :=
  (BitVec.ofNat 64 (fieldAt r 1 1 + fieldAt r 2 1 * 16 + fieldAt r 3 1 * 256 + fieldAt r 4 2 * 65536 + fieldAt r 6 2 * 2 ^ 32),
   BitVec.ofNat 64 (fieldAt r 8 4))

/-- A tile record takes effect as TALLOC would; none where TALLOC would trap (R91). -/
def applyTile (c : Ctx) (r : List Byte) : Option Ctx :=
  let h := BitVec.ofNat 8 (fieldAt r 0 1)
  if 4 ≤ fieldAt r 1 1 || 16 ≤ fieldAt r 2 1 || fieldAt r 12 4 ≠ 0 || (c.tile h).valid then none
  else
    match tileDesc (tileOperands r).1 (tileOperands r).2 with
    | none => none
    | some t => (spadPlace c t.size.toNat).map fun b => c.setTile h { t with base := BitVec.ofNat 23 b }

/-- A folio record takes effect as FOLIO would; none where FOLIO would trap (R91). -/
def applyFolio (c : Ctx) (r : List Byte) : Option Ctx :=
  let a := BitVec.ofNat 64 (fieldAt r 8 8)
  let b := BitVec.ofNat 64 (fieldAt r 1 1 + fieldAt r 2 1 * 256 + fieldAt r 16 6 * 65536)
  if 64 ≤ fieldAt r 0 1 || fieldAt r 3 5 ≠ 0 || fieldAt r 22 2 ≠ 0 || (folioCode a b).isSome then none
  else some (c.setSlot (BitVec.ofNat 6 (fieldAt r 0 1)) (boundSlot a b))

/-- The E bundles reach the row tile that the section names, if it is one and has room (R90, R91). -/
def applyE (c : Ctx) (x : Section) : Option Ctx :=
  let t := c.tile (BitVec.ofNat 8 x.aux)
  if !t.valid || t.level ≠ 0 || t.size.toNat < x.data.length then none
  else some { c with spad := c.spad.write t.base.toNat x.data }

/-- Apply the records of every section of a type that covers the context's core (R91). -/
def applyAll (l : List Section) (type size : Nat) (f : Ctx → List Byte → Option Ctx) (c : Ctx) : Option Ctx :=
  (l.filter fun x => x.type == type && x.covers c.lcore).foldlM (fun c x => (records size x.data).foldlM f c) c

/-- The state that the image gives a new context: tiles, folio slots, E bundles, the streams' start (R13, R90, R91).
Log entry 34 (DEDUCED). -/
def loadCtx (l : List Section) (c : Ctx) : Option Ctx :=
  let start := fun (k : Nat) =>
    (match l.find? fun x => x.type == 1 && x.stream == k && x.covers c.lcore with
     | some x => { pc := alignPc (BitVec.ofNat 64 x.vaddr) }
     | none => { halted := true, absent := true } : Strm)
  let engine := match c.engine with | .m => 1 | .v => 2 | _ => 4
  do
    let c ← applyAll l 3 16 applyTile c
    let c ← applyAll l 4 24 applyFolio c
    let c ← (l.filter fun x => x.isE && x.covers c.lcore).foldlM applyE c
    return { c with s := start 0, e := start engine, c := start 3 }

/-- The records of a cue sheet (R90). -/
def sheetOf (x : Section) : W64 × List (W32 × W32) :=
  (BitVec.ofNat 64 x.aux, (records 8 x.data).map fun r => (BitVec.ofNat 32 (fieldAt r 0 4), BitVec.ofNat 32 (fieldAt r 4 4)))

/-- One more than the largest cue number of the sheets (R115). -/
def cueCount (sh : List (W64 × List (W32 × W32))) : Nat :=
  sh.foldl (fun n x => x.2.foldl (fun n r => Nat.max n (r.1.toNat + 1)) n) 0

/-- Each sheet gives each cue a cycle, once (R91, R115). -/
def sheetsOk (sh : List (W64 × List (W32 × W32))) : Bool :=
  sh.all fun x => (x.2.map (·.1)).eraseDups.length == x.2.length && x.2.length == cueCount sh

/-- What the sections alone say of the checks of R91. Log entry 60 (DEDUCED). -/
def sectionsOk (l : List Section) : Bool :=
  !anyPair clash l && l.all kindOk &&
  (l.all fun x => (x.type != 3 || x.data.length % 16 == 0) && (x.type != 4 || x.data.length % 24 == 0) &&
    (x.type != 5 || x.data.length % 8 == 0)) &&
  sheetsOk ((l.filter fun x => x.type == 5).map sheetOf)

/-- The walks of the pages of the load addresses (R91). -/
def loadWalks (s : State) (i : BitVec 4) (l : List Section) : List Walk :=
  (l.filter (·.loads)).flatMap fun x => (piecesOf x.vaddr x.data.length).map fun p => walk s i p.1 false

/-- Every page of the load addresses translates (R91). -/
def pagesOk (s : State) (i : BitVec 4) (l : List Section) : Bool :=
  ((l.filter (·.loads)).all fun x => x.vaddr + x.data.length ≤ 2 ^ 56) && (loadWalks s i l).all fun w => w.pa.isSome

/-! ## Launch (R265) -/

/-- MEMBER of a logical core (R33, R263). -/
def memberOf (b : Slate) (n : Nat) : W64 :=
  BitVec.ofNat 64 (n + logicalDie n * 256 + fieldAt b (0x40 + 4 * n) 4 * 65536)

/-- A context at creation, before the image's records (R14); what the hub and the host wrote before LAUNCH happens before its
accesses (R320). -/
def freshCtx (s : State) (i : BitVec 4) (b : Slate) (lvl : BitVec 2) (cls : W16) (n : Nat) : Ctx :=
  let k : Known := [((ctxIdOf i 0, 0xFF), s.tick + 1)]
  { id := ctxIdOf i n, life := .running, member := memberOf b n, level := lvl, castcls := cls, takeStart := s.cc,
    hb := { s := k, e := k, c := k },
    rn := Vector.ofFn fun k => (BitVec.ofNat 128 (fieldAt b (0x460 + 32 * k.val) 16),
                                BitVec.ofNat 128 (fieldAt b (0x470 + 32 * k.val) 16)) }

/-- A new context runs if it is slice 0 of an idle core, else it is saved from the start (R270). -/
def State.install (s : State) (c : Ctx) : State :=
  let e := s.remapEntry c.id
  let idle := !(s.ctxs.any fun d => d.life == .running && entSocket (s.remapEntry d.id) == entSocket e &&
    entCore (s.remapEntry d.id) == entCore e)
  if entSlice e = 0 && idle then { s with rest := insertCtx c s.rest }
  else ({ s with rest := insertCtx { c with life := .saved } s.rest }).putImage c.id 0

/-- Write the contents of the sections at their load addresses, a copied section once (R90, R91). Log entry 61 (DEDUCED). -/
def loadSections (s : State) (i : BitVec 4) : List Section → List Nat → HubAns
  | [], _ => .ok [] s
  | x :: t, done =>
    if !x.loads || x.data.isEmpty || done.contains x.vaddr then loadSections s i t done
    else
      -- w is not needed (R91)
      match hubWritePieces s i false hubWriter (piecesOf x.vaddr x.data.length) x.data with
      | .ok _ s => loadSections s i t (x.vaddr :: done)
      | r => r

/-- Units that own a lottery generator (R284). Log entry 63 (DEDUCED). -/
def lotUnits (h : Hub) : List Nat := socketsOf h.product .b ++ (socketsOf h.product .g).map (· + 64) ++ [128]

/-- The generators are seeded for a launch into a package without a reel (R285). Log entry 63 (DEDUCED). -/
def State.seedLottery (s : State) (i : BitVec 4) (lvl : BitVec 2) (lotseed : W32) : State :=
  if lvl ≠ 2 then { s with hub := { s.hub with lottery := [], lotbase := lotseed } }
  else
    let s := { s with hub := { s.hub with lottery := [], lotbase := 0 } }
    (lotUnits s.hub).foldl (fun s u =>
      let r := s.drawSeed 3 i u 0
      { r.2 with hub := r.2.hub.setLot u (lotStart (r.1.setWidth 32) u) }) s

/-- What LAUNCH makes of an instance, before its contexts. Log entry 62 (DEDUCED). -/
def Inst.launched (x : Inst) (s : State) (b : Slate) (img : List Byte) (p : Packet) (t : Vector W32 208)
    (sh : List (W64 × List (W32 × W32))) (lvl : BitVec 2) (cls : W16) : Inst :=
  { x with holds := true, tag := p.tag, tickets := p.arg.setWidth 8, launchLevel := lvl, launchCast := castClass s.hub,
           launchCls := cls, tfd := fieldAt b 7 1 % 2 == 1, btcfg := Vector.ofFn fun n => BitVec.ofNat 16 (slateBt b n.val),
           mtk := Vector.ofFn fun n => BitVec.ofNat 8 (fieldAt b (0x380 + n.val) 1),
           ptk := Vector.ofFn fun n => BitVec.ofNat 8 (fieldAt b (0x450 + n.val) 1),
           reelHash := reelHashOf img, slateHash := sha3 b, sheets := sh, cues := cueCount sh, launchCc := s.cc,
           seeds := [BitVec.ofNat 128 (fieldAt b 0x10 16)], reqLevel := slateLevel b, level := lvl, castcls := cls, recls := false,
           pending := [], remap := t, staged := [], btcnt := Vector.replicate 8 0, changes := [], changeCount := 0, changeDigest := List.replicate 32 0,
           seedDigest := List.replicate 32 0, recFlags := if lvl = 2 then 2 else 0, resume := none }

/-- The reel starts: a slate and an image that passed every check, and a table (R265). -/
def State.startReel (s : State) (i : BitVec 4) (p : Packet) (b : Slate) (img : List Byte) (l : List Section)
    (t : Vector W32 208) : State :=
  let sh := (l.filter fun x => x.type == 5).map sheetOf
  let cls := chooseCls s.hub t sh
  let none_ := slateLevel b = 0 && cls = 0xFFFF
  let lvl : BitVec 2 := if none_ then 1 else slateLevel b
  let first := !(s.insts.toList.any (·.holds))
  let s := s.modInst i fun x => x.launched s b img p t sh lvl cls
  let s := if slateEseed b then let r := s.drawSeed 1 i 0 0; r.2.modInst i fun x => { x with seeds := [r.1] } else s
  let s := if first then s.seedLottery i lvl (BitVec.ofNat 32 (fieldAt b 0x20 4)) else s
  let new := (List.range 208).filterMap fun n => loadCtx l (freshCtx s i b lvl cls n)
  let s := new.foldl State.install { s with hub := { s.hub with retained := none } }
  (s.mark i).packetStatus i p (if none_ then 0x08 else 0x00) (cls.setWidth 64)

/-- The table that a launch uses, or the value of status 0x05 (R268, R269). -/
def launchTable (s : State) (i : BitVec 4) : Nat ⊕ Vector W32 208 :=
  if s.hub.hardRemap then
    match lackingKind s.hub with
    | some k => .inl k
    | none => .inr (canonRemap s.hub)
  else
    match tableFails s.hub (s.inst i).remap with
    | some n => .inl (0x100 + n)
    | none => .inr (s.inst i).remap

/-- The launch draws from the entropy source: an initial seed, or lottery seeds of the free level (R276, R373). -/
def needsEntropy (s : State) (b : Slate) : Bool := slateEseed b || (slateLevel b = 2 && !(s.insts.toList.any (·.holds)))

/-- The checks of the image, and the launch (R265, R266, R91). -/
def State.launchImage (s : State) (i : BitVec 4) (p : Packet) (b : Slate) : State :=
  let reject := fun (s : State) => s.packetStatus i p 0x04 0
  let va := fieldAt b 8 8
  match hubRead s i va 64 with
  | .hold => s
  | .bad s => reject s
  | .ok head _ =>
    match hubRead s i va (fieldAt head 0x10 8) with
    | .hold => s
    | .bad s => reject s
    | .ok img s1 =>
      match (if headerOk img then sectionsOf img else none) with
      | none => reject s1
      | some l =>
        let s1 := s1.countWalks (loadWalks s1 i l)
        if (loadWalks s1 i l).any (·.hold) then s
        else if !sectionsOk l || !pagesOk s1 i l ||
            !((List.range 208).all fun n => (loadCtx l { id := ctxIdOf i n }).isSome) then reject s1
        else
          match launchTable s1 i with
          | .inl v => s1.packetStatus i p 0x05 (BitVec.ofNat 64 v)
          | .inr t =>
            if needsEntropy s1 b && !s1.hub.entropyOk then s.modInst i fun x => { x with waiting := true }
            else
              match loadSections s1 i l [] with
              | .hold => s
              | .bad s2 => reject s2
              | .ok _ s2 => s2.startReel i p b img l t

/-- LAUNCH (R265). -/
def execLaunch (s : State) : Res :=
  match s.packet 1 with
  | none => .next s
  | some p =>
    let i := s.cur.inst
    .next (
      if (s.inst i).holds then s.packetStatus i p 0x02 0
      else if p.w1.toNat % 64 ≠ 0 then s.packetStatus i p 0x03 (BitVec.allOnes 64)
      else
        match hubRead s i p.w1.toNat 1632 with
        | .hold => s
        | .bad s => s.packetStatus i p 0x03 (BitVec.allOnes 64)
        | .ok b s1 =>
          match slateFails b with
          | some off => s1.packetStatus i p 0x03 (BitVec.ofNat 64 off)
          | none => if s1.hub.entropyOk || !needsEntropy s1 b then s1.launchImage i p b
                    else s.modInst i fun x => { x with waiting := true })

/-! ## Retirement (R130, R262, R320, R372) -/

/-- Every context of an instance has halted and drained, and nothing of it is on its way (R130, R385). Log entry 65 (DEDUCED). -/
def State.retires (s : State) (i : BitVec 4) : Bool :=
  (s.inst i).holds && (s.ctxs.all fun c => instOf c.id != i || c.drained) && (s.xfers.all fun f => instOf f.src != i)

/-- The bytes of the run record before its signature (R372). -/
def State.recordHead (s : State) (i : BitVec 4) : List Byte :=
  let x := s.inst i
  let list := x.changes.flatMap RunChange.bytes
  leBytes 4 0x43525552 ++ leBytes 2 1 ++ [x.launchLevel.setWidth 8, x.recFlags] ++ leBytes 8 x.launchCast.toNat ++
  leBytes 2 x.launchCls.toNat ++ leBytes 2 x.changeCount.toNat ++ leBytes 4 i.toNat ++ leBytes 8 (s.instTake i).toNat ++
  x.reelHash ++ x.slateHash ++ x.seedDigest ++ x.changeDigest ++ s.hub.meas.toList.flatten ++
  list ++ List.replicate (2048 - list.length) 0

/-- The seed of the alias key AK (R371). -/
def aliasSeed (h : Hub) : List Byte := sha3 (Config.fuseUDS ++ h.meas.toList.flatten)

/-- The run record (R372). -/
def State.runRecord (s : State) (i : BitVec 4) : List Byte :=
  let head := s.recordHead i
  head ++ ((List.range 2420).map fun n => Config.mldsaSign (aliasSeed s.hub) head n) ++ List.replicate 12 0

/-- Physical address of the record buffer (R372). -/
def Inst.recordPa (x : Inst) : Nat := (x.runrec.extractLsb' 13 30).toNat * 8192

/-- The sequencer writes the run record, if the instance has a buffer (R372). Log entry 67 (DEDUCED). -/
def State.writeRecord (s : State) (i : BitVec 4) : Acc State :=
  let x := s.inst i
  if !x.runrec.getLsbD 0 then .ok s
  else
    match s.globWrite 6 x.recordPa (s.runRecord i) 1 i hubWriter with
    | .ok s => .ok (s.lifeInc 8)
    | r => r

/-- The context blocks keep the CTXSTAT of an instance's contexts (R368). -/
def State.keepStats (s : State) (i : BitVec 4) : State :=
  let keep := fun (h : Hub) (c : Ctx) =>
    let b := h.block c.id
    if instOf c.id == i then h.setBlock c.id { b with stat := c.stat } else h
  { s with hub := s.ctxs.foldl keep s.hub }

/-- The instance's contexts are gone, with what was on its way to them and the tags of their frames. Log entry 66 (DEDUCED). -/
def State.dropReel (s : State) (i : BitVec 4) : State :=
  let mine := fun (id : BitVec 12) => instOf id == i
  let frames := fun (k : CoreFrames) =>
    { k with frames := k.frames.map fun f => if mine f.ctx then { f with valid := false } else f }
  { s with me := if mine s.me.id then { id := s.me.id } else s.me, rest := s.rest.filter fun c => !mine c.id,
           sevs := s.sevs.filter fun f => !mine f.ctx, cuts := s.cuts.filter fun f => f.inst != i,
           matches_ := s.matches_.filter fun m => !mine m.ctx, cores := s.cores.map frames,
           hub := { s.hub with folreq := s.hub.folreq.filter fun r => !mine r.ctx } }

/-- The instance retires: changes lapse, the run record is written, and the retirement record follows (R262, R320); a waiting
SIGNAL then executes as for an instance that holds no reel. Log entry 94 (DEDUCED). -/
def State.retireReel (s : State) (i : BitVec 4) : Acc State :=
  let x := s.inst i
  let take := s.instTake i
  let s := x.pending.foldl (fun s c => s.status 0x0B c.tag i c.op take) (s.flushInst i)
  let s := s.modInst i fun y => { y with pending := [], waiting := false, granted := y.granted && !y.waiting }
  match s.writeRecord i with
  | .ok s =>
    let s := (s.flushInst i).status 0x0A x.tag i 0x01 (BitVec.ofNat 64 (s.cc - x.launchCc))
    let s := { s with hub := { s.hub with retained := none } }
    .ok (((s.modInst i fun y => { y with holds := false, resume := none }).keepStats i).dropReel i).restLottery
  | r => r

/-- REEL_RETIREMENT (R130, R262). -/
def execReelRetirement (s : State) : Res :=
  let i := s.cur.inst
  if !s.hub.active || !s.hub.statWait.isEmpty || !s.retires i then .next s
  else if (s.inst i).runrec.getLsbD 0 && !physExists s.hub (s.inst i).recordPa then .fault (.physicalHole (s.inst i).recordPa)
  else
    match s.retireReel i with
    | .ok t => .next t
    | .hold => .next s
    | .err _ =>
      -- the record cannot be written: the retirement goes on without it
      .next (match (s.modInst i fun x => { x with runrec := 0 }).retireReel i with
        | .ok t => t.modInst i fun x => { x with runrec := (s.inst i).runrec }
        | _ => s)

end Sys2Proof.Machine
end

