-- ==== Sys2Proof/Machine/Dies.lean ====
section
/-! DEFINITION. The links of a package as die operations and training leave them (R347, R349, R387), the loss of a Vexfy port
(R354, R355), and the quiesce of a die (R353). -/

namespace Sys2Proof.Machine

/-! ## UCIe modules (R349, R387) -/

/-- The two modules that serve a direction, as bits. -/
def dirMods (d : Nat) : BitVec 8 := BitVec.ofNat 8 (3 * 4 ^ d)

/-- The modules of a socket that face another one. -/
def facing (product : BitVec 8) (s : Nat) : BitVec 8 :=
  (List.range 4).foldl (fun (v : BitVec 8) d => if (neighbour product s d).isSome then v ||| dirMods d else v) 0

/-- A module and the one it faces: sockets and numbers. -/
def modulePair (product : BitVec 8) (k m : Nat) : List (Nat × Nat) :=
  match neighbour product k (m / 2) with
  | some t => [(k, m), (t, (m + 4) % 8)]
  | none => []

/-- The modules of a socket that are in service, where `f` tells for each socket which of its modules train. -/
def joinedMods (product : BitVec 8) (f : Nat → BitVec 8) (s : Nat) : BitVec 8 :=
  (List.range 8).foldl (fun (v : BitVec 8) m =>
    let both := match neighbour product s (m / 2) with
      | some t => (f s).getLsbD m && (f t).getLsbD ((m + 4) % 8)
      | none => false
    if both then v ||| BitVec.twoPow 8 m else v) 0

/-- The modules that train at a boot, eight bits to a socket; a disabled die has no power (R349, R353). -/
def Hub.training (h : Hub) (trained : BitVec 288) (s : Nat) : BitVec 8 :=
  if h.disabled.getLsbD s || kindOf h.product s == .empty then 0 else trained.extractLsb' (8 * s) 8 &&& facing h.product s

/-- LINKSTAT after training: that of a die whose modules do not train reads 0, and its neighbours' modules that face it have
failed (R349, R387). -/
def Hub.train (h : Hub) (trained : BitVec 288) : Hub :=
  let f := h.training trained
  { h with trained := (List.range 36).foldl (fun v s => setBit v s (f s != 0)) 0
           linkUp := Vector.ofFn fun i => joinedMods h.product f i.val
           linkFailed := Vector.ofFn fun i => if f i.val = 0 then 0 else facing h.product i.val &&& ~~~joinedMods h.product f i.val }

/-- The dies of the cast: they pass, their modules train, and the host has not disabled them; the hub always (R345, R346,
R387). -/
def Hub.readCast (h : Hub) (passed : BitVec 36) (trained : BitVec 288) : Hub :=
  let good := (List.range 36).foldl (fun (v : BitVec 36) s =>
    setBit v s (kindOf h.product s != .empty && passed.getLsbD s && h.training trained s != 0)) 0
  { h with good := setBit good 6 true }

/-- The modules of a socket are powered and have trained (R387). -/
def Hub.alive (h : Hub) (s : Nat) : Bool := h.trained.getLsbD s

/-- The up and failed bits of a socket's modules of `mask`. -/
def Hub.putMods (h : Hub) (s : Nat) (mask up failed : BitVec 8) : Hub :=
  let put := fun (x : Vector (BitVec 8) 36) (v : BitVec 8) => x.setIfInBounds s ((x.toArray.getD s 0 &&& ~~~mask) ||| (v &&& mask))
  { h with linkUp := put h.linkUp up, linkFailed := put h.linkFailed failed }

/-- The neighbours of a socket, each with the direction in which it faces the socket. -/
def around (product : BitVec 8) (s : Nat) : List (Nat × Nat) :=
  (List.range 4).filterMap fun d => (neighbour product s d).map fun t => (t, (d + 2) % 4)

/-- The modules of a die have stopped: its LINKSTAT reads 0 (R387). -/
def Hub.stopMods (h : Hub) (sk : Nat) : Hub :=
  { h.putMods sk 0xFF 0 0 with linkCrc := h.linkCrc.setIfInBounds sk 0, trained := setBit h.trained sk false }

/-- Each neighbour fences its modules toward the die, and the die's own stop (R353 step 3). -/
def Hub.fence (h : Hub) (sk : Nat) : Hub :=
  let near := fun (p : Nat × Nat) => p.1 == sk || (modulePair h.product p.1 p.2).any fun q => q.1 == sk
  let h := { h with retrain := h.retrain.filter fun r => !near (r.1, r.2.1), crcLog := h.crcLog.filter fun r => !near (r.1, r.2.1) }
  (around h.product sk).foldl (fun (h : Hub) p => h.putMods p.1 (dirMods p.2) 0 0) (h.stopMods sk)

/-- The die trains its modules again, those of `t` with success (R353 step 6, R387). -/
def Hub.retrainDie (h : Hub) (sk : Nat) (t : BitVec 8) : Hub :=
  let f := fun (s : Nat) => if s = sk then t &&& facing h.product sk else if h.alive s then 0xFF else 0
  let own := joinedMods h.product f sk
  let h' := if f sk = 0 then h.stopMods sk
    else { h.putMods sk 0xFF own (facing h.product sk &&& ~~~own) with trained := setBit h.trained sk true }
  (around h.product sk).foldl (fun (x : Hub) p =>
    if h.alive p.1 then let up := joinedMods h.product f p.1; x.putMods p.1 (dirMods p.2) up (~~~up) else x) h'

/-! ## Vexfy ports (R354 to R356) -/

/-- Rank of the member behind a port in the group table (R354, R358). -/
def portRank (h : Hub) (p : Nat) : Option Nat := (collEntries h).findIdx? fun e => (e.extractLsb' 16 6).toNat == p

/-- The collectives of a context that use the lost port end (R354). -/
def Ctx.losePort (c : Ctx) (rank : Nat) : Ctx :=
  let mark := fun (k : Copy) => if k.isColl 1 then { k with remote := (rank, goneMark, 0) :: k.remote } else k
  { c with cp := { c.cp with copies := c.cp.copies.map mark } }

/-- A port goes down: its collectives end, the event is logged, and vector 8 is asserted (R354, R355, R365, R367). -/
def State.portDown (s : State) (p : Nat) : State :=
  let v := s.ports.toArray.getD p {}
  if !v.up then s
  else
    let s := { s with ports := s.ports.setIfInBounds p { v with up := false, fails := 0 } }
    let s := match portRank s.hub p with
      | some r => s.mapCtxs fun c => c.losePort r
      | none => s
    (s.elog 0x06 ((portSocket s.hub.product p).getD 0xFF) 0 none 0 (BitVec.ofNat 64 p)).msi 8

/-! ## Quiesce (R339, R353) -/

/-- The die enters quiesce in this cycle: its links are fenced, a B-die writes back its lines and stops its engine, an S-die's
ports go down (R353 steps 2 to 4, R354). Log entry 88 (DEDUCED). -/
def State.quiesce (s : State) (d : DieOp) : State :=
  let sk := d.socket.toNat
  let s := match bIndex s.hub.product sk with
    | some b => { s.flushDie b with moves := s.moves.filter fun m => m.b.toNat != b }
    | none => s
  let s := { s with hub := ({ s.hub with dieOp := some { d with fenced := true } }).fence sk }
  match (socketsOf s.hub.product .s).findIdx? (· == sk) with
  | some k => (List.range 6).foldl (fun (s : State) i => s.portDown (6 * k + i)) s
  | none => s

/-- A die operation goes on once contexts have moved: with none that moves on its die, a reset or disable enters quiesce; with
none at all, its tables take effect (R353 steps 1 and 2). -/
def State.settleDie (s : State) : State :=
  match s.hub.dieOp with
  | none => s
  | some d =>
    let moving := s.ctxs.filter fun c => c.life == .running && s.moving c.id
    let hosts := moving.any fun c => s.socketOf c.id == d.socket.toNat
    let d' := { d with tables := if moving.isEmpty then [] else d.tables }
    let s := if moving.isEmpty then
        d.tables.foldl (fun s p => s.modInst p.1 fun x => { x with remap := p.2, staged := [], recls := true }) s
      else s
    if d.op = 3 || d.fenced || hosts then { s with hub := { s.hub with dieOp := some d' } } else s.quiesce d'

end Sys2Proof.Machine
end

