-- ==== Sys2Proof/Machine/Switch.lean ====
section
/-! DEFINITION. Time-slicing (R270, R388), pre-emption and restore (R335), expired bounds (R282), watchpoint reports (R311,
R336), and the host's commands to a context (R334, R337, R368). -/

namespace Sys2Proof.Machine

/-! ## Physical cores (R270) -/

/-- Two contexts are placed on one physical core. -/
def State.sameCore (s : State) (a b : BitVec 12) : Bool :=
  entSocket (s.remapEntry a) == entSocket (s.remapEntry b) && entCore (s.remapEntry a) == entCore (s.remapEntry b)

/-- Position of a context in its core's order: by slice within an instance. Log entry 69 (DEDUCED). -/
def State.sliceKey (s : State) (id : BitVec 12) : Nat := 8 * (instOf id).toNat + entSlice (s.remapEntry id)

/-- A saved context that has not arrived at its cut and has not halted (R270). -/
def Ctx.qualifies (c : Ctx) : Bool := c.life = .saved && c.arrived.isNone && !c.drained

/-- Contexts in the order of their slices. -/
def State.bySlice (s : State) (l : List Ctx) : List Ctx :=
  l.foldl (fun r c => (r.filter fun d => s.sliceKey d.id ≤ s.sliceKey c.id) ++ [c] ++
    r.filter fun d => s.sliceKey c.id < s.sliceKey d.id) []

/-- A saved context may run: the package lets its instance issue (R380), it does not wait to move (R389), its die is good, and its
save area can be read (R298, R306). -/
def State.mayRestore (s : State) (c : Ctx) : Bool :=
  s.hub.lets (instOf c.id) && !s.moving c.id && s.hub.isGood (s.socketOf c.id) && !s.awayHeld c

/-- The context that follows the one in focus in the cyclic slice order of its core, among those that qualify (R270).
Log entry 69 (DEDUCED). -/
def State.nextSlice (s : State) : Option (BitVec 12) :=
  let l := s.bySlice (s.rest.filter fun c => c.qualifies && s.mayRestore c && s.sameCore c.id s.me.id)
  let after := l.filter fun c => s.sliceKey s.me.id < s.sliceKey c.id
  (after.head?.or l.head?).map (·.id)

/-- The core of a context runs none. -/
def State.coreIdle (s : State) (id : BitVec 12) : Bool := !(s.ctxs.any fun c => c.life == .running && s.sameCore c.id id)

/-- The copy engine of the context in focus is not at a point where a save may stop it: the oldest copy is within what is not
stopped, or a splice instruction that it goes on to is incomplete (R234, R335). -/
def State.splicing (s : State) : Bool := s.me.copyUnder || (!s.me.t.hmode && s.me.cp.copies.any (·.splice))

/-- A pre-emption of the context in focus may fall here: a trap of this cycle comes first (R335), and the home of its save area
must not hold it (R298, R306). -/
def State.atBoundary (s : State) : Bool := !s.splicing && !s.me.dueNow s && !s.areaHeld s.me.id

/-- The address at which a save of the context in focus would find no memory (R341). Log entry 67 (DEDUCED). -/
def State.saveHole (s : State) : Option Nat :=
  if s.canSave s.me.id && !physExists s.hub (s.saveAddr s.me.id) then some (s.saveAddr s.me.id) else none

/-! ## Restore (R26, R335) -/

/-- The saved context in focus is read back and runs again; a resident slot whose frame it does not find is bound (R26, R184). -/
def State.restoreMe (s : State) : State :=
  let s := s.readImage s.me.id
  let fs := s.coreFrames.toList
  let slot := fun (n : Fin 64) (e : FolioSlot) =>
    if e.st = 2 && !(fs.any fun f => f.tagged s.me.id (BitVec.ofNat 6 n.val)) then { e with st := 1 } else e
  { s with me := { s.me with life := .running, holdCc := 0, folio := Vector.ofFn fun n => slot n s.me.folio[n] } }

/-- CONTEXT_RESTORE: the first context that qualifies on an idle core runs (R335, R389 step 4). -/
def execContextRestore (s : State) : Res :=
  let able := s.ctxs.filter fun c => c.qualifies && s.mayRestore c && s.sameCore c.id s.me.id
  if s.me.life ≠ .saved || (s.bySlice able).head?.map (·.id) ≠ some s.me.id || !s.coreIdle s.me.id then .next s
  else .next s.restoreMe

/-! ## Slice switches (R270, R279, R388) -/

/-- Save the context in focus and restore another of its core. -/
def State.switchTo (s : State) (id : BitVec 12) : State :=
  let s := s.save .saved
  match s.focus id with
  | some t => t.restoreMe
  | none => s

/-- A slice switch, if a context of the core qualifies; at cut arrival it demotes nothing (R279, R388). -/
def State.sliceSwitch (s : State) (demotes : Bool) : Res :=
  if !s.hub.lets (instOf s.me.id) || !s.atBoundary || s.moving s.me.id then .next s
  else
    match s.nextSlice, s.saveHole with
    | none, _ => .next s
    | some _, some pa => .fault (.physicalHole pa)
    | some id, none => .next ((if demotes then s.demote (instOf s.me.id) else s).switchTo id)

/-- SLICE_SWITCH: the running context has arrived at a cut, or halted with its queues drained (R270). -/
def execSliceSwitch (s : State) : Res :=
  if s.me.life = .running && (s.me.arrived.isSome || s.me.drained) then s.sliceSwitch s.me.arrived.isNone else .next s

/-- WAIT_HOLD_EXPIRY: the running context has held every stream at a wait for 256 cc (R270). -/
def execWaitHoldExpiry (s : State) : Res :=
  if s.me.life = .running && 256 ≤ s.me.holdCc && s.me.allHeld then s.sliceSwitch true else .next s

/-! ## Pre-emption for a move (R335, R339, R389) -/

/-- PREEMPTION: a context that is to move stops at its boundary and is saved (R335). -/
def execPreemption (s : State) : Res :=
  if s.me.life ≠ .running || !s.moving s.me.id || !s.atBoundary || s.saveLate s.me then .next s
  else
    match s.saveHole with
    | some pa => .fault (.physicalHole pa)
    | none => .next ((s.demote (instOf s.me.id)).save .saved).settleDie

/-- QUIESCE_SAVE_TIMEOUT: a context still not saved 65,536 cc after the die entered quiesce is removed (R339). -/
def execQuiesceSaveTimeout (s : State) : Res :=
  match s.hub.dieOp with
  | none => .next s
  | some d =>
    if s.saveLate s.me then
      .next (s.remove 0x50 (d.socket.setWidth 64)).settleDie
    else .next s

/-- Once every context that moves is saved, the live table takes the staged values (R389 step 3). Log entry 87 (DEDUCED). -/
def State.commitDone (s : State) : State :=
  match s.hub.remapBusy with
  | none => s
  | some i =>
    if s.ctxs.any fun c => c.life == .running && s.moving c.id then s
    else
      let s := s.modInst i fun x => { x with remap := Vector.ofFn fun n => x.stagedEntry n.val, staged := [], recls := true }
      { s with hub := { s.hub with remapBusy := none } }

/-! ## Expired bounds (R282, R283) -/

/-- The instruction whose expired bound traps first, in the order of R330: the stream's code, its cluster, what it waits for and
its number. A long instruction stops at its unit boundary, and a head's turn to trap comes when what precedes it has completed;
none does within what the copy engine does not stop. -/
def State.boundHead (s : State) : Option (Nat × Option (BitVec 4) × Option Wait × W64) :=
  let c := s.me
  let of := fun (k : Nat) (cl : Option (BitVec 4)) (st : Strm) =>
    if boundExpired c st then some (k, cl, st.wait, st.seq) else none
  let engine := streamCode c.engine
  let long := match c.m.cur with
    | some m => if m.bound ≠ 0 && m.headCc + m.bound ≤ c.runCc then some (engine, none, none, m.seq) else none
    | none => none
  let heads := if c.v.forked then
      (List.range 16).findSome? fun k =>
        if s.mayTrap .v (BitVec.ofNat 4 k) then of engine (some (BitVec.ofNat 4 k)) ((c.v.cl.toArray.getD k {}).st) else none
    else if s.mayTrap c.engine 0 then of engine none c.e
    else none
  let copy := match c.cp.copies with
    | k :: _ => if s.engineSettled && k.expired c.runCc then some (3, none, none, k.seq) else none
    | [] => if s.mayTrap .c 0 then of 3 none c.c else none
  if c.copyUnder then none
  else (of 0 none c.s).or (if c.t.hmode || !s.sSettled then none else long.or (heads.or copy))

/-- BOUND_OVERRUN: an instruction that has not begun, or a long one at its unit boundary, stops and traps (R282). -/
def execBoundOverrun (s : State) : Res :=
  if s.me.life ≠ .running || !s.hub.lets (instOf s.me.id) then .next s
  else
    match s.boundHead with
    | none => .next s
    | some (st, cl, w, seq) =>
      .next (s.takeTrapFrom cl 0x49 (boundTval st (match cl with | some k => k.toNat | none => 0) w seq))

/-! ## Watchpoint reports (R311, R336) -/

/-- The words of a context's image that hold a report (R336, R343): the status and the report. -/
def reportSegs (c : Ctx) : List (Nat × List Byte) :=
  [(0x008, leBytes 8 (statusBits c)), (0x0B8, leBytes 8 (c.t.wpend.getD 0).toNat)]

/-- WATCHPOINT_MATCH: the oldest report for the context in focus reaches the hub, merged into one that is pending (R336). -/
def execWatchpointMatch (s : State) : Res :=
  match s.matches_.find? fun m => m.ctx == s.me.id with
  | none => .next s
  | some m =>
    let s := { s with matches_ := s.matches_.erase m }
    let report := fun (t : TrapState) =>
      { t with wpend := some (match t.wpend with | none => m.tval | some old => old ||| (1 : W64) <<< 59) }
    .next (if s.me.life = .none || s.me.life = .removed then s
           else s.update s.me.id (fun c => { c with t := report c.t }) reportSegs)

/-- A synchronous cause of the context in focus is pending: an expired bound, or the instruction at a head whose trap waits only
for its turn (R330). -/
def State.causePending (s : State) : Bool :=
  s.boundHead.isSome || (s.me.m.cur.isNone && s.me.goingSts.any (·.trapping)) || (s.me.cp.copies.isEmpty && s.me.c.trapping)

/-- WATCHPOINT: the pending report is taken at a boundary of the S stream, outside a handler, after any synchronous cause that is
pending (R311, R330). -/
def execWatchpoint (s : State) : Res :=
  match s.me.t.wpend with
  | none => .next s
  | some v =>
    if s.me.life ≠ .running || !s.hub.lets (instOf s.me.id) || s.me.t.hmode || s.me.copyUnder || s.causePending then .next s
    else .next (({ s with me := { s.me with t := { s.me.t with wpend := none } } }).takeTrapFrom none 0x58 v)

end Sys2Proof.Machine
end

