-- ==== Sys2Proof/Machine/Image.lean ====
section
/-! DEFINITION. The save area read back (R334, R342 to R344), as the host may have rewritten it, and the host's commands to a
context (R368). -/

namespace Sys2Proof.Machine

/-- The context that a context block of BAR0 belongs to, and the offset in the block (R361, R368). -/
def ctxBlock (off : Nat) : Option (BitVec 12 × Nat) :=
  if off < 0x400000 || 0x500000 ≤ off then none
  else
    let r := off - 0x400000
    if 208 ≤ r / 256 % 256 then none else some (ctxIdOf (BitVec.ofNat 4 (r / 65536)) (r / 256 % 256), r % 256)

/-- The context in focus has been saved and marked stopped, as the host has been told (R334). -/
def State.marked (s : State) : Bool := s.me.imageDue ≠ some 4

/-- CTXCMD_RESUME: the stopped context goes on as after ERET from its saved EPC, from its save area as it stands (R334). -/
def execCtxcmdResume (s : State) : Res :=
  match (if s.hub.active then ctxBlock s.hub.bus.off.toNat else none) with
  | none => .next s
  | some (id, _) =>
    .next (s.within id fun s =>
      if s.me.life ≠ .stopped || !s.marked then s
      else
        let s := s.refresh id
        (({ s with me := { s.me with life := .saved } }).resume).putImage id 0)

/-- CTXCMD_REMOVE: removal with CONTEXT_REMOVED; a halted context is left as it is, and one that is stopped for the host does not
count as halted (R334, R337, R368). Its record stands, as the host has left it. -/
def execCtxcmdRemove (s : State) : Res :=
  match (if s.hub.active then ctxBlock s.hub.bus.off.toNat else none) with
  | none => .next s
  | some (id, _) => .next (s.within id fun s =>
      if s.me.life = .stopped then (s.refresh id).finishRemoval 0x53 0
      else if s.me.s.halted || s.me.life = .removed then s
      else s.remove 0x53 0)

end Sys2Proof.Machine
end

