-- ==== Sys2Proof/Machine/Migrate.lean ====
section
/-! DEFINITION. Migration between the tiers (R305, R306), the remote read port (R309), peers (R359) and the timers of the patrol
scrubbers (R291, R299). -/

namespace Sys2Proof.Machine

/-! ## The migration engine's structures (R305) -/

/-- Physical address that a MIGBASE, MIGRMAP or MIGCNT register holds. -/
def migAddr (r : W64) : Nat := (r.extractLsb' 16 27).toNat * 65536

/-- First frame of a B-die's window. -/
def firstFrame (b : Nat) : Nat := b * 2 ^ 23

/-- The frame lies in the HBM4E stack. -/
def hbmFrame (f : Nat) : Bool := isHbm (f * 65536)

/-- Bit of a frame in the bitmap: the engine may use it as a destination. -/
def State.frameFree (s : State) (b f : Nat) : Bool :=
  (s.mem.get (migAddr (s.bdie b).migbase + f % 2 ^ 23 / 8)).getLsbD (f % 8)

/-- Write a frame's bit in the bitmap. -/
def State.setFrameFree (s : State) (b f : Nat) (v : Bool) : State :=
  let a := migAddr (s.bdie b).migbase + f % 2 ^ 23 / 8
  { s with mem := s.mem.set a (setBit (s.mem.get a) (f % 8) v) }

/-- The reverse map's entry of a frame: the address of the level-1 leaf that maps it, or 0. -/
def State.leafOf (s : State) (b f : Nat) : Nat := s.mem.readLE (migAddr (s.bdie b).migrmap + 8 * (f % 2 ^ 23)) 8

/-- Access counter of a frame. -/
def State.frameCount (s : State) (b f : Nat) : Nat := (s.mem.get ((s.bdie b).counterPa f)).toNat

/-- Frames of a tier of a B-die in ascending order: 2^20 of HBM4E, 191 × 2^14 of mappable LPDDR-6. -/
def tierFrames (b : Nat) (hbm : Bool) : List Nat :=
  if hbm then List.range' (firstFrame b + 0x400000) (2 ^ 20) else List.range' (firstFrame b) (191 * 2 ^ 14)

/-- A frame of the stack lies in a range that the access-control table grants (R306, R309). -/
def frameGranted (d : BDie) (f : Nat) : Bool :=
  hbmFrame f && d.act.toList.any fun e =>
    let u := f % 2 ^ 23 - 0x400000
    e.1.getLsbD 63 && (e.2.extractLsb' 0 20).toNat ≤ u && u ≤ (e.2.extractLsb' 40 20).toNat

/-- An armed watchpoint covers a frame (R306, R310). -/
def State.frameWatched (s : State) (f : Nat) : Bool :=
  s.ctxs.any fun c => c.life != .removed && (List.range 4).any fun n => (watchHit s c n (f * 65536) 65536).isSome

/-- A frame takes part in a move. -/
def State.frameBusy (s : State) (f : Nat) : Bool := s.moves.any fun m => m.src == f || m.dst == f

/-- The engine may move a frame away: it is mapped, not pinned, not granted to others, not watched (R306). -/
def State.movable (s : State) (b f : Nat) : Bool :=
  let leaf := s.leafOf b f
  leaf ≠ 0 && !(s.mem.w64 leaf).getLsbD 4 && !frameGranted (s.bdie b) f && !s.frameWatched f && !s.frameBusy f

/-- The move of a frame to the lowest free frame of the other tier begins, unless the engine leaves it in place (R306). -/
def State.startMove (s : State) (b f : Nat) : State :=
  match (tierFrames b (!hbmFrame f)).find? fun x => s.frameFree b x && !s.frameBusy x with
  | none => s
  | some g =>
    if !s.movable b f || frameGranted (s.bdie b) g then s
    else { s with moves := s.moves ++ [{ b := BitVec.ofNat 4 b, src := f, dst := g, leafPa := s.leafOf b f }] }

/-- The engine of a B-die runs: enabled, its die in service. -/
def State.engineOn (s : State) (b : Nat) : Bool :=
  s.hub.boot = 1 && (s.bdie b).migctl.getLsbD 0 &&
  (match bSocket s.hub.product b with | some sk => s.hub.serves sk | none => false)

/-- The request for a frame that is still to be dealt with. -/
def State.askedFor (s : State) (b : BitVec 4) (fr : Nat) : Option MigReq := s.migReqs.find? fun r => r.b == b && r.f == fr

/-- PAGE_MIGRATION: a request of CMIG, or a counter that has reached up, starts a move in hardware mode and is put to the
host in the other; one already put to the host stays with it (R231, R306, R366). `f` is the frame within the B-die's window. -/
def execPageMigration (b : BitVec 4) (f : BitVec 23) (s : State) : Res :=
  let fr := firstFrame b.toNat + f.toNat
  let up := ((s.bdie b.toNat).migctl.extractLsb' 24 8).toNat
  let hot := !hbmFrame fr && up ≤ s.frameCount b.toNat fr
  let start := ({ s with migReqs := s.migReqs.filter fun r => !(r.b == b && r.f == fr) }).startMove b.toNat fr
  if !s.engineOn b.toNat then .next s
  else
    match s.askedFor b fr with
    | some r => .next (if r.host then s else start)
    | none =>
      if !hot then .next s
      else if s.hub.migMode = 1 then .next (({ s with migReqs := s.migReqs ++ [({ b := b, f := fr, host := true } : MigReq)] }).msi 3)
      else .next start

/-- Start moves of the given frames. -/
def startMoves (b : Nat) (l : List Nat) (s : State) : State := l.foldl (fun s f => s.startMove b f) s

/-- MIGRATION_EPOCH_END: demotions while fewer than low HBM4E frames are free, and a change of FUNCMODE.mig (R305, R306,
R366). Log entry 77 (DEDUCED). -/
def execMigrationEpochEnd (b : BitVec 4) (s : State) : Res :=
  let d := s.bdie b.toNat
  let epoch := (d.migctl.extractLsb' 40 8).toNat
  if s.hub.boot ≠ 1 || s.cc % 2 ^ epoch ≠ 0 then .next s
  else
    let s := { s with hub := { s.hub with migMode := s.hub.funcmode.extractLsb' 0 1 } }
    if !s.engineOn b.toNat || s.hub.migMode = 1 then .next s
    else
      let frames := tierFrames b.toNat true
      let free := (frames.filter (s.frameFree b.toNat)).length
      let low := (d.migctl.extractLsb' 48 16).toNat
      let down := (d.migctl.extractLsb' 32 8).toNat
      let cold := frames.filter fun f => !s.frameFree b.toNat f && s.movable b.toNat f && s.frameCount b.toNat f < down
      let going := (s.moves.filter fun m => m.b == b && hbmFrame m.src).length
      .next (startMoves b.toNat (cold.take (low - free - going)) s)

/-- An address in the frame that moves. -/
def movePa (m : PageMove) (pa : Nat) : Nat := if pa / 65536 = m.src then m.dst * 65536 + pa % 65536 else pa

/-- Queued accesses and captured translations follow the page (R306 step 4). -/
def Ctx.follow (c : Ctx) (m : PageMove) : Ctx :=
  let loc := fun (l : Loc) => match l with | .glob pa va => .glob (movePa m pa) va | l => l
  { c with sq := { c.sq with loads := c.sq.loads.map fun l => { l with loc := loc l.loc },
                             stores := c.sq.stores.map fun x => { x with loc := loc x.loc } },
           cp := { c.cp with copies := c.cp.copies.map fun k => { k with pages := k.pages.map fun p => (p.1, movePa m p.2) } },
           m := { c.m with cur := c.m.cur.map fun u => { u with pages := u.pages.map fun p => (p.1, movePa m p.2) } } }

/-- The journal follows the page. -/
def Resume.follow (r : Resume) (m : PageMove) : Resume :=
  { r with undo := r.undo.map fun p => (movePa m (p.1 * 256) / 256, p.2) }

/-- The first `n` granules of a frame that is copied count, if it lies in the stack (R384). -/
def State.countPage (s : State) (f : Nat) (n : Nat := 512) : State :=
  if !hbmFrame f then s else (List.range n).foldl (fun s k => s.countGranule (f * 65536 + 128 * k)) s

/-- Granules that the copy of a frame has read, in ascending order, up to the atom that abandons it (R306, R384).
Log entry 77 (DEDUCED). -/
def State.readUpTo (s : State) (f : Nat) : Nat :=
  ((s.badAtoms.filter fun a => a / 2048 == f).foldl Nat.min (f * 2048 + 2047)) % 2048 / 4 + 1

/-- Writer of a leaf that a move rewrites: no reel's (R306). -/
def leafWriter : Agent := (0xFFF, 0xFF)

/-- The move's copy, the leaf, the bitmap and the counters (R306 steps 3 and 4). Log entry 77 (DEDUCED). -/
def State.movePage (s : State) (m : PageMove) : State :=
  let b := m.b.toNat
  let bytes := s.mem.read (m.src * 65536) 65536
  let s := { s with sram := s.sram.filter fun l => l.line / 512 != m.src && l.line / 512 != m.dst }
  let s := ((s.countPage m.src).countPage m.dst).sramWrite m.leafPa 8 0 leafWriter
  let leaf := s.mem.readLE m.leafPa 8
  let new := leaf % 65536 + m.dst * 65536 + leaf / 2 ^ 43 * 2 ^ 43
  let mem := (s.mem.write (m.dst * 65536) bytes).writeLE m.leafPa 8 new
  let s := { s with mem := mem, poison := s.poison.filter fun a => a / 2048 != m.dst,
                     flips := s.flips.filter fun f => f.1 / 2048 != m.dst }
  let s := (s.setFrameFree b m.dst false).setFrameFree b m.src true
  let d := s.bdie b
  let s := { s with mem := (s.mem.set (d.counterPa m.src) 0).set (d.counterPa m.dst) 0 }
  let s := s.mapCtxs fun c => c.follow m
  { s with insts := s.insts.map (fun x => { x with resume := x.resume.map fun r => r.follow m }),
           marks := s.marks.map fun k => { k with bytes := k.bytes.map (movePa m) } }

/-- PAGE_MOVE_COMPLETE: the oldest move of a B-die whose stack is in service ends, and the lifetime records count the page
(R383); an uncorrectable atom in the page abandons it, and is poisoned where it lies (R298, R306). -/
def execPageMoveComplete (s : State) : Res :=
  match s.moves.find? fun m => (s.bdie m.b.toNat).en with
  | none => .next s
  | some m =>
    let s := { s with moves := s.moves.erase m }
    let bad := poisoned s (m.src * 65536) 65536
    let n := s.readUpTo m.src
    let s := s.meet (m.src * 65536) 65536
    .next (if bad then s.countPage m.src n else (s.movePage m).lifeInc (112 + m.b.toNat))

/-- MIGCMD: the host moves a frame of the B-die in host-assisted mode, or one whose request it has been given (R306, R366). -/
def State.hostMove (s : State) (b : Nat) (v : W64) : State :=
  let f := (v.extractLsb' 16 27).toNat
  let given := s.migReqs.any fun r => r.host && r.f == f
  if (s.hub.migMode ≠ 1 && !given) || f / 2 ^ 23 ≠ b || !s.engineOn b then s
  else ({ s with migReqs := s.migReqs.filter fun r => r.f != f }).startMove b f

/-! ## The remote read port (R309) -/

/-- The access-control table grants a package every atom of a request. -/
def BDie.grants (d : BDie) (pkg : W16) (a n : Nat) : Bool :=
  (List.range (n / 32)).all fun k =>
    let u := (a + 32 * k) / 65536
    d.act.toList.any fun e =>
      e.1.getLsbD 63 && pkg &&& e.1.extractLsb' 16 16 == e.1.extractLsb' 0 16 &&& e.1.extractLsb' 16 16 &&
      (e.2.extractLsb' 0 20).toNat ≤ u && u ≤ (e.2.extractLsb' 40 20).toNat

/-- The package answers a remote package or peer. -/
def State.reply (s : State) (pkg : W16) (code : BitVec 2) (bs : List Byte) : State :=
  { s with replies := s.replies ++ [{ pkg := pkg, code := code, bytes := bs }] }

/-- A read of DRAM that fails at an atom has read its granules (R309, R384), and the failure is logged (R367).
Log entry 76 (DEDUCED). -/
def State.logRemote (s : State) (pa n : Nat) : State :=
  let at_ := (s.badAtoms.filter fun a => pa / 32 ≤ a && a ≤ (pa + n - 1) / 32).foldl Nat.min ((pa + n - 1) / 32)
  (((linesOf pa n).foldl (fun s l => s.countGranule (l * 128)) s).meet pa n).logBad none (Nat.max pa (at_ * 32))

/-- REMOTE_READ_REQUEST: `n` bytes from stack address `a` of B-die b, read from DRAM (R295, R309, R353, R380). -/
def execRemoteReadRequest (b : BitVec 4) (pkg : BitVec 16) (a : BitVec 36) (n : BitVec 24) (s : State) : Res :=
  let pa := b.toNat * 2 ^ 39 + 0x4000000000 + a.toNat
  let serves := match bSocket s.hub.product b.toNat with | some sk => s.hub.serves sk | none => false
  if s.hub.power = .off then .next s
  else if !s.hub.active || !serves then .next (s.reply pkg 2 [])
  else if a.toNat % 32 ≠ 0 || n.toNat % 32 ≠ 0 || n = 0 || 2 ^ 36 < a.toNat + n.toNat ||
      !(s.bdie b.toNat).grants pkg a.toNat n.toNat then .next (s.reply pkg 1 [])
  else if !(s.bdie b.toNat).en then .next s
  else if poisoned s pa n.toNat then .next ((s.logRemote pa n.toNat).reply pkg 2 [])
  else
    let t := ((linesOf pa n.toNat).foldl (fun s l => s.countGranule (l * 128)) s).meet pa n.toNat
    .next (t.reply pkg 0 (s.dramRead pa n.toNat))

/-! ## Peers (R359) -/

/-- A request of `n` bytes of a peer lies wholly in a window that allows it. -/
def windowOk (w : W64 × W64) (pkg : W16) (wr : Bool) (a n : Nat) : Bool :=
  let base := (w.1.extractLsb' 0 56).toNat
  w.1.getLsbD 63 && (!wr || w.1.getLsbD 62) && w.2.extractLsb' 48 16 == pkg &&
  base ≤ a && a + n ≤ base + (w.2.extractLsb' 0 40).toNat

/-- A port is up and a package is its peer (R355, R356). -/
def State.peerUp (s : State) (p : BitVec 5) (pkg : W16) : Bool :=
  s.portUp p.toNat && (s.ports.toArray.getD p.toNat {}).peer == pkg

/-- The bytes of a peer's request: those it writes, or how many it reads. -/
def peerSize (wr : Bool) (n : BitVec 24) (bs : List Byte) : Nat := if wr then bs.length else n.toNat

/-- PEER_REQUEST: over port p, which is up, its peer reads `n` bytes at `a`, or writes `bs` there, through the first window that
the request lies wholly in; any other request is refused whole (R359). Log entry 122 (DESIGN CHOICE). -/
def execPeerRequest (pkg : BitVec 16) (p : BitVec 5) (wr : Bool) (a : BitVec 56) (n : BitVec 24) (bs : List (BitVec 8))
    (s : State) : Res :=
  let m := peerSize wr n bs
  if !s.hub.active || !s.peerUp p pkg then .next s
  else
    match s.hub.windows.toList.find? fun w => windowOk w pkg wr a.toNat m with
    | none => .next (s.reply pkg 1 [])
    | some w =>
      let i : BitVec 4 := w.1.extractLsb' 56 4
      let ps := piecesOf a.toNat m
      let ans := if wr then hubWritePieces s i true { kind := 4, pkg := pkg, own := false } ps bs else hubReadPieces s i ps
      if ps.any fun p => (walk s i p.1 wr).hold then .next s
      else if ps.any fun p => (walk s i p.1 wr).pa.isNone then .next (s.reply pkg 1 [])
      else
        match ans with
        | .hold => .next s
        | .bad t => .next (t.reply pkg 2 [])
        | .ok bs t => .next (t.reply pkg 0 bs)

/-! ## Patrol scrubbers (R291, R299, R300) -/

/-- PATROL_SCRUB: the scrubber of unit 0, B-die b's stack, 1 its LPDDR-6, 2 the scratchpad of the core of the context in focus,
3 its private memory, reads the block that its timer names in this cycle, if it is `blk` (`State.scrub`). -/
def execPatrolScrub (unit : BitVec 2) (b : BitVec 8) (blk : BitVec 31) (s : State) : Res :=
  let due := fun (period size : Nat) => scrubBlock s.cc period size == some blk.toNat
  if s.hub.boot ≠ 1 || s.hub.power = .retention || s.hub.power = .off then .next s
  else if unit.toNat ≤ 1 then
    let hbm := unit == 0
    .next (if s.scrubs b.toNat hbm && due (s.bdie b.toNat).scrub.toNat (if hbm then 2 ^ 24 else 2 ^ 26) then
      s.scrubMem b.toNat blk.toNat hbm else s)
  else
    .next (if s.me.life = .running && due 19 (if unit = 2 then 2048 else 64) then s.scrubCore s.me blk.toNat (unit == 3) else s)

end Sys2Proof.Machine
end

