-- ==== Sys2Proof/Machine/Host.lean ====
section
/-! DEFINITION. The host's side (R360 to R368): the reads of BAR0, the writes of its registers, die operations (R352 to R354),
invalidations (R304), the commits of staged remap tables (R389, R390), and the BAR2 aperture (R363, R370). -/

namespace Sys2Proof.Machine

/-! ## The registers of BAR0 as they read (R361, R362) -/

/-- Bits placed at a position. -/
def bitAt (b : Bool) (n : Nat) : Nat := if b then 2 ^ n else 0

/-- A die is absent: its registers read 0 and take no write (R362). -/
def Hub.absent (h : Hub) (sk : Nat) : Bool := kindOf h.product sk == .empty || !h.isGood sk

/-- Kind codes of sockets from `a` on, three bits each (R345). -/
def castKinds (product : BitVec 8) (a n : Nat) : Nat :=
  (List.range n).foldl (fun v k => v + (kindOf product (a + k)).code * 8 ^ k) 0

/-- LINKSTAT of a socket (R349). -/
def Hub.linkstat (h : Hub) (s : Nat) : W64 :=
  BitVec.ofNat 64 ((h.linkCrc.toArray.getD s 0).toNat * 2 ^ 48 + (h.linkFailed.toArray.getD s 0).toNat * 256 +
    (h.linkUp.toArray.getD s 0).toNat)

/-- State code of BOOTSTAT (R370, R375, R378). -/
def Hub.bootState (h : Hub) : Nat :=
  match h.power with
  | .retention => 3
  | .waiting => 4
  | _ => h.boot.toNat

/-- BOOTSTAT (R370). -/
def Hub.bootstat (h : Hub) : W64 :=
  BitVec.ofNat 64 (h.bootReason.toNat * 256 + h.bootStage.toNat * 16 + h.bootState)

/-- Lifetime counter c (R383). -/
def Hub.counter (h : Hub) (c : Nat) : W64 := (h.life.lookup c).getD 0

/-- Bin number 16k + b of the histograms (R383). -/
def Hub.bin (h : Hub) (n : Nat) : W32 := (h.bins.lookup n).getD 0

/-- The lifetime values at hub-block offsets 0x1000 to 0x1FFF (R383). -/
def Hub.lifeRead (h : Hub) (off : Nat) : W64 :=
  if off < 0x1800 then (if off % 8 = 0 then h.counter ((off - 0x1000) / 8) else 0)
  else if off % 4 = 0 then (h.bin ((off - 0x1800) / 4)).setWidth 64 else 0

/-- Eight bytes of a byte string. -/
def bytes8 (f : Nat → Byte) (k n : Nat) : W64 :=
  BitVec.ofNat 64 (leNat ((List.range 8).map fun j => if k + j < n then f (k + j) else 0))

/-- The alias key's public half, DK's signature and the measurements (R371). Log entry 80 (PRESUMED). -/
def Hub.identity (h : Hub) (off : Nat) : W64 :=
  let meas := h.meas.toList.flatten
  let pub := fun n => Config.mldsaPub (aliasSeed h) n
  let dk := sha3 (Config.fuseUDS ++ [0x44, 0x4B])
  if off < 0x2600 then bytes8 pub (off - 0x2000) 1312
  else if off < 0x3000 then
    bytes8 (Config.mldsaSign dk ((List.range 1312).map pub ++ meas)) (off - 0x2600) 2420
  else bytes8 (fun n => meas.getD n 0) (off - 0x3000) 224

/-- Word k of the oldest folio request (R366). -/
def FolReq.word (r : FolReq) (k : Nat) : W64 :=
  match k with
  | 0 => r.ctx.setWidth 64 | 1 => r.slot.setWidth 64 | 2 => r.image.setWidth 64 | _ => r.hash.setWidth 64

/-- Word k of the oldest error log record (R367). -/
def ELog.word (r : ELog) (k : Nat) : W64 := match k with | 0 => r.w0 | 1 => r.w1 | 2 => r.w2 | _ => r.w3

/-- A register of the hub block (R362). -/
def hubReg (s : State) (off : Nat) : W64 :=
  let h := s.hub
  if 0x1000 ≤ off && off < 0x2000 then h.lifeRead off
  else if 0x2000 ≤ off && off < 0x30E0 then h.identity off
  else if 0x8000 ≤ off && off < 0x10000 then
    bytes8 (fun n => ((h.seedLog.lookup ((off - 0x8000) / 32)).getD []).getD n 0) ((off - 0x8000) % 32) 32
  else if off % 8 ≠ 0 || 0x1000 ≤ off then 0
  else if 0x100 ≤ off && off < 0x180 then (s.inst (BitVec.ofNat 4 ((off - 0x100) / 8))).ptroot
  else if 0x180 ≤ off && off < 0x200 then (s.inst (BitVec.ofNat 4 ((off - 0x180) / 8))).savebase
  else if 0x200 ≤ off && off < 0x320 then h.linkstat ((off - 0x200) / 8)
  else if 0x400 ≤ off && off < 0x600 then h.colltab.toArray.getD ((off - 0x400) / 8) 0
  else if 0x800 ≤ off && off < 0x900 then
    let w := h.windows.toArray.getD ((off - 0x800) / 16) (0, 0)
    if off % 16 = 0 then w.1 else w.2
  else if 0x900 ≤ off && off < 0x920 then
    match h.folreq with | r :: _ => r.word ((off - 0x900) / 8) | [] => 0
  else if 0xA00 ≤ off && off < 0xA80 then (s.inst (BitVec.ofNat 4 ((off - 0xA00) / 8))).runrec
  else if 0xB00 ≤ off && off < 0xB20 then
    match h.elogq with | r :: _ => r.word ((off - 0xB00) / 8) | [] => 0
  else
    match off with
    | 0x000 => BitVec.ofNat 64 (h.product.toNat * 256 + Config.stepping.toNat)
    | 0x008 => h.pkgid.setWidth 64
    | 0x010 => h.funcmode.setWidth 64
    | 0x018 => BitVec.ofNat 64 (bitAt h.dieOp.isSome 17 + bitAt h.dieFail 16)
    | 0x020 => castClass h
    | 0x028 => BitVec.ofNat 64 (castKinds h.product 0 21)
    | 0x030 => BitVec.ofNat 64 (castKinds h.product 21 15)
    | 0x048 => BitVec.ofNat 64 (bitAt h.xl.isSome 0)
    | 0x050 => h.bar2
    | 0x058 => BitVec.ofNat 64 (bitAt h.remapBusy.isSome 17 + bitAt h.remapFail 16)
    | 0xA80 => BitVec.ofNat 64 (h.pwr.toNat * 2 ^ 48 + h.gate.toNat * 2 ^ 32 + h.limit.toNat * 2 ^ 16)
    | 0xA90 => BitVec.ofNat 64 (h.boWin.toNat * 2 ^ 24 + bitAt h.boJen 1 + bitAt h.boArm 0)
    | 0xA98 => h.bostat
    | 0xAB0 => h.bootstat
    | 0xAC0 => h.slogCnt
    | 0xB20 => BitVec.ofNat 64 (h.elogq.length + h.elogLost.toNat * 2 ^ 16)
    | _ => 0

/-- A register of a B-die block (R361). -/
def bdieReg (d : BDie) (off : Nat) : W64 :=
  if off % 8 ≠ 0 then 0
  else if off < 0x30 then (d.pchash.toArray.getD (off / 8) 0).setWidth 64
  else if 0x100 ≤ off && off < 0x300 then (d.pccnt.toArray.getD ((off - 0x100) / 8) 0).setWidth 64
  else if 0x1000 ≤ off && off < 0x1400 then
    let e := d.act.toArray.getD ((off - 0x1000) / 16) (0, 0)
    if off % 16 = 0 then e.1 else e.2
  else
    match off with
    | 0x30 => BitVec.ofNat 64 (d.scrub.toNat * 256 + bitAt d.hlock 1 + bitAt d.en 0)
    | 0x38 => d.hbmUnc ++ d.hbmCor
    | 0x40 => d.lpUnc ++ d.lpCor
    | 0x48 => d.retain.setWidth 64
    | 0x50 => d.migctl
    | 0x58 => d.migbase
    | 0x60 => d.migrmap
    | 0x68 => d.migcnt
    | _ => 0

/-- VXPORT (R356). -/
def VxPort.reg (p : VxPort) : W64 :=
  BitVec.ofNat 64 (p.peer.toNat * 2 ^ 48 + p.retry.toNat * 2 ^ 32 + bitAt p.up 1 + bitAt p.en 0)

/-- A register of a context block (R368). -/
def ctxReg (s : State) (id : BitVec 12) (off : Nat) : W64 :=
  let b := s.hub.block id
  if off % 8 ≠ 0 then 0
  else if off < 0x20 then b.wpaddr.toArray.getD (off / 8) 0
  else if off < 0x40 then b.wpctl.toArray.getD ((off - 0x20) / 8) 0
  else if off = 0x40 then (match s.ctx? id with | some c => c.stat | none => b.stat) else 0

/-- A remap entry as the host reads it: the staged value (R389). -/
def remapRead (s : State) (off : Nat) : W64 :=
  let r := off - 0x40000
  if r % 4 ≠ 0 || 208 ≤ r / 4 % 256 then 0
  else ((s.inst (BitVec.ofNat 4 (r / 1024))).stagedEntry (r / 4 % 256)).setWidth 64

/-- What a host read of BAR0 returns (R361, R370, R378). -/
def bar0Read (s : State) (off : Nat) : W64 :=
  let h := s.hub
  if h.power = .waiting then
    if off = 0xAB0 then h.bootstat else if off = 0xA98 then h.bostat
    else if 0x1000 ≤ off && off < 0x2000 then h.lifeRead off else 0
  else if !h.active then (if off = 0xAB0 && h.power ≠ .off then h.bootstat else 0)
  else if off < 0x10000 then hubReg s off
  else if off < 0x20000 then
    if off % 8 ≠ 0 then 0
    else if off < 0x10020 then h.stage.toArray.getD ((off - 0x10000) / 8) 0
    else if off = 0x10020 then BitVec.ofNat 64 (256 - h.cmdq.length) else 0
  else if off < 0x30000 then
    match off, h.statq with
    | 0x20000, r :: _ => r.word0
    | 0x20008, r :: _ => r.value
    | 0x20010, q => BitVec.ofNat 64 q.length
    | _, _ => 0
  else if 0x40000 ≤ off && off < 0x44000 then remapRead s off
  else if 0x100000 ≤ off && off < 0x200000 then
    let b := (off - 0x100000) / 65536
    match bSocket h.product b with
    | some sk => if h.absent sk then 0 else bdieReg (s.bdie b) (off % 65536)
    | none => 0
  else if 0x200000 ≤ off && off < 0x300000 then
    let k := (off - 0x200000) / 65536
    match (socketsOf h.product .s)[k]? with
    | some sk => if h.absent sk || off % 8 ≠ 0 || 0x30 ≤ off % 65536 then 0
                 else (s.ports.toArray.getD (6 * k + off % 65536 / 8) {}).reg
    | none => 0
  else if 0xF00000 ≤ off && off < 0xF00400 then (if off % 4 = 0 then (h.msixWord ((off - 0xF00000) / 4)).setWidth 64 else 0)
  else if off = 0xF01000 then h.msixHeld.foldl (fun v n => v ||| BitVec.twoPow 64 n.toNat) 0
  else
    match ctxBlock off with
    | some (id, r) => ctxReg s id r
    | none => 0

/-- A host read returns a value. -/
def State.returns (s : State) (v : W64) : State := { s with hub := { s.hub with hostOut := v } }

/-- A host read of BAR0 whose only effect is its value. -/
def State.hostRead (s : State) (off : Nat) : State := s.returns (bar0Read s off)

/-- STATQ_READ: the word at 0x08 of the status FIFO, which removes the record (R364). -/
def execStatqRead (s : State) : Res :=
  let t := s.hostRead 0x20008
  .next (if s.hub.active && !s.hub.statq.isEmpty then t.popStatus else t)

/-- FOLREQ_READ: the last word of a folio request, which removes it (R366). -/
def execFolreqRead (s : State) : Res :=
  let t := s.hostRead 0x918
  .next (if s.hub.active then { t with hub := { t.hub with folreq := t.hub.folreq.tail } } else t)

/-- ELOGQ_READ: the last word of an error log record, which removes it (R367). -/
def execElogqRead (s : State) : Res :=
  let t := s.hostRead 0xB18
  .next (if s.hub.active then { t with hub := { t.hub with elogq := t.hub.elogq.tail } } else t)

/-! ## Writes of hub registers -/

/-- An instance holds a reel. -/
def State.anyReel (s : State) : Bool := s.insts.toList.any (·.holds)

/-- A write of the host acts on the hub's registers, while BAR0 takes writes (R369, R370, R378). Log entry 73 (DEDUCED). -/
def State.hubWrite (s : State) (f : W64 → Hub → Hub) : Res :=
  .next (if s.hub.active then { s with hub := f s.hub.bus.v s.hub } else s)

/-- ELOGCNT_WRITE (R367). -/
def execElogcntWrite (s : State) : Res := s.hubWrite fun _ h => { h with elogLost := 0 }

/-- PKGID_WRITE: discarded while a port is up (R357). -/
def execPkgidWrite (s : State) : Res :=
  s.hubWrite fun v h => if s.ports.toList.any (·.up) then h else { h with pkgid := v.setWidth 16 }

/-- COLLTAB_WRITE: discarded while an instance holds a reel (R358). -/
def execColltabWrite (s : State) : Res :=
  s.hubWrite fun v h =>
    if s.anyReel then h
    else { h with colltab := h.colltab.setIfInBounds ((h.bus.off.toNat - 0x400) / 8) (v &&& 0x80000000003FFFFF) }

/-- FUNCMODE_WRITE: a change of remap is discarded while an instance holds a reel (R366). -/
def execFuncmodeWrite (s : State) : Res :=
  s.hubWrite fun v h =>
    let new : BitVec 6 := v.setWidth 6
    { h with funcmode := if s.anyReel then setBit new 3 (h.funcmode.getLsbD 3) else new }

/-- Rating in W (R9, R376). -/
def rating (product : BitVec 8) : W16 := if isXn18 product then 2300 else 4500

/-- PWRCTL_WRITE: a limit above the rating stores the rating (R376). -/
def execPwrctlWrite (s : State) : Res :=
  s.hubWrite fun v h =>
    let w : W16 := v.extractLsb' 16 16
    { h with limit := if rating h.product < w then rating h.product else w }

/-- BOCTL_WRITE: a window above 130 ms is discarded, and so is jen while an instance holds a reel (R379). -/
def execBoctlWrite (s : State) : Res :=
  s.hubWrite fun v h =>
    let w : BitVec 8 := v.extractLsb' 24 8
    { h with boArm := v.getLsbD 0, boJen := if s.anyReel then h.boJen else v.getLsbD 1, boWin := if 130 < w then h.boWin else w }

/-- FOLRESP: the host grants or refuses a folio load that waits for it; a refusal traps once the copy engine lets it (R182, R329,
R366). Log entry 117 (DEDUCED). -/
def execFolresp (s : State) : Res :=
  let v := s.hub.bus.v
  if !s.hub.active || v.extractLsb' 12 4 ≠ 0 then .next s
  else
    .next (s.within (v.extractLsb' 0 12) fun s =>
      match s.me.t.load with
      | some (slot, 1) =>
        if s.me.life ≠ .running then s
        else if v.getLsbD 16 then { s with me := { s.me with t := { s.me.t with load := some (slot, 2) } } }
        else if s.me.copyUnder then { s with me := { s.me with t := { s.me.t with load := some (slot, 3) } } }
        else s.loadFails 0x21 0x10
      | _ => s)

/-! ## Writes of B-die registers -/

/-- A write of the host acts on the registers of the B-die whose block it names, if the die is there (R361, R362). -/
def State.bdieWrite (s : State) (f : Nat → W64 → BDie → BDie) : State :=
  let off := s.hub.bus.off.toNat
  let b := (off - 0x100000) / 65536
  match bSocket s.hub.product b with
  | some sk => if !s.hub.active || s.hub.absent sk then s else s.modBdie b (f (off % 65536) s.hub.bus.v)
  | none => s

/-- PCHASH_WRITE: discarded with hlock while en = 1; else the stack's contents are unspecified if the mask changes (R298). -/
def execPchashWrite (s : State) : Res :=
  let off := s.hub.bus.off.toNat
  let b := (off - 0x100000) / 65536
  let mask : BitVec 23 := s.hub.bus.v.setWidth 23
  let t := s.bdieWrite fun r _ d => if d.en then { d with hlock := true } else { d with pchash := d.pchash.setIfInBounds (r / 8) mask }
  .next (if (t.bdie b).pchash = (s.bdie b).pchash then t
    else { t with mem := t.mem.scramble b t.tick,
                  sram := t.sram.filter fun l => !(dieOf (l.line * 128) == b && isHbm (l.line * 128)) })

/-- HBMCTL_WRITE: a scrub period outside its range is discarded; en = 0 clears hlock (R297, R298). -/
def execHbmctlWrite (s : State) : Res :=
  .next (s.bdieWrite fun _ v d =>
    let p : BitVec 5 := v.extractLsb' 8 5
    { d with en := v.getLsbD 0, hlock := d.hlock && v.getLsbD 0,
             scrub := if p = 0 || (10 ≤ p.toNat && p.toNat ≤ 24) then p else d.scrub })

/-- PCCNT_WRITE: the write comes before the counts of its cycle, which add to it (R297, R384). -/
def execPccntWrite (s : State) : Res :=
  .next (s.bdieWrite fun r v d =>
    let p := (r - 0x100) / 8
    { d with pccnt := d.pccnt.setIfInBounds p (v.setWidth 32 + BitVec.ofNat 32 ((d.countedIn s.cc).count p)) })

/-- SRAMCTL_WRITE: a reserved value is discarded (R294). -/
def execSramctlWrite (s : State) : Res :=
  .next (s.bdieWrite fun _ v d => if 32 < (v.extractLsb' 0 6).toNat then d else { d with retain := v.setWidth 6 })

/-- MIGCTL_WRITE: discarded when it would leave a reserved value (R305). -/
def execMigctlWrite (s : State) : Res :=
  .next (s.bdieWrite fun _ v d =>
    let epoch := (v.extractLsb' 40 8).toNat
    if epoch < 16 || 40 < epoch || v.extractLsb' 24 8 = 0 then d else { d with migctl := v &&& 0xFFFFFFFFFF000001 })

/-- MIGCMD (R306). -/
def execMigcmd (s : State) : Res :=
  let b := (s.hub.bus.off.toNat - 0x100000) / 65536
  match bSocket s.hub.product b with
  | some sk => .next (if !s.hub.active || s.hub.absent sk then s else s.hostMove b s.hub.bus.v)
  | none => .next s

/-! ## Vexfy ports (R354 to R356) -/

/-- VXPORT_WRITE: en trains the port or takes it down; ones clear the resend count (R356). -/
def execVxportWrite (s : State) : Res :=
  let off := s.hub.bus.off.toNat
  let p := 6 * ((off - 0x200000) / 65536) + off % 65536 / 8
  match portSocket s.hub.product p with
  | none => .next s
  | some sk =>
    if !s.hub.active || s.hub.absent sk then .next s
    else
      let v := s.hub.bus.v
      let x := s.ports.toArray.getD p {}
      let s := { s with ports := s.ports.setIfInBounds p { x with en := v.getLsbD 0, retry := x.retry &&& ~~~(v.extractLsb' 32 16) } }
      .next (if v.getLsbD 0 then s else s.portDown p)

/-- VEXFY_PORT_TRAINED: an enabled port comes into service and learns its peer (R356, R365). -/
def execVexfyPortTrained (p : BitVec 5) (peer : BitVec 16) (s : State) : Res :=
  let x := s.ports.toArray.getD p.toNat {}
  match portSocket s.hub.product p.toNat with
  | none => .next s
  | some sk =>
    if !s.hub.active || !s.hub.serves sk || !x.en || x.up then .next s
    else .next (({ s with ports := s.ports.setIfInBounds p.toNat { x with up := true, peer := peer, fails := 0 } }).msi 8)

/-- VEXFY_FLIT_RESEND: a resend, which succeeds or fails (R355, R356). -/
def execVexfyFlitResend (p : BitVec 5) (ok : Bool) (s : State) : Res :=
  let x := s.ports.toArray.getD p.toNat {}
  if !x.up || 16 ≤ x.fails then .next s
  else
    let n := if x.retry = 0xFFFF then x.retry else x.retry + 1
    .next { s with ports := s.ports.setIfInBounds p.toNat { x with retry := n, fails := if ok then 0 else x.fails + 1 } }

/-- VEXFY_PORT_DOWN: 16 resends have failed in a row (R355). -/
def execVexfyPortDown (p : BitVec 5) (s : State) : Res :=
  .next (if (s.ports.toArray.getD p.toNat {}).fails < 16 then s else s.portDown p.toNat)

/-! ## Invalidations (R304) -/

/-- The page that a virtual address lies in is in the range of an XLINV. -/
def xlCovers (v : W64) (va : Nat) : Bool :=
  let n := (v.extractLsb' 0 16).toNat; let first := (v.extractLsb' 16 40).toNat
  n == 0 || (first ≤ va / 65536 && va / 65536 < first + n)

/-- The home of an address takes part in an invalidation: a quiesced die counts as having answered (R304, R353). -/
def State.answers (s : State) (pa : Nat) : Bool :=
  match bSocket s.hub.product (dieOf pa) with
  | some sk => s.hub.serves sk
  | none => false

/-- An access or copy that translated in the range has not performed (R304). Log entry 78 (DEDUCED). -/
def Ctx.xlPending (c : Ctx) (s : State) (v : W64) (start : Nat) : Bool :=
  let loc := fun (l : Loc) => match l with | .glob pa va => xlCovers v va && s.answers pa | _ => false
  instOf c.id == v.extractLsb' 60 4 &&
  ((c.sq.loads.any fun l => loc l.loc) || (c.sq.stores.any fun x => loc x.loc) ||
   (c.m.cur.any fun m => m.pages.any fun p => xlCovers v (p.1 * 65536) && s.answers p.2) ||
   c.cp.copies.any fun k => k.issueCc ≤ start && k.pages.any fun p => xlCovers v (p.1 * 65536) && s.answers p.2)

/-- XLINV: an invalidation begins; a write while one is in progress is held (R304). -/
def execXlinv (s : State) : Res :=
  s.hubWrite fun v h => if h.xl.isSome then { h with xlHeld := h.xlHeld ++ [v] } else { h with xl := some (v, s.cc) }

/-- A watchpoint covers an address in the range of an XLINV. -/
def CtxBlock.overlaps (b : CtxBlock) (n : Nat) (v : W64) : Bool :=
  let (first, atoms) := b.range n
  let page := (v.extractLsb' 16 40).toNat; let units := (v.extractLsb' 0 16).toNat
  units == 0 || (page * 2048 < first + atoms && first < (page + units) * 2048)

/-- The watchpoints over the range of an invalidation that has completed are translated again (R311). -/
def State.rewatch (s : State) (v : W64) : State :=
  s.hub.blocks.foldl (fun s p =>
    if instOf p.1 ≠ v.extractLsb' 60 4 then s
    else (List.range 4).foldl (fun s n => if p.2.overlaps n v then s.installWp p.1 n else s) s) s

/-- XLINV_COMPLETE: every access and copy that used the range has performed; busy clears, and a held write begins (R304, R311).
Log entry 78 (DEDUCED). -/
def execXlinvComplete (s : State) : Res :=
  match s.hub.xl with
  | none => .next s
  | some (v, start) =>
    if s.ctxs.any fun c => c.xlPending s v start then .next s
    else
      let s := s.rewatch v
      match s.hub.xlHeld with
      | w :: t => .next { s with hub := { s.hub with xl := some (w, s.cc), xlHeld := t } }
      | [] => .next { s with hub := { s.hub with xl := none } }

/-! ## Commits of the remap table (R267, R389, R390) -/

/-- The bits of a remap entry that the host writes (R267). -/
def entryMask (v : W64) : W32 := v.setWidth 32 &&& 0xFFFF0001

/-- A write to a remap entry: the staged copy of an instance with a reel, the live table of one without (R267, R389). -/
def State.entryWrite (s : State) (b : Bus) : State :=
  let r := b.off.toNat - 0x40000
  let i := BitVec.ofNat 4 (r / 1024); let n := r / 4 % 256
  if s.hub.hardRemap || r % 4 ≠ 0 || 208 ≤ n then s
  else if (s.inst i).holds then
    s.modInst i fun x => { x with staged := (BitVec.ofNat 8 n, entryMask b.v) :: x.staged.filter fun p => p.1.toNat != n }
  else s.modInst i fun x => { x with remap := x.remap.setIfInBounds n (entryMask b.v), staged := [] }

/-- A write to REMAPGO: the staged table is checked, and a commit begins (R389). -/
def State.commit (s : State) (i : BitVec 4) : State :=
  let x := s.inst i
  let fail := { s with hub := { s.hub with remapFail := true } }
  if s.hub.hardRemap || !x.holds then fail
  else if (tableFails s.hub (Vector.ofFn fun n => x.stagedEntry n.val)).isSome then
    fail.modInst i fun y => { y with staged := [] }
  else { s with hub := { s.hub with remapFail := false, remapBusy := some i } }

/-- A write to REMAPGO or to a remap entry, held while a commit, and for REMAPGO a die operation or a brown-out entry, is in
progress (R389, R390). -/
def State.remapWrite (s : State) (b : Bus) : State :=
  let go := b.off.toNat = 0x58
  if s.hub.remapBusy.isSome || (go && (s.hub.dieOp.isSome || !s.hub.active)) then
    { s with hub := { s.hub with remapHeld := s.hub.remapHeld ++ [b] } }
  else if go then s.commit (b.v.extractLsb' 0 4) else s.entryWrite b

/-- The held writes take their turn. -/
def State.releaseRemap (s : State) : State :=
  s.hub.remapHeld.foldl State.remapWrite { s with hub := { s.hub with remapHeld := [] } }

/-- A brown-out entry, or the resumption after it, is in progress (R380, R381). -/
def Hub.inBrownout (h : Hub) : Bool := (h.boot = 1 && h.power = .entering) || (h.power = .waiting && h.resumeOk)

/-- REMAPGO (R389); a write during a brown-out entry or a resumption is held (R390). -/
def execRemapgo (s : State) : Res := .next (if s.hub.active || s.hub.inBrownout then s.remapWrite s.hub.bus else s)

/-- REMAP_ENTRY_WRITE; a write during a commit is held, at a brown-out entry too (R389). -/
def execRemapEntryWrite (s : State) : Res :=
  .next (if s.hub.active || (s.hub.inBrownout && s.hub.remapBusy.isSome) then s.remapWrite s.hub.bus else s)

/-- REMAP_COMMIT_COMPLETE (R389 step 3). -/
def execRemapCommitComplete (s : State) : Res :=
  let t := s.commitDone
  .next (if s.hub.remapBusy.isSome && t.hub.remapBusy.isNone then t.releaseRemap else t)

/-! ## Die operations (R352 to R354) -/

/-- The kinds of which a last good die stays while a reel runs (R352). -/
def lastGood (h : Hub) (sk : Nat) : Bool :=
  let k := kindOf h.product sk
  (k == .m || k == .v || k == .g) && goodOf h k == [sk]

/-- A remap table names the die (R352). -/
def State.named (s : State) (sk : Nat) : Bool :=
  s.insts.toList.any fun x => x.remap.toList.any fun e => e.getLsbD 0 && entSocket e == sk

/-- The socket is one whose die the host cannot name (R352). -/
def noDie (h : Hub) (sk : Nat) : Bool := sk == 6 || kindOf h.product sk == .empty

/-- An operation that is discarded with fail (R352). -/
def State.dieRefused (s : State) (op : BitVec 2) (sk : Nat) : Bool :=
  noDie s.hub sk || (op != 3 && s.anyReel && s.hub.isGood sk && lastGood s.hub sk) || (!s.hub.hardRemap && s.named sk)

/-- A reset or disable begins: the good bit clears, and in hardware mode the remap for the remaining cast is built, into which the
contexts that it moves are pre-empted (R353 step 1). -/
def State.dieStart (s : State) (op : BitVec 2) (sk : Nat) : State :=
  let h := { s.hub with good := setBit s.hub.good sk false,
                        disabled := if op = 2 then setBit s.hub.disabled sk true else s.hub.disabled }
  let tables := if !h.hardRemap || (lackingKind h).isSome then []
    else ((List.range 16).map fun n => BitVec.ofNat 4 n).filterMap fun i =>
      if (s.inst i).holds && (s.inst i).remap ≠ canonRemap h then some (i, canonRemap h) else none
  let d : DieOp := { socket := BitVec.ofNat 6 sk, op := op, q := s.cc, tables := tables }
  ({ s with hub := { h with dieOp := some d, dieFail := false } }).settleDie

/-- A write to DIERST (R352, R353). -/
def State.dieWrite (s : State) (v : W64) : State :=
  let sk := (v.extractLsb' 0 6).toNat
  let op : BitVec 2 := v.extractLsb' 6 2
  if s.hub.dieOp.isSome then { s with hub := { s.hub with dieHeld := s.hub.dieHeld ++ [v] } }
  else if noDie s.hub sk || (op ≠ 0 && s.dieRefused op sk) then { s with hub := { s.hub with dieFail := true } }
  else if op = 0 then s
  else if op ≠ 3 then s.dieStart op sk
  else if s.hub.isGood sk then s
  else
    let d : DieOp := { socket := BitVec.ofNat 6 sk, op := op, q := s.cc, tables := [] }
    { s with hub := { s.hub with dieOp := some d, dieFail := false } }

/-- DIERST_RESET (R353). -/
def execDierstReset (s : State) : Res := .next (if s.hub.active then s.dieWrite s.hub.bus.v else s)
/-- DIERST_DISABLE (R353). -/
def execDierstDisable (s : State) : Res := .next (if s.hub.active then s.dieWrite s.hub.bus.v else s)
/-- DIERST_ENABLE (R353). Log entry 70 (DEDUCED). -/
def execDierstEnable (s : State) : Res := .next (if s.hub.active then s.dieWrite s.hub.bus.v else s)

/-- The outcome of a reset or an enable: the self-test's, and which modules have trained (R353 step 6, R387).
Log entry 70 (DEDUCED). -/
def State.dieEnds (s : State) (d : DieOp) (pass : Bool) (trained : BitVec 8) : State :=
  let sk := d.socket.toNat
  let back := d.op ≠ 2 && pass && (trained &&& facing s.hub.product sk) ≠ 0
  let h := if d.op = 2 then s.hub else s.hub.retrainDie sk trained
  let s := { s with hub := { h with dieOp := none, dieFail := d.op ≠ 2 && !back, good := setBit h.good sk back,
                                    disabled := if d.op = 2 then h.disabled else setBit h.disabled sk false } }
  let s := if d.op = 1 then s.lifeInc (128 + sk) else s
  (s.msi 8).elog 0x07 sk 0 none 0 (if s.hub.dieFail then 1 else 0)

/-- DIERST_COMPLETE: the operation ends once its contexts have moved and the die has entered quiesce; held writes follow (R352,
R353). Log entry 96 (DESIGN CHOICE). -/
def execDierstComplete (pass : Bool) (trained : BitVec 8) (s : State) : Res :=
  let s := s.settleDie
  match s.hub.dieOp with
  | none => .next s
  | some d =>
    if !d.tables.isEmpty || (d.op ≠ 3 && !d.fenced) then .next s
    else
      let s := s.dieEnds d pass trained
      let held := s.hub.dieHeld
      .next (held.foldl State.dieWrite { s with hub := { s.hub with dieHeld := [] } }).releaseRemap

/-! ## Registers without a row of their own (R361) -/

/-- A write of a hub register (R301, R341, R349, R352, R359, R363, R364, R372). -/
def State.hubRegWrite (s : State) (off : Nat) (v : W64) : State :=
  let h := s.hub
  if off % 8 ≠ 0 then s
  else if 0x100 ≤ off && off < 0x180 then s.modInst (BitVec.ofNat 4 ((off - 0x100) / 8)) fun x => { x with ptroot := v &&& 0x7FFFFF00001 }
  else if 0x180 ≤ off && off < 0x200 then s.modInst (BitVec.ofNat 4 ((off - 0x180) / 8)) fun x => { x with savebase := v &&& 0x7FFFF000001 }
  else if 0x200 ≤ off && off < 0x320 then
    let k := (off - 0x200) / 8
    { s with hub := { h with linkCrc := h.linkCrc.setIfInBounds k (h.linkCrc.toArray.getD k 0 &&& ~~~(v.extractLsb' 48 16)) } }
  else if 0x800 ≤ off && off < 0x900 then
    let k := (off - 0x800) / 16
    let w := h.windows.toArray.getD k (0, 0)
    let w := if off % 16 = 0 then (v &&& 0xCFFFFFFFFFFFFFFF, w.2) else (w.1, v &&& 0xFFFF00FFFFFFFFFF)
    { s with hub := { h with windows := h.windows.setIfInBounds k w } }
  else if 0xA00 ≤ off && off < 0xA80 then s.modInst (BitVec.ofNat 4 ((off - 0xA00) / 8)) fun x => { x with runrec := v &&& 0x7FFFFFFE001 }
  else if off = 0x50 then { s with hub := { h with bar2 := v &&& 0xF0FFFFFFF0000001 } }
  else if off = 0x18 then s.dieWrite v else s

/-- A write of a B-die register without a row of its own (R297, R300, R305, R309). -/
def bdieRegWrite (off : Nat) (v : W64) (d : BDie) : BDie :=
  if off % 8 ≠ 0 then d
  else if 0x1000 ≤ off && off < 0x1400 then
    let k := (off - 0x1000) / 16
    let e := d.act.toArray.getD k (0, 0)
    let e := if off % 16 = 0 then (v &&& 0x80000000FFFFFFFF, e.2) else (e.1, v &&& 0x0FFFFF00000FFFFF)
    { d with act := d.act.setIfInBounds k e }
  else
    match off with
    | 0x38 => { d with hbmUnc := v.extractLsb' 32 32, hbmCor := v.extractLsb' 0 32 }
    | 0x40 => { d with lpUnc := v.extractLsb' 32 32, lpCor := v.extractLsb' 0 32 }
    | 0x58 => { d with migbase := v &&& 0x7FFFFFF0000 }
    | 0x60 => { d with migrmap := v &&& 0x7FFFFFF0000 }
    | 0x68 => { d with migcnt := v &&& 0x7FFFFFF0000 }
    | _ => d

/-- A write of a watchpoint register (R310). -/
def ctxRegWrite (off : Nat) (v : W64) (c : CtxBlock) : CtxBlock :=
  if off % 8 ≠ 0 then c
  else if off < 0x20 then { c with wpaddr := c.wpaddr.setIfInBounds (off / 8) (v &&& 0x00FFFFFFFFFFFFE0) }
  else if off < 0x40 then { c with wpctl := c.wpctl.setIfInBounds ((off - 0x20) / 8) (v &&& 0x1FFFFF) } else c

/-- REGISTER_WRITE: a write of BAR0 that no other row names; one to an unassigned or read-only offset is discarded (R361).
Log entry 73 (DEDUCED). -/
def execRegisterWrite (s : State) : Res :=
  let off := s.hub.bus.off.toNat; let v := s.hub.bus.v
  .next (
    if !s.hub.active then s
    else if off < 0x10000 then s.hubRegWrite off v
    else if off < 0x10020 then
      if off % 8 = 0 then { s with hub := { s.hub with stage := s.hub.stage.setIfInBounds ((off - 0x10000) / 8) v } } else s
    else if 0x100000 ≤ off && off < 0x200000 then s.bdieWrite bdieRegWrite
    else if 0xF00000 ≤ off && off < 0xF00400 then
      if off % 4 = 0 then
        let k := (off - 0xF00000) / 4
        { s with hub := ({ s.hub with msixTab := (k, v.setWidth 32) :: s.hub.msixTab.filter fun p => p.1 != k }).release }
      else s
    else
      match ctxBlock off with
      | some (id, r) =>
        let s := { s with hub := s.hub.setBlock id (ctxRegWrite r v (s.hub.block id)) }
        if r < 0x40 then s.installWp id (r % 0x20 / 8) else s
      | none => s)

/-! ## The BAR2 aperture (R363, R370) -/

/-- The virtual address of a BAR2 access (R363). -/
def Hub.bar2At (h : Hub) : Nat := (h.bar2.extractLsb' 28 28).toNat * 2 ^ 28 + h.bus.off.toNat

/-- The instance and virtual address that a BAR2 access reaches; none while the aperture is closed. -/
def bar2Va (h : Hub) : Option (BitVec 4 × Nat) := if h.bar2.getLsbD 0 then some (h.bar2.extractLsb' 60 4, h.bar2At) else none

/-- A refused access through the aperture: logged under elog (R363, R367). -/
def State.bar2Refused (s : State) (wr : Bool) : State :=
  s.elog 0x0B 0xFF 0 none (BitVec.ofNat 64 s.hub.bar2At) (if wr then 1 else 0)

/-- The walk of a BAR2 access faults at one of its pages. -/
def State.bar2Faults (s : State) (i : BitVec 4) (va n : Nat) (wr : Bool) : Bool :=
  (piecesOf va n).any fun p => !(walk s i p.1 wr).hold && (walk s i p.1 wr).pa.isNone

/-- All ones of an access's size. Log entry 74 (DEDUCED). -/
def onesOf (n : Nat) : W64 := BitVec.ofNat 64 (2 ^ (8 * n) - 1)

/-- BAR2_HOST_READ (R294, R320, R363); in recovery, of the staging buffer (R370). Log entry 74 (DEDUCED). -/
def execBar2HostRead (s : State) : Res :=
  let n := 2 ^ s.hub.bus.z.toNat
  let none_ := fun (s : State) => (s.bar2Refused false).returns (onesOf n)
  if s.hub.boot = 2 && s.hub.power = .on then .next (s.returns (BitVec.ofNat 64 (s.hub.staging.readLE s.hub.bus.off.toNat n)))
  else if !s.hub.active then .next s
  else
    match bar2Va s.hub with
    | none => .next (none_ s)
    | some (i, va) =>
      if s.bar2Faults i va n false then .next (none_ s)
      else
        match hubRead s i va n with
        | .hold => .next s
        | .bad t => .next (t.returns (onesOf n))
        | .ok bs t => .next (t.returns (BitVec.ofNat 64 (leNat bs)))

/-- BAR2_HOST_WRITE (R294, R320, R363); in recovery, of the staging buffer (R370). -/
def execBar2HostWrite (s : State) : Res :=
  let n := 2 ^ s.hub.bus.z.toNat
  let off := s.hub.bus.off.toNat
  if s.hub.boot = 2 && s.hub.power = .on then
    .next { s with hub := { s.hub with staging := s.hub.staging.write off ((leBytes n s.hub.bus.v.toNat).take (2 ^ 28 - off)) } }
  else if !s.hub.active then .next s
  else
    match bar2Va s.hub with
    | none => .next (s.bar2Refused true)
    | some (i, va) =>
      if s.bar2Faults i va n true then .next (s.bar2Refused true)
      else
        match hubWritePieces s i true hubWriter (piecesOf va n) (leBytes n s.hub.bus.v.toNat) with
        | .hold => .next s
        | .bad t => .next t
        | .ok _ t => .next t

end Sys2Proof.Machine
end

