-- ==== Sys2Proof/Machine/ScalarMem.lean ====
section
/-! DEFINITION. The S stream's loads, stores, ordering instructions and atomics (R101 to R109), and the performing of its
queued accesses. -/

namespace Sys2Proof.Machine

/-- The acquire bit of an order code: 01 or 11 (R34). -/
def acquires (order : BitVec 2) : Bool := order.getLsbD 0
/-- The release bit of an order code: 10 or 11 (R34). -/
def releases (order : BitVec 2) : Bool := order.getLsbD 1

/-- The bound on loads that an access inherits: a tainted address follows every LDC (R313). -/
def SQueues.loadBar (q : SQueues) (tainted : Bool) : Nat := if tainted then Nat.max q.barL q.ldcEnd else q.barL

/-- A load joins the load queue (R103, R313). -/
def Ctx.queueLoad (c : Ctx) (d a : BitVec 5) (ea : W64) (l : Loc) (size : Nat) (sgn ldc : Bool) : Ctx :=
  let q := c.sq
  let acq := acquires (mOrder c c.s)
  let e : LoadEnt := { num := q.num, ea := ea, loc := l, size := size, d := d, sgn := sgn, tnt := ldc, acq := acq,
                       cache := mCache c c.s, barL := q.loadBar (c.tnt a), barS := q.barS, head := boundOf c.s.pfx ≠ 0 }
  { c with sq := { q with loads := q.loads ++ [e], num := q.num + 1, barL := if acq then q.num + 1 else q.barL,
                          ldcEnd := if ldc then q.num + 1 else q.ldcEnd } }

/-- A store joins the store queue (R103, R313); a release follows every earlier access. -/
def Ctx.queueStore (c : Ctx) (x a : BitVec 5) (ea : W64) (l : Loc) (size : Nat) : Ctx :=
  let q := c.sq
  let rel := releases (mOrder c c.s)
  let e : StoreEnt := { num := q.num, ea := ea, loc := l, size := size, val := c.rg x, scope := mScope c c.s, rel := rel,
                        cache := mCache c c.s, seq := c.s.seq, barL := if rel then q.num else q.loadBar (c.tnt a),
                        barS := q.num, dsl := c.dsl }
  { c with sq := { q with stores := q.stores ++ [e], num := q.num + 1 } }

/-- A load issues: the checks of R102, then a place in the load queue (R103). One with a cycle bound stays at its queue head until
its data arrives, so that its trap has no effect (R68, R92, R93). Log entry 118 (DEDUCED). -/
def State.load (s : State) (d a : BitVec 5) (z : BitVec 2) (o : BitVec 13) (sgn ldc : Bool) : Res :=
  let ea := effAddr (s.me.rg a) o
  let size := 2 ^ z.toNat
  if s.me.sq.loads.any (·.head) then .next (s.holdS 0 0)
  else if 64 ≤ s.me.sq.loads.length then .next (s.holdS 7 0)
  else
    match place s ea size false with
    | .trap cause => s.placeTrap cause ea false
    | .hold => .next (s.holdS 0 0)
    | .at l =>
      let t := { s.walked ea false with me := s.me.queueLoad d a ea l size sgn ldc }
      .next (if boundOf s.me.s.pfx = 0 then t.retireS else t.holdS 0 0)

/-- LD (R101). -/
def execLd (d a : BitVec 5) (z : BitVec 2) (o : BitVec 13) (s : State) : Res := s.load d a z o false false
/-- LDSX (R101). -/
def execLdsx (d a : BitVec 5) (z : BitVec 2) (o : BitVec 13) (s : State) : Res := s.load d a z o true false
/-- LDC (R101). -/
def execLdc (d a : BitVec 5) (z : BitVec 2) (o : BitVec 13) (s : State) : Res := s.load d a z o false true

/-- ST (R101 to R103). -/
def execSt (x a : BitVec 5) (z : BitVec 2) (o : BitVec 13) (s : State) : Res :=
  let ea := effAddr (s.me.rg a) o
  let size := 2 ^ z.toNat
  if 64 ≤ s.me.sq.stores.length then .next (s.holdS 7 0)
  else
    match place s ea size true with
    | .trap cause => s.placeTrap cause ea true
    | .hold => .next (s.holdS 0 0)
    | .at l => .next ({ s.walked ea true with me := s.me.queueStore x a ea l size }).retireS

/-- A queued access performs while the context runs, if its order allows it, and one that a removal has left; a save keeps it (R324,
R337). -/
def State.perform (s : State) (one : State → Option State) : State :=
  if s.me.life = .running || s.me.life = .removed then (one s).getD s else s

/-- LOAD_DATA_RETURN: the oldest queued load of the context performs, when it may (R92, R103, R104). -/
def execLoadDataReturn (s : State) : Res := .next (s.perform performLoad)

/-- STORE_PERFORM: the oldest queued store of the context performs, when it may (R103, R104). -/
def execStorePerform (s : State) : Res := .next (s.perform performStore)

/-- MARK: no later access performs before an earlier one (R105). -/
def execMark (s : State) : Res :=
  s.raising s.me.storeErr fun s =>
    .next ({ s with me := { s.me with sq := { s.me.sq with barL := s.me.sq.num, barS := s.me.sq.num } } }).retireS

/-- FENCE: holds until every earlier access has performed, at system scope with its write-backs (R106, R295).
Log entries 16, 26 (DEDUCED). -/
def execFence (sc : BitVec 3) (s : State) : Res :=
  s.raising s.me.storeErr fun s =>
    if s.me.sDone then .next (if sc = 4 then s.release (s.me.gives .s s.tick) else s).retireS else .next (s.holdS 0 0)

/-! ## Atomics (R107 to R109) -/

/-- Size of an AMO or CAS by its size bit (R107). -/
def amoSize (z : BitVec 1) : Nat := if z = 1 then 8 else 4

/-- The value an operation sees: all of it, or the low word sign-extended (R107). -/
def amoView (z : BitVec 1) (v : W64) : W64 := if z = 1 then v else sextW v

/-- An error of the access, left for the destination's reader (R104). Log entry 23 (DEDUCED). -/
def Ctx.amoErr (c : Ctx) (d : BitVec 5) (cause : BitVec 7) (ea : W64) : Ctx :=
  let e : SErr := { d := if d = 0 then none else some d, cause := cause, tval := ea }
  { c with sq := { c.sq with errs := c.sq.errs ++ [e] } }

/-- An atomic access at g[a]: after every earlier access has performed, the old value is read and `new old`, if any, written
as one step, and g[d] takes the old value with taint `tn`; a release at system scope first writes back what it covers (R107 to
R109, R316). Log entries 23, 24 (DEDUCED). -/
def State.amo (s : State) (d a : BitVec 5) (z : BitVec 1) (tn : Bool) (new : W64 → Option W64) : Res :=
  let ea := s.me.rg a
  let size := amoSize z
  match place s ea size true with
  | .trap cause => s.placeTrap cause ea true
  | .hold => .next (s.holdS 0 0)
  | .at l =>
    if !s.me.sDone then .next (s.holdS 0 0)
    else
      let cache := mCache s.me s.me.s
      let s1 := s.walked ea true
      let w : Writer := { kind := 0, ctx := s.me.id, st := 0, seq := s.me.s.seq }
      match s1.locRead s1.me l size cache with
      | .hold => .next (s.holdS 0 0)
      | .err c => .next (({ s1 with me := s1.me.amoErr d c ea }).logAccess c l ea size cache).retireS
      | .ok (bs, s2) =>
        let old := amoView z (BitVec.ofNat 64 (leNat bs))
        let order := mOrder s.me s.me.s; let scope := mScope s.me s.me.s
        let k := s.me.gives .s s.tick
        let got := if acquires order then s1.released s.me l size else []
        let s2 := if releases order && scope = 4 then s2.release k else s2
        let done := fun (s : State) => (.next ({ s with me := (s.me.acquire .s got).wg d old tn }).retireS : Res)
        match new old with
        | none => done s2
        | some v =>
          match s2.locWrite s2.me l (leBytes size v.toNat) cache w with
          | .hold => .next (s.holdS 0 0)
          | .err c => .next (({ s2 with me := s2.me.amoErr d c ea }).logAccess c l ea size cache).retireS
          | .ok s3 => done (if releases order then s3.bear s3.me l size k scope s.me.dsl else s3)

/-- AMOSWAP (R107). -/
def execAmoswap (d a b : BitVec 5) (z : BitVec 1) (s : State) : Res := s.amo d a z false fun _ => some (s.me.rg b)
/-- AMOADD (R107). -/
def execAmoadd (d a b : BitVec 5) (z : BitVec 1) (s : State) : Res := s.amo d a z false fun old => some (old + s.me.rg b)
/-- AMOAND (R107). -/
def execAmoand (d a b : BitVec 5) (z : BitVec 1) (s : State) : Res := s.amo d a z false fun old => some (old &&& s.me.rg b)
/-- AMOOR (R107). -/
def execAmoor (d a b : BitVec 5) (z : BitVec 1) (s : State) : Res := s.amo d a z false fun old => some (old ||| s.me.rg b)
/-- AMOXOR (R107). -/
def execAmoxor (d a b : BitVec 5) (z : BitVec 1) (s : State) : Res := s.amo d a z false fun old => some (old ^^^ s.me.rg b)
/-- AMOMIN (R107). -/
def execAmomin (d a b : BitVec 5) (z : BitVec 1) (s : State) : Res :=
  s.amo d a z false fun old => let y := amoView z (s.me.rg b); some (if y.slt old then y else old)
/-- AMOMAX (R107). -/
def execAmomax (d a b : BitVec 5) (z : BitVec 1) (s : State) : Res :=
  s.amo d a z false fun old => let y := amoView z (s.me.rg b); some (if old.slt y then y else old)
/-- AMOMINU (R107): sign-extended words compare unsigned as their low words do. -/
def execAmominu (d a b : BitVec 5) (z : BitVec 1) (s : State) : Res :=
  s.amo d a z false fun old => let y := amoView z (s.me.rg b); some (if y.ult old then y else old)
/-- AMOMAXU (R107). -/
def execAmomaxu (d a b : BitVec 5) (z : BitVec 1) (s : State) : Res :=
  s.amo d a z false fun old => let y := amoView z (s.me.rg b); some (if old.ult y then y else old)
/-- CAS: the value at g[a] against g[d] (R108); g[d] is tainted if a source register was (R16). Log entry 24 (DEDUCED). -/
def execCas (d a b : BitVec 5) (z : BitVec 1) (s : State) : Res :=
  s.amo d a z (s.me.tnt d || s.me.tnt a || s.me.tnt b) fun old => if old = amoView z (s.me.rg d) then some (s.me.rg b) else none

end Sys2Proof.Machine
end

