-- ==== Sys2Proof/Machine/Physical.lean ====
section
/-! DEFINITION. Bring-up, power and lifetime records (R351, R369 to R383): the boot chain, power states, brown-out entry and
resumption, link errors, the limiter and the histograms. -/

namespace Sys2Proof.Machine

/-! ## Lifetime records (R383) -/

/-- Add 1 to bin b of histogram k, saturating. -/
def State.binInc (s : State) (k b : Nat) : State :=
  let n := 16 * k + b
  let old := s.hub.bin n
  { s with hub := { s.hub with bins := (n, if old = 0xFFFFFFFF then old else old + 1) :: s.hub.bins.filter fun p => p.1 != n } }

/-- The live values are committed to the module store. -/
def State.commitLife (s : State) : State := { s with hub := { s.hub with lifeSaved := s.hub.life, binsSaved := s.hub.bins } }

/-- The hub is powered and outside its retention state. -/
def Hub.powered (h : Hub) : Bool := h.power ≠ .off && h.power ≠ .retention

/-- LIFETIME_COMMIT (R383). Log entry 99 (DEDUCED). -/
def execLifetimeCommit (s : State) : Res := .next (if s.hub.powered then s.commitLife else s)

/-- Bin of a temperature in °C. -/
def tempBin (t : BitVec 9) : Nat := if t.toNat < 25 then 0 else if 137 ≤ t.toNat then 15 else (t.toNat - 17) / 8

/-- HISTOGRAM_SAMPLE: the hottest die of each kind, the module's power and a second powered (R383). Log entry 99 (DEDUCED). -/
def execHistogramSample (tm tv tg tb ts th : BitVec 9) (s : State) : Res :=
  if !s.hub.powered then .next s
  else
    let s := (([tm, tv, tg, tb, ts, th].map tempBin).zipIdx).foldl (fun (s : State) p => s.binInc p.2 p.1) (s.lifeInc 0)
    .next (s.binInc 6 (Nat.min 15 (s.hub.pwr.toNat / 300)))

/-- Bin of a count of corrections: none, then by powers of 2. Log entry 89 (DEDUCED). -/
def corBin (n : Nat) : Nat := if n = 0 then 0 else Nat.min 15 (Nat.log2 n + 1)

/-- DAILY_HISTOGRAM_SAMPLE: the HBM4E corrections of each B-die since the last sample (R383). -/
def execDailyHistogramSample (s : State) : Res :=
  if !s.hub.powered then .next s
  else
    let dies := List.range (socketsOf s.hub.product .b).length
    let t := dies.foldl (fun (t : State) b =>
      t.binInc (8 + b) (corBin ((s.hub.counter (16 + b)).toNat - ((s.hub.dayBase.lookup b).getD 0).toNat))) s
    .next { t with hub := { t.hub with dayBase := dies.map fun b => (b, s.hub.counter (16 + b)) } }

/-- POWER_LIMIT_WINDOW: the measured power, which the limiter has held at or below the limit, and the cycles suppressed
(R376). Log entry 90 (DEDUCED). -/
def execPowerLimitWindow (pwr : BitVec 16) (gate : BitVec 6) (s : State) : Res :=
  .next (if s.hub.powered && pwr.toNat ≤ s.hub.limit.toNat then { s with hub := { s.hub with pwr := pwr, gate := gate } } else s)

/-! ## The boot chain (R369, R370, R387) -/

/-- The image that the chain takes for a measurement (R369, R370). -/
def Hub.image (h : Hub) (k : Nat) : List Byte :=
  if k = 0 then
    if h.fromStaging then let b := h.staging.read 0 (2 ^ 28); b.take (Config.imageSize b)
    else h.storeImg.getD (Config.factoryStore.getD 0 [])
  else Config.factoryStore.getD k []

/-- Reason code of the first check that an image fails; 0 for none (R369, R370). -/
def imageReason (img : List Byte) : BitVec 4 :=
  match Config.parseImage img with
  | none => 4
  | some (key, svn, sig, rest) =>
    if sha3 key ≠ Config.fuseKH then 1
    else if !Config.mldsaVerify key rest sig then 2
    else if svn < Config.fuseFsvn then 3 else 0

/-- The images from measurement `7 - n` on are checked and measured; the chain stops in recovery at one that fails. -/
def Hub.measure : Nat → Hub → Hub
  | 0, h => h
  | n + 1, h =>
    let k := 6 - n
    let img := h.image k
    let r := imageReason img
    if r ≠ 0 then { h with boot := 2, bootStage := BitVec.ofNat 4 k, bootReason := r }
    else Hub.measure n { h with meas := h.meas.setIfInBounds k (sha3 (h.meas.toArray.getD k [] ++ sha3 img)) }

/-- The boot chain. `passed` is what the dies' self-tests find, `trained` which modules train, eight bits to a socket. A stage-1
image from the staging buffer that is accepted is written to the module store (R370). -/
def State.chain (s : State) (passed : BitVec 36) (trained : BitVec 288) : State :=
  let h := { s.hub with power := .on, boot := 0, bootStage := 0, bootReason := 0,
                        meas := Vector.replicate 7 (List.replicate 32 0) }
  let store := if h.fromStaging && imageReason (h.image 0) = 0 then some (h.image 0) else h.storeImg
  let m : Hub := { Hub.measure 7 h with storeImg := store }
  let m := if m.boot = 0 && !passed.getLsbD 6 then { m with boot := 2, bootReason := 5 } else m
  if m.boot = 2 then ({ s with hub := m }).lifeInc 7
  else { s with hub := { (m.train trained).readCast passed trained with boot := 1, fromStaging := false } }

/-! ## Restoring what the retention region holds (R381) -/

/-- The contexts of every instance are gone; BOSTAT keeps which instances brown-out has removed (R381, R382). -/
def State.discardReels (s : State) : State :=
  let t := ((List.range 16).map fun n => BitVec.ofNat 4 n).foldl
    (fun (s : State) i => (s.modInst i fun x => { x with holds := false, pending := [], resume := none }).dropReel i) s
  ({ t with hub := { t.hub with retained := none, bostat := (t.hub.bostat &&& ~~~(0xF : W64)) ||| 3 } }).restLottery

/-- A token on its way arrives as much later as the package slept. -/
def OutTok.shift (o : OutTok) (d : Nat) : OutTok := { o with due := o.due.map fun p => (p.1 + d, p.2 + d) }

/-- A context as its take begins again: TAKECC is 0, and no frame holds a folio of it; the restore of a saved one finds that
(R26, R381).
Log entries 84, 85 (DEDUCED). -/
def Ctx.again (c : Ctx) (cc d : Nat) : Ctx :=
  if c.life = .removed then c
  else
    { c.dropLoad with takeStart := cc, sq := { c.sq with outq := c.sq.outq.map fun o => o.shift d },
                      folio := if c.life = .running then c.folio.map (fun e => if e.st = 2 then { e with st := 1 } else e) else c.folio }

/-- A restored context runs if its core is idle, else it is saved. -/
def State.putBack (s : State) (c : Ctx) : State :=
  let t := { s with rest := insertCtx c s.rest }
  if c.life ≠ .running || s.coreIdle c.id then t
  else ({ s with rest := insertCtx { c with life := .saved } s.rest }).putImage c.id 0

/-- The journal is applied: each granule that it records holds again what it held at the resume point (R379, R381). -/
def State.unwrite (s : State) (undo : List (Nat × List Byte)) : State :=
  let s := s.healAtoms fun a => undo.any fun p => p.1 == a / 8
  { s with mem := undo.foldl (fun m p => m.write (p.1 * 256) p.2) s.mem }

/-- The contexts of an instance return to the resume point, with the memory that its take had changed, save areas among it
(R379). -/
def State.rewind (s : State) (i : BitVec 4) (r : Resume) : State :=
  let d := s.cc - r.cc
  let s := (s.dropReel i).unwrite r.undo
  let sevs := r.sevs.map fun f => { f with due := f.due + d }
  let s := { s with sevs := s.sevs ++ sevs }
  let s := s.modInst i fun x => { x with seeds := r.seeds, level := r.level, castcls := r.castcls }
  r.ctxs.foldl (fun (s : State) c => s.putBack (c.again s.cc d)) s

/-- Bits 47:32 of BOSTAT for an instance removed by brown-out (R382). -/
def State.noteRemoved (s : State) (i : BitVec 4) : State :=
  { s with hub := { s.hub with bostat := s.hub.bostat ||| (BitVec.twoPow 64 (32 + i.toNat)) } }

/-- Every context of an instance is removed by brown-out, with TVAL its TAKE (R380, R381). -/
def State.removeReel (s : State) (i : BitVec 4) : State :=
  let t := s.noteRemoved i
  (s.idsOf i).foldl (fun (s : State) id =>
    s.within id fun s => if s.me.life = .removed then s else s.remove 0x52 s.me.take) t

/-- One instance restarts its take, or is removed when the new cast cannot host it (R381 steps 4 to 6). -/
def State.restart (s : State) (i : BitVec 4) (r : Resume) : State :=
  match launchTable s i with
  | .inl _ => (s.rewind i r).removeReel i
  | .inr t =>
    let s := (s.modInst i fun x => { x with remap := t, recls := true, recFlags := x.recFlags ||| 4 }).rewind i r
    let s := (((s.reclass i).setLevel i).mark i)
    { s with hub := { s.hub with bostat := s.hub.bostat ||| (BitVec.twoPow 64 (16 + i.toNat)) } }

/-- What follows the chain of a resumption (R381 steps 1, 3 to 6). Log entry 85 (DEDUCED). -/
def State.restore (s : State) (ret : Retained) : State :=
  if s.hub.boot ≠ 1 then s
  else if s.hub.meas.toList ≠ ret.meas then s.discardReels.releaseRemap
  else
    let s := { s with hub := { s.hub with bostat := (s.hub.bostat &&& ~~~(0xF : W64)) ||| 1 } }
    ((ret.insts.foldl (fun (s : State) p => s.restart p.1 p.2) s).lifeInc 2).releaseRemap

/-- The chain, and after it the resumption that it serves, if any. -/
def State.bring (s : State) (passed : BitVec 36) (trained : BitVec 288) : State :=
  let t := s.chain passed trained
  match s.hub.retained with
  | some ret => t.restore ret
  | none => t

/-- BOOT: from off, or from the reset state, or after a retry in recovery (R369, R370). Log entry 96 (DESIGN CHOICE). -/
def execBoot (passed : BitVec 36) (trained : BitVec 288) (s : State) : Res :=
  if s.hub.power = .off || (s.hub.power = .on && s.hub.boot = 0) then .next (s.bring passed trained) else .next s

/-- BOOTSTAT_RETRY: in recovery, the chain restarts from the staging buffer (R370). -/
def execBootstatRetry (s : State) : Res :=
  if s.hub.power = .on && s.hub.boot = 2 then
    .next { s with hub := { s.hub with boot := 0, bootStage := 0, bootReason := 0, fromStaging := true } }
  else .next s

/-- RESUMPTION: the input is back; under host-assisted policy the package first waits for the host (R378, R381).
Log entry 71 (DEDUCED). -/
def execResumption (passed : BitVec 36) (trained : BitVec 288) (s : State) : Res :=
  if s.hub.power = .retention && s.hub.funcmode.getLsbD 4 then
    .next { s with hub := { s.hub with power := .waiting, resumeOk := false } }
  else if s.hub.power = .retention || (s.hub.power = .waiting && s.hub.resumeOk) then .next (s.bring passed trained)
  else .next s

/-- BOCMD_RESUME (R378). -/
def execBocmdResume (s : State) : Res :=
  .next (if s.hub.power = .waiting then { s with hub := { s.hub with resumeOk := true } } else s)

/-! ## Loss of power (R375, R382) -/

/-- The package without power: only the module store keeps anything (R370, R383). Log entry 83 (DEDUCED). -/
def State.unpowered (s : State) (bostat : W64) (life : List (Nat × W64)) : State :=
  { agenda := s.agenda, tick := s.tick,
    hub := { product := s.hub.product, power := .off, storeImg := s.hub.storeImg, entropyN := s.hub.entropyN, bostat := bostat,
             limit := rating s.hub.product, life := life, lifeSaved := life, bins := s.hub.binsSaved,
             binsSaved := s.hub.binsSaved, dayBase := s.hub.dayBase } }

/-- POWER_OFF: in retention, the loss of the image is RETENTION_LOSS (R375, R382). -/
def execPowerOff (s : State) : Res :=
  match s.hub.power with
  | .off => .next s
  | .retention => .next s
  | .waiting => .next { s with hub := { s.hub with power := .retention } }
  | _ => .next (s.unpowered 0 s.hub.lifeSaved)

/-- RETENTION_LOSS: the image is lost, and the next boot tells (R382, R383). Log entries 83, 91 (DEDUCED). -/
def execRetentionLoss (s : State) : Res :=
  if s.hub.power ≠ .retention then .next s
  else .next (s.unpowered 2 (({ s with hub := { s.hub with life := s.hub.lifeSaved } }).lifeInc 3).hub.life)

/-! ## Brown-out entry (R377 to R380, R382) -/

/-- The take of an instance is journalled: it restarts from its resume point (R379). -/
def Inst.journalled (x : Inst) : Bool := match x.resume with | some r => !r.overflow | none => false

/-- Entry begins: the streams of every instance stop, but for those in unjournalled takes, which drain (R380).
Log entry 87 (DEDUCED). -/
def State.enter (s : State) : State :=
  let drained := (List.range 16).foldl (fun (v : W16) n =>
    let x := s.inst (BitVec.ofNat 4 n)
    setBit v n (!x.holds || x.journalled)) 0
  ({ s with hub := { s.hub with power := .entering, drained := drained, bostat := 0 } }).lifeInc 1

/-- No instruction has issued since the resumption that left an image behind (R382). Log entry 86 (DEDUCED). -/
def State.untouched (s : State) : Bool :=
  match s.hub.retained with
  | none => false
  | some ret => !ret.insts.isEmpty && ret.insts.all fun p => p.2.ctxs.all fun c =>
      match s.ctx? c.id with
      | some d => c.life = .removed ||
          (d.s.seq = c.s.seq && d.e.seq = c.e.seq && d.c.seq = c.c.seq && d.piV = c.piV && d.piM = c.piM && d.piF = c.piF &&
           d.piC = c.piC && (d.v.cl.toList.map (·.st.seq)) = (c.v.cl.toList.map (·.st.seq)) &&
           (d.life = .removed || (d.m.cur = c.m.cur && d.f.run = c.f.run)))
      | none => false

/-- A die operation in progress is abandoned: the die is brought up by the next boot (R382). -/
def Hub.dropDieOp (h : Hub) : Hub :=
  match h.dieOp with
  | some d => { h with dieOp := none, dieHeld := [], disabled := setBit h.disabled d.socket.toNat false }
  | none => h

/-- The dies lose their power: links, ports, SRAM, frames and everything on its way (R380). The image is retained as it stands. -/
def State.diesOff (s : State) : State :=
  { s with hub := { s.hub with power := .retention, linkUp := Vector.replicate 36 0, linkFailed := Vector.replicate 36 0,
                               linkCrc := Vector.replicate 36 0, trained := 0, crcLog := [], retrain := [], gate := 0 }
           ports := s.ports.map fun p => { p with up := false, fails := 0 }
           sram := [], cores := [], sevs := [], xfers := [], cuts := [], moves := [], migReqs := [], matches_ := [], marks := [] }

/-- A resumption has not yet let an instruction issue, and its image is there (R382). -/
def State.resuming (s : State) : Bool :=
  s.hub.power = .waiting || (s.hub.power = .on && s.hub.retained.isSome && (s.hub.boot ≠ 1 || s.untouched))

/-- BROWNOUT_TRIGGER: a die operation in progress is abandoned; entry begins, at once or when the host says. During a resumption
the package returns to retention with the image it has (R377, R382). Log entries 84, 86 (DEDUCED). -/
def execBrownoutTrigger (s : State) : Res :=
  if !s.hub.boArm then .next s
  else
    let s : State := { s with hub := if s.hub.power = .on || s.hub.power = .waiting then s.hub.dropDieOp else s.hub }
    if s.resuming then .next s.diesOff
    else if s.hub.power ≠ .on then .next s
    else if s.hub.funcmode.getLsbD 4 then .next (({ s with hub := { s.hub with power := .triggered } }).msi 7)
    else .next s.enter

/-- Entry begins after a trigger that waits for the host. -/
def State.hostEnter (s : State) : Res := .next (if s.hub.power = .triggered then s.enter else s)

/-- BOCMD_ENTER: it acts between a trigger that has been put to the host and entry (R366, R378). -/
def execBocmdEnter (s : State) : Res := s.hostEnter

/-- BROWNOUT_HOST_TIMEOUT: 5 ms after the trigger (R377). -/
def execBrownoutHostTimeout (s : State) : Res := s.hostEnter

/-- The instances that have not stopped. -/
def State.undrained (s : State) : List (BitVec 4) :=
  ((List.range 16).map fun n => BitVec.ofNat 4 n).filter fun i => !s.hub.drained.getLsbD i.toNat

/-- DRAIN_WINDOW_EXPIRY: the instances short of their cut are removed (R380). -/
def execDrainWindowExpiry (s : State) : Res :=
  if s.hub.power ≠ .entering then .next s
  else
    let t := s.undrained.foldl (fun (s : State) i => s.removeReel i) s
    .next { t with hub := { t.hub with drained := BitVec.allOnes 16 } }

/-- A running context is saved into the retention region, or removed while SAVEBASE.v is 0 (R341). -/
def State.spill (s : State) (id : BitVec 12) : State :=
  s.within id fun s => if s.me.life ≠ .running then s else if s.canSave id then { s with me := { s.me with life := .saved } } else s.remove 0x53 0

/-- What an instance restarts from: all that stood at its resume point. Log entries 71, 82 (DEDUCED). -/
def State.retain (s : State) (i : BitVec 4) : Option (BitVec 4 × Resume) :=
  let x := s.inst i
  if !x.holds || s.hub.bostat.getLsbD (32 + i.toNat) then none else x.resume.map fun r => (i, r)

/-- BROWNOUT_ENTRY: every instance has stopped; contexts and memory are spilled, and the package enters retention (R380,
R383). How long it took is physical. -/
def execBrownoutEntry (s : State) : Res :=
  if s.hub.power ≠ .entering || !s.undrained.isEmpty then .next s
  else
    let s := (s.ctxs.map (·.id)).foldl (fun (s : State) id => s.spill id) s
    let s := s.commitDone
    let ret : Retained := { insts := ((List.range 16).map fun n => BitVec.ofNat 4 n).filterMap s.retain, meas := s.hub.meas.toList }
    -- at most 215 ms and the drain window (R9, R380)
    let s := (s.binInc 7 (Config.freeCount s.tick % ((215 + s.hub.boWin.toNat) / 25 + 1))).commitLife
    .next ({ s with hub := { s.hub with retained := some ret } }).diesOff

/-! ## UCIe modules (R351) -/

/-- Set or clear bits of a link field of a socket. -/
def putMod (x : Vector (BitVec 8) 36) (k m : Nat) (b : Bool) : Vector (BitVec 8) 36 :=
  x.setIfInBounds k (setBit (x.toArray.getD k 0) m b)

/-- Set the up and failed bits of a module and of the one it faces. -/
def Hub.setModule (h : Hub) (k m : Nat) (up failed : Bool) : Hub :=
  (modulePair h.product k m).foldl (fun (h : Hub) p =>
    { h with linkUp := putMod h.linkUp p.1 p.2 up, linkFailed := putMod h.linkFailed p.1 p.2 failed }) h

/-- The module is in service. -/
def Hub.moduleUp (h : Hub) (k m : Nat) : Bool := (h.linkUp.toArray.getD k 0).getLsbD m

/-- The atomic access at the head of the S stream, which the same flits carry. -/
def atomicOf : Instr → Option (State → Res)
  | .amoswap d a b z => some (execAmoswap d a b z)
  | .amoadd d a b z => some (execAmoadd d a b z)
  | .amoand d a b z => some (execAmoand d a b z)
  | .amoor d a b z => some (execAmoor d a b z)
  | .amoxor d a b z => some (execAmoxor d a b z)
  | .amomin d a b z => some (execAmomin d a b z)
  | .amomax d a b z => some (execAmomax d a b z)
  | .amominu d a b z => some (execAmominu d a b z)
  | .amomaxu d a b z => some (execAmomaxu d a b z)
  | .cas d a b z => some (execCas d a b z)
  | _ => none

/-- The state that an answer leads to; one that is none leaves `s`. -/
def State.landing (s : State) (r : Res) : State := match r with | .next t => t | _ => s

/-- The fetch of a stream's word that finds no answer (R327). -/
def State.lostWord (s : State) (st : Stream) : State :=
  let at_ := fun (k : Nat) => { s with cur := { s.cur with st := st, cl := BitVec.ofNat 4 k } }
  match (List.range 16).find? fun k => (at_ k).hasTurn with
  | none => s
  | some k =>
    let t := at_ k
    match (if t.strm.word.isSome then .hold else fetchWord t t.strm.pc) with
    | .fault => t.arriveAt.trap 0x07 t.strm.pc
    | _ => s

/-- The access of a context that was on its way over a link happens: 0 the oldest load, or the atomic access at the S stream's
head when nothing is queued before it; 1 the oldest store; 2 the operand fetch; 3 the next atom of the oldest copy; 4 to 6 the
fetch of the S, engine or C stream's word; 7 nothing. -/
def State.onLink (s : State) (k : Nat) : State :=
  match k with
  | 0 =>
    if !s.me.sDone then (performLoad s).getD s
    else
      match front s s.me.id .s 0 with
      | .run i t =>
        (match atomicOf i with
         | some f => t.landing (f { t with cur := { t.cur with loss := s.cur.loss } })
         | none => s)
      | .stay _ => s
  | 1 => (performStore s).getD s
  | 2 => s.landing (execOperandFetchComplete s)
  | 3 => copyUnit s
  | 4 => s.lostWord .s
  | 5 => s.lostWord s.me.engine
  | 6 => s.lostWord .c
  | _ => s

/-- UCIE_FLIT_CRC_ERROR: module m of a socket finds a bad flit (R351). For kinds `k` below 7 it carried a request of context `c`
to socket `far`, or the response, if the path between them leads over the module; the request is then not answered and
completes with LINK_CRC (R327). Log entry 79 (DEDUCED). -/
def execUcieFlitCrcError (socket : BitVec 6) (m : BitVec 3) (c : BitVec 12) (k : BitVec 3) (far : BitVec 6) (s : State) : Res :=
  let n := socket.toNat
  if s.hub.boot ≠ 1 || !s.hub.powered || !s.hub.moduleUp n m.toNat then .next s
  else
    let crc := s.hub.linkCrc
    let crc := crc.setIfInBounds n (setBit (crc.toArray.getD n 0) (2 * m.toNat) true)
    let s := { s with hub := { s.hub with linkCrc := crc, crcLog := (n, m.toNat, s.cc) :: s.hub.crcLog } }
    let mine := k ≠ 7 && (s.ctxs.any fun d => d.id == c && d.life == .running) && carries s.hub (s.socketOf c) far.toNat n m.toNat
    let s := s.elog 0x03 n (if !mine then 0 else if k.toNat < 4 then 0x51 else 0x07) (if mine then some c else none) 0 (m.setWidth 64)
    let lost := s.within c fun s => if mine then ({ s with cur := { s.cur with loss := some far } }).onLink k.toNat else s
    .next { lost with cur := s.cur }

/-- MODULE_RETRAIN: 8 errors within 2^20 cc take the module out of service (R351). Log entry 88 (DEDUCED). -/
def execModuleRetrain (socket : BitVec 6) (m : BitVec 3) (s : State) : Res :=
  let n := socket.toNat
  let mine := s.hub.crcLog.filter fun e => e.1 == n && e.2.1 == m.toNat && s.cc < e.2.2 + 2 ^ 20
  if !s.hub.moduleUp n m.toNat || mine.length < 8 then .next s
  else
    let h := { s.hub with crcLog := s.hub.crcLog.filter fun e => !(e.1 == n && e.2.1 == m.toNat),
                          retrain := (n, m.toNat, s.cc) :: s.hub.retrain }
    .next (({ s with hub := h.setModule n m.toNat false false }).lifeInc 5)

/-- MODULE_RETRAIN_END: the module is back in service, or retired (R351). -/
def execModuleRetrainEnd (socket : BitVec 6) (m : BitVec 3) (ok : Bool) (s : State) : Res :=
  let n := socket.toNat
  match s.hub.retrain.find? fun e => e.1 == n && e.2.1 == m.toNat with
  | none => .next s
  | some e =>
    let h := { s.hub with retrain := s.hub.retrain.erase e }
    let s := { s with hub := h.setModule n m.toNat ok (!ok) }
    .next ((if ok then s else s.lifeInc 6).elog (if ok then 0x04 else 0x05) n 0 none 0 (m.setWidth 64))

end Sys2Proof.Machine
end

