-- ==== Sys2Proof/Machine/ScalarAlu.lean ====
section
/-! DEFINITION. The S stream's integer arithmetic, branches and jumps (R94 to R100). The interlock of R92 has been passed. -/

namespace Sys2Proof.Machine

/-- A two-operand result, its taint the OR of its sources' (R16). -/
def State.op2 (s : State) (d a b : BitVec 5) (r : W64 × Flags) : Res :=
  .next (s.putS d r.1 (s.me.tnt a || s.me.tnt b) r.2)

/-- A one-operand result (R16). -/
def State.op1 (s : State) (d a : BitVec 5) (r : W64 × Flags) : Res := .next (s.putS d r.1 (s.me.tnt a) r.2)

/-- ADD (R94, R95). -/
def execAdd (d a b : BitVec 5) (s : State) : Res :=
  s.op2 d a b (fit64 s.satOn ((s.me.rg a).toInt + (s.me.rg b).toInt))
/-- SUB (R94, R95). -/
def execSub (d a b : BitVec 5) (s : State) : Res :=
  s.op2 d a b (fit64 s.satOn ((s.me.rg a).toInt - (s.me.rg b).toInt))
/-- AND (R94). -/
def execAnd (d a b : BitVec 5) (s : State) : Res := s.op2 d a b (s.me.rg a &&& s.me.rg b, 0)
/-- OR (R94). -/
def execOr (d a b : BitVec 5) (s : State) : Res := s.op2 d a b (s.me.rg a ||| s.me.rg b, 0)
/-- XOR (R94). -/
def execXor (d a b : BitVec 5) (s : State) : Res := s.op2 d a b (s.me.rg a ^^^ s.me.rg b, 0)
/-- SHL (R94). -/
def execShl (d a b : BitVec 5) (s : State) : Res := s.op2 d a b (s.me.rg a <<< ((s.me.rg b).toNat % 64), 0)
/-- SHR (R94). -/
def execShr (d a b : BitVec 5) (s : State) : Res := s.op2 d a b (s.me.rg a >>> ((s.me.rg b).toNat % 64), 0)
/-- SRA (R94). -/
def execSra (d a b : BitVec 5) (s : State) : Res :=
  s.op2 d a b ((s.me.rg a).sshiftRight ((s.me.rg b).toNat % 64), 0)
/-- MUL (R94, R95). -/
def execMul (d a b : BitVec 5) (s : State) : Res :=
  s.op2 d a b (fit64 s.satOn ((s.me.rg a).toInt * (s.me.rg b).toInt))
/-- MULH (R94). -/
def execMulh (d a b : BitVec 5) (s : State) : Res :=
  s.op2 d a b (BitVec.ofInt 64 ((s.me.rg a).toInt * (s.me.rg b).toInt / 2 ^ 64), 0)
/-- DIV (R94, R95). -/
def execDiv (d a b : BitVec 5) (s : State) : Res := s.op2 d a b (divS s.satOn (s.me.rg a) (s.me.rg b))
/-- DIVU (R94, R95). -/
def execDivu (d a b : BitVec 5) (s : State) : Res := s.op2 d a b (divU (s.me.rg a) (s.me.rg b))
/-- REM (R94, R95). -/
def execRem (d a b : BitVec 5) (s : State) : Res := s.op2 d a b (remS (s.me.rg a) (s.me.rg b))
/-- REMU (R94, R95). -/
def execRemu (d a b : BitVec 5) (s : State) : Res := s.op2 d a b (remU (s.me.rg a) (s.me.rg b))
/-- MIN (R94). -/
def execMin (d a b : BitVec 5) (s : State) : Res :=
  s.op2 d a b (if (s.me.rg b).slt (s.me.rg a) then s.me.rg b else s.me.rg a, 0)
/-- MAX (R94). -/
def execMax (d a b : BitVec 5) (s : State) : Res :=
  s.op2 d a b (if (s.me.rg a).slt (s.me.rg b) then s.me.rg b else s.me.rg a, 0)
/-- MINU (R94). -/
def execMinu (d a b : BitVec 5) (s : State) : Res :=
  s.op2 d a b (if (s.me.rg b).ult (s.me.rg a) then s.me.rg b else s.me.rg a, 0)
/-- MAXU (R94). -/
def execMaxu (d a b : BitVec 5) (s : State) : Res :=
  s.op2 d a b (if (s.me.rg a).ult (s.me.rg b) then s.me.rg b else s.me.rg a, 0)
/-- SLT (R94). -/
def execSlt (d a b : BitVec 5) (s : State) : Res := s.op2 d a b (boolWord ((s.me.rg a).slt (s.me.rg b)), 0)
/-- SLTU (R94). -/
def execSltu (d a b : BitVec 5) (s : State) : Res := s.op2 d a b (boolWord ((s.me.rg a).ult (s.me.rg b)), 0)
/-- CLZ (R94). -/
def execClz (d a : BitVec 5) (s : State) : Res := s.op1 d a (clz64 (s.me.rg a), 0)
/-- POPC (R94). -/
def execPopc (d a : BitVec 5) (s : State) : Res := s.op1 d a (BitVec.ofNat 64 (popcount (s.me.rg a) 64), 0)

/-- ADDI (R95, R96). -/
def execAddi (d a : BitVec 5) (i : BitVec 15) (s : State) : Res :=
  s.op1 d a (fit64 s.satOn ((s.me.rg a).toInt + i.toInt))
/-- ANDI (R96). -/
def execAndi (d a : BitVec 5) (i : BitVec 15) (s : State) : Res := s.op1 d a (s.me.rg a &&& i.setWidth 64, 0)
/-- ORI (R96). -/
def execOri (d a : BitVec 5) (i : BitVec 15) (s : State) : Res := s.op1 d a (s.me.rg a ||| i.setWidth 64, 0)
/-- XORI (R96). -/
def execXori (d a : BitVec 5) (i : BitVec 15) (s : State) : Res := s.op1 d a (s.me.rg a ^^^ i.setWidth 64, 0)
/-- SHLI (R96). -/
def execShli (d a : BitVec 5) (i : BitVec 6) (s : State) : Res := s.op1 d a (s.me.rg a <<< i.toNat, 0)
/-- SHRI (R96). -/
def execShri (d a : BitVec 5) (i : BitVec 6) (s : State) : Res := s.op1 d a (s.me.rg a >>> i.toNat, 0)
/-- SRAI (R96). -/
def execSrai (d a : BitVec 5) (i : BitVec 6) (s : State) : Res := s.op1 d a ((s.me.rg a).sshiftRight i.toNat, 0)
/-- SLTI (R96). -/
def execSlti (d a : BitVec 5) (i : BitVec 15) (s : State) : Res :=
  s.op1 d a (boolWord ((s.me.rg a).slt (i.signExtend 64)), 0)
/-- SLTUI (R96). -/
def execSltui (d a : BitVec 5) (i : BitVec 15) (s : State) : Res :=
  s.op1 d a (boolWord ((s.me.rg a).ult (i.signExtend 64)), 0)
/-- LIH (R97). -/
def execLih (d : BitVec 5) (i : BitVec 20) (s : State) : Res := .next (s.putS d (upperImm i) false)
/-- ADDPC (R97). -/
def execAddpc (d : BitVec 5) (i : BitVec 20) (s : State) : Res := .next (s.putS d (s.me.s.pc + upperImm i) false)

/-- A branch: to its target when taken, else past it (R98). -/
def State.branch (s : State) (o : BitVec 15) (taken : Bool) : Res :=
  .next (if taken then s.retireSTo (target s.me.s.pc o) else s.retireS)

/-- BEQ (R98). -/
def execBeq (a b : BitVec 5) (o : BitVec 15) (s : State) : Res := s.branch o (s.me.rg a == s.me.rg b)
/-- BNE (R98). -/
def execBne (a b : BitVec 5) (o : BitVec 15) (s : State) : Res := s.branch o (s.me.rg a != s.me.rg b)
/-- BLT (R98). -/
def execBlt (a b : BitVec 5) (o : BitVec 15) (s : State) : Res := s.branch o ((s.me.rg a).slt (s.me.rg b))
/-- BGE (R98). -/
def execBge (a b : BitVec 5) (o : BitVec 15) (s : State) : Res := s.branch o (!(s.me.rg a).slt (s.me.rg b))
/-- BLTU (R98). -/
def execBltu (a b : BitVec 5) (o : BitVec 15) (s : State) : Res := s.branch o ((s.me.rg a).ult (s.me.rg b))
/-- BGEU (R98). -/
def execBgeu (a b : BitVec 5) (o : BitVec 15) (s : State) : Res := s.branch o (!(s.me.rg a).ult (s.me.rg b))
/-- JAL (R99). -/
def execJal (d : BitVec 5) (o : BitVec 20) (s : State) : Res :=
  .next (({ s with me := s.me.wg d (s.me.s.pc + 4) false }).retireSTo (target s.me.s.pc o))
/-- JALR (R99). -/
def execJalr (d a : BitVec 5) (i : BitVec 15) (s : State) : Res :=
  let t := s.me.rg a + i.signExtend 64
  if t.toNat % 4 ≠ 0 then s.trapR 0x04 t
  else .next (({ s with me := s.me.wg d (s.me.s.pc + 4) false }).retireSTo t)
/-- LOOP (R100). -/
def execLoop (a : BitVec 5) (o : BitVec 15) (s : State) : Res :=
  let n := s.me.rg a - 1
  ({ s with me := s.me.wg a n (s.me.tnt a) }).branch o (n != 0)

end Sys2Proof.Machine
end

