-- ==== Sys2Proof/Machine/ScalarSync.lean ====
section
/-! DEFINITION. The S stream's pointer, token, cue, guard, event, cut, domain and seed instructions (R110 to R122), and the
deliveries that complete them (R113, R117, R118). -/

namespace Sys2Proof.Machine

/-! ## Pointers (R110, R111) -/

/-- The result of SPT (R110). -/
def sptBits (s : State) (p : W64) : W64 :=
  if !ptrCheck1 p then 0xF
  else
    let c2 := ptrCheck2 s s.me p
    let c3 := c2 && ptrCheck3 s s.me p
    let c4 := c3 && ptrCheck4 s s.me p 1
    BitVec.ofNat 64 (ptrTag p + (if c2 then 16 else 0) + (if c3 then 32 else 0) + if c4 then 64 else 0)

/-- SPT (R110). -/
def execSpt (d a : BitVec 5) (s : State) : Res := .next (s.putS d (sptBits s (s.me.rg a)) (s.me.tnt a))

/-- SPC to global (R111). -/
def execSpcGlobal (d a : BitVec 5) (s : State) : Res :=
  let x := s.me.rg a
  if 2 ^ 56 ≤ x.toNat then s.trapR 0x15 x else .next (s.putS d x (s.me.tnt a))

/-- SPC to private (R111). -/
def execSpcPrivate (d a : BitVec 5) (s : State) : Res :=
  let x := s.me.rg a
  if 0x40000 ≤ x.toNat then s.trapR 0x15 x
  else .next (s.putS d (BitVec.ofNat 64 (8 * 2 ^ 60 + s.me.lcore * 2 ^ 36 + x.toNat)) (s.me.tnt a))

/-- SPC to tile (R111). -/
def execSpcTile (d a b : BitVec 5) (s : State) : Res :=
  let x := s.me.rg a; let y := s.me.rg b
  if 2 ^ 32 ≤ x.toNat || 2 ^ 8 ≤ y.toNat then s.trapR 0x15 x
  else .next (s.putS d (BitVec.ofNat 64 (9 * 2 ^ 60 + y.toNat * 2 ^ 48 + s.me.lcore * 2 ^ 36 + x.toNat)) (s.me.tnt a || s.me.tnt b))

/-- SPC to shared (R111). -/
def execSpcShared (d a b : BitVec 5) (s : State) : Res :=
  let x := s.me.rg a; let y := s.me.rg b
  if 2 ^ 32 ≤ x.toNat || 2 ^ 20 ≤ y.toNat then s.trapR 0x15 x
  else if 207 < y.toNat / 256 then s.trapR 0x14 x
  else .next (s.putS d (BitVec.ofNat 64 (10 * 2 ^ 60 + y.toNat / 256 * 2 ^ 44 + y.toNat % 256 * 2 ^ 36 + x.toNat)) (s.me.tnt a || s.me.tnt b))

/-- SPC offset (R111). Log entry 25 (DEDUCED). -/
def execSpcOffset (d a : BitVec 5) (s : State) : Res :=
  let x := s.me.rg a
  if !ptrCheck1 x then s.trapR 0x14 x
  else .next (s.putS d (if ptrTag x = 0 then x &&& 0xFFFFFFFFFFFFFF else x &&& 0xFFFFFFFF) (s.me.tnt a))

/-! ## Tokens and cues (R112 to R115) -/

/-- An instruction that releases the earlier S accesses waits until they have performed (R314). -/
def State.releasing (s : State) (go : Res) : Res := if s.me.sDone then go else .next (s.holdS 0 0)

/-- The token g[s] + imm8 (R112). -/
def tokenOf (c : Ctx) (x : BitVec 5) (i : BitVec 8) : W16 := (c.rg x + i.setWidth 64).setWidth 16

/-- TOKS on channel 0 or 2 (R112). -/
def execToks (x : BitVec 5) (c : BitVec 4) (i : BitVec 8) (s : State) : Res :=
  s.releasing (s.sendTok c.toNat (tokenOf s.me x i))

/-- TOKS to another core: into the outbound buffer of 32 entries (R112). -/
def execToksRemote (x : BitVec 5) (t : BitVec 8) (c : BitVec 3) (i : BitVec 8) (s : State) : Res :=
  s.releasing
    (if 32 ≤ s.me.sq.outq.length then .next (s.holdS 7 0)
     else
      let o : OutTok := { core := t, ch := c, val := tokenOf s.me x i, due := none, known := s.gives }
      .next ({ s with me := { s.me with sq := { s.me.sq with outq := s.me.sq.outq ++ [o] } } }).retireS)

/-- TOKW (R114). -/
def execTokw (d : BitVec 5) (c : BitVec 4) (s : State) : Res :=
  s.takeTok c.toNat fun t s => { s with me := s.me.wg d (t.setWidth 64) false }

/-- CUE (R115). -/
def execCue (n : BitVec 20) (s : State) : Res := s.cue n

/-- A stream held at a cue whose cycle has come retires it (R115, R162). -/
def reachCue (s : State) (c : Ctx) (st : Strm) : Strm :=
  match st.wait with
  | some w =>
    if !cueDue s c st then st
    else if c.timed then st.passCue w.obj s.cc
    else st.next (st.pc + 4) s.cc
  | none => st

/-- CUE_REACHED: every held cue instruction of the context whose cycle has come retires (R115); in handler mode the engine
and copy streams issue nothing (R331). -/
def execCueReached (s : State) : Res :=
  let c := s.me
  if c.life ≠ .running then .next s
  else
    let f := reachCue s c
    let c := { c with s := f c.s }
    .next { s with me := if c.t.hmode then c
                         else { c with e := f c.e, c := f c.c,
                                       v := { c.v with cl := c.v.cl.map fun k => { k with st := f k.st } } } }

/-! ## Guards and events (R116, R117) -/

/-- The state that GSET writes (R116). -/
def gsetState (c : Ctx) (d : BitVec 5) (v : BitVec 8) : BitVec 2 :=
  if v = 4 then (if c.rg d ≠ 0 then 3 else 2) else v.setWidth 2

/-- Write a guard slot (R21), with what its GSET releases (R314). -/
def Ctx.setGuard (c : Ctx) (i : BitVec 4) (x : BitVec 2) (k : Known) : Ctx :=
  { c with gd := c.gd.set i.toNat x i.isLt, hb := { c.hb with gd := c.hb.gd.set i.toNat k i.isLt } }

/-- A queue head has acted on the state of a guard slot in this running cycle: a GSET falls in a later one (R21). -/
def Ctx.testedNow (c : Ctx) (g : BitVec 4) : Bool := c.tested.1 = c.runCc && c.tested.2.getLsbD g.toNat

/-- GSET (R116). Log entry 103 (DEDUCED). -/
def execGset (d : BitVec 5) (g : BitVec 4) (v : BitVec 8) (s : State) : Res :=
  if s.me.testedNow g then .next (s.holdS 0 0)
  else s.releasing (.next ({ s with me := (s.me.setGuard g (gsetState s.me d v) s.gives).wake 1 g.toNat }).retireS)

/-- The event bits of `m` are cleared: what their SEVs have released (R314), and the context after it. -/
def Ctx.clearEvents (c : Ctx) (m : BitVec 8) : Known × Ctx :=
  let hit := fun (n : Nat) => c.events.getLsbD n && m.getLsbD n
  ((List.range 8).foldl (fun (k : Known) n => if hit n then k.join (c.hb.ev.toArray.getD n []) else k) [],
   { c with events := c.events &&& ~~~m, hb := { c.hb with ev := Vector.ofFn fun n => if hit n.val then [] else c.hb.ev[n] } })

/-- WFE (R117): it holds while an SEV that arrives in this cycle is still to be taken. -/
def execWfe (d : BitVec 5) (m : BitVec 8) (s : State) : Res :=
  let hit := s.me.events &&& m
  if hit = 0 || s.sevs.any (fun f => f.ctx == s.me.id && f.due ≤ s.cc) then .next (s.holdS 8 m.toNat)
  else
    let r := s.me.clearEvents m
    .next ({ s with me := (r.2.acquire .s r.1).wg d (hit.setWidth 64) false }).retireS

/-- SEV: the bits leave for their target (R8, R117). -/
def execSev (d : BitVec 5) (m : BitVec 8) (s : State) : Res :=
  let x := s.me.rg d
  if 207 < x.toNat % 256 then s.trapR 0x14 x
  else
    s.releasing (
      let id := ctxIdOf (instOf s.me.id) (x.toNat % 256)
      let due := s.cc + latency s.hub (s.socketOf s.me.id) (s.socketOf id)
      let f : SevFlight := { ctx := id, bits := m, due := due, known := s.gives }
      .next ({ s with sevs := s.sevs ++ [f] }).retireS)

/-- Bits arrive in EVENTS; a WFE that is held tests again in this cycle (R117). -/
def Ctx.getEvents (c : Ctx) (bits : BitVec 8) (k : Known) : Ctx :=
  let st := match c.s.wait with
    | some w => if w.kind = 8 then { c.s with tried := none } else c.s
    | none => c.s
  let ev := Vector.ofFn fun (n : Fin 8) => if bits.getLsbD n.val then Known.join c.hb.ev[n] k else c.hb.ev[n]
  { c with events := c.events ||| bits, s := st, hb := { c.hb with ev := ev } }

/-- SEV_DELIVERY: the oldest SEV addressed to the context in focus that is due reaches its EVENTS (R117). -/
def execSevDelivery (s : State) : Res :=
  match s.sevs.find? fun f => f.ctx == s.me.id && f.due ≤ s.cc with
  | none => .next s
  | some f =>
    let s := { s with sevs := s.sevs.erase f }
    if s.me.life = .none || s.me.life = .removed then .next s
    else .next (s.update s.me.id (fun c => c.getEvents f.bits f.known) fun c => [(0x60, leBytes 8 c.events.toNat)])

/-! ## Cuts (R118) -/

/-- The route tag's configuration refuses the context: CUT_TAG (R118). Log entry 27 (DEDUCED). -/
def cutRefused (s : State) (t : BitVec 3) : Bool := !inDomain s.myInst s.me t

/-- The context arrives, if it may (R118). -/
def State.arrive (s : State) (t : BitVec 3) : State :=
  let s := s.holdS 9 t.toNat
  if cutReady s s.me && s.me.storeErr.isNone then
    match s.me.cp.errs.head? with
    | some e => s.raiseCopy e
    | none => { s with me := { s.me with arrived := some t } }
  else s

/-- CUT (R118, R331). Log entry 27 (DEDUCED). -/
def execCut (t : BitVec 3) (s : State) : Res :=
  if s.me.t.hmode then s.trapR 0x01 s.me.s.restart
  else s.raising s.me.storeErr fun s => if cutRefused s t then s.trapR 0x4B (t.setWidth 64) else .next (s.arrive t)

/-- CUT_ARRIVAL: a context held at a CUT arrives once its conditions hold (R118). -/
def execCutArrival (s : State) : Res :=
  match s.me.s.wait with
  | some w =>
    if w.kind = 9 && s.me.life = .running && !s.me.t.hmode && s.me.arrived.isNone then .next (s.arrive (w.obj.setWidth 3))
    else .next s
  | none => .next s

/-- Tokens for a channel of a context that a splice carries and that are due, with their senders and splices. -/
def dueTokens (s : State) (id : BitVec 12) (ch : Nat) : List (Nat × Nat × BitVec 12 × OutTok) :=
  s.ctxs.flatMap fun c =>
    if instOf c.id ≠ instOf id then []
    else c.sq.outq.filterMap fun o =>
      match o.due with
      | some d => if d.1 ≤ s.cc && o.core.toNat == lcoreOf id && o.ch.toNat == ch then some (d.2, c.lcore, c.id, o) else none
      | none => none

/-- Of two tokens, the one that enters first: earlier splice, then lower sender (R113). -/
def tokenFirst (a b : Nat × Nat × BitVec 12 × OutTok) : Bool := a.1 < b.1 || (a.1 == b.1 && a.2.1 ≤ b.2.1)

/-- Insert a token in the order of R113. -/
def insertTok (x : Nat × Nat × BitVec 12 × OutTok) :
    List (Nat × Nat × BitVec 12 × OutTok) → List (Nat × Nat × BitVec 12 × OutTok)
  | [] => [x]
  | y :: t => if tokenFirst x y && !tokenFirst y x then x :: y :: t else y :: insertTok x t

/-- The bytes of the image that hold an inbound or local channel (R342). -/
def chanSegs (ch : Nat) (c : Ctx) : List (Nat × List Byte) :=
  [(0x2C00 + 64 * ch, (((c.chan ch).flatMap fun (t : W16) => leBytes 2 t.toNat) ++ List.replicate 64 0).take 64),
   (0x2F80 + ch, [BitVec.ofNat 8 (c.chan ch).length])]

/-- One due token enters its channel, leaving its sender's buffer. -/
def State.deliverTok (s : State) (ch : Nat) (x : Nat × Nat × BitVec 12 × OutTok) : State :=
  let s := s.modCtx x.2.2.1 fun c => { c with sq := { c.sq with outq := c.sq.outq.erase x.2.2.2 } }
  if s.me.life = .removed || s.me.life = .none then s
  else s.update s.me.id (fun c => (c.pushTok (6 + ch) x.2.2.2.val x.2.2.2.known).getD c) (chanSegs (6 + ch))

/-- REMOTE_TOKEN_DELIVERY: the due tokens of the context in focus enter its inbound channels (R113, R275). -/
def execRemoteTokenDelivery (s : State) : Res :=
  .next ((List.range 8).foldl (fun s ch =>
    ((dueTokens s s.me.id ch).foldl (fun l x => insertTok x l) []).foldl (fun s x => s.deliverTok ch x) s) s)

/-! ## Domains, seeds, random-number handles (R120 to R122) -/

/-- DOMR (R120). -/
def execDomr (d : BitVec 5) (l : BitVec 3) (w : BitVec 8) (s : State) : Res :=
  let peers := s.ctxs.filter fun c => instOf c.id == instOf s.me.id && shareDomain c.member s.me.member l.toNat
  let n := if w = 0 then (peers.filter fun c => c.lcore < s.me.lcore).length else peers.length
  .next (s.putS d (BitVec.ofNat 64 n) false)

/-- SEEDRD (R121). -/
def execSeedrd (d : BitVec 5) (h : BitVec 8) (s : State) : Res :=
  let top := s.myInst.seeds.headD 0
  .next (s.putS d (if h = 0 then top.extractLsb' 0 64 else top.extractLsb' 64 64) false)

/-- g[b]:g[a] (R122). -/
def pairWord (c : Ctx) (a b : BitVec 5) : W128 := c.rg b ++ c.rg a

/-- RNGK (R122). -/
def execRngk (n : BitVec 4) (a b : BitVec 5) (s : State) : Res :=
  let r := s.me.rn[n.toNat]'n.isLt
  .next ({ s with me := { s.me with rn := s.me.rn.set n.toNat (pairWord s.me a b, r.2) n.isLt } }).retireS

/-- RNGA (R122). -/
def execRnga (n : BitVec 4) (a b : BitVec 5) (s : State) : Res :=
  let r := s.me.rn[n.toNat]'n.isLt
  .next ({ s with me := { s.me with rn := s.me.rn.set n.toNat (r.1, r.2 + pairWord s.me a b) n.isLt } }).retireS

end Sys2Proof.Machine
end

