-- ==== Sys2Proof/Machine/VectorCtl.lean ====
section
/-! DEFINITION. Cluster control, sync bits, tokens, cues, rings and flags of the V stream (R128, R158 to R163). -/

namespace Sys2Proof.Machine

/-- VFORK: each cluster goes on from its own program counter (R158). Log entry 29 (DEDUCED). -/
def execVfork (s : State) : Res :=
  s.lockstepOnly
    (let st := s.me.e.next (s.me.e.pc + 4) s.cc
     let cl := s.me.v.cl.map fun k => { k with st := st, join := none }
     .next { s with me := { s.me with e := st, v := { s.me.v with forked := true, cl := cl } } })

/-- The clusters' VJOIN addresses, once all 16 are held at one. -/
def VState.joined (v : VState) : Option (List W64) :=
  let l := v.cl.toList.filterMap (·.join)
  if l.length = 16 then some l else none

/-- The highest sequence number among the clusters; lockstep goes on after it. -/
def VState.lastSeq (v : VState) : W64 := v.cl.toList.foldl (fun n k => if n.ult k.st.seq then k.st.seq else n) 0

/-- VJOIN: the cluster is held; when all 16 are, lockstep resumes or the stream traps (R158). Log entry 29 (DEDUCED). -/
def execVjoin (s : State) : Res :=
  if !s.me.v.forked then s.clusterMode
  else
    let pc := s.strm.pc
    let k := s.me.v.cluster s.cur.cl
    let v := s.me.v.setCluster s.cur.cl { k with join := some pc }
    match v.joined with
    | none => .next (({ s with me := { s.me with v := v } }).hold 0 0)
    | some l =>
      if l.all fun a => a == pc then
        let e := { s.me.e with pc := pc, seq := v.lastSeq }
        let cl := v.cl.map fun k => { k with join := none, st := {} }
        .next { s with me := { s.me with e := e.next (pc + 4) s.cc, v := { v with forked := false, cl := cl } } }
      else
        let cl := v.cl.map fun k => { k with join := none }
        .next (if s.mayTrap .v s.cur.cl then ({ s with me := { s.me with v := { v with cl := cl } } }).takeTrapFrom (some 0) 0x24 (l.headD 0)
               else s.trap 0x24 (l.headD 0))

/-- The branch target of a VT word (R159). -/
def vTarget (pc : W64) (o : BitVec 19) : W64 := target pc o

/-- The cluster whose lane a branch tests: cluster 0 in lockstep, its own while forked (R159). -/
def State.vTested (s : State) : BitVec 4 := if s.me.v.forked then s.cur.cl else 0

/-- VBR (R159). -/
def execVbr (d : BitVec 6) (o : BitVec 19) (s : State) : Res :=
  if lane ((s.me.v.cluster s.vTested).vreg d) 0 ≠ 0 then .next (s.retireTo (vTarget s.strm.pc o)) else .next s.retire

/-- VLOOP (R159): lane 0 counts down in every running cluster. -/
def execVloop (d : BitVec 6) (o : BitVec 19) (s : State) : Res :=
  let r := s.vApply fun _ c =>
    let v := c.vreg d
    (c.setV d (setLane0 v (lane v 0 - 1)), 0)
  let n := lane ((r.1.cluster s.vTested).vreg d) 0
  let t := { s with me := { s.me with v := r.1 } }
  .next (if n ≠ 0 then t.retireTo (vTarget s.strm.pc o) else t.retire)
where
  /-- The register with lane 0 replaced. -/
  setLane0 (v : VReg) (x : W32) : VReg := (v &&& ~~~(BitVec.ofNat 8192 0xFFFFFFFF)) ||| x.setWidth 8192

/-- VSYB: the sync bit is set, and the clusters held at it test again (R160). -/
def execVsyb (n : BitVec 4) (s : State) : Res :=
  .next ({ s with me := ({ s.me with v := { s.me.v with y := setBit s.me.v.y n.toNat true } }).wake 6 n.toNat }).retire

/-- A lower cluster may still test a sync bit in this cycle, and takes it first (R160). -/
def lowerWaits (s : State) : Bool := s.me.v.forked && !s.lowerSettled s.cur.cl.toNat

/-- VSYW: tests and clears the sync bit, or holds (R160). -/
def execVsyw (n : BitVec 4) (s : State) : Res :=
  s.wait 6 n.toNat fun s =>
    if s.me.v.y.getLsbD n.toNat && !lowerWaits s then
      some ({ s with me := { s.me with v := { s.me.v with y := setBit s.me.v.y n.toNat false } } }).retire
    else none

/-- VTOKS (R161): the token of cluster 0. -/
def execVtoks (x : BitVec 6) (c : BitVec 4) (s : State) : Res :=
  s.lockstepOnly (s.sendTok c.toNat ((lane ((s.me.v.cluster 0).vreg x) 0).setWidth 16))

/-- The token written to every enabled lane of every cluster (R161). -/
def putLanes (d : BitVec 6) (x : W32) (s : State) : State :=
  let r := s.vApply fun _ c =>
    let m := laneMap (c.vreg d) (c.mreg s.vPfxMask) fun _ => (x, 0)
    (c.setV d m.1, 0)
  { s with me := { s.me with v := r.1 } }

/-- VTOKW (R161). -/
def execVtokw (d : BitVec 6) (c : BitVec 4) (s : State) : Res :=
  s.lockstepOnly (s.takeTok c.toNat fun t s => putLanes d (t.setWidth 32) s)

/-- VCUE (R162). -/
def execVcue (n : BitVec 20) (s : State) : Res := s.cue n

/-- VFLAGS (R163). -/
def execVflags (d : BitVec 6) (s : State) : Res :=
  if s.me.v.pend.isEmpty then .next (putLanes d s.me.nflags s).retire else .next (s.hold 0 0)

/-- VNOP (R163). -/
def execVnop (s : State) : Res := .next s.retire

/-- VRING (R128): a produce waits for every earlier V instruction. -/
def execVring (r : BitVec 2) (h c : BitVec 8) (s : State) : Res :=
  s.lockstepOnly (s.ring h c r.toNat s.me.v.pend.isEmpty)

end Sys2Proof.Machine
end

