-- ==== Sys2Proof/Machine/VectorLane.lean ====
section
/-! DEFINITION. Lane arithmetic, conversions, data movement, masks and random draws of the V stream (R135 to R142, R147, R148,
R151, R152, R157). -/

namespace Sys2Proof.Machine

/-- The float format of a type code (R135). -/
def vFmt (f : BitVec 4) : FFmt := if f = 0 then .fp32 else if f = 1 then .fp16 else .bf16

/-- The element of a lane under a type code (R135). -/
def vElem (f : BitVec 4) (w : W32) : Nat := w.toNat % 2 ^ (vFmt f).bits

/-- A two-operand float lane instruction under a type code (R136). -/
def State.vFloat2 (s : State) (d a b : BitVec 6) (k : BitVec 3) (f : BitVec 4) (op : FFmt → Rm → Nat → Nat → Nat × Flags) : Res :=
  s.vLane2 d a b k fun x y => w32 (op (vFmt f) s.vRm (vElem f x) (vElem f y))

/-- VADD (R136). -/
def execVadd (d a b : BitVec 6) (k : BitVec 3) (f : BitVec 4) (s : State) : Res := s.vFloat2 d a b k f fpAdd
/-- VSUB (R136). -/
def execVsub (d a b : BitVec 6) (k : BitVec 3) (f : BitVec 4) (s : State) : Res := s.vFloat2 d a b k f fpSub
/-- VMUL (R136). -/
def execVmul (d a b : BitVec 6) (k : BitVec 3) (f : BitVec 4) (s : State) : Res := s.vFloat2 d a b k f fpMul
/-- VMIN (R136). -/
def execVmin (d a b : BitVec 6) (k : BitVec 3) (f : BitVec 4) (s : State) : Res :=
  s.vFloat2 d a b k f fun t _ x y => fpMin t x y
/-- VMAX (R136). -/
def execVmax (d a b : BitVec 6) (k : BitVec 3) (f : BitVec 4) (s : State) : Res :=
  s.vFloat2 d a b k f fun t _ x y => fpMax t x y
/-- VABS (R136). -/
def execVabs (d a : BitVec 6) (k : BitVec 3) (f : BitVec 4) (s : State) : Res :=
  s.vLane1 d a k fun x => (BitVec.ofNat 32 (vElem f x % 2 ^ ((vFmt f).bits - 1)), 0)
/-- VNEG (R136). -/
def execVneg (d a : BitVec 6) (k : BitVec 3) (f : BitVec 4) (s : State) : Res :=
  s.vLane1 d a k fun x => (BitVec.ofNat 32 (vElem f x) ^^^ BitVec.twoPow 32 ((vFmt f).bits - 1), 0)

/-- VFMA (R137). -/
def execVfma (d a b c : BitVec 6) (n : BitVec 1) (s : State) : Res :=
  s.vLanes d s.vPfxMask fun _ k j =>
    w32 (fpFma .fp32 s.vRm (n == 1) false (lane (k.vreg a) j).toNat (lane (k.vreg b) j).toNat (lane (k.vreg c) j).toNat)
/-- VFMS (R137). -/
def execVfms (d a b c : BitVec 6) (n : BitVec 1) (s : State) : Res :=
  s.vLanes d s.vPfxMask fun _ k j =>
    w32 (fpFma .fp32 s.vRm (n == 1) true (lane (k.vreg a) j).toNat (lane (k.vreg b) j).toNat (lane (k.vreg c) j).toNat)

/-- A comparison result in a lane. -/
def maskWord (b : Bool) : W32 := if b then 0xFFFFFFFF else 0

/-- VCMP (R138). -/
def execVcmp (d a b : BitVec 6) (k : BitVec 3) (f : BitVec 4) (s : State) : Res :=
  s.vLane2 d a b k fun x y => let r := fpCmp f.toNat x.toNat y.toNat; (maskWord r.1, r.2)

/-- VSEL (R139). -/
def execVsel (d a b : BitVec 6) (k : BitVec 3) (s : State) : Res :=
  s.vLanes d k fun _ c j => (if lane (c.vreg d) j ≠ 0 then lane (c.vreg a) j else lane (c.vreg b) j, 0)

/-- The conversion of VCVT by fn (R140, R51). -/
def vcvtLane (fn : Nat) (rm : Rm) (sat : Bool) (w : W32) : W32 × Flags :=
  let x := w.toNat
  let ext := fun (bits : Nat) (r : Nat × Flags) => (BitVec.ofInt 32 (sintOf bits r.1), r.2)
  match fn with
  | 0x0 => w32 (cvtFromF32 .fp16 rm x)
  | 0x1 => w32 (cvtFromF32 .bf16 rm x)
  | 0x2 => w32 (cvtFromF32 .fe4m3 rm x)
  | 0x3 => w32 (cvtFromF32 .e5m2 rm x)
  | 0x4 => w32 (cvtToF32 .fp16 false (x % 2 ^ 16))
  | 0x5 => w32 (cvtToF32 .bf16 false (x % 2 ^ 16))
  | 0x6 => w32 (cvtToF32 .fe4m3 false (x % 2 ^ 8))
  | 0x7 => w32 (cvtToF32 .e5m2 false (x % 2 ^ 8))
  | 0x8 => w32 (cvtF32ToInt 32 (-(2 ^ 31)) (2 ^ 31 - 1) rm x)
  | 0x9 => w32 (cvtI32ToF32 rm x)
  | 0xA => ext 8 (cvtF32ToInt 8 (-128) 127 rm x)
  | 0xB => w32 (cvtF32ToInt 8 0 255 rm x)
  | 0xC => ext 4 (cvtF32ToInt 4 (-8) 7 rm x)
  | 0xD => w32 (cvtI32ToInt true 8 sat x)
  | _ => w32 (cvtI32ToInt false 8 sat x)

/-- VCVT (R140). -/
def execVcvt (d a : BitVec 6) (k : BitVec 3) (f : BitVec 4) (s : State) : Res :=
  s.vLane1 d a k (vcvtLane f.toNat s.vRm s.vSat)

/-- VRND (R141). -/
def execVrnd (d a : BitVec 6) (k : BitVec 3) (s : State) : Res := s.vLane1 d a k fun x => w32 (fpRoundInt s.vRm x.toNat)

/-! ## Integers (R142) -/

/-- The integer of a lane under a type: I32, I8, N8. -/
def intElem (f : BitVec 4) (w : W32) : Int :=
  if f = 0 then sintOf 32 w.toNat else if f = 1 then sintOf 8 w.toNat else (w.toNat % 256 : Nat)

/-- An exact result brought into its type (R41) and written extended. -/
def intFit (f : BitVec 4) (sat : Bool) (x : Int) : W32 × Flags :=
  if f = 0 then w32 (toI32 sat x)
  else if f = 1 then let r := toWidth 8 (-128) 127 sat x; (BitVec.ofInt 32 (sintOf 8 r.1), r.2)
  else w32 (toWidth 8 0 255 sat x)

/-- An integer lane instruction with wrapping or saturation. -/
def State.vInt2 (s : State) (d a b : BitVec 6) (k : BitVec 3) (f : BitVec 4) (op : Int → Int → Int) : Res :=
  s.vLane2 d a b k fun x y => intFit f s.vSat (op (intElem f x) (intElem f y))

/-- VIADD (R142). -/
def execViadd (d a b : BitVec 6) (k : BitVec 3) (f : BitVec 4) (s : State) : Res := s.vInt2 d a b k f (· + ·)
/-- VISUB (R142). -/
def execVisub (d a b : BitVec 6) (k : BitVec 3) (f : BitVec 4) (s : State) : Res := s.vInt2 d a b k f (· - ·)
/-- VIMUL (R142). -/
def execVimul (d a b : BitVec 6) (k : BitVec 3) (f : BitVec 4) (s : State) : Res := s.vInt2 d a b k f (· * ·)
/-- VAND (R142). -/
def execVand (d a b : BitVec 6) (k : BitVec 3) (s : State) : Res := s.vLane2 d a b k fun x y => (x &&& y, 0)
/-- VOR (R142). -/
def execVor (d a b : BitVec 6) (k : BitVec 3) (s : State) : Res := s.vLane2 d a b k fun x y => (x ||| y, 0)
/-- VXOR (R142). -/
def execVxor (d a b : BitVec 6) (k : BitVec 3) (s : State) : Res := s.vLane2 d a b k fun x y => (x ^^^ y, 0)
/-- VSHL (R142). -/
def execVshl (d a b : BitVec 6) (k : BitVec 3) (s : State) : Res := s.vLane2 d a b k fun x y => (x <<< (y.toNat % 32), 0)
/-- VSHR (R142). -/
def execVshr (d a b : BitVec 6) (k : BitVec 3) (s : State) : Res := s.vLane2 d a b k fun x y => (x >>> (y.toNat % 32), 0)
/-- VSRA (R142). -/
def execVsra (d a b : BitVec 6) (k : BitVec 3) (s : State) : Res :=
  s.vLane2 d a b k fun x y => (x.sshiftRight (y.toNat % 32), 0)
/-- VIMIN (R142): fn 0 signed, 1 unsigned. -/
def execVimin (d a b : BitVec 6) (k : BitVec 3) (f : BitVec 4) (s : State) : Res :=
  s.vLane2 d a b k fun x y => (if (if f = 0 then y.slt x else y.ult x) then y else x, 0)
/-- VIMAX (R142). -/
def execVimax (d a b : BitVec 6) (k : BitVec 3) (f : BitVec 4) (s : State) : Res :=
  s.vLane2 d a b k fun x y => (if (if f = 0 then x.slt y else x.ult y) then y else x, 0)

/-- The condition of VICMP (R142). -/
def vicmpHolds (f : BitVec 4) (x y : W32) : Bool :=
  match f.toNat with
  | 0 => x == y | 1 => x != y | 2 => x.slt y | 3 => !x.slt y | 4 => x.ult y | _ => !x.ult y

/-- VICMP (R142). -/
def execVicmp (d a b : BitVec 6) (k : BitVec 3) (f : BitVec 4) (s : State) : Res :=
  s.vLane2 d a b k fun x y => (maskWord (vicmpHolds f x y), 0)

/-! ## Data movement (R147) -/

/-- VBCAST (R147). -/
def execVbcast (d a : BitVec 6) (l : BitVec 8) (k : BitVec 3) (s : State) : Res :=
  s.vLanes d k fun _ c _ => (lane (c.vreg a) l.toNat, 0)
/-- VMOV (R147). -/
def execVmov (d a : BitVec 6) (k : BitVec 3) (s : State) : Res := s.vLane1 d a k fun x => (x, 0)
/-- VPERM (R147). -/
def execVperm (d a b : BitVec 6) (k : BitVec 3) (s : State) : Res :=
  s.vLanes d k fun _ c j => (lane (c.vreg a) ((lane (c.vreg b) j).toNat % 256), 0)

/-- The lane that VSHUF brings to lane j (R147). -/
def shufLane (f : BitVec 4) (x y : VReg) (j : Nat) : W32 :=
  match f.toNat with
  | 0 => if j % 2 = 0 then lane x (j / 2) else lane y (j / 2)
  | 1 => if j % 2 = 0 then lane x (j / 2 + 128) else lane y (j / 2 + 128)
  | 2 => if j < 128 then lane x (2 * j) else lane y (2 * j - 256)
  | 3 => if j < 128 then lane x (2 * j + 1) else lane y (2 * j - 255)
  | _ => lane x (255 - j)

/-- VSHUF (R147). -/
def execVshuf (d a b : BitVec 6) (k : BitVec 3) (f : BitVec 4) (s : State) : Res :=
  s.vLanes d k fun _ c j => (shufLane f (c.vreg a) (c.vreg b) j, 0)

/-- VEXT (R147): every cluster's va is read before any cluster writes. -/
def execVext (d a : BitVec 6) (k : BitVec 3) (n : BitVec 4) (s : State) : Res :=
  s.lockstepOnly (s.vLanes d k fun c _ j => (lane ((s.me.v.cluster (c + n)).vreg a) j, 0))

/-- VINS (R147): lane L alone. -/
def execVins (d a : BitVec 6) (l : BitVec 8) (k : BitVec 3) (s : State) : Res :=
  s.vLanes d k fun _ c j => (if j = l.toNat then lane (c.vreg a) 0 else lane (c.vreg d) j, 0)

/-! ## Masks (R148) -/

/-- A mask instruction: the bits that mk selects change. -/
def State.vMask (s : State) (d k : BitVec 3) (f : Cluster → Nat → Bool) : Res :=
  s.vRun fun _ c =>
    let sel := c.mreg k; let old := c.mreg d
    (c.setM d (packMask fun j => if sel.getLsbD j then f c j else old.getLsbD j), 0)

/-- VMSET (R148). -/
def execVmset (d : BitVec 3) (a : BitVec 6) (k : BitVec 3) (f : BitVec 4) (s : State) : Res :=
  s.vMask d k fun c j => if f = 0 then lane (c.vreg a) j != 0 else f == 1
/-- VMAND (R148). -/
def execVmand (d a b k : BitVec 3) (s : State) : Res := s.vMask d k fun c j => (c.mreg a).getLsbD j && (c.mreg b).getLsbD j
/-- VMOR (R148). -/
def execVmor (d a b k : BitVec 3) (s : State) : Res := s.vMask d k fun c j => (c.mreg a).getLsbD j || (c.mreg b).getLsbD j
/-- VMNOT (R148). -/
def execVmnot (d a k : BitVec 3) (s : State) : Res := s.vMask d k fun c j => !(c.mreg a).getLsbD j
/-- VMPOP (R148). -/
def execVmpop (d : BitVec 6) (a k : BitVec 3) (s : State) : Res :=
  s.vLanes d k fun _ c _ => (BitVec.ofNat 32 (popcount (c.mreg a) 256), 0)

/-! ## Functions and gates (R151, R152) -/

/-- VFN (R151). -/
def execVfn (d a : BitVec 6) (k : BitVec 3) (f : BitVec 4) (s : State) : Res :=
  s.vLane1 d a k fun x => w32 (vfn f.toNat x.toNat)

/-- VGATE (R152): gate code 0 silu, 1 gelu. -/
def execVgate (d a b g : BitVec 6) (s : State) : Res :=
  s.vLane2 d a b s.vPfxMask fun x y =>
    let p := vfn (if g = 0 then 0xA else 0xB) x.toNat
    let r := fpMul .fp32 .rne p.1 y.toNat
    (BitVec.ofNat 32 r.1, p.2 ||| r.2)

/-! ## Random draws (R157) -/

/-- The 64 draws of a VRNG in a cluster (R157). -/
def vrngDraws (key base : W128) (o : W64) : List W128 :=
  (List.range 64).map fun n => mcg128 key (base + o.setWidth 128 + BitVec.ofNat 128 n)

/-- VRNG (R157): conversion code 0 raw, 1 co, 2 oc. -/
def execVrng (d a c : BitVec 6) (k : BitVec 3) (n : BitVec 4) (s : State) : Res :=
  s.vRun fun _ x =>
    let r := s.me.rn[n.toNat]'n.isLt
    let o : W64 := lane (x.vreg a) 1 ++ lane (x.vreg a) 0
    let words := ((vrngDraws r.1 r.2 o).flatMap fun y => (List.range 4).map (wordOf y)).toArray
    let conv := fun (w : W32) => if c = 0 then w else if c = 1 then unifCo w else unifOc w
    let t := laneMap (x.vreg d) (x.mreg k) fun j => (conv (words.getD j 0), 0)
    (x.setV d t.1, t.2)

end Sys2Proof.Machine
end

