-- ==== Sys2Proof/Machine/Dispatch.lean ====
section
/-! DEFINITION. One arm per constructor of Instr: the one place where an instruction meets its meaning. -/

namespace Sys2Proof.Machine

/-- What an instruction or event does. -/
def exec (i : Instr) (s : State) : Host.Outcome State Fault Refusal :=
  match i with
  | .add d a b => Sys2Proof.Machine.execAdd d a b s
  | .sub d a b => Sys2Proof.Machine.execSub d a b s
  | .and d a b => Sys2Proof.Machine.execAnd d a b s
  | .or d a b => Sys2Proof.Machine.execOr d a b s
  | .xor d a b => Sys2Proof.Machine.execXor d a b s
  | .shl d a b => Sys2Proof.Machine.execShl d a b s
  | .shr d a b => Sys2Proof.Machine.execShr d a b s
  | .sra d a b => Sys2Proof.Machine.execSra d a b s
  | .mul d a b => Sys2Proof.Machine.execMul d a b s
  | .mulh d a b => Sys2Proof.Machine.execMulh d a b s
  | .div d a b => Sys2Proof.Machine.execDiv d a b s
  | .divu d a b => Sys2Proof.Machine.execDivu d a b s
  | .rem d a b => Sys2Proof.Machine.execRem d a b s
  | .remu d a b => Sys2Proof.Machine.execRemu d a b s
  | .min d a b => Sys2Proof.Machine.execMin d a b s
  | .max d a b => Sys2Proof.Machine.execMax d a b s
  | .minu d a b => Sys2Proof.Machine.execMinu d a b s
  | .maxu d a b => Sys2Proof.Machine.execMaxu d a b s
  | .slt d a b => Sys2Proof.Machine.execSlt d a b s
  | .sltu d a b => Sys2Proof.Machine.execSltu d a b s
  | .clz d a => Sys2Proof.Machine.execClz d a s
  | .popc d a => Sys2Proof.Machine.execPopc d a s
  | .addi d a i0 => Sys2Proof.Machine.execAddi d a i0 s
  | .andi d a i0 => Sys2Proof.Machine.execAndi d a i0 s
  | .ori d a i0 => Sys2Proof.Machine.execOri d a i0 s
  | .xori d a i0 => Sys2Proof.Machine.execXori d a i0 s
  | .shli d a i0 => Sys2Proof.Machine.execShli d a i0 s
  | .shri d a i0 => Sys2Proof.Machine.execShri d a i0 s
  | .srai d a i0 => Sys2Proof.Machine.execSrai d a i0 s
  | .slti d a i0 => Sys2Proof.Machine.execSlti d a i0 s
  | .sltui d a i0 => Sys2Proof.Machine.execSltui d a i0 s
  | .lih d i0 => Sys2Proof.Machine.execLih d i0 s
  | .addpc d i0 => Sys2Proof.Machine.execAddpc d i0 s
  | .beq a b o => Sys2Proof.Machine.execBeq a b o s
  | .bne a b o => Sys2Proof.Machine.execBne a b o s
  | .blt a b o => Sys2Proof.Machine.execBlt a b o s
  | .bge a b o => Sys2Proof.Machine.execBge a b o s
  | .bltu a b o => Sys2Proof.Machine.execBltu a b o s
  | .bgeu a b o => Sys2Proof.Machine.execBgeu a b o s
  | .jal d o => Sys2Proof.Machine.execJal d o s
  | .jalr d a i0 => Sys2Proof.Machine.execJalr d a i0 s
  | .loop a o => Sys2Proof.Machine.execLoop a o s
  | .ld d a z o => Sys2Proof.Machine.execLd d a z o s
  | .ldsx d a z o => Sys2Proof.Machine.execLdsx d a z o s
  | .st s0 a z o => Sys2Proof.Machine.execSt s0 a z o s
  | .ldc d a z o => Sys2Proof.Machine.execLdc d a z o s
  | .fence s0 => Sys2Proof.Machine.execFence s0 s
  | .amoswap d a b z => Sys2Proof.Machine.execAmoswap d a b z s
  | .amoadd d a b z => Sys2Proof.Machine.execAmoadd d a b z s
  | .amoand d a b z => Sys2Proof.Machine.execAmoand d a b z s
  | .amoor d a b z => Sys2Proof.Machine.execAmoor d a b z s
  | .amoxor d a b z => Sys2Proof.Machine.execAmoxor d a b z s
  | .amomin d a b z => Sys2Proof.Machine.execAmomin d a b z s
  | .amomax d a b z => Sys2Proof.Machine.execAmomax d a b z s
  | .amominu d a b z => Sys2Proof.Machine.execAmominu d a b z s
  | .amomaxu d a b z => Sys2Proof.Machine.execAmomaxu d a b z s
  | .cas d a b z => Sys2Proof.Machine.execCas d a b z s
  | .spt d a => Sys2Proof.Machine.execSpt d a s
  | .spcGlobal d a => Sys2Proof.Machine.execSpcGlobal d a s
  | .spcPrivate d a => Sys2Proof.Machine.execSpcPrivate d a s
  | .spcTile d a b => Sys2Proof.Machine.execSpcTile d a b s
  | .spcShared d a b => Sys2Proof.Machine.execSpcShared d a b s
  | .spcOffset d a => Sys2Proof.Machine.execSpcOffset d a s
  | .toks s0 c i0 => Sys2Proof.Machine.execToks s0 c i0 s
  | .toksRemote s0 t c i0 => Sys2Proof.Machine.execToksRemote s0 t c i0 s
  | .tokw d c => Sys2Proof.Machine.execTokw d c s
  | .cue n => Sys2Proof.Machine.execCue n s
  | .gset d s0 v => Sys2Proof.Machine.execGset d s0 v s
  | .wfe d m => Sys2Proof.Machine.execWfe d m s
  | .sev d m => Sys2Proof.Machine.execSev d m s
  | .cut t => Sys2Proof.Machine.execCut t s
  | .cutComplete t => Sys2Proof.Machine.execCutComplete t s
  | .domr d l w => Sys2Proof.Machine.execDomr d l w s
  | .seedrd d h => Sys2Proof.Machine.execSeedrd d h s
  | .rngk n a b => Sys2Proof.Machine.execRngk n a b s
  | .rnga n a b => Sys2Proof.Machine.execRnga n a b s
  | .folio a b s0 => Sys2Proof.Machine.execFolio a b s0 s
  | .funbind s0 => Sys2Proof.Machine.execFunbind s0 s
  | .talloc d a b h => Sys2Proof.Machine.execTalloc d a b h s
  | .tfree h => Sys2Proof.Machine.execTfree h s
  | .tinfo d h i0 => Sys2Proof.Machine.execTinfo d h i0 s
  | .tring r h c => Sys2Proof.Machine.execTring r h c s
  | .trap n => Sys2Proof.Machine.execTrap n s
  | .csrr d c => Sys2Proof.Machine.execCsrr d c s
  | .csrw s0 c => Sys2Proof.Machine.execCsrw s0 c s
  | .csrs s0 c i0 => Sys2Proof.Machine.execCsrs s0 c i0 s
  | .pfx g p e m f => Sys2Proof.Machine.execPfx g p e m f s
  | .vadd d a b k f => Sys2Proof.Machine.execVadd d a b k f s
  | .vsub d a b k f => Sys2Proof.Machine.execVsub d a b k f s
  | .vmul d a b k f => Sys2Proof.Machine.execVmul d a b k f s
  | .vfma d a b c n => Sys2Proof.Machine.execVfma d a b c n s
  | .vfms d a b c n => Sys2Proof.Machine.execVfms d a b c n s
  | .vmin d a b k f => Sys2Proof.Machine.execVmin d a b k f s
  | .vmax d a b k f => Sys2Proof.Machine.execVmax d a b k f s
  | .vabs d a k f => Sys2Proof.Machine.execVabs d a k f s
  | .vneg d a k f => Sys2Proof.Machine.execVneg d a k f s
  | .vcmp d a b k f => Sys2Proof.Machine.execVcmp d a b k f s
  | .vsel d a b k => Sys2Proof.Machine.execVsel d a b k s
  | .vcvt d a k f => Sys2Proof.Machine.execVcvt d a k f s
  | .vrnd d a k => Sys2Proof.Machine.execVrnd d a k s
  | .viadd d a b k f => Sys2Proof.Machine.execViadd d a b k f s
  | .visub d a b k f => Sys2Proof.Machine.execVisub d a b k f s
  | .vimul d a b k f => Sys2Proof.Machine.execVimul d a b k f s
  | .vand d a b k => Sys2Proof.Machine.execVand d a b k s
  | .vor d a b k => Sys2Proof.Machine.execVor d a b k s
  | .vxor d a b k => Sys2Proof.Machine.execVxor d a b k s
  | .vshl d a b k => Sys2Proof.Machine.execVshl d a b k s
  | .vshr d a b k => Sys2Proof.Machine.execVshr d a b k s
  | .vsra d a b k => Sys2Proof.Machine.execVsra d a b k s
  | .vimin d a b k f => Sys2Proof.Machine.execVimin d a b k f s
  | .vimax d a b k f => Sys2Proof.Machine.execVimax d a b k f s
  | .vicmp d a b k f => Sys2Proof.Machine.execVicmp d a b k f s
  | .vbmul d a b x y s0 => Sys2Proof.Machine.execVbmul d a b x y s0 s
  | .vbdot d a b x y s0 => Sys2Proof.Machine.execVbdot d a b x y s0 s
  | .vbmac d a b x y s0 => Sys2Proof.Machine.execVbmac d a b x y s0 s
  | .vld d h o => Sys2Proof.Machine.execVld d h o s
  | .vst d h o => Sys2Proof.Machine.execVst d h o s
  | .vldx d a b k => Sys2Proof.Machine.execVldx d a b k s
  | .vstx d a b k => Sys2Proof.Machine.execVstx d a b k s
  | .vbcast d a l k => Sys2Proof.Machine.execVbcast d a l k s
  | .vmov d a k => Sys2Proof.Machine.execVmov d a k s
  | .vperm d a b k => Sys2Proof.Machine.execVperm d a b k s
  | .vshuf d a b k f => Sys2Proof.Machine.execVshuf d a b k f s
  | .vext d a k n => Sys2Proof.Machine.execVext d a k n s
  | .vins d a l k => Sys2Proof.Machine.execVins d a l k s
  | .vmset d a k f => Sys2Proof.Machine.execVmset d a k f s
  | .vmand d a b k => Sys2Proof.Machine.execVmand d a b k s
  | .vmor d a b k => Sys2Proof.Machine.execVmor d a b k s
  | .vmnot d a k => Sys2Proof.Machine.execVmnot d a k s
  | .vmpop d a k => Sys2Proof.Machine.execVmpop d a k s
  | .vred d a b k f => Sys2Proof.Machine.execVred d a b k f s
  | .vscan d a k f => Sys2Proof.Machine.execVscan d a k f s
  | .vfn d a k f => Sys2Proof.Machine.execVfn d a k f s
  | .vgate d a b g => Sys2Proof.Machine.execVgate d a b g s
  | .vstat d a b k f => Sys2Proof.Machine.execVstat d a b k f s
  | .vnorm d a b k f => Sys2Proof.Machine.execVnorm d a b k f s
  | .vsmax d a b k f => Sys2Proof.Machine.execVsmax d a b k f s
  | .vsmxn d a b k => Sys2Proof.Machine.execVsmxn d a b k s
  | .vx d a b s0 k => Sys2Proof.Machine.execVx d a b s0 k s
  | .vrng d a c k n => Sys2Proof.Machine.execVrng d a c k n s
  | .vsyb n => Sys2Proof.Machine.execVsyb n s
  | .vsyw n => Sys2Proof.Machine.execVsyw n s
  | .vbr d o => Sys2Proof.Machine.execVbr d o s
  | .vloop d o => Sys2Proof.Machine.execVloop d o s
  | .vring r h c => Sys2Proof.Machine.execVring r h c s
  | .vtoks s0 c => Sys2Proof.Machine.execVtoks s0 c s
  | .vtokw d c => Sys2Proof.Machine.execVtokw d c s
  | .vcue n => Sys2Proof.Machine.execVcue n s
  | .vflags d => Sys2Proof.Machine.execVflags d s
  | .mnest l f v => Sys2Proof.Machine.execMnest l f v s
  | .mfmt x t f => Sys2Proof.Machine.execMfmt x t f s
  | .mwld h f => Sys2Proof.Machine.execMwld h f s
  | .mwldF h n f => Sys2Proof.Machine.execMwldF h n f s
  | .mwldS f => Sys2Proof.Machine.execMwldS f s
  | .macc n d m => Sys2Proof.Machine.execMacc n d m s
  | .mgo a b => Sys2Proof.Machine.execMgo a b s
  | .mgoF a b n => Sys2Proof.Machine.execMgoF a b n s
  | .msplit v => Sys2Proof.Machine.execMsplit v s
  | .mqOpen n h => Sys2Proof.Machine.execMqOpen n h s
  | .mqClose n h => Sys2Proof.Machine.execMqClose n h s
  | .mtoks c v => Sys2Proof.Machine.execMtoks c v s
  | .mtokw c => Sys2Proof.Machine.execMtokw c s
  | .mcue n => Sys2Proof.Machine.execMcue n s
  | .mring r c h => Sys2Proof.Machine.execMring r c h s
  | .cla d k v => Sys2Proof.Machine.execCla d k v s
  | .cadd d i0 => Sys2Proof.Machine.execCadd d i0 s
  | .caddReg d s0 => Sys2Proof.Machine.execCaddReg d s0 s
  | .ccpy a q h s0 t => Sys2Proof.Machine.execCcpy a q h s0 t s
  | .ccpyOut a q h s0 t => Sys2Proof.Machine.execCcpyOut a q h s0 t s
  | .ccpys a q h s0 => Sys2Proof.Machine.execCcpys a q h s0 s
  | .cwst a q => Sys2Proof.Machine.execCwst a q s
  | .ctab q h => Sys2Proof.Machine.execCtab q h s
  | .cgath a b c q h => Sys2Proof.Machine.execCgath a b c q h s
  | .cscat a b c q h => Sys2Proof.Machine.execCscat a b c q h s
  | .cxfer a q h => Sys2Proof.Machine.execCxfer a q h s
  | .cred a b c q x l o => Sys2Proof.Machine.execCred a b c q x l o s
  | .cbcst a b c q x => Sys2Proof.Machine.execCbcst a b c q x s
  | .cpref a b q => Sys2Proof.Machine.execCpref a b q s
  | .cmig a q t => Sys2Proof.Machine.execCmig a q t s
  | .crrd a b c q => Sys2Proof.Machine.execCrrd a b c q s
  | .cwaitm m => Sys2Proof.Machine.execCwaitm m s
  | .ctoks d v c => Sys2Proof.Machine.execCtoks d v c s
  | .ctoksAll d v c => Sys2Proof.Machine.execCtoksAll d v c s
  | .ctokw c => Sys2Proof.Machine.execCtokw c s
  | .ctokwLd d c => Sys2Proof.Machine.execCtokwLd d c s
  | .ctokwAdd d c => Sys2Proof.Machine.execCtokwAdd d c s
  | .ccue n => Sys2Proof.Machine.execCcue n s
  | .cfence s0 => Sys2Proof.Machine.execCfence s0 s
  | .cring r c h => Sys2Proof.Machine.execCring r c h s
  | .fload h e b n => Sys2Proof.Machine.execFload h e b n s
  | .fopen h e r l => Sys2Proof.Machine.execFopen h e r l s
  | .fopenOut h e r l => Sys2Proof.Machine.execFopenOut h e r l s
  | .fclose h e => Sys2Proof.Machine.execFclose h e s
  | .fsched e p f => Sys2Proof.Machine.execFsched e p f s
  | .fschedOff e p f => Sys2Proof.Machine.execFschedOff e p f s
  | .fstart w => Sys2Proof.Machine.execFstart w s
  | .fqry c r w e => Sys2Proof.Machine.execFqry c r w e s
  | .ftoks c v => Sys2Proof.Machine.execFtoks c v s
  | .ftokw c => Sys2Proof.Machine.execFtokw c s
  | .fcue n => Sys2Proof.Machine.execFcue n s
  | .fring r c h => Sys2Proof.Machine.execFring r c h s
  | .eAdd d a b => Sys2Proof.Machine.execEAdd d a b s
  | .eSub d a b => Sys2Proof.Machine.execESub d a b s
  | .eAnd d a b => Sys2Proof.Machine.execEAnd d a b s
  | .eOr d a b => Sys2Proof.Machine.execEOr d a b s
  | .eXor d a b => Sys2Proof.Machine.execEXor d a b s
  | .eShl d a b => Sys2Proof.Machine.execEShl d a b s
  | .eShr d a b sg => Sys2Proof.Machine.execEShr d a b sg s
  | .eCmp d a b cc => Sys2Proof.Machine.execECmp d a b cc s
  | .eSel d a b c => Sys2Proof.Machine.execESel d a b c s
  | .eMin d a b u => Sys2Proof.Machine.execEMin d a b u s
  | .eMax d a b u => Sys2Proof.Machine.execEMax d a b u s
  | .eMul16 d a b u => Sys2Proof.Machine.execEMul16 d a b u s
  | .ePopc d a => Sys2Proof.Machine.execEPopc d a s
  | .eMov d a => Sys2Proof.Machine.execEMov d a s
  | .eCxch d c a b sg => Sys2Proof.Machine.execECxch d c a b sg s
  | .eLdi d i0 => Sys2Proof.Machine.execELdi d i0 s
  | .eLdiH d i0 => Sys2Proof.Machine.execELdiH d i0 s
  | .eLds d a i0 => Sys2Proof.Machine.execELds d a i0 s
  | .eSts s0 a i0 => Sys2Proof.Machine.execESts s0 a i0 s
  | .eLoop d t => Sys2Proof.Machine.execELoop d t s
  | .eRecv d dir => Sys2Proof.Machine.execERecv d dir s
  | .eSend s0 dir => Sys2Proof.Machine.execESend s0 dir s
  | .ePeek d dir => Sys2Proof.Machine.execEPeek d dir s
  | .eEmit s0 dir sc => Sys2Proof.Machine.execEEmit s0 dir sc s
  | .eEmitReg s0 dir k => Sys2Proof.Machine.execEEmitReg s0 dir k s
  | .eBub dir => Sys2Proof.Machine.execEBub dir s
  | .lotteryGrant u => Sys2Proof.Machine.execLotteryGrant u s
  | .dierstComplete pass trained => Sys2Proof.Machine.execDierstComplete pass trained s
  | .pageMigration b f => Sys2Proof.Machine.execPageMigration b f s
  | .migrationEpochEnd b => Sys2Proof.Machine.execMigrationEpochEnd b s
  | .remoteReadRequest b pkg a n => Sys2Proof.Machine.execRemoteReadRequest b pkg a n s
  | .peerRequest pkg p wr a n bs => Sys2Proof.Machine.execPeerRequest pkg p wr a n bs s
  | .boot passed trained => Sys2Proof.Machine.execBoot passed trained s
  | .resumption passed trained => Sys2Proof.Machine.execResumption passed trained s
  | .ucieFlitCrcError socket m c k far => Sys2Proof.Machine.execUcieFlitCrcError socket m c k far s
  | .moduleRetrain socket m => Sys2Proof.Machine.execModuleRetrain socket m s
  | .moduleRetrainEnd socket m ok => Sys2Proof.Machine.execModuleRetrainEnd socket m ok s
  | .vexfyFlitResend p ok => Sys2Proof.Machine.execVexfyFlitResend p ok s
  | .vexfyPortDown p => Sys2Proof.Machine.execVexfyPortDown p s
  | .patrolScrub unit b blk => Sys2Proof.Machine.execPatrolScrub unit b blk s
  | .histogramSample tm tv tg tb ts th => Sys2Proof.Machine.execHistogramSample tm tv tg tb ts th s
  | .powerLimitWindow pwr gate => Sys2Proof.Machine.execPowerLimitWindow pwr gate s
  | .vexfyPortTrained p peer => Sys2Proof.Machine.execVexfyPortTrained p peer s
  | .remoteCollectiveFrame rank lcore e v => Sys2Proof.Machine.execRemoteCollectiveFrame rank lcore e v s
  | .loadDataReturn => Sys2Proof.Machine.execLoadDataReturn s
  | .mark => Sys2Proof.Machine.execMark s
  | .cueReached => Sys2Proof.Machine.execCueReached s
  | .sevDelivery => Sys2Proof.Machine.execSevDelivery s
  | .cutArrival => Sys2Proof.Machine.execCutArrival s
  | .remoteTokenDelivery => Sys2Proof.Machine.execRemoteTokenDelivery s
  | .eret => Sys2Proof.Machine.execEret s
  | .halt => Sys2Proof.Machine.execHalt s
  | .nop => Sys2Proof.Machine.execNop s
  | .vfork => Sys2Proof.Machine.execVfork s
  | .vjoin => Sys2Proof.Machine.execVjoin s
  | .vnop => Sys2Proof.Machine.execVnop s
  | .mwldComplete => Sys2Proof.Machine.execMwldComplete s
  | .cwstPairing => Sys2Proof.Machine.execCwstPairing s
  | .mwsw => Sys2Proof.Machine.execMwsw s
  | .mgoStep => Sys2Proof.Machine.execMgoStep s
  | .operandFetchComplete => Sys2Proof.Machine.execOperandFetchComplete s
  | .mwait => Sys2Proof.Machine.execMwait s
  | .mwaitEnd => Sys2Proof.Machine.execMwaitEnd s
  | .mnop => Sys2Proof.Machine.execMnop s
  | .cxferArrival => Sys2Proof.Machine.execCxferArrival s
  | .copyComplete => Sys2Proof.Machine.execCopyComplete s
  | .cnop => Sys2Proof.Machine.execCnop s
  | .runComplete => Sys2Proof.Machine.execRunComplete s
  | .fabricBound => Sys2Proof.Machine.execFabricBound s
  | .inputPortPush => Sys2Proof.Machine.execInputPortPush s
  | .outputPortWrite => Sys2Proof.Machine.execOutputPortWrite s
  | .fwait => Sys2Proof.Machine.execFwait s
  | .fwaitEnd => Sys2Proof.Machine.execFwaitEnd s
  | .eHalt => Sys2Proof.Machine.execEHalt s
  | .eNop => Sys2Proof.Machine.execENop s
  | .packetEnqueue => Sys2Proof.Machine.execPacketEnqueue s
  | .packetDispatch => Sys2Proof.Machine.execPacketDispatch s
  | .launch => Sys2Proof.Machine.execLaunch s
  | .pushseed => Sys2Proof.Machine.execPushseed s
  | .popseed => Sys2Proof.Machine.execPopseed s
  | .forkseed => Sys2Proof.Machine.execForkseed s
  | .setlevel => Sys2Proof.Machine.execSetlevel s
  | .signal => Sys2Proof.Machine.execSignal s
  | .signalReport => Sys2Proof.Machine.execSignalReport s
  | .reelRetirement => Sys2Proof.Machine.execReelRetirement s
  | .statqRead => Sys2Proof.Machine.execStatqRead s
  | .sliceSwitch => Sys2Proof.Machine.execSliceSwitch s
  | .waitHoldExpiry => Sys2Proof.Machine.execWaitHoldExpiry s
  | .boundOverrun => Sys2Proof.Machine.execBoundOverrun s
  | .watchpoint => Sys2Proof.Machine.execWatchpoint s
  | .watchpointMatch => Sys2Proof.Machine.execWatchpointMatch s
  | .folioFrameLoad => Sys2Proof.Machine.execFolioFrameLoad s
  | .preemption => Sys2Proof.Machine.execPreemption s
  | .contextRestore => Sys2Proof.Machine.execContextRestore s
  | .quiesceSaveTimeout => Sys2Proof.Machine.execQuiesceSaveTimeout s
  | .ctxcmdResume => Sys2Proof.Machine.execCtxcmdResume s
  | .ctxcmdRemove => Sys2Proof.Machine.execCtxcmdRemove s
  | .dierstReset => Sys2Proof.Machine.execDierstReset s
  | .dierstDisable => Sys2Proof.Machine.execDierstDisable s
  | .dierstEnable => Sys2Proof.Machine.execDierstEnable s
  | .xlinv => Sys2Proof.Machine.execXlinv s
  | .xlinvComplete => Sys2Proof.Machine.execXlinvComplete s
  | .remapgo => Sys2Proof.Machine.execRemapgo s
  | .remapCommitComplete => Sys2Proof.Machine.execRemapCommitComplete s
  | .remapEntryWrite => Sys2Proof.Machine.execRemapEntryWrite s
  | .migcmd => Sys2Proof.Machine.execMigcmd s
  | .folreqRead => Sys2Proof.Machine.execFolreqRead s
  | .folresp => Sys2Proof.Machine.execFolresp s
  | .elogqRead => Sys2Proof.Machine.execElogqRead s
  | .elogcntWrite => Sys2Proof.Machine.execElogcntWrite s
  | .pchashWrite => Sys2Proof.Machine.execPchashWrite s
  | .hbmctlWrite => Sys2Proof.Machine.execHbmctlWrite s
  | .pccntWrite => Sys2Proof.Machine.execPccntWrite s
  | .sramctlWrite => Sys2Proof.Machine.execSramctlWrite s
  | .migctlWrite => Sys2Proof.Machine.execMigctlWrite s
  | .pkgidWrite => Sys2Proof.Machine.execPkgidWrite s
  | .colltabWrite => Sys2Proof.Machine.execColltabWrite s
  | .vxportWrite => Sys2Proof.Machine.execVxportWrite s
  | .funcmodeWrite => Sys2Proof.Machine.execFuncmodeWrite s
  | .pwrctlWrite => Sys2Proof.Machine.execPwrctlWrite s
  | .boctlWrite => Sys2Proof.Machine.execBoctlWrite s
  | .bootstatRetry => Sys2Proof.Machine.execBootstatRetry s
  | .bocmdEnter => Sys2Proof.Machine.execBocmdEnter s
  | .bocmdResume => Sys2Proof.Machine.execBocmdResume s
  | .registerWrite => Sys2Proof.Machine.execRegisterWrite s
  | .bar2HostRead => Sys2Proof.Machine.execBar2HostRead s
  | .bar2HostWrite => Sys2Proof.Machine.execBar2HostWrite s
  | .powerOff => Sys2Proof.Machine.execPowerOff s
  | .brownoutTrigger => Sys2Proof.Machine.execBrownoutTrigger s
  | .brownoutEntry => Sys2Proof.Machine.execBrownoutEntry s
  | .brownoutHostTimeout => Sys2Proof.Machine.execBrownoutHostTimeout s
  | .drainWindowExpiry => Sys2Proof.Machine.execDrainWindowExpiry s
  | .retentionLoss => Sys2Proof.Machine.execRetentionLoss s
  | .lifetimeCommit => Sys2Proof.Machine.execLifetimeCommit s
  | .entropyHealthFailure => Sys2Proof.Machine.execEntropyHealthFailure s
  | .storePerform => Sys2Proof.Machine.execStorePerform s
  | .vInstructionCompletion => Sys2Proof.Machine.execVInstructionCompletion s
  | .mqRow => Sys2Proof.Machine.execMqRow s
  | .pageMoveComplete => Sys2Proof.Machine.execPageMoveComplete s
  | .entropyHealthPass => Sys2Proof.Machine.execEntropyHealthPass s
  | .dailyHistogramSample => Sys2Proof.Machine.execDailyHistogramSample s

end Sys2Proof.Machine
end

