-- ==== Sys2Proof/Machine/Step.lean ====
section
/-! DEFINITION. One step: the next choice of the schedule names an agent, and that agent acts (log entry 2). -/

namespace Sys2Proof.Machine

/-- The instance and context of an event come into view; without such a context the focus is empty. -/
def State.aim (s : State) (id : BitVec 12) : State :=
  match s.focus id with
  | some s' => { s' with cur := { st := .s, cl := 0, inst := instOf id } }
  | none =>
    { s with me := { id := id }, rest := if s.me.life = .none then s.rest else insertCtx s.me s.rest,
             cur := { st := .s, cl := 0, inst := instOf id } }

/-- The host puts an access on its bus. -/
def State.onBus (s : State) (off : BitVec 28) (z : BitVec 2) (v : W64) : State :=
  { s with hub := { s.hub with bus := { off := off, z := z, v := v } } }

/-- An atom of global memory, or a word of a core's memories, whose bits have changed: one error that can be corrected, or with
another before it one that cannot (R291, R299, R300). -/
def upset (l : List (Nat × Bool)) (a : Nat) (bad : Bool) : List (Nat × Bool) :=
  match l.lookup a with
  | some _ => (a, true) :: l.filter fun f => f.1 != a
  | none => (a, bad) :: l

/-- Bits of an atom of memory change (R299, R300). Log entry 10 (DESIGN CHOICE). -/
def State.upsetAtom (s : State) (a : Nat) (bad : Bool) : State :=
  if physExists s.hub (a * 32) && !s.poison.contains a then { s with flips := upset s.flips a bad } else s

/-- Bits of a word of a running context's scratchpad or private memory change (R291). Log entry 10 (DESIGN CHOICE). -/
def State.upsetWord (s : State) (id : BitVec 12) (priv : Bool) (w : Nat) (bad : Bool) : State :=
  s.modCtx id fun c =>
    if c.life ≠ .running then c
    else if priv then (if w < 0x8000 && !c.badPriv.contains w then { c with flipPriv := upset c.flipPriv w bad } else c)
    else if w < 0x100000 && !c.badSpad.contains w then { c with flipSpad := upset c.flipSpad w bad }
    else c

/-- The instruction that an action makes the machine execute, and the state in which it executes. -/
def turn (s : State) : Action → Front
  | .stream id st cl => front s id st cl
  | .event id i => if streamsOf i = [] && !onBusOnly i then .run i (s.aim id) else .stay s
  | .hostWrite off v => .run (hostWriteRow off.toNat v) (s.onBus (off.setWidth 28) 3 v)
  | .hostRead off =>
    let s := s.onBus (off.setWidth 28) 3 0
    match hostReadRow off.toNat with
    | some i => .run i s
    | none => .stay (s.hostRead off.toNat)
  | .bar2Read off z => .run .bar2HostRead (s.onBus off z 0)
  | .bar2Write off z v => .run .bar2HostWrite (s.onBus off z v)
  | .copyUnit id => .stay (if (s.ctx? id).isSome then copyUnit (s.aim id) else s)
  | .fetchAtom id => .stay (if (s.ctx? id).isSome then fetchAtom (s.aim id) else s)
  | .fabricCycle id => .stay (if (s.ctx? id).isSome then fabricCycle (s.aim id) else s)
  | .upsetAtom a bad => .stay (s.upsetAtom a.toNat bad)
  | .upsetWord id priv w bad => .stay (s.upsetWord id priv w.toNat bad)
  | .cycle => .stay (doCycle s)

/-- The next choice of the schedule: the agenda's head, else the free choice of this tick. Log entry 2 (DESIGN CHOICE). -/
def State.choice (s : State) : Action := s.agenda.headD (Config.freeAction s.tick)

/-- The schedule has taken its next choice. Log entry 2 (DESIGN CHOICE). -/
def State.taken (s : State) : State := { s with agenda := s.agenda.tail, tick := s.tick + 1 }

/-- One step. -/
def step (s : State) : Host.Outcome State Fault Refusal :=
  match turn s.taken s.choice with
  | .stay s' => .next s'
  | .run i s' => exec i s'

/-- The stream whose map gives a word its instruction; the S stream when none does. -/
def wordStream (w : W32) : Stream :=
  match tableStream w with
  | some (st, _) => st
  | none => .s

/-- A logical core that has the stream: 0 for S and M, 64 for V, 192 for C and F. -/
def coreWith : Stream → Nat
  | .s => 0 | .m => 0 | .v => 64 | .c => 192 | .f => 192 | .e => 192

/-- The package with one running context whose stream is about to fetch the word: the dies are good, instance 0 maps its
first GiB onto physical address 0x4000_0000, and the word lies at virtual address 0. -/
def State.withFetchWord (s : State) (nbits w : Nat) : State :=
  let word := w % 2 ^ nbits % 2 ^ 32
  let st := wordStream (BitVec.ofNat 32 word)
  let n := coreWith st
  let m := ((s.mem.writeLE 0x100000 8 0x200001).writeLE 0x200000 8 0x4000000B).writeLE 0x40000000 4 word
  let hub := { s.hub with boot := 1, good := BitVec.allOnes 36, power := .on }
  let insts := s.insts.set 0 { s.inst 0 with ptroot := 0x100001, holds := true }
  { s with me := { id := BitVec.ofNat 12 n, life := .running }, mem := m, hub := hub, insts := insts,
           agenda := [.stream (BitVec.ofNat 12 n) st 0] }

end Sys2Proof.Machine
end

