-- ==== Sys2Proof/Safety.lean ====
section
/-! DEFINITION. What the statements are said in: safe runs, completion, and the frames of the instruction families. -/

namespace Sys2Proof.Machine

/-! ## Runs -/

/-- The step of this state answers a next state. -/
def State.goesOn (s : State) : Prop := ∃ t, step s = .next t

/-- The state after `n` steps, while every step answers a next state. -/
def State.after (s : State) : Nat → Option State
  | 0 => some s
  | n + 1 =>
    match step s with
    | .next t => State.after t n
    | _ => none

/-- A run is safe when none of its steps faults or refuses. -/
def State.safe (s : State) : Prop := ∀ n, (s.after n).isSome

/-- Executing i in s answers a next state with P. -/
def Completes (i : Instr) (s : State) (P : State → Prop) : Prop := ∃ t, exec i s = .next t ∧ P t

/-! ## Memory -/

/-- Byte k of an access at a location, as the context in focus reaches it: global memory, its private memory, the scratchpad of
a logical core of its instance (R31). -/
def byteAt (s : State) (l : Loc) (k : Nat) : Byte :=
  match l with
  | .glob pa _ => s.mem.get (pa + k)
  | .priv off => s.me.priv.get (off + k)
  | .spad core off =>
    if core = s.me.lcore then s.me.spad.get (off + k)
    else ((s.ctx? (ctxIdOf (instOf s.me.id) core)).map fun d => d.spad.get (off + k)).getD 0

/-- Every byte of every memory reads as before. -/
def SameBytes (s t : State) : Prop := ∀ l, byteAt t l 0 = byteAt s l 0

/-- An access counter that a running migration engine keeps in global memory (R305). -/
def IsCounter (s : State) (l : Loc) : Prop :=
  ∃ b f va, (s.bdie b).migctl.getLsbD 0 = true ∧ l = .glob ((s.bdie b).counterPa f) va

/-- A location whose logical core number fits a CTXID (R11). -/
def RealLoc : Loc → Prop
  | .spad core _ => core < 256
  | _ => True

/-- Every byte outside the n bytes at a location reads as before, but for the migration engine's counters. -/
def SameOutside (s t : State) (l : Loc) (n : Nat) : Prop :=
  ∀ x, RealLoc x → locOverlap x 1 l n = false → ¬ IsCounter s x → byteAt t x 0 = byteAt s x 0

/-- Nothing is written: every byte but the migration engine's counters reads as before. -/
def NothingWritten (s t : State) : Prop := ∀ x, ¬ IsCounter s x → byteAt t x 0 = byteAt s x 0

/-- The n bytes at a location can be read now: the home or the core that holds them answers, and none of them is uncorrectable
(R291, R299, R348). -/
def Readable (s : State) (l : Loc) (n : Nat) : Prop :=
  match l with
  | .glob pa _ => homeState s (s.socketOf s.me.id) pa = .ok () ∧ poisoned s pa n = false
  | .priv off => badWord s.me.privBad off n = false
  | .spad core off =>
    if core = s.me.lcore then badWord s.me.spadBad off n = false
    else ∃ d, s.ctx? (ctxIdOf (instOf s.me.id) core) = some d ∧ d.life ≠ .stopped ∧ s.reach s.me d off n false = .ok () ∧
      badWord d.spadBad off n = false

/-- The n bytes at a location can be written as well: the scratchpad belongs to a context that runs. -/
def Writable (s : State) (l : Loc) (n : Nat) : Prop :=
  Readable s l n ∧
  match l with
  | .spad core _ => ∃ d, s.ctx? (ctxIdOf (instOf s.me.id) core) = some d ∧ d.life = .running
  | _ => True

/-- Of the hub only counts and reports of memory errors may have changed; nothing of it, when no error waits to be met (R299, R367). -/
def ErrorsNoted (s t : State) : Prop :=
  t.hub = { s.hub with life := t.hub.life, elogq := t.hub.elogq, elogLost := t.hub.elogLost, msix := t.hub.msix,
                       msixHeld := t.hub.msixHeld } ∧
  (s.flips = [] → (∀ c ∈ s.ctxs, c.flipSpad = [] ∧ c.flipPriv = []) → t.hub = s.hub)

/-- No word of a context's scratchpad has an error (R291). -/
def Ctx.sound (c : Ctx) : Prop := c.badSpad = [] ∧ c.flipSpad = []

/-- A context is as it was, but for errors of single bits that an access has corrected (R291). -/
def Corrected (a b : Ctx) : Prop := b = { a with flipSpad := b.flipSpad, flipPriv := b.flipPriv }

/-- The contexts of a list are as they were, but for such errors. -/
def AllCorrected (l m : List Ctx) : Prop := ∃ f : Ctx → Ctx, m = l.map f ∧ ∀ c, Corrected c (f c)

/-! ## Streams and g registers -/

/-- A stream has retired its instruction and goes on at pc (R13, R92, R328). -/
def GoesOn (a b : Strm) (pc : W64) (cc : Nat) : Prop :=
  b.pc = pc ∧ b.pfx = none ∧ b.seq = a.seq + 1 ∧ b.halted = a.halted ∧ b.wait = none ∧ b.lastCc = some cc

/-- A stream holds its instruction, waiting for an object of a kind (R283). -/
def HeldAt (a b : Strm) (kind : BitVec 4) (obj : Nat) : Prop :=
  b.pc = a.pc ∧ b.pfx = a.pfx ∧ b.seq = a.seq ∧ b.halted = a.halted ∧
  b.wait = some { kind := kind, obj := BitVec.ofNat 20 obj }

/-- g[d] holds v with taint tn, every other g register its own; g0 reads as zero, untainted (R15, R16). -/
def GWrite (s t : State) (d : BitVec 5) (v : W64) (tn : Bool) : Prop :=
  ∀ r, t.me.rg r = (if r = d ∧ d ≠ 0 then v else s.me.rg r) ∧ t.me.tnt r = (if r = d ∧ d ≠ 0 then tn else s.me.tnt r)

/-- Only g registers, taint, NFLAGS, the S stream and the flags raised in this cycle of the context in focus may differ; no byte
does. -/
def SFrame (s t : State) : Prop :=
  t = { s with me := { s.me with g := t.me.g, taint := t.me.taint, nflags := t.me.nflags, raised := t.me.raised, s := t.me.s } } ∧
  SameBytes s t

/-- The S stream's instruction wrote g[d], raised the flags f and goes on at pc; nothing else changed. -/
def SWrote (s t : State) (d : BitVec 5) (v : W64) (tn : Bool) (f : W32) (pc : W64) : Prop :=
  GWrite s t d v tn ∧ t.me.nflags = s.me.nflags ||| f ∧ GoesOn s.me.s t.me.s pc s.cc ∧ SFrame s t

/-- An exact integer in 64 bits under saturation or wrapping: the result and the NFLAGS bits raised (R41, R95). -/
def Fits (satOn : Bool) (x : Int) (v : W64) (f : W32) : Prop :=
  if -(2 ^ 63) ≤ x ∧ x < 2 ^ 63 then v.toInt = x ∧ f = 0
  else if satOn then v.toInt = (if x < 0 then -(2 ^ 63) else 2 ^ 63 - 1) ∧ f = 0x20
  else v = BitVec.ofInt 64 x ∧ f = 0

/-- The S stream's instruction went on at pc and wrote no register. -/
def SMoved (s t : State) (pc : W64) : Prop := SWrote s t 0 0 false 0 pc

/-! ## Traps -/

/-- A handler of the context in focus takes its traps: it is outside handler mode, traps are not handed to the host, and TVEC is set
(R331, R334). -/
def Handles (s : State) : Prop := s.me.t.hmode = false ∧ s.hub.funcmode.getLsbD 2 = false ∧ s.me.t.tvec ≠ 0

/-- A cause of the acting stream is taken now, by a handler of the context in focus: nothing that goes first is unfinished (R330),
and the copy engine is where it may stop (R329). Log entries 102, 117 (DEDUCED). -/
def CanHandle (s : State) : Prop := s.mayTrap s.cur.st s.cur.cl = true ∧ Handles s

/-- Handler entry (R13, R329, R331): the record, HMODE and the pc; no register and no byte of the context changes. TSEQS is the
number of the S instruction that is to execute next. Log entry 15 (DEDUCED). The low two bits of TVEC are not used. Log entry 34
(DEDUCED). -/
def TrapEntry (s t : State) (cause : BitVec 7) (tval : W64) : Prop :=
  t.me.t.cause = cause ∧ t.me.t.tval = tval ∧ t.me.t.epc = s.me.s.restart ∧ t.me.t.tseqs = s.me.s.seq ∧
  t.me.t.hmode = true ∧ t.me.s.pc = alignPc s.me.t.tvec ∧ t.me.s.pfx = none ∧ t.me.s.halted = false ∧
  t.me.t.tvec = s.me.t.tvec ∧ t.me.t.fvec = s.me.t.fvec ∧
  (∀ r, t.me.rg r = s.me.rg r ∧ t.me.tnt r = s.me.tnt r) ∧ SameBytes s t ∧
  t.me.gd = s.me.gd ∧ t.me.tok = s.me.tok ∧ t.me.rn = s.me.rn ∧ t.me.cp.a = s.me.cp.a ∧ t.me.moddef = s.me.moddef ∧
  t.me.sq = s.me.sq.stop ∧ t.hub = s.hub ∧ t.insts = s.insts

/-! ## Any stream -/

/-- The acting stream goes on at pc, in the state u otherwise. -/
def Went (s u t : State) (pc : W64) : Prop := GoesOn s.strm t.strm pc s.cc ∧ t = u.setStrm t.strm

/-- The acting stream holds; nothing else changes. -/
def Holds (s t : State) (kind : BitVec 4) (obj : Nat) : Prop :=
  HeldAt s.strm t.strm kind obj ∧ t = s.setStrm t.strm ∧ SameBytes s t

/-- A stream is as it was, or has been told to test its wait again. -/
def Retests (a b : Strm) : Prop :=
  b = a ∨ (b = { a with wait := b.wait, tried := b.tried } ∧ (b.wait = none ∨ b.wait = a.wait))

/-- A context is as it was, but that some of its streams test their waits again. -/
def Woken (a b : Ctx) : Prop :=
  b = { a with s := b.s, e := b.e, c := b.c, v := { a.v with cl := b.v.cl } } ∧
  Retests a.s b.s ∧ Retests a.e b.e ∧ Retests a.c b.c ∧
  ∀ k, b.v.cluster k = { a.v.cluster k with st := (b.v.cluster k).st } ∧ Retests (a.v.cluster k).st (b.v.cluster k).st

/-- The acting stream goes on past its instruction; the context is c otherwise, and streams may test their waits again. -/
def Goes (s : State) (c : Ctx) (t : State) : Prop :=
  (∃ d, Woken c d ∧ Went s { s with me := d } t (s.strm.pc + 4)) ∧ SameBytes s t

/-! ## The vector engine -/

/-- Cluster k executes the V instruction: every cluster in lockstep, the acting one while forked (R132). -/
def Runs (s : State) (k : BitVec 4) : Prop := s.me.v.forked = true → k = s.cur.cl

/-- A V instruction has executed: its stream goes on, its flags and its handle wait for its completion, and of the context c
only v and m registers may differ besides (R132, R133). -/
def VDid (s : State) (c : Ctx) (t : State) (f : Flags) (h : Option (BitVec 8)) : Prop :=
  GoesOn s.strm t.strm (s.strm.pc + 4) s.cc ∧
  t = { s with me := { c with e := t.me.e, tiles := t.me.tiles, v := { s.me.v with
        cl := t.me.v.cl, pend := s.me.v.pend ++ [{ seq := s.strm.seq, flags := f.setWidth 32, handle := h }] } } } ∧
  (s.me.v.forked = true → t.me.e = c.e) ∧
  (∀ k, (t.me.v.cluster k).join = (s.me.v.cluster k).join) ∧
  (∀ k, s.me.v.forked = false ∨ k ≠ s.cur.cl → (t.me.v.cluster k).st = (s.me.v.cluster k).st) ∧
  (∀ x, t.me.tile x = if h = some x then { c.tile x with busy := (c.tile x).busy + 1 } else c.tile x)

/-- No m register, and of the running clusters no v register but those named, has changed. -/
def OnlyV (s t : State) (ds : List (BitVec 6)) : Prop :=
  ∀ k, (t.me.v.cluster k).m = (s.me.v.cluster k).m ∧
    ∀ r, r ∉ ds ∨ ¬ Runs s k → (t.me.v.cluster k).vreg r = (s.me.v.cluster k).vreg r

/-- In every running cluster the lanes of v[d] enabled by m[mask] hold f, the others their old values (R15, R134). -/
def Lanes (s t : State) (d : BitVec 6) (mask : BitVec 3) (f : BitVec 4 → Nat → W32) : Prop :=
  ∀ k, Runs s k → ∀ j, j < 256 → lane ((t.me.v.cluster k).vreg d) j =
    if ((s.me.v.cluster k).mreg mask).getLsbD j then f k j else lane ((s.me.v.cluster k).vreg d) j

/-- The flags of the enabled lanes of the running clusters, together. -/
def LaneFlags (s : State) (mask : BitVec 3) (g : BitVec 4 → Nat → Flags) (f : Flags) : Prop :=
  ∀ i, f.getLsbD i = true ↔ ∃ k j, Runs s k ∧ j < 256 ∧ ((s.me.v.cluster k).mreg mask).getLsbD j = true ∧ (g k j).getLsbD i = true

/-- A lane instruction with destination v[d] under m[mask], each lane's value and flags given: nothing else changes. -/
def LaneOp (s : State) (d : BitVec 6) (mask : BitVec 3) (g : BitVec 4 → Nat → W32 × Flags) (t : State) : Prop :=
  Lanes s t d mask (fun k j => (g k j).1) ∧ OnlyV s t [d] ∧
  (∃ f, LaneFlags s mask (fun k j => (g k j).2) f ∧ VDid s s.me t f none) ∧ SameBytes s t

/-- A mask instruction with destination m[d]: the bits that m[mask] selects in the running clusters take f; nothing else
changes (R148). -/
def MaskOp (s : State) (d mask : BitVec 3) (f : BitVec 4 → Nat → Bool) (t : State) : Prop :=
  (∀ k, (∀ r, (t.me.v.cluster k).vreg r = (s.me.v.cluster k).vreg r) ∧
    (∀ r, r ≠ d ∨ ¬ Runs s k → (t.me.v.cluster k).mreg r = (s.me.v.cluster k).mreg r) ∧
    (Runs s k → ∀ j, j < 256 → ((t.me.v.cluster k).mreg d).getLsbD j =
      if ((s.me.v.cluster k).mreg mask).getLsbD j then f k j else ((s.me.v.cluster k).mreg d).getLsbD j)) ∧
  VDid s s.me t 0 none ∧ SameBytes s t

/-- A V control instruction goes on at pc; of the context only v registers may differ besides. -/
def VWent (s t : State) (pc : W64) : Prop :=
  GoesOn s.strm t.strm pc s.cc ∧ t = { s with me := { s.me with e := t.me.e, v := { s.me.v with cl := t.me.v.cl } } } ∧
  (∀ k, (t.me.v.cluster k).join = (s.me.v.cluster k).join ∧
    (s.me.v.forked = false ∨ k ≠ s.cur.cl → (t.me.v.cluster k).st = (s.me.v.cluster k).st)) ∧ SameBytes s t

/-- An exact integer brought into I32, I8 or N8 (types 0, 1, 2) by wrapping or saturation, extended to 32 bits (R41, R142). -/
def IntFit (ty : BitVec 4) (satOn : Bool) (x : Int) : W32 × Flags :=
  let lo : Int := if ty = 0 then -(2 ^ 31) else if ty = 1 then -128 else 0
  let hi : Int := if ty = 0 then 2 ^ 31 - 1 else if ty = 1 then 127 else 255
  if lo ≤ x ∧ x ≤ hi then (BitVec.ofInt 32 x, 0)
  else if satOn then (BitVec.ofInt 32 (if x < lo then lo else hi), 0x20)
  else (BitVec.ofInt 32 (if ty = 0 then x else if ty = 1 then Int.bmod x 256 else x % 256), 0)

/-! ## Numbers (R39, R47 to R51) -/

/-- The number that an exact dyadic value is. -/
def Dy.val (x : Dy) : ℚ := x.m * (2 : ℚ) ^ x.e

/-- The number that a pattern of a format stands for, 0 for an infinity or a NaN. -/
def FFmt.num (f : FFmt) (w : Nat) : ℚ := (f.decode w).dy.val

/-- A pattern of a format stands for a number. -/
def FFmt.isFin (f : FFmt) (w : Nat) : Prop := (f.decode w).isNan = false ∧ (f.decode w).isInf = false

/-- The multiple k·q that a magnitude x rounds to in a mode, for a number of this sign; ties go to the even multiple (R48). -/
def RoundsTo (rm : Rm) (neg : Bool) (q x : ℚ) (k : ℕ) : Prop :=
  match rm with
  | .rne => |k * q - x| ≤ q / 2 ∧ (|k * q - x| = q / 2 → k % 2 = 0)
  | .rtz => k * q ≤ x ∧ x < (k + 1) * q
  | .rup => if neg then k * q ≤ x ∧ x < (k + 1) * q else x ≤ k * q ∧ k * q < x + q
  | .rdn => if neg then x ≤ k * q ∧ k * q < x + q else k * q ≤ x ∧ x < (k + 1) * q

/-- The pattern and the flags that round_fp32 of R48 gives for an exact x, or that rounding to another format gives (R48, R51). -/
def Rounded (f : FFmt) (x : ℚ) (zs : Bool) (rm : Rm) (ftz : Bool) (r : Nat × Flags) : Prop :=
  (x = 0 → r = (f.signBit zs, 0)) ∧
  (x ≠ 0 → ∃ (l : ℤ) (i k : ℕ),
    let neg := decide (x < 0)
    let fine := (2 : ℚ) ^ (l - (f.p - 1))
    let q := (2 : ℚ) ^ (max l f.emin - (f.p - 1))
    let y := k * q
    let big := if f.e4m3 then 448 < y else (2 : ℚ) ^ (f.emax + 1) ≤ y
    let flushed := ftz = true ∧ y < (2 : ℚ) ^ f.emin ∧ k ≠ 0
    (2 : ℚ) ^ l ≤ |x| ∧ |x| < (2 : ℚ) ^ (l + 1) ∧ RoundsTo rm neg fine |x| i ∧ RoundsTo rm neg q |x| k ∧
    (big → r = if f.e4m3 then (f.maxFin neg, fOf ||| fNx ||| fSat)
      else if rm = .rne ∨ rm.away neg = true then (f.inf neg, fOf ||| fNx) else (f.maxFin neg, fOf ||| fNx)) ∧
    (¬ big → flushed → r = (f.signBit neg, fUf ||| fNx)) ∧
    (¬ big → ¬ flushed → r.1 < 2 ^ f.bits ∧ f.isFin r.1 ∧ f.neg r.1 = neg ∧ f.num r.1 = (if neg then -y else y) ∧
      -- tiny numbers are found after rounding to p bits with the exponent unbounded
      r.2 = (if y = |x| then 0 else if i * fine < (2 : ℚ) ^ f.emin then fUf ||| fNx else fNx)))

/-- The result of an operation with a NaN among its operands: the first of them, quieted; nanin, nv for a signalling one, and the
flags `more` (R49, R50). -/
def NanResult (f : FFmt) (ws : List Nat) (more : Flags) (r : Nat × Flags) : Prop :=
  ∀ a w b, ws = a ++ w :: b → (∀ v ∈ a, (f.decode v).isNan = false) → (f.decode w).isNan = true →
    r.1 = f.quiet w ∧ r.2 = fNanin ||| (if ws.any fun v => (f.decode v).isSnan then fNv else 0) ||| more

/-- What an addition of two operands, or of one that stands for an exact product, answers: numbers round once, an exact zero sum of
opposite signs has the sign `zs`, infinities stay, and those of opposite sign are invalid (R49, R50). -/
def Summed (f : FFmt) (rm : Rm) (ftz zs : Bool) (infA infB negA negB : Bool) (x : ℚ) (r : Nat × Flags) : Prop :=
  if infA = true ∧ infB = true ∧ negA ≠ negB then r = (f.defNan, fNv)
  else if infA = true then r = (f.inf negA, 0)
  else if infB = true then r = (f.inf negB, 0)
  else Rounded f x (if negA = negB then negA else zs) rm ftz r

/-! ## The pending nodes of a tree (R56, R201) -/

/-- The levels that leaf n climbs: its trailing one bits below d. -/
def climbs (d n : Nat) : Nat := ((List.range d).takeWhile fun l => n / 2 ^ l % 2 == 1).length

/-- What leaf n, v in each column, becomes where it ends, the pending nodes (level, column) being its left neighbours. -/
def leafVal (d n : Nat) (rows : Nat → Nat → Nat) (v : Nat → Nat × Flags) (col : Nat) : Nat × Flags :=
  (List.range (climbs d n)).foldl (fun x l => let r := treeAdd (rows l col) x.1; (r.1, x.2 ||| r.2)) (v col)

/-- The pending nodes after it, over nw columns. -/
def leafRows (d nw n : Nat) (rows : Nat → Nat → Nat) (v : Nat → Nat × Flags) (l col : Nat) : Nat :=
  if l = climbs d n ∧ col < nw then (leafVal d n rows v col).1 % 2 ^ 32 else rows l col

/-- The pending nodes after k leaves of +0, numbered from n on. -/
def padRows (d nw : Nat) : Nat → Nat → (Nat → Nat → Nat) → Nat → Nat → Nat
  | 0, _, rows => rows
  | k + 1, n, rows => padRows d nw k (n + 1) (leafRows d nw n rows fun _ => (0, 0))

/-! ## The hub and contexts -/

/-- Of the instances only i may have changed; it is x. -/
def OnlyInst (s t : State) (i : BitVec 4) (x : Inst) : Prop := ∀ j, t.inst j = if j = i then x else s.inst j

/-- Contexts as instances have them: each exists, is one of a logical core (R11), no two have one CTXID. -/
def ProperCtxs (l : List Ctx) : Prop :=
  (l.Pairwise fun c d => c.id ≠ d.id) ∧ ∀ c ∈ l, c.life ≠ .none ∧ lcoreOf c.id < 208

/-- The package's contexts are so. -/
def State.Proper (s : State) : Prop := ProperCtxs s.ctxs

/-- The contexts that a brown-out would bring back: those of every resume point, and what the retention region holds (R379,
R380). -/
def State.heldCtxs (s : State) : List (BitVec 4 × List Ctx) :=
  ((List.range 16).filterMap fun n => (s.inst (BitVec.ofNat 4 n)).resume.map fun r => (BitVec.ofNat 4 n, r.ctxs)) ++
  (match s.hub.retained with | some ret => ret.insts.map fun p => (p.1, p.2.ctxs) | none => [])

/-- Contexts exist for instances that hold a reel alone, and so do the held ones, each instance's once. -/
def State.ReelsHold (s : State) : Prop :=
  s.Proper ∧ (∀ c ∈ s.ctxs, (s.inst (instOf c.id)).holds = true) ∧
  (∀ p ∈ s.heldCtxs, ProperCtxs p.2 ∧ (s.inst p.1).holds = true ∧ ∀ c ∈ p.2, instOf c.id = p.1)

/-- The memories of a context are in canonical form. -/
def Ctx.memsWf (c : Ctx) : Prop := c.spad.wf = true ∧ c.priv.wf = true

/-- Every memory of the package is in canonical form: global memory, the staging buffer, and those of every context, the held
ones included. -/
def State.memsWf (s : State) : Prop :=
  s.mem.wf = true ∧ s.hub.staging.wf = true ∧ s.me.memsWf ∧ (∀ c ∈ s.rest, c.memsWf) ∧ ∀ p ∈ s.heldCtxs, ∀ c ∈ p.2, c.memsWf

/-- The hub asserts an MSI-X vector: those not masked leave for the host, the others are retained (R365). -/
def Asserts (a b : Hub) (v : BitVec 6) : Prop :=
  b = { a with msix := a.msix ++ (a.msixHeld ++ [v]).filter (fun w => !a.masked w), msixHeld := (a.msixHeld ++ [v]).filter a.masked }

/-- A status record enters the FIFO, and its vector follows (R262). -/
def Entered (a b : Hub) (r : Status) : Prop :=
  let c := { a with statq := a.statq ++ [r] }
  if r.code ≠ 0 then Asserts c b 1 else if r.op = 6 then Asserts c b 0 else b = c

/-- The sequencer writes a status record; while the FIFO of 256 is full it holds the record (R262, R364). -/
def Recorded (a b : Hub) (r : Status) : Prop :=
  if a.statWait = [] ∧ a.statq.length < 256 then Entered a b r else b = { a with statWait := a.statWait ++ [r] }

/-- The words of an error log record (R367). -/
def logRecord (s : State) (event socket cause : Nat) (ctx : Option (BitVec 12)) (w1 w3 : W64) : ELog :=
  let id : Nat := match ctx with | some i => i.toNat | none => 0xFFFF
  { w0 := BitVec.ofNat 64 (event * 2 ^ 56 + socket * 2 ^ 48 + cause * 2 ^ 40 + id), w1 := w1,
    w2 := BitVec.ofNat 64 (match ctx with | some i => s.cc - (s.inst (instOf i)).launchCc | none => 2 * s.cc), w3 := w3 }

/-- An error log record is written while FUNCMODE.elog = 1, and lost while the FIFO of 64 is full (R367). -/
def Logged (a b : Hub) (r : ELog) : Prop :=
  if a.funcmode.getLsbD 5 = false then b = a
  else if 64 ≤ a.elogq.length then b = { a with elogLost := if a.elogLost = 0xFFFFFFFF then a.elogLost else a.elogLost + 1 }
  else Asserts { a with elogq := a.elogq ++ [r] } b 6

/-- A lifetime counter counts one, saturating; nothing else of the hub changes (R383). -/
def Counted (a b : Hub) (k : Nat) : Prop :=
  b = { a with life := b.life } ∧
  ∀ c, b.counter c = if c = k ∧ a.counter c ≠ BitVec.allOnes 64 then a.counter c + 1 else a.counter c

/-- Vector v has been asserted: it has left or is retained. -/
def Raised (b : Hub) (v : BitVec 6) : Prop := v ∈ b.msix ∨ v ∈ b.msixHeld

/-! ## Package cuts -/

/-- The tag of a cut of the event's instance is on the package level (R14). -/
def OnPackage (s : State) (tag : BitVec 3) : Prop := ((s.inst s.cur.inst).btcfg[tag.toNat]).extractLsb' 8 3 = 7

/-- The hub builds the remap, and at the next package cut of the event's instance it changes to the canonical one (R353). -/
def Rejoins (s : State) : Bool :=
  s.hub.hardRemap && s.hub.dieOp.isNone && (lackingKind s.hub).isNone && (s.inst s.cur.inst).remap ≠ canonRemap s.hub

/-- What a pending change does at its package cut, in a take, under a cast class, to a seed stack and a requested level: both after
it, and the code and value of its status record (R24, R262, R277, R287). -/
def Change.effect (c : Change) (cls : W16) (take : W64) (p : List W128 × BitVec 2) : (List W128 × BitVec 2) × BitVec 8 × W64 :=
  let depth : BitVec 8 × W64 := (0x06, BitVec.ofNat 64 p.1.length)
  let ok : BitVec 8 × W64 := (if c.late then 0x09 else 0x00, take)
  let push := fun (x : W128) => if 16 ≤ p.1.length then (p, depth) else ((x :: p.1, p.2), ok)
  if c.op = 2 then push c.seed
  else if c.op = 3 then (if p.1.length ≤ 1 then (p, depth) else ((p.1.tail, p.2), ok))
  else if c.op = 4 then push (forkSeed (p.1.headD 0) c.arg)
  else ((p.1, c.arg.setWidth 2), if c.arg = 0 && cls = 0xFFFF then (0x08, 0xFFFF) else (0x00, take))

/-- What the changes of a list do, in order, and their status records. -/
def effects (i : BitVec 4) (cls : W16) (take : W64) : List Change → List W128 × BitVec 2 → (List W128 × BitVec 2) × List Status
  | [], p => (p, [])
  | c :: l, p =>
    let e := c.effect cls take p
    let r := effects i cls take l e.1
    (r.1, { code := e.2.1, tag := c.tag, inst := i, op := c.op, value := e.2.2 } :: r.2)

/-- What a cut on a package tag of the event's instance does beside, where no die rejoins: the changes due, the level, CASTCLS and the
resume point (R24, R269, R277, R287, R379, R380). -/
def PackageCut (s t : State) : Prop :=
  let i := s.cur.inst
  let x := s.inst i
  let y := t.inst i
  let take := t.instTake i
  let due := x.pending.filter fun c => c.op = 5 || c.take.toNat ≤ take.toNat
  let cls := if x.recls then chooseCls s.hub x.remap x.sheets else x.castcls
  let e := effects i cls take due (x.seeds, x.reqLevel)
  let drains := s.hub.power = .entering ∧ s.hub.drained.getLsbD i.toNat = false
  let point : Resume := { ctxs := t.ctxs.filter fun c => instOf c.id == i, seeds := y.seeds, pending := y.pending, level := y.level,
                          castcls := cls, take := take, undo := [], sevs := s.sevs.filter fun f => instOf f.ctx == i, cc := s.cc,
                          overflow := false }
  y.pending = (x.pending.filter fun c => !(c.op = 5 || c.take.toNat ≤ take.toNat)) ∧ (y.seeds, y.reqLevel) = e.1 ∧
  y.castcls = cls ∧ y.recls = false ∧ y.level = (if y.reqLevel = 0 ∧ cls = 0xFFFF then 1 else y.reqLevel) ∧
  (∀ c ∈ t.ctxs, instOf c.id = i → c.life ≠ .removed → c.level = y.level ∧ c.castcls = cls) ∧
  t.hub.statq ++ t.hub.statWait = s.hub.statq ++ s.hub.statWait ++ e.2 ∧
  (drains ∨ s.hub.boJen = true → y.resume = some point) ∧ (¬ drains → s.hub.boJen = false → y.resume = none) ∧
  t.hub.drained = (if s.hub.power = .entering then s.hub.drained ||| (1#16 <<< i.toNat) else s.hub.drained)

/-- Every byte of global memory but the migration engine's counters reads as before. -/
def SameGlobal (s t : State) : Prop := ∀ a, ¬ IsCounter s (.glob a 0) → t.mem.get a = s.mem.get a

/-- From `s` to `t` the hub has translated watchpoints again: their comparators may differ, and what the walks count and the
errors they meet are noted (R294, R299, R311). -/
def Rewatched (s t : State) : Prop :=
  t = { s with hub := t.hub, mem := t.mem, sram := t.sram, bdies := t.bdies, poison := t.poison, flips := t.flips } ∧
  t.hub = { s.hub with blocks := t.hub.blocks, life := t.hub.life, elogq := t.hub.elogq, elogLost := t.hub.elogLost,
                       msix := t.hub.msix, msixHeld := t.hub.msixHeld } ∧
  SameGlobal s t ∧ ∀ a, a ∈ t.badAtoms ↔ a ∈ s.badAtoms

/-- `l` are the pages and frames of a watchpoint of `s`, as its walks found them before they were themselves counted (R311). -/
def Watches (s : State) (id : BitVec 12) (n : Nat) (l : List (Nat × Nat)) : Prop :=
  ∃ u, Rewatched u s ∧ (u.hub.block id).wpaddr = (s.hub.block id).wpaddr ∧ (u.hub.block id).wpctl = (s.hub.block id).wpctl ∧
    l = (u.comparators id n).filterMap fun p => p.2.pa.map fun pa => (p.1, pa / 65536)

/-- The image of a removed context and vector 5 follow when what is left of its accesses and its copy has completed, and no home
holds its save area; until then they are due (R298, R306, R337). -/
def RemovalTold (s t : State) : Prop :=
  let ready := s.canSave s.me.id = false ∨
    s.areaHeld s.me.id = false ∧ t.me.sq.loads = [] ∧ t.me.sq.stores = [] ∧ t.me.cp.copies = []
  (ready → s.me.imageDue = none → Raised t.hub 5) ∧ (¬ ready → t.me.imageDue.isSome = true)

/-- Removal of the context in focus (R337): the trap registers tell why; of what was in progress nothing is left but the queued
accesses that cannot perform yet and what its copy engine completes. -/
def Removed (s t : State) (cause : BitVec 7) (tval : W64) : Prop :=
  t.me.id = s.me.id ∧ t.me.life = .removed ∧ t.me.t.cause = cause ∧ t.me.t.tval = tval ∧ t.me.t.epc = s.me.s.restart ∧
  t.me.t.tseqs = s.me.s.seq ∧ t.me.sq.loads <:+ s.me.sq.stop.loads ∧ t.me.sq.stores <:+ s.me.sq.stores ∧ t.me.m.cur = none ∧
  t.me.f.run = none ∧
  (∀ k ∈ t.me.cp.copies, (k.under = true ∨ k.isCollective = true) ∧ ∃ x ∈ s.me.cp.copies, k = { x with got := k.got }) ∧
  (∀ c, c < 14 → t.me.chan c = []) ∧ (∀ h, (t.me.tile h).busy = t.me.busyOf h) ∧
  (t.inst (instOf s.me.id)).recFlags.getLsbD 0 = true ∧
  RemovalTold s t

end Sys2Proof.Machine
end

