-- ==== Sys2Proof/Certificates/Slice0/Obligations.lean ====
section
/-! DEFINITION. The statements about the model, for the provers. -/

open Sys2Proof Sys2Proof.Machine

/-! ### The S stream's arithmetic (R92 to R100) -/

/-- ADD, SUB, MUL and ADDI are exact, then wrap or saturate; DIV, DIVU, REM and REMU, by zero and not, with NFLAGS.dz; no other
instruction of the group raises a flag; the logic and shift instructions, their immediate forms, MULH, minimum and maximum,
comparisons, CLZ, POPC, LIH and ADDPC (R95 whole; parts of R41, R94, R96 and R97). -/
def Obligations.ScalarInstructionsCompute : Prop :=
  (∀ (s : State) (d a b : BitVec 5) (i : BitVec 15),
     let x := (s.me.rg a).toInt
     let y := (s.me.rg b).toInt
     let both := s.me.tnt a || s.me.tnt b
     let next := s.me.s.pc + 4
     Completes (.add d a b) s (fun t => ∃ v f, Fits s.satOn (x + y) v f ∧ SWrote s t d v both f next) ∧
     Completes (.sub d a b) s (fun t => ∃ v f, Fits s.satOn (x - y) v f ∧ SWrote s t d v both f next) ∧
     Completes (.mul d a b) s (fun t => ∃ v f, Fits s.satOn (x * y) v f ∧ SWrote s t d v both f next) ∧
     Completes (.addi d a i) s (fun t => ∃ v f, Fits s.satOn (x + i.toInt) v f ∧ SWrote s t d v (s.me.tnt a) f next)) ∧
  (∀ (s : State) (d a b : BitVec 5),
     let x := s.me.rg a
     let y := s.me.rg b
     let ok := fun (v : W64) (f : W32) (t : State) => SWrote s t d v (s.me.tnt a || s.me.tnt b) f (s.me.s.pc + 4)
     (y = 0 → ∀ f : W32, f = (if x = 0 then 0 else 2) →
       Completes (.div d a b) s (ok (BitVec.allOnes 64) f) ∧ Completes (.divu d a b) s (ok (BitVec.allOnes 64) f) ∧
       Completes (.rem d a b) s (ok x f) ∧ Completes (.remu d a b) s (ok x f)) ∧
     (y ≠ 0 →
       Completes (.div d a b) s (fun t => ∃ v f, Fits s.satOn (Int.tdiv x.toInt y.toInt) v f ∧ ok v f t) ∧
       Completes (.divu d a b) s (fun t => ∃ v, v.toNat = x.toNat / y.toNat ∧ ok v 0 t) ∧
       Completes (.rem d a b) s (fun t => ∃ v, v.toInt = Int.tmod x.toInt y.toInt ∧ ok v 0 t) ∧
       Completes (.remu d a b) s (fun t => ∃ v, v.toNat = x.toNat % y.toNat ∧ ok v 0 t)) ∧
     (∀ i ∈ [Instr.and d a b, .or d a b, .xor d a b, .shl d a b, .shr d a b, .sra d a b, .mulh d a b, .min d a b, .max d a b,
         .minu d a b, .maxu d a b, .slt d a b, .sltu d a b, .clz d a, .popc d a],
       Completes i s (fun t => t.me.nflags = s.me.nflags))) ∧
  (∀ (s : State) (d a b : BitVec 5) (i : BitVec 15) (n : BitVec 6),
     let x := s.me.rg a
     let y := s.me.rg b
     let ok2 := fun (p : W64 → Prop) (t : State) => ∃ v, p v ∧ SWrote s t d v (s.me.tnt a || s.me.tnt b) 0 (s.me.s.pc + 4)
     let ok1 := fun (p : W64 → Prop) (t : State) => ∃ v, p v ∧ SWrote s t d v (s.me.tnt a) 0 (s.me.s.pc + 4)
     Completes (.and d a b) s (ok2 fun v => v = x &&& y) ∧ Completes (.or d a b) s (ok2 fun v => v = x ||| y) ∧
     Completes (.xor d a b) s (ok2 fun v => v = x ^^^ y) ∧
     Completes (.shl d a b) s (ok2 fun v => v.toNat = x.toNat * 2 ^ (y.toNat % 64) % 2 ^ 64) ∧
     Completes (.shr d a b) s (ok2 fun v => v.toNat = x.toNat / 2 ^ (y.toNat % 64)) ∧
     Completes (.sra d a b) s (ok2 fun v => v.toInt = x.toInt / 2 ^ (y.toNat % 64)) ∧
     Completes (.mulh d a b) s (ok2 fun v => v.toInt = x.toInt * y.toInt / 2 ^ 64) ∧
     Completes (.andi d a i) s (ok1 fun v => v = x &&& i.setWidth 64) ∧
     Completes (.ori d a i) s (ok1 fun v => v = x ||| i.setWidth 64) ∧
     Completes (.xori d a i) s (ok1 fun v => v = x ^^^ i.setWidth 64) ∧
     Completes (.shli d a n) s (ok1 fun v => v.toNat = x.toNat * 2 ^ n.toNat % 2 ^ 64) ∧
     Completes (.shri d a n) s (ok1 fun v => v.toNat = x.toNat / 2 ^ n.toNat) ∧
     Completes (.srai d a n) s (ok1 fun v => v.toInt = x.toInt / 2 ^ n.toNat)) ∧
  (∀ (s : State) (d a b : BitVec 5) (i : BitVec 15) (u : BitVec 20),
     let x := s.me.rg a
     let y := s.me.rg b
     let z : Int := i.toInt
     let ok := fun (tn : Bool) (p : W64 → Prop) (t : State) => ∃ v, p v ∧ SWrote s t d v tn 0 (s.me.s.pc + 4)
     let both := s.me.tnt a || s.me.tnt b
     Completes (.min d a b) s (ok both fun v => v = if y.toInt < x.toInt then y else x) ∧
     Completes (.max d a b) s (ok both fun v => v = if x.toInt < y.toInt then y else x) ∧
     Completes (.minu d a b) s (ok both fun v => v = if y.toNat < x.toNat then y else x) ∧
     Completes (.maxu d a b) s (ok both fun v => v = if x.toNat < y.toNat then y else x) ∧
     Completes (.slt d a b) s (ok both fun v => v = if x.toInt < y.toInt then 1 else 0) ∧
     Completes (.sltu d a b) s (ok both fun v => v = if x.toNat < y.toNat then 1 else 0) ∧
     Completes (.slti d a i) s (ok (s.me.tnt a) fun v => v = if x.toInt < z then 1 else 0) ∧
     Completes (.sltui d a i) s (ok (s.me.tnt a) fun v => v = if (x.toNat : Int) < z % 2 ^ 64 then 1 else 0) ∧
     Completes (.clz d a) s (ok (s.me.tnt a) fun v => v.toNat ≤ 64 ∧ x.toNat < 2 ^ (64 - v.toNat) ∧
       (v.toNat < 64 → 2 ^ (63 - v.toNat) ≤ x.toNat)) ∧
     Completes (.popc d a) s (ok (s.me.tnt a) fun v => v.toNat = ((List.range 64).filter x.getLsbD).length) ∧
     Completes (.lih d u) s (ok false fun v => v.toInt = u.toInt * 4096) ∧
     Completes (.addpc d u) s (ok false fun v => v.toInt = (s.me.s.pc.toInt + u.toInt * 4096).bmod (2 ^ 64)))

/-- The arithmetic that the lane, reduction and matrix instructions compute with: every operation forms its exact result and rounds
it once, with the flags, zeros, infinities and NaNs of the manual; chunk sums are exact before they round, and the tree adds nodes
in pairs (R48 to R51, R54 to R56, R138, R140, R141, R151). -/
def Obligations.NumbersRoundOnce : Prop :=
  let inf := fun (f : FFmt) (w : Nat) => (f.decode w).isInf
  let nan := fun (f : FFmt) (w : Nat) => (f.decode w).isNan
  let zero := fun (f : FFmt) (w : Nat) => (f.decode w).isZero
  let signed := fun (neg : Bool) (x : ℚ) => if neg then -x else x
  let F := FFmt.fp32
  (∀ f ∈ [F, .fp16, .bf16, .e5m2, .fe4m3], ∀ (x : Dy) (zs : Bool) (rm : Rm) (ftz : Bool),
    Rounded f x.val zs rm ftz (roundFp f x zs rm ftz)) ∧
  -- lanes
  (∀ f ∈ [F, .fp16, .bf16], ∀ (rm : Rm) (a b : Nat), a < 2 ^ f.bits → b < 2 ^ f.bits →
    let key := fun (w : Nat) => if f.neg w then -((w % 2 ^ (f.bits - 1) : Nat) : Int) - 1 else ((w % 2 ^ (f.bits - 1) : Nat) : Int)
    (∀ r ∈ [fpAdd f rm a b, fpSub f rm a b, fpMul f rm a b, fpMin f a b, fpMax f a b], NanResult f [a, b] 0 r) ∧
    (nan f a = false → nan f b = false →
      Summed f rm false (rm == .rdn) (inf f a) (inf f b) (f.neg a) (f.neg b) (f.num a + f.num b) (fpAdd f rm a b) ∧
      Summed f rm false (rm == .rdn) (inf f a) (inf f b) (f.neg a) (!f.neg b) (f.num a - f.num b) (fpSub f rm a b) ∧
      (if (inf f a && zero f b) || (zero f a && inf f b) then fpMul f rm a b = (f.defNan, fNv)
       else if inf f a || inf f b then fpMul f rm a b = (f.inf (f.neg a != f.neg b), 0)
       else Rounded f (f.num a * f.num b) (f.neg a != f.neg b) rm false (fpMul f rm a b)) ∧
      fpMin f a b = (if key b < key a then b else a, 0) ∧ fpMax f a b = (if key a < key b then b else a, 0))) ∧
  (∀ (rm : Rm) (pn cn : Bool) (a b c : Nat),
    let bad := (inf F a && zero F b) || (zero F a && inf F b)
    let r := fpFma F rm pn cn a b c
    NanResult F [a, b, c] (if bad then fNv else 0) r ∧
    (nan F a = false → nan F b = false → nan F c = false →
      if bad then r = (F.defNan, fNv)
      else Summed F rm false (rm == .rdn) (inf F a || inf F b) (inf F c) ((F.neg a != F.neg b) != pn) (F.neg c != cn)
        (signed pn (F.num a * F.num b) + signed cn (F.num c)) r)) ∧
  (∀ (rm : Rm) (a : Nat), a < 2 ^ 32 → NanResult F [a] 0 (fpRoundInt rm a) ∧ (inf F a = true → fpRoundInt rm a = (a, 0)) ∧
    (F.isFin a → let r := fpRoundInt rm a
      F.isFin r.1 ∧ F.neg r.1 = F.neg a ∧ ∃ k, RoundsTo rm (F.neg a) 1 |F.num a| k ∧ F.num r.1 = signed (F.neg a) k ∧
        r.2 = if (k : ℚ) = |F.num a| then 0 else fNx)) ∧
  (∀ a b fn : Nat, fn < 8 →
    let key := fun (w : Nat) => if F.neg w then -((w % 2 ^ 31 : Nat) : Int) else ((w % 2 ^ 31 : Nat) : Int)
    let un := nan F a || nan F b
    let sig := (F.decode a).isSnan || (F.decode b).isSnan
    fpCmp fn a b = ([!un && key a = key b, un || key a ≠ key b, !un && key a < key b, !un && key a ≤ key b, !un && key b < key a,
        !un && key b ≤ key a, un, !un].getD fn false,
      (if un then fNanin else 0) ||| (if (if fn ∈ [0, 1, 6, 7] then sig else un) then fNv else 0))) ∧
  -- conversions
  (∀ (rm : Rm) (sat : Bool) (w : W32),
    let x := w.toNat
    let cvt := fun (n : Nat) => let r := vcvtLane n rm sat w; (r.1.toNat, r.2)
    let quiets := fun (f : FFmt) (y : Nat) (fl : Flags) => fl = fNanin ||| if (f.decode y).isSnan then fNv else 0
    (∀ p ∈ [(0, FFmt.fp16), (1, .bf16), (2, .fe4m3), (3, .e5m2)],
      let f := p.2
      (F.isFin x → Rounded f (F.num x) (F.neg x) rm false (cvt p.1)) ∧
      (inf F x = true → cvt p.1 = if f.e4m3 then (f.maxFin (F.neg x), fOf ||| fNx ||| fSat) else (f.inf (F.neg x), 0)) ∧
      (nan F x = true → quiets F x (cvt p.1).2 ∧ (cvt p.1).1 = f.signBit (F.neg x) +
        if f.e4m3 then 0x7F else (2 ^ f.ew - 1) * 2 ^ (f.p - 1) + (F.frac x / 2 ^ (24 - f.p) ||| 2 ^ (f.p - 2)))) ∧
    (∀ p ∈ [(4, FFmt.fp16), (5, .bf16), (6, .fe4m3), (7, .e5m2)],
      let f := p.2
      let y := x % 2 ^ f.bits
      (f.isFin y → F.isFin (cvt p.1).1 ∧ F.num (cvt p.1).1 = f.num y ∧ F.neg (cvt p.1).1 = f.neg y ∧ (cvt p.1).2 = 0) ∧
      (inf f y = true → cvt p.1 = (F.inf (f.neg y), 0)) ∧
      (nan f y = true → quiets f y (cvt p.1).2 ∧ (cvt p.1).1 = F.signBit (f.neg y) +
        if f.e4m3 then 0x7FC00000 else 0x7F800000 + (f.frac y * 2 ^ (24 - f.p) ||| 2 ^ 22))) ∧
    (∀ p ∈ [(0x8, (-(2 ^ 31) : Int), (2 ^ 31 - 1 : Int)), (0xA, -128, 127), (0xB, 0, 255), (0xC, -8, 7)],
      let clamped := fun (v : Int) => (BitVec.ofInt 32 (if v < p.2.1 then p.2.1 else p.2.2), fSat ||| fNx)
      (nan F x = true → vcvtLane p.1 rm sat w = (0, fNanin ||| fNv)) ∧
      (inf F x = true → vcvtLane p.1 rm sat w = clamped (if F.neg x then p.2.1 - 1 else p.2.2 + 1)) ∧
      (F.isFin x → ∃ k : ℕ, RoundsTo rm (F.neg x) 1 |F.num x| k ∧
        let v : Int := if F.neg x then -(k : Int) else k
        vcvtLane p.1 rm sat w = if p.2.1 ≤ v ∧ v ≤ p.2.2 then (BitVec.ofInt 32 v, if (k : ℚ) = |F.num x| then 0 else fNx) else clamped v)) ∧
    Rounded F w.toInt false rm false (cvt 9) ∧ vcvtLane 0xD rm sat w = IntFit 1 sat w.toInt ∧ vcvtLane 0xE rm sat w = IntFit 2 sat w.toInt) ∧
  -- chunk sums and the tree
  (∀ p q : Nat, NanResult F [p, q] 0 (treeAdd p q) ∧ (nan F p = false → nan F q = false →
    Summed F .rne true false (inf F p) (inf F q) (F.neg p) (F.neg q) (F.num p + F.num q) (treeAdd p q))) ∧
  (∀ (d : Nat) (xs ys : List Nat), xs.length = 2 ^ d → ys.length = 2 ^ d →
    let a := canonicalTree xs
    let b := canonicalTree ys
    let r := treeAdd a.1 b.1
    canonicalTree (xs ++ ys) = (r.1, a.2 ||| b.2 ||| r.2)) ∧
  (∀ x, canonicalTree [x] = (x, 0)) ∧
  (∀ (d : Nat) (xs : List Nat), 2 ^ d < xs.length → xs.length ≤ 2 ^ (d + 1) →
    canonicalTree xs = canonicalTree (xs ++ List.replicate (2 ^ (d + 1) - xs.length) 0)) ∧
  (∀ xs : List Nat, NanResult F xs 0 (chunkSumF32 xs) ∧ ((∀ x ∈ xs, nan F x = false) →
    let has := fun (n : Bool) => xs.any fun x => inf F x && F.neg x == n
    if has false && has true then chunkSumF32 xs = (F.defNan, fNv)
    else if has false || has true then chunkSumF32 xs = (F.inf (has true), 0)
    else Rounded F (xs.map F.num).sum false .rne true (chunkSumF32 xs))) ∧
  (∀ l : List (Blk × Blk),
    ((∃ p ∈ l, p.1.x = none ∨ p.2.x = none) → chunkSumMx l = (F.defNan, fNanin)) ∧
    ((∀ p ∈ l, p.1.x ≠ none ∧ p.2.x ≠ none) →
      let terms := l.map fun p => ((List.zipWith (· * ·) p.1.s p.2.s).sum, p.1.x.getD 0 + p.2.x.getD 0)
      ((∀ t ∈ terms, t.1 = 0) → chunkSumMx l = (0, 0)) ∧
      ∀ top, (∃ t ∈ terms, t.1 ≠ 0 ∧ t.2 = top) → (∀ t ∈ terms, t.1 ≠ 0 → t.2 ≤ top) →
        let v := fun (t : Int × Int) => (t.1 : ℚ) * 2 ^ (t.2 - (top - 72))
        let acc : Int := (terms.map fun t => ⌊v t⌋).sum
        let sticky : ℚ := if terms.all fun t => v t = ⌊v t⌋ then 0 else 1 / 2
        Rounded F ((acc + sticky) * 2 ^ (top - 72)) false .rne true (chunkSumMx l))) ∧
  -- the operands of the built-in functions that no table serves
  (∀ fn a : Nat, fn < 14 → NanResult F [a] 0 (vfn fn a) ∧
    (fn ∈ [1, 3, 7, 8] → F.isFin a → F.neg a = true → zero F a = false → vfn fn a = (F.defNan, fNv))) ∧
  (let one := (0x3F800000, (0 : Flags))
   let half := (0x3F000000, (0 : Flags))
   let bad := (0x7FC00000, fNv)
   let at_ := fun (n : Bool) => (F.inf n, (0 : Flags))
   let by0 := fun (n : Bool) => (F.inf n, fDz)
   let O := fun (n : Bool) => (F.signBit n, (0 : Flags))
   -- at −inf, −0, +0 and +inf
   [O false, one, one, at_ false] = [0xFF800000, 0x80000000, 0, 0x7F800000].map (vfn 0) ∧
   [bad, by0 true, by0 true, at_ false] = [0xFF800000, 0x80000000, 0, 0x7F800000].map (vfn 1) ∧
   [O false, one, one, at_ false] = [0xFF800000, 0x80000000, 0, 0x7F800000].map (vfn 2) ∧
   [bad, by0 true, by0 true, at_ false] = [0xFF800000, 0x80000000, 0, 0x7F800000].map (vfn 3) ∧
   [(0xBF800000, 0), O true, O false, one] = [0xFF800000, 0x80000000, 0, 0x7F800000].map (vfn 4) ∧
   [O false, half, half, one] = [0xFF800000, 0x80000000, 0, 0x7F800000].map (vfn 5) ∧
   [(0xBF800000, 0), O true, O false, one] = [0xFF800000, 0x80000000, 0, 0x7F800000].map (vfn 6) ∧
   [bad, by0 true, by0 false, O false] = [0xFF800000, 0x80000000, 0, 0x7F800000].map (vfn 7) ∧
   [bad, O true, O false, at_ false] = [0xFF800000, 0x80000000, 0, 0x7F800000].map (vfn 8) ∧
   [O true, by0 true, by0 false, O false] = [0xFF800000, 0x80000000, 0, 0x7F800000].map (vfn 9) ∧
   [O true, O true, O false, at_ false] = [0xFF800000, 0x80000000, 0, 0x7F800000].map (vfn 10) ∧
   [O true, O true, O false, at_ false] = [0xFF800000, 0x80000000, 0, 0x7F800000].map (vfn 11) ∧
   [bad, O true, O false, bad] = [0xFF800000, 0x80000000, 0, 0x7F800000].map (vfn 12) ∧
   [bad, one, one, bad] = [0xFF800000, 0x80000000, 0, 0x7F800000].map (vfn 13))

/-- Branches, jumps and LOOP, with the words of the branches and jumps; a JALR to an address that is not a multiple of 4 traps with
FETCH_ALIGN (R98 and R99 whole; LOOP for a register other than g0, of R100). -/
def Obligations.ScalarJumpsAndBranches : Prop :=
  ∀ (s : State) (d a b : BitVec 5) (o : BitVec 15) (j : BitVec 20),
    let x := s.me.rg a
    let y := s.me.rg b
    let pc := s.me.s.pc
    let goes := fun (taken : Bool) (t : State) => SMoved s t (if taken then pc + 4 * o.signExtend 64 else pc + 4)
    let n := x - 1
    let dst := x + o.signExtend 64
    Completes (.beq a b o) s (goes (x = y)) ∧ Completes (.bne a b o) s (goes (x ≠ y)) ∧
    Completes (.blt a b o) s (goes (x.toInt < y.toInt)) ∧ Completes (.bge a b o) s (goes (y.toInt ≤ x.toInt)) ∧
    Completes (.bltu a b o) s (goes (x.toNat < y.toNat)) ∧ Completes (.bgeu a b o) s (goes (y.toNat ≤ x.toNat)) ∧
    Completes (.jal d j) s (fun t => SWrote s t d (pc + 4) false 0 (pc + 4 * j.signExtend 64)) ∧
    (a ≠ 0 → Completes (.loop a o) s fun t =>
      SWrote s t a n (s.me.tnt a) 0 (if n = 0 then pc + 4 else pc + 4 * o.signExtend 64)) ∧
    (dst.toNat % 4 = 0 → Completes (.jalr d a o) s fun t => SWrote s t d (pc + 4) false 0 dst) ∧
    (dst.toNat % 4 ≠ 0 → CanHandle s → Completes (.jalr d a o) s fun t => TrapEntry s t 0x04 dst) ∧
    decode .s false ((0x10 : BitVec 7) ++ a ++ b ++ o) = .ok (.beq a b o) ∧ decode .s false ((0x11 : BitVec 7) ++ a ++ b ++ o) = .ok (.bne a b o) ∧
    decode .s false ((0x12 : BitVec 7) ++ a ++ b ++ o) = .ok (.blt a b o) ∧ decode .s false ((0x13 : BitVec 7) ++ a ++ b ++ o) = .ok (.bge a b o) ∧
    decode .s false ((0x14 : BitVec 7) ++ a ++ b ++ o) = .ok (.bltu a b o) ∧ decode .s false ((0x15 : BitVec 7) ++ a ++ b ++ o) = .ok (.bgeu a b o) ∧
    decode .s false ((0x16 : BitVec 7) ++ d ++ j) = .ok (.jal d j) ∧ decode .s false ((0x17 : BitVec 7) ++ d ++ a ++ o) = .ok (.jalr d a o)

/-! ### Loads, stores, order and atomics (R101 to R109) -/

/-- A load or a store issues: it takes the next place in its queue, a store with the value of its register, and writes nothing yet;
a load with a cycle bound takes its place and stays at its queue head; a full queue holds an access; one that fails a check of R102
traps precisely with its cause, TVAL its effective address, a page fault after the table reads of its walk (R101 to R103, R302),
and so do an AMO and a CAS (R107, R108).
The model's own readings that this rests on: log entries 24, 26, 118. -/
def Obligations.AccessesIssueOrTrap : Prop :=
  ((∀ (s : State) (d a : BitVec 5) (z : BitVec 2) (o : BitVec 13),
      let ea := s.me.rg a + o.signExtend 64
      let q := s.me.sq
      let joins := fun (sgn tnt : Bool) (l : Loc) (t : State) =>
        (∃ e, t.me.sq.loads = q.loads ++ [e] ∧ e.num = q.num ∧ e.d = d ∧ e.ea = ea ∧ e.loc = l ∧ e.size = 2 ^ z.toNat ∧
          e.sgn = sgn ∧ e.tnt = tnt ∧ e.head = decide (boundOf s.me.s.pfx ≠ 0)) ∧
        t.me.sq.stores = q.stores ∧ t.me.sq.num = q.num + 1 ∧
        t.me = { s.me with s := t.me.s, sq := t.me.sq } ∧ t.rest = s.rest ∧ ErrorsNoted s t ∧ t.insts = s.insts ∧
        NothingWritten s t
      let bounded := boundOf s.me.s.pfx ≠ 0
      let goes := fun (t : State) =>
        if bounded then HeldAt s.me.s t.me.s 0 0 else GoesOn s.me.s t.me.s (s.me.s.pc + 4) s.cc
      let waits := q.loads.any (·.head)
      let holds := fun (k : BitVec 4) (t : State) => HeldAt s.me.s t.me.s k 0 ∧ t = { s with me := { s.me with s := t.me.s } }
      let all := fun (p : State → Prop) =>
        Completes (.ld d a z o) s p ∧ Completes (.ldsx d a z o) s p ∧ Completes (.ldc d a z o) s p
      (∀ l, s.mem.wf → place s ea (2 ^ z.toNat) false = .at l → waits = false → q.loads.length < 64 →
        Completes (.ld d a z o) s (fun t => joins false false l t ∧ goes t) ∧
        (z ≠ 3 → Completes (.ldsx d a z o) s (fun t => joins true false l t ∧ goes t)) ∧
        Completes (.ldc d a z o) s (fun t => joins false true l t ∧ goes t)) ∧
      (waits = false → 64 ≤ q.loads.length → all (holds 7)) ∧ (waits = true → all (holds 0))) ∧
   (∀ (s : State) (x a : BitVec 5) (z : BitVec 2) (o : BitVec 13),
      let ea := s.me.rg a + o.signExtend 64
      let q := s.me.sq
      (∀ l, s.mem.wf → place s ea (2 ^ z.toNat) true = .at l → q.stores.length < 64 →
        Completes (.st x a z o) s fun t =>
          (∃ e, t.me.sq.stores = q.stores ++ [e] ∧ e.num = q.num ∧ e.ea = ea ∧ e.loc = l ∧ e.size = 2 ^ z.toNat ∧
            e.val = s.me.rg x ∧ e.seq = s.me.s.seq) ∧
          t.me.sq.loads = q.loads ∧ t.me.sq.num = q.num + 1 ∧ GoesOn s.me.s t.me.s (s.me.s.pc + 4) s.cc ∧
          t.me = { s.me with s := t.me.s, sq := t.me.sq } ∧ t.rest = s.rest ∧ ErrorsNoted s t ∧ t.insts = s.insts ∧
          NothingWritten s t) ∧
      (64 ≤ q.stores.length → Completes (.st x a z o) s fun t =>
        HeldAt s.me.s t.me.s 7 0 ∧ t = { s with me := { s.me with s := t.me.s } }))) ∧
  (∀ (s : State) (d a b : BitVec 5) (z : BitVec 2) (o : BitVec 13) (w : BitVec 1) (c : BitVec 7), CanHandle s → c ≠ 0x20 →
     let ea := s.me.rg a + o.signExtend 64
     let traps := fun (p : W64) (wr : Bool) (t : State) =>
       TrapEntry (if c = 0x10 then s.walked p wr else s) t c p ∧ (s.mem.wf → NothingWritten s t)
     (place s ea (2 ^ z.toNat) false = .trap c → s.me.sq.loads.any (·.head) = false → s.me.sq.loads.length < 64 →
       Completes (.ld d a z o) s (traps ea false) ∧ Completes (.ldsx d a z o) s (traps ea false) ∧
       Completes (.ldc d a z o) s (traps ea false)) ∧
     (place s ea (2 ^ z.toNat) true = .trap c → s.me.sq.stores.length < 64 →
       Completes (.st b a z o) s (traps ea true)) ∧
     (place s (s.me.rg a) (if w = 1 then 8 else 4) true = .trap c →
       ∀ i ∈ [Instr.amoswap d a b w, .amoadd d a b w, .amoand d a b w, .amoor d a b w, .amoxor d a b w, .amomin d a b w,
         .amomax d a b w, .amominu d a b w, .amomaxu d a b w, .cas d a b w], Completes i s (traps (s.me.rg a) true)))

/-- The oldest load performs: its register takes the bytes, extended from their size, from memory or from the youngest older store
that covers them; one with a cycle bound leaves its queue head then; the oldest store writes its bytes little-endian, and no other
byte changes (R10, R92, R101, R103).
The model's own readings that this rests on: log entry 118. -/
def Obligations.QueuedAccessesPerform : Prop :=
  (∀ (s : State) (l : LoadEnt) (ls : List LoadEnt), s.mem.wf → s.me.life = .running → s.me.sq.loads = l :: ls → l.size ∈ [1, 2, 4, 8] →
     (∀ x ∈ s.me.sq.stores, l.barS ≤ x.num) →
     let left := fun (t : State) =>
       if l.head then GoesOn s.me.s t.me.s (s.me.s.pc + 4) s.cc else t.me.s = s.me.s
     let ext := fun (n : Nat) => if l.sgn then (BitVec.ofNat (8 * l.size) n).signExtend 64 else BitVec.ofNat 64 n
     let done := fun (v : W64) (t : State) =>
       GWrite s t l.d v l.tnt ∧ t.me.sq.loads = ls ∧ t.me.sq.stores = s.me.sq.stores ∧ t.me.nflags = s.me.nflags ∧ left t ∧
       t.me = { s.me with g := t.me.g, taint := t.me.taint, s := t.me.s, sq := t.me.sq, flipSpad := t.me.flipSpad,
                          flipPriv := t.me.flipPriv, hb := t.me.hb } ∧
       AllCorrected s.rest t.rest ∧ ErrorsNoted s t ∧ NothingWritten s t
     ((∀ x ∈ s.me.sq.stores, x.num < l.num → locOverlap l.loc l.size x.loc x.size = false) → Readable s l.loc l.size →
       Completes .loadDataReturn s (done (ext (leNat ((List.range l.size).map (byteAt s l.loc)))))) ∧
     (∀ older x newer k, s.me.sq.stores = older ++ x :: newer → x.num < l.num → 0 < x.size →
       locInside l.loc l.size x.loc x.size = some k →
       (∀ y ∈ newer, y.num < l.num → locOverlap l.loc l.size y.loc y.size = false) →
       Completes .loadDataReturn s (done (ext (x.val.toNat / 2 ^ (8 * k) % 2 ^ (8 * l.size)))))) ∧
  (∀ (s : State) (x : StoreEnt) (xs : List StoreEnt), s.mem.wf → s.me.spad.wf → s.me.priv.wf → (∀ c ∈ s.rest, c.spad.wf) →
     s.me.life = .running → s.me.sq.stores = x :: xs → x.size ∈ [1, 2, 4, 8] → RealLoc x.loc →
     (∀ l ∈ s.me.sq.loads, x.barL ≤ l.num ∧ (l.num < x.num → locOverlap l.loc l.size x.loc x.size = false)) →
     Writable s x.loc x.size →
     Completes .storePerform s fun t =>
       (∀ k, k < x.size → byteAt t x.loc k = x.val.extractLsb' (8 * k) 8) ∧ SameOutside s t x.loc x.size ∧
       t.me.sq.stores = xs ∧ t.me.sq.loads = s.me.sq.loads ∧ t.me.g = s.me.g ∧ t.me.taint = s.me.taint ∧
       t.me.nflags = s.me.nflags ∧ t.me.s = s.me.s ∧ t.me.t = s.me.t)

/-- AMO and CAS complete: the old value goes to g[d], of an AMO untainted, of a CAS tainted if a source register was, and the new
one to memory, in one step (R16, R107, R108); the operand's bytes can be reached, and every earlier access has performed (R109). -/
def Obligations.AtomicsReadModifyWrite : Prop :=
  ∀ (s : State) (d a b : BitVec 5) (z : BitVec 1) (l : Loc), s.mem.wf → s.me.spad.wf → s.me.priv.wf → (∀ c ∈ s.rest, c.spad.wf) →
    s.me.life = .running → s.me.sDone →
    let n := if z = 1 then 8 else 4
    place s (s.me.rg a) n true = .at l → Writable s l n → (∀ k, k < n → ∀ pa va, l = .glob pa va → ¬ IsCounter s (.glob (pa + k) 0)) →
    let raw := leNat ((List.range n).map (byteAt s l))
    let view := fun (v : W64) => if z = 1 then v else (v.setWidth 32).signExtend 64
    let old := view (BitVec.ofNat 64 raw)
    let y := view (s.me.rg b)
    let moves := fun (tn : Bool) (t : State) =>
      GWrite s t d old tn ∧ GoesOn s.me.s t.me.s (s.me.s.pc + 4) s.cc ∧ t.me.nflags = s.me.nflags ∧ t.me.t = s.me.t ∧
      t.me.sq = s.me.sq ∧ t.me.v = s.me.v ∧ t.me.m = s.me.m ∧ t.me.cp = s.me.cp ∧ t.me.f = s.me.f ∧ t.me.tiles = s.me.tiles
    let swap := fun (tn : Bool) (v : W64) (t : State) =>
      moves tn t ∧ (∀ k, k < n → byteAt t l k = v.extractLsb' (8 * k) 8) ∧ SameOutside s t l n
    let swaps := swap false
    let tn := s.me.tnt d || s.me.tnt a || s.me.tnt b
    Completes (.amoswap d a b z) s (swaps y) ∧ Completes (.amoadd d a b z) s (swaps (old + y)) ∧
    Completes (.amoand d a b z) s (swaps (old &&& y)) ∧ Completes (.amoor d a b z) s (swaps (old ||| y)) ∧
    Completes (.amoxor d a b z) s (swaps (old ^^^ y)) ∧
    Completes (.amomin d a b z) s (swaps (if y.toInt < old.toInt then y else old)) ∧
    Completes (.amomax d a b z) s (swaps (if old.toInt < y.toInt then y else old)) ∧
    Completes (.amominu d a b z) s (swaps (if y.toNat < old.toNat then y else old)) ∧
    Completes (.amomaxu d a b z) s (swaps (if old.toNat < y.toNat then y else old)) ∧
    (old = view (s.me.rg d) → Completes (.cas d a b z) s (swap tn y)) ∧
    (old ≠ view (s.me.rg d) → Completes (.cas d a b z) s fun t => moves tn t ∧ NothingWritten s t)

/-- MARK bounds the later accesses; FENCE goes on once every earlier S access has performed, at system scope with the
write-backs of the lines that hold what its stream wrote or had acquired and of no other line, and holds until then (R105, R106,
R295).
The model's own readings that this rests on: log entries 16, 26. -/
def Obligations.MarkAndFenceOrder : Prop :=
  ∀ (s : State) (sc : BitVec 3), s.me.storeErr = none →
    (Completes .mark s fun t =>
      t.me.sq = { s.me.sq with barL := s.me.sq.num, barS := s.me.sq.num } ∧ GoesOn s.me.s t.me.s (s.me.s.pc + 4) s.cc ∧
      t = { s with me := { s.me with s := t.me.s, sq := t.me.sq } }) ∧
    (s.me.sq.loads = [] → s.me.sq.stores = [] → Completes (.fence sc) s fun t =>
      GoesOn s.me.s t.me.s (s.me.s.pc + 4) s.cc ∧ t.me = { s.me with s := t.me.s } ∧ t.mem = s.mem ∧ t.hub = s.hub ∧
      t.rest = s.rest ∧ (sc ≠ 4 → t.sram = s.sram) ∧
      (sc = 4 →
        let covered := fun (p : Agent × Nat) => (p.1 = (s.me.id, 0) ∧ p.2 < s.tick) ∨ p.2 < s.me.hb.s.bound p.1
        (∀ l ∈ t.sram, (∃ p ∈ l.who, covered p) → l.dirty = false) ∧
        (∀ l ∈ s.sram, (∃ p ∈ l.who, covered p) → l.dirty = true → { l with dirty := false, old := [], who := [] } ∈ t.sram) ∧
        (∀ l ∈ s.sram, (¬ ∃ p ∈ l.who, covered p) → l ∈ t.sram))) ∧
    (s.me.sq.loads ≠ [] ∨ s.me.sq.stores ≠ [] → Completes (.fence sc) s fun t =>
      HeldAt s.me.s t.me.s 0 0 ∧ t = { s with me := { s.me with s := t.me.s } })

/-! ### Pointers, tokens, cues, guards, events, cuts (R110 to R122, R128, R161, R206, R232, R256) -/

/-- SPT reads the checks of R31; the six forms of SPC build pointers, or trap (R30, R110, R111).
The model's own readings that this rests on: log entry 25. -/
def Obligations.PointersAreCheckedAndBuilt : Prop :=
  ∀ (s : State) (d a b : BitVec 5),
    let x := s.me.rg a
    let y := s.me.rg b
    let n := s.me.lcore
    let one := fun (p : W64 → Prop) (t : State) => ∃ v, p v ∧ SWrote s t d v (s.me.tnt a) 0 (s.me.s.pc + 4)
    let two := fun (p : W64 → Prop) (t : State) => ∃ v, p v ∧ SWrote s t d v (s.me.tnt a || s.me.tnt b) 0 (s.me.s.pc + 4)
    let traps := fun (c : BitVec 7) (t : State) => TrapEntry s t c x
    Completes (.spt d a) s (one fun v =>
      (ptrCheck1 x = false → v = 0xF) ∧
      (ptrCheck1 x = true → v.toNat % 16 = ptrTag x ∧ v.toNat < 128 ∧ v.getLsbD 4 = ptrCheck2 s s.me x ∧
        v.getLsbD 5 = (ptrCheck2 s s.me x && ptrCheck3 s s.me x) ∧
        v.getLsbD 6 = (ptrCheck2 s s.me x && ptrCheck3 s s.me x && ptrCheck4 s s.me x 1))) ∧
    (x.toNat < 2 ^ 56 → Completes (.spcGlobal d a) s (one fun v => v = x)) ∧
    (x.toNat < 0x40000 → Completes (.spcPrivate d a) s (one fun v => v.toNat = 8 * 2 ^ 60 + n * 2 ^ 36 + x.toNat)) ∧
    (x.toNat < 2 ^ 32 → y.toNat < 256 →
      Completes (.spcTile d a b) s (two fun v => v.toNat = 9 * 2 ^ 60 + y.toNat * 2 ^ 48 + n * 2 ^ 36 + x.toNat)) ∧
    (x.toNat < 2 ^ 32 → y.toNat < 2 ^ 20 → y.toNat / 256 ≤ 207 →
      Completes (.spcShared d a b) s (two fun v =>
        v.toNat = 10 * 2 ^ 60 + y.toNat / 256 * 2 ^ 44 + y.toNat % 256 * 2 ^ 36 + x.toNat)) ∧
    (ptrCheck1 x = true →
      Completes (.spcOffset d a) s (one fun v => v.toNat = x.toNat % 2 ^ (if ptrTag x = 0 then 56 else 32))) ∧
    (CanHandle s →
      (2 ^ 56 ≤ x.toNat → Completes (.spcGlobal d a) s (traps 0x15)) ∧
      (0x40000 ≤ x.toNat → Completes (.spcPrivate d a) s (traps 0x15)) ∧
      (2 ^ 32 ≤ x.toNat ∨ 256 ≤ y.toNat → Completes (.spcTile d a b) s (traps 0x15)) ∧
      (2 ^ 32 ≤ x.toNat ∨ 2 ^ 20 ≤ y.toNat → Completes (.spcShared d a b) s (traps 0x15)) ∧
      (x.toNat < 2 ^ 32 → y.toNat < 2 ^ 20 → 207 < y.toNat / 256 → Completes (.spcShared d a b) s (traps 0x14)) ∧
      (ptrCheck1 x = false → Completes (.spcOffset d a) s (traps 0x14)))

/-- A token send appends its token to its channel, with what its stream releases, and goes on, or holds while the channel is full;
TOKS to another core fills the outbound buffer; a VTOKS in forked mode traps (R20, R112, R161, R206, R232, R256, R314).
The model's own readings that this rests on: log entries 16, 26, 110. -/
def Obligations.TokenSendsQueueOrHold : Prop :=
  ∀ (s : State) (x : BitVec 5) (y : BitVec 6) (ch d r : BitVec 4) (i core : BitVec 8) (rc : BitVec 3) (v : W16) (u : BitVec 1)
    (w : BitVec 2) (el : BitVec 6),
    let known := fun (n : Nat) =>
      { s.me.hb with tok := s.me.hb.tok.setIfInBounds n ((s.me.hb.tok.toArray.getD n []).take (s.me.chan n).length ++ [s.gives]) }
    let sends := fun (n : Nat) (p : W16 → Prop) (j : Instr) => n < 14 →
      ((s.me.chan n).length < 32 → Completes j s fun t => ∃ tok, p tok ∧
        Goes s { s.me.setChan n (s.me.chan n ++ [tok]) with hb := known n } t ∧ t.me.chan n = s.me.chan n ++ [tok] ∧
        ∀ m, m ≠ n → t.me.chan m = s.me.chan m) ∧
      (32 ≤ (s.me.chan n).length → Completes j s (Holds s · 2 n))
    let n := ch.toNat
    let f := s.me.f.elem el
    let own : W16 := (s.me.rg x + i.setWidth 64).setWidth 16
    let q := s.me.sq.outq
    (s.cur.st = .s → s.me.sDone → sends n (· = own) (.toks x ch i)) ∧
    (s.me.v.forked = false → sends n (· = (lane ((s.me.v.cluster 0).vreg y) 0).setWidth 16) (.vtoks y ch)) ∧
    (s.me.v.forked = true → CanHandle s → Completes (.vtoks y ch) s (TrapEntry s · 0x24 s.strm.pc)) ∧
    (s.me.m.cur = none → sends n (· = v) (.mtoks ch v)) ∧
    sends n (· = (s.me.ar d).setWidth 16 + v) (.ctoks d v ch) ∧
    (s.me.cp.copies = [] → s.me.cp.errs = [] → sends n (· = (s.me.ar d).setWidth 16 + v) (.ctoksAll d v ch)) ∧
    sends n (· = v) (.ftoks ch v) ∧
    sends (if u = 0 then 1 else 4) (fun tok =>
      (w = 0 → tok.getLsbD 15 = f.halted ∧ tok.getLsbD 14 = f.loaded ∧ tok.getLsbD 13 = f.off ∧
        tok.getLsbD 12 = f.port.isSome ∧ tok.toNat % 4096 = f.pc.toNat) ∧
      (w = 1 → tok = (f.reg r).extractLsb' 0 16) ∧ (w = 2 → tok = (f.reg r).extractLsb' 16 16) ∧
      (w = 3 → tok = s.me.f.lastMoved[el.toNat])) (.fqry u r w el) ∧
    (s.me.sDone → q.length < 32 → Completes (.toksRemote x core rc i) s fun t =>
      t.me.sq = { s.me.sq with outq := q ++ [{ core := core, ch := rc, val := own, due := none, known := s.gives }] } ∧
      GoesOn s.me.s t.me.s (s.me.s.pc + 4) s.cc ∧ t = { s with me := { s.me with s := t.me.s, sq := t.me.sq } }) ∧
    (s.me.sDone → 32 ≤ q.length → Completes (.toksRemote x core rc i) s fun t =>
      HeldAt s.me.s t.me.s 7 0 ∧ t = { s with me := { s.me with s := t.me.s } })

/-- A token wait that is not late takes the oldest token of its channel, acquires what its send has released and goes on, or holds
while the channel is empty; a VTOKW in forked mode traps (R20, R114, R161, R206, R232, R256, R314).
The model's own readings that this rests on: log entries 16, 110. -/
def Obligations.TokenWaitsTakeOrHold : Prop :=
  ∀ (s : State) (d : BitVec 5) (y : BitVec 6) (ch a : BitVec 4), s.lateWait = none → ch.toNat < 14 →
    let n := ch.toNat
    let popped := { s.me with hb := { s.me.hb with tok := s.me.hb.tok.setIfInBounds n (s.me.hb.tok.toArray.getD n []).tail } }
    let hb := (popped.acquire s.cur.st (s.me.tokKnown n)).hb
    let waits := fun (j : Instr) (into : W16 → Ctx) =>
      (∀ tok rest, s.me.chan n = tok :: rest → Completes j s fun t =>
        Goes s { (into tok).setChan n rest with hb := hb } t ∧ t.me.chan n = rest ∧ ∀ m, m ≠ n → t.me.chan m = s.me.chan m) ∧
      (s.me.chan n = [] → Completes j s (Holds s · 2 n))
    let same := fun (_ : W16) => s.me
    waits (.tokw d ch) (fun tok => s.me.wg d (tok.setWidth 64) false) ∧
    (s.me.m.cur = none → waits (.mtokw ch) same) ∧ waits (.ftokw ch) same ∧
    (s.me.cp.errs = [] → waits (.ctokw ch) same ∧
      waits (.ctokwLd a ch) (fun tok => s.me.setAr a (tok.setWidth 64)) ∧
      waits (.ctokwAdd a ch) (fun tok => s.me.setAr a (s.me.ar a + tok.setWidth 64))) ∧
    (s.me.v.forked = true → CanHandle s → Completes (.vtokw y ch) s (TrapEntry s · 0x24 s.strm.pc)) ∧
    (s.cur.st = .v → s.me.v.forked = false →
      (s.me.chan n = [] → Completes (.vtokw y ch) s (Holds s · 2 n)) ∧
      ∀ tok rest, s.me.chan n = tok :: rest → Completes (.vtokw y ch) s fun t =>
        t.me.chan n = rest ∧ (∀ m, m ≠ n → t.me.chan m = s.me.chan m) ∧
        Lanes s t y s.vPfxMask (fun _ _ => tok.setWidth 32) ∧ OnlyV s t [y] ∧ SameBytes s t ∧
        GoesOn s.me.e t.me.e (s.me.e.pc + 4) s.cc ∧ t.me.v.pend = s.me.v.pend ∧
        t = { s with me := { s.me with tok := t.me.tok, s := t.me.s, e := t.me.e, c := t.me.c, v := { s.me.v with cl := t.me.v.cl },
                                       hb := hb } })

/-- A cue instruction holds until TAKECC reaches its cycle at the timed level and passes at the ordered levels; a cue that the
cast lacks traps (R115, R162); CUE_REACHED retires the S stream's cue whose cycle has come. The model's own readings that this
rests on: log entry 103. -/
def Obligations.CuesHoldUntilTheirCycle : Prop :=
  ∀ (s : State) (n : BitVec 20),
    let all := fun (p : State → Prop) =>
      Completes (.cue n) s p ∧ Completes (.vcue n) s p ∧ Completes (.mcue n) s p ∧ Completes (.ccue n) s p ∧
      Completes (.fcue n) s p
    let goes := fun (t : State) => Went s s t (s.strm.pc + 4) ∧ SameBytes s t
    (s.myInst.cues ≤ n.toNat → CanHandle s → all (TrapEntry s · 0x4A (n.setWidth 64))) ∧
    (n.toNat < s.myInst.cues →
      (s.me.timed = false → all goes) ∧
      (s.me.timed = true → ∀ y, cueCycle s s.me n.toNat = some y →
        (s.takecc s.me < y → all (Holds s · 3 n.toNat)) ∧
        (s.takecc s.me = y → all fun t =>
          t.strm.pc = s.strm.pc + 4 ∧ t.strm.pfx = none ∧ t.strm.seq = s.strm.seq + 1 ∧ t.strm.wait = none ∧
          t.strm.afterCue = some n ∧ t = s.setStrm t.strm ∧ SameBytes s t) ∧
        (y < s.takecc s.me → s.myInst.tfd = false → CanHandle s → all (TrapEntry s · 0x48 (n.setWidth 64))))) ∧
    (s.me.life = .running → s.me.t.hmode = true → Completes .cueReached s fun t =>
      (cueDue s s.me s.me.s = false → t.me.s = s.me.s) ∧
      (cueDue s s.me s.me.s = true → t.me.s.pc = s.me.s.pc + 4 ∧ t.me.s.pfx = none ∧ t.me.s.seq = s.me.s.seq + 1 ∧
        t.me.s.wait = none) ∧
      t = { s with me := { s.me with s := t.me.s } }) ∧
    (s.me.life = .running → s.me.t.hmode = false → Completes .cueReached s fun t =>
      (cueDue s s.me s.me.s = true → t.me.s.pc = s.me.s.pc + 4 ∧ t.me.s.wait = none) ∧
      (cueDue s s.me s.me.e = true → t.me.e.pc = s.me.e.pc + 4 ∧ t.me.e.wait = none) ∧
      (cueDue s s.me s.me.c = true → t.me.c.pc = s.me.c.pc + 4 ∧ t.me.c.wait = none) ∧
      t = { s with me := { s.me with s := t.me.s, e := t.me.e, c := t.me.c, v := { s.me.v with cl := t.me.v.cl } } } ∧
      SameBytes s t)

/-- GSET writes a guard slot, in a later cycle than a queue head's test of it; WFE takes event bits or holds, and sees a bit that
arrives in its cycle; SEV sends bits that SEV_DELIVERY adds to EVENTS; each carries what the sender releases (R8, R21, R116,
R117, R314). The model's own readings that this rests on: log entries 16, 26, 101, 103. -/
def Obligations.GuardsAndEventsReachTheirTargets : Prop :=
  ∀ (s : State) (d : BitVec 5) (g : BitVec 4) (v m : BitVec 8),
    let x := s.me.rg d
    let pc := s.me.s.pc + 4
    (s.me.testedNow g = true → Completes (.gset d g v) s fun t =>
      HeldAt s.me.s t.me.s 0 0 ∧ t = { s with me := { s.me with s := t.me.s } }) ∧
    (s.me.testedNow g = false → s.me.sDone → Completes (.gset d g v) s fun t =>
      (∀ i, t.me.guard i = if i = g then (if v = 4 then (if x ≠ 0 then 3 else 2) else v.setWidth 2) else s.me.guard i) ∧
      GoesOn s.me.s t.me.s pc s.cc ∧ Retests s.me.e t.me.e ∧ Retests s.me.c t.me.c ∧
      t = { s with me := { s.me with gd := t.me.gd, s := t.me.s, e := t.me.e, c := t.me.c, v := { s.me.v with cl := t.me.v.cl },
                                     hb := { s.me.hb with gd := t.me.hb.gd } } } ∧
      (∀ i : BitVec 4, t.me.hb.gd[i.toNat] = if i = g then s.gives else s.me.hb.gd[i.toNat]) ∧ SameBytes s t) ∧
    (s.me.events &&& m = 0 ∨ (∃ f ∈ s.sevs, f.ctx = s.me.id ∧ f.due ≤ s.cc) → Completes (.wfe d m) s fun t =>
      HeldAt s.me.s t.me.s 8 m.toNat ∧ t = { s with me := { s.me with s := t.me.s } }) ∧
    (s.me.events &&& m ≠ 0 → (∀ f ∈ s.sevs, f.ctx = s.me.id → s.cc < f.due) → Completes (.wfe d m) s fun t =>
      GWrite s t d ((s.me.events &&& m).setWidth 64) false ∧ t.me.events = s.me.events &&& ~~~m ∧
      GoesOn s.me.s t.me.s pc s.cc ∧ SameBytes s t ∧
      t = { s with me := { s.me with g := t.me.g, taint := t.me.taint, events := t.me.events, s := t.me.s,
                                     hb := { s.me.hb with s := t.me.hb.s, ev := t.me.hb.ev } } } ∧
      (∀ n : Fin 8, (s.me.events &&& m).getLsbD n.val = true → ∀ w, Known.bound s.me.hb.ev[n] w ≤ t.me.hb.s.bound w)) ∧
    (207 < x.toNat % 256 → CanHandle s → Completes (.sev d m) s (TrapEntry s · 0x14 x)) ∧
    (x.toNat % 256 ≤ 207 → s.me.sDone → Completes (.sev d m) s fun t =>
      (∃ f, t.sevs = s.sevs ++ [f] ∧ instOf f.ctx = instOf s.me.id ∧ lcoreOf f.ctx = x.toNat % 256 ∧ f.bits = m ∧
        f.known = s.gives ∧ f.due = s.cc + latency s.hub (s.socketOf s.me.id) (s.socketOf f.ctx)) ∧
      GoesOn s.me.s t.me.s pc s.cc ∧ t = { s with me := { s.me with s := t.me.s }, sevs := t.sevs }) ∧
    (∀ f, s.sevs.find? (fun f => f.ctx == s.me.id && f.due ≤ s.cc) = some f → s.me.life = .running →
      Completes .sevDelivery s fun t =>
        t.me.events = s.me.events ||| f.bits ∧ t.sevs = s.sevs.erase f ∧ Retests s.me.s t.me.s ∧
        (∀ o, s.me.s.wait = some { kind := 8, obj := o } → t.me.s.tried = none) ∧
        (∀ n : Fin 8, t.me.hb.ev[n] = if f.bits.getLsbD n.val then Known.join s.me.hb.ev[n] f.known else s.me.hb.ev[n]) ∧
        t = { s with me := { s.me with events := t.me.events, s := t.me.s, hb := { s.me.hb with ev := t.me.hb.ev } },
                     sevs := t.sevs })

/-- A context that may arrive is at its CUT, and arrives later if it may not yet; a completed cut ends the take of its
participants, which acquire what they have released (R118, R272, R273, R279, R314); one on a package tag applies the pending
changes with their status records, puts the level in force, chooses CASTCLS again after a change of the remap, lets dies
rejoin and moves the resume point (R24, R269, R277, R287, R353, R379, R380); remote tokens that are due enter their channels
in the order of their splices and senders, and leave their senders' buffers (R113). The model's own readings that this rests
on: log entries 16, 55, 57, 58, 62, 92, 93, 101. -/
def Obligations.CutsEndTakes : Prop :=
  ∀ (s : State) (tag : BitVec 3), s.me.life = .running →
    let ok := s.me.t.hmode = false ∧ s.me.storeErr = none ∧ inDomain s.myInst s.me tag = true
    let moved := fun (a : Option (BitVec 3)) (t : State) =>
      HeldAt s.me.s t.me.s 9 tag.toNat ∧ t = { s with me := { s.me with s := t.me.s, arrived := a } }
    (ok → s.me.cp.errs = [] → cutReady s s.me = true → Completes (.cut tag) s (moved (some tag))) ∧
    (ok → cutReady s s.me = false → Completes (.cut tag) s (moved s.me.arrived)) ∧
    (s.me.t.hmode = false → s.me.storeErr = none → inDomain s.myInst s.me tag = false → CanHandle s →
      Completes (.cut tag) s (TrapEntry s · 0x4B (tag.setWidth 64))) ∧
    (ok → s.me.cp.errs = [] → s.me.arrived = none → s.me.s.wait = some { kind := 9, obj := tag.setWidth 20 } →
      cutReady s s.me = true → Completes .cutArrival s (moved (some tag))) ∧
    (∀ f, s.cuts.find? (fun f => f.inst == s.cur.inst && f.tag == tag && f.due ≤ s.cc) = some f →
      s.allArrived s.cur.inst tag = true → instOf s.me.id = s.cur.inst → s.me.lcore < 208 → inDomain (s.inst s.cur.inst) s.me tag = true →
      s.Proper → (¬ OnPackage s tag ∨ Rejoins s = false) →
      Completes (.cutComplete tag) s fun t =>
        (OnPackage s tag → PackageCut s t) ∧
        (∀ c ∈ s.parts s.cur.inst tag, ∀ st w, (c.arrives s.tick).bound w ≤ (t.me.hb.of st).bound w) ∧
        t.me.take = s.me.take + 1 ∧ t.me.takeStart = s.cc ∧ t.me.demoted = false ∧ t.cuts = s.cuts.erase f ∧
        (∀ j, (t.inst s.cur.inst).btcnt[(j : BitVec 3).toNat] =
          (s.inst s.cur.inst).btcnt[j.toNat] + (if j = tag then 1 else 0)) ∧
        (s.me.arrived = some tag → t.me.arrived = none ∧ GoesOn s.me.s t.me.s (s.me.s.pc + 4) s.cc) ∧
        t.me.g = s.me.g ∧ t.me.spad = s.me.spad ∧ t.me.priv = s.me.priv) ∧
    (∀ f, s.cuts.find? (fun f => f.inst == s.cur.inst && f.tag == tag && f.due ≤ s.cc) = some f →
      s.allArrived s.cur.inst tag = true → s.Proper → OnPackage s tag → Rejoins s = true →
      Completes (.cutComplete tag) s fun t =>
        let x := s.inst s.cur.inst
        let y := t.inst s.cur.inst
        y.remap = canonRemap s.hub ∧ y.staged = [] ∧ y.recls = false ∧ y.castcls = chooseCls s.hub (canonRemap s.hub) x.sheets ∧
        (∀ c ∈ s.ctxs, instOf c.id = s.cur.inst → c.life = .running → s.canSave c.id = true →
          s.remapEntry c.id ≠ y.remap.toArray.getD c.lcore 0 → ∃ d, t.ctx? c.id = some d ∧ d.life = .saved)) ∧
    (s.Proper → (∀ ch, ch < 8 → (s.me.chan (6 + ch)).length + (dueTokens s s.me.id ch).length ≤ 32) →
      Completes .remoteTokenDelivery s fun t =>
        (∀ ch, ch < 8 → ∃ l : List (Nat × Nat × BitVec 12 × OutTok), l.Pairwise (fun a b => a.1 < b.1 ∨ (a.1 = b.1 ∧ a.2.1 ≤ b.2.1)) ∧
          (∀ d n, (l.filter fun x => x.1 == d && x.2.1 == n) =
            (dueTokens s s.me.id ch).filter fun x => x.1 == d && x.2.1 == n) ∧
          t.me.chan (6 + ch) = s.me.chan (6 + ch) ++ l.map (·.2.2.2.val)) ∧
        (∀ ch, ch < 6 → t.me.chan ch = s.me.chan ch) ∧
        (∀ c ∈ s.ctxs, ∃ d, t.ctx? c.id = some d ∧ d.sq.outq = c.sq.outq.filter fun o =>
          !(instOf c.id == instOf s.me.id && o.core.toNat == s.me.lcore &&
            (match o.due with | some d => decide (d.1 ≤ s.cc) | none => false))) ∧
        t.me.g = s.me.g ∧ SameBytes s t) ∧
    (∀ o l, (∀ c ∈ s.rest, c.sq.outq = []) → s.me.sq.outq = o :: l → (∀ x ∈ l, x.due = none) →
      o.core.toNat = s.me.lcore → (∃ d, o.due = some d ∧ d.1 ≤ s.cc) → (s.me.chan (6 + o.ch.toNat)).length < 32 →
      Completes .remoteTokenDelivery s fun t =>
        t.me.chan (6 + o.ch.toNat) = s.me.chan (6 + o.ch.toNat) ++ [o.val] ∧ t.me.sq.outq = l ∧
        (∀ m, m ≠ 6 + o.ch.toNat → t.me.chan m = s.me.chan m) ∧ t.me.g = s.me.g ∧ SameBytes s t)

/-- DOMR gives rank and size of a domain, SEEDRD the top of the seed stack, RNGK and RNGA set key and add to the base of a
random-number handle (R33, R120 to R122). -/
def Obligations.DomainsSeedsAndHandlesRead : Prop :=
  ∀ (s : State) (d a b : BitVec 5) (l : BitVec 3) (w h : BitVec 8) (n : BitVec 4) (top : W128) (rest : List W128),
    s.myInst.seeds = top :: rest →
    let peers := s.ctxs.filter fun c => instOf c.id == instOf s.me.id && shareDomain c.member s.me.member l.toNat
    let gives := fun (v : W64) (t : State) => SWrote s t d v false 0 (s.me.s.pc + 4)
    let r := s.me.rn[n.toNat]
    let pair : W128 := s.me.rg b ++ s.me.rg a
    let keeps := fun (v : W128 × W128) (t : State) =>
      (∀ m : BitVec 4, t.me.rn[m.toNat] = if m = n then v else s.me.rn[m.toNat]) ∧
      GoesOn s.me.s t.me.s (s.me.s.pc + 4) s.cc ∧ t = { s with me := { s.me with rn := t.me.rn, s := t.me.s } }
    Completes (.domr d l 0) s (gives (BitVec.ofNat 64 (peers.filter fun c => c.lcore < s.me.lcore).length)) ∧
    (w ≠ 0 → Completes (.domr d l w) s (gives (BitVec.ofNat 64 peers.length))) ∧
    Completes (.seedrd d 0) s (gives (top.extractLsb' 0 64)) ∧
    (h ≠ 0 → Completes (.seedrd d h) s (gives (top.extractLsb' 64 64))) ∧
    Completes (.rngk n a b) s (keeps (pair, r.2)) ∧ Completes (.rnga n a b) s (keeps (r.1, r.2 + pair))

/-! ### Folio slots, tiles, rings, control registers, traps (R17 to R19, R25, R32, R35, R123 to R130, R331, R332) -/

/-- FOLIO binds a slot, FUNBIND empties it, and a frame that held it loses its tag; FOLIO's checks trap in order with their
codes (R25, R123). -/
def Obligations.FolioSlotsBindAndEmpty : Prop :=
  ∀ (s : State) (a b : BitVec 5) (i : BitVec 6),
    let x := s.me.rg a
    let y := s.me.rg b
    let c1 := x.extractLsb' 56 8 = 0
    let c2 := x.toNat % 256 = 0
    let c3 := y.toNat % 64 ≠ 0 ∧ y.toNat % 64 ≤ 3
    let c4 := y.extractLsb' 6 2 = 0
    let becomes := fun (e : FolioSlot) (t : State) =>
      (∀ j, t.me.slot j = if j = i then e else s.me.slot j) ∧ GoesOn s.me.s t.me.s (s.me.s.pc + 4) s.cc ∧
      t.cores = (s.cores.map fun k =>
        { k with frames := k.frames.map fun f => { f with valid := f.valid && !f.tagged s.me.id i } }) ∧
      t = { s with me := { s.me with folio := t.me.folio, s := t.me.s }, cores := t.cores }
    (c1 → c2 → c3 → c4 → Completes (.folio a b i) s (becomes
      { st := 1, nin := y.extractLsb' 0 6, lat := y.extractLsb' 8 8, image := x.extractLsb' 0 56, hash := y.extractLsb' 16 48 })) ∧
    Completes (.funbind i) s (becomes {}) ∧
    (CanHandle s →
      (¬ c1 → Completes (.folio a b i) s (TrapEntry s · 0x21 0x11)) ∧
      (c1 → ¬ c2 → Completes (.folio a b i) s (TrapEntry s · 0x21 0x12)) ∧
      (c1 → c2 → ¬ c3 → Completes (.folio a b i) s (TrapEntry s · 0x21 0x13)) ∧
      (c1 → c2 → c3 → ¬ c4 → Completes (.folio a b i) s (TrapEntry s · 0x21 0x14)))

/-- TALLOC places a tile at the lowest free aligned base, TFREE waits for its handle and frees it, TINFO reads an entry (R17, R125,
R126).
The model's own readings that this rests on: log entry 26. -/
def Obligations.TilesAreAllocatedAndFreed : Prop :=
  ∀ (s : State) (d a b : BitVec 5) (h : BitVec 8) (half : BitVec 8),
    let x := s.me.rg a
    let n := (s.me.rg b).toNat
    let level : BitVec 3 := x.extractLsb' 0 3
    let fmt : BitVec 4 := x.extractLsb' 4 4
    let slots : BitVec 8 := x.extractLsb' 8 8
    let legal := x.extractLsb' 48 16 = 0 ∧ x.getLsbD 3 = false ∧ level.toNat ≤ 3 ∧ x.extractLsb' 16 16 ≠ 0 ∧
      x.extractLsb' 32 16 ≠ 0 ∧ n ≠ 0 ∧ n % 256 = 0 ∧ n ≤ 2 ^ 23 ∧
      (level = 3 → slots ≠ 0 ∧ n % (256 * slots.toNat) = 0) ∧ (level ≠ 3 → slots = 0) ∧
      (level = 1 → fmt.toNat ∈ [6, 8, 9, 10, 11, 12, 15]) ∧ (level = 2 → fmt = 0)
    let rest := fun (t : State) => (∀ k, k ≠ h → t.me.tile k = s.me.tile k) ∧
      GoesOn s.me.s t.me.s (s.me.s.pc + 4) s.cc ∧ SameBytes s t
    (legal → (s.me.tile h).valid = false → (∃ base, base % 256 = 0 ∧ spadFree s.me base n = true) →
      Completes (.talloc d a b h) s fun t => ∃ base, base % 256 = 0 ∧ spadFree s.me base n = true ∧
        (∀ z, z < base → z % 256 = 0 → spadFree s.me z n = false) ∧
        t.me.tile h = { valid := true, level := level, fmt := fmt, rows := x.extractLsb' 16 16, cols := x.extractLsb' 32 16,
                        busy := 0, base := BitVec.ofNat 23 base, size := BitVec.ofNat 24 n, slots := slots } ∧
        GWrite s t d (BitVec.ofNat 64 base) false ∧ rest t ∧
        t = { s with me := { s.me with g := t.me.g, taint := t.me.taint, tiles := t.me.tiles, s := t.me.s } }) ∧
    (CanHandle s →
      (¬ legal ∨ (s.me.tile h).valid = true → Completes (.talloc d a b h) s (TrapEntry s · 0x18 (h.setWidth 64))) ∧
      (legal → (s.me.tile h).valid = false → (∀ base, base % 256 = 0 → spadFree s.me base n = false) →
        Completes (.talloc d a b h) s (TrapEntry s · 0x19 (h.setWidth 64))) ∧
      ((s.me.tile h).valid = false → Completes (.tfree h) s (TrapEntry s · 0x16 (h.setWidth 64)))) ∧
    ((s.me.tile h).valid = true → (s.me.tile h).busy = 0 → Completes (.tfree h) s fun t =>
      t.me.tile h = { s.me.tile h with valid := false } ∧ rest t ∧
      t = { s with me := { s.me with tiles := t.me.tiles, s := t.me.s } }) ∧
    ((s.me.tile h).valid = true → (s.me.tile h).busy ≠ 0 → Completes (.tfree h) s fun t =>
      HeldAt s.me.s t.me.s 7 h.toNat ∧ t = { s with me := { s.me with s := t.me.s } }) ∧
    (half = 0 ∨ half = 1 → Completes (.tinfo d h half) s fun t => ∃ v,
      v.toNat = (s.me.tile h).bits / 2 ^ (64 * half.toNat) % 2 ^ 64 ∧ SWrote s t d v false 0 (s.me.s.pc + 4))

/-- The ring instructions of the five streams: the role's effect when its condition holds, else a hold that keeps the handle
busy in an engine or copy stream; a consume or waitfill acquires what the S stream's produces that satisfy it have released; invalid
handles, other tiles and counts above slots trap, and a VRING in forked mode (R19, R127, R128, R314).
The model's own readings that this rests on: log entries 16, 35, 110. -/
def Obligations.RingsProduceAndConsume : Prop :=
  ∀ (s : State) (h cnt : BitVec 8) (role : BitVec 2), s.lateWait = none → s.strm.busy = none →
    let e := s.me.tile h
    let free := e.slots.toNat - e.filled.toNat
    let all := fun (p : State → Prop) =>
      (s.cur.st = .s → (role = 0 → s.me.sDone) → Completes (.tring (role.setWidth 5) h cnt) s p) ∧
      (s.cur.st = .v → s.me.v.forked = false → (role = 0 → s.me.v.pend = []) → Completes (.vring role h cnt) s p) ∧
      (s.cur.st = .m → s.me.m.cur = none → Completes (.mring role cnt h) s p) ∧
      (s.cur.st = .c → (role = 0 → s.me.cp.copies = []) → Completes (.cring role cnt h) s p) ∧
      (s.cur.st = .f → Completes (.fring role cnt h) s p)
    let becomes := fun (x : Tile) (t : State) =>
      let a := s.me.acquire s.cur.st (s.me.ringGives h role.toNat cnt.toNat)
      let hb := (a.ringKnown h role.toNat cnt.toNat (if s.cur.st = .s then a.gives .s s.tick else [])).hb
      (∀ k, t.me.tile k = if k = h then x else s.me.tile k) ∧ Goes s { s.me with tiles := t.me.tiles, hb := hb } t
    let holds := fun (t : State) =>
      HeldAt s.strm t.strm 4 h.toNat ∧ SameBytes s t ∧
      (s.cur.st = .s → t = s.setStrm t.strm) ∧
      (s.cur.st ≠ .s → t.strm.busy = some h ∧ (t.me.tile h).busy = e.busy + 1 ∧ (∀ k, k ≠ h → t.me.tile k = s.me.tile k) ∧
        t = ({ s with me := { s.me with tiles := t.me.tiles } }).setStrm t.strm)
    let ready := if role = 0 ∨ role = 3 then cnt.toNat ≤ free else cnt.toNat ≤ e.filled.toNat
    (e.valid = true → e.level = 3 → cnt.toNat ≤ e.slots.toNat → e.filled.toNat ≤ e.slots.toNat →
      (ready → role = 0 → all (becomes { e with filled := e.filled + cnt })) ∧
      (ready → role = 1 → all (becomes
        { e with head := BitVec.ofNat 8 ((e.head.toNat + cnt.toNat) % e.slots.toNat), filled := e.filled - cnt })) ∧
      (ready → role = 2 ∨ role = 3 → all (becomes e)) ∧
      (¬ ready → e.busy ≠ 255 → all holds)) ∧
    (CanHandle s →
      (s.me.v.forked = true → Completes (.vring role h cnt) s (TrapEntry s · 0x24 s.strm.pc)) ∧
      (e.valid = false → all (TrapEntry s · 0x16 (h.setWidth 64))) ∧
      (e.valid = true → e.level ≠ 3 ∨ e.slots.toNat < cnt.toNat → all (TrapEntry s · 0x18 (h.setWidth 64))))

/-- Every control register reads its value, a write sets the writable ones, NFLAGS with the flags raised in its cycle on top, and an
unassigned or read-only selector or a reserved value traps (R29, R32, R34, R35, R129). -/
def Obligations.ControlRegistersReadAndWrite : Prop :=
  ∀ (s : State) (d x : BitVec 5) (n : BitVec 12) (i : BitVec 8) (k : BitVec 3),
    let c := s.me
    let word := fun (v : Nat) => BitVec.ofNat 64 v
    let regs : List (BitVec 12 × W64) :=
      [(0x000, c.id.setWidth 64), (0x001, word c.lcore), (0x002, c.member), (0x003, c.level.setWidth 64), (0x004, c.take),
       (0x005, word (s.cc - c.takeStart)), (0x006, c.castcls.setWidth 64), (0x010, c.moddef), (0x011, c.nflags.setWidth 64),
       (0x020, c.t.tvec), (0x021, c.t.epc), (0x022, c.t.cause.setWidth 64), (0x023, c.t.tval), (0x024, c.t.tseqs),
       (0x025, c.t.tseqe), (0x026, c.t.tseqc), (0x028, c.t.fvec), (0x030, c.piV.setWidth 64), (0x031, c.piM.setWidth 64),
       (0x032, c.piC.setWidth 64), (0x033, c.piF.setWidth 64), (0x040, word s.myInst.seeds.length),
       (0x060, word (s.cc - s.myInst.launchCc)), (0x050 + k.setWidth 12, (s.myInst.btcfg[k.toNat]).setWidth 64),
       (0x058 + k.setWidth 12, (s.myInst.btcnt[k.toNat]).setWidth 64)]
    let assigned : List Nat := [0, 1, 2, 3, 4, 5, 6, 0x10, 0x11, 0x20, 0x21, 0x22, 0x23, 0x24, 0x25, 0x26, 0x28, 0x30, 0x31, 0x32,
      0x33, 0x40, 0x60] ++ (List.range 16).map (0x50 + ·)
    let legal := fun (v : W64) => v.toNat < 2 ^ 16 ∧ v.getLsbD 12 = false ∧ v.getLsbD 0 = false ∧ 2 ≤ v.toNat / 2 ^ 13 ∧
      v.toNat / 2 ^ 9 % 8 ≤ 4 ∧ v.toNat / 2 ^ 5 % 4 ≠ 3 ∧ v.toNat / 2 ^ 2 % 8 ≤ 3
    let writes := fun (v : W64) (m : BitVec 12) (q : Ctx) =>
      let goes := fun (t : State) => GoesOn c.s t.me.s (c.s.pc + 4) s.cc ∧ t = { s with me := { q with s := t.me.s } }
      (v = s.me.rg x → Completes (.csrw x m) s goes) ∧
      (∀ old, (m, old) ∈ regs → v = old ||| s.me.rg x ||| i.setWidth 64 → Completes (.csrs x m i) s goes)
    let traps := fun (j : Instr) (cause : BitVec 7) => CanHandle s → Completes j s (TrapEntry s · cause c.s.restart)
    let or := fun (old : W64) => old ||| s.me.rg x ||| i.setWidth 64
    (∀ p, p ∈ regs → Completes (.csrr d p.1) s fun t => SWrote s t d p.2 false 0 (c.s.pc + 4)) ∧
    (n.toNat ∉ assigned → CanHandle s → Completes (.csrr d n) s (TrapEntry s · 0x01 c.s.restart)) ∧
    (∀ v, legal v → writes v 0x010 { c with moddef := v }) ∧
    (∀ v : W64, v.toNat < 256 → writes v 0x011 { c with nflags := v.setWidth 32 ||| c.raisedNow }) ∧
    (∀ v, writes v 0x020 { c with t := { c.t with tvec := v } }) ∧
    (∀ v, writes v 0x021 { c with t := { c.t with epc := v } }) ∧
    (∀ v, writes v 0x028 { c with t := { c.t with fvec := v } }) ∧
    (¬ legal (s.me.rg x) → traps (.csrw x 0x010) 0x02) ∧ (256 ≤ (s.me.rg x).toNat → traps (.csrw x 0x011) 0x02) ∧
    (¬ legal (or c.moddef) → traps (.csrs x 0x010 i) 0x02) ∧
    (256 ≤ (or (c.nflags.setWidth 64)).toNat → traps (.csrs x 0x011 i) 0x02) ∧
    (n ∉ ([0x010, 0x011, 0x020, 0x021, 0x028] : List (BitVec 12)) → traps (.csrw x n) 0x01 ∧ traps (.csrs x n i) 0x01)

/-- TRAP enters the handler, hands the context to the host, or removes it in handler mode; ERET and HALT end a handler (R129,
R183, R331, R332, R334). The model's own readings that this rests on: log entries 15, 34, 97, 102, 117. -/
def Obligations.TrapsEnterAndLeaveTheHandler : Prop :=
  ∀ (s : State) (n : BitVec 8),
    let st := s.me.s
    (CanHandle s → Completes (.trap n) s (TrapEntry s · 0x05 (n.setWidth 64))) ∧
    (s.cur.st = .s → s.me.copyUnder = false → s.me.t.hmode = false → s.hub.funcmode.getLsbD 2 = true → s.canSave s.me.id = true →
     s.me.imageDue = none → Completes (.trap n) s fun t =>
      t.me.life = .stopped ∧ t.me.t.cause = 0x05 ∧ t.me.t.tval = n.setWidth 64 ∧ t.me.t.epc = st.restart ∧ t.me.t.hmode = false ∧
      t.me.g = s.me.g ∧
      (if s.areaHeld s.me.id = true then t.me.imageDue = some 4 else t.me.imageDue = none ∧ 4 ∈ t.hub.msix ++ t.hub.msixHeld)) ∧
    (s.me.sq.loads = [] → s.me.sq.stores = [] →
      (s.cur.st = .s → s.me.copyUnder = false → s.me.t.hmode = true → Completes (.trap n) s fun t =>
        t.me.life = .removed ∧ t.me.t.cause = 0x06 ∧ t.me.t.tval = BitVec.ofNat 64 (5 * 2 ^ 56 + n.toNat)) ∧
      (s.me.t.hmode = true → s.me.sq.errs = [] → Completes .halt s fun t =>
        t.me.life = .removed ∧ t.me.t.cause = s.me.t.cause ∧ t.me.t.tval = s.me.t.tval)) ∧
    (s.me.t.hmode = true → s.me.t.kept = none → Completes .eret s fun t =>
      GoesOn { st with halted := st.absent } t.me.s (alignPc s.me.t.epc) s.cc ∧ t.me.t = { s.me.t with hmode := false } ∧
      SameBytes s t ∧ t = { s with me := { s.me with s := t.me.s, t := t.me.t, m := t.me.m, cp := t.me.cp } } ∧
      t.me.cp = { s.me.cp with copies := t.me.cp.copies } ∧ t.me.m = { s.me.m with cur := t.me.m.cur }) ∧
    (∀ k, s.me.t.hmode = true → s.me.t.kept = some k → Completes .eret s fun t =>
      t.me.s.pc = alignPc s.me.t.epc ∧ t.me.t.hmode = false ∧ t.me.t.kept = none ∧ t.me.t.cause = k.cause.setWidth 7 ∧ t.me.t.epc = k.epc ∧ t.me.t.tval = k.tval ∧
      t.me.t.tseqs = k.tseqs ∧ t.me.t.tseqe = k.tseqe ∧ t.me.t.tseqc = k.tseqc ∧ t.me.g = s.me.g ∧ SameBytes s t) ∧
    (CanHandle s → Completes .eret s (TrapEntry s · 0x01 st.restart))

/-- NOP and its kind only go on, PFX prepares the next word, and HALT and the end forms stop their stream (R67, R71, R129, R130, R163, R206,
R232, R256).
The model's own readings that this rests on: log entries 13, 26. -/
def Obligations.NopsPrefixesAndEnds : Prop :=
  ∀ (s : State) (g : BitVec 4) (p : BitVec 1) (e m : BitVec 4) (f : BitVec 12),
    let goes := fun (t : State) => Went s s t (s.strm.pc + 4) ∧ SameBytes s t
    let ends := fun (pc : W64) (t : State) => GoesOn { s.strm with halted := true } t.strm pc s.cc ∧ t = s.setStrm t.strm
    (s.cur.st = .s → Completes .nop s goes) ∧ Completes .vnop s goes ∧ Completes .mnop s goes ∧ Completes .cnop s goes ∧
    Completes .fwait s goes ∧ (s.me.m.cur = none → Completes .mwait s goes ∧ Completes .mwaitEnd s (ends (s.strm.pc + 4))) ∧
    (s.me.m.cur ≠ none → Completes .mwait s (Holds s · 0 0)) ∧
    Completes .fwaitEnd s (ends (s.strm.pc + 4)) ∧
    Completes (.pfx g p e m f) s (fun t =>
      t.strm = { s.strm with pc := s.strm.pc + 4,
                             pfx := some { gslot := g, gpol := p, bexp := e, bman := m, mods := f, addr := s.strm.pc },
                             word := none } ∧
      t = s.setStrm t.strm) ∧
    (s.cur.st = .s → s.me.sq.errs = [] → s.me.t.hmode = false →
      (s.me.sDone = true → Completes .halt s (ends s.strm.pc)) ∧ (s.me.sDone = false → Completes .halt s (Holds s · 0 0)))

/-! ### The V stream (R132 to R165) -/

/-- The floating-point lane instructions, in every enabled lane of every running cluster (R134 to R141, R151, R152).
The model's own readings that this rests on: log entry 22. -/
def Obligations.FloatLanesCompute : Prop :=
  ∀ (s : State) (d a b c gate : BitVec 6) (k : BitVec 3) (f : BitVec 4) (n : BitVec 1), s.cur.st = .v →
    let reg := fun (cl : BitVec 4) (r : BitVec 6) (j : Nat) => (lane ((s.me.v.cluster cl).vreg r) j).toNat
    let el := fun (cl : BitVec 4) (r : BitVec 6) (j : Nat) => reg cl r j % 2 ^ (vFmt f).bits
    let out := fun (r : Nat × Flags) => (BitVec.ofNat 32 r.1, r.2)
    let sign := 2 ^ ((vFmt f).bits - 1)
    let pm := s.vPfxMask
    Completes (.vadd d a b k f) s (LaneOp s d k fun cl j => out (fpAdd (vFmt f) s.vRm (el cl a j) (el cl b j))) ∧
    Completes (.vsub d a b k f) s (LaneOp s d k fun cl j => out (fpSub (vFmt f) s.vRm (el cl a j) (el cl b j))) ∧
    Completes (.vmul d a b k f) s (LaneOp s d k fun cl j => out (fpMul (vFmt f) s.vRm (el cl a j) (el cl b j))) ∧
    Completes (.vmin d a b k f) s (LaneOp s d k fun cl j => out (fpMin (vFmt f) (el cl a j) (el cl b j))) ∧
    Completes (.vmax d a b k f) s (LaneOp s d k fun cl j => out (fpMax (vFmt f) (el cl a j) (el cl b j))) ∧
    Completes (.vabs d a k f) s (LaneOp s d k fun cl j => out (el cl a j % sign, 0)) ∧
    Completes (.vneg d a k f) s (LaneOp s d k fun cl j =>
      out (if el cl a j < sign then el cl a j + sign else el cl a j - sign, 0)) ∧
    Completes (.vfma d a b c n) s (LaneOp s d pm fun cl j =>
      out (fpFma .fp32 s.vRm (n == 1) false (reg cl a j) (reg cl b j) (reg cl c j))) ∧
    Completes (.vfms d a b c n) s (LaneOp s d pm fun cl j =>
      out (fpFma .fp32 s.vRm (n == 1) true (reg cl a j) (reg cl b j) (reg cl c j))) ∧
    Completes (.vcmp d a b k f) s (LaneOp s d k fun cl j =>
      let r := fpCmp f.toNat (reg cl a j) (reg cl b j)
      (if r.1 = true then 0xFFFFFFFF else 0, r.2)) ∧
    Completes (.vsel d a b k) s (LaneOp s d k fun cl j => out (if reg cl d j ≠ 0 then reg cl a j else reg cl b j, 0)) ∧
    Completes (.vcvt d a k f) s (LaneOp s d k fun cl j => vcvtLane f.toNat s.vRm s.vSat (BitVec.ofNat 32 (reg cl a j))) ∧
    Completes (.vrnd d a k) s (LaneOp s d k fun cl j => out (fpRoundInt s.vRm (reg cl a j))) ∧
    Completes (.vfn d a k f) s (LaneOp s d k fun cl j => out (vfn f.toNat (reg cl a j))) ∧
    Completes (.vgate d a b gate) s (LaneOp s d pm fun cl j =>
      let p := vfn (if gate = 0 then 0xA else 0xB) (reg cl a j)
      let r := fpMul .fp32 .rne p.1 (reg cl b j)
      (BitVec.ofNat 32 r.1, p.2 ||| r.2))

/-- The integer lane instructions, in every enabled lane of every running cluster (R41, R142). -/
def Obligations.IntegerLanesCompute : Prop :=
  ∀ (s : State) (d a b : BitVec 6) (k : BitVec 3) (f : BitVec 4), s.cur.st = .v →
    let reg := fun (cl : BitVec 4) (r : BitVec 6) (j : Nat) => lane ((s.me.v.cluster cl).vreg r) j
    let int := fun (w : W32) => if f = 0 then w.toInt else if f = 1 then (w.setWidth 8).toInt else ((w.toNat % 256 : Nat) : Int)
    let fit := fun (x : Int) => IntFit f s.vSat x
    let nat := fun (x : Nat) => (BitVec.ofNat 32 x, (0 : Flags))
    let cond := fun (p : Prop) (_ : Decidable p) => ((if p then 0xFFFFFFFF else 0 : W32), (0 : Flags))
    Completes (.viadd d a b k f) s (LaneOp s d k fun cl j => fit (int (reg cl a j) + int (reg cl b j))) ∧
    Completes (.visub d a b k f) s (LaneOp s d k fun cl j => fit (int (reg cl a j) - int (reg cl b j))) ∧
    Completes (.vimul d a b k f) s (LaneOp s d k fun cl j => fit (int (reg cl a j) * int (reg cl b j))) ∧
    Completes (.vand d a b k) s (LaneOp s d k fun cl j => (reg cl a j &&& reg cl b j, 0)) ∧
    Completes (.vor d a b k) s (LaneOp s d k fun cl j => (reg cl a j ||| reg cl b j, 0)) ∧
    Completes (.vxor d a b k) s (LaneOp s d k fun cl j => (reg cl a j ^^^ reg cl b j, 0)) ∧
    Completes (.vshl d a b k) s (LaneOp s d k fun cl j => nat ((reg cl a j).toNat * 2 ^ ((reg cl b j).toNat % 32))) ∧
    Completes (.vshr d a b k) s (LaneOp s d k fun cl j => nat ((reg cl a j).toNat / 2 ^ ((reg cl b j).toNat % 32))) ∧
    Completes (.vsra d a b k) s (LaneOp s d k fun cl j =>
      (BitVec.ofInt 32 ((reg cl a j).toInt / 2 ^ ((reg cl b j).toNat % 32)), 0)) ∧
    (f = 0 →
      Completes (.vimin d a b k f) s (LaneOp s d k fun cl j =>
        (BitVec.ofInt 32 (min (reg cl a j).toInt (reg cl b j).toInt), 0)) ∧
      Completes (.vimax d a b k f) s (LaneOp s d k fun cl j =>
        (BitVec.ofInt 32 (max (reg cl a j).toInt (reg cl b j).toInt), 0))) ∧
    (f = 1 →
      Completes (.vimin d a b k f) s (LaneOp s d k fun cl j => nat (min (reg cl a j).toNat (reg cl b j).toNat)) ∧
      Completes (.vimax d a b k f) s (LaneOp s d k fun cl j => nat (max (reg cl a j).toNat (reg cl b j).toNat))) ∧
    (∀ p : W32 → W32 → Prop, ∀ dec : ∀ x y, Decidable (p x y),
      (f = 0 ∧ (∀ x y, p x y ↔ x = y)) ∨ (f = 1 ∧ (∀ x y, p x y ↔ x ≠ y)) ∨ (f = 2 ∧ (∀ x y, p x y ↔ x.toInt < y.toInt)) ∨
        (f = 3 ∧ (∀ x y, p x y ↔ y.toInt ≤ x.toInt)) ∨ (f = 4 ∧ (∀ x y, p x y ↔ x.toNat < y.toNat)) ∨
        (f = 5 ∧ (∀ x y, p x y ↔ y.toNat ≤ x.toNat)) →
      Completes (.vicmp d a b k f) s (LaneOp s d k fun cl j => cond (p (reg cl a j) (reg cl b j)) (dec _ _)))

/-- The data movement instructions, the count of a mask, and the mask instructions, which change the selected bits of their
destination alone (R15, R147, R148). -/
def Obligations.LanesMoveAndMasksCombine : Prop :=
  (∀ (s : State) (d a b : BitVec 6) (k m : BitVec 3) (f : BitVec 4) (l : BitVec 8), s.cur.st = .v →
     let reg := fun (cl : BitVec 4) (r : BitVec 6) (j : Nat) => lane ((s.me.v.cluster cl).vreg r) j
     let op := fun (g : BitVec 4 → Nat → W32) => LaneOp s d k fun cl j => (g cl j, 0)
     Completes (.vbcast d a l k) s (op fun cl _ => reg cl a l.toNat) ∧
     Completes (.vmov d a k) s (op fun cl j => reg cl a j) ∧
     Completes (.vperm d a b k) s (op fun cl j => reg cl a ((reg cl b j).toNat % 256)) ∧
     (f = 0 → Completes (.vshuf d a b k f) s (op fun cl j => if j % 2 = 0 then reg cl a (j / 2) else reg cl b ((j - 1) / 2))) ∧
     (f = 1 → Completes (.vshuf d a b k f) s (op fun cl j =>
       if j % 2 = 0 then reg cl a (j / 2 + 128) else reg cl b ((j - 1) / 2 + 128))) ∧
     (f = 2 → Completes (.vshuf d a b k f) s (op fun cl j => if j < 128 then reg cl a (2 * j) else reg cl b (2 * j - 256))) ∧
     (f = 3 → Completes (.vshuf d a b k f) s (op fun cl j =>
       if j < 128 then reg cl a (2 * j + 1) else reg cl b (2 * j - 256 + 1))) ∧
     (f = 4 → Completes (.vshuf d a b k f) s (op fun cl j => reg cl a (255 - j))) ∧
     (s.me.v.forked = false → Completes (.vext d a k f) s (op fun cl j => reg (cl + f) a j)) ∧
     Completes (.vins d a l k) s (op fun cl j => if j = l.toNat then reg cl a 0 else reg cl d j) ∧
     Completes (.vmpop d m k) s (op fun cl _ =>
       BitVec.ofNat 32 ((List.range 256).filter ((s.me.v.cluster cl).mreg m).getLsbD).length) ∧
     (s.me.v.forked = true → CanHandle s → Completes (.vext d a k f) s (TrapEntry s · 0x24 s.strm.pc))) ∧
  (∀ (s : State) (d a b k : BitVec 3) (r : BitVec 6), s.cur.st = .v → d ≠ 0 →
     let bit := fun (cl : BitVec 4) (m : BitVec 3) (j : Nat) => ((s.me.v.cluster cl).mreg m).getLsbD j
     Completes (.vmset d r k 0) s (MaskOp s d k fun cl j => lane ((s.me.v.cluster cl).vreg r) j != 0) ∧
     Completes (.vmset d r k 1) s (MaskOp s d k fun _ _ => true) ∧
     Completes (.vmset d r k 2) s (MaskOp s d k fun _ _ => false) ∧
     Completes (.vmand d a b k) s (MaskOp s d k fun cl j => bit cl a j && bit cl b j) ∧
     Completes (.vmor d a b k) s (MaskOp s d k fun cl j => bit cl a j || bit cl b j) ∧
     Completes (.vmnot d a k) s (MaskOp s d k fun cl j => !bit cl a j) ∧
     ∀ cl j, j < 256 → bit cl 0 j = true)

/-- Reductions, scans, statistics, normalisation and softmax: which lanes they write and what each reads (R149, R150, R153 to
R156), and the random draws (R157).
The model's own readings that this rests on: log entry 30. -/
def Obligations.ReductionsAndStatistics : Prop :=
  ∀ (s : State) (d a b cv : BitVec 6) (k : BitVec 3) (f : BitVec 4), s.cur.st = .v →
    let reg := fun (cl : BitVec 4) (r : BitVec 6) (j : Nat) => (lane ((s.me.v.cluster cl).vreg r) j).toNat
    let on := fun (cl : BitVec 4) => (List.range 256).filter ((s.me.v.cluster cl).mreg k).getLsbD
    let xs := fun (cl : BitVec 4) => (on cl).map (reg cl a)
    let out := fun (r : Nat × Flags) => (BitVec.ofNat 32 r.1, r.2)
    let low := fun (g : BitVec 4 → List Nat × Flags) => LaneOp s d 0 fun cl j =>
      (match (g cl).1[j]? with | some x => BitVec.ofNat 32 x | none => BitVec.ofNat 32 (reg cl d j), (g cl).2)
    let three := fun (r : (Nat × Nat × Nat) × Flags) => ([r.1.1, r.1.2.1, r.1.2.2], r.2)
    let red := fun (g : BitVec 4 → W32 × Flags) => Completes (.vred d a b k f) s (LaneOp s d 0 fun cl _ => g cl)
    (f = 0 → red fun cl => out (chunkSumF32 (xs cl))) ∧ (f = 1 → red fun cl => out (redExtreme true (xs cl))) ∧
    (f = 2 → red fun cl => out (redExtreme false (xs cl))) ∧
    (f = 3 → red fun cl => IntFit 0 s.vSat ((xs cl).map (sintOf 32)).sum) ∧
    (f = 4 → red fun cl => (BitVec.ofInt 32 (((xs cl).map (sintOf 32)).foldl max (-(2 ^ 31))), 0)) ∧
    (f = 5 → red fun cl => (BitVec.ofInt 32 (((xs cl).map (sintOf 32)).foldl min (2 ^ 31 - 1)), 0)) ∧
    (f = 7 → Completes (.vred d a b k f) s (LaneOp s d k fun cl j =>
      out (if j < 128 then treeAdd (reg cl a (2 * j)) (reg cl a (2 * j + 1))
           else treeAdd (reg cl b (2 * j - 256)) (reg cl b (2 * j - 255))))) ∧
    Completes (.vscan d a k f) s (LaneOp s d k fun cl j =>
      let m := ((s.me.v.cluster cl).mreg k).getLsbD
      let upto := (List.range (j + 1)).filter m
      let all := (List.range (j + 1)).map fun i => if m i then reg cl a i else 0
      if f = 0 then out (chunkSumF32 all) else if f = 1 then IntFit 0 s.vSat (all.map (sintOf 32)).sum
      else out (redExtreme (f == 2) (upto.map (reg cl a)))) ∧
    (f = 0 → Completes (.vstat d a b k f) s (low fun cl => three (statChunk (xs cl)))) ∧
    (f ≠ 0 → Completes (.vstat d a b k f) s (low fun cl => three (statMerge (reg cl a 0, 0) (reg cl a 1, 0) (reg cl a 2, 0)
      (reg cl b 0, 0) (reg cl b 1, 0) (reg cl b 2, 0)))) ∧
    (f = 2 → Completes (.vsmax d a b k f) s (low fun _ => ([f32ninf, 0, 0, 0], 0))) ∧
    (f = 0 → Completes (.vsmax d a b k f) s (low fun cl => smaxUpdate (reg cl d 0) (reg cl d 1) (reg cl d 2) (reg cl d 3) (xs cl))) ∧
    (f = 1 → Completes (.vsmax d a b k f) s (low fun cl => smaxMerge (reg cl a 0) (reg cl a 1) (reg cl a 2) (reg cl a 3)
      (reg cl b 0) (reg cl b 1) (reg cl b 2) (reg cl b 3))) ∧
    (f = 0 → Completes (.vnorm d a b k f) s (LaneOp s d k fun cl j =>
      if isZero32 (reg cl b 0) then (0x7FC00000, 1)
      else out (frMul (frSub (reg cl a j, 0) (reg cl b 1, 0))
        (frFn 7 (frAdd (frDiv (reg cl b 2, 0) (reg cl b 0, 0)) (reg cl b 3, 0)))))) ∧
    (f = 1 → Completes (.vnorm d a b k f) s (LaneOp s d k fun cl j =>
      if isZero32 (reg cl b 0) then (0x7FC00000, 1)
      else out (frMul (reg cl a j, 0)
        (frFn 7 (frAdd (frAdd (frDiv (reg cl b 2, 0) (reg cl b 0, 0)) (frMul (reg cl b 1, 0) (reg cl b 1, 0))) (reg cl b 3, 0)))))) ∧
    Completes (.vsmxn d a b k) s (LaneOp s d k fun cl j =>
      out (smxnLane (reg cl b 0) (reg cl b 1) (reg cl b 2) (reg cl b 3) (reg cl a j))) ∧
    Completes (.vrng d a cv k f) s (LaneOp s d k fun cl j =>
      let r := s.me.rn[f.toNat]
      let o := reg cl a 1 * 2 ^ 32 + reg cl a 0
      let w : W32 := (mcg128 r.1 (BitVec.ofNat 128 (r.2.toNat + o + j / 4))).extractLsb' (32 * (j % 4)) 32
      (if cv = 0 then w else if cv = 1 then unifCo w else unifOc w, 0))

/-- VLD reads the vector of each cluster into its enabled lanes; VST stores its enabled lanes, or enabled blocks, in the tile's format
and writes nothing else, with their flags; failing checks trap before any effect, TILE_RANGE at the lowest cluster that fails (R143,
R144, R146). The model's own readings that this rests on: log entry 36. -/
def Obligations.VectorTileAccesses : Prop :=
  ∀ (s : State) (d : BitVec 6) (h : BitVec 8) (o : BitVec 11), s.cur.st = .v →
    let e := s.me.tile h
    let fmt := e.fmt.toNat
    let mk := s.vPfxMask
    let u := fun (k : BitVec 4) => 16 * vecGroup e o + k.toNat
    let inVec := fun (a : Nat) => ∃ k, Runs s k ∧
      ((e.base.toNat + (vecSpan e (u k)).1.1 ≤ a ∧ a < e.base.toNat + (vecSpan e (u k)).1.1 + (vecSpan e (u k)).1.2) ∨
       (e.base.toNat + (vecSpan e (u k)).2.1 ≤ a ∧ a < e.base.toNat + (vecSpan e (u k)).2.1 + (vecSpan e (u k)).2.2))
    let on := fun (k : BitVec 4) (j : Nat) => ((s.me.v.cluster k).mreg mk).getLsbD j
    -- lane j as a scalar format stores it, and block b as a block format does, with their flags
    let stored := fun (k : BitVec 4) (j : Nat) => storeElem fmt s.vRm s.vSat (lane ((s.me.v.cluster k).vreg d) j)
    let coded := fun (k : BitVec 4) (b : Nat) =>
      let xs := (List.range 32).map fun i => (lane ((s.me.v.cluster k).vreg d) (32 * b + i)).toNat
      if fmt = 15 then encodeQ4 (o.toNat / 512) xs else encodeBlock fmt xs
    let desc := fun (i : Instr) => Completes i s (TrapEntry s · 0x18 (h.setWidth 64))
    (vecCheck s h o true = none → e.busy ≠ 255 → s.me.sound → Completes (.vld d h o) s fun t =>
      (fmt < 10 → Lanes s t d mk fun k j => loadElem fmt (s.me.elemAt e.base.toNat fmt (256 * u k + j))) ∧
      (10 ≤ fmt → Lanes s t d mk fun k j =>
        let sp := vecSpan e (u k)
        let n := fmtBits fmt
        BitVec.ofNat 32 (blockElemF32 fmt (s.me.spad.get (e.base.toNat + sp.2.1 + j / 32)).toNat
          (s.me.spad.readLE (e.base.toNat + sp.1.1) (32 * n) / 2 ^ (n * j) % 2 ^ n)).1) ∧
      OnlyV s t [d] ∧ VDid s s.me t 0 (some h) ∧ SameBytes s t) ∧
    (vecCheck s h o false = none → e.busy ≠ 255 → s.me.sound → s.me.spad.wf →
      (10 ≤ fmt → ∀ k, Runs s k → splitBlock ((s.me.v.cluster k).mreg mk) = false) → Completes (.vst d h o) s fun t =>
      (∃ f, VDid s { s.me with spad := t.me.spad, hb := t.me.hb } t f (some h) ∧
        LaneFlags s mk (fun k j => if fmt < 10 then (stored k j).2 else (coded k (j / 32)).2.2) f) ∧
      (∃ l, t.me.hb = { s.me.hb with marks := l }) ∧ OnlyV s t [] ∧ t.me.spad.wf ∧
      (∀ a, ¬ inVec a → t.me.spad.get a = s.me.spad.get a) ∧
      (fmt < 10 → ∀ k, Runs s k → ∀ j, j < 256 → t.me.elemAt e.base.toNat fmt (256 * u k + j) =
        if on k j then (stored k j).1 % 2 ^ fmtBits fmt else s.me.elemAt e.base.toNat fmt (256 * u k + j)) ∧
      (10 ≤ fmt → e.cols ≠ 0 → ∀ k, Runs s k → ∀ b, b < 8 →
        let codes := e.base.toNat + (vecSpan e (u k)).1.1 + 4 * fmtBits fmt * b
        let scale := e.base.toNat + (vecSpan e (u k)).2.1 + b
        (on k (32 * b) = true → t.me.spad.get scale = BitVec.ofNat 8 (coded k b).1 ∧
          t.me.spad.readLE codes (4 * fmtBits fmt) = packNat (fmtBits fmt) (coded k b).2.1 % 2 ^ (32 * fmtBits fmt)) ∧
        (on k (32 * b) = false → t.me.spad.get scale = s.me.spad.get scale ∧
          t.me.spad.readLE codes (4 * fmtBits fmt) = s.me.spad.readLE codes (4 * fmtBits fmt)))) ∧
    (CanHandle s →
      (e.valid = false → Completes (.vld d h o) s (TrapEntry s · 0x16 (h.setWidth 64)) ∧
        Completes (.vst d h o) s (TrapEntry s · 0x16 (h.setWidth 64))) ∧
      (e.valid = true → e.level = 1 ∨ (10 ≤ fmt ∧ e.cols.toNat % 256 ≠ 0) → desc (.vld d h o) ∧ desc (.vst d h o)) ∧
      (e.valid = true → fmt = 15 → o.extractLsb' 9 2 ≠ 0 → desc (.vld d h o)) ∧
      (vecCheck s h o false = none → 10 ≤ fmt → (∃ k, Runs s k ∧ splitBlock ((s.me.v.cluster k).mreg mk) = true) → desc (.vst d h o)) ∧
      (e.valid = true → e.level ≠ 1 → (10 ≤ fmt → e.cols.toNat % 256 = 0) → ∀ k, Runs s k → vecInside e (u k) = false →
        (∀ i : BitVec 4, i.toNat < k.toNat → Runs s i → vecInside e (u i) = true) →
        ((fmt = 15 → o.extractLsb' 9 2 = 0) → Completes (.vld d h o) s (TrapEntry s · 0x1A (k.setWidth 64))) ∧
        Completes (.vst d h o) s (TrapEntry s · 0x1A (k.setWidth 64))))

/-- VLDX and VSTX: a unit of 16 lanes at a time in lockstep, the last one retiring the instruction; every lane at once while forked.
Of the lanes that store to one element the highest of the highest cluster wins (R145, R165).
The model's own readings that this rests on: log entry 31. -/
def Obligations.IndexedAccessesGoByUnits : Prop :=
  ∀ (s : State) (d a b : BitVec 6) (k : BitVec 3), s.cur.st = .v → s.me.sound →
    xCheck s a k (s.xHandles b) = none → (∀ p, p ∈ s.xHandles b → (s.me.tile p.2).busy ≠ 255) →
    let unit := fun (j : Nat) => s.me.v.forked = true ∨ (s.me.piV.toNat ≤ j ∧ j < s.me.piV.toNat + 16)
    let last := s.me.v.forked = true ∨ 240 ≤ s.me.piV.toNat
    let moves := fun (t : State) =>
      (last → GoesOn s.strm t.strm (s.strm.pc + 4) s.cc) ∧ (¬ last → HeldAt s.strm t.strm 0 0) ∧
      (¬ last → t.me.piV = s.me.piV + 16) ∧ (s.me.v.forked = false → last → t.me.piV = 0) ∧
      t.me.g = s.me.g ∧ t.me.cp = s.me.cp ∧ t.mem = s.mem ∧ t.rest = s.rest ∧ t.me.priv = s.me.priv ∧ t.hub = s.hub
    let elem := fun (p : BitVec 4 × BitVec 8) (j : Nat) =>
      s.me.elemAt (s.me.tile p.2).base.toNat (s.me.tile p.2).fmt.toNat (lane ((s.me.v.cluster p.1).vreg a) j).toNat
    (Completes (.vldx d a b k) s fun t => moves t ∧ OnlyV s t [d] ∧ t.me.spad = s.me.spad ∧
      ∀ p, p ∈ s.xHandles b → ∀ j, j < 256 →
        (unit j ∧ ((s.me.v.cluster p.1).mreg k).getLsbD j = true →
          lane ((t.me.v.cluster p.1).vreg d) j = loadElem (s.me.tile p.2).fmt.toNat (elem p j)) ∧
        (¬ (unit j ∧ ((s.me.v.cluster p.1).mreg k).getLsbD j = true) →
          lane ((t.me.v.cluster p.1).vreg d) j = lane ((s.me.v.cluster p.1).vreg d) j)) ∧
    -- the order of R145: of the lanes that name one element the highest wins, and a higher cluster's over a lower one's
    let on := fun (p : BitVec 4 × BitVec 8) (j : Nat) => ((s.me.v.cluster p.1).mreg k).getLsbD j
    let index := fun (p : BitVec 4 × BitVec 8) (j : Nat) => (lane ((s.me.v.cluster p.1).vreg a) j).toNat
    let wins := fun (q : BitVec 4 × BitVec 8) (l : Nat) (p : BitVec 4 × BitVec 8) (j : Nat) =>
      q.2 = p.2 ∧ l < 256 ∧ on q l = true ∧ index q l = index p j ∧
        ((q.1 = p.1 ∧ unit l ∧ j < l) ∨ (p.1.toNat < q.1.toNat ∧ (unit l ∨ l < s.me.piV.toNat)))
    (s.me.spad.wf → Completes (.vstx d a b k) s fun t => moves t ∧ OnlyV s t [] ∧ t.me.spad.wf ∧
      ((s.me.v.forked = true → s.me.piV = 0) →
        (∀ p q, p ∈ s.xHandles b → q ∈ s.xHandles b → p.2 ≠ q.2 →
          (s.me.tile p.2).base.toNat + (s.me.tile p.2).size.toNat ≤ (s.me.tile q.2).base.toNat ∨
          (s.me.tile q.2).base.toNat + (s.me.tile q.2).size.toNat ≤ (s.me.tile p.2).base.toNat) →
        ∀ p, p ∈ s.xHandles b →
          let e := s.me.tile p.2
          let n := e.fmt.toNat
          (∀ j, j < 256 → unit j → on p j = true → (∀ q l, q ∈ s.xHandles b → ¬ wins q l p j) →
            t.me.elemAt e.base.toNat n (index p j) =
              (storeElem n s.vRm s.vSat (lane ((s.me.v.cluster p.1).vreg d) j)).1 % 2 ^ fmtBits n) ∧
          (∀ i, (i + 1) * fmtBits n ≤ 8 * e.size.toNat →
            (∀ q j, q ∈ s.xHandles b → q.2 = p.2 → j < 256 → unit j → on q j = true → index q j = i →
              ∃ r l, r ∈ s.xHandles b ∧ r.2 = q.2 ∧ q.1.toNat < r.1.toNat ∧ l < s.me.piV.toNat ∧ on r l = true ∧ index r l = i) →
            t.me.elemAt e.base.toNat n i = s.me.elemAt e.base.toNat n i)) ∧
      ∀ z, (∀ p, p ∈ s.xHandles b → ∀ j, j < 256 → unit j → ((s.me.v.cluster p.1).mreg k).getLsbD j = true →
          let n := fmtBits (s.me.tile p.2).fmt.toNat
          let i := (lane ((s.me.v.cluster p.1).vreg a) j).toNat
          z < (s.me.tile p.2).base.toNat + i * n / 8 ∨ (s.me.tile p.2).base.toNat + i * n / 8 + (n + 7) / 8 ≤ z) →
        t.me.spad.get z = s.me.spad.get z)

/-- The brick instructions and VX: exact products and dot products of packed elements, a folio's value in each lane, and
FOLIO_ABSENT for a slot that is not resident (R167 to R170, R176, R179, R183).
The model's own readings that this rests on: log entry 32. -/
def Obligations.BricksAndFolios : Prop :=
  ∀ (s : State) (d a b slot : BitVec 6) (x y : BitVec 3) (sg kb : BitVec 1), s.cur.st = .v →
    let reg := fun (cl : BitVec 4) (r : BitVec 6) (j : Nat) => lane ((s.me.v.cluster cl).vreg r) j
    let wa := brickWidth x
    let wb := brickWidth y
    let g := Nat.min (32 / wa) (32 / wb)
    -- element i of a register packed in elements of w bits, 32 / w in a lane
    let el := fun (cl : BitVec 4) (r : BitVec 6) (w i : Nat) =>
      let z := (reg cl r (i / (32 / w))).toNat / 2 ^ (w * (i % (32 / w))) % 2 ^ w
      if sg = 1 ∧ 2 ^ (w - 1) ≤ z then (z : Int) - 2 ^ w else (z : Int)
    let dot := fun (cl : BitVec 4) (j : Nat) =>
      ((List.range g).map fun t => el cl a wa (g * j + t) * el cl b wb (g * j + t)).sum
    let pm := s.vPfxMask
    Completes (.vbdot d a b x y sg) s (LaneOp s d pm fun cl j => IntFit 0 s.vSat (dot cl j)) ∧
    Completes (.vbmac d a b x y sg) s (LaneOp s d pm fun cl j => IntFit 0 s.vSat ((reg cl d j).toInt + dot cl j)) ∧
    (∀ wp, slotWidth x y = some wp → Completes (.vbmul d a b x y sg) s fun t =>
      let q := 32 / wp
      let slots := fun (cl : BitVec 4) (r j : Nat) => BitVec.ofNat 32 (packNat wp ((List.range q).map fun n =>
        let i := 256 * q * r + q * j + n
        if i < 256 * g then (el cl a wa i * el cl b wb i % 2 ^ wp).toNat else 0))
      Lanes s t d pm (fun cl j => slots cl 0 j) ∧ Lanes s t (d + 1) pm (fun cl j => slots cl 1 j) ∧ OnlyV s t [d, d + 1] ∧
      VDid s s.me t 0 none ∧ SameBytes s t) ∧
    (slotWidth x y = none → CanHandle s → Completes (.vbmul d a b x y sg) s (TrapEntry s · 0x22 s.strm.pc)) ∧
    (∀ f, (s.me.slot slot).st = 2 → s.coreFrames.toList.find? (fun f => f.tagged s.me.id slot) = some f →
      (2 ≤ (s.me.slot slot).nin.toNat ∨ b = 0) →
      Completes (.vx d a b slot kb) s (LaneOp (s.useFrame slot) d pm fun cl j =>
        folioLane f.image [reg cl a j, if 2 ≤ (s.me.slot slot).nin.toNat then reg cl b j else 0,
          if (s.me.slot slot).nin = 3 then reg cl d j else 0] kb)) ∧
    ((s.me.slot slot).st ≠ 2 → CanHandle s → Completes (.vx d a b slot kb) s fun t =>
      t.me.t.cause = 0x20 ∧ t.me.t.tval = BitVec.ofNat 64 (slot.toNat + if (s.me.slot slot).st = 0 then 64 else 0) ∧
      t.me.t.hmode = true ∧ t.me.t.epc = s.me.s.restart ∧ t.me.s.pc = alignPc (if s.me.t.fvec ≠ 0 then s.me.t.fvec else s.me.t.tvec) ∧
      (∃ k, t.me.t.kept = some k ∧ k.slot = slot ∧ k.epc = s.me.t.epc ∧ k.tval = s.me.t.tval ∧
        k.cause = s.me.t.cause.setWidth 64) ∧ t.me.g = s.me.g ∧ SameBytes s t)

/-- VFORK and VJOIN, VBR and VLOOP, the sync bits, VFLAGS and the completion of V instructions (R133, R158 to R160, R163). The
model's own readings that this rests on: log entries 14, 26, 29, 103. -/
def Obligations.ClustersForkJoinAndBranch : Prop :=
  ∀ (s : State) (d : BitVec 6) (o : BitVec 19) (n : BitVec 4), s.cur.st = .v →
    let pc := s.strm.pc
    let dst := pc + 4 * o.signExtend 64
    let lead := s.me.v.cluster (if s.me.v.forked then s.cur.cl else 0)
    let taken := fun (x : W32) => if x ≠ 0 then dst else pc + 4
    (s.me.v.forked = false → Completes .vfork s fun t =>
      t.me.v.forked = true ∧ GoesOn s.me.e t.me.e (pc + 4) s.cc ∧
      (∀ k, (t.me.v.cluster k).st = t.me.e ∧ (t.me.v.cluster k).join = none) ∧ OnlyV s t [] ∧
      t = { s with me := { s.me with e := t.me.e, v := { s.me.v with forked := true, cl := t.me.v.cl } } }) ∧
    (s.me.v.forked = true →
      ((∃ k, k ≠ s.cur.cl ∧ (s.me.v.cluster k).join = none) → Completes .vjoin s fun t =>
        t.me.v.forked = true ∧ (t.me.v.cluster s.cur.cl).join = some pc ∧ HeldAt s.strm t.strm 0 0 ∧ OnlyV s t [] ∧
        (∀ k, k ≠ s.cur.cl → t.me.v.cluster k = s.me.v.cluster k)) ∧
      ((∀ k, k ≠ s.cur.cl → (s.me.v.cluster k).join = some pc) → Completes .vjoin s fun t =>
        t.me.v.forked = false ∧ t.me.e.pc = pc + 4 ∧ t.me.e.pfx = none ∧ (∀ k, (t.me.v.cluster k).join = none) ∧ OnlyV s t [] ∧
        (∃ k, t.me.e.seq = (s.me.v.cluster k).st.seq + 1 ∧ ∀ j, (s.me.v.cluster j).st.seq.toNat ≤ (s.me.v.cluster k).st.seq.toNat) ∧
        t = { s with me := { s.me with e := t.me.e, v := { s.me.v with forked := false, cl := t.me.v.cl } } }) ∧
      (∀ p, s.cur.cl ≠ 0 → (s.me.v.cluster 0).join = some p → p ≠ pc → (∀ k, k ≠ s.cur.cl → (s.me.v.cluster k).join.isSome) →
        CanHandle s → Completes .vjoin s (TrapEntry s · 0x24 p))) ∧
    (CanHandle s → (s.me.v.forked = true → Completes .vfork s (TrapEntry s · 0x24 s.strm.pc)) ∧
      (s.me.v.forked = false → Completes .vjoin s (TrapEntry s · 0x24 s.strm.pc))) ∧
    Completes (.vbr d o) s (fun t => VWent s t (taken (lane (lead.vreg d) 0)) ∧ OnlyV s t []) ∧
    Completes (.vloop d o) s (fun t => VWent s t (taken (lane (lead.vreg d) 0 - 1)) ∧ OnlyV s t [d] ∧
      ∀ k, Runs s k → ∀ j, j < 256 → lane ((t.me.v.cluster k).vreg d) j =
        if j = 0 then lane ((s.me.v.cluster k).vreg d) 0 - 1 else lane ((s.me.v.cluster k).vreg d) j) ∧
    (let sync := fun (v : Bool) (t : State) =>
      (∀ i, i < 16 → t.me.v.y.getLsbD i = if i = n.toNat then v else s.me.v.y.getLsbD i) ∧
      ∃ d, Woken { s.me with v := { s.me.v with y := t.me.v.y } } d ∧ (v = false → d = { s.me with v := { s.me.v with y := t.me.v.y } }) ∧
        Went s { s with me := d } t (pc + 4) ∧ SameBytes s t
     Completes (.vsyb n) s (sync true) ∧
     (s.lateWait = none → s.me.v.y.getLsbD n.toNat = true → lowerWaits s = false → Completes (.vsyw n) s (sync false)) ∧
     (s.lateWait = none → s.me.v.y.getLsbD n.toNat = false ∨ lowerWaits s = true → Completes (.vsyw n) s (Holds s · 6 n.toNat))) ∧
    (s.me.v.pend = [] → Completes (.vflags d) s fun t =>
      VWent s t (pc + 4) ∧ Lanes s t d s.vPfxMask (fun _ _ => s.me.nflags) ∧ OnlyV s t [d]) ∧
    (s.me.v.pend ≠ [] → Completes (.vflags d) s (Holds s · 0 0)) ∧
    (∀ p rest, s.me.v.pend = p :: rest → Completes .vInstructionCompletion s fun t =>
      t.me.nflags = s.me.nflags ||| p.flags ∧ t.me.v.pend = rest ∧ OnlyV s t [] ∧
      (∀ h, p.handle = some h → (t.me.tile h).busy = (if (s.me.tile h).busy = 0 then 0 else (s.me.tile h).busy - 1)) ∧
      (∀ h, p.handle ≠ some h → t.me.tile h = s.me.tile h) ∧ SameBytes s t ∧
      t = { s with me := { s.me with nflags := t.me.nflags, raised := t.me.raised, tiles := t.me.tiles, e := t.me.e,
                                     v := { s.me.v with pend := rest, cl := t.me.v.cl } } })

/-! ### The M stream (R190 to R209) -/

/-- The configuration instructions set the shadow nest, the format, the accumulator mode and the split, MWSW exchanges the banks,
and each waits for an instruction in progress (R191, R193, R197, R198, R200, R201). The model's own readings that this rests
on: log entries 13, 26, 110. -/
def Obligations.MatrixConfigurationIsSet : Prop :=
  ∀ (s : State) (l : BitVec 3) (q mode n t : BitVec 2) (x : BitVec 1) (f depth : BitVec 4) (v : BitVec 20),
    let m := s.me.m
    let free := m.cur = none
    let sets := fun (p : MState → Prop) (u : State) =>
      p u.me.m ∧ Went s { s with me := { s.me with m := u.me.m } } u (s.strm.pc + 4) ∧ SameBytes s u
    let lv := fun (k : MState) (i : Nat) => k.shadowNest.toArray.getD i {}
    let nest := fun (e : NestLv) => sets fun k =>
      (∀ i, i < 6 → lv k i = if i = l.toNat then e else lv m i) ∧ k = { m with shadowNest := k.shadowNest }
    let old := lv m l.toNat
    (free →
      (l.toNat < 6 →
        Completes (.mnest l 0 v) s (nest { old with count := v.setWidth 32 }) ∧
        Completes (.mnest l 1 v) s (nest { old with sa := v.signExtend 32 }) ∧
        Completes (.mnest l 2 v) s (nest { old with su := v.signExtend 32 }) ∧
        Completes (.mnest l 3 v) s (nest { old with sw := v.signExtend 32 })) ∧
      Completes (.mfmt x t f) s (sets fun k => k = { m with fmt := f, qt := t, x3 := x }) ∧
      (∀ arm : Bool, (n = 1 → arm = true) → (n = 2 → arm = false) → (n ≠ 1 → n ≠ 2 → arm = m.arm) →
        Completes (.macc n depth mode) s (sets fun k => k = { m with mode := mode, depth := depth, arm := arm })) ∧
      Completes (.msplit v) s (sets fun k => k = { m with j := v }) ∧
      (m.shadow.loaded = true → Completes .mwsw s (sets fun k => k = { m with active := m.shadow, shadow := m.active })) ∧
      (m.shadow.loaded = false → CanHandle s → Completes .mwsw s (TrapEntry s · 0x33 s.strm.pc))) ∧
    (¬ free → ∀ i, i ∈ [.mnest l q v, .mfmt x t f, .macc n depth mode, .msplit v, .mwsw] → Completes i s (Holds s · 0 0))

/-- The long matrix instructions leave their queue head once their checks hold: they are in progress and keep their handles busy;
the stream form of MWLD holds there until a CWST pairs with it, which captures the active code table; a failing check traps
(R191, R196, R199, R201, R204, R222, R308). The model's own readings that this rests on: log entries 13, 26, 36, 106, 110. -/
def Obligations.LongMatrixInstructionsBegin : Prop :=
  ∀ (s : State) (a b h : BitVec 8) (n f : BitVec 4) (rows : BitVec 16), s.me.m.cur = none →
    let p := s.me.cp.a[n.toNat]
    let begins := fun (i : Instr) (hs : List (BitVec 8)) (base : W64) (fetched copies : Bool) =>
      hs.Nodup → (∀ k, k ∈ hs → (s.me.tile k).busy ≠ 255) → Completes i s fun t =>
        (∃ c, t.me.m.cur = some c ∧ c.i = i ∧ c.seq = s.strm.seq ∧ c.addr = s.strm.restart ∧ c.fetched = fetched ∧ c.base = base ∧
          c.bound = boundOf s.strm.pfx ∧ c.pair = none ∧ c.pages = [] ∧ c.put = 0) ∧
        t.me.m = { s.me.m with cur := t.me.m.cur, activeNest := if copies then s.me.m.shadowNest else s.me.m.activeNest } ∧
        (∀ k, t.me.tile k = if k ∈ hs then { s.me.tile k with busy := (s.me.tile k).busy + 1 } else s.me.tile k) ∧
        Went s { s with me := { s.me with m := t.me.m, tiles := t.me.tiles } } t (s.strm.pc + 4) ∧ SameBytes s t
    let traps := fun (i : Instr) (e : BitVec 7 × W64) => CanHandle s → e.1 ≠ 0x20 → Completes i s (TrapEntry s · e.1 e.2)
    let w := s.strm.pc
    let nested := { s.me with m := { s.me.m with activeNest := s.me.m.shadowNest } }
    (mwldCheck s.me h f = none → begins (.mwld h f) [h] 0 true false ∧
      (fetchCheck s.me n = none → begins (.mwldF h n f) [h] p false false)) ∧
    (isWeightFmt f = true → Completes (.mwldS f) s fun t =>
      HeldAt s.strm t.strm 0 0 ∧ t = ({ s with me := { s.me with m := { s.me.m with want := some f } } }).setStrm t.strm ∧
      SameBytes s t) ∧
    (∀ k l, s.me.cp.copies = k :: l → (∃ z q, k.i = .cwst z q) → s.me.m.want = some f → canIssue s .c = true →
      k.expired s.me.runCc = false →
      (((k.op 1).extractLsb' 0 16).toNat ≤ weightLimit f.toNat → Completes .cwstPairing s fun t =>
        (∃ c, t.me.m = { s.me.m with cur := some c, want := none } ∧ c.i = .mwldS f ∧ c.seq = s.me.e.seq ∧ c.addr = s.me.e.restart ∧
          c.bound = boundOf s.me.e.pfx ∧ c.fetched = true ∧ c.pair = some k.seq) ∧
        GoesOn s.me.e t.me.e (s.me.e.pc + 4) s.cc ∧
        (∃ y, t.me.cp.copies = y :: l ∧ y.seq = k.seq ∧ y.i = k.i ∧ y.ops = k.ops ∧
          (k.table = [] → y.table = (if s.me.cp.shadowWritten then s.me.cp.shadowTab else s.me.cp.activeTab).toList ∧
            t.me.cp.activeTab.toList = y.table ∧ t.me.cp.shadowWritten = false)) ∧
        t = { s with me := { s.me with e := t.me.e, m := t.me.m, cp := t.me.cp } } ∧ SameBytes s t) ∧
      (weightLimit f.toNat < ((k.op 1).extractLsb' 0 16).toNat → CanHandle { s with cur := { s.cur with st := .m } } →
        Completes .cwstPairing s fun t => t.me.t.cause = 0x31 ∧ t.me.t.tval = s.me.e.pc ∧ t.me.t.hmode = true ∧
          t.me.s.pc = alignPc s.me.t.tvec)) ∧
    (mgoCheck nested a b w = none → begins (.mgo a b) [a, b] 0 true true ∧
      (fetchCheck s.me n = none → begins (.mgoF a b n) [a, b] p false true)) ∧
    (mqCheck s.me rows h w = none → begins (.mqOpen rows h) [h] 0 true false ∧ begins (.mqClose rows h) [h] 0 true false) ∧
    (∀ e, mwldCheck s.me h f = some e → traps (.mwld h f) e ∧ traps (.mwldF h n f) e) ∧
    (isWeightFmt f = false → traps (.mwldS f) (0x32, 0)) ∧
    (∀ e, mgoCheck nested a b w = some e → traps (.mgo a b) e ∧ traps (.mgoF a b n) e) ∧
    (∀ e, mqCheck s.me rows h w = some e → traps (.mqOpen rows h) e ∧ traps (.mqClose rows h) e) ∧
    (∀ e, mwldCheck s.me h f = none → fetchCheck s.me n = some e → traps (.mwldF h n f) e)

/-- A bank load fills the shadow bank from its tile or from the decompressed weight stream, a step of the nest overwrites,
accumulates or climbs its tree in the accumulator tile with the flags of its columns, the first NaN under an armed detector
traps before any write, MQ open clears a count and MQ close fills its logical row up, and a finished operand fetch fills its
tile (R196, R199 to R201, R204, R205, R222). The model's own readings that this rests on: log entries 8, 38, 44, 102, 108. -/
def Obligations.MatrixInstructionsProgress : Prop :=
  ∀ (s : State) (c : MCur) (a b h : BitVec 8) (n f : BitVec 4) (rows : BitVec 16), s.mRuns = true → s.me.sound →
    s.me.m.cur = some c → s.me.spad.wf →
    let e := s.me.tile h
    let len := e.rows.toNat * weightRowBytes f.toNat
    let m := s.me.m
    let drops := fun (hs : List (BitVec 8)) (t : State) => hs.Nodup → ∀ k, t.me.tile k =
      if k ∈ hs then { s.me.tile k with busy := (if (s.me.tile k).busy = 0 then 0 else (s.me.tile k).busy - 1) } else s.me.tile k
    let same := fun (t : State) => t.me.g = s.me.g ∧ t.me.cp = s.me.cp ∧ t.me.priv = s.me.priv ∧ t.mem = s.mem ∧ t.rest = s.rest ∧
      t.me.m.shadowNest = m.shadowNest ∧ t.me.m.j = m.j ∧ t.me.m.mode = m.mode ∧ t.me.m.arm = m.arm
    let nan := fun (x : Nat) => (FFmt.fp32.decode x).isNan
    let traps := Handles s ∧ s.sSettled = true ∧ s.me.copyUnder = false
    -- TVAL of a first NaN or a split error: the chunk, the logical row and the column (R205, R207)
    let report := fun (x u col : Nat) =>
      BitVec.ofNat 64 (x % 2 ^ 20 * 2 ^ 44 + u % 2 ^ 16 * 2 ^ 28 + col % 2 ^ 13 * 2 ^ 15 + x / 2 ^ 20 % 2 ^ 15)
    (c.i = .mwld h f ∨ (c.i = .mwldF h n f ∧ c.fetched = true) → Completes .mwldComplete s fun t =>
      t.me.m.cur = none ∧ t.me.m.shadow.loaded = true ∧ t.me.m.shadow.fmt = f ∧ t.me.m.active = m.active ∧
      t.me.m.shadow.nw = BitVec.ofNat 14 e.rows.toNat ∧ t.me.piM = 0 ∧
      (∀ x, x < len → t.me.m.shadow.bytes.get x = s.me.spad.get (e.base.toNat + x)) ∧ drops [h] t ∧ t.me.spad = s.me.spad ∧ same t) ∧
    (∀ k p z q bs data o s2, c.i = .mwldS f → c.pair = some p → s.me.cp.copies = [k] → k.i = .cwst z q → k.handles = [] →
      s.copyStarts k = true →
      let nw := ((k.op 1).extractLsb' 0 16).toNat
      let out := nw * weightRowBytes f.toNat
      s.cpGlobRead k.pages k.streamCache ((k.op 0).toNat + k.got.length) (k.streamLen - k.got.length) (k.got.length = 0) = .ok (bs, none, s2) →
      s2.me = s.me → k.got ++ bs = data.map some → decompress k.table data 0 0 0 out [] = .ok o →
      Completes .mwldComplete s fun t =>
        t.me.m.cur = none ∧ t.me.m.shadow.loaded = true ∧ t.me.m.shadow.fmt = f ∧ t.me.m.shadow.nw = BitVec.ofNat 14 nw ∧
        (∀ x, x < out → t.me.m.shadow.bytes.get x = o.reverse.getD x 0) ∧ t.me.m.active = m.active ∧ t.me.cp.copies = [] ∧
        t.me.cp.sb[q.toNat] = s.me.cp.sb[q.toNat] - 1 ∧ t.me.spad = s.me.spad ∧ t.me.g = s.me.g) ∧
    (c.i = .mgo a b ∨ (c.i = .mgoF a b n ∧ c.fetched = true) → c.fetched = true →
      let nest := m.activeNest.toList
      let step := s.me.piM.toNat
      let ta := s.me.tile a
      let tb := s.me.tile b
      let u := (nestIndex (·.su) nest step).toNat
      let w := (nestIndex (·.sw) nest step).toNat
      let d := m.depth.toNat
      let nw := m.active.nw.toNat
      let blocks := recBlocks m (s.me.spad.read (ta.base.toNat + recBytes m.planes * (nestIndex (·.sa) nest step).toNat) (recBytes m.planes))
      let v := fun (col : Nat) => chunkValue blocks m.active col
      let acc := fun (row col : Nat) => s.me.accGet tb row col
      let raises := fun (fl : Nat → Flags) (t : State) =>
        ∀ i, t.me.nflags.getLsbD i = (s.me.nflags.getLsbD i || (List.range nw).any fun col => (fl col).getLsbD i)
      let goesOn := fun (t : State) =>
        (step + 1 < nestTotal m.activeNest → step + 1 < 2 ^ 32 → t.me.piM = s.me.piM + 1 ∧ t.me.m.cur = some c) ∧
        (nestTotal m.activeNest ≤ step + 1 → step + 1 < 2 ^ 32 → t.me.m.cur = none ∧ t.me.piM = 0 ∧ drops [a, b] t) ∧ same t
      let row := fun (r : Nat) (val : Nat → Nat × Flags) => (m.arm = false ∨ ∀ col, col < nw → nan (val col).1 = false) →
        Completes .mgoStep s fun t =>
          (∀ col, col < nw → t.me.accGet tb r col = (val col).1 % 2 ^ 32) ∧ raises (fun col => (val col).2) t ∧
          (∀ z, (z < accAt tb r 0 ∨ accAt tb r nw ≤ z) → t.me.spad.get z = s.me.spad.get z) ∧ goesOn t
      let sum := fun (col : Nat) => let r := treeAdd (acc u col) (v col).1; (r.1, (v col).2 ||| r.2)
      let caught := fun (x : Nat) (val : Nat → Nat × Flags) => ∀ col, m.arm = true → col < nw → nan (val col).1 = true →
        (∀ k, k < col → nan (val k).1 = false) → traps → Completes .mgoStep s fun t =>
          TrapEntry s t 0x30 (report x u col) ∧ t.me.m.arm = false
      (m.mode = 0 → row u v ∧ caught w v) ∧ (m.mode = 1 → row u sum ∧ caught w sum) ∧
      (m.mode = 2 → let r0 := u * (d + 2); let cnt := acc (r0 + d + 1) 0
        -- the leaf's number is the count of its logical row
        cnt = w → cnt < 2 ^ d → nw ≤ tb.cols.toNat →
        let top := climbs d cnt
        let val := leafVal d cnt (fun l col => acc (r0 + l) col) v
        caught (m.j.toNat * 2 ^ d + w) val ∧
        ((m.arm = false ∨ ∀ col, col < nw → nan (val col).1 = false) → Completes .mgoStep s fun t =>
          (∀ col, col < nw → t.me.accGet tb (r0 + top) col = (val col).1 % 2 ^ 32) ∧ t.me.accGet tb (r0 + d + 1) 0 = cnt + 1 ∧
          raises (fun col => (val col).2) t ∧
          (∀ z, (z < accAt tb (r0 + top) 0 ∨ accAt tb (r0 + top) nw ≤ z) → (z < accAt tb (r0 + d + 1) 0 ∨ accAt tb (r0 + d + 1) 1 ≤ z) →
            t.me.spad.get z = s.me.spad.get z) ∧ goesOn t)) ∧
      (m.mode = 2 → acc (u * (d + 2) + d + 1) 0 ≠ w ∨ 2 ^ d ≤ acc (u * (d + 2) + d + 1) 0 → traps →
        Completes .mgoStep s (TrapEntry s · 0x34 (report (m.j.toNat * 2 ^ d + w) u 0)))) ∧
    (let u := s.me.piM.toNat
     let r0 := u * (m.depth.toNat + 2)
     let full := 2 ^ m.depth.toNat
     let cntRow := r0 + m.depth.toNat + 1
     let cnt := s.me.accGet e cntRow 0
     let nexts := fun (t : State) =>
       (rows.toNat ≤ u + 1 → t.me.m.cur = none ∧ drops [h] t) ∧ (u + 1 < rows.toNat → t.me.piM = s.me.piM + 1) ∧ same t
     (c.i = .mqOpen rows h → Completes .mqRow s fun t => t.me.accGet e cntRow 0 = 0 ∧
       (∀ z, (z < accAt e cntRow 0 ∨ accAt e cntRow 1 ≤ z) → t.me.spad.get z = s.me.spad.get z) ∧ nexts t) ∧
     let d := m.depth.toNat
     let nw := if m.active.loaded then m.active.nw.toNat else 0
     -- the pending nodes of the logical row once k of the missing leaves are in, and leaf k of them as it is about to be written
     let node := fun (l col : Nat) => s.me.accGet e (r0 + l) col
     let nodes := fun (k : Nat) => padRows d nw k cnt node
     let leaf := fun (k col : Nat) => leafVal d (cnt + k) (nodes k) (fun _ => (0, 0)) col
     let clean := fun (k : Nat) => m.arm = false ∨ ∀ i, i < k → ∀ col, col < nw → nan (leaf i col).1 = false
     let fed := fun (k : Nat) (t : State) =>
       t.me.accGet e cntRow 0 = cnt + k ∧ (∀ l, l ≤ d → ∀ col, col < e.cols.toNat → t.me.accGet e (r0 + l) col = nodes k l col) ∧
       (∀ b, t.me.nflags.getLsbD b =
         (s.me.nflags.getLsbD b || (List.range k).any fun i => (List.range nw).any fun col => (leaf i col).2.getLsbD b)) ∧
       ∀ z, (z < accAt e r0 0 ∨ accAt e cntRow 1 ≤ z) → t.me.spad.get z = s.me.spad.get z
     (c.i = .mqClose rows h → 0 < e.cols.toNat → nw ≤ e.cols.toNat →
       (cnt < full → clean (full - cnt) → Completes .mqRow s fun t => fed (full - cnt) t ∧ nexts t) ∧
       (full ≤ cnt → Completes .mqRow s fun t => t.me.spad = s.me.spad ∧ t.me.nflags = s.me.nflags ∧ nexts t) ∧
       (∀ k col, cnt + k < full → s.me.v.pend = [] → clean k → m.arm = true → col < nw → nan (leaf k col).1 = true →
         (∀ i, i < col → nan (leaf k i).1 = false) → traps → Completes .mqRow s fun t =>
           t.me.t.cause = 0x30 ∧ t.me.t.tval = report (m.j.toNat * full + (cnt + k)) u col ∧ t.me.t.hmode = true ∧
           t.me.s.pc = alignPc s.me.t.tvec ∧ t.me.m.arm = false ∧ t.me.piM = s.me.piM ∧ fed k t))) ∧
    (∀ pages s1 bs s2, (c.i = .mwldF h n f ∨ c.i = .mgoF h b n) → c.fetched = false → c.pages = [] → c.put = 0 → c.base.toNat + e.size.toNat ≤ 2 ^ 56 →
      captures (instOf s.me.id) false (pageSegs c.base.toNat e.size.toNat) [] s = .ok pages s1 →
      s1.cpGlobRead pages c.cache c.base.toNat e.size.toNat true = .ok (bs, none, s2) → s2.me = s.me → bs.length = e.size.toNat →
      bs.all Option.isSome = true →
      Completes .operandFetchComplete s fun t =>
        t.me.m.cur = some { c with pages := pages, put := e.size.toNat, fetched := true } ∧
        (∀ x, x < e.size.toNat → some (t.me.spad.get (e.base.toNat + x)) = bs.getD x none) ∧
        (∀ z, (z < e.base.toNat ∨ e.base.toNat + e.size.toNat ≤ z) → t.me.spad.get z = s.me.spad.get z) ∧ t.me.g = s.me.g)

/-! ### The C stream (R211 to R234) -/

/-- CLA and CADD write one address register; CWAITM and CFENCE wait for copies and raise their pending errors (R211, R215, R232).
The model's own readings that this rests on: log entries 16, 26. -/
def Obligations.AddressRegistersAndCopyWaits : Prop :=
  ∀ (s : State) (d r : BitVec 4) (k : BitVec 2) (v : BitVec 16) (i : BitVec 20) (m : BitVec 8) (sc : BitVec 3),
    let sets := fun (p : W64 → Prop) (t : State) =>
      p (t.me.ar d) ∧ (∀ x, x ≠ d → t.me.ar x = s.me.ar x) ∧
      Went s { s with me := { s.me with cp := { s.me.cp with a := t.me.cp.a } } } t (s.strm.pc + 4) ∧ SameBytes s t
    let goes := fun (t : State) => Went s s t (s.strm.pc + 4) ∧ SameBytes s t
    let clear := ∀ n : BitVec 3, m.getLsbD n.toNat = true → s.me.cp.sb[n.toNat] = 0
    let raises := fun (e : CErr) (t : State) =>
      TrapEntry s t e.cause (BitVec.ofNat 64 (e.seq.toNat % 2 ^ 32 * 2 ^ 32 + e.val.toNat)) ∧ t.me.cp.errs = s.me.cp.errs.erase e
    (k = 0 → Completes (.cla d k v) s (sets fun x => x = v.setWidth 64)) ∧
    (k ≠ 0 → Completes (.cla d k v) s (sets fun x =>
      ∀ j, j < 4 → x.extractLsb' (16 * j) 16 = if j = k.toNat then v else (s.me.ar d).extractLsb' (16 * j) 16)) ∧
    Completes (.cadd d i) s (sets fun x => x = s.me.ar d + i.signExtend 64) ∧
    Completes (.caddReg d r) s (sets fun x => x = s.me.ar d + s.me.ar r) ∧
    (s.lateWait = none →
      (clear → (∀ e, e ∈ s.me.cp.errs → m.getLsbD e.sb.toNat = false) → Completes (.cwaitm m) s goes) ∧
      (¬ clear → Completes (.cwaitm m) s (Holds s · 5 m.toNat)) ∧
      (clear → CanHandle s → ∀ e, s.me.cp.errs.find? (fun e => m.getLsbD e.sb.toNat) = some e → e.cause ≠ 0x20 →
        Completes (.cwaitm m) s (raises e))) ∧
    (s.me.cp.copies ≠ [] → Completes (.cfence sc) s (Holds s · 0 0)) ∧
    (s.me.cp.copies = [] → s.me.cp.errs = [] → sc ≠ 4 → Completes (.cfence sc) s goes) ∧
    (s.me.cp.copies = [] → s.me.cp.errs = [] → sc = 4 → Completes (.cfence sc) s fun t =>
      GoesOn s.strm t.strm (s.strm.pc + 4) s.cc ∧ SameBytes s t ∧
      let covered := fun (p : Agent × Nat) => (p.1 = (s.me.id, 3) ∧ p.2 < s.me.hb.copied) ∨ p.2 < s.me.hb.c.bound p.1
      (∀ l ∈ t.sram, (∃ p ∈ l.who, covered p) → l.dirty = false) ∧
      (∀ l ∈ s.sram, (∃ p ∈ l.who, covered p) → l.dirty = true → { l with dirty := false, old := [], who := [] } ∈ t.sram) ∧
      (∀ l ∈ s.sram, (¬ ∃ p ∈ l.who, covered p) → l ∈ t.sram)) ∧
    (s.me.cp.copies = [] → CanHandle s → ∀ e l, s.me.cp.errs = e :: l → e.cause ≠ 0x20 → Completes (.cfence sc) s (raises e))

/-- A copy whose checks and translations hold issues: it joins the copy engine's queue with its operands, its scoreboard token and
its handles count it, and it has written nothing yet; a CXFER that is the oldest copy leaves for its target in the time of
R225, or finds no way to it (R18, R22, R212, R215 to R219, R221 to R226, R229 to R231, R348). The model's own readings that
this rests on: log entries 17, 41, 43, 49, 101, 112. -/
def Obligations.CopiesIssue : Prop :=
  ∀ (s : State) (a b c : BitVec 4) (q : BitVec 3) (h sl : BitVec 8) (x tt : BitVec 1) (l : BitVec 4) (o : BitVec 2),
    s.cur.st = .c → s.me.cp.copies.length < 32 → s.mem.wf → (∀ k, (s.me.tile k).busy ≠ 255) → s.me.cp.sb[q.toNat] ≠ 65535 →
    let i := instOf s.me.id
    let ar := s.me.ar
    let e := s.me.tile h
    let joins := fun (j : Instr) (ops : List W64) (hs : List (BitVec 8)) (sent : Bool) (t : State) =>
      (∃ k, t.me.cp.copies = s.me.cp.copies ++ [k] ∧ k.i = j ∧ k.seq = s.strm.seq ∧ k.addr = s.strm.restart ∧ k.ops = ops ∧
        k.handles = hs ∧ k.bound = boundOf s.strm.pfx ∧ k.scope = mScope s.me s.strm ∧ k.order = mOrder s.me s.strm ∧
        k.cache = mCache s.me s.strm ∧ k.take = s.me.take ∧ k.issueCc = s.cc ∧ k.got = [] ∧ k.put = 0 ∧ k.sent = sent) ∧
      (∀ n : BitVec 3, t.me.cp.sb[n.toNat] = if n = q then s.me.cp.sb[n.toNat] + 1 else s.me.cp.sb[n.toNat]) ∧
      (∀ k, t.me.tile k = if k ∈ hs then { s.me.tile k with busy := (s.me.tile k).busy + 1 } else s.me.tile k) ∧
      GoesOn s.strm t.strm (s.strm.pc + 4) s.cc ∧ NothingWritten s t ∧ t.me.cp.a = s.me.cp.a ∧ t.me.g = s.me.g ∧
      t.me.tok = s.me.tok ∧ t.me.v = s.me.v ∧ t.me.m = s.me.m ∧ t.rest = s.rest ∧ ErrorsNoted s t
    let issues := fun (j : Instr) (ops : List W64) (hs : List (BitVec 8)) => Completes j s (joins j ops hs false)
    let four := [ar a, ar (a + 1), ar (a + 2), ar (a + 3)]
    let d := descOf four
    let maps := fun (wr : Bool) (segs : List (Nat × Nat)) => ∃ p u, captures i wr segs [] s = .ok p u
    (descCheck s.me a h sl none d.len d.len = none → maps false (d.segs d.len) → issues (.ccpy a q h sl 0) four [h]) ∧
    (let tl := trRow e sl.toNat
     (e.level = 1 ∧ (sl = 0 ∨ e.fmt = 0xF) ∧ e.cols.toNat % 256 = 0 ∧ d.len = trLen e ∧ d.toff % tl = 0) →
      descCheck s.me a h 0 none d.len tl = none → maps false (d.segs d.len) → issues (.ccpy a q h sl 1) four [h]) ∧
    (descCheck s.me a h sl none d.len d.len = none → maps true (d.segs d.len) → issues (.ccpyOut a q h sl 0) four [h]) ∧
    (∀ eb, sparseWidth e = some eb → d.len % (8 * eb) = 0 → descCheck s.me a h sl none (sparseRow d.len eb) d.len = none →
      maps false (d.segs (sparseRow d.len eb)) → issues (.ccpys a q h sl) four [h]) ∧
    (let p := ar a
     let r := ar (a + 1)
     let n := r.toNat / 2 ^ 32
     (a.toNat ≤ 14 → n ≠ 0 → r.extractLsb' 0 16 ≠ 0 → r.extractLsb' 16 16 = 0 → p.toNat + n ≤ 2 ^ 56 →
      maps false (pageSegs p.toNat n) → issues (.cwst a q) [p, r] [])) ∧
    (e.valid = true → 1024 ≤ e.size.toNat → s.me.cp.copies = [] → s.me.sound →
      (∀ n, n < 256 → codeOk (BitVec.ofNat 32 (s.me.spad.readLE (e.base.toNat + 4 * n) 4)) = true) → issues (.ctab q h) [] [h]) ∧
    (let base := ar a
     let idx := ar b
     let g := gathOf (ar c) (ar (c + 1)) (ar (c + 2))
     ∀ pages s1 bs s2 tab, gathCheck s a b c h = none → s.me.cp.copies = [] → captures i false (endSegs idx (4 * g.n)) [] s = .ok pages s1 →
      s1.endRead pages (mCache s.me s.strm) s.cc (ptrEnd s.me idx) 0 (4 * g.n) = .ok (bs, none, s2) →
      tab = ((List.range g.n).map fun k => BitVec.ofNat 32 (leNat ((List.range 4).map fun j => (bs.getD (4 * k + j) none).getD 0))) →
      (∀ y, y ∈ tab → y = padIndex ∨ (y.toNat < g.nrows ∧ base.toNat + y.toNat * g.stride + g.len ≤ 2 ^ 56)) →
      let segs := (tab.filter (· ≠ padIndex)).flatMap fun y => pageSegs (base.toNat + y.toNat * g.stride) g.len
      let ops := [base, idx, ar c, ar (c + 1), ar (c + 2)]
      let issuesRows := fun (j : Instr) => Completes j s fun t => joins j ops (h :: endHandles idx) false t ∧
        ∃ k ∈ t.me.cp.copies, k.seq = s.strm.seq ∧ k.table = tab
      ((∃ p u, captures i false segs [] s2 = .ok p u) → issuesRows (.cgath a b c q h)) ∧
      ((∃ p u, captures i true segs [] s2 = .ok p u) → issuesRows (.cscat a b c q h))) ∧
    (let p := ar a
     let r := ar (a + 1)
     let n := (r.extractLsb' 40 24).toNat
     let dst := ctxIdOf i (p.extractLsb' 44 12).toNat
     let sk := s.socketOf dst
     (e.valid = true → n ≠ 0 → r.extractLsb' 32 8 = 0 → (r.extractLsb' 0 32).toNat + n ≤ e.size.toNat → ptrTag p = 10 →
      ptrCheck1 p = true → ptrCheck2 s (s.me.headed s.strm) p = true →
      let starts := s.me.cp.copies = [] ∧ canIssue s .c = true ∧ boundExpired s.me s.strm = false
      (s.me.cp.copies ≠ [] → issues (.cxfer a q h) [p, r] [h]) ∧
      (s.me.life = .running → canIssue s .c = false ∨ boundExpired s.me s.strm = true → issues (.cxfer a q h) [p, r] [h]) ∧
      (starts → s.noWay dst = none → Completes (.cxfer a q h) s fun t =>
        joins (.cxfer a q h) [p, r] [h] true t ∧
        t.xfers = s.xfers ++ [
          { src := s.me.id, seq := s.strm.seq, dst := dst, h := p.extractLsb' 36 8, off := (p.extractLsb' 0 32).toNat,
            bytes := [], first := s.cc + latency s.hub (s.socketOf s.me.id) sk,
            due := s.cc + latency s.hub (s.socketOf s.me.id) sk + (n + 191) / 192 }]) ∧
      (∀ y v, starts → s.noWay dst = some (y, v) → (∀ z ∈ s.me.cp.errs, z.seq ≠ s.strm.seq) →
        Completes (.cxfer a q h) s fun t => joins (.cxfer a q h) [p, r] [h] true t ∧ t.xfers = s.xfers ∧
          t.me.cp.errs = s.me.cp.errs ++ [{ seq := s.strm.seq, sb := q, cause := y, val := v }]))) ∧
    (let src := ar a
     let dst := ar b
     let r := ar c
     let n := (r.extractLsb' 0 32).toNat
     let root := (r.extractLsb' 32 8).toNat
     let group := s.group s.me (s.me.headed s.strm).dsl
     let reads := if x = 1 then collRank s.hub = some root else group.findIdx? (fun z => z.id == s.me.id) = some root
     let lives := x = 1 → ∃ me, collRank s.hub = some me ∧ s.deadRank me = none
     0 < n → r.extractLsb' 40 24 = 0 → lives → ∀ p1 s1 p2 s2,
      (n ≤ 2 ^ 21 → root = 0 → endCheck s src (4 * n) = none → endCheck s dst (4 * n) = none →
        captures i false (endSegs src (4 * n)) [] s = .ok p1 s1 → captures i true (endSegs dst (4 * n)) [] s1 = .ok p2 s2 →
        issues (.cred a b c q x l o) [src, dst, r] (endHandles src ++ endHandles dst)) ∧
      (n ≤ 2 ^ 23 → root < (if x = 1 then (collEntries s.hub).length else group.length) → endCheck s dst n = none →
        (reads → endCheck s src n = none → captures i false (endSegs src n) [] s = .ok p1 s1 →
          captures i true (endSegs dst n) [] s1 = .ok p2 s2 →
          issues (.cbcst a b c q x) [src, dst, r] (endHandles src ++ endHandles dst)) ∧
        (¬ reads → ptrCheck1 src = true → captures i true (endSegs dst n) [] s = .ok p2 s2 →
          issues (.cbcst a b c q x) [src, dst, r] (endHandles dst)))) ∧
    ((ar a).extractLsb' 56 8 = 0 →
      (ar b ≠ 0 → (ar b).toNat ≤ 2 ^ 30 → issues (.cpref a b q) [ar a, ar b] []) ∧ issues (.cmig a q tt) [ar a] []) ∧
    ((ar a).toNat % 32 = 0 → (ar a).extractLsb' 36 8 = 0 → ((ar a).extractLsb' 44 4).toNat ≤ 11 → (ar c).toNat % 32 = 0 →
      ar c ≠ 0 → (ar c).toNat ≤ 2 ^ 23 → endCheck s (ar b) (ar c).toNat = none →
      maps true (endSegs (ar b) (ar c).toNat) → issues (.crrd a b c q) [ar a, ar b, ar c] (endHandles (ar b)))

/-- The checks of the copy instructions trap precisely with their causes and the registers that R233 names, an unmapped page at
its first faulting address, and a full copy engine holds (R22, R212, R215, R217 to R219, R221 to R224, R226, R229 to R231,
R233). The model's own readings that this rests on: log entries 9, 26, 42, 43, 46, 47, 102, 107, 112, 113, 114, 117. -/
def Obligations.CopyChecksTrapOrHold : Prop :=
  ∀ (s : State) (a b c : BitVec 4) (q : BitVec 3) (h sl : BitVec 8) (x tt : BitVec 1) (l : BitVec 4) (o : BitVec 2),
    s.cur.st = .c → CanHandle s →
    let ar := s.me.ar
    let d := descOf [ar a, ar (a + 1), ar (a + 2), ar (a + 3)]
    let e := s.me.tile h
    let trapsIn := fun (u : State) (j : Instr) (z : BitVec 7 × W64) => Completes j s (TrapEntry u · z.1 z.2)
    let traps := trapsIn s
    let reg := fun (r : BitVec 4) => (0x38, r.setWidth 64)
    (∀ z, z.1 ≠ 0x20 →
      (descCheck s.me a h sl none d.len d.len = some z → traps (.ccpy a q h sl 0) z ∧ traps (.ccpyOut a q h sl 0) z) ∧
      (descCheck s.me a h 0 (trBad e d a sl) d.len (trRow e sl.toNat) = some z → traps (.ccpy a q h sl 1) z) ∧
      (descCheck s.me a h sl (some a) d.len d.len = some z → traps (.ccpyOut a q h sl 1) z ∧
        (sparseWidth e = none → traps (.ccpys a q h sl) z)) ∧
      (∀ eb, sparseWidth e = some eb → descCheck s.me a h sl (if d.len % (8 * eb) ≠ 0 then some (a + 1) else none)
        (sparseRow d.len eb) d.len = some z → traps (.ccpys a q h sl) z) ∧
      (gathCheck s a b c h = some z → traps (.cgath a b c q h) z ∧ traps (.cscat a b c q h) z)) ∧
    (∀ va u, descCheck s.me a h sl none d.len d.len = none →
      captures (instOf s.me.id) true (d.segs d.len) [] s = .fault va u → trapsIn u (.ccpyOut a q h sl 0) (0x10, BitVec.ofNat 64 va)) ∧
    (let p := ar a
     let r := ar (a + 1)
     let n := r.toNat / 2 ^ 32
     (a = 15 → traps (.cwst a q) (reg a)) ∧
     (a ≠ 15 → n = 0 ∨ r.extractLsb' 0 16 = 0 ∨ r.extractLsb' 16 16 ≠ 0 → traps (.cwst a q) (reg (a + 1))) ∧
     (a ≠ 15 → n ≠ 0 → r.extractLsb' 0 16 ≠ 0 → r.extractLsb' 16 16 = 0 → 2 ^ 56 ≤ p.toNat ∨ 2 ^ 56 < p.toNat + n →
       traps (.cwst a q) (0x14, p))) ∧
    (e.valid = false → traps (.ctab q h) (0x16, h.setWidth 64) ∧ traps (.cxfer a q h) (0x16, h.setWidth 64)) ∧
    (e.valid = true → e.size.toNat < 1024 → traps (.ctab q h) (0x1A, 0)) ∧
    (∀ n, e.valid = true → 1024 ≤ e.size.toNat → s.me.sound → n < 256 →
      codeOk (BitVec.ofNat 32 (s.me.spad.readLE (e.base.toNat + 4 * n) 4)) = false →
      (∀ k, k < n → codeOk (BitVec.ofNat 32 (s.me.spad.readLE (e.base.toNat + 4 * k) 4)) = true) → traps (.ctab q h) (0x3D, BitVec.ofNat 64 n)) ∧
    (let p := ar a
     let r := ar (a + 1)
     let n := (r.extractLsb' 40 24).toNat
     let fits := e.valid = true ∧ n ≠ 0 ∧ r.extractLsb' 32 8 = 0 ∧ (r.extractLsb' 0 32).toNat + n ≤ e.size.toNat
     (e.valid = true → n = 0 → traps (.cxfer a q h) (reg a)) ∧
     (e.valid = true → n ≠ 0 → r.extractLsb' 32 8 ≠ 0 → traps (.cxfer a q h) (reg (a + 1))) ∧
     (e.valid = true → n ≠ 0 → r.extractLsb' 32 8 = 0 → e.size.toNat < (r.extractLsb' 0 32).toNat + n → traps (.cxfer a q h) (0x1A, a.setWidth 64)) ∧
     (fits → ptrTag p ≠ 10 ∨ ptrCheck1 p = false → traps (.cxfer a q h) (0x14, p)) ∧
     (fits → ptrTag p = 10 → ptrCheck1 p = true → ptrCheck2 s (s.me.headed s.strm) p = false → traps (.cxfer a q h) (0x13, p))) ∧
    (let r := ar c
     let n := (r.extractLsb' 0 32).toNat
     let root := (r.extractLsb' 32 8).toNat
     (n = 0 ∨ 2 ^ 21 < n ∨ r.extractLsb' 40 24 ≠ 0 ∨ root ≠ 0 → traps (.cred a b c q x l o) (reg c)) ∧
     (n = 0 ∨ 2 ^ 23 < n ∨ r.extractLsb' 40 24 ≠ 0 → traps (.cbcst a b c q x) (reg c)) ∧
     (∀ me z, n ≠ 0 → n ≤ 2 ^ 21 → r.extractLsb' 40 24 = 0 → root = 0 → endCheck s (ar a) (4 * n) = none → endCheck s (ar b) (4 * n) = none →
       collRank s.hub = some me → s.deadRank me = some z → traps (.cred a b c q 1 l o) (0x3A, BitVec.ofNat 64 z))) ∧
    (2 ^ 56 ≤ (ar a).toNat → traps (.cpref a b q) (0x14, ar a) ∧ traps (.cmig a q tt) (0x14, ar a)) ∧
    ((ar a).toNat < 2 ^ 56 → ar b = 0 ∨ 2 ^ 30 < (ar b).toNat → traps (.cpref a b q) (reg b)) ∧
    ((ar a).toNat % 32 ≠ 0 ∨ (ar a).extractLsb' 36 8 ≠ 0 ∨ 11 < ((ar a).extractLsb' 44 4).toNat → traps (.crrd a b c q) (reg a)) ∧
    ((ar a).toNat % 32 = 0 → (ar a).extractLsb' 36 8 = 0 → ((ar a).extractLsb' 44 4).toNat ≤ 11 →
      (ar c).toNat % 32 ≠ 0 ∨ ar c = 0 ∨ 2 ^ 23 < (ar c).toNat → traps (.crrd a b c q) (reg c)) ∧
    -- while the copy engine or the scoreboard token is full, or the busy count of a handle
    (let full := 32 ≤ s.me.cp.copies.length ∨ s.me.cp.sb[q.toNat] = 65535
     let maps := fun (wr : Bool) (segs : List (Nat × Nat)) => ∃ p u, captures (instOf s.me.id) wr segs [] s = .ok p u
     let holds := fun (j : Instr) => (full → Completes j s (Holds s · 7 0)) ∧
       (¬ full → e.busy = 255 → Completes j s (Holds s · 7 h.toNat))
     (descCheck s.me a h sl none d.len d.len = none →
       (maps false (d.segs d.len) → holds (.ccpy a q h sl 0)) ∧ (maps true (d.segs d.len) → holds (.ccpyOut a q h sl 0))) ∧
     (e.valid = true → (ar (a + 1)).extractLsb' 40 24 ≠ 0 → (ar (a + 1)).extractLsb' 32 8 = 0 →
       ((ar (a + 1)).extractLsb' 0 32).toNat + ((ar (a + 1)).extractLsb' 40 24).toNat ≤ e.size.toNat → ptrTag (ar a) = 10 →
       ptrCheck1 (ar a) = true → ptrCheck2 s (s.me.headed s.strm) (ar a) = true → holds (.cxfer a q h)) ∧
     (full → (ar a).extractLsb' 56 8 = 0 → Completes (.cmig a q tt) s (Holds s · 7 0) ∧
       (ar b ≠ 0 → (ar b).toNat ≤ 2 ^ 30 → Completes (.cpref a b q) s (Holds s · 7 0))))

/-- What completes: every row of a copy reaches its other side, plain, transposed, expanded from its sparse form, gathered,
scattered or read from another package; a page is asked to move, a range brought into SRAM; CTAB makes its table the shadow
table; a reduction or broadcast of the instance writes its result in rank order; a splice transfer's bytes reach its target;
and a frame of another package joins its collective (R194, R213, R216 to R219, R221, R223, R224, R226 to R229). The model's
own readings that this rests on: log entries 9, 39, 41, 43, 45, 47, 48, 49, 107. -/
def Obligations.CopiesComplete : Prop :=
  ∀ (s : State) (k : Copy), s.me.spad.wf → s.mem.wf →
    let q := sbOf k.i
    let ends := fun (t : State) =>
      t.me.cp.copies = [] ∧ t.me.piC = 0 ∧ t.me.cp.errs = s.me.cp.errs ∧
      (∀ n : BitVec 3, t.me.cp.sb[n.toNat] = if n = q then s.me.cp.sb[n.toNat] - 1 else s.me.cp.sb[n.toNat]) ∧
      (∀ j, t.me.tile j = if j ∈ k.handles then
        { s.me.tile j with busy := (if (s.me.tile j).busy = 0 then 0 else (s.me.tile j).busy - 1) } else s.me.tile j) ∧
      t.me.cp.a = s.me.cp.a ∧ t.me.g = s.me.g ∧ t.rest = s.rest
    let keeps := fun (lo n : Nat) (t : State) => ∀ z, (z < lo ∨ lo + n ≤ z) → t.me.spad.get z = s.me.spad.get z
    let runs := s.me.cp.copies = [k] ∧ canIssue s .c = true ∧ k.expired s.me.runCc = false
    let fresh := runs ∧ s.me.piC = 0 ∧ k.got = [] ∧ k.put = 0 ∧ s.me.sound
    -- byte x of row r, of n bytes, lies at `loc r x`, at a home that answers, whichever pages the rows lie in
    let reach := fun (loc : Nat → Nat → Nat) (rows : Nat → Prop) (va : Nat → Nat) (n : Nat) => 0 < n ∧
      ∀ r, rows r → ∀ x, x < n → pagePa k.pages (va r + x) = some (loc r x) ∧
        homeState s (s.socketOf s.me.id) (loc r x) = .ok () ∧ poisoned s (loc r x) 1 = false ∧ ¬ IsCounter s (.glob (loc r x) 0)
    -- the rows of a write do not overlap: their bytes come to lie there, and no other byte of memory changes
    let stored := fun (loc : Nat → Nat → Nat) (rows : Nat → Prop) (n : Nat) (v : Nat → Nat → Byte) (t : State) =>
      (∀ r, rows r → ∀ x, x < n → t.mem.get (loc r x) = v r x) ∧ t.me.spad = s.me.spad ∧ t.me.priv = s.me.priv ∧
      ∀ y, (∀ r, rows r → ∀ x, x < n → y ≠ loc r x) → ¬ IsCounter s (.glob y 0) → t.mem.get y = s.mem.get y
    let apart := fun (loc : Nat → Nat → Nat) (rows : Nat → Prop) (n : Nat) =>
      ∀ r r' x x', rows r → rows r' → x < n → x' < n → loc r x = loc r' x' → r = r' ∧ x = x'
    let unchanged := fun (t : State) => NothingWritten { s with me := t.me } t ∧ t.me.priv = s.me.priv
    let d := descOf k.ops
    let rows := fun (r : Nat) => r < d.rows
    (fresh → d.rows < 2 ^ 32 → ∀ a q' h sl (loc : Nat → Nat → Nat), let e := s.me.tile h
      let base := fun (r : Nat) => e.base.toNat + d.toff + (if e.level = 3 then sl.toNat * (e.size.toNat / e.slots.toNat) else 0) + r * d.len
      let src := fun (r x : Nat) => s.mem.get (loc r x)
      (k.i = .ccpy a q' h sl 0 → reach loc rows d.row d.len → Completes .copyComplete s fun t => ends t ∧
        (∀ r, rows r → ∀ x, x < d.len → t.me.spad.get (base r + x) = src r x) ∧ keeps (base 0) (d.rows * d.len) t ∧ unchanged t) ∧
      (k.i = .ccpyOut a q' h sl 0 → reach loc rows d.row d.len → apart loc rows d.len → Completes .copyComplete s fun t => ends t ∧
        stored loc rows d.len (fun r x => s.me.spad.get (base r + x)) t) ∧
      (∀ eb, sparseWidth e = some eb → k.i = .ccpys a q' h sl → reach loc rows d.row (sparseRow d.len eb) → d.len % (8 * eb) = 0 → 0 < d.len →
        -- the two positions that the metadata of each group of four elements names
        let md := fun (r g : Nat) => (src r (d.len / 2 + g / 2)).toNat / 16 ^ (g % 2) % 16
        let lo := fun (r g : Nat) => md r g % 4
        let hi := fun (r g : Nat) => md r g / 4
        (∀ r, rows r → ∀ g, g < d.len / (4 * eb) → lo r g < hi r g) → Completes .copyComplete s fun t =>
          ends t ∧ keeps (base 0) (d.rows * d.len) t ∧ unchanged t ∧
          ∀ r g z y, rows r → g < d.len / (4 * eb) → z < 4 → y < eb → t.me.spad.get (base r + (4 * g + z) * eb + y) =
            if z = lo r g then src r (2 * g * eb + y) else if z = hi r g then src r ((2 * g + 1) * eb + y) else 0) ∧
      (k.i = .ccpy a q' h sl 1 → e.level = 1 → e.cols.toNat % 256 = 0 → d.len = trLen e → reach loc rows d.row d.len →
        let fmt := e.fmt.toNat
        let bits := fmtBits fmt
        let planes := planesOf fmt sl.toNat false
        let code := fun (r j : Nat) =>
          let x := leNat ((List.range ((bits + 7) / 8)).map fun b => src r (j * bits / 8 + b)) / 2 ^ (j * bits % 8) % 2 ^ bits
          if fmt = 0xF ∧ sl ≠ 0 then (q4Value sl.toNat x % 256).toNat else x
        let rec_ := fun (r c : Nat) => e.base.toNat + d.toff + r * trRow e sl.toNat + c * (64 * planes + 32)
        Completes .copyComplete s fun t => ends t ∧ keeps (e.base.toNat + d.toff) (d.rows * trRow e sl.toNat) t ∧ unchanged t ∧
          ∀ r c, rows r → c < e.cols.toNat / 256 →
            (∀ p j, p < planes → j < 256 →
              (t.me.spad.get (rec_ r c + 64 * p + j / 4)).toNat / 4 ^ (j % 4) % 4 = code r (256 * c + j) / 4 ^ p % 4) ∧
            (∀ y, y < 8 → t.me.spad.get (rec_ r c + 64 * planes + y) =
              if fmtIsBlock fmt then src r (e.cols.toNat * bits / 8 + 8 * c + y) else 0) ∧
            (∀ y, y < 24 → t.me.spad.get (rec_ r c + 64 * planes + 8 + y) = 0))) ∧
    (fresh → k.table.length < 2 ^ 32 → ∀ a b c q' h (loc : Nat → Nat → Nat), let g := gathOf (k.op 2) (k.op 3) (k.op 4)
      let at_ := fun (u : Nat) => (s.me.tile h).base.toNat + g.toff + u * g.len
      let index := fun (u : Nat) => k.table.getD u padIndex
      let named := fun (u : Nat) => u < k.table.length ∧ index u ≠ padIndex
      reach loc named (fun u => (k.op 0).toNat + (index u).toNat * g.stride) g.len →
      (k.i = .cgath a b c q' h → Completes .copyComplete s fun t => ends t ∧ keeps (at_ 0) (k.table.length * g.len) t ∧ unchanged t ∧
        ∀ u y, u < k.table.length → y < g.len → t.me.spad.get (at_ u + y) = if index u = padIndex then 0 else s.mem.get (loc u y)) ∧
      (k.i = .cscat a b c q' h → apart loc named g.len → Completes .copyComplete s fun t => ends t ∧
        stored loc named g.len (fun u y => s.me.spad.get (at_ u + y)) t)) ∧
    -- the other package's stack refuses, or answers bytes that are open here
    (fresh → ∀ a b c r (loc : Nat → Nat → Nat), k.i = .crrd a b c r → 0 < (k.op 2).toNat → (k.op 2).toNat ≤ 2 ^ 23 →
      (∀ z ∈ s.me.cp.errs, z.seq ≠ k.seq) →
      let n := (k.op 2).toNat
      let at_ := (s.me.tile ((k.op 1).extractLsb' 48 8)).base.toNat + ((k.op 1).extractLsb' 0 32).toNat
      let theirs := fun (y : Nat) =>
        Config.remoteByte ((k.op 0).extractLsb' 44 20).toNat (((k.op 0).extractLsb' 0 36).toNat + y) k.issueCc s.tick
      let all := ∀ y, y < n → (theirs y).isSome = true
      let one := fun (r : Nat) => r = 0
      (k.denied = true → Completes .copyComplete s fun t => t.me.cp.copies = [] ∧ t.mem = s.mem ∧ t.me.spad = s.me.spad ∧
        t.me.cp.errs = s.me.cp.errs ++ [{ seq := k.seq, sb := r, cause := 0x3B, val := (k.op 0).extractLsb' 0 32 }]) ∧
      (k.denied = false → all → ptrTag (k.op 1) = 9 → Completes .copyComplete s fun t => ends t ∧ keeps at_ n t ∧ t.mem = s.mem ∧
        ∀ y, y < n → some (t.me.spad.get (at_ + y)) = theirs y) ∧
      (k.denied = false → all → ptrTag (k.op 1) = 0 → reach loc one (fun _ => ((k.op 1).extractLsb' 0 56).toNat) n → apart loc one n →
        Completes .copyComplete s fun t => ends t ∧ stored loc one n (fun _ y => (theirs y).getD 0) t)) ∧
    (runs →
      -- a page that lies in the other tier is asked of the migration engine, or of the host
      (∀ a r t, k.i = .cmig a r t → let w := walk s (instOf s.me.id) (k.op 0).toNat false
        Completes .copyComplete s fun u => ends u ∧ u.me.spad = s.me.spad ∧ SameGlobal s u ∧
          (∀ pa, w.pa = some pa → isHbm pa = (t == 1) →
            u.migReqs = s.migReqs ++ [{ b := BitVec.ofNat 4 (dieOf pa), f := pa / 65536, host := s.hub.migMode == 1 }] ∧
            (s.hub.migMode = 1 → Raised u.hub 3)) ∧
          ((∀ pa, w.pa = some pa → isHbm pa ≠ (t == 1)) → u.migReqs = s.migReqs)) ∧
      -- what is brought in last is in the SRAM, but for a streaming prefetch
      (∀ a b r, k.i = .cpref a b r → let va := (k.op 0).toNat; let n := (k.op 1).toNat
        Completes .copyComplete s fun u => ends u ∧ u.me.spad = s.me.spad ∧ SameGlobal s u ∧
          (∀ pa, 0 < n → va % 65536 + n ≤ 65536 → (walk s (instOf s.me.id) va false).pa = some pa →
            homeState s (s.socketOf s.me.id) pa = .ok () → k.cache ≠ 1 →
            ∃ l ∈ u.sram, l.line = (pa + n - 1) / 128)) ∧
      (∀ r h, k.i = .ctab r h → k.table.length = 256 → Completes .copyComplete s fun u => ends u ∧
        u.me.cp.shadowWritten = true ∧ u.me.cp.shadowTab.toList = k.table ∧ u.me.cp.activeTab = s.me.cp.activeTab ∧
        u.me.spad = s.me.spad ∧ u.mem = s.mem)) ∧
    -- a collective of the instance whose participants have all given their contributions
    (s.me.cp.copies = [k] → canIssue s .c = true → s.me.sound → k.isColl 0 = true → k.combined = false → k.bound = 0 → s.me.life = .running →
      let g := s.group s.me k.dsl
      ∀ (ks : List Copy) (gives : List (List Byte)), s.legsTime g ks = true → (∀ d ∈ g, s.legsFault k g d = none) → g.Pairwise (fun c d => c.id ≠ d.id) → (∀ c ∈ g, c.id = s.me.id → c = s.me) → s.me ∈ g →
        g.map (fun c => s.mate c (g.map (·.id))) = ks.map some → (∀ x ∈ ks, x.fields = k.fields) →
        ks.map (·.got) = gives.map (·.map some) → ptrTag (k.op 1) = 9 → 0 < ((k.op 2).extractLsb' 0 32).toNat →
        let n := ((k.op 2).extractLsb' 0 32).toNat
        let at_ := (s.me.tile ((k.op 1).extractLsb' 48 8)).base.toNat + ((k.op 1).extractLsb' 0 32).toNat
        let done := fun (t : State) => t.me.cp.copies = [] ∧ t.me.cp.sb[q.toNat] = s.me.cp.sb[q.toNat] - 1 ∧ t.me.cp.errs = s.me.cp.errs ∧
          t.mem = s.mem ∧ t.me.g = s.me.g
        (∀ a b c r l o, k.i = .cred a b c r 0 l o → (∀ x ∈ gives, x.length = 4 * n) → Completes .copyComplete s fun t => done t ∧ keeps at_ (4 * n) t ∧
          (∀ e, e < n → let leaves := gives.map fun x => leNat ((List.range 4).map fun j => x.getD (4 * e + j) 0)
            t.me.spad.readLE (at_ + 4 * e) 4 = (redOne o k.sat leaves).1 % 2 ^ 32) ∧
          ∀ i, t.me.nflags.getLsbD i = (s.me.nflags.getLsbD i || (List.range n).any fun e =>
            (redOne o k.sat (gives.map fun x => leNat ((List.range 4).map fun j => x.getD (4 * e + j) 0))).2.getLsbD i)) ∧
        (∀ a b c r x, k.i = .cbcst a b c r 0 → gives[((k.op 2).extractLsb' 32 8).toNat]? = some x → x.length = n →
          Completes .copyComplete s fun t => done t ∧ keeps at_ n t ∧ (∀ y, y < n → some (t.me.spad.get (at_ + y)) = x[y]?) ∧
            t.me.nflags = s.me.nflags)) ∧
    -- the last byte of a splice transfer is due
    (∀ f d l, let src := s.me.tile (k.handles.headD 0)
      let tgt := d.tile f.h
      let n := k.xferLen
      s.me.cp.copies = k :: l → s.flight = some f → f.src = s.me.id → f.first ≤ s.cc → f.due ≤ s.cc → s.noWay f.dst = none → f.bytes = [] → f.begun = false → f.put = 0 → 0 < n →
      s.ctx? f.dst = some d → f.dst ≠ s.me.id → d.life = .running → s.me.sound → d.sound → d.spad.wf → tgt.valid = true → tgt.busy ≠ 255 →
      f.off + n ≤ tgt.size.toNat →
      Completes .cxferArrival s fun t =>
        (∃ u, t.ctx? f.dst = some u ∧
          (∀ x, x < n → u.spad.get (tgt.base.toNat + f.off + x) = s.me.spad.get (src.base.toNat + ((k.op 1).extractLsb' 0 32).toNat + x)) ∧
          (∀ z, (z < tgt.base.toNat + f.off ∨ tgt.base.toNat + f.off + n ≤ z) → u.spad.get z = d.spad.get z) ∧
          (∀ h, u.tile h = d.tile h)) ∧
        t.me = s.me ∧ t.mem = s.mem ∧ t.xfers = s.xfers.filter (fun y => y.src ≠ f.src)) ∧
    (∀ l rank lcore hd (e : BitVec 21) v, s.me.cp.copies = k :: l → k.isColl 1 = true → k.combined = false → lcore.toNat = s.me.lcore →
      collRank s.hub ≠ some rank.toNat → rank.toNat < (collEntries s.hub).length → s.portUp (rankPort s.hub rank.toNat) = true →
      k.heads.lookup rank.toNat = none → k.frame rank.toNat e.toNat = none →
      Completes (.remoteCollectiveFrame rank lcore (hd, some e) v) s fun t =>
        t.me.cp.copies = { k with heads := (rank.toNat, hd) :: k.heads, remote := (rank.toNat, e.toNat, v) :: k.remote } :: l ∧
        t = { s with me := { s.me with cp := { s.me.cp with copies := t.me.cp.copies } } })

/-! ### The F stream and the fabric (R236 to R256) -/

/-- FLOAD loads a program, FOPEN and FCLOSE bind and free ports, FSCHED schedules an element, FSTART begins a run and stays at the
queue head (R246, R248 to R250, R254). The model's own readings that this rests on: log entries 26, 36, 104, 121. -/
def Obligations.FabricIsConfiguredAndStarted : Prop :=
  ∀ (s : State) (h l : BitVec 8) (e : BitVec 6) (b : BitVec 5) (n : BitVec 6) (r : BitVec 1) (p ph : BitVec 4) (w : BitVec 20),
    let tl := s.me.tile h
    let x := s.me.f.elem e
    let cnt := n.toNat + 1
    let word := fun (k : Nat) => BitVec.ofNat 96 (s.me.spad.readLE (tl.base.toNat + 1024 * b.toNat + 12 * k) 12)
    let becomes := fun (f : Elem → Prop) (t : State) =>
      f (t.me.f.elem e) ∧ (∀ k, k ≠ e → t.me.f.elem k = s.me.f.elem k) ∧
      Went s { s with me := { s.me with f := { s.me.f with el := t.me.f.el }, tiles := t.me.tiles } } t (s.strm.pc + 4) ∧ SameBytes s t
    let busy := fun (hs : List (BitVec 8)) (up : Bool) (t : State) => ∀ k, t.me.tile k = if k ∈ hs then
        { s.me.tile k with busy := if up then (s.me.tile k).busy + 1 else if (s.me.tile k).busy = 0 then 0 else (s.me.tile k).busy - 1 }
      else s.me.tile k
    let hs := if r = 1 then [h, l] else [h]
    let reads := tl.valid = true ∧ tl.level = 0 ∧ 1024 * b.toNat + 12 * cnt ≤ tl.size.toNat
    -- the tile becomes busy in one turn, and is read in a later one
    (reads → s.strm.busy = none → tl.busy ≠ 255 → Completes (.fload h e b n) s fun t =>
      busy [h] true t ∧ HeldAt s.strm t.strm 0 0 ∧ t.strm.busy = some h ∧
      t = ({ s with me := { s.me with tiles := t.me.tiles } }).setStrm t.strm) ∧
    (reads → s.strm.busy = none → tl.busy = 255 → Completes (.fload h e b n) s (Holds s · 7 h.toNat)) ∧
    (reads → s.cur.st = .f → s.strm.busy = some h → s.me.sound → (∀ k, k < cnt → bundleBad e cnt (word k) = none) →
      Completes (.fload h e b n) s (fun t => becomes (fun y =>
        y = { x with loop := y.loop, n := BitVec.ofNat 7 cnt, loaded := true } ∧
        ∀ k (hk : k < 64), y.loop[k] = if k < cnt then word k else x.loop[k]) t ∧ busy [h] false t)) ∧
    (∀ c k, reads → s.cur.st = .f → s.strm.busy = some h → s.me.sound → CanHandle s → k < cnt → bundleBad e cnt (word k) = some c →
      (∀ j, j < k → bundleBad e cnt (word j) = none) →
      Completes (.fload h e b n) s fun t => TrapEntry s t c (BitVec.ofNat 64 (e.toNat * 2 ^ 16 + k)) ∧
        (s.me.v.pend = [] → busy [h] false t)) ∧
    (tl.valid = true → portTileOk tl = true → (r = 1 → (s.me.tile l).valid = true ∧ lenTileOk tl (s.me.tile l) = true ∧ l ≠ h) →
      isEdge e = true → x.port = none → (∀ k, k ∈ hs → (s.me.tile k).busy ≠ 255) →
      let open_ := fun (out : Bool) (t : State) => busy hs true t ∧ becomes (fun y =>
        y = { x with port := some { handle := h, out := out, rag := r == 1, hl := l } }) t
      Completes (.fopen h e r l) s (open_ false) ∧ Completes (.fopenOut h e r l) s (open_ true)) ∧
    (∀ q, x.port = some q → q.handle = h → (q.rag = true → q.hl ≠ h) → Completes (.fclose h e) s fun t =>
      busy (if q.rag then [h, q.hl] else [h]) false t ∧ becomes (fun y => y = { x with port := none }) t) ∧
    Completes (.fsched e p ph) s (fun t => becomes (fun y => y = { x with per := p, pha := ph, off := false }) t ∧ t.me.tiles = s.me.tiles) ∧
    Completes (.fschedOff e p ph) s (fun t => becomes (fun y => y = { x with per := p, pha := ph, off := true }) t ∧ t.me.tiles = s.me.tiles) ∧
    (s.me.f.run = none → (∀ k, (s.me.f.elem k).starts = true → portMissing (s.me.f.elem k) = false) →
      Completes (.fstart w) s fun t =>
        t.me.f.run = some w ∧ t.me.piF = 0 ∧ HeldAt s.strm t.strm 0 0 ∧
        (∀ k, let y := t.me.f.elem k; let z := s.me.f.elem k
          y.started = (z.loaded && !z.off) ∧ (∀ d, y.queue d = []) ∧ y.outq = [] ∧ y.e = z.e ∧ y.lmem = z.lmem ∧
          (y.started = true → y.pc = 0 ∧ y.halted = false) ∧ (y.started = false → y.pc = z.pc ∧ y.halted = z.halted) ∧
          ∀ q, y.port = some q → q.row = 0 ∧ q.col = 0 ∧ q.ended = false) ∧
        (∀ k : BitVec 6, t.me.f.lastMoved[k.toNat] = 0) ∧
        t = ({ s with me := { s.me with f := t.me.f, piF := 0 } }).setStrm t.strm) ∧
    (s.me.f.run ≠ none → Completes (.fstart w) s (Holds s · 0 0)) ∧
    (CanHandle s →
      (tl.valid = false → Completes (.fload h e b n) s (TrapEntry s · 0x16 (h.setWidth 64)) ∧
        Completes (.fopen h e r l) s (TrapEntry s · 0x16 (h.setWidth 64))) ∧
      ((∀ q, x.port = some q → q.handle ≠ h) → Completes (.fclose h e) s (TrapEntry s · 0x42 (e.setWidth 64))))

/-- A run completes with its FSTART when every started element has halted, and traps at its window; ports move words between tiles
and queues (R251 to R255). The model's own readings that this rests on: log entries 36, 51, 52, 53, 54, 120. -/
def Obligations.FabricRunsMoveAndEnd : Prop :=
  ∀ (s : State) (w : BitVec 20) (e : BitVec 6) (p : Port), s.me.f.run = some w → canIssue s .f = true →
    let x := s.me.f.elem e
    let tl := s.me.tile p.handle
    let off := 4 * (p.row.toNat * tl.cols.toNat + p.col.toNat)
    let at_ := tl.base.toNat + off
    let active := s.me.f.finished = false ∧ s.me.piF.toNat < w.toNat ∧ s.me.f.lastCc ≠ some s.me.runCc
    let word := s.me.spad.w32 at_
    let logs := fun (m : PMove) (t : State) => t.me.f = { s.me.f with moves := s.me.f.moves ++ [(e, m)] } ∧
      t = { s with me := { s.me with f := t.me.f } }
    -- the lengths of the rows that ragged output ports have not reached become 0
    let zeros := fun (z : Nat) => ∃ k q r, (s.me.f.elem k).port = some q ∧ (s.me.f.elem k).started = true ∧ q.out = true ∧ q.rag = true ∧
      r < (s.me.tile q.handle).rows.toNat ∧ q.row.toNat + (if q.col = 0 then 0 else 1) ≤ r ∧ (s.me.tile q.hl).holdsWord (4 * r) = true ∧
      (s.me.tile q.hl).base.toNat + 4 * r ≤ z ∧ z < (s.me.tile q.hl).base.toNat + 4 * r + 4
    (s.me.f.finished = true →
      (∀ k q, (s.me.f.elem k).port = some q → q.rag = false) ∨ (s.me.spad.wf ∧ s.me.sound) → Completes .runComplete s fun t =>
      t.me.f.run = none ∧ t.me.piF = 0 ∧ GoesOn s.me.e t.me.e (s.me.e.pc + 4) s.cc ∧
      (∀ k, (∀ d, (t.me.f.elem k).queue d = []) ∧ (t.me.f.elem k).outq = [] ∧ (t.me.f.elem k).e = (s.me.f.elem k).e ∧
        (t.me.f.elem k).lmem = (s.me.f.elem k).lmem ∧ (t.me.f.elem k).halted = (s.me.f.elem k).halted) ∧
      (∀ z, (zeros z → t.me.spad.get z = 0) ∧ (¬ zeros z → t.me.spad.get z = s.me.spad.get z)) ∧
      t.me.g = s.me.g ∧ t.me.priv = s.me.priv ∧ t.mem = s.mem ∧ t.rest = s.rest) ∧
    (s.me.f.finished = false → w.toNat ≤ s.me.piF.toNat → CanHandle s.asF → Completes .fabricBound s fun t => ∃ v,
      TrapEntry s t 0x40 v ∧ (∀ k : BitVec 6, v.getLsbD k.toNat =
        ((s.me.f.elem k).started && !(s.me.f.elem k).halted)) ∧ t.me.f.run = none ∧ t.me.piF = 0) ∧
    (active → elems.find? (fun k => !s.me.portIdle k false) = some e → x.port = some p → p.rag = false → s.me.sound → tl.holdsWord off = true →
      Completes .inputPortPush s (logs (.push { data := word, code := if p.col.toNat + 1 = tl.cols.toNat then (if p.row.toNat + 1 = tl.rows.toNat then 3 else 2) else 0 }
          (p.after tl.cols.toNat { data := word, code := if p.col.toNat + 1 = tl.cols.toNat then
            (if p.row.toNat + 1 = tl.rows.toNat then 3 else 2) else 0 })))) ∧
    (∀ v l, active → elems.find? (fun k => !s.me.portIdle k true) = some e → x.port = some p → x.outq = v :: l →
      Completes .outputPortWrite s (logs (.took (p.after tl.cols.toNat v)))) ∧
    -- what an output port writes as the cycle ends
    (∀ v l, x.port = some p → p.out = true → x.started = true → x.outq = v :: l → s.me.spad.wf → s.me.sound → tl.holdsWord off = true →
      let len := (s.me.tile p.hl).base.toNat + 4 * p.row.toNat
      let writes := fun (at_ : Nat) (w : W32) => ∃ c, portWrite s.me (s.me.portWrites e) = .ok c ∧ (∃ l, c = { s.me with spad := c.spad, hb := { s.me.hb with marks := l } }) ∧
        c.spad.w32 at_ = w ∧ ∀ z, (z < at_ ∨ at_ + 4 ≤ z) → c.spad.get z = s.me.spad.get z
      (p.rag = false ∨ v.code = 0 → writes at_ v.data) ∧
      ((s.me.tile p.hl).holdsWord (4 * p.row.toNat) = true →
        (p.rag = true → v.code = 1 → writes len 0) ∧
        (p.rag = true → 2 ≤ v.code.toNat → len + 4 ≤ at_ ∨ at_ + 4 ≤ len → ∃ c, portWrite s.me (s.me.portWrites e) = .ok c ∧
          c.spad.w32 at_ = v.data ∧ c.spad.w32 len = p.col + 1)))

/-- The syllables that compute or reach local memory: the element's registers, program counter and halt bit (R242 to R244). -/
def Obligations.ElementsCompute : Prop :=
  ∀ (s : State) (d c a b : BitVec 4) (u : BitVec 1) (cc : BitVec 3) (i : BitVec 17) (k : BitVec 16) (dst : BitVec 6),
    let x := s.me.f.elem s.cur.el
    let r := x.reg
    let follow : BitVec 6 := BitVec.ofNat 6 (if x.n = 0 then x.pc.toNat + 1 else (x.pc.toNat + 1) % x.n.toNat)
    let becomes := fun (p : Elem → Prop) (t : State) =>
      p (t.me.f.elem s.cur.el) ∧ (∀ e, e ≠ s.cur.el → t.me.f.elem e = s.me.f.elem e) ∧
      t = { s with me := { s.me with f := { s.me.f with el := t.me.f.el } } }
    let sets := fun (pc : BitVec 6) (v : W32) => becomes fun y =>
      (∀ q, y.reg q = if q = d then v else r q) ∧ y = { x with e := y.e, pc := pc }
    let gives := fun (j : Instr) (v : W32) => Completes j s (sets follow v)
    let int := fun (v : W32) => if u = 1 then v.toInt else (v.toNat : Int)
    let half := fun (v : W32) => if u = 1 then ((v.toNat % 65536 : Nat) : Int) else (v.setWidth 16).toInt
    let at_ := (r a + i.signExtend 32).toNat % 256
    let n := r d - 1
    gives (.eAdd d a b) (r a + r b) ∧ gives (.eSub d a b) (r a - r b) ∧ gives (.eAnd d a b) (r a &&& r b) ∧
    gives (.eOr d a b) (r a ||| r b) ∧ gives (.eXor d a b) (r a ^^^ r b) ∧
    gives (.eShl d a b) (BitVec.ofNat 32 ((r a).toNat * 2 ^ ((r b).toNat % 32))) ∧
    gives (.eShr d a b u) (BitVec.ofInt 32 (int (r a) / 2 ^ ((r b).toNat % 32))) ∧
    (cc = 0 → gives (.eCmp d a b cc) (if r a = r b then 1 else 0)) ∧ (cc = 1 → gives (.eCmp d a b cc) (if r a ≠ r b then 1 else 0)) ∧
    (cc = 2 → gives (.eCmp d a b cc) (if (r a).toInt < (r b).toInt then 1 else 0)) ∧
    (cc = 3 → gives (.eCmp d a b cc) (if (r b).toInt ≤ (r a).toInt then 1 else 0)) ∧
    (cc = 4 → gives (.eCmp d a b cc) (if (r a).toNat < (r b).toNat then 1 else 0)) ∧
    (cc = 5 → gives (.eCmp d a b cc) (if (r b).toNat ≤ (r a).toNat then 1 else 0)) ∧
    gives (.eSel d a b c) (if r a ≠ 0 then r b else r c) ∧
    (u = 0 → gives (.eMin d a b u) (BitVec.ofInt 32 (min (r a).toInt (r b).toInt)) ∧
      gives (.eMax d a b u) (BitVec.ofInt 32 (max (r a).toInt (r b).toInt))) ∧
    (u = 1 → gives (.eMin d a b u) (BitVec.ofNat 32 (min (r a).toNat (r b).toNat)) ∧
      gives (.eMax d a b u) (BitVec.ofNat 32 (max (r a).toNat (r b).toNat))) ∧
    gives (.eMul16 d a b u) (BitVec.ofInt 32 (half (r a) * half (r b))) ∧
    gives (.ePopc d a) (BitVec.ofNat 32 ((List.range 32).filter (r a).getLsbD).length) ∧ gives (.eMov d a) (r a) ∧
    (d ≠ c → Completes (.eCxch d c a b u) s (becomes fun y =>
      int (y.reg d) = max (int (r a)) (int (r b)) ∧ int (y.reg c) = min (int (r a)) (int (r b)) ∧
      (∀ q, q ≠ d → q ≠ c → y.reg q = r q) ∧ y = { x with e := y.e, pc := follow })) ∧
    gives (.eLdi d i) (i.signExtend 32) ∧ gives (.eLdiH d k) (BitVec.ofNat 32 (k.toNat * 65536 + (r d).toNat % 65536)) ∧
    gives (.eLds d a i) (x.lmem.toArray.getD at_ 0) ∧
    Completes (.eSts d a i) s (becomes fun y =>
      (∀ z, z < 256 → y.lmem.toArray.getD z 0 = if z = at_ then r d else x.lmem.toArray.getD z 0) ∧
      y = { x with lmem := y.lmem, pc := follow }) ∧
    Completes (.eLoop d dst) s (sets (if n ≠ 0 then dst else follow) n) ∧
    Completes .eHalt s (becomes fun y => y = { x with halted := true, pc := follow }) ∧
    Completes .eNop s (becomes fun y => y = { x with pc := follow })

/-- The link syllables take the head of a queue or push a word to a neighbour's queue or the output port's; one that is not
ready changes nothing (R239, R241, R245, R253). -/
def Obligations.ElementsExchangeWords : Prop :=
  ∀ (s : State) (d k : BitVec 4) (dir : BitVec 3) (sc : BitVec 2), dir.toNat ≤ 4 →
    let e := s.cur.el
    let x := s.me.f.elem e
    let follow : BitVec 6 := BitVec.ofNat 6 (if x.n = 0 then x.pc.toNat + 1 else (x.pc.toNat + 1) % x.n.toNat)
    let waits := fun (j : Instr) => Completes j s (· = s)
    let frame := fun (t : State) => t = { s with me := { s.me with f := { s.me.f with el := t.me.f.el } } }
    let takes := fun (v : W32) (pop : Bool) (t : State) => (∀ z, z ≠ e → t.me.f.elem z = s.me.f.elem z) ∧ frame t ∧
      (∀ q, (t.me.f.elem e).reg q = if q = d then v else x.reg q) ∧ (t.me.f.elem e).pc = follow ∧
      ∀ z, (t.me.f.elem e).queue z = if pop = true ∧ z = dir.toNat then (x.queue z).tail else x.queue z
    let sends := fun (j : Instr) (w : FWord) =>
      (∀ n, dir.toNat < 4 → elNeighbour e dir.toNat = some n → ((s.me.f.elem n).queue ((dir.toNat + 2) % 4)).length < 2 →
        Completes j s fun t => frame t ∧ (t.me.f.elem e).pc = follow ∧ (t.me.f.elem e).e = x.e ∧
          (t.me.f.elem n).queue ((dir.toNat + 2) % 4) = (s.me.f.elem n).queue ((dir.toNat + 2) % 4) ++ [w] ∧
          (∀ z, z ≠ (dir.toNat + 2) % 4 → (t.me.f.elem n).queue z = (s.me.f.elem n).queue z) ∧
          ∀ z, z ≠ e → z ≠ n → t.me.f.elem z = s.me.f.elem z) ∧
      (∀ n, dir.toNat < 4 → elNeighbour e dir.toNat = some n → 2 ≤ ((s.me.f.elem n).queue ((dir.toNat + 2) % 4)).length → waits j) ∧
      (dir = 4 → x.outq.length < 2 → (∀ p, x.port = some p → outError (s.me.tile p.handle) (x.pushPort p (s.me.tile p.handle).cols.toNat) w = none) →
        Completes j s fun t => frame t ∧ (t.me.f.elem e).pc = follow ∧ (t.me.f.elem e).outq = x.outq ++ [w] ∧
          (t.me.f.elem e).e = x.e ∧ ∀ z, z ≠ e → t.me.f.elem z = s.me.f.elem z) ∧
      (dir = 4 → 2 ≤ x.outq.length → waits j) ∧
      (dir = 4 → x.outq.length < 2 → CanHandle s → ∀ p c,
        x.port = some p → outError (s.me.tile p.handle) (x.pushPort p (s.me.tile p.handle).cols.toNat) w = some c →
        Completes j s (TrapEntry s · 0x41
          (BitVec.ofNat 64 (s.me.piF.toNat * 2 ^ 32 + e.toNat * 2 ^ 16 + c.toNat * 2 ^ 8 + x.pc.toNat))))
    let coded := fun (code : BitVec 2) => ({ data := if code = 1 then 0 else x.reg d, code := code } : FWord)
    (x.queue dir.toNat = [] → waits (.eRecv d dir) ∧ waits (.ePeek d dir)) ∧
    (∀ w l, x.queue dir.toNat = w :: l → Completes (.eRecv d dir) s (takes w.data true) ∧
      Completes (.ePeek d dir) s (takes (w.code.setWidth 32) false)) ∧
    sends (.eSend d dir) (coded 0) ∧ sends (.eEmit d dir sc) (coded sc) ∧
    sends (.eEmitReg d dir k) (coded ((x.reg k).setWidth 2)) ∧ sends (.eBub dir) { data := 0, code := 1 }


/-! ### The hub's sequencer (R24, R260 to R265, R277, R284 to R287, R320, R364, R372 to R374) -/

/-- The write of CMDQ word 3 enqueues the staged packet, or discards it while the FIFO holds 256; the packet at the FIFO head
moves into its instance's queue of 16, and discards are reported; a read of STATQ's second word removes the record (R260, R364). -/
def Obligations.PacketsAndStatusRecordsQueue : Prop :=
  ∀ (s : State), s.hub.active = true →
    let st := s.hub.stage
    let p : Packet := { w0 := st[0], w1 := st[1], w2 := st[2], w3 := s.hub.bus.v }
    let puts := fun (q : List Packet) (n : W64) (t : State) =>
      (∀ k : Fin 4, t.hub.stage[k] = if k = 3 then s.hub.bus.v else st[k]) ∧
      t = { s with hub := { s.hub with cmdq := q, dropped := n, stage := t.hub.stage } }
    (s.hub.cmdq.length < 256 → Completes .packetEnqueue s (puts (s.hub.cmdq ++ [p]) s.hub.dropped)) ∧
    (256 ≤ s.hub.cmdq.length → Completes .packetEnqueue s (puts s.hub.cmdq (s.hub.dropped + 1))) ∧
    (∀ p l, s.hub.cmdq = p :: l → s.hub.statWait = [] →
      let x := s.inst p.inst
      (x.pkts.length < 16 → Completes .packetDispatch s fun t =>
        OnlyInst s t p.inst { x with pkts := x.pkts ++ [p] } ∧ t = { s with insts := t.insts, hub := t.hub } ∧
        let h := { s.hub with cmdq := l, dropped := 0 }
        if s.hub.dropped = 0 then t.hub = h
        else Recorded h t.hub { code := 7, tag := 0, inst := 0, op := 0, value := s.hub.dropped }) ∧
      (16 ≤ x.pkts.length → Completes .packetDispatch s (· = s))) ∧
    (∀ r l, s.hub.statq = r :: l →
      (s.hub.statWait = [] → Completes .statqRead s (· = { s with hub := { s.hub with statq := l, hostOut := r.value } })) ∧
      (∀ w m, s.hub.statWait = w :: m → Completes .statqRead s fun t =>
        Entered { s.hub with statq := l, statWait := m, hostOut := r.value } t.hub w ∧ t = { s with hub := t.hub })) ∧
    (s.hub.statq = [] → Completes .statqRead s (· = { s with hub := { s.hub with hostOut := 0 } }))

/-- The lottery: a unit makes one grant a cycle, the hub's sequencer two, its cycles being two to a core cycle; the winner's
cumulative ticket interval holds the generator's next value modulo the tickets, and the lowest queue wins while none holds a
ticket; the winner's packet is granted, or ends at once when a field of it is bad; a winning context's access performs, a winning
port moves its word (R7, R260, R284, R285, R293). The model's own readings that this rests on: log entries 64, 81. -/
def Obligations.LotteryGrants : Prop :=
  ∀ (s : State),
    let grants := fun (u : Nat) => (s.hub.granted.filter fun p => p == (u, s.cc)).length
    let draws := fun (u : Nat) (adv : Prop) (h : Hub) => h = { s.hub with lottery := h.lottery, granted := h.granted } ∧
      (∀ v, h.granted.lookup v = if v = u then some s.cc else s.hub.granted.lookup v) ∧
      (h.granted.filter fun p => p == (u, s.cc)).length = grants u + 1 ∧
      let moves := adv ∧ ∃ j, (s.inst j).holds = true
      ∀ v, (v = u ∧ moves → h.lotGen v = xorshift32 (s.hub.lotGen u)) ∧ (¬ (v = u ∧ moves) → h.lotGen v = s.hub.lotGen v)
    let first := fun (u : Nat) => grants u < if u = 128 then 2 else 1
    let has := fun (j : BitVec 4) => !(s.inst j).pkts.isEmpty && !(s.inst j).granted
    let tk := fun (j : BitVec 4) => if has j then (s.inst j).hubTickets else 0
    let below := fun (n : Nat) => ((List.range n).map fun j => tk (BitVec.ofNat 4 j)).sum
    let r := (xorshift32 (s.hub.lotGen 128)).toNat % below 16
    let alone := ∀ c ∈ s.rest, c.life ≠ .running
    (∀ u : BitVec 8, ¬ first u.toNat → Completes (.lotteryGrant u) s (· = s)) ∧
    (∀ i p l, first 128 → s.hub.active = true → s.hub.statWait = [] → s.seqBusy = false → has i = true → (s.inst i).pkts = p :: l →
      (below 16 ≠ 0 → below i.toNat ≤ r ∧ r < below i.toNat + tk i) → (below 16 = 0 → ∀ j, has j = true → i.toNat ≤ j.toNat) →
      (p.bad = false → Completes (.lotteryGrant 128) s fun t => draws 128 (below 16 ≠ 0) t.hub ∧
        OnlyInst s t i { s.inst i with granted := true } ∧ t = { s with insts := t.insts, hub := t.hub }) ∧
      (p.bad = true → Completes (.lotteryGrant 128) s fun t => ∃ h, draws 128 (below 16 ≠ 0) h ∧
        Recorded h t.hub { code := 1, tag := p.tag, inst := i, op := p.op, value := 0 } ∧
        OnlyInst s t i { s.inst i with pkts := l, granted := false, waiting := false } ∧
        t = { s with insts := t.insts, hub := t.hub })) ∧
    (∀ (u : BitVec 8) b, first u.toNat → u.toNat < 64 → bIndex s.hub.product u.toNat = some b → s.me.life = .running → alone →
      let n := ((s.inst (instOf s.me.id)).mtk.toArray.getD s.me.lcore 0).toNat
      ∀ ld, portHead s.me b = some ld → Completes (.lotteryGrant u) s fun t => ∃ h, draws u.toNat (n ≠ 0) h ∧
        let v := { s with hub := h }
        t = ((if ld then performLoad v else performStore v).getD v)) ∧
    (∀ (u : BitVec 8) e, first u.toNat → 64 ≤ u.toNat → u.toNat < 128 → kindOf s.hub.product (u.toNat - 64) = .g → alone → portWaits s.me = true →
      s.me.engine = .f → s.socketOf s.me.id = u.toNat - 64 → canIssue s .f = true →
      elems.find? (fun k => !s.me.portIdle k false) = some e →
      let n := ((s.inst (instOf s.me.id)).ptk.toArray.getD (s.me.lcore - 192) 0).toNat
      Completes (.lotteryGrant u) s fun t => ∃ h, draws u.toNat (n ≠ 0) h ∧ t = { s with hub := h, me := s.me.portAct e false })

/-- PUSHSEED, POPSEED, FORKSEED and SETLEVEL become pending changes of their instance; SIGNAL reports once no earlier change is
pending; an instance without a reel answers 0x02 (R24, R261, R262, R277, R287, R373, R374).
The model's own readings that this rests on: log entries 55, 56, 94. -/
def Obligations.SeedLevelAndSignalPackets : Prop :=
  ∀ (s : State) (p : Packet) (l : List Packet),
    let i := s.cur.inst
    let x := s.inst i
    let granted := s.hub.active = true ∧ s.hub.statWait = [] ∧ x.granted = true ∧ x.waiting = false ∧ x.pkts = p :: l
    let done : Inst := { x with pkts := l, granted := false, waiting := false }
    let late := fun (take : W64) => take ≠ 0 && take.toNat ≤ (s.instTake i).toNat
    let change := fun (seed : W128) (take : W64) =>
      ({ op := p.op, tag := p.tag, arg := p.arg, seed := seed, take := take, late := late take } : Change)
    let pends := fun (j : Instr) (seed : W128) (take : W64) => Completes j s fun t =>
      OnlyInst s t i { done with pending := x.pending ++ [change seed take] } ∧ t = { s with insts := t.insts }
    let waits := fun (j : Instr) => Completes j s fun t => OnlyInst s t i { x with waiting := true } ∧ t = { s with insts := t.insts }
    let answers := fun (j : Instr) (code : BitVec 8) (v : W64) => Completes j s fun t =>
      OnlyInst s t i done ∧ t = { s with insts := t.insts, hub := t.hub } ∧
      Recorded s.hub t.hub { code := code, tag := p.tag, inst := i, op := p.op, value := v }
    (granted → x.holds = true →
      (p.op = 2 → p.arg.getLsbD 0 = false → pends .pushseed (p.w2 ++ p.w1) p.w3) ∧
      (p.op = 2 → p.arg.getLsbD 0 = true → s.hub.entropyOk = true → Completes .pushseed s fun t =>
        let seed := Config.entropy s.hub.entropyN
        let n := s.hub.slogCnt.toNat
        let entry := leBytes 8 n ++ [2, i.setWidth 8, 0, 0] ++ leBytes 4 (s.instTake i).toNat ++ leBytes 16 seed.toNat
        OnlyInst s t i { done with pending := x.pending ++ [change seed p.w3], seedDigest := sha3 (x.seedDigest ++ entry) } ∧
        t.hub.seedLog.lookup (n % 1024) = some entry ∧
        (∀ k, k ≠ n % 1024 → t.hub.seedLog.lookup k = s.hub.seedLog.lookup k) ∧
        t = { s with insts := t.insts, hub := { s.hub with entropyN := s.hub.entropyN + 1, slogCnt := s.hub.slogCnt + 1,
                                                           seedLog := t.hub.seedLog } }) ∧
      (p.op = 2 → p.arg.getLsbD 0 = true → s.hub.entropyOk = false → waits .pushseed) ∧
      (p.op = 3 → pends .popseed 0 p.w3) ∧ (p.op = 4 → pends .forkseed 0 p.w3) ∧ (p.op = 5 → pends .setlevel 0 0) ∧
      (p.op = 6 → x.pending = [] → answers .signal 0 (p.arg.setWidth 64)) ∧ (p.op = 6 → x.pending ≠ [] → waits .signal)) ∧
    (s.hub.active = true → s.hub.statWait = [] → x.pkts = p :: l → x.waiting = true → p.op = 6 →
      (x.pending = [] → answers .signalReport 0 (p.arg.setWidth 64)) ∧
      (x.pending ≠ [] → Completes .signalReport s (· = s))) ∧
    (granted → x.holds = false →
      (p.op = 2 → answers .pushseed 2 0) ∧ (p.op = 3 → answers .popseed 2 0) ∧ (p.op = 4 → answers .forkseed 2 0) ∧
      (p.op = 5 → answers .setlevel 2 0) ∧ (p.op = 6 → answers .signal 2 0))

/-- LAUNCH of a slate and an image that pass every check creates the instance's contexts and reports; it rejects by code; a reel
that has halted and drained retires with its record, and its contexts are gone (R14, R130, R262 to R265, R372). The model's
own readings that this rests on: log entries 59, 60, 62, 65, 66, 67. -/
def Obligations.ReelsLaunchAndRetire : Prop :=
  ∀ (s : State) (p : Packet) (rest : List Packet), s.mem.wf → s.hub.active = true → s.hub.statWait = [] →
    s.hub.statq.length < 256 →
    let i := s.cur.inst
    let x := s.inst i
    let others := fun (t : State) => (∀ j, j ≠ i → t.inst j = s.inst j) ∧ ∀ id, instOf id ≠ i → t.ctx? id = s.ctx? id
    let granted := x.granted = true ∧ x.waiting = false ∧ x.pkts = p :: rest ∧ p.op = 1
    let rejects := fun (h : Hub) (code : BitVec 8) (v : W64) => Completes .launch s fun t => others t ∧
      Recorded h t.hub { code := code, tag := p.tag, inst := i, op := p.op, value := v } ∧
      t.inst i = { x with pkts := rest, granted := false, waiting := false } ∧ (∀ id, t.ctx? id = s.ctx? id) ∧ SameGlobal s t
    (granted → x.holds = true → rejects s.hub 2 0) ∧
    (granted → x.holds = false → p.w1.toNat % 64 ≠ 0 → rejects s.hub 3 (BitVec.allOnes 64)) ∧
    (∀ u, granted → x.holds = false → p.w1.toNat % 64 = 0 → hubRead s i p.w1.toNat 1632 = .bad u → rejects u.hub 3 (BitVec.allOnes 64)) ∧
    (∀ b u off, granted → x.holds = false → p.w1.toNat % 64 = 0 → hubRead s i p.w1.toNat 1632 = .ok b u → slateFails b = some off →
      rejects u.hub 3 (BitVec.ofNat 64 off)) ∧
    (∀ b u head v img w l tab bs z, granted → x.holds = false → p.w1.toNat % 64 = 0 → (∀ c ∈ s.ctxs, instOf c.id ≠ i) →
      hubRead s i p.w1.toNat 1632 = .ok b u → slateFails b = none → hubRead u i (fieldAt b 8 8) 64 = .ok head v →
      hubRead u i (fieldAt b 8 8) (fieldAt head 0x10 8) = .ok img w → headerOk img = true → sectionsOf img = some l →
      sectionsOk l = true → pagesOk w i l = true → (∀ n, n < 208 → (loadCtx l { id := ctxIdOf i n }).isSome) →
      launchTable w i = .inr tab → s.hub.entropyOk = true → loadSections w i l [] = .ok bs z →
      let cls := chooseCls s.hub tab ((l.filter fun y => y.type == 5).map sheetOf)
      let denied := slateLevel b = 0 ∧ cls = 0xFFFF
      let lvl : BitVec 2 := if denied then 1 else slateLevel b
      Completes .launch s fun t => others t ∧
        t.hub.statq = s.hub.statq ++ [{ code := if denied then 8 else 0, tag := p.tag, inst := i, op := p.op, value := cls.setWidth 64 }] ∧
        (let y := t.inst i
         y.holds = true ∧ y.pkts = rest ∧ y.granted = false ∧ y.tag = p.tag ∧ y.remap = tab ∧ y.level = lvl ∧ y.castcls = cls ∧
         y.reelHash = reelHashOf img ∧ y.slateHash = sha3 b ∧ y.pending = [] ∧
         y.seeds = [if slateEseed b then Config.entropy s.hub.entropyN else BitVec.ofNat 128 (fieldAt b 0x10 16)]) ∧
        (∀ n c, n < 208 → loadCtx l (freshCtx s i b lvl cls n) = some c →
          t.ctx? (ctxIdOf i n) = some c ∨ t.ctx? (ctxIdOf i n) = some { c with life := .saved }) ∧
        (l.any (·.loads) = false → x.savebase.getLsbD 0 = false → SameGlobal s t)) ∧
    (s.retires i = true → x.pending = [] → s.Proper →
      let gone := fun (t : State) => others t ∧ (∀ c ∈ t.ctxs, instOf c.id ≠ i) ∧
        t.inst i = { x with holds := false, waiting := false, granted := x.granted && !x.waiting, resume := none } ∧
        (∀ c, s.ctx? c.id = some c → instOf c.id = i → (t.hub.block c.id).stat = c.stat) ∧
        t.hub.statq = s.hub.statq ++
          [{ code := 10, tag := x.tag, inst := i, op := 1, value := BitVec.ofNat 64 (s.cc - x.launchCc) }] ∧ Raised t.hub 1
      (x.runrec.getLsbD 0 = false → Completes .reelRetirement s fun t => gone t ∧ ∀ a, t.mem.get a = s.mem.get a) ∧
      (x.runrec.getLsbD 0 = true → physExists s.hub x.recordPa = true → homeState s 6 x.recordPa = .ok () →
        poisoned s x.recordPa (s.runRecord i).length = false →
        Completes .reelRetirement s fun t => gone t ∧ t.hub.counter 8 =
            (if s.hub.counter 8 = BitVec.allOnes 64 then s.hub.counter 8 else s.hub.counter 8 + 1) ∧
          (∀ k, k < (s.runRecord i).length → some (t.mem.get (x.recordPa + k)) = (s.runRecord i)[k]?) ∧
          ∀ a, (a < x.recordPa ∨ x.recordPa + (s.runRecord i).length ≤ a) → ¬ IsCounter s (.glob a 0) → t.mem.get a = s.mem.get a))

/-! ### Contexts on their cores (R26, R180 to R184, R270, R271, R279, R282, R311, R334 to R344, R368) -/

/-- A context is saved at a slice switch, a wait-hold expiry or a move; another of its core, or itself, runs again; while saves
are disabled it is removed instead, as it is when a quiesce outlasts its time (R26, R270, R279, R335, R339, R341, R388). The
model's own readings that this rests on: log entries 33, 97, 123. -/
def Obligations.ContextsAreSavedAndRestored : Prop :=
  ∀ (s : State), s.mem.wf → s.Proper →
    let id := s.me.id
    let base := s.saveAddr id
    let timed := (s.inst (instOf id)).level = 0
    let c := fun (dem : Bool) => { s.me.atRest with life := .saved, demoted := s.me.demoted || dem }
    -- the hub's reads and writes of save areas pass the SRAM, are counted and journalled, and make whole atoms good
    let changes := fun (t : State) =>
      t = { s with me := t.me, rest := t.rest, mem := t.mem, sram := t.sram, bdies := t.bdies, poison := t.poison, flips := t.flips,
                   insts := t.insts, hub := t.hub } ∧ ErrorsNoted s t ∧ ∀ j, ∃ r, t.inst j = { s.inst j with resume := r }
    let written := fun (dem : Bool) (t : State) => t.ctx? id = some (c dem) ∧
      (∀ a, ¬ IsCounter s (.glob a 0) → t.mem.get a = (({ s with me := c dem }).writeImage id).mem.get a) ∧
      (∀ a, (a < base ∨ base + 2 ^ 24 ≤ a) → ¬ IsCounter s (.glob a 0) → t.mem.get a = s.mem.get a)
    let othersBut := fun (j : BitVec 12) (dem : Bool) (t : State) => ∀ k, k ≠ id → k ≠ j → ∀ d, s.ctx? k = some d →
      t.ctx? k = some { d with demoted := d.demoted || (dem && instOf k == instOf id) }
    let runs := fun (d : Ctx) (t : State) => t.me = { d with life := .running, holdCc := 0, folio := t.me.folio, demoted := t.me.demoted } ∧
      ∀ n, t.me.slot n = if (d.slot n).st = 2 ∧ ¬ (∃ f ∈ ({ s with me := d } : State).coreFrames.toList, f.tagged d.id n = true)
        then { d.slot n with st := 1 } else d.slot n
    let switches := fun (j : Instr) (dem : Bool) => ∀ d, d ∈ s.rest → s.nextSlice = some d.id → s.atBoundary = true → s.canSave id = true →
      physExists s.hub base = true → s.moving id = false →
      Completes j s fun t => runs d t ∧ t.me.demoted = (d.demoted || (dem && instOf d.id == instOf id)) ∧ written dem t ∧
        othersBut d.id dem t ∧ changes t
    (s.me.life = .running → s.me.imageDue = none →
      (s.hub.lets (instOf id) = true → s.me.arrived ≠ none → switches .sliceSwitch false) ∧
      (s.hub.lets (instOf id) = true → s.me.arrived = none → s.me.drained = true → switches .sliceSwitch (decide timed)) ∧
      (s.hub.lets (instOf id) = true → 256 ≤ s.me.holdCc → s.me.allHeld = true → switches .waitHoldExpiry (decide timed)) ∧
      (s.moving id = true → s.atBoundary = true → s.hub.dieOp = none →
        (s.canSave id = true → physExists s.hub base = true → Completes .preemption s fun t => t.me = c (decide timed) ∧
          written (decide timed) t ∧ othersBut id (decide timed) t ∧ changes t) ∧
        (s.canSave id = false → Completes .preemption s (Removed s · 0x53 0))) ∧
      (∀ d, s.moving id = true → s.hub.dieOp = some d → d.q + 65536 ≤ s.cc →
        d.fenced = true ∨ (socketsOf s.hub.product .s).contains d.socket.toNat = false →
        Completes .quiesceSaveTimeout s (Removed s · 0x50 (d.socket.setWidth 64)))) ∧
    (s.me.life = .saved → s.mayRestore s.me = true → s.me.qualifies = true → s.coreIdle id = true →
      (∀ d ∈ s.rest, d.qualifies = true → s.sameCore d.id id = false) →
      Completes .contextRestore s fun t => runs s.me t ∧ t.me.demoted = s.me.demoted ∧ changes t ∧
        ∀ a, ¬ IsCounter s (.glob a 0) → t.mem.get a = s.mem.get a)

/-- An expired bound and a watchpoint's report are trapped to the handler; reports for a context merge; the host resumes a stopped
context from its save area and removes one; the load of a folio that an ERET began is asked of the host or carried out (R180,
R182, R282, R283, R311, R334, R336, R337, R343, R366, R368). The model's own readings that this rests on: log entries 15, 28,
34, 72, 105, 117, 123. -/
def Obligations.ContextEventsAndCommands : Prop :=
  ∀ (s : State),
    let became := fun (t : State) (x : TrapState) => t = { s with me := { s.me with t := x }, matches_ := t.matches_ }
    let runs := s.me.life = .running ∧ s.hub.lets (instOf s.me.id) = true
    -- the first expired bound in the order of R330: TVAL names its stream, its cluster, what it waits for and its number
    (Handles s → runs → s.me.copyUnder = false →
      let ends := fun (code cl : Nat) (w : Option Wait) (seq : W64) =>
        let wait := match w with | some w => w.kind.toNat * 2 ^ 52 + w.obj.toNat * 2 ^ 32 | none => 0
        Completes .boundOverrun s (TrapEntry s · 0x49 (BitVec.ofNat 64 (code * 2 ^ 60 + cl * 2 ^ 56 + wait + seq.toNat % 2 ^ 32)))
      let late := fun (st : Strm) => ∃ h, st.headCc = some h ∧ boundOf st.pfx ≠ 0 ∧ h + boundOf st.pfx ≤ s.me.runCc
      let cl := fun (k : BitVec 4) => (s.me.v.cluster k).st
      let engine := match s.me.engine with | .m => 1 | .v => 2 | _ => 4
      (late s.me.s → ends 0 0 s.me.s.wait s.me.s.seq) ∧
      (¬ late s.me.s → s.sSettled = true →
        (∀ m, s.me.m.cur = some m → m.bound ≠ 0 → m.headCc + m.bound ≤ s.me.runCc → s.me.engine = .m → ends 1 0 none m.seq) ∧
        (s.me.m.cur = none → s.me.engine ∈ [.m, .v, .f] →
          (s.me.v.forked = false → late s.me.e → ends engine 0 s.me.e.wait s.me.e.seq) ∧
          (∀ k, s.me.engine = .v → s.me.v.forked = true → late (cl k) → s.lowerSettled k.toNat = true →
            (∀ j : BitVec 4, j.toNat < k.toNat → ¬ late (cl j)) → ends 2 k.toNat (cl k).wait (cl k).seq) ∧
          (s.engineSettled = true → (if s.me.v.forked then ∀ k, ¬ late (cl k) else ¬ late s.me.e) →
            (∀ k l, s.me.cp.copies = k :: l → k.bound ≠ 0 → k.headCc + k.bound ≤ s.me.runCc → ends 3 0 none k.seq) ∧
            (s.me.cp.copies = [] → late s.me.c → ends 3 0 s.me.c.wait s.me.c.seq))))) ∧
    (∀ v, Handles s → runs → s.me.copyUnder = false → s.causePending = false → s.me.t.wpend = some v →
      Completes .watchpoint s fun t => TrapEntry s t 0x58 v ∧ t.me.t.wpend = none) ∧
    (∀ m l, s.matches_ = m :: l → m.ctx = s.me.id → s.me.life = .running → Completes .watchpointMatch s fun t =>
      t.matches_ = l ∧ became t { s.me.t with wpend := some (match s.me.t.wpend with
        | none => m.tval
        | some v => v ||| 0x800000000000000) }) ∧
    (∀ id r, s.hub.active = true → ctxBlock s.hub.bus.off.toNat = some (id, r) → s.Proper → s.mem.wf →
      (∀ c, s.ctx? id = some c → c.life = .stopped → c.imageDue = none →
        let base := s.saveAddr id
        Completes .ctxcmdResume s fun t => (∃ d, t.ctx? id = some d ∧ d.life = .saved ∧ d.t.hmode = false ∧ d.s.halted = c.s.absent ∧
            d.s.pc = alignPc (BitVec.ofNat 64 (s.mem.readLE (base + 0x28) 8)) ∧
            (∀ g : BitVec 5, g ≠ 0 → d.rg g = BitVec.ofNat 64 (s.mem.readLE (base + 0x140 + 8 * g.toNat) 8)) ∧
            d.taint = BitVec.ofNat 32 (s.mem.readLE (base + 0x240) 8) ∧ d.t.tvec = BitVec.ofNat 64 (s.mem.readLE (base + 0x20) 8) ∧
            d.nflags = BitVec.ofNat 32 (s.mem.readLE (base + 0x18) 8)) ∧
          (∀ k, k ≠ id → t.ctx? k = s.ctx? k) ∧
          (∀ a, (a < base ∨ base + 2 ^ 24 ≤ a) → ¬ IsCounter s (.glob a 0) → t.mem.get a = s.mem.get a) ∧
          t = { s with me := t.me, rest := t.rest, mem := t.mem, sram := t.sram, bdies := t.bdies, poison := t.poison,
                       flips := t.flips, insts := t.insts } ∧ ∀ j, ∃ r, t.inst j = { s.inst j with resume := r }) ∧
      (∀ u, s.me.life ≠ .none → s.focus id = some u →
        -- one stopped for the host keeps the record that its save area holds
        (u.me.life = .stopped → u.me.imageDue = none → Completes .ctxcmdRemove s fun t => ∃ v : State, v.focus s.me.id = some t ∧ v.me.id = id ∧ v.me.life = .removed ∧
          v.me.t.cause = 0x53 ∧ v.me.t.tval = 0 ∧ v.me.t.epc = BitVec.ofNat 64 (s.mem.readLE (s.saveAddr id + 0x28) 8) ∧
          v.me.sq.loads <:+ u.me.sq.loads ∧ v.me.sq.stores <:+ u.me.sq.stores ∧
          (v.inst (instOf id)).recFlags.getLsbD 0 = true ∧ RemovalTold u v) ∧
        (u.me.life ≠ .stopped → u.me.s.halted = false → u.me.life ≠ .removed →
          Completes .ctxcmdRemove s fun t => ∃ v, Removed u v 0x53 0 ∧ v.focus s.me.id = some t) ∧
        (u.me.life ≠ .stopped → u.me.s.halted = true ∨ u.me.life = .removed →
          Completes .ctxcmdRemove s fun t => u.focus s.me.id = some t))) ∧
    (∀ slot ph, s.me.t.load = some (slot, ph) → s.me.life = .running → s.me.t.hmode = false → (s.me.slot slot).st = 1 →
      let e := s.me.slot slot
      let picks := fun (p : BitVec 2) (t : State) =>
        t.me = { s.me with folio := t.me.folio, t := { s.me.t with load := some (slot, p), loadFrame := t.me.t.loadFrame } } ∧
        t.me.slot slot = e ∧ (∀ n, t.me.slot n = s.me.slot n ∨ ((s.me.slot n).st = 2 ∧ t.me.slot n = { s.me.slot n with st := 1 })) ∧
        (t.coreFrames.toArray.getD t.me.t.loadFrame.toNat {}).valid = false ∧ t = { s with me := t.me, cores := t.cores, hub := t.hub }
      (ph = 0 → s.hub.funcmode.getLsbD 1 = true → s.hub.folreq.length < 16 → Completes .folioFrameLoad s fun t =>
        Asserts { s.hub with folreq := s.hub.folreq ++ [{ ctx := s.me.id, slot := slot, image := e.image, hash := e.hash }] } t.hub 2 ∧
        picks 1 t) ∧
      (ph = 0 → s.hub.funcmode.getLsbD 1 = false → Completes .folioFrameLoad s fun t => picks 2 t ∧ t.hub = s.hub) ∧
      -- the host has refused the load
      (ph = 3 → Handles s → s.me.copyUnder = false → Completes .folioFrameLoad s fun t =>
        TrapEntry s t 0x21 0x10 ∧ t.me.t.load = none ∧ t.me.folio = s.me.folio) ∧
      (∀ h u, ph = 2 → readVirt s e.image.toNat 1 = .ok h u →
        (∀ n, headerCheck h e = some n → Handles s → s.me.copyUnder = false → Completes .folioFrameLoad s fun t =>
          TrapEntry u t 0x21 (BitVec.ofNat 64 n) ∧ t.me.t.load = none ∧ t.me.folio = s.me.folio) ∧
        (∀ bs v, headerCheck h e = none → readVirt s e.image.toNat ((imgField h 0x10 4 + 31) / 32) = .ok bs v →
          bodyCheck (bs.take (imgField h 0x10 4)) e = none → Completes .folioFrameLoad s fun t =>
            (∀ n, t.me.slot n = if n = slot then { e with st := 2 } else s.me.slot n) ∧
            t.me = { s.me with folio := t.me.folio, t := { s.me.t with load := none } } ∧
            (let f := t.coreFrames.toArray.getD s.me.t.loadFrame.toNat {}
             f.tagged s.me.id slot = true ∧ f.image = bs.take (imgField h 0x10 4)) ∧
            SameGlobal s t ∧ t.hub = v.hub ∧ t.rest = s.rest)))

/-! ### The host (R294, R297, R298, R304 to R310, R341, R352 to R368, R372, R376, R379, R389, R390) -/

/-- The writes of the hub's own registers, and the reads that remove a record (R356 to R358, R361, R364 to R368, R372, R376,
R379). The model's own readings that this rests on: log entries 18, 72, 73, 100, 117. -/
def Obligations.HubRegistersTakeWrites : Prop :=
  ∀ (s : State), s.hub.active = true → s.mem.wf →
    let v := s.hub.bus.v
    let off := s.hub.bus.off.toNat
    let h := s.hub
    let gives := fun (j : Instr) (b : Hub) => Completes j s (· = { s with hub := b })
    let same := fun (j : Instr) => Completes j s (· = s)
    let reel := ∃ i, (s.inst i).holds = true
    let rating : W16 := if s.hub.product = 0x18 then 2300 else 4500
    (¬ reel → gives .funcmodeWrite { h with funcmode := v.setWidth 6 }) ∧
    (reel → Completes .funcmodeWrite s fun t => t = { s with hub := { h with funcmode := t.hub.funcmode } } ∧
      ∀ k, k < 6 → t.hub.funcmode.getLsbD k = if k = 3 then h.funcmode.getLsbD 3 else v.getLsbD k) ∧
    ((∀ p ∈ s.ports.toList, p.up = false) → gives .pkgidWrite { h with pkgid := v.setWidth 16 }) ∧
    ((∃ p ∈ s.ports.toList, p.up = true) → same .pkgidWrite) ∧
    (reel → same .colltabWrite) ∧
    (∀ k : Fin 64, ¬ reel → off = 0x400 + 8 * k.val → Completes .colltabWrite s fun t =>
      (∀ n : Fin 64, t.hub.colltab[n] = if n = k then v &&& 0x80000000003FFFFF else h.colltab[n]) ∧
      t = { s with hub := { h with colltab := t.hub.colltab } }) ∧
    gives .pwrctlWrite { h with limit := if (v.extractLsb' 16 16).toNat ≤ rating.toNat then v.extractLsb' 16 16 else rating } ∧
    (reel → gives .boctlWrite { h with boArm := v.getLsbD 0, boWin := if (v.extractLsb' 24 8).toNat ≤ 130 then v.extractLsb' 24 8 else h.boWin }) ∧
    (¬ reel → gives .boctlWrite { h with boArm := v.getLsbD 0, boJen := v.getLsbD 1,
                                         boWin := if (v.extractLsb' 24 8).toNat ≤ 130 then v.extractLsb' 24 8 else h.boWin }) ∧
    gives .elogcntWrite { h with elogLost := 0 } ∧
    (∀ r l, h.folreq = r :: l → gives .folreqRead { h with folreq := l, hostOut := r.hash.setWidth 64 }) ∧
    (∀ r l, h.elogq = r :: l → gives .elogqRead { h with elogq := l, hostOut := r.w3 }) ∧
    (∀ (k : Fin 18) sk, off = 0x200000 + 65536 * (k.val / 6) + 8 * (k.val % 6) → portSocket h.product k.val = some sk →
      h.absent sk = false →
      let x := s.ports[k]
      let w := { x with en := v.getLsbD 0, retry := x.retry &&& ~~~(v.extractLsb' 32 16) }
      (v.getLsbD 0 = true ∨ x.up = false → Completes .vxportWrite s fun t =>
        (∀ n : Fin 18, t.ports[n] = if n = k then w else s.ports[n]) ∧ t = { s with ports := t.ports }) ∧
      (v.getLsbD 0 = false → x.up = true → Completes .vxportWrite s fun t =>
        (∀ n : Fin 18, t.ports[n] = if n = k then { w with up := false, fails := 0 } else s.ports[n]) ∧
        (∃ b, Logged h b (logRecord s 6 sk 0 none 0 (BitVec.ofNat 64 k.val)) ∧ Asserts b t.hub 8) ∧
        t = { s with ports := t.ports, hub := t.hub, me := t.me, rest := t.rest } ∧
        t.me = { s.me with cp := { s.me.cp with copies := t.me.cp.copies } })) ∧
    (∀ slot, v.extractLsb' 0 12 = s.me.id → v.extractLsb' 12 4 = 0 → s.me.life = .running → s.me.t.load = some (slot, 1) →
      (v.getLsbD 16 = true → Completes .folresp s (· = { s with me := { s.me with t := { s.me.t with load := some (slot, 2) } } })) ∧
      -- a refusal traps once no copy is in its unit
      (v.getLsbD 16 = false → s.me.copyUnder = false → Handles s → Completes .folresp s fun t =>
        TrapEntry s t 0x21 0x10 ∧ t.me.t.load = none) ∧
      (v.getLsbD 16 = false → s.me.copyUnder = true → Completes .folresp s
        (· = { s with me := { s.me with t := { s.me.t with load := some (slot, 3) } } }))) ∧
    (let page := fun (o : Nat) (f : Inst → W64 → Inst) => ∀ i : BitVec 4, off = o + 8 * i.toNat → Completes .registerWrite s fun t =>
        OnlyInst s t i (f (s.inst i) v) ∧ t = { s with insts := t.insts }
     page 0x100 (fun x v => { x with ptroot := v &&& 0x7FFFFF00001 }) ∧
     page 0x180 (fun x v => { x with savebase := v &&& 0x7FFFF000001 }) ∧
     page 0xA00 (fun x v => { x with runrec := v &&& 0x7FFFFFFE001 })) ∧
    (off = 0x50 → gives .registerWrite { h with bar2 := v &&& 0xF0FFFFFFF0000001 }) ∧
    (∀ k : Fin 4, k.val < 3 → off = 0x10000 + 8 * k.val → gives .registerWrite { h with stage := h.stage.set k v }) ∧
    (∀ (id : BitVec 12) (k : Fin 4), lcoreOf id < 208 →
      let b := fun (t : State) => t.hub.block id
      let only := fun (t : State) => (∀ j, j ≠ id → t.hub.block j = h.block j) ∧ Rewatched s t ∧
        Watches t id k (b t).wpat[k] ∧ ∀ n : Fin 4, n ≠ k → (b t).wpat[n] = (h.block id).wpat[n]
      let at_ := 0x400000 + 256 * id.toNat + 8 * k.val
      (off = at_ → Completes .registerWrite s fun t => only t ∧
        b t = { h.block id with wpaddr := (h.block id).wpaddr.set k (v &&& 0x00FFFFFFFFFFFFE0), wpat := (b t).wpat }) ∧
      (off = at_ + 32 → Completes .registerWrite s fun t => only t ∧
        b t = { h.block id with wpctl := (h.block id).wpctl.set k (v &&& 0x1FFFFF), wpat := (b t).wpat })) ∧
    (off ∈ [0x0, 0x20, 0x28, 0x30, 0x48, 0xA98, 0xAC0, 0x10020, 0x20000, 0x20010] → same .registerWrite)

/-- The writes of a B-die's registers: each goes to the die whose block the offset names, unless the die is absent (R294, R297,
R298, R305, R361, R362, R384).
The model's own readings that this rests on: log entries 70, 73. -/
def Obligations.BDieRegistersTakeWrites : Prop :=
  ∀ (s : State) (b sk : Nat) (r : Nat), s.hub.active = true → s.mem.wf → bSocket s.hub.product b = some sk → r < 65536 →
    s.hub.bus.off.toNat = 0x100000 + 65536 * b + r →
    let v := s.hub.bus.v
    let d := s.bdie b
    let gives := fun (j : Instr) (x : BDie) => Completes j s fun t =>
      t.bdie b = x ∧ (∀ n, n ≠ b → t.bdie n = s.bdie n) ∧ t = { s with bdies := t.bdies }
    let epoch := (v.extractLsb' 40 8).toNat
    let scrub : BitVec 5 := v.extractLsb' 8 5
    (s.hub.absent sk = true → ∀ j ∈ [Instr.pchashWrite, .hbmctlWrite, .pccntWrite, .sramctlWrite, .migctlWrite, .registerWrite],
      Completes j s (· = s)) ∧
    (s.hub.absent sk = false →
      (d.en = true → gives .pchashWrite { d with hlock := true }) ∧
      (∀ k : Fin 6, d.en = false → r = 8 * k.val → Completes .pchashWrite s fun t =>
        t.bdie b = { d with pchash := d.pchash.set k (v.setWidth 23) } ∧ (∀ n, n ≠ b → t.bdie n = s.bdie n) ∧
        (∀ a, (d.pchash[k] = v.setWidth 23 ∨ isHbm a = false ∨ dieOf a ≠ b) → t.mem.get a = s.mem.get a) ∧
        t = { s with bdies := t.bdies, mem := t.mem, sram := t.sram }) ∧
      gives .hbmctlWrite { d with en := v.getLsbD 0, hlock := d.hlock && v.getLsbD 0, scrub := if scrub = 0 ∨ (10 ≤ scrub.toNat ∧ scrub.toNat ≤ 24) then scrub else d.scrub } ∧
      -- a write comes before the counts of its cycle
      (∀ k : Fin 64, r = 0x100 + 8 * k.val → gives .pccntWrite
        { d with pccnt := d.pccnt.set k (v.setWidth 32 + BitVec.ofNat 32 ((d.countedIn s.cc).count k.val)) }) ∧
      ((v.extractLsb' 0 6).toNat ≤ 32 → gives .sramctlWrite { d with retain := v.setWidth 6 }) ∧
      (32 < (v.extractLsb' 0 6).toNat → gives .sramctlWrite d) ∧
      (16 ≤ epoch → epoch ≤ 40 → v.extractLsb' 24 8 ≠ 0 → gives .migctlWrite { d with migctl := v &&& 0xFFFFFFFFFF000001 }) ∧
      (epoch < 16 ∨ 40 < epoch ∨ v.extractLsb' 24 8 = 0 → gives .migctlWrite d) ∧
      (r = 0x38 → gives .registerWrite { d with hbmUnc := v.extractLsb' 32 32, hbmCor := v.extractLsb' 0 32 }) ∧
      (r = 0x58 → gives .registerWrite { d with migbase := v &&& 0x7FFFFFF0000 }) ∧
      (r = 0x60 → gives .registerWrite { d with migrmap := v &&& 0x7FFFFFF0000 }) ∧
      (r = 0x68 → gives .registerWrite { d with migcnt := v &&& 0x7FFFFFF0000 }))

/-- Invalidations, the staged remap table and its commit, and die operations: each begins, is held while another is in progress,
is discarded with its fail bit, or completes (R304, R352 to R354, R387, R389, R390). The model's own readings that this rests
on: log entries 17, 18, 70, 78, 87. -/
def Obligations.RemapsInvalidationsAndDies : Prop :=
  -- a brown-out entry, or the resumption after it, is in progress
  (∀ s : State, (s.hub.boot = 1 ∧ s.hub.power = .entering) ∨ (s.hub.power = .waiting ∧ s.hub.resumeOk = true) →
    let held := fun (j : Instr) => Completes j s (· = { s with hub := { s.hub with remapHeld := s.hub.remapHeld ++ [s.hub.bus] } })
    (s.hub.bus.off.toNat = 0x58 → held .remapgo) ∧
    (s.hub.remapBusy ≠ none → held .remapEntryWrite)) ∧
  ∀ (s : State), s.hub.active = true → s.mem.wf →
    let h := s.hub
    let v := h.bus.v
    let gives := fun (j : Instr) (b : Hub) => Completes j s (· = { s with hub := b })
    (h.xl = none → gives .xlinv { h with xl := some (v, s.cc) }) ∧
    (h.xl ≠ none → gives .xlinv { h with xlHeld := h.xlHeld ++ [v] }) ∧
    (∀ w n, h.xl = some (w, n) →
      ((∃ c ∈ s.ctxs, c.xlPending s w n = true) → Completes .xlinvComplete s (· = s)) ∧
      ((∀ c ∈ s.ctxs, c.xlPending s w n = false) →
        let ends := fun (x : Option (W64 × Nat)) (l : List W64) => Completes .xlinvComplete s fun t =>
          Rewatched { s with hub := { h with xl := x, xlHeld := l } } t ∧
          -- the watchpoints over the range are translated again
          ((h.blocks.Pairwise fun a b => a.1 ≠ b.1) → ∀ id, t.hub.block id = { h.block id with wpat := (t.hub.block id).wpat } ∧
            ∀ k : Fin 4, if instOf id = w.extractLsb' 60 4 ∧ (h.block id).overlaps k w = true
              then Watches t id k (t.hub.block id).wpat[k] else (t.hub.block id).wpat[k] = (h.block id).wpat[k])
        (h.xlHeld = [] → ends none []) ∧ ∀ x l, h.xlHeld = x :: l → ends (some (x, s.cc)) l)) ∧
    (h.remapBusy ≠ none → gives .remapEntryWrite { h with remapHeld := h.remapHeld ++ [h.bus] }) ∧
    (h.remapBusy = none → (h.bus.off.toNat ≠ 0x58 → h.funcmode.getLsbD 3 = false → Completes .remapEntryWrite s (· = s)) ∧
      ∀ (i : BitVec 4) (n : Fin 208), h.bus.off.toNat = 0x40000 + 1024 * i.toNat + 4 * n.val → h.funcmode.getLsbD 3 = true →
        Completes .remapEntryWrite s fun t =>
          (∀ j, j ≠ i → t.inst j = s.inst j) ∧ t = { s with insts := t.insts } ∧
          (∀ k, k < 208 → (t.inst i).stagedEntry k = if k = n.val then v.setWidth 32 &&& 0xFFFF0001
            else if (s.inst i).holds then (s.inst i).stagedEntry k else (s.inst i).remap.toArray.getD k 0) ∧
          (t.inst i = { s.inst i with staged := (t.inst i).staged, remap := (t.inst i).remap }) ∧
          ((s.inst i).holds = true → (t.inst i).remap = (s.inst i).remap)) ∧
    (h.bus.off.toNat = 0x58 →
      let i : BitVec 4 := v.extractLsb' 0 4
      let x := s.inst i
      let free := h.remapBusy = none ∧ h.dieOp = none
      let bad := tableFails h (Vector.ofFn fun n => x.stagedEntry n.val)
      (¬ free → gives .remapgo { h with remapHeld := h.remapHeld ++ [h.bus] }) ∧
      (free → (h.funcmode.getLsbD 3 = false ∨ x.holds = false) → gives .remapgo { h with remapFail := true }) ∧
      (free → h.funcmode.getLsbD 3 = true → x.holds = true → bad ≠ none → Completes .remapgo s fun t =>
        OnlyInst s t i { x with staged := [] } ∧ t = { s with insts := t.insts, hub := { h with remapFail := true } }) ∧
      (free → h.funcmode.getLsbD 3 = true → x.holds = true → bad = none →
        gives .remapgo { h with remapFail := false, remapBusy := some i })) ∧
    (∀ i, h.remapBusy = some i →
      ((∃ c ∈ s.ctxs, c.life = .running ∧ s.moving c.id = true) → Completes .remapCommitComplete s (· = s)) ∧
      ((∀ c ∈ s.ctxs, c.life = .running → s.moving c.id = false) → h.remapHeld = [] → Completes .remapCommitComplete s fun t =>
        OnlyInst s t i { s.inst i with remap := Vector.ofFn fun n => (s.inst i).stagedEntry n.val, staged := [], recls := true } ∧
        t = { s with insts := t.insts, hub := { h with remapBusy := none } })) ∧
    (let sk := (v.extractLsb' 0 6).toNat
     let op : BitVec 2 := v.extractLsb' 6 2
     let rows := fun (P : State → Prop) => (op = 1 → Completes .dierstReset s P) ∧ (op = 2 → Completes .dierstDisable s P) ∧
       (op = 3 → Completes .dierstEnable s P)
     (h.dieOp ≠ none → rows (· = { s with hub := { h with dieHeld := h.dieHeld ++ [v] } })) ∧
     (h.dieOp = none → s.dieRefused op sk = true → rows (· = { s with hub := { h with dieFail := true } })) ∧
     (h.dieOp = none → s.dieRefused op sk = false →
       (op = 3 → h.isGood sk = false → Completes .dierstEnable s
         (· = { s with hub := { h with dieOp := some { socket := BitVec.ofNat 6 sk, op := 3, q := s.cc, tables := [] }, dieFail := false } })) ∧
       (op ≠ 0 → op ≠ 3 → rows fun t =>
         (∃ d, t.hub.dieOp = some d ∧ d.socket.toNat = sk ∧ d.op = op ∧ d.q = s.cc ∧
           -- the links go once no context that moves is left on the die
           (if d.fenced = true then (∀ k, hopUsable t.hub sk k = false) ∧
               (sk < 36 → t.hub.trained.getLsbD sk = false ∧ t.hub.linkCrc.toArray.getD sk 0 = 0) else t.hub.linkUp = h.linkUp ∧ t.hub.linkFailed = h.linkFailed) ∧
           ((∀ c ∈ s.ctxs, c.life = .running → s.socketOf c.id ≠ sk) → d.fenced = true) ∧
           ((∃ c ∈ s.ctxs, c.life = .running ∧ s.socketOf c.id = sk ∧ t.moving c.id = true) → d.fenced = false)) ∧ t.hub.dieFail = false ∧
         (∀ k, k < 36 → t.hub.isGood k = (if k = sk then false else h.isGood k)) ∧
         (∀ k, k < 36 → t.hub.disabled.getLsbD k = (if k = sk ∧ op = 2 then true else h.disabled.getLsbD k)) ∧
         t.mem = s.mem ∧
         (kindOf h.product sk ≠ .s → t.me = s.me ∧ t.rest = s.rest)))) ∧
    (∀ d pass trained, h.dieOp = some d → d.tables = [] → d.fenced = true ∨ d.op = 3 → h.dieHeld = [] → h.remapHeld = [] →
      (∀ c ∈ s.ctxs, c.life = .running → s.moving c.id = false) →
      let back := d.op ≠ 2 ∧ pass = true ∧ trained &&& facing h.product d.socket.toNat ≠ 0
      Completes (.dierstComplete pass trained) s fun t =>
        t.hub.dieOp = none ∧ (t.hub.dieFail = true ↔ d.op ≠ 2 ∧ ¬ back) ∧ Raised t.hub 8 ∧
        (∀ k, k < 36 → (t.hub.isGood k = true ↔ if k = d.socket.toNat then back else h.isGood k = true)) ∧
        (∀ k, k < 36 → (t.hub.trained.getLsbD k = true ↔ if k = d.socket.toNat ∧ d.op ≠ 2
          then trained &&& facing h.product k ≠ 0 else h.trained.getLsbD k = true)) ∧
        (d.op = 1 → t.hub.counter (128 + d.socket.toNat) = if h.counter (128 + d.socket.toNat) = BitVec.allOnes 64
          then h.counter (128 + d.socket.toNat) else h.counter (128 + d.socket.toNat) + 1) ∧
        t = { s with hub := t.hub })

/-- The BAR2 aperture reads and writes an instance's space, or the staging buffer in recovery; peers and other packages are served
through windows and the access-control table, and refused outside them (R309, R359, R363, R370). The model's own readings that
this rests on: log entries 74, 76, 100, 122. -/
def Obligations.ApertureAndPeersReachMemory : Prop :=
  ∀ (s : State), s.mem.wf → s.hub.staging.wf →
    let h := s.hub
    let n := 2 ^ h.bus.z.toNat
    let off := h.bus.off.toNat
    let one := fun (va n : Nat) => va % 65536 + n ≤ 65536 ∧ va + n ≤ 2 ^ 56
    let ready := fun (pa n : Nat) => homeState s 6 pa = .ok () ∧ poisoned s pa n = false ∧ ∀ k, k < n → ¬ IsCounter s (.glob (pa + k) 0)
    let moved := fun (t : State) =>
      t = { s with mem := t.mem, sram := t.sram, bdies := t.bdies, hub := t.hub, replies := t.replies, poison := t.poison, flips := t.flips }
    -- only what the hub keeps of memory errors may differ
    let quiet := fun (t : State) => t.hub = { h with life := t.hub.life, elogq := t.hub.elogq, elogLost := t.hub.elogLost,
                                                     msix := t.hub.msix, msixHeld := t.hub.msixHeld }
    let writes := fun (pa n : Nat) (x : W64) (t : State) => (∀ k, k < n → t.mem.get (pa + k) = x.extractLsb' (8 * k) 8) ∧
      (∀ a, (a < pa ∨ pa + n ≤ a) → ¬ IsCounter s (.glob a 0) → t.mem.get a = s.mem.get a)
    let le := fun (pa n : Nat) => BitVec.ofNat 64 (s.mem.readLE pa n)
    (h.boot = 2 → h.power = .on →
      Completes .bar2HostRead s (· = { s with hub := { h with hostOut := BitVec.ofNat 64 (h.staging.readLE off n) } }) ∧
      (off + n ≤ 2 ^ 28 → Completes .bar2HostWrite s fun t => t = { s with hub := { h with staging := t.hub.staging } } ∧
        ∀ a, t.hub.staging.get a = if off ≤ a ∧ a < off + n then h.bus.v.extractLsb' (8 * (a - off)) 8 else h.staging.get a)) ∧
    (h.active = true → h.bar2.getLsbD 0 = true →
      let i : BitVec 4 := h.bar2.extractLsb' 60 4
      let va := (h.bar2.extractLsb' 28 28).toNat * 2 ^ 28 + off
      one va n →
      (∀ pa, (walk s i va false).pa = some pa → ready pa n → Completes .bar2HostRead s fun t =>
        t.hub.hostOut = le pa n ∧ ErrorsNoted s { t with hub := { t.hub with hostOut := h.hostOut } } ∧ SameGlobal s t ∧ moved t ∧
          t.replies = s.replies) ∧
      (∀ pa, (walk s i va true).pa = some pa → ready pa n → Completes .bar2HostWrite s fun t =>
        writes pa n h.bus.v t ∧ moved t ∧ ErrorsNoted s t ∧ t.replies = s.replies) ∧
      ((walk s i va false).pa = none → (walk s i va false).hold = false → Completes .bar2HostRead s fun t =>
        ∃ b, Logged h b (logRecord s 0x0B 0xFF 0 none (BitVec.ofNat 64 va) 0) ∧
          t = { s with hub := { b with hostOut := BitVec.ofNat 64 (2 ^ (8 * n) - 1) } }) ∧
      ((walk s i va true).pa = none → (walk s i va true).hold = false → Completes .bar2HostWrite s fun t =>
        Logged h t.hub (logRecord s 0x0B 0xFF 0 none (BitVec.ofNat 64 va) 1) ∧ t = { s with hub := t.hub })) ∧
    (h.active = true → h.bar2.getLsbD 0 = false →
      let va := (h.bar2.extractLsb' 28 28).toNat * 2 ^ 28 + off
      (Completes .bar2HostWrite s fun t =>
        Logged h t.hub (logRecord s 0x0B 0xFF 0 none (BitVec.ofNat 64 va) 1) ∧ t = { s with hub := t.hub }) ∧
      (Completes .bar2HostRead s fun t => ∃ b, Logged h b (logRecord s 0x0B 0xFF 0 none (BitVec.ofNat 64 va) 0) ∧
        t = { s with hub := { b with hostOut := BitVec.ofNat 64 (2 ^ (8 * n) - 1) } })) ∧
    (∀ (b : BitVec 4) (pkg : W16) (a : BitVec 36) (k : BitVec 24) sk, bSocket h.product b.toNat = some sk → h.power ≠ .off →
      let pa := b.toNat * 2 ^ 39 + 0x4000000000 + a.toNat
      let legal := a.toNat % 32 = 0 ∧ k.toNat % 32 = 0 ∧ k ≠ 0 ∧ a.toNat + k.toNat ≤ 2 ^ 36 ∧ (s.bdie b.toNat).grants pkg a.toNat k.toNat = true
      let tells := fun (c : BitVec 2) (bs : List Byte) => Completes (.remoteReadRequest b pkg a k) s fun t =>
        t.replies = s.replies ++ [{ pkg := pkg, code := c, bytes := bs }] ∧ t.mem = s.mem ∧ moved t ∧ quiet t
      (h.active = false ∨ h.serves sk = false → tells 2 []) ∧
      (h.active = true → h.serves sk = true → ¬ legal → tells 1 []) ∧
      (h.active = true → h.serves sk = true → legal → (s.bdie b.toNat).en = true → poisoned s pa k.toNat = false →
        tells 0 (s.dramRead pa k.toNat)) ∧
      (h.active = true → h.serves sk = true → legal → (s.bdie b.toNat).en = true → poisoned s pa k.toNat = true → tells 2 [])) ∧
    (∀ (pkg : W16) (p : BitVec 5) (wr : Bool) (a : BitVec 56) (n : BitVec 24) (bs : List Byte) (m : Nat), m = peerSize wr n bs → 0 < m →
      h.active = true → one a.toNat m →
      let replied := fun (c : BitVec 2) (bs : List Byte) (t : State) =>
        t.replies = s.replies ++ [{ pkg := pkg, code := c, bytes := bs }] ∧ quiet t
      let window := h.windows.toList.find? fun w => windowOk w pkg wr a.toNat m
      (s.peerUp p pkg = false → Completes (.peerRequest pkg p wr a n bs) s (· = s)) ∧
      (s.peerUp p pkg = true → window = none → Completes (.peerRequest pkg p wr a n bs) s fun t =>
        replied 1 [] t ∧ t = { s with replies := t.replies }) ∧
      (∀ w, s.peerUp p pkg = true → window = some w →
        let i : BitVec 4 := w.1.extractLsb' 56 4
        let wk := walk s i a.toNat wr
        (wk.pa = none → wk.hold = false → Completes (.peerRequest pkg p wr a n bs) s fun t => replied 1 [] t ∧ t = { s with replies := t.replies }) ∧
        (∀ pa, wk.pa = some pa → ready pa m → wr = false →
          Completes (.peerRequest pkg p wr a n bs) s fun t => replied 0 (s.mem.read pa m) t ∧ SameGlobal s t ∧ moved t) ∧
        (∀ pa, wk.pa = some pa → ready pa m → wr = true → Completes (.peerRequest pkg p wr a n bs) s fun t => replied 0 [] t ∧
          (∀ k, k < m → some (t.mem.get (pa + k)) = bs[k]?) ∧
          (∀ y, (y < pa ∨ pa + m ≤ y) → ¬ IsCounter s (.glob y 0) → t.mem.get y = s.mem.get y) ∧
          t = { s with mem := t.mem, sram := t.sram, bdies := t.bdies, hub := t.hub, replies := t.replies, poison := t.poison,
                       flips := t.flips, matches_ := t.matches_ })))

/-! ### Bring-up, power and lifetime (R345, R369, R370, R373, R375 to R383, R387) -/

/-- The boot chain checks and measures every image in order, and ends ready with the cast, or in recovery with the reason; a retry
restarts it; a resumption waits for the host or restarts the retained takes; without power only the module store remains
(R345, R346, R369, R370, R375, R378, R381 to R383). The model's own readings that this rests on: log entries 4, 7, 68, 70, 82,
83, 84, 85, 86, 91. -/
def Obligations.PackageBootsAndResumes : Prop :=
  ∀ (s : State) (passed : BitVec 36) (trained : BitVec 288),
    let h := s.hub
    let mods := fun (k : Nat) => trained.extractLsb' (8 * k) 8 &&& facing h.product k
    let zeros := List.replicate 32 (0 : Byte)
    let passes := fun (k : Nat) => imageReason (h.image k) = 0
    let ready := fun (b : Hub) => b.boot = 1 ∧ b.power = .on ∧ b.fromStaging = false ∧
      (∀ k : Fin 7, b.meas[k] = sha3 (zeros ++ sha3 (h.image k.val))) ∧
      (∀ k, k < 36 → (b.isGood k = true ↔ k = 6 ∨ (kindOf h.product k ≠ .empty ∧ passed.getLsbD k = true ∧ mods k ≠ 0 ∧
        h.disabled.getLsbD k = false))) ∧
      (∀ k, k < 36 → (b.trained.getLsbD k = true ↔ kindOf h.product k ≠ .empty ∧ mods k ≠ 0 ∧ h.disabled.getLsbD k = false)) ∧
      -- a hop is usable when one of its modules has trained at both ends
      (∀ a d, a < 36 → d < 4 → (hopUsable b a d = true ↔ ∃ c y, neighbour h.product a d = some c ∧ y < 2 ∧
        (∀ x, x = a ∨ x = c → kindOf h.product x ≠ .empty ∧ h.disabled.getLsbD x = false) ∧
        (mods a).getLsbD (2 * d + y) = true ∧ (mods c).getLsbD ((2 * d + y + 4) % 8) = true))
    let chained := fun (j : Instr) =>
      ((∀ k, k < 7 → passes k) → passed.getLsbD 6 = true → Completes j s fun t => ready t.hub ∧ t = { s with hub := t.hub } ∧
        t.hub.storeImg = (if h.fromStaging then some (h.image 0) else h.storeImg)) ∧
      (∀ k, k < 7 → (∀ n, n < k → passes n) → ¬ passes k → Completes j s fun t =>
        t.hub.boot = 2 ∧ t.hub.bootStage = BitVec.ofNat 4 k ∧ t.hub.bootReason = imageReason (h.image k) ∧ t.hub.power = .on ∧
        t.hub.storeImg = (if h.fromStaging = true ∧ 0 < k then some (h.image 0) else h.storeImg) ∧ t.hub.good = h.good ∧ t.hub.counter 7 = (if h.counter 7 = BitVec.allOnes 64 then h.counter 7 else h.counter 7 + 1) ∧
        t = { s with hub := t.hub }) ∧
      ((∀ k, k < 7 → passes k) → passed.getLsbD 6 = false → Completes j s fun t =>
        t.hub.boot = 2 ∧ t.hub.bootReason = 5 ∧ t = { s with hub := t.hub })
    (h.retained = none → h.power = .off ∨ (h.power = .on ∧ h.boot = 0) → chained (.boot passed trained)) ∧
    (h.retained = none → (h.power = .retention ∧ h.funcmode.getLsbD 4 = false) ∨ (h.power = .waiting ∧ h.resumeOk = true) →
      chained (.resumption passed trained)) ∧
    (h.power = .retention → h.funcmode.getLsbD 4 = true →
      Completes (.resumption passed trained) s (· = { s with hub := { h with power := .waiting, resumeOk := false } })) ∧
    (h.power = .on → h.boot = 2 → Completes .bootstatRetry s
      (· = { s with hub := { h with boot := 0, bootStage := 0, bootReason := 0, fromStaging := true } })) ∧
    (∀ ret i r, (h.power = .retention ∧ h.funcmode.getLsbD 4 = false) ∨ (h.power = .waiting ∧ h.resumeOk = true) →
      h.retained = some ret → (∀ k, k < 7 → passes k) → passed.getLsbD 6 = true → h.remapHeld = [] → s.mem.wf → s.Proper →
      (ret.meas ≠ (List.range 7).map (fun k => sha3 (zeros ++ sha3 (h.image k))) → Completes (.resumption passed trained) s fun t =>
        ready t.hub ∧ t.ctxs = [] ∧ (∀ j, (t.inst j).holds = false) ∧ t.hub.retained = none ∧
        t.hub.bostat = (h.bostat &&& ~~~(0xF : W64)) ||| 3) ∧
      (ret.meas = (List.range 7).map (fun k => sha3 (zeros ++ sha3 (h.image k))) → ret.insts = [(i, r)] →
        (∀ c ∈ r.ctxs, instOf c.id = i) → (r.ctxs.Pairwise fun c d => c.id ≠ d.id) →
        (∀ c ∈ r.ctxs, c.life = .running ∨ c.life = .saved) → Completes (.resumption passed trained) s fun t => ready t.hub ∧
          (∀ tab, launchTable { s with hub := t.hub } i = .inr tab →
            (t.inst i).remap = tab ∧ (t.inst i).seeds = r.seeds ∧ (t.inst i).recFlags.getLsbD 2 = true ∧
            t.hub.bostat.getLsbD (16 + i.toNat) = true ∧ t.hub.bostat.extractLsb' 0 4 = 1 ∧
            (∀ c ∈ r.ctxs, ∃ d, t.ctx? c.id = some d ∧ d.g = c.g ∧ d.s = c.s ∧ d.take = c.take ∧ d.takeStart = s.cc ∧ d.tok = c.tok) ∧
            -- the granules that the journal holds read as at the resume point, and nothing else has changed, unless a core is taken
            ((r.undo.Pairwise fun p q => p.1 ≠ q.1) → (∀ p ∈ r.undo, p.2.length = 256) → (∀ c ∈ r.ctxs, c.life = .saved) ∨
                (r.ctxs.length = 1 ∧ ∀ d ∈ s.ctxs, d.life = .running → instOf d.id = i) →
              (∀ p ∈ r.undo, t.mem.read (p.1 * 256) 256 = p.2) ∧
              ∀ a, (∀ p ∈ r.undo, p.1 ≠ a / 256) → t.mem.get a = s.mem.get a) ∧
            ∀ id, instOf id ≠ i → t.ctx? id = s.ctx? id))) ∧
    ((h.power = .on ∨ h.power = .triggered ∨ h.power = .entering) → Completes .powerOff s fun t =>
      t.hub.power = .off ∧ t.ctxs = [] ∧ (∀ a, t.mem.get a = 0) ∧ (∀ i, (t.inst i).holds = false) ∧ t.hub.boot = 0 ∧
      t.hub.product = h.product ∧ t.hub.storeImg = h.storeImg ∧ t.hub.life = h.lifeSaved ∧ t.hub.bins = h.binsSaved ∧
      t.hub.retained = none ∧ t.hub.bostat = 0) ∧
    (h.power = .waiting → Completes .powerOff s (· = { s with hub := { h with power := .retention } })) ∧
    (h.power = .retention → Completes .retentionLoss s fun t =>
      t.hub.power = .off ∧ t.ctxs = [] ∧ (∀ a, t.mem.get a = 0) ∧ t.hub.retained = none ∧ t.hub.bostat = 2 ∧
      t.hub.storeImg = h.storeImg ∧ t.hub.bins = h.binsSaved ∧ ∀ k, t.hub.counter k =
        let n := (h.lifeSaved.lookup k).getD 0
        if k = 3 ∧ n ≠ BitVec.allOnes 64 then n + 1 else n)

/-- Lifetime counters and histograms count once per sample and saturate, and are committed to the store; the limiter's window and
the entropy source's health are recorded (R367, R373, R376, R383). The model's own readings that this rests on: log entries
10, 89, 90, 99, 100. -/
def Obligations.LifetimeAndHealthAreRecorded : Prop :=
  ∀ (s : State) (tm tv tg tb ts th : BitVec 9) (pwr : W16) (gate : BitVec 6),
    let h := s.hub
    let bin := fun (t : BitVec 9) => if t.toNat < 25 then 0 else if 137 ≤ t.toNat then 15 else (t.toNat - 25) / 8 + 1
    let up := fun (ns : List Nat) (b : Hub) => ∀ n, b.bin n = if n ∈ ns ∧ h.bin n ≠ 0xFFFFFFFF then h.bin n + 1 else h.bin n
    let delta := fun (b : Nat) => (h.counter (16 + b)).toNat - ((h.dayBase.lookup b).getD 0).toNat
    let log := fun (n : Nat) => if n = 0 then 0 else Nat.min 15 (Nat.log2 n + 1)
    let dies := List.range (if h.product = 0x18 then 6 else 12)
    (h.powered = true →
      Completes .lifetimeCommit s (· = { s with hub := { h with lifeSaved := h.life, binsSaved := h.bins } }) ∧
      Completes (.histogramSample tm tv tg tb ts th) s (fun t =>
        up [bin tm, 16 + bin tv, 32 + bin tg, 48 + bin tb, 64 + bin ts, 80 + bin th, 96 + Nat.min 15 (h.pwr.toNat / 300)] t.hub ∧
        (∀ k, t.hub.counter k = if k = 0 ∧ h.counter 0 ≠ BitVec.allOnes 64 then h.counter 0 + 1 else h.counter k) ∧
        t = { s with hub := { h with bins := t.hub.bins, life := t.hub.life } }) ∧
      Completes .dailyHistogramSample s (fun t => up (dies.map fun b => 16 * (8 + b) + log (delta b)) t.hub ∧
        (∀ b ∈ dies, t.hub.dayBase.lookup b = some (h.counter (16 + b))) ∧
        t = { s with hub := { h with bins := t.hub.bins, dayBase := t.hub.dayBase } }) ∧
      (pwr.toNat ≤ h.limit.toNat → Completes (.powerLimitWindow pwr gate) s (· = { s with hub := { h with pwr := pwr, gate := gate } }))) ∧
    Completes .entropyHealthFailure s (fun t => t = { s with hub := t.hub } ∧
      ∃ b, Counted { h with entropyOk := false } b 10 ∧ Logged b t.hub (logRecord s 0x0A 0xFF 0 none 0 0)) ∧
    Completes .entropyHealthPass s (fun t => t = { s with hub := { h with entropyOk := true }, insts := t.insts } ∧
      ∀ i, t.inst i = if (s.inst i).waiting = true ∧ (s.inst i).pkts.head?.map Packet.op ≠ some 6
        then { s.inst i with waiting := false } else s.inst i)

/-- Brown-out: the trigger begins the entry, at once or when the host or its 5 ms say so; instances drain, or are removed when the
window ends; the entry leaves contexts and memory for the resumption (R377 to R380, R382, R383). The model's own readings that
this rests on: log entries 10, 82, 84, 85, 86, 87. -/
def Obligations.BrownOutEntersRetention : Prop :=
  ∀ (s : State),
    let h := s.hub
    let enters := fun (b : Hub) (t : State) => t.hub.power = .entering ∧ t.hub.bostat = 0 ∧ t = { s with hub := t.hub } ∧
      (∀ i : BitVec 4, t.hub.drained.getLsbD i.toNat = (!(s.inst i).holds || (s.inst i).journalled)) ∧
      Counted { b with power := .entering, drained := t.hub.drained, bostat := 0 } t.hub 1
    let calm : Hub := match h.dieOp with
      | some d => { h with dieOp := none, dieHeld := [], disabled := setBit h.disabled d.socket.toNat false }
      | none => h
    let resuming := h.power = .waiting ∨ (h.power = .on ∧ h.retained ≠ none ∧ (h.boot ≠ 1 ∨ s.untouched = true))
    (h.boArm = false → Completes .brownoutTrigger s (· = s)) ∧
    (h.boArm = true → h.power = .on → ¬ resuming →
      (h.funcmode.getLsbD 4 = false → Completes .brownoutTrigger s (enters calm)) ∧
      (h.funcmode.getLsbD 4 = true → Completes .brownoutTrigger s fun t =>
        Asserts { calm with power := .triggered } t.hub 7 ∧ t = { s with hub := t.hub })) ∧
    (h.boArm = true → resuming → Completes .brownoutTrigger s fun t =>
      t.hub = { calm with power := .retention, linkUp := Vector.replicate 36 0, linkFailed := Vector.replicate 36 0, crcLog := [],
                          retrain := [], gate := 0, linkCrc := Vector.replicate 36 0, trained := 0 } ∧
      t.mem = s.mem ∧ t.me = s.me ∧ t.rest = s.rest ∧ t.insts = s.insts ∧ t.bdies = s.bdies ∧ t.sram = [] ∧
      ∀ p ∈ t.ports.toList, p.up = false) ∧
    (h.power = .triggered → Completes .brownoutHostTimeout s (enters h) ∧ Completes .bocmdEnter s (enters h)) ∧
    (h.power = .waiting → Completes .bocmdResume s (· = { s with hub := { h with resumeOk := true } })) ∧
    (h.power = .entering → s.Proper → Completes .drainWindowExpiry s fun t => t.hub.drained = BitVec.allOnes 16 ∧
      (∀ id c, s.ctx? id = some c → h.drained.getLsbD (instOf id).toNat = false → ∃ d, t.ctx? id = some d ∧ d.life = .removed ∧
        (c.life ≠ .removed → d.t.cause = 0x52 ∧ d.t.tval = c.take)) ∧
      (∀ id, h.drained.getLsbD (instOf id).toNat = true → t.ctx? id = s.ctx? id) ∧
      (∀ i : BitVec 4, h.drained.getLsbD i.toNat = false → t.hub.bostat.getLsbD (32 + i.toNat) = true)) ∧
    (h.power = .entering → (∀ i : BitVec 4, h.drained.getLsbD i.toNat = true) → s.Proper →
      (∀ c ∈ s.ctxs, c.life = .running → s.canSave c.id = true) → Completes .brownoutEntry s fun t =>
        t.hub.power = .retention ∧ t.mem = s.mem ∧
        (∀ id, t.ctx? id = (s.ctx? id).map fun c => if c.life = .running then { c with life := .saved } else c) ∧
        (∃ ret, t.hub.retained = some ret ∧ ret.meas = h.meas.toList ∧ ∀ i r, (i, r) ∈ ret.insts ↔
          ((s.inst i).holds = true ∧ (s.inst i).resume = some r ∧ h.bostat.getLsbD (32 + i.toNat) = false)) ∧
        t.hub.lifeSaved = h.life ∧ t.hub.binsSaved = t.hub.bins ∧
        -- the entry's length, of at most 215 ms and the drain window, is counted by 25 ms
        (∃ k, k ≤ (215 + h.boWin.toNat) / 25 ∧ ∀ n, t.hub.bin n = if n = 112 + k ∧ h.bin n ≠ 0xFFFFFFFF then h.bin n + 1 else h.bin n) ∧
        t.sram = [] ∧ t.cores = [] ∧ t.xfers = [] ∧ t.sevs = [] ∧
        ∀ p ∈ t.ports.toList, p.up = false)

/-! ### Links, scrubbers and migration (R291, R299, R305, R306, R351, R355, R356) -/

/-- A bad flit is recorded and its access completes with an error, eight of them take a module out of service, and a retraining
returns or retires it; a Vexfy port counts resends, goes down after 16 failures and comes up trained (R351, R355, R356, R365,
R367). The model's own readings that this rests on: log entries 76, 79, 88, 100. -/
def Obligations.LinksFailAndRecover : Prop :=
  ∀ (s : State) (sk : BitVec 6) (m : BitVec 3) (far : BitVec 6) (p : Fin 18) (pn : BitVec 5) (peer : W16) (ok : Bool),
    pn.toNat = p.val → sk.toNat < 36 →
    let h := s.hub
    let n := sk.toNat
    let seen := fun (c : Option (BitVec 12)) (cause : Nat) (b : Hub) => ∃ a, (∀ j : Fin 36, a.linkCrc[j] =
        if j.val = n then h.linkCrc[j] ||| BitVec.twoPow 16 (2 * m.toNat) else h.linkCrc[j]) ∧
      a = { h with linkCrc := a.linkCrc, crcLog := (n, m.toNat, s.cc) :: h.crcLog } ∧
      Logged a b (logRecord s 0x03 n cause c 0 (m.setWidth 64))
    let up := h.boot = 1 ∧ h.powered = true ∧ h.moduleUp n m.toNat = true
    let facing := fun (k : Nat) (j : Nat) => (k = n ∧ j = m.toNat) ∨ (neighbour h.product n (m.toNat / 2) = some k ∧ j = (m.toNat + 4) % 8)
    let module := fun (u f : Bool) (b : Hub) => ∀ k j, k < 36 → j < 8 → neighbour h.product n (m.toNat / 2) ≠ none →
      (b.linkUp.toArray.getD k 0).getLsbD j = (if facing k j then u else (h.linkUp.toArray.getD k 0).getLsbD j) ∧
      (b.linkFailed.toArray.getD k 0).getLsbD j = (if facing k j then f else (h.linkFailed.toArray.getD k 0).getLsbD j)
    let errs := h.crcLog.filter fun e => e.1 == n && e.2.1 == m.toNat && s.cc < e.2.2 + 2 ^ 20
    let x := s.ports[p]
    let ports := fun (y : VxPort) (t : State) => ∀ q : Fin 18, t.ports[q] = if q = p then y else s.ports[q]
    (∀ c, up → (c = s.me.id ∧ s.me.life ≠ .none) ∨ s.focus c = none → Completes (.ucieFlitCrcError sk m c 7 far) s fun t => seen none 0 t.hub ∧ t = { s with hub := t.hub }) ∧
    (∀ l ls pa va z, up → s.me.life = .running → carries h (s.socketOf s.me.id) far.toNat n m.toNat = true → s.me.sq.loads = l :: ls →
      l.loc = .glob pa va → bSocket h.product (dieOf pa) = some z → h.serves z = true → far = BitVec.ofNat 6 z →
      (∀ x ∈ s.me.sq.stores, l.barS ≤ x.num ∧ (x.num < l.num → locOverlap l.loc l.size x.loc x.size = false)) →
      Completes (.ucieFlitCrcError sk m s.me.id 0 far) s fun t => seen (some s.me.id) 0x51 t.hub ∧
        t = { s with hub := t.hub, me := t.me } ∧
        t.me = { s.me with s := t.me.s, sq := { s.me.sq with loads := ls, errs := s.me.sq.errs ++
          [{ d := some l.d, cause := 0x51, tval := l.ea }] } } ∧
        if l.head then GoesOn s.me.s t.me.s (s.me.s.pc + 4) s.cc else t.me.s = s.me.s) ∧
    -- so does the fetch of the S stream's word
    (∀ pa z, up → carries h (s.socketOf s.me.id) far.toNat n m.toNat = true →
      let v : State := { s with cur := { s.cur with st := .s, cl := 0 } }
      v.hasTurn = true → s.me.s.word = none → s.me.s.pc.extractLsb' 56 8 = 0 →
      (walk v (instOf s.me.id) s.me.s.pc.toNat false).pa = some pa → bSocket h.product (dieOf pa) = some z → h.serves z = true →
      far = BitVec.ofNat 6 z → CanHandle v → Completes (.ucieFlitCrcError sk m s.me.id 4 far) s fun t =>
        ∃ b, seen (some s.me.id) 0x07 b ∧ TrapEntry { s with hub := b } t 0x07 s.me.s.pc) ∧
    (h.moduleUp n m.toNat = true → 8 ≤ errs.length → Completes (.moduleRetrain sk m) s fun t => module false false t.hub ∧
      (n, m.toNat, s.cc) ∈ t.hub.retrain ∧ t.hub.counter 5 = (if h.counter 5 = BitVec.allOnes 64 then h.counter 5 else h.counter 5 + 1) ∧
      t = { s with hub := t.hub }) ∧
    (errs.length < 8 → Completes (.moduleRetrain sk m) s (· = s)) ∧
    (∀ q, h.retrain = [(n, m.toNat, q)] → Completes (.moduleRetrainEnd sk m ok) s fun t => module ok (!ok) t.hub ∧ t.hub.retrain = [] ∧
      (ok = false → t.hub.counter 6 = if h.counter 6 = BitVec.allOnes 64 then h.counter 6 else h.counter 6 + 1) ∧
      t = { s with hub := t.hub }) ∧
    (x.up = true → x.fails < 16 → Completes (.vexfyFlitResend pn ok) s fun t =>
      ports { x with retry := if x.retry = 0xFFFF then x.retry else x.retry + 1, fails := if ok then 0 else x.fails + 1 } t ∧
      t = { s with ports := t.ports }) ∧
    (∀ z, portSocket h.product p.val = some z →
      (x.up = true → 16 ≤ x.fails → Completes (.vexfyPortDown pn) s fun t => ports { x with up := false, fails := 0 } t ∧
        (∃ b, Logged h b (logRecord s 0x06 z 0 none 0 (pn.setWidth 64)) ∧ Asserts b t.hub 8) ∧
        t = { s with ports := t.ports, hub := t.hub, me := t.me, rest := t.rest } ∧
        t.me = { s.me with cp := { s.me.cp with copies := t.me.cp.copies } }) ∧
      (x.fails < 16 → Completes (.vexfyPortDown pn) s (· = s)) ∧
      (h.active = true → h.serves z = true → x.en = true → x.up = false → Completes (.vexfyPortTrained pn peer) s fun t =>
        ports { x with up := true, peer := peer, fails := 0 } t ∧ Asserts h t.hub 8 ∧ t = { s with ports := t.ports, hub := t.hub }))

/-- A scrubber changes no byte; of the errors in its block it corrects those of one bit, and makes the others failing atoms or words;
a page moves whole, with its leaf, its queued accesses and its counters, to the lowest free frame of the other tier, unless it must
stay (R291, R299, R305, R306, R366, R383).
The model's own readings that this rests on: log entries 10, 75, 77. -/
def Obligations.PagesAreScrubbedAndMoved : Prop :=
  ∀ (s : State) (b : BitVec 4) (f : BitVec 23) (bb : BitVec 8) (blk : BitVec 31),
    let h := s.hub
    let d := s.bdie b.toNat
    let fr := firstFrame b.toNat + f.toNat
    let hot := hbmFrame fr = false ∧ (d.migctl.extractLsb' 24 8).toNat ≤ s.frameCount b.toNat fr
    let moving := fun (x : Nat) => s.moves.any fun m => m.src == x || m.dst == x
    let target := (tierFrames b.toNat (!hbmFrame fr)).find? fun x => s.frameFree b.toNat x && !moving x
    let leaf := s.leafOf b.toNat fr
    let stays := fun (g : Nat) => leaf = 0 ∨ (s.mem.w64 leaf).getLsbD 4 = true ∨ frameGranted d fr = true ∨ frameGranted d g = true ∨
      s.frameWatched fr = true ∨ moving fr = true
    let starts := fun (j : Instr) (l : List MigReq) =>
      (target = none → Completes j s (· = { s with migReqs := l })) ∧
      ∀ g, target = some g →
      (stays g → Completes j s (· = { s with migReqs := l })) ∧
      (¬ stays g → Completes j s (· = { s with migReqs := l, moves := s.moves ++ [{ b := b, src := fr, dst := g, leafPa := leaf }] }))
    let quiet := fun (t : State) => t.mem = s.mem ∧ t.rest = s.rest ∧ t.insts = s.insts ∧ t.sram = s.sram ∧
      t.me = { s.me with flipSpad := t.me.flipSpad, flipPriv := t.me.flipPriv, badSpad := t.me.badSpad, badPriv := t.me.badPriv }
    -- the errors that wait in a block leave `old` for `new`, the double ones for the failing list
    let meets := fun (inside : Nat → Prop) (old new : List (Nat × Bool)) (was now : List Nat) =>
      (∀ e, e ∈ new ↔ e ∈ old ∧ ¬ inside e.1) ∧ ∀ a, a ∈ now ↔ a ∈ was ∨ (inside a ∧ (a, true) ∈ old)
    (∀ (unit : BitVec 2) sk, unit.toNat ≤ 1 → h.boot = 1 → h.power = .on → bSocket h.product bb.toNat = some sk → h.serves sk = true →
      let period := (s.bdie bb.toNat).scrub.toNat
      let pa := bb.toNat * 2 ^ 39 + (if unit = 0 then 0x4000000000 else 0) + blk.toNat * 4096
      period ≠ 0 → s.cc % 2 ^ period = 0 → (unit = 0 → (s.bdie bb.toNat).en = true) →
      blk.toNat = s.cc / 2 ^ period % (if unit = 0 then 2 ^ 24 else 2 ^ 26) →
      Completes (.patrolScrub unit bb blk) s fun t => quiet t ∧ t.me = s.me ∧
        meets (fun a => pa / 32 ≤ a ∧ a < pa / 32 + 128) s.flips t.flips s.poison t.poison) ∧
    (∀ unit : BitVec 2, 2 ≤ unit.toNat → h.boot = 1 → h.power = .on → s.me.life = .running → s.cc % 2 ^ 19 = 0 →
      blk.toNat = s.cc / 2 ^ 19 % (if unit = 2 then 2048 else 64) → Completes (.patrolScrub unit bb blk) s fun t =>
        quiet t ∧ t.poison = s.poison ∧ t.flips = s.flips ∧
        let inside := fun (w : Nat) => w / 512 = blk.toNat
        (unit = 2 → t.me.badPriv = s.me.badPriv ∧ t.me.flipPriv = s.me.flipPriv ∧
          meets inside s.me.flipSpad t.me.flipSpad s.me.badSpad t.me.badSpad) ∧
        (unit = 3 → t.me.badSpad = s.me.badSpad ∧ t.me.flipSpad = s.me.flipSpad ∧
          meets inside s.me.flipPriv t.me.flipPriv s.me.badPriv t.me.badPriv)) ∧
    (let rid := s.migReqs.filter fun r => !(r.b == b && r.f == fr)
     s.engineOn b.toNat = true →
      (∀ r, s.askedFor b fr = some r → r.host = false → starts (.pageMigration b f) rid) ∧
      (∀ r, s.askedFor b fr = some r → r.host = true → Completes (.pageMigration b f) s (· = s)) ∧
      (s.askedFor b fr = none →
        (hot → h.migMode = 0 → starts (.pageMigration b f) rid) ∧
        (hot → h.migMode = 1 → Completes (.pageMigration b f) s fun t => Asserts h t.hub 3 ∧
          t = { s with hub := t.hub, migReqs := s.migReqs ++ [{ b := b, f := fr, host := true }] }) ∧
        (¬ hot → Completes (.pageMigration b f) s (· = s)))) ∧
    (∀ sk, h.active = true → h.migMode = 1 ∨ (∃ r ∈ s.migReqs, r.host = true ∧ r.f = fr) → bSocket h.product b.toNat = some sk →
      h.absent sk = false → s.engineOn b.toNat = true →
      h.bus.off.toNat = 0x100070 + 65536 * b.toNat → (h.bus.v.extractLsb' 16 27).toNat = fr →
      starts .migcmd (s.migReqs.filter fun r => r.f != fr)) ∧
    (h.boot = 1 → s.cc % 2 ^ (d.migctl.extractLsb' 40 8).toNat = 0 → Completes (.migrationEpochEnd b) s fun t =>
      t.hub = { h with migMode := h.funcmode.extractLsb' 0 1 } ∧ t = { s with hub := t.hub, moves := t.moves } ∧
      ∃ l, t.moves = s.moves ++ l ∧ ∀ m ∈ l, m.b = b ∧ h.funcmode.getLsbD 0 = false ∧ hbmFrame m.src = true ∧ hbmFrame m.dst = false ∧
        s.frameCount b.toNat m.src < (d.migctl.extractLsb' 32 8).toNat ∧ s.frameFree b.toNat m.src = false ∧
        s.frameFree b.toNat m.dst = true ∧ m.leafPa = s.leafOf b.toNat m.src) ∧
    (∀ m l, s.moves = m :: l → (s.bdie m.b.toNat).en = true → s.mem.wf → m.src ≠ m.dst →
      let page := fun (x a : Nat) => a / 65536 = x
      let e := s.bdie m.b.toNat
      let old := s.mem.readLE m.leafPa 8
      let marks := [migAddr e.migbase + m.dst % 2 ^ 23 / 8, migAddr e.migbase + m.src % 2 ^ 23 / 8, e.counterPa m.src, e.counterPa m.dst]
      (poisoned s (m.src * 65536) 65536 = true → Completes .pageMoveComplete s fun t => t.moves = l ∧ t.mem = s.mem ∧ t.me = s.me ∧
        t.rest = s.rest ∧ t.insts = s.insts) ∧
      (poisoned s (m.src * 65536) 65536 = false → (∀ a ∈ marks, ¬ page m.dst a ∧ (a < m.leafPa ∨ m.leafPa + 8 ≤ a)) →
        ¬ page m.dst m.leafPa → ¬ page m.dst (m.leafPa + 7) → (∀ k, k < 8 → ¬ IsCounter s (.glob (m.leafPa + k) 0)) → Completes .pageMoveComplete s fun t =>
          t.moves = l ∧ (∀ k, k < 65536 → t.mem.get (m.dst * 65536 + k) = s.mem.get (m.src * 65536 + k)) ∧
          t.mem.readLE m.leafPa 8 = (old % 65536 + m.dst * 65536 + old / 2 ^ 43 * 2 ^ 43) % 2 ^ 64 ∧
          (∀ a, ¬ page m.dst a → a ∉ marks → (a < m.leafPa ∨ m.leafPa + 8 ≤ a) → ¬ IsCounter s (.glob a 0) →
            t.mem.get a = s.mem.get a) ∧
          (t.me.g = s.me.g ∧ t.me.spad = s.me.spad ∧ t.me.priv = s.me.priv) ∧
          (∀ x y va, x ∈ s.me.sq.loads → x.loc = .glob y va → s.me.life = .running → page m.src y →
            { x with loc := .glob (m.dst * 65536 + y % 65536) va } ∈ t.me.sq.loads) ∧
          t.hub.counter (112 + m.b.toNat) = (if h.counter (112 + m.b.toNat) = BitVec.allOnes 64 then h.counter (112 + m.b.toNat)
            else h.counter (112 + m.b.toNat) + 1)))

/-! ### Decoding, the step, reset and what every step keeps -/

/-- Every word that the encoder gives a well-formed instruction decodes to it, in each stream that has it (R64, R72 to R83). -/
def Obligations.DecodingInvertsEncoding : Prop :=
  ∀ (i : Instr) (st : Stream), wellFormed st i = true → decode st true (encode i) = .ok i

/-- Words written out from the tables of 03_encoding and of the streams' files decode to their instructions, opcodes 0x0C and 0x0D
of the C stream exist on gather cores alone, and a word of zeros is no instruction of the S stream (R64, R72 to R83). -/
def Obligations.WordsDecodeByTheTables : Prop :=
  decode .s false 0x02110C00 = .ok (.add 1 2 3) ∧ decode .s false 0x0451FFF4 = .ok (.addi 5 3 (-12)) ∧
  decode .s false 0x40116008 = .ok (.ld 1 2 3 8) ∧ decode .s false 0x20117FFF = .ok (.beq 1 2 (-1)) ∧
  decode .s false 0x1857FC00 = .ok (.lih 5 0x7FC00) ∧ decode .s false 0 = .error .illegal ∧
  decode .v false 0x02084190 = .ok (.vadd 1 2 3 1 0) ∧ decode .m false 0x28000000 = .ok .mnop ∧
  decode .c false 0x02600005 = .ok (.cla 3 0 5) ∧ decode .c true 0x18000000 = .ok (.cgath 0 0 0 0 0) ∧
  decode .c false 0x18000000 = .error .illegal ∧ decode .c false 0x1A000000 = .error .illegal ∧
  decode .f false 0x060E2800 = .ok (.fclose 7 5) ∧ decode .f false 0x02280845 = .ok (.fload 20 1 1 5) ∧
  decode .e false 0x02246000 = .ok (.eAdd 1 2 3) ∧ decode .e false 0x7E000000 = .ok .eNop

/-- At reset the package waits for its boot chain: no context exists and no instance holds a reel, every FIFO is empty, every byte
reads 0 (log entry 4), the registers whose reset value the manual gives hold it, and what every step keeps holds (R294, R297,
R305, R345, R349, R361, R366, R370, R376, R379).
The model's own readings that this rests on: log entries 1, 4, 5, 95. -/
def Obligations.ResetIsThePowerOnState : Prop :=
  let s := State.reset
  s.hub.boot = 0 ∧ s.ctxs = [] ∧ (∀ i, (s.inst i).holds = false ∧ (s.inst i).ptroot = 0 ∧ (s.inst i).savebase = 0 ∧ (s.inst i).runrec = 0 ∧
    (s.inst i).remap = Vector.replicate 208 0) ∧
  s.hub.cmdq = [] ∧ s.hub.statq = [] ∧ s.hub.folreq = [] ∧ s.hub.elogq = [] ∧ s.hub.elogLost = 0 ∧ s.hub.funcmode = 0 ∧
  s.hub.pkgid = 0 ∧ s.hub.limit = 4500 ∧ s.hub.boWin = 100 ∧ s.hub.boArm = true ∧ s.hub.boJen = false ∧ s.hub.bar2 = 0 ∧
  s.hub.linkUp = Vector.replicate 36 0 ∧ s.hub.colltab = Vector.replicate 64 0 ∧
  (∀ b : Fin 12, s.bdies[b].en = false ∧ s.bdies[b].hlock = false ∧ s.bdies[b].scrub = 16 ∧ s.bdies[b].retain = 0 ∧
    s.bdies[b].migctl = 0x180140000000 ∧ (∀ k : Fin 6, s.bdies[b].pchash[k] = BitVec.ofNat 23 (2 ^ (7 + k.val)))) ∧
  (∀ p : Fin 18, s.ports[p].en = false ∧ s.ports[p].up = false) ∧ (∀ a, s.mem.get a = 0) ∧ s.memsWf ∧ s.ReelsHold

/-- A step of a stream whose word at its pc decodes executes that instruction in that state, the schedule having moved on by one
choice; one whose word cannot be had traps; a step that brings an event or an access of the host executes that. The word is the
one in memory at the translation of the pc, read once (R13, R63 to R70, R92, R104, R327; log entry 2 for the schedule).
The model's own readings that this rests on: log entries 2, 19. -/
def Obligations.StepRunsTheDecodedInstruction : Prop :=
  (∀ (s u : State) (id : BitVec 12) (st : Stream) (cl : BitVec 4),
    s.choice = .stream id st cl → ({ s with agenda := s.agenda.tail, tick := s.tick + 1 } : State).focus id = some u →
    let v := { u with cur := { st := st, cl := cl, inst := instOf id } }
    let pc := v.strm.pc
    let at_ := walk v (instOf v.me.id) pc.toNat false
    let home := homeState v (v.socketOf v.me.id)
    let runs := fun (w : W32) (t : State) => ∀ i, decode st (v.me.engine == .f) w = .ok i →
      (st = .s → loadPending v.me i = false ∧ loadError v.me i = none) → step s = exec i t.arriveAt
    hasStream v.me st = true → canIssue v st = true → v.strm.halted = false → v.strm.lastCc ≠ some s.cc → v.strm.pfx = none →
    ¬ (st = .v ∧ v.me.v.forked = true ∧ (v.me.v.cluster cl).join ≠ none) →
    -- a word that has been read stays the stream's
    (∀ w, v.strm.word = some w → runs w v) ∧
    (∀ pa, v.strm.word = none → pc.extractLsb' 56 8 = 0 → at_.pa = some pa → home pa = .ok () → poisoned v pa 4 = false →
      let w := BitVec.ofNat 32 (v.mem.readLE pa 4)
      runs w ((v.fetched pc).gotWord w)) ∧
    (v.strm.word = none → pc.extractLsb' 56 8 ≠ 0 ∨ (at_.pa = none ∧ at_.hold = false) ∨
        (∃ pa, at_.pa = some pa ∧ ((∃ e, home pa = .err e) ∨ (home pa = .ok () ∧ poisoned v pa 4 = true))) →
      let f := if v.strm.trapping then v else v.fetched pc
      CanHandle f.arriveAt → ∃ t, step s = .next t ∧ TrapEntry f.arriveAt t 0x07 pc) ∧
    (v.strm.word = none → pc.extractLsb' 56 8 = 0 → at_.hold = true → at_.pa = none → step s = .next v.fetchHold)) ∧
  (∀ (s : State) (i : Instr) (id : BitVec 12), s.choice = .event id i → streamsOf i = [] → onBusOnly i = false →
    step s = exec i (s.taken.aim id)) ∧
  (∀ (s : State) (off : BitVec 24) (v : W64), s.choice = .hostWrite off v →
    step s = exec (hostWriteRow off.toNat v) (s.taken.onBus (off.setWidth 28) 3 v))

/-- Every step keeps every memory in its canonical form: global memory, the staging buffer, and the scratchpad and private memory
of every context. -/
def Obligations.EveryStepKeepsTheMemories : Prop :=
  ∀ s t : State, s.memsWf → step s = .next t → t.memsWf

/-- Every step keeps the contexts to the instances that hold a reel, each with a CTXID of its own (R11, R262, R265). -/
def Obligations.EveryStepKeepsTheContexts : Prop :=
  ∀ s t : State, s.ReelsHold → step s = .next t → t.ReelsHold
end

