-- ==== Sys2Proof/Laws/Mem.lean ====
section
/-! SUPPORT. Sparse memory: a read after a write, the bytes that a write leaves alone, and the canonical form, which every
operation keeps. -/

namespace Sys2Proof.Machine

/-! ### Cell lists -/

/-- What a sorted list that is not empty is. -/
theorem cellsSorted_cons {lo : Option Nat} {c : Host.Cell} {t : List Host.Cell} :
    cellsSorted lo (c :: t) = true ↔ (∀ x, lo = some x → x < c.1) ∧ cellsSorted (some c.1) t = true := by
  cases lo <;> simp [cellsSorted]

/-- A listed address of a sorted list lies above its bound. -/
theorem cellsSorted_lt {lo : Nat} {l : List Host.Cell} (h : cellsSorted (some lo) l = true) : ∀ c ∈ l, lo < c.1 := by
  induction l generalizing lo with
  | nil => simp
  | cons x t ih =>
    simp [cellsSorted] at h
    intro c hc
    rcases List.mem_cons.1 hc with rfl | hc
    · exact h.1
    · exact Nat.lt_trans h.1 (ih h.2 c hc)

/-- A sorted list stays sorted under a lower bound. -/
theorem cellsSorted_mono {lo lo' : Option Nat} {l : List Host.Cell} (h : cellsSorted lo l = true)
    (hlo : ∀ x, lo' = some x → ∀ c ∈ l, x < c.1) : cellsSorted lo' l = true := by
  cases l with
  | nil => rfl
  | cons x t =>
    simp [cellsSorted] at h ⊢
    refine ⟨?_, h.2⟩
    cases lo' with
    | none => trivial
    | some y => simpa using hlo y rfl x (List.mem_cons_self ..)

/-- The tail of a sorted list is sorted. -/
theorem cellsSorted_tail {lo : Option Nat} {x : Host.Cell} {t : List Host.Cell} (h : cellsSorted lo (x :: t) = true) :
    cellsSorted (some x.1) t = true := by
  simp [cellsSorted] at h; exact h.2

/-- An address below every listed one is not listed. -/
theorem cellsGet_none_of_lt {l : List Host.Cell} {a : Nat} (h : ∀ c ∈ l, a < c.1) : cellsGet l a = none := by
  cases l with
  | nil => rfl
  | cons x t =>
    have := h x (List.mem_cons_self ..)
    simp [cellsGet, this, Nat.ne_of_gt this]

/-- Reading after a put. -/
theorem cellsGet_put (l : List Host.Cell) (a : Nat) (b : Byte) (x : Nat) :
    cellsGet (cellsPut l a b) x = if x = a then some b else cellsGet l x := by
  induction l with
  | nil =>
    by_cases h : x = a
    · subst h; simp [cellsPut, cellsGet]
    · simp [cellsPut, cellsGet, h, Ne.symm h]
  | cons c t ih =>
    simp only [cellsPut]
    by_cases h : x = a
    · subst h
      split
      · simp [cellsGet]
      · split
        · simp [cellsGet]
        · simp only [cellsGet, ih]; split <;> (try split) <;> first | rfl | omega
    · split
      · next e => subst e; simp [cellsGet, Ne.symm h]
      · split
        · next h1 h2 =>
          simp only [cellsGet, if_neg (Ne.symm h)]
          by_cases hx : x < a
          · have : x < c.1 := by omega
            have : ¬ c.1 = x := by omega
            simp [*]
          · simp [hx]
        · simp only [cellsGet, ih, if_neg h]

/-- Reading after a removal. -/
theorem cellsGet_del {lo : Option Nat} {l : List Host.Cell} (h : cellsSorted lo l = true) (a x : Nat) :
    cellsGet (cellsDel l a) x = if x = a then none else cellsGet l x := by
  induction l generalizing lo with
  | nil => simp [cellsDel, cellsGet]
  | cons c t ih =>
    have ht := cellsSorted_tail h
    have hb := cellsSorted_lt ht
    simp only [cellsDel]
    split
    · by_cases hx : x = a
      · subst hx
        simp only [if_true]
        exact cellsGet_none_of_lt fun d hd => by have := hb d hd; omega
      · simp only [if_neg hx, cellsGet]
        split
        · omega
        · split
          · exact cellsGet_none_of_lt fun d hd => by have := hb d hd; omega
          · rfl
    · split
      · by_cases hx : x = a
        · subst hx; simp only [if_true]
          exact cellsGet_none_of_lt fun d hd => by
            rcases List.mem_cons.1 hd with rfl | hd
            · omega
            · have := hb d hd; omega
        · simp [if_neg hx]
      · simp only [cellsGet, ih ht]
        split <;> split <;> (try split) <;> first | rfl | omega

/-- A put keeps a list sorted. -/
theorem cellsSorted_put {lo : Option Nat} {l : List Host.Cell} (h : cellsSorted lo l = true) (a : Nat) (b : Byte)
    (ha : ∀ x, lo = some x → x < a) : cellsSorted lo (cellsPut l a b) = true := by
  induction l generalizing lo with
  | nil => exact cellsSorted_cons.2 ⟨ha, rfl⟩
  | cons c t ih =>
    have ⟨hc, ht⟩ := cellsSorted_cons.1 h
    simp only [cellsPut]
    split
    · next e => subst e; exact cellsSorted_cons.2 ⟨ha, ht⟩
    · split
      · next e => exact cellsSorted_cons.2 ⟨ha, cellsSorted_cons.2 ⟨fun x hx => by cases hx; exact e, ht⟩⟩
      · next e1 e2 => exact cellsSorted_cons.2 ⟨hc, ih ht fun x hx => by cases hx; omega⟩

/-- A removal keeps a list sorted. -/
theorem cellsSorted_del {lo : Option Nat} {l : List Host.Cell} (h : cellsSorted lo l = true) (a : Nat) :
    cellsSorted lo (cellsDel l a) = true := by
  induction l generalizing lo with
  | nil => rfl
  | cons c t ih =>
    have ⟨hc, ht⟩ := cellsSorted_cons.1 h
    simp only [cellsDel]
    split
    · exact cellsSorted_mono ht fun x hx d hd => Nat.lt_trans (hc x hx) (cellsSorted_lt ht d hd)
    · split
      · exact h
      · exact cellsSorted_cons.2 ⟨hc, ih ht⟩

/-- A filter keeps a list sorted. -/
theorem cellsSorted_filter {lo : Option Nat} {l : List Host.Cell} (h : cellsSorted lo l = true) (p : Host.Cell → Bool) :
    cellsSorted lo (l.filter p) = true := by
  induction l generalizing lo with
  | nil => rfl
  | cons c t ih =>
    have ⟨hc, ht⟩ := cellsSorted_cons.1 h
    simp only [List.filter]
    split
    · exact cellsSorted_cons.2 ⟨hc, ih ht⟩
    · exact cellsSorted_mono (ih ht) fun x hx d hd =>
        Nat.lt_trans (hc x hx) (cellsSorted_lt ht d (List.mem_filter.1 hd).1)

/-- Two sorted lists, the second above the first, are sorted together. -/
theorem cellsSorted_append {lo : Option Nat} {l r : List Host.Cell} (hl : cellsSorted lo l = true)
    (hr : cellsSorted lo r = true) (h : ∀ c ∈ l, ∀ d ∈ r, c.1 < d.1) : cellsSorted lo (l ++ r) = true := by
  induction l generalizing lo with
  | nil => simpa using hr
  | cons c t ih =>
    have ⟨hc, ht⟩ := cellsSorted_cons.1 hl
    exact cellsSorted_cons.2 ⟨hc, ih ht
      (cellsSorted_mono hr fun x hx d hd => by cases hx; exact h c (List.mem_cons_self ..) d hd)
      fun a ha d hd => h a (List.mem_cons_of_mem _ ha) d hd⟩

/-- What a put leaves listed. -/
theorem mem_cellsPut {l : List Host.Cell} {a : Nat} {b : Byte} {c : Host.Cell} (h : c ∈ cellsPut l a b) :
    c = (a, b) ∨ c ∈ l := by
  induction l with
  | nil => simp [cellsPut] at h; exact .inl h
  | cons x t ih =>
    simp only [cellsPut] at h
    split at h
    · rcases List.mem_cons.1 h with h | h
      · exact .inl h
      · exact .inr (List.mem_cons_of_mem _ h)
    · split at h
      · rcases List.mem_cons.1 h with h | h
        · exact .inl h
        · exact .inr h
      · rcases List.mem_cons.1 h with h | h
        · exact .inr (h ▸ List.mem_cons_self ..)
        · rcases ih h with h | h
          · exact .inl h
          · exact .inr (List.mem_cons_of_mem _ h)

/-- What a removal leaves listed. -/
theorem mem_cellsDel {l : List Host.Cell} {a : Nat} {c : Host.Cell} (h : c ∈ cellsDel l a) : c ∈ l := by
  induction l with
  | nil => exact h
  | cons x t ih =>
    simp only [cellsDel] at h
    split at h
    · exact List.mem_cons_of_mem _ h
    · split at h
      · exact h
      · rcases List.mem_cons.1 h with h | h
        · exact h ▸ List.mem_cons_self ..
        · exact List.mem_cons_of_mem _ (ih h)

/-! ### Memories -/

/-- The canonical form: sorted, and nothing listed that an unlisted address reads as. -/
theorem Mem.wf_iff (m : Mem) : m.wf = true ↔ cellsSorted none m.cells = true ∧ ∀ c ∈ m.cells, c.2 ≠ m.dflt c.1 := by
  simp [Mem.wf, List.all_eq_true, bne_iff_ne]

/-- The empty memory is canonical. -/
@[simp] theorem Mem.wf_empty : ({} : Mem).wf = true := rfl

@[simp] theorem Mem.set_junk (m : Mem) (a : Nat) (b : Byte) : (m.set a b).junk = m.junk := rfl
@[simp] theorem Mem.set_dflt (m : Mem) (a : Nat) (b : Byte) (x : Nat) : (m.set a b).dflt x = m.dflt x := rfl

/-- Reading one byte after writing one. -/
theorem Mem.get_set {m : Mem} (h : m.wf = true) (a : Nat) (b : Byte) (x : Nat) :
    (m.set a b).get x = if x = a then b else m.get x := by
  have hs := ((Mem.wf_iff m).1 h).1
  simp only [Mem.get, Mem.set_dflt]
  by_cases hb : b = m.dflt a
  · simp only [Mem.set, hb, if_true, cellsGet_del hs]
    by_cases hx : x = a <;> simp [hx]
  · simp only [Mem.set, if_neg hb, cellsGet_put]
    by_cases hx : x = a <;> simp [hx]

/-- Writing one byte keeps the canonical form. -/
theorem Mem.wf_set {m : Mem} (h : m.wf = true) (a : Nat) (b : Byte) : (m.set a b).wf = true := by
  have ⟨hs, hd⟩ := (Mem.wf_iff m).1 h
  refine (Mem.wf_iff _).2 ⟨?_, ?_⟩
  · by_cases hb : b = m.dflt a
    · simp only [Mem.set, hb, if_true]; exact cellsSorted_del hs a
    · simp only [Mem.set, if_neg hb]; exact cellsSorted_put hs a b (by simp)
  · intro c hc
    simp only [Mem.set_dflt]
    by_cases hb : b = m.dflt a
    · simp only [Mem.set, hb, if_true] at hc; exact hd c (mem_cellsDel hc)
    · simp only [Mem.set, if_neg hb] at hc
      rcases mem_cellsPut hc with rfl | hc
      · exact hb
      · exact hd c hc

/-- Writing bytes keeps the canonical form. -/
theorem Mem.wf_write {m : Mem} (h : m.wf = true) (a : Nat) (bs : List Byte) : (m.write a bs).wf = true := by
  induction bs generalizing m a with
  | nil => exact h
  | cons b t ih => exact ih (Mem.wf_set h a b) (a + 1)

/-- A byte outside the written ones reads as before; one among them reads as written. -/
theorem Mem.get_write {m : Mem} (h : m.wf = true) (a : Nat) (bs : List Byte) (x : Nat) :
    (m.write a bs).get x = if h : a ≤ x ∧ x < a + bs.length then bs[x - a]'(by omega) else m.get x := by
  induction bs generalizing m a with
  | nil => rw [dif_neg (by simp)]; rfl
  | cons b t ih =>
    simp only [Mem.write, ih (Mem.wf_set h a b), Mem.get_set h, List.length_cons]
    by_cases hx : a + 1 ≤ x ∧ x < a + 1 + t.length
    · have h2 : a ≤ x ∧ x < a + (t.length + 1) := by omega
      simp only [dif_pos hx, dif_pos h2]
      have : x - a = (x - (a + 1)) + 1 := by omega
      simp [this]
    · by_cases hxa : x = a
      · subst hxa
        rw [dif_neg hx, if_pos rfl, dif_pos (by omega)]
        simp
      · have h2 : ¬ (a ≤ x ∧ x < a + (t.length + 1)) := by omega
        simp only [dif_neg hx, dif_neg h2, if_neg hxa]

/-- A byte outside the written ones reads as before. -/
theorem Mem.get_write_other {m : Mem} (h : m.wf = true) (a : Nat) (bs : List Byte) (x : Nat)
    (hx : x < a ∨ a + bs.length ≤ x) : (m.write a bs).get x = m.get x := by
  rw [Mem.get_write h, dif_neg (by omega)]

/-- Byte k of a read. -/
theorem Mem.read_get (m : Mem) (a n k : Nat) (hk : k < n) : (m.read a n)[k]? = some (m.get (a + k)) := by
  induction n generalizing a k with
  | zero => omega
  | succ n ih =>
    cases k with
    | zero => simp [Mem.read]
    | succ k => simp only [Mem.read, List.getElem?_cons_succ]; rw [ih (a + 1) k (by omega)]; congr 2; omega

@[simp] theorem Mem.read_length (m : Mem) (a n : Nat) : (m.read a n).length = n := by
  induction n generalizing a with
  | zero => rfl
  | succ n ih => simp [Mem.read, ih]

/-- Reading back what was written. -/
theorem Mem.read_write {m : Mem} (h : m.wf = true) (a : Nat) (bs : List Byte) : (m.write a bs).read a bs.length = bs := by
  apply List.ext_getElem?
  intro k
  by_cases hk : k < bs.length
  · rw [Mem.read_get _ _ _ _ hk, Mem.get_write h, dif_pos (by omega)]
    simp [List.getElem?_eq_getElem hk]
  · rw [List.getElem?_eq_none (by simp; omega), List.getElem?_eq_none (by omega)]

/-- Writing single bytes keeps the canonical form. -/
theorem Mem.wf_setAll {m : Mem} (h : m.wf = true) (l : List (Nat × Byte)) : (m.setAll l).wf = true := by
  induction l generalizing m with
  | nil => exact h
  | cons p t ih => exact ih (Mem.wf_set h p.1 p.2)

/-- An address that none of the single bytes has reads as before. -/
theorem Mem.get_setAll_other {m : Mem} (h : m.wf = true) (l : List (Nat × Byte)) (x : Nat) (hx : ∀ p ∈ l, p.1 ≠ x) :
    (m.setAll l).get x = m.get x := by
  induction l generalizing m with
  | nil => rfl
  | cons p t ih =>
    show ((m.set p.1 p.2).setAll t).get x = _
    rw [ih (Mem.wf_set h p.1 p.2) fun q hq => hx q (List.mem_cons_of_mem _ hq), Mem.get_set h,
      if_neg fun e => hx p (List.mem_cons_self ..) e.symm]

/-- Writing a number keeps the canonical form. -/
theorem Mem.wf_writeLE {m : Mem} (h : m.wf = true) (a n v : Nat) : (m.writeLE a n v).wf = true := Mem.wf_write h ..

@[simp] theorem leBytes_length (n v : Nat) : (leBytes n v).length = n := by
  induction n generalizing v with
  | zero => rfl
  | succ n ih => simp [leBytes, ih]

/-- The number that little-endian bytes hold (R10). -/
theorem leNat_leBytes (n v : Nat) : leNat (leBytes n v) = v % 256 ^ n := by
  induction n generalizing v with
  | zero => simp [leBytes, leNat, Nat.mod_one]
  | succ n ih =>
    simp only [leBytes, leNat, ih, BitVec.toNat_ofNat]
    rw [show (2 : Nat) ^ 8 = 256 from rfl, Nat.pow_succ, Nat.mul_comm (256 ^ n) 256, Nat.mod_mul]

/-- A number reads back, modulo its size (R10). -/
theorem Mem.readLE_writeLE {m : Mem} (h : m.wf = true) (a n v : Nat) : (m.writeLE a n v).readLE a n = v % 256 ^ n := by
  have := Mem.read_write h a (leBytes n v)
  rw [leBytes_length] at this
  rw [Mem.readLE, Mem.writeLE, this, leNat_leBytes]

/-- A change of a stack's hash keeps the canonical form (R298). -/
theorem Mem.wf_scramble {m : Mem} (h : m.wf = true) (b e : Nat) : (m.scramble b e).wf = true := by
  have ⟨hs, hd⟩ := (Mem.wf_iff m).1 h
  refine (Mem.wf_iff _).2 ⟨cellsSorted_filter hs _, fun c hc => ?_⟩
  have ⟨hm, hp⟩ := List.mem_filter.1 hc
  have := hd c hm
  simp only [Mem.dflt, Mem.scramble] at this ⊢
  split
  · next hb =>
    rw [if_pos hb] at this
    have hne : (dieOf c.1 == b) = false := by simpa [hb] using hp
    simpa [List.lookup, hne] using this
  · next hb => rw [if_neg hb] at this; exact this

/-- Cells of a part of a canonical memory are canonical. -/
theorem Mem.wf_part {m : Mem} (h : m.wf = true) (p : Host.Cell → Bool) : ({ m with cells := m.cells.filter p }).wf = true := by
  have ⟨hs, hd⟩ := (Mem.wf_iff m).1 h
  exact (Mem.wf_iff _).2 ⟨cellsSorted_filter hs _, fun c hc => hd c (List.mem_filter.1 hc).1⟩

/-- Folded single writes keep the canonical form and the hash changes. -/
theorem Mem.wf_foldr {m : Mem} (h : m.wf = true) (l : List Host.Cell) :
    (l.foldr (fun c (m : Mem) => m.set c.1 c.2) m).wf = true ∧ (l.foldr (fun c (m : Mem) => m.set c.1 c.2) m).junk = m.junk := by
  induction l with
  | nil => exact ⟨h, rfl⟩
  | cons c t ih => exact ⟨Mem.wf_set ih.1 .., ih.2⟩

/-- Replacing the cells of a span keeps the canonical form. -/
theorem Mem.wf_splice {m : Mem} (h : m.wf = true) (lo hi : Nat) (q : Host.Cell → Bool) (cs : List Host.Cell) :
    ({ m with cells := (m.cells.filter q).filter (fun c => c.1 < lo) ++
        cellsIn lo hi (cs.foldr (fun c (m : Mem) => m.set c.1 c.2) { m with cells := cellsIn lo hi (m.cells.filter q) }).cells ++
        (m.cells.filter q).filter fun c => lo ≤ c.1 && hi ≤ c.1 } : Mem).wf = true := by
  have ⟨hs, hd⟩ := (Mem.wf_iff m).1 h
  have hpart : ({ m with cells := cellsIn lo hi (m.cells.filter q) } : Mem).wf = true :=
    Mem.wf_part (Mem.wf_part h q) (fun c => decide (lo ≤ c.1) && decide (c.1 < hi))
  obtain ⟨hw, hj⟩ := Mem.wf_foldr hpart cs
  generalize cs.foldr (fun c (m : Mem) => m.set c.1 c.2) { m with cells := cellsIn lo hi (m.cells.filter q) } = mid at *
  have ⟨ms, md⟩ := (Mem.wf_iff mid).1 hw
  have hj' : mid.junk = m.junk := hj
  refine (Mem.wf_iff _).2 ⟨?_, ?_⟩
  · have h1 := cellsSorted_filter (cellsSorted_filter hs q) (fun c => decide (c.1 < lo))
    have h2 : cellsSorted none (cellsIn lo hi mid.cells) = true := cellsSorted_filter ms _
    have h3 := cellsSorted_filter (cellsSorted_filter hs q) (fun c => decide (lo ≤ c.1) && decide (hi ≤ c.1))
    refine cellsSorted_append (cellsSorted_append h1 h2 ?_) h3 ?_
    · intro c hc d hd
      have a1 := (List.mem_filter.1 hc).2
      have a2 := (List.mem_filter.1 hd).2
      simp at a1 a2; omega
    · intro c hc d hd
      have a2 := (List.mem_filter.1 hd).2
      simp at a2
      rcases List.mem_append.1 hc with hc | hc
      · have a1 := (List.mem_filter.1 hc).2
        simp at a1; omega
      · have a1 := (List.mem_filter.1 hc).2
        simp at a1; omega
  · intro c hc
    have key : c.2 ≠ m.dflt c.1 := by
      rcases List.mem_append.1 hc with hc | hc
      · rcases List.mem_append.1 hc with hc | hc
        · exact hd c (List.mem_filter.1 (List.mem_filter.1 hc).1).1
        · have := md c (List.mem_filter.1 hc).1
          simpa [Mem.dflt, hj'] using this
      · exact hd c (List.mem_filter.1 (List.mem_filter.1 hc).1).1
    exact key

/-- Replacing regions keeps the canonical form. -/
theorem Mem.wf_overlay {m : Mem} (h : m.wf = true) (rs : List (Nat × Nat)) (cs : List Host.Cell) :
    (m.overlay rs cs).wf = true := Mem.wf_splice h ..

end Sys2Proof.Machine
end

