-- ==== Sys2Proof/Laws/State.lean ====
section
/-! SUPPORT. What the named updates of the state leave alone and what they write: one lemma per field per update. -/

namespace Sys2Proof.Machine


/-! ### Ctx.wg -/

@[simp] theorem Ctx.wg_id (c : Ctx) (r : BitVec 5) (v : W64) (t : Bool) : (c.wg r v t).id = c.id := by unfold Ctx.wg; split <;> rfl
@[simp] theorem Ctx.wg_life (c : Ctx) (r : BitVec 5) (v : W64) (t : Bool) : (c.wg r v t).life = c.life := by unfold Ctx.wg; split <;> rfl
@[simp] theorem Ctx.wg_member (c : Ctx) (r : BitVec 5) (v : W64) (t : Bool) : (c.wg r v t).member = c.member := by unfold Ctx.wg; split <;> rfl
@[simp] theorem Ctx.wg_level (c : Ctx) (r : BitVec 5) (v : W64) (t : Bool) : (c.wg r v t).level = c.level := by unfold Ctx.wg; split <;> rfl
@[simp] theorem Ctx.wg_castcls (c : Ctx) (r : BitVec 5) (v : W64) (t : Bool) : (c.wg r v t).castcls = c.castcls := by unfold Ctx.wg; split <;> rfl
@[simp] theorem Ctx.wg_moddef (c : Ctx) (r : BitVec 5) (v : W64) (t : Bool) : (c.wg r v t).moddef = c.moddef := by unfold Ctx.wg; split <;> rfl
@[simp] theorem Ctx.wg_nflags (c : Ctx) (r : BitVec 5) (v : W64) (t : Bool) : (c.wg r v t).nflags = c.nflags := by unfold Ctx.wg; split <;> rfl
@[simp] theorem Ctx.wg_raised (c : Ctx) (r : BitVec 5) (v : W64) (t : Bool) : (c.wg r v t).raised = c.raised := by unfold Ctx.wg; split <;> rfl
@[simp] theorem Ctx.wg_take (c : Ctx) (r : BitVec 5) (v : W64) (t : Bool) : (c.wg r v t).take = c.take := by unfold Ctx.wg; split <;> rfl
@[simp] theorem Ctx.wg_takeStart (c : Ctx) (r : BitVec 5) (v : W64) (t : Bool) : (c.wg r v t).takeStart = c.takeStart := by unfold Ctx.wg; split <;> rfl
@[simp] theorem Ctx.wg_demoted (c : Ctx) (r : BitVec 5) (v : W64) (t : Bool) : (c.wg r v t).demoted = c.demoted := by unfold Ctx.wg; split <;> rfl
@[simp] theorem Ctx.wg_runCc (c : Ctx) (r : BitVec 5) (v : W64) (t : Bool) : (c.wg r v t).runCc = c.runCc := by unfold Ctx.wg; split <;> rfl
@[simp] theorem Ctx.wg_holdCc (c : Ctx) (r : BitVec 5) (v : W64) (t : Bool) : (c.wg r v t).holdCc = c.holdCc := by unfold Ctx.wg; split <;> rfl
@[simp] theorem Ctx.wg_arrived (c : Ctx) (r : BitVec 5) (v : W64) (t : Bool) : (c.wg r v t).arrived = c.arrived := by unfold Ctx.wg; split <;> rfl
@[simp] theorem Ctx.wg_imageDue (c : Ctx) (r : BitVec 5) (v : W64) (t : Bool) : (c.wg r v t).imageDue = c.imageDue := by unfold Ctx.wg; split <;> rfl
@[simp] theorem Ctx.wg_t (c : Ctx) (r : BitVec 5) (v : W64) (t : Bool) : (c.wg r v t).t = c.t := by unfold Ctx.wg; split <;> rfl
@[simp] theorem Ctx.wg_s (c : Ctx) (r : BitVec 5) (v : W64) (t : Bool) : (c.wg r v t).s = c.s := by unfold Ctx.wg; split <;> rfl
@[simp] theorem Ctx.wg_e (c : Ctx) (r : BitVec 5) (v : W64) (t : Bool) : (c.wg r v t).e = c.e := by unfold Ctx.wg; split <;> rfl
@[simp] theorem Ctx.wg_c (c : Ctx) (r : BitVec 5) (v : W64) (t : Bool) : (c.wg r v t).c = c.c := by unfold Ctx.wg; split <;> rfl
@[simp] theorem Ctx.wg_events (c : Ctx) (r : BitVec 5) (v : W64) (t : Bool) : (c.wg r v t).events = c.events := by unfold Ctx.wg; split <;> rfl
@[simp] theorem Ctx.wg_sq (c : Ctx) (r : BitVec 5) (v : W64) (t : Bool) : (c.wg r v t).sq = c.sq := by unfold Ctx.wg; split <;> rfl
@[simp] theorem Ctx.wg_gd (c : Ctx) (r : BitVec 5) (v : W64) (t : Bool) : (c.wg r v t).gd = c.gd := by unfold Ctx.wg; split <;> rfl
@[simp] theorem Ctx.wg_tested (c : Ctx) (r : BitVec 5) (v : W64) (t : Bool) : (c.wg r v t).tested = c.tested := by unfold Ctx.wg; split <;> rfl
@[simp] theorem Ctx.wg_rn (c : Ctx) (r : BitVec 5) (v : W64) (t : Bool) : (c.wg r v t).rn = c.rn := by unfold Ctx.wg; split <;> rfl
@[simp] theorem Ctx.wg_tok (c : Ctx) (r : BitVec 5) (v : W64) (t : Bool) : (c.wg r v t).tok = c.tok := by unfold Ctx.wg; split <;> rfl
@[simp] theorem Ctx.wg_tiles (c : Ctx) (r : BitVec 5) (v : W64) (t : Bool) : (c.wg r v t).tiles = c.tiles := by unfold Ctx.wg; split <;> rfl
@[simp] theorem Ctx.wg_folio (c : Ctx) (r : BitVec 5) (v : W64) (t : Bool) : (c.wg r v t).folio = c.folio := by unfold Ctx.wg; split <;> rfl
@[simp] theorem Ctx.wg_piV (c : Ctx) (r : BitVec 5) (v : W64) (t : Bool) : (c.wg r v t).piV = c.piV := by unfold Ctx.wg; split <;> rfl
@[simp] theorem Ctx.wg_piM (c : Ctx) (r : BitVec 5) (v : W64) (t : Bool) : (c.wg r v t).piM = c.piM := by unfold Ctx.wg; split <;> rfl
@[simp] theorem Ctx.wg_piC (c : Ctx) (r : BitVec 5) (v : W64) (t : Bool) : (c.wg r v t).piC = c.piC := by unfold Ctx.wg; split <;> rfl
@[simp] theorem Ctx.wg_piF (c : Ctx) (r : BitVec 5) (v : W64) (t : Bool) : (c.wg r v t).piF = c.piF := by unfold Ctx.wg; split <;> rfl
@[simp] theorem Ctx.wg_spad (c : Ctx) (r : BitVec 5) (v : W64) (t : Bool) : (c.wg r v t).spad = c.spad := by unfold Ctx.wg; split <;> rfl
@[simp] theorem Ctx.wg_priv (c : Ctx) (r : BitVec 5) (v : W64) (t : Bool) : (c.wg r v t).priv = c.priv := by unfold Ctx.wg; split <;> rfl
@[simp] theorem Ctx.wg_badSpad (c : Ctx) (r : BitVec 5) (v : W64) (t : Bool) : (c.wg r v t).badSpad = c.badSpad := by unfold Ctx.wg; split <;> rfl
@[simp] theorem Ctx.wg_badPriv (c : Ctx) (r : BitVec 5) (v : W64) (t : Bool) : (c.wg r v t).badPriv = c.badPriv := by unfold Ctx.wg; split <;> rfl
@[simp] theorem Ctx.wg_flipSpad (c : Ctx) (r : BitVec 5) (v : W64) (t : Bool) : (c.wg r v t).flipSpad = c.flipSpad := by unfold Ctx.wg; split <;> rfl
@[simp] theorem Ctx.wg_flipPriv (c : Ctx) (r : BitVec 5) (v : W64) (t : Bool) : (c.wg r v t).flipPriv = c.flipPriv := by unfold Ctx.wg; split <;> rfl
@[simp] theorem Ctx.wg_v (c : Ctx) (r : BitVec 5) (v : W64) (t : Bool) : (c.wg r v t).v = c.v := by unfold Ctx.wg; split <;> rfl
@[simp] theorem Ctx.wg_m (c : Ctx) (r : BitVec 5) (v : W64) (t : Bool) : (c.wg r v t).m = c.m := by unfold Ctx.wg; split <;> rfl
@[simp] theorem Ctx.wg_cp (c : Ctx) (r : BitVec 5) (v : W64) (t : Bool) : (c.wg r v t).cp = c.cp := by unfold Ctx.wg; split <;> rfl
@[simp] theorem Ctx.wg_f (c : Ctx) (r : BitVec 5) (v : W64) (t : Bool) : (c.wg r v t).f = c.f := by unfold Ctx.wg; split <;> rfl
@[simp] theorem Ctx.wg_hb (c : Ctx) (r : BitVec 5) (v : W64) (t : Bool) : (c.wg r v t).hb = c.hb := by unfold Ctx.wg; split <;> rfl

/-! ### Ctx.raise -/

@[simp] theorem Ctx.raise_id (c : Ctx) (f : W32) : (c.raise f).id = c.id := by unfold Ctx.raise; split <;> rfl
@[simp] theorem Ctx.raise_life (c : Ctx) (f : W32) : (c.raise f).life = c.life := by unfold Ctx.raise; split <;> rfl
@[simp] theorem Ctx.raise_member (c : Ctx) (f : W32) : (c.raise f).member = c.member := by unfold Ctx.raise; split <;> rfl
@[simp] theorem Ctx.raise_level (c : Ctx) (f : W32) : (c.raise f).level = c.level := by unfold Ctx.raise; split <;> rfl
@[simp] theorem Ctx.raise_castcls (c : Ctx) (f : W32) : (c.raise f).castcls = c.castcls := by unfold Ctx.raise; split <;> rfl
@[simp] theorem Ctx.raise_moddef (c : Ctx) (f : W32) : (c.raise f).moddef = c.moddef := by unfold Ctx.raise; split <;> rfl
@[simp] theorem Ctx.raise_take (c : Ctx) (f : W32) : (c.raise f).take = c.take := by unfold Ctx.raise; split <;> rfl
@[simp] theorem Ctx.raise_takeStart (c : Ctx) (f : W32) : (c.raise f).takeStart = c.takeStart := by unfold Ctx.raise; split <;> rfl
@[simp] theorem Ctx.raise_demoted (c : Ctx) (f : W32) : (c.raise f).demoted = c.demoted := by unfold Ctx.raise; split <;> rfl
@[simp] theorem Ctx.raise_runCc (c : Ctx) (f : W32) : (c.raise f).runCc = c.runCc := by unfold Ctx.raise; split <;> rfl
@[simp] theorem Ctx.raise_holdCc (c : Ctx) (f : W32) : (c.raise f).holdCc = c.holdCc := by unfold Ctx.raise; split <;> rfl
@[simp] theorem Ctx.raise_arrived (c : Ctx) (f : W32) : (c.raise f).arrived = c.arrived := by unfold Ctx.raise; split <;> rfl
@[simp] theorem Ctx.raise_imageDue (c : Ctx) (f : W32) : (c.raise f).imageDue = c.imageDue := by unfold Ctx.raise; split <;> rfl
@[simp] theorem Ctx.raise_t (c : Ctx) (f : W32) : (c.raise f).t = c.t := by unfold Ctx.raise; split <;> rfl
@[simp] theorem Ctx.raise_s (c : Ctx) (f : W32) : (c.raise f).s = c.s := by unfold Ctx.raise; split <;> rfl
@[simp] theorem Ctx.raise_e (c : Ctx) (f : W32) : (c.raise f).e = c.e := by unfold Ctx.raise; split <;> rfl
@[simp] theorem Ctx.raise_c (c : Ctx) (f : W32) : (c.raise f).c = c.c := by unfold Ctx.raise; split <;> rfl
@[simp] theorem Ctx.raise_g (c : Ctx) (f : W32) : (c.raise f).g = c.g := by unfold Ctx.raise; split <;> rfl
@[simp] theorem Ctx.raise_taint (c : Ctx) (f : W32) : (c.raise f).taint = c.taint := by unfold Ctx.raise; split <;> rfl
@[simp] theorem Ctx.raise_events (c : Ctx) (f : W32) : (c.raise f).events = c.events := by unfold Ctx.raise; split <;> rfl
@[simp] theorem Ctx.raise_sq (c : Ctx) (f : W32) : (c.raise f).sq = c.sq := by unfold Ctx.raise; split <;> rfl
@[simp] theorem Ctx.raise_gd (c : Ctx) (f : W32) : (c.raise f).gd = c.gd := by unfold Ctx.raise; split <;> rfl
@[simp] theorem Ctx.raise_tested (c : Ctx) (f : W32) : (c.raise f).tested = c.tested := by unfold Ctx.raise; split <;> rfl
@[simp] theorem Ctx.raise_rn (c : Ctx) (f : W32) : (c.raise f).rn = c.rn := by unfold Ctx.raise; split <;> rfl
@[simp] theorem Ctx.raise_tok (c : Ctx) (f : W32) : (c.raise f).tok = c.tok := by unfold Ctx.raise; split <;> rfl
@[simp] theorem Ctx.raise_tiles (c : Ctx) (f : W32) : (c.raise f).tiles = c.tiles := by unfold Ctx.raise; split <;> rfl
@[simp] theorem Ctx.raise_folio (c : Ctx) (f : W32) : (c.raise f).folio = c.folio := by unfold Ctx.raise; split <;> rfl
@[simp] theorem Ctx.raise_piV (c : Ctx) (f : W32) : (c.raise f).piV = c.piV := by unfold Ctx.raise; split <;> rfl
@[simp] theorem Ctx.raise_piM (c : Ctx) (f : W32) : (c.raise f).piM = c.piM := by unfold Ctx.raise; split <;> rfl
@[simp] theorem Ctx.raise_piC (c : Ctx) (f : W32) : (c.raise f).piC = c.piC := by unfold Ctx.raise; split <;> rfl
@[simp] theorem Ctx.raise_piF (c : Ctx) (f : W32) : (c.raise f).piF = c.piF := by unfold Ctx.raise; split <;> rfl
@[simp] theorem Ctx.raise_spad (c : Ctx) (f : W32) : (c.raise f).spad = c.spad := by unfold Ctx.raise; split <;> rfl
@[simp] theorem Ctx.raise_priv (c : Ctx) (f : W32) : (c.raise f).priv = c.priv := by unfold Ctx.raise; split <;> rfl
@[simp] theorem Ctx.raise_badSpad (c : Ctx) (f : W32) : (c.raise f).badSpad = c.badSpad := by unfold Ctx.raise; split <;> rfl
@[simp] theorem Ctx.raise_badPriv (c : Ctx) (f : W32) : (c.raise f).badPriv = c.badPriv := by unfold Ctx.raise; split <;> rfl
@[simp] theorem Ctx.raise_flipSpad (c : Ctx) (f : W32) : (c.raise f).flipSpad = c.flipSpad := by unfold Ctx.raise; split <;> rfl
@[simp] theorem Ctx.raise_flipPriv (c : Ctx) (f : W32) : (c.raise f).flipPriv = c.flipPriv := by unfold Ctx.raise; split <;> rfl
@[simp] theorem Ctx.raise_v (c : Ctx) (f : W32) : (c.raise f).v = c.v := by unfold Ctx.raise; split <;> rfl
@[simp] theorem Ctx.raise_m (c : Ctx) (f : W32) : (c.raise f).m = c.m := by unfold Ctx.raise; split <;> rfl
@[simp] theorem Ctx.raise_cp (c : Ctx) (f : W32) : (c.raise f).cp = c.cp := by unfold Ctx.raise; split <;> rfl
@[simp] theorem Ctx.raise_f (c : Ctx) (f : W32) : (c.raise f).f = c.f := by unfold Ctx.raise; split <;> rfl
@[simp] theorem Ctx.raise_hb (c : Ctx) (f : W32) : (c.raise f).hb = c.hb := by unfold Ctx.raise; split <;> rfl

/-! ### Ctx.raiseFl -/

@[simp] theorem Ctx.raiseFl_id (c : Ctx) (f : Flags) : (c.raiseFl f).id = c.id := by simp [Ctx.raiseFl]
@[simp] theorem Ctx.raiseFl_life (c : Ctx) (f : Flags) : (c.raiseFl f).life = c.life := by simp [Ctx.raiseFl]
@[simp] theorem Ctx.raiseFl_member (c : Ctx) (f : Flags) : (c.raiseFl f).member = c.member := by simp [Ctx.raiseFl]
@[simp] theorem Ctx.raiseFl_level (c : Ctx) (f : Flags) : (c.raiseFl f).level = c.level := by simp [Ctx.raiseFl]
@[simp] theorem Ctx.raiseFl_castcls (c : Ctx) (f : Flags) : (c.raiseFl f).castcls = c.castcls := by simp [Ctx.raiseFl]
@[simp] theorem Ctx.raiseFl_moddef (c : Ctx) (f : Flags) : (c.raiseFl f).moddef = c.moddef := by simp [Ctx.raiseFl]
@[simp] theorem Ctx.raiseFl_take (c : Ctx) (f : Flags) : (c.raiseFl f).take = c.take := by simp [Ctx.raiseFl]
@[simp] theorem Ctx.raiseFl_takeStart (c : Ctx) (f : Flags) : (c.raiseFl f).takeStart = c.takeStart := by simp [Ctx.raiseFl]
@[simp] theorem Ctx.raiseFl_demoted (c : Ctx) (f : Flags) : (c.raiseFl f).demoted = c.demoted := by simp [Ctx.raiseFl]
@[simp] theorem Ctx.raiseFl_runCc (c : Ctx) (f : Flags) : (c.raiseFl f).runCc = c.runCc := by simp [Ctx.raiseFl]
@[simp] theorem Ctx.raiseFl_holdCc (c : Ctx) (f : Flags) : (c.raiseFl f).holdCc = c.holdCc := by simp [Ctx.raiseFl]
@[simp] theorem Ctx.raiseFl_arrived (c : Ctx) (f : Flags) : (c.raiseFl f).arrived = c.arrived := by simp [Ctx.raiseFl]
@[simp] theorem Ctx.raiseFl_imageDue (c : Ctx) (f : Flags) : (c.raiseFl f).imageDue = c.imageDue := by simp [Ctx.raiseFl]
@[simp] theorem Ctx.raiseFl_t (c : Ctx) (f : Flags) : (c.raiseFl f).t = c.t := by simp [Ctx.raiseFl]
@[simp] theorem Ctx.raiseFl_s (c : Ctx) (f : Flags) : (c.raiseFl f).s = c.s := by simp [Ctx.raiseFl]
@[simp] theorem Ctx.raiseFl_e (c : Ctx) (f : Flags) : (c.raiseFl f).e = c.e := by simp [Ctx.raiseFl]
@[simp] theorem Ctx.raiseFl_c (c : Ctx) (f : Flags) : (c.raiseFl f).c = c.c := by simp [Ctx.raiseFl]
@[simp] theorem Ctx.raiseFl_g (c : Ctx) (f : Flags) : (c.raiseFl f).g = c.g := by simp [Ctx.raiseFl]
@[simp] theorem Ctx.raiseFl_taint (c : Ctx) (f : Flags) : (c.raiseFl f).taint = c.taint := by simp [Ctx.raiseFl]
@[simp] theorem Ctx.raiseFl_events (c : Ctx) (f : Flags) : (c.raiseFl f).events = c.events := by simp [Ctx.raiseFl]
@[simp] theorem Ctx.raiseFl_sq (c : Ctx) (f : Flags) : (c.raiseFl f).sq = c.sq := by simp [Ctx.raiseFl]
@[simp] theorem Ctx.raiseFl_gd (c : Ctx) (f : Flags) : (c.raiseFl f).gd = c.gd := by simp [Ctx.raiseFl]
@[simp] theorem Ctx.raiseFl_tested (c : Ctx) (f : Flags) : (c.raiseFl f).tested = c.tested := by simp [Ctx.raiseFl]
@[simp] theorem Ctx.raiseFl_rn (c : Ctx) (f : Flags) : (c.raiseFl f).rn = c.rn := by simp [Ctx.raiseFl]
@[simp] theorem Ctx.raiseFl_tok (c : Ctx) (f : Flags) : (c.raiseFl f).tok = c.tok := by simp [Ctx.raiseFl]
@[simp] theorem Ctx.raiseFl_tiles (c : Ctx) (f : Flags) : (c.raiseFl f).tiles = c.tiles := by simp [Ctx.raiseFl]
@[simp] theorem Ctx.raiseFl_folio (c : Ctx) (f : Flags) : (c.raiseFl f).folio = c.folio := by simp [Ctx.raiseFl]
@[simp] theorem Ctx.raiseFl_piV (c : Ctx) (f : Flags) : (c.raiseFl f).piV = c.piV := by simp [Ctx.raiseFl]
@[simp] theorem Ctx.raiseFl_piM (c : Ctx) (f : Flags) : (c.raiseFl f).piM = c.piM := by simp [Ctx.raiseFl]
@[simp] theorem Ctx.raiseFl_piC (c : Ctx) (f : Flags) : (c.raiseFl f).piC = c.piC := by simp [Ctx.raiseFl]
@[simp] theorem Ctx.raiseFl_piF (c : Ctx) (f : Flags) : (c.raiseFl f).piF = c.piF := by simp [Ctx.raiseFl]
@[simp] theorem Ctx.raiseFl_spad (c : Ctx) (f : Flags) : (c.raiseFl f).spad = c.spad := by simp [Ctx.raiseFl]
@[simp] theorem Ctx.raiseFl_priv (c : Ctx) (f : Flags) : (c.raiseFl f).priv = c.priv := by simp [Ctx.raiseFl]
@[simp] theorem Ctx.raiseFl_badSpad (c : Ctx) (f : Flags) : (c.raiseFl f).badSpad = c.badSpad := by simp [Ctx.raiseFl]
@[simp] theorem Ctx.raiseFl_badPriv (c : Ctx) (f : Flags) : (c.raiseFl f).badPriv = c.badPriv := by simp [Ctx.raiseFl]
@[simp] theorem Ctx.raiseFl_flipSpad (c : Ctx) (f : Flags) : (c.raiseFl f).flipSpad = c.flipSpad := by simp [Ctx.raiseFl]
@[simp] theorem Ctx.raiseFl_flipPriv (c : Ctx) (f : Flags) : (c.raiseFl f).flipPriv = c.flipPriv := by simp [Ctx.raiseFl]
@[simp] theorem Ctx.raiseFl_v (c : Ctx) (f : Flags) : (c.raiseFl f).v = c.v := by simp [Ctx.raiseFl]
@[simp] theorem Ctx.raiseFl_m (c : Ctx) (f : Flags) : (c.raiseFl f).m = c.m := by simp [Ctx.raiseFl]
@[simp] theorem Ctx.raiseFl_cp (c : Ctx) (f : Flags) : (c.raiseFl f).cp = c.cp := by simp [Ctx.raiseFl]
@[simp] theorem Ctx.raiseFl_f (c : Ctx) (f : Flags) : (c.raiseFl f).f = c.f := by simp [Ctx.raiseFl]
@[simp] theorem Ctx.raiseFl_hb (c : Ctx) (f : Flags) : (c.raiseFl f).hb = c.hb := by simp [Ctx.raiseFl]

/-! ### Ctx.setTile -/

@[simp] theorem Ctx.setTile_id (c : Ctx) (h : BitVec 8) (t : Tile) : (c.setTile h t).id = c.id := rfl
@[simp] theorem Ctx.setTile_life (c : Ctx) (h : BitVec 8) (t : Tile) : (c.setTile h t).life = c.life := rfl
@[simp] theorem Ctx.setTile_member (c : Ctx) (h : BitVec 8) (t : Tile) : (c.setTile h t).member = c.member := rfl
@[simp] theorem Ctx.setTile_level (c : Ctx) (h : BitVec 8) (t : Tile) : (c.setTile h t).level = c.level := rfl
@[simp] theorem Ctx.setTile_castcls (c : Ctx) (h : BitVec 8) (t : Tile) : (c.setTile h t).castcls = c.castcls := rfl
@[simp] theorem Ctx.setTile_moddef (c : Ctx) (h : BitVec 8) (t : Tile) : (c.setTile h t).moddef = c.moddef := rfl
@[simp] theorem Ctx.setTile_nflags (c : Ctx) (h : BitVec 8) (t : Tile) : (c.setTile h t).nflags = c.nflags := rfl
@[simp] theorem Ctx.setTile_raised (c : Ctx) (h : BitVec 8) (t : Tile) : (c.setTile h t).raised = c.raised := rfl
@[simp] theorem Ctx.setTile_take (c : Ctx) (h : BitVec 8) (t : Tile) : (c.setTile h t).take = c.take := rfl
@[simp] theorem Ctx.setTile_takeStart (c : Ctx) (h : BitVec 8) (t : Tile) : (c.setTile h t).takeStart = c.takeStart := rfl
@[simp] theorem Ctx.setTile_demoted (c : Ctx) (h : BitVec 8) (t : Tile) : (c.setTile h t).demoted = c.demoted := rfl
@[simp] theorem Ctx.setTile_runCc (c : Ctx) (h : BitVec 8) (t : Tile) : (c.setTile h t).runCc = c.runCc := rfl
@[simp] theorem Ctx.setTile_holdCc (c : Ctx) (h : BitVec 8) (t : Tile) : (c.setTile h t).holdCc = c.holdCc := rfl
@[simp] theorem Ctx.setTile_arrived (c : Ctx) (h : BitVec 8) (t : Tile) : (c.setTile h t).arrived = c.arrived := rfl
@[simp] theorem Ctx.setTile_imageDue (c : Ctx) (h : BitVec 8) (t : Tile) : (c.setTile h t).imageDue = c.imageDue := rfl
@[simp] theorem Ctx.setTile_t (c : Ctx) (h : BitVec 8) (t : Tile) : (c.setTile h t).t = c.t := rfl
@[simp] theorem Ctx.setTile_s (c : Ctx) (h : BitVec 8) (t : Tile) : (c.setTile h t).s = c.s := rfl
@[simp] theorem Ctx.setTile_e (c : Ctx) (h : BitVec 8) (t : Tile) : (c.setTile h t).e = c.e := rfl
@[simp] theorem Ctx.setTile_c (c : Ctx) (h : BitVec 8) (t : Tile) : (c.setTile h t).c = c.c := rfl
@[simp] theorem Ctx.setTile_g (c : Ctx) (h : BitVec 8) (t : Tile) : (c.setTile h t).g = c.g := rfl
@[simp] theorem Ctx.setTile_taint (c : Ctx) (h : BitVec 8) (t : Tile) : (c.setTile h t).taint = c.taint := rfl
@[simp] theorem Ctx.setTile_events (c : Ctx) (h : BitVec 8) (t : Tile) : (c.setTile h t).events = c.events := rfl
@[simp] theorem Ctx.setTile_sq (c : Ctx) (h : BitVec 8) (t : Tile) : (c.setTile h t).sq = c.sq := rfl
@[simp] theorem Ctx.setTile_gd (c : Ctx) (h : BitVec 8) (t : Tile) : (c.setTile h t).gd = c.gd := rfl
@[simp] theorem Ctx.setTile_tested (c : Ctx) (h : BitVec 8) (t : Tile) : (c.setTile h t).tested = c.tested := rfl
@[simp] theorem Ctx.setTile_rn (c : Ctx) (h : BitVec 8) (t : Tile) : (c.setTile h t).rn = c.rn := rfl
@[simp] theorem Ctx.setTile_tok (c : Ctx) (h : BitVec 8) (t : Tile) : (c.setTile h t).tok = c.tok := rfl
@[simp] theorem Ctx.setTile_folio (c : Ctx) (h : BitVec 8) (t : Tile) : (c.setTile h t).folio = c.folio := rfl
@[simp] theorem Ctx.setTile_piV (c : Ctx) (h : BitVec 8) (t : Tile) : (c.setTile h t).piV = c.piV := rfl
@[simp] theorem Ctx.setTile_piM (c : Ctx) (h : BitVec 8) (t : Tile) : (c.setTile h t).piM = c.piM := rfl
@[simp] theorem Ctx.setTile_piC (c : Ctx) (h : BitVec 8) (t : Tile) : (c.setTile h t).piC = c.piC := rfl
@[simp] theorem Ctx.setTile_piF (c : Ctx) (h : BitVec 8) (t : Tile) : (c.setTile h t).piF = c.piF := rfl
@[simp] theorem Ctx.setTile_spad (c : Ctx) (h : BitVec 8) (t : Tile) : (c.setTile h t).spad = c.spad := rfl
@[simp] theorem Ctx.setTile_priv (c : Ctx) (h : BitVec 8) (t : Tile) : (c.setTile h t).priv = c.priv := rfl
@[simp] theorem Ctx.setTile_badSpad (c : Ctx) (h : BitVec 8) (t : Tile) : (c.setTile h t).badSpad = c.badSpad := rfl
@[simp] theorem Ctx.setTile_badPriv (c : Ctx) (h : BitVec 8) (t : Tile) : (c.setTile h t).badPriv = c.badPriv := rfl
@[simp] theorem Ctx.setTile_flipSpad (c : Ctx) (h : BitVec 8) (t : Tile) : (c.setTile h t).flipSpad = c.flipSpad := rfl
@[simp] theorem Ctx.setTile_flipPriv (c : Ctx) (h : BitVec 8) (t : Tile) : (c.setTile h t).flipPriv = c.flipPriv := rfl
@[simp] theorem Ctx.setTile_v (c : Ctx) (h : BitVec 8) (t : Tile) : (c.setTile h t).v = c.v := rfl
@[simp] theorem Ctx.setTile_m (c : Ctx) (h : BitVec 8) (t : Tile) : (c.setTile h t).m = c.m := rfl
@[simp] theorem Ctx.setTile_cp (c : Ctx) (h : BitVec 8) (t : Tile) : (c.setTile h t).cp = c.cp := rfl
@[simp] theorem Ctx.setTile_f (c : Ctx) (h : BitVec 8) (t : Tile) : (c.setTile h t).f = c.f := rfl
@[simp] theorem Ctx.setTile_hb (c : Ctx) (h : BitVec 8) (t : Tile) : (c.setTile h t).hb = c.hb := rfl

/-! ### Ctx.busyUp -/

@[simp] theorem Ctx.busyUp_id (c : Ctx) (h : BitVec 8) : (c.busyUp h).id = c.id := rfl
@[simp] theorem Ctx.busyUp_life (c : Ctx) (h : BitVec 8) : (c.busyUp h).life = c.life := rfl
@[simp] theorem Ctx.busyUp_member (c : Ctx) (h : BitVec 8) : (c.busyUp h).member = c.member := rfl
@[simp] theorem Ctx.busyUp_level (c : Ctx) (h : BitVec 8) : (c.busyUp h).level = c.level := rfl
@[simp] theorem Ctx.busyUp_castcls (c : Ctx) (h : BitVec 8) : (c.busyUp h).castcls = c.castcls := rfl
@[simp] theorem Ctx.busyUp_moddef (c : Ctx) (h : BitVec 8) : (c.busyUp h).moddef = c.moddef := rfl
@[simp] theorem Ctx.busyUp_nflags (c : Ctx) (h : BitVec 8) : (c.busyUp h).nflags = c.nflags := rfl
@[simp] theorem Ctx.busyUp_raised (c : Ctx) (h : BitVec 8) : (c.busyUp h).raised = c.raised := rfl
@[simp] theorem Ctx.busyUp_take (c : Ctx) (h : BitVec 8) : (c.busyUp h).take = c.take := rfl
@[simp] theorem Ctx.busyUp_takeStart (c : Ctx) (h : BitVec 8) : (c.busyUp h).takeStart = c.takeStart := rfl
@[simp] theorem Ctx.busyUp_demoted (c : Ctx) (h : BitVec 8) : (c.busyUp h).demoted = c.demoted := rfl
@[simp] theorem Ctx.busyUp_runCc (c : Ctx) (h : BitVec 8) : (c.busyUp h).runCc = c.runCc := rfl
@[simp] theorem Ctx.busyUp_holdCc (c : Ctx) (h : BitVec 8) : (c.busyUp h).holdCc = c.holdCc := rfl
@[simp] theorem Ctx.busyUp_arrived (c : Ctx) (h : BitVec 8) : (c.busyUp h).arrived = c.arrived := rfl
@[simp] theorem Ctx.busyUp_imageDue (c : Ctx) (h : BitVec 8) : (c.busyUp h).imageDue = c.imageDue := rfl
@[simp] theorem Ctx.busyUp_t (c : Ctx) (h : BitVec 8) : (c.busyUp h).t = c.t := rfl
@[simp] theorem Ctx.busyUp_s (c : Ctx) (h : BitVec 8) : (c.busyUp h).s = c.s := rfl
@[simp] theorem Ctx.busyUp_e (c : Ctx) (h : BitVec 8) : (c.busyUp h).e = c.e := rfl
@[simp] theorem Ctx.busyUp_c (c : Ctx) (h : BitVec 8) : (c.busyUp h).c = c.c := rfl
@[simp] theorem Ctx.busyUp_g (c : Ctx) (h : BitVec 8) : (c.busyUp h).g = c.g := rfl
@[simp] theorem Ctx.busyUp_taint (c : Ctx) (h : BitVec 8) : (c.busyUp h).taint = c.taint := rfl
@[simp] theorem Ctx.busyUp_events (c : Ctx) (h : BitVec 8) : (c.busyUp h).events = c.events := rfl
@[simp] theorem Ctx.busyUp_sq (c : Ctx) (h : BitVec 8) : (c.busyUp h).sq = c.sq := rfl
@[simp] theorem Ctx.busyUp_gd (c : Ctx) (h : BitVec 8) : (c.busyUp h).gd = c.gd := rfl
@[simp] theorem Ctx.busyUp_tested (c : Ctx) (h : BitVec 8) : (c.busyUp h).tested = c.tested := rfl
@[simp] theorem Ctx.busyUp_rn (c : Ctx) (h : BitVec 8) : (c.busyUp h).rn = c.rn := rfl
@[simp] theorem Ctx.busyUp_tok (c : Ctx) (h : BitVec 8) : (c.busyUp h).tok = c.tok := rfl
@[simp] theorem Ctx.busyUp_folio (c : Ctx) (h : BitVec 8) : (c.busyUp h).folio = c.folio := rfl
@[simp] theorem Ctx.busyUp_piV (c : Ctx) (h : BitVec 8) : (c.busyUp h).piV = c.piV := rfl
@[simp] theorem Ctx.busyUp_piM (c : Ctx) (h : BitVec 8) : (c.busyUp h).piM = c.piM := rfl
@[simp] theorem Ctx.busyUp_piC (c : Ctx) (h : BitVec 8) : (c.busyUp h).piC = c.piC := rfl
@[simp] theorem Ctx.busyUp_piF (c : Ctx) (h : BitVec 8) : (c.busyUp h).piF = c.piF := rfl
@[simp] theorem Ctx.busyUp_spad (c : Ctx) (h : BitVec 8) : (c.busyUp h).spad = c.spad := rfl
@[simp] theorem Ctx.busyUp_priv (c : Ctx) (h : BitVec 8) : (c.busyUp h).priv = c.priv := rfl
@[simp] theorem Ctx.busyUp_badSpad (c : Ctx) (h : BitVec 8) : (c.busyUp h).badSpad = c.badSpad := rfl
@[simp] theorem Ctx.busyUp_badPriv (c : Ctx) (h : BitVec 8) : (c.busyUp h).badPriv = c.badPriv := rfl
@[simp] theorem Ctx.busyUp_flipSpad (c : Ctx) (h : BitVec 8) : (c.busyUp h).flipSpad = c.flipSpad := rfl
@[simp] theorem Ctx.busyUp_flipPriv (c : Ctx) (h : BitVec 8) : (c.busyUp h).flipPriv = c.flipPriv := rfl
@[simp] theorem Ctx.busyUp_v (c : Ctx) (h : BitVec 8) : (c.busyUp h).v = c.v := rfl
@[simp] theorem Ctx.busyUp_m (c : Ctx) (h : BitVec 8) : (c.busyUp h).m = c.m := rfl
@[simp] theorem Ctx.busyUp_cp (c : Ctx) (h : BitVec 8) : (c.busyUp h).cp = c.cp := rfl
@[simp] theorem Ctx.busyUp_f (c : Ctx) (h : BitVec 8) : (c.busyUp h).f = c.f := rfl
@[simp] theorem Ctx.busyUp_hb (c : Ctx) (h : BitVec 8) : (c.busyUp h).hb = c.hb := rfl

/-! ### Ctx.busyDown -/

@[simp] theorem Ctx.busyDown_id (c : Ctx) (h : BitVec 8) : (c.busyDown h).id = c.id := rfl
@[simp] theorem Ctx.busyDown_life (c : Ctx) (h : BitVec 8) : (c.busyDown h).life = c.life := rfl
@[simp] theorem Ctx.busyDown_member (c : Ctx) (h : BitVec 8) : (c.busyDown h).member = c.member := rfl
@[simp] theorem Ctx.busyDown_level (c : Ctx) (h : BitVec 8) : (c.busyDown h).level = c.level := rfl
@[simp] theorem Ctx.busyDown_castcls (c : Ctx) (h : BitVec 8) : (c.busyDown h).castcls = c.castcls := rfl
@[simp] theorem Ctx.busyDown_moddef (c : Ctx) (h : BitVec 8) : (c.busyDown h).moddef = c.moddef := rfl
@[simp] theorem Ctx.busyDown_nflags (c : Ctx) (h : BitVec 8) : (c.busyDown h).nflags = c.nflags := rfl
@[simp] theorem Ctx.busyDown_raised (c : Ctx) (h : BitVec 8) : (c.busyDown h).raised = c.raised := rfl
@[simp] theorem Ctx.busyDown_take (c : Ctx) (h : BitVec 8) : (c.busyDown h).take = c.take := rfl
@[simp] theorem Ctx.busyDown_takeStart (c : Ctx) (h : BitVec 8) : (c.busyDown h).takeStart = c.takeStart := rfl
@[simp] theorem Ctx.busyDown_demoted (c : Ctx) (h : BitVec 8) : (c.busyDown h).demoted = c.demoted := rfl
@[simp] theorem Ctx.busyDown_runCc (c : Ctx) (h : BitVec 8) : (c.busyDown h).runCc = c.runCc := rfl
@[simp] theorem Ctx.busyDown_holdCc (c : Ctx) (h : BitVec 8) : (c.busyDown h).holdCc = c.holdCc := rfl
@[simp] theorem Ctx.busyDown_arrived (c : Ctx) (h : BitVec 8) : (c.busyDown h).arrived = c.arrived := rfl
@[simp] theorem Ctx.busyDown_imageDue (c : Ctx) (h : BitVec 8) : (c.busyDown h).imageDue = c.imageDue := rfl
@[simp] theorem Ctx.busyDown_t (c : Ctx) (h : BitVec 8) : (c.busyDown h).t = c.t := rfl
@[simp] theorem Ctx.busyDown_s (c : Ctx) (h : BitVec 8) : (c.busyDown h).s = c.s := rfl
@[simp] theorem Ctx.busyDown_e (c : Ctx) (h : BitVec 8) : (c.busyDown h).e = c.e := rfl
@[simp] theorem Ctx.busyDown_c (c : Ctx) (h : BitVec 8) : (c.busyDown h).c = c.c := rfl
@[simp] theorem Ctx.busyDown_g (c : Ctx) (h : BitVec 8) : (c.busyDown h).g = c.g := rfl
@[simp] theorem Ctx.busyDown_taint (c : Ctx) (h : BitVec 8) : (c.busyDown h).taint = c.taint := rfl
@[simp] theorem Ctx.busyDown_events (c : Ctx) (h : BitVec 8) : (c.busyDown h).events = c.events := rfl
@[simp] theorem Ctx.busyDown_sq (c : Ctx) (h : BitVec 8) : (c.busyDown h).sq = c.sq := rfl
@[simp] theorem Ctx.busyDown_gd (c : Ctx) (h : BitVec 8) : (c.busyDown h).gd = c.gd := rfl
@[simp] theorem Ctx.busyDown_tested (c : Ctx) (h : BitVec 8) : (c.busyDown h).tested = c.tested := rfl
@[simp] theorem Ctx.busyDown_rn (c : Ctx) (h : BitVec 8) : (c.busyDown h).rn = c.rn := rfl
@[simp] theorem Ctx.busyDown_tok (c : Ctx) (h : BitVec 8) : (c.busyDown h).tok = c.tok := rfl
@[simp] theorem Ctx.busyDown_folio (c : Ctx) (h : BitVec 8) : (c.busyDown h).folio = c.folio := rfl
@[simp] theorem Ctx.busyDown_piV (c : Ctx) (h : BitVec 8) : (c.busyDown h).piV = c.piV := rfl
@[simp] theorem Ctx.busyDown_piM (c : Ctx) (h : BitVec 8) : (c.busyDown h).piM = c.piM := rfl
@[simp] theorem Ctx.busyDown_piC (c : Ctx) (h : BitVec 8) : (c.busyDown h).piC = c.piC := rfl
@[simp] theorem Ctx.busyDown_piF (c : Ctx) (h : BitVec 8) : (c.busyDown h).piF = c.piF := rfl
@[simp] theorem Ctx.busyDown_spad (c : Ctx) (h : BitVec 8) : (c.busyDown h).spad = c.spad := rfl
@[simp] theorem Ctx.busyDown_priv (c : Ctx) (h : BitVec 8) : (c.busyDown h).priv = c.priv := rfl
@[simp] theorem Ctx.busyDown_badSpad (c : Ctx) (h : BitVec 8) : (c.busyDown h).badSpad = c.badSpad := rfl
@[simp] theorem Ctx.busyDown_badPriv (c : Ctx) (h : BitVec 8) : (c.busyDown h).badPriv = c.badPriv := rfl
@[simp] theorem Ctx.busyDown_flipSpad (c : Ctx) (h : BitVec 8) : (c.busyDown h).flipSpad = c.flipSpad := rfl
@[simp] theorem Ctx.busyDown_flipPriv (c : Ctx) (h : BitVec 8) : (c.busyDown h).flipPriv = c.flipPriv := rfl
@[simp] theorem Ctx.busyDown_v (c : Ctx) (h : BitVec 8) : (c.busyDown h).v = c.v := rfl
@[simp] theorem Ctx.busyDown_m (c : Ctx) (h : BitVec 8) : (c.busyDown h).m = c.m := rfl
@[simp] theorem Ctx.busyDown_cp (c : Ctx) (h : BitVec 8) : (c.busyDown h).cp = c.cp := rfl
@[simp] theorem Ctx.busyDown_f (c : Ctx) (h : BitVec 8) : (c.busyDown h).f = c.f := rfl
@[simp] theorem Ctx.busyDown_hb (c : Ctx) (h : BitVec 8) : (c.busyDown h).hb = c.hb := rfl

/-! ### Ctx.setChan -/

@[simp] theorem Ctx.setChan_id (c : Ctx) (i : Nat) (l : List W16) : (c.setChan i l).id = c.id := rfl
@[simp] theorem Ctx.setChan_life (c : Ctx) (i : Nat) (l : List W16) : (c.setChan i l).life = c.life := rfl
@[simp] theorem Ctx.setChan_member (c : Ctx) (i : Nat) (l : List W16) : (c.setChan i l).member = c.member := rfl
@[simp] theorem Ctx.setChan_level (c : Ctx) (i : Nat) (l : List W16) : (c.setChan i l).level = c.level := rfl
@[simp] theorem Ctx.setChan_castcls (c : Ctx) (i : Nat) (l : List W16) : (c.setChan i l).castcls = c.castcls := rfl
@[simp] theorem Ctx.setChan_moddef (c : Ctx) (i : Nat) (l : List W16) : (c.setChan i l).moddef = c.moddef := rfl
@[simp] theorem Ctx.setChan_nflags (c : Ctx) (i : Nat) (l : List W16) : (c.setChan i l).nflags = c.nflags := rfl
@[simp] theorem Ctx.setChan_raised (c : Ctx) (i : Nat) (l : List W16) : (c.setChan i l).raised = c.raised := rfl
@[simp] theorem Ctx.setChan_take (c : Ctx) (i : Nat) (l : List W16) : (c.setChan i l).take = c.take := rfl
@[simp] theorem Ctx.setChan_takeStart (c : Ctx) (i : Nat) (l : List W16) : (c.setChan i l).takeStart = c.takeStart := rfl
@[simp] theorem Ctx.setChan_demoted (c : Ctx) (i : Nat) (l : List W16) : (c.setChan i l).demoted = c.demoted := rfl
@[simp] theorem Ctx.setChan_runCc (c : Ctx) (i : Nat) (l : List W16) : (c.setChan i l).runCc = c.runCc := rfl
@[simp] theorem Ctx.setChan_holdCc (c : Ctx) (i : Nat) (l : List W16) : (c.setChan i l).holdCc = c.holdCc := rfl
@[simp] theorem Ctx.setChan_arrived (c : Ctx) (i : Nat) (l : List W16) : (c.setChan i l).arrived = c.arrived := rfl
@[simp] theorem Ctx.setChan_imageDue (c : Ctx) (i : Nat) (l : List W16) : (c.setChan i l).imageDue = c.imageDue := rfl
@[simp] theorem Ctx.setChan_t (c : Ctx) (i : Nat) (l : List W16) : (c.setChan i l).t = c.t := rfl
@[simp] theorem Ctx.setChan_s (c : Ctx) (i : Nat) (l : List W16) : (c.setChan i l).s = c.s := rfl
@[simp] theorem Ctx.setChan_e (c : Ctx) (i : Nat) (l : List W16) : (c.setChan i l).e = c.e := rfl
@[simp] theorem Ctx.setChan_c (c : Ctx) (i : Nat) (l : List W16) : (c.setChan i l).c = c.c := rfl
@[simp] theorem Ctx.setChan_g (c : Ctx) (i : Nat) (l : List W16) : (c.setChan i l).g = c.g := rfl
@[simp] theorem Ctx.setChan_taint (c : Ctx) (i : Nat) (l : List W16) : (c.setChan i l).taint = c.taint := rfl
@[simp] theorem Ctx.setChan_events (c : Ctx) (i : Nat) (l : List W16) : (c.setChan i l).events = c.events := rfl
@[simp] theorem Ctx.setChan_sq (c : Ctx) (i : Nat) (l : List W16) : (c.setChan i l).sq = c.sq := rfl
@[simp] theorem Ctx.setChan_gd (c : Ctx) (i : Nat) (l : List W16) : (c.setChan i l).gd = c.gd := rfl
@[simp] theorem Ctx.setChan_tested (c : Ctx) (i : Nat) (l : List W16) : (c.setChan i l).tested = c.tested := rfl
@[simp] theorem Ctx.setChan_rn (c : Ctx) (i : Nat) (l : List W16) : (c.setChan i l).rn = c.rn := rfl
@[simp] theorem Ctx.setChan_tiles (c : Ctx) (i : Nat) (l : List W16) : (c.setChan i l).tiles = c.tiles := rfl
@[simp] theorem Ctx.setChan_folio (c : Ctx) (i : Nat) (l : List W16) : (c.setChan i l).folio = c.folio := rfl
@[simp] theorem Ctx.setChan_piV (c : Ctx) (i : Nat) (l : List W16) : (c.setChan i l).piV = c.piV := rfl
@[simp] theorem Ctx.setChan_piM (c : Ctx) (i : Nat) (l : List W16) : (c.setChan i l).piM = c.piM := rfl
@[simp] theorem Ctx.setChan_piC (c : Ctx) (i : Nat) (l : List W16) : (c.setChan i l).piC = c.piC := rfl
@[simp] theorem Ctx.setChan_piF (c : Ctx) (i : Nat) (l : List W16) : (c.setChan i l).piF = c.piF := rfl
@[simp] theorem Ctx.setChan_spad (c : Ctx) (i : Nat) (l : List W16) : (c.setChan i l).spad = c.spad := rfl
@[simp] theorem Ctx.setChan_priv (c : Ctx) (i : Nat) (l : List W16) : (c.setChan i l).priv = c.priv := rfl
@[simp] theorem Ctx.setChan_badSpad (c : Ctx) (i : Nat) (l : List W16) : (c.setChan i l).badSpad = c.badSpad := rfl
@[simp] theorem Ctx.setChan_badPriv (c : Ctx) (i : Nat) (l : List W16) : (c.setChan i l).badPriv = c.badPriv := rfl
@[simp] theorem Ctx.setChan_flipSpad (c : Ctx) (i : Nat) (l : List W16) : (c.setChan i l).flipSpad = c.flipSpad := rfl
@[simp] theorem Ctx.setChan_flipPriv (c : Ctx) (i : Nat) (l : List W16) : (c.setChan i l).flipPriv = c.flipPriv := rfl
@[simp] theorem Ctx.setChan_v (c : Ctx) (i : Nat) (l : List W16) : (c.setChan i l).v = c.v := rfl
@[simp] theorem Ctx.setChan_m (c : Ctx) (i : Nat) (l : List W16) : (c.setChan i l).m = c.m := rfl
@[simp] theorem Ctx.setChan_cp (c : Ctx) (i : Nat) (l : List W16) : (c.setChan i l).cp = c.cp := rfl
@[simp] theorem Ctx.setChan_f (c : Ctx) (i : Nat) (l : List W16) : (c.setChan i l).f = c.f := rfl
@[simp] theorem Ctx.setChan_hb (c : Ctx) (i : Nat) (l : List W16) : (c.setChan i l).hb = c.hb := rfl

/-! ### Ctx.setAr -/

@[simp] theorem Ctx.setAr_id (c : Ctx) (r : BitVec 4) (v : W64) : (c.setAr r v).id = c.id := rfl
@[simp] theorem Ctx.setAr_life (c : Ctx) (r : BitVec 4) (v : W64) : (c.setAr r v).life = c.life := rfl
@[simp] theorem Ctx.setAr_member (c : Ctx) (r : BitVec 4) (v : W64) : (c.setAr r v).member = c.member := rfl
@[simp] theorem Ctx.setAr_level (c : Ctx) (r : BitVec 4) (v : W64) : (c.setAr r v).level = c.level := rfl
@[simp] theorem Ctx.setAr_castcls (c : Ctx) (r : BitVec 4) (v : W64) : (c.setAr r v).castcls = c.castcls := rfl
@[simp] theorem Ctx.setAr_moddef (c : Ctx) (r : BitVec 4) (v : W64) : (c.setAr r v).moddef = c.moddef := rfl
@[simp] theorem Ctx.setAr_nflags (c : Ctx) (r : BitVec 4) (v : W64) : (c.setAr r v).nflags = c.nflags := rfl
@[simp] theorem Ctx.setAr_raised (c : Ctx) (r : BitVec 4) (v : W64) : (c.setAr r v).raised = c.raised := rfl
@[simp] theorem Ctx.setAr_take (c : Ctx) (r : BitVec 4) (v : W64) : (c.setAr r v).take = c.take := rfl
@[simp] theorem Ctx.setAr_takeStart (c : Ctx) (r : BitVec 4) (v : W64) : (c.setAr r v).takeStart = c.takeStart := rfl
@[simp] theorem Ctx.setAr_demoted (c : Ctx) (r : BitVec 4) (v : W64) : (c.setAr r v).demoted = c.demoted := rfl
@[simp] theorem Ctx.setAr_runCc (c : Ctx) (r : BitVec 4) (v : W64) : (c.setAr r v).runCc = c.runCc := rfl
@[simp] theorem Ctx.setAr_holdCc (c : Ctx) (r : BitVec 4) (v : W64) : (c.setAr r v).holdCc = c.holdCc := rfl
@[simp] theorem Ctx.setAr_arrived (c : Ctx) (r : BitVec 4) (v : W64) : (c.setAr r v).arrived = c.arrived := rfl
@[simp] theorem Ctx.setAr_imageDue (c : Ctx) (r : BitVec 4) (v : W64) : (c.setAr r v).imageDue = c.imageDue := rfl
@[simp] theorem Ctx.setAr_t (c : Ctx) (r : BitVec 4) (v : W64) : (c.setAr r v).t = c.t := rfl
@[simp] theorem Ctx.setAr_s (c : Ctx) (r : BitVec 4) (v : W64) : (c.setAr r v).s = c.s := rfl
@[simp] theorem Ctx.setAr_e (c : Ctx) (r : BitVec 4) (v : W64) : (c.setAr r v).e = c.e := rfl
@[simp] theorem Ctx.setAr_c (c : Ctx) (r : BitVec 4) (v : W64) : (c.setAr r v).c = c.c := rfl
@[simp] theorem Ctx.setAr_g (c : Ctx) (r : BitVec 4) (v : W64) : (c.setAr r v).g = c.g := rfl
@[simp] theorem Ctx.setAr_taint (c : Ctx) (r : BitVec 4) (v : W64) : (c.setAr r v).taint = c.taint := rfl
@[simp] theorem Ctx.setAr_events (c : Ctx) (r : BitVec 4) (v : W64) : (c.setAr r v).events = c.events := rfl
@[simp] theorem Ctx.setAr_sq (c : Ctx) (r : BitVec 4) (v : W64) : (c.setAr r v).sq = c.sq := rfl
@[simp] theorem Ctx.setAr_gd (c : Ctx) (r : BitVec 4) (v : W64) : (c.setAr r v).gd = c.gd := rfl
@[simp] theorem Ctx.setAr_tested (c : Ctx) (r : BitVec 4) (v : W64) : (c.setAr r v).tested = c.tested := rfl
@[simp] theorem Ctx.setAr_rn (c : Ctx) (r : BitVec 4) (v : W64) : (c.setAr r v).rn = c.rn := rfl
@[simp] theorem Ctx.setAr_tok (c : Ctx) (r : BitVec 4) (v : W64) : (c.setAr r v).tok = c.tok := rfl
@[simp] theorem Ctx.setAr_tiles (c : Ctx) (r : BitVec 4) (v : W64) : (c.setAr r v).tiles = c.tiles := rfl
@[simp] theorem Ctx.setAr_folio (c : Ctx) (r : BitVec 4) (v : W64) : (c.setAr r v).folio = c.folio := rfl
@[simp] theorem Ctx.setAr_piV (c : Ctx) (r : BitVec 4) (v : W64) : (c.setAr r v).piV = c.piV := rfl
@[simp] theorem Ctx.setAr_piM (c : Ctx) (r : BitVec 4) (v : W64) : (c.setAr r v).piM = c.piM := rfl
@[simp] theorem Ctx.setAr_piC (c : Ctx) (r : BitVec 4) (v : W64) : (c.setAr r v).piC = c.piC := rfl
@[simp] theorem Ctx.setAr_piF (c : Ctx) (r : BitVec 4) (v : W64) : (c.setAr r v).piF = c.piF := rfl
@[simp] theorem Ctx.setAr_spad (c : Ctx) (r : BitVec 4) (v : W64) : (c.setAr r v).spad = c.spad := rfl
@[simp] theorem Ctx.setAr_priv (c : Ctx) (r : BitVec 4) (v : W64) : (c.setAr r v).priv = c.priv := rfl
@[simp] theorem Ctx.setAr_badSpad (c : Ctx) (r : BitVec 4) (v : W64) : (c.setAr r v).badSpad = c.badSpad := rfl
@[simp] theorem Ctx.setAr_badPriv (c : Ctx) (r : BitVec 4) (v : W64) : (c.setAr r v).badPriv = c.badPriv := rfl
@[simp] theorem Ctx.setAr_flipSpad (c : Ctx) (r : BitVec 4) (v : W64) : (c.setAr r v).flipSpad = c.flipSpad := rfl
@[simp] theorem Ctx.setAr_flipPriv (c : Ctx) (r : BitVec 4) (v : W64) : (c.setAr r v).flipPriv = c.flipPriv := rfl
@[simp] theorem Ctx.setAr_v (c : Ctx) (r : BitVec 4) (v : W64) : (c.setAr r v).v = c.v := rfl
@[simp] theorem Ctx.setAr_m (c : Ctx) (r : BitVec 4) (v : W64) : (c.setAr r v).m = c.m := rfl
@[simp] theorem Ctx.setAr_f (c : Ctx) (r : BitVec 4) (v : W64) : (c.setAr r v).f = c.f := rfl
@[simp] theorem Ctx.setAr_hb (c : Ctx) (r : BitVec 4) (v : W64) : (c.setAr r v).hb = c.hb := rfl

/-! ### Ctx.setGuard -/

@[simp] theorem Ctx.setGuard_id (c : Ctx) (i : BitVec 4) (x : BitVec 2) (k : Known) : (c.setGuard i x k).id = c.id := rfl
@[simp] theorem Ctx.setGuard_life (c : Ctx) (i : BitVec 4) (x : BitVec 2) (k : Known) : (c.setGuard i x k).life = c.life := rfl
@[simp] theorem Ctx.setGuard_member (c : Ctx) (i : BitVec 4) (x : BitVec 2) (k : Known) : (c.setGuard i x k).member = c.member := rfl
@[simp] theorem Ctx.setGuard_level (c : Ctx) (i : BitVec 4) (x : BitVec 2) (k : Known) : (c.setGuard i x k).level = c.level := rfl
@[simp] theorem Ctx.setGuard_castcls (c : Ctx) (i : BitVec 4) (x : BitVec 2) (k : Known) : (c.setGuard i x k).castcls = c.castcls := rfl
@[simp] theorem Ctx.setGuard_moddef (c : Ctx) (i : BitVec 4) (x : BitVec 2) (k : Known) : (c.setGuard i x k).moddef = c.moddef := rfl
@[simp] theorem Ctx.setGuard_nflags (c : Ctx) (i : BitVec 4) (x : BitVec 2) (k : Known) : (c.setGuard i x k).nflags = c.nflags := rfl
@[simp] theorem Ctx.setGuard_raised (c : Ctx) (i : BitVec 4) (x : BitVec 2) (k : Known) : (c.setGuard i x k).raised = c.raised := rfl
@[simp] theorem Ctx.setGuard_take (c : Ctx) (i : BitVec 4) (x : BitVec 2) (k : Known) : (c.setGuard i x k).take = c.take := rfl
@[simp] theorem Ctx.setGuard_takeStart (c : Ctx) (i : BitVec 4) (x : BitVec 2) (k : Known) : (c.setGuard i x k).takeStart = c.takeStart := rfl
@[simp] theorem Ctx.setGuard_demoted (c : Ctx) (i : BitVec 4) (x : BitVec 2) (k : Known) : (c.setGuard i x k).demoted = c.demoted := rfl
@[simp] theorem Ctx.setGuard_runCc (c : Ctx) (i : BitVec 4) (x : BitVec 2) (k : Known) : (c.setGuard i x k).runCc = c.runCc := rfl
@[simp] theorem Ctx.setGuard_holdCc (c : Ctx) (i : BitVec 4) (x : BitVec 2) (k : Known) : (c.setGuard i x k).holdCc = c.holdCc := rfl
@[simp] theorem Ctx.setGuard_arrived (c : Ctx) (i : BitVec 4) (x : BitVec 2) (k : Known) : (c.setGuard i x k).arrived = c.arrived := rfl
@[simp] theorem Ctx.setGuard_imageDue (c : Ctx) (i : BitVec 4) (x : BitVec 2) (k : Known) : (c.setGuard i x k).imageDue = c.imageDue := rfl
@[simp] theorem Ctx.setGuard_t (c : Ctx) (i : BitVec 4) (x : BitVec 2) (k : Known) : (c.setGuard i x k).t = c.t := rfl
@[simp] theorem Ctx.setGuard_s (c : Ctx) (i : BitVec 4) (x : BitVec 2) (k : Known) : (c.setGuard i x k).s = c.s := rfl
@[simp] theorem Ctx.setGuard_e (c : Ctx) (i : BitVec 4) (x : BitVec 2) (k : Known) : (c.setGuard i x k).e = c.e := rfl
@[simp] theorem Ctx.setGuard_c (c : Ctx) (i : BitVec 4) (x : BitVec 2) (k : Known) : (c.setGuard i x k).c = c.c := rfl
@[simp] theorem Ctx.setGuard_g (c : Ctx) (i : BitVec 4) (x : BitVec 2) (k : Known) : (c.setGuard i x k).g = c.g := rfl
@[simp] theorem Ctx.setGuard_taint (c : Ctx) (i : BitVec 4) (x : BitVec 2) (k : Known) : (c.setGuard i x k).taint = c.taint := rfl
@[simp] theorem Ctx.setGuard_events (c : Ctx) (i : BitVec 4) (x : BitVec 2) (k : Known) : (c.setGuard i x k).events = c.events := rfl
@[simp] theorem Ctx.setGuard_sq (c : Ctx) (i : BitVec 4) (x : BitVec 2) (k : Known) : (c.setGuard i x k).sq = c.sq := rfl
@[simp] theorem Ctx.setGuard_tested (c : Ctx) (i : BitVec 4) (x : BitVec 2) (k : Known) : (c.setGuard i x k).tested = c.tested := rfl
@[simp] theorem Ctx.setGuard_rn (c : Ctx) (i : BitVec 4) (x : BitVec 2) (k : Known) : (c.setGuard i x k).rn = c.rn := rfl
@[simp] theorem Ctx.setGuard_tok (c : Ctx) (i : BitVec 4) (x : BitVec 2) (k : Known) : (c.setGuard i x k).tok = c.tok := rfl
@[simp] theorem Ctx.setGuard_tiles (c : Ctx) (i : BitVec 4) (x : BitVec 2) (k : Known) : (c.setGuard i x k).tiles = c.tiles := rfl
@[simp] theorem Ctx.setGuard_folio (c : Ctx) (i : BitVec 4) (x : BitVec 2) (k : Known) : (c.setGuard i x k).folio = c.folio := rfl
@[simp] theorem Ctx.setGuard_piV (c : Ctx) (i : BitVec 4) (x : BitVec 2) (k : Known) : (c.setGuard i x k).piV = c.piV := rfl
@[simp] theorem Ctx.setGuard_piM (c : Ctx) (i : BitVec 4) (x : BitVec 2) (k : Known) : (c.setGuard i x k).piM = c.piM := rfl
@[simp] theorem Ctx.setGuard_piC (c : Ctx) (i : BitVec 4) (x : BitVec 2) (k : Known) : (c.setGuard i x k).piC = c.piC := rfl
@[simp] theorem Ctx.setGuard_piF (c : Ctx) (i : BitVec 4) (x : BitVec 2) (k : Known) : (c.setGuard i x k).piF = c.piF := rfl
@[simp] theorem Ctx.setGuard_spad (c : Ctx) (i : BitVec 4) (x : BitVec 2) (k : Known) : (c.setGuard i x k).spad = c.spad := rfl
@[simp] theorem Ctx.setGuard_priv (c : Ctx) (i : BitVec 4) (x : BitVec 2) (k : Known) : (c.setGuard i x k).priv = c.priv := rfl
@[simp] theorem Ctx.setGuard_badSpad (c : Ctx) (i : BitVec 4) (x : BitVec 2) (k : Known) : (c.setGuard i x k).badSpad = c.badSpad := rfl
@[simp] theorem Ctx.setGuard_badPriv (c : Ctx) (i : BitVec 4) (x : BitVec 2) (k : Known) : (c.setGuard i x k).badPriv = c.badPriv := rfl
@[simp] theorem Ctx.setGuard_flipSpad (c : Ctx) (i : BitVec 4) (x : BitVec 2) (k : Known) : (c.setGuard i x k).flipSpad = c.flipSpad := rfl
@[simp] theorem Ctx.setGuard_flipPriv (c : Ctx) (i : BitVec 4) (x : BitVec 2) (k : Known) : (c.setGuard i x k).flipPriv = c.flipPriv := rfl
@[simp] theorem Ctx.setGuard_v (c : Ctx) (i : BitVec 4) (x : BitVec 2) (k : Known) : (c.setGuard i x k).v = c.v := rfl
@[simp] theorem Ctx.setGuard_m (c : Ctx) (i : BitVec 4) (x : BitVec 2) (k : Known) : (c.setGuard i x k).m = c.m := rfl
@[simp] theorem Ctx.setGuard_cp (c : Ctx) (i : BitVec 4) (x : BitVec 2) (k : Known) : (c.setGuard i x k).cp = c.cp := rfl
@[simp] theorem Ctx.setGuard_f (c : Ctx) (i : BitVec 4) (x : BitVec 2) (k : Known) : (c.setGuard i x k).f = c.f := rfl

/-! ### Ctx.acquire -/

@[simp] theorem Ctx.acquire_id (c : Ctx) (st : Stream) (k : Known) : (c.acquire st k).id = c.id := rfl
@[simp] theorem Ctx.acquire_life (c : Ctx) (st : Stream) (k : Known) : (c.acquire st k).life = c.life := rfl
@[simp] theorem Ctx.acquire_member (c : Ctx) (st : Stream) (k : Known) : (c.acquire st k).member = c.member := rfl
@[simp] theorem Ctx.acquire_level (c : Ctx) (st : Stream) (k : Known) : (c.acquire st k).level = c.level := rfl
@[simp] theorem Ctx.acquire_castcls (c : Ctx) (st : Stream) (k : Known) : (c.acquire st k).castcls = c.castcls := rfl
@[simp] theorem Ctx.acquire_moddef (c : Ctx) (st : Stream) (k : Known) : (c.acquire st k).moddef = c.moddef := rfl
@[simp] theorem Ctx.acquire_nflags (c : Ctx) (st : Stream) (k : Known) : (c.acquire st k).nflags = c.nflags := rfl
@[simp] theorem Ctx.acquire_raised (c : Ctx) (st : Stream) (k : Known) : (c.acquire st k).raised = c.raised := rfl
@[simp] theorem Ctx.acquire_take (c : Ctx) (st : Stream) (k : Known) : (c.acquire st k).take = c.take := rfl
@[simp] theorem Ctx.acquire_takeStart (c : Ctx) (st : Stream) (k : Known) : (c.acquire st k).takeStart = c.takeStart := rfl
@[simp] theorem Ctx.acquire_demoted (c : Ctx) (st : Stream) (k : Known) : (c.acquire st k).demoted = c.demoted := rfl
@[simp] theorem Ctx.acquire_runCc (c : Ctx) (st : Stream) (k : Known) : (c.acquire st k).runCc = c.runCc := rfl
@[simp] theorem Ctx.acquire_holdCc (c : Ctx) (st : Stream) (k : Known) : (c.acquire st k).holdCc = c.holdCc := rfl
@[simp] theorem Ctx.acquire_arrived (c : Ctx) (st : Stream) (k : Known) : (c.acquire st k).arrived = c.arrived := rfl
@[simp] theorem Ctx.acquire_imageDue (c : Ctx) (st : Stream) (k : Known) : (c.acquire st k).imageDue = c.imageDue := rfl
@[simp] theorem Ctx.acquire_t (c : Ctx) (st : Stream) (k : Known) : (c.acquire st k).t = c.t := rfl
@[simp] theorem Ctx.acquire_s (c : Ctx) (st : Stream) (k : Known) : (c.acquire st k).s = c.s := rfl
@[simp] theorem Ctx.acquire_e (c : Ctx) (st : Stream) (k : Known) : (c.acquire st k).e = c.e := rfl
@[simp] theorem Ctx.acquire_c (c : Ctx) (st : Stream) (k : Known) : (c.acquire st k).c = c.c := rfl
@[simp] theorem Ctx.acquire_g (c : Ctx) (st : Stream) (k : Known) : (c.acquire st k).g = c.g := rfl
@[simp] theorem Ctx.acquire_taint (c : Ctx) (st : Stream) (k : Known) : (c.acquire st k).taint = c.taint := rfl
@[simp] theorem Ctx.acquire_events (c : Ctx) (st : Stream) (k : Known) : (c.acquire st k).events = c.events := rfl
@[simp] theorem Ctx.acquire_sq (c : Ctx) (st : Stream) (k : Known) : (c.acquire st k).sq = c.sq := rfl
@[simp] theorem Ctx.acquire_gd (c : Ctx) (st : Stream) (k : Known) : (c.acquire st k).gd = c.gd := rfl
@[simp] theorem Ctx.acquire_tested (c : Ctx) (st : Stream) (k : Known) : (c.acquire st k).tested = c.tested := rfl
@[simp] theorem Ctx.acquire_rn (c : Ctx) (st : Stream) (k : Known) : (c.acquire st k).rn = c.rn := rfl
@[simp] theorem Ctx.acquire_tok (c : Ctx) (st : Stream) (k : Known) : (c.acquire st k).tok = c.tok := rfl
@[simp] theorem Ctx.acquire_tiles (c : Ctx) (st : Stream) (k : Known) : (c.acquire st k).tiles = c.tiles := rfl
@[simp] theorem Ctx.acquire_folio (c : Ctx) (st : Stream) (k : Known) : (c.acquire st k).folio = c.folio := rfl
@[simp] theorem Ctx.acquire_piV (c : Ctx) (st : Stream) (k : Known) : (c.acquire st k).piV = c.piV := rfl
@[simp] theorem Ctx.acquire_piM (c : Ctx) (st : Stream) (k : Known) : (c.acquire st k).piM = c.piM := rfl
@[simp] theorem Ctx.acquire_piC (c : Ctx) (st : Stream) (k : Known) : (c.acquire st k).piC = c.piC := rfl
@[simp] theorem Ctx.acquire_piF (c : Ctx) (st : Stream) (k : Known) : (c.acquire st k).piF = c.piF := rfl
@[simp] theorem Ctx.acquire_spad (c : Ctx) (st : Stream) (k : Known) : (c.acquire st k).spad = c.spad := rfl
@[simp] theorem Ctx.acquire_priv (c : Ctx) (st : Stream) (k : Known) : (c.acquire st k).priv = c.priv := rfl
@[simp] theorem Ctx.acquire_badSpad (c : Ctx) (st : Stream) (k : Known) : (c.acquire st k).badSpad = c.badSpad := rfl
@[simp] theorem Ctx.acquire_badPriv (c : Ctx) (st : Stream) (k : Known) : (c.acquire st k).badPriv = c.badPriv := rfl
@[simp] theorem Ctx.acquire_flipSpad (c : Ctx) (st : Stream) (k : Known) : (c.acquire st k).flipSpad = c.flipSpad := rfl
@[simp] theorem Ctx.acquire_flipPriv (c : Ctx) (st : Stream) (k : Known) : (c.acquire st k).flipPriv = c.flipPriv := rfl
@[simp] theorem Ctx.acquire_v (c : Ctx) (st : Stream) (k : Known) : (c.acquire st k).v = c.v := rfl
@[simp] theorem Ctx.acquire_m (c : Ctx) (st : Stream) (k : Known) : (c.acquire st k).m = c.m := rfl
@[simp] theorem Ctx.acquire_cp (c : Ctx) (st : Stream) (k : Known) : (c.acquire st k).cp = c.cp := rfl
@[simp] theorem Ctx.acquire_f (c : Ctx) (st : Stream) (k : Known) : (c.acquire st k).f = c.f := rfl

/-! ### Ctx.unmark -/

@[simp] theorem Ctx.unmark_id (c : Ctx) (p : Nat → Bool) : (c.unmark p).id = c.id := rfl
@[simp] theorem Ctx.unmark_life (c : Ctx) (p : Nat → Bool) : (c.unmark p).life = c.life := rfl
@[simp] theorem Ctx.unmark_member (c : Ctx) (p : Nat → Bool) : (c.unmark p).member = c.member := rfl
@[simp] theorem Ctx.unmark_level (c : Ctx) (p : Nat → Bool) : (c.unmark p).level = c.level := rfl
@[simp] theorem Ctx.unmark_castcls (c : Ctx) (p : Nat → Bool) : (c.unmark p).castcls = c.castcls := rfl
@[simp] theorem Ctx.unmark_moddef (c : Ctx) (p : Nat → Bool) : (c.unmark p).moddef = c.moddef := rfl
@[simp] theorem Ctx.unmark_nflags (c : Ctx) (p : Nat → Bool) : (c.unmark p).nflags = c.nflags := rfl
@[simp] theorem Ctx.unmark_raised (c : Ctx) (p : Nat → Bool) : (c.unmark p).raised = c.raised := rfl
@[simp] theorem Ctx.unmark_take (c : Ctx) (p : Nat → Bool) : (c.unmark p).take = c.take := rfl
@[simp] theorem Ctx.unmark_takeStart (c : Ctx) (p : Nat → Bool) : (c.unmark p).takeStart = c.takeStart := rfl
@[simp] theorem Ctx.unmark_demoted (c : Ctx) (p : Nat → Bool) : (c.unmark p).demoted = c.demoted := rfl
@[simp] theorem Ctx.unmark_runCc (c : Ctx) (p : Nat → Bool) : (c.unmark p).runCc = c.runCc := rfl
@[simp] theorem Ctx.unmark_holdCc (c : Ctx) (p : Nat → Bool) : (c.unmark p).holdCc = c.holdCc := rfl
@[simp] theorem Ctx.unmark_arrived (c : Ctx) (p : Nat → Bool) : (c.unmark p).arrived = c.arrived := rfl
@[simp] theorem Ctx.unmark_imageDue (c : Ctx) (p : Nat → Bool) : (c.unmark p).imageDue = c.imageDue := rfl
@[simp] theorem Ctx.unmark_t (c : Ctx) (p : Nat → Bool) : (c.unmark p).t = c.t := rfl
@[simp] theorem Ctx.unmark_s (c : Ctx) (p : Nat → Bool) : (c.unmark p).s = c.s := rfl
@[simp] theorem Ctx.unmark_e (c : Ctx) (p : Nat → Bool) : (c.unmark p).e = c.e := rfl
@[simp] theorem Ctx.unmark_c (c : Ctx) (p : Nat → Bool) : (c.unmark p).c = c.c := rfl
@[simp] theorem Ctx.unmark_g (c : Ctx) (p : Nat → Bool) : (c.unmark p).g = c.g := rfl
@[simp] theorem Ctx.unmark_taint (c : Ctx) (p : Nat → Bool) : (c.unmark p).taint = c.taint := rfl
@[simp] theorem Ctx.unmark_events (c : Ctx) (p : Nat → Bool) : (c.unmark p).events = c.events := rfl
@[simp] theorem Ctx.unmark_sq (c : Ctx) (p : Nat → Bool) : (c.unmark p).sq = c.sq := rfl
@[simp] theorem Ctx.unmark_gd (c : Ctx) (p : Nat → Bool) : (c.unmark p).gd = c.gd := rfl
@[simp] theorem Ctx.unmark_tested (c : Ctx) (p : Nat → Bool) : (c.unmark p).tested = c.tested := rfl
@[simp] theorem Ctx.unmark_rn (c : Ctx) (p : Nat → Bool) : (c.unmark p).rn = c.rn := rfl
@[simp] theorem Ctx.unmark_tok (c : Ctx) (p : Nat → Bool) : (c.unmark p).tok = c.tok := rfl
@[simp] theorem Ctx.unmark_tiles (c : Ctx) (p : Nat → Bool) : (c.unmark p).tiles = c.tiles := rfl
@[simp] theorem Ctx.unmark_folio (c : Ctx) (p : Nat → Bool) : (c.unmark p).folio = c.folio := rfl
@[simp] theorem Ctx.unmark_piV (c : Ctx) (p : Nat → Bool) : (c.unmark p).piV = c.piV := rfl
@[simp] theorem Ctx.unmark_piM (c : Ctx) (p : Nat → Bool) : (c.unmark p).piM = c.piM := rfl
@[simp] theorem Ctx.unmark_piC (c : Ctx) (p : Nat → Bool) : (c.unmark p).piC = c.piC := rfl
@[simp] theorem Ctx.unmark_piF (c : Ctx) (p : Nat → Bool) : (c.unmark p).piF = c.piF := rfl
@[simp] theorem Ctx.unmark_spad (c : Ctx) (p : Nat → Bool) : (c.unmark p).spad = c.spad := rfl
@[simp] theorem Ctx.unmark_priv (c : Ctx) (p : Nat → Bool) : (c.unmark p).priv = c.priv := rfl
@[simp] theorem Ctx.unmark_badSpad (c : Ctx) (p : Nat → Bool) : (c.unmark p).badSpad = c.badSpad := rfl
@[simp] theorem Ctx.unmark_badPriv (c : Ctx) (p : Nat → Bool) : (c.unmark p).badPriv = c.badPriv := rfl
@[simp] theorem Ctx.unmark_flipSpad (c : Ctx) (p : Nat → Bool) : (c.unmark p).flipSpad = c.flipSpad := rfl
@[simp] theorem Ctx.unmark_flipPriv (c : Ctx) (p : Nat → Bool) : (c.unmark p).flipPriv = c.flipPriv := rfl
@[simp] theorem Ctx.unmark_v (c : Ctx) (p : Nat → Bool) : (c.unmark p).v = c.v := rfl
@[simp] theorem Ctx.unmark_m (c : Ctx) (p : Nat → Bool) : (c.unmark p).m = c.m := rfl
@[simp] theorem Ctx.unmark_cp (c : Ctx) (p : Nat → Bool) : (c.unmark p).cp = c.cp := rfl
@[simp] theorem Ctx.unmark_f (c : Ctx) (p : Nat → Bool) : (c.unmark p).f = c.f := rfl

/-! ### Ctx.setSlot -/

@[simp] theorem Ctx.setSlot_id (c : Ctx) (i : BitVec 6) (f : FolioSlot) : (c.setSlot i f).id = c.id := rfl
@[simp] theorem Ctx.setSlot_life (c : Ctx) (i : BitVec 6) (f : FolioSlot) : (c.setSlot i f).life = c.life := rfl
@[simp] theorem Ctx.setSlot_member (c : Ctx) (i : BitVec 6) (f : FolioSlot) : (c.setSlot i f).member = c.member := rfl
@[simp] theorem Ctx.setSlot_level (c : Ctx) (i : BitVec 6) (f : FolioSlot) : (c.setSlot i f).level = c.level := rfl
@[simp] theorem Ctx.setSlot_castcls (c : Ctx) (i : BitVec 6) (f : FolioSlot) : (c.setSlot i f).castcls = c.castcls := rfl
@[simp] theorem Ctx.setSlot_moddef (c : Ctx) (i : BitVec 6) (f : FolioSlot) : (c.setSlot i f).moddef = c.moddef := rfl
@[simp] theorem Ctx.setSlot_nflags (c : Ctx) (i : BitVec 6) (f : FolioSlot) : (c.setSlot i f).nflags = c.nflags := rfl
@[simp] theorem Ctx.setSlot_raised (c : Ctx) (i : BitVec 6) (f : FolioSlot) : (c.setSlot i f).raised = c.raised := rfl
@[simp] theorem Ctx.setSlot_take (c : Ctx) (i : BitVec 6) (f : FolioSlot) : (c.setSlot i f).take = c.take := rfl
@[simp] theorem Ctx.setSlot_takeStart (c : Ctx) (i : BitVec 6) (f : FolioSlot) : (c.setSlot i f).takeStart = c.takeStart := rfl
@[simp] theorem Ctx.setSlot_demoted (c : Ctx) (i : BitVec 6) (f : FolioSlot) : (c.setSlot i f).demoted = c.demoted := rfl
@[simp] theorem Ctx.setSlot_runCc (c : Ctx) (i : BitVec 6) (f : FolioSlot) : (c.setSlot i f).runCc = c.runCc := rfl
@[simp] theorem Ctx.setSlot_holdCc (c : Ctx) (i : BitVec 6) (f : FolioSlot) : (c.setSlot i f).holdCc = c.holdCc := rfl
@[simp] theorem Ctx.setSlot_arrived (c : Ctx) (i : BitVec 6) (f : FolioSlot) : (c.setSlot i f).arrived = c.arrived := rfl
@[simp] theorem Ctx.setSlot_imageDue (c : Ctx) (i : BitVec 6) (f : FolioSlot) : (c.setSlot i f).imageDue = c.imageDue := rfl
@[simp] theorem Ctx.setSlot_t (c : Ctx) (i : BitVec 6) (f : FolioSlot) : (c.setSlot i f).t = c.t := rfl
@[simp] theorem Ctx.setSlot_s (c : Ctx) (i : BitVec 6) (f : FolioSlot) : (c.setSlot i f).s = c.s := rfl
@[simp] theorem Ctx.setSlot_e (c : Ctx) (i : BitVec 6) (f : FolioSlot) : (c.setSlot i f).e = c.e := rfl
@[simp] theorem Ctx.setSlot_c (c : Ctx) (i : BitVec 6) (f : FolioSlot) : (c.setSlot i f).c = c.c := rfl
@[simp] theorem Ctx.setSlot_g (c : Ctx) (i : BitVec 6) (f : FolioSlot) : (c.setSlot i f).g = c.g := rfl
@[simp] theorem Ctx.setSlot_taint (c : Ctx) (i : BitVec 6) (f : FolioSlot) : (c.setSlot i f).taint = c.taint := rfl
@[simp] theorem Ctx.setSlot_events (c : Ctx) (i : BitVec 6) (f : FolioSlot) : (c.setSlot i f).events = c.events := rfl
@[simp] theorem Ctx.setSlot_sq (c : Ctx) (i : BitVec 6) (f : FolioSlot) : (c.setSlot i f).sq = c.sq := rfl
@[simp] theorem Ctx.setSlot_gd (c : Ctx) (i : BitVec 6) (f : FolioSlot) : (c.setSlot i f).gd = c.gd := rfl
@[simp] theorem Ctx.setSlot_tested (c : Ctx) (i : BitVec 6) (f : FolioSlot) : (c.setSlot i f).tested = c.tested := rfl
@[simp] theorem Ctx.setSlot_rn (c : Ctx) (i : BitVec 6) (f : FolioSlot) : (c.setSlot i f).rn = c.rn := rfl
@[simp] theorem Ctx.setSlot_tok (c : Ctx) (i : BitVec 6) (f : FolioSlot) : (c.setSlot i f).tok = c.tok := rfl
@[simp] theorem Ctx.setSlot_tiles (c : Ctx) (i : BitVec 6) (f : FolioSlot) : (c.setSlot i f).tiles = c.tiles := rfl
@[simp] theorem Ctx.setSlot_piV (c : Ctx) (i : BitVec 6) (f : FolioSlot) : (c.setSlot i f).piV = c.piV := rfl
@[simp] theorem Ctx.setSlot_piM (c : Ctx) (i : BitVec 6) (f : FolioSlot) : (c.setSlot i f).piM = c.piM := rfl
@[simp] theorem Ctx.setSlot_piC (c : Ctx) (i : BitVec 6) (f : FolioSlot) : (c.setSlot i f).piC = c.piC := rfl
@[simp] theorem Ctx.setSlot_piF (c : Ctx) (i : BitVec 6) (f : FolioSlot) : (c.setSlot i f).piF = c.piF := rfl
@[simp] theorem Ctx.setSlot_spad (c : Ctx) (i : BitVec 6) (f : FolioSlot) : (c.setSlot i f).spad = c.spad := rfl
@[simp] theorem Ctx.setSlot_priv (c : Ctx) (i : BitVec 6) (f : FolioSlot) : (c.setSlot i f).priv = c.priv := rfl
@[simp] theorem Ctx.setSlot_badSpad (c : Ctx) (i : BitVec 6) (f : FolioSlot) : (c.setSlot i f).badSpad = c.badSpad := rfl
@[simp] theorem Ctx.setSlot_badPriv (c : Ctx) (i : BitVec 6) (f : FolioSlot) : (c.setSlot i f).badPriv = c.badPriv := rfl
@[simp] theorem Ctx.setSlot_flipSpad (c : Ctx) (i : BitVec 6) (f : FolioSlot) : (c.setSlot i f).flipSpad = c.flipSpad := rfl
@[simp] theorem Ctx.setSlot_flipPriv (c : Ctx) (i : BitVec 6) (f : FolioSlot) : (c.setSlot i f).flipPriv = c.flipPriv := rfl
@[simp] theorem Ctx.setSlot_v (c : Ctx) (i : BitVec 6) (f : FolioSlot) : (c.setSlot i f).v = c.v := rfl
@[simp] theorem Ctx.setSlot_m (c : Ctx) (i : BitVec 6) (f : FolioSlot) : (c.setSlot i f).m = c.m := rfl
@[simp] theorem Ctx.setSlot_cp (c : Ctx) (i : BitVec 6) (f : FolioSlot) : (c.setSlot i f).cp = c.cp := rfl
@[simp] theorem Ctx.setSlot_f (c : Ctx) (i : BitVec 6) (f : FolioSlot) : (c.setSlot i f).f = c.f := rfl
@[simp] theorem Ctx.setSlot_hb (c : Ctx) (i : BitVec 6) (f : FolioSlot) : (c.setSlot i f).hb = c.hb := rfl

/-! ### Ctx.dropErr -/

@[simp] theorem Ctx.dropErr_id (c : Ctx) (e : SErr) : (c.dropErr e).id = c.id := rfl
@[simp] theorem Ctx.dropErr_life (c : Ctx) (e : SErr) : (c.dropErr e).life = c.life := rfl
@[simp] theorem Ctx.dropErr_member (c : Ctx) (e : SErr) : (c.dropErr e).member = c.member := rfl
@[simp] theorem Ctx.dropErr_level (c : Ctx) (e : SErr) : (c.dropErr e).level = c.level := rfl
@[simp] theorem Ctx.dropErr_castcls (c : Ctx) (e : SErr) : (c.dropErr e).castcls = c.castcls := rfl
@[simp] theorem Ctx.dropErr_moddef (c : Ctx) (e : SErr) : (c.dropErr e).moddef = c.moddef := rfl
@[simp] theorem Ctx.dropErr_nflags (c : Ctx) (e : SErr) : (c.dropErr e).nflags = c.nflags := rfl
@[simp] theorem Ctx.dropErr_raised (c : Ctx) (e : SErr) : (c.dropErr e).raised = c.raised := rfl
@[simp] theorem Ctx.dropErr_take (c : Ctx) (e : SErr) : (c.dropErr e).take = c.take := rfl
@[simp] theorem Ctx.dropErr_takeStart (c : Ctx) (e : SErr) : (c.dropErr e).takeStart = c.takeStart := rfl
@[simp] theorem Ctx.dropErr_demoted (c : Ctx) (e : SErr) : (c.dropErr e).demoted = c.demoted := rfl
@[simp] theorem Ctx.dropErr_runCc (c : Ctx) (e : SErr) : (c.dropErr e).runCc = c.runCc := rfl
@[simp] theorem Ctx.dropErr_holdCc (c : Ctx) (e : SErr) : (c.dropErr e).holdCc = c.holdCc := rfl
@[simp] theorem Ctx.dropErr_arrived (c : Ctx) (e : SErr) : (c.dropErr e).arrived = c.arrived := rfl
@[simp] theorem Ctx.dropErr_imageDue (c : Ctx) (e : SErr) : (c.dropErr e).imageDue = c.imageDue := rfl
@[simp] theorem Ctx.dropErr_t (c : Ctx) (e : SErr) : (c.dropErr e).t = c.t := rfl
@[simp] theorem Ctx.dropErr_s (c : Ctx) (e : SErr) : (c.dropErr e).s = c.s := rfl
@[simp] theorem Ctx.dropErr_e (c : Ctx) (e : SErr) : (c.dropErr e).e = c.e := rfl
@[simp] theorem Ctx.dropErr_c (c : Ctx) (e : SErr) : (c.dropErr e).c = c.c := rfl
@[simp] theorem Ctx.dropErr_g (c : Ctx) (e : SErr) : (c.dropErr e).g = c.g := rfl
@[simp] theorem Ctx.dropErr_taint (c : Ctx) (e : SErr) : (c.dropErr e).taint = c.taint := rfl
@[simp] theorem Ctx.dropErr_events (c : Ctx) (e : SErr) : (c.dropErr e).events = c.events := rfl
@[simp] theorem Ctx.dropErr_gd (c : Ctx) (e : SErr) : (c.dropErr e).gd = c.gd := rfl
@[simp] theorem Ctx.dropErr_tested (c : Ctx) (e : SErr) : (c.dropErr e).tested = c.tested := rfl
@[simp] theorem Ctx.dropErr_rn (c : Ctx) (e : SErr) : (c.dropErr e).rn = c.rn := rfl
@[simp] theorem Ctx.dropErr_tok (c : Ctx) (e : SErr) : (c.dropErr e).tok = c.tok := rfl
@[simp] theorem Ctx.dropErr_tiles (c : Ctx) (e : SErr) : (c.dropErr e).tiles = c.tiles := rfl
@[simp] theorem Ctx.dropErr_folio (c : Ctx) (e : SErr) : (c.dropErr e).folio = c.folio := rfl
@[simp] theorem Ctx.dropErr_piV (c : Ctx) (e : SErr) : (c.dropErr e).piV = c.piV := rfl
@[simp] theorem Ctx.dropErr_piM (c : Ctx) (e : SErr) : (c.dropErr e).piM = c.piM := rfl
@[simp] theorem Ctx.dropErr_piC (c : Ctx) (e : SErr) : (c.dropErr e).piC = c.piC := rfl
@[simp] theorem Ctx.dropErr_piF (c : Ctx) (e : SErr) : (c.dropErr e).piF = c.piF := rfl
@[simp] theorem Ctx.dropErr_spad (c : Ctx) (e : SErr) : (c.dropErr e).spad = c.spad := rfl
@[simp] theorem Ctx.dropErr_priv (c : Ctx) (e : SErr) : (c.dropErr e).priv = c.priv := rfl
@[simp] theorem Ctx.dropErr_badSpad (c : Ctx) (e : SErr) : (c.dropErr e).badSpad = c.badSpad := rfl
@[simp] theorem Ctx.dropErr_badPriv (c : Ctx) (e : SErr) : (c.dropErr e).badPriv = c.badPriv := rfl
@[simp] theorem Ctx.dropErr_flipSpad (c : Ctx) (e : SErr) : (c.dropErr e).flipSpad = c.flipSpad := rfl
@[simp] theorem Ctx.dropErr_flipPriv (c : Ctx) (e : SErr) : (c.dropErr e).flipPriv = c.flipPriv := rfl
@[simp] theorem Ctx.dropErr_v (c : Ctx) (e : SErr) : (c.dropErr e).v = c.v := rfl
@[simp] theorem Ctx.dropErr_m (c : Ctx) (e : SErr) : (c.dropErr e).m = c.m := rfl
@[simp] theorem Ctx.dropErr_cp (c : Ctx) (e : SErr) : (c.dropErr e).cp = c.cp := rfl
@[simp] theorem Ctx.dropErr_f (c : Ctx) (e : SErr) : (c.dropErr e).f = c.f := rfl
@[simp] theorem Ctx.dropErr_hb (c : Ctx) (e : SErr) : (c.dropErr e).hb = c.hb := rfl

/-! ### Ctx.wake -/

@[simp] theorem Ctx.wake_id (c : Ctx) (k : BitVec 4) (o : Nat) : (c.wake k o).id = c.id := rfl
@[simp] theorem Ctx.wake_life (c : Ctx) (k : BitVec 4) (o : Nat) : (c.wake k o).life = c.life := rfl
@[simp] theorem Ctx.wake_member (c : Ctx) (k : BitVec 4) (o : Nat) : (c.wake k o).member = c.member := rfl
@[simp] theorem Ctx.wake_level (c : Ctx) (k : BitVec 4) (o : Nat) : (c.wake k o).level = c.level := rfl
@[simp] theorem Ctx.wake_castcls (c : Ctx) (k : BitVec 4) (o : Nat) : (c.wake k o).castcls = c.castcls := rfl
@[simp] theorem Ctx.wake_moddef (c : Ctx) (k : BitVec 4) (o : Nat) : (c.wake k o).moddef = c.moddef := rfl
@[simp] theorem Ctx.wake_nflags (c : Ctx) (k : BitVec 4) (o : Nat) : (c.wake k o).nflags = c.nflags := rfl
@[simp] theorem Ctx.wake_raised (c : Ctx) (k : BitVec 4) (o : Nat) : (c.wake k o).raised = c.raised := rfl
@[simp] theorem Ctx.wake_take (c : Ctx) (k : BitVec 4) (o : Nat) : (c.wake k o).take = c.take := rfl
@[simp] theorem Ctx.wake_takeStart (c : Ctx) (k : BitVec 4) (o : Nat) : (c.wake k o).takeStart = c.takeStart := rfl
@[simp] theorem Ctx.wake_demoted (c : Ctx) (k : BitVec 4) (o : Nat) : (c.wake k o).demoted = c.demoted := rfl
@[simp] theorem Ctx.wake_runCc (c : Ctx) (k : BitVec 4) (o : Nat) : (c.wake k o).runCc = c.runCc := rfl
@[simp] theorem Ctx.wake_holdCc (c : Ctx) (k : BitVec 4) (o : Nat) : (c.wake k o).holdCc = c.holdCc := rfl
@[simp] theorem Ctx.wake_arrived (c : Ctx) (k : BitVec 4) (o : Nat) : (c.wake k o).arrived = c.arrived := rfl
@[simp] theorem Ctx.wake_imageDue (c : Ctx) (k : BitVec 4) (o : Nat) : (c.wake k o).imageDue = c.imageDue := rfl
@[simp] theorem Ctx.wake_t (c : Ctx) (k : BitVec 4) (o : Nat) : (c.wake k o).t = c.t := rfl
@[simp] theorem Ctx.wake_g (c : Ctx) (k : BitVec 4) (o : Nat) : (c.wake k o).g = c.g := rfl
@[simp] theorem Ctx.wake_taint (c : Ctx) (k : BitVec 4) (o : Nat) : (c.wake k o).taint = c.taint := rfl
@[simp] theorem Ctx.wake_events (c : Ctx) (k : BitVec 4) (o : Nat) : (c.wake k o).events = c.events := rfl
@[simp] theorem Ctx.wake_sq (c : Ctx) (k : BitVec 4) (o : Nat) : (c.wake k o).sq = c.sq := rfl
@[simp] theorem Ctx.wake_gd (c : Ctx) (k : BitVec 4) (o : Nat) : (c.wake k o).gd = c.gd := rfl
@[simp] theorem Ctx.wake_tested (c : Ctx) (k : BitVec 4) (o : Nat) : (c.wake k o).tested = c.tested := rfl
@[simp] theorem Ctx.wake_rn (c : Ctx) (k : BitVec 4) (o : Nat) : (c.wake k o).rn = c.rn := rfl
@[simp] theorem Ctx.wake_tok (c : Ctx) (k : BitVec 4) (o : Nat) : (c.wake k o).tok = c.tok := rfl
@[simp] theorem Ctx.wake_tiles (c : Ctx) (k : BitVec 4) (o : Nat) : (c.wake k o).tiles = c.tiles := rfl
@[simp] theorem Ctx.wake_folio (c : Ctx) (k : BitVec 4) (o : Nat) : (c.wake k o).folio = c.folio := rfl
@[simp] theorem Ctx.wake_piV (c : Ctx) (k : BitVec 4) (o : Nat) : (c.wake k o).piV = c.piV := rfl
@[simp] theorem Ctx.wake_piM (c : Ctx) (k : BitVec 4) (o : Nat) : (c.wake k o).piM = c.piM := rfl
@[simp] theorem Ctx.wake_piC (c : Ctx) (k : BitVec 4) (o : Nat) : (c.wake k o).piC = c.piC := rfl
@[simp] theorem Ctx.wake_piF (c : Ctx) (k : BitVec 4) (o : Nat) : (c.wake k o).piF = c.piF := rfl
@[simp] theorem Ctx.wake_spad (c : Ctx) (k : BitVec 4) (o : Nat) : (c.wake k o).spad = c.spad := rfl
@[simp] theorem Ctx.wake_priv (c : Ctx) (k : BitVec 4) (o : Nat) : (c.wake k o).priv = c.priv := rfl
@[simp] theorem Ctx.wake_badSpad (c : Ctx) (k : BitVec 4) (o : Nat) : (c.wake k o).badSpad = c.badSpad := rfl
@[simp] theorem Ctx.wake_badPriv (c : Ctx) (k : BitVec 4) (o : Nat) : (c.wake k o).badPriv = c.badPriv := rfl
@[simp] theorem Ctx.wake_flipSpad (c : Ctx) (k : BitVec 4) (o : Nat) : (c.wake k o).flipSpad = c.flipSpad := rfl
@[simp] theorem Ctx.wake_flipPriv (c : Ctx) (k : BitVec 4) (o : Nat) : (c.wake k o).flipPriv = c.flipPriv := rfl
@[simp] theorem Ctx.wake_m (c : Ctx) (k : BitVec 4) (o : Nat) : (c.wake k o).m = c.m := rfl
@[simp] theorem Ctx.wake_cp (c : Ctx) (k : BitVec 4) (o : Nat) : (c.wake k o).cp = c.cp := rfl
@[simp] theorem Ctx.wake_f (c : Ctx) (k : BitVec 4) (o : Nat) : (c.wake k o).f = c.f := rfl
@[simp] theorem Ctx.wake_hb (c : Ctx) (k : BitVec 4) (o : Nat) : (c.wake k o).hb = c.hb := rfl

/-! ### Ctx.endRun -/

@[simp] theorem Ctx.endRun_id (c : Ctx) : (c.endRun).id = c.id := rfl
@[simp] theorem Ctx.endRun_life (c : Ctx) : (c.endRun).life = c.life := rfl
@[simp] theorem Ctx.endRun_member (c : Ctx) : (c.endRun).member = c.member := rfl
@[simp] theorem Ctx.endRun_level (c : Ctx) : (c.endRun).level = c.level := rfl
@[simp] theorem Ctx.endRun_castcls (c : Ctx) : (c.endRun).castcls = c.castcls := rfl
@[simp] theorem Ctx.endRun_moddef (c : Ctx) : (c.endRun).moddef = c.moddef := rfl
@[simp] theorem Ctx.endRun_nflags (c : Ctx) : (c.endRun).nflags = c.nflags := rfl
@[simp] theorem Ctx.endRun_raised (c : Ctx) : (c.endRun).raised = c.raised := rfl
@[simp] theorem Ctx.endRun_take (c : Ctx) : (c.endRun).take = c.take := rfl
@[simp] theorem Ctx.endRun_takeStart (c : Ctx) : (c.endRun).takeStart = c.takeStart := rfl
@[simp] theorem Ctx.endRun_demoted (c : Ctx) : (c.endRun).demoted = c.demoted := rfl
@[simp] theorem Ctx.endRun_runCc (c : Ctx) : (c.endRun).runCc = c.runCc := rfl
@[simp] theorem Ctx.endRun_holdCc (c : Ctx) : (c.endRun).holdCc = c.holdCc := rfl
@[simp] theorem Ctx.endRun_arrived (c : Ctx) : (c.endRun).arrived = c.arrived := rfl
@[simp] theorem Ctx.endRun_imageDue (c : Ctx) : (c.endRun).imageDue = c.imageDue := rfl
@[simp] theorem Ctx.endRun_t (c : Ctx) : (c.endRun).t = c.t := rfl
@[simp] theorem Ctx.endRun_s (c : Ctx) : (c.endRun).s = c.s := rfl
@[simp] theorem Ctx.endRun_e (c : Ctx) : (c.endRun).e = c.e := rfl
@[simp] theorem Ctx.endRun_c (c : Ctx) : (c.endRun).c = c.c := rfl
@[simp] theorem Ctx.endRun_g (c : Ctx) : (c.endRun).g = c.g := rfl
@[simp] theorem Ctx.endRun_taint (c : Ctx) : (c.endRun).taint = c.taint := rfl
@[simp] theorem Ctx.endRun_events (c : Ctx) : (c.endRun).events = c.events := rfl
@[simp] theorem Ctx.endRun_sq (c : Ctx) : (c.endRun).sq = c.sq := rfl
@[simp] theorem Ctx.endRun_gd (c : Ctx) : (c.endRun).gd = c.gd := rfl
@[simp] theorem Ctx.endRun_tested (c : Ctx) : (c.endRun).tested = c.tested := rfl
@[simp] theorem Ctx.endRun_rn (c : Ctx) : (c.endRun).rn = c.rn := rfl
@[simp] theorem Ctx.endRun_tok (c : Ctx) : (c.endRun).tok = c.tok := rfl
@[simp] theorem Ctx.endRun_tiles (c : Ctx) : (c.endRun).tiles = c.tiles := rfl
@[simp] theorem Ctx.endRun_folio (c : Ctx) : (c.endRun).folio = c.folio := rfl
@[simp] theorem Ctx.endRun_piV (c : Ctx) : (c.endRun).piV = c.piV := rfl
@[simp] theorem Ctx.endRun_piM (c : Ctx) : (c.endRun).piM = c.piM := rfl
@[simp] theorem Ctx.endRun_piC (c : Ctx) : (c.endRun).piC = c.piC := rfl
@[simp] theorem Ctx.endRun_spad (c : Ctx) : (c.endRun).spad = c.spad := rfl
@[simp] theorem Ctx.endRun_priv (c : Ctx) : (c.endRun).priv = c.priv := rfl
@[simp] theorem Ctx.endRun_badSpad (c : Ctx) : (c.endRun).badSpad = c.badSpad := rfl
@[simp] theorem Ctx.endRun_badPriv (c : Ctx) : (c.endRun).badPriv = c.badPriv := rfl
@[simp] theorem Ctx.endRun_flipSpad (c : Ctx) : (c.endRun).flipSpad = c.flipSpad := rfl
@[simp] theorem Ctx.endRun_flipPriv (c : Ctx) : (c.endRun).flipPriv = c.flipPriv := rfl
@[simp] theorem Ctx.endRun_v (c : Ctx) : (c.endRun).v = c.v := rfl
@[simp] theorem Ctx.endRun_m (c : Ctx) : (c.endRun).m = c.m := rfl
@[simp] theorem Ctx.endRun_cp (c : Ctx) : (c.endRun).cp = c.cp := rfl
@[simp] theorem Ctx.endRun_hb (c : Ctx) : (c.endRun).hb = c.hb := rfl

/-! ### Ctx.dropLoad -/

@[simp] theorem Ctx.dropLoad_id (c : Ctx) : (c.dropLoad).id = c.id := rfl
@[simp] theorem Ctx.dropLoad_life (c : Ctx) : (c.dropLoad).life = c.life := rfl
@[simp] theorem Ctx.dropLoad_member (c : Ctx) : (c.dropLoad).member = c.member := rfl
@[simp] theorem Ctx.dropLoad_level (c : Ctx) : (c.dropLoad).level = c.level := rfl
@[simp] theorem Ctx.dropLoad_castcls (c : Ctx) : (c.dropLoad).castcls = c.castcls := rfl
@[simp] theorem Ctx.dropLoad_moddef (c : Ctx) : (c.dropLoad).moddef = c.moddef := rfl
@[simp] theorem Ctx.dropLoad_nflags (c : Ctx) : (c.dropLoad).nflags = c.nflags := rfl
@[simp] theorem Ctx.dropLoad_raised (c : Ctx) : (c.dropLoad).raised = c.raised := rfl
@[simp] theorem Ctx.dropLoad_take (c : Ctx) : (c.dropLoad).take = c.take := rfl
@[simp] theorem Ctx.dropLoad_takeStart (c : Ctx) : (c.dropLoad).takeStart = c.takeStart := rfl
@[simp] theorem Ctx.dropLoad_demoted (c : Ctx) : (c.dropLoad).demoted = c.demoted := rfl
@[simp] theorem Ctx.dropLoad_runCc (c : Ctx) : (c.dropLoad).runCc = c.runCc := rfl
@[simp] theorem Ctx.dropLoad_holdCc (c : Ctx) : (c.dropLoad).holdCc = c.holdCc := rfl
@[simp] theorem Ctx.dropLoad_arrived (c : Ctx) : (c.dropLoad).arrived = c.arrived := rfl
@[simp] theorem Ctx.dropLoad_imageDue (c : Ctx) : (c.dropLoad).imageDue = c.imageDue := rfl
@[simp] theorem Ctx.dropLoad_s (c : Ctx) : (c.dropLoad).s = c.s := rfl
@[simp] theorem Ctx.dropLoad_e (c : Ctx) : (c.dropLoad).e = c.e := rfl
@[simp] theorem Ctx.dropLoad_c (c : Ctx) : (c.dropLoad).c = c.c := rfl
@[simp] theorem Ctx.dropLoad_g (c : Ctx) : (c.dropLoad).g = c.g := rfl
@[simp] theorem Ctx.dropLoad_taint (c : Ctx) : (c.dropLoad).taint = c.taint := rfl
@[simp] theorem Ctx.dropLoad_events (c : Ctx) : (c.dropLoad).events = c.events := rfl
@[simp] theorem Ctx.dropLoad_sq (c : Ctx) : (c.dropLoad).sq = c.sq := rfl
@[simp] theorem Ctx.dropLoad_gd (c : Ctx) : (c.dropLoad).gd = c.gd := rfl
@[simp] theorem Ctx.dropLoad_tested (c : Ctx) : (c.dropLoad).tested = c.tested := rfl
@[simp] theorem Ctx.dropLoad_rn (c : Ctx) : (c.dropLoad).rn = c.rn := rfl
@[simp] theorem Ctx.dropLoad_tok (c : Ctx) : (c.dropLoad).tok = c.tok := rfl
@[simp] theorem Ctx.dropLoad_tiles (c : Ctx) : (c.dropLoad).tiles = c.tiles := rfl
@[simp] theorem Ctx.dropLoad_folio (c : Ctx) : (c.dropLoad).folio = c.folio := rfl
@[simp] theorem Ctx.dropLoad_piV (c : Ctx) : (c.dropLoad).piV = c.piV := rfl
@[simp] theorem Ctx.dropLoad_piM (c : Ctx) : (c.dropLoad).piM = c.piM := rfl
@[simp] theorem Ctx.dropLoad_piC (c : Ctx) : (c.dropLoad).piC = c.piC := rfl
@[simp] theorem Ctx.dropLoad_piF (c : Ctx) : (c.dropLoad).piF = c.piF := rfl
@[simp] theorem Ctx.dropLoad_spad (c : Ctx) : (c.dropLoad).spad = c.spad := rfl
@[simp] theorem Ctx.dropLoad_priv (c : Ctx) : (c.dropLoad).priv = c.priv := rfl
@[simp] theorem Ctx.dropLoad_badSpad (c : Ctx) : (c.dropLoad).badSpad = c.badSpad := rfl
@[simp] theorem Ctx.dropLoad_badPriv (c : Ctx) : (c.dropLoad).badPriv = c.badPriv := rfl
@[simp] theorem Ctx.dropLoad_flipSpad (c : Ctx) : (c.dropLoad).flipSpad = c.flipSpad := rfl
@[simp] theorem Ctx.dropLoad_flipPriv (c : Ctx) : (c.dropLoad).flipPriv = c.flipPriv := rfl
@[simp] theorem Ctx.dropLoad_v (c : Ctx) : (c.dropLoad).v = c.v := rfl
@[simp] theorem Ctx.dropLoad_m (c : Ctx) : (c.dropLoad).m = c.m := rfl
@[simp] theorem Ctx.dropLoad_cp (c : Ctx) : (c.dropLoad).cp = c.cp := rfl
@[simp] theorem Ctx.dropLoad_f (c : Ctx) : (c.dropLoad).f = c.f := rfl
@[simp] theorem Ctx.dropLoad_hb (c : Ctx) : (c.dropLoad).hb = c.hb := rfl

/-! ### Ctx.restartM -/

@[simp] theorem Ctx.restartM_id (c : Ctx) : (c.restartM).id = c.id := rfl
@[simp] theorem Ctx.restartM_life (c : Ctx) : (c.restartM).life = c.life := rfl
@[simp] theorem Ctx.restartM_member (c : Ctx) : (c.restartM).member = c.member := rfl
@[simp] theorem Ctx.restartM_level (c : Ctx) : (c.restartM).level = c.level := rfl
@[simp] theorem Ctx.restartM_castcls (c : Ctx) : (c.restartM).castcls = c.castcls := rfl
@[simp] theorem Ctx.restartM_moddef (c : Ctx) : (c.restartM).moddef = c.moddef := rfl
@[simp] theorem Ctx.restartM_nflags (c : Ctx) : (c.restartM).nflags = c.nflags := rfl
@[simp] theorem Ctx.restartM_raised (c : Ctx) : (c.restartM).raised = c.raised := rfl
@[simp] theorem Ctx.restartM_take (c : Ctx) : (c.restartM).take = c.take := rfl
@[simp] theorem Ctx.restartM_takeStart (c : Ctx) : (c.restartM).takeStart = c.takeStart := rfl
@[simp] theorem Ctx.restartM_demoted (c : Ctx) : (c.restartM).demoted = c.demoted := rfl
@[simp] theorem Ctx.restartM_runCc (c : Ctx) : (c.restartM).runCc = c.runCc := rfl
@[simp] theorem Ctx.restartM_holdCc (c : Ctx) : (c.restartM).holdCc = c.holdCc := rfl
@[simp] theorem Ctx.restartM_arrived (c : Ctx) : (c.restartM).arrived = c.arrived := rfl
@[simp] theorem Ctx.restartM_imageDue (c : Ctx) : (c.restartM).imageDue = c.imageDue := rfl
@[simp] theorem Ctx.restartM_t (c : Ctx) : (c.restartM).t = c.t := rfl
@[simp] theorem Ctx.restartM_s (c : Ctx) : (c.restartM).s = c.s := rfl
@[simp] theorem Ctx.restartM_e (c : Ctx) : (c.restartM).e = c.e := rfl
@[simp] theorem Ctx.restartM_c (c : Ctx) : (c.restartM).c = c.c := rfl
@[simp] theorem Ctx.restartM_g (c : Ctx) : (c.restartM).g = c.g := rfl
@[simp] theorem Ctx.restartM_taint (c : Ctx) : (c.restartM).taint = c.taint := rfl
@[simp] theorem Ctx.restartM_events (c : Ctx) : (c.restartM).events = c.events := rfl
@[simp] theorem Ctx.restartM_sq (c : Ctx) : (c.restartM).sq = c.sq := rfl
@[simp] theorem Ctx.restartM_gd (c : Ctx) : (c.restartM).gd = c.gd := rfl
@[simp] theorem Ctx.restartM_tested (c : Ctx) : (c.restartM).tested = c.tested := rfl
@[simp] theorem Ctx.restartM_rn (c : Ctx) : (c.restartM).rn = c.rn := rfl
@[simp] theorem Ctx.restartM_tok (c : Ctx) : (c.restartM).tok = c.tok := rfl
@[simp] theorem Ctx.restartM_tiles (c : Ctx) : (c.restartM).tiles = c.tiles := rfl
@[simp] theorem Ctx.restartM_folio (c : Ctx) : (c.restartM).folio = c.folio := rfl
@[simp] theorem Ctx.restartM_piV (c : Ctx) : (c.restartM).piV = c.piV := rfl
@[simp] theorem Ctx.restartM_piM (c : Ctx) : (c.restartM).piM = c.piM := rfl
@[simp] theorem Ctx.restartM_piC (c : Ctx) : (c.restartM).piC = c.piC := rfl
@[simp] theorem Ctx.restartM_piF (c : Ctx) : (c.restartM).piF = c.piF := rfl
@[simp] theorem Ctx.restartM_spad (c : Ctx) : (c.restartM).spad = c.spad := rfl
@[simp] theorem Ctx.restartM_priv (c : Ctx) : (c.restartM).priv = c.priv := rfl
@[simp] theorem Ctx.restartM_badSpad (c : Ctx) : (c.restartM).badSpad = c.badSpad := rfl
@[simp] theorem Ctx.restartM_badPriv (c : Ctx) : (c.restartM).badPriv = c.badPriv := rfl
@[simp] theorem Ctx.restartM_flipSpad (c : Ctx) : (c.restartM).flipSpad = c.flipSpad := rfl
@[simp] theorem Ctx.restartM_flipPriv (c : Ctx) : (c.restartM).flipPriv = c.flipPriv := rfl
@[simp] theorem Ctx.restartM_v (c : Ctx) : (c.restartM).v = c.v := rfl
@[simp] theorem Ctx.restartM_cp (c : Ctx) : (c.restartM).cp = c.cp := rfl
@[simp] theorem Ctx.restartM_f (c : Ctx) : (c.restartM).f = c.f := rfl
@[simp] theorem Ctx.restartM_hb (c : Ctx) : (c.restartM).hb = c.hb := rfl

/-! ### Ctx.restartC -/

@[simp] theorem Ctx.restartC_id (c : Ctx) : (c.restartC).id = c.id := rfl
@[simp] theorem Ctx.restartC_life (c : Ctx) : (c.restartC).life = c.life := rfl
@[simp] theorem Ctx.restartC_member (c : Ctx) : (c.restartC).member = c.member := rfl
@[simp] theorem Ctx.restartC_level (c : Ctx) : (c.restartC).level = c.level := rfl
@[simp] theorem Ctx.restartC_castcls (c : Ctx) : (c.restartC).castcls = c.castcls := rfl
@[simp] theorem Ctx.restartC_moddef (c : Ctx) : (c.restartC).moddef = c.moddef := rfl
@[simp] theorem Ctx.restartC_nflags (c : Ctx) : (c.restartC).nflags = c.nflags := rfl
@[simp] theorem Ctx.restartC_raised (c : Ctx) : (c.restartC).raised = c.raised := rfl
@[simp] theorem Ctx.restartC_take (c : Ctx) : (c.restartC).take = c.take := rfl
@[simp] theorem Ctx.restartC_takeStart (c : Ctx) : (c.restartC).takeStart = c.takeStart := rfl
@[simp] theorem Ctx.restartC_demoted (c : Ctx) : (c.restartC).demoted = c.demoted := rfl
@[simp] theorem Ctx.restartC_runCc (c : Ctx) : (c.restartC).runCc = c.runCc := rfl
@[simp] theorem Ctx.restartC_holdCc (c : Ctx) : (c.restartC).holdCc = c.holdCc := rfl
@[simp] theorem Ctx.restartC_arrived (c : Ctx) : (c.restartC).arrived = c.arrived := rfl
@[simp] theorem Ctx.restartC_imageDue (c : Ctx) : (c.restartC).imageDue = c.imageDue := rfl
@[simp] theorem Ctx.restartC_t (c : Ctx) : (c.restartC).t = c.t := rfl
@[simp] theorem Ctx.restartC_s (c : Ctx) : (c.restartC).s = c.s := rfl
@[simp] theorem Ctx.restartC_e (c : Ctx) : (c.restartC).e = c.e := rfl
@[simp] theorem Ctx.restartC_c (c : Ctx) : (c.restartC).c = c.c := rfl
@[simp] theorem Ctx.restartC_g (c : Ctx) : (c.restartC).g = c.g := rfl
@[simp] theorem Ctx.restartC_taint (c : Ctx) : (c.restartC).taint = c.taint := rfl
@[simp] theorem Ctx.restartC_events (c : Ctx) : (c.restartC).events = c.events := rfl
@[simp] theorem Ctx.restartC_sq (c : Ctx) : (c.restartC).sq = c.sq := rfl
@[simp] theorem Ctx.restartC_gd (c : Ctx) : (c.restartC).gd = c.gd := rfl
@[simp] theorem Ctx.restartC_tested (c : Ctx) : (c.restartC).tested = c.tested := rfl
@[simp] theorem Ctx.restartC_rn (c : Ctx) : (c.restartC).rn = c.rn := rfl
@[simp] theorem Ctx.restartC_tok (c : Ctx) : (c.restartC).tok = c.tok := rfl
@[simp] theorem Ctx.restartC_tiles (c : Ctx) : (c.restartC).tiles = c.tiles := rfl
@[simp] theorem Ctx.restartC_folio (c : Ctx) : (c.restartC).folio = c.folio := rfl
@[simp] theorem Ctx.restartC_piV (c : Ctx) : (c.restartC).piV = c.piV := rfl
@[simp] theorem Ctx.restartC_piM (c : Ctx) : (c.restartC).piM = c.piM := rfl
@[simp] theorem Ctx.restartC_piC (c : Ctx) : (c.restartC).piC = c.piC := rfl
@[simp] theorem Ctx.restartC_piF (c : Ctx) : (c.restartC).piF = c.piF := rfl
@[simp] theorem Ctx.restartC_spad (c : Ctx) : (c.restartC).spad = c.spad := rfl
@[simp] theorem Ctx.restartC_priv (c : Ctx) : (c.restartC).priv = c.priv := rfl
@[simp] theorem Ctx.restartC_badSpad (c : Ctx) : (c.restartC).badSpad = c.badSpad := rfl
@[simp] theorem Ctx.restartC_badPriv (c : Ctx) : (c.restartC).badPriv = c.badPriv := rfl
@[simp] theorem Ctx.restartC_flipSpad (c : Ctx) : (c.restartC).flipSpad = c.flipSpad := rfl
@[simp] theorem Ctx.restartC_flipPriv (c : Ctx) : (c.restartC).flipPriv = c.flipPriv := rfl
@[simp] theorem Ctx.restartC_v (c : Ctx) : (c.restartC).v = c.v := rfl
@[simp] theorem Ctx.restartC_m (c : Ctx) : (c.restartC).m = c.m := rfl
@[simp] theorem Ctx.restartC_f (c : Ctx) : (c.restartC).f = c.f := rfl
@[simp] theorem Ctx.restartC_hb (c : Ctx) : (c.restartC).hb = c.hb := rfl

/-! ### Ctx.noteTest -/

@[simp] theorem Ctx.noteTest_id (c : Ctx) (g : BitVec 4) : (c.noteTest g).id = c.id := rfl
@[simp] theorem Ctx.noteTest_life (c : Ctx) (g : BitVec 4) : (c.noteTest g).life = c.life := rfl
@[simp] theorem Ctx.noteTest_member (c : Ctx) (g : BitVec 4) : (c.noteTest g).member = c.member := rfl
@[simp] theorem Ctx.noteTest_level (c : Ctx) (g : BitVec 4) : (c.noteTest g).level = c.level := rfl
@[simp] theorem Ctx.noteTest_castcls (c : Ctx) (g : BitVec 4) : (c.noteTest g).castcls = c.castcls := rfl
@[simp] theorem Ctx.noteTest_moddef (c : Ctx) (g : BitVec 4) : (c.noteTest g).moddef = c.moddef := rfl
@[simp] theorem Ctx.noteTest_nflags (c : Ctx) (g : BitVec 4) : (c.noteTest g).nflags = c.nflags := rfl
@[simp] theorem Ctx.noteTest_raised (c : Ctx) (g : BitVec 4) : (c.noteTest g).raised = c.raised := rfl
@[simp] theorem Ctx.noteTest_take (c : Ctx) (g : BitVec 4) : (c.noteTest g).take = c.take := rfl
@[simp] theorem Ctx.noteTest_takeStart (c : Ctx) (g : BitVec 4) : (c.noteTest g).takeStart = c.takeStart := rfl
@[simp] theorem Ctx.noteTest_demoted (c : Ctx) (g : BitVec 4) : (c.noteTest g).demoted = c.demoted := rfl
@[simp] theorem Ctx.noteTest_runCc (c : Ctx) (g : BitVec 4) : (c.noteTest g).runCc = c.runCc := rfl
@[simp] theorem Ctx.noteTest_holdCc (c : Ctx) (g : BitVec 4) : (c.noteTest g).holdCc = c.holdCc := rfl
@[simp] theorem Ctx.noteTest_arrived (c : Ctx) (g : BitVec 4) : (c.noteTest g).arrived = c.arrived := rfl
@[simp] theorem Ctx.noteTest_imageDue (c : Ctx) (g : BitVec 4) : (c.noteTest g).imageDue = c.imageDue := rfl
@[simp] theorem Ctx.noteTest_t (c : Ctx) (g : BitVec 4) : (c.noteTest g).t = c.t := rfl
@[simp] theorem Ctx.noteTest_s (c : Ctx) (g : BitVec 4) : (c.noteTest g).s = c.s := rfl
@[simp] theorem Ctx.noteTest_e (c : Ctx) (g : BitVec 4) : (c.noteTest g).e = c.e := rfl
@[simp] theorem Ctx.noteTest_c (c : Ctx) (g : BitVec 4) : (c.noteTest g).c = c.c := rfl
@[simp] theorem Ctx.noteTest_g (c : Ctx) (g : BitVec 4) : (c.noteTest g).g = c.g := rfl
@[simp] theorem Ctx.noteTest_taint (c : Ctx) (g : BitVec 4) : (c.noteTest g).taint = c.taint := rfl
@[simp] theorem Ctx.noteTest_events (c : Ctx) (g : BitVec 4) : (c.noteTest g).events = c.events := rfl
@[simp] theorem Ctx.noteTest_sq (c : Ctx) (g : BitVec 4) : (c.noteTest g).sq = c.sq := rfl
@[simp] theorem Ctx.noteTest_gd (c : Ctx) (g : BitVec 4) : (c.noteTest g).gd = c.gd := rfl
@[simp] theorem Ctx.noteTest_rn (c : Ctx) (g : BitVec 4) : (c.noteTest g).rn = c.rn := rfl
@[simp] theorem Ctx.noteTest_tok (c : Ctx) (g : BitVec 4) : (c.noteTest g).tok = c.tok := rfl
@[simp] theorem Ctx.noteTest_tiles (c : Ctx) (g : BitVec 4) : (c.noteTest g).tiles = c.tiles := rfl
@[simp] theorem Ctx.noteTest_folio (c : Ctx) (g : BitVec 4) : (c.noteTest g).folio = c.folio := rfl
@[simp] theorem Ctx.noteTest_piV (c : Ctx) (g : BitVec 4) : (c.noteTest g).piV = c.piV := rfl
@[simp] theorem Ctx.noteTest_piM (c : Ctx) (g : BitVec 4) : (c.noteTest g).piM = c.piM := rfl
@[simp] theorem Ctx.noteTest_piC (c : Ctx) (g : BitVec 4) : (c.noteTest g).piC = c.piC := rfl
@[simp] theorem Ctx.noteTest_piF (c : Ctx) (g : BitVec 4) : (c.noteTest g).piF = c.piF := rfl
@[simp] theorem Ctx.noteTest_spad (c : Ctx) (g : BitVec 4) : (c.noteTest g).spad = c.spad := rfl
@[simp] theorem Ctx.noteTest_priv (c : Ctx) (g : BitVec 4) : (c.noteTest g).priv = c.priv := rfl
@[simp] theorem Ctx.noteTest_badSpad (c : Ctx) (g : BitVec 4) : (c.noteTest g).badSpad = c.badSpad := rfl
@[simp] theorem Ctx.noteTest_badPriv (c : Ctx) (g : BitVec 4) : (c.noteTest g).badPriv = c.badPriv := rfl
@[simp] theorem Ctx.noteTest_flipSpad (c : Ctx) (g : BitVec 4) : (c.noteTest g).flipSpad = c.flipSpad := rfl
@[simp] theorem Ctx.noteTest_flipPriv (c : Ctx) (g : BitVec 4) : (c.noteTest g).flipPriv = c.flipPriv := rfl
@[simp] theorem Ctx.noteTest_v (c : Ctx) (g : BitVec 4) : (c.noteTest g).v = c.v := rfl
@[simp] theorem Ctx.noteTest_m (c : Ctx) (g : BitVec 4) : (c.noteTest g).m = c.m := rfl
@[simp] theorem Ctx.noteTest_cp (c : Ctx) (g : BitVec 4) : (c.noteTest g).cp = c.cp := rfl
@[simp] theorem Ctx.noteTest_f (c : Ctx) (g : BitVec 4) : (c.noteTest g).f = c.f := rfl
@[simp] theorem Ctx.noteTest_hb (c : Ctx) (g : BitVec 4) : (c.noteTest g).hb = c.hb := rfl

/-! ### Ctx.settleF -/

@[simp] theorem Ctx.settleF_id (c : Ctx) : (c.settleF).id = c.id := rfl
@[simp] theorem Ctx.settleF_life (c : Ctx) : (c.settleF).life = c.life := rfl
@[simp] theorem Ctx.settleF_member (c : Ctx) : (c.settleF).member = c.member := rfl
@[simp] theorem Ctx.settleF_level (c : Ctx) : (c.settleF).level = c.level := rfl
@[simp] theorem Ctx.settleF_castcls (c : Ctx) : (c.settleF).castcls = c.castcls := rfl
@[simp] theorem Ctx.settleF_moddef (c : Ctx) : (c.settleF).moddef = c.moddef := rfl
@[simp] theorem Ctx.settleF_nflags (c : Ctx) : (c.settleF).nflags = c.nflags := rfl
@[simp] theorem Ctx.settleF_raised (c : Ctx) : (c.settleF).raised = c.raised := rfl
@[simp] theorem Ctx.settleF_take (c : Ctx) : (c.settleF).take = c.take := rfl
@[simp] theorem Ctx.settleF_takeStart (c : Ctx) : (c.settleF).takeStart = c.takeStart := rfl
@[simp] theorem Ctx.settleF_demoted (c : Ctx) : (c.settleF).demoted = c.demoted := rfl
@[simp] theorem Ctx.settleF_runCc (c : Ctx) : (c.settleF).runCc = c.runCc := rfl
@[simp] theorem Ctx.settleF_holdCc (c : Ctx) : (c.settleF).holdCc = c.holdCc := rfl
@[simp] theorem Ctx.settleF_arrived (c : Ctx) : (c.settleF).arrived = c.arrived := rfl
@[simp] theorem Ctx.settleF_imageDue (c : Ctx) : (c.settleF).imageDue = c.imageDue := rfl
@[simp] theorem Ctx.settleF_t (c : Ctx) : (c.settleF).t = c.t := rfl
@[simp] theorem Ctx.settleF_s (c : Ctx) : (c.settleF).s = c.s := rfl
@[simp] theorem Ctx.settleF_e (c : Ctx) : (c.settleF).e = c.e := rfl
@[simp] theorem Ctx.settleF_c (c : Ctx) : (c.settleF).c = c.c := rfl
@[simp] theorem Ctx.settleF_g (c : Ctx) : (c.settleF).g = c.g := rfl
@[simp] theorem Ctx.settleF_taint (c : Ctx) : (c.settleF).taint = c.taint := rfl
@[simp] theorem Ctx.settleF_events (c : Ctx) : (c.settleF).events = c.events := rfl
@[simp] theorem Ctx.settleF_sq (c : Ctx) : (c.settleF).sq = c.sq := rfl
@[simp] theorem Ctx.settleF_gd (c : Ctx) : (c.settleF).gd = c.gd := rfl
@[simp] theorem Ctx.settleF_tested (c : Ctx) : (c.settleF).tested = c.tested := rfl
@[simp] theorem Ctx.settleF_rn (c : Ctx) : (c.settleF).rn = c.rn := rfl
@[simp] theorem Ctx.settleF_tok (c : Ctx) : (c.settleF).tok = c.tok := rfl
@[simp] theorem Ctx.settleF_tiles (c : Ctx) : (c.settleF).tiles = c.tiles := rfl
@[simp] theorem Ctx.settleF_folio (c : Ctx) : (c.settleF).folio = c.folio := rfl
@[simp] theorem Ctx.settleF_piV (c : Ctx) : (c.settleF).piV = c.piV := rfl
@[simp] theorem Ctx.settleF_piM (c : Ctx) : (c.settleF).piM = c.piM := rfl
@[simp] theorem Ctx.settleF_piC (c : Ctx) : (c.settleF).piC = c.piC := rfl
@[simp] theorem Ctx.settleF_piF (c : Ctx) : (c.settleF).piF = c.piF := rfl
@[simp] theorem Ctx.settleF_spad (c : Ctx) : (c.settleF).spad = c.spad := rfl
@[simp] theorem Ctx.settleF_priv (c : Ctx) : (c.settleF).priv = c.priv := rfl
@[simp] theorem Ctx.settleF_badSpad (c : Ctx) : (c.settleF).badSpad = c.badSpad := rfl
@[simp] theorem Ctx.settleF_badPriv (c : Ctx) : (c.settleF).badPriv = c.badPriv := rfl
@[simp] theorem Ctx.settleF_flipSpad (c : Ctx) : (c.settleF).flipSpad = c.flipSpad := rfl
@[simp] theorem Ctx.settleF_flipPriv (c : Ctx) : (c.settleF).flipPriv = c.flipPriv := rfl
@[simp] theorem Ctx.settleF_v (c : Ctx) : (c.settleF).v = c.v := rfl
@[simp] theorem Ctx.settleF_m (c : Ctx) : (c.settleF).m = c.m := rfl
@[simp] theorem Ctx.settleF_cp (c : Ctx) : (c.settleF).cp = c.cp := rfl
@[simp] theorem Ctx.settleF_hb (c : Ctx) : (c.settleF).hb = c.hb := rfl

/-- The stored g registers after a write. -/
theorem Ctx.wg_g (c : Ctx) (r : BitVec 5) (v : W64) (t : Bool) (h : r ≠ 0) : (c.wg r v t).g = c.g.set r.toNat v r.isLt := by
  unfold Ctx.wg; rw [if_neg h]

/-- NFLAGS after flags are raised (R29). -/
@[simp] theorem Ctx.raise_nflags (c : Ctx) (f : W32) : (c.raise f).nflags = c.nflags ||| f := by
  unfold Ctx.raise; split
  · next h => subst h; simp
  · rfl

/-- What `Ctx.wg` writes (R15, R16). -/
@[simp] theorem Ctx.wg_rg (c : Ctx) (r q : BitVec 5) (v : W64) (t : Bool) :
    (c.wg r v t).rg q = if q = r ∧ r ≠ 0 then v else c.rg q := by
  by_cases hr : r = 0
  · have : c.wg r v t = c := by unfold Ctx.wg; rw [if_pos hr]
    rw [this, if_neg fun h => h.2 hr]
  · unfold Ctx.rg
    by_cases hq : q = 0
    · rw [if_pos hq, if_pos hq, if_neg (fun (h : q = r ∧ r ≠ 0) => hr (h.1 ▸ hq))]
    · rw [if_neg hq, if_neg hq]
      simp only [Ctx.wg_g c r v t hr, Vector.getElem_set]
      by_cases h : q = r
      · subst h; rw [if_pos rfl, if_pos ⟨rfl, hr⟩]
      · rw [if_neg fun e => h (BitVec.eq_of_toNat_eq e.symm), if_neg fun e => h e.1]

/-- Bits after one is set or cleared. -/
theorem setBit_getLsbD {n : Nat} (x : BitVec n) (i j : Nat) (b : Bool) (hj : j < n) :
    (setBit x i b).getLsbD j = if j = i then b else x.getLsbD j := by
  unfold setBit
  by_cases h : j = i
  · subst h; cases b <;> simp [hj]
  · cases b <;> simp [hj, h]

/-- What `Ctx.wg` leaves of taint (R16). -/
@[simp] theorem Ctx.wg_tnt (c : Ctx) (r q : BitVec 5) (v : W64) (t : Bool) :
    (c.wg r v t).tnt q = if q = r ∧ r ≠ 0 then t else c.tnt q := by
  unfold Ctx.wg Ctx.tnt
  by_cases hr : r = 0
  · simp [hr]
  · simp only [if_neg hr]
    by_cases h : q = r
    · subst h
      have h0 : ¬ q = 0#5 := hr
      simp [h0, setBit_getLsbD _ _ _ _ q.isLt]
    · have hn : ¬ q.toNat = r.toNat := fun e => h (BitVec.eq_of_toNat_eq e)
      simp [h, setBit_getLsbD _ _ _ _ q.isLt, hn]

/-- A tile entry after one is written. -/
@[simp] theorem Ctx.setTile_tile (c : Ctx) (h k : BitVec 8) (t : Tile) :
    (c.setTile h t).tile k = if k = h then t else c.tile k := by
  unfold Ctx.setTile Ctx.tile
  by_cases e : k = h
  · subst e; simp
  · have hn : ¬ h.toNat = k.toNat := fun x => e (BitVec.eq_of_toNat_eq x.symm)
    simp [e, hn]

/-- A guard slot after one is written. -/
@[simp] theorem Ctx.setGuard_guard (c : Ctx) (i k : BitVec 4) (x : BitVec 2) (w : Known) :
    (c.setGuard i x w).guard k = if k = i then x else c.guard k := by
  unfold Ctx.setGuard Ctx.guard
  by_cases e : k = i
  · subst e; simp
  · have hn : ¬ i.toNat = k.toNat := fun h => e (BitVec.eq_of_toNat_eq h.symm)
    simp [e, hn]

/-- An address register after one is written. -/
@[simp] theorem Ctx.setAr_ar (c : Ctx) (r k : BitVec 4) (v : W64) :
    (c.setAr r v).ar k = if k = r then v else c.ar k := by
  unfold Ctx.setAr Ctx.ar
  by_cases e : k = r
  · subst e; simp
  · have hn : ¬ r.toNat = k.toNat := fun h => e (BitVec.eq_of_toNat_eq h.symm)
    simp [e, hn]

/-- A folio slot after one is written. -/
@[simp] theorem Ctx.setSlot_slot (c : Ctx) (i k : BitVec 6) (f : FolioSlot) :
    (c.setSlot i f).slot k = if k = i then f else c.slot k := by
  unfold Ctx.setSlot Ctx.slot
  by_cases e : k = i
  · subst e; simp
  · have hn : ¬ i.toNat = k.toNat := fun h => e (BitVec.eq_of_toNat_eq h.symm)
    simp [e, hn]

/-- An element after one is replaced. -/
@[simp] theorem FState.setElem_elem (f : FState) (e k : BitVec 6) (x : Elem) :
    (f.setElem e x).elem k = if k = e then x else f.elem k := by
  unfold FState.setElem FState.elem
  by_cases h : k = e
  · subst h; simp
  · have hn : ¬ e.toNat = k.toNat := fun q => h (BitVec.eq_of_toNat_eq q.symm)
    simp [h, hn]

/-- A token channel after one is written (R20). -/
theorem Ctx.setChan_chan (c : Ctx) (i k : Nat) (l : List W16) (hi : i < 14) :
    (c.setChan i l).chan k = if k = i then l else c.chan k := by
  unfold Ctx.setChan Ctx.chan
  by_cases h : k = i
  · subst h; simp [Array.getD, hi]
  · simp only [Array.getD, if_neg h, Vector.size_toArray]
    split
    · next hk =>
      have : (c.tok.toArray.setIfInBounds i l)[k]'(by simpa using hk) = c.tok.toArray[k]'(by simpa using hk) :=
        Array.getElem_setIfInBounds_ne (by simpa using hk) (Ne.symm h)
      simpa using this
    · rfl

/-- An instance after one is changed. -/
@[simp] theorem State.modInst_inst (s : State) (i k : BitVec 4) (f : Inst → Inst) :
    (s.modInst i f).inst k = if k = i then f (s.inst i) else s.inst k := by
  unfold State.modInst State.inst
  by_cases h : k = i
  · subst h; simp
  · have hn : ¬ i.toNat = k.toNat := fun q => h (BitVec.eq_of_toNat_eq q.symm)
    simp [h, hn]

/-- A v register after one is written. -/
@[simp] theorem Cluster.setV_vreg (k : Cluster) (r q : BitVec 6) (x : VReg) :
    (k.setV r x).vreg q = if q = r then x else k.vreg q := by
  unfold Cluster.setV Cluster.vreg
  by_cases h : q = r
  · subst h; simp
  · have hn : ¬ r.toNat = q.toNat := fun e => h (BitVec.eq_of_toNat_eq e.symm)
    simp [h, hn]

/-- A cluster after one is changed. -/
@[simp] theorem VState.setCluster_cluster (v : VState) (k q : BitVec 4) (x : Cluster) :
    (v.setCluster k x).cluster q = if q = k then x else v.cluster q := by
  unfold VState.setCluster VState.cluster
  by_cases h : q = k
  · subst h; simp
  · have hn : ¬ k.toNat = q.toNat := fun e => h (BitVec.eq_of_toNat_eq e.symm)
    simp [h, hn]


/-! ### State.retireS -/

@[simp] theorem State.retireS_rest (s : State) : (s.retireS).rest = s.rest := rfl
@[simp] theorem State.retireS_cur (s : State) : (s.retireS).cur = s.cur := rfl
@[simp] theorem State.retireS_agenda (s : State) : (s.retireS).agenda = s.agenda := rfl
@[simp] theorem State.retireS_tick (s : State) : (s.retireS).tick = s.tick := rfl
@[simp] theorem State.retireS_cc (s : State) : (s.retireS).cc = s.cc := rfl
@[simp] theorem State.retireS_insts (s : State) : (s.retireS).insts = s.insts := rfl
@[simp] theorem State.retireS_hub (s : State) : (s.retireS).hub = s.hub := rfl
@[simp] theorem State.retireS_bdies (s : State) : (s.retireS).bdies = s.bdies := rfl
@[simp] theorem State.retireS_ports (s : State) : (s.retireS).ports = s.ports := rfl
@[simp] theorem State.retireS_cores (s : State) : (s.retireS).cores = s.cores := rfl
@[simp] theorem State.retireS_mem (s : State) : (s.retireS).mem = s.mem := rfl
@[simp] theorem State.retireS_sram (s : State) : (s.retireS).sram = s.sram := rfl
@[simp] theorem State.retireS_poison (s : State) : (s.retireS).poison = s.poison := rfl
@[simp] theorem State.retireS_flips (s : State) : (s.retireS).flips = s.flips := rfl
@[simp] theorem State.retireS_sevs (s : State) : (s.retireS).sevs = s.sevs := rfl
@[simp] theorem State.retireS_xfers (s : State) : (s.retireS).xfers = s.xfers := rfl
@[simp] theorem State.retireS_cuts (s : State) : (s.retireS).cuts = s.cuts := rfl
@[simp] theorem State.retireS_moves (s : State) : (s.retireS).moves = s.moves := rfl
@[simp] theorem State.retireS_migReqs (s : State) : (s.retireS).migReqs = s.migReqs := rfl
@[simp] theorem State.retireS_matches_ (s : State) : (s.retireS).matches_ = s.matches_ := rfl
@[simp] theorem State.retireS_marks (s : State) : (s.retireS).marks = s.marks := rfl
@[simp] theorem State.retireS_replies (s : State) : (s.retireS).replies = s.replies := rfl
@[simp] theorem State.retireS_me_id (s : State) : (s.retireS).me.id = s.me.id := rfl
@[simp] theorem State.retireS_me_life (s : State) : (s.retireS).me.life = s.me.life := rfl
@[simp] theorem State.retireS_me_member (s : State) : (s.retireS).me.member = s.me.member := rfl
@[simp] theorem State.retireS_me_level (s : State) : (s.retireS).me.level = s.me.level := rfl
@[simp] theorem State.retireS_me_castcls (s : State) : (s.retireS).me.castcls = s.me.castcls := rfl
@[simp] theorem State.retireS_me_moddef (s : State) : (s.retireS).me.moddef = s.me.moddef := rfl
@[simp] theorem State.retireS_me_nflags (s : State) : (s.retireS).me.nflags = s.me.nflags := rfl
@[simp] theorem State.retireS_me_raised (s : State) : (s.retireS).me.raised = s.me.raised := rfl
@[simp] theorem State.retireS_me_take (s : State) : (s.retireS).me.take = s.me.take := rfl
@[simp] theorem State.retireS_me_takeStart (s : State) : (s.retireS).me.takeStart = s.me.takeStart := rfl
@[simp] theorem State.retireS_me_demoted (s : State) : (s.retireS).me.demoted = s.me.demoted := rfl
@[simp] theorem State.retireS_me_runCc (s : State) : (s.retireS).me.runCc = s.me.runCc := rfl
@[simp] theorem State.retireS_me_holdCc (s : State) : (s.retireS).me.holdCc = s.me.holdCc := rfl
@[simp] theorem State.retireS_me_arrived (s : State) : (s.retireS).me.arrived = s.me.arrived := rfl
@[simp] theorem State.retireS_me_imageDue (s : State) : (s.retireS).me.imageDue = s.me.imageDue := rfl
@[simp] theorem State.retireS_me_t (s : State) : (s.retireS).me.t = s.me.t := rfl
@[simp] theorem State.retireS_me_e (s : State) : (s.retireS).me.e = s.me.e := rfl
@[simp] theorem State.retireS_me_c (s : State) : (s.retireS).me.c = s.me.c := rfl
@[simp] theorem State.retireS_me_g (s : State) : (s.retireS).me.g = s.me.g := rfl
@[simp] theorem State.retireS_me_taint (s : State) : (s.retireS).me.taint = s.me.taint := rfl
@[simp] theorem State.retireS_me_events (s : State) : (s.retireS).me.events = s.me.events := rfl
@[simp] theorem State.retireS_me_sq (s : State) : (s.retireS).me.sq = s.me.sq := rfl
@[simp] theorem State.retireS_me_gd (s : State) : (s.retireS).me.gd = s.me.gd := rfl
@[simp] theorem State.retireS_me_tested (s : State) : (s.retireS).me.tested = s.me.tested := rfl
@[simp] theorem State.retireS_me_rn (s : State) : (s.retireS).me.rn = s.me.rn := rfl
@[simp] theorem State.retireS_me_tok (s : State) : (s.retireS).me.tok = s.me.tok := rfl
@[simp] theorem State.retireS_me_tiles (s : State) : (s.retireS).me.tiles = s.me.tiles := rfl
@[simp] theorem State.retireS_me_folio (s : State) : (s.retireS).me.folio = s.me.folio := rfl
@[simp] theorem State.retireS_me_piV (s : State) : (s.retireS).me.piV = s.me.piV := rfl
@[simp] theorem State.retireS_me_piM (s : State) : (s.retireS).me.piM = s.me.piM := rfl
@[simp] theorem State.retireS_me_piC (s : State) : (s.retireS).me.piC = s.me.piC := rfl
@[simp] theorem State.retireS_me_piF (s : State) : (s.retireS).me.piF = s.me.piF := rfl
@[simp] theorem State.retireS_me_spad (s : State) : (s.retireS).me.spad = s.me.spad := rfl
@[simp] theorem State.retireS_me_priv (s : State) : (s.retireS).me.priv = s.me.priv := rfl
@[simp] theorem State.retireS_me_badSpad (s : State) : (s.retireS).me.badSpad = s.me.badSpad := rfl
@[simp] theorem State.retireS_me_badPriv (s : State) : (s.retireS).me.badPriv = s.me.badPriv := rfl
@[simp] theorem State.retireS_me_flipSpad (s : State) : (s.retireS).me.flipSpad = s.me.flipSpad := rfl
@[simp] theorem State.retireS_me_flipPriv (s : State) : (s.retireS).me.flipPriv = s.me.flipPriv := rfl
@[simp] theorem State.retireS_me_v (s : State) : (s.retireS).me.v = s.me.v := rfl
@[simp] theorem State.retireS_me_m (s : State) : (s.retireS).me.m = s.me.m := rfl
@[simp] theorem State.retireS_me_cp (s : State) : (s.retireS).me.cp = s.me.cp := rfl
@[simp] theorem State.retireS_me_f (s : State) : (s.retireS).me.f = s.me.f := rfl
@[simp] theorem State.retireS_me_hb (s : State) : (s.retireS).me.hb = s.me.hb := rfl

/-! ### State.retireSTo -/

@[simp] theorem State.retireSTo_rest (s : State) (pc : W64) : (s.retireSTo pc).rest = s.rest := rfl
@[simp] theorem State.retireSTo_cur (s : State) (pc : W64) : (s.retireSTo pc).cur = s.cur := rfl
@[simp] theorem State.retireSTo_agenda (s : State) (pc : W64) : (s.retireSTo pc).agenda = s.agenda := rfl
@[simp] theorem State.retireSTo_tick (s : State) (pc : W64) : (s.retireSTo pc).tick = s.tick := rfl
@[simp] theorem State.retireSTo_cc (s : State) (pc : W64) : (s.retireSTo pc).cc = s.cc := rfl
@[simp] theorem State.retireSTo_insts (s : State) (pc : W64) : (s.retireSTo pc).insts = s.insts := rfl
@[simp] theorem State.retireSTo_hub (s : State) (pc : W64) : (s.retireSTo pc).hub = s.hub := rfl
@[simp] theorem State.retireSTo_bdies (s : State) (pc : W64) : (s.retireSTo pc).bdies = s.bdies := rfl
@[simp] theorem State.retireSTo_ports (s : State) (pc : W64) : (s.retireSTo pc).ports = s.ports := rfl
@[simp] theorem State.retireSTo_cores (s : State) (pc : W64) : (s.retireSTo pc).cores = s.cores := rfl
@[simp] theorem State.retireSTo_mem (s : State) (pc : W64) : (s.retireSTo pc).mem = s.mem := rfl
@[simp] theorem State.retireSTo_sram (s : State) (pc : W64) : (s.retireSTo pc).sram = s.sram := rfl
@[simp] theorem State.retireSTo_poison (s : State) (pc : W64) : (s.retireSTo pc).poison = s.poison := rfl
@[simp] theorem State.retireSTo_flips (s : State) (pc : W64) : (s.retireSTo pc).flips = s.flips := rfl
@[simp] theorem State.retireSTo_sevs (s : State) (pc : W64) : (s.retireSTo pc).sevs = s.sevs := rfl
@[simp] theorem State.retireSTo_xfers (s : State) (pc : W64) : (s.retireSTo pc).xfers = s.xfers := rfl
@[simp] theorem State.retireSTo_cuts (s : State) (pc : W64) : (s.retireSTo pc).cuts = s.cuts := rfl
@[simp] theorem State.retireSTo_moves (s : State) (pc : W64) : (s.retireSTo pc).moves = s.moves := rfl
@[simp] theorem State.retireSTo_migReqs (s : State) (pc : W64) : (s.retireSTo pc).migReqs = s.migReqs := rfl
@[simp] theorem State.retireSTo_matches_ (s : State) (pc : W64) : (s.retireSTo pc).matches_ = s.matches_ := rfl
@[simp] theorem State.retireSTo_marks (s : State) (pc : W64) : (s.retireSTo pc).marks = s.marks := rfl
@[simp] theorem State.retireSTo_replies (s : State) (pc : W64) : (s.retireSTo pc).replies = s.replies := rfl
@[simp] theorem State.retireSTo_me_id (s : State) (pc : W64) : (s.retireSTo pc).me.id = s.me.id := rfl
@[simp] theorem State.retireSTo_me_life (s : State) (pc : W64) : (s.retireSTo pc).me.life = s.me.life := rfl
@[simp] theorem State.retireSTo_me_member (s : State) (pc : W64) : (s.retireSTo pc).me.member = s.me.member := rfl
@[simp] theorem State.retireSTo_me_level (s : State) (pc : W64) : (s.retireSTo pc).me.level = s.me.level := rfl
@[simp] theorem State.retireSTo_me_castcls (s : State) (pc : W64) : (s.retireSTo pc).me.castcls = s.me.castcls := rfl
@[simp] theorem State.retireSTo_me_moddef (s : State) (pc : W64) : (s.retireSTo pc).me.moddef = s.me.moddef := rfl
@[simp] theorem State.retireSTo_me_nflags (s : State) (pc : W64) : (s.retireSTo pc).me.nflags = s.me.nflags := rfl
@[simp] theorem State.retireSTo_me_raised (s : State) (pc : W64) : (s.retireSTo pc).me.raised = s.me.raised := rfl
@[simp] theorem State.retireSTo_me_take (s : State) (pc : W64) : (s.retireSTo pc).me.take = s.me.take := rfl
@[simp] theorem State.retireSTo_me_takeStart (s : State) (pc : W64) : (s.retireSTo pc).me.takeStart = s.me.takeStart := rfl
@[simp] theorem State.retireSTo_me_demoted (s : State) (pc : W64) : (s.retireSTo pc).me.demoted = s.me.demoted := rfl
@[simp] theorem State.retireSTo_me_runCc (s : State) (pc : W64) : (s.retireSTo pc).me.runCc = s.me.runCc := rfl
@[simp] theorem State.retireSTo_me_holdCc (s : State) (pc : W64) : (s.retireSTo pc).me.holdCc = s.me.holdCc := rfl
@[simp] theorem State.retireSTo_me_arrived (s : State) (pc : W64) : (s.retireSTo pc).me.arrived = s.me.arrived := rfl
@[simp] theorem State.retireSTo_me_imageDue (s : State) (pc : W64) : (s.retireSTo pc).me.imageDue = s.me.imageDue := rfl
@[simp] theorem State.retireSTo_me_t (s : State) (pc : W64) : (s.retireSTo pc).me.t = s.me.t := rfl
@[simp] theorem State.retireSTo_me_e (s : State) (pc : W64) : (s.retireSTo pc).me.e = s.me.e := rfl
@[simp] theorem State.retireSTo_me_c (s : State) (pc : W64) : (s.retireSTo pc).me.c = s.me.c := rfl
@[simp] theorem State.retireSTo_me_g (s : State) (pc : W64) : (s.retireSTo pc).me.g = s.me.g := rfl
@[simp] theorem State.retireSTo_me_taint (s : State) (pc : W64) : (s.retireSTo pc).me.taint = s.me.taint := rfl
@[simp] theorem State.retireSTo_me_events (s : State) (pc : W64) : (s.retireSTo pc).me.events = s.me.events := rfl
@[simp] theorem State.retireSTo_me_sq (s : State) (pc : W64) : (s.retireSTo pc).me.sq = s.me.sq := rfl
@[simp] theorem State.retireSTo_me_gd (s : State) (pc : W64) : (s.retireSTo pc).me.gd = s.me.gd := rfl
@[simp] theorem State.retireSTo_me_tested (s : State) (pc : W64) : (s.retireSTo pc).me.tested = s.me.tested := rfl
@[simp] theorem State.retireSTo_me_rn (s : State) (pc : W64) : (s.retireSTo pc).me.rn = s.me.rn := rfl
@[simp] theorem State.retireSTo_me_tok (s : State) (pc : W64) : (s.retireSTo pc).me.tok = s.me.tok := rfl
@[simp] theorem State.retireSTo_me_tiles (s : State) (pc : W64) : (s.retireSTo pc).me.tiles = s.me.tiles := rfl
@[simp] theorem State.retireSTo_me_folio (s : State) (pc : W64) : (s.retireSTo pc).me.folio = s.me.folio := rfl
@[simp] theorem State.retireSTo_me_piV (s : State) (pc : W64) : (s.retireSTo pc).me.piV = s.me.piV := rfl
@[simp] theorem State.retireSTo_me_piM (s : State) (pc : W64) : (s.retireSTo pc).me.piM = s.me.piM := rfl
@[simp] theorem State.retireSTo_me_piC (s : State) (pc : W64) : (s.retireSTo pc).me.piC = s.me.piC := rfl
@[simp] theorem State.retireSTo_me_piF (s : State) (pc : W64) : (s.retireSTo pc).me.piF = s.me.piF := rfl
@[simp] theorem State.retireSTo_me_spad (s : State) (pc : W64) : (s.retireSTo pc).me.spad = s.me.spad := rfl
@[simp] theorem State.retireSTo_me_priv (s : State) (pc : W64) : (s.retireSTo pc).me.priv = s.me.priv := rfl
@[simp] theorem State.retireSTo_me_badSpad (s : State) (pc : W64) : (s.retireSTo pc).me.badSpad = s.me.badSpad := rfl
@[simp] theorem State.retireSTo_me_badPriv (s : State) (pc : W64) : (s.retireSTo pc).me.badPriv = s.me.badPriv := rfl
@[simp] theorem State.retireSTo_me_flipSpad (s : State) (pc : W64) : (s.retireSTo pc).me.flipSpad = s.me.flipSpad := rfl
@[simp] theorem State.retireSTo_me_flipPriv (s : State) (pc : W64) : (s.retireSTo pc).me.flipPriv = s.me.flipPriv := rfl
@[simp] theorem State.retireSTo_me_v (s : State) (pc : W64) : (s.retireSTo pc).me.v = s.me.v := rfl
@[simp] theorem State.retireSTo_me_m (s : State) (pc : W64) : (s.retireSTo pc).me.m = s.me.m := rfl
@[simp] theorem State.retireSTo_me_cp (s : State) (pc : W64) : (s.retireSTo pc).me.cp = s.me.cp := rfl
@[simp] theorem State.retireSTo_me_f (s : State) (pc : W64) : (s.retireSTo pc).me.f = s.me.f := rfl
@[simp] theorem State.retireSTo_me_hb (s : State) (pc : W64) : (s.retireSTo pc).me.hb = s.me.hb := rfl

/-! ### State.holdS -/

@[simp] theorem State.holdS_rest (s : State) (k : BitVec 4) (o : Nat) : (s.holdS k o).rest = s.rest := rfl
@[simp] theorem State.holdS_cur (s : State) (k : BitVec 4) (o : Nat) : (s.holdS k o).cur = s.cur := rfl
@[simp] theorem State.holdS_agenda (s : State) (k : BitVec 4) (o : Nat) : (s.holdS k o).agenda = s.agenda := rfl
@[simp] theorem State.holdS_tick (s : State) (k : BitVec 4) (o : Nat) : (s.holdS k o).tick = s.tick := rfl
@[simp] theorem State.holdS_cc (s : State) (k : BitVec 4) (o : Nat) : (s.holdS k o).cc = s.cc := rfl
@[simp] theorem State.holdS_insts (s : State) (k : BitVec 4) (o : Nat) : (s.holdS k o).insts = s.insts := rfl
@[simp] theorem State.holdS_hub (s : State) (k : BitVec 4) (o : Nat) : (s.holdS k o).hub = s.hub := rfl
@[simp] theorem State.holdS_bdies (s : State) (k : BitVec 4) (o : Nat) : (s.holdS k o).bdies = s.bdies := rfl
@[simp] theorem State.holdS_ports (s : State) (k : BitVec 4) (o : Nat) : (s.holdS k o).ports = s.ports := rfl
@[simp] theorem State.holdS_cores (s : State) (k : BitVec 4) (o : Nat) : (s.holdS k o).cores = s.cores := rfl
@[simp] theorem State.holdS_mem (s : State) (k : BitVec 4) (o : Nat) : (s.holdS k o).mem = s.mem := rfl
@[simp] theorem State.holdS_sram (s : State) (k : BitVec 4) (o : Nat) : (s.holdS k o).sram = s.sram := rfl
@[simp] theorem State.holdS_poison (s : State) (k : BitVec 4) (o : Nat) : (s.holdS k o).poison = s.poison := rfl
@[simp] theorem State.holdS_flips (s : State) (k : BitVec 4) (o : Nat) : (s.holdS k o).flips = s.flips := rfl
@[simp] theorem State.holdS_sevs (s : State) (k : BitVec 4) (o : Nat) : (s.holdS k o).sevs = s.sevs := rfl
@[simp] theorem State.holdS_xfers (s : State) (k : BitVec 4) (o : Nat) : (s.holdS k o).xfers = s.xfers := rfl
@[simp] theorem State.holdS_cuts (s : State) (k : BitVec 4) (o : Nat) : (s.holdS k o).cuts = s.cuts := rfl
@[simp] theorem State.holdS_moves (s : State) (k : BitVec 4) (o : Nat) : (s.holdS k o).moves = s.moves := rfl
@[simp] theorem State.holdS_migReqs (s : State) (k : BitVec 4) (o : Nat) : (s.holdS k o).migReqs = s.migReqs := rfl
@[simp] theorem State.holdS_matches_ (s : State) (k : BitVec 4) (o : Nat) : (s.holdS k o).matches_ = s.matches_ := rfl
@[simp] theorem State.holdS_marks (s : State) (k : BitVec 4) (o : Nat) : (s.holdS k o).marks = s.marks := rfl
@[simp] theorem State.holdS_replies (s : State) (k : BitVec 4) (o : Nat) : (s.holdS k o).replies = s.replies := rfl
@[simp] theorem State.holdS_me_id (s : State) (k : BitVec 4) (o : Nat) : (s.holdS k o).me.id = s.me.id := rfl
@[simp] theorem State.holdS_me_life (s : State) (k : BitVec 4) (o : Nat) : (s.holdS k o).me.life = s.me.life := rfl
@[simp] theorem State.holdS_me_member (s : State) (k : BitVec 4) (o : Nat) : (s.holdS k o).me.member = s.me.member := rfl
@[simp] theorem State.holdS_me_level (s : State) (k : BitVec 4) (o : Nat) : (s.holdS k o).me.level = s.me.level := rfl
@[simp] theorem State.holdS_me_castcls (s : State) (k : BitVec 4) (o : Nat) : (s.holdS k o).me.castcls = s.me.castcls := rfl
@[simp] theorem State.holdS_me_moddef (s : State) (k : BitVec 4) (o : Nat) : (s.holdS k o).me.moddef = s.me.moddef := rfl
@[simp] theorem State.holdS_me_nflags (s : State) (k : BitVec 4) (o : Nat) : (s.holdS k o).me.nflags = s.me.nflags := rfl
@[simp] theorem State.holdS_me_raised (s : State) (k : BitVec 4) (o : Nat) : (s.holdS k o).me.raised = s.me.raised := rfl
@[simp] theorem State.holdS_me_take (s : State) (k : BitVec 4) (o : Nat) : (s.holdS k o).me.take = s.me.take := rfl
@[simp] theorem State.holdS_me_takeStart (s : State) (k : BitVec 4) (o : Nat) : (s.holdS k o).me.takeStart = s.me.takeStart := rfl
@[simp] theorem State.holdS_me_demoted (s : State) (k : BitVec 4) (o : Nat) : (s.holdS k o).me.demoted = s.me.demoted := rfl
@[simp] theorem State.holdS_me_runCc (s : State) (k : BitVec 4) (o : Nat) : (s.holdS k o).me.runCc = s.me.runCc := rfl
@[simp] theorem State.holdS_me_holdCc (s : State) (k : BitVec 4) (o : Nat) : (s.holdS k o).me.holdCc = s.me.holdCc := rfl
@[simp] theorem State.holdS_me_arrived (s : State) (k : BitVec 4) (o : Nat) : (s.holdS k o).me.arrived = s.me.arrived := rfl
@[simp] theorem State.holdS_me_imageDue (s : State) (k : BitVec 4) (o : Nat) : (s.holdS k o).me.imageDue = s.me.imageDue := rfl
@[simp] theorem State.holdS_me_t (s : State) (k : BitVec 4) (o : Nat) : (s.holdS k o).me.t = s.me.t := rfl
@[simp] theorem State.holdS_me_e (s : State) (k : BitVec 4) (o : Nat) : (s.holdS k o).me.e = s.me.e := rfl
@[simp] theorem State.holdS_me_c (s : State) (k : BitVec 4) (o : Nat) : (s.holdS k o).me.c = s.me.c := rfl
@[simp] theorem State.holdS_me_g (s : State) (k : BitVec 4) (o : Nat) : (s.holdS k o).me.g = s.me.g := rfl
@[simp] theorem State.holdS_me_taint (s : State) (k : BitVec 4) (o : Nat) : (s.holdS k o).me.taint = s.me.taint := rfl
@[simp] theorem State.holdS_me_events (s : State) (k : BitVec 4) (o : Nat) : (s.holdS k o).me.events = s.me.events := rfl
@[simp] theorem State.holdS_me_sq (s : State) (k : BitVec 4) (o : Nat) : (s.holdS k o).me.sq = s.me.sq := rfl
@[simp] theorem State.holdS_me_gd (s : State) (k : BitVec 4) (o : Nat) : (s.holdS k o).me.gd = s.me.gd := rfl
@[simp] theorem State.holdS_me_tested (s : State) (k : BitVec 4) (o : Nat) : (s.holdS k o).me.tested = s.me.tested := rfl
@[simp] theorem State.holdS_me_rn (s : State) (k : BitVec 4) (o : Nat) : (s.holdS k o).me.rn = s.me.rn := rfl
@[simp] theorem State.holdS_me_tok (s : State) (k : BitVec 4) (o : Nat) : (s.holdS k o).me.tok = s.me.tok := rfl
@[simp] theorem State.holdS_me_tiles (s : State) (k : BitVec 4) (o : Nat) : (s.holdS k o).me.tiles = s.me.tiles := rfl
@[simp] theorem State.holdS_me_folio (s : State) (k : BitVec 4) (o : Nat) : (s.holdS k o).me.folio = s.me.folio := rfl
@[simp] theorem State.holdS_me_piV (s : State) (k : BitVec 4) (o : Nat) : (s.holdS k o).me.piV = s.me.piV := rfl
@[simp] theorem State.holdS_me_piM (s : State) (k : BitVec 4) (o : Nat) : (s.holdS k o).me.piM = s.me.piM := rfl
@[simp] theorem State.holdS_me_piC (s : State) (k : BitVec 4) (o : Nat) : (s.holdS k o).me.piC = s.me.piC := rfl
@[simp] theorem State.holdS_me_piF (s : State) (k : BitVec 4) (o : Nat) : (s.holdS k o).me.piF = s.me.piF := rfl
@[simp] theorem State.holdS_me_spad (s : State) (k : BitVec 4) (o : Nat) : (s.holdS k o).me.spad = s.me.spad := rfl
@[simp] theorem State.holdS_me_priv (s : State) (k : BitVec 4) (o : Nat) : (s.holdS k o).me.priv = s.me.priv := rfl
@[simp] theorem State.holdS_me_badSpad (s : State) (k : BitVec 4) (o : Nat) : (s.holdS k o).me.badSpad = s.me.badSpad := rfl
@[simp] theorem State.holdS_me_badPriv (s : State) (k : BitVec 4) (o : Nat) : (s.holdS k o).me.badPriv = s.me.badPriv := rfl
@[simp] theorem State.holdS_me_flipSpad (s : State) (k : BitVec 4) (o : Nat) : (s.holdS k o).me.flipSpad = s.me.flipSpad := rfl
@[simp] theorem State.holdS_me_flipPriv (s : State) (k : BitVec 4) (o : Nat) : (s.holdS k o).me.flipPriv = s.me.flipPriv := rfl
@[simp] theorem State.holdS_me_v (s : State) (k : BitVec 4) (o : Nat) : (s.holdS k o).me.v = s.me.v := rfl
@[simp] theorem State.holdS_me_m (s : State) (k : BitVec 4) (o : Nat) : (s.holdS k o).me.m = s.me.m := rfl
@[simp] theorem State.holdS_me_cp (s : State) (k : BitVec 4) (o : Nat) : (s.holdS k o).me.cp = s.me.cp := rfl
@[simp] theorem State.holdS_me_f (s : State) (k : BitVec 4) (o : Nat) : (s.holdS k o).me.f = s.me.f := rfl
@[simp] theorem State.holdS_me_hb (s : State) (k : BitVec 4) (o : Nat) : (s.holdS k o).me.hb = s.me.hb := rfl

/-! ### State.acquire -/

@[simp] theorem State.acquire_rest (s : State) (k : Known) : (s.acquire k).rest = s.rest := rfl
@[simp] theorem State.acquire_cur (s : State) (k : Known) : (s.acquire k).cur = s.cur := rfl
@[simp] theorem State.acquire_agenda (s : State) (k : Known) : (s.acquire k).agenda = s.agenda := rfl
@[simp] theorem State.acquire_tick (s : State) (k : Known) : (s.acquire k).tick = s.tick := rfl
@[simp] theorem State.acquire_cc (s : State) (k : Known) : (s.acquire k).cc = s.cc := rfl
@[simp] theorem State.acquire_insts (s : State) (k : Known) : (s.acquire k).insts = s.insts := rfl
@[simp] theorem State.acquire_hub (s : State) (k : Known) : (s.acquire k).hub = s.hub := rfl
@[simp] theorem State.acquire_bdies (s : State) (k : Known) : (s.acquire k).bdies = s.bdies := rfl
@[simp] theorem State.acquire_ports (s : State) (k : Known) : (s.acquire k).ports = s.ports := rfl
@[simp] theorem State.acquire_cores (s : State) (k : Known) : (s.acquire k).cores = s.cores := rfl
@[simp] theorem State.acquire_mem (s : State) (k : Known) : (s.acquire k).mem = s.mem := rfl
@[simp] theorem State.acquire_sram (s : State) (k : Known) : (s.acquire k).sram = s.sram := rfl
@[simp] theorem State.acquire_poison (s : State) (k : Known) : (s.acquire k).poison = s.poison := rfl
@[simp] theorem State.acquire_flips (s : State) (k : Known) : (s.acquire k).flips = s.flips := rfl
@[simp] theorem State.acquire_sevs (s : State) (k : Known) : (s.acquire k).sevs = s.sevs := rfl
@[simp] theorem State.acquire_xfers (s : State) (k : Known) : (s.acquire k).xfers = s.xfers := rfl
@[simp] theorem State.acquire_cuts (s : State) (k : Known) : (s.acquire k).cuts = s.cuts := rfl
@[simp] theorem State.acquire_moves (s : State) (k : Known) : (s.acquire k).moves = s.moves := rfl
@[simp] theorem State.acquire_migReqs (s : State) (k : Known) : (s.acquire k).migReqs = s.migReqs := rfl
@[simp] theorem State.acquire_matches_ (s : State) (k : Known) : (s.acquire k).matches_ = s.matches_ := rfl
@[simp] theorem State.acquire_marks (s : State) (k : Known) : (s.acquire k).marks = s.marks := rfl
@[simp] theorem State.acquire_replies (s : State) (k : Known) : (s.acquire k).replies = s.replies := rfl
@[simp] theorem State.acquire_me_id (s : State) (k : Known) : (s.acquire k).me.id = s.me.id := rfl
@[simp] theorem State.acquire_me_life (s : State) (k : Known) : (s.acquire k).me.life = s.me.life := rfl
@[simp] theorem State.acquire_me_member (s : State) (k : Known) : (s.acquire k).me.member = s.me.member := rfl
@[simp] theorem State.acquire_me_level (s : State) (k : Known) : (s.acquire k).me.level = s.me.level := rfl
@[simp] theorem State.acquire_me_castcls (s : State) (k : Known) : (s.acquire k).me.castcls = s.me.castcls := rfl
@[simp] theorem State.acquire_me_moddef (s : State) (k : Known) : (s.acquire k).me.moddef = s.me.moddef := rfl
@[simp] theorem State.acquire_me_nflags (s : State) (k : Known) : (s.acquire k).me.nflags = s.me.nflags := rfl
@[simp] theorem State.acquire_me_raised (s : State) (k : Known) : (s.acquire k).me.raised = s.me.raised := rfl
@[simp] theorem State.acquire_me_take (s : State) (k : Known) : (s.acquire k).me.take = s.me.take := rfl
@[simp] theorem State.acquire_me_takeStart (s : State) (k : Known) : (s.acquire k).me.takeStart = s.me.takeStart := rfl
@[simp] theorem State.acquire_me_demoted (s : State) (k : Known) : (s.acquire k).me.demoted = s.me.demoted := rfl
@[simp] theorem State.acquire_me_runCc (s : State) (k : Known) : (s.acquire k).me.runCc = s.me.runCc := rfl
@[simp] theorem State.acquire_me_holdCc (s : State) (k : Known) : (s.acquire k).me.holdCc = s.me.holdCc := rfl
@[simp] theorem State.acquire_me_arrived (s : State) (k : Known) : (s.acquire k).me.arrived = s.me.arrived := rfl
@[simp] theorem State.acquire_me_imageDue (s : State) (k : Known) : (s.acquire k).me.imageDue = s.me.imageDue := rfl
@[simp] theorem State.acquire_me_t (s : State) (k : Known) : (s.acquire k).me.t = s.me.t := rfl
@[simp] theorem State.acquire_me_s (s : State) (k : Known) : (s.acquire k).me.s = s.me.s := rfl
@[simp] theorem State.acquire_me_e (s : State) (k : Known) : (s.acquire k).me.e = s.me.e := rfl
@[simp] theorem State.acquire_me_c (s : State) (k : Known) : (s.acquire k).me.c = s.me.c := rfl
@[simp] theorem State.acquire_me_g (s : State) (k : Known) : (s.acquire k).me.g = s.me.g := rfl
@[simp] theorem State.acquire_me_taint (s : State) (k : Known) : (s.acquire k).me.taint = s.me.taint := rfl
@[simp] theorem State.acquire_me_events (s : State) (k : Known) : (s.acquire k).me.events = s.me.events := rfl
@[simp] theorem State.acquire_me_sq (s : State) (k : Known) : (s.acquire k).me.sq = s.me.sq := rfl
@[simp] theorem State.acquire_me_gd (s : State) (k : Known) : (s.acquire k).me.gd = s.me.gd := rfl
@[simp] theorem State.acquire_me_tested (s : State) (k : Known) : (s.acquire k).me.tested = s.me.tested := rfl
@[simp] theorem State.acquire_me_rn (s : State) (k : Known) : (s.acquire k).me.rn = s.me.rn := rfl
@[simp] theorem State.acquire_me_tok (s : State) (k : Known) : (s.acquire k).me.tok = s.me.tok := rfl
@[simp] theorem State.acquire_me_tiles (s : State) (k : Known) : (s.acquire k).me.tiles = s.me.tiles := rfl
@[simp] theorem State.acquire_me_folio (s : State) (k : Known) : (s.acquire k).me.folio = s.me.folio := rfl
@[simp] theorem State.acquire_me_piV (s : State) (k : Known) : (s.acquire k).me.piV = s.me.piV := rfl
@[simp] theorem State.acquire_me_piM (s : State) (k : Known) : (s.acquire k).me.piM = s.me.piM := rfl
@[simp] theorem State.acquire_me_piC (s : State) (k : Known) : (s.acquire k).me.piC = s.me.piC := rfl
@[simp] theorem State.acquire_me_piF (s : State) (k : Known) : (s.acquire k).me.piF = s.me.piF := rfl
@[simp] theorem State.acquire_me_spad (s : State) (k : Known) : (s.acquire k).me.spad = s.me.spad := rfl
@[simp] theorem State.acquire_me_priv (s : State) (k : Known) : (s.acquire k).me.priv = s.me.priv := rfl
@[simp] theorem State.acquire_me_badSpad (s : State) (k : Known) : (s.acquire k).me.badSpad = s.me.badSpad := rfl
@[simp] theorem State.acquire_me_badPriv (s : State) (k : Known) : (s.acquire k).me.badPriv = s.me.badPriv := rfl
@[simp] theorem State.acquire_me_flipSpad (s : State) (k : Known) : (s.acquire k).me.flipSpad = s.me.flipSpad := rfl
@[simp] theorem State.acquire_me_flipPriv (s : State) (k : Known) : (s.acquire k).me.flipPriv = s.me.flipPriv := rfl
@[simp] theorem State.acquire_me_v (s : State) (k : Known) : (s.acquire k).me.v = s.me.v := rfl
@[simp] theorem State.acquire_me_m (s : State) (k : Known) : (s.acquire k).me.m = s.me.m := rfl
@[simp] theorem State.acquire_me_cp (s : State) (k : Known) : (s.acquire k).me.cp = s.me.cp := rfl
@[simp] theorem State.acquire_me_f (s : State) (k : Known) : (s.acquire k).me.f = s.me.f := rfl

/-! ### State.putS -/

@[simp] theorem State.putS_rest (s : State) (d : BitVec 5) (v : W64) (t : Bool) (f : Flags) : (s.putS d v t f).rest = s.rest := rfl
@[simp] theorem State.putS_cur (s : State) (d : BitVec 5) (v : W64) (t : Bool) (f : Flags) : (s.putS d v t f).cur = s.cur := rfl
@[simp] theorem State.putS_agenda (s : State) (d : BitVec 5) (v : W64) (t : Bool) (f : Flags) : (s.putS d v t f).agenda = s.agenda := rfl
@[simp] theorem State.putS_tick (s : State) (d : BitVec 5) (v : W64) (t : Bool) (f : Flags) : (s.putS d v t f).tick = s.tick := rfl
@[simp] theorem State.putS_cc (s : State) (d : BitVec 5) (v : W64) (t : Bool) (f : Flags) : (s.putS d v t f).cc = s.cc := rfl
@[simp] theorem State.putS_insts (s : State) (d : BitVec 5) (v : W64) (t : Bool) (f : Flags) : (s.putS d v t f).insts = s.insts := rfl
@[simp] theorem State.putS_hub (s : State) (d : BitVec 5) (v : W64) (t : Bool) (f : Flags) : (s.putS d v t f).hub = s.hub := rfl
@[simp] theorem State.putS_bdies (s : State) (d : BitVec 5) (v : W64) (t : Bool) (f : Flags) : (s.putS d v t f).bdies = s.bdies := rfl
@[simp] theorem State.putS_ports (s : State) (d : BitVec 5) (v : W64) (t : Bool) (f : Flags) : (s.putS d v t f).ports = s.ports := rfl
@[simp] theorem State.putS_cores (s : State) (d : BitVec 5) (v : W64) (t : Bool) (f : Flags) : (s.putS d v t f).cores = s.cores := rfl
@[simp] theorem State.putS_mem (s : State) (d : BitVec 5) (v : W64) (t : Bool) (f : Flags) : (s.putS d v t f).mem = s.mem := rfl
@[simp] theorem State.putS_sram (s : State) (d : BitVec 5) (v : W64) (t : Bool) (f : Flags) : (s.putS d v t f).sram = s.sram := rfl
@[simp] theorem State.putS_poison (s : State) (d : BitVec 5) (v : W64) (t : Bool) (f : Flags) : (s.putS d v t f).poison = s.poison := rfl
@[simp] theorem State.putS_flips (s : State) (d : BitVec 5) (v : W64) (t : Bool) (f : Flags) : (s.putS d v t f).flips = s.flips := rfl
@[simp] theorem State.putS_sevs (s : State) (d : BitVec 5) (v : W64) (t : Bool) (f : Flags) : (s.putS d v t f).sevs = s.sevs := rfl
@[simp] theorem State.putS_xfers (s : State) (d : BitVec 5) (v : W64) (t : Bool) (f : Flags) : (s.putS d v t f).xfers = s.xfers := rfl
@[simp] theorem State.putS_cuts (s : State) (d : BitVec 5) (v : W64) (t : Bool) (f : Flags) : (s.putS d v t f).cuts = s.cuts := rfl
@[simp] theorem State.putS_moves (s : State) (d : BitVec 5) (v : W64) (t : Bool) (f : Flags) : (s.putS d v t f).moves = s.moves := rfl
@[simp] theorem State.putS_migReqs (s : State) (d : BitVec 5) (v : W64) (t : Bool) (f : Flags) : (s.putS d v t f).migReqs = s.migReqs := rfl
@[simp] theorem State.putS_matches_ (s : State) (d : BitVec 5) (v : W64) (t : Bool) (f : Flags) : (s.putS d v t f).matches_ = s.matches_ := rfl
@[simp] theorem State.putS_marks (s : State) (d : BitVec 5) (v : W64) (t : Bool) (f : Flags) : (s.putS d v t f).marks = s.marks := rfl
@[simp] theorem State.putS_replies (s : State) (d : BitVec 5) (v : W64) (t : Bool) (f : Flags) : (s.putS d v t f).replies = s.replies := rfl
@[simp] theorem State.putS_me_id (s : State) (d : BitVec 5) (v : W64) (t : Bool) (f : Flags) : (s.putS d v t f).me.id = s.me.id := by simp [State.putS]
@[simp] theorem State.putS_me_life (s : State) (d : BitVec 5) (v : W64) (t : Bool) (f : Flags) : (s.putS d v t f).me.life = s.me.life := by simp [State.putS]
@[simp] theorem State.putS_me_member (s : State) (d : BitVec 5) (v : W64) (t : Bool) (f : Flags) : (s.putS d v t f).me.member = s.me.member := by simp [State.putS]
@[simp] theorem State.putS_me_level (s : State) (d : BitVec 5) (v : W64) (t : Bool) (f : Flags) : (s.putS d v t f).me.level = s.me.level := by simp [State.putS]
@[simp] theorem State.putS_me_castcls (s : State) (d : BitVec 5) (v : W64) (t : Bool) (f : Flags) : (s.putS d v t f).me.castcls = s.me.castcls := by simp [State.putS]
@[simp] theorem State.putS_me_moddef (s : State) (d : BitVec 5) (v : W64) (t : Bool) (f : Flags) : (s.putS d v t f).me.moddef = s.me.moddef := by simp [State.putS]
@[simp] theorem State.putS_me_take (s : State) (d : BitVec 5) (v : W64) (t : Bool) (f : Flags) : (s.putS d v t f).me.take = s.me.take := by simp [State.putS]
@[simp] theorem State.putS_me_takeStart (s : State) (d : BitVec 5) (v : W64) (t : Bool) (f : Flags) : (s.putS d v t f).me.takeStart = s.me.takeStart := by simp [State.putS]
@[simp] theorem State.putS_me_demoted (s : State) (d : BitVec 5) (v : W64) (t : Bool) (f : Flags) : (s.putS d v t f).me.demoted = s.me.demoted := by simp [State.putS]
@[simp] theorem State.putS_me_runCc (s : State) (d : BitVec 5) (v : W64) (t : Bool) (f : Flags) : (s.putS d v t f).me.runCc = s.me.runCc := by simp [State.putS]
@[simp] theorem State.putS_me_holdCc (s : State) (d : BitVec 5) (v : W64) (t : Bool) (f : Flags) : (s.putS d v t f).me.holdCc = s.me.holdCc := by simp [State.putS]
@[simp] theorem State.putS_me_arrived (s : State) (d : BitVec 5) (v : W64) (t : Bool) (f : Flags) : (s.putS d v t f).me.arrived = s.me.arrived := by simp [State.putS]
@[simp] theorem State.putS_me_imageDue (s : State) (d : BitVec 5) (v : W64) (t : Bool) (f : Flags) : (s.putS d v t f).me.imageDue = s.me.imageDue := by simp [State.putS]
@[simp] theorem State.putS_me_t (s : State) (d : BitVec 5) (v : W64) (t : Bool) (f : Flags) : (s.putS d v t f).me.t = s.me.t := by simp [State.putS]
@[simp] theorem State.putS_me_e (s : State) (d : BitVec 5) (v : W64) (t : Bool) (f : Flags) : (s.putS d v t f).me.e = s.me.e := by simp [State.putS]
@[simp] theorem State.putS_me_c (s : State) (d : BitVec 5) (v : W64) (t : Bool) (f : Flags) : (s.putS d v t f).me.c = s.me.c := by simp [State.putS]
@[simp] theorem State.putS_me_events (s : State) (d : BitVec 5) (v : W64) (t : Bool) (f : Flags) : (s.putS d v t f).me.events = s.me.events := by simp [State.putS]
@[simp] theorem State.putS_me_sq (s : State) (d : BitVec 5) (v : W64) (t : Bool) (f : Flags) : (s.putS d v t f).me.sq = s.me.sq := by simp [State.putS]
@[simp] theorem State.putS_me_gd (s : State) (d : BitVec 5) (v : W64) (t : Bool) (f : Flags) : (s.putS d v t f).me.gd = s.me.gd := by simp [State.putS]
@[simp] theorem State.putS_me_tested (s : State) (d : BitVec 5) (v : W64) (t : Bool) (f : Flags) : (s.putS d v t f).me.tested = s.me.tested := by simp [State.putS]
@[simp] theorem State.putS_me_rn (s : State) (d : BitVec 5) (v : W64) (t : Bool) (f : Flags) : (s.putS d v t f).me.rn = s.me.rn := by simp [State.putS]
@[simp] theorem State.putS_me_tok (s : State) (d : BitVec 5) (v : W64) (t : Bool) (f : Flags) : (s.putS d v t f).me.tok = s.me.tok := by simp [State.putS]
@[simp] theorem State.putS_me_tiles (s : State) (d : BitVec 5) (v : W64) (t : Bool) (f : Flags) : (s.putS d v t f).me.tiles = s.me.tiles := by simp [State.putS]
@[simp] theorem State.putS_me_folio (s : State) (d : BitVec 5) (v : W64) (t : Bool) (f : Flags) : (s.putS d v t f).me.folio = s.me.folio := by simp [State.putS]
@[simp] theorem State.putS_me_piV (s : State) (d : BitVec 5) (v : W64) (t : Bool) (f : Flags) : (s.putS d v t f).me.piV = s.me.piV := by simp [State.putS]
@[simp] theorem State.putS_me_piM (s : State) (d : BitVec 5) (v : W64) (t : Bool) (f : Flags) : (s.putS d v t f).me.piM = s.me.piM := by simp [State.putS]
@[simp] theorem State.putS_me_piC (s : State) (d : BitVec 5) (v : W64) (t : Bool) (f : Flags) : (s.putS d v t f).me.piC = s.me.piC := by simp [State.putS]
@[simp] theorem State.putS_me_piF (s : State) (d : BitVec 5) (v : W64) (t : Bool) (f : Flags) : (s.putS d v t f).me.piF = s.me.piF := by simp [State.putS]
@[simp] theorem State.putS_me_spad (s : State) (d : BitVec 5) (v : W64) (t : Bool) (f : Flags) : (s.putS d v t f).me.spad = s.me.spad := by simp [State.putS]
@[simp] theorem State.putS_me_priv (s : State) (d : BitVec 5) (v : W64) (t : Bool) (f : Flags) : (s.putS d v t f).me.priv = s.me.priv := by simp [State.putS]
@[simp] theorem State.putS_me_badSpad (s : State) (d : BitVec 5) (v : W64) (t : Bool) (f : Flags) : (s.putS d v t f).me.badSpad = s.me.badSpad := by simp [State.putS]
@[simp] theorem State.putS_me_badPriv (s : State) (d : BitVec 5) (v : W64) (t : Bool) (f : Flags) : (s.putS d v t f).me.badPriv = s.me.badPriv := by simp [State.putS]
@[simp] theorem State.putS_me_flipSpad (s : State) (d : BitVec 5) (v : W64) (t : Bool) (f : Flags) : (s.putS d v t f).me.flipSpad = s.me.flipSpad := by simp [State.putS]
@[simp] theorem State.putS_me_flipPriv (s : State) (d : BitVec 5) (v : W64) (t : Bool) (f : Flags) : (s.putS d v t f).me.flipPriv = s.me.flipPriv := by simp [State.putS]
@[simp] theorem State.putS_me_v (s : State) (d : BitVec 5) (v : W64) (t : Bool) (f : Flags) : (s.putS d v t f).me.v = s.me.v := by simp [State.putS]
@[simp] theorem State.putS_me_m (s : State) (d : BitVec 5) (v : W64) (t : Bool) (f : Flags) : (s.putS d v t f).me.m = s.me.m := by simp [State.putS]
@[simp] theorem State.putS_me_cp (s : State) (d : BitVec 5) (v : W64) (t : Bool) (f : Flags) : (s.putS d v t f).me.cp = s.me.cp := by simp [State.putS]
@[simp] theorem State.putS_me_f (s : State) (d : BitVec 5) (v : W64) (t : Bool) (f : Flags) : (s.putS d v t f).me.f = s.me.f := by simp [State.putS]
@[simp] theorem State.putS_me_hb (s : State) (d : BitVec 5) (v : W64) (t : Bool) (f : Flags) : (s.putS d v t f).me.hb = s.me.hb := by simp [State.putS]

/-! ### State.setStrm -/

@[simp] theorem State.setStrm_rest (s : State) (st : Strm) : (s.setStrm st).rest = s.rest := by unfold State.setStrm; split <;> (try split) <;> rfl
@[simp] theorem State.setStrm_cur (s : State) (st : Strm) : (s.setStrm st).cur = s.cur := by unfold State.setStrm; split <;> (try split) <;> rfl
@[simp] theorem State.setStrm_agenda (s : State) (st : Strm) : (s.setStrm st).agenda = s.agenda := by unfold State.setStrm; split <;> (try split) <;> rfl
@[simp] theorem State.setStrm_tick (s : State) (st : Strm) : (s.setStrm st).tick = s.tick := by unfold State.setStrm; split <;> (try split) <;> rfl
@[simp] theorem State.setStrm_cc (s : State) (st : Strm) : (s.setStrm st).cc = s.cc := by unfold State.setStrm; split <;> (try split) <;> rfl
@[simp] theorem State.setStrm_insts (s : State) (st : Strm) : (s.setStrm st).insts = s.insts := by unfold State.setStrm; split <;> (try split) <;> rfl
@[simp] theorem State.setStrm_hub (s : State) (st : Strm) : (s.setStrm st).hub = s.hub := by unfold State.setStrm; split <;> (try split) <;> rfl
@[simp] theorem State.setStrm_bdies (s : State) (st : Strm) : (s.setStrm st).bdies = s.bdies := by unfold State.setStrm; split <;> (try split) <;> rfl
@[simp] theorem State.setStrm_ports (s : State) (st : Strm) : (s.setStrm st).ports = s.ports := by unfold State.setStrm; split <;> (try split) <;> rfl
@[simp] theorem State.setStrm_cores (s : State) (st : Strm) : (s.setStrm st).cores = s.cores := by unfold State.setStrm; split <;> (try split) <;> rfl
@[simp] theorem State.setStrm_mem (s : State) (st : Strm) : (s.setStrm st).mem = s.mem := by unfold State.setStrm; split <;> (try split) <;> rfl
@[simp] theorem State.setStrm_sram (s : State) (st : Strm) : (s.setStrm st).sram = s.sram := by unfold State.setStrm; split <;> (try split) <;> rfl
@[simp] theorem State.setStrm_poison (s : State) (st : Strm) : (s.setStrm st).poison = s.poison := by unfold State.setStrm; split <;> (try split) <;> rfl
@[simp] theorem State.setStrm_flips (s : State) (st : Strm) : (s.setStrm st).flips = s.flips := by unfold State.setStrm; split <;> (try split) <;> rfl
@[simp] theorem State.setStrm_sevs (s : State) (st : Strm) : (s.setStrm st).sevs = s.sevs := by unfold State.setStrm; split <;> (try split) <;> rfl
@[simp] theorem State.setStrm_xfers (s : State) (st : Strm) : (s.setStrm st).xfers = s.xfers := by unfold State.setStrm; split <;> (try split) <;> rfl
@[simp] theorem State.setStrm_cuts (s : State) (st : Strm) : (s.setStrm st).cuts = s.cuts := by unfold State.setStrm; split <;> (try split) <;> rfl
@[simp] theorem State.setStrm_moves (s : State) (st : Strm) : (s.setStrm st).moves = s.moves := by unfold State.setStrm; split <;> (try split) <;> rfl
@[simp] theorem State.setStrm_migReqs (s : State) (st : Strm) : (s.setStrm st).migReqs = s.migReqs := by unfold State.setStrm; split <;> (try split) <;> rfl
@[simp] theorem State.setStrm_matches_ (s : State) (st : Strm) : (s.setStrm st).matches_ = s.matches_ := by unfold State.setStrm; split <;> (try split) <;> rfl
@[simp] theorem State.setStrm_marks (s : State) (st : Strm) : (s.setStrm st).marks = s.marks := by unfold State.setStrm; split <;> (try split) <;> rfl
@[simp] theorem State.setStrm_replies (s : State) (st : Strm) : (s.setStrm st).replies = s.replies := by unfold State.setStrm; split <;> (try split) <;> rfl
@[simp] theorem State.setStrm_me_id (s : State) (st : Strm) : (s.setStrm st).me.id = s.me.id := by unfold State.setStrm; split <;> (try split) <;> rfl
@[simp] theorem State.setStrm_me_life (s : State) (st : Strm) : (s.setStrm st).me.life = s.me.life := by unfold State.setStrm; split <;> (try split) <;> rfl
@[simp] theorem State.setStrm_me_member (s : State) (st : Strm) : (s.setStrm st).me.member = s.me.member := by unfold State.setStrm; split <;> (try split) <;> rfl
@[simp] theorem State.setStrm_me_level (s : State) (st : Strm) : (s.setStrm st).me.level = s.me.level := by unfold State.setStrm; split <;> (try split) <;> rfl
@[simp] theorem State.setStrm_me_castcls (s : State) (st : Strm) : (s.setStrm st).me.castcls = s.me.castcls := by unfold State.setStrm; split <;> (try split) <;> rfl
@[simp] theorem State.setStrm_me_moddef (s : State) (st : Strm) : (s.setStrm st).me.moddef = s.me.moddef := by unfold State.setStrm; split <;> (try split) <;> rfl
@[simp] theorem State.setStrm_me_nflags (s : State) (st : Strm) : (s.setStrm st).me.nflags = s.me.nflags := by unfold State.setStrm; split <;> (try split) <;> rfl
@[simp] theorem State.setStrm_me_raised (s : State) (st : Strm) : (s.setStrm st).me.raised = s.me.raised := by unfold State.setStrm; split <;> (try split) <;> rfl
@[simp] theorem State.setStrm_me_take (s : State) (st : Strm) : (s.setStrm st).me.take = s.me.take := by unfold State.setStrm; split <;> (try split) <;> rfl
@[simp] theorem State.setStrm_me_takeStart (s : State) (st : Strm) : (s.setStrm st).me.takeStart = s.me.takeStart := by unfold State.setStrm; split <;> (try split) <;> rfl
@[simp] theorem State.setStrm_me_demoted (s : State) (st : Strm) : (s.setStrm st).me.demoted = s.me.demoted := by unfold State.setStrm; split <;> (try split) <;> rfl
@[simp] theorem State.setStrm_me_runCc (s : State) (st : Strm) : (s.setStrm st).me.runCc = s.me.runCc := by unfold State.setStrm; split <;> (try split) <;> rfl
@[simp] theorem State.setStrm_me_holdCc (s : State) (st : Strm) : (s.setStrm st).me.holdCc = s.me.holdCc := by unfold State.setStrm; split <;> (try split) <;> rfl
@[simp] theorem State.setStrm_me_arrived (s : State) (st : Strm) : (s.setStrm st).me.arrived = s.me.arrived := by unfold State.setStrm; split <;> (try split) <;> rfl
@[simp] theorem State.setStrm_me_imageDue (s : State) (st : Strm) : (s.setStrm st).me.imageDue = s.me.imageDue := by unfold State.setStrm; split <;> (try split) <;> rfl
@[simp] theorem State.setStrm_me_t (s : State) (st : Strm) : (s.setStrm st).me.t = s.me.t := by unfold State.setStrm; split <;> (try split) <;> rfl
@[simp] theorem State.setStrm_me_g (s : State) (st : Strm) : (s.setStrm st).me.g = s.me.g := by unfold State.setStrm; split <;> (try split) <;> rfl
@[simp] theorem State.setStrm_me_taint (s : State) (st : Strm) : (s.setStrm st).me.taint = s.me.taint := by unfold State.setStrm; split <;> (try split) <;> rfl
@[simp] theorem State.setStrm_me_events (s : State) (st : Strm) : (s.setStrm st).me.events = s.me.events := by unfold State.setStrm; split <;> (try split) <;> rfl
@[simp] theorem State.setStrm_me_sq (s : State) (st : Strm) : (s.setStrm st).me.sq = s.me.sq := by unfold State.setStrm; split <;> (try split) <;> rfl
@[simp] theorem State.setStrm_me_gd (s : State) (st : Strm) : (s.setStrm st).me.gd = s.me.gd := by unfold State.setStrm; split <;> (try split) <;> rfl
@[simp] theorem State.setStrm_me_tested (s : State) (st : Strm) : (s.setStrm st).me.tested = s.me.tested := by unfold State.setStrm; split <;> (try split) <;> rfl
@[simp] theorem State.setStrm_me_rn (s : State) (st : Strm) : (s.setStrm st).me.rn = s.me.rn := by unfold State.setStrm; split <;> (try split) <;> rfl
@[simp] theorem State.setStrm_me_tok (s : State) (st : Strm) : (s.setStrm st).me.tok = s.me.tok := by unfold State.setStrm; split <;> (try split) <;> rfl
@[simp] theorem State.setStrm_me_tiles (s : State) (st : Strm) : (s.setStrm st).me.tiles = s.me.tiles := by unfold State.setStrm; split <;> (try split) <;> rfl
@[simp] theorem State.setStrm_me_folio (s : State) (st : Strm) : (s.setStrm st).me.folio = s.me.folio := by unfold State.setStrm; split <;> (try split) <;> rfl
@[simp] theorem State.setStrm_me_piV (s : State) (st : Strm) : (s.setStrm st).me.piV = s.me.piV := by unfold State.setStrm; split <;> (try split) <;> rfl
@[simp] theorem State.setStrm_me_piM (s : State) (st : Strm) : (s.setStrm st).me.piM = s.me.piM := by unfold State.setStrm; split <;> (try split) <;> rfl
@[simp] theorem State.setStrm_me_piC (s : State) (st : Strm) : (s.setStrm st).me.piC = s.me.piC := by unfold State.setStrm; split <;> (try split) <;> rfl
@[simp] theorem State.setStrm_me_piF (s : State) (st : Strm) : (s.setStrm st).me.piF = s.me.piF := by unfold State.setStrm; split <;> (try split) <;> rfl
@[simp] theorem State.setStrm_me_spad (s : State) (st : Strm) : (s.setStrm st).me.spad = s.me.spad := by unfold State.setStrm; split <;> (try split) <;> rfl
@[simp] theorem State.setStrm_me_priv (s : State) (st : Strm) : (s.setStrm st).me.priv = s.me.priv := by unfold State.setStrm; split <;> (try split) <;> rfl
@[simp] theorem State.setStrm_me_badSpad (s : State) (st : Strm) : (s.setStrm st).me.badSpad = s.me.badSpad := by unfold State.setStrm; split <;> (try split) <;> rfl
@[simp] theorem State.setStrm_me_badPriv (s : State) (st : Strm) : (s.setStrm st).me.badPriv = s.me.badPriv := by unfold State.setStrm; split <;> (try split) <;> rfl
@[simp] theorem State.setStrm_me_flipSpad (s : State) (st : Strm) : (s.setStrm st).me.flipSpad = s.me.flipSpad := by unfold State.setStrm; split <;> (try split) <;> rfl
@[simp] theorem State.setStrm_me_flipPriv (s : State) (st : Strm) : (s.setStrm st).me.flipPriv = s.me.flipPriv := by unfold State.setStrm; split <;> (try split) <;> rfl
@[simp] theorem State.setStrm_me_m (s : State) (st : Strm) : (s.setStrm st).me.m = s.me.m := by unfold State.setStrm; split <;> (try split) <;> rfl
@[simp] theorem State.setStrm_me_cp (s : State) (st : Strm) : (s.setStrm st).me.cp = s.me.cp := by unfold State.setStrm; split <;> (try split) <;> rfl
@[simp] theorem State.setStrm_me_f (s : State) (st : Strm) : (s.setStrm st).me.f = s.me.f := by unfold State.setStrm; split <;> (try split) <;> rfl
@[simp] theorem State.setStrm_me_hb (s : State) (st : Strm) : (s.setStrm st).me.hb = s.me.hb := by unfold State.setStrm; split <;> (try split) <;> rfl

/-! ### State.retire -/

@[simp] theorem State.retire_rest (s : State) : (s.retire).rest = s.rest := by simp [State.retire]
@[simp] theorem State.retire_cur (s : State) : (s.retire).cur = s.cur := by simp [State.retire]
@[simp] theorem State.retire_agenda (s : State) : (s.retire).agenda = s.agenda := by simp [State.retire]
@[simp] theorem State.retire_tick (s : State) : (s.retire).tick = s.tick := by simp [State.retire]
@[simp] theorem State.retire_cc (s : State) : (s.retire).cc = s.cc := by simp [State.retire]
@[simp] theorem State.retire_insts (s : State) : (s.retire).insts = s.insts := by simp [State.retire]
@[simp] theorem State.retire_hub (s : State) : (s.retire).hub = s.hub := by simp [State.retire]
@[simp] theorem State.retire_bdies (s : State) : (s.retire).bdies = s.bdies := by simp [State.retire]
@[simp] theorem State.retire_ports (s : State) : (s.retire).ports = s.ports := by simp [State.retire]
@[simp] theorem State.retire_cores (s : State) : (s.retire).cores = s.cores := by simp [State.retire]
@[simp] theorem State.retire_mem (s : State) : (s.retire).mem = s.mem := by simp [State.retire]
@[simp] theorem State.retire_sram (s : State) : (s.retire).sram = s.sram := by simp [State.retire]
@[simp] theorem State.retire_poison (s : State) : (s.retire).poison = s.poison := by simp [State.retire]
@[simp] theorem State.retire_flips (s : State) : (s.retire).flips = s.flips := by simp [State.retire]
@[simp] theorem State.retire_sevs (s : State) : (s.retire).sevs = s.sevs := by simp [State.retire]
@[simp] theorem State.retire_xfers (s : State) : (s.retire).xfers = s.xfers := by simp [State.retire]
@[simp] theorem State.retire_cuts (s : State) : (s.retire).cuts = s.cuts := by simp [State.retire]
@[simp] theorem State.retire_moves (s : State) : (s.retire).moves = s.moves := by simp [State.retire]
@[simp] theorem State.retire_migReqs (s : State) : (s.retire).migReqs = s.migReqs := by simp [State.retire]
@[simp] theorem State.retire_matches_ (s : State) : (s.retire).matches_ = s.matches_ := by simp [State.retire]
@[simp] theorem State.retire_marks (s : State) : (s.retire).marks = s.marks := by simp [State.retire]
@[simp] theorem State.retire_replies (s : State) : (s.retire).replies = s.replies := by simp [State.retire]
@[simp] theorem State.retire_me_id (s : State) : (s.retire).me.id = s.me.id := by simp [State.retire]
@[simp] theorem State.retire_me_life (s : State) : (s.retire).me.life = s.me.life := by simp [State.retire]
@[simp] theorem State.retire_me_member (s : State) : (s.retire).me.member = s.me.member := by simp [State.retire]
@[simp] theorem State.retire_me_level (s : State) : (s.retire).me.level = s.me.level := by simp [State.retire]
@[simp] theorem State.retire_me_castcls (s : State) : (s.retire).me.castcls = s.me.castcls := by simp [State.retire]
@[simp] theorem State.retire_me_moddef (s : State) : (s.retire).me.moddef = s.me.moddef := by simp [State.retire]
@[simp] theorem State.retire_me_nflags (s : State) : (s.retire).me.nflags = s.me.nflags := by simp [State.retire]
@[simp] theorem State.retire_me_raised (s : State) : (s.retire).me.raised = s.me.raised := by simp [State.retire]
@[simp] theorem State.retire_me_take (s : State) : (s.retire).me.take = s.me.take := by simp [State.retire]
@[simp] theorem State.retire_me_takeStart (s : State) : (s.retire).me.takeStart = s.me.takeStart := by simp [State.retire]
@[simp] theorem State.retire_me_demoted (s : State) : (s.retire).me.demoted = s.me.demoted := by simp [State.retire]
@[simp] theorem State.retire_me_runCc (s : State) : (s.retire).me.runCc = s.me.runCc := by simp [State.retire]
@[simp] theorem State.retire_me_holdCc (s : State) : (s.retire).me.holdCc = s.me.holdCc := by simp [State.retire]
@[simp] theorem State.retire_me_arrived (s : State) : (s.retire).me.arrived = s.me.arrived := by simp [State.retire]
@[simp] theorem State.retire_me_imageDue (s : State) : (s.retire).me.imageDue = s.me.imageDue := by simp [State.retire]
@[simp] theorem State.retire_me_t (s : State) : (s.retire).me.t = s.me.t := by simp [State.retire]
@[simp] theorem State.retire_me_g (s : State) : (s.retire).me.g = s.me.g := by simp [State.retire]
@[simp] theorem State.retire_me_taint (s : State) : (s.retire).me.taint = s.me.taint := by simp [State.retire]
@[simp] theorem State.retire_me_events (s : State) : (s.retire).me.events = s.me.events := by simp [State.retire]
@[simp] theorem State.retire_me_sq (s : State) : (s.retire).me.sq = s.me.sq := by simp [State.retire]
@[simp] theorem State.retire_me_gd (s : State) : (s.retire).me.gd = s.me.gd := by simp [State.retire]
@[simp] theorem State.retire_me_tested (s : State) : (s.retire).me.tested = s.me.tested := by simp [State.retire]
@[simp] theorem State.retire_me_rn (s : State) : (s.retire).me.rn = s.me.rn := by simp [State.retire]
@[simp] theorem State.retire_me_tok (s : State) : (s.retire).me.tok = s.me.tok := by simp [State.retire]
@[simp] theorem State.retire_me_tiles (s : State) : (s.retire).me.tiles = s.me.tiles := by simp [State.retire]
@[simp] theorem State.retire_me_folio (s : State) : (s.retire).me.folio = s.me.folio := by simp [State.retire]
@[simp] theorem State.retire_me_piV (s : State) : (s.retire).me.piV = s.me.piV := by simp [State.retire]
@[simp] theorem State.retire_me_piM (s : State) : (s.retire).me.piM = s.me.piM := by simp [State.retire]
@[simp] theorem State.retire_me_piC (s : State) : (s.retire).me.piC = s.me.piC := by simp [State.retire]
@[simp] theorem State.retire_me_piF (s : State) : (s.retire).me.piF = s.me.piF := by simp [State.retire]
@[simp] theorem State.retire_me_spad (s : State) : (s.retire).me.spad = s.me.spad := by simp [State.retire]
@[simp] theorem State.retire_me_priv (s : State) : (s.retire).me.priv = s.me.priv := by simp [State.retire]
@[simp] theorem State.retire_me_badSpad (s : State) : (s.retire).me.badSpad = s.me.badSpad := by simp [State.retire]
@[simp] theorem State.retire_me_badPriv (s : State) : (s.retire).me.badPriv = s.me.badPriv := by simp [State.retire]
@[simp] theorem State.retire_me_flipSpad (s : State) : (s.retire).me.flipSpad = s.me.flipSpad := by simp [State.retire]
@[simp] theorem State.retire_me_flipPriv (s : State) : (s.retire).me.flipPriv = s.me.flipPriv := by simp [State.retire]
@[simp] theorem State.retire_me_m (s : State) : (s.retire).me.m = s.me.m := by simp [State.retire]
@[simp] theorem State.retire_me_cp (s : State) : (s.retire).me.cp = s.me.cp := by simp [State.retire]
@[simp] theorem State.retire_me_f (s : State) : (s.retire).me.f = s.me.f := by simp [State.retire]
@[simp] theorem State.retire_me_hb (s : State) : (s.retire).me.hb = s.me.hb := by simp [State.retire]

/-! ### State.retireTo -/

@[simp] theorem State.retireTo_rest (s : State) (pc : W64) : (s.retireTo pc).rest = s.rest := by simp [State.retireTo]
@[simp] theorem State.retireTo_cur (s : State) (pc : W64) : (s.retireTo pc).cur = s.cur := by simp [State.retireTo]
@[simp] theorem State.retireTo_agenda (s : State) (pc : W64) : (s.retireTo pc).agenda = s.agenda := by simp [State.retireTo]
@[simp] theorem State.retireTo_tick (s : State) (pc : W64) : (s.retireTo pc).tick = s.tick := by simp [State.retireTo]
@[simp] theorem State.retireTo_cc (s : State) (pc : W64) : (s.retireTo pc).cc = s.cc := by simp [State.retireTo]
@[simp] theorem State.retireTo_insts (s : State) (pc : W64) : (s.retireTo pc).insts = s.insts := by simp [State.retireTo]
@[simp] theorem State.retireTo_hub (s : State) (pc : W64) : (s.retireTo pc).hub = s.hub := by simp [State.retireTo]
@[simp] theorem State.retireTo_bdies (s : State) (pc : W64) : (s.retireTo pc).bdies = s.bdies := by simp [State.retireTo]
@[simp] theorem State.retireTo_ports (s : State) (pc : W64) : (s.retireTo pc).ports = s.ports := by simp [State.retireTo]
@[simp] theorem State.retireTo_cores (s : State) (pc : W64) : (s.retireTo pc).cores = s.cores := by simp [State.retireTo]
@[simp] theorem State.retireTo_mem (s : State) (pc : W64) : (s.retireTo pc).mem = s.mem := by simp [State.retireTo]
@[simp] theorem State.retireTo_sram (s : State) (pc : W64) : (s.retireTo pc).sram = s.sram := by simp [State.retireTo]
@[simp] theorem State.retireTo_poison (s : State) (pc : W64) : (s.retireTo pc).poison = s.poison := by simp [State.retireTo]
@[simp] theorem State.retireTo_flips (s : State) (pc : W64) : (s.retireTo pc).flips = s.flips := by simp [State.retireTo]
@[simp] theorem State.retireTo_sevs (s : State) (pc : W64) : (s.retireTo pc).sevs = s.sevs := by simp [State.retireTo]
@[simp] theorem State.retireTo_xfers (s : State) (pc : W64) : (s.retireTo pc).xfers = s.xfers := by simp [State.retireTo]
@[simp] theorem State.retireTo_cuts (s : State) (pc : W64) : (s.retireTo pc).cuts = s.cuts := by simp [State.retireTo]
@[simp] theorem State.retireTo_moves (s : State) (pc : W64) : (s.retireTo pc).moves = s.moves := by simp [State.retireTo]
@[simp] theorem State.retireTo_migReqs (s : State) (pc : W64) : (s.retireTo pc).migReqs = s.migReqs := by simp [State.retireTo]
@[simp] theorem State.retireTo_matches_ (s : State) (pc : W64) : (s.retireTo pc).matches_ = s.matches_ := by simp [State.retireTo]
@[simp] theorem State.retireTo_marks (s : State) (pc : W64) : (s.retireTo pc).marks = s.marks := by simp [State.retireTo]
@[simp] theorem State.retireTo_replies (s : State) (pc : W64) : (s.retireTo pc).replies = s.replies := by simp [State.retireTo]
@[simp] theorem State.retireTo_me_id (s : State) (pc : W64) : (s.retireTo pc).me.id = s.me.id := by simp [State.retireTo]
@[simp] theorem State.retireTo_me_life (s : State) (pc : W64) : (s.retireTo pc).me.life = s.me.life := by simp [State.retireTo]
@[simp] theorem State.retireTo_me_member (s : State) (pc : W64) : (s.retireTo pc).me.member = s.me.member := by simp [State.retireTo]
@[simp] theorem State.retireTo_me_level (s : State) (pc : W64) : (s.retireTo pc).me.level = s.me.level := by simp [State.retireTo]
@[simp] theorem State.retireTo_me_castcls (s : State) (pc : W64) : (s.retireTo pc).me.castcls = s.me.castcls := by simp [State.retireTo]
@[simp] theorem State.retireTo_me_moddef (s : State) (pc : W64) : (s.retireTo pc).me.moddef = s.me.moddef := by simp [State.retireTo]
@[simp] theorem State.retireTo_me_nflags (s : State) (pc : W64) : (s.retireTo pc).me.nflags = s.me.nflags := by simp [State.retireTo]
@[simp] theorem State.retireTo_me_raised (s : State) (pc : W64) : (s.retireTo pc).me.raised = s.me.raised := by simp [State.retireTo]
@[simp] theorem State.retireTo_me_take (s : State) (pc : W64) : (s.retireTo pc).me.take = s.me.take := by simp [State.retireTo]
@[simp] theorem State.retireTo_me_takeStart (s : State) (pc : W64) : (s.retireTo pc).me.takeStart = s.me.takeStart := by simp [State.retireTo]
@[simp] theorem State.retireTo_me_demoted (s : State) (pc : W64) : (s.retireTo pc).me.demoted = s.me.demoted := by simp [State.retireTo]
@[simp] theorem State.retireTo_me_runCc (s : State) (pc : W64) : (s.retireTo pc).me.runCc = s.me.runCc := by simp [State.retireTo]
@[simp] theorem State.retireTo_me_holdCc (s : State) (pc : W64) : (s.retireTo pc).me.holdCc = s.me.holdCc := by simp [State.retireTo]
@[simp] theorem State.retireTo_me_arrived (s : State) (pc : W64) : (s.retireTo pc).me.arrived = s.me.arrived := by simp [State.retireTo]
@[simp] theorem State.retireTo_me_imageDue (s : State) (pc : W64) : (s.retireTo pc).me.imageDue = s.me.imageDue := by simp [State.retireTo]
@[simp] theorem State.retireTo_me_t (s : State) (pc : W64) : (s.retireTo pc).me.t = s.me.t := by simp [State.retireTo]
@[simp] theorem State.retireTo_me_g (s : State) (pc : W64) : (s.retireTo pc).me.g = s.me.g := by simp [State.retireTo]
@[simp] theorem State.retireTo_me_taint (s : State) (pc : W64) : (s.retireTo pc).me.taint = s.me.taint := by simp [State.retireTo]
@[simp] theorem State.retireTo_me_events (s : State) (pc : W64) : (s.retireTo pc).me.events = s.me.events := by simp [State.retireTo]
@[simp] theorem State.retireTo_me_sq (s : State) (pc : W64) : (s.retireTo pc).me.sq = s.me.sq := by simp [State.retireTo]
@[simp] theorem State.retireTo_me_gd (s : State) (pc : W64) : (s.retireTo pc).me.gd = s.me.gd := by simp [State.retireTo]
@[simp] theorem State.retireTo_me_tested (s : State) (pc : W64) : (s.retireTo pc).me.tested = s.me.tested := by simp [State.retireTo]
@[simp] theorem State.retireTo_me_rn (s : State) (pc : W64) : (s.retireTo pc).me.rn = s.me.rn := by simp [State.retireTo]
@[simp] theorem State.retireTo_me_tok (s : State) (pc : W64) : (s.retireTo pc).me.tok = s.me.tok := by simp [State.retireTo]
@[simp] theorem State.retireTo_me_tiles (s : State) (pc : W64) : (s.retireTo pc).me.tiles = s.me.tiles := by simp [State.retireTo]
@[simp] theorem State.retireTo_me_folio (s : State) (pc : W64) : (s.retireTo pc).me.folio = s.me.folio := by simp [State.retireTo]
@[simp] theorem State.retireTo_me_piV (s : State) (pc : W64) : (s.retireTo pc).me.piV = s.me.piV := by simp [State.retireTo]
@[simp] theorem State.retireTo_me_piM (s : State) (pc : W64) : (s.retireTo pc).me.piM = s.me.piM := by simp [State.retireTo]
@[simp] theorem State.retireTo_me_piC (s : State) (pc : W64) : (s.retireTo pc).me.piC = s.me.piC := by simp [State.retireTo]
@[simp] theorem State.retireTo_me_piF (s : State) (pc : W64) : (s.retireTo pc).me.piF = s.me.piF := by simp [State.retireTo]
@[simp] theorem State.retireTo_me_spad (s : State) (pc : W64) : (s.retireTo pc).me.spad = s.me.spad := by simp [State.retireTo]
@[simp] theorem State.retireTo_me_priv (s : State) (pc : W64) : (s.retireTo pc).me.priv = s.me.priv := by simp [State.retireTo]
@[simp] theorem State.retireTo_me_badSpad (s : State) (pc : W64) : (s.retireTo pc).me.badSpad = s.me.badSpad := by simp [State.retireTo]
@[simp] theorem State.retireTo_me_badPriv (s : State) (pc : W64) : (s.retireTo pc).me.badPriv = s.me.badPriv := by simp [State.retireTo]
@[simp] theorem State.retireTo_me_flipSpad (s : State) (pc : W64) : (s.retireTo pc).me.flipSpad = s.me.flipSpad := by simp [State.retireTo]
@[simp] theorem State.retireTo_me_flipPriv (s : State) (pc : W64) : (s.retireTo pc).me.flipPriv = s.me.flipPriv := by simp [State.retireTo]
@[simp] theorem State.retireTo_me_m (s : State) (pc : W64) : (s.retireTo pc).me.m = s.me.m := by simp [State.retireTo]
@[simp] theorem State.retireTo_me_cp (s : State) (pc : W64) : (s.retireTo pc).me.cp = s.me.cp := by simp [State.retireTo]
@[simp] theorem State.retireTo_me_f (s : State) (pc : W64) : (s.retireTo pc).me.f = s.me.f := by simp [State.retireTo]
@[simp] theorem State.retireTo_me_hb (s : State) (pc : W64) : (s.retireTo pc).me.hb = s.me.hb := by simp [State.retireTo]

/-! ### State.hold -/

@[simp] theorem State.hold_rest (s : State) (k : BitVec 4) (o : Nat) : (s.hold k o).rest = s.rest := by simp [State.hold]
@[simp] theorem State.hold_cur (s : State) (k : BitVec 4) (o : Nat) : (s.hold k o).cur = s.cur := by simp [State.hold]
@[simp] theorem State.hold_agenda (s : State) (k : BitVec 4) (o : Nat) : (s.hold k o).agenda = s.agenda := by simp [State.hold]
@[simp] theorem State.hold_tick (s : State) (k : BitVec 4) (o : Nat) : (s.hold k o).tick = s.tick := by simp [State.hold]
@[simp] theorem State.hold_cc (s : State) (k : BitVec 4) (o : Nat) : (s.hold k o).cc = s.cc := by simp [State.hold]
@[simp] theorem State.hold_insts (s : State) (k : BitVec 4) (o : Nat) : (s.hold k o).insts = s.insts := by simp [State.hold]
@[simp] theorem State.hold_hub (s : State) (k : BitVec 4) (o : Nat) : (s.hold k o).hub = s.hub := by simp [State.hold]
@[simp] theorem State.hold_bdies (s : State) (k : BitVec 4) (o : Nat) : (s.hold k o).bdies = s.bdies := by simp [State.hold]
@[simp] theorem State.hold_ports (s : State) (k : BitVec 4) (o : Nat) : (s.hold k o).ports = s.ports := by simp [State.hold]
@[simp] theorem State.hold_cores (s : State) (k : BitVec 4) (o : Nat) : (s.hold k o).cores = s.cores := by simp [State.hold]
@[simp] theorem State.hold_mem (s : State) (k : BitVec 4) (o : Nat) : (s.hold k o).mem = s.mem := by simp [State.hold]
@[simp] theorem State.hold_sram (s : State) (k : BitVec 4) (o : Nat) : (s.hold k o).sram = s.sram := by simp [State.hold]
@[simp] theorem State.hold_poison (s : State) (k : BitVec 4) (o : Nat) : (s.hold k o).poison = s.poison := by simp [State.hold]
@[simp] theorem State.hold_flips (s : State) (k : BitVec 4) (o : Nat) : (s.hold k o).flips = s.flips := by simp [State.hold]
@[simp] theorem State.hold_sevs (s : State) (k : BitVec 4) (o : Nat) : (s.hold k o).sevs = s.sevs := by simp [State.hold]
@[simp] theorem State.hold_xfers (s : State) (k : BitVec 4) (o : Nat) : (s.hold k o).xfers = s.xfers := by simp [State.hold]
@[simp] theorem State.hold_cuts (s : State) (k : BitVec 4) (o : Nat) : (s.hold k o).cuts = s.cuts := by simp [State.hold]
@[simp] theorem State.hold_moves (s : State) (k : BitVec 4) (o : Nat) : (s.hold k o).moves = s.moves := by simp [State.hold]
@[simp] theorem State.hold_migReqs (s : State) (k : BitVec 4) (o : Nat) : (s.hold k o).migReqs = s.migReqs := by simp [State.hold]
@[simp] theorem State.hold_matches_ (s : State) (k : BitVec 4) (o : Nat) : (s.hold k o).matches_ = s.matches_ := by simp [State.hold]
@[simp] theorem State.hold_marks (s : State) (k : BitVec 4) (o : Nat) : (s.hold k o).marks = s.marks := by simp [State.hold]
@[simp] theorem State.hold_replies (s : State) (k : BitVec 4) (o : Nat) : (s.hold k o).replies = s.replies := by simp [State.hold]
@[simp] theorem State.hold_me_id (s : State) (k : BitVec 4) (o : Nat) : (s.hold k o).me.id = s.me.id := by simp [State.hold]
@[simp] theorem State.hold_me_life (s : State) (k : BitVec 4) (o : Nat) : (s.hold k o).me.life = s.me.life := by simp [State.hold]
@[simp] theorem State.hold_me_member (s : State) (k : BitVec 4) (o : Nat) : (s.hold k o).me.member = s.me.member := by simp [State.hold]
@[simp] theorem State.hold_me_level (s : State) (k : BitVec 4) (o : Nat) : (s.hold k o).me.level = s.me.level := by simp [State.hold]
@[simp] theorem State.hold_me_castcls (s : State) (k : BitVec 4) (o : Nat) : (s.hold k o).me.castcls = s.me.castcls := by simp [State.hold]
@[simp] theorem State.hold_me_moddef (s : State) (k : BitVec 4) (o : Nat) : (s.hold k o).me.moddef = s.me.moddef := by simp [State.hold]
@[simp] theorem State.hold_me_nflags (s : State) (k : BitVec 4) (o : Nat) : (s.hold k o).me.nflags = s.me.nflags := by simp [State.hold]
@[simp] theorem State.hold_me_raised (s : State) (k : BitVec 4) (o : Nat) : (s.hold k o).me.raised = s.me.raised := by simp [State.hold]
@[simp] theorem State.hold_me_take (s : State) (k : BitVec 4) (o : Nat) : (s.hold k o).me.take = s.me.take := by simp [State.hold]
@[simp] theorem State.hold_me_takeStart (s : State) (k : BitVec 4) (o : Nat) : (s.hold k o).me.takeStart = s.me.takeStart := by simp [State.hold]
@[simp] theorem State.hold_me_demoted (s : State) (k : BitVec 4) (o : Nat) : (s.hold k o).me.demoted = s.me.demoted := by simp [State.hold]
@[simp] theorem State.hold_me_runCc (s : State) (k : BitVec 4) (o : Nat) : (s.hold k o).me.runCc = s.me.runCc := by simp [State.hold]
@[simp] theorem State.hold_me_holdCc (s : State) (k : BitVec 4) (o : Nat) : (s.hold k o).me.holdCc = s.me.holdCc := by simp [State.hold]
@[simp] theorem State.hold_me_arrived (s : State) (k : BitVec 4) (o : Nat) : (s.hold k o).me.arrived = s.me.arrived := by simp [State.hold]
@[simp] theorem State.hold_me_imageDue (s : State) (k : BitVec 4) (o : Nat) : (s.hold k o).me.imageDue = s.me.imageDue := by simp [State.hold]
@[simp] theorem State.hold_me_t (s : State) (k : BitVec 4) (o : Nat) : (s.hold k o).me.t = s.me.t := by simp [State.hold]
@[simp] theorem State.hold_me_g (s : State) (k : BitVec 4) (o : Nat) : (s.hold k o).me.g = s.me.g := by simp [State.hold]
@[simp] theorem State.hold_me_taint (s : State) (k : BitVec 4) (o : Nat) : (s.hold k o).me.taint = s.me.taint := by simp [State.hold]
@[simp] theorem State.hold_me_events (s : State) (k : BitVec 4) (o : Nat) : (s.hold k o).me.events = s.me.events := by simp [State.hold]
@[simp] theorem State.hold_me_sq (s : State) (k : BitVec 4) (o : Nat) : (s.hold k o).me.sq = s.me.sq := by simp [State.hold]
@[simp] theorem State.hold_me_gd (s : State) (k : BitVec 4) (o : Nat) : (s.hold k o).me.gd = s.me.gd := by simp [State.hold]
@[simp] theorem State.hold_me_tested (s : State) (k : BitVec 4) (o : Nat) : (s.hold k o).me.tested = s.me.tested := by simp [State.hold]
@[simp] theorem State.hold_me_rn (s : State) (k : BitVec 4) (o : Nat) : (s.hold k o).me.rn = s.me.rn := by simp [State.hold]
@[simp] theorem State.hold_me_tok (s : State) (k : BitVec 4) (o : Nat) : (s.hold k o).me.tok = s.me.tok := by simp [State.hold]
@[simp] theorem State.hold_me_tiles (s : State) (k : BitVec 4) (o : Nat) : (s.hold k o).me.tiles = s.me.tiles := by simp [State.hold]
@[simp] theorem State.hold_me_folio (s : State) (k : BitVec 4) (o : Nat) : (s.hold k o).me.folio = s.me.folio := by simp [State.hold]
@[simp] theorem State.hold_me_piV (s : State) (k : BitVec 4) (o : Nat) : (s.hold k o).me.piV = s.me.piV := by simp [State.hold]
@[simp] theorem State.hold_me_piM (s : State) (k : BitVec 4) (o : Nat) : (s.hold k o).me.piM = s.me.piM := by simp [State.hold]
@[simp] theorem State.hold_me_piC (s : State) (k : BitVec 4) (o : Nat) : (s.hold k o).me.piC = s.me.piC := by simp [State.hold]
@[simp] theorem State.hold_me_piF (s : State) (k : BitVec 4) (o : Nat) : (s.hold k o).me.piF = s.me.piF := by simp [State.hold]
@[simp] theorem State.hold_me_spad (s : State) (k : BitVec 4) (o : Nat) : (s.hold k o).me.spad = s.me.spad := by simp [State.hold]
@[simp] theorem State.hold_me_priv (s : State) (k : BitVec 4) (o : Nat) : (s.hold k o).me.priv = s.me.priv := by simp [State.hold]
@[simp] theorem State.hold_me_badSpad (s : State) (k : BitVec 4) (o : Nat) : (s.hold k o).me.badSpad = s.me.badSpad := by simp [State.hold]
@[simp] theorem State.hold_me_badPriv (s : State) (k : BitVec 4) (o : Nat) : (s.hold k o).me.badPriv = s.me.badPriv := by simp [State.hold]
@[simp] theorem State.hold_me_flipSpad (s : State) (k : BitVec 4) (o : Nat) : (s.hold k o).me.flipSpad = s.me.flipSpad := by simp [State.hold]
@[simp] theorem State.hold_me_flipPriv (s : State) (k : BitVec 4) (o : Nat) : (s.hold k o).me.flipPriv = s.me.flipPriv := by simp [State.hold]
@[simp] theorem State.hold_me_m (s : State) (k : BitVec 4) (o : Nat) : (s.hold k o).me.m = s.me.m := by simp [State.hold]
@[simp] theorem State.hold_me_cp (s : State) (k : BitVec 4) (o : Nat) : (s.hold k o).me.cp = s.me.cp := by simp [State.hold]
@[simp] theorem State.hold_me_f (s : State) (k : BitVec 4) (o : Nat) : (s.hold k o).me.f = s.me.f := by simp [State.hold]
@[simp] theorem State.hold_me_hb (s : State) (k : BitVec 4) (o : Nat) : (s.hold k o).me.hb = s.me.hb := by simp [State.hold]

/-! ### State.modInst -/

@[simp] theorem State.modInst_me (s : State) (i : BitVec 4) (f : Inst → Inst) : (s.modInst i f).me = s.me := rfl
@[simp] theorem State.modInst_rest (s : State) (i : BitVec 4) (f : Inst → Inst) : (s.modInst i f).rest = s.rest := rfl
@[simp] theorem State.modInst_cur (s : State) (i : BitVec 4) (f : Inst → Inst) : (s.modInst i f).cur = s.cur := rfl
@[simp] theorem State.modInst_agenda (s : State) (i : BitVec 4) (f : Inst → Inst) : (s.modInst i f).agenda = s.agenda := rfl
@[simp] theorem State.modInst_tick (s : State) (i : BitVec 4) (f : Inst → Inst) : (s.modInst i f).tick = s.tick := rfl
@[simp] theorem State.modInst_cc (s : State) (i : BitVec 4) (f : Inst → Inst) : (s.modInst i f).cc = s.cc := rfl
@[simp] theorem State.modInst_hub (s : State) (i : BitVec 4) (f : Inst → Inst) : (s.modInst i f).hub = s.hub := rfl
@[simp] theorem State.modInst_bdies (s : State) (i : BitVec 4) (f : Inst → Inst) : (s.modInst i f).bdies = s.bdies := rfl
@[simp] theorem State.modInst_ports (s : State) (i : BitVec 4) (f : Inst → Inst) : (s.modInst i f).ports = s.ports := rfl
@[simp] theorem State.modInst_cores (s : State) (i : BitVec 4) (f : Inst → Inst) : (s.modInst i f).cores = s.cores := rfl
@[simp] theorem State.modInst_mem (s : State) (i : BitVec 4) (f : Inst → Inst) : (s.modInst i f).mem = s.mem := rfl
@[simp] theorem State.modInst_sram (s : State) (i : BitVec 4) (f : Inst → Inst) : (s.modInst i f).sram = s.sram := rfl
@[simp] theorem State.modInst_poison (s : State) (i : BitVec 4) (f : Inst → Inst) : (s.modInst i f).poison = s.poison := rfl
@[simp] theorem State.modInst_flips (s : State) (i : BitVec 4) (f : Inst → Inst) : (s.modInst i f).flips = s.flips := rfl
@[simp] theorem State.modInst_sevs (s : State) (i : BitVec 4) (f : Inst → Inst) : (s.modInst i f).sevs = s.sevs := rfl
@[simp] theorem State.modInst_xfers (s : State) (i : BitVec 4) (f : Inst → Inst) : (s.modInst i f).xfers = s.xfers := rfl
@[simp] theorem State.modInst_cuts (s : State) (i : BitVec 4) (f : Inst → Inst) : (s.modInst i f).cuts = s.cuts := rfl
@[simp] theorem State.modInst_moves (s : State) (i : BitVec 4) (f : Inst → Inst) : (s.modInst i f).moves = s.moves := rfl
@[simp] theorem State.modInst_migReqs (s : State) (i : BitVec 4) (f : Inst → Inst) : (s.modInst i f).migReqs = s.migReqs := rfl
@[simp] theorem State.modInst_matches_ (s : State) (i : BitVec 4) (f : Inst → Inst) : (s.modInst i f).matches_ = s.matches_ := rfl
@[simp] theorem State.modInst_marks (s : State) (i : BitVec 4) (f : Inst → Inst) : (s.modInst i f).marks = s.marks := rfl
@[simp] theorem State.modInst_replies (s : State) (i : BitVec 4) (f : Inst → Inst) : (s.modInst i f).replies = s.replies := rfl

/-! ### State.modBdie -/

@[simp] theorem State.modBdie_me (s : State) (b : Nat) (f : BDie → BDie) : (s.modBdie b f).me = s.me := rfl
@[simp] theorem State.modBdie_rest (s : State) (b : Nat) (f : BDie → BDie) : (s.modBdie b f).rest = s.rest := rfl
@[simp] theorem State.modBdie_cur (s : State) (b : Nat) (f : BDie → BDie) : (s.modBdie b f).cur = s.cur := rfl
@[simp] theorem State.modBdie_agenda (s : State) (b : Nat) (f : BDie → BDie) : (s.modBdie b f).agenda = s.agenda := rfl
@[simp] theorem State.modBdie_tick (s : State) (b : Nat) (f : BDie → BDie) : (s.modBdie b f).tick = s.tick := rfl
@[simp] theorem State.modBdie_cc (s : State) (b : Nat) (f : BDie → BDie) : (s.modBdie b f).cc = s.cc := rfl
@[simp] theorem State.modBdie_insts (s : State) (b : Nat) (f : BDie → BDie) : (s.modBdie b f).insts = s.insts := rfl
@[simp] theorem State.modBdie_hub (s : State) (b : Nat) (f : BDie → BDie) : (s.modBdie b f).hub = s.hub := rfl
@[simp] theorem State.modBdie_ports (s : State) (b : Nat) (f : BDie → BDie) : (s.modBdie b f).ports = s.ports := rfl
@[simp] theorem State.modBdie_cores (s : State) (b : Nat) (f : BDie → BDie) : (s.modBdie b f).cores = s.cores := rfl
@[simp] theorem State.modBdie_mem (s : State) (b : Nat) (f : BDie → BDie) : (s.modBdie b f).mem = s.mem := rfl
@[simp] theorem State.modBdie_sram (s : State) (b : Nat) (f : BDie → BDie) : (s.modBdie b f).sram = s.sram := rfl
@[simp] theorem State.modBdie_poison (s : State) (b : Nat) (f : BDie → BDie) : (s.modBdie b f).poison = s.poison := rfl
@[simp] theorem State.modBdie_flips (s : State) (b : Nat) (f : BDie → BDie) : (s.modBdie b f).flips = s.flips := rfl
@[simp] theorem State.modBdie_sevs (s : State) (b : Nat) (f : BDie → BDie) : (s.modBdie b f).sevs = s.sevs := rfl
@[simp] theorem State.modBdie_xfers (s : State) (b : Nat) (f : BDie → BDie) : (s.modBdie b f).xfers = s.xfers := rfl
@[simp] theorem State.modBdie_cuts (s : State) (b : Nat) (f : BDie → BDie) : (s.modBdie b f).cuts = s.cuts := rfl
@[simp] theorem State.modBdie_moves (s : State) (b : Nat) (f : BDie → BDie) : (s.modBdie b f).moves = s.moves := rfl
@[simp] theorem State.modBdie_migReqs (s : State) (b : Nat) (f : BDie → BDie) : (s.modBdie b f).migReqs = s.migReqs := rfl
@[simp] theorem State.modBdie_matches_ (s : State) (b : Nat) (f : BDie → BDie) : (s.modBdie b f).matches_ = s.matches_ := rfl
@[simp] theorem State.modBdie_marks (s : State) (b : Nat) (f : BDie → BDie) : (s.modBdie b f).marks = s.marks := rfl
@[simp] theorem State.modBdie_replies (s : State) (b : Nat) (f : BDie → BDie) : (s.modBdie b f).replies = s.replies := rfl

/-! ### State.modCtx -/

@[simp] theorem State.modCtx_cur (s : State) (i : BitVec 12) (f : Ctx → Ctx) : (s.modCtx i f).cur = s.cur := by unfold State.modCtx; split <;> rfl
@[simp] theorem State.modCtx_agenda (s : State) (i : BitVec 12) (f : Ctx → Ctx) : (s.modCtx i f).agenda = s.agenda := by unfold State.modCtx; split <;> rfl
@[simp] theorem State.modCtx_tick (s : State) (i : BitVec 12) (f : Ctx → Ctx) : (s.modCtx i f).tick = s.tick := by unfold State.modCtx; split <;> rfl
@[simp] theorem State.modCtx_cc (s : State) (i : BitVec 12) (f : Ctx → Ctx) : (s.modCtx i f).cc = s.cc := by unfold State.modCtx; split <;> rfl
@[simp] theorem State.modCtx_insts (s : State) (i : BitVec 12) (f : Ctx → Ctx) : (s.modCtx i f).insts = s.insts := by unfold State.modCtx; split <;> rfl
@[simp] theorem State.modCtx_hub (s : State) (i : BitVec 12) (f : Ctx → Ctx) : (s.modCtx i f).hub = s.hub := by unfold State.modCtx; split <;> rfl
@[simp] theorem State.modCtx_bdies (s : State) (i : BitVec 12) (f : Ctx → Ctx) : (s.modCtx i f).bdies = s.bdies := by unfold State.modCtx; split <;> rfl
@[simp] theorem State.modCtx_ports (s : State) (i : BitVec 12) (f : Ctx → Ctx) : (s.modCtx i f).ports = s.ports := by unfold State.modCtx; split <;> rfl
@[simp] theorem State.modCtx_cores (s : State) (i : BitVec 12) (f : Ctx → Ctx) : (s.modCtx i f).cores = s.cores := by unfold State.modCtx; split <;> rfl
@[simp] theorem State.modCtx_mem (s : State) (i : BitVec 12) (f : Ctx → Ctx) : (s.modCtx i f).mem = s.mem := by unfold State.modCtx; split <;> rfl
@[simp] theorem State.modCtx_sram (s : State) (i : BitVec 12) (f : Ctx → Ctx) : (s.modCtx i f).sram = s.sram := by unfold State.modCtx; split <;> rfl
@[simp] theorem State.modCtx_poison (s : State) (i : BitVec 12) (f : Ctx → Ctx) : (s.modCtx i f).poison = s.poison := by unfold State.modCtx; split <;> rfl
@[simp] theorem State.modCtx_flips (s : State) (i : BitVec 12) (f : Ctx → Ctx) : (s.modCtx i f).flips = s.flips := by unfold State.modCtx; split <;> rfl
@[simp] theorem State.modCtx_sevs (s : State) (i : BitVec 12) (f : Ctx → Ctx) : (s.modCtx i f).sevs = s.sevs := by unfold State.modCtx; split <;> rfl
@[simp] theorem State.modCtx_xfers (s : State) (i : BitVec 12) (f : Ctx → Ctx) : (s.modCtx i f).xfers = s.xfers := by unfold State.modCtx; split <;> rfl
@[simp] theorem State.modCtx_cuts (s : State) (i : BitVec 12) (f : Ctx → Ctx) : (s.modCtx i f).cuts = s.cuts := by unfold State.modCtx; split <;> rfl
@[simp] theorem State.modCtx_moves (s : State) (i : BitVec 12) (f : Ctx → Ctx) : (s.modCtx i f).moves = s.moves := by unfold State.modCtx; split <;> rfl
@[simp] theorem State.modCtx_migReqs (s : State) (i : BitVec 12) (f : Ctx → Ctx) : (s.modCtx i f).migReqs = s.migReqs := by unfold State.modCtx; split <;> rfl
@[simp] theorem State.modCtx_matches_ (s : State) (i : BitVec 12) (f : Ctx → Ctx) : (s.modCtx i f).matches_ = s.matches_ := by unfold State.modCtx; split <;> rfl
@[simp] theorem State.modCtx_marks (s : State) (i : BitVec 12) (f : Ctx → Ctx) : (s.modCtx i f).marks = s.marks := by unfold State.modCtx; split <;> rfl
@[simp] theorem State.modCtx_replies (s : State) (i : BitVec 12) (f : Ctx → Ctx) : (s.modCtx i f).replies = s.replies := by unfold State.modCtx; split <;> rfl

/-! ### State.mapCtxs -/

@[simp] theorem State.mapCtxs_cur (s : State) (f : Ctx → Ctx) : (s.mapCtxs f).cur = s.cur := rfl
@[simp] theorem State.mapCtxs_agenda (s : State) (f : Ctx → Ctx) : (s.mapCtxs f).agenda = s.agenda := rfl
@[simp] theorem State.mapCtxs_tick (s : State) (f : Ctx → Ctx) : (s.mapCtxs f).tick = s.tick := rfl
@[simp] theorem State.mapCtxs_cc (s : State) (f : Ctx → Ctx) : (s.mapCtxs f).cc = s.cc := rfl
@[simp] theorem State.mapCtxs_insts (s : State) (f : Ctx → Ctx) : (s.mapCtxs f).insts = s.insts := rfl
@[simp] theorem State.mapCtxs_hub (s : State) (f : Ctx → Ctx) : (s.mapCtxs f).hub = s.hub := rfl
@[simp] theorem State.mapCtxs_bdies (s : State) (f : Ctx → Ctx) : (s.mapCtxs f).bdies = s.bdies := rfl
@[simp] theorem State.mapCtxs_ports (s : State) (f : Ctx → Ctx) : (s.mapCtxs f).ports = s.ports := rfl
@[simp] theorem State.mapCtxs_cores (s : State) (f : Ctx → Ctx) : (s.mapCtxs f).cores = s.cores := rfl
@[simp] theorem State.mapCtxs_mem (s : State) (f : Ctx → Ctx) : (s.mapCtxs f).mem = s.mem := rfl
@[simp] theorem State.mapCtxs_sram (s : State) (f : Ctx → Ctx) : (s.mapCtxs f).sram = s.sram := rfl
@[simp] theorem State.mapCtxs_poison (s : State) (f : Ctx → Ctx) : (s.mapCtxs f).poison = s.poison := rfl
@[simp] theorem State.mapCtxs_flips (s : State) (f : Ctx → Ctx) : (s.mapCtxs f).flips = s.flips := rfl
@[simp] theorem State.mapCtxs_sevs (s : State) (f : Ctx → Ctx) : (s.mapCtxs f).sevs = s.sevs := rfl
@[simp] theorem State.mapCtxs_xfers (s : State) (f : Ctx → Ctx) : (s.mapCtxs f).xfers = s.xfers := rfl
@[simp] theorem State.mapCtxs_cuts (s : State) (f : Ctx → Ctx) : (s.mapCtxs f).cuts = s.cuts := rfl
@[simp] theorem State.mapCtxs_moves (s : State) (f : Ctx → Ctx) : (s.mapCtxs f).moves = s.moves := rfl
@[simp] theorem State.mapCtxs_migReqs (s : State) (f : Ctx → Ctx) : (s.mapCtxs f).migReqs = s.migReqs := rfl
@[simp] theorem State.mapCtxs_matches_ (s : State) (f : Ctx → Ctx) : (s.mapCtxs f).matches_ = s.matches_ := rfl
@[simp] theorem State.mapCtxs_marks (s : State) (f : Ctx → Ctx) : (s.mapCtxs f).marks = s.marks := rfl
@[simp] theorem State.mapCtxs_replies (s : State) (f : Ctx → Ctx) : (s.mapCtxs f).replies = s.replies := rfl

/-! ### State.vDone -/

@[simp] theorem State.vDone_rest (s : State) (v : VState) (f : Flags) (h : Option (BitVec 8)) : (s.vDone v f h).rest = s.rest := by simp [State.vDone]
@[simp] theorem State.vDone_cur (s : State) (v : VState) (f : Flags) (h : Option (BitVec 8)) : (s.vDone v f h).cur = s.cur := by simp [State.vDone]
@[simp] theorem State.vDone_agenda (s : State) (v : VState) (f : Flags) (h : Option (BitVec 8)) : (s.vDone v f h).agenda = s.agenda := by simp [State.vDone]
@[simp] theorem State.vDone_tick (s : State) (v : VState) (f : Flags) (h : Option (BitVec 8)) : (s.vDone v f h).tick = s.tick := by simp [State.vDone]
@[simp] theorem State.vDone_cc (s : State) (v : VState) (f : Flags) (h : Option (BitVec 8)) : (s.vDone v f h).cc = s.cc := by simp [State.vDone]
@[simp] theorem State.vDone_insts (s : State) (v : VState) (f : Flags) (h : Option (BitVec 8)) : (s.vDone v f h).insts = s.insts := by simp [State.vDone]
@[simp] theorem State.vDone_hub (s : State) (v : VState) (f : Flags) (h : Option (BitVec 8)) : (s.vDone v f h).hub = s.hub := by simp [State.vDone]
@[simp] theorem State.vDone_bdies (s : State) (v : VState) (f : Flags) (h : Option (BitVec 8)) : (s.vDone v f h).bdies = s.bdies := by simp [State.vDone]
@[simp] theorem State.vDone_ports (s : State) (v : VState) (f : Flags) (h : Option (BitVec 8)) : (s.vDone v f h).ports = s.ports := by simp [State.vDone]
@[simp] theorem State.vDone_cores (s : State) (v : VState) (f : Flags) (h : Option (BitVec 8)) : (s.vDone v f h).cores = s.cores := by simp [State.vDone]
@[simp] theorem State.vDone_mem (s : State) (v : VState) (f : Flags) (h : Option (BitVec 8)) : (s.vDone v f h).mem = s.mem := by simp [State.vDone]
@[simp] theorem State.vDone_sram (s : State) (v : VState) (f : Flags) (h : Option (BitVec 8)) : (s.vDone v f h).sram = s.sram := by simp [State.vDone]
@[simp] theorem State.vDone_poison (s : State) (v : VState) (f : Flags) (h : Option (BitVec 8)) : (s.vDone v f h).poison = s.poison := by simp [State.vDone]
@[simp] theorem State.vDone_flips (s : State) (v : VState) (f : Flags) (h : Option (BitVec 8)) : (s.vDone v f h).flips = s.flips := by simp [State.vDone]
@[simp] theorem State.vDone_sevs (s : State) (v : VState) (f : Flags) (h : Option (BitVec 8)) : (s.vDone v f h).sevs = s.sevs := by simp [State.vDone]
@[simp] theorem State.vDone_xfers (s : State) (v : VState) (f : Flags) (h : Option (BitVec 8)) : (s.vDone v f h).xfers = s.xfers := by simp [State.vDone]
@[simp] theorem State.vDone_cuts (s : State) (v : VState) (f : Flags) (h : Option (BitVec 8)) : (s.vDone v f h).cuts = s.cuts := by simp [State.vDone]
@[simp] theorem State.vDone_moves (s : State) (v : VState) (f : Flags) (h : Option (BitVec 8)) : (s.vDone v f h).moves = s.moves := by simp [State.vDone]
@[simp] theorem State.vDone_migReqs (s : State) (v : VState) (f : Flags) (h : Option (BitVec 8)) : (s.vDone v f h).migReqs = s.migReqs := by simp [State.vDone]
@[simp] theorem State.vDone_matches_ (s : State) (v : VState) (f : Flags) (h : Option (BitVec 8)) : (s.vDone v f h).matches_ = s.matches_ := by simp [State.vDone]
@[simp] theorem State.vDone_marks (s : State) (v : VState) (f : Flags) (h : Option (BitVec 8)) : (s.vDone v f h).marks = s.marks := by simp [State.vDone]
@[simp] theorem State.vDone_replies (s : State) (v : VState) (f : Flags) (h : Option (BitVec 8)) : (s.vDone v f h).replies = s.replies := by simp [State.vDone]

/-! ### State.dropFrame -/

@[simp] theorem State.dropFrame_me (s : State) (i : BitVec 12) (k : BitVec 6) : (s.dropFrame i k).me = s.me := rfl
@[simp] theorem State.dropFrame_rest (s : State) (i : BitVec 12) (k : BitVec 6) : (s.dropFrame i k).rest = s.rest := rfl
@[simp] theorem State.dropFrame_cur (s : State) (i : BitVec 12) (k : BitVec 6) : (s.dropFrame i k).cur = s.cur := rfl
@[simp] theorem State.dropFrame_agenda (s : State) (i : BitVec 12) (k : BitVec 6) : (s.dropFrame i k).agenda = s.agenda := rfl
@[simp] theorem State.dropFrame_tick (s : State) (i : BitVec 12) (k : BitVec 6) : (s.dropFrame i k).tick = s.tick := rfl
@[simp] theorem State.dropFrame_cc (s : State) (i : BitVec 12) (k : BitVec 6) : (s.dropFrame i k).cc = s.cc := rfl
@[simp] theorem State.dropFrame_insts (s : State) (i : BitVec 12) (k : BitVec 6) : (s.dropFrame i k).insts = s.insts := rfl
@[simp] theorem State.dropFrame_hub (s : State) (i : BitVec 12) (k : BitVec 6) : (s.dropFrame i k).hub = s.hub := rfl
@[simp] theorem State.dropFrame_bdies (s : State) (i : BitVec 12) (k : BitVec 6) : (s.dropFrame i k).bdies = s.bdies := rfl
@[simp] theorem State.dropFrame_ports (s : State) (i : BitVec 12) (k : BitVec 6) : (s.dropFrame i k).ports = s.ports := rfl
@[simp] theorem State.dropFrame_mem (s : State) (i : BitVec 12) (k : BitVec 6) : (s.dropFrame i k).mem = s.mem := rfl
@[simp] theorem State.dropFrame_sram (s : State) (i : BitVec 12) (k : BitVec 6) : (s.dropFrame i k).sram = s.sram := rfl
@[simp] theorem State.dropFrame_poison (s : State) (i : BitVec 12) (k : BitVec 6) : (s.dropFrame i k).poison = s.poison := rfl
@[simp] theorem State.dropFrame_flips (s : State) (i : BitVec 12) (k : BitVec 6) : (s.dropFrame i k).flips = s.flips := rfl
@[simp] theorem State.dropFrame_sevs (s : State) (i : BitVec 12) (k : BitVec 6) : (s.dropFrame i k).sevs = s.sevs := rfl
@[simp] theorem State.dropFrame_xfers (s : State) (i : BitVec 12) (k : BitVec 6) : (s.dropFrame i k).xfers = s.xfers := rfl
@[simp] theorem State.dropFrame_cuts (s : State) (i : BitVec 12) (k : BitVec 6) : (s.dropFrame i k).cuts = s.cuts := rfl
@[simp] theorem State.dropFrame_moves (s : State) (i : BitVec 12) (k : BitVec 6) : (s.dropFrame i k).moves = s.moves := rfl
@[simp] theorem State.dropFrame_migReqs (s : State) (i : BitVec 12) (k : BitVec 6) : (s.dropFrame i k).migReqs = s.migReqs := rfl
@[simp] theorem State.dropFrame_matches_ (s : State) (i : BitVec 12) (k : BitVec 6) : (s.dropFrame i k).matches_ = s.matches_ := rfl
@[simp] theorem State.dropFrame_marks (s : State) (i : BitVec 12) (k : BitVec 6) : (s.dropFrame i k).marks = s.marks := rfl
@[simp] theorem State.dropFrame_replies (s : State) (i : BitVec 12) (k : BitVec 6) : (s.dropFrame i k).replies = s.replies := rfl

/-! ### State.holdRing -/

@[simp] theorem State.holdRing_rest (s : State) (h : BitVec 8) : (s.holdRing h).rest = s.rest := by simp only [State.holdRing]; split <;> (try split) <;> simp
@[simp] theorem State.holdRing_cur (s : State) (h : BitVec 8) : (s.holdRing h).cur = s.cur := by simp only [State.holdRing]; split <;> (try split) <;> simp
@[simp] theorem State.holdRing_agenda (s : State) (h : BitVec 8) : (s.holdRing h).agenda = s.agenda := by simp only [State.holdRing]; split <;> (try split) <;> simp
@[simp] theorem State.holdRing_tick (s : State) (h : BitVec 8) : (s.holdRing h).tick = s.tick := by simp only [State.holdRing]; split <;> (try split) <;> simp
@[simp] theorem State.holdRing_cc (s : State) (h : BitVec 8) : (s.holdRing h).cc = s.cc := by simp only [State.holdRing]; split <;> (try split) <;> simp
@[simp] theorem State.holdRing_insts (s : State) (h : BitVec 8) : (s.holdRing h).insts = s.insts := by simp only [State.holdRing]; split <;> (try split) <;> simp
@[simp] theorem State.holdRing_hub (s : State) (h : BitVec 8) : (s.holdRing h).hub = s.hub := by simp only [State.holdRing]; split <;> (try split) <;> simp
@[simp] theorem State.holdRing_bdies (s : State) (h : BitVec 8) : (s.holdRing h).bdies = s.bdies := by simp only [State.holdRing]; split <;> (try split) <;> simp
@[simp] theorem State.holdRing_ports (s : State) (h : BitVec 8) : (s.holdRing h).ports = s.ports := by simp only [State.holdRing]; split <;> (try split) <;> simp
@[simp] theorem State.holdRing_cores (s : State) (h : BitVec 8) : (s.holdRing h).cores = s.cores := by simp only [State.holdRing]; split <;> (try split) <;> simp
@[simp] theorem State.holdRing_mem (s : State) (h : BitVec 8) : (s.holdRing h).mem = s.mem := by simp only [State.holdRing]; split <;> (try split) <;> simp
@[simp] theorem State.holdRing_sram (s : State) (h : BitVec 8) : (s.holdRing h).sram = s.sram := by simp only [State.holdRing]; split <;> (try split) <;> simp
@[simp] theorem State.holdRing_poison (s : State) (h : BitVec 8) : (s.holdRing h).poison = s.poison := by simp only [State.holdRing]; split <;> (try split) <;> simp
@[simp] theorem State.holdRing_flips (s : State) (h : BitVec 8) : (s.holdRing h).flips = s.flips := by simp only [State.holdRing]; split <;> (try split) <;> simp
@[simp] theorem State.holdRing_sevs (s : State) (h : BitVec 8) : (s.holdRing h).sevs = s.sevs := by simp only [State.holdRing]; split <;> (try split) <;> simp
@[simp] theorem State.holdRing_xfers (s : State) (h : BitVec 8) : (s.holdRing h).xfers = s.xfers := by simp only [State.holdRing]; split <;> (try split) <;> simp
@[simp] theorem State.holdRing_cuts (s : State) (h : BitVec 8) : (s.holdRing h).cuts = s.cuts := by simp only [State.holdRing]; split <;> (try split) <;> simp
@[simp] theorem State.holdRing_moves (s : State) (h : BitVec 8) : (s.holdRing h).moves = s.moves := by simp only [State.holdRing]; split <;> (try split) <;> simp
@[simp] theorem State.holdRing_migReqs (s : State) (h : BitVec 8) : (s.holdRing h).migReqs = s.migReqs := by simp only [State.holdRing]; split <;> (try split) <;> simp
@[simp] theorem State.holdRing_matches_ (s : State) (h : BitVec 8) : (s.holdRing h).matches_ = s.matches_ := by simp only [State.holdRing]; split <;> (try split) <;> simp
@[simp] theorem State.holdRing_marks (s : State) (h : BitVec 8) : (s.holdRing h).marks = s.marks := by simp only [State.holdRing]; split <;> (try split) <;> simp
@[simp] theorem State.holdRing_replies (s : State) (h : BitVec 8) : (s.holdRing h).replies = s.replies := by simp only [State.holdRing]; split <;> (try split) <;> simp

/-! ### State.freeRing -/

@[simp] theorem State.freeRing_rest (s : State) : (s.freeRing).rest = s.rest := by unfold State.freeRing; split <;> (first | rfl | rw [State.setStrm_rest])
@[simp] theorem State.freeRing_cur (s : State) : (s.freeRing).cur = s.cur := by unfold State.freeRing; split <;> (first | rfl | rw [State.setStrm_cur])
@[simp] theorem State.freeRing_agenda (s : State) : (s.freeRing).agenda = s.agenda := by unfold State.freeRing; split <;> (first | rfl | rw [State.setStrm_agenda])
@[simp] theorem State.freeRing_tick (s : State) : (s.freeRing).tick = s.tick := by unfold State.freeRing; split <;> (first | rfl | rw [State.setStrm_tick])
@[simp] theorem State.freeRing_cc (s : State) : (s.freeRing).cc = s.cc := by unfold State.freeRing; split <;> (first | rfl | rw [State.setStrm_cc])
@[simp] theorem State.freeRing_insts (s : State) : (s.freeRing).insts = s.insts := by unfold State.freeRing; split <;> (first | rfl | rw [State.setStrm_insts])
@[simp] theorem State.freeRing_hub (s : State) : (s.freeRing).hub = s.hub := by unfold State.freeRing; split <;> (first | rfl | rw [State.setStrm_hub])
@[simp] theorem State.freeRing_bdies (s : State) : (s.freeRing).bdies = s.bdies := by unfold State.freeRing; split <;> (first | rfl | rw [State.setStrm_bdies])
@[simp] theorem State.freeRing_ports (s : State) : (s.freeRing).ports = s.ports := by unfold State.freeRing; split <;> (first | rfl | rw [State.setStrm_ports])
@[simp] theorem State.freeRing_cores (s : State) : (s.freeRing).cores = s.cores := by unfold State.freeRing; split <;> (first | rfl | rw [State.setStrm_cores])
@[simp] theorem State.freeRing_mem (s : State) : (s.freeRing).mem = s.mem := by unfold State.freeRing; split <;> (first | rfl | rw [State.setStrm_mem])
@[simp] theorem State.freeRing_sram (s : State) : (s.freeRing).sram = s.sram := by unfold State.freeRing; split <;> (first | rfl | rw [State.setStrm_sram])
@[simp] theorem State.freeRing_poison (s : State) : (s.freeRing).poison = s.poison := by unfold State.freeRing; split <;> (first | rfl | rw [State.setStrm_poison])
@[simp] theorem State.freeRing_flips (s : State) : (s.freeRing).flips = s.flips := by unfold State.freeRing; split <;> (first | rfl | rw [State.setStrm_flips])
@[simp] theorem State.freeRing_sevs (s : State) : (s.freeRing).sevs = s.sevs := by unfold State.freeRing; split <;> (first | rfl | rw [State.setStrm_sevs])
@[simp] theorem State.freeRing_xfers (s : State) : (s.freeRing).xfers = s.xfers := by unfold State.freeRing; split <;> (first | rfl | rw [State.setStrm_xfers])
@[simp] theorem State.freeRing_cuts (s : State) : (s.freeRing).cuts = s.cuts := by unfold State.freeRing; split <;> (first | rfl | rw [State.setStrm_cuts])
@[simp] theorem State.freeRing_moves (s : State) : (s.freeRing).moves = s.moves := by unfold State.freeRing; split <;> (first | rfl | rw [State.setStrm_moves])
@[simp] theorem State.freeRing_migReqs (s : State) : (s.freeRing).migReqs = s.migReqs := by unfold State.freeRing; split <;> (first | rfl | rw [State.setStrm_migReqs])
@[simp] theorem State.freeRing_matches_ (s : State) : (s.freeRing).matches_ = s.matches_ := by unfold State.freeRing; split <;> (first | rfl | rw [State.setStrm_matches_])
@[simp] theorem State.freeRing_marks (s : State) : (s.freeRing).marks = s.marks := by unfold State.freeRing; split <;> (first | rfl | rw [State.setStrm_marks])
@[simp] theorem State.freeRing_replies (s : State) : (s.freeRing).replies = s.replies := by unfold State.freeRing; split <;> (first | rfl | rw [State.setStrm_replies])

/-- The current stream after it is replaced. -/
@[simp] theorem State.setStrm_strm (s : State) (st : Strm) : (s.setStrm st).strm = st := by
  rcases hc : s.cur.st
  case v => by_cases hf : s.me.v.forked = true <;> simp [State.setStrm, State.strm, hc, hf]
  all_goals simp [State.setStrm, State.strm, hc]

/-- The current stream after its instruction retires. -/
@[simp] theorem State.retire_strm (s : State) : s.retire.strm = s.strm.next (s.strm.pc + 4) s.cc := by
  simp [State.retire]

/-- The current stream after its instruction retires to an address. -/
@[simp] theorem State.retireTo_strm (s : State) (pc : W64) : (s.retireTo pc).strm = s.strm.next pc s.cc := by
  simp [State.retireTo]

/-- The current stream after its instruction holds. -/
@[simp] theorem State.hold_strm (s : State) (k : BitVec 4) (o : Nat) : (s.hold k o).strm = s.strm.held k o s.me.runCc := by
  simp [State.hold]

end Sys2Proof.Machine
end

