-- ==== Sys2Proof/Laws/Ops.lean ====
section
/-! SUPPORT. What the shared operations of the S stream and the trap do, each said once in the words of Safety.lean. -/

namespace Sys2Proof.Machine

/-! ### Bytes -/

/-- The scratchpad of the context found by CTXID depends on the focus only through its id, life and scratchpad. -/
theorem ctx?_spad {s t : State} (hid : t.me.id = s.me.id) (hl : t.me.life = s.me.life) (hr : t.rest = s.rest)
    (hs : t.me.spad = s.me.spad) (i : BitVec 12) : (t.ctx? i).map Ctx.spad = (s.ctx? i).map Ctx.spad := by
  unfold State.ctx? State.ctxs
  rw [hl, hr]
  split
  · rfl
  · by_cases h : s.me.id = i
    · rw [List.find?_cons_of_pos (by simpa [hid] using h), List.find?_cons_of_pos (by simpa using h)]
      simp [hs]
    · rw [List.find?_cons_of_neg (by simpa [hid] using h), List.find?_cons_of_neg (by simpa using h)]

/-- CTXIDs of one instance differ when the logical cores do (R11). -/
theorem ctxIdOf_inj {i : BitVec 12} {n : Nat} (hn : n < 256) (h : ctxIdOf (instOf i) n = i) : n = lcoreOf i := by
  have h2 := congrArg BitVec.toNat h
  simp only [ctxIdOf, instOf, BitVec.toNat_ofNat, BitVec.extractLsb'_toNat] at h2
  unfold lcoreOf
  omega

/-- A byte depends on the memories alone. -/
theorem byteAt_of_ctx {s t : State} (hm : t.mem = s.mem) (hid : t.me.id = s.me.id)
    (hr : ∀ i, (t.ctx? i).map Ctx.spad = (s.ctx? i).map Ctx.spad) (hs : t.me.spad = s.me.spad)
    (hp : t.me.priv = s.me.priv) (l : Loc) (k : Nat) : byteAt t l k = byteAt s l k := by
  cases l with
  | glob pa va => simp [byteAt, hm]
  | priv off => simp [byteAt, hp]
  | spad core off =>
    have h := congrArg (Option.map fun m : Mem => m.get (off + k)) (hr (ctxIdOf (instOf s.me.id) core))
    rw [Option.map_map, Option.map_map] at h
    have hc : t.me.lcore = s.me.lcore := by unfold Ctx.lcore; rw [hid]
    show (if core = t.me.lcore then t.me.spad.get (off + k)
        else ((t.ctx? (ctxIdOf (instOf t.me.id) core)).map fun d => d.spad.get (off + k)).getD 0) = _
    rw [hc, hid, hs]
    by_cases he : core = s.me.lcore
    · rw [if_pos he]; exact (if_pos he).symm
    · rw [if_neg he]
      exact (congrArg (fun o => o.getD 0) h).trans (if_neg he).symm

/-- A byte depends on the memories alone. -/
theorem byteAt_congr {s t : State} (hm : t.mem = s.mem) (hid : t.me.id = s.me.id) (hl : t.me.life = s.me.life)
    (hr : t.rest = s.rest) (hs : t.me.spad = s.me.spad) (hp : t.me.priv = s.me.priv) (l : Loc) (k : Nat) :
    byteAt t l k = byteAt s l k := byteAt_of_ctx hm hid (ctx?_spad hid hl hr hs) hs hp l k

/-- Equal memories read the same. -/
theorem sameBytes_of {s t : State} (hm : t.mem = s.mem) (hid : t.me.id = s.me.id) (hl : t.me.life = s.me.life)
    (hr : t.rest = s.rest) (hs : t.me.spad = s.me.spad) (hp : t.me.priv = s.me.priv) : SameBytes s t :=
  fun l => byteAt_congr hm hid hl hr hs hp l 0

/-! ### The S stream -/

/-- The stream after an instruction that retires to pc. -/
theorem Strm.next_goesOn (st : Strm) (pc : W64) (cc : Nat) : GoesOn st (st.next pc cc) pc cc :=
  ⟨rfl, rfl, rfl, rfl, rfl, rfl⟩

/-- A write of no register. -/
@[simp] theorem Ctx.wg_zero (c : Ctx) (v : W64) (t : Bool) : c.wg 0 v t = c := by unfold Ctx.wg; rw [if_pos rfl]

/-- A g register after a write. -/
theorem gWrite_wg {s t : State} {d : BitVec 5} {v : W64} {tn : Bool} (hg : t.me.g = (s.me.wg d v tn).g)
    (ht : t.me.taint = (s.me.wg d v tn).taint) : GWrite s t d v tn := by
  intro r
  have h1 : t.me.rg r = (s.me.wg d v tn).rg r := by unfold Ctx.rg; rw [hg]
  have h2 : t.me.tnt r = (s.me.wg d v tn).tnt r := by unfold Ctx.tnt; rw [ht]
  rw [h1, h2, Ctx.wg_rg, Ctx.wg_tnt]
  exact ⟨rfl, rfl⟩

/-- What an S instruction with a result does, whatever its result and next address. -/
theorem sWrote_of (s : State) (d : BitVec 5) (v : W64) (tn : Bool) (f : Flags) (pc : W64) :
    SWrote s (({ s with me := (s.me.raiseFl f).wg d v tn }).retireSTo pc) d v tn (f.setWidth 32) pc := by
  refine ⟨gWrite_wg ?_ ?_, ?_, ?_, ?_, sameBytes_of rfl ?_ ?_ rfl ?_ ?_⟩
  · simp only [State.retireSTo_me_g]; unfold Ctx.wg; split <;> simp
  · simp only [State.retireSTo_me_taint]; unfold Ctx.wg; split <;> simp
  · simp [Ctx.raiseFl]
  · simpa [State.retireSTo] using Strm.next_goesOn ..
  · unfold Ctx.wg State.retireSTo; split <;> (simp only [Ctx.raiseFl, Ctx.raise]; split <;> rfl)
  all_goals simp

/-- `State.putS`: the result, its flags, and the next instruction (R16, R92). -/
theorem State.putS_wrote (s : State) (d : BitVec 5) (v : W64) (tn : Bool) (f : Flags) :
    SWrote s (s.putS d v tn f) d v tn (f.setWidth 32) (s.me.s.pc + 4) := by
  have := sWrote_of s d v tn f (s.me.s.pc + 4)
  have e : ({ s with me := (s.me.raiseFl f).wg d v tn } : State).retireSTo (s.me.s.pc + 4) = s.putS d v tn f := by
    simp [State.putS, State.retireS, State.retireSTo]
  rwa [e] at this

/-- A result without flags, retiring to an address. -/
theorem State.wg_retireSTo_wrote (s : State) (d : BitVec 5) (v : W64) (tn : Bool) (pc : W64) :
    SWrote s (({ s with me := s.me.wg d v tn }).retireSTo pc) d v tn 0 pc := by
  have := sWrote_of s d v tn 0 pc
  have e : s.me.raiseFl 0 = s.me := by simp [Ctx.raiseFl, Ctx.raise]
  rw [e] at this
  exact this

/-- An S instruction that only goes on. -/
theorem State.retireSTo_moved (s : State) (pc : W64) : SMoved s (s.retireSTo pc) pc := by
  have h := State.wg_retireSTo_wrote s 0 0 false pc
  rw [Ctx.wg_zero] at h
  exact h

/-- An S instruction that only goes on past itself. -/
theorem State.retireS_moved (s : State) : SMoved s s.retireS (s.me.s.pc + 4) := State.retireSTo_moved s _

/-! ### Traps -/

/-- A foldl whose step keeps a value keeps it. -/
theorem foldl_keep {α β γ : Type} (p : β → γ) (f : β → α → β) (h : ∀ b a, p (f b a) = p b) (l : List α) (b : β) :
    p (l.foldl f b) = p b := by
  induction l generalizing b with
  | nil => rfl
  | cons a t ih => exact (ih (f b a)).trans (h b a)

/-- The fields that settling the V instructions in flight leaves alone (R164). -/
theorem Ctx.settleV_keep {γ : Type} (p : Ctx → γ) (hr : ∀ c n r, p { c with nflags := n, raised := r } = p c)
    (hb : ∀ c h, p (Ctx.busyDown c h) = p c) (hv : ∀ c v, p { c with v := v } = p c) (c : Ctx) : p c.settleV = p c := by
  have hr' : ∀ c f, p (Ctx.raise c f) = p c := fun c f => by
    unfold Ctx.raise; split
    · rfl
    · exact hr _ _ _
  unfold Ctx.settleV
  refine (hv _ _).trans (foldl_keep p _ (fun c q => ?_) _ _)
  simp only
  split
  · rw [hb, hr']
  · exact hr' _ _

/-- What the record changes (R329): every kept field is one that neither flags, tiles, V, M, copies, fabric nor the streams hold. -/
theorem Ctx.record_keep {γ : Type} (p : Ctx → γ) (hr : ∀ c n r, p { c with nflags := n, raised := r } = p c)
    (hb : ∀ c h, p (Ctx.busyDown c h) = p c) (hv : ∀ c v, p { c with v := v } = p c) (hm : ∀ c m, p { c with m := m } = p c)
    (hk : ∀ c l, p { c with cp := { c.cp with copies := l } } = p c) (hf : ∀ c f, p { c with f := f } = p c)
    (hs : ∀ c q t x y z a v, p { c with sq := q, t := t, s := x, e := y, c := z, arrived := a, v := v } = p c)
    (c : Ctx) (cl : Option (BitVec 4)) : p (c.record cl) = p c := by
  unfold Ctx.record
  refine (hs _ _ _ _ _ _ _ _).trans ?_
  unfold Ctx.settleF Ctx.restartC Ctx.restartM
  rw [hf, hk, hm, Ctx.settleV_keep p hr hb hv]

/-- Settling and stopping the engines leaves the streams and the trap registers. -/
theorem Ctx.stopped_keep {γ : Type} (p : Ctx → γ) (hr : ∀ c n r, p { c with nflags := n, raised := r } = p c)
    (hb : ∀ c h, p (Ctx.busyDown c h) = p c) (hv : ∀ c v, p { c with v := v } = p c) (hm : ∀ c m, p { c with m := m } = p c)
    (hk : ∀ c l, p { c with cp := { c.cp with copies := l } } = p c) (hf : ∀ c f, p { c with f := f } = p c) (c : Ctx) :
    p c.settleV.restartM.restartC.settleF = p c := by
  unfold Ctx.settleF Ctx.restartC Ctx.restartM
  rw [hf, hk, hm, Ctx.settleV_keep p hr hb hv]

/-- A demotion changes the demotion bits alone (R279). -/
theorem State.demote_keep (s : State) (i : BitVec 4) :
    ∃ b, (s.demote i).me = { s.me with demoted := b } ∧
      (s.demote i) = { s with me := { s.me with demoted := b }, rest := (s.demote i).rest } ∧
      (s.demote i).rest.map (fun c => (c.id, c.spad)) = s.rest.map fun c => (c.id, c.spad) := by
  unfold State.demote
  split
  · unfold State.mapCtxs
    by_cases hl : s.me.life = .none
    · refine ⟨s.me.demoted, ?_, ?_, by simp; intro c _; split <;> simp⟩
      · show (if s.me.life = .none then _ else _) = _; rw [if_pos hl]
      · simp only [if_pos hl]
    · by_cases hi : instOf s.me.id = i
      · exact ⟨true, by simp [hl, hi], by simp [hl, hi], by simp; intro c _; split <;> simp⟩
      · exact ⟨s.me.demoted, by simp [hl, hi], by simp [hl, hi], by simp; intro c _; split <;> simp⟩
  · exact ⟨s.me.demoted, rfl, rfl, rfl⟩

/-- Scratchpads by CTXID depend on the ids and scratchpads of the contexts alone. -/
theorem ctx?_spad_map {s t : State} (hid : t.me.id = s.me.id) (hl : t.me.life = s.me.life) (hs : t.me.spad = s.me.spad)
    (hr : t.rest.map (fun c => (c.id, c.spad)) = s.rest.map fun c => (c.id, c.spad)) (i : BitVec 12) :
    (t.ctx? i).map Ctx.spad = (s.ctx? i).map Ctx.spad := by
  have key : ∀ l m : List Ctx, l.map (fun c => (c.id, c.spad)) = m.map (fun c => (c.id, c.spad)) →
      (l.find? fun c => c.id == i).map Ctx.spad = (m.find? fun c => c.id == i).map Ctx.spad := by
    intro l
    induction l with
    | nil => intro m h; cases m with | nil => rfl | cons => simp at h
    | cons c l ih =>
      intro m h
      cases m with
      | nil => simp at h
      | cons d m =>
        simp only [List.map_cons, List.cons.injEq, Prod.mk.injEq] at h
        obtain ⟨⟨h1, h2⟩, h3⟩ := h
        simp only [List.find?_cons, h1]
        split
        · simp [h2]
        · exact ih m h3
  unfold State.ctx? State.ctxs
  rw [hl]
  split
  · exact key _ _ hr
  · exact key _ _ (by simp [hid, hs, hr])

/-- Handler entry of a context that has a handler, for a cause other than FOLIO_ABSENT (R331). -/
theorem State.takeTrapFrom_entry (s : State) (cl : Option (BitVec 4)) (cause : BitVec 7) (tval : W64) (h : CanHandle s)
    (hc : cause ≠ 0x20) : TrapEntry s (s.takeTrapFrom cl cause tval) cause tval := by
  obtain ⟨-, h1, h2, h3⟩ := h
  obtain ⟨b, hm, hd, hr⟩ := s.demote_keep (instOf s.me.id)
  generalize hs1 : s.demote (instOf s.me.id) = s1 at hm hd hr
  have e : s.takeTrapFrom cl cause tval = { s1 with me := (let c := (s1.me.record cl).dropLoad
      { c with t := { c.t with cause := cause, tval := tval, kept := none, hmode := true },
               s := { c.s with pc := alignPc s.me.t.tvec, halted := false } }) } := by
    unfold State.takeTrapFrom
    simp only [hs1]
    have a1 : s1.me.t.hmode = false := by rw [hm]; exact h1
    have a2 : s1.hub.funcmode.getLsbD 2 = false := by rw [hd]; exact h2
    have a3 : s1.me.t.tvec = s.me.t.tvec := by rw [hm]
    have a2' : s1.hub.funcmode[2] = false := a2
    have hc' : ¬ cause = 32#7 := hc
    have h3' : ¬ s.me.t.tvec = 0#64 := h3
    simp [a1, a2', a3, hc', h3']
  have hmem : s1.mem = s.mem := by rw [hd]
  have hhub : s1.hub = s.hub := by rw [hd]
  have hins : s1.insts = s.insts := by rw [hd]
  have k := fun {γ : Type} (p : Ctx → γ) => @Ctx.record_keep γ p
  have q := fun {γ : Type} (p : Ctx → γ) => @Ctx.stopped_keep γ p
  rw [e]
  refine ⟨rfl, rfl, ?_, ?_, rfl, rfl, rfl, rfl, ?_, ?_, fun r => ⟨?_, ?_⟩, ?_, ?_, ?_, ?_, ?_, ?_, ?_, ?_, ?_⟩
  · show s1.me.settleV.restartM.restartC.settleF.s.restart = _
    rw [q (·.s.restart) (fun _ _ _ => rfl) (fun _ _ => rfl) (fun _ _ => rfl) (fun _ _ => rfl) (fun _ _ => rfl) (fun _ _ => rfl), hm]
  · show s1.me.settleV.restartM.restartC.settleF.s.seq = _
    rw [q (·.s.seq) (fun _ _ _ => rfl) (fun _ _ => rfl) (fun _ _ => rfl) (fun _ _ => rfl) (fun _ _ => rfl) (fun _ _ => rfl), hm]
  · show s1.me.settleV.restartM.restartC.settleF.t.tvec = _
    rw [q (·.t.tvec) (fun _ _ _ => rfl) (fun _ _ => rfl) (fun _ _ => rfl) (fun _ _ => rfl) (fun _ _ => rfl) (fun _ _ => rfl), hm]
  · show s1.me.settleV.restartM.restartC.settleF.t.fvec = _
    rw [q (·.t.fvec) (fun _ _ _ => rfl) (fun _ _ => rfl) (fun _ _ => rfl) (fun _ _ => rfl) (fun _ _ => rfl) (fun _ _ => rfl), hm]
  · show (s1.me.record cl).rg r = _
    rw [k (·.rg r) (fun _ _ _ => rfl) (fun _ _ => rfl) (fun _ _ => rfl) (fun _ _ => rfl) (fun _ _ => rfl) (fun _ _ => rfl)
      (fun _ _ _ _ _ _ _ _ => rfl), hm]
    rfl
  · show (s1.me.record cl).tnt r = _
    rw [k (·.tnt r) (fun _ _ _ => rfl) (fun _ _ => rfl) (fun _ _ => rfl) (fun _ _ => rfl) (fun _ _ => rfl) (fun _ _ => rfl)
      (fun _ _ _ _ _ _ _ _ => rfl), hm]
    rfl
  · have hid : (s1.me.record cl).id = s.me.id := by
      rw [k (·.id) (fun _ _ _ => rfl) (fun _ _ => rfl) (fun _ _ => rfl) (fun _ _ => rfl) (fun _ _ => rfl) (fun _ _ => rfl)
        (fun _ _ _ _ _ _ _ _ => rfl), hm]
    have hl : (s1.me.record cl).life = s.me.life := by
      rw [k (·.life) (fun _ _ _ => rfl) (fun _ _ => rfl) (fun _ _ => rfl) (fun _ _ => rfl) (fun _ _ => rfl) (fun _ _ => rfl)
        (fun _ _ _ _ _ _ _ _ => rfl), hm]
    have hsp : (s1.me.record cl).spad = s.me.spad := by
      rw [k (·.spad) (fun _ _ _ => rfl) (fun _ _ => rfl) (fun _ _ => rfl) (fun _ _ => rfl) (fun _ _ => rfl) (fun _ _ => rfl)
        (fun _ _ _ _ _ _ _ _ => rfl), hm]
    have hpr : (s1.me.record cl).priv = s.me.priv := by
      rw [k (·.priv) (fun _ _ _ => rfl) (fun _ _ => rfl) (fun _ _ => rfl) (fun _ _ => rfl) (fun _ _ => rfl) (fun _ _ => rfl)
        (fun _ _ _ _ _ _ _ _ => rfl), hm]
    intro l
    apply byteAt_of_ctx
    · exact hmem
    · exact hid
    · intro i
      apply ctx?_spad_map
      · exact hid
      · exact hl
      · exact hsp
      · exact hr
    · exact hsp
    · exact hpr
  all_goals first
    | exact hhub
    | exact hins
    | (show (s1.me.record cl).gd = _
       rw [k (·.gd) (fun _ _ _ => rfl) (fun _ _ => rfl) (fun _ _ => rfl) (fun _ _ => rfl) (fun _ _ => rfl) (fun _ _ => rfl)
         (fun _ _ _ _ _ _ _ _ => rfl), hm])
    | (show (s1.me.record cl).tok = _
       rw [k (·.tok) (fun _ _ _ => rfl) (fun _ _ => rfl) (fun _ _ => rfl) (fun _ _ => rfl) (fun _ _ => rfl) (fun _ _ => rfl)
         (fun _ _ _ _ _ _ _ _ => rfl), hm])
    | (show (s1.me.record cl).rn = _
       rw [k (·.rn) (fun _ _ _ => rfl) (fun _ _ => rfl) (fun _ _ => rfl) (fun _ _ => rfl) (fun _ _ => rfl) (fun _ _ => rfl)
         (fun _ _ _ _ _ _ _ _ => rfl), hm])
    | (show (s1.me.record cl).cp.a = _
       rw [k (·.cp.a) (fun _ _ _ => rfl) (fun _ _ => rfl) (fun _ _ => rfl) (fun _ _ => rfl) (fun _ _ => rfl) (fun _ _ => rfl)
         (fun _ _ _ _ _ _ _ _ => rfl), hm])
    | (show (s1.me.record cl).moddef = _
       rw [k (·.moddef) (fun _ _ _ => rfl) (fun _ _ => rfl) (fun _ _ => rfl) (fun _ _ => rfl) (fun _ _ => rfl) (fun _ _ => rfl)
         (fun _ _ _ _ _ _ _ _ => rfl), hm])
    | (show s1.me.settleV.restartM.restartC.settleF.sq.stop = _
       rw [q (·.sq.stop) (fun _ _ _ => rfl) (fun _ _ => rfl) (fun _ _ => rfl) (fun _ _ => rfl) (fun _ _ => rfl) (fun _ _ => rfl),
         hm])

end Sys2Proof.Machine
end

