-- ==== Sys2Proof/Laws/Word.lean ====
section
/-! SUPPORT. Lemmas about the fields of a word and about the last checks of the decoder. -/

namespace Sys2Proof.Laws

/-- A field of a word from its arithmetic. -/
theorem fld_eq {w : W32} {lo n : Nat} {x : BitVec n} (h : w.toNat / 2 ^ lo % 2 ^ n = x.toNat) : fld w lo n = x := by
  apply BitVec.eq_of_toNat_eq
  simpa [fld, Nat.shiftRight_eq_div_pow] using h

/-- A field that is zero. -/
theorem fld_zero {w : W32} {lo n : Nat} (h : w.toNat / 2 ^ lo % 2 ^ n = 0) : fld w lo n = 0 := fld_eq (by simpa using h)

/-- A field held in two places. -/
theorem fld_cat {w : W32} {lo n lo' n' : Nat} {x : BitVec (n + n')}
    (h : w.toNat / 2 ^ lo % 2 ^ n * 2 ^ n' + w.toNat / 2 ^ lo' % 2 ^ n' = x.toNat) : fld w lo n ++ fld w lo' n' = x := by
  apply BitVec.eq_of_toNat_eq
  rw [BitVec.toNat_append, ← Nat.shiftLeft_add_eq_or_of_lt (BitVec.isLt _), Nat.shiftLeft_eq]
  simpa [fld, Nat.shiftRight_eq_div_pow] using h

/-- No reserved field. -/
theorem resv_nil {w : W32} : ∀ p ∈ ([] : List (Nat × Nat)), w.toNat / 2 ^ p.1 % 2 ^ p.2 = 0 := by simp

/-- One more reserved field, zero. -/
theorem resv_cons {w : W32} {a b : Nat} {l : List (Nat × Nat)} (h : w.toNat / 2 ^ a % 2 ^ b = 0)
    (t : ∀ p ∈ l, w.toNat / 2 ^ p.1 % 2 ^ p.2 = 0) : ∀ p ∈ (a, b) :: l, w.toNat / 2 ^ p.1 % 2 ^ p.2 = 0 := by
  simpa [h] using t

/-- The decoder accepts a word whose checks all pass. -/
theorem finish_ok {st : Stream} {w : W32} {i : Instr} {r : List (Nat × Nat)} (hf : fnAssigned i = true)
    (hv : valuesOk st i = true) (hr : ∀ p ∈ r, w.toNat / 2 ^ p.1 % 2 ^ p.2 = 0) : finish st w i r = .ok i := by
  have : (r.any fun p => w.toNat / 2 ^ p.1 % 2 ^ p.2 != 0) = false := by simpa using hr
  simp only [finish, hf, hv, this]; rfl

/-- The number of an encoded word. -/
theorem enc {i : Instr} {n : Nat} (h : encodeNat i = n) (hn : n < 2 ^ 32) : (encode i).toNat = n := by
  rw [encode, h, BitVec.toNat_ofNat, Nat.mod_eq_of_lt hn]

/-- A word laid out in fields of the widths named, the highest first: its opcode and its fields. -/
theorem Layout.w5_5_5_10 {n op x20 x15 x10 x0 : Nat} (b20 : x20 < 2 ^ 5) (b15 : x15 < 2 ^ 5) (b10 : x10 < 2 ^ 5) (b0 : x0 < 2 ^ 10)
    (e : n = op * 0x2000000 + x20 * 2 ^ 20 + x15 * 2 ^ 15 + x10 * 2 ^ 10 + x0 * 2 ^ 0) :
    n / 0x2000000 = op ∧ n / 2 ^ 20 % 2 ^ 5 = x20 ∧ n / 2 ^ 15 % 2 ^ 5 = x15 ∧ n / 2 ^ 10 % 2 ^ 5 = x10 ∧ n / 2 ^ 0 % 2 ^ 10 = x0 := by
  refine ⟨?_, ?_, ?_, ?_, ?_⟩ <;> omega

/-- A word laid out in fields of the widths named, the highest first: its opcode and its fields. -/
theorem Layout.w5_5_15 {n op x20 x15 x0 : Nat} (b20 : x20 < 2 ^ 5) (b15 : x15 < 2 ^ 5) (b0 : x0 < 2 ^ 15)
    (e : n = op * 0x2000000 + x20 * 2 ^ 20 + x15 * 2 ^ 15 + x0 * 2 ^ 0) :
    n / 0x2000000 = op ∧ n / 2 ^ 20 % 2 ^ 5 = x20 ∧ n / 2 ^ 15 % 2 ^ 5 = x15 ∧ n / 2 ^ 0 % 2 ^ 15 = x0 := by
  refine ⟨?_, ?_, ?_, ?_⟩ <;> omega

/-- A word laid out in fields of the widths named, the highest first: its opcode and its fields. -/
theorem Layout.w5_5_9_6 {n op x20 x15 x6 x0 : Nat} (b20 : x20 < 2 ^ 5) (b15 : x15 < 2 ^ 5) (b6 : x6 < 2 ^ 9) (b0 : x0 < 2 ^ 6)
    (e : n = op * 0x2000000 + x20 * 2 ^ 20 + x15 * 2 ^ 15 + x6 * 2 ^ 6 + x0 * 2 ^ 0) :
    n / 0x2000000 = op ∧ n / 2 ^ 20 % 2 ^ 5 = x20 ∧ n / 2 ^ 15 % 2 ^ 5 = x15 ∧ n / 2 ^ 6 % 2 ^ 9 = x6 ∧ n / 2 ^ 0 % 2 ^ 6 = x0 := by
  refine ⟨?_, ?_, ?_, ?_, ?_⟩ <;> omega

/-- A word laid out in fields of the widths named, the highest first: its opcode and its fields. -/
theorem Layout.w5_20 {n op x20 x0 : Nat} (b20 : x20 < 2 ^ 5) (b0 : x0 < 2 ^ 20)
    (e : n = op * 0x2000000 + x20 * 2 ^ 20 + x0 * 2 ^ 0) :
    n / 0x2000000 = op ∧ n / 2 ^ 20 % 2 ^ 5 = x20 ∧ n / 2 ^ 0 % 2 ^ 20 = x0 := by
  refine ⟨?_, ?_, ?_⟩ <;> omega

/-- A word laid out in fields of the widths named, the highest first: its opcode and its fields. -/
theorem Layout.w5_5_2_13 {n op x20 x15 x13 x0 : Nat} (b20 : x20 < 2 ^ 5) (b15 : x15 < 2 ^ 5) (b13 : x13 < 2 ^ 2) (b0 : x0 < 2 ^ 13)
    (e : n = op * 0x2000000 + x20 * 2 ^ 20 + x15 * 2 ^ 15 + x13 * 2 ^ 13 + x0 * 2 ^ 0) :
    n / 0x2000000 = op ∧ n / 2 ^ 20 % 2 ^ 5 = x20 ∧ n / 2 ^ 15 % 2 ^ 5 = x15 ∧ n / 2 ^ 13 % 2 ^ 2 = x13 ∧ n / 2 ^ 0 % 2 ^ 13 = x0 := by
  refine ⟨?_, ?_, ?_, ?_, ?_⟩ <;> omega

/-- A word laid out in fields of the widths named, the highest first: its opcode and its fields. -/
theorem Layout.w14_3_8 {n op x11 x8 x0 : Nat} (b11 : x11 < 2 ^ 14) (b8 : x8 < 2 ^ 3) (b0 : x0 < 2 ^ 8)
    (e : n = op * 0x2000000 + x11 * 2 ^ 11 + x8 * 2 ^ 8 + x0 * 2 ^ 0) :
    n / 0x2000000 = op ∧ n / 2 ^ 11 % 2 ^ 14 = x11 ∧ n / 2 ^ 8 % 2 ^ 3 = x8 ∧ n / 2 ^ 0 % 2 ^ 8 = x0 := by
  refine ⟨?_, ?_, ?_, ?_⟩ <;> omega

/-- A word laid out in fields of the widths named, the highest first: its opcode and its fields. -/
theorem Layout.w5_5_5_5_1_4 {n op x20 x15 x10 x5 x4 x0 : Nat} (b20 : x20 < 2 ^ 5) (b15 : x15 < 2 ^ 5) (b10 : x10 < 2 ^ 5) (b5 : x5 < 2 ^ 5) (b4 : x4 < 2 ^ 1) (b0 : x0 < 2 ^ 4)
    (e : n = op * 0x2000000 + x20 * 2 ^ 20 + x15 * 2 ^ 15 + x10 * 2 ^ 10 + x5 * 2 ^ 5 + x4 * 2 ^ 4 + x0 * 2 ^ 0) :
    n / 0x2000000 = op ∧ n / 2 ^ 20 % 2 ^ 5 = x20 ∧ n / 2 ^ 15 % 2 ^ 5 = x15 ∧ n / 2 ^ 10 % 2 ^ 5 = x10 ∧ n / 2 ^ 5 % 2 ^ 5 = x5 ∧ n / 2 ^ 4 % 2 ^ 1 = x4 ∧ n / 2 ^ 0 % 2 ^ 4 = x0 := by
  refine ⟨?_, ?_, ?_, ?_, ?_, ?_, ?_⟩ <;> omega

/-- A word laid out in fields of the widths named, the highest first: its opcode and its fields. -/
theorem Layout.w5_5_5_9_1 {n op x20 x15 x10 x1 x0 : Nat} (b20 : x20 < 2 ^ 5) (b15 : x15 < 2 ^ 5) (b10 : x10 < 2 ^ 5) (b1 : x1 < 2 ^ 9) (b0 : x0 < 2 ^ 1)
    (e : n = op * 0x2000000 + x20 * 2 ^ 20 + x15 * 2 ^ 15 + x10 * 2 ^ 10 + x1 * 2 ^ 1 + x0 * 2 ^ 0) :
    n / 0x2000000 = op ∧ n / 2 ^ 20 % 2 ^ 5 = x20 ∧ n / 2 ^ 15 % 2 ^ 5 = x15 ∧ n / 2 ^ 10 % 2 ^ 5 = x10 ∧ n / 2 ^ 1 % 2 ^ 9 = x1 ∧ n / 2 ^ 0 % 2 ^ 1 = x0 := by
  refine ⟨?_, ?_, ?_, ?_, ?_, ?_⟩ <;> omega

/-- A word laid out in fields of the widths named, the highest first: its opcode and its fields. -/
theorem Layout.w5_1_7_4_8 {n op x20 x19 x12 x8 x0 : Nat} (b20 : x20 < 2 ^ 5) (b19 : x19 < 2 ^ 1) (b12 : x12 < 2 ^ 7) (b8 : x8 < 2 ^ 4) (b0 : x0 < 2 ^ 8)
    (e : n = op * 0x2000000 + x20 * 2 ^ 20 + x19 * 2 ^ 19 + x12 * 2 ^ 12 + x8 * 2 ^ 8 + x0 * 2 ^ 0) :
    n / 0x2000000 = op ∧ n / 2 ^ 20 % 2 ^ 5 = x20 ∧ n / 2 ^ 19 % 2 ^ 1 = x19 ∧ n / 2 ^ 12 % 2 ^ 7 = x12 ∧ n / 2 ^ 8 % 2 ^ 4 = x8 ∧ n / 2 ^ 0 % 2 ^ 8 = x0 := by
  refine ⟨?_, ?_, ?_, ?_, ?_, ?_⟩ <;> omega

/-- A word laid out in fields of the widths named, the highest first: its opcode and its fields. -/
theorem Layout.w5_1_8_3_8 {n op x20 x19 x11 x8 x0 : Nat} (b20 : x20 < 2 ^ 5) (b19 : x19 < 2 ^ 1) (b11 : x11 < 2 ^ 8) (b8 : x8 < 2 ^ 3) (b0 : x0 < 2 ^ 8)
    (e : n = op * 0x2000000 + x20 * 2 ^ 20 + x19 * 2 ^ 19 + x11 * 2 ^ 11 + x8 * 2 ^ 8 + x0 * 2 ^ 0) :
    n / 0x2000000 = op ∧ n / 2 ^ 20 % 2 ^ 5 = x20 ∧ n / 2 ^ 19 % 2 ^ 1 = x19 ∧ n / 2 ^ 11 % 2 ^ 8 = x11 ∧ n / 2 ^ 8 % 2 ^ 3 = x8 ∧ n / 2 ^ 0 % 2 ^ 8 = x0 := by
  refine ⟨?_, ?_, ?_, ?_, ?_, ?_⟩ <;> omega

/-- A word laid out in fields of the widths named, the highest first: its opcode and its fields. -/
theorem Layout.w5_8_4_8 {n op x20 x12 x8 x0 : Nat} (b20 : x20 < 2 ^ 5) (b12 : x12 < 2 ^ 8) (b8 : x8 < 2 ^ 4) (b0 : x0 < 2 ^ 8)
    (e : n = op * 0x2000000 + x20 * 2 ^ 20 + x12 * 2 ^ 12 + x8 * 2 ^ 8 + x0 * 2 ^ 0) :
    n / 0x2000000 = op ∧ n / 2 ^ 20 % 2 ^ 5 = x20 ∧ n / 2 ^ 12 % 2 ^ 8 = x12 ∧ n / 2 ^ 8 % 2 ^ 4 = x8 ∧ n / 2 ^ 0 % 2 ^ 8 = x0 := by
  refine ⟨?_, ?_, ?_, ?_, ?_⟩ <;> omega

/-- A word laid out in fields of the widths named, the highest first: its opcode and its fields. -/
theorem Layout.w5_12_8 {n op x20 x8 x0 : Nat} (b20 : x20 < 2 ^ 5) (b8 : x8 < 2 ^ 12) (b0 : x0 < 2 ^ 8)
    (e : n = op * 0x2000000 + x20 * 2 ^ 20 + x8 * 2 ^ 8 + x0 * 2 ^ 0) :
    n / 0x2000000 = op ∧ n / 2 ^ 20 % 2 ^ 5 = x20 ∧ n / 2 ^ 8 % 2 ^ 12 = x8 ∧ n / 2 ^ 0 % 2 ^ 8 = x0 := by
  refine ⟨?_, ?_, ?_, ?_⟩ <;> omega

/-- A word laid out in fields of the widths named, the highest first: its opcode and its fields. -/
theorem Layout.w5_9_3_8 {n op x20 x11 x8 x0 : Nat} (b20 : x20 < 2 ^ 5) (b11 : x11 < 2 ^ 9) (b8 : x8 < 2 ^ 3) (b0 : x0 < 2 ^ 8)
    (e : n = op * 0x2000000 + x20 * 2 ^ 20 + x11 * 2 ^ 11 + x8 * 2 ^ 8 + x0 * 2 ^ 0) :
    n / 0x2000000 = op ∧ n / 2 ^ 20 % 2 ^ 5 = x20 ∧ n / 2 ^ 11 % 2 ^ 9 = x11 ∧ n / 2 ^ 8 % 2 ^ 3 = x8 ∧ n / 2 ^ 0 % 2 ^ 8 = x0 := by
  refine ⟨?_, ?_, ?_, ?_, ?_⟩ <;> omega

/-- A word laid out in fields of the widths named, the highest first: its opcode and its fields. -/
theorem Layout.w1_4_5_5_10 {n op x24 x20 x15 x10 x0 : Nat} (b24 : x24 < 2 ^ 1) (b20 : x20 < 2 ^ 4) (b15 : x15 < 2 ^ 5) (b10 : x10 < 2 ^ 5) (b0 : x0 < 2 ^ 10)
    (e : n = op * 0x2000000 + x24 * 2 ^ 24 + x20 * 2 ^ 20 + x15 * 2 ^ 15 + x10 * 2 ^ 10 + x0 * 2 ^ 0) :
    n / 0x2000000 = op ∧ n / 2 ^ 24 % 2 ^ 1 = x24 ∧ n / 2 ^ 20 % 2 ^ 4 = x20 ∧ n / 2 ^ 15 % 2 ^ 5 = x15 ∧ n / 2 ^ 10 % 2 ^ 5 = x10 ∧ n / 2 ^ 0 % 2 ^ 10 = x0 := by
  refine ⟨?_, ?_, ?_, ?_, ?_, ?_⟩ <;> omega

/-- A word laid out in fields of the widths named, the highest first: its opcode and its fields. -/
theorem Layout.w5_5_5_4_6 {n op x20 x15 x10 x6 x0 : Nat} (b20 : x20 < 2 ^ 5) (b15 : x15 < 2 ^ 5) (b10 : x10 < 2 ^ 5) (b6 : x6 < 2 ^ 4) (b0 : x0 < 2 ^ 6)
    (e : n = op * 0x2000000 + x20 * 2 ^ 20 + x15 * 2 ^ 15 + x10 * 2 ^ 10 + x6 * 2 ^ 6 + x0 * 2 ^ 0) :
    n / 0x2000000 = op ∧ n / 2 ^ 20 % 2 ^ 5 = x20 ∧ n / 2 ^ 15 % 2 ^ 5 = x15 ∧ n / 2 ^ 10 % 2 ^ 5 = x10 ∧ n / 2 ^ 6 % 2 ^ 4 = x6 ∧ n / 2 ^ 0 % 2 ^ 6 = x0 := by
  refine ⟨?_, ?_, ?_, ?_, ?_, ?_⟩ <;> omega

/-- A word laid out in fields of the widths named, the highest first: its opcode and its fields. -/
theorem Layout.w11_6_8 {n op x14 x8 x0 : Nat} (b14 : x14 < 2 ^ 11) (b8 : x8 < 2 ^ 6) (b0 : x0 < 2 ^ 8)
    (e : n = op * 0x2000000 + x14 * 2 ^ 14 + x8 * 2 ^ 8 + x0 * 2 ^ 0) :
    n / 0x2000000 = op ∧ n / 2 ^ 14 % 2 ^ 11 = x14 ∧ n / 2 ^ 8 % 2 ^ 6 = x8 ∧ n / 2 ^ 0 % 2 ^ 8 = x0 := by
  refine ⟨?_, ?_, ?_, ?_⟩ <;> omega

/-- A word laid out in fields of the widths named, the highest first: its opcode and its fields. -/
theorem Layout.w5_5_5_2_8 {n op x20 x15 x10 x8 x0 : Nat} (b20 : x20 < 2 ^ 5) (b15 : x15 < 2 ^ 5) (b10 : x10 < 2 ^ 5) (b8 : x8 < 2 ^ 2) (b0 : x0 < 2 ^ 8)
    (e : n = op * 0x2000000 + x20 * 2 ^ 20 + x15 * 2 ^ 15 + x10 * 2 ^ 10 + x8 * 2 ^ 8 + x0 * 2 ^ 0) :
    n / 0x2000000 = op ∧ n / 2 ^ 20 % 2 ^ 5 = x20 ∧ n / 2 ^ 15 % 2 ^ 5 = x15 ∧ n / 2 ^ 10 % 2 ^ 5 = x10 ∧ n / 2 ^ 8 % 2 ^ 2 = x8 ∧ n / 2 ^ 0 % 2 ^ 8 = x0 := by
  refine ⟨?_, ?_, ?_, ?_, ?_, ?_⟩ <;> omega

/-- A word laid out in fields of the widths named, the highest first: its opcode and its fields. -/
theorem Layout.w9_8_8 {n op x16 x8 x0 : Nat} (b16 : x16 < 2 ^ 9) (b8 : x8 < 2 ^ 8) (b0 : x0 < 2 ^ 8)
    (e : n = op * 0x2000000 + x16 * 2 ^ 16 + x8 * 2 ^ 8 + x0 * 2 ^ 0) :
    n / 0x2000000 = op ∧ n / 2 ^ 16 % 2 ^ 9 = x16 ∧ n / 2 ^ 8 % 2 ^ 8 = x8 ∧ n / 2 ^ 0 % 2 ^ 8 = x0 := by
  refine ⟨?_, ?_, ?_, ?_⟩ <;> omega

/-- A word laid out in fields of the widths named, the highest first: its opcode and its fields. -/
theorem Layout.w5_4_8_8 {n op x20 x16 x8 x0 : Nat} (b20 : x20 < 2 ^ 5) (b16 : x16 < 2 ^ 4) (b8 : x8 < 2 ^ 8) (b0 : x0 < 2 ^ 8)
    (e : n = op * 0x2000000 + x20 * 2 ^ 20 + x16 * 2 ^ 16 + x8 * 2 ^ 8 + x0 * 2 ^ 0) :
    n / 0x2000000 = op ∧ n / 2 ^ 20 % 2 ^ 5 = x20 ∧ n / 2 ^ 16 % 2 ^ 4 = x16 ∧ n / 2 ^ 8 % 2 ^ 8 = x8 ∧ n / 2 ^ 0 % 2 ^ 8 = x0 := by
  refine ⟨?_, ?_, ?_, ?_, ?_⟩ <;> omega

/-- A word laid out in fields of the widths named, the highest first: its opcode and its fields. -/
theorem Layout.w17_8 {n op x8 x0 : Nat} (b8 : x8 < 2 ^ 17) (b0 : x0 < 2 ^ 8)
    (e : n = op * 0x2000000 + x8 * 2 ^ 8 + x0 * 2 ^ 0) :
    n / 0x2000000 = op ∧ n / 2 ^ 8 % 2 ^ 17 = x8 ∧ n / 2 ^ 0 % 2 ^ 8 = x0 := by
  refine ⟨?_, ?_, ?_⟩ <;> omega

/-- A word laid out in fields of the widths named, the highest first: its opcode and its fields. -/
theorem Layout.w4_1_4_4_12 {n op x21 x20 x16 x12 x0 : Nat} (b21 : x21 < 2 ^ 4) (b20 : x20 < 2 ^ 1) (b16 : x16 < 2 ^ 4) (b12 : x12 < 2 ^ 4) (b0 : x0 < 2 ^ 12)
    (e : n = op * 0x2000000 + x21 * 2 ^ 21 + x20 * 2 ^ 20 + x16 * 2 ^ 16 + x12 * 2 ^ 12 + x0 * 2 ^ 0) :
    n / 0x2000000 = op ∧ n / 2 ^ 21 % 2 ^ 4 = x21 ∧ n / 2 ^ 20 % 2 ^ 1 = x20 ∧ n / 2 ^ 16 % 2 ^ 4 = x16 ∧ n / 2 ^ 12 % 2 ^ 4 = x12 ∧ n / 2 ^ 0 % 2 ^ 12 = x0 := by
  refine ⟨?_, ?_, ?_, ?_, ?_, ?_⟩ <;> omega

/-- A word laid out in fields of the widths named, the highest first: its opcode and its fields. -/
theorem Layout.w6_6_6_3_4 {n op x19 x13 x7 x4 x0 : Nat} (b19 : x19 < 2 ^ 6) (b13 : x13 < 2 ^ 6) (b7 : x7 < 2 ^ 6) (b4 : x4 < 2 ^ 3) (b0 : x0 < 2 ^ 4)
    (e : n = op * 0x2000000 + x19 * 2 ^ 19 + x13 * 2 ^ 13 + x7 * 2 ^ 7 + x4 * 2 ^ 4 + x0 * 2 ^ 0) :
    n / 0x2000000 = op ∧ n / 2 ^ 19 % 2 ^ 6 = x19 ∧ n / 2 ^ 13 % 2 ^ 6 = x13 ∧ n / 2 ^ 7 % 2 ^ 6 = x7 ∧ n / 2 ^ 4 % 2 ^ 3 = x4 ∧ n / 2 ^ 0 % 2 ^ 4 = x0 := by
  refine ⟨?_, ?_, ?_, ?_, ?_, ?_⟩ <;> omega

/-- A word laid out in fields of the widths named, the highest first: its opcode and its fields. -/
theorem Layout.w6_6_6_6_1 {n op x19 x13 x7 x1 x0 : Nat} (b19 : x19 < 2 ^ 6) (b13 : x13 < 2 ^ 6) (b7 : x7 < 2 ^ 6) (b1 : x1 < 2 ^ 6) (b0 : x0 < 2 ^ 1)
    (e : n = op * 0x2000000 + x19 * 2 ^ 19 + x13 * 2 ^ 13 + x7 * 2 ^ 7 + x1 * 2 ^ 1 + x0 * 2 ^ 0) :
    n / 0x2000000 = op ∧ n / 2 ^ 19 % 2 ^ 6 = x19 ∧ n / 2 ^ 13 % 2 ^ 6 = x13 ∧ n / 2 ^ 7 % 2 ^ 6 = x7 ∧ n / 2 ^ 1 % 2 ^ 6 = x1 ∧ n / 2 ^ 0 % 2 ^ 1 = x0 := by
  refine ⟨?_, ?_, ?_, ?_, ?_, ?_⟩ <;> omega

/-- A word laid out in fields of the widths named, the highest first: its opcode and its fields. -/
theorem Layout.w6_6_6_3_3_1 {n op x19 x13 x7 x4 x1 x0 : Nat} (b19 : x19 < 2 ^ 6) (b13 : x13 < 2 ^ 6) (b7 : x7 < 2 ^ 6) (b4 : x4 < 2 ^ 3) (b1 : x1 < 2 ^ 3) (b0 : x0 < 2 ^ 1)
    (e : n = op * 0x2000000 + x19 * 2 ^ 19 + x13 * 2 ^ 13 + x7 * 2 ^ 7 + x4 * 2 ^ 4 + x1 * 2 ^ 1 + x0 * 2 ^ 0) :
    n / 0x2000000 = op ∧ n / 2 ^ 19 % 2 ^ 6 = x19 ∧ n / 2 ^ 13 % 2 ^ 6 = x13 ∧ n / 2 ^ 7 % 2 ^ 6 = x7 ∧ n / 2 ^ 4 % 2 ^ 3 = x4 ∧ n / 2 ^ 1 % 2 ^ 3 = x1 ∧ n / 2 ^ 0 % 2 ^ 1 = x0 := by
  refine ⟨?_, ?_, ?_, ?_, ?_, ?_, ?_⟩ <;> omega

/-- A word laid out in fields of the widths named, the highest first: its opcode and its fields. -/
theorem Layout.w6_8_11 {n op x19 x11 x0 : Nat} (b19 : x19 < 2 ^ 6) (b11 : x11 < 2 ^ 8) (b0 : x0 < 2 ^ 11)
    (e : n = op * 0x2000000 + x19 * 2 ^ 19 + x11 * 2 ^ 11 + x0 * 2 ^ 0) :
    n / 0x2000000 = op ∧ n / 2 ^ 19 % 2 ^ 6 = x19 ∧ n / 2 ^ 11 % 2 ^ 8 = x11 ∧ n / 2 ^ 0 % 2 ^ 11 = x0 := by
  refine ⟨?_, ?_, ?_, ?_⟩ <;> omega

/-- A word laid out in fields of the widths named, the highest first: its opcode and its fields. -/
theorem Layout.w6_6_6_3_2_2 {n op x19 x13 x7 x4 x2 x0 : Nat} (b19 : x19 < 2 ^ 6) (b13 : x13 < 2 ^ 6) (b7 : x7 < 2 ^ 6) (b4 : x4 < 2 ^ 3) (b2 : x2 < 2 ^ 2) (b0 : x0 < 2 ^ 2)
    (e : n = op * 0x2000000 + x19 * 2 ^ 19 + x13 * 2 ^ 13 + x7 * 2 ^ 7 + x4 * 2 ^ 4 + x2 * 2 ^ 2 + x0 * 2 ^ 0) :
    n / 0x2000000 = op ∧ n / 2 ^ 19 % 2 ^ 6 = x19 ∧ n / 2 ^ 13 % 2 ^ 6 = x13 ∧ n / 2 ^ 7 % 2 ^ 6 = x7 ∧ n / 2 ^ 4 % 2 ^ 3 = x4 ∧ n / 2 ^ 2 % 2 ^ 2 = x2 ∧ n / 2 ^ 0 % 2 ^ 2 = x0 := by
  refine ⟨?_, ?_, ?_, ?_, ?_, ?_, ?_⟩ <;> omega

/-- A word laid out in fields of the widths named, the highest first: its opcode and its fields. -/
theorem Layout.w3_3_6_6_3_4 {n op x22 x19 x13 x7 x4 x0 : Nat} (b22 : x22 < 2 ^ 3) (b19 : x19 < 2 ^ 3) (b13 : x13 < 2 ^ 6) (b7 : x7 < 2 ^ 6) (b4 : x4 < 2 ^ 3) (b0 : x0 < 2 ^ 4)
    (e : n = op * 0x2000000 + x22 * 2 ^ 22 + x19 * 2 ^ 19 + x13 * 2 ^ 13 + x7 * 2 ^ 7 + x4 * 2 ^ 4 + x0 * 2 ^ 0) :
    n / 0x2000000 = op ∧ n / 2 ^ 22 % 2 ^ 3 = x22 ∧ n / 2 ^ 19 % 2 ^ 3 = x19 ∧ n / 2 ^ 13 % 2 ^ 6 = x13 ∧ n / 2 ^ 7 % 2 ^ 6 = x7 ∧ n / 2 ^ 4 % 2 ^ 3 = x4 ∧ n / 2 ^ 0 % 2 ^ 4 = x0 := by
  refine ⟨?_, ?_, ?_, ?_, ?_, ?_, ?_⟩ <;> omega

/-- A word laid out in fields of the widths named, the highest first: its opcode and its fields. -/
theorem Layout.w3_3_3_3_3_3_3_4 {n op x22 x19 x16 x13 x10 x7 x4 x0 : Nat} (b22 : x22 < 2 ^ 3) (b19 : x19 < 2 ^ 3) (b16 : x16 < 2 ^ 3) (b13 : x13 < 2 ^ 3) (b10 : x10 < 2 ^ 3) (b7 : x7 < 2 ^ 3) (b4 : x4 < 2 ^ 3) (b0 : x0 < 2 ^ 4)
    (e : n = op * 0x2000000 + x22 * 2 ^ 22 + x19 * 2 ^ 19 + x16 * 2 ^ 16 + x13 * 2 ^ 13 + x10 * 2 ^ 10 + x7 * 2 ^ 7 + x4 * 2 ^ 4 + x0 * 2 ^ 0) :
    n / 0x2000000 = op ∧ n / 2 ^ 22 % 2 ^ 3 = x22 ∧ n / 2 ^ 19 % 2 ^ 3 = x19 ∧ n / 2 ^ 16 % 2 ^ 3 = x16 ∧ n / 2 ^ 13 % 2 ^ 3 = x13 ∧ n / 2 ^ 10 % 2 ^ 3 = x10 ∧ n / 2 ^ 7 % 2 ^ 3 = x7 ∧ n / 2 ^ 4 % 2 ^ 3 = x4 ∧ n / 2 ^ 0 % 2 ^ 4 = x0 := by
  refine ⟨?_, ?_, ?_, ?_, ?_, ?_, ?_, ?_, ?_⟩ <;> omega

/-- A word laid out in fields of the widths named, the highest first: its opcode and its fields. -/
theorem Layout.w3_3_3_3_6_3_4 {n op x22 x19 x16 x13 x7 x4 x0 : Nat} (b22 : x22 < 2 ^ 3) (b19 : x19 < 2 ^ 3) (b16 : x16 < 2 ^ 3) (b13 : x13 < 2 ^ 3) (b7 : x7 < 2 ^ 6) (b4 : x4 < 2 ^ 3) (b0 : x0 < 2 ^ 4)
    (e : n = op * 0x2000000 + x22 * 2 ^ 22 + x19 * 2 ^ 19 + x16 * 2 ^ 16 + x13 * 2 ^ 13 + x7 * 2 ^ 7 + x4 * 2 ^ 4 + x0 * 2 ^ 0) :
    n / 0x2000000 = op ∧ n / 2 ^ 22 % 2 ^ 3 = x22 ∧ n / 2 ^ 19 % 2 ^ 3 = x19 ∧ n / 2 ^ 16 % 2 ^ 3 = x16 ∧ n / 2 ^ 13 % 2 ^ 3 = x13 ∧ n / 2 ^ 7 % 2 ^ 6 = x7 ∧ n / 2 ^ 4 % 2 ^ 3 = x4 ∧ n / 2 ^ 0 % 2 ^ 4 = x0 := by
  refine ⟨?_, ?_, ?_, ?_, ?_, ?_, ?_, ?_⟩ <;> omega

/-- A word laid out in fields of the widths named, the highest first: its opcode and its fields. -/
theorem Layout.w6_3_3_6_3_4 {n op x19 x16 x13 x7 x4 x0 : Nat} (b19 : x19 < 2 ^ 6) (b16 : x16 < 2 ^ 3) (b13 : x13 < 2 ^ 3) (b7 : x7 < 2 ^ 6) (b4 : x4 < 2 ^ 3) (b0 : x0 < 2 ^ 4)
    (e : n = op * 0x2000000 + x19 * 2 ^ 19 + x16 * 2 ^ 16 + x13 * 2 ^ 13 + x7 * 2 ^ 7 + x4 * 2 ^ 4 + x0 * 2 ^ 0) :
    n / 0x2000000 = op ∧ n / 2 ^ 19 % 2 ^ 6 = x19 ∧ n / 2 ^ 16 % 2 ^ 3 = x16 ∧ n / 2 ^ 13 % 2 ^ 3 = x13 ∧ n / 2 ^ 7 % 2 ^ 6 = x7 ∧ n / 2 ^ 4 % 2 ^ 3 = x4 ∧ n / 2 ^ 0 % 2 ^ 4 = x0 := by
  refine ⟨?_, ?_, ?_, ?_, ?_, ?_, ?_⟩ <;> omega

/-- A word laid out in fields of the widths named, the highest first: its opcode and its fields. -/
theorem Layout.w21_4 {n op x4 x0 : Nat} (b4 : x4 < 2 ^ 21) (b0 : x0 < 2 ^ 4)
    (e : n = op * 0x2000000 + x4 * 2 ^ 4 + x0 * 2 ^ 0) :
    n / 0x2000000 = op ∧ n / 2 ^ 4 % 2 ^ 21 = x4 ∧ n / 2 ^ 0 % 2 ^ 4 = x0 := by
  refine ⟨?_, ?_, ?_⟩ <;> omega

/-- A word laid out in fields of the widths named, the highest first: its opcode and its fields. -/
theorem Layout.w6_19 {n op x19 x0 : Nat} (b19 : x19 < 2 ^ 6) (b0 : x0 < 2 ^ 19)
    (e : n = op * 0x2000000 + x19 * 2 ^ 19 + x0 * 2 ^ 0) :
    n / 0x2000000 = op ∧ n / 2 ^ 19 % 2 ^ 6 = x19 ∧ n / 2 ^ 0 % 2 ^ 19 = x0 := by
  refine ⟨?_, ?_, ?_⟩ <;> omega

/-- A word laid out in fields of the widths named, the highest first: its opcode and its fields. -/
theorem Layout.w4_2_8_3_8 {n op x21 x19 x11 x8 x0 : Nat} (b21 : x21 < 2 ^ 4) (b19 : x19 < 2 ^ 2) (b11 : x11 < 2 ^ 8) (b8 : x8 < 2 ^ 3) (b0 : x0 < 2 ^ 8)
    (e : n = op * 0x2000000 + x21 * 2 ^ 21 + x19 * 2 ^ 19 + x11 * 2 ^ 11 + x8 * 2 ^ 8 + x0 * 2 ^ 0) :
    n / 0x2000000 = op ∧ n / 2 ^ 21 % 2 ^ 4 = x21 ∧ n / 2 ^ 19 % 2 ^ 2 = x19 ∧ n / 2 ^ 11 % 2 ^ 8 = x11 ∧ n / 2 ^ 8 % 2 ^ 3 = x8 ∧ n / 2 ^ 0 % 2 ^ 8 = x0 := by
  refine ⟨?_, ?_, ?_, ?_, ?_, ?_⟩ <;> omega

/-- A word laid out in fields of the widths named, the highest first: its opcode and its fields. -/
theorem Layout.w6_15_4 {n op x19 x4 x0 : Nat} (b19 : x19 < 2 ^ 6) (b4 : x4 < 2 ^ 15) (b0 : x0 < 2 ^ 4)
    (e : n = op * 0x2000000 + x19 * 2 ^ 19 + x4 * 2 ^ 4 + x0 * 2 ^ 0) :
    n / 0x2000000 = op ∧ n / 2 ^ 19 % 2 ^ 6 = x19 ∧ n / 2 ^ 4 % 2 ^ 15 = x4 ∧ n / 2 ^ 0 % 2 ^ 4 = x0 := by
  refine ⟨?_, ?_, ?_, ?_⟩ <;> omega

/-- A word laid out in fields of the widths named, the highest first: its opcode and its fields. -/
theorem Layout.w3_2_20 {n op x22 x20 x0 : Nat} (b22 : x22 < 2 ^ 3) (b20 : x20 < 2 ^ 2) (b0 : x0 < 2 ^ 20)
    (e : n = op * 0x2000000 + x22 * 2 ^ 22 + x20 * 2 ^ 20 + x0 * 2 ^ 0) :
    n / 0x2000000 = op ∧ n / 2 ^ 22 % 2 ^ 3 = x22 ∧ n / 2 ^ 20 % 2 ^ 2 = x20 ∧ n / 2 ^ 0 % 2 ^ 20 = x0 := by
  refine ⟨?_, ?_, ?_, ?_⟩ <;> omega

/-- A word laid out in fields of the widths named, the highest first: its opcode and its fields. -/
theorem Layout.w18_1_2_4 {n op x7 x6 x4 x0 : Nat} (b7 : x7 < 2 ^ 18) (b6 : x6 < 2 ^ 1) (b4 : x4 < 2 ^ 2) (b0 : x0 < 2 ^ 4)
    (e : n = op * 0x2000000 + x7 * 2 ^ 7 + x6 * 2 ^ 6 + x4 * 2 ^ 4 + x0 * 2 ^ 0) :
    n / 0x2000000 = op ∧ n / 2 ^ 7 % 2 ^ 18 = x7 ∧ n / 2 ^ 6 % 2 ^ 1 = x6 ∧ n / 2 ^ 4 % 2 ^ 2 = x4 ∧ n / 2 ^ 0 % 2 ^ 4 = x0 := by
  refine ⟨?_, ?_, ?_, ?_, ?_⟩ <;> omega

/-- A word laid out in fields of the widths named, the highest first: its opcode and its fields. -/
theorem Layout.w8_11_2_4 {n op x17 x6 x4 x0 : Nat} (b17 : x17 < 2 ^ 8) (b6 : x6 < 2 ^ 11) (b4 : x4 < 2 ^ 2) (b0 : x0 < 2 ^ 4)
    (e : n = op * 0x2000000 + x17 * 2 ^ 17 + x6 * 2 ^ 6 + x4 * 2 ^ 4 + x0 * 2 ^ 0) :
    n / 0x2000000 = op ∧ n / 2 ^ 17 % 2 ^ 8 = x17 ∧ n / 2 ^ 6 % 2 ^ 11 = x6 ∧ n / 2 ^ 4 % 2 ^ 2 = x4 ∧ n / 2 ^ 0 % 2 ^ 4 = x0 := by
  refine ⟨?_, ?_, ?_, ?_, ?_⟩ <;> omega

/-- A word laid out in fields of the widths named, the highest first: its opcode and its fields. -/
theorem Layout.w8_4_4_3_2_4 {n op x17 x13 x9 x6 x4 x0 : Nat} (b17 : x17 < 2 ^ 8) (b13 : x13 < 2 ^ 4) (b9 : x9 < 2 ^ 4) (b6 : x6 < 2 ^ 3) (b4 : x4 < 2 ^ 2) (b0 : x0 < 2 ^ 4)
    (e : n = op * 0x2000000 + x17 * 2 ^ 17 + x13 * 2 ^ 13 + x9 * 2 ^ 9 + x6 * 2 ^ 6 + x4 * 2 ^ 4 + x0 * 2 ^ 0) :
    n / 0x2000000 = op ∧ n / 2 ^ 17 % 2 ^ 8 = x17 ∧ n / 2 ^ 13 % 2 ^ 4 = x13 ∧ n / 2 ^ 9 % 2 ^ 4 = x9 ∧ n / 2 ^ 6 % 2 ^ 3 = x6 ∧ n / 2 ^ 4 % 2 ^ 2 = x4 ∧ n / 2 ^ 0 % 2 ^ 4 = x0 := by
  refine ⟨?_, ?_, ?_, ?_, ?_, ?_, ?_⟩ <;> omega

/-- A word laid out in fields of the widths named, the highest first: its opcode and its fields. -/
theorem Layout.w19_2_4 {n op x6 x4 x0 : Nat} (b6 : x6 < 2 ^ 19) (b4 : x4 < 2 ^ 2) (b0 : x0 < 2 ^ 4)
    (e : n = op * 0x2000000 + x6 * 2 ^ 6 + x4 * 2 ^ 4 + x0 * 2 ^ 0) :
    n / 0x2000000 = op ∧ n / 2 ^ 6 % 2 ^ 19 = x6 ∧ n / 2 ^ 4 % 2 ^ 2 = x4 ∧ n / 2 ^ 0 % 2 ^ 4 = x0 := by
  refine ⟨?_, ?_, ?_, ?_⟩ <;> omega

/-- A word laid out in fields of the widths named, the highest first: its opcode and its fields. -/
theorem Layout.w17_2_4_2 {n op x8 x6 x2 x0 : Nat} (b8 : x8 < 2 ^ 17) (b6 : x6 < 2 ^ 2) (b2 : x2 < 2 ^ 4) (b0 : x0 < 2 ^ 2)
    (e : n = op * 0x2000000 + x8 * 2 ^ 8 + x6 * 2 ^ 6 + x2 * 2 ^ 2 + x0 * 2 ^ 0) :
    n / 0x2000000 = op ∧ n / 2 ^ 8 % 2 ^ 17 = x8 ∧ n / 2 ^ 6 % 2 ^ 2 = x6 ∧ n / 2 ^ 2 % 2 ^ 4 = x2 ∧ n / 2 ^ 0 % 2 ^ 2 = x0 := by
  refine ⟨?_, ?_, ?_, ?_, ?_⟩ <;> omega

/-- A word laid out in fields of the widths named, the highest first: its opcode and its fields. -/
theorem Layout.w8_8_8_1 {n op x17 x9 x1 x0 : Nat} (b17 : x17 < 2 ^ 8) (b9 : x9 < 2 ^ 8) (b1 : x1 < 2 ^ 8) (b0 : x0 < 2 ^ 1)
    (e : n = op * 0x2000000 + x17 * 2 ^ 17 + x9 * 2 ^ 9 + x1 * 2 ^ 1 + x0 * 2 ^ 0) :
    n / 0x2000000 = op ∧ n / 2 ^ 17 % 2 ^ 8 = x17 ∧ n / 2 ^ 9 % 2 ^ 8 = x9 ∧ n / 2 ^ 1 % 2 ^ 8 = x1 ∧ n / 2 ^ 0 % 2 ^ 1 = x0 := by
  refine ⟨?_, ?_, ?_, ?_, ?_⟩ <;> omega

/-- A word laid out in fields of the widths named, the highest first: its opcode and its fields. -/
theorem Layout.w8_8_4_4_1 {n op x17 x9 x5 x1 x0 : Nat} (b17 : x17 < 2 ^ 8) (b9 : x9 < 2 ^ 8) (b5 : x5 < 2 ^ 4) (b1 : x1 < 2 ^ 4) (b0 : x0 < 2 ^ 1)
    (e : n = op * 0x2000000 + x17 * 2 ^ 17 + x9 * 2 ^ 9 + x5 * 2 ^ 5 + x1 * 2 ^ 1 + x0 * 2 ^ 0) :
    n / 0x2000000 = op ∧ n / 2 ^ 17 % 2 ^ 8 = x17 ∧ n / 2 ^ 9 % 2 ^ 8 = x9 ∧ n / 2 ^ 5 % 2 ^ 4 = x5 ∧ n / 2 ^ 1 % 2 ^ 4 = x1 ∧ n / 2 ^ 0 % 2 ^ 1 = x0 := by
  refine ⟨?_, ?_, ?_, ?_, ?_, ?_⟩ <;> omega

/-- A word laid out in fields of the widths named, the highest first: its opcode and its fields. -/
theorem Layout.w1_16_8 {n op x24 x8 x0 : Nat} (b24 : x24 < 2 ^ 1) (b8 : x8 < 2 ^ 16) (b0 : x0 < 2 ^ 8)
    (e : n = op * 0x2000000 + x24 * 2 ^ 24 + x8 * 2 ^ 8 + x0 * 2 ^ 0) :
    n / 0x2000000 = op ∧ n / 2 ^ 24 % 2 ^ 1 = x24 ∧ n / 2 ^ 8 % 2 ^ 16 = x8 ∧ n / 2 ^ 0 % 2 ^ 8 = x0 := by
  refine ⟨?_, ?_, ?_, ?_⟩ <;> omega

/-- A word laid out in fields of the widths named, the highest first: its opcode and its fields. -/
theorem Layout.w5_4_16 {n op x20 x16 x0 : Nat} (b20 : x20 < 2 ^ 5) (b16 : x16 < 2 ^ 4) (b0 : x0 < 2 ^ 16)
    (e : n = op * 0x2000000 + x20 * 2 ^ 20 + x16 * 2 ^ 16 + x0 * 2 ^ 0) :
    n / 0x2000000 = op ∧ n / 2 ^ 20 % 2 ^ 5 = x20 ∧ n / 2 ^ 16 % 2 ^ 4 = x16 ∧ n / 2 ^ 0 % 2 ^ 16 = x0 := by
  refine ⟨?_, ?_, ?_, ?_⟩ <;> omega

/-- A word laid out in fields of the widths named, the highest first: its opcode and its fields. -/
theorem Layout.w7_2_8_8 {n op x18 x16 x8 x0 : Nat} (b18 : x18 < 2 ^ 7) (b16 : x16 < 2 ^ 2) (b8 : x8 < 2 ^ 8) (b0 : x0 < 2 ^ 8)
    (e : n = op * 0x2000000 + x18 * 2 ^ 18 + x16 * 2 ^ 16 + x8 * 2 ^ 8 + x0 * 2 ^ 0) :
    n / 0x2000000 = op ∧ n / 2 ^ 18 % 2 ^ 7 = x18 ∧ n / 2 ^ 16 % 2 ^ 2 = x16 ∧ n / 2 ^ 8 % 2 ^ 8 = x8 ∧ n / 2 ^ 0 % 2 ^ 8 = x0 := by
  refine ⟨?_, ?_, ?_, ?_, ?_⟩ <;> omega

/-- A word laid out in fields of the widths named, the highest first: its opcode and its fields. -/
theorem Layout.w4_2_3_16 {n op x21 x19 x16 x0 : Nat} (b21 : x21 < 2 ^ 4) (b19 : x19 < 2 ^ 2) (b16 : x16 < 2 ^ 3) (b0 : x0 < 2 ^ 16)
    (e : n = op * 0x2000000 + x21 * 2 ^ 21 + x19 * 2 ^ 19 + x16 * 2 ^ 16 + x0 * 2 ^ 0) :
    n / 0x2000000 = op ∧ n / 2 ^ 21 % 2 ^ 4 = x21 ∧ n / 2 ^ 19 % 2 ^ 2 = x19 ∧ n / 2 ^ 16 % 2 ^ 3 = x16 ∧ n / 2 ^ 0 % 2 ^ 16 = x0 := by
  refine ⟨?_, ?_, ?_, ?_, ?_⟩ <;> omega

/-- A word laid out in fields of the widths named, the highest first: its opcode and its fields. -/
theorem Layout.w4_1_20 {n op x21 x20 x0 : Nat} (b21 : x21 < 2 ^ 4) (b20 : x20 < 2 ^ 1) (b0 : x0 < 2 ^ 20)
    (e : n = op * 0x2000000 + x21 * 2 ^ 21 + x20 * 2 ^ 20 + x0 * 2 ^ 0) :
    n / 0x2000000 = op ∧ n / 2 ^ 21 % 2 ^ 4 = x21 ∧ n / 2 ^ 20 % 2 ^ 1 = x20 ∧ n / 2 ^ 0 % 2 ^ 20 = x0 := by
  refine ⟨?_, ?_, ?_, ?_⟩ <;> omega

/-- A word laid out in fields of the widths named, the highest first: its opcode and its fields. -/
theorem Layout.w4_1_16_4 {n op x21 x20 x4 x0 : Nat} (b21 : x21 < 2 ^ 4) (b20 : x20 < 2 ^ 1) (b4 : x4 < 2 ^ 16) (b0 : x0 < 2 ^ 4)
    (e : n = op * 0x2000000 + x21 * 2 ^ 21 + x20 * 2 ^ 20 + x4 * 2 ^ 4 + x0 * 2 ^ 0) :
    n / 0x2000000 = op ∧ n / 2 ^ 21 % 2 ^ 4 = x21 ∧ n / 2 ^ 20 % 2 ^ 1 = x20 ∧ n / 2 ^ 4 % 2 ^ 16 = x4 ∧ n / 2 ^ 0 % 2 ^ 4 = x0 := by
  refine ⟨?_, ?_, ?_, ?_, ?_⟩ <;> omega

/-- A word laid out in fields of the widths named, the highest first: its opcode and its fields. -/
theorem Layout.w4_3_8_8_1_1 {n op x21 x18 x10 x2 x1 x0 : Nat} (b21 : x21 < 2 ^ 4) (b18 : x18 < 2 ^ 3) (b10 : x10 < 2 ^ 8) (b2 : x2 < 2 ^ 8) (b1 : x1 < 2 ^ 1) (b0 : x0 < 2 ^ 1)
    (e : n = op * 0x2000000 + x21 * 2 ^ 21 + x18 * 2 ^ 18 + x10 * 2 ^ 10 + x2 * 2 ^ 2 + x1 * 2 ^ 1 + x0 * 2 ^ 0) :
    n / 0x2000000 = op ∧ n / 2 ^ 21 % 2 ^ 4 = x21 ∧ n / 2 ^ 18 % 2 ^ 3 = x18 ∧ n / 2 ^ 10 % 2 ^ 8 = x10 ∧ n / 2 ^ 2 % 2 ^ 8 = x2 ∧ n / 2 ^ 1 % 2 ^ 1 = x1 ∧ n / 2 ^ 0 % 2 ^ 1 = x0 := by
  refine ⟨?_, ?_, ?_, ?_, ?_, ?_, ?_⟩ <;> omega

/-- A word laid out in fields of the widths named, the highest first: its opcode and its fields. -/
theorem Layout.w4_3_8_8_2 {n op x21 x18 x10 x2 x0 : Nat} (b21 : x21 < 2 ^ 4) (b18 : x18 < 2 ^ 3) (b10 : x10 < 2 ^ 8) (b2 : x2 < 2 ^ 8) (b0 : x0 < 2 ^ 2)
    (e : n = op * 0x2000000 + x21 * 2 ^ 21 + x18 * 2 ^ 18 + x10 * 2 ^ 10 + x2 * 2 ^ 2 + x0 * 2 ^ 0) :
    n / 0x2000000 = op ∧ n / 2 ^ 21 % 2 ^ 4 = x21 ∧ n / 2 ^ 18 % 2 ^ 3 = x18 ∧ n / 2 ^ 10 % 2 ^ 8 = x10 ∧ n / 2 ^ 2 % 2 ^ 8 = x2 ∧ n / 2 ^ 0 % 2 ^ 2 = x0 := by
  refine ⟨?_, ?_, ?_, ?_, ?_, ?_⟩ <;> omega

/-- A word laid out in fields of the widths named, the highest first: its opcode and its fields. -/
theorem Layout.w4_3_18 {n op x21 x18 x0 : Nat} (b21 : x21 < 2 ^ 4) (b18 : x18 < 2 ^ 3) (b0 : x0 < 2 ^ 18)
    (e : n = op * 0x2000000 + x21 * 2 ^ 21 + x18 * 2 ^ 18 + x0 * 2 ^ 0) :
    n / 0x2000000 = op ∧ n / 2 ^ 21 % 2 ^ 4 = x21 ∧ n / 2 ^ 18 % 2 ^ 3 = x18 ∧ n / 2 ^ 0 % 2 ^ 18 = x0 := by
  refine ⟨?_, ?_, ?_, ?_⟩ <;> omega

/-- A word laid out in fields of the widths named, the highest first: its opcode and its fields. -/
theorem Layout.w4_3_8_10 {n op x21 x18 x10 x0 : Nat} (b21 : x21 < 2 ^ 4) (b18 : x18 < 2 ^ 3) (b10 : x10 < 2 ^ 8) (b0 : x0 < 2 ^ 10)
    (e : n = op * 0x2000000 + x21 * 2 ^ 21 + x18 * 2 ^ 18 + x10 * 2 ^ 10 + x0 * 2 ^ 0) :
    n / 0x2000000 = op ∧ n / 2 ^ 21 % 2 ^ 4 = x21 ∧ n / 2 ^ 18 % 2 ^ 3 = x18 ∧ n / 2 ^ 10 % 2 ^ 8 = x10 ∧ n / 2 ^ 0 % 2 ^ 10 = x0 := by
  refine ⟨?_, ?_, ?_, ?_, ?_⟩ <;> omega

/-- A word laid out in fields of the widths named, the highest first: its opcode and its fields. -/
theorem Layout.w4_4_4_3_2_8 {n op x21 x17 x13 x10 x8 x0 : Nat} (b21 : x21 < 2 ^ 4) (b17 : x17 < 2 ^ 4) (b13 : x13 < 2 ^ 4) (b10 : x10 < 2 ^ 3) (b8 : x8 < 2 ^ 2) (b0 : x0 < 2 ^ 8)
    (e : n = op * 0x2000000 + x21 * 2 ^ 21 + x17 * 2 ^ 17 + x13 * 2 ^ 13 + x10 * 2 ^ 10 + x8 * 2 ^ 8 + x0 * 2 ^ 0) :
    n / 0x2000000 = op ∧ n / 2 ^ 21 % 2 ^ 4 = x21 ∧ n / 2 ^ 17 % 2 ^ 4 = x17 ∧ n / 2 ^ 13 % 2 ^ 4 = x13 ∧ n / 2 ^ 10 % 2 ^ 3 = x10 ∧ n / 2 ^ 8 % 2 ^ 2 = x8 ∧ n / 2 ^ 0 % 2 ^ 8 = x0 := by
  refine ⟨?_, ?_, ?_, ?_, ?_, ?_, ?_⟩ <;> omega

/-- A word laid out in fields of the widths named, the highest first: its opcode and its fields. -/
theorem Layout.w4_4_4_3_3_1_4_2 {n op x21 x17 x13 x10 x7 x6 x2 x0 : Nat} (b21 : x21 < 2 ^ 4) (b17 : x17 < 2 ^ 4) (b13 : x13 < 2 ^ 4) (b10 : x10 < 2 ^ 3) (b7 : x7 < 2 ^ 3) (b6 : x6 < 2 ^ 1) (b2 : x2 < 2 ^ 4) (b0 : x0 < 2 ^ 2)
    (e : n = op * 0x2000000 + x21 * 2 ^ 21 + x17 * 2 ^ 17 + x13 * 2 ^ 13 + x10 * 2 ^ 10 + x7 * 2 ^ 7 + x6 * 2 ^ 6 + x2 * 2 ^ 2 + x0 * 2 ^ 0) :
    n / 0x2000000 = op ∧ n / 2 ^ 21 % 2 ^ 4 = x21 ∧ n / 2 ^ 17 % 2 ^ 4 = x17 ∧ n / 2 ^ 13 % 2 ^ 4 = x13 ∧ n / 2 ^ 10 % 2 ^ 3 = x10 ∧ n / 2 ^ 7 % 2 ^ 3 = x7 ∧ n / 2 ^ 6 % 2 ^ 1 = x6 ∧ n / 2 ^ 2 % 2 ^ 4 = x2 ∧ n / 2 ^ 0 % 2 ^ 2 = x0 := by
  refine ⟨?_, ?_, ?_, ?_, ?_, ?_, ?_, ?_, ?_⟩ <;> omega

/-- A word laid out in fields of the widths named, the highest first: its opcode and its fields. -/
theorem Layout.w4_4_4_3_3_1_6 {n op x21 x17 x13 x10 x7 x6 x0 : Nat} (b21 : x21 < 2 ^ 4) (b17 : x17 < 2 ^ 4) (b13 : x13 < 2 ^ 4) (b10 : x10 < 2 ^ 3) (b7 : x7 < 2 ^ 3) (b6 : x6 < 2 ^ 1) (b0 : x0 < 2 ^ 6)
    (e : n = op * 0x2000000 + x21 * 2 ^ 21 + x17 * 2 ^ 17 + x13 * 2 ^ 13 + x10 * 2 ^ 10 + x7 * 2 ^ 7 + x6 * 2 ^ 6 + x0 * 2 ^ 0) :
    n / 0x2000000 = op ∧ n / 2 ^ 21 % 2 ^ 4 = x21 ∧ n / 2 ^ 17 % 2 ^ 4 = x17 ∧ n / 2 ^ 13 % 2 ^ 4 = x13 ∧ n / 2 ^ 10 % 2 ^ 3 = x10 ∧ n / 2 ^ 7 % 2 ^ 3 = x7 ∧ n / 2 ^ 6 % 2 ^ 1 = x6 ∧ n / 2 ^ 0 % 2 ^ 6 = x0 := by
  refine ⟨?_, ?_, ?_, ?_, ?_, ?_, ?_, ?_⟩ <;> omega

/-- A word laid out in fields of the widths named, the highest first: its opcode and its fields. -/
theorem Layout.w4_4_4_3_10 {n op x21 x17 x13 x10 x0 : Nat} (b21 : x21 < 2 ^ 4) (b17 : x17 < 2 ^ 4) (b13 : x13 < 2 ^ 4) (b10 : x10 < 2 ^ 3) (b0 : x0 < 2 ^ 10)
    (e : n = op * 0x2000000 + x21 * 2 ^ 21 + x17 * 2 ^ 17 + x13 * 2 ^ 13 + x10 * 2 ^ 10 + x0 * 2 ^ 0) :
    n / 0x2000000 = op ∧ n / 2 ^ 21 % 2 ^ 4 = x21 ∧ n / 2 ^ 17 % 2 ^ 4 = x17 ∧ n / 2 ^ 13 % 2 ^ 4 = x13 ∧ n / 2 ^ 10 % 2 ^ 3 = x10 ∧ n / 2 ^ 0 % 2 ^ 10 = x0 := by
  refine ⟨?_, ?_, ?_, ?_, ?_, ?_⟩ <;> omega

/-- A word laid out in fields of the widths named, the highest first: its opcode and its fields. -/
theorem Layout.w4_8_3_9_1 {n op x21 x13 x10 x1 x0 : Nat} (b21 : x21 < 2 ^ 4) (b13 : x13 < 2 ^ 8) (b10 : x10 < 2 ^ 3) (b1 : x1 < 2 ^ 9) (b0 : x0 < 2 ^ 1)
    (e : n = op * 0x2000000 + x21 * 2 ^ 21 + x13 * 2 ^ 13 + x10 * 2 ^ 10 + x1 * 2 ^ 1 + x0 * 2 ^ 0) :
    n / 0x2000000 = op ∧ n / 2 ^ 21 % 2 ^ 4 = x21 ∧ n / 2 ^ 13 % 2 ^ 8 = x13 ∧ n / 2 ^ 10 % 2 ^ 3 = x10 ∧ n / 2 ^ 1 % 2 ^ 9 = x1 ∧ n / 2 ^ 0 % 2 ^ 1 = x0 := by
  refine ⟨?_, ?_, ?_, ?_, ?_, ?_⟩ <;> omega

/-- A word laid out in fields of the widths named, the highest first: its opcode and its fields. -/
theorem Layout.w4_15_2_4 {n op x21 x6 x4 x0 : Nat} (b21 : x21 < 2 ^ 4) (b6 : x6 < 2 ^ 15) (b4 : x4 < 2 ^ 2) (b0 : x0 < 2 ^ 4)
    (e : n = op * 0x2000000 + x21 * 2 ^ 21 + x6 * 2 ^ 6 + x4 * 2 ^ 4 + x0 * 2 ^ 0) :
    n / 0x2000000 = op ∧ n / 2 ^ 21 % 2 ^ 4 = x21 ∧ n / 2 ^ 6 % 2 ^ 15 = x6 ∧ n / 2 ^ 4 % 2 ^ 2 = x4 ∧ n / 2 ^ 0 % 2 ^ 4 = x0 := by
  refine ⟨?_, ?_, ?_, ?_, ?_⟩ <;> omega

/-- A word laid out in fields of the widths named, the highest first: its opcode and its fields. -/
theorem Layout.w22_3 {n op x3 x0 : Nat} (b3 : x3 < 2 ^ 22) (b0 : x0 < 2 ^ 3)
    (e : n = op * 0x2000000 + x3 * 2 ^ 3 + x0 * 2 ^ 0) :
    n / 0x2000000 = op ∧ n / 2 ^ 3 % 2 ^ 22 = x3 ∧ n / 2 ^ 0 % 2 ^ 3 = x0 := by
  refine ⟨?_, ?_, ?_⟩ <;> omega

/-- A word laid out in fields of the widths named, the highest first: its opcode and its fields. -/
theorem Layout.w8_6_5_6 {n op x17 x11 x6 x0 : Nat} (b17 : x17 < 2 ^ 8) (b11 : x11 < 2 ^ 6) (b6 : x6 < 2 ^ 5) (b0 : x0 < 2 ^ 6)
    (e : n = op * 0x2000000 + x17 * 2 ^ 17 + x11 * 2 ^ 11 + x6 * 2 ^ 6 + x0 * 2 ^ 0) :
    n / 0x2000000 = op ∧ n / 2 ^ 17 % 2 ^ 8 = x17 ∧ n / 2 ^ 11 % 2 ^ 6 = x11 ∧ n / 2 ^ 6 % 2 ^ 5 = x6 ∧ n / 2 ^ 0 % 2 ^ 6 = x0 := by
  refine ⟨?_, ?_, ?_, ?_, ?_⟩ <;> omega

/-- A word laid out in fields of the widths named, the highest first: its opcode and its fields. -/
theorem Layout.w8_6_1_1_8_1 {n op x17 x11 x10 x9 x1 x0 : Nat} (b17 : x17 < 2 ^ 8) (b11 : x11 < 2 ^ 6) (b10 : x10 < 2 ^ 1) (b9 : x9 < 2 ^ 1) (b1 : x1 < 2 ^ 8) (b0 : x0 < 2 ^ 1)
    (e : n = op * 0x2000000 + x17 * 2 ^ 17 + x11 * 2 ^ 11 + x10 * 2 ^ 10 + x9 * 2 ^ 9 + x1 * 2 ^ 1 + x0 * 2 ^ 0) :
    n / 0x2000000 = op ∧ n / 2 ^ 17 % 2 ^ 8 = x17 ∧ n / 2 ^ 11 % 2 ^ 6 = x11 ∧ n / 2 ^ 10 % 2 ^ 1 = x10 ∧ n / 2 ^ 9 % 2 ^ 1 = x9 ∧ n / 2 ^ 1 % 2 ^ 8 = x1 ∧ n / 2 ^ 0 % 2 ^ 1 = x0 := by
  refine ⟨?_, ?_, ?_, ?_, ?_, ?_, ?_⟩ <;> omega

/-- A word laid out in fields of the widths named, the highest first: its opcode and its fields. -/
theorem Layout.w8_6_11 {n op x17 x11 x0 : Nat} (b17 : x17 < 2 ^ 8) (b11 : x11 < 2 ^ 6) (b0 : x0 < 2 ^ 11)
    (e : n = op * 0x2000000 + x17 * 2 ^ 17 + x11 * 2 ^ 11 + x0 * 2 ^ 0) :
    n / 0x2000000 = op ∧ n / 2 ^ 17 % 2 ^ 8 = x17 ∧ n / 2 ^ 11 % 2 ^ 6 = x11 ∧ n / 2 ^ 0 % 2 ^ 11 = x0 := by
  refine ⟨?_, ?_, ?_, ?_⟩ <;> omega

/-- A word laid out in fields of the widths named, the highest first: its opcode and its fields. -/
theorem Layout.w8_6_4_4_1_2 {n op x17 x11 x7 x3 x2 x0 : Nat} (b17 : x17 < 2 ^ 8) (b11 : x11 < 2 ^ 6) (b7 : x7 < 2 ^ 4) (b3 : x3 < 2 ^ 4) (b2 : x2 < 2 ^ 1) (b0 : x0 < 2 ^ 2)
    (e : n = op * 0x2000000 + x17 * 2 ^ 17 + x11 * 2 ^ 11 + x7 * 2 ^ 7 + x3 * 2 ^ 3 + x2 * 2 ^ 2 + x0 * 2 ^ 0) :
    n / 0x2000000 = op ∧ n / 2 ^ 17 % 2 ^ 8 = x17 ∧ n / 2 ^ 11 % 2 ^ 6 = x11 ∧ n / 2 ^ 7 % 2 ^ 4 = x7 ∧ n / 2 ^ 3 % 2 ^ 4 = x3 ∧ n / 2 ^ 2 % 2 ^ 1 = x2 ∧ n / 2 ^ 0 % 2 ^ 2 = x0 := by
  refine ⟨?_, ?_, ?_, ?_, ?_, ?_, ?_⟩ <;> omega

/-- A word laid out in fields of the widths named, the highest first: its opcode and its fields. -/
theorem Layout.w12_1_4_2_6 {n op x13 x12 x8 x6 x0 : Nat} (b13 : x13 < 2 ^ 12) (b12 : x12 < 2 ^ 1) (b8 : x8 < 2 ^ 4) (b6 : x6 < 2 ^ 2) (b0 : x0 < 2 ^ 6)
    (e : n = op * 0x2000000 + x13 * 2 ^ 13 + x12 * 2 ^ 12 + x8 * 2 ^ 8 + x6 * 2 ^ 6 + x0 * 2 ^ 0) :
    n / 0x2000000 = op ∧ n / 2 ^ 13 % 2 ^ 12 = x13 ∧ n / 2 ^ 12 % 2 ^ 1 = x12 ∧ n / 2 ^ 8 % 2 ^ 4 = x8 ∧ n / 2 ^ 6 % 2 ^ 2 = x6 ∧ n / 2 ^ 0 % 2 ^ 6 = x0 := by
  refine ⟨?_, ?_, ?_, ?_, ?_, ?_⟩ <;> omega

/-- A word laid out in fields of the widths named, the highest first: its opcode and its fields. -/
theorem Layout.w4_4_4_13 {n op x21 x17 x13 x0 : Nat} (b21 : x21 < 2 ^ 4) (b17 : x17 < 2 ^ 4) (b13 : x13 < 2 ^ 4) (b0 : x0 < 2 ^ 13)
    (e : n = op * 0x2000000 + x21 * 2 ^ 21 + x17 * 2 ^ 17 + x13 * 2 ^ 13 + x0 * 2 ^ 0) :
    n / 0x2000000 = op ∧ n / 2 ^ 21 % 2 ^ 4 = x21 ∧ n / 2 ^ 17 % 2 ^ 4 = x17 ∧ n / 2 ^ 13 % 2 ^ 4 = x13 ∧ n / 2 ^ 0 % 2 ^ 13 = x0 := by
  refine ⟨?_, ?_, ?_, ?_, ?_⟩ <;> omega

/-- A word laid out in fields of the widths named, the highest first: its opcode and its fields. -/
theorem Layout.w4_4_4_12_1 {n op x21 x17 x13 x1 x0 : Nat} (b21 : x21 < 2 ^ 4) (b17 : x17 < 2 ^ 4) (b13 : x13 < 2 ^ 4) (b1 : x1 < 2 ^ 12) (b0 : x0 < 2 ^ 1)
    (e : n = op * 0x2000000 + x21 * 2 ^ 21 + x17 * 2 ^ 17 + x13 * 2 ^ 13 + x1 * 2 ^ 1 + x0 * 2 ^ 0) :
    n / 0x2000000 = op ∧ n / 2 ^ 21 % 2 ^ 4 = x21 ∧ n / 2 ^ 17 % 2 ^ 4 = x17 ∧ n / 2 ^ 13 % 2 ^ 4 = x13 ∧ n / 2 ^ 1 % 2 ^ 12 = x1 ∧ n / 2 ^ 0 % 2 ^ 1 = x0 := by
  refine ⟨?_, ?_, ?_, ?_, ?_, ?_⟩ <;> omega

/-- A word laid out in fields of the widths named, the highest first: its opcode and its fields. -/
theorem Layout.w4_4_4_10_3 {n op x21 x17 x13 x3 x0 : Nat} (b21 : x21 < 2 ^ 4) (b17 : x17 < 2 ^ 4) (b13 : x13 < 2 ^ 4) (b3 : x3 < 2 ^ 10) (b0 : x0 < 2 ^ 3)
    (e : n = op * 0x2000000 + x21 * 2 ^ 21 + x17 * 2 ^ 17 + x13 * 2 ^ 13 + x3 * 2 ^ 3 + x0 * 2 ^ 0) :
    n / 0x2000000 = op ∧ n / 2 ^ 21 % 2 ^ 4 = x21 ∧ n / 2 ^ 17 % 2 ^ 4 = x17 ∧ n / 2 ^ 13 % 2 ^ 4 = x13 ∧ n / 2 ^ 3 % 2 ^ 10 = x3 ∧ n / 2 ^ 0 % 2 ^ 3 = x0 := by
  refine ⟨?_, ?_, ?_, ?_, ?_, ?_⟩ <;> omega

/-- A word laid out in fields of the widths named, the highest first: its opcode and its fields. -/
theorem Layout.w4_4_4_4_9 {n op x21 x17 x13 x9 x0 : Nat} (b21 : x21 < 2 ^ 4) (b17 : x17 < 2 ^ 4) (b13 : x13 < 2 ^ 4) (b9 : x9 < 2 ^ 4) (b0 : x0 < 2 ^ 9)
    (e : n = op * 0x2000000 + x21 * 2 ^ 21 + x17 * 2 ^ 17 + x13 * 2 ^ 13 + x9 * 2 ^ 9 + x0 * 2 ^ 0) :
    n / 0x2000000 = op ∧ n / 2 ^ 21 % 2 ^ 4 = x21 ∧ n / 2 ^ 17 % 2 ^ 4 = x17 ∧ n / 2 ^ 13 % 2 ^ 4 = x13 ∧ n / 2 ^ 9 % 2 ^ 4 = x9 ∧ n / 2 ^ 0 % 2 ^ 9 = x0 := by
  refine ⟨?_, ?_, ?_, ?_, ?_, ?_⟩ <;> omega

/-- A word laid out in fields of the widths named, the highest first: its opcode and its fields. -/
theorem Layout.w4_4_17 {n op x21 x17 x0 : Nat} (b21 : x21 < 2 ^ 4) (b17 : x17 < 2 ^ 4) (b0 : x0 < 2 ^ 17)
    (e : n = op * 0x2000000 + x21 * 2 ^ 21 + x17 * 2 ^ 17 + x0 * 2 ^ 0) :
    n / 0x2000000 = op ∧ n / 2 ^ 21 % 2 ^ 4 = x21 ∧ n / 2 ^ 17 % 2 ^ 4 = x17 ∧ n / 2 ^ 0 % 2 ^ 17 = x0 := by
  refine ⟨?_, ?_, ?_, ?_⟩ <;> omega

/-- A word laid out in fields of the widths named, the highest first: its opcode and its fields. -/
theorem Layout.w4_4_4_4_8_1 {n op x21 x17 x13 x9 x1 x0 : Nat} (b21 : x21 < 2 ^ 4) (b17 : x17 < 2 ^ 4) (b13 : x13 < 2 ^ 4) (b9 : x9 < 2 ^ 4) (b1 : x1 < 2 ^ 8) (b0 : x0 < 2 ^ 1)
    (e : n = op * 0x2000000 + x21 * 2 ^ 21 + x17 * 2 ^ 17 + x13 * 2 ^ 13 + x9 * 2 ^ 9 + x1 * 2 ^ 1 + x0 * 2 ^ 0) :
    n / 0x2000000 = op ∧ n / 2 ^ 21 % 2 ^ 4 = x21 ∧ n / 2 ^ 17 % 2 ^ 4 = x17 ∧ n / 2 ^ 13 % 2 ^ 4 = x13 ∧ n / 2 ^ 9 % 2 ^ 4 = x9 ∧ n / 2 ^ 1 % 2 ^ 8 = x1 ∧ n / 2 ^ 0 % 2 ^ 1 = x0 := by
  refine ⟨?_, ?_, ?_, ?_, ?_, ?_, ?_⟩ <;> omega

/-- A word laid out in fields of the widths named, the highest first: its opcode and its fields. -/
theorem Layout.w4_4_1_16 {n op x21 x17 x16 x0 : Nat} (b21 : x21 < 2 ^ 4) (b17 : x17 < 2 ^ 4) (b16 : x16 < 2 ^ 1) (b0 : x0 < 2 ^ 16)
    (e : n = op * 0x2000000 + x21 * 2 ^ 21 + x17 * 2 ^ 17 + x16 * 2 ^ 16 + x0 * 2 ^ 0) :
    n / 0x2000000 = op ∧ n / 2 ^ 21 % 2 ^ 4 = x21 ∧ n / 2 ^ 17 % 2 ^ 4 = x17 ∧ n / 2 ^ 16 % 2 ^ 1 = x16 ∧ n / 2 ^ 0 % 2 ^ 16 = x0 := by
  refine ⟨?_, ?_, ?_, ?_, ?_⟩ <;> omega

/-- A word laid out in fields of the widths named, the highest first: its opcode and its fields. -/
theorem Layout.w4_15_6 {n op x21 x6 x0 : Nat} (b21 : x21 < 2 ^ 4) (b6 : x6 < 2 ^ 15) (b0 : x0 < 2 ^ 6)
    (e : n = op * 0x2000000 + x21 * 2 ^ 21 + x6 * 2 ^ 6 + x0 * 2 ^ 0) :
    n / 0x2000000 = op ∧ n / 2 ^ 21 % 2 ^ 4 = x21 ∧ n / 2 ^ 6 % 2 ^ 15 = x6 ∧ n / 2 ^ 0 % 2 ^ 6 = x0 := by
  refine ⟨?_, ?_, ?_, ?_⟩ <;> omega

/-- A word laid out in fields of the widths named, the highest first: its opcode and its fields. -/
theorem Layout.w4_3_2_11_1_4 {n op x21 x18 x16 x5 x4 x0 : Nat} (b21 : x21 < 2 ^ 4) (b18 : x18 < 2 ^ 3) (b16 : x16 < 2 ^ 2) (b5 : x5 < 2 ^ 11) (b4 : x4 < 2 ^ 1) (b0 : x0 < 2 ^ 4)
    (e : n = op * 0x2000000 + x21 * 2 ^ 21 + x18 * 2 ^ 18 + x16 * 2 ^ 16 + x5 * 2 ^ 5 + x4 * 2 ^ 4 + x0 * 2 ^ 0) :
    n / 0x2000000 = op ∧ n / 2 ^ 21 % 2 ^ 4 = x21 ∧ n / 2 ^ 18 % 2 ^ 3 = x18 ∧ n / 2 ^ 16 % 2 ^ 2 = x16 ∧ n / 2 ^ 5 % 2 ^ 11 = x5 ∧ n / 2 ^ 4 % 2 ^ 1 = x4 ∧ n / 2 ^ 0 % 2 ^ 4 = x0 := by
  refine ⟨?_, ?_, ?_, ?_, ?_, ?_, ?_⟩ <;> omega

/-- A word laid out in fields of the widths named, the highest first: its opcode and its fields. -/
theorem Layout.w4_3_13_1_4 {n op x21 x18 x5 x4 x0 : Nat} (b21 : x21 < 2 ^ 4) (b18 : x18 < 2 ^ 3) (b5 : x5 < 2 ^ 13) (b4 : x4 < 2 ^ 1) (b0 : x0 < 2 ^ 4)
    (e : n = op * 0x2000000 + x21 * 2 ^ 21 + x18 * 2 ^ 18 + x5 * 2 ^ 5 + x4 * 2 ^ 4 + x0 * 2 ^ 0) :
    n / 0x2000000 = op ∧ n / 2 ^ 21 % 2 ^ 4 = x21 ∧ n / 2 ^ 18 % 2 ^ 3 = x18 ∧ n / 2 ^ 5 % 2 ^ 13 = x5 ∧ n / 2 ^ 4 % 2 ^ 1 = x4 ∧ n / 2 ^ 0 % 2 ^ 4 = x0 := by
  refine ⟨?_, ?_, ?_, ?_, ?_, ?_⟩ <;> omega

/-- A word laid out in fields of the widths named, the highest first: its opcode and its fields. -/
theorem Layout.w25 {n op x0 : Nat} (b0 : x0 < 2 ^ 25)
    (e : n = op * 0x2000000 + x0 * 2 ^ 0) :
    n / 0x2000000 = op ∧ n / 2 ^ 0 % 2 ^ 25 = x0 := by
  refine ⟨?_, ?_⟩ <;> omega

/-- A word laid out in fields of the widths named, the highest first: its opcode and its fields. -/
theorem Layout.w24_1 {n op x1 x0 : Nat} (b1 : x1 < 2 ^ 24) (b0 : x0 < 2 ^ 1)
    (e : n = op * 0x2000000 + x1 * 2 ^ 1 + x0 * 2 ^ 0) :
    n / 0x2000000 = op ∧ n / 2 ^ 1 % 2 ^ 24 = x1 ∧ n / 2 ^ 0 % 2 ^ 1 = x0 := by
  refine ⟨?_, ?_, ?_⟩ <;> omega

end Sys2Proof.Laws
end

