-- ==== Sys2Proof/Laws/WordC.lean ====
section
/-! SUPPORT. Decoding of the C stream: from the number of a word to its instruction, one lemma per constructor. -/

namespace Sys2Proof.Laws

theorem Word.c_pfx {wd : W32} (g : BitVec 4) (p : BitVec 1) (e : BitVec 4) (m : BitVec 4) (f : BitVec 12) (hf : fnAssigned (.pfx g p e m f) = true) (hv : valuesOk .c (.pfx g p e m f) = true)
    (he : wd.toNat = 0xFE000000 + g.toNat * 0x200000 + p.toNat * 0x100000 + e.toNat * 0x10000 + m.toNat * 0x1000 + f.toNat) : decodeC true wd = .ok (.pfx g p e m f) := by
  obtain ⟨h1, s21, s20, s16, s12, s0⟩ := Layout.w4_1_4_4_12 (op := 0x7F) (x21 := g.toNat) (x20 := p.toNat) (x16 := e.toNat) (x12 := m.toNat) (x0 := f.toNat) g.isLt p.isLt e.isLt m.isLt f.isLt (he.trans (by omega))
  have f0 : fld wd 21 4 = g := fld_eq s21
  have f1 : fld wd 20 1 = p := fld_eq s20
  have f2 : fld wd 16 4 = e := fld_eq s16
  have f3 : fld wd 12 4 = m := fld_eq s12
  have f4 : fld wd 0 12 = f := fld_eq s0
  have k1 : decodeCOp true (wd.toNat / 0x2000000) wd = finish .c wd (.pfx (fld wd 21 4) (fld wd 20 1) (fld wd 16 4) (fld wd 12 4) (fld wd 0 12)) [] := by rw [h1]; rfl
  rw [f0, f1, f2, f3, f4] at k1
  exact k1.trans (finish_ok hf hv resv_nil)

theorem Word.c_cla {wd : W32} (d : BitVec 4) (k : BitVec 2) (v : BitVec 16) (hf : fnAssigned (.cla d k v) = true) (hv : valuesOk .c (.cla d k v) = true)
    (he : wd.toNat = 0x02000000 + d.toNat * 0x200000 + k.toNat * 0x80000 + v.toNat) : decodeC true wd = .ok (.cla d k v) := by
  obtain ⟨h1, s21, s19, s16, s0⟩ := Layout.w4_2_3_16 (op := 0x01) (x21 := d.toNat) (x19 := k.toNat) (x16 := 0) (x0 := v.toNat) d.isLt k.isLt (by decide) v.isLt (he.trans (by omega))
  have f0 : fld wd 21 4 = d := fld_eq s21
  have f1 : fld wd 19 2 = k := fld_eq s19
  have f2 : fld wd 0 16 = v := fld_eq s0
  have k1 : decodeCOp true (wd.toNat / 0x2000000) wd = finish .c wd (.cla (fld wd 21 4) (fld wd 19 2) (fld wd 0 16)) [(16, 3)] := by rw [h1]; rfl
  rw [f0, f1, f2] at k1
  exact k1.trans (finish_ok hf hv (resv_cons s16 resv_nil))

theorem Word.c_cadd {wd : W32} (d : BitVec 4) (i : BitVec 20) (hf : fnAssigned (.cadd d i) = true) (hv : valuesOk .c (.cadd d i) = true)
    (he : wd.toNat = 0x04000000 + d.toNat * 0x200000 + i.toNat) : decodeC true wd = .ok (.cadd d i) := by
  obtain ⟨h1, s21, s20, s0⟩ := Layout.w4_1_20 (op := 0x02) (x21 := d.toNat) (x20 := 0) (x0 := i.toNat) d.isLt (by decide) i.isLt (he.trans (by omega))
  have f0 : fld wd 21 4 = d := fld_eq s21
  have f1 : fld wd 0 20 = i := fld_eq s0
  have k1 : decodeCOp true (wd.toNat / 0x2000000) wd = decodeC02 (wd.toNat / 0x100000 % 0x2) wd := by rw [h1]; rfl
  have k2 : decodeC02 (wd.toNat / 0x100000 % 0x2) wd = finish .c wd (.cadd (fld wd 21 4) (fld wd 0 20)) [] := by rw [show wd.toNat / 0x100000 % 0x2 = 0x0 from s20]; rfl
  rw [f0, f1] at k2
  exact k1.trans (k2.trans (finish_ok hf hv resv_nil))

theorem Word.c_caddReg {wd : W32} (d : BitVec 4) (s : BitVec 4) (hf : fnAssigned (.caddReg d s) = true) (hv : valuesOk .c (.caddReg d s) = true)
    (he : wd.toNat = 0x04100000 + d.toNat * 0x200000 + s.toNat) : decodeC true wd = .ok (.caddReg d s) := by
  obtain ⟨h1, s21, s20, s4, s0⟩ := Layout.w4_1_16_4 (op := 0x02) (x21 := d.toNat) (x20 := 1) (x4 := 0) (x0 := s.toNat) d.isLt (by decide) (by decide) s.isLt (he.trans (by omega))
  have f0 : fld wd 21 4 = d := fld_eq s21
  have f1 : fld wd 0 4 = s := fld_eq s0
  have k1 : decodeCOp true (wd.toNat / 0x2000000) wd = decodeC02 (wd.toNat / 0x100000 % 0x2) wd := by rw [h1]; rfl
  have k2 : decodeC02 (wd.toNat / 0x100000 % 0x2) wd = finish .c wd (.caddReg (fld wd 21 4) (fld wd 0 4)) [(4, 16)] := by rw [show wd.toNat / 0x100000 % 0x2 = 0x1 from s20]; rfl
  rw [f0, f1] at k2
  exact k1.trans (k2.trans (finish_ok hf hv (resv_cons s4 resv_nil)))

theorem Word.c_ccpy {wd : W32} (a : BitVec 4) (q : BitVec 3) (h : BitVec 8) (s : BitVec 8) (t : BitVec 1) (hf : fnAssigned (.ccpy a q h s t) = true) (hv : valuesOk .c (.ccpy a q h s t) = true)
    (he : wd.toNat = 0x10000000 + a.toNat * 0x200000 + q.toNat * 0x40000 + h.toNat * 0x400 + s.toNat * 0x4 + t.toNat * 0x2) : decodeC true wd = .ok (.ccpy a q h s t) := by
  obtain ⟨h1, s21, s18, s10, s2, s1, s0⟩ := Layout.w4_3_8_8_1_1 (op := 0x08) (x21 := a.toNat) (x18 := q.toNat) (x10 := h.toNat) (x2 := s.toNat) (x1 := t.toNat) (x0 := 0) a.isLt q.isLt h.isLt s.isLt t.isLt (by decide) (he.trans (by omega))
  have f0 : fld wd 21 4 = a := fld_eq s21
  have f1 : fld wd 18 3 = q := fld_eq s18
  have f2 : fld wd 10 8 = h := fld_eq s10
  have f3 : fld wd 2 8 = s := fld_eq s2
  have f4 : fld wd 1 1 = t := fld_eq s1
  have k1 : decodeCOp true (wd.toNat / 0x2000000) wd = decodeC08 (wd.toNat % 0x2) wd := by rw [h1]; rfl
  have k2 : decodeC08 (wd.toNat % 0x2) wd = finish .c wd (.ccpy (fld wd 21 4) (fld wd 18 3) (fld wd 10 8) (fld wd 2 8) (fld wd 1 1)) [] := by rw [show wd.toNat % 0x2 = 0x0 from (by simpa using s0)]; rfl
  rw [f0, f1, f2, f3, f4] at k2
  exact k1.trans (k2.trans (finish_ok hf hv resv_nil))

theorem Word.c_ccpyOut {wd : W32} (a : BitVec 4) (q : BitVec 3) (h : BitVec 8) (s : BitVec 8) (t : BitVec 1) (hf : fnAssigned (.ccpyOut a q h s t) = true) (hv : valuesOk .c (.ccpyOut a q h s t) = true)
    (he : wd.toNat = 0x10000001 + a.toNat * 0x200000 + q.toNat * 0x40000 + h.toNat * 0x400 + s.toNat * 0x4 + t.toNat * 0x2) : decodeC true wd = .ok (.ccpyOut a q h s t) := by
  obtain ⟨h1, s21, s18, s10, s2, s1, s0⟩ := Layout.w4_3_8_8_1_1 (op := 0x08) (x21 := a.toNat) (x18 := q.toNat) (x10 := h.toNat) (x2 := s.toNat) (x1 := t.toNat) (x0 := 1) a.isLt q.isLt h.isLt s.isLt t.isLt (by decide) (he.trans (by omega))
  have f0 : fld wd 21 4 = a := fld_eq s21
  have f1 : fld wd 18 3 = q := fld_eq s18
  have f2 : fld wd 10 8 = h := fld_eq s10
  have f3 : fld wd 2 8 = s := fld_eq s2
  have f4 : fld wd 1 1 = t := fld_eq s1
  have k1 : decodeCOp true (wd.toNat / 0x2000000) wd = decodeC08 (wd.toNat % 0x2) wd := by rw [h1]; rfl
  have k2 : decodeC08 (wd.toNat % 0x2) wd = finish .c wd (.ccpyOut (fld wd 21 4) (fld wd 18 3) (fld wd 10 8) (fld wd 2 8) (fld wd 1 1)) [] := by rw [show wd.toNat % 0x2 = 0x1 from (by simpa using s0)]; rfl
  rw [f0, f1, f2, f3, f4] at k2
  exact k1.trans (k2.trans (finish_ok hf hv resv_nil))

theorem Word.c_ccpys {wd : W32} (a : BitVec 4) (q : BitVec 3) (h : BitVec 8) (s : BitVec 8) (hf : fnAssigned (.ccpys a q h s) = true) (hv : valuesOk .c (.ccpys a q h s) = true)
    (he : wd.toNat = 0x12000000 + a.toNat * 0x200000 + q.toNat * 0x40000 + h.toNat * 0x400 + s.toNat * 0x4) : decodeC true wd = .ok (.ccpys a q h s) := by
  obtain ⟨h1, s21, s18, s10, s2, s0⟩ := Layout.w4_3_8_8_2 (op := 0x09) (x21 := a.toNat) (x18 := q.toNat) (x10 := h.toNat) (x2 := s.toNat) (x0 := 0) a.isLt q.isLt h.isLt s.isLt (by decide) (he.trans (by omega))
  have f0 : fld wd 21 4 = a := fld_eq s21
  have f1 : fld wd 18 3 = q := fld_eq s18
  have f2 : fld wd 10 8 = h := fld_eq s10
  have f3 : fld wd 2 8 = s := fld_eq s2
  have k1 : decodeCOp true (wd.toNat / 0x2000000) wd = finish .c wd (.ccpys (fld wd 21 4) (fld wd 18 3) (fld wd 10 8) (fld wd 2 8)) [(0, 2)] := by rw [h1]; rfl
  rw [f0, f1, f2, f3] at k1
  exact k1.trans (finish_ok hf hv (resv_cons s0 resv_nil))

theorem Word.c_cwst {wd : W32} (a : BitVec 4) (q : BitVec 3) (hf : fnAssigned (.cwst a q) = true) (hv : valuesOk .c (.cwst a q) = true)
    (he : wd.toNat = 0x14000000 + a.toNat * 0x200000 + q.toNat * 0x40000) : decodeC true wd = .ok (.cwst a q) := by
  obtain ⟨h1, s21, s18, s0⟩ := Layout.w4_3_18 (op := 0x0A) (x21 := a.toNat) (x18 := q.toNat) (x0 := 0) a.isLt q.isLt (by decide) (he.trans (by omega))
  have f0 : fld wd 21 4 = a := fld_eq s21
  have f1 : fld wd 18 3 = q := fld_eq s18
  have k1 : decodeCOp true (wd.toNat / 0x2000000) wd = finish .c wd (.cwst (fld wd 21 4) (fld wd 18 3)) [(0, 18)] := by rw [h1]; rfl
  rw [f0, f1] at k1
  exact k1.trans (finish_ok hf hv (resv_cons s0 resv_nil))

theorem Word.c_ctab {wd : W32} (q : BitVec 3) (h : BitVec 8) (hf : fnAssigned (.ctab q h) = true) (hv : valuesOk .c (.ctab q h) = true)
    (he : wd.toNat = 0x16000000 + q.toNat * 0x40000 + h.toNat * 0x400) : decodeC true wd = .ok (.ctab q h) := by
  obtain ⟨h1, s21, s18, s10, s0⟩ := Layout.w4_3_8_10 (op := 0x0B) (x21 := 0) (x18 := q.toNat) (x10 := h.toNat) (x0 := 0) (by decide) q.isLt h.isLt (by decide) (he.trans (by omega))
  have f0 : fld wd 18 3 = q := fld_eq s18
  have f1 : fld wd 10 8 = h := fld_eq s10
  have k1 : decodeCOp true (wd.toNat / 0x2000000) wd = finish .c wd (.ctab (fld wd 18 3) (fld wd 10 8)) [(0, 10), (21, 4)] := by rw [h1]; rfl
  rw [f0, f1] at k1
  exact k1.trans (finish_ok hf hv (resv_cons s0 (resv_cons s21 resv_nil)))

theorem Word.c_cgath {wd : W32} (a : BitVec 4) (b : BitVec 4) (c : BitVec 4) (q : BitVec 3) (h : BitVec 8) (hf : fnAssigned (.cgath a b c q h) = true) (hv : valuesOk .c (.cgath a b c q h) = true)
    (he : wd.toNat = 0x18000000 + a.toNat * 0x200000 + b.toNat * 0x20000 + c.toNat * 0x2000 + q.toNat * 0x400 + h.toNat) : decodeC true wd = .ok (.cgath a b c q h) := by
  obtain ⟨h1, s21, s17, s13, s10, s8, s0⟩ := Layout.w4_4_4_3_2_8 (op := 0x0C) (x21 := a.toNat) (x17 := b.toNat) (x13 := c.toNat) (x10 := q.toNat) (x8 := 0) (x0 := h.toNat) a.isLt b.isLt c.isLt q.isLt (by decide) h.isLt (he.trans (by omega))
  have f0 : fld wd 21 4 = a := fld_eq s21
  have f1 : fld wd 17 4 = b := fld_eq s17
  have f2 : fld wd 13 4 = c := fld_eq s13
  have f3 : fld wd 10 3 = q := fld_eq s10
  have f4 : fld wd 0 8 = h := fld_eq s0
  have k1 : decodeCOp true (wd.toNat / 0x2000000) wd = finish .c wd (.cgath (fld wd 21 4) (fld wd 17 4) (fld wd 13 4) (fld wd 10 3) (fld wd 0 8)) [(8, 2)] := by rw [h1]; rfl
  rw [f0, f1, f2, f3, f4] at k1
  exact k1.trans (finish_ok hf hv (resv_cons s8 resv_nil))

theorem Word.c_cscat {wd : W32} (a : BitVec 4) (b : BitVec 4) (c : BitVec 4) (q : BitVec 3) (h : BitVec 8) (hf : fnAssigned (.cscat a b c q h) = true) (hv : valuesOk .c (.cscat a b c q h) = true)
    (he : wd.toNat = 0x1A000000 + a.toNat * 0x200000 + b.toNat * 0x20000 + c.toNat * 0x2000 + q.toNat * 0x400 + h.toNat) : decodeC true wd = .ok (.cscat a b c q h) := by
  obtain ⟨h1, s21, s17, s13, s10, s8, s0⟩ := Layout.w4_4_4_3_2_8 (op := 0x0D) (x21 := a.toNat) (x17 := b.toNat) (x13 := c.toNat) (x10 := q.toNat) (x8 := 0) (x0 := h.toNat) a.isLt b.isLt c.isLt q.isLt (by decide) h.isLt (he.trans (by omega))
  have f0 : fld wd 21 4 = a := fld_eq s21
  have f1 : fld wd 17 4 = b := fld_eq s17
  have f2 : fld wd 13 4 = c := fld_eq s13
  have f3 : fld wd 10 3 = q := fld_eq s10
  have f4 : fld wd 0 8 = h := fld_eq s0
  have k1 : decodeCOp true (wd.toNat / 0x2000000) wd = finish .c wd (.cscat (fld wd 21 4) (fld wd 17 4) (fld wd 13 4) (fld wd 10 3) (fld wd 0 8)) [(8, 2)] := by rw [h1]; rfl
  rw [f0, f1, f2, f3, f4] at k1
  exact k1.trans (finish_ok hf hv (resv_cons s8 resv_nil))

theorem Word.c_cxfer {wd : W32} (a : BitVec 4) (q : BitVec 3) (h : BitVec 8) (hf : fnAssigned (.cxfer a q h) = true) (hv : valuesOk .c (.cxfer a q h) = true)
    (he : wd.toNat = 0x20000000 + a.toNat * 0x200000 + q.toNat * 0x40000 + h.toNat * 0x400) : decodeC true wd = .ok (.cxfer a q h) := by
  obtain ⟨h1, s21, s18, s10, s0⟩ := Layout.w4_3_8_10 (op := 0x10) (x21 := a.toNat) (x18 := q.toNat) (x10 := h.toNat) (x0 := 0) a.isLt q.isLt h.isLt (by decide) (he.trans (by omega))
  have f0 : fld wd 21 4 = a := fld_eq s21
  have f1 : fld wd 18 3 = q := fld_eq s18
  have f2 : fld wd 10 8 = h := fld_eq s10
  have k1 : decodeCOp true (wd.toNat / 0x2000000) wd = finish .c wd (.cxfer (fld wd 21 4) (fld wd 18 3) (fld wd 10 8)) [(0, 10)] := by rw [h1]; rfl
  rw [f0, f1, f2] at k1
  exact k1.trans (finish_ok hf hv (resv_cons s0 resv_nil))

theorem Word.c_cred {wd : W32} (a : BitVec 4) (b : BitVec 4) (c : BitVec 4) (q : BitVec 3) (x : BitVec 1) (l : BitVec 4) (o : BitVec 2) (hf : fnAssigned (.cred a b c q x l o) = true) (hv : valuesOk .c (.cred a b c q x l o) = true)
    (he : wd.toNat = 0x22000000 + a.toNat * 0x200000 + b.toNat * 0x20000 + c.toNat * 0x2000 + q.toNat * 0x400 + x.toNat * 0x40 + l.toNat * 0x4 + o.toNat) : decodeC true wd = .ok (.cred a b c q x l o) := by
  obtain ⟨h1, s21, s17, s13, s10, s7, s6, s2, s0⟩ := Layout.w4_4_4_3_3_1_4_2 (op := 0x11) (x21 := a.toNat) (x17 := b.toNat) (x13 := c.toNat) (x10 := q.toNat) (x7 := 0) (x6 := x.toNat) (x2 := l.toNat) (x0 := o.toNat) a.isLt b.isLt c.isLt q.isLt (by decide) x.isLt l.isLt o.isLt (he.trans (by omega))
  have f0 : fld wd 21 4 = a := fld_eq s21
  have f1 : fld wd 17 4 = b := fld_eq s17
  have f2 : fld wd 13 4 = c := fld_eq s13
  have f3 : fld wd 10 3 = q := fld_eq s10
  have f4 : fld wd 6 1 = x := fld_eq s6
  have f5 : fld wd 2 4 = l := fld_eq s2
  have f6 : fld wd 0 2 = o := fld_eq s0
  have k1 : decodeCOp true (wd.toNat / 0x2000000) wd = finish .c wd (.cred (fld wd 21 4) (fld wd 17 4) (fld wd 13 4) (fld wd 10 3) (fld wd 6 1) (fld wd 2 4) (fld wd 0 2)) [(7, 3)] := by rw [h1]; rfl
  rw [f0, f1, f2, f3, f4, f5, f6] at k1
  exact k1.trans (finish_ok hf hv (resv_cons s7 resv_nil))

theorem Word.c_cbcst {wd : W32} (a : BitVec 4) (b : BitVec 4) (c : BitVec 4) (q : BitVec 3) (x : BitVec 1) (hf : fnAssigned (.cbcst a b c q x) = true) (hv : valuesOk .c (.cbcst a b c q x) = true)
    (he : wd.toNat = 0x24000000 + a.toNat * 0x200000 + b.toNat * 0x20000 + c.toNat * 0x2000 + q.toNat * 0x400 + x.toNat * 0x40) : decodeC true wd = .ok (.cbcst a b c q x) := by
  obtain ⟨h1, s21, s17, s13, s10, s7, s6, s0⟩ := Layout.w4_4_4_3_3_1_6 (op := 0x12) (x21 := a.toNat) (x17 := b.toNat) (x13 := c.toNat) (x10 := q.toNat) (x7 := 0) (x6 := x.toNat) (x0 := 0) a.isLt b.isLt c.isLt q.isLt (by decide) x.isLt (by decide) (he.trans (by omega))
  have f0 : fld wd 21 4 = a := fld_eq s21
  have f1 : fld wd 17 4 = b := fld_eq s17
  have f2 : fld wd 13 4 = c := fld_eq s13
  have f3 : fld wd 10 3 = q := fld_eq s10
  have f4 : fld wd 6 1 = x := fld_eq s6
  have k1 : decodeCOp true (wd.toNat / 0x2000000) wd = finish .c wd (.cbcst (fld wd 21 4) (fld wd 17 4) (fld wd 13 4) (fld wd 10 3) (fld wd 6 1)) [(0, 6), (7, 3)] := by rw [h1]; rfl
  rw [f0, f1, f2, f3, f4] at k1
  exact k1.trans (finish_ok hf hv (resv_cons s0 (resv_cons s7 resv_nil)))

theorem Word.c_cpref {wd : W32} (a : BitVec 4) (b : BitVec 4) (q : BitVec 3) (hf : fnAssigned (.cpref a b q) = true) (hv : valuesOk .c (.cpref a b q) = true)
    (he : wd.toNat = 0x26000000 + a.toNat * 0x200000 + b.toNat * 0x20000 + q.toNat * 0x400) : decodeC true wd = .ok (.cpref a b q) := by
  obtain ⟨h1, s21, s17, s13, s10, s0⟩ := Layout.w4_4_4_3_10 (op := 0x13) (x21 := a.toNat) (x17 := b.toNat) (x13 := 0) (x10 := q.toNat) (x0 := 0) a.isLt b.isLt (by decide) q.isLt (by decide) (he.trans (by omega))
  have f0 : fld wd 21 4 = a := fld_eq s21
  have f1 : fld wd 17 4 = b := fld_eq s17
  have f2 : fld wd 10 3 = q := fld_eq s10
  have k1 : decodeCOp true (wd.toNat / 0x2000000) wd = finish .c wd (.cpref (fld wd 21 4) (fld wd 17 4) (fld wd 10 3)) [(0, 10), (13, 4)] := by rw [h1]; rfl
  rw [f0, f1, f2] at k1
  exact k1.trans (finish_ok hf hv (resv_cons s0 (resv_cons s13 resv_nil)))

theorem Word.c_cmig {wd : W32} (a : BitVec 4) (q : BitVec 3) (t : BitVec 1) (hf : fnAssigned (.cmig a q t) = true) (hv : valuesOk .c (.cmig a q t) = true)
    (he : wd.toNat = 0x28000000 + a.toNat * 0x200000 + q.toNat * 0x400 + t.toNat) : decodeC true wd = .ok (.cmig a q t) := by
  obtain ⟨h1, s21, s13, s10, s1, s0⟩ := Layout.w4_8_3_9_1 (op := 0x14) (x21 := a.toNat) (x13 := 0) (x10 := q.toNat) (x1 := 0) (x0 := t.toNat) a.isLt (by decide) q.isLt (by decide) t.isLt (he.trans (by omega))
  have f0 : fld wd 21 4 = a := fld_eq s21
  have f1 : fld wd 10 3 = q := fld_eq s10
  have f2 : fld wd 0 1 = t := fld_eq s0
  have k1 : decodeCOp true (wd.toNat / 0x2000000) wd = finish .c wd (.cmig (fld wd 21 4) (fld wd 10 3) (fld wd 0 1)) [(1, 9), (13, 8)] := by rw [h1]; rfl
  rw [f0, f1, f2] at k1
  exact k1.trans (finish_ok hf hv (resv_cons s1 (resv_cons s13 resv_nil)))

theorem Word.c_crrd {wd : W32} (a : BitVec 4) (b : BitVec 4) (c : BitVec 4) (q : BitVec 3) (hf : fnAssigned (.crrd a b c q) = true) (hv : valuesOk .c (.crrd a b c q) = true)
    (he : wd.toNat = 0x2A000000 + a.toNat * 0x200000 + b.toNat * 0x20000 + c.toNat * 0x2000 + q.toNat * 0x400) : decodeC true wd = .ok (.crrd a b c q) := by
  obtain ⟨h1, s21, s17, s13, s10, s0⟩ := Layout.w4_4_4_3_10 (op := 0x15) (x21 := a.toNat) (x17 := b.toNat) (x13 := c.toNat) (x10 := q.toNat) (x0 := 0) a.isLt b.isLt c.isLt q.isLt (by decide) (he.trans (by omega))
  have f0 : fld wd 21 4 = a := fld_eq s21
  have f1 : fld wd 17 4 = b := fld_eq s17
  have f2 : fld wd 13 4 = c := fld_eq s13
  have f3 : fld wd 10 3 = q := fld_eq s10
  have k1 : decodeCOp true (wd.toNat / 0x2000000) wd = finish .c wd (.crrd (fld wd 21 4) (fld wd 17 4) (fld wd 13 4) (fld wd 10 3)) [(0, 10)] := by rw [h1]; rfl
  rw [f0, f1, f2, f3] at k1
  exact k1.trans (finish_ok hf hv (resv_cons s0 resv_nil))

theorem Word.c_cwaitm {wd : W32} (m : BitVec 8) (hf : fnAssigned (.cwaitm m) = true) (hv : valuesOk .c (.cwaitm m) = true)
    (he : wd.toNat = 0x30000000 + m.toNat) : decodeC true wd = .ok (.cwaitm m) := by
  obtain ⟨h1, s8, s0⟩ := Layout.w17_8 (op := 0x18) (x8 := 0) (x0 := m.toNat) (by decide) m.isLt (he.trans (by omega))
  have f0 : fld wd 0 8 = m := fld_eq s0
  have k1 : decodeCOp true (wd.toNat / 0x2000000) wd = finish .c wd (.cwaitm (fld wd 0 8)) [(8, 17)] := by rw [h1]; rfl
  rw [f0] at k1
  exact k1.trans (finish_ok hf hv (resv_cons s8 resv_nil))

theorem Word.c_ctoks {wd : W32} (d : BitVec 4) (v : BitVec 16) (c : BitVec 4) (hf : fnAssigned (.ctoks d v c) = true) (hv : valuesOk .c (.ctoks d v c) = true)
    (he : wd.toNat = 0x32000000 + d.toNat * 0x200000 + v.toNat * 0x10 + c.toNat) : decodeC true wd = .ok (.ctoks d v c) := by
  obtain ⟨h1, s21, s20, s4, s0⟩ := Layout.w4_1_16_4 (op := 0x19) (x21 := d.toNat) (x20 := 0) (x4 := v.toNat) (x0 := c.toNat) d.isLt (by decide) v.isLt c.isLt (he.trans (by omega))
  have f0 : fld wd 21 4 = d := fld_eq s21
  have f1 : fld wd 4 16 = v := fld_eq s4
  have f2 : fld wd 0 4 = c := fld_eq s0
  have k1 : decodeCOp true (wd.toNat / 0x2000000) wd = decodeC19 (wd.toNat / 0x100000 % 0x2) wd := by rw [h1]; rfl
  have k2 : decodeC19 (wd.toNat / 0x100000 % 0x2) wd = finish .c wd (.ctoks (fld wd 21 4) (fld wd 4 16) (fld wd 0 4)) [] := by rw [show wd.toNat / 0x100000 % 0x2 = 0x0 from s20]; rfl
  rw [f0, f1, f2] at k2
  exact k1.trans (k2.trans (finish_ok hf hv resv_nil))

theorem Word.c_ctoksAll {wd : W32} (d : BitVec 4) (v : BitVec 16) (c : BitVec 4) (hf : fnAssigned (.ctoksAll d v c) = true) (hv : valuesOk .c (.ctoksAll d v c) = true)
    (he : wd.toNat = 0x32100000 + d.toNat * 0x200000 + v.toNat * 0x10 + c.toNat) : decodeC true wd = .ok (.ctoksAll d v c) := by
  obtain ⟨h1, s21, s20, s4, s0⟩ := Layout.w4_1_16_4 (op := 0x19) (x21 := d.toNat) (x20 := 1) (x4 := v.toNat) (x0 := c.toNat) d.isLt (by decide) v.isLt c.isLt (he.trans (by omega))
  have f0 : fld wd 21 4 = d := fld_eq s21
  have f1 : fld wd 4 16 = v := fld_eq s4
  have f2 : fld wd 0 4 = c := fld_eq s0
  have k1 : decodeCOp true (wd.toNat / 0x2000000) wd = decodeC19 (wd.toNat / 0x100000 % 0x2) wd := by rw [h1]; rfl
  have k2 : decodeC19 (wd.toNat / 0x100000 % 0x2) wd = finish .c wd (.ctoksAll (fld wd 21 4) (fld wd 4 16) (fld wd 0 4)) [] := by rw [show wd.toNat / 0x100000 % 0x2 = 0x1 from s20]; rfl
  rw [f0, f1, f2] at k2
  exact k1.trans (k2.trans (finish_ok hf hv resv_nil))

theorem Word.c_ctokw {wd : W32} (c : BitVec 4) (hf : fnAssigned (.ctokw c) = true) (hv : valuesOk .c (.ctokw c) = true)
    (he : wd.toNat = 0x34000000 + c.toNat) : decodeC true wd = .ok (.ctokw c) := by
  obtain ⟨h1, s6, s4, s0⟩ := Layout.w19_2_4 (op := 0x1A) (x6 := 0) (x4 := 0) (x0 := c.toNat) (by decide) (by decide) c.isLt (he.trans (by omega))
  have f0 : fld wd 0 4 = c := fld_eq s0
  have k1 : decodeCOp true (wd.toNat / 0x2000000) wd = decodeC1A (wd.toNat / 0x10 % 0x4) wd := by rw [h1]; rfl
  have k2 : decodeC1A (wd.toNat / 0x10 % 0x4) wd = finish .c wd (.ctokw (fld wd 0 4)) [(6, 19)] := by rw [show wd.toNat / 0x10 % 0x4 = 0x0 from s4]; rfl
  rw [f0] at k2
  exact k1.trans (k2.trans (finish_ok hf hv (resv_cons s6 resv_nil)))

theorem Word.c_ctokwLd {wd : W32} (d : BitVec 4) (c : BitVec 4) (hf : fnAssigned (.ctokwLd d c) = true) (hv : valuesOk .c (.ctokwLd d c) = true)
    (he : wd.toNat = 0x34000010 + d.toNat * 0x200000 + c.toNat) : decodeC true wd = .ok (.ctokwLd d c) := by
  obtain ⟨h1, s21, s6, s4, s0⟩ := Layout.w4_15_2_4 (op := 0x1A) (x21 := d.toNat) (x6 := 0) (x4 := 1) (x0 := c.toNat) d.isLt (by decide) (by decide) c.isLt (he.trans (by omega))
  have f0 : fld wd 21 4 = d := fld_eq s21
  have f1 : fld wd 0 4 = c := fld_eq s0
  have k1 : decodeCOp true (wd.toNat / 0x2000000) wd = decodeC1A (wd.toNat / 0x10 % 0x4) wd := by rw [h1]; rfl
  have k2 : decodeC1A (wd.toNat / 0x10 % 0x4) wd = finish .c wd (.ctokwLd (fld wd 21 4) (fld wd 0 4)) [(6, 15)] := by rw [show wd.toNat / 0x10 % 0x4 = 0x1 from s4]; rfl
  rw [f0, f1] at k2
  exact k1.trans (k2.trans (finish_ok hf hv (resv_cons s6 resv_nil)))

theorem Word.c_ctokwAdd {wd : W32} (d : BitVec 4) (c : BitVec 4) (hf : fnAssigned (.ctokwAdd d c) = true) (hv : valuesOk .c (.ctokwAdd d c) = true)
    (he : wd.toNat = 0x34000020 + d.toNat * 0x200000 + c.toNat) : decodeC true wd = .ok (.ctokwAdd d c) := by
  obtain ⟨h1, s21, s6, s4, s0⟩ := Layout.w4_15_2_4 (op := 0x1A) (x21 := d.toNat) (x6 := 0) (x4 := 2) (x0 := c.toNat) d.isLt (by decide) (by decide) c.isLt (he.trans (by omega))
  have f0 : fld wd 21 4 = d := fld_eq s21
  have f1 : fld wd 0 4 = c := fld_eq s0
  have k1 : decodeCOp true (wd.toNat / 0x2000000) wd = decodeC1A (wd.toNat / 0x10 % 0x4) wd := by rw [h1]; rfl
  have k2 : decodeC1A (wd.toNat / 0x10 % 0x4) wd = finish .c wd (.ctokwAdd (fld wd 21 4) (fld wd 0 4)) [(6, 15)] := by rw [show wd.toNat / 0x10 % 0x4 = 0x2 from s4]; rfl
  rw [f0, f1] at k2
  exact k1.trans (k2.trans (finish_ok hf hv (resv_cons s6 resv_nil)))

theorem Word.c_ccue {wd : W32} (n : BitVec 20) (hf : fnAssigned (.ccue n) = true) (hv : valuesOk .c (.ccue n) = true)
    (he : wd.toNat = 0x36000000 + n.toNat) : decodeC true wd = .ok (.ccue n) := by
  obtain ⟨h1, s20, s0⟩ := Layout.w5_20 (op := 0x1B) (x20 := 0) (x0 := n.toNat) (by decide) n.isLt (he.trans (by omega))
  have f0 : fld wd 0 20 = n := fld_eq s0
  have k1 : decodeCOp true (wd.toNat / 0x2000000) wd = finish .c wd (.ccue (fld wd 0 20)) [(20, 5)] := by rw [h1]; rfl
  rw [f0] at k1
  exact k1.trans (finish_ok hf hv (resv_cons s20 resv_nil))

theorem Word.c_cfence {wd : W32} (s : BitVec 3) (hf : fnAssigned (.cfence s) = true) (hv : valuesOk .c (.cfence s) = true)
    (he : wd.toNat = 0x38000000 + s.toNat) : decodeC true wd = .ok (.cfence s) := by
  obtain ⟨h1, s3, s0⟩ := Layout.w22_3 (op := 0x1C) (x3 := 0) (x0 := s.toNat) (by decide) s.isLt (he.trans (by omega))
  have f0 : fld wd 0 3 = s := fld_eq s0
  have k1 : decodeCOp true (wd.toNat / 0x2000000) wd = finish .c wd (.cfence (fld wd 0 3)) [(3, 22)] := by rw [h1]; rfl
  rw [f0] at k1
  exact k1.trans (finish_ok hf hv (resv_cons s3 resv_nil))

theorem Word.c_cring {wd : W32} (r : BitVec 2) (c : BitVec 8) (h : BitVec 8) (hf : fnAssigned (.cring r c h) = true) (hv : valuesOk .c (.cring r c h) = true)
    (he : wd.toNat = 0x3C000000 + r.toNat * 0x10000 + c.toNat * 0x100 + h.toNat) : decodeC true wd = .ok (.cring r c h) := by
  obtain ⟨h1, s18, s16, s8, s0⟩ := Layout.w7_2_8_8 (op := 0x1E) (x18 := 0) (x16 := r.toNat) (x8 := c.toNat) (x0 := h.toNat) (by decide) r.isLt c.isLt h.isLt (he.trans (by omega))
  have f0 : fld wd 16 2 = r := fld_eq s16
  have f1 : fld wd 8 8 = c := fld_eq s8
  have f2 : fld wd 0 8 = h := fld_eq s0
  have k1 : decodeCOp true (wd.toNat / 0x2000000) wd = finish .c wd (.cring (fld wd 16 2) (fld wd 8 8) (fld wd 0 8)) [(18, 7)] := by rw [h1]; rfl
  rw [f0, f1, f2] at k1
  exact k1.trans (finish_ok hf hv (resv_cons s18 resv_nil))

theorem Word.c_cnop {wd : W32} (hf : fnAssigned .cnop = true) (hv : valuesOk .c .cnop = true)
    (he : wd.toNat = 0x3A000000) : decodeC true wd = .ok .cnop := by
  obtain ⟨h1, s0⟩ := Layout.w25 (op := 0x1D) (x0 := 0) (by decide) (he.trans (by omega))
  have k1 : decodeCOp true (wd.toNat / 0x2000000) wd = finish .c wd .cnop [(0, 25)] := by rw [h1]; rfl
  exact k1.trans (finish_ok hf hv (resv_cons s0 resv_nil))

end Sys2Proof.Laws
end

