-- ==== Sys2Proof/Laws/WordE.lean ====
section
/-! SUPPORT. Decoding of the E syllables: from the number of a word to its instruction, one lemma per constructor. -/

namespace Sys2Proof.Laws

theorem Word.e_eAdd {wd : W32} (d : BitVec 4) (a : BitVec 4) (b : BitVec 4) (hf : fnAssigned (.eAdd d a b) = true) (hv : valuesOk .e (.eAdd d a b) = true)
    (he : wd.toNat = 0x02000000 + d.toNat * 0x200000 + a.toNat * 0x20000 + b.toNat * 0x2000) : decodeE wd = .ok (.eAdd d a b) := by
  obtain ⟨h1, s21, s17, s13, s0⟩ := Layout.w4_4_4_13 (op := 0x01) (x21 := d.toNat) (x17 := a.toNat) (x13 := b.toNat) (x0 := 0) d.isLt a.isLt b.isLt (by decide) (he.trans (by omega))
  have f0 : fld wd 21 4 = d := fld_eq s21
  have f1 : fld wd 17 4 = a := fld_eq s17
  have f2 : fld wd 13 4 = b := fld_eq s13
  have k1 : decodeEOp (wd.toNat / 0x2000000) wd = finish .e wd (.eAdd (fld wd 21 4) (fld wd 17 4) (fld wd 13 4)) [(0, 13)] := by rw [h1]; rfl
  rw [f0, f1, f2] at k1
  exact k1.trans (finish_ok hf hv (resv_cons s0 resv_nil))

theorem Word.e_eSub {wd : W32} (d : BitVec 4) (a : BitVec 4) (b : BitVec 4) (hf : fnAssigned (.eSub d a b) = true) (hv : valuesOk .e (.eSub d a b) = true)
    (he : wd.toNat = 0x04000000 + d.toNat * 0x200000 + a.toNat * 0x20000 + b.toNat * 0x2000) : decodeE wd = .ok (.eSub d a b) := by
  obtain ⟨h1, s21, s17, s13, s0⟩ := Layout.w4_4_4_13 (op := 0x02) (x21 := d.toNat) (x17 := a.toNat) (x13 := b.toNat) (x0 := 0) d.isLt a.isLt b.isLt (by decide) (he.trans (by omega))
  have f0 : fld wd 21 4 = d := fld_eq s21
  have f1 : fld wd 17 4 = a := fld_eq s17
  have f2 : fld wd 13 4 = b := fld_eq s13
  have k1 : decodeEOp (wd.toNat / 0x2000000) wd = finish .e wd (.eSub (fld wd 21 4) (fld wd 17 4) (fld wd 13 4)) [(0, 13)] := by rw [h1]; rfl
  rw [f0, f1, f2] at k1
  exact k1.trans (finish_ok hf hv (resv_cons s0 resv_nil))

theorem Word.e_eAnd {wd : W32} (d : BitVec 4) (a : BitVec 4) (b : BitVec 4) (hf : fnAssigned (.eAnd d a b) = true) (hv : valuesOk .e (.eAnd d a b) = true)
    (he : wd.toNat = 0x06000000 + d.toNat * 0x200000 + a.toNat * 0x20000 + b.toNat * 0x2000) : decodeE wd = .ok (.eAnd d a b) := by
  obtain ⟨h1, s21, s17, s13, s0⟩ := Layout.w4_4_4_13 (op := 0x03) (x21 := d.toNat) (x17 := a.toNat) (x13 := b.toNat) (x0 := 0) d.isLt a.isLt b.isLt (by decide) (he.trans (by omega))
  have f0 : fld wd 21 4 = d := fld_eq s21
  have f1 : fld wd 17 4 = a := fld_eq s17
  have f2 : fld wd 13 4 = b := fld_eq s13
  have k1 : decodeEOp (wd.toNat / 0x2000000) wd = finish .e wd (.eAnd (fld wd 21 4) (fld wd 17 4) (fld wd 13 4)) [(0, 13)] := by rw [h1]; rfl
  rw [f0, f1, f2] at k1
  exact k1.trans (finish_ok hf hv (resv_cons s0 resv_nil))

theorem Word.e_eOr {wd : W32} (d : BitVec 4) (a : BitVec 4) (b : BitVec 4) (hf : fnAssigned (.eOr d a b) = true) (hv : valuesOk .e (.eOr d a b) = true)
    (he : wd.toNat = 0x08000000 + d.toNat * 0x200000 + a.toNat * 0x20000 + b.toNat * 0x2000) : decodeE wd = .ok (.eOr d a b) := by
  obtain ⟨h1, s21, s17, s13, s0⟩ := Layout.w4_4_4_13 (op := 0x04) (x21 := d.toNat) (x17 := a.toNat) (x13 := b.toNat) (x0 := 0) d.isLt a.isLt b.isLt (by decide) (he.trans (by omega))
  have f0 : fld wd 21 4 = d := fld_eq s21
  have f1 : fld wd 17 4 = a := fld_eq s17
  have f2 : fld wd 13 4 = b := fld_eq s13
  have k1 : decodeEOp (wd.toNat / 0x2000000) wd = finish .e wd (.eOr (fld wd 21 4) (fld wd 17 4) (fld wd 13 4)) [(0, 13)] := by rw [h1]; rfl
  rw [f0, f1, f2] at k1
  exact k1.trans (finish_ok hf hv (resv_cons s0 resv_nil))

theorem Word.e_eXor {wd : W32} (d : BitVec 4) (a : BitVec 4) (b : BitVec 4) (hf : fnAssigned (.eXor d a b) = true) (hv : valuesOk .e (.eXor d a b) = true)
    (he : wd.toNat = 0x0A000000 + d.toNat * 0x200000 + a.toNat * 0x20000 + b.toNat * 0x2000) : decodeE wd = .ok (.eXor d a b) := by
  obtain ⟨h1, s21, s17, s13, s0⟩ := Layout.w4_4_4_13 (op := 0x05) (x21 := d.toNat) (x17 := a.toNat) (x13 := b.toNat) (x0 := 0) d.isLt a.isLt b.isLt (by decide) (he.trans (by omega))
  have f0 : fld wd 21 4 = d := fld_eq s21
  have f1 : fld wd 17 4 = a := fld_eq s17
  have f2 : fld wd 13 4 = b := fld_eq s13
  have k1 : decodeEOp (wd.toNat / 0x2000000) wd = finish .e wd (.eXor (fld wd 21 4) (fld wd 17 4) (fld wd 13 4)) [(0, 13)] := by rw [h1]; rfl
  rw [f0, f1, f2] at k1
  exact k1.trans (finish_ok hf hv (resv_cons s0 resv_nil))

theorem Word.e_eShl {wd : W32} (d : BitVec 4) (a : BitVec 4) (b : BitVec 4) (hf : fnAssigned (.eShl d a b) = true) (hv : valuesOk .e (.eShl d a b) = true)
    (he : wd.toNat = 0x0C000000 + d.toNat * 0x200000 + a.toNat * 0x20000 + b.toNat * 0x2000) : decodeE wd = .ok (.eShl d a b) := by
  obtain ⟨h1, s21, s17, s13, s0⟩ := Layout.w4_4_4_13 (op := 0x06) (x21 := d.toNat) (x17 := a.toNat) (x13 := b.toNat) (x0 := 0) d.isLt a.isLt b.isLt (by decide) (he.trans (by omega))
  have f0 : fld wd 21 4 = d := fld_eq s21
  have f1 : fld wd 17 4 = a := fld_eq s17
  have f2 : fld wd 13 4 = b := fld_eq s13
  have k1 : decodeEOp (wd.toNat / 0x2000000) wd = finish .e wd (.eShl (fld wd 21 4) (fld wd 17 4) (fld wd 13 4)) [(0, 13)] := by rw [h1]; rfl
  rw [f0, f1, f2] at k1
  exact k1.trans (finish_ok hf hv (resv_cons s0 resv_nil))

theorem Word.e_eShr {wd : W32} (d : BitVec 4) (a : BitVec 4) (b : BitVec 4) (sg : BitVec 1) (hf : fnAssigned (.eShr d a b sg) = true) (hv : valuesOk .e (.eShr d a b sg) = true)
    (he : wd.toNat = 0x0E000000 + d.toNat * 0x200000 + a.toNat * 0x20000 + b.toNat * 0x2000 + sg.toNat) : decodeE wd = .ok (.eShr d a b sg) := by
  obtain ⟨h1, s21, s17, s13, s1, s0⟩ := Layout.w4_4_4_12_1 (op := 0x07) (x21 := d.toNat) (x17 := a.toNat) (x13 := b.toNat) (x1 := 0) (x0 := sg.toNat) d.isLt a.isLt b.isLt (by decide) sg.isLt (he.trans (by omega))
  have f0 : fld wd 21 4 = d := fld_eq s21
  have f1 : fld wd 17 4 = a := fld_eq s17
  have f2 : fld wd 13 4 = b := fld_eq s13
  have f3 : fld wd 0 1 = sg := fld_eq s0
  have k1 : decodeEOp (wd.toNat / 0x2000000) wd = finish .e wd (.eShr (fld wd 21 4) (fld wd 17 4) (fld wd 13 4) (fld wd 0 1)) [(1, 12)] := by rw [h1]; rfl
  rw [f0, f1, f2, f3] at k1
  exact k1.trans (finish_ok hf hv (resv_cons s1 resv_nil))

theorem Word.e_eCmp {wd : W32} (d : BitVec 4) (a : BitVec 4) (b : BitVec 4) (cc : BitVec 3) (hf : fnAssigned (.eCmp d a b cc) = true) (hv : valuesOk .e (.eCmp d a b cc) = true)
    (he : wd.toNat = 0x10000000 + d.toNat * 0x200000 + a.toNat * 0x20000 + b.toNat * 0x2000 + cc.toNat) : decodeE wd = .ok (.eCmp d a b cc) := by
  obtain ⟨h1, s21, s17, s13, s3, s0⟩ := Layout.w4_4_4_10_3 (op := 0x08) (x21 := d.toNat) (x17 := a.toNat) (x13 := b.toNat) (x3 := 0) (x0 := cc.toNat) d.isLt a.isLt b.isLt (by decide) cc.isLt (he.trans (by omega))
  have f0 : fld wd 21 4 = d := fld_eq s21
  have f1 : fld wd 17 4 = a := fld_eq s17
  have f2 : fld wd 13 4 = b := fld_eq s13
  have f3 : fld wd 0 3 = cc := fld_eq s0
  have k1 : decodeEOp (wd.toNat / 0x2000000) wd = finish .e wd (.eCmp (fld wd 21 4) (fld wd 17 4) (fld wd 13 4) (fld wd 0 3)) [(3, 10)] := by rw [h1]; rfl
  rw [f0, f1, f2, f3] at k1
  exact k1.trans (finish_ok hf hv (resv_cons s3 resv_nil))

theorem Word.e_eSel {wd : W32} (d : BitVec 4) (a : BitVec 4) (b : BitVec 4) (c : BitVec 4) (hf : fnAssigned (.eSel d a b c) = true) (hv : valuesOk .e (.eSel d a b c) = true)
    (he : wd.toNat = 0x12000000 + d.toNat * 0x200000 + a.toNat * 0x20000 + b.toNat * 0x2000 + c.toNat * 0x200) : decodeE wd = .ok (.eSel d a b c) := by
  obtain ⟨h1, s21, s17, s13, s9, s0⟩ := Layout.w4_4_4_4_9 (op := 0x09) (x21 := d.toNat) (x17 := a.toNat) (x13 := b.toNat) (x9 := c.toNat) (x0 := 0) d.isLt a.isLt b.isLt c.isLt (by decide) (he.trans (by omega))
  have f0 : fld wd 21 4 = d := fld_eq s21
  have f1 : fld wd 17 4 = a := fld_eq s17
  have f2 : fld wd 13 4 = b := fld_eq s13
  have f3 : fld wd 9 4 = c := fld_eq s9
  have k1 : decodeEOp (wd.toNat / 0x2000000) wd = finish .e wd (.eSel (fld wd 21 4) (fld wd 17 4) (fld wd 13 4) (fld wd 9 4)) [(0, 9)] := by rw [h1]; rfl
  rw [f0, f1, f2, f3] at k1
  exact k1.trans (finish_ok hf hv (resv_cons s0 resv_nil))

theorem Word.e_eMin {wd : W32} (d : BitVec 4) (a : BitVec 4) (b : BitVec 4) (u : BitVec 1) (hf : fnAssigned (.eMin d a b u) = true) (hv : valuesOk .e (.eMin d a b u) = true)
    (he : wd.toNat = 0x14000000 + d.toNat * 0x200000 + a.toNat * 0x20000 + b.toNat * 0x2000 + u.toNat) : decodeE wd = .ok (.eMin d a b u) := by
  obtain ⟨h1, s21, s17, s13, s1, s0⟩ := Layout.w4_4_4_12_1 (op := 0x0A) (x21 := d.toNat) (x17 := a.toNat) (x13 := b.toNat) (x1 := 0) (x0 := u.toNat) d.isLt a.isLt b.isLt (by decide) u.isLt (he.trans (by omega))
  have f0 : fld wd 21 4 = d := fld_eq s21
  have f1 : fld wd 17 4 = a := fld_eq s17
  have f2 : fld wd 13 4 = b := fld_eq s13
  have f3 : fld wd 0 1 = u := fld_eq s0
  have k1 : decodeEOp (wd.toNat / 0x2000000) wd = finish .e wd (.eMin (fld wd 21 4) (fld wd 17 4) (fld wd 13 4) (fld wd 0 1)) [(1, 12)] := by rw [h1]; rfl
  rw [f0, f1, f2, f3] at k1
  exact k1.trans (finish_ok hf hv (resv_cons s1 resv_nil))

theorem Word.e_eMax {wd : W32} (d : BitVec 4) (a : BitVec 4) (b : BitVec 4) (u : BitVec 1) (hf : fnAssigned (.eMax d a b u) = true) (hv : valuesOk .e (.eMax d a b u) = true)
    (he : wd.toNat = 0x16000000 + d.toNat * 0x200000 + a.toNat * 0x20000 + b.toNat * 0x2000 + u.toNat) : decodeE wd = .ok (.eMax d a b u) := by
  obtain ⟨h1, s21, s17, s13, s1, s0⟩ := Layout.w4_4_4_12_1 (op := 0x0B) (x21 := d.toNat) (x17 := a.toNat) (x13 := b.toNat) (x1 := 0) (x0 := u.toNat) d.isLt a.isLt b.isLt (by decide) u.isLt (he.trans (by omega))
  have f0 : fld wd 21 4 = d := fld_eq s21
  have f1 : fld wd 17 4 = a := fld_eq s17
  have f2 : fld wd 13 4 = b := fld_eq s13
  have f3 : fld wd 0 1 = u := fld_eq s0
  have k1 : decodeEOp (wd.toNat / 0x2000000) wd = finish .e wd (.eMax (fld wd 21 4) (fld wd 17 4) (fld wd 13 4) (fld wd 0 1)) [(1, 12)] := by rw [h1]; rfl
  rw [f0, f1, f2, f3] at k1
  exact k1.trans (finish_ok hf hv (resv_cons s1 resv_nil))

theorem Word.e_eMul16 {wd : W32} (d : BitVec 4) (a : BitVec 4) (b : BitVec 4) (u : BitVec 1) (hf : fnAssigned (.eMul16 d a b u) = true) (hv : valuesOk .e (.eMul16 d a b u) = true)
    (he : wd.toNat = 0x18000000 + d.toNat * 0x200000 + a.toNat * 0x20000 + b.toNat * 0x2000 + u.toNat) : decodeE wd = .ok (.eMul16 d a b u) := by
  obtain ⟨h1, s21, s17, s13, s1, s0⟩ := Layout.w4_4_4_12_1 (op := 0x0C) (x21 := d.toNat) (x17 := a.toNat) (x13 := b.toNat) (x1 := 0) (x0 := u.toNat) d.isLt a.isLt b.isLt (by decide) u.isLt (he.trans (by omega))
  have f0 : fld wd 21 4 = d := fld_eq s21
  have f1 : fld wd 17 4 = a := fld_eq s17
  have f2 : fld wd 13 4 = b := fld_eq s13
  have f3 : fld wd 0 1 = u := fld_eq s0
  have k1 : decodeEOp (wd.toNat / 0x2000000) wd = finish .e wd (.eMul16 (fld wd 21 4) (fld wd 17 4) (fld wd 13 4) (fld wd 0 1)) [(1, 12)] := by rw [h1]; rfl
  rw [f0, f1, f2, f3] at k1
  exact k1.trans (finish_ok hf hv (resv_cons s1 resv_nil))

theorem Word.e_ePopc {wd : W32} (d : BitVec 4) (a : BitVec 4) (hf : fnAssigned (.ePopc d a) = true) (hv : valuesOk .e (.ePopc d a) = true)
    (he : wd.toNat = 0x1A000000 + d.toNat * 0x200000 + a.toNat * 0x20000) : decodeE wd = .ok (.ePopc d a) := by
  obtain ⟨h1, s21, s17, s0⟩ := Layout.w4_4_17 (op := 0x0D) (x21 := d.toNat) (x17 := a.toNat) (x0 := 0) d.isLt a.isLt (by decide) (he.trans (by omega))
  have f0 : fld wd 21 4 = d := fld_eq s21
  have f1 : fld wd 17 4 = a := fld_eq s17
  have k1 : decodeEOp (wd.toNat / 0x2000000) wd = finish .e wd (.ePopc (fld wd 21 4) (fld wd 17 4)) [(0, 17)] := by rw [h1]; rfl
  rw [f0, f1] at k1
  exact k1.trans (finish_ok hf hv (resv_cons s0 resv_nil))

theorem Word.e_eMov {wd : W32} (d : BitVec 4) (a : BitVec 4) (hf : fnAssigned (.eMov d a) = true) (hv : valuesOk .e (.eMov d a) = true)
    (he : wd.toNat = 0x20000000 + d.toNat * 0x200000 + a.toNat * 0x20000) : decodeE wd = .ok (.eMov d a) := by
  obtain ⟨h1, s21, s17, s0⟩ := Layout.w4_4_17 (op := 0x10) (x21 := d.toNat) (x17 := a.toNat) (x0 := 0) d.isLt a.isLt (by decide) (he.trans (by omega))
  have f0 : fld wd 21 4 = d := fld_eq s21
  have f1 : fld wd 17 4 = a := fld_eq s17
  have k1 : decodeEOp (wd.toNat / 0x2000000) wd = finish .e wd (.eMov (fld wd 21 4) (fld wd 17 4)) [(0, 17)] := by rw [h1]; rfl
  rw [f0, f1] at k1
  exact k1.trans (finish_ok hf hv (resv_cons s0 resv_nil))

theorem Word.e_eCxch {wd : W32} (d : BitVec 4) (c : BitVec 4) (a : BitVec 4) (b : BitVec 4) (sg : BitVec 1) (hf : fnAssigned (.eCxch d c a b sg) = true) (hv : valuesOk .e (.eCxch d c a b sg) = true)
    (he : wd.toNat = 0x50000000 + d.toNat * 0x200000 + c.toNat * 0x200 + a.toNat * 0x20000 + b.toNat * 0x2000 + sg.toNat) : decodeE wd = .ok (.eCxch d c a b sg) := by
  obtain ⟨h1, s21, s17, s13, s9, s1, s0⟩ := Layout.w4_4_4_4_8_1 (op := 0x28) (x21 := d.toNat) (x17 := a.toNat) (x13 := b.toNat) (x9 := c.toNat) (x1 := 0) (x0 := sg.toNat) d.isLt a.isLt b.isLt c.isLt (by decide) sg.isLt (he.trans (by omega))
  have f0 : fld wd 21 4 = d := fld_eq s21
  have f1 : fld wd 9 4 = c := fld_eq s9
  have f2 : fld wd 17 4 = a := fld_eq s17
  have f3 : fld wd 13 4 = b := fld_eq s13
  have f4 : fld wd 0 1 = sg := fld_eq s0
  have k1 : decodeEOp (wd.toNat / 0x2000000) wd = finish .e wd (.eCxch (fld wd 21 4) (fld wd 9 4) (fld wd 17 4) (fld wd 13 4) (fld wd 0 1)) [(1, 8)] := by rw [h1]; rfl
  rw [f0, f1, f2, f3, f4] at k1
  exact k1.trans (finish_ok hf hv (resv_cons s1 resv_nil))

theorem Word.e_eLdi {wd : W32} (d : BitVec 4) (i : BitVec 17) (hf : fnAssigned (.eLdi d i) = true) (hv : valuesOk .e (.eLdi d i) = true)
    (he : wd.toNat = 0x22000000 + d.toNat * 0x200000 + i.toNat) : decodeE wd = .ok (.eLdi d i) := by
  obtain ⟨h1, s21, s17, s0⟩ := Layout.w4_4_17 (op := 0x11) (x21 := d.toNat) (x17 := 0) (x0 := i.toNat) d.isLt (by decide) i.isLt (he.trans (by omega))
  have f0 : fld wd 21 4 = d := fld_eq s21
  have f1 : fld wd 0 17 = i := fld_eq s0
  have k1 : decodeEOp (wd.toNat / 0x2000000) wd = decodeE11 (wd.toNat / 0x20000 % 0x10) wd := by rw [h1]; rfl
  have k2 : decodeE11 (wd.toNat / 0x20000 % 0x10) wd = finish .e wd (.eLdi (fld wd 21 4) (fld wd 0 17)) [] := by rw [show wd.toNat / 0x20000 % 0x10 = 0 from s17]; rfl
  rw [f0, f1] at k2
  exact k1.trans (k2.trans (finish_ok hf hv resv_nil))

theorem Word.e_eLdiH {wd : W32} (d : BitVec 4) (i : BitVec 16) (hf : fnAssigned (.eLdiH d i) = true) (hv : valuesOk .e (.eLdiH d i) = true)
    (he : wd.toNat = 0x22020000 + d.toNat * 0x200000 + i.toNat) : decodeE wd = .ok (.eLdiH d i) := by
  obtain ⟨h1, s21, s17, s16, s0⟩ := Layout.w4_4_1_16 (op := 0x11) (x21 := d.toNat) (x17 := 1) (x16 := 0) (x0 := i.toNat) d.isLt (by decide) (by decide) i.isLt (he.trans (by omega))
  have f0 : fld wd 21 4 = d := fld_eq s21
  have f1 : fld wd 0 16 = i := fld_eq s0
  have k1 : decodeEOp (wd.toNat / 0x2000000) wd = decodeE11 (wd.toNat / 0x20000 % 0x10) wd := by rw [h1]; rfl
  have k2 : decodeE11 (wd.toNat / 0x20000 % 0x10) wd = finish .e wd (.eLdiH (fld wd 21 4) (fld wd 0 16)) [(16, 1)] := by rw [show wd.toNat / 0x20000 % 0x10 = 1 from s17]; rfl
  rw [f0, f1] at k2
  exact k1.trans (k2.trans (finish_ok hf hv (resv_cons s16 resv_nil)))

theorem Word.e_eLds {wd : W32} (d : BitVec 4) (a : BitVec 4) (i : BitVec 17) (hf : fnAssigned (.eLds d a i) = true) (hv : valuesOk .e (.eLds d a i) = true)
    (he : wd.toNat = 0x40000000 + d.toNat * 0x200000 + a.toNat * 0x20000 + i.toNat) : decodeE wd = .ok (.eLds d a i) := by
  obtain ⟨h1, s21, s17, s0⟩ := Layout.w4_4_17 (op := 0x20) (x21 := d.toNat) (x17 := a.toNat) (x0 := i.toNat) d.isLt a.isLt i.isLt (he.trans (by omega))
  have f0 : fld wd 21 4 = d := fld_eq s21
  have f1 : fld wd 17 4 = a := fld_eq s17
  have f2 : fld wd 0 17 = i := fld_eq s0
  have k1 : decodeEOp (wd.toNat / 0x2000000) wd = finish .e wd (.eLds (fld wd 21 4) (fld wd 17 4) (fld wd 0 17)) [] := by rw [h1]; rfl
  rw [f0, f1, f2] at k1
  exact k1.trans (finish_ok hf hv resv_nil)

theorem Word.e_eSts {wd : W32} (s : BitVec 4) (a : BitVec 4) (i : BitVec 17) (hf : fnAssigned (.eSts s a i) = true) (hv : valuesOk .e (.eSts s a i) = true)
    (he : wd.toNat = 0x42000000 + s.toNat * 0x200000 + a.toNat * 0x20000 + i.toNat) : decodeE wd = .ok (.eSts s a i) := by
  obtain ⟨h1, s21, s17, s0⟩ := Layout.w4_4_17 (op := 0x21) (x21 := s.toNat) (x17 := a.toNat) (x0 := i.toNat) s.isLt a.isLt i.isLt (he.trans (by omega))
  have f0 : fld wd 21 4 = s := fld_eq s21
  have f1 : fld wd 17 4 = a := fld_eq s17
  have f2 : fld wd 0 17 = i := fld_eq s0
  have k1 : decodeEOp (wd.toNat / 0x2000000) wd = finish .e wd (.eSts (fld wd 21 4) (fld wd 17 4) (fld wd 0 17)) [] := by rw [h1]; rfl
  rw [f0, f1, f2] at k1
  exact k1.trans (finish_ok hf hv resv_nil)

theorem Word.e_eLoop {wd : W32} (d : BitVec 4) (t : BitVec 6) (hf : fnAssigned (.eLoop d t) = true) (hv : valuesOk .e (.eLoop d t) = true)
    (he : wd.toNat = 0x60000000 + d.toNat * 0x200000 + t.toNat) : decodeE wd = .ok (.eLoop d t) := by
  obtain ⟨h1, s21, s6, s0⟩ := Layout.w4_15_6 (op := 0x30) (x21 := d.toNat) (x6 := 0) (x0 := t.toNat) d.isLt (by decide) t.isLt (he.trans (by omega))
  have f0 : fld wd 21 4 = d := fld_eq s21
  have f1 : fld wd 0 6 = t := fld_eq s0
  have k1 : decodeEOp (wd.toNat / 0x2000000) wd = finish .e wd (.eLoop (fld wd 21 4) (fld wd 0 6)) [(6, 15)] := by rw [h1]; rfl
  rw [f0, f1] at k1
  exact k1.trans (finish_ok hf hv (resv_cons s6 resv_nil))

theorem Word.e_eRecv {wd : W32} (d : BitVec 4) (dir : BitVec 3) (hf : fnAssigned (.eRecv d dir) = true) (hv : valuesOk .e (.eRecv d dir) = true)
    (he : wd.toNat = 0x30000000 + d.toNat * 0x200000 + dir.toNat * 0x40000) : decodeE wd = .ok (.eRecv d dir) := by
  obtain ⟨h1, s21, s18, s0⟩ := Layout.w4_3_18 (op := 0x18) (x21 := d.toNat) (x18 := dir.toNat) (x0 := 0) d.isLt dir.isLt (by decide) (he.trans (by omega))
  have f0 : fld wd 21 4 = d := fld_eq s21
  have f1 : fld wd 18 3 = dir := fld_eq s18
  have k1 : decodeEOp (wd.toNat / 0x2000000) wd = finish .e wd (.eRecv (fld wd 21 4) (fld wd 18 3)) [(0, 18)] := by rw [h1]; rfl
  rw [f0, f1] at k1
  exact k1.trans (finish_ok hf hv (resv_cons s0 resv_nil))

theorem Word.e_eSend {wd : W32} (s : BitVec 4) (dir : BitVec 3) (hf : fnAssigned (.eSend s dir) = true) (hv : valuesOk .e (.eSend s dir) = true)
    (he : wd.toNat = 0x32000000 + s.toNat * 0x200000 + dir.toNat * 0x40000) : decodeE wd = .ok (.eSend s dir) := by
  obtain ⟨h1, s21, s18, s0⟩ := Layout.w4_3_18 (op := 0x19) (x21 := s.toNat) (x18 := dir.toNat) (x0 := 0) s.isLt dir.isLt (by decide) (he.trans (by omega))
  have f0 : fld wd 21 4 = s := fld_eq s21
  have f1 : fld wd 18 3 = dir := fld_eq s18
  have k1 : decodeEOp (wd.toNat / 0x2000000) wd = finish .e wd (.eSend (fld wd 21 4) (fld wd 18 3)) [(0, 18)] := by rw [h1]; rfl
  rw [f0, f1] at k1
  exact k1.trans (finish_ok hf hv (resv_cons s0 resv_nil))

theorem Word.e_ePeek {wd : W32} (d : BitVec 4) (dir : BitVec 3) (hf : fnAssigned (.ePeek d dir) = true) (hv : valuesOk .e (.ePeek d dir) = true)
    (he : wd.toNat = 0x34000000 + d.toNat * 0x200000 + dir.toNat * 0x40000) : decodeE wd = .ok (.ePeek d dir) := by
  obtain ⟨h1, s21, s18, s0⟩ := Layout.w4_3_18 (op := 0x1A) (x21 := d.toNat) (x18 := dir.toNat) (x0 := 0) d.isLt dir.isLt (by decide) (he.trans (by omega))
  have f0 : fld wd 21 4 = d := fld_eq s21
  have f1 : fld wd 18 3 = dir := fld_eq s18
  have k1 : decodeEOp (wd.toNat / 0x2000000) wd = finish .e wd (.ePeek (fld wd 21 4) (fld wd 18 3)) [(0, 18)] := by rw [h1]; rfl
  rw [f0, f1] at k1
  exact k1.trans (finish_ok hf hv (resv_cons s0 resv_nil))

theorem Word.e_eEmit {wd : W32} (s : BitVec 4) (dir : BitVec 3) (sc : BitVec 2) (hf : fnAssigned (.eEmit s dir sc) = true) (hv : valuesOk .e (.eEmit s dir sc) = true)
    (he : wd.toNat = 0x36000000 + s.toNat * 0x200000 + dir.toNat * 0x40000 + sc.toNat * 0x10000) : decodeE wd = .ok (.eEmit s dir sc) := by
  obtain ⟨h1, s21, s18, s16, s5, s4, s0⟩ := Layout.w4_3_2_11_1_4 (op := 0x1B) (x21 := s.toNat) (x18 := dir.toNat) (x16 := sc.toNat) (x5 := 0) (x4 := 0) (x0 := 0) s.isLt dir.isLt sc.isLt (by decide) (by decide) (by decide) (he.trans (by omega))
  have f0 : fld wd 21 4 = s := fld_eq s21
  have f1 : fld wd 18 3 = dir := fld_eq s18
  have f2 : fld wd 16 2 = sc := fld_eq s16
  have k1 : decodeEOp (wd.toNat / 0x2000000) wd = decodeE1B (wd.toNat / 0x10 % 0x2) wd := by rw [h1]; rfl
  have k2 : decodeE1B (wd.toNat / 0x10 % 0x2) wd = finish .e wd (.eEmit (fld wd 21 4) (fld wd 18 3) (fld wd 16 2)) [(0, 4), (5, 11)] := by rw [show wd.toNat / 0x10 % 0x2 = 0 from s4]; rfl
  rw [f0, f1, f2] at k2
  exact k1.trans (k2.trans (finish_ok hf hv (resv_cons s0 (resv_cons s5 resv_nil))))

theorem Word.e_eEmitReg {wd : W32} (s : BitVec 4) (dir : BitVec 3) (k : BitVec 4) (hf : fnAssigned (.eEmitReg s dir k) = true) (hv : valuesOk .e (.eEmitReg s dir k) = true)
    (he : wd.toNat = 0x36000010 + s.toNat * 0x200000 + dir.toNat * 0x40000 + k.toNat) : decodeE wd = .ok (.eEmitReg s dir k) := by
  obtain ⟨h1, s21, s18, s5, s4, s0⟩ := Layout.w4_3_13_1_4 (op := 0x1B) (x21 := s.toNat) (x18 := dir.toNat) (x5 := 0) (x4 := 1) (x0 := k.toNat) s.isLt dir.isLt (by decide) (by decide) k.isLt (he.trans (by omega))
  have f0 : fld wd 21 4 = s := fld_eq s21
  have f1 : fld wd 18 3 = dir := fld_eq s18
  have f2 : fld wd 0 4 = k := fld_eq s0
  have k1 : decodeEOp (wd.toNat / 0x2000000) wd = decodeE1B (wd.toNat / 0x10 % 0x2) wd := by rw [h1]; rfl
  have k2 : decodeE1B (wd.toNat / 0x10 % 0x2) wd = finish .e wd (.eEmitReg (fld wd 21 4) (fld wd 18 3) (fld wd 0 4)) [(5, 13)] := by rw [show wd.toNat / 0x10 % 0x2 = 1 from s4]; rfl
  rw [f0, f1, f2] at k2
  exact k1.trans (k2.trans (finish_ok hf hv (resv_cons s5 resv_nil)))

theorem Word.e_eBub {wd : W32} (dir : BitVec 3) (hf : fnAssigned (.eBub dir) = true) (hv : valuesOk .e (.eBub dir) = true)
    (he : wd.toNat = 0x38000000 + dir.toNat * 0x40000) : decodeE wd = .ok (.eBub dir) := by
  obtain ⟨h1, s21, s18, s0⟩ := Layout.w4_3_18 (op := 0x1C) (x21 := 0) (x18 := dir.toNat) (x0 := 0) (by decide) dir.isLt (by decide) (he.trans (by omega))
  have f0 : fld wd 18 3 = dir := fld_eq s18
  have k1 : decodeEOp (wd.toNat / 0x2000000) wd = finish .e wd (.eBub (fld wd 18 3)) [(0, 18), (21, 4)] := by rw [h1]; rfl
  rw [f0] at k1
  exact k1.trans (finish_ok hf hv (resv_cons s0 (resv_cons s21 resv_nil)))

theorem Word.e_eHalt {wd : W32} (hf : fnAssigned .eHalt = true) (hv : valuesOk .e .eHalt = true)
    (he : wd.toNat = 0x62000000) : decodeE wd = .ok .eHalt := by
  obtain ⟨h1, s0⟩ := Layout.w25 (op := 0x31) (x0 := 0) (by decide) (he.trans (by omega))
  have k1 : decodeEOp (wd.toNat / 0x2000000) wd = finish .e wd .eHalt [(0, 25)] := by rw [h1]; rfl
  exact k1.trans (finish_ok hf hv (resv_cons s0 resv_nil))

theorem Word.e_eNop {wd : W32} (hf : fnAssigned .eNop = true) (hv : valuesOk .e .eNop = true)
    (he : wd.toNat = 0x7E000000) : decodeE wd = .ok .eNop := by
  obtain ⟨h1, s0⟩ := Layout.w25 (op := 0x3F) (x0 := 0) (by decide) (he.trans (by omega))
  have k1 : decodeEOp (wd.toNat / 0x2000000) wd = finish .e wd .eNop [(0, 25)] := by rw [h1]; rfl
  exact k1.trans (finish_ok hf hv (resv_cons s0 resv_nil))

end Sys2Proof.Laws
end

