-- ==== Sys2Proof/Laws/WordF.lean ====
section
/-! SUPPORT. Decoding of the F stream: from the number of a word to its instruction, one lemma per constructor. -/

namespace Sys2Proof.Laws

theorem Word.f_pfx {wd : W32} (g : BitVec 4) (p : BitVec 1) (e : BitVec 4) (m : BitVec 4) (f : BitVec 12) (hf : fnAssigned (.pfx g p e m f) = true) (hv : valuesOk .f (.pfx g p e m f) = true)
    (he : wd.toNat = 0xFE000000 + g.toNat * 0x200000 + p.toNat * 0x100000 + e.toNat * 0x10000 + m.toNat * 0x1000 + f.toNat) : decodeF wd = .ok (.pfx g p e m f) := by
  obtain ⟨h1, s21, s20, s16, s12, s0⟩ := Layout.w4_1_4_4_12 (op := 0x7F) (x21 := g.toNat) (x20 := p.toNat) (x16 := e.toNat) (x12 := m.toNat) (x0 := f.toNat) g.isLt p.isLt e.isLt m.isLt f.isLt (he.trans (by omega))
  have f0 : fld wd 21 4 = g := fld_eq s21
  have f1 : fld wd 20 1 = p := fld_eq s20
  have f2 : fld wd 16 4 = e := fld_eq s16
  have f3 : fld wd 12 4 = m := fld_eq s12
  have f4 : fld wd 0 12 = f := fld_eq s0
  have k1 : decodeFOp (wd.toNat / 0x2000000) wd = finish .f wd (.pfx (fld wd 21 4) (fld wd 20 1) (fld wd 16 4) (fld wd 12 4) (fld wd 0 12)) [] := by rw [h1]; rfl
  rw [f0, f1, f2, f3, f4] at k1
  exact k1.trans (finish_ok hf hv resv_nil)

theorem Word.f_fload {wd : W32} (h : BitVec 8) (e : BitVec 6) (b : BitVec 5) (n : BitVec 6) (hf : fnAssigned (.fload h e b n) = true) (hv : valuesOk .f (.fload h e b n) = true)
    (he : wd.toNat = 0x02000000 + h.toNat * 0x20000 + e.toNat * 0x800 + b.toNat * 0x40 + n.toNat) : decodeF wd = .ok (.fload h e b n) := by
  obtain ⟨h1, s17, s11, s6, s0⟩ := Layout.w8_6_5_6 (op := 0x01) (x17 := h.toNat) (x11 := e.toNat) (x6 := b.toNat) (x0 := n.toNat) h.isLt e.isLt b.isLt n.isLt (he.trans (by omega))
  have f0 : fld wd 17 8 = h := fld_eq s17
  have f1 : fld wd 11 6 = e := fld_eq s11
  have f2 : fld wd 6 5 = b := fld_eq s6
  have f3 : fld wd 0 6 = n := fld_eq s0
  have k1 : decodeFOp (wd.toNat / 0x2000000) wd = finish .f wd (.fload (fld wd 17 8) (fld wd 11 6) (fld wd 6 5) (fld wd 0 6)) [] := by rw [h1]; rfl
  rw [f0, f1, f2, f3] at k1
  exact k1.trans (finish_ok hf hv resv_nil)

theorem Word.f_fopen {wd : W32} (h : BitVec 8) (e : BitVec 6) (r : BitVec 1) (l : BitVec 8) (hf : fnAssigned (.fopen h e r l) = true) (hv : valuesOk .f (.fopen h e r l) = true)
    (he : wd.toNat = 0x04000000 + h.toNat * 0x20000 + e.toNat * 0x800 + r.toNat * 0x200 + l.toNat * 0x2) : decodeF wd = .ok (.fopen h e r l) := by
  obtain ⟨h1, s17, s11, s10, s9, s1, s0⟩ := Layout.w8_6_1_1_8_1 (op := 0x02) (x17 := h.toNat) (x11 := e.toNat) (x10 := 0) (x9 := r.toNat) (x1 := l.toNat) (x0 := 0) h.isLt e.isLt (by decide) r.isLt l.isLt (by decide) (he.trans (by omega))
  have f0 : fld wd 17 8 = h := fld_eq s17
  have f1 : fld wd 11 6 = e := fld_eq s11
  have f2 : fld wd 9 1 = r := fld_eq s9
  have f3 : fld wd 1 8 = l := fld_eq s1
  have k1 : decodeFOp (wd.toNat / 0x2000000) wd = decodeF02 (wd.toNat / 0x400 % 0x2) wd := by rw [h1]; rfl
  have k2 : decodeF02 (wd.toNat / 0x400 % 0x2) wd = finish .f wd (.fopen (fld wd 17 8) (fld wd 11 6) (fld wd 9 1) (fld wd 1 8)) [(0, 1)] := by rw [show wd.toNat / 0x400 % 0x2 = 0x0 from s10]; rfl
  rw [f0, f1, f2, f3] at k2
  exact k1.trans (k2.trans (finish_ok hf hv (resv_cons s0 resv_nil)))

theorem Word.f_fopenOut {wd : W32} (h : BitVec 8) (e : BitVec 6) (r : BitVec 1) (l : BitVec 8) (hf : fnAssigned (.fopenOut h e r l) = true) (hv : valuesOk .f (.fopenOut h e r l) = true)
    (he : wd.toNat = 0x04000400 + h.toNat * 0x20000 + e.toNat * 0x800 + r.toNat * 0x200 + l.toNat * 0x2) : decodeF wd = .ok (.fopenOut h e r l) := by
  obtain ⟨h1, s17, s11, s10, s9, s1, s0⟩ := Layout.w8_6_1_1_8_1 (op := 0x02) (x17 := h.toNat) (x11 := e.toNat) (x10 := 1) (x9 := r.toNat) (x1 := l.toNat) (x0 := 0) h.isLt e.isLt (by decide) r.isLt l.isLt (by decide) (he.trans (by omega))
  have f0 : fld wd 17 8 = h := fld_eq s17
  have f1 : fld wd 11 6 = e := fld_eq s11
  have f2 : fld wd 9 1 = r := fld_eq s9
  have f3 : fld wd 1 8 = l := fld_eq s1
  have k1 : decodeFOp (wd.toNat / 0x2000000) wd = decodeF02 (wd.toNat / 0x400 % 0x2) wd := by rw [h1]; rfl
  have k2 : decodeF02 (wd.toNat / 0x400 % 0x2) wd = finish .f wd (.fopenOut (fld wd 17 8) (fld wd 11 6) (fld wd 9 1) (fld wd 1 8)) [(0, 1)] := by rw [show wd.toNat / 0x400 % 0x2 = 0x1 from s10]; rfl
  rw [f0, f1, f2, f3] at k2
  exact k1.trans (k2.trans (finish_ok hf hv (resv_cons s0 resv_nil)))

theorem Word.f_fclose {wd : W32} (h : BitVec 8) (e : BitVec 6) (hf : fnAssigned (.fclose h e) = true) (hv : valuesOk .f (.fclose h e) = true)
    (he : wd.toNat = 0x06000000 + h.toNat * 0x20000 + e.toNat * 0x800) : decodeF wd = .ok (.fclose h e) := by
  obtain ⟨h1, s17, s11, s0⟩ := Layout.w8_6_11 (op := 0x03) (x17 := h.toNat) (x11 := e.toNat) (x0 := 0) h.isLt e.isLt (by decide) (he.trans (by omega))
  have f0 : fld wd 17 8 = h := fld_eq s17
  have f1 : fld wd 11 6 = e := fld_eq s11
  have k1 : decodeFOp (wd.toNat / 0x2000000) wd = finish .f wd (.fclose (fld wd 17 8) (fld wd 11 6)) [(0, 11)] := by rw [h1]; rfl
  rw [f0, f1] at k1
  exact k1.trans (finish_ok hf hv (resv_cons s0 resv_nil))

theorem Word.f_fsched {wd : W32} (e : BitVec 6) (p : BitVec 4) (f : BitVec 4) (hf : fnAssigned (.fsched e p f) = true) (hv : valuesOk .f (.fsched e p f) = true)
    (he : wd.toNat = 0x08000000 + e.toNat * 0x800 + p.toNat * 0x80 + f.toNat * 0x8) : decodeF wd = .ok (.fsched e p f) := by
  obtain ⟨h1, s17, s11, s7, s3, s2, s0⟩ := Layout.w8_6_4_4_1_2 (op := 0x04) (x17 := 0) (x11 := e.toNat) (x7 := p.toNat) (x3 := f.toNat) (x2 := 0) (x0 := 0) (by decide) e.isLt p.isLt f.isLt (by decide) (by decide) (he.trans (by omega))
  have f0 : fld wd 11 6 = e := fld_eq s11
  have f1 : fld wd 7 4 = p := fld_eq s7
  have f2 : fld wd 3 4 = f := fld_eq s3
  have k1 : decodeFOp (wd.toNat / 0x2000000) wd = decodeF04 (wd.toNat / 0x4 % 0x2) wd := by rw [h1]; rfl
  have k2 : decodeF04 (wd.toNat / 0x4 % 0x2) wd = finish .f wd (.fsched (fld wd 11 6) (fld wd 7 4) (fld wd 3 4)) [(0, 2), (17, 8)] := by rw [show wd.toNat / 0x4 % 0x2 = 0x0 from s2]; rfl
  rw [f0, f1, f2] at k2
  exact k1.trans (k2.trans (finish_ok hf hv (resv_cons s0 (resv_cons s17 resv_nil))))

theorem Word.f_fschedOff {wd : W32} (e : BitVec 6) (p : BitVec 4) (f : BitVec 4) (hf : fnAssigned (.fschedOff e p f) = true) (hv : valuesOk .f (.fschedOff e p f) = true)
    (he : wd.toNat = 0x08000004 + e.toNat * 0x800 + p.toNat * 0x80 + f.toNat * 0x8) : decodeF wd = .ok (.fschedOff e p f) := by
  obtain ⟨h1, s17, s11, s7, s3, s2, s0⟩ := Layout.w8_6_4_4_1_2 (op := 0x04) (x17 := 0) (x11 := e.toNat) (x7 := p.toNat) (x3 := f.toNat) (x2 := 1) (x0 := 0) (by decide) e.isLt p.isLt f.isLt (by decide) (by decide) (he.trans (by omega))
  have f0 : fld wd 11 6 = e := fld_eq s11
  have f1 : fld wd 7 4 = p := fld_eq s7
  have f2 : fld wd 3 4 = f := fld_eq s3
  have k1 : decodeFOp (wd.toNat / 0x2000000) wd = decodeF04 (wd.toNat / 0x4 % 0x2) wd := by rw [h1]; rfl
  have k2 : decodeF04 (wd.toNat / 0x4 % 0x2) wd = finish .f wd (.fschedOff (fld wd 11 6) (fld wd 7 4) (fld wd 3 4)) [(0, 2), (17, 8)] := by rw [show wd.toNat / 0x4 % 0x2 = 0x1 from s2]; rfl
  rw [f0, f1, f2] at k2
  exact k1.trans (k2.trans (finish_ok hf hv (resv_cons s0 (resv_cons s17 resv_nil))))

theorem Word.f_fstart {wd : W32} (w : BitVec 20) (hf : fnAssigned (.fstart w) = true) (hv : valuesOk .f (.fstart w) = true)
    (he : wd.toNat = 0x0A000000 + w.toNat) : decodeF wd = .ok (.fstart w) := by
  obtain ⟨h1, s20, s0⟩ := Layout.w5_20 (op := 0x05) (x20 := 0) (x0 := w.toNat) (by decide) w.isLt (he.trans (by omega))
  have f0 : fld wd 0 20 = w := fld_eq s0
  have k1 : decodeFOp (wd.toNat / 0x2000000) wd = finish .f wd (.fstart (fld wd 0 20)) [(20, 5)] := by rw [h1]; rfl
  rw [f0] at k1
  exact k1.trans (finish_ok hf hv (resv_cons s20 resv_nil))

theorem Word.f_fqry {wd : W32} (c : BitVec 1) (r : BitVec 4) (w : BitVec 2) (e : BitVec 6) (hf : fnAssigned (.fqry c r w e) = true) (hv : valuesOk .f (.fqry c r w e) = true)
    (he : wd.toNat = 0x0E000000 + c.toNat * 0x1000 + r.toNat * 0x100 + w.toNat * 0x40 + e.toNat) : decodeF wd = .ok (.fqry c r w e) := by
  obtain ⟨h1, s13, s12, s8, s6, s0⟩ := Layout.w12_1_4_2_6 (op := 0x07) (x13 := 0) (x12 := c.toNat) (x8 := r.toNat) (x6 := w.toNat) (x0 := e.toNat) (by decide) c.isLt r.isLt w.isLt e.isLt (he.trans (by omega))
  have f0 : fld wd 12 1 = c := fld_eq s12
  have f1 : fld wd 8 4 = r := fld_eq s8
  have f2 : fld wd 6 2 = w := fld_eq s6
  have f3 : fld wd 0 6 = e := fld_eq s0
  have k1 : decodeFOp (wd.toNat / 0x2000000) wd = finish .f wd (.fqry (fld wd 12 1) (fld wd 8 4) (fld wd 6 2) (fld wd 0 6)) [(13, 12)] := by rw [h1]; rfl
  rw [f0, f1, f2, f3] at k1
  exact k1.trans (finish_ok hf hv (resv_cons s13 resv_nil))

theorem Word.f_ftoks {wd : W32} (c : BitVec 4) (v : BitVec 16) (hf : fnAssigned (.ftoks c v) = true) (hv : valuesOk .f (.ftoks c v) = true)
    (he : wd.toNat = 0x10000000 + c.toNat * 0x10000 + v.toNat) : decodeF wd = .ok (.ftoks c v) := by
  obtain ⟨h1, s20, s16, s0⟩ := Layout.w5_4_16 (op := 0x08) (x20 := 0) (x16 := c.toNat) (x0 := v.toNat) (by decide) c.isLt v.isLt (he.trans (by omega))
  have f0 : fld wd 16 4 = c := fld_eq s16
  have f1 : fld wd 0 16 = v := fld_eq s0
  have k1 : decodeFOp (wd.toNat / 0x2000000) wd = finish .f wd (.ftoks (fld wd 16 4) (fld wd 0 16)) [(20, 5)] := by rw [h1]; rfl
  rw [f0, f1] at k1
  exact k1.trans (finish_ok hf hv (resv_cons s20 resv_nil))

theorem Word.f_ftokw {wd : W32} (c : BitVec 4) (hf : fnAssigned (.ftokw c) = true) (hv : valuesOk .f (.ftokw c) = true)
    (he : wd.toNat = 0x12000000 + c.toNat * 0x10000) : decodeF wd = .ok (.ftokw c) := by
  obtain ⟨h1, s20, s16, s0⟩ := Layout.w5_4_16 (op := 0x09) (x20 := 0) (x16 := c.toNat) (x0 := 0) (by decide) c.isLt (by decide) (he.trans (by omega))
  have f0 : fld wd 16 4 = c := fld_eq s16
  have k1 : decodeFOp (wd.toNat / 0x2000000) wd = finish .f wd (.ftokw (fld wd 16 4)) [(0, 16), (20, 5)] := by rw [h1]; rfl
  rw [f0] at k1
  exact k1.trans (finish_ok hf hv (resv_cons s0 (resv_cons s20 resv_nil)))

theorem Word.f_fcue {wd : W32} (n : BitVec 20) (hf : fnAssigned (.fcue n) = true) (hv : valuesOk .f (.fcue n) = true)
    (he : wd.toNat = 0x14000000 + n.toNat) : decodeF wd = .ok (.fcue n) := by
  obtain ⟨h1, s20, s0⟩ := Layout.w5_20 (op := 0x0A) (x20 := 0) (x0 := n.toNat) (by decide) n.isLt (he.trans (by omega))
  have f0 : fld wd 0 20 = n := fld_eq s0
  have k1 : decodeFOp (wd.toNat / 0x2000000) wd = finish .f wd (.fcue (fld wd 0 20)) [(20, 5)] := by rw [h1]; rfl
  rw [f0] at k1
  exact k1.trans (finish_ok hf hv (resv_cons s20 resv_nil))

theorem Word.f_fring {wd : W32} (r : BitVec 2) (c : BitVec 8) (h : BitVec 8) (hf : fnAssigned (.fring r c h) = true) (hv : valuesOk .f (.fring r c h) = true)
    (he : wd.toNat = 0x16000000 + r.toNat * 0x10000 + c.toNat * 0x100 + h.toNat) : decodeF wd = .ok (.fring r c h) := by
  obtain ⟨h1, s18, s16, s8, s0⟩ := Layout.w7_2_8_8 (op := 0x0B) (x18 := 0) (x16 := r.toNat) (x8 := c.toNat) (x0 := h.toNat) (by decide) r.isLt c.isLt h.isLt (he.trans (by omega))
  have f0 : fld wd 16 2 = r := fld_eq s16
  have f1 : fld wd 8 8 = c := fld_eq s8
  have f2 : fld wd 0 8 = h := fld_eq s0
  have k1 : decodeFOp (wd.toNat / 0x2000000) wd = finish .f wd (.fring (fld wd 16 2) (fld wd 8 8) (fld wd 0 8)) [(18, 7)] := by rw [h1]; rfl
  rw [f0, f1, f2] at k1
  exact k1.trans (finish_ok hf hv (resv_cons s18 resv_nil))

theorem Word.f_fwait {wd : W32} (hf : fnAssigned .fwait = true) (hv : valuesOk .f .fwait = true)
    (he : wd.toNat = 0x0C000000) : decodeF wd = .ok .fwait := by
  obtain ⟨h1, s1, s0⟩ := Layout.w24_1 (op := 0x06) (x1 := 0) (x0 := 0) (by decide) (by decide) (he.trans (by omega))
  have k1 : decodeFOp (wd.toNat / 0x2000000) wd = decodeF06 (wd.toNat % 0x2) wd := by rw [h1]; rfl
  have k2 : decodeF06 (wd.toNat % 0x2) wd = finish .f wd .fwait [(1, 24)] := by rw [show wd.toNat % 0x2 = 0x0 from (by simpa using s0)]; rfl
  exact k1.trans (k2.trans (finish_ok hf hv (resv_cons s1 resv_nil)))

theorem Word.f_fwaitEnd {wd : W32} (hf : fnAssigned .fwaitEnd = true) (hv : valuesOk .f .fwaitEnd = true)
    (he : wd.toNat = 0x0C000001) : decodeF wd = .ok .fwaitEnd := by
  obtain ⟨h1, s1, s0⟩ := Layout.w24_1 (op := 0x06) (x1 := 0) (x0 := 1) (by decide) (by decide) (he.trans (by omega))
  have k1 : decodeFOp (wd.toNat / 0x2000000) wd = decodeF06 (wd.toNat % 0x2) wd := by rw [h1]; rfl
  have k2 : decodeF06 (wd.toNat % 0x2) wd = finish .f wd .fwaitEnd [(1, 24)] := by rw [show wd.toNat % 0x2 = 0x1 from (by simpa using s0)]; rfl
  exact k1.trans (k2.trans (finish_ok hf hv (resv_cons s1 resv_nil)))

end Sys2Proof.Laws
end

