-- ==== Sys2Proof/Laws/WordM.lean ====
section
/-! SUPPORT. Decoding of the M stream: from the number of a word to its instruction, one lemma per constructor. -/

namespace Sys2Proof.Laws

theorem Word.m_pfx {wd : W32} (g : BitVec 4) (p : BitVec 1) (e : BitVec 4) (m : BitVec 4) (f : BitVec 12) (hf : fnAssigned (.pfx g p e m f) = true) (hv : valuesOk .m (.pfx g p e m f) = true)
    (he : wd.toNat = 0xFE000000 + g.toNat * 0x200000 + p.toNat * 0x100000 + e.toNat * 0x10000 + m.toNat * 0x1000 + f.toNat) : decodeM wd = .ok (.pfx g p e m f) := by
  obtain ⟨h1, s21, s20, s16, s12, s0⟩ := Layout.w4_1_4_4_12 (op := 0x7F) (x21 := g.toNat) (x20 := p.toNat) (x16 := e.toNat) (x12 := m.toNat) (x0 := f.toNat) g.isLt p.isLt e.isLt m.isLt f.isLt (he.trans (by omega))
  have f0 : fld wd 21 4 = g := fld_eq s21
  have f1 : fld wd 20 1 = p := fld_eq s20
  have f2 : fld wd 16 4 = e := fld_eq s16
  have f3 : fld wd 12 4 = m := fld_eq s12
  have f4 : fld wd 0 12 = f := fld_eq s0
  have k1 : decodeMOp (wd.toNat / 0x2000000) wd = finish .m wd (.pfx (fld wd 21 4) (fld wd 20 1) (fld wd 16 4) (fld wd 12 4) (fld wd 0 12)) [] := by rw [h1]; rfl
  rw [f0, f1, f2, f3, f4] at k1
  exact k1.trans (finish_ok hf hv resv_nil)

theorem Word.m_mnest {wd : W32} (l : BitVec 3) (f : BitVec 2) (v : BitVec 20) (hf : fnAssigned (.mnest l f v) = true) (hv : valuesOk .m (.mnest l f v) = true)
    (he : wd.toNat = 0x02000000 + l.toNat * 0x400000 + f.toNat * 0x100000 + v.toNat) : decodeM wd = .ok (.mnest l f v) := by
  obtain ⟨h1, s22, s20, s0⟩ := Layout.w3_2_20 (op := 0x01) (x22 := l.toNat) (x20 := f.toNat) (x0 := v.toNat) l.isLt f.isLt v.isLt (he.trans (by omega))
  have f0 : fld wd 22 3 = l := fld_eq s22
  have f1 : fld wd 20 2 = f := fld_eq s20
  have f2 : fld wd 0 20 = v := fld_eq s0
  have hl : l.toNat ≤ 5 := of_decide_eq_true hv
  have k1 : decodeMOp (wd.toNat / 0x2000000) wd = finish .m wd (.mnest (fld wd 22 3) (fld wd 20 2) (fld wd 0 20)) [] := by
    rw [h1]; exact if_neg (by omega)
  rw [f0, f1, f2] at k1
  exact k1.trans (finish_ok hf hv resv_nil)

theorem Word.m_mfmt {wd : W32} (x : BitVec 1) (t : BitVec 2) (f : BitVec 4) (hf : fnAssigned (.mfmt x t f) = true) (hv : valuesOk .m (.mfmt x t f) = true)
    (he : wd.toNat = 0x04000000 + x.toNat * 0x40 + t.toNat * 0x10 + f.toNat) : decodeM wd = .ok (.mfmt x t f) := by
  obtain ⟨h1, s7, s6, s4, s0⟩ := Layout.w18_1_2_4 (op := 0x02) (x7 := 0) (x6 := x.toNat) (x4 := t.toNat) (x0 := f.toNat) (by decide) x.isLt t.isLt f.isLt (he.trans (by omega))
  have f0 : fld wd 6 1 = x := fld_eq s6
  have f1 : fld wd 4 2 = t := fld_eq s4
  have f2 : fld wd 0 4 = f := fld_eq s0
  have k1 : decodeMOp (wd.toNat / 0x2000000) wd = finish .m wd (.mfmt (fld wd 6 1) (fld wd 4 2) (fld wd 0 4)) [(7, 18)] := by rw [h1]; rfl
  rw [f0, f1, f2] at k1
  exact k1.trans (finish_ok hf hv (resv_cons s7 resv_nil))

theorem Word.m_mwld {wd : W32} (h : BitVec 8) (f : BitVec 4) (hf : fnAssigned (.mwld h f) = true) (hv : valuesOk .m (.mwld h f) = true)
    (he : wd.toNat = 0x06000000 + h.toNat * 0x20000 + f.toNat) : decodeM wd = .ok (.mwld h f) := by
  obtain ⟨h1, s17, s6, s4, s0⟩ := Layout.w8_11_2_4 (op := 0x03) (x17 := h.toNat) (x6 := 0) (x4 := 0) (x0 := f.toNat) h.isLt (by decide) (by decide) f.isLt (he.trans (by omega))
  have f0 : fld wd 17 8 = h := fld_eq s17
  have f1 : fld wd 0 4 = f := fld_eq s0
  have k1 : decodeMOp (wd.toNat / 0x2000000) wd = decodeM03 (wd.toNat / 0x10 % 0x4) wd := by rw [h1]; rfl
  have k2 : decodeM03 (wd.toNat / 0x10 % 0x4) wd = finish .m wd (.mwld (fld wd 17 8) (fld wd 0 4)) [(6, 11)] := by rw [show wd.toNat / 0x10 % 0x4 = 0x0 from s4]; rfl
  rw [f0, f1] at k2
  exact k1.trans (k2.trans (finish_ok hf hv (resv_cons s6 resv_nil)))

theorem Word.m_mwldF {wd : W32} (h : BitVec 8) (n : BitVec 4) (f : BitVec 4) (hf : fnAssigned (.mwldF h n f) = true) (hv : valuesOk .m (.mwldF h n f) = true)
    (he : wd.toNat = 0x06000020 + h.toNat * 0x20000 + n.toNat * 0x200 + f.toNat) : decodeM wd = .ok (.mwldF h n f) := by
  obtain ⟨h1, s17, s13, s9, s6, s4, s0⟩ := Layout.w8_4_4_3_2_4 (op := 0x03) (x17 := h.toNat) (x13 := 0) (x9 := n.toNat) (x6 := 0) (x4 := 2) (x0 := f.toNat) h.isLt (by decide) n.isLt (by decide) (by decide) f.isLt (he.trans (by omega))
  have f0 : fld wd 17 8 = h := fld_eq s17
  have f1 : fld wd 9 4 = n := fld_eq s9
  have f2 : fld wd 0 4 = f := fld_eq s0
  have k1 : decodeMOp (wd.toNat / 0x2000000) wd = decodeM03 (wd.toNat / 0x10 % 0x4) wd := by rw [h1]; rfl
  have k2 : decodeM03 (wd.toNat / 0x10 % 0x4) wd = finish .m wd (.mwldF (fld wd 17 8) (fld wd 9 4) (fld wd 0 4)) [(6, 3), (13, 4)] := by rw [show wd.toNat / 0x10 % 0x4 = 0x2 from s4]; rfl
  rw [f0, f1, f2] at k2
  exact k1.trans (k2.trans (finish_ok hf hv (resv_cons s6 (resv_cons s13 resv_nil))))

theorem Word.m_mwldS {wd : W32} (f : BitVec 4) (hf : fnAssigned (.mwldS f) = true) (hv : valuesOk .m (.mwldS f) = true)
    (he : wd.toNat = 0x06000010 + f.toNat) : decodeM wd = .ok (.mwldS f) := by
  obtain ⟨h1, s6, s4, s0⟩ := Layout.w19_2_4 (op := 0x03) (x6 := 0) (x4 := 1) (x0 := f.toNat) (by decide) (by decide) f.isLt (he.trans (by omega))
  have f0 : fld wd 0 4 = f := fld_eq s0
  have k1 : decodeMOp (wd.toNat / 0x2000000) wd = decodeM03 (wd.toNat / 0x10 % 0x4) wd := by rw [h1]; rfl
  have k2 : decodeM03 (wd.toNat / 0x10 % 0x4) wd = finish .m wd (.mwldS (fld wd 0 4)) [(6, 19)] := by rw [show wd.toNat / 0x10 % 0x4 = 0x1 from s4]; rfl
  rw [f0] at k2
  exact k1.trans (k2.trans (finish_ok hf hv (resv_cons s6 resv_nil)))

theorem Word.m_macc {wd : W32} (n : BitVec 2) (d : BitVec 4) (m : BitVec 2) (hf : fnAssigned (.macc n d m) = true) (hv : valuesOk .m (.macc n d m) = true)
    (he : wd.toNat = 0x0A000000 + n.toNat * 0x40 + d.toNat * 0x4 + m.toNat) : decodeM wd = .ok (.macc n d m) := by
  obtain ⟨h1, s8, s6, s2, s0⟩ := Layout.w17_2_4_2 (op := 0x05) (x8 := 0) (x6 := n.toNat) (x2 := d.toNat) (x0 := m.toNat) (by decide) n.isLt d.isLt m.isLt (he.trans (by omega))
  have f0 : fld wd 6 2 = n := fld_eq s6
  have f1 : fld wd 2 4 = d := fld_eq s2
  have f2 : fld wd 0 2 = m := fld_eq s0
  have k1 : decodeMOp (wd.toNat / 0x2000000) wd = finish .m wd (.macc (fld wd 6 2) (fld wd 2 4) (fld wd 0 2)) [(8, 17)] := by rw [h1]; rfl
  rw [f0, f1, f2] at k1
  exact k1.trans (finish_ok hf hv (resv_cons s8 resv_nil))

theorem Word.m_mgo {wd : W32} (a : BitVec 8) (b : BitVec 8) (hf : fnAssigned (.mgo a b) = true) (hv : valuesOk .m (.mgo a b) = true)
    (he : wd.toNat = 0x0C000000 + a.toNat * 0x20000 + b.toNat * 0x200) : decodeM wd = .ok (.mgo a b) := by
  obtain ⟨h1, s17, s9, s1, s0⟩ := Layout.w8_8_8_1 (op := 0x06) (x17 := a.toNat) (x9 := b.toNat) (x1 := 0) (x0 := 0) a.isLt b.isLt (by decide) (by decide) (he.trans (by omega))
  have f0 : fld wd 17 8 = a := fld_eq s17
  have f1 : fld wd 9 8 = b := fld_eq s9
  have k1 : decodeMOp (wd.toNat / 0x2000000) wd = decodeM06 (wd.toNat % 0x2) wd := by rw [h1]; rfl
  have k2 : decodeM06 (wd.toNat % 0x2) wd = finish .m wd (.mgo (fld wd 17 8) (fld wd 9 8)) [(1, 8)] := by rw [show wd.toNat % 0x2 = 0x0 from (by simpa using s0)]; rfl
  rw [f0, f1] at k2
  exact k1.trans (k2.trans (finish_ok hf hv (resv_cons s1 resv_nil)))

theorem Word.m_mgoF {wd : W32} (a : BitVec 8) (b : BitVec 8) (n : BitVec 4) (hf : fnAssigned (.mgoF a b n) = true) (hv : valuesOk .m (.mgoF a b n) = true)
    (he : wd.toNat = 0x0C000001 + a.toNat * 0x20000 + b.toNat * 0x200 + n.toNat * 0x2) : decodeM wd = .ok (.mgoF a b n) := by
  obtain ⟨h1, s17, s9, s5, s1, s0⟩ := Layout.w8_8_4_4_1 (op := 0x06) (x17 := a.toNat) (x9 := b.toNat) (x5 := 0) (x1 := n.toNat) (x0 := 1) a.isLt b.isLt (by decide) n.isLt (by decide) (he.trans (by omega))
  have f0 : fld wd 17 8 = a := fld_eq s17
  have f1 : fld wd 9 8 = b := fld_eq s9
  have f2 : fld wd 1 4 = n := fld_eq s1
  have k1 : decodeMOp (wd.toNat / 0x2000000) wd = decodeM06 (wd.toNat % 0x2) wd := by rw [h1]; rfl
  have k2 : decodeM06 (wd.toNat % 0x2) wd = finish .m wd (.mgoF (fld wd 17 8) (fld wd 9 8) (fld wd 1 4)) [(5, 4)] := by rw [show wd.toNat % 0x2 = 0x1 from (by simpa using s0)]; rfl
  rw [f0, f1, f2] at k2
  exact k1.trans (k2.trans (finish_ok hf hv (resv_cons s5 resv_nil)))

theorem Word.m_msplit {wd : W32} (v : BitVec 20) (hf : fnAssigned (.msplit v) = true) (hv : valuesOk .m (.msplit v) = true)
    (he : wd.toNat = 0x0E000000 + v.toNat) : decodeM wd = .ok (.msplit v) := by
  obtain ⟨h1, s20, s0⟩ := Layout.w5_20 (op := 0x07) (x20 := 0) (x0 := v.toNat) (by decide) v.isLt (he.trans (by omega))
  have f0 : fld wd 0 20 = v := fld_eq s0
  have k1 : decodeMOp (wd.toNat / 0x2000000) wd = finish .m wd (.msplit (fld wd 0 20)) [(20, 5)] := by
    rw [h1]; exact if_neg (by omega)
  rw [f0] at k1
  exact k1.trans (finish_ok hf hv (resv_cons s20 resv_nil))

theorem Word.m_mqOpen {wd : W32} (n : BitVec 16) (h : BitVec 8) (hf : fnAssigned (.mqOpen n h) = true) (hv : valuesOk .m (.mqOpen n h) = true)
    (he : wd.toNat = 0x11000000 + n.toNat * 0x100 + h.toNat) : decodeM wd = .ok (.mqOpen n h) := by
  obtain ⟨h1, s24, s8, s0⟩ := Layout.w1_16_8 (op := 0x08) (x24 := 1) (x8 := n.toNat) (x0 := h.toNat) (by decide) n.isLt h.isLt (he.trans (by omega))
  have f0 : fld wd 8 16 = n := fld_eq s8
  have f1 : fld wd 0 8 = h := fld_eq s0
  have k1 : decodeMOp (wd.toNat / 0x2000000) wd = decodeM08 (wd.toNat / 0x1000000 % 0x2) wd := by rw [h1]; rfl
  have k2 : decodeM08 (wd.toNat / 0x1000000 % 0x2) wd = finish .m wd (.mqOpen (fld wd 8 16) (fld wd 0 8)) [] := by rw [show wd.toNat / 0x1000000 % 0x2 = 0x1 from s24]; rfl
  rw [f0, f1] at k2
  exact k1.trans (k2.trans (finish_ok hf hv resv_nil))

theorem Word.m_mqClose {wd : W32} (n : BitVec 16) (h : BitVec 8) (hf : fnAssigned (.mqClose n h) = true) (hv : valuesOk .m (.mqClose n h) = true)
    (he : wd.toNat = 0x10000000 + n.toNat * 0x100 + h.toNat) : decodeM wd = .ok (.mqClose n h) := by
  obtain ⟨h1, s24, s8, s0⟩ := Layout.w1_16_8 (op := 0x08) (x24 := 0) (x8 := n.toNat) (x0 := h.toNat) (by decide) n.isLt h.isLt (he.trans (by omega))
  have f0 : fld wd 8 16 = n := fld_eq s8
  have f1 : fld wd 0 8 = h := fld_eq s0
  have k1 : decodeMOp (wd.toNat / 0x2000000) wd = decodeM08 (wd.toNat / 0x1000000 % 0x2) wd := by rw [h1]; rfl
  have k2 : decodeM08 (wd.toNat / 0x1000000 % 0x2) wd = finish .m wd (.mqClose (fld wd 8 16) (fld wd 0 8)) [] := by rw [show wd.toNat / 0x1000000 % 0x2 = 0x0 from s24]; rfl
  rw [f0, f1] at k2
  exact k1.trans (k2.trans (finish_ok hf hv resv_nil))

theorem Word.m_mtoks {wd : W32} (c : BitVec 4) (v : BitVec 16) (hf : fnAssigned (.mtoks c v) = true) (hv : valuesOk .m (.mtoks c v) = true)
    (he : wd.toNat = 0x20000000 + c.toNat * 0x10000 + v.toNat) : decodeM wd = .ok (.mtoks c v) := by
  obtain ⟨h1, s20, s16, s0⟩ := Layout.w5_4_16 (op := 0x10) (x20 := 0) (x16 := c.toNat) (x0 := v.toNat) (by decide) c.isLt v.isLt (he.trans (by omega))
  have f0 : fld wd 16 4 = c := fld_eq s16
  have f1 : fld wd 0 16 = v := fld_eq s0
  have k1 : decodeMOp (wd.toNat / 0x2000000) wd = finish .m wd (.mtoks (fld wd 16 4) (fld wd 0 16)) [(20, 5)] := by rw [h1]; rfl
  rw [f0, f1] at k1
  exact k1.trans (finish_ok hf hv (resv_cons s20 resv_nil))

theorem Word.m_mtokw {wd : W32} (c : BitVec 4) (hf : fnAssigned (.mtokw c) = true) (hv : valuesOk .m (.mtokw c) = true)
    (he : wd.toNat = 0x22000000 + c.toNat * 0x10000) : decodeM wd = .ok (.mtokw c) := by
  obtain ⟨h1, s20, s16, s0⟩ := Layout.w5_4_16 (op := 0x11) (x20 := 0) (x16 := c.toNat) (x0 := 0) (by decide) c.isLt (by decide) (he.trans (by omega))
  have f0 : fld wd 16 4 = c := fld_eq s16
  have k1 : decodeMOp (wd.toNat / 0x2000000) wd = finish .m wd (.mtokw (fld wd 16 4)) [(0, 16), (20, 5)] := by rw [h1]; rfl
  rw [f0] at k1
  exact k1.trans (finish_ok hf hv (resv_cons s0 (resv_cons s20 resv_nil)))

theorem Word.m_mcue {wd : W32} (n : BitVec 20) (hf : fnAssigned (.mcue n) = true) (hv : valuesOk .m (.mcue n) = true)
    (he : wd.toNat = 0x24000000 + n.toNat) : decodeM wd = .ok (.mcue n) := by
  obtain ⟨h1, s20, s0⟩ := Layout.w5_20 (op := 0x12) (x20 := 0) (x0 := n.toNat) (by decide) n.isLt (he.trans (by omega))
  have f0 : fld wd 0 20 = n := fld_eq s0
  have k1 : decodeMOp (wd.toNat / 0x2000000) wd = finish .m wd (.mcue (fld wd 0 20)) [(20, 5)] := by rw [h1]; rfl
  rw [f0] at k1
  exact k1.trans (finish_ok hf hv (resv_cons s20 resv_nil))

theorem Word.m_mring {wd : W32} (r : BitVec 2) (c : BitVec 8) (h : BitVec 8) (hf : fnAssigned (.mring r c h) = true) (hv : valuesOk .m (.mring r c h) = true)
    (he : wd.toNat = 0x2A000000 + r.toNat * 0x10000 + c.toNat * 0x100 + h.toNat) : decodeM wd = .ok (.mring r c h) := by
  obtain ⟨h1, s18, s16, s8, s0⟩ := Layout.w7_2_8_8 (op := 0x15) (x18 := 0) (x16 := r.toNat) (x8 := c.toNat) (x0 := h.toNat) (by decide) r.isLt c.isLt h.isLt (he.trans (by omega))
  have f0 : fld wd 16 2 = r := fld_eq s16
  have f1 : fld wd 8 8 = c := fld_eq s8
  have f2 : fld wd 0 8 = h := fld_eq s0
  have k1 : decodeMOp (wd.toNat / 0x2000000) wd = finish .m wd (.mring (fld wd 16 2) (fld wd 8 8) (fld wd 0 8)) [(18, 7)] := by rw [h1]; rfl
  rw [f0, f1, f2] at k1
  exact k1.trans (finish_ok hf hv (resv_cons s18 resv_nil))

theorem Word.m_mwsw {wd : W32} (hf : fnAssigned .mwsw = true) (hv : valuesOk .m .mwsw = true)
    (he : wd.toNat = 0x08000000) : decodeM wd = .ok .mwsw := by
  obtain ⟨h1, s0⟩ := Layout.w25 (op := 0x04) (x0 := 0) (by decide) (he.trans (by omega))
  have k1 : decodeMOp (wd.toNat / 0x2000000) wd = finish .m wd .mwsw [(0, 25)] := by rw [h1]; rfl
  exact k1.trans (finish_ok hf hv (resv_cons s0 resv_nil))

theorem Word.m_mwait {wd : W32} (hf : fnAssigned .mwait = true) (hv : valuesOk .m .mwait = true)
    (he : wd.toNat = 0x26000000) : decodeM wd = .ok .mwait := by
  obtain ⟨h1, s1, s0⟩ := Layout.w24_1 (op := 0x13) (x1 := 0) (x0 := 0) (by decide) (by decide) (he.trans (by omega))
  have k1 : decodeMOp (wd.toNat / 0x2000000) wd = decodeM13 (wd.toNat % 0x2) wd := by rw [h1]; rfl
  have k2 : decodeM13 (wd.toNat % 0x2) wd = finish .m wd .mwait [(1, 24)] := by rw [show wd.toNat % 0x2 = 0x0 from (by simpa using s0)]; rfl
  exact k1.trans (k2.trans (finish_ok hf hv (resv_cons s1 resv_nil)))

theorem Word.m_mwaitEnd {wd : W32} (hf : fnAssigned .mwaitEnd = true) (hv : valuesOk .m .mwaitEnd = true)
    (he : wd.toNat = 0x26000001) : decodeM wd = .ok .mwaitEnd := by
  obtain ⟨h1, s1, s0⟩ := Layout.w24_1 (op := 0x13) (x1 := 0) (x0 := 1) (by decide) (by decide) (he.trans (by omega))
  have k1 : decodeMOp (wd.toNat / 0x2000000) wd = decodeM13 (wd.toNat % 0x2) wd := by rw [h1]; rfl
  have k2 : decodeM13 (wd.toNat % 0x2) wd = finish .m wd .mwaitEnd [(1, 24)] := by rw [show wd.toNat % 0x2 = 0x1 from (by simpa using s0)]; rfl
  exact k1.trans (k2.trans (finish_ok hf hv (resv_cons s1 resv_nil)))

theorem Word.m_mnop {wd : W32} (hf : fnAssigned .mnop = true) (hv : valuesOk .m .mnop = true)
    (he : wd.toNat = 0x28000000) : decodeM wd = .ok .mnop := by
  obtain ⟨h1, s0⟩ := Layout.w25 (op := 0x14) (x0 := 0) (by decide) (he.trans (by omega))
  have k1 : decodeMOp (wd.toNat / 0x2000000) wd = finish .m wd .mnop [(0, 25)] := by rw [h1]; rfl
  exact k1.trans (finish_ok hf hv (resv_cons s0 resv_nil))

end Sys2Proof.Laws
end

