-- ==== Sys2Proof/Laws/WordS.lean ====
section
/-! SUPPORT. Decoding of the S stream: from the number of a word to its instruction, one lemma per constructor. -/

namespace Sys2Proof.Laws

theorem Word.s_add {wd : W32} (d : BitVec 5) (a : BitVec 5) (b : BitVec 5) (hf : fnAssigned (.add d a b) = true) (hv : valuesOk .s (.add d a b) = true)
    (he : wd.toNat = 0x02000000 + d.toNat * 0x100000 + a.toNat * 0x8000 + b.toNat * 0x400) : decodeS wd = .ok (.add d a b) := by
  obtain ⟨h1, s20, s15, s10, s0⟩ := Layout.w5_5_5_10 (op := 0x01) (x20 := d.toNat) (x15 := a.toNat) (x10 := b.toNat) (x0 := 0) d.isLt a.isLt b.isLt (by decide) (he.trans (by omega))
  have f0 : fld wd 20 5 = d := fld_eq s20
  have f1 : fld wd 15 5 = a := fld_eq s15
  have f2 : fld wd 10 5 = b := fld_eq s10
  have k1 : decodeSOp (wd.toNat / 0x2000000) wd = decodeS01 (wd.toNat % 0x400) wd := by rw [h1]; rfl
  have k2 : decodeS01 (wd.toNat % 0x400) wd = finish .s wd (.add (fld wd 20 5) (fld wd 15 5) (fld wd 10 5)) [] := by rw [show wd.toNat % 0x400 = 0x0 from (by simpa using s0)]; rfl
  rw [f0, f1, f2] at k2
  exact k1.trans (k2.trans (finish_ok hf hv resv_nil))

theorem Word.s_sub {wd : W32} (d : BitVec 5) (a : BitVec 5) (b : BitVec 5) (hf : fnAssigned (.sub d a b) = true) (hv : valuesOk .s (.sub d a b) = true)
    (he : wd.toNat = 0x02000001 + d.toNat * 0x100000 + a.toNat * 0x8000 + b.toNat * 0x400) : decodeS wd = .ok (.sub d a b) := by
  obtain ⟨h1, s20, s15, s10, s0⟩ := Layout.w5_5_5_10 (op := 0x01) (x20 := d.toNat) (x15 := a.toNat) (x10 := b.toNat) (x0 := 1) d.isLt a.isLt b.isLt (by decide) (he.trans (by omega))
  have f0 : fld wd 20 5 = d := fld_eq s20
  have f1 : fld wd 15 5 = a := fld_eq s15
  have f2 : fld wd 10 5 = b := fld_eq s10
  have k1 : decodeSOp (wd.toNat / 0x2000000) wd = decodeS01 (wd.toNat % 0x400) wd := by rw [h1]; rfl
  have k2 : decodeS01 (wd.toNat % 0x400) wd = finish .s wd (.sub (fld wd 20 5) (fld wd 15 5) (fld wd 10 5)) [] := by rw [show wd.toNat % 0x400 = 0x1 from (by simpa using s0)]; rfl
  rw [f0, f1, f2] at k2
  exact k1.trans (k2.trans (finish_ok hf hv resv_nil))

theorem Word.s_and {wd : W32} (d : BitVec 5) (a : BitVec 5) (b : BitVec 5) (hf : fnAssigned (.and d a b) = true) (hv : valuesOk .s (.and d a b) = true)
    (he : wd.toNat = 0x02000002 + d.toNat * 0x100000 + a.toNat * 0x8000 + b.toNat * 0x400) : decodeS wd = .ok (.and d a b) := by
  obtain ⟨h1, s20, s15, s10, s0⟩ := Layout.w5_5_5_10 (op := 0x01) (x20 := d.toNat) (x15 := a.toNat) (x10 := b.toNat) (x0 := 2) d.isLt a.isLt b.isLt (by decide) (he.trans (by omega))
  have f0 : fld wd 20 5 = d := fld_eq s20
  have f1 : fld wd 15 5 = a := fld_eq s15
  have f2 : fld wd 10 5 = b := fld_eq s10
  have k1 : decodeSOp (wd.toNat / 0x2000000) wd = decodeS01 (wd.toNat % 0x400) wd := by rw [h1]; rfl
  have k2 : decodeS01 (wd.toNat % 0x400) wd = finish .s wd (.and (fld wd 20 5) (fld wd 15 5) (fld wd 10 5)) [] := by rw [show wd.toNat % 0x400 = 0x2 from (by simpa using s0)]; rfl
  rw [f0, f1, f2] at k2
  exact k1.trans (k2.trans (finish_ok hf hv resv_nil))

theorem Word.s_or {wd : W32} (d : BitVec 5) (a : BitVec 5) (b : BitVec 5) (hf : fnAssigned (.or d a b) = true) (hv : valuesOk .s (.or d a b) = true)
    (he : wd.toNat = 0x02000003 + d.toNat * 0x100000 + a.toNat * 0x8000 + b.toNat * 0x400) : decodeS wd = .ok (.or d a b) := by
  obtain ⟨h1, s20, s15, s10, s0⟩ := Layout.w5_5_5_10 (op := 0x01) (x20 := d.toNat) (x15 := a.toNat) (x10 := b.toNat) (x0 := 3) d.isLt a.isLt b.isLt (by decide) (he.trans (by omega))
  have f0 : fld wd 20 5 = d := fld_eq s20
  have f1 : fld wd 15 5 = a := fld_eq s15
  have f2 : fld wd 10 5 = b := fld_eq s10
  have k1 : decodeSOp (wd.toNat / 0x2000000) wd = decodeS01 (wd.toNat % 0x400) wd := by rw [h1]; rfl
  have k2 : decodeS01 (wd.toNat % 0x400) wd = finish .s wd (.or (fld wd 20 5) (fld wd 15 5) (fld wd 10 5)) [] := by rw [show wd.toNat % 0x400 = 0x3 from (by simpa using s0)]; rfl
  rw [f0, f1, f2] at k2
  exact k1.trans (k2.trans (finish_ok hf hv resv_nil))

theorem Word.s_xor {wd : W32} (d : BitVec 5) (a : BitVec 5) (b : BitVec 5) (hf : fnAssigned (.xor d a b) = true) (hv : valuesOk .s (.xor d a b) = true)
    (he : wd.toNat = 0x02000004 + d.toNat * 0x100000 + a.toNat * 0x8000 + b.toNat * 0x400) : decodeS wd = .ok (.xor d a b) := by
  obtain ⟨h1, s20, s15, s10, s0⟩ := Layout.w5_5_5_10 (op := 0x01) (x20 := d.toNat) (x15 := a.toNat) (x10 := b.toNat) (x0 := 4) d.isLt a.isLt b.isLt (by decide) (he.trans (by omega))
  have f0 : fld wd 20 5 = d := fld_eq s20
  have f1 : fld wd 15 5 = a := fld_eq s15
  have f2 : fld wd 10 5 = b := fld_eq s10
  have k1 : decodeSOp (wd.toNat / 0x2000000) wd = decodeS01 (wd.toNat % 0x400) wd := by rw [h1]; rfl
  have k2 : decodeS01 (wd.toNat % 0x400) wd = finish .s wd (.xor (fld wd 20 5) (fld wd 15 5) (fld wd 10 5)) [] := by rw [show wd.toNat % 0x400 = 0x4 from (by simpa using s0)]; rfl
  rw [f0, f1, f2] at k2
  exact k1.trans (k2.trans (finish_ok hf hv resv_nil))

theorem Word.s_shl {wd : W32} (d : BitVec 5) (a : BitVec 5) (b : BitVec 5) (hf : fnAssigned (.shl d a b) = true) (hv : valuesOk .s (.shl d a b) = true)
    (he : wd.toNat = 0x02000005 + d.toNat * 0x100000 + a.toNat * 0x8000 + b.toNat * 0x400) : decodeS wd = .ok (.shl d a b) := by
  obtain ⟨h1, s20, s15, s10, s0⟩ := Layout.w5_5_5_10 (op := 0x01) (x20 := d.toNat) (x15 := a.toNat) (x10 := b.toNat) (x0 := 5) d.isLt a.isLt b.isLt (by decide) (he.trans (by omega))
  have f0 : fld wd 20 5 = d := fld_eq s20
  have f1 : fld wd 15 5 = a := fld_eq s15
  have f2 : fld wd 10 5 = b := fld_eq s10
  have k1 : decodeSOp (wd.toNat / 0x2000000) wd = decodeS01 (wd.toNat % 0x400) wd := by rw [h1]; rfl
  have k2 : decodeS01 (wd.toNat % 0x400) wd = finish .s wd (.shl (fld wd 20 5) (fld wd 15 5) (fld wd 10 5)) [] := by rw [show wd.toNat % 0x400 = 0x5 from (by simpa using s0)]; rfl
  rw [f0, f1, f2] at k2
  exact k1.trans (k2.trans (finish_ok hf hv resv_nil))

theorem Word.s_shr {wd : W32} (d : BitVec 5) (a : BitVec 5) (b : BitVec 5) (hf : fnAssigned (.shr d a b) = true) (hv : valuesOk .s (.shr d a b) = true)
    (he : wd.toNat = 0x02000006 + d.toNat * 0x100000 + a.toNat * 0x8000 + b.toNat * 0x400) : decodeS wd = .ok (.shr d a b) := by
  obtain ⟨h1, s20, s15, s10, s0⟩ := Layout.w5_5_5_10 (op := 0x01) (x20 := d.toNat) (x15 := a.toNat) (x10 := b.toNat) (x0 := 6) d.isLt a.isLt b.isLt (by decide) (he.trans (by omega))
  have f0 : fld wd 20 5 = d := fld_eq s20
  have f1 : fld wd 15 5 = a := fld_eq s15
  have f2 : fld wd 10 5 = b := fld_eq s10
  have k1 : decodeSOp (wd.toNat / 0x2000000) wd = decodeS01 (wd.toNat % 0x400) wd := by rw [h1]; rfl
  have k2 : decodeS01 (wd.toNat % 0x400) wd = finish .s wd (.shr (fld wd 20 5) (fld wd 15 5) (fld wd 10 5)) [] := by rw [show wd.toNat % 0x400 = 0x6 from (by simpa using s0)]; rfl
  rw [f0, f1, f2] at k2
  exact k1.trans (k2.trans (finish_ok hf hv resv_nil))

theorem Word.s_sra {wd : W32} (d : BitVec 5) (a : BitVec 5) (b : BitVec 5) (hf : fnAssigned (.sra d a b) = true) (hv : valuesOk .s (.sra d a b) = true)
    (he : wd.toNat = 0x02000007 + d.toNat * 0x100000 + a.toNat * 0x8000 + b.toNat * 0x400) : decodeS wd = .ok (.sra d a b) := by
  obtain ⟨h1, s20, s15, s10, s0⟩ := Layout.w5_5_5_10 (op := 0x01) (x20 := d.toNat) (x15 := a.toNat) (x10 := b.toNat) (x0 := 7) d.isLt a.isLt b.isLt (by decide) (he.trans (by omega))
  have f0 : fld wd 20 5 = d := fld_eq s20
  have f1 : fld wd 15 5 = a := fld_eq s15
  have f2 : fld wd 10 5 = b := fld_eq s10
  have k1 : decodeSOp (wd.toNat / 0x2000000) wd = decodeS01 (wd.toNat % 0x400) wd := by rw [h1]; rfl
  have k2 : decodeS01 (wd.toNat % 0x400) wd = finish .s wd (.sra (fld wd 20 5) (fld wd 15 5) (fld wd 10 5)) [] := by rw [show wd.toNat % 0x400 = 0x7 from (by simpa using s0)]; rfl
  rw [f0, f1, f2] at k2
  exact k1.trans (k2.trans (finish_ok hf hv resv_nil))

theorem Word.s_mul {wd : W32} (d : BitVec 5) (a : BitVec 5) (b : BitVec 5) (hf : fnAssigned (.mul d a b) = true) (hv : valuesOk .s (.mul d a b) = true)
    (he : wd.toNat = 0x02000008 + d.toNat * 0x100000 + a.toNat * 0x8000 + b.toNat * 0x400) : decodeS wd = .ok (.mul d a b) := by
  obtain ⟨h1, s20, s15, s10, s0⟩ := Layout.w5_5_5_10 (op := 0x01) (x20 := d.toNat) (x15 := a.toNat) (x10 := b.toNat) (x0 := 8) d.isLt a.isLt b.isLt (by decide) (he.trans (by omega))
  have f0 : fld wd 20 5 = d := fld_eq s20
  have f1 : fld wd 15 5 = a := fld_eq s15
  have f2 : fld wd 10 5 = b := fld_eq s10
  have k1 : decodeSOp (wd.toNat / 0x2000000) wd = decodeS01 (wd.toNat % 0x400) wd := by rw [h1]; rfl
  have k2 : decodeS01 (wd.toNat % 0x400) wd = finish .s wd (.mul (fld wd 20 5) (fld wd 15 5) (fld wd 10 5)) [] := by rw [show wd.toNat % 0x400 = 0x8 from (by simpa using s0)]; rfl
  rw [f0, f1, f2] at k2
  exact k1.trans (k2.trans (finish_ok hf hv resv_nil))

theorem Word.s_mulh {wd : W32} (d : BitVec 5) (a : BitVec 5) (b : BitVec 5) (hf : fnAssigned (.mulh d a b) = true) (hv : valuesOk .s (.mulh d a b) = true)
    (he : wd.toNat = 0x02000009 + d.toNat * 0x100000 + a.toNat * 0x8000 + b.toNat * 0x400) : decodeS wd = .ok (.mulh d a b) := by
  obtain ⟨h1, s20, s15, s10, s0⟩ := Layout.w5_5_5_10 (op := 0x01) (x20 := d.toNat) (x15 := a.toNat) (x10 := b.toNat) (x0 := 9) d.isLt a.isLt b.isLt (by decide) (he.trans (by omega))
  have f0 : fld wd 20 5 = d := fld_eq s20
  have f1 : fld wd 15 5 = a := fld_eq s15
  have f2 : fld wd 10 5 = b := fld_eq s10
  have k1 : decodeSOp (wd.toNat / 0x2000000) wd = decodeS01 (wd.toNat % 0x400) wd := by rw [h1]; rfl
  have k2 : decodeS01 (wd.toNat % 0x400) wd = finish .s wd (.mulh (fld wd 20 5) (fld wd 15 5) (fld wd 10 5)) [] := by rw [show wd.toNat % 0x400 = 0x9 from (by simpa using s0)]; rfl
  rw [f0, f1, f2] at k2
  exact k1.trans (k2.trans (finish_ok hf hv resv_nil))

theorem Word.s_div {wd : W32} (d : BitVec 5) (a : BitVec 5) (b : BitVec 5) (hf : fnAssigned (.div d a b) = true) (hv : valuesOk .s (.div d a b) = true)
    (he : wd.toNat = 0x0200000A + d.toNat * 0x100000 + a.toNat * 0x8000 + b.toNat * 0x400) : decodeS wd = .ok (.div d a b) := by
  obtain ⟨h1, s20, s15, s10, s0⟩ := Layout.w5_5_5_10 (op := 0x01) (x20 := d.toNat) (x15 := a.toNat) (x10 := b.toNat) (x0 := 10) d.isLt a.isLt b.isLt (by decide) (he.trans (by omega))
  have f0 : fld wd 20 5 = d := fld_eq s20
  have f1 : fld wd 15 5 = a := fld_eq s15
  have f2 : fld wd 10 5 = b := fld_eq s10
  have k1 : decodeSOp (wd.toNat / 0x2000000) wd = decodeS01 (wd.toNat % 0x400) wd := by rw [h1]; rfl
  have k2 : decodeS01 (wd.toNat % 0x400) wd = finish .s wd (.div (fld wd 20 5) (fld wd 15 5) (fld wd 10 5)) [] := by rw [show wd.toNat % 0x400 = 0xA from (by simpa using s0)]; rfl
  rw [f0, f1, f2] at k2
  exact k1.trans (k2.trans (finish_ok hf hv resv_nil))

theorem Word.s_divu {wd : W32} (d : BitVec 5) (a : BitVec 5) (b : BitVec 5) (hf : fnAssigned (.divu d a b) = true) (hv : valuesOk .s (.divu d a b) = true)
    (he : wd.toNat = 0x0200000B + d.toNat * 0x100000 + a.toNat * 0x8000 + b.toNat * 0x400) : decodeS wd = .ok (.divu d a b) := by
  obtain ⟨h1, s20, s15, s10, s0⟩ := Layout.w5_5_5_10 (op := 0x01) (x20 := d.toNat) (x15 := a.toNat) (x10 := b.toNat) (x0 := 11) d.isLt a.isLt b.isLt (by decide) (he.trans (by omega))
  have f0 : fld wd 20 5 = d := fld_eq s20
  have f1 : fld wd 15 5 = a := fld_eq s15
  have f2 : fld wd 10 5 = b := fld_eq s10
  have k1 : decodeSOp (wd.toNat / 0x2000000) wd = decodeS01 (wd.toNat % 0x400) wd := by rw [h1]; rfl
  have k2 : decodeS01 (wd.toNat % 0x400) wd = finish .s wd (.divu (fld wd 20 5) (fld wd 15 5) (fld wd 10 5)) [] := by rw [show wd.toNat % 0x400 = 0xB from (by simpa using s0)]; rfl
  rw [f0, f1, f2] at k2
  exact k1.trans (k2.trans (finish_ok hf hv resv_nil))

theorem Word.s_rem {wd : W32} (d : BitVec 5) (a : BitVec 5) (b : BitVec 5) (hf : fnAssigned (.rem d a b) = true) (hv : valuesOk .s (.rem d a b) = true)
    (he : wd.toNat = 0x0200000C + d.toNat * 0x100000 + a.toNat * 0x8000 + b.toNat * 0x400) : decodeS wd = .ok (.rem d a b) := by
  obtain ⟨h1, s20, s15, s10, s0⟩ := Layout.w5_5_5_10 (op := 0x01) (x20 := d.toNat) (x15 := a.toNat) (x10 := b.toNat) (x0 := 12) d.isLt a.isLt b.isLt (by decide) (he.trans (by omega))
  have f0 : fld wd 20 5 = d := fld_eq s20
  have f1 : fld wd 15 5 = a := fld_eq s15
  have f2 : fld wd 10 5 = b := fld_eq s10
  have k1 : decodeSOp (wd.toNat / 0x2000000) wd = decodeS01 (wd.toNat % 0x400) wd := by rw [h1]; rfl
  have k2 : decodeS01 (wd.toNat % 0x400) wd = finish .s wd (.rem (fld wd 20 5) (fld wd 15 5) (fld wd 10 5)) [] := by rw [show wd.toNat % 0x400 = 0xC from (by simpa using s0)]; rfl
  rw [f0, f1, f2] at k2
  exact k1.trans (k2.trans (finish_ok hf hv resv_nil))

theorem Word.s_remu {wd : W32} (d : BitVec 5) (a : BitVec 5) (b : BitVec 5) (hf : fnAssigned (.remu d a b) = true) (hv : valuesOk .s (.remu d a b) = true)
    (he : wd.toNat = 0x0200000D + d.toNat * 0x100000 + a.toNat * 0x8000 + b.toNat * 0x400) : decodeS wd = .ok (.remu d a b) := by
  obtain ⟨h1, s20, s15, s10, s0⟩ := Layout.w5_5_5_10 (op := 0x01) (x20 := d.toNat) (x15 := a.toNat) (x10 := b.toNat) (x0 := 13) d.isLt a.isLt b.isLt (by decide) (he.trans (by omega))
  have f0 : fld wd 20 5 = d := fld_eq s20
  have f1 : fld wd 15 5 = a := fld_eq s15
  have f2 : fld wd 10 5 = b := fld_eq s10
  have k1 : decodeSOp (wd.toNat / 0x2000000) wd = decodeS01 (wd.toNat % 0x400) wd := by rw [h1]; rfl
  have k2 : decodeS01 (wd.toNat % 0x400) wd = finish .s wd (.remu (fld wd 20 5) (fld wd 15 5) (fld wd 10 5)) [] := by rw [show wd.toNat % 0x400 = 0xD from (by simpa using s0)]; rfl
  rw [f0, f1, f2] at k2
  exact k1.trans (k2.trans (finish_ok hf hv resv_nil))

theorem Word.s_min {wd : W32} (d : BitVec 5) (a : BitVec 5) (b : BitVec 5) (hf : fnAssigned (.min d a b) = true) (hv : valuesOk .s (.min d a b) = true)
    (he : wd.toNat = 0x0200000E + d.toNat * 0x100000 + a.toNat * 0x8000 + b.toNat * 0x400) : decodeS wd = .ok (.min d a b) := by
  obtain ⟨h1, s20, s15, s10, s0⟩ := Layout.w5_5_5_10 (op := 0x01) (x20 := d.toNat) (x15 := a.toNat) (x10 := b.toNat) (x0 := 14) d.isLt a.isLt b.isLt (by decide) (he.trans (by omega))
  have f0 : fld wd 20 5 = d := fld_eq s20
  have f1 : fld wd 15 5 = a := fld_eq s15
  have f2 : fld wd 10 5 = b := fld_eq s10
  have k1 : decodeSOp (wd.toNat / 0x2000000) wd = decodeS01 (wd.toNat % 0x400) wd := by rw [h1]; rfl
  have k2 : decodeS01 (wd.toNat % 0x400) wd = finish .s wd (.min (fld wd 20 5) (fld wd 15 5) (fld wd 10 5)) [] := by rw [show wd.toNat % 0x400 = 0xE from (by simpa using s0)]; rfl
  rw [f0, f1, f2] at k2
  exact k1.trans (k2.trans (finish_ok hf hv resv_nil))

theorem Word.s_max {wd : W32} (d : BitVec 5) (a : BitVec 5) (b : BitVec 5) (hf : fnAssigned (.max d a b) = true) (hv : valuesOk .s (.max d a b) = true)
    (he : wd.toNat = 0x0200000F + d.toNat * 0x100000 + a.toNat * 0x8000 + b.toNat * 0x400) : decodeS wd = .ok (.max d a b) := by
  obtain ⟨h1, s20, s15, s10, s0⟩ := Layout.w5_5_5_10 (op := 0x01) (x20 := d.toNat) (x15 := a.toNat) (x10 := b.toNat) (x0 := 15) d.isLt a.isLt b.isLt (by decide) (he.trans (by omega))
  have f0 : fld wd 20 5 = d := fld_eq s20
  have f1 : fld wd 15 5 = a := fld_eq s15
  have f2 : fld wd 10 5 = b := fld_eq s10
  have k1 : decodeSOp (wd.toNat / 0x2000000) wd = decodeS01 (wd.toNat % 0x400) wd := by rw [h1]; rfl
  have k2 : decodeS01 (wd.toNat % 0x400) wd = finish .s wd (.max (fld wd 20 5) (fld wd 15 5) (fld wd 10 5)) [] := by rw [show wd.toNat % 0x400 = 0xF from (by simpa using s0)]; rfl
  rw [f0, f1, f2] at k2
  exact k1.trans (k2.trans (finish_ok hf hv resv_nil))

theorem Word.s_minu {wd : W32} (d : BitVec 5) (a : BitVec 5) (b : BitVec 5) (hf : fnAssigned (.minu d a b) = true) (hv : valuesOk .s (.minu d a b) = true)
    (he : wd.toNat = 0x02000010 + d.toNat * 0x100000 + a.toNat * 0x8000 + b.toNat * 0x400) : decodeS wd = .ok (.minu d a b) := by
  obtain ⟨h1, s20, s15, s10, s0⟩ := Layout.w5_5_5_10 (op := 0x01) (x20 := d.toNat) (x15 := a.toNat) (x10 := b.toNat) (x0 := 16) d.isLt a.isLt b.isLt (by decide) (he.trans (by omega))
  have f0 : fld wd 20 5 = d := fld_eq s20
  have f1 : fld wd 15 5 = a := fld_eq s15
  have f2 : fld wd 10 5 = b := fld_eq s10
  have k1 : decodeSOp (wd.toNat / 0x2000000) wd = decodeS01 (wd.toNat % 0x400) wd := by rw [h1]; rfl
  have k2 : decodeS01 (wd.toNat % 0x400) wd = finish .s wd (.minu (fld wd 20 5) (fld wd 15 5) (fld wd 10 5)) [] := by rw [show wd.toNat % 0x400 = 0x10 from (by simpa using s0)]; rfl
  rw [f0, f1, f2] at k2
  exact k1.trans (k2.trans (finish_ok hf hv resv_nil))

theorem Word.s_maxu {wd : W32} (d : BitVec 5) (a : BitVec 5) (b : BitVec 5) (hf : fnAssigned (.maxu d a b) = true) (hv : valuesOk .s (.maxu d a b) = true)
    (he : wd.toNat = 0x02000011 + d.toNat * 0x100000 + a.toNat * 0x8000 + b.toNat * 0x400) : decodeS wd = .ok (.maxu d a b) := by
  obtain ⟨h1, s20, s15, s10, s0⟩ := Layout.w5_5_5_10 (op := 0x01) (x20 := d.toNat) (x15 := a.toNat) (x10 := b.toNat) (x0 := 17) d.isLt a.isLt b.isLt (by decide) (he.trans (by omega))
  have f0 : fld wd 20 5 = d := fld_eq s20
  have f1 : fld wd 15 5 = a := fld_eq s15
  have f2 : fld wd 10 5 = b := fld_eq s10
  have k1 : decodeSOp (wd.toNat / 0x2000000) wd = decodeS01 (wd.toNat % 0x400) wd := by rw [h1]; rfl
  have k2 : decodeS01 (wd.toNat % 0x400) wd = finish .s wd (.maxu (fld wd 20 5) (fld wd 15 5) (fld wd 10 5)) [] := by rw [show wd.toNat % 0x400 = 0x11 from (by simpa using s0)]; rfl
  rw [f0, f1, f2] at k2
  exact k1.trans (k2.trans (finish_ok hf hv resv_nil))

theorem Word.s_slt {wd : W32} (d : BitVec 5) (a : BitVec 5) (b : BitVec 5) (hf : fnAssigned (.slt d a b) = true) (hv : valuesOk .s (.slt d a b) = true)
    (he : wd.toNat = 0x02000012 + d.toNat * 0x100000 + a.toNat * 0x8000 + b.toNat * 0x400) : decodeS wd = .ok (.slt d a b) := by
  obtain ⟨h1, s20, s15, s10, s0⟩ := Layout.w5_5_5_10 (op := 0x01) (x20 := d.toNat) (x15 := a.toNat) (x10 := b.toNat) (x0 := 18) d.isLt a.isLt b.isLt (by decide) (he.trans (by omega))
  have f0 : fld wd 20 5 = d := fld_eq s20
  have f1 : fld wd 15 5 = a := fld_eq s15
  have f2 : fld wd 10 5 = b := fld_eq s10
  have k1 : decodeSOp (wd.toNat / 0x2000000) wd = decodeS01 (wd.toNat % 0x400) wd := by rw [h1]; rfl
  have k2 : decodeS01 (wd.toNat % 0x400) wd = finish .s wd (.slt (fld wd 20 5) (fld wd 15 5) (fld wd 10 5)) [] := by rw [show wd.toNat % 0x400 = 0x12 from (by simpa using s0)]; rfl
  rw [f0, f1, f2] at k2
  exact k1.trans (k2.trans (finish_ok hf hv resv_nil))

theorem Word.s_sltu {wd : W32} (d : BitVec 5) (a : BitVec 5) (b : BitVec 5) (hf : fnAssigned (.sltu d a b) = true) (hv : valuesOk .s (.sltu d a b) = true)
    (he : wd.toNat = 0x02000013 + d.toNat * 0x100000 + a.toNat * 0x8000 + b.toNat * 0x400) : decodeS wd = .ok (.sltu d a b) := by
  obtain ⟨h1, s20, s15, s10, s0⟩ := Layout.w5_5_5_10 (op := 0x01) (x20 := d.toNat) (x15 := a.toNat) (x10 := b.toNat) (x0 := 19) d.isLt a.isLt b.isLt (by decide) (he.trans (by omega))
  have f0 : fld wd 20 5 = d := fld_eq s20
  have f1 : fld wd 15 5 = a := fld_eq s15
  have f2 : fld wd 10 5 = b := fld_eq s10
  have k1 : decodeSOp (wd.toNat / 0x2000000) wd = decodeS01 (wd.toNat % 0x400) wd := by rw [h1]; rfl
  have k2 : decodeS01 (wd.toNat % 0x400) wd = finish .s wd (.sltu (fld wd 20 5) (fld wd 15 5) (fld wd 10 5)) [] := by rw [show wd.toNat % 0x400 = 0x13 from (by simpa using s0)]; rfl
  rw [f0, f1, f2] at k2
  exact k1.trans (k2.trans (finish_ok hf hv resv_nil))

theorem Word.s_clz {wd : W32} (d : BitVec 5) (a : BitVec 5) (hf : fnAssigned (.clz d a) = true) (hv : valuesOk .s (.clz d a) = true)
    (he : wd.toNat = 0x02000014 + d.toNat * 0x100000 + a.toNat * 0x8000) : decodeS wd = .ok (.clz d a) := by
  obtain ⟨h1, s20, s15, s10, s0⟩ := Layout.w5_5_5_10 (op := 0x01) (x20 := d.toNat) (x15 := a.toNat) (x10 := 0) (x0 := 20) d.isLt a.isLt (by decide) (by decide) (he.trans (by omega))
  have f0 : fld wd 20 5 = d := fld_eq s20
  have f1 : fld wd 15 5 = a := fld_eq s15
  have k1 : decodeSOp (wd.toNat / 0x2000000) wd = decodeS01 (wd.toNat % 0x400) wd := by rw [h1]; rfl
  have k2 : decodeS01 (wd.toNat % 0x400) wd = finish .s wd (.clz (fld wd 20 5) (fld wd 15 5)) [(10, 5)] := by rw [show wd.toNat % 0x400 = 0x14 from (by simpa using s0)]; rfl
  rw [f0, f1] at k2
  exact k1.trans (k2.trans (finish_ok hf hv (resv_cons s10 resv_nil)))

theorem Word.s_popc {wd : W32} (d : BitVec 5) (a : BitVec 5) (hf : fnAssigned (.popc d a) = true) (hv : valuesOk .s (.popc d a) = true)
    (he : wd.toNat = 0x02000015 + d.toNat * 0x100000 + a.toNat * 0x8000) : decodeS wd = .ok (.popc d a) := by
  obtain ⟨h1, s20, s15, s10, s0⟩ := Layout.w5_5_5_10 (op := 0x01) (x20 := d.toNat) (x15 := a.toNat) (x10 := 0) (x0 := 21) d.isLt a.isLt (by decide) (by decide) (he.trans (by omega))
  have f0 : fld wd 20 5 = d := fld_eq s20
  have f1 : fld wd 15 5 = a := fld_eq s15
  have k1 : decodeSOp (wd.toNat / 0x2000000) wd = decodeS01 (wd.toNat % 0x400) wd := by rw [h1]; rfl
  have k2 : decodeS01 (wd.toNat % 0x400) wd = finish .s wd (.popc (fld wd 20 5) (fld wd 15 5)) [(10, 5)] := by rw [show wd.toNat % 0x400 = 0x15 from (by simpa using s0)]; rfl
  rw [f0, f1] at k2
  exact k1.trans (k2.trans (finish_ok hf hv (resv_cons s10 resv_nil)))

theorem Word.s_addi {wd : W32} (d : BitVec 5) (a : BitVec 5) (i : BitVec 15) (hf : fnAssigned (.addi d a i) = true) (hv : valuesOk .s (.addi d a i) = true)
    (he : wd.toNat = 0x04000000 + d.toNat * 0x100000 + a.toNat * 0x8000 + i.toNat) : decodeS wd = .ok (.addi d a i) := by
  obtain ⟨h1, s20, s15, s0⟩ := Layout.w5_5_15 (op := 0x02) (x20 := d.toNat) (x15 := a.toNat) (x0 := i.toNat) d.isLt a.isLt i.isLt (he.trans (by omega))
  have f0 : fld wd 20 5 = d := fld_eq s20
  have f1 : fld wd 15 5 = a := fld_eq s15
  have f2 : fld wd 0 15 = i := fld_eq s0
  have k1 : decodeSOp (wd.toNat / 0x2000000) wd = finish .s wd (.addi (fld wd 20 5) (fld wd 15 5) (fld wd 0 15)) [] := by rw [h1]; rfl
  rw [f0, f1, f2] at k1
  exact k1.trans (finish_ok hf hv resv_nil)

theorem Word.s_andi {wd : W32} (d : BitVec 5) (a : BitVec 5) (i : BitVec 15) (hf : fnAssigned (.andi d a i) = true) (hv : valuesOk .s (.andi d a i) = true)
    (he : wd.toNat = 0x06000000 + d.toNat * 0x100000 + a.toNat * 0x8000 + i.toNat) : decodeS wd = .ok (.andi d a i) := by
  obtain ⟨h1, s20, s15, s0⟩ := Layout.w5_5_15 (op := 0x03) (x20 := d.toNat) (x15 := a.toNat) (x0 := i.toNat) d.isLt a.isLt i.isLt (he.trans (by omega))
  have f0 : fld wd 20 5 = d := fld_eq s20
  have f1 : fld wd 15 5 = a := fld_eq s15
  have f2 : fld wd 0 15 = i := fld_eq s0
  have k1 : decodeSOp (wd.toNat / 0x2000000) wd = finish .s wd (.andi (fld wd 20 5) (fld wd 15 5) (fld wd 0 15)) [] := by rw [h1]; rfl
  rw [f0, f1, f2] at k1
  exact k1.trans (finish_ok hf hv resv_nil)

theorem Word.s_ori {wd : W32} (d : BitVec 5) (a : BitVec 5) (i : BitVec 15) (hf : fnAssigned (.ori d a i) = true) (hv : valuesOk .s (.ori d a i) = true)
    (he : wd.toNat = 0x08000000 + d.toNat * 0x100000 + a.toNat * 0x8000 + i.toNat) : decodeS wd = .ok (.ori d a i) := by
  obtain ⟨h1, s20, s15, s0⟩ := Layout.w5_5_15 (op := 0x04) (x20 := d.toNat) (x15 := a.toNat) (x0 := i.toNat) d.isLt a.isLt i.isLt (he.trans (by omega))
  have f0 : fld wd 20 5 = d := fld_eq s20
  have f1 : fld wd 15 5 = a := fld_eq s15
  have f2 : fld wd 0 15 = i := fld_eq s0
  have k1 : decodeSOp (wd.toNat / 0x2000000) wd = finish .s wd (.ori (fld wd 20 5) (fld wd 15 5) (fld wd 0 15)) [] := by rw [h1]; rfl
  rw [f0, f1, f2] at k1
  exact k1.trans (finish_ok hf hv resv_nil)

theorem Word.s_xori {wd : W32} (d : BitVec 5) (a : BitVec 5) (i : BitVec 15) (hf : fnAssigned (.xori d a i) = true) (hv : valuesOk .s (.xori d a i) = true)
    (he : wd.toNat = 0x0A000000 + d.toNat * 0x100000 + a.toNat * 0x8000 + i.toNat) : decodeS wd = .ok (.xori d a i) := by
  obtain ⟨h1, s20, s15, s0⟩ := Layout.w5_5_15 (op := 0x05) (x20 := d.toNat) (x15 := a.toNat) (x0 := i.toNat) d.isLt a.isLt i.isLt (he.trans (by omega))
  have f0 : fld wd 20 5 = d := fld_eq s20
  have f1 : fld wd 15 5 = a := fld_eq s15
  have f2 : fld wd 0 15 = i := fld_eq s0
  have k1 : decodeSOp (wd.toNat / 0x2000000) wd = finish .s wd (.xori (fld wd 20 5) (fld wd 15 5) (fld wd 0 15)) [] := by rw [h1]; rfl
  rw [f0, f1, f2] at k1
  exact k1.trans (finish_ok hf hv resv_nil)

theorem Word.s_shli {wd : W32} (d : BitVec 5) (a : BitVec 5) (i : BitVec 6) (hf : fnAssigned (.shli d a i) = true) (hv : valuesOk .s (.shli d a i) = true)
    (he : wd.toNat = 0x0C000000 + d.toNat * 0x100000 + a.toNat * 0x8000 + i.toNat) : decodeS wd = .ok (.shli d a i) := by
  obtain ⟨h1, s20, s15, s6, s0⟩ := Layout.w5_5_9_6 (op := 0x06) (x20 := d.toNat) (x15 := a.toNat) (x6 := 0) (x0 := i.toNat) d.isLt a.isLt (by decide) i.isLt (he.trans (by omega))
  have f0 : fld wd 20 5 = d := fld_eq s20
  have f1 : fld wd 15 5 = a := fld_eq s15
  have f2 : fld wd 0 6 = i := fld_eq s0
  have k1 : decodeSOp (wd.toNat / 0x2000000) wd = finish .s wd (.shli (fld wd 20 5) (fld wd 15 5) (fld wd 0 6)) [(6, 9)] := by rw [h1]; rfl
  rw [f0, f1, f2] at k1
  exact k1.trans (finish_ok hf hv (resv_cons s6 resv_nil))

theorem Word.s_shri {wd : W32} (d : BitVec 5) (a : BitVec 5) (i : BitVec 6) (hf : fnAssigned (.shri d a i) = true) (hv : valuesOk .s (.shri d a i) = true)
    (he : wd.toNat = 0x0E000000 + d.toNat * 0x100000 + a.toNat * 0x8000 + i.toNat) : decodeS wd = .ok (.shri d a i) := by
  obtain ⟨h1, s20, s15, s6, s0⟩ := Layout.w5_5_9_6 (op := 0x07) (x20 := d.toNat) (x15 := a.toNat) (x6 := 0) (x0 := i.toNat) d.isLt a.isLt (by decide) i.isLt (he.trans (by omega))
  have f0 : fld wd 20 5 = d := fld_eq s20
  have f1 : fld wd 15 5 = a := fld_eq s15
  have f2 : fld wd 0 6 = i := fld_eq s0
  have k1 : decodeSOp (wd.toNat / 0x2000000) wd = finish .s wd (.shri (fld wd 20 5) (fld wd 15 5) (fld wd 0 6)) [(6, 9)] := by rw [h1]; rfl
  rw [f0, f1, f2] at k1
  exact k1.trans (finish_ok hf hv (resv_cons s6 resv_nil))

theorem Word.s_srai {wd : W32} (d : BitVec 5) (a : BitVec 5) (i : BitVec 6) (hf : fnAssigned (.srai d a i) = true) (hv : valuesOk .s (.srai d a i) = true)
    (he : wd.toNat = 0x10000000 + d.toNat * 0x100000 + a.toNat * 0x8000 + i.toNat) : decodeS wd = .ok (.srai d a i) := by
  obtain ⟨h1, s20, s15, s6, s0⟩ := Layout.w5_5_9_6 (op := 0x08) (x20 := d.toNat) (x15 := a.toNat) (x6 := 0) (x0 := i.toNat) d.isLt a.isLt (by decide) i.isLt (he.trans (by omega))
  have f0 : fld wd 20 5 = d := fld_eq s20
  have f1 : fld wd 15 5 = a := fld_eq s15
  have f2 : fld wd 0 6 = i := fld_eq s0
  have k1 : decodeSOp (wd.toNat / 0x2000000) wd = finish .s wd (.srai (fld wd 20 5) (fld wd 15 5) (fld wd 0 6)) [(6, 9)] := by rw [h1]; rfl
  rw [f0, f1, f2] at k1
  exact k1.trans (finish_ok hf hv (resv_cons s6 resv_nil))

theorem Word.s_slti {wd : W32} (d : BitVec 5) (a : BitVec 5) (i : BitVec 15) (hf : fnAssigned (.slti d a i) = true) (hv : valuesOk .s (.slti d a i) = true)
    (he : wd.toNat = 0x12000000 + d.toNat * 0x100000 + a.toNat * 0x8000 + i.toNat) : decodeS wd = .ok (.slti d a i) := by
  obtain ⟨h1, s20, s15, s0⟩ := Layout.w5_5_15 (op := 0x09) (x20 := d.toNat) (x15 := a.toNat) (x0 := i.toNat) d.isLt a.isLt i.isLt (he.trans (by omega))
  have f0 : fld wd 20 5 = d := fld_eq s20
  have f1 : fld wd 15 5 = a := fld_eq s15
  have f2 : fld wd 0 15 = i := fld_eq s0
  have k1 : decodeSOp (wd.toNat / 0x2000000) wd = finish .s wd (.slti (fld wd 20 5) (fld wd 15 5) (fld wd 0 15)) [] := by rw [h1]; rfl
  rw [f0, f1, f2] at k1
  exact k1.trans (finish_ok hf hv resv_nil)

theorem Word.s_sltui {wd : W32} (d : BitVec 5) (a : BitVec 5) (i : BitVec 15) (hf : fnAssigned (.sltui d a i) = true) (hv : valuesOk .s (.sltui d a i) = true)
    (he : wd.toNat = 0x14000000 + d.toNat * 0x100000 + a.toNat * 0x8000 + i.toNat) : decodeS wd = .ok (.sltui d a i) := by
  obtain ⟨h1, s20, s15, s0⟩ := Layout.w5_5_15 (op := 0x0A) (x20 := d.toNat) (x15 := a.toNat) (x0 := i.toNat) d.isLt a.isLt i.isLt (he.trans (by omega))
  have f0 : fld wd 20 5 = d := fld_eq s20
  have f1 : fld wd 15 5 = a := fld_eq s15
  have f2 : fld wd 0 15 = i := fld_eq s0
  have k1 : decodeSOp (wd.toNat / 0x2000000) wd = finish .s wd (.sltui (fld wd 20 5) (fld wd 15 5) (fld wd 0 15)) [] := by rw [h1]; rfl
  rw [f0, f1, f2] at k1
  exact k1.trans (finish_ok hf hv resv_nil)

theorem Word.s_lih {wd : W32} (d : BitVec 5) (i : BitVec 20) (hf : fnAssigned (.lih d i) = true) (hv : valuesOk .s (.lih d i) = true)
    (he : wd.toNat = 0x18000000 + d.toNat * 0x100000 + i.toNat) : decodeS wd = .ok (.lih d i) := by
  obtain ⟨h1, s20, s0⟩ := Layout.w5_20 (op := 0x0C) (x20 := d.toNat) (x0 := i.toNat) d.isLt i.isLt (he.trans (by omega))
  have f0 : fld wd 20 5 = d := fld_eq s20
  have f1 : fld wd 0 20 = i := fld_eq s0
  have k1 : decodeSOp (wd.toNat / 0x2000000) wd = finish .s wd (.lih (fld wd 20 5) (fld wd 0 20)) [] := by rw [h1]; rfl
  rw [f0, f1] at k1
  exact k1.trans (finish_ok hf hv resv_nil)

theorem Word.s_addpc {wd : W32} (d : BitVec 5) (i : BitVec 20) (hf : fnAssigned (.addpc d i) = true) (hv : valuesOk .s (.addpc d i) = true)
    (he : wd.toNat = 0x1A000000 + d.toNat * 0x100000 + i.toNat) : decodeS wd = .ok (.addpc d i) := by
  obtain ⟨h1, s20, s0⟩ := Layout.w5_20 (op := 0x0D) (x20 := d.toNat) (x0 := i.toNat) d.isLt i.isLt (he.trans (by omega))
  have f0 : fld wd 20 5 = d := fld_eq s20
  have f1 : fld wd 0 20 = i := fld_eq s0
  have k1 : decodeSOp (wd.toNat / 0x2000000) wd = finish .s wd (.addpc (fld wd 20 5) (fld wd 0 20)) [] := by rw [h1]; rfl
  rw [f0, f1] at k1
  exact k1.trans (finish_ok hf hv resv_nil)

theorem Word.s_beq {wd : W32} (a : BitVec 5) (b : BitVec 5) (o : BitVec 15) (hf : fnAssigned (.beq a b o) = true) (hv : valuesOk .s (.beq a b o) = true)
    (he : wd.toNat = 0x20000000 + a.toNat * 0x100000 + b.toNat * 0x8000 + o.toNat) : decodeS wd = .ok (.beq a b o) := by
  obtain ⟨h1, s20, s15, s0⟩ := Layout.w5_5_15 (op := 0x10) (x20 := a.toNat) (x15 := b.toNat) (x0 := o.toNat) a.isLt b.isLt o.isLt (he.trans (by omega))
  have f0 : fld wd 20 5 = a := fld_eq s20
  have f1 : fld wd 15 5 = b := fld_eq s15
  have f2 : fld wd 0 15 = o := fld_eq s0
  have k1 : decodeSOp (wd.toNat / 0x2000000) wd = finish .s wd (.beq (fld wd 20 5) (fld wd 15 5) (fld wd 0 15)) [] := by rw [h1]; rfl
  rw [f0, f1, f2] at k1
  exact k1.trans (finish_ok hf hv resv_nil)

theorem Word.s_bne {wd : W32} (a : BitVec 5) (b : BitVec 5) (o : BitVec 15) (hf : fnAssigned (.bne a b o) = true) (hv : valuesOk .s (.bne a b o) = true)
    (he : wd.toNat = 0x22000000 + a.toNat * 0x100000 + b.toNat * 0x8000 + o.toNat) : decodeS wd = .ok (.bne a b o) := by
  obtain ⟨h1, s20, s15, s0⟩ := Layout.w5_5_15 (op := 0x11) (x20 := a.toNat) (x15 := b.toNat) (x0 := o.toNat) a.isLt b.isLt o.isLt (he.trans (by omega))
  have f0 : fld wd 20 5 = a := fld_eq s20
  have f1 : fld wd 15 5 = b := fld_eq s15
  have f2 : fld wd 0 15 = o := fld_eq s0
  have k1 : decodeSOp (wd.toNat / 0x2000000) wd = finish .s wd (.bne (fld wd 20 5) (fld wd 15 5) (fld wd 0 15)) [] := by rw [h1]; rfl
  rw [f0, f1, f2] at k1
  exact k1.trans (finish_ok hf hv resv_nil)

theorem Word.s_blt {wd : W32} (a : BitVec 5) (b : BitVec 5) (o : BitVec 15) (hf : fnAssigned (.blt a b o) = true) (hv : valuesOk .s (.blt a b o) = true)
    (he : wd.toNat = 0x24000000 + a.toNat * 0x100000 + b.toNat * 0x8000 + o.toNat) : decodeS wd = .ok (.blt a b o) := by
  obtain ⟨h1, s20, s15, s0⟩ := Layout.w5_5_15 (op := 0x12) (x20 := a.toNat) (x15 := b.toNat) (x0 := o.toNat) a.isLt b.isLt o.isLt (he.trans (by omega))
  have f0 : fld wd 20 5 = a := fld_eq s20
  have f1 : fld wd 15 5 = b := fld_eq s15
  have f2 : fld wd 0 15 = o := fld_eq s0
  have k1 : decodeSOp (wd.toNat / 0x2000000) wd = finish .s wd (.blt (fld wd 20 5) (fld wd 15 5) (fld wd 0 15)) [] := by rw [h1]; rfl
  rw [f0, f1, f2] at k1
  exact k1.trans (finish_ok hf hv resv_nil)

theorem Word.s_bge {wd : W32} (a : BitVec 5) (b : BitVec 5) (o : BitVec 15) (hf : fnAssigned (.bge a b o) = true) (hv : valuesOk .s (.bge a b o) = true)
    (he : wd.toNat = 0x26000000 + a.toNat * 0x100000 + b.toNat * 0x8000 + o.toNat) : decodeS wd = .ok (.bge a b o) := by
  obtain ⟨h1, s20, s15, s0⟩ := Layout.w5_5_15 (op := 0x13) (x20 := a.toNat) (x15 := b.toNat) (x0 := o.toNat) a.isLt b.isLt o.isLt (he.trans (by omega))
  have f0 : fld wd 20 5 = a := fld_eq s20
  have f1 : fld wd 15 5 = b := fld_eq s15
  have f2 : fld wd 0 15 = o := fld_eq s0
  have k1 : decodeSOp (wd.toNat / 0x2000000) wd = finish .s wd (.bge (fld wd 20 5) (fld wd 15 5) (fld wd 0 15)) [] := by rw [h1]; rfl
  rw [f0, f1, f2] at k1
  exact k1.trans (finish_ok hf hv resv_nil)

theorem Word.s_bltu {wd : W32} (a : BitVec 5) (b : BitVec 5) (o : BitVec 15) (hf : fnAssigned (.bltu a b o) = true) (hv : valuesOk .s (.bltu a b o) = true)
    (he : wd.toNat = 0x28000000 + a.toNat * 0x100000 + b.toNat * 0x8000 + o.toNat) : decodeS wd = .ok (.bltu a b o) := by
  obtain ⟨h1, s20, s15, s0⟩ := Layout.w5_5_15 (op := 0x14) (x20 := a.toNat) (x15 := b.toNat) (x0 := o.toNat) a.isLt b.isLt o.isLt (he.trans (by omega))
  have f0 : fld wd 20 5 = a := fld_eq s20
  have f1 : fld wd 15 5 = b := fld_eq s15
  have f2 : fld wd 0 15 = o := fld_eq s0
  have k1 : decodeSOp (wd.toNat / 0x2000000) wd = finish .s wd (.bltu (fld wd 20 5) (fld wd 15 5) (fld wd 0 15)) [] := by rw [h1]; rfl
  rw [f0, f1, f2] at k1
  exact k1.trans (finish_ok hf hv resv_nil)

theorem Word.s_bgeu {wd : W32} (a : BitVec 5) (b : BitVec 5) (o : BitVec 15) (hf : fnAssigned (.bgeu a b o) = true) (hv : valuesOk .s (.bgeu a b o) = true)
    (he : wd.toNat = 0x2A000000 + a.toNat * 0x100000 + b.toNat * 0x8000 + o.toNat) : decodeS wd = .ok (.bgeu a b o) := by
  obtain ⟨h1, s20, s15, s0⟩ := Layout.w5_5_15 (op := 0x15) (x20 := a.toNat) (x15 := b.toNat) (x0 := o.toNat) a.isLt b.isLt o.isLt (he.trans (by omega))
  have f0 : fld wd 20 5 = a := fld_eq s20
  have f1 : fld wd 15 5 = b := fld_eq s15
  have f2 : fld wd 0 15 = o := fld_eq s0
  have k1 : decodeSOp (wd.toNat / 0x2000000) wd = finish .s wd (.bgeu (fld wd 20 5) (fld wd 15 5) (fld wd 0 15)) [] := by rw [h1]; rfl
  rw [f0, f1, f2] at k1
  exact k1.trans (finish_ok hf hv resv_nil)

theorem Word.s_jal {wd : W32} (d : BitVec 5) (o : BitVec 20) (hf : fnAssigned (.jal d o) = true) (hv : valuesOk .s (.jal d o) = true)
    (he : wd.toNat = 0x2C000000 + d.toNat * 0x100000 + o.toNat) : decodeS wd = .ok (.jal d o) := by
  obtain ⟨h1, s20, s0⟩ := Layout.w5_20 (op := 0x16) (x20 := d.toNat) (x0 := o.toNat) d.isLt o.isLt (he.trans (by omega))
  have f0 : fld wd 20 5 = d := fld_eq s20
  have f1 : fld wd 0 20 = o := fld_eq s0
  have k1 : decodeSOp (wd.toNat / 0x2000000) wd = finish .s wd (.jal (fld wd 20 5) (fld wd 0 20)) [] := by rw [h1]; rfl
  rw [f0, f1] at k1
  exact k1.trans (finish_ok hf hv resv_nil)

theorem Word.s_jalr {wd : W32} (d : BitVec 5) (a : BitVec 5) (i : BitVec 15) (hf : fnAssigned (.jalr d a i) = true) (hv : valuesOk .s (.jalr d a i) = true)
    (he : wd.toNat = 0x2E000000 + d.toNat * 0x100000 + a.toNat * 0x8000 + i.toNat) : decodeS wd = .ok (.jalr d a i) := by
  obtain ⟨h1, s20, s15, s0⟩ := Layout.w5_5_15 (op := 0x17) (x20 := d.toNat) (x15 := a.toNat) (x0 := i.toNat) d.isLt a.isLt i.isLt (he.trans (by omega))
  have f0 : fld wd 20 5 = d := fld_eq s20
  have f1 : fld wd 15 5 = a := fld_eq s15
  have f2 : fld wd 0 15 = i := fld_eq s0
  have k1 : decodeSOp (wd.toNat / 0x2000000) wd = finish .s wd (.jalr (fld wd 20 5) (fld wd 15 5) (fld wd 0 15)) [] := by rw [h1]; rfl
  rw [f0, f1, f2] at k1
  exact k1.trans (finish_ok hf hv resv_nil)

theorem Word.s_loop {wd : W32} (a : BitVec 5) (o : BitVec 15) (hf : fnAssigned (.loop a o) = true) (hv : valuesOk .s (.loop a o) = true)
    (he : wd.toNat = 0x30000000 + a.toNat * 0x100000 + o.toNat) : decodeS wd = .ok (.loop a o) := by
  obtain ⟨h1, s20, s15, s0⟩ := Layout.w5_5_15 (op := 0x18) (x20 := a.toNat) (x15 := 0) (x0 := o.toNat) a.isLt (by decide) o.isLt (he.trans (by omega))
  have f0 : fld wd 20 5 = a := fld_eq s20
  have f1 : fld wd 0 15 = o := fld_eq s0
  have k1 : decodeSOp (wd.toNat / 0x2000000) wd = finish .s wd (.loop (fld wd 20 5) (fld wd 0 15)) [(15, 5)] := by rw [h1]; rfl
  rw [f0, f1] at k1
  exact k1.trans (finish_ok hf hv (resv_cons s15 resv_nil))

theorem Word.s_ld {wd : W32} (d : BitVec 5) (a : BitVec 5) (z : BitVec 2) (o : BitVec 13) (hf : fnAssigned (.ld d a z o) = true) (hv : valuesOk .s (.ld d a z o) = true)
    (he : wd.toNat = 0x40000000 + d.toNat * 0x100000 + a.toNat * 0x8000 + z.toNat * 0x2000 + o.toNat) : decodeS wd = .ok (.ld d a z o) := by
  obtain ⟨h1, s20, s15, s13, s0⟩ := Layout.w5_5_2_13 (op := 0x20) (x20 := d.toNat) (x15 := a.toNat) (x13 := z.toNat) (x0 := o.toNat) d.isLt a.isLt z.isLt o.isLt (he.trans (by omega))
  have f0 : fld wd 20 5 = d := fld_eq s20
  have f1 : fld wd 15 5 = a := fld_eq s15
  have f2 : fld wd 13 2 = z := fld_eq s13
  have f3 : fld wd 0 13 = o := fld_eq s0
  have k1 : decodeSOp (wd.toNat / 0x2000000) wd = finish .s wd (.ld (fld wd 20 5) (fld wd 15 5) (fld wd 13 2) (fld wd 0 13)) [] := by rw [h1]; rfl
  rw [f0, f1, f2, f3] at k1
  exact k1.trans (finish_ok hf hv resv_nil)

theorem Word.s_ldsx {wd : W32} (d : BitVec 5) (a : BitVec 5) (z : BitVec 2) (o : BitVec 13) (hf : fnAssigned (.ldsx d a z o) = true) (hv : valuesOk .s (.ldsx d a z o) = true)
    (he : wd.toNat = 0x42000000 + d.toNat * 0x100000 + a.toNat * 0x8000 + z.toNat * 0x2000 + o.toNat) : decodeS wd = .ok (.ldsx d a z o) := by
  obtain ⟨h1, s20, s15, s13, s0⟩ := Layout.w5_5_2_13 (op := 0x21) (x20 := d.toNat) (x15 := a.toNat) (x13 := z.toNat) (x0 := o.toNat) d.isLt a.isLt z.isLt o.isLt (he.trans (by omega))
  have f0 : fld wd 20 5 = d := fld_eq s20
  have f1 : fld wd 15 5 = a := fld_eq s15
  have f2 : fld wd 13 2 = z := fld_eq s13
  have f3 : fld wd 0 13 = o := fld_eq s0
  have k1 : decodeSOp (wd.toNat / 0x2000000) wd = finish .s wd (.ldsx (fld wd 20 5) (fld wd 15 5) (fld wd 13 2) (fld wd 0 13)) [] := by rw [h1]; rfl
  rw [f0, f1, f2, f3] at k1
  exact k1.trans (finish_ok hf hv resv_nil)

theorem Word.s_st {wd : W32} (s : BitVec 5) (a : BitVec 5) (z : BitVec 2) (o : BitVec 13) (hf : fnAssigned (.st s a z o) = true) (hv : valuesOk .s (.st s a z o) = true)
    (he : wd.toNat = 0x44000000 + s.toNat * 0x100000 + a.toNat * 0x8000 + z.toNat * 0x2000 + o.toNat) : decodeS wd = .ok (.st s a z o) := by
  obtain ⟨h1, s20, s15, s13, s0⟩ := Layout.w5_5_2_13 (op := 0x22) (x20 := s.toNat) (x15 := a.toNat) (x13 := z.toNat) (x0 := o.toNat) s.isLt a.isLt z.isLt o.isLt (he.trans (by omega))
  have f0 : fld wd 20 5 = s := fld_eq s20
  have f1 : fld wd 15 5 = a := fld_eq s15
  have f2 : fld wd 13 2 = z := fld_eq s13
  have f3 : fld wd 0 13 = o := fld_eq s0
  have k1 : decodeSOp (wd.toNat / 0x2000000) wd = finish .s wd (.st (fld wd 20 5) (fld wd 15 5) (fld wd 13 2) (fld wd 0 13)) [] := by rw [h1]; rfl
  rw [f0, f1, f2, f3] at k1
  exact k1.trans (finish_ok hf hv resv_nil)

theorem Word.s_ldc {wd : W32} (d : BitVec 5) (a : BitVec 5) (z : BitVec 2) (o : BitVec 13) (hf : fnAssigned (.ldc d a z o) = true) (hv : valuesOk .s (.ldc d a z o) = true)
    (he : wd.toNat = 0x46000000 + d.toNat * 0x100000 + a.toNat * 0x8000 + z.toNat * 0x2000 + o.toNat) : decodeS wd = .ok (.ldc d a z o) := by
  obtain ⟨h1, s20, s15, s13, s0⟩ := Layout.w5_5_2_13 (op := 0x23) (x20 := d.toNat) (x15 := a.toNat) (x13 := z.toNat) (x0 := o.toNat) d.isLt a.isLt z.isLt o.isLt (he.trans (by omega))
  have f0 : fld wd 20 5 = d := fld_eq s20
  have f1 : fld wd 15 5 = a := fld_eq s15
  have f2 : fld wd 13 2 = z := fld_eq s13
  have f3 : fld wd 0 13 = o := fld_eq s0
  have k1 : decodeSOp (wd.toNat / 0x2000000) wd = finish .s wd (.ldc (fld wd 20 5) (fld wd 15 5) (fld wd 13 2) (fld wd 0 13)) [] := by rw [h1]; rfl
  rw [f0, f1, f2, f3] at k1
  exact k1.trans (finish_ok hf hv resv_nil)

theorem Word.s_fence {wd : W32} (s : BitVec 3) (hf : fnAssigned (.fence s) = true) (hv : valuesOk .s (.fence s) = true)
    (he : wd.toNat = 0x4A000000 + s.toNat * 0x100) : decodeS wd = .ok (.fence s) := by
  obtain ⟨h1, s11, s8, s0⟩ := Layout.w14_3_8 (op := 0x25) (x11 := 0) (x8 := s.toNat) (x0 := 0) (by decide) s.isLt (by decide) (he.trans (by omega))
  have f0 : fld wd 8 3 = s := fld_eq s8
  have k1 : decodeSOp (wd.toNat / 0x2000000) wd = finish .s wd (.fence (fld wd 8 3)) [(0, 8), (11, 14)] := by rw [h1]; rfl
  rw [f0] at k1
  exact k1.trans (finish_ok hf hv (resv_cons s0 (resv_cons s11 resv_nil)))

theorem Word.s_amoswap {wd : W32} (d : BitVec 5) (a : BitVec 5) (b : BitVec 5) (z : BitVec 1) (hf : fnAssigned (.amoswap d a b z) = true) (hv : valuesOk .s (.amoswap d a b z) = true)
    (he : wd.toNat = 0x4C000000 + d.toNat * 0x100000 + a.toNat * 0x8000 + b.toNat * 0x400 + z.toNat * 0x10) : decodeS wd = .ok (.amoswap d a b z) := by
  obtain ⟨h1, s20, s15, s10, s5, s4, s0⟩ := Layout.w5_5_5_5_1_4 (op := 0x26) (x20 := d.toNat) (x15 := a.toNat) (x10 := b.toNat) (x5 := 0) (x4 := z.toNat) (x0 := 0) d.isLt a.isLt b.isLt (by decide) z.isLt (by decide) (he.trans (by omega))
  have f0 : fld wd 20 5 = d := fld_eq s20
  have f1 : fld wd 15 5 = a := fld_eq s15
  have f2 : fld wd 10 5 = b := fld_eq s10
  have f3 : fld wd 4 1 = z := fld_eq s4
  have g : fld wd 5 5 = 0 := fld_zero s5
  have k1 : decodeSOp (wd.toNat / 0x2000000) wd = decodeS26 (wd.toNat % 0x10) wd := by
    rw [h1]; show (if fld wd 5 5 != 0 then _ else _) = _; rw [g]; rfl
  have k2 : decodeS26 (wd.toNat % 0x10) wd = finish .s wd (.amoswap (fld wd 20 5) (fld wd 15 5) (fld wd 10 5) (fld wd 4 1)) [] := by rw [show wd.toNat % 0x10 = 0 from (by simpa using s0)]; rfl
  rw [f0, f1, f2, f3] at k2
  exact k1.trans (k2.trans (finish_ok hf hv resv_nil))

theorem Word.s_amoadd {wd : W32} (d : BitVec 5) (a : BitVec 5) (b : BitVec 5) (z : BitVec 1) (hf : fnAssigned (.amoadd d a b z) = true) (hv : valuesOk .s (.amoadd d a b z) = true)
    (he : wd.toNat = 0x4C000001 + d.toNat * 0x100000 + a.toNat * 0x8000 + b.toNat * 0x400 + z.toNat * 0x10) : decodeS wd = .ok (.amoadd d a b z) := by
  obtain ⟨h1, s20, s15, s10, s5, s4, s0⟩ := Layout.w5_5_5_5_1_4 (op := 0x26) (x20 := d.toNat) (x15 := a.toNat) (x10 := b.toNat) (x5 := 0) (x4 := z.toNat) (x0 := 1) d.isLt a.isLt b.isLt (by decide) z.isLt (by decide) (he.trans (by omega))
  have f0 : fld wd 20 5 = d := fld_eq s20
  have f1 : fld wd 15 5 = a := fld_eq s15
  have f2 : fld wd 10 5 = b := fld_eq s10
  have f3 : fld wd 4 1 = z := fld_eq s4
  have g : fld wd 5 5 = 0 := fld_zero s5
  have k1 : decodeSOp (wd.toNat / 0x2000000) wd = decodeS26 (wd.toNat % 0x10) wd := by
    rw [h1]; show (if fld wd 5 5 != 0 then _ else _) = _; rw [g]; rfl
  have k2 : decodeS26 (wd.toNat % 0x10) wd = finish .s wd (.amoadd (fld wd 20 5) (fld wd 15 5) (fld wd 10 5) (fld wd 4 1)) [] := by rw [show wd.toNat % 0x10 = 1 from (by simpa using s0)]; rfl
  rw [f0, f1, f2, f3] at k2
  exact k1.trans (k2.trans (finish_ok hf hv resv_nil))

theorem Word.s_amoand {wd : W32} (d : BitVec 5) (a : BitVec 5) (b : BitVec 5) (z : BitVec 1) (hf : fnAssigned (.amoand d a b z) = true) (hv : valuesOk .s (.amoand d a b z) = true)
    (he : wd.toNat = 0x4C000002 + d.toNat * 0x100000 + a.toNat * 0x8000 + b.toNat * 0x400 + z.toNat * 0x10) : decodeS wd = .ok (.amoand d a b z) := by
  obtain ⟨h1, s20, s15, s10, s5, s4, s0⟩ := Layout.w5_5_5_5_1_4 (op := 0x26) (x20 := d.toNat) (x15 := a.toNat) (x10 := b.toNat) (x5 := 0) (x4 := z.toNat) (x0 := 2) d.isLt a.isLt b.isLt (by decide) z.isLt (by decide) (he.trans (by omega))
  have f0 : fld wd 20 5 = d := fld_eq s20
  have f1 : fld wd 15 5 = a := fld_eq s15
  have f2 : fld wd 10 5 = b := fld_eq s10
  have f3 : fld wd 4 1 = z := fld_eq s4
  have g : fld wd 5 5 = 0 := fld_zero s5
  have k1 : decodeSOp (wd.toNat / 0x2000000) wd = decodeS26 (wd.toNat % 0x10) wd := by
    rw [h1]; show (if fld wd 5 5 != 0 then _ else _) = _; rw [g]; rfl
  have k2 : decodeS26 (wd.toNat % 0x10) wd = finish .s wd (.amoand (fld wd 20 5) (fld wd 15 5) (fld wd 10 5) (fld wd 4 1)) [] := by rw [show wd.toNat % 0x10 = 2 from (by simpa using s0)]; rfl
  rw [f0, f1, f2, f3] at k2
  exact k1.trans (k2.trans (finish_ok hf hv resv_nil))

theorem Word.s_amoor {wd : W32} (d : BitVec 5) (a : BitVec 5) (b : BitVec 5) (z : BitVec 1) (hf : fnAssigned (.amoor d a b z) = true) (hv : valuesOk .s (.amoor d a b z) = true)
    (he : wd.toNat = 0x4C000003 + d.toNat * 0x100000 + a.toNat * 0x8000 + b.toNat * 0x400 + z.toNat * 0x10) : decodeS wd = .ok (.amoor d a b z) := by
  obtain ⟨h1, s20, s15, s10, s5, s4, s0⟩ := Layout.w5_5_5_5_1_4 (op := 0x26) (x20 := d.toNat) (x15 := a.toNat) (x10 := b.toNat) (x5 := 0) (x4 := z.toNat) (x0 := 3) d.isLt a.isLt b.isLt (by decide) z.isLt (by decide) (he.trans (by omega))
  have f0 : fld wd 20 5 = d := fld_eq s20
  have f1 : fld wd 15 5 = a := fld_eq s15
  have f2 : fld wd 10 5 = b := fld_eq s10
  have f3 : fld wd 4 1 = z := fld_eq s4
  have g : fld wd 5 5 = 0 := fld_zero s5
  have k1 : decodeSOp (wd.toNat / 0x2000000) wd = decodeS26 (wd.toNat % 0x10) wd := by
    rw [h1]; show (if fld wd 5 5 != 0 then _ else _) = _; rw [g]; rfl
  have k2 : decodeS26 (wd.toNat % 0x10) wd = finish .s wd (.amoor (fld wd 20 5) (fld wd 15 5) (fld wd 10 5) (fld wd 4 1)) [] := by rw [show wd.toNat % 0x10 = 3 from (by simpa using s0)]; rfl
  rw [f0, f1, f2, f3] at k2
  exact k1.trans (k2.trans (finish_ok hf hv resv_nil))

theorem Word.s_amoxor {wd : W32} (d : BitVec 5) (a : BitVec 5) (b : BitVec 5) (z : BitVec 1) (hf : fnAssigned (.amoxor d a b z) = true) (hv : valuesOk .s (.amoxor d a b z) = true)
    (he : wd.toNat = 0x4C000004 + d.toNat * 0x100000 + a.toNat * 0x8000 + b.toNat * 0x400 + z.toNat * 0x10) : decodeS wd = .ok (.amoxor d a b z) := by
  obtain ⟨h1, s20, s15, s10, s5, s4, s0⟩ := Layout.w5_5_5_5_1_4 (op := 0x26) (x20 := d.toNat) (x15 := a.toNat) (x10 := b.toNat) (x5 := 0) (x4 := z.toNat) (x0 := 4) d.isLt a.isLt b.isLt (by decide) z.isLt (by decide) (he.trans (by omega))
  have f0 : fld wd 20 5 = d := fld_eq s20
  have f1 : fld wd 15 5 = a := fld_eq s15
  have f2 : fld wd 10 5 = b := fld_eq s10
  have f3 : fld wd 4 1 = z := fld_eq s4
  have g : fld wd 5 5 = 0 := fld_zero s5
  have k1 : decodeSOp (wd.toNat / 0x2000000) wd = decodeS26 (wd.toNat % 0x10) wd := by
    rw [h1]; show (if fld wd 5 5 != 0 then _ else _) = _; rw [g]; rfl
  have k2 : decodeS26 (wd.toNat % 0x10) wd = finish .s wd (.amoxor (fld wd 20 5) (fld wd 15 5) (fld wd 10 5) (fld wd 4 1)) [] := by rw [show wd.toNat % 0x10 = 4 from (by simpa using s0)]; rfl
  rw [f0, f1, f2, f3] at k2
  exact k1.trans (k2.trans (finish_ok hf hv resv_nil))

theorem Word.s_amomin {wd : W32} (d : BitVec 5) (a : BitVec 5) (b : BitVec 5) (z : BitVec 1) (hf : fnAssigned (.amomin d a b z) = true) (hv : valuesOk .s (.amomin d a b z) = true)
    (he : wd.toNat = 0x4C000005 + d.toNat * 0x100000 + a.toNat * 0x8000 + b.toNat * 0x400 + z.toNat * 0x10) : decodeS wd = .ok (.amomin d a b z) := by
  obtain ⟨h1, s20, s15, s10, s5, s4, s0⟩ := Layout.w5_5_5_5_1_4 (op := 0x26) (x20 := d.toNat) (x15 := a.toNat) (x10 := b.toNat) (x5 := 0) (x4 := z.toNat) (x0 := 5) d.isLt a.isLt b.isLt (by decide) z.isLt (by decide) (he.trans (by omega))
  have f0 : fld wd 20 5 = d := fld_eq s20
  have f1 : fld wd 15 5 = a := fld_eq s15
  have f2 : fld wd 10 5 = b := fld_eq s10
  have f3 : fld wd 4 1 = z := fld_eq s4
  have g : fld wd 5 5 = 0 := fld_zero s5
  have k1 : decodeSOp (wd.toNat / 0x2000000) wd = decodeS26 (wd.toNat % 0x10) wd := by
    rw [h1]; show (if fld wd 5 5 != 0 then _ else _) = _; rw [g]; rfl
  have k2 : decodeS26 (wd.toNat % 0x10) wd = finish .s wd (.amomin (fld wd 20 5) (fld wd 15 5) (fld wd 10 5) (fld wd 4 1)) [] := by rw [show wd.toNat % 0x10 = 5 from (by simpa using s0)]; rfl
  rw [f0, f1, f2, f3] at k2
  exact k1.trans (k2.trans (finish_ok hf hv resv_nil))

theorem Word.s_amomax {wd : W32} (d : BitVec 5) (a : BitVec 5) (b : BitVec 5) (z : BitVec 1) (hf : fnAssigned (.amomax d a b z) = true) (hv : valuesOk .s (.amomax d a b z) = true)
    (he : wd.toNat = 0x4C000006 + d.toNat * 0x100000 + a.toNat * 0x8000 + b.toNat * 0x400 + z.toNat * 0x10) : decodeS wd = .ok (.amomax d a b z) := by
  obtain ⟨h1, s20, s15, s10, s5, s4, s0⟩ := Layout.w5_5_5_5_1_4 (op := 0x26) (x20 := d.toNat) (x15 := a.toNat) (x10 := b.toNat) (x5 := 0) (x4 := z.toNat) (x0 := 6) d.isLt a.isLt b.isLt (by decide) z.isLt (by decide) (he.trans (by omega))
  have f0 : fld wd 20 5 = d := fld_eq s20
  have f1 : fld wd 15 5 = a := fld_eq s15
  have f2 : fld wd 10 5 = b := fld_eq s10
  have f3 : fld wd 4 1 = z := fld_eq s4
  have g : fld wd 5 5 = 0 := fld_zero s5
  have k1 : decodeSOp (wd.toNat / 0x2000000) wd = decodeS26 (wd.toNat % 0x10) wd := by
    rw [h1]; show (if fld wd 5 5 != 0 then _ else _) = _; rw [g]; rfl
  have k2 : decodeS26 (wd.toNat % 0x10) wd = finish .s wd (.amomax (fld wd 20 5) (fld wd 15 5) (fld wd 10 5) (fld wd 4 1)) [] := by rw [show wd.toNat % 0x10 = 6 from (by simpa using s0)]; rfl
  rw [f0, f1, f2, f3] at k2
  exact k1.trans (k2.trans (finish_ok hf hv resv_nil))

theorem Word.s_amominu {wd : W32} (d : BitVec 5) (a : BitVec 5) (b : BitVec 5) (z : BitVec 1) (hf : fnAssigned (.amominu d a b z) = true) (hv : valuesOk .s (.amominu d a b z) = true)
    (he : wd.toNat = 0x4C000007 + d.toNat * 0x100000 + a.toNat * 0x8000 + b.toNat * 0x400 + z.toNat * 0x10) : decodeS wd = .ok (.amominu d a b z) := by
  obtain ⟨h1, s20, s15, s10, s5, s4, s0⟩ := Layout.w5_5_5_5_1_4 (op := 0x26) (x20 := d.toNat) (x15 := a.toNat) (x10 := b.toNat) (x5 := 0) (x4 := z.toNat) (x0 := 7) d.isLt a.isLt b.isLt (by decide) z.isLt (by decide) (he.trans (by omega))
  have f0 : fld wd 20 5 = d := fld_eq s20
  have f1 : fld wd 15 5 = a := fld_eq s15
  have f2 : fld wd 10 5 = b := fld_eq s10
  have f3 : fld wd 4 1 = z := fld_eq s4
  have g : fld wd 5 5 = 0 := fld_zero s5
  have k1 : decodeSOp (wd.toNat / 0x2000000) wd = decodeS26 (wd.toNat % 0x10) wd := by
    rw [h1]; show (if fld wd 5 5 != 0 then _ else _) = _; rw [g]; rfl
  have k2 : decodeS26 (wd.toNat % 0x10) wd = finish .s wd (.amominu (fld wd 20 5) (fld wd 15 5) (fld wd 10 5) (fld wd 4 1)) [] := by rw [show wd.toNat % 0x10 = 7 from (by simpa using s0)]; rfl
  rw [f0, f1, f2, f3] at k2
  exact k1.trans (k2.trans (finish_ok hf hv resv_nil))

theorem Word.s_amomaxu {wd : W32} (d : BitVec 5) (a : BitVec 5) (b : BitVec 5) (z : BitVec 1) (hf : fnAssigned (.amomaxu d a b z) = true) (hv : valuesOk .s (.amomaxu d a b z) = true)
    (he : wd.toNat = 0x4C000008 + d.toNat * 0x100000 + a.toNat * 0x8000 + b.toNat * 0x400 + z.toNat * 0x10) : decodeS wd = .ok (.amomaxu d a b z) := by
  obtain ⟨h1, s20, s15, s10, s5, s4, s0⟩ := Layout.w5_5_5_5_1_4 (op := 0x26) (x20 := d.toNat) (x15 := a.toNat) (x10 := b.toNat) (x5 := 0) (x4 := z.toNat) (x0 := 8) d.isLt a.isLt b.isLt (by decide) z.isLt (by decide) (he.trans (by omega))
  have f0 : fld wd 20 5 = d := fld_eq s20
  have f1 : fld wd 15 5 = a := fld_eq s15
  have f2 : fld wd 10 5 = b := fld_eq s10
  have f3 : fld wd 4 1 = z := fld_eq s4
  have g : fld wd 5 5 = 0 := fld_zero s5
  have k1 : decodeSOp (wd.toNat / 0x2000000) wd = decodeS26 (wd.toNat % 0x10) wd := by
    rw [h1]; show (if fld wd 5 5 != 0 then _ else _) = _; rw [g]; rfl
  have k2 : decodeS26 (wd.toNat % 0x10) wd = finish .s wd (.amomaxu (fld wd 20 5) (fld wd 15 5) (fld wd 10 5) (fld wd 4 1)) [] := by rw [show wd.toNat % 0x10 = 8 from (by simpa using s0)]; rfl
  rw [f0, f1, f2, f3] at k2
  exact k1.trans (k2.trans (finish_ok hf hv resv_nil))

theorem Word.s_cas {wd : W32} (d : BitVec 5) (a : BitVec 5) (b : BitVec 5) (z : BitVec 1) (hf : fnAssigned (.cas d a b z) = true) (hv : valuesOk .s (.cas d a b z) = true)
    (he : wd.toNat = 0x4E000000 + d.toNat * 0x100000 + a.toNat * 0x8000 + b.toNat * 0x400 + z.toNat) : decodeS wd = .ok (.cas d a b z) := by
  obtain ⟨h1, s20, s15, s10, s1, s0⟩ := Layout.w5_5_5_9_1 (op := 0x27) (x20 := d.toNat) (x15 := a.toNat) (x10 := b.toNat) (x1 := 0) (x0 := z.toNat) d.isLt a.isLt b.isLt (by decide) z.isLt (he.trans (by omega))
  have f0 : fld wd 20 5 = d := fld_eq s20
  have f1 : fld wd 15 5 = a := fld_eq s15
  have f2 : fld wd 10 5 = b := fld_eq s10
  have f3 : fld wd 0 1 = z := fld_eq s0
  have g : fld wd 1 9 = 0 := fld_zero s1
  have k1 : decodeSOp (wd.toNat / 0x2000000) wd = finish .s wd (.cas (fld wd 20 5) (fld wd 15 5) (fld wd 10 5) (fld wd 0 1)) [] := by
    rw [h1]; show (if fld wd 1 9 != 0 then _ else _) = _; rw [g]; rfl
  rw [f0, f1, f2, f3] at k1
  exact k1.trans (finish_ok hf hv resv_nil)

theorem Word.s_spt {wd : W32} (d : BitVec 5) (a : BitVec 5) (hf : fnAssigned (.spt d a) = true) (hv : valuesOk .s (.spt d a) = true)
    (he : wd.toNat = 0x50000000 + d.toNat * 0x100000 + a.toNat * 0x8000) : decodeS wd = .ok (.spt d a) := by
  obtain ⟨h1, s20, s15, s0⟩ := Layout.w5_5_15 (op := 0x28) (x20 := d.toNat) (x15 := a.toNat) (x0 := 0) d.isLt a.isLt (by decide) (he.trans (by omega))
  have f0 : fld wd 20 5 = d := fld_eq s20
  have f1 : fld wd 15 5 = a := fld_eq s15
  have k1 : decodeSOp (wd.toNat / 0x2000000) wd = finish .s wd (.spt (fld wd 20 5) (fld wd 15 5)) [(0, 15)] := by rw [h1]; rfl
  rw [f0, f1] at k1
  exact k1.trans (finish_ok hf hv (resv_cons s0 resv_nil))

theorem Word.s_spcGlobal {wd : W32} (d : BitVec 5) (a : BitVec 5) (hf : fnAssigned (.spcGlobal d a) = true) (hv : valuesOk .s (.spcGlobal d a) = true)
    (he : wd.toNat = 0x52000000 + d.toNat * 0x100000 + a.toNat * 0x8000) : decodeS wd = .ok (.spcGlobal d a) := by
  obtain ⟨h1, s20, s15, s10, s0⟩ := Layout.w5_5_5_10 (op := 0x29) (x20 := d.toNat) (x15 := a.toNat) (x10 := 0) (x0 := 0) d.isLt a.isLt (by decide) (by decide) (he.trans (by omega))
  have f0 : fld wd 20 5 = d := fld_eq s20
  have f1 : fld wd 15 5 = a := fld_eq s15
  have k1 : decodeSOp (wd.toNat / 0x2000000) wd = decodeS29 (wd.toNat % 0x400) wd := by rw [h1]; rfl
  have k2 : decodeS29 (wd.toNat % 0x400) wd = finish .s wd (.spcGlobal (fld wd 20 5) (fld wd 15 5)) [(10, 5)] := by rw [show wd.toNat % 0x400 = 0x0 from (by simpa using s0)]; rfl
  rw [f0, f1] at k2
  exact k1.trans (k2.trans (finish_ok hf hv (resv_cons s10 resv_nil)))

theorem Word.s_spcPrivate {wd : W32} (d : BitVec 5) (a : BitVec 5) (hf : fnAssigned (.spcPrivate d a) = true) (hv : valuesOk .s (.spcPrivate d a) = true)
    (he : wd.toNat = 0x52000008 + d.toNat * 0x100000 + a.toNat * 0x8000) : decodeS wd = .ok (.spcPrivate d a) := by
  obtain ⟨h1, s20, s15, s10, s0⟩ := Layout.w5_5_5_10 (op := 0x29) (x20 := d.toNat) (x15 := a.toNat) (x10 := 0) (x0 := 8) d.isLt a.isLt (by decide) (by decide) (he.trans (by omega))
  have f0 : fld wd 20 5 = d := fld_eq s20
  have f1 : fld wd 15 5 = a := fld_eq s15
  have k1 : decodeSOp (wd.toNat / 0x2000000) wd = decodeS29 (wd.toNat % 0x400) wd := by rw [h1]; rfl
  have k2 : decodeS29 (wd.toNat % 0x400) wd = finish .s wd (.spcPrivate (fld wd 20 5) (fld wd 15 5)) [(10, 5)] := by rw [show wd.toNat % 0x400 = 0x8 from (by simpa using s0)]; rfl
  rw [f0, f1] at k2
  exact k1.trans (k2.trans (finish_ok hf hv (resv_cons s10 resv_nil)))

theorem Word.s_spcTile {wd : W32} (d : BitVec 5) (a : BitVec 5) (b : BitVec 5) (hf : fnAssigned (.spcTile d a b) = true) (hv : valuesOk .s (.spcTile d a b) = true)
    (he : wd.toNat = 0x52000009 + d.toNat * 0x100000 + a.toNat * 0x8000 + b.toNat * 0x400) : decodeS wd = .ok (.spcTile d a b) := by
  obtain ⟨h1, s20, s15, s10, s0⟩ := Layout.w5_5_5_10 (op := 0x29) (x20 := d.toNat) (x15 := a.toNat) (x10 := b.toNat) (x0 := 9) d.isLt a.isLt b.isLt (by decide) (he.trans (by omega))
  have f0 : fld wd 20 5 = d := fld_eq s20
  have f1 : fld wd 15 5 = a := fld_eq s15
  have f2 : fld wd 10 5 = b := fld_eq s10
  have k1 : decodeSOp (wd.toNat / 0x2000000) wd = decodeS29 (wd.toNat % 0x400) wd := by rw [h1]; rfl
  have k2 : decodeS29 (wd.toNat % 0x400) wd = finish .s wd (.spcTile (fld wd 20 5) (fld wd 15 5) (fld wd 10 5)) [] := by rw [show wd.toNat % 0x400 = 0x9 from (by simpa using s0)]; rfl
  rw [f0, f1, f2] at k2
  exact k1.trans (k2.trans (finish_ok hf hv resv_nil))

theorem Word.s_spcShared {wd : W32} (d : BitVec 5) (a : BitVec 5) (b : BitVec 5) (hf : fnAssigned (.spcShared d a b) = true) (hv : valuesOk .s (.spcShared d a b) = true)
    (he : wd.toNat = 0x5200000A + d.toNat * 0x100000 + a.toNat * 0x8000 + b.toNat * 0x400) : decodeS wd = .ok (.spcShared d a b) := by
  obtain ⟨h1, s20, s15, s10, s0⟩ := Layout.w5_5_5_10 (op := 0x29) (x20 := d.toNat) (x15 := a.toNat) (x10 := b.toNat) (x0 := 10) d.isLt a.isLt b.isLt (by decide) (he.trans (by omega))
  have f0 : fld wd 20 5 = d := fld_eq s20
  have f1 : fld wd 15 5 = a := fld_eq s15
  have f2 : fld wd 10 5 = b := fld_eq s10
  have k1 : decodeSOp (wd.toNat / 0x2000000) wd = decodeS29 (wd.toNat % 0x400) wd := by rw [h1]; rfl
  have k2 : decodeS29 (wd.toNat % 0x400) wd = finish .s wd (.spcShared (fld wd 20 5) (fld wd 15 5) (fld wd 10 5)) [] := by rw [show wd.toNat % 0x400 = 0xA from (by simpa using s0)]; rfl
  rw [f0, f1, f2] at k2
  exact k1.trans (k2.trans (finish_ok hf hv resv_nil))

theorem Word.s_spcOffset {wd : W32} (d : BitVec 5) (a : BitVec 5) (hf : fnAssigned (.spcOffset d a) = true) (hv : valuesOk .s (.spcOffset d a) = true)
    (he : wd.toNat = 0x52000010 + d.toNat * 0x100000 + a.toNat * 0x8000) : decodeS wd = .ok (.spcOffset d a) := by
  obtain ⟨h1, s20, s15, s10, s0⟩ := Layout.w5_5_5_10 (op := 0x29) (x20 := d.toNat) (x15 := a.toNat) (x10 := 0) (x0 := 16) d.isLt a.isLt (by decide) (by decide) (he.trans (by omega))
  have f0 : fld wd 20 5 = d := fld_eq s20
  have f1 : fld wd 15 5 = a := fld_eq s15
  have k1 : decodeSOp (wd.toNat / 0x2000000) wd = decodeS29 (wd.toNat % 0x400) wd := by rw [h1]; rfl
  have k2 : decodeS29 (wd.toNat % 0x400) wd = finish .s wd (.spcOffset (fld wd 20 5) (fld wd 15 5)) [(10, 5)] := by rw [show wd.toNat % 0x400 = 0x10 from (by simpa using s0)]; rfl
  rw [f0, f1] at k2
  exact k1.trans (k2.trans (finish_ok hf hv (resv_cons s10 resv_nil)))

theorem Word.s_toks {wd : W32} (s : BitVec 5) (c : BitVec 4) (i : BitVec 8) (hf : fnAssigned (.toks s c i) = true) (hv : valuesOk .s (.toks s c i) = true)
    (he : wd.toNat = 0x60000000 + s.toNat * 0x100000 + c.toNat * 0x100 + i.toNat) : decodeS wd = .ok (.toks s c i) := by
  obtain ⟨h1, s20, s19, s12, s8, s0⟩ := Layout.w5_1_7_4_8 (op := 0x30) (x20 := s.toNat) (x19 := 0) (x12 := 0) (x8 := c.toNat) (x0 := i.toNat) s.isLt (by decide) (by decide) c.isLt i.isLt (he.trans (by omega))
  have f0 : fld wd 20 5 = s := fld_eq s20
  have f1 : fld wd 8 4 = c := fld_eq s8
  have f2 : fld wd 0 8 = i := fld_eq s0
  have k1 : decodeSOp (wd.toNat / 0x2000000) wd = decodeS30 (wd.toNat / 0x80000 % 0x2) wd := by rw [h1]; rfl
  have k2 : decodeS30 (wd.toNat / 0x80000 % 0x2) wd = finish .s wd (.toks (fld wd 20 5) (fld wd 8 4) (fld wd 0 8)) [(12, 7)] := by rw [show wd.toNat / 0x80000 % 0x2 = 0x0 from s19]; rfl
  rw [f0, f1, f2] at k2
  exact k1.trans (k2.trans (finish_ok hf hv (resv_cons s12 resv_nil)))

theorem Word.s_toksRemote {wd : W32} (s : BitVec 5) (t : BitVec 8) (c : BitVec 3) (i : BitVec 8) (hf : fnAssigned (.toksRemote s t c i) = true) (hv : valuesOk .s (.toksRemote s t c i) = true)
    (he : wd.toNat = 0x60080000 + s.toNat * 0x100000 + t.toNat * 0x800 + c.toNat * 0x100 + i.toNat) : decodeS wd = .ok (.toksRemote s t c i) := by
  obtain ⟨h1, s20, s19, s11, s8, s0⟩ := Layout.w5_1_8_3_8 (op := 0x30) (x20 := s.toNat) (x19 := 1) (x11 := t.toNat) (x8 := c.toNat) (x0 := i.toNat) s.isLt (by decide) t.isLt c.isLt i.isLt (he.trans (by omega))
  have f0 : fld wd 20 5 = s := fld_eq s20
  have f1 : fld wd 11 8 = t := fld_eq s11
  have f2 : fld wd 8 3 = c := fld_eq s8
  have f3 : fld wd 0 8 = i := fld_eq s0
  have k1 : decodeSOp (wd.toNat / 0x2000000) wd = decodeS30 (wd.toNat / 0x80000 % 0x2) wd := by rw [h1]; rfl
  have k2 : decodeS30 (wd.toNat / 0x80000 % 0x2) wd = finish .s wd (.toksRemote (fld wd 20 5) (fld wd 11 8) (fld wd 8 3) (fld wd 0 8)) [] := by rw [show wd.toNat / 0x80000 % 0x2 = 0x1 from s19]; rfl
  rw [f0, f1, f2, f3] at k2
  exact k1.trans (k2.trans (finish_ok hf hv resv_nil))

theorem Word.s_tokw {wd : W32} (d : BitVec 5) (c : BitVec 4) (hf : fnAssigned (.tokw d c) = true) (hv : valuesOk .s (.tokw d c) = true)
    (he : wd.toNat = 0x62000000 + d.toNat * 0x100000 + c.toNat * 0x100) : decodeS wd = .ok (.tokw d c) := by
  obtain ⟨h1, s20, s12, s8, s0⟩ := Layout.w5_8_4_8 (op := 0x31) (x20 := d.toNat) (x12 := 0) (x8 := c.toNat) (x0 := 0) d.isLt (by decide) c.isLt (by decide) (he.trans (by omega))
  have f0 : fld wd 20 5 = d := fld_eq s20
  have f1 : fld wd 8 4 = c := fld_eq s8
  have k1 : decodeSOp (wd.toNat / 0x2000000) wd = finish .s wd (.tokw (fld wd 20 5) (fld wd 8 4)) [(0, 8), (12, 8)] := by rw [h1]; rfl
  rw [f0, f1] at k1
  exact k1.trans (finish_ok hf hv (resv_cons s0 (resv_cons s12 resv_nil)))

theorem Word.s_cue {wd : W32} (n : BitVec 20) (hf : fnAssigned (.cue n) = true) (hv : valuesOk .s (.cue n) = true)
    (he : wd.toNat = 0x64000000 + n.toNat) : decodeS wd = .ok (.cue n) := by
  obtain ⟨h1, s20, s0⟩ := Layout.w5_20 (op := 0x32) (x20 := 0) (x0 := n.toNat) (by decide) n.isLt (he.trans (by omega))
  have f0 : fld wd 0 20 = n := fld_eq s0
  have k1 : decodeSOp (wd.toNat / 0x2000000) wd = finish .s wd (.cue (fld wd 0 20)) [(20, 5)] := by rw [h1]; rfl
  rw [f0] at k1
  exact k1.trans (finish_ok hf hv (resv_cons s20 resv_nil))

theorem Word.s_gset {wd : W32} (d : BitVec 5) (s : BitVec 4) (v : BitVec 8) (hf : fnAssigned (.gset d s v) = true) (hv : valuesOk .s (.gset d s v) = true)
    (he : wd.toNat = 0x66000000 + d.toNat * 0x100000 + s.toNat * 0x100 + v.toNat) : decodeS wd = .ok (.gset d s v) := by
  obtain ⟨h1, s20, s12, s8, s0⟩ := Layout.w5_8_4_8 (op := 0x33) (x20 := d.toNat) (x12 := 0) (x8 := s.toNat) (x0 := v.toNat) d.isLt (by decide) s.isLt v.isLt (he.trans (by omega))
  have f0 : fld wd 20 5 = d := fld_eq s20
  have f1 : fld wd 8 4 = s := fld_eq s8
  have f2 : fld wd 0 8 = v := fld_eq s0
  have k1 : decodeSOp (wd.toNat / 0x2000000) wd = finish .s wd (.gset (fld wd 20 5) (fld wd 8 4) (fld wd 0 8)) [(12, 8)] := by rw [h1]; rfl
  rw [f0, f1, f2] at k1
  exact k1.trans (finish_ok hf hv (resv_cons s12 resv_nil))

theorem Word.s_wfe {wd : W32} (d : BitVec 5) (m : BitVec 8) (hf : fnAssigned (.wfe d m) = true) (hv : valuesOk .s (.wfe d m) = true)
    (he : wd.toNat = 0x68000000 + d.toNat * 0x100000 + m.toNat) : decodeS wd = .ok (.wfe d m) := by
  obtain ⟨h1, s20, s8, s0⟩ := Layout.w5_12_8 (op := 0x34) (x20 := d.toNat) (x8 := 0) (x0 := m.toNat) d.isLt (by decide) m.isLt (he.trans (by omega))
  have f0 : fld wd 20 5 = d := fld_eq s20
  have f1 : fld wd 0 8 = m := fld_eq s0
  have k1 : decodeSOp (wd.toNat / 0x2000000) wd = finish .s wd (.wfe (fld wd 20 5) (fld wd 0 8)) [(8, 12)] := by rw [h1]; rfl
  rw [f0, f1] at k1
  exact k1.trans (finish_ok hf hv (resv_cons s8 resv_nil))

theorem Word.s_sev {wd : W32} (d : BitVec 5) (m : BitVec 8) (hf : fnAssigned (.sev d m) = true) (hv : valuesOk .s (.sev d m) = true)
    (he : wd.toNat = 0x6A000000 + d.toNat * 0x100000 + m.toNat) : decodeS wd = .ok (.sev d m) := by
  obtain ⟨h1, s20, s8, s0⟩ := Layout.w5_12_8 (op := 0x35) (x20 := d.toNat) (x8 := 0) (x0 := m.toNat) d.isLt (by decide) m.isLt (he.trans (by omega))
  have f0 : fld wd 20 5 = d := fld_eq s20
  have f1 : fld wd 0 8 = m := fld_eq s0
  have k1 : decodeSOp (wd.toNat / 0x2000000) wd = finish .s wd (.sev (fld wd 20 5) (fld wd 0 8)) [(8, 12)] := by rw [h1]; rfl
  rw [f0, f1] at k1
  exact k1.trans (finish_ok hf hv (resv_cons s8 resv_nil))

theorem Word.s_cut {wd : W32} (t : BitVec 3) (hf : fnAssigned (.cut t) = true) (hv : valuesOk .s (.cut t) = true)
    (he : wd.toNat = 0x6C000000 + t.toNat * 0x100) : decodeS wd = .ok (.cut t) := by
  obtain ⟨h1, s11, s8, s0⟩ := Layout.w14_3_8 (op := 0x36) (x11 := 0) (x8 := t.toNat) (x0 := 0) (by decide) t.isLt (by decide) (he.trans (by omega))
  have f0 : fld wd 8 3 = t := fld_eq s8
  have k1 : decodeSOp (wd.toNat / 0x2000000) wd = finish .s wd (.cut (fld wd 8 3)) [(0, 8), (11, 14)] := by rw [h1]; rfl
  rw [f0] at k1
  exact k1.trans (finish_ok hf hv (resv_cons s0 (resv_cons s11 resv_nil)))

theorem Word.s_domr {wd : W32} (d : BitVec 5) (l : BitVec 3) (w : BitVec 8) (hf : fnAssigned (.domr d l w) = true) (hv : valuesOk .s (.domr d l w) = true)
    (he : wd.toNat = 0x6E000000 + d.toNat * 0x100000 + l.toNat * 0x100 + w.toNat) : decodeS wd = .ok (.domr d l w) := by
  obtain ⟨h1, s20, s11, s8, s0⟩ := Layout.w5_9_3_8 (op := 0x37) (x20 := d.toNat) (x11 := 0) (x8 := l.toNat) (x0 := w.toNat) d.isLt (by decide) l.isLt w.isLt (he.trans (by omega))
  have f0 : fld wd 20 5 = d := fld_eq s20
  have f1 : fld wd 8 3 = l := fld_eq s8
  have f2 : fld wd 0 8 = w := fld_eq s0
  have k1 : decodeSOp (wd.toNat / 0x2000000) wd = finish .s wd (.domr (fld wd 20 5) (fld wd 8 3) (fld wd 0 8)) [(11, 9)] := by rw [h1]; rfl
  rw [f0, f1, f2] at k1
  exact k1.trans (finish_ok hf hv (resv_cons s11 resv_nil))

theorem Word.s_seedrd {wd : W32} (d : BitVec 5) (h : BitVec 8) (hf : fnAssigned (.seedrd d h) = true) (hv : valuesOk .s (.seedrd d h) = true)
    (he : wd.toNat = 0x70000000 + d.toNat * 0x100000 + h.toNat) : decodeS wd = .ok (.seedrd d h) := by
  obtain ⟨h1, s20, s8, s0⟩ := Layout.w5_12_8 (op := 0x38) (x20 := d.toNat) (x8 := 0) (x0 := h.toNat) d.isLt (by decide) h.isLt (he.trans (by omega))
  have f0 : fld wd 20 5 = d := fld_eq s20
  have f1 : fld wd 0 8 = h := fld_eq s0
  have k1 : decodeSOp (wd.toNat / 0x2000000) wd = finish .s wd (.seedrd (fld wd 20 5) (fld wd 0 8)) [(8, 12)] := by rw [h1]; rfl
  rw [f0, f1] at k1
  exact k1.trans (finish_ok hf hv (resv_cons s8 resv_nil))

theorem Word.s_rngk {wd : W32} (n : BitVec 4) (a : BitVec 5) (b : BitVec 5) (hf : fnAssigned (.rngk n a b) = true) (hv : valuesOk .s (.rngk n a b) = true)
    (he : wd.toNat = 0x72000000 + n.toNat * 0x100000 + a.toNat * 0x8000 + b.toNat * 0x400) : decodeS wd = .ok (.rngk n a b) := by
  obtain ⟨h1, s24, s20, s15, s10, s0⟩ := Layout.w1_4_5_5_10 (op := 0x39) (x24 := 0) (x20 := n.toNat) (x15 := a.toNat) (x10 := b.toNat) (x0 := 0) (by decide) n.isLt a.isLt b.isLt (by decide) (he.trans (by omega))
  have f0 : fld wd 20 4 = n := fld_eq s20
  have f1 : fld wd 15 5 = a := fld_eq s15
  have f2 : fld wd 10 5 = b := fld_eq s10
  have g : fld wd 0 10 = 0 := fld_zero s0
  have k1 : decodeSOp (wd.toNat / 0x2000000) wd = finish .s wd (.rngk (fld wd 20 4) (fld wd 15 5) (fld wd 10 5)) [(24, 1)] := by
    rw [h1]; show (if fld wd 0 10 != 0 then _ else _) = _; rw [g]; rfl
  rw [f0, f1, f2] at k1
  exact k1.trans (finish_ok hf hv (resv_cons s24 resv_nil))

theorem Word.s_rnga {wd : W32} (n : BitVec 4) (a : BitVec 5) (b : BitVec 5) (hf : fnAssigned (.rnga n a b) = true) (hv : valuesOk .s (.rnga n a b) = true)
    (he : wd.toNat = 0x74000000 + n.toNat * 0x100000 + a.toNat * 0x8000 + b.toNat * 0x400) : decodeS wd = .ok (.rnga n a b) := by
  obtain ⟨h1, s24, s20, s15, s10, s0⟩ := Layout.w1_4_5_5_10 (op := 0x3A) (x24 := 0) (x20 := n.toNat) (x15 := a.toNat) (x10 := b.toNat) (x0 := 0) (by decide) n.isLt a.isLt b.isLt (by decide) (he.trans (by omega))
  have f0 : fld wd 20 4 = n := fld_eq s20
  have f1 : fld wd 15 5 = a := fld_eq s15
  have f2 : fld wd 10 5 = b := fld_eq s10
  have g : fld wd 0 10 = 0 := fld_zero s0
  have k1 : decodeSOp (wd.toNat / 0x2000000) wd = finish .s wd (.rnga (fld wd 20 4) (fld wd 15 5) (fld wd 10 5)) [(24, 1)] := by
    rw [h1]; show (if fld wd 0 10 != 0 then _ else _) = _; rw [g]; rfl
  rw [f0, f1, f2] at k1
  exact k1.trans (finish_ok hf hv (resv_cons s24 resv_nil))

theorem Word.s_folio {wd : W32} (a : BitVec 5) (b : BitVec 5) (s : BitVec 6) (hf : fnAssigned (.folio a b s) = true) (hv : valuesOk .s (.folio a b s) = true)
    (he : wd.toNat = 0x78000000 + a.toNat * 0x8000 + b.toNat * 0x400 + s.toNat) : decodeS wd = .ok (.folio a b s) := by
  obtain ⟨h1, s20, s15, s10, s6, s0⟩ := Layout.w5_5_5_4_6 (op := 0x3C) (x20 := 0) (x15 := a.toNat) (x10 := b.toNat) (x6 := 0) (x0 := s.toNat) (by decide) a.isLt b.isLt (by decide) s.isLt (he.trans (by omega))
  have f0 : fld wd 15 5 = a := fld_eq s15
  have f1 : fld wd 10 5 = b := fld_eq s10
  have f2 : fld wd 0 6 = s := fld_eq s0
  have k1 : decodeSOp (wd.toNat / 0x2000000) wd = finish .s wd (.folio (fld wd 15 5) (fld wd 10 5) (fld wd 0 6)) [(6, 4), (20, 5)] := by rw [h1]; rfl
  rw [f0, f1, f2] at k1
  exact k1.trans (finish_ok hf hv (resv_cons s6 (resv_cons s20 resv_nil)))

theorem Word.s_funbind {wd : W32} (s : BitVec 6) (hf : fnAssigned (.funbind s) = true) (hv : valuesOk .s (.funbind s) = true)
    (he : wd.toNat = 0x7A000000 + s.toNat * 0x100) : decodeS wd = .ok (.funbind s) := by
  obtain ⟨h1, s14, s8, s0⟩ := Layout.w11_6_8 (op := 0x3D) (x14 := 0) (x8 := s.toNat) (x0 := 0) (by decide) s.isLt (by decide) (he.trans (by omega))
  have f0 : fld wd 8 6 = s := fld_eq s8
  have k1 : decodeSOp (wd.toNat / 0x2000000) wd = finish .s wd (.funbind (fld wd 8 6)) [(0, 8), (14, 11)] := by rw [h1]; rfl
  rw [f0] at k1
  exact k1.trans (finish_ok hf hv (resv_cons s0 (resv_cons s14 resv_nil)))

theorem Word.s_talloc {wd : W32} (d : BitVec 5) (a : BitVec 5) (b : BitVec 5) (h : BitVec 8) (hf : fnAssigned (.talloc d a b h) = true) (hv : valuesOk .s (.talloc d a b h) = true)
    (he : wd.toNat = 0x80000000 + d.toNat * 0x100000 + a.toNat * 0x8000 + b.toNat * 0x400 + h.toNat) : decodeS wd = .ok (.talloc d a b h) := by
  obtain ⟨h1, s20, s15, s10, s8, s0⟩ := Layout.w5_5_5_2_8 (op := 0x40) (x20 := d.toNat) (x15 := a.toNat) (x10 := b.toNat) (x8 := 0) (x0 := h.toNat) d.isLt a.isLt b.isLt (by decide) h.isLt (he.trans (by omega))
  have f0 : fld wd 20 5 = d := fld_eq s20
  have f1 : fld wd 15 5 = a := fld_eq s15
  have f2 : fld wd 10 5 = b := fld_eq s10
  have f3 : fld wd 0 8 = h := fld_eq s0
  have k1 : decodeSOp (wd.toNat / 0x2000000) wd = finish .s wd (.talloc (fld wd 20 5) (fld wd 15 5) (fld wd 10 5) (fld wd 0 8)) [(8, 2)] := by rw [h1]; rfl
  rw [f0, f1, f2, f3] at k1
  exact k1.trans (finish_ok hf hv (resv_cons s8 resv_nil))

theorem Word.s_tfree {wd : W32} (h : BitVec 8) (hf : fnAssigned (.tfree h) = true) (hv : valuesOk .s (.tfree h) = true)
    (he : wd.toNat = 0x82000000 + h.toNat * 0x100) : decodeS wd = .ok (.tfree h) := by
  obtain ⟨h1, s16, s8, s0⟩ := Layout.w9_8_8 (op := 0x41) (x16 := 0) (x8 := h.toNat) (x0 := 0) (by decide) h.isLt (by decide) (he.trans (by omega))
  have f0 : fld wd 8 8 = h := fld_eq s8
  have k1 : decodeSOp (wd.toNat / 0x2000000) wd = finish .s wd (.tfree (fld wd 8 8)) [(0, 8), (16, 9)] := by rw [h1]; rfl
  rw [f0] at k1
  exact k1.trans (finish_ok hf hv (resv_cons s0 (resv_cons s16 resv_nil)))

theorem Word.s_tinfo {wd : W32} (d : BitVec 5) (h : BitVec 8) (i : BitVec 8) (hf : fnAssigned (.tinfo d h i) = true) (hv : valuesOk .s (.tinfo d h i) = true)
    (he : wd.toNat = 0x84000000 + d.toNat * 0x100000 + h.toNat * 0x100 + i.toNat) : decodeS wd = .ok (.tinfo d h i) := by
  obtain ⟨h1, s20, s16, s8, s0⟩ := Layout.w5_4_8_8 (op := 0x42) (x20 := d.toNat) (x16 := 0) (x8 := h.toNat) (x0 := i.toNat) d.isLt (by decide) h.isLt i.isLt (he.trans (by omega))
  have f0 : fld wd 20 5 = d := fld_eq s20
  have f1 : fld wd 8 8 = h := fld_eq s8
  have f2 : fld wd 0 8 = i := fld_eq s0
  have k1 : decodeSOp (wd.toNat / 0x2000000) wd = finish .s wd (.tinfo (fld wd 20 5) (fld wd 8 8) (fld wd 0 8)) [(16, 4)] := by rw [h1]; rfl
  rw [f0, f1, f2] at k1
  exact k1.trans (finish_ok hf hv (resv_cons s16 resv_nil))

theorem Word.s_tring {wd : W32} (r : BitVec 5) (h : BitVec 8) (c : BitVec 8) (hf : fnAssigned (.tring r h c) = true) (hv : valuesOk .s (.tring r h c) = true)
    (he : wd.toNat = 0x86000000 + r.toNat * 0x100000 + h.toNat * 0x100 + c.toNat) : decodeS wd = .ok (.tring r h c) := by
  obtain ⟨h1, s20, s16, s8, s0⟩ := Layout.w5_4_8_8 (op := 0x43) (x20 := r.toNat) (x16 := 0) (x8 := h.toNat) (x0 := c.toNat) r.isLt (by decide) h.isLt c.isLt (he.trans (by omega))
  have f0 : fld wd 20 5 = r := fld_eq s20
  have f1 : fld wd 8 8 = h := fld_eq s8
  have f2 : fld wd 0 8 = c := fld_eq s0
  have k1 : decodeSOp (wd.toNat / 0x2000000) wd = finish .s wd (.tring (fld wd 20 5) (fld wd 8 8) (fld wd 0 8)) [(16, 4)] := by rw [h1]; rfl
  rw [f0, f1, f2] at k1
  exact k1.trans (finish_ok hf hv (resv_cons s16 resv_nil))

theorem Word.s_trap {wd : W32} (n : BitVec 8) (hf : fnAssigned (.trap n) = true) (hv : valuesOk .s (.trap n) = true)
    (he : wd.toNat = 0x90000000 + n.toNat) : decodeS wd = .ok (.trap n) := by
  obtain ⟨h1, s8, s0⟩ := Layout.w17_8 (op := 0x48) (x8 := 0) (x0 := n.toNat) (by decide) n.isLt (he.trans (by omega))
  have f0 : fld wd 0 8 = n := fld_eq s0
  have k1 : decodeSOp (wd.toNat / 0x2000000) wd = finish .s wd (.trap (fld wd 0 8)) [(8, 17)] := by rw [h1]; rfl
  rw [f0] at k1
  exact k1.trans (finish_ok hf hv (resv_cons s8 resv_nil))

theorem Word.s_csrr {wd : W32} (d : BitVec 5) (c : BitVec 12) (hf : fnAssigned (.csrr d c) = true) (hv : valuesOk .s (.csrr d c) = true)
    (he : wd.toNat = 0x94000000 + d.toNat * 0x100000 + c.toNat * 0x100) : decodeS wd = .ok (.csrr d c) := by
  obtain ⟨h1, s20, s8, s0⟩ := Layout.w5_12_8 (op := 0x4A) (x20 := d.toNat) (x8 := c.toNat) (x0 := 0) d.isLt c.isLt (by decide) (he.trans (by omega))
  have f0 : fld wd 20 5 = d := fld_eq s20
  have f1 : fld wd 8 12 = c := fld_eq s8
  have k1 : decodeSOp (wd.toNat / 0x2000000) wd = finish .s wd (.csrr (fld wd 20 5) (fld wd 8 12)) [(0, 8)] := by rw [h1]; rfl
  rw [f0, f1] at k1
  exact k1.trans (finish_ok hf hv (resv_cons s0 resv_nil))

theorem Word.s_csrw {wd : W32} (s : BitVec 5) (c : BitVec 12) (hf : fnAssigned (.csrw s c) = true) (hv : valuesOk .s (.csrw s c) = true)
    (he : wd.toNat = 0x96000000 + s.toNat * 0x100000 + c.toNat * 0x100) : decodeS wd = .ok (.csrw s c) := by
  obtain ⟨h1, s20, s8, s0⟩ := Layout.w5_12_8 (op := 0x4B) (x20 := s.toNat) (x8 := c.toNat) (x0 := 0) s.isLt c.isLt (by decide) (he.trans (by omega))
  have f0 : fld wd 20 5 = s := fld_eq s20
  have f1 : fld wd 8 12 = c := fld_eq s8
  have k1 : decodeSOp (wd.toNat / 0x2000000) wd = finish .s wd (.csrw (fld wd 20 5) (fld wd 8 12)) [(0, 8)] := by rw [h1]; rfl
  rw [f0, f1] at k1
  exact k1.trans (finish_ok hf hv (resv_cons s0 resv_nil))

theorem Word.s_csrs {wd : W32} (s : BitVec 5) (c : BitVec 12) (i : BitVec 8) (hf : fnAssigned (.csrs s c i) = true) (hv : valuesOk .s (.csrs s c i) = true)
    (he : wd.toNat = 0x98000000 + s.toNat * 0x100000 + c.toNat * 0x100 + i.toNat) : decodeS wd = .ok (.csrs s c i) := by
  obtain ⟨h1, s20, s8, s0⟩ := Layout.w5_12_8 (op := 0x4C) (x20 := s.toNat) (x8 := c.toNat) (x0 := i.toNat) s.isLt c.isLt i.isLt (he.trans (by omega))
  have f0 : fld wd 20 5 = s := fld_eq s20
  have f1 : fld wd 8 12 = c := fld_eq s8
  have f2 : fld wd 0 8 = i := fld_eq s0
  have k1 : decodeSOp (wd.toNat / 0x2000000) wd = finish .s wd (.csrs (fld wd 20 5) (fld wd 8 12) (fld wd 0 8)) [] := by rw [h1]; rfl
  rw [f0, f1, f2] at k1
  exact k1.trans (finish_ok hf hv resv_nil)

theorem Word.s_pfx {wd : W32} (g : BitVec 4) (p : BitVec 1) (e : BitVec 4) (m : BitVec 4) (f : BitVec 12) (hf : fnAssigned (.pfx g p e m f) = true) (hv : valuesOk .s (.pfx g p e m f) = true)
    (he : wd.toNat = 0xFE000000 + g.toNat * 0x200000 + p.toNat * 0x100000 + e.toNat * 0x10000 + m.toNat * 0x1000 + f.toNat) : decodeS wd = .ok (.pfx g p e m f) := by
  obtain ⟨h1, s21, s20, s16, s12, s0⟩ := Layout.w4_1_4_4_12 (op := 0x7F) (x21 := g.toNat) (x20 := p.toNat) (x16 := e.toNat) (x12 := m.toNat) (x0 := f.toNat) g.isLt p.isLt e.isLt m.isLt f.isLt (he.trans (by omega))
  have f0 : fld wd 21 4 = g := fld_eq s21
  have f1 : fld wd 20 1 = p := fld_eq s20
  have f2 : fld wd 16 4 = e := fld_eq s16
  have f3 : fld wd 12 4 = m := fld_eq s12
  have f4 : fld wd 0 12 = f := fld_eq s0
  have k1 : decodeSOp (wd.toNat / 0x2000000) wd = finish .s wd (.pfx (fld wd 21 4) (fld wd 20 1) (fld wd 16 4) (fld wd 12 4) (fld wd 0 12)) [] := by rw [h1]; rfl
  rw [f0, f1, f2, f3, f4] at k1
  exact k1.trans (finish_ok hf hv resv_nil)

theorem Word.s_mark {wd : W32} (hf : fnAssigned .mark = true) (hv : valuesOk .s .mark = true)
    (he : wd.toNat = 0x48000000) : decodeS wd = .ok .mark := by
  obtain ⟨h1, s0⟩ := Layout.w25 (op := 0x24) (x0 := 0) (by decide) (he.trans (by omega))
  have k1 : decodeSOp (wd.toNat / 0x2000000) wd = finish .s wd .mark [(0, 25)] := by rw [h1]; rfl
  exact k1.trans (finish_ok hf hv (resv_cons s0 resv_nil))

theorem Word.s_eret {wd : W32} (hf : fnAssigned .eret = true) (hv : valuesOk .s .eret = true)
    (he : wd.toNat = 0x92000000) : decodeS wd = .ok .eret := by
  obtain ⟨h1, s0⟩ := Layout.w25 (op := 0x49) (x0 := 0) (by decide) (he.trans (by omega))
  have k1 : decodeSOp (wd.toNat / 0x2000000) wd = finish .s wd .eret [(0, 25)] := by rw [h1]; rfl
  exact k1.trans (finish_ok hf hv (resv_cons s0 resv_nil))

theorem Word.s_halt {wd : W32} (hf : fnAssigned .halt = true) (hv : valuesOk .s .halt = true)
    (he : wd.toNat = 0x9A000000) : decodeS wd = .ok .halt := by
  obtain ⟨h1, s0⟩ := Layout.w25 (op := 0x4D) (x0 := 0) (by decide) (he.trans (by omega))
  have k1 : decodeSOp (wd.toNat / 0x2000000) wd = finish .s wd .halt [(0, 25)] := by rw [h1]; rfl
  exact k1.trans (finish_ok hf hv (resv_cons s0 resv_nil))

theorem Word.s_nop {wd : W32} (hf : fnAssigned .nop = true) (hv : valuesOk .s .nop = true)
    (he : wd.toNat = 0x9C000000) : decodeS wd = .ok .nop := by
  obtain ⟨h1, s0⟩ := Layout.w25 (op := 0x4E) (x0 := 0) (by decide) (he.trans (by omega))
  have k1 : decodeSOp (wd.toNat / 0x2000000) wd = finish .s wd .nop [(0, 25)] := by rw [h1]; rfl
  exact k1.trans (finish_ok hf hv (resv_cons s0 resv_nil))

end Sys2Proof.Laws
end

