-- ==== Sys2Proof/Laws/WordV.lean ====
section
/-! SUPPORT. Decoding of the V stream: from the number of a word to its instruction, one lemma per constructor. -/

namespace Sys2Proof.Laws

theorem Word.v_pfx {wd : W32} (g : BitVec 4) (p : BitVec 1) (e : BitVec 4) (m : BitVec 4) (f : BitVec 12) (hf : fnAssigned (.pfx g p e m f) = true) (hv : valuesOk .v (.pfx g p e m f) = true)
    (he : wd.toNat = 0xFE000000 + g.toNat * 0x200000 + p.toNat * 0x100000 + e.toNat * 0x10000 + m.toNat * 0x1000 + f.toNat) : decodeV wd = .ok (.pfx g p e m f) := by
  obtain ⟨h1, s21, s20, s16, s12, s0⟩ := Layout.w4_1_4_4_12 (op := 0x7F) (x21 := g.toNat) (x20 := p.toNat) (x16 := e.toNat) (x12 := m.toNat) (x0 := f.toNat) g.isLt p.isLt e.isLt m.isLt f.isLt (he.trans (by omega))
  have f0 : fld wd 21 4 = g := fld_eq s21
  have f1 : fld wd 20 1 = p := fld_eq s20
  have f2 : fld wd 16 4 = e := fld_eq s16
  have f3 : fld wd 12 4 = m := fld_eq s12
  have f4 : fld wd 0 12 = f := fld_eq s0
  have k1 : decodeVOp (wd.toNat / 0x2000000) wd = finish .v wd (.pfx (fld wd 21 4) (fld wd 20 1) (fld wd 16 4) (fld wd 12 4) (fld wd 0 12)) [] := by rw [h1]; rfl
  rw [f0, f1, f2, f3, f4] at k1
  exact k1.trans (finish_ok hf hv resv_nil)

theorem Word.v_vadd {wd : W32} (d : BitVec 6) (a : BitVec 6) (b : BitVec 6) (k : BitVec 3) (f : BitVec 4) (hf : fnAssigned (.vadd d a b k f) = true) (hv : valuesOk .v (.vadd d a b k f) = true)
    (he : wd.toNat = 0x02000000 + d.toNat * 0x80000 + a.toNat * 0x2000 + b.toNat * 0x80 + k.toNat * 0x10 + f.toNat) : decodeV wd = .ok (.vadd d a b k f) := by
  obtain ⟨h1, s19, s13, s7, s4, s0⟩ := Layout.w6_6_6_3_4 (op := 0x01) (x19 := d.toNat) (x13 := a.toNat) (x7 := b.toNat) (x4 := k.toNat) (x0 := f.toNat) d.isLt a.isLt b.isLt k.isLt f.isLt (he.trans (by omega))
  have f0 : fld wd 19 6 = d := fld_eq s19
  have f1 : fld wd 13 6 = a := fld_eq s13
  have f2 : fld wd 7 6 = b := fld_eq s7
  have f3 : fld wd 4 3 = k := fld_eq s4
  have f4 : fld wd 0 4 = f := fld_eq s0
  have k1 : decodeVOp (wd.toNat / 0x2000000) wd = finish .v wd (.vadd (fld wd 19 6) (fld wd 13 6) (fld wd 7 6) (fld wd 4 3) (fld wd 0 4)) [] := by rw [h1]; rfl
  rw [f0, f1, f2, f3, f4] at k1
  exact k1.trans (finish_ok hf hv resv_nil)

theorem Word.v_vsub {wd : W32} (d : BitVec 6) (a : BitVec 6) (b : BitVec 6) (k : BitVec 3) (f : BitVec 4) (hf : fnAssigned (.vsub d a b k f) = true) (hv : valuesOk .v (.vsub d a b k f) = true)
    (he : wd.toNat = 0x04000000 + d.toNat * 0x80000 + a.toNat * 0x2000 + b.toNat * 0x80 + k.toNat * 0x10 + f.toNat) : decodeV wd = .ok (.vsub d a b k f) := by
  obtain ⟨h1, s19, s13, s7, s4, s0⟩ := Layout.w6_6_6_3_4 (op := 0x02) (x19 := d.toNat) (x13 := a.toNat) (x7 := b.toNat) (x4 := k.toNat) (x0 := f.toNat) d.isLt a.isLt b.isLt k.isLt f.isLt (he.trans (by omega))
  have f0 : fld wd 19 6 = d := fld_eq s19
  have f1 : fld wd 13 6 = a := fld_eq s13
  have f2 : fld wd 7 6 = b := fld_eq s7
  have f3 : fld wd 4 3 = k := fld_eq s4
  have f4 : fld wd 0 4 = f := fld_eq s0
  have k1 : decodeVOp (wd.toNat / 0x2000000) wd = finish .v wd (.vsub (fld wd 19 6) (fld wd 13 6) (fld wd 7 6) (fld wd 4 3) (fld wd 0 4)) [] := by rw [h1]; rfl
  rw [f0, f1, f2, f3, f4] at k1
  exact k1.trans (finish_ok hf hv resv_nil)

theorem Word.v_vmul {wd : W32} (d : BitVec 6) (a : BitVec 6) (b : BitVec 6) (k : BitVec 3) (f : BitVec 4) (hf : fnAssigned (.vmul d a b k f) = true) (hv : valuesOk .v (.vmul d a b k f) = true)
    (he : wd.toNat = 0x06000000 + d.toNat * 0x80000 + a.toNat * 0x2000 + b.toNat * 0x80 + k.toNat * 0x10 + f.toNat) : decodeV wd = .ok (.vmul d a b k f) := by
  obtain ⟨h1, s19, s13, s7, s4, s0⟩ := Layout.w6_6_6_3_4 (op := 0x03) (x19 := d.toNat) (x13 := a.toNat) (x7 := b.toNat) (x4 := k.toNat) (x0 := f.toNat) d.isLt a.isLt b.isLt k.isLt f.isLt (he.trans (by omega))
  have f0 : fld wd 19 6 = d := fld_eq s19
  have f1 : fld wd 13 6 = a := fld_eq s13
  have f2 : fld wd 7 6 = b := fld_eq s7
  have f3 : fld wd 4 3 = k := fld_eq s4
  have f4 : fld wd 0 4 = f := fld_eq s0
  have k1 : decodeVOp (wd.toNat / 0x2000000) wd = finish .v wd (.vmul (fld wd 19 6) (fld wd 13 6) (fld wd 7 6) (fld wd 4 3) (fld wd 0 4)) [] := by rw [h1]; rfl
  rw [f0, f1, f2, f3, f4] at k1
  exact k1.trans (finish_ok hf hv resv_nil)

theorem Word.v_vfma {wd : W32} (d : BitVec 6) (a : BitVec 6) (b : BitVec 6) (c : BitVec 6) (n : BitVec 1) (hf : fnAssigned (.vfma d a b c n) = true) (hv : valuesOk .v (.vfma d a b c n) = true)
    (he : wd.toNat = 0x08000000 + d.toNat * 0x80000 + a.toNat * 0x2000 + b.toNat * 0x80 + c.toNat * 0x2 + n.toNat) : decodeV wd = .ok (.vfma d a b c n) := by
  obtain ⟨h1, s19, s13, s7, s1, s0⟩ := Layout.w6_6_6_6_1 (op := 0x04) (x19 := d.toNat) (x13 := a.toNat) (x7 := b.toNat) (x1 := c.toNat) (x0 := n.toNat) d.isLt a.isLt b.isLt c.isLt n.isLt (he.trans (by omega))
  have f0 : fld wd 19 6 = d := fld_eq s19
  have f1 : fld wd 13 6 = a := fld_eq s13
  have f2 : fld wd 7 6 = b := fld_eq s7
  have f3 : fld wd 1 6 = c := fld_eq s1
  have f4 : fld wd 0 1 = n := fld_eq s0
  have k1 : decodeVOp (wd.toNat / 0x2000000) wd = finish .v wd (.vfma (fld wd 19 6) (fld wd 13 6) (fld wd 7 6) (fld wd 1 6) (fld wd 0 1)) [] := by rw [h1]; rfl
  rw [f0, f1, f2, f3, f4] at k1
  exact k1.trans (finish_ok hf hv resv_nil)

theorem Word.v_vfms {wd : W32} (d : BitVec 6) (a : BitVec 6) (b : BitVec 6) (c : BitVec 6) (n : BitVec 1) (hf : fnAssigned (.vfms d a b c n) = true) (hv : valuesOk .v (.vfms d a b c n) = true)
    (he : wd.toNat = 0x0A000000 + d.toNat * 0x80000 + a.toNat * 0x2000 + b.toNat * 0x80 + c.toNat * 0x2 + n.toNat) : decodeV wd = .ok (.vfms d a b c n) := by
  obtain ⟨h1, s19, s13, s7, s1, s0⟩ := Layout.w6_6_6_6_1 (op := 0x05) (x19 := d.toNat) (x13 := a.toNat) (x7 := b.toNat) (x1 := c.toNat) (x0 := n.toNat) d.isLt a.isLt b.isLt c.isLt n.isLt (he.trans (by omega))
  have f0 : fld wd 19 6 = d := fld_eq s19
  have f1 : fld wd 13 6 = a := fld_eq s13
  have f2 : fld wd 7 6 = b := fld_eq s7
  have f3 : fld wd 1 6 = c := fld_eq s1
  have f4 : fld wd 0 1 = n := fld_eq s0
  have k1 : decodeVOp (wd.toNat / 0x2000000) wd = finish .v wd (.vfms (fld wd 19 6) (fld wd 13 6) (fld wd 7 6) (fld wd 1 6) (fld wd 0 1)) [] := by rw [h1]; rfl
  rw [f0, f1, f2, f3, f4] at k1
  exact k1.trans (finish_ok hf hv resv_nil)

theorem Word.v_vmin {wd : W32} (d : BitVec 6) (a : BitVec 6) (b : BitVec 6) (k : BitVec 3) (f : BitVec 4) (hf : fnAssigned (.vmin d a b k f) = true) (hv : valuesOk .v (.vmin d a b k f) = true)
    (he : wd.toNat = 0x0C000000 + d.toNat * 0x80000 + a.toNat * 0x2000 + b.toNat * 0x80 + k.toNat * 0x10 + f.toNat) : decodeV wd = .ok (.vmin d a b k f) := by
  obtain ⟨h1, s19, s13, s7, s4, s0⟩ := Layout.w6_6_6_3_4 (op := 0x06) (x19 := d.toNat) (x13 := a.toNat) (x7 := b.toNat) (x4 := k.toNat) (x0 := f.toNat) d.isLt a.isLt b.isLt k.isLt f.isLt (he.trans (by omega))
  have f0 : fld wd 19 6 = d := fld_eq s19
  have f1 : fld wd 13 6 = a := fld_eq s13
  have f2 : fld wd 7 6 = b := fld_eq s7
  have f3 : fld wd 4 3 = k := fld_eq s4
  have f4 : fld wd 0 4 = f := fld_eq s0
  have k1 : decodeVOp (wd.toNat / 0x2000000) wd = finish .v wd (.vmin (fld wd 19 6) (fld wd 13 6) (fld wd 7 6) (fld wd 4 3) (fld wd 0 4)) [] := by rw [h1]; rfl
  rw [f0, f1, f2, f3, f4] at k1
  exact k1.trans (finish_ok hf hv resv_nil)

theorem Word.v_vmax {wd : W32} (d : BitVec 6) (a : BitVec 6) (b : BitVec 6) (k : BitVec 3) (f : BitVec 4) (hf : fnAssigned (.vmax d a b k f) = true) (hv : valuesOk .v (.vmax d a b k f) = true)
    (he : wd.toNat = 0x0E000000 + d.toNat * 0x80000 + a.toNat * 0x2000 + b.toNat * 0x80 + k.toNat * 0x10 + f.toNat) : decodeV wd = .ok (.vmax d a b k f) := by
  obtain ⟨h1, s19, s13, s7, s4, s0⟩ := Layout.w6_6_6_3_4 (op := 0x07) (x19 := d.toNat) (x13 := a.toNat) (x7 := b.toNat) (x4 := k.toNat) (x0 := f.toNat) d.isLt a.isLt b.isLt k.isLt f.isLt (he.trans (by omega))
  have f0 : fld wd 19 6 = d := fld_eq s19
  have f1 : fld wd 13 6 = a := fld_eq s13
  have f2 : fld wd 7 6 = b := fld_eq s7
  have f3 : fld wd 4 3 = k := fld_eq s4
  have f4 : fld wd 0 4 = f := fld_eq s0
  have k1 : decodeVOp (wd.toNat / 0x2000000) wd = finish .v wd (.vmax (fld wd 19 6) (fld wd 13 6) (fld wd 7 6) (fld wd 4 3) (fld wd 0 4)) [] := by rw [h1]; rfl
  rw [f0, f1, f2, f3, f4] at k1
  exact k1.trans (finish_ok hf hv resv_nil)

theorem Word.v_vabs {wd : W32} (d : BitVec 6) (a : BitVec 6) (k : BitVec 3) (f : BitVec 4) (hf : fnAssigned (.vabs d a k f) = true) (hv : valuesOk .v (.vabs d a k f) = true)
    (he : wd.toNat = 0x10000000 + d.toNat * 0x80000 + a.toNat * 0x2000 + k.toNat * 0x10 + f.toNat) : decodeV wd = .ok (.vabs d a k f) := by
  obtain ⟨h1, s19, s13, s7, s4, s0⟩ := Layout.w6_6_6_3_4 (op := 0x08) (x19 := d.toNat) (x13 := a.toNat) (x7 := 0) (x4 := k.toNat) (x0 := f.toNat) d.isLt a.isLt (by decide) k.isLt f.isLt (he.trans (by omega))
  have f0 : fld wd 19 6 = d := fld_eq s19
  have f1 : fld wd 13 6 = a := fld_eq s13
  have f2 : fld wd 4 3 = k := fld_eq s4
  have f3 : fld wd 0 4 = f := fld_eq s0
  have k1 : decodeVOp (wd.toNat / 0x2000000) wd = finish .v wd (.vabs (fld wd 19 6) (fld wd 13 6) (fld wd 4 3) (fld wd 0 4)) [(7, 6)] := by rw [h1]; rfl
  rw [f0, f1, f2, f3] at k1
  exact k1.trans (finish_ok hf hv (resv_cons s7 resv_nil))

theorem Word.v_vneg {wd : W32} (d : BitVec 6) (a : BitVec 6) (k : BitVec 3) (f : BitVec 4) (hf : fnAssigned (.vneg d a k f) = true) (hv : valuesOk .v (.vneg d a k f) = true)
    (he : wd.toNat = 0x12000000 + d.toNat * 0x80000 + a.toNat * 0x2000 + k.toNat * 0x10 + f.toNat) : decodeV wd = .ok (.vneg d a k f) := by
  obtain ⟨h1, s19, s13, s7, s4, s0⟩ := Layout.w6_6_6_3_4 (op := 0x09) (x19 := d.toNat) (x13 := a.toNat) (x7 := 0) (x4 := k.toNat) (x0 := f.toNat) d.isLt a.isLt (by decide) k.isLt f.isLt (he.trans (by omega))
  have f0 : fld wd 19 6 = d := fld_eq s19
  have f1 : fld wd 13 6 = a := fld_eq s13
  have f2 : fld wd 4 3 = k := fld_eq s4
  have f3 : fld wd 0 4 = f := fld_eq s0
  have k1 : decodeVOp (wd.toNat / 0x2000000) wd = finish .v wd (.vneg (fld wd 19 6) (fld wd 13 6) (fld wd 4 3) (fld wd 0 4)) [(7, 6)] := by rw [h1]; rfl
  rw [f0, f1, f2, f3] at k1
  exact k1.trans (finish_ok hf hv (resv_cons s7 resv_nil))

theorem Word.v_vcmp {wd : W32} (d : BitVec 6) (a : BitVec 6) (b : BitVec 6) (k : BitVec 3) (f : BitVec 4) (hf : fnAssigned (.vcmp d a b k f) = true) (hv : valuesOk .v (.vcmp d a b k f) = true)
    (he : wd.toNat = 0x14000000 + d.toNat * 0x80000 + a.toNat * 0x2000 + b.toNat * 0x80 + k.toNat * 0x10 + f.toNat) : decodeV wd = .ok (.vcmp d a b k f) := by
  obtain ⟨h1, s19, s13, s7, s4, s0⟩ := Layout.w6_6_6_3_4 (op := 0x0A) (x19 := d.toNat) (x13 := a.toNat) (x7 := b.toNat) (x4 := k.toNat) (x0 := f.toNat) d.isLt a.isLt b.isLt k.isLt f.isLt (he.trans (by omega))
  have f0 : fld wd 19 6 = d := fld_eq s19
  have f1 : fld wd 13 6 = a := fld_eq s13
  have f2 : fld wd 7 6 = b := fld_eq s7
  have f3 : fld wd 4 3 = k := fld_eq s4
  have f4 : fld wd 0 4 = f := fld_eq s0
  have k1 : decodeVOp (wd.toNat / 0x2000000) wd = finish .v wd (.vcmp (fld wd 19 6) (fld wd 13 6) (fld wd 7 6) (fld wd 4 3) (fld wd 0 4)) [] := by rw [h1]; rfl
  rw [f0, f1, f2, f3, f4] at k1
  exact k1.trans (finish_ok hf hv resv_nil)

theorem Word.v_vsel {wd : W32} (d : BitVec 6) (a : BitVec 6) (b : BitVec 6) (k : BitVec 3) (hf : fnAssigned (.vsel d a b k) = true) (hv : valuesOk .v (.vsel d a b k) = true)
    (he : wd.toNat = 0x16000000 + d.toNat * 0x80000 + a.toNat * 0x2000 + b.toNat * 0x80 + k.toNat * 0x10) : decodeV wd = .ok (.vsel d a b k) := by
  obtain ⟨h1, s19, s13, s7, s4, s0⟩ := Layout.w6_6_6_3_4 (op := 0x0B) (x19 := d.toNat) (x13 := a.toNat) (x7 := b.toNat) (x4 := k.toNat) (x0 := 0) d.isLt a.isLt b.isLt k.isLt (by decide) (he.trans (by omega))
  have f0 : fld wd 19 6 = d := fld_eq s19
  have f1 : fld wd 13 6 = a := fld_eq s13
  have f2 : fld wd 7 6 = b := fld_eq s7
  have f3 : fld wd 4 3 = k := fld_eq s4
  have k1 : decodeVOp (wd.toNat / 0x2000000) wd = finish .v wd (.vsel (fld wd 19 6) (fld wd 13 6) (fld wd 7 6) (fld wd 4 3)) [(0, 4)] := by rw [h1]; rfl
  rw [f0, f1, f2, f3] at k1
  exact k1.trans (finish_ok hf hv (resv_cons s0 resv_nil))

theorem Word.v_vcvt {wd : W32} (d : BitVec 6) (a : BitVec 6) (k : BitVec 3) (f : BitVec 4) (hf : fnAssigned (.vcvt d a k f) = true) (hv : valuesOk .v (.vcvt d a k f) = true)
    (he : wd.toNat = 0x18000000 + d.toNat * 0x80000 + a.toNat * 0x2000 + k.toNat * 0x10 + f.toNat) : decodeV wd = .ok (.vcvt d a k f) := by
  obtain ⟨h1, s19, s13, s7, s4, s0⟩ := Layout.w6_6_6_3_4 (op := 0x0C) (x19 := d.toNat) (x13 := a.toNat) (x7 := 0) (x4 := k.toNat) (x0 := f.toNat) d.isLt a.isLt (by decide) k.isLt f.isLt (he.trans (by omega))
  have f0 : fld wd 19 6 = d := fld_eq s19
  have f1 : fld wd 13 6 = a := fld_eq s13
  have f2 : fld wd 4 3 = k := fld_eq s4
  have f3 : fld wd 0 4 = f := fld_eq s0
  have k1 : decodeVOp (wd.toNat / 0x2000000) wd = finish .v wd (.vcvt (fld wd 19 6) (fld wd 13 6) (fld wd 4 3) (fld wd 0 4)) [(7, 6)] := by rw [h1]; rfl
  rw [f0, f1, f2, f3] at k1
  exact k1.trans (finish_ok hf hv (resv_cons s7 resv_nil))

theorem Word.v_vrnd {wd : W32} (d : BitVec 6) (a : BitVec 6) (k : BitVec 3) (hf : fnAssigned (.vrnd d a k) = true) (hv : valuesOk .v (.vrnd d a k) = true)
    (he : wd.toNat = 0x1A000000 + d.toNat * 0x80000 + a.toNat * 0x2000 + k.toNat * 0x10) : decodeV wd = .ok (.vrnd d a k) := by
  obtain ⟨h1, s19, s13, s7, s4, s0⟩ := Layout.w6_6_6_3_4 (op := 0x0D) (x19 := d.toNat) (x13 := a.toNat) (x7 := 0) (x4 := k.toNat) (x0 := 0) d.isLt a.isLt (by decide) k.isLt (by decide) (he.trans (by omega))
  have f0 : fld wd 19 6 = d := fld_eq s19
  have f1 : fld wd 13 6 = a := fld_eq s13
  have f2 : fld wd 4 3 = k := fld_eq s4
  have k1 : decodeVOp (wd.toNat / 0x2000000) wd = finish .v wd (.vrnd (fld wd 19 6) (fld wd 13 6) (fld wd 4 3)) [(0, 4), (7, 6)] := by rw [h1]; rfl
  rw [f0, f1, f2] at k1
  exact k1.trans (finish_ok hf hv (resv_cons s0 (resv_cons s7 resv_nil)))

theorem Word.v_viadd {wd : W32} (d : BitVec 6) (a : BitVec 6) (b : BitVec 6) (k : BitVec 3) (f : BitVec 4) (hf : fnAssigned (.viadd d a b k f) = true) (hv : valuesOk .v (.viadd d a b k f) = true)
    (he : wd.toNat = 0x20000000 + d.toNat * 0x80000 + a.toNat * 0x2000 + b.toNat * 0x80 + k.toNat * 0x10 + f.toNat) : decodeV wd = .ok (.viadd d a b k f) := by
  obtain ⟨h1, s19, s13, s7, s4, s0⟩ := Layout.w6_6_6_3_4 (op := 0x10) (x19 := d.toNat) (x13 := a.toNat) (x7 := b.toNat) (x4 := k.toNat) (x0 := f.toNat) d.isLt a.isLt b.isLt k.isLt f.isLt (he.trans (by omega))
  have f0 : fld wd 19 6 = d := fld_eq s19
  have f1 : fld wd 13 6 = a := fld_eq s13
  have f2 : fld wd 7 6 = b := fld_eq s7
  have f3 : fld wd 4 3 = k := fld_eq s4
  have f4 : fld wd 0 4 = f := fld_eq s0
  have k1 : decodeVOp (wd.toNat / 0x2000000) wd = finish .v wd (.viadd (fld wd 19 6) (fld wd 13 6) (fld wd 7 6) (fld wd 4 3) (fld wd 0 4)) [] := by rw [h1]; rfl
  rw [f0, f1, f2, f3, f4] at k1
  exact k1.trans (finish_ok hf hv resv_nil)

theorem Word.v_visub {wd : W32} (d : BitVec 6) (a : BitVec 6) (b : BitVec 6) (k : BitVec 3) (f : BitVec 4) (hf : fnAssigned (.visub d a b k f) = true) (hv : valuesOk .v (.visub d a b k f) = true)
    (he : wd.toNat = 0x22000000 + d.toNat * 0x80000 + a.toNat * 0x2000 + b.toNat * 0x80 + k.toNat * 0x10 + f.toNat) : decodeV wd = .ok (.visub d a b k f) := by
  obtain ⟨h1, s19, s13, s7, s4, s0⟩ := Layout.w6_6_6_3_4 (op := 0x11) (x19 := d.toNat) (x13 := a.toNat) (x7 := b.toNat) (x4 := k.toNat) (x0 := f.toNat) d.isLt a.isLt b.isLt k.isLt f.isLt (he.trans (by omega))
  have f0 : fld wd 19 6 = d := fld_eq s19
  have f1 : fld wd 13 6 = a := fld_eq s13
  have f2 : fld wd 7 6 = b := fld_eq s7
  have f3 : fld wd 4 3 = k := fld_eq s4
  have f4 : fld wd 0 4 = f := fld_eq s0
  have k1 : decodeVOp (wd.toNat / 0x2000000) wd = finish .v wd (.visub (fld wd 19 6) (fld wd 13 6) (fld wd 7 6) (fld wd 4 3) (fld wd 0 4)) [] := by rw [h1]; rfl
  rw [f0, f1, f2, f3, f4] at k1
  exact k1.trans (finish_ok hf hv resv_nil)

theorem Word.v_vimul {wd : W32} (d : BitVec 6) (a : BitVec 6) (b : BitVec 6) (k : BitVec 3) (f : BitVec 4) (hf : fnAssigned (.vimul d a b k f) = true) (hv : valuesOk .v (.vimul d a b k f) = true)
    (he : wd.toNat = 0x24000000 + d.toNat * 0x80000 + a.toNat * 0x2000 + b.toNat * 0x80 + k.toNat * 0x10 + f.toNat) : decodeV wd = .ok (.vimul d a b k f) := by
  obtain ⟨h1, s19, s13, s7, s4, s0⟩ := Layout.w6_6_6_3_4 (op := 0x12) (x19 := d.toNat) (x13 := a.toNat) (x7 := b.toNat) (x4 := k.toNat) (x0 := f.toNat) d.isLt a.isLt b.isLt k.isLt f.isLt (he.trans (by omega))
  have f0 : fld wd 19 6 = d := fld_eq s19
  have f1 : fld wd 13 6 = a := fld_eq s13
  have f2 : fld wd 7 6 = b := fld_eq s7
  have f3 : fld wd 4 3 = k := fld_eq s4
  have f4 : fld wd 0 4 = f := fld_eq s0
  have k1 : decodeVOp (wd.toNat / 0x2000000) wd = finish .v wd (.vimul (fld wd 19 6) (fld wd 13 6) (fld wd 7 6) (fld wd 4 3) (fld wd 0 4)) [] := by rw [h1]; rfl
  rw [f0, f1, f2, f3, f4] at k1
  exact k1.trans (finish_ok hf hv resv_nil)

theorem Word.v_vand {wd : W32} (d : BitVec 6) (a : BitVec 6) (b : BitVec 6) (k : BitVec 3) (hf : fnAssigned (.vand d a b k) = true) (hv : valuesOk .v (.vand d a b k) = true)
    (he : wd.toNat = 0x26000000 + d.toNat * 0x80000 + a.toNat * 0x2000 + b.toNat * 0x80 + k.toNat * 0x10) : decodeV wd = .ok (.vand d a b k) := by
  obtain ⟨h1, s19, s13, s7, s4, s0⟩ := Layout.w6_6_6_3_4 (op := 0x13) (x19 := d.toNat) (x13 := a.toNat) (x7 := b.toNat) (x4 := k.toNat) (x0 := 0) d.isLt a.isLt b.isLt k.isLt (by decide) (he.trans (by omega))
  have f0 : fld wd 19 6 = d := fld_eq s19
  have f1 : fld wd 13 6 = a := fld_eq s13
  have f2 : fld wd 7 6 = b := fld_eq s7
  have f3 : fld wd 4 3 = k := fld_eq s4
  have g : fld wd 0 4 = 0 := fld_zero s0
  have k1 : decodeVOp (wd.toNat / 0x2000000) wd = finish .v wd (.vand (fld wd 19 6) (fld wd 13 6) (fld wd 7 6) (fld wd 4 3)) [] := by
    rw [h1]; show (if fld wd 0 4 != 0 then _ else _) = _; rw [g]; rfl
  rw [f0, f1, f2, f3] at k1
  exact k1.trans (finish_ok hf hv resv_nil)

theorem Word.v_vor {wd : W32} (d : BitVec 6) (a : BitVec 6) (b : BitVec 6) (k : BitVec 3) (hf : fnAssigned (.vor d a b k) = true) (hv : valuesOk .v (.vor d a b k) = true)
    (he : wd.toNat = 0x28000000 + d.toNat * 0x80000 + a.toNat * 0x2000 + b.toNat * 0x80 + k.toNat * 0x10) : decodeV wd = .ok (.vor d a b k) := by
  obtain ⟨h1, s19, s13, s7, s4, s0⟩ := Layout.w6_6_6_3_4 (op := 0x14) (x19 := d.toNat) (x13 := a.toNat) (x7 := b.toNat) (x4 := k.toNat) (x0 := 0) d.isLt a.isLt b.isLt k.isLt (by decide) (he.trans (by omega))
  have f0 : fld wd 19 6 = d := fld_eq s19
  have f1 : fld wd 13 6 = a := fld_eq s13
  have f2 : fld wd 7 6 = b := fld_eq s7
  have f3 : fld wd 4 3 = k := fld_eq s4
  have g : fld wd 0 4 = 0 := fld_zero s0
  have k1 : decodeVOp (wd.toNat / 0x2000000) wd = finish .v wd (.vor (fld wd 19 6) (fld wd 13 6) (fld wd 7 6) (fld wd 4 3)) [] := by
    rw [h1]; show (if fld wd 0 4 != 0 then _ else _) = _; rw [g]; rfl
  rw [f0, f1, f2, f3] at k1
  exact k1.trans (finish_ok hf hv resv_nil)

theorem Word.v_vxor {wd : W32} (d : BitVec 6) (a : BitVec 6) (b : BitVec 6) (k : BitVec 3) (hf : fnAssigned (.vxor d a b k) = true) (hv : valuesOk .v (.vxor d a b k) = true)
    (he : wd.toNat = 0x2A000000 + d.toNat * 0x80000 + a.toNat * 0x2000 + b.toNat * 0x80 + k.toNat * 0x10) : decodeV wd = .ok (.vxor d a b k) := by
  obtain ⟨h1, s19, s13, s7, s4, s0⟩ := Layout.w6_6_6_3_4 (op := 0x15) (x19 := d.toNat) (x13 := a.toNat) (x7 := b.toNat) (x4 := k.toNat) (x0 := 0) d.isLt a.isLt b.isLt k.isLt (by decide) (he.trans (by omega))
  have f0 : fld wd 19 6 = d := fld_eq s19
  have f1 : fld wd 13 6 = a := fld_eq s13
  have f2 : fld wd 7 6 = b := fld_eq s7
  have f3 : fld wd 4 3 = k := fld_eq s4
  have g : fld wd 0 4 = 0 := fld_zero s0
  have k1 : decodeVOp (wd.toNat / 0x2000000) wd = finish .v wd (.vxor (fld wd 19 6) (fld wd 13 6) (fld wd 7 6) (fld wd 4 3)) [] := by
    rw [h1]; show (if fld wd 0 4 != 0 then _ else _) = _; rw [g]; rfl
  rw [f0, f1, f2, f3] at k1
  exact k1.trans (finish_ok hf hv resv_nil)

theorem Word.v_vshl {wd : W32} (d : BitVec 6) (a : BitVec 6) (b : BitVec 6) (k : BitVec 3) (hf : fnAssigned (.vshl d a b k) = true) (hv : valuesOk .v (.vshl d a b k) = true)
    (he : wd.toNat = 0x2C000000 + d.toNat * 0x80000 + a.toNat * 0x2000 + b.toNat * 0x80 + k.toNat * 0x10) : decodeV wd = .ok (.vshl d a b k) := by
  obtain ⟨h1, s19, s13, s7, s4, s0⟩ := Layout.w6_6_6_3_4 (op := 0x16) (x19 := d.toNat) (x13 := a.toNat) (x7 := b.toNat) (x4 := k.toNat) (x0 := 0) d.isLt a.isLt b.isLt k.isLt (by decide) (he.trans (by omega))
  have f0 : fld wd 19 6 = d := fld_eq s19
  have f1 : fld wd 13 6 = a := fld_eq s13
  have f2 : fld wd 7 6 = b := fld_eq s7
  have f3 : fld wd 4 3 = k := fld_eq s4
  have g : fld wd 0 4 = 0 := fld_zero s0
  have k1 : decodeVOp (wd.toNat / 0x2000000) wd = finish .v wd (.vshl (fld wd 19 6) (fld wd 13 6) (fld wd 7 6) (fld wd 4 3)) [] := by
    rw [h1]; show (if fld wd 0 4 != 0 then _ else _) = _; rw [g]; rfl
  rw [f0, f1, f2, f3] at k1
  exact k1.trans (finish_ok hf hv resv_nil)

theorem Word.v_vshr {wd : W32} (d : BitVec 6) (a : BitVec 6) (b : BitVec 6) (k : BitVec 3) (hf : fnAssigned (.vshr d a b k) = true) (hv : valuesOk .v (.vshr d a b k) = true)
    (he : wd.toNat = 0x2E000000 + d.toNat * 0x80000 + a.toNat * 0x2000 + b.toNat * 0x80 + k.toNat * 0x10) : decodeV wd = .ok (.vshr d a b k) := by
  obtain ⟨h1, s19, s13, s7, s4, s0⟩ := Layout.w6_6_6_3_4 (op := 0x17) (x19 := d.toNat) (x13 := a.toNat) (x7 := b.toNat) (x4 := k.toNat) (x0 := 0) d.isLt a.isLt b.isLt k.isLt (by decide) (he.trans (by omega))
  have f0 : fld wd 19 6 = d := fld_eq s19
  have f1 : fld wd 13 6 = a := fld_eq s13
  have f2 : fld wd 7 6 = b := fld_eq s7
  have f3 : fld wd 4 3 = k := fld_eq s4
  have g : fld wd 0 4 = 0 := fld_zero s0
  have k1 : decodeVOp (wd.toNat / 0x2000000) wd = finish .v wd (.vshr (fld wd 19 6) (fld wd 13 6) (fld wd 7 6) (fld wd 4 3)) [] := by
    rw [h1]; show (if fld wd 0 4 != 0 then _ else _) = _; rw [g]; rfl
  rw [f0, f1, f2, f3] at k1
  exact k1.trans (finish_ok hf hv resv_nil)

theorem Word.v_vsra {wd : W32} (d : BitVec 6) (a : BitVec 6) (b : BitVec 6) (k : BitVec 3) (hf : fnAssigned (.vsra d a b k) = true) (hv : valuesOk .v (.vsra d a b k) = true)
    (he : wd.toNat = 0x30000000 + d.toNat * 0x80000 + a.toNat * 0x2000 + b.toNat * 0x80 + k.toNat * 0x10) : decodeV wd = .ok (.vsra d a b k) := by
  obtain ⟨h1, s19, s13, s7, s4, s0⟩ := Layout.w6_6_6_3_4 (op := 0x18) (x19 := d.toNat) (x13 := a.toNat) (x7 := b.toNat) (x4 := k.toNat) (x0 := 0) d.isLt a.isLt b.isLt k.isLt (by decide) (he.trans (by omega))
  have f0 : fld wd 19 6 = d := fld_eq s19
  have f1 : fld wd 13 6 = a := fld_eq s13
  have f2 : fld wd 7 6 = b := fld_eq s7
  have f3 : fld wd 4 3 = k := fld_eq s4
  have g : fld wd 0 4 = 0 := fld_zero s0
  have k1 : decodeVOp (wd.toNat / 0x2000000) wd = finish .v wd (.vsra (fld wd 19 6) (fld wd 13 6) (fld wd 7 6) (fld wd 4 3)) [] := by
    rw [h1]; show (if fld wd 0 4 != 0 then _ else _) = _; rw [g]; rfl
  rw [f0, f1, f2, f3] at k1
  exact k1.trans (finish_ok hf hv resv_nil)

theorem Word.v_vimin {wd : W32} (d : BitVec 6) (a : BitVec 6) (b : BitVec 6) (k : BitVec 3) (f : BitVec 4) (hf : fnAssigned (.vimin d a b k f) = true) (hv : valuesOk .v (.vimin d a b k f) = true)
    (he : wd.toNat = 0x32000000 + d.toNat * 0x80000 + a.toNat * 0x2000 + b.toNat * 0x80 + k.toNat * 0x10 + f.toNat) : decodeV wd = .ok (.vimin d a b k f) := by
  obtain ⟨h1, s19, s13, s7, s4, s0⟩ := Layout.w6_6_6_3_4 (op := 0x19) (x19 := d.toNat) (x13 := a.toNat) (x7 := b.toNat) (x4 := k.toNat) (x0 := f.toNat) d.isLt a.isLt b.isLt k.isLt f.isLt (he.trans (by omega))
  have f0 : fld wd 19 6 = d := fld_eq s19
  have f1 : fld wd 13 6 = a := fld_eq s13
  have f2 : fld wd 7 6 = b := fld_eq s7
  have f3 : fld wd 4 3 = k := fld_eq s4
  have f4 : fld wd 0 4 = f := fld_eq s0
  have k1 : decodeVOp (wd.toNat / 0x2000000) wd = finish .v wd (.vimin (fld wd 19 6) (fld wd 13 6) (fld wd 7 6) (fld wd 4 3) (fld wd 0 4)) [] := by rw [h1]; rfl
  rw [f0, f1, f2, f3, f4] at k1
  exact k1.trans (finish_ok hf hv resv_nil)

theorem Word.v_vimax {wd : W32} (d : BitVec 6) (a : BitVec 6) (b : BitVec 6) (k : BitVec 3) (f : BitVec 4) (hf : fnAssigned (.vimax d a b k f) = true) (hv : valuesOk .v (.vimax d a b k f) = true)
    (he : wd.toNat = 0x34000000 + d.toNat * 0x80000 + a.toNat * 0x2000 + b.toNat * 0x80 + k.toNat * 0x10 + f.toNat) : decodeV wd = .ok (.vimax d a b k f) := by
  obtain ⟨h1, s19, s13, s7, s4, s0⟩ := Layout.w6_6_6_3_4 (op := 0x1A) (x19 := d.toNat) (x13 := a.toNat) (x7 := b.toNat) (x4 := k.toNat) (x0 := f.toNat) d.isLt a.isLt b.isLt k.isLt f.isLt (he.trans (by omega))
  have f0 : fld wd 19 6 = d := fld_eq s19
  have f1 : fld wd 13 6 = a := fld_eq s13
  have f2 : fld wd 7 6 = b := fld_eq s7
  have f3 : fld wd 4 3 = k := fld_eq s4
  have f4 : fld wd 0 4 = f := fld_eq s0
  have k1 : decodeVOp (wd.toNat / 0x2000000) wd = finish .v wd (.vimax (fld wd 19 6) (fld wd 13 6) (fld wd 7 6) (fld wd 4 3) (fld wd 0 4)) [] := by rw [h1]; rfl
  rw [f0, f1, f2, f3, f4] at k1
  exact k1.trans (finish_ok hf hv resv_nil)

theorem Word.v_vicmp {wd : W32} (d : BitVec 6) (a : BitVec 6) (b : BitVec 6) (k : BitVec 3) (f : BitVec 4) (hf : fnAssigned (.vicmp d a b k f) = true) (hv : valuesOk .v (.vicmp d a b k f) = true)
    (he : wd.toNat = 0x36000000 + d.toNat * 0x80000 + a.toNat * 0x2000 + b.toNat * 0x80 + k.toNat * 0x10 + f.toNat) : decodeV wd = .ok (.vicmp d a b k f) := by
  obtain ⟨h1, s19, s13, s7, s4, s0⟩ := Layout.w6_6_6_3_4 (op := 0x1B) (x19 := d.toNat) (x13 := a.toNat) (x7 := b.toNat) (x4 := k.toNat) (x0 := f.toNat) d.isLt a.isLt b.isLt k.isLt f.isLt (he.trans (by omega))
  have f0 : fld wd 19 6 = d := fld_eq s19
  have f1 : fld wd 13 6 = a := fld_eq s13
  have f2 : fld wd 7 6 = b := fld_eq s7
  have f3 : fld wd 4 3 = k := fld_eq s4
  have f4 : fld wd 0 4 = f := fld_eq s0
  have k1 : decodeVOp (wd.toNat / 0x2000000) wd = finish .v wd (.vicmp (fld wd 19 6) (fld wd 13 6) (fld wd 7 6) (fld wd 4 3) (fld wd 0 4)) [] := by rw [h1]; rfl
  rw [f0, f1, f2, f3, f4] at k1
  exact k1.trans (finish_ok hf hv resv_nil)

theorem Word.v_vbmul {wd : W32} (d : BitVec 6) (a : BitVec 6) (b : BitVec 6) (x : BitVec 3) (y : BitVec 3) (s : BitVec 1) (hf : fnAssigned (.vbmul d a b x y s) = true) (hv : valuesOk .v (.vbmul d a b x y s) = true)
    (he : wd.toNat = 0x40000000 + d.toNat * 0x80000 + a.toNat * 0x2000 + b.toNat * 0x80 + x.toNat * 0x10 + y.toNat * 0x2 + s.toNat) : decodeV wd = .ok (.vbmul d a b x y s) := by
  obtain ⟨h1, s19, s13, s7, s4, s1, s0⟩ := Layout.w6_6_6_3_3_1 (op := 0x20) (x19 := d.toNat) (x13 := a.toNat) (x7 := b.toNat) (x4 := x.toNat) (x1 := y.toNat) (x0 := s.toNat) d.isLt a.isLt b.isLt x.isLt y.isLt s.isLt (he.trans (by omega))
  have f0 : fld wd 19 6 = d := fld_eq s19
  have f1 : fld wd 13 6 = a := fld_eq s13
  have f2 : fld wd 7 6 = b := fld_eq s7
  have f3 : fld wd 4 3 = x := fld_eq s4
  have f4 : fld wd 1 3 = y := fld_eq s1
  have f5 : fld wd 0 1 = s := fld_eq s0
  have k1 : decodeVOp (wd.toNat / 0x2000000) wd = finish .v wd (.vbmul (fld wd 19 6) (fld wd 13 6) (fld wd 7 6) (fld wd 4 3) (fld wd 1 3) (fld wd 0 1)) [] := by rw [h1]; rfl
  rw [f0, f1, f2, f3, f4, f5] at k1
  exact k1.trans (finish_ok hf hv resv_nil)

theorem Word.v_vbdot {wd : W32} (d : BitVec 6) (a : BitVec 6) (b : BitVec 6) (x : BitVec 3) (y : BitVec 3) (s : BitVec 1) (hf : fnAssigned (.vbdot d a b x y s) = true) (hv : valuesOk .v (.vbdot d a b x y s) = true)
    (he : wd.toNat = 0x42000000 + d.toNat * 0x80000 + a.toNat * 0x2000 + b.toNat * 0x80 + x.toNat * 0x10 + y.toNat * 0x2 + s.toNat) : decodeV wd = .ok (.vbdot d a b x y s) := by
  obtain ⟨h1, s19, s13, s7, s4, s1, s0⟩ := Layout.w6_6_6_3_3_1 (op := 0x21) (x19 := d.toNat) (x13 := a.toNat) (x7 := b.toNat) (x4 := x.toNat) (x1 := y.toNat) (x0 := s.toNat) d.isLt a.isLt b.isLt x.isLt y.isLt s.isLt (he.trans (by omega))
  have f0 : fld wd 19 6 = d := fld_eq s19
  have f1 : fld wd 13 6 = a := fld_eq s13
  have f2 : fld wd 7 6 = b := fld_eq s7
  have f3 : fld wd 4 3 = x := fld_eq s4
  have f4 : fld wd 1 3 = y := fld_eq s1
  have f5 : fld wd 0 1 = s := fld_eq s0
  have k1 : decodeVOp (wd.toNat / 0x2000000) wd = finish .v wd (.vbdot (fld wd 19 6) (fld wd 13 6) (fld wd 7 6) (fld wd 4 3) (fld wd 1 3) (fld wd 0 1)) [] := by rw [h1]; rfl
  rw [f0, f1, f2, f3, f4, f5] at k1
  exact k1.trans (finish_ok hf hv resv_nil)

theorem Word.v_vbmac {wd : W32} (d : BitVec 6) (a : BitVec 6) (b : BitVec 6) (x : BitVec 3) (y : BitVec 3) (s : BitVec 1) (hf : fnAssigned (.vbmac d a b x y s) = true) (hv : valuesOk .v (.vbmac d a b x y s) = true)
    (he : wd.toNat = 0x44000000 + d.toNat * 0x80000 + a.toNat * 0x2000 + b.toNat * 0x80 + x.toNat * 0x10 + y.toNat * 0x2 + s.toNat) : decodeV wd = .ok (.vbmac d a b x y s) := by
  obtain ⟨h1, s19, s13, s7, s4, s1, s0⟩ := Layout.w6_6_6_3_3_1 (op := 0x22) (x19 := d.toNat) (x13 := a.toNat) (x7 := b.toNat) (x4 := x.toNat) (x1 := y.toNat) (x0 := s.toNat) d.isLt a.isLt b.isLt x.isLt y.isLt s.isLt (he.trans (by omega))
  have f0 : fld wd 19 6 = d := fld_eq s19
  have f1 : fld wd 13 6 = a := fld_eq s13
  have f2 : fld wd 7 6 = b := fld_eq s7
  have f3 : fld wd 4 3 = x := fld_eq s4
  have f4 : fld wd 1 3 = y := fld_eq s1
  have f5 : fld wd 0 1 = s := fld_eq s0
  have k1 : decodeVOp (wd.toNat / 0x2000000) wd = finish .v wd (.vbmac (fld wd 19 6) (fld wd 13 6) (fld wd 7 6) (fld wd 4 3) (fld wd 1 3) (fld wd 0 1)) [] := by rw [h1]; rfl
  rw [f0, f1, f2, f3, f4, f5] at k1
  exact k1.trans (finish_ok hf hv resv_nil)

theorem Word.v_vld {wd : W32} (d : BitVec 6) (h : BitVec 8) (o : BitVec 11) (hf : fnAssigned (.vld d h o) = true) (hv : valuesOk .v (.vld d h o) = true)
    (he : wd.toNat = 0x50000000 + d.toNat * 0x80000 + h.toNat * 0x800 + o.toNat) : decodeV wd = .ok (.vld d h o) := by
  obtain ⟨h1, s19, s11, s0⟩ := Layout.w6_8_11 (op := 0x28) (x19 := d.toNat) (x11 := h.toNat) (x0 := o.toNat) d.isLt h.isLt o.isLt (he.trans (by omega))
  have f0 : fld wd 19 6 = d := fld_eq s19
  have f1 : fld wd 11 8 = h := fld_eq s11
  have f2 : fld wd 0 11 = o := fld_eq s0
  have k1 : decodeVOp (wd.toNat / 0x2000000) wd = finish .v wd (.vld (fld wd 19 6) (fld wd 11 8) (fld wd 0 11)) [] := by rw [h1]; rfl
  rw [f0, f1, f2] at k1
  exact k1.trans (finish_ok hf hv resv_nil)

theorem Word.v_vst {wd : W32} (d : BitVec 6) (h : BitVec 8) (o : BitVec 11) (hf : fnAssigned (.vst d h o) = true) (hv : valuesOk .v (.vst d h o) = true)
    (he : wd.toNat = 0x52000000 + d.toNat * 0x80000 + h.toNat * 0x800 + o.toNat) : decodeV wd = .ok (.vst d h o) := by
  obtain ⟨h1, s19, s11, s0⟩ := Layout.w6_8_11 (op := 0x29) (x19 := d.toNat) (x11 := h.toNat) (x0 := o.toNat) d.isLt h.isLt o.isLt (he.trans (by omega))
  have f0 : fld wd 19 6 = d := fld_eq s19
  have f1 : fld wd 11 8 = h := fld_eq s11
  have f2 : fld wd 0 11 = o := fld_eq s0
  have k1 : decodeVOp (wd.toNat / 0x2000000) wd = finish .v wd (.vst (fld wd 19 6) (fld wd 11 8) (fld wd 0 11)) [] := by rw [h1]; rfl
  rw [f0, f1, f2] at k1
  exact k1.trans (finish_ok hf hv resv_nil)

theorem Word.v_vldx {wd : W32} (d : BitVec 6) (a : BitVec 6) (b : BitVec 6) (k : BitVec 3) (hf : fnAssigned (.vldx d a b k) = true) (hv : valuesOk .v (.vldx d a b k) = true)
    (he : wd.toNat = 0x54000000 + d.toNat * 0x80000 + a.toNat * 0x2000 + b.toNat * 0x80 + k.toNat * 0x10) : decodeV wd = .ok (.vldx d a b k) := by
  obtain ⟨h1, s19, s13, s7, s4, s0⟩ := Layout.w6_6_6_3_4 (op := 0x2A) (x19 := d.toNat) (x13 := a.toNat) (x7 := b.toNat) (x4 := k.toNat) (x0 := 0) d.isLt a.isLt b.isLt k.isLt (by decide) (he.trans (by omega))
  have f0 : fld wd 19 6 = d := fld_eq s19
  have f1 : fld wd 13 6 = a := fld_eq s13
  have f2 : fld wd 7 6 = b := fld_eq s7
  have f3 : fld wd 4 3 = k := fld_eq s4
  have k1 : decodeVOp (wd.toNat / 0x2000000) wd = finish .v wd (.vldx (fld wd 19 6) (fld wd 13 6) (fld wd 7 6) (fld wd 4 3)) [(0, 4)] := by rw [h1]; rfl
  rw [f0, f1, f2, f3] at k1
  exact k1.trans (finish_ok hf hv (resv_cons s0 resv_nil))

theorem Word.v_vstx {wd : W32} (d : BitVec 6) (a : BitVec 6) (b : BitVec 6) (k : BitVec 3) (hf : fnAssigned (.vstx d a b k) = true) (hv : valuesOk .v (.vstx d a b k) = true)
    (he : wd.toNat = 0x56000000 + d.toNat * 0x80000 + a.toNat * 0x2000 + b.toNat * 0x80 + k.toNat * 0x10) : decodeV wd = .ok (.vstx d a b k) := by
  obtain ⟨h1, s19, s13, s7, s4, s0⟩ := Layout.w6_6_6_3_4 (op := 0x2B) (x19 := d.toNat) (x13 := a.toNat) (x7 := b.toNat) (x4 := k.toNat) (x0 := 0) d.isLt a.isLt b.isLt k.isLt (by decide) (he.trans (by omega))
  have f0 : fld wd 19 6 = d := fld_eq s19
  have f1 : fld wd 13 6 = a := fld_eq s13
  have f2 : fld wd 7 6 = b := fld_eq s7
  have f3 : fld wd 4 3 = k := fld_eq s4
  have k1 : decodeVOp (wd.toNat / 0x2000000) wd = finish .v wd (.vstx (fld wd 19 6) (fld wd 13 6) (fld wd 7 6) (fld wd 4 3)) [(0, 4)] := by rw [h1]; rfl
  rw [f0, f1, f2, f3] at k1
  exact k1.trans (finish_ok hf hv (resv_cons s0 resv_nil))

theorem Word.v_vbcast {wd : W32} (d : BitVec 6) (a : BitVec 6) (l : BitVec 8) (k : BitVec 3) (hf : fnAssigned (.vbcast d a l k) = true) (hv : valuesOk .v (.vbcast d a l k) = true)
    (he : wd.toNat = 0x58000000 + d.toNat * 0x80000 + a.toNat * 0x2000 + l.toNat % 0x40 * 0x80 + l.toNat / 0x40 * 0x4 + k.toNat * 0x10) : decodeV wd = .ok (.vbcast d a l k) := by
  obtain ⟨h1, s19, s13, s7, s4, s2, s0⟩ := Layout.w6_6_6_3_2_2 (op := 0x2C) (x19 := d.toNat) (x13 := a.toNat) (x7 := (l.toNat % 0x40)) (x4 := k.toNat) (x2 := (l.toNat / 0x40)) (x0 := 0) d.isLt a.isLt (by omega) k.isLt (by omega) (by decide) (he.trans (by omega))
  have f0 : fld wd 19 6 = d := fld_eq s19
  have f1 : fld wd 13 6 = a := fld_eq s13
  have f2 : fld wd 2 2 ++ fld wd 7 6 = l := fld_cat (by rw [s2, s7]; omega)
  have f3 : fld wd 4 3 = k := fld_eq s4
  have k1 : decodeVOp (wd.toNat / 0x2000000) wd = finish .v wd (.vbcast (fld wd 19 6) (fld wd 13 6) (fld wd 2 2 ++ fld wd 7 6) (fld wd 4 3)) [(0, 2)] := by rw [h1]; rfl
  rw [f0, f1, f2, f3] at k1
  exact k1.trans (finish_ok hf hv (resv_cons s0 resv_nil))

theorem Word.v_vmov {wd : W32} (d : BitVec 6) (a : BitVec 6) (k : BitVec 3) (hf : fnAssigned (.vmov d a k) = true) (hv : valuesOk .v (.vmov d a k) = true)
    (he : wd.toNat = 0x5A000000 + d.toNat * 0x80000 + a.toNat * 0x2000 + k.toNat * 0x10) : decodeV wd = .ok (.vmov d a k) := by
  obtain ⟨h1, s19, s13, s7, s4, s0⟩ := Layout.w6_6_6_3_4 (op := 0x2D) (x19 := d.toNat) (x13 := a.toNat) (x7 := 0) (x4 := k.toNat) (x0 := 0) d.isLt a.isLt (by decide) k.isLt (by decide) (he.trans (by omega))
  have f0 : fld wd 19 6 = d := fld_eq s19
  have f1 : fld wd 13 6 = a := fld_eq s13
  have f2 : fld wd 4 3 = k := fld_eq s4
  have k1 : decodeVOp (wd.toNat / 0x2000000) wd = finish .v wd (.vmov (fld wd 19 6) (fld wd 13 6) (fld wd 4 3)) [(0, 4), (7, 6)] := by rw [h1]; rfl
  rw [f0, f1, f2] at k1
  exact k1.trans (finish_ok hf hv (resv_cons s0 (resv_cons s7 resv_nil)))

theorem Word.v_vperm {wd : W32} (d : BitVec 6) (a : BitVec 6) (b : BitVec 6) (k : BitVec 3) (hf : fnAssigned (.vperm d a b k) = true) (hv : valuesOk .v (.vperm d a b k) = true)
    (he : wd.toNat = 0x5C000000 + d.toNat * 0x80000 + a.toNat * 0x2000 + b.toNat * 0x80 + k.toNat * 0x10) : decodeV wd = .ok (.vperm d a b k) := by
  obtain ⟨h1, s19, s13, s7, s4, s0⟩ := Layout.w6_6_6_3_4 (op := 0x2E) (x19 := d.toNat) (x13 := a.toNat) (x7 := b.toNat) (x4 := k.toNat) (x0 := 0) d.isLt a.isLt b.isLt k.isLt (by decide) (he.trans (by omega))
  have f0 : fld wd 19 6 = d := fld_eq s19
  have f1 : fld wd 13 6 = a := fld_eq s13
  have f2 : fld wd 7 6 = b := fld_eq s7
  have f3 : fld wd 4 3 = k := fld_eq s4
  have k1 : decodeVOp (wd.toNat / 0x2000000) wd = finish .v wd (.vperm (fld wd 19 6) (fld wd 13 6) (fld wd 7 6) (fld wd 4 3)) [(0, 4)] := by rw [h1]; rfl
  rw [f0, f1, f2, f3] at k1
  exact k1.trans (finish_ok hf hv (resv_cons s0 resv_nil))

theorem Word.v_vshuf {wd : W32} (d : BitVec 6) (a : BitVec 6) (b : BitVec 6) (k : BitVec 3) (f : BitVec 4) (hf : fnAssigned (.vshuf d a b k f) = true) (hv : valuesOk .v (.vshuf d a b k f) = true)
    (he : wd.toNat = 0x5E000000 + d.toNat * 0x80000 + a.toNat * 0x2000 + b.toNat * 0x80 + k.toNat * 0x10 + f.toNat) : decodeV wd = .ok (.vshuf d a b k f) := by
  obtain ⟨h1, s19, s13, s7, s4, s0⟩ := Layout.w6_6_6_3_4 (op := 0x2F) (x19 := d.toNat) (x13 := a.toNat) (x7 := b.toNat) (x4 := k.toNat) (x0 := f.toNat) d.isLt a.isLt b.isLt k.isLt f.isLt (he.trans (by omega))
  have f0 : fld wd 19 6 = d := fld_eq s19
  have f1 : fld wd 13 6 = a := fld_eq s13
  have f2 : fld wd 7 6 = b := fld_eq s7
  have f3 : fld wd 4 3 = k := fld_eq s4
  have f4 : fld wd 0 4 = f := fld_eq s0
  have k1 : decodeVOp (wd.toNat / 0x2000000) wd = finish .v wd (.vshuf (fld wd 19 6) (fld wd 13 6) (fld wd 7 6) (fld wd 4 3) (fld wd 0 4)) [] := by rw [h1]; rfl
  rw [f0, f1, f2, f3, f4] at k1
  exact k1.trans (finish_ok hf hv resv_nil)

theorem Word.v_vext {wd : W32} (d : BitVec 6) (a : BitVec 6) (k : BitVec 3) (n : BitVec 4) (hf : fnAssigned (.vext d a k n) = true) (hv : valuesOk .v (.vext d a k n) = true)
    (he : wd.toNat = 0x60000000 + d.toNat * 0x80000 + a.toNat * 0x2000 + k.toNat * 0x10 + n.toNat) : decodeV wd = .ok (.vext d a k n) := by
  obtain ⟨h1, s19, s13, s7, s4, s0⟩ := Layout.w6_6_6_3_4 (op := 0x30) (x19 := d.toNat) (x13 := a.toNat) (x7 := 0) (x4 := k.toNat) (x0 := n.toNat) d.isLt a.isLt (by decide) k.isLt n.isLt (he.trans (by omega))
  have f0 : fld wd 19 6 = d := fld_eq s19
  have f1 : fld wd 13 6 = a := fld_eq s13
  have f2 : fld wd 4 3 = k := fld_eq s4
  have f3 : fld wd 0 4 = n := fld_eq s0
  have k1 : decodeVOp (wd.toNat / 0x2000000) wd = finish .v wd (.vext (fld wd 19 6) (fld wd 13 6) (fld wd 4 3) (fld wd 0 4)) [(7, 6)] := by rw [h1]; rfl
  rw [f0, f1, f2, f3] at k1
  exact k1.trans (finish_ok hf hv (resv_cons s7 resv_nil))

theorem Word.v_vins {wd : W32} (d : BitVec 6) (a : BitVec 6) (l : BitVec 8) (k : BitVec 3) (hf : fnAssigned (.vins d a l k) = true) (hv : valuesOk .v (.vins d a l k) = true)
    (he : wd.toNat = 0x62000000 + d.toNat * 0x80000 + a.toNat * 0x2000 + l.toNat % 0x40 * 0x80 + l.toNat / 0x40 * 0x4 + k.toNat * 0x10) : decodeV wd = .ok (.vins d a l k) := by
  obtain ⟨h1, s19, s13, s7, s4, s2, s0⟩ := Layout.w6_6_6_3_2_2 (op := 0x31) (x19 := d.toNat) (x13 := a.toNat) (x7 := (l.toNat % 0x40)) (x4 := k.toNat) (x2 := (l.toNat / 0x40)) (x0 := 0) d.isLt a.isLt (by omega) k.isLt (by omega) (by decide) (he.trans (by omega))
  have f0 : fld wd 19 6 = d := fld_eq s19
  have f1 : fld wd 13 6 = a := fld_eq s13
  have f2 : fld wd 2 2 ++ fld wd 7 6 = l := fld_cat (by rw [s2, s7]; omega)
  have f3 : fld wd 4 3 = k := fld_eq s4
  have k1 : decodeVOp (wd.toNat / 0x2000000) wd = finish .v wd (.vins (fld wd 19 6) (fld wd 13 6) (fld wd 2 2 ++ fld wd 7 6) (fld wd 4 3)) [(0, 2)] := by rw [h1]; rfl
  rw [f0, f1, f2, f3] at k1
  exact k1.trans (finish_ok hf hv (resv_cons s0 resv_nil))

theorem Word.v_vmset {wd : W32} (d : BitVec 3) (a : BitVec 6) (k : BitVec 3) (f : BitVec 4) (hf : fnAssigned (.vmset d a k f) = true) (hv : valuesOk .v (.vmset d a k f) = true)
    (he : wd.toNat = 0x68000000 + d.toNat * 0x80000 + a.toNat * 0x2000 + k.toNat * 0x10 + f.toNat) : decodeV wd = .ok (.vmset d a k f) := by
  obtain ⟨h1, s22, s19, s13, s7, s4, s0⟩ := Layout.w3_3_6_6_3_4 (op := 0x34) (x22 := 0) (x19 := d.toNat) (x13 := a.toNat) (x7 := 0) (x4 := k.toNat) (x0 := f.toNat) (by decide) d.isLt a.isLt (by decide) k.isLt f.isLt (he.trans (by omega))
  have f0 : fld wd 19 3 = d := fld_eq s19
  have f1 : fld wd 13 6 = a := fld_eq s13
  have f2 : fld wd 4 3 = k := fld_eq s4
  have f3 : fld wd 0 4 = f := fld_eq s0
  have k1 : decodeVOp (wd.toNat / 0x2000000) wd = finish .v wd (.vmset (fld wd 19 3) (fld wd 13 6) (fld wd 4 3) (fld wd 0 4)) [(7, 6), (22, 3)] := by rw [h1]; rfl
  rw [f0, f1, f2, f3] at k1
  exact k1.trans (finish_ok hf hv (resv_cons s7 (resv_cons s22 resv_nil)))

theorem Word.v_vmand {wd : W32} (d : BitVec 3) (a : BitVec 3) (b : BitVec 3) (k : BitVec 3) (hf : fnAssigned (.vmand d a b k) = true) (hv : valuesOk .v (.vmand d a b k) = true)
    (he : wd.toNat = 0x6A000000 + d.toNat * 0x80000 + a.toNat * 0x2000 + b.toNat * 0x80 + k.toNat * 0x10) : decodeV wd = .ok (.vmand d a b k) := by
  obtain ⟨h1, s22, s19, s16, s13, s10, s7, s4, s0⟩ := Layout.w3_3_3_3_3_3_3_4 (op := 0x35) (x22 := 0) (x19 := d.toNat) (x16 := 0) (x13 := a.toNat) (x10 := 0) (x7 := b.toNat) (x4 := k.toNat) (x0 := 0) (by decide) d.isLt (by decide) a.isLt (by decide) b.isLt k.isLt (by decide) (he.trans (by omega))
  have f0 : fld wd 19 3 = d := fld_eq s19
  have f1 : fld wd 13 3 = a := fld_eq s13
  have f2 : fld wd 7 3 = b := fld_eq s7
  have f3 : fld wd 4 3 = k := fld_eq s4
  have k1 : decodeVOp (wd.toNat / 0x2000000) wd = finish .v wd (.vmand (fld wd 19 3) (fld wd 13 3) (fld wd 7 3) (fld wd 4 3)) [(0, 4), (10, 3), (16, 3), (22, 3)] := by rw [h1]; rfl
  rw [f0, f1, f2, f3] at k1
  exact k1.trans (finish_ok hf hv (resv_cons s0 (resv_cons s10 (resv_cons s16 (resv_cons s22 resv_nil)))))

theorem Word.v_vmor {wd : W32} (d : BitVec 3) (a : BitVec 3) (b : BitVec 3) (k : BitVec 3) (hf : fnAssigned (.vmor d a b k) = true) (hv : valuesOk .v (.vmor d a b k) = true)
    (he : wd.toNat = 0x6C000000 + d.toNat * 0x80000 + a.toNat * 0x2000 + b.toNat * 0x80 + k.toNat * 0x10) : decodeV wd = .ok (.vmor d a b k) := by
  obtain ⟨h1, s22, s19, s16, s13, s10, s7, s4, s0⟩ := Layout.w3_3_3_3_3_3_3_4 (op := 0x36) (x22 := 0) (x19 := d.toNat) (x16 := 0) (x13 := a.toNat) (x10 := 0) (x7 := b.toNat) (x4 := k.toNat) (x0 := 0) (by decide) d.isLt (by decide) a.isLt (by decide) b.isLt k.isLt (by decide) (he.trans (by omega))
  have f0 : fld wd 19 3 = d := fld_eq s19
  have f1 : fld wd 13 3 = a := fld_eq s13
  have f2 : fld wd 7 3 = b := fld_eq s7
  have f3 : fld wd 4 3 = k := fld_eq s4
  have k1 : decodeVOp (wd.toNat / 0x2000000) wd = finish .v wd (.vmor (fld wd 19 3) (fld wd 13 3) (fld wd 7 3) (fld wd 4 3)) [(0, 4), (10, 3), (16, 3), (22, 3)] := by rw [h1]; rfl
  rw [f0, f1, f2, f3] at k1
  exact k1.trans (finish_ok hf hv (resv_cons s0 (resv_cons s10 (resv_cons s16 (resv_cons s22 resv_nil)))))

theorem Word.v_vmnot {wd : W32} (d : BitVec 3) (a : BitVec 3) (k : BitVec 3) (hf : fnAssigned (.vmnot d a k) = true) (hv : valuesOk .v (.vmnot d a k) = true)
    (he : wd.toNat = 0x6E000000 + d.toNat * 0x80000 + a.toNat * 0x2000 + k.toNat * 0x10) : decodeV wd = .ok (.vmnot d a k) := by
  obtain ⟨h1, s22, s19, s16, s13, s7, s4, s0⟩ := Layout.w3_3_3_3_6_3_4 (op := 0x37) (x22 := 0) (x19 := d.toNat) (x16 := 0) (x13 := a.toNat) (x7 := 0) (x4 := k.toNat) (x0 := 0) (by decide) d.isLt (by decide) a.isLt (by decide) k.isLt (by decide) (he.trans (by omega))
  have f0 : fld wd 19 3 = d := fld_eq s19
  have f1 : fld wd 13 3 = a := fld_eq s13
  have f2 : fld wd 4 3 = k := fld_eq s4
  have k1 : decodeVOp (wd.toNat / 0x2000000) wd = finish .v wd (.vmnot (fld wd 19 3) (fld wd 13 3) (fld wd 4 3)) [(0, 4), (7, 6), (16, 3), (22, 3)] := by rw [h1]; rfl
  rw [f0, f1, f2] at k1
  exact k1.trans (finish_ok hf hv (resv_cons s0 (resv_cons s7 (resv_cons s16 (resv_cons s22 resv_nil)))))

theorem Word.v_vmpop {wd : W32} (d : BitVec 6) (a : BitVec 3) (k : BitVec 3) (hf : fnAssigned (.vmpop d a k) = true) (hv : valuesOk .v (.vmpop d a k) = true)
    (he : wd.toNat = 0x70000000 + d.toNat * 0x80000 + a.toNat * 0x2000 + k.toNat * 0x10) : decodeV wd = .ok (.vmpop d a k) := by
  obtain ⟨h1, s19, s16, s13, s7, s4, s0⟩ := Layout.w6_3_3_6_3_4 (op := 0x38) (x19 := d.toNat) (x16 := 0) (x13 := a.toNat) (x7 := 0) (x4 := k.toNat) (x0 := 0) d.isLt (by decide) a.isLt (by decide) k.isLt (by decide) (he.trans (by omega))
  have f0 : fld wd 19 6 = d := fld_eq s19
  have f1 : fld wd 13 3 = a := fld_eq s13
  have f2 : fld wd 4 3 = k := fld_eq s4
  have k1 : decodeVOp (wd.toNat / 0x2000000) wd = finish .v wd (.vmpop (fld wd 19 6) (fld wd 13 3) (fld wd 4 3)) [(0, 4), (7, 6), (16, 3)] := by rw [h1]; rfl
  rw [f0, f1, f2] at k1
  exact k1.trans (finish_ok hf hv (resv_cons s0 (resv_cons s7 (resv_cons s16 resv_nil))))

theorem Word.v_vred {wd : W32} (d : BitVec 6) (a : BitVec 6) (b : BitVec 6) (k : BitVec 3) (f : BitVec 4) (hf : fnAssigned (.vred d a b k f) = true) (hv : valuesOk .v (.vred d a b k f) = true)
    (he : wd.toNat = 0x74000000 + d.toNat * 0x80000 + a.toNat * 0x2000 + b.toNat * 0x80 + k.toNat * 0x10 + f.toNat) : decodeV wd = .ok (.vred d a b k f) := by
  obtain ⟨h1, s19, s13, s7, s4, s0⟩ := Layout.w6_6_6_3_4 (op := 0x3A) (x19 := d.toNat) (x13 := a.toNat) (x7 := b.toNat) (x4 := k.toNat) (x0 := f.toNat) d.isLt a.isLt b.isLt k.isLt f.isLt (he.trans (by omega))
  have f0 : fld wd 19 6 = d := fld_eq s19
  have f1 : fld wd 13 6 = a := fld_eq s13
  have f2 : fld wd 7 6 = b := fld_eq s7
  have f3 : fld wd 4 3 = k := fld_eq s4
  have f4 : fld wd 0 4 = f := fld_eq s0
  have k1 : decodeVOp (wd.toNat / 0x2000000) wd = finish .v wd (.vred (fld wd 19 6) (fld wd 13 6) (fld wd 7 6) (fld wd 4 3) (fld wd 0 4)) [] := by rw [h1]; rfl
  rw [f0, f1, f2, f3, f4] at k1
  exact k1.trans (finish_ok hf hv resv_nil)

theorem Word.v_vscan {wd : W32} (d : BitVec 6) (a : BitVec 6) (k : BitVec 3) (f : BitVec 4) (hf : fnAssigned (.vscan d a k f) = true) (hv : valuesOk .v (.vscan d a k f) = true)
    (he : wd.toNat = 0x76000000 + d.toNat * 0x80000 + a.toNat * 0x2000 + k.toNat * 0x10 + f.toNat) : decodeV wd = .ok (.vscan d a k f) := by
  obtain ⟨h1, s19, s13, s7, s4, s0⟩ := Layout.w6_6_6_3_4 (op := 0x3B) (x19 := d.toNat) (x13 := a.toNat) (x7 := 0) (x4 := k.toNat) (x0 := f.toNat) d.isLt a.isLt (by decide) k.isLt f.isLt (he.trans (by omega))
  have f0 : fld wd 19 6 = d := fld_eq s19
  have f1 : fld wd 13 6 = a := fld_eq s13
  have f2 : fld wd 4 3 = k := fld_eq s4
  have f3 : fld wd 0 4 = f := fld_eq s0
  have k1 : decodeVOp (wd.toNat / 0x2000000) wd = finish .v wd (.vscan (fld wd 19 6) (fld wd 13 6) (fld wd 4 3) (fld wd 0 4)) [(7, 6)] := by rw [h1]; rfl
  rw [f0, f1, f2, f3] at k1
  exact k1.trans (finish_ok hf hv (resv_cons s7 resv_nil))

theorem Word.v_vfn {wd : W32} (d : BitVec 6) (a : BitVec 6) (k : BitVec 3) (f : BitVec 4) (hf : fnAssigned (.vfn d a k f) = true) (hv : valuesOk .v (.vfn d a k f) = true)
    (he : wd.toNat = 0x80000000 + d.toNat * 0x80000 + a.toNat * 0x2000 + k.toNat * 0x10 + f.toNat) : decodeV wd = .ok (.vfn d a k f) := by
  obtain ⟨h1, s19, s13, s7, s4, s0⟩ := Layout.w6_6_6_3_4 (op := 0x40) (x19 := d.toNat) (x13 := a.toNat) (x7 := 0) (x4 := k.toNat) (x0 := f.toNat) d.isLt a.isLt (by decide) k.isLt f.isLt (he.trans (by omega))
  have f0 : fld wd 19 6 = d := fld_eq s19
  have f1 : fld wd 13 6 = a := fld_eq s13
  have f2 : fld wd 4 3 = k := fld_eq s4
  have f3 : fld wd 0 4 = f := fld_eq s0
  have k1 : decodeVOp (wd.toNat / 0x2000000) wd = finish .v wd (.vfn (fld wd 19 6) (fld wd 13 6) (fld wd 4 3) (fld wd 0 4)) [(7, 6)] := by rw [h1]; rfl
  rw [f0, f1, f2, f3] at k1
  exact k1.trans (finish_ok hf hv (resv_cons s7 resv_nil))

theorem Word.v_vgate {wd : W32} (d : BitVec 6) (a : BitVec 6) (b : BitVec 6) (g : BitVec 6) (hf : fnAssigned (.vgate d a b g) = true) (hv : valuesOk .v (.vgate d a b g) = true)
    (he : wd.toNat = 0x82000000 + d.toNat * 0x80000 + a.toNat * 0x2000 + b.toNat * 0x80 + g.toNat * 0x2) : decodeV wd = .ok (.vgate d a b g) := by
  obtain ⟨h1, s19, s13, s7, s1, s0⟩ := Layout.w6_6_6_6_1 (op := 0x41) (x19 := d.toNat) (x13 := a.toNat) (x7 := b.toNat) (x1 := g.toNat) (x0 := 0) d.isLt a.isLt b.isLt g.isLt (by decide) (he.trans (by omega))
  have f0 : fld wd 19 6 = d := fld_eq s19
  have f1 : fld wd 13 6 = a := fld_eq s13
  have f2 : fld wd 7 6 = b := fld_eq s7
  have f3 : fld wd 1 6 = g := fld_eq s1
  have k1 : decodeVOp (wd.toNat / 0x2000000) wd = finish .v wd (.vgate (fld wd 19 6) (fld wd 13 6) (fld wd 7 6) (fld wd 1 6)) [(0, 1)] := by rw [h1]; rfl
  rw [f0, f1, f2, f3] at k1
  exact k1.trans (finish_ok hf hv (resv_cons s0 resv_nil))

theorem Word.v_vstat {wd : W32} (d : BitVec 6) (a : BitVec 6) (b : BitVec 6) (k : BitVec 3) (f : BitVec 4) (hf : fnAssigned (.vstat d a b k f) = true) (hv : valuesOk .v (.vstat d a b k f) = true)
    (he : wd.toNat = 0x84000000 + d.toNat * 0x80000 + a.toNat * 0x2000 + b.toNat * 0x80 + k.toNat * 0x10 + f.toNat) : decodeV wd = .ok (.vstat d a b k f) := by
  obtain ⟨h1, s19, s13, s7, s4, s0⟩ := Layout.w6_6_6_3_4 (op := 0x42) (x19 := d.toNat) (x13 := a.toNat) (x7 := b.toNat) (x4 := k.toNat) (x0 := f.toNat) d.isLt a.isLt b.isLt k.isLt f.isLt (he.trans (by omega))
  have f0 : fld wd 19 6 = d := fld_eq s19
  have f1 : fld wd 13 6 = a := fld_eq s13
  have f2 : fld wd 7 6 = b := fld_eq s7
  have f3 : fld wd 4 3 = k := fld_eq s4
  have f4 : fld wd 0 4 = f := fld_eq s0
  have k1 : decodeVOp (wd.toNat / 0x2000000) wd = finish .v wd (.vstat (fld wd 19 6) (fld wd 13 6) (fld wd 7 6) (fld wd 4 3) (fld wd 0 4)) [] := by rw [h1]; rfl
  rw [f0, f1, f2, f3, f4] at k1
  exact k1.trans (finish_ok hf hv resv_nil)

theorem Word.v_vnorm {wd : W32} (d : BitVec 6) (a : BitVec 6) (b : BitVec 6) (k : BitVec 3) (f : BitVec 4) (hf : fnAssigned (.vnorm d a b k f) = true) (hv : valuesOk .v (.vnorm d a b k f) = true)
    (he : wd.toNat = 0x86000000 + d.toNat * 0x80000 + a.toNat * 0x2000 + b.toNat * 0x80 + k.toNat * 0x10 + f.toNat) : decodeV wd = .ok (.vnorm d a b k f) := by
  obtain ⟨h1, s19, s13, s7, s4, s0⟩ := Layout.w6_6_6_3_4 (op := 0x43) (x19 := d.toNat) (x13 := a.toNat) (x7 := b.toNat) (x4 := k.toNat) (x0 := f.toNat) d.isLt a.isLt b.isLt k.isLt f.isLt (he.trans (by omega))
  have f0 : fld wd 19 6 = d := fld_eq s19
  have f1 : fld wd 13 6 = a := fld_eq s13
  have f2 : fld wd 7 6 = b := fld_eq s7
  have f3 : fld wd 4 3 = k := fld_eq s4
  have f4 : fld wd 0 4 = f := fld_eq s0
  have k1 : decodeVOp (wd.toNat / 0x2000000) wd = finish .v wd (.vnorm (fld wd 19 6) (fld wd 13 6) (fld wd 7 6) (fld wd 4 3) (fld wd 0 4)) [] := by rw [h1]; rfl
  rw [f0, f1, f2, f3, f4] at k1
  exact k1.trans (finish_ok hf hv resv_nil)

theorem Word.v_vsmax {wd : W32} (d : BitVec 6) (a : BitVec 6) (b : BitVec 6) (k : BitVec 3) (f : BitVec 4) (hf : fnAssigned (.vsmax d a b k f) = true) (hv : valuesOk .v (.vsmax d a b k f) = true)
    (he : wd.toNat = 0x88000000 + d.toNat * 0x80000 + a.toNat * 0x2000 + b.toNat * 0x80 + k.toNat * 0x10 + f.toNat) : decodeV wd = .ok (.vsmax d a b k f) := by
  obtain ⟨h1, s19, s13, s7, s4, s0⟩ := Layout.w6_6_6_3_4 (op := 0x44) (x19 := d.toNat) (x13 := a.toNat) (x7 := b.toNat) (x4 := k.toNat) (x0 := f.toNat) d.isLt a.isLt b.isLt k.isLt f.isLt (he.trans (by omega))
  have f0 : fld wd 19 6 = d := fld_eq s19
  have f1 : fld wd 13 6 = a := fld_eq s13
  have f2 : fld wd 7 6 = b := fld_eq s7
  have f3 : fld wd 4 3 = k := fld_eq s4
  have f4 : fld wd 0 4 = f := fld_eq s0
  have k1 : decodeVOp (wd.toNat / 0x2000000) wd = finish .v wd (.vsmax (fld wd 19 6) (fld wd 13 6) (fld wd 7 6) (fld wd 4 3) (fld wd 0 4)) [] := by rw [h1]; rfl
  rw [f0, f1, f2, f3, f4] at k1
  exact k1.trans (finish_ok hf hv resv_nil)

theorem Word.v_vsmxn {wd : W32} (d : BitVec 6) (a : BitVec 6) (b : BitVec 6) (k : BitVec 3) (hf : fnAssigned (.vsmxn d a b k) = true) (hv : valuesOk .v (.vsmxn d a b k) = true)
    (he : wd.toNat = 0x8A000000 + d.toNat * 0x80000 + a.toNat * 0x2000 + b.toNat * 0x80 + k.toNat * 0x10) : decodeV wd = .ok (.vsmxn d a b k) := by
  obtain ⟨h1, s19, s13, s7, s4, s0⟩ := Layout.w6_6_6_3_4 (op := 0x45) (x19 := d.toNat) (x13 := a.toNat) (x7 := b.toNat) (x4 := k.toNat) (x0 := 0) d.isLt a.isLt b.isLt k.isLt (by decide) (he.trans (by omega))
  have f0 : fld wd 19 6 = d := fld_eq s19
  have f1 : fld wd 13 6 = a := fld_eq s13
  have f2 : fld wd 7 6 = b := fld_eq s7
  have f3 : fld wd 4 3 = k := fld_eq s4
  have k1 : decodeVOp (wd.toNat / 0x2000000) wd = finish .v wd (.vsmxn (fld wd 19 6) (fld wd 13 6) (fld wd 7 6) (fld wd 4 3)) [(0, 4)] := by rw [h1]; rfl
  rw [f0, f1, f2, f3] at k1
  exact k1.trans (finish_ok hf hv (resv_cons s0 resv_nil))

theorem Word.v_vx {wd : W32} (d : BitVec 6) (a : BitVec 6) (b : BitVec 6) (s : BitVec 6) (k : BitVec 1) (hf : fnAssigned (.vx d a b s k) = true) (hv : valuesOk .v (.vx d a b s k) = true)
    (he : wd.toNat = 0x90000000 + d.toNat * 0x80000 + a.toNat * 0x2000 + b.toNat * 0x80 + s.toNat * 0x2 + k.toNat) : decodeV wd = .ok (.vx d a b s k) := by
  obtain ⟨h1, s19, s13, s7, s1, s0⟩ := Layout.w6_6_6_6_1 (op := 0x48) (x19 := d.toNat) (x13 := a.toNat) (x7 := b.toNat) (x1 := s.toNat) (x0 := k.toNat) d.isLt a.isLt b.isLt s.isLt k.isLt (he.trans (by omega))
  have f0 : fld wd 19 6 = d := fld_eq s19
  have f1 : fld wd 13 6 = a := fld_eq s13
  have f2 : fld wd 7 6 = b := fld_eq s7
  have f3 : fld wd 1 6 = s := fld_eq s1
  have f4 : fld wd 0 1 = k := fld_eq s0
  have k1 : decodeVOp (wd.toNat / 0x2000000) wd = finish .v wd (.vx (fld wd 19 6) (fld wd 13 6) (fld wd 7 6) (fld wd 1 6) (fld wd 0 1)) [] := by rw [h1]; rfl
  rw [f0, f1, f2, f3, f4] at k1
  exact k1.trans (finish_ok hf hv resv_nil)

theorem Word.v_vrng {wd : W32} (d : BitVec 6) (a : BitVec 6) (c : BitVec 6) (k : BitVec 3) (n : BitVec 4) (hf : fnAssigned (.vrng d a c k n) = true) (hv : valuesOk .v (.vrng d a c k n) = true)
    (he : wd.toNat = 0x92000000 + d.toNat * 0x80000 + a.toNat * 0x2000 + c.toNat * 0x80 + k.toNat * 0x10 + n.toNat) : decodeV wd = .ok (.vrng d a c k n) := by
  obtain ⟨h1, s19, s13, s7, s4, s0⟩ := Layout.w6_6_6_3_4 (op := 0x49) (x19 := d.toNat) (x13 := a.toNat) (x7 := c.toNat) (x4 := k.toNat) (x0 := n.toNat) d.isLt a.isLt c.isLt k.isLt n.isLt (he.trans (by omega))
  have f0 : fld wd 19 6 = d := fld_eq s19
  have f1 : fld wd 13 6 = a := fld_eq s13
  have f2 : fld wd 7 6 = c := fld_eq s7
  have f3 : fld wd 4 3 = k := fld_eq s4
  have f4 : fld wd 0 4 = n := fld_eq s0
  have k1 : decodeVOp (wd.toNat / 0x2000000) wd = finish .v wd (.vrng (fld wd 19 6) (fld wd 13 6) (fld wd 7 6) (fld wd 4 3) (fld wd 0 4)) [] := by rw [h1]; rfl
  rw [f0, f1, f2, f3, f4] at k1
  exact k1.trans (finish_ok hf hv resv_nil)

theorem Word.v_vsyb {wd : W32} (n : BitVec 4) (hf : fnAssigned (.vsyb n) = true) (hv : valuesOk .v (.vsyb n) = true)
    (he : wd.toNat = 0xA4000000 + n.toNat) : decodeV wd = .ok (.vsyb n) := by
  obtain ⟨h1, s4, s0⟩ := Layout.w21_4 (op := 0x52) (x4 := 0) (x0 := n.toNat) (by decide) n.isLt (he.trans (by omega))
  have f0 : fld wd 0 4 = n := fld_eq s0
  have k1 : decodeVOp (wd.toNat / 0x2000000) wd = finish .v wd (.vsyb (fld wd 0 4)) [(4, 21)] := by rw [h1]; rfl
  rw [f0] at k1
  exact k1.trans (finish_ok hf hv (resv_cons s4 resv_nil))

theorem Word.v_vsyw {wd : W32} (n : BitVec 4) (hf : fnAssigned (.vsyw n) = true) (hv : valuesOk .v (.vsyw n) = true)
    (he : wd.toNat = 0xA6000000 + n.toNat) : decodeV wd = .ok (.vsyw n) := by
  obtain ⟨h1, s4, s0⟩ := Layout.w21_4 (op := 0x53) (x4 := 0) (x0 := n.toNat) (by decide) n.isLt (he.trans (by omega))
  have f0 : fld wd 0 4 = n := fld_eq s0
  have k1 : decodeVOp (wd.toNat / 0x2000000) wd = finish .v wd (.vsyw (fld wd 0 4)) [(4, 21)] := by rw [h1]; rfl
  rw [f0] at k1
  exact k1.trans (finish_ok hf hv (resv_cons s4 resv_nil))

theorem Word.v_vbr {wd : W32} (d : BitVec 6) (o : BitVec 19) (hf : fnAssigned (.vbr d o) = true) (hv : valuesOk .v (.vbr d o) = true)
    (he : wd.toNat = 0xA8000000 + d.toNat * 0x80000 + o.toNat) : decodeV wd = .ok (.vbr d o) := by
  obtain ⟨h1, s19, s0⟩ := Layout.w6_19 (op := 0x54) (x19 := d.toNat) (x0 := o.toNat) d.isLt o.isLt (he.trans (by omega))
  have f0 : fld wd 19 6 = d := fld_eq s19
  have f1 : fld wd 0 19 = o := fld_eq s0
  have k1 : decodeVOp (wd.toNat / 0x2000000) wd = finish .v wd (.vbr (fld wd 19 6) (fld wd 0 19)) [] := by rw [h1]; rfl
  rw [f0, f1] at k1
  exact k1.trans (finish_ok hf hv resv_nil)

theorem Word.v_vloop {wd : W32} (d : BitVec 6) (o : BitVec 19) (hf : fnAssigned (.vloop d o) = true) (hv : valuesOk .v (.vloop d o) = true)
    (he : wd.toNat = 0xAA000000 + d.toNat * 0x80000 + o.toNat) : decodeV wd = .ok (.vloop d o) := by
  obtain ⟨h1, s19, s0⟩ := Layout.w6_19 (op := 0x55) (x19 := d.toNat) (x0 := o.toNat) d.isLt o.isLt (he.trans (by omega))
  have f0 : fld wd 19 6 = d := fld_eq s19
  have f1 : fld wd 0 19 = o := fld_eq s0
  have k1 : decodeVOp (wd.toNat / 0x2000000) wd = finish .v wd (.vloop (fld wd 19 6) (fld wd 0 19)) [] := by rw [h1]; rfl
  rw [f0, f1] at k1
  exact k1.trans (finish_ok hf hv resv_nil)

theorem Word.v_vring {wd : W32} (r : BitVec 2) (h : BitVec 8) (c : BitVec 8) (hf : fnAssigned (.vring r h c) = true) (hv : valuesOk .v (.vring r h c) = true)
    (he : wd.toNat = 0xAC000000 + r.toNat * 0x80000 + h.toNat * 0x800 + c.toNat) : decodeV wd = .ok (.vring r h c) := by
  obtain ⟨h1, s21, s19, s11, s8, s0⟩ := Layout.w4_2_8_3_8 (op := 0x56) (x21 := 0) (x19 := r.toNat) (x11 := h.toNat) (x8 := 0) (x0 := c.toNat) (by decide) r.isLt h.isLt (by decide) c.isLt (he.trans (by omega))
  have f0 : fld wd 19 2 = r := fld_eq s19
  have f1 : fld wd 11 8 = h := fld_eq s11
  have f2 : fld wd 0 8 = c := fld_eq s0
  have k1 : decodeVOp (wd.toNat / 0x2000000) wd = finish .v wd (.vring (fld wd 19 2) (fld wd 11 8) (fld wd 0 8)) [(8, 3), (21, 4)] := by rw [h1]; rfl
  rw [f0, f1, f2] at k1
  exact k1.trans (finish_ok hf hv (resv_cons s8 (resv_cons s21 resv_nil)))

theorem Word.v_vtoks {wd : W32} (s : BitVec 6) (c : BitVec 4) (hf : fnAssigned (.vtoks s c) = true) (hv : valuesOk .v (.vtoks s c) = true)
    (he : wd.toNat = 0xB0000000 + s.toNat * 0x80000 + c.toNat) : decodeV wd = .ok (.vtoks s c) := by
  obtain ⟨h1, s19, s4, s0⟩ := Layout.w6_15_4 (op := 0x58) (x19 := s.toNat) (x4 := 0) (x0 := c.toNat) s.isLt (by decide) c.isLt (he.trans (by omega))
  have f0 : fld wd 19 6 = s := fld_eq s19
  have f1 : fld wd 0 4 = c := fld_eq s0
  have k1 : decodeVOp (wd.toNat / 0x2000000) wd = finish .v wd (.vtoks (fld wd 19 6) (fld wd 0 4)) [(4, 15)] := by rw [h1]; rfl
  rw [f0, f1] at k1
  exact k1.trans (finish_ok hf hv (resv_cons s4 resv_nil))

theorem Word.v_vtokw {wd : W32} (d : BitVec 6) (c : BitVec 4) (hf : fnAssigned (.vtokw d c) = true) (hv : valuesOk .v (.vtokw d c) = true)
    (he : wd.toNat = 0xB2000000 + d.toNat * 0x80000 + c.toNat) : decodeV wd = .ok (.vtokw d c) := by
  obtain ⟨h1, s19, s4, s0⟩ := Layout.w6_15_4 (op := 0x59) (x19 := d.toNat) (x4 := 0) (x0 := c.toNat) d.isLt (by decide) c.isLt (he.trans (by omega))
  have f0 : fld wd 19 6 = d := fld_eq s19
  have f1 : fld wd 0 4 = c := fld_eq s0
  have k1 : decodeVOp (wd.toNat / 0x2000000) wd = finish .v wd (.vtokw (fld wd 19 6) (fld wd 0 4)) [(4, 15)] := by rw [h1]; rfl
  rw [f0, f1] at k1
  exact k1.trans (finish_ok hf hv (resv_cons s4 resv_nil))

theorem Word.v_vcue {wd : W32} (n : BitVec 20) (hf : fnAssigned (.vcue n) = true) (hv : valuesOk .v (.vcue n) = true)
    (he : wd.toNat = 0xB4000000 + n.toNat) : decodeV wd = .ok (.vcue n) := by
  obtain ⟨h1, s20, s0⟩ := Layout.w5_20 (op := 0x5A) (x20 := 0) (x0 := n.toNat) (by decide) n.isLt (he.trans (by omega))
  have f0 : fld wd 0 20 = n := fld_eq s0
  have k1 : decodeVOp (wd.toNat / 0x2000000) wd = finish .v wd (.vcue (fld wd 0 20)) [(20, 5)] := by rw [h1]; rfl
  rw [f0] at k1
  exact k1.trans (finish_ok hf hv (resv_cons s20 resv_nil))

theorem Word.v_vflags {wd : W32} (d : BitVec 6) (hf : fnAssigned (.vflags d) = true) (hv : valuesOk .v (.vflags d) = true)
    (he : wd.toNat = 0xB6000000 + d.toNat * 0x80000) : decodeV wd = .ok (.vflags d) := by
  obtain ⟨h1, s19, s0⟩ := Layout.w6_19 (op := 0x5B) (x19 := d.toNat) (x0 := 0) d.isLt (by decide) (he.trans (by omega))
  have f0 : fld wd 19 6 = d := fld_eq s19
  have k1 : decodeVOp (wd.toNat / 0x2000000) wd = finish .v wd (.vflags (fld wd 19 6)) [(0, 19)] := by rw [h1]; rfl
  rw [f0] at k1
  exact k1.trans (finish_ok hf hv (resv_cons s0 resv_nil))

theorem Word.v_vfork {wd : W32} (hf : fnAssigned .vfork = true) (hv : valuesOk .v .vfork = true)
    (he : wd.toNat = 0xA0000000) : decodeV wd = .ok .vfork := by
  obtain ⟨h1, s0⟩ := Layout.w25 (op := 0x50) (x0 := 0) (by decide) (he.trans (by omega))
  have k1 : decodeVOp (wd.toNat / 0x2000000) wd = finish .v wd .vfork [(0, 25)] := by rw [h1]; rfl
  exact k1.trans (finish_ok hf hv (resv_cons s0 resv_nil))

theorem Word.v_vjoin {wd : W32} (hf : fnAssigned .vjoin = true) (hv : valuesOk .v .vjoin = true)
    (he : wd.toNat = 0xA2000000) : decodeV wd = .ok .vjoin := by
  obtain ⟨h1, s0⟩ := Layout.w25 (op := 0x51) (x0 := 0) (by decide) (he.trans (by omega))
  have k1 : decodeVOp (wd.toNat / 0x2000000) wd = finish .v wd .vjoin [(0, 25)] := by rw [h1]; rfl
  exact k1.trans (finish_ok hf hv (resv_cons s0 resv_nil))

theorem Word.v_vnop {wd : W32} (hf : fnAssigned .vnop = true) (hv : valuesOk .v .vnop = true)
    (he : wd.toNat = 0xB8000000) : decodeV wd = .ok .vnop := by
  obtain ⟨h1, s0⟩ := Layout.w25 (op := 0x5C) (x0 := 0) (by decide) (he.trans (by omega))
  have k1 : decodeVOp (wd.toNat / 0x2000000) wd = finish .v wd .vnop [(0, 25)] := by rw [h1]; rfl
  exact k1.trans (finish_ok hf hv (resv_cons s0 resv_nil))

end Sys2Proof.Laws
end

