-- ==== Sys2Proof/Laws/PerInstr.lean ====
section
/-! SUPPORT. The round trip of the encoding, per instruction: the word of a well-formed instruction decodes to it. -/

namespace Sys2Proof.Laws

/-- In every stream that has the instruction, its word decodes to it (on a gather core, R80). -/
def RoundTrip.Statement (i : Instr) : Prop := ∀ st, wellFormed st i = true → decode st true (encode i) = .ok i

/-- The parts of well-formedness. -/
theorem RoundTrip.of_wf {i : Instr} {st : Stream} (h : wellFormed st i = true) :
    (streamsOf i).contains st = true ∧ fnAssigned i = true ∧ valuesOk st i = true := by
  simpa only [wellFormed, Bool.and_eq_true, and_assoc] using h

/-- An instruction of one stream. -/
theorem RoundTrip.of_stream {i : Instr} {st st0 : Stream} (hs : streamsOf i = [st0]) (h : wellFormed st i = true) :
    st = st0 ∧ fnAssigned i = true ∧ valuesOk st0 i = true := by
  obtain ⟨hc, hf, hv⟩ := RoundTrip.of_wf h
  rw [hs, List.contains_cons, List.contains_nil, Bool.or_false, beq_iff_eq] at hc
  exact ⟨hc, hf, hc ▸ hv⟩

/-- An event has no word. -/
theorem RoundTrip.no_stream {i : Instr} (hs : streamsOf i = []) : RoundTrip.Statement i := by
  intro st h
  have := (RoundTrip.of_wf h).1
  simp [hs] at this

theorem RoundTrip.add (d : BitVec 5) (a : BitVec 5) (b : BitVec 5) : RoundTrip.Statement (.add d a b) := by
  intro st hwf
  obtain ⟨rfl, hf, hv⟩ := RoundTrip.of_stream (st0 := .s) rfl hwf
  exact Word.s_add d a b hf hv (enc rfl (by omega))

theorem RoundTrip.sub (d : BitVec 5) (a : BitVec 5) (b : BitVec 5) : RoundTrip.Statement (.sub d a b) := by
  intro st hwf
  obtain ⟨rfl, hf, hv⟩ := RoundTrip.of_stream (st0 := .s) rfl hwf
  exact Word.s_sub d a b hf hv (enc rfl (by omega))

theorem RoundTrip.and (d : BitVec 5) (a : BitVec 5) (b : BitVec 5) : RoundTrip.Statement (.and d a b) := by
  intro st hwf
  obtain ⟨rfl, hf, hv⟩ := RoundTrip.of_stream (st0 := .s) rfl hwf
  exact Word.s_and d a b hf hv (enc rfl (by omega))

theorem RoundTrip.or (d : BitVec 5) (a : BitVec 5) (b : BitVec 5) : RoundTrip.Statement (.or d a b) := by
  intro st hwf
  obtain ⟨rfl, hf, hv⟩ := RoundTrip.of_stream (st0 := .s) rfl hwf
  exact Word.s_or d a b hf hv (enc rfl (by omega))

theorem RoundTrip.xor (d : BitVec 5) (a : BitVec 5) (b : BitVec 5) : RoundTrip.Statement (.xor d a b) := by
  intro st hwf
  obtain ⟨rfl, hf, hv⟩ := RoundTrip.of_stream (st0 := .s) rfl hwf
  exact Word.s_xor d a b hf hv (enc rfl (by omega))

theorem RoundTrip.shl (d : BitVec 5) (a : BitVec 5) (b : BitVec 5) : RoundTrip.Statement (.shl d a b) := by
  intro st hwf
  obtain ⟨rfl, hf, hv⟩ := RoundTrip.of_stream (st0 := .s) rfl hwf
  exact Word.s_shl d a b hf hv (enc rfl (by omega))

theorem RoundTrip.shr (d : BitVec 5) (a : BitVec 5) (b : BitVec 5) : RoundTrip.Statement (.shr d a b) := by
  intro st hwf
  obtain ⟨rfl, hf, hv⟩ := RoundTrip.of_stream (st0 := .s) rfl hwf
  exact Word.s_shr d a b hf hv (enc rfl (by omega))

theorem RoundTrip.sra (d : BitVec 5) (a : BitVec 5) (b : BitVec 5) : RoundTrip.Statement (.sra d a b) := by
  intro st hwf
  obtain ⟨rfl, hf, hv⟩ := RoundTrip.of_stream (st0 := .s) rfl hwf
  exact Word.s_sra d a b hf hv (enc rfl (by omega))

theorem RoundTrip.mul (d : BitVec 5) (a : BitVec 5) (b : BitVec 5) : RoundTrip.Statement (.mul d a b) := by
  intro st hwf
  obtain ⟨rfl, hf, hv⟩ := RoundTrip.of_stream (st0 := .s) rfl hwf
  exact Word.s_mul d a b hf hv (enc rfl (by omega))

theorem RoundTrip.mulh (d : BitVec 5) (a : BitVec 5) (b : BitVec 5) : RoundTrip.Statement (.mulh d a b) := by
  intro st hwf
  obtain ⟨rfl, hf, hv⟩ := RoundTrip.of_stream (st0 := .s) rfl hwf
  exact Word.s_mulh d a b hf hv (enc rfl (by omega))

theorem RoundTrip.div (d : BitVec 5) (a : BitVec 5) (b : BitVec 5) : RoundTrip.Statement (.div d a b) := by
  intro st hwf
  obtain ⟨rfl, hf, hv⟩ := RoundTrip.of_stream (st0 := .s) rfl hwf
  exact Word.s_div d a b hf hv (enc rfl (by omega))

theorem RoundTrip.divu (d : BitVec 5) (a : BitVec 5) (b : BitVec 5) : RoundTrip.Statement (.divu d a b) := by
  intro st hwf
  obtain ⟨rfl, hf, hv⟩ := RoundTrip.of_stream (st0 := .s) rfl hwf
  exact Word.s_divu d a b hf hv (enc rfl (by omega))

theorem RoundTrip.rem (d : BitVec 5) (a : BitVec 5) (b : BitVec 5) : RoundTrip.Statement (.rem d a b) := by
  intro st hwf
  obtain ⟨rfl, hf, hv⟩ := RoundTrip.of_stream (st0 := .s) rfl hwf
  exact Word.s_rem d a b hf hv (enc rfl (by omega))

theorem RoundTrip.remu (d : BitVec 5) (a : BitVec 5) (b : BitVec 5) : RoundTrip.Statement (.remu d a b) := by
  intro st hwf
  obtain ⟨rfl, hf, hv⟩ := RoundTrip.of_stream (st0 := .s) rfl hwf
  exact Word.s_remu d a b hf hv (enc rfl (by omega))

theorem RoundTrip.min (d : BitVec 5) (a : BitVec 5) (b : BitVec 5) : RoundTrip.Statement (.min d a b) := by
  intro st hwf
  obtain ⟨rfl, hf, hv⟩ := RoundTrip.of_stream (st0 := .s) rfl hwf
  exact Word.s_min d a b hf hv (enc rfl (by omega))

theorem RoundTrip.max (d : BitVec 5) (a : BitVec 5) (b : BitVec 5) : RoundTrip.Statement (.max d a b) := by
  intro st hwf
  obtain ⟨rfl, hf, hv⟩ := RoundTrip.of_stream (st0 := .s) rfl hwf
  exact Word.s_max d a b hf hv (enc rfl (by omega))

theorem RoundTrip.minu (d : BitVec 5) (a : BitVec 5) (b : BitVec 5) : RoundTrip.Statement (.minu d a b) := by
  intro st hwf
  obtain ⟨rfl, hf, hv⟩ := RoundTrip.of_stream (st0 := .s) rfl hwf
  exact Word.s_minu d a b hf hv (enc rfl (by omega))

theorem RoundTrip.maxu (d : BitVec 5) (a : BitVec 5) (b : BitVec 5) : RoundTrip.Statement (.maxu d a b) := by
  intro st hwf
  obtain ⟨rfl, hf, hv⟩ := RoundTrip.of_stream (st0 := .s) rfl hwf
  exact Word.s_maxu d a b hf hv (enc rfl (by omega))

theorem RoundTrip.slt (d : BitVec 5) (a : BitVec 5) (b : BitVec 5) : RoundTrip.Statement (.slt d a b) := by
  intro st hwf
  obtain ⟨rfl, hf, hv⟩ := RoundTrip.of_stream (st0 := .s) rfl hwf
  exact Word.s_slt d a b hf hv (enc rfl (by omega))

theorem RoundTrip.sltu (d : BitVec 5) (a : BitVec 5) (b : BitVec 5) : RoundTrip.Statement (.sltu d a b) := by
  intro st hwf
  obtain ⟨rfl, hf, hv⟩ := RoundTrip.of_stream (st0 := .s) rfl hwf
  exact Word.s_sltu d a b hf hv (enc rfl (by omega))

theorem RoundTrip.clz (d : BitVec 5) (a : BitVec 5) : RoundTrip.Statement (.clz d a) := by
  intro st hwf
  obtain ⟨rfl, hf, hv⟩ := RoundTrip.of_stream (st0 := .s) rfl hwf
  exact Word.s_clz d a hf hv (enc rfl (by omega))

theorem RoundTrip.popc (d : BitVec 5) (a : BitVec 5) : RoundTrip.Statement (.popc d a) := by
  intro st hwf
  obtain ⟨rfl, hf, hv⟩ := RoundTrip.of_stream (st0 := .s) rfl hwf
  exact Word.s_popc d a hf hv (enc rfl (by omega))

theorem RoundTrip.addi (d : BitVec 5) (a : BitVec 5) (i : BitVec 15) : RoundTrip.Statement (.addi d a i) := by
  intro st hwf
  obtain ⟨rfl, hf, hv⟩ := RoundTrip.of_stream (st0 := .s) rfl hwf
  exact Word.s_addi d a i hf hv (enc rfl (by omega))

theorem RoundTrip.andi (d : BitVec 5) (a : BitVec 5) (i : BitVec 15) : RoundTrip.Statement (.andi d a i) := by
  intro st hwf
  obtain ⟨rfl, hf, hv⟩ := RoundTrip.of_stream (st0 := .s) rfl hwf
  exact Word.s_andi d a i hf hv (enc rfl (by omega))

theorem RoundTrip.ori (d : BitVec 5) (a : BitVec 5) (i : BitVec 15) : RoundTrip.Statement (.ori d a i) := by
  intro st hwf
  obtain ⟨rfl, hf, hv⟩ := RoundTrip.of_stream (st0 := .s) rfl hwf
  exact Word.s_ori d a i hf hv (enc rfl (by omega))

theorem RoundTrip.xori (d : BitVec 5) (a : BitVec 5) (i : BitVec 15) : RoundTrip.Statement (.xori d a i) := by
  intro st hwf
  obtain ⟨rfl, hf, hv⟩ := RoundTrip.of_stream (st0 := .s) rfl hwf
  exact Word.s_xori d a i hf hv (enc rfl (by omega))

theorem RoundTrip.shli (d : BitVec 5) (a : BitVec 5) (i : BitVec 6) : RoundTrip.Statement (.shli d a i) := by
  intro st hwf
  obtain ⟨rfl, hf, hv⟩ := RoundTrip.of_stream (st0 := .s) rfl hwf
  exact Word.s_shli d a i hf hv (enc rfl (by omega))

theorem RoundTrip.shri (d : BitVec 5) (a : BitVec 5) (i : BitVec 6) : RoundTrip.Statement (.shri d a i) := by
  intro st hwf
  obtain ⟨rfl, hf, hv⟩ := RoundTrip.of_stream (st0 := .s) rfl hwf
  exact Word.s_shri d a i hf hv (enc rfl (by omega))

theorem RoundTrip.srai (d : BitVec 5) (a : BitVec 5) (i : BitVec 6) : RoundTrip.Statement (.srai d a i) := by
  intro st hwf
  obtain ⟨rfl, hf, hv⟩ := RoundTrip.of_stream (st0 := .s) rfl hwf
  exact Word.s_srai d a i hf hv (enc rfl (by omega))

theorem RoundTrip.slti (d : BitVec 5) (a : BitVec 5) (i : BitVec 15) : RoundTrip.Statement (.slti d a i) := by
  intro st hwf
  obtain ⟨rfl, hf, hv⟩ := RoundTrip.of_stream (st0 := .s) rfl hwf
  exact Word.s_slti d a i hf hv (enc rfl (by omega))

theorem RoundTrip.sltui (d : BitVec 5) (a : BitVec 5) (i : BitVec 15) : RoundTrip.Statement (.sltui d a i) := by
  intro st hwf
  obtain ⟨rfl, hf, hv⟩ := RoundTrip.of_stream (st0 := .s) rfl hwf
  exact Word.s_sltui d a i hf hv (enc rfl (by omega))

theorem RoundTrip.lih (d : BitVec 5) (i : BitVec 20) : RoundTrip.Statement (.lih d i) := by
  intro st hwf
  obtain ⟨rfl, hf, hv⟩ := RoundTrip.of_stream (st0 := .s) rfl hwf
  exact Word.s_lih d i hf hv (enc rfl (by omega))

theorem RoundTrip.addpc (d : BitVec 5) (i : BitVec 20) : RoundTrip.Statement (.addpc d i) := by
  intro st hwf
  obtain ⟨rfl, hf, hv⟩ := RoundTrip.of_stream (st0 := .s) rfl hwf
  exact Word.s_addpc d i hf hv (enc rfl (by omega))

theorem RoundTrip.beq (a : BitVec 5) (b : BitVec 5) (o : BitVec 15) : RoundTrip.Statement (.beq a b o) := by
  intro st hwf
  obtain ⟨rfl, hf, hv⟩ := RoundTrip.of_stream (st0 := .s) rfl hwf
  exact Word.s_beq a b o hf hv (enc rfl (by omega))

theorem RoundTrip.bne (a : BitVec 5) (b : BitVec 5) (o : BitVec 15) : RoundTrip.Statement (.bne a b o) := by
  intro st hwf
  obtain ⟨rfl, hf, hv⟩ := RoundTrip.of_stream (st0 := .s) rfl hwf
  exact Word.s_bne a b o hf hv (enc rfl (by omega))

theorem RoundTrip.blt (a : BitVec 5) (b : BitVec 5) (o : BitVec 15) : RoundTrip.Statement (.blt a b o) := by
  intro st hwf
  obtain ⟨rfl, hf, hv⟩ := RoundTrip.of_stream (st0 := .s) rfl hwf
  exact Word.s_blt a b o hf hv (enc rfl (by omega))

theorem RoundTrip.bge (a : BitVec 5) (b : BitVec 5) (o : BitVec 15) : RoundTrip.Statement (.bge a b o) := by
  intro st hwf
  obtain ⟨rfl, hf, hv⟩ := RoundTrip.of_stream (st0 := .s) rfl hwf
  exact Word.s_bge a b o hf hv (enc rfl (by omega))

theorem RoundTrip.bltu (a : BitVec 5) (b : BitVec 5) (o : BitVec 15) : RoundTrip.Statement (.bltu a b o) := by
  intro st hwf
  obtain ⟨rfl, hf, hv⟩ := RoundTrip.of_stream (st0 := .s) rfl hwf
  exact Word.s_bltu a b o hf hv (enc rfl (by omega))

theorem RoundTrip.bgeu (a : BitVec 5) (b : BitVec 5) (o : BitVec 15) : RoundTrip.Statement (.bgeu a b o) := by
  intro st hwf
  obtain ⟨rfl, hf, hv⟩ := RoundTrip.of_stream (st0 := .s) rfl hwf
  exact Word.s_bgeu a b o hf hv (enc rfl (by omega))

theorem RoundTrip.jal (d : BitVec 5) (o : BitVec 20) : RoundTrip.Statement (.jal d o) := by
  intro st hwf
  obtain ⟨rfl, hf, hv⟩ := RoundTrip.of_stream (st0 := .s) rfl hwf
  exact Word.s_jal d o hf hv (enc rfl (by omega))

theorem RoundTrip.jalr (d : BitVec 5) (a : BitVec 5) (i : BitVec 15) : RoundTrip.Statement (.jalr d a i) := by
  intro st hwf
  obtain ⟨rfl, hf, hv⟩ := RoundTrip.of_stream (st0 := .s) rfl hwf
  exact Word.s_jalr d a i hf hv (enc rfl (by omega))

theorem RoundTrip.loop (a : BitVec 5) (o : BitVec 15) : RoundTrip.Statement (.loop a o) := by
  intro st hwf
  obtain ⟨rfl, hf, hv⟩ := RoundTrip.of_stream (st0 := .s) rfl hwf
  exact Word.s_loop a o hf hv (enc rfl (by omega))

theorem RoundTrip.ld (d : BitVec 5) (a : BitVec 5) (z : BitVec 2) (o : BitVec 13) : RoundTrip.Statement (.ld d a z o) := by
  intro st hwf
  obtain ⟨rfl, hf, hv⟩ := RoundTrip.of_stream (st0 := .s) rfl hwf
  exact Word.s_ld d a z o hf hv (enc rfl (by omega))

theorem RoundTrip.ldsx (d : BitVec 5) (a : BitVec 5) (z : BitVec 2) (o : BitVec 13) : RoundTrip.Statement (.ldsx d a z o) := by
  intro st hwf
  obtain ⟨rfl, hf, hv⟩ := RoundTrip.of_stream (st0 := .s) rfl hwf
  exact Word.s_ldsx d a z o hf hv (enc rfl (by omega))

theorem RoundTrip.st (s : BitVec 5) (a : BitVec 5) (z : BitVec 2) (o : BitVec 13) : RoundTrip.Statement (.st s a z o) := by
  intro st hwf
  obtain ⟨rfl, hf, hv⟩ := RoundTrip.of_stream (st0 := .s) rfl hwf
  exact Word.s_st s a z o hf hv (enc rfl (by omega))

theorem RoundTrip.ldc (d : BitVec 5) (a : BitVec 5) (z : BitVec 2) (o : BitVec 13) : RoundTrip.Statement (.ldc d a z o) := by
  intro st hwf
  obtain ⟨rfl, hf, hv⟩ := RoundTrip.of_stream (st0 := .s) rfl hwf
  exact Word.s_ldc d a z o hf hv (enc rfl (by omega))

theorem RoundTrip.fence (s : BitVec 3) : RoundTrip.Statement (.fence s) := by
  intro st hwf
  obtain ⟨rfl, hf, hv⟩ := RoundTrip.of_stream (st0 := .s) rfl hwf
  exact Word.s_fence s hf hv (enc rfl (by omega))

theorem RoundTrip.amoswap (d : BitVec 5) (a : BitVec 5) (b : BitVec 5) (z : BitVec 1) : RoundTrip.Statement (.amoswap d a b z) := by
  intro st hwf
  obtain ⟨rfl, hf, hv⟩ := RoundTrip.of_stream (st0 := .s) rfl hwf
  exact Word.s_amoswap d a b z hf hv (enc rfl (by omega))

theorem RoundTrip.amoadd (d : BitVec 5) (a : BitVec 5) (b : BitVec 5) (z : BitVec 1) : RoundTrip.Statement (.amoadd d a b z) := by
  intro st hwf
  obtain ⟨rfl, hf, hv⟩ := RoundTrip.of_stream (st0 := .s) rfl hwf
  exact Word.s_amoadd d a b z hf hv (enc rfl (by omega))

theorem RoundTrip.amoand (d : BitVec 5) (a : BitVec 5) (b : BitVec 5) (z : BitVec 1) : RoundTrip.Statement (.amoand d a b z) := by
  intro st hwf
  obtain ⟨rfl, hf, hv⟩ := RoundTrip.of_stream (st0 := .s) rfl hwf
  exact Word.s_amoand d a b z hf hv (enc rfl (by omega))

theorem RoundTrip.amoor (d : BitVec 5) (a : BitVec 5) (b : BitVec 5) (z : BitVec 1) : RoundTrip.Statement (.amoor d a b z) := by
  intro st hwf
  obtain ⟨rfl, hf, hv⟩ := RoundTrip.of_stream (st0 := .s) rfl hwf
  exact Word.s_amoor d a b z hf hv (enc rfl (by omega))

theorem RoundTrip.amoxor (d : BitVec 5) (a : BitVec 5) (b : BitVec 5) (z : BitVec 1) : RoundTrip.Statement (.amoxor d a b z) := by
  intro st hwf
  obtain ⟨rfl, hf, hv⟩ := RoundTrip.of_stream (st0 := .s) rfl hwf
  exact Word.s_amoxor d a b z hf hv (enc rfl (by omega))

theorem RoundTrip.amomin (d : BitVec 5) (a : BitVec 5) (b : BitVec 5) (z : BitVec 1) : RoundTrip.Statement (.amomin d a b z) := by
  intro st hwf
  obtain ⟨rfl, hf, hv⟩ := RoundTrip.of_stream (st0 := .s) rfl hwf
  exact Word.s_amomin d a b z hf hv (enc rfl (by omega))

theorem RoundTrip.amomax (d : BitVec 5) (a : BitVec 5) (b : BitVec 5) (z : BitVec 1) : RoundTrip.Statement (.amomax d a b z) := by
  intro st hwf
  obtain ⟨rfl, hf, hv⟩ := RoundTrip.of_stream (st0 := .s) rfl hwf
  exact Word.s_amomax d a b z hf hv (enc rfl (by omega))

theorem RoundTrip.amominu (d : BitVec 5) (a : BitVec 5) (b : BitVec 5) (z : BitVec 1) : RoundTrip.Statement (.amominu d a b z) := by
  intro st hwf
  obtain ⟨rfl, hf, hv⟩ := RoundTrip.of_stream (st0 := .s) rfl hwf
  exact Word.s_amominu d a b z hf hv (enc rfl (by omega))

theorem RoundTrip.amomaxu (d : BitVec 5) (a : BitVec 5) (b : BitVec 5) (z : BitVec 1) : RoundTrip.Statement (.amomaxu d a b z) := by
  intro st hwf
  obtain ⟨rfl, hf, hv⟩ := RoundTrip.of_stream (st0 := .s) rfl hwf
  exact Word.s_amomaxu d a b z hf hv (enc rfl (by omega))

theorem RoundTrip.cas (d : BitVec 5) (a : BitVec 5) (b : BitVec 5) (z : BitVec 1) : RoundTrip.Statement (.cas d a b z) := by
  intro st hwf
  obtain ⟨rfl, hf, hv⟩ := RoundTrip.of_stream (st0 := .s) rfl hwf
  exact Word.s_cas d a b z hf hv (enc rfl (by omega))

theorem RoundTrip.spt (d : BitVec 5) (a : BitVec 5) : RoundTrip.Statement (.spt d a) := by
  intro st hwf
  obtain ⟨rfl, hf, hv⟩ := RoundTrip.of_stream (st0 := .s) rfl hwf
  exact Word.s_spt d a hf hv (enc rfl (by omega))

theorem RoundTrip.spcGlobal (d : BitVec 5) (a : BitVec 5) : RoundTrip.Statement (.spcGlobal d a) := by
  intro st hwf
  obtain ⟨rfl, hf, hv⟩ := RoundTrip.of_stream (st0 := .s) rfl hwf
  exact Word.s_spcGlobal d a hf hv (enc rfl (by omega))

theorem RoundTrip.spcPrivate (d : BitVec 5) (a : BitVec 5) : RoundTrip.Statement (.spcPrivate d a) := by
  intro st hwf
  obtain ⟨rfl, hf, hv⟩ := RoundTrip.of_stream (st0 := .s) rfl hwf
  exact Word.s_spcPrivate d a hf hv (enc rfl (by omega))

theorem RoundTrip.spcTile (d : BitVec 5) (a : BitVec 5) (b : BitVec 5) : RoundTrip.Statement (.spcTile d a b) := by
  intro st hwf
  obtain ⟨rfl, hf, hv⟩ := RoundTrip.of_stream (st0 := .s) rfl hwf
  exact Word.s_spcTile d a b hf hv (enc rfl (by omega))

theorem RoundTrip.spcShared (d : BitVec 5) (a : BitVec 5) (b : BitVec 5) : RoundTrip.Statement (.spcShared d a b) := by
  intro st hwf
  obtain ⟨rfl, hf, hv⟩ := RoundTrip.of_stream (st0 := .s) rfl hwf
  exact Word.s_spcShared d a b hf hv (enc rfl (by omega))

theorem RoundTrip.spcOffset (d : BitVec 5) (a : BitVec 5) : RoundTrip.Statement (.spcOffset d a) := by
  intro st hwf
  obtain ⟨rfl, hf, hv⟩ := RoundTrip.of_stream (st0 := .s) rfl hwf
  exact Word.s_spcOffset d a hf hv (enc rfl (by omega))

theorem RoundTrip.toks (s : BitVec 5) (c : BitVec 4) (i : BitVec 8) : RoundTrip.Statement (.toks s c i) := by
  intro st hwf
  obtain ⟨rfl, hf, hv⟩ := RoundTrip.of_stream (st0 := .s) rfl hwf
  exact Word.s_toks s c i hf hv (enc rfl (by omega))

theorem RoundTrip.toksRemote (s : BitVec 5) (t : BitVec 8) (c : BitVec 3) (i : BitVec 8) : RoundTrip.Statement (.toksRemote s t c i) := by
  intro st hwf
  obtain ⟨rfl, hf, hv⟩ := RoundTrip.of_stream (st0 := .s) rfl hwf
  exact Word.s_toksRemote s t c i hf hv (enc rfl (by omega))

theorem RoundTrip.tokw (d : BitVec 5) (c : BitVec 4) : RoundTrip.Statement (.tokw d c) := by
  intro st hwf
  obtain ⟨rfl, hf, hv⟩ := RoundTrip.of_stream (st0 := .s) rfl hwf
  exact Word.s_tokw d c hf hv (enc rfl (by omega))

theorem RoundTrip.cue (n : BitVec 20) : RoundTrip.Statement (.cue n) := by
  intro st hwf
  obtain ⟨rfl, hf, hv⟩ := RoundTrip.of_stream (st0 := .s) rfl hwf
  exact Word.s_cue n hf hv (enc rfl (by omega))

theorem RoundTrip.gset (d : BitVec 5) (s : BitVec 4) (v : BitVec 8) : RoundTrip.Statement (.gset d s v) := by
  intro st hwf
  obtain ⟨rfl, hf, hv⟩ := RoundTrip.of_stream (st0 := .s) rfl hwf
  exact Word.s_gset d s v hf hv (enc rfl (by omega))

theorem RoundTrip.wfe (d : BitVec 5) (m : BitVec 8) : RoundTrip.Statement (.wfe d m) := by
  intro st hwf
  obtain ⟨rfl, hf, hv⟩ := RoundTrip.of_stream (st0 := .s) rfl hwf
  exact Word.s_wfe d m hf hv (enc rfl (by omega))

theorem RoundTrip.sev (d : BitVec 5) (m : BitVec 8) : RoundTrip.Statement (.sev d m) := by
  intro st hwf
  obtain ⟨rfl, hf, hv⟩ := RoundTrip.of_stream (st0 := .s) rfl hwf
  exact Word.s_sev d m hf hv (enc rfl (by omega))

theorem RoundTrip.cut (t : BitVec 3) : RoundTrip.Statement (.cut t) := by
  intro st hwf
  obtain ⟨rfl, hf, hv⟩ := RoundTrip.of_stream (st0 := .s) rfl hwf
  exact Word.s_cut t hf hv (enc rfl (by omega))

theorem RoundTrip.cutComplete (t : BitVec 3) : RoundTrip.Statement (.cutComplete t) := RoundTrip.no_stream rfl

theorem RoundTrip.domr (d : BitVec 5) (l : BitVec 3) (w : BitVec 8) : RoundTrip.Statement (.domr d l w) := by
  intro st hwf
  obtain ⟨rfl, hf, hv⟩ := RoundTrip.of_stream (st0 := .s) rfl hwf
  exact Word.s_domr d l w hf hv (enc rfl (by omega))

theorem RoundTrip.seedrd (d : BitVec 5) (h : BitVec 8) : RoundTrip.Statement (.seedrd d h) := by
  intro st hwf
  obtain ⟨rfl, hf, hv⟩ := RoundTrip.of_stream (st0 := .s) rfl hwf
  exact Word.s_seedrd d h hf hv (enc rfl (by omega))

theorem RoundTrip.rngk (n : BitVec 4) (a : BitVec 5) (b : BitVec 5) : RoundTrip.Statement (.rngk n a b) := by
  intro st hwf
  obtain ⟨rfl, hf, hv⟩ := RoundTrip.of_stream (st0 := .s) rfl hwf
  exact Word.s_rngk n a b hf hv (enc rfl (by omega))

theorem RoundTrip.rnga (n : BitVec 4) (a : BitVec 5) (b : BitVec 5) : RoundTrip.Statement (.rnga n a b) := by
  intro st hwf
  obtain ⟨rfl, hf, hv⟩ := RoundTrip.of_stream (st0 := .s) rfl hwf
  exact Word.s_rnga n a b hf hv (enc rfl (by omega))

theorem RoundTrip.folio (a : BitVec 5) (b : BitVec 5) (s : BitVec 6) : RoundTrip.Statement (.folio a b s) := by
  intro st hwf
  obtain ⟨rfl, hf, hv⟩ := RoundTrip.of_stream (st0 := .s) rfl hwf
  exact Word.s_folio a b s hf hv (enc rfl (by omega))

theorem RoundTrip.funbind (s : BitVec 6) : RoundTrip.Statement (.funbind s) := by
  intro st hwf
  obtain ⟨rfl, hf, hv⟩ := RoundTrip.of_stream (st0 := .s) rfl hwf
  exact Word.s_funbind s hf hv (enc rfl (by omega))

theorem RoundTrip.talloc (d : BitVec 5) (a : BitVec 5) (b : BitVec 5) (h : BitVec 8) : RoundTrip.Statement (.talloc d a b h) := by
  intro st hwf
  obtain ⟨rfl, hf, hv⟩ := RoundTrip.of_stream (st0 := .s) rfl hwf
  exact Word.s_talloc d a b h hf hv (enc rfl (by omega))

theorem RoundTrip.tfree (h : BitVec 8) : RoundTrip.Statement (.tfree h) := by
  intro st hwf
  obtain ⟨rfl, hf, hv⟩ := RoundTrip.of_stream (st0 := .s) rfl hwf
  exact Word.s_tfree h hf hv (enc rfl (by omega))

theorem RoundTrip.tinfo (d : BitVec 5) (h : BitVec 8) (i : BitVec 8) : RoundTrip.Statement (.tinfo d h i) := by
  intro st hwf
  obtain ⟨rfl, hf, hv⟩ := RoundTrip.of_stream (st0 := .s) rfl hwf
  exact Word.s_tinfo d h i hf hv (enc rfl (by omega))

theorem RoundTrip.tring (r : BitVec 5) (h : BitVec 8) (c : BitVec 8) : RoundTrip.Statement (.tring r h c) := by
  intro st hwf
  obtain ⟨rfl, hf, hv⟩ := RoundTrip.of_stream (st0 := .s) rfl hwf
  exact Word.s_tring r h c hf hv (enc rfl (by omega))

theorem RoundTrip.trap (n : BitVec 8) : RoundTrip.Statement (.trap n) := by
  intro st hwf
  obtain ⟨rfl, hf, hv⟩ := RoundTrip.of_stream (st0 := .s) rfl hwf
  exact Word.s_trap n hf hv (enc rfl (by omega))

theorem RoundTrip.csrr (d : BitVec 5) (c : BitVec 12) : RoundTrip.Statement (.csrr d c) := by
  intro st hwf
  obtain ⟨rfl, hf, hv⟩ := RoundTrip.of_stream (st0 := .s) rfl hwf
  exact Word.s_csrr d c hf hv (enc rfl (by omega))

theorem RoundTrip.csrw (s : BitVec 5) (c : BitVec 12) : RoundTrip.Statement (.csrw s c) := by
  intro st hwf
  obtain ⟨rfl, hf, hv⟩ := RoundTrip.of_stream (st0 := .s) rfl hwf
  exact Word.s_csrw s c hf hv (enc rfl (by omega))

theorem RoundTrip.csrs (s : BitVec 5) (c : BitVec 12) (i : BitVec 8) : RoundTrip.Statement (.csrs s c i) := by
  intro st hwf
  obtain ⟨rfl, hf, hv⟩ := RoundTrip.of_stream (st0 := .s) rfl hwf
  exact Word.s_csrs s c i hf hv (enc rfl (by omega))

theorem RoundTrip.pfx (g : BitVec 4) (p : BitVec 1) (e : BitVec 4) (m : BitVec 4) (f : BitVec 12) : RoundTrip.Statement (.pfx g p e m f) := by
  intro st hwf
  obtain ⟨hs, hf, hv⟩ := RoundTrip.of_wf hwf
  cases st with
  | s => exact Word.s_pfx g p e m f hf hv (enc rfl (by omega))
  | v => exact Word.v_pfx g p e m f hf hv (enc rfl (by omega))
  | m => exact Word.m_pfx g p e m f hf hv (enc rfl (by omega))
  | c => exact Word.c_pfx g p e m f hf hv (enc rfl (by omega))
  | f => exact Word.f_pfx g p e m f hf hv (enc rfl (by omega))
  | e => exact absurd (show false = true from hs) Bool.false_ne_true

theorem RoundTrip.vadd (d : BitVec 6) (a : BitVec 6) (b : BitVec 6) (k : BitVec 3) (f : BitVec 4) : RoundTrip.Statement (.vadd d a b k f) := by
  intro st hwf
  obtain ⟨rfl, hf, hv⟩ := RoundTrip.of_stream (st0 := .v) rfl hwf
  exact Word.v_vadd d a b k f hf hv (enc rfl (by omega))

theorem RoundTrip.vsub (d : BitVec 6) (a : BitVec 6) (b : BitVec 6) (k : BitVec 3) (f : BitVec 4) : RoundTrip.Statement (.vsub d a b k f) := by
  intro st hwf
  obtain ⟨rfl, hf, hv⟩ := RoundTrip.of_stream (st0 := .v) rfl hwf
  exact Word.v_vsub d a b k f hf hv (enc rfl (by omega))

theorem RoundTrip.vmul (d : BitVec 6) (a : BitVec 6) (b : BitVec 6) (k : BitVec 3) (f : BitVec 4) : RoundTrip.Statement (.vmul d a b k f) := by
  intro st hwf
  obtain ⟨rfl, hf, hv⟩ := RoundTrip.of_stream (st0 := .v) rfl hwf
  exact Word.v_vmul d a b k f hf hv (enc rfl (by omega))

theorem RoundTrip.vfma (d : BitVec 6) (a : BitVec 6) (b : BitVec 6) (c : BitVec 6) (n : BitVec 1) : RoundTrip.Statement (.vfma d a b c n) := by
  intro st hwf
  obtain ⟨rfl, hf, hv⟩ := RoundTrip.of_stream (st0 := .v) rfl hwf
  exact Word.v_vfma d a b c n hf hv (enc rfl (by omega))

theorem RoundTrip.vfms (d : BitVec 6) (a : BitVec 6) (b : BitVec 6) (c : BitVec 6) (n : BitVec 1) : RoundTrip.Statement (.vfms d a b c n) := by
  intro st hwf
  obtain ⟨rfl, hf, hv⟩ := RoundTrip.of_stream (st0 := .v) rfl hwf
  exact Word.v_vfms d a b c n hf hv (enc rfl (by omega))

theorem RoundTrip.vmin (d : BitVec 6) (a : BitVec 6) (b : BitVec 6) (k : BitVec 3) (f : BitVec 4) : RoundTrip.Statement (.vmin d a b k f) := by
  intro st hwf
  obtain ⟨rfl, hf, hv⟩ := RoundTrip.of_stream (st0 := .v) rfl hwf
  exact Word.v_vmin d a b k f hf hv (enc rfl (by omega))

theorem RoundTrip.vmax (d : BitVec 6) (a : BitVec 6) (b : BitVec 6) (k : BitVec 3) (f : BitVec 4) : RoundTrip.Statement (.vmax d a b k f) := by
  intro st hwf
  obtain ⟨rfl, hf, hv⟩ := RoundTrip.of_stream (st0 := .v) rfl hwf
  exact Word.v_vmax d a b k f hf hv (enc rfl (by omega))

theorem RoundTrip.vabs (d : BitVec 6) (a : BitVec 6) (k : BitVec 3) (f : BitVec 4) : RoundTrip.Statement (.vabs d a k f) := by
  intro st hwf
  obtain ⟨rfl, hf, hv⟩ := RoundTrip.of_stream (st0 := .v) rfl hwf
  exact Word.v_vabs d a k f hf hv (enc rfl (by omega))

theorem RoundTrip.vneg (d : BitVec 6) (a : BitVec 6) (k : BitVec 3) (f : BitVec 4) : RoundTrip.Statement (.vneg d a k f) := by
  intro st hwf
  obtain ⟨rfl, hf, hv⟩ := RoundTrip.of_stream (st0 := .v) rfl hwf
  exact Word.v_vneg d a k f hf hv (enc rfl (by omega))

theorem RoundTrip.vcmp (d : BitVec 6) (a : BitVec 6) (b : BitVec 6) (k : BitVec 3) (f : BitVec 4) : RoundTrip.Statement (.vcmp d a b k f) := by
  intro st hwf
  obtain ⟨rfl, hf, hv⟩ := RoundTrip.of_stream (st0 := .v) rfl hwf
  exact Word.v_vcmp d a b k f hf hv (enc rfl (by omega))

theorem RoundTrip.vsel (d : BitVec 6) (a : BitVec 6) (b : BitVec 6) (k : BitVec 3) : RoundTrip.Statement (.vsel d a b k) := by
  intro st hwf
  obtain ⟨rfl, hf, hv⟩ := RoundTrip.of_stream (st0 := .v) rfl hwf
  exact Word.v_vsel d a b k hf hv (enc rfl (by omega))

theorem RoundTrip.vcvt (d : BitVec 6) (a : BitVec 6) (k : BitVec 3) (f : BitVec 4) : RoundTrip.Statement (.vcvt d a k f) := by
  intro st hwf
  obtain ⟨rfl, hf, hv⟩ := RoundTrip.of_stream (st0 := .v) rfl hwf
  exact Word.v_vcvt d a k f hf hv (enc rfl (by omega))

theorem RoundTrip.vrnd (d : BitVec 6) (a : BitVec 6) (k : BitVec 3) : RoundTrip.Statement (.vrnd d a k) := by
  intro st hwf
  obtain ⟨rfl, hf, hv⟩ := RoundTrip.of_stream (st0 := .v) rfl hwf
  exact Word.v_vrnd d a k hf hv (enc rfl (by omega))

theorem RoundTrip.viadd (d : BitVec 6) (a : BitVec 6) (b : BitVec 6) (k : BitVec 3) (f : BitVec 4) : RoundTrip.Statement (.viadd d a b k f) := by
  intro st hwf
  obtain ⟨rfl, hf, hv⟩ := RoundTrip.of_stream (st0 := .v) rfl hwf
  exact Word.v_viadd d a b k f hf hv (enc rfl (by omega))

theorem RoundTrip.visub (d : BitVec 6) (a : BitVec 6) (b : BitVec 6) (k : BitVec 3) (f : BitVec 4) : RoundTrip.Statement (.visub d a b k f) := by
  intro st hwf
  obtain ⟨rfl, hf, hv⟩ := RoundTrip.of_stream (st0 := .v) rfl hwf
  exact Word.v_visub d a b k f hf hv (enc rfl (by omega))

theorem RoundTrip.vimul (d : BitVec 6) (a : BitVec 6) (b : BitVec 6) (k : BitVec 3) (f : BitVec 4) : RoundTrip.Statement (.vimul d a b k f) := by
  intro st hwf
  obtain ⟨rfl, hf, hv⟩ := RoundTrip.of_stream (st0 := .v) rfl hwf
  exact Word.v_vimul d a b k f hf hv (enc rfl (by omega))

theorem RoundTrip.vand (d : BitVec 6) (a : BitVec 6) (b : BitVec 6) (k : BitVec 3) : RoundTrip.Statement (.vand d a b k) := by
  intro st hwf
  obtain ⟨rfl, hf, hv⟩ := RoundTrip.of_stream (st0 := .v) rfl hwf
  exact Word.v_vand d a b k hf hv (enc rfl (by omega))

theorem RoundTrip.vor (d : BitVec 6) (a : BitVec 6) (b : BitVec 6) (k : BitVec 3) : RoundTrip.Statement (.vor d a b k) := by
  intro st hwf
  obtain ⟨rfl, hf, hv⟩ := RoundTrip.of_stream (st0 := .v) rfl hwf
  exact Word.v_vor d a b k hf hv (enc rfl (by omega))

theorem RoundTrip.vxor (d : BitVec 6) (a : BitVec 6) (b : BitVec 6) (k : BitVec 3) : RoundTrip.Statement (.vxor d a b k) := by
  intro st hwf
  obtain ⟨rfl, hf, hv⟩ := RoundTrip.of_stream (st0 := .v) rfl hwf
  exact Word.v_vxor d a b k hf hv (enc rfl (by omega))

theorem RoundTrip.vshl (d : BitVec 6) (a : BitVec 6) (b : BitVec 6) (k : BitVec 3) : RoundTrip.Statement (.vshl d a b k) := by
  intro st hwf
  obtain ⟨rfl, hf, hv⟩ := RoundTrip.of_stream (st0 := .v) rfl hwf
  exact Word.v_vshl d a b k hf hv (enc rfl (by omega))

theorem RoundTrip.vshr (d : BitVec 6) (a : BitVec 6) (b : BitVec 6) (k : BitVec 3) : RoundTrip.Statement (.vshr d a b k) := by
  intro st hwf
  obtain ⟨rfl, hf, hv⟩ := RoundTrip.of_stream (st0 := .v) rfl hwf
  exact Word.v_vshr d a b k hf hv (enc rfl (by omega))

theorem RoundTrip.vsra (d : BitVec 6) (a : BitVec 6) (b : BitVec 6) (k : BitVec 3) : RoundTrip.Statement (.vsra d a b k) := by
  intro st hwf
  obtain ⟨rfl, hf, hv⟩ := RoundTrip.of_stream (st0 := .v) rfl hwf
  exact Word.v_vsra d a b k hf hv (enc rfl (by omega))

theorem RoundTrip.vimin (d : BitVec 6) (a : BitVec 6) (b : BitVec 6) (k : BitVec 3) (f : BitVec 4) : RoundTrip.Statement (.vimin d a b k f) := by
  intro st hwf
  obtain ⟨rfl, hf, hv⟩ := RoundTrip.of_stream (st0 := .v) rfl hwf
  exact Word.v_vimin d a b k f hf hv (enc rfl (by omega))

theorem RoundTrip.vimax (d : BitVec 6) (a : BitVec 6) (b : BitVec 6) (k : BitVec 3) (f : BitVec 4) : RoundTrip.Statement (.vimax d a b k f) := by
  intro st hwf
  obtain ⟨rfl, hf, hv⟩ := RoundTrip.of_stream (st0 := .v) rfl hwf
  exact Word.v_vimax d a b k f hf hv (enc rfl (by omega))

theorem RoundTrip.vicmp (d : BitVec 6) (a : BitVec 6) (b : BitVec 6) (k : BitVec 3) (f : BitVec 4) : RoundTrip.Statement (.vicmp d a b k f) := by
  intro st hwf
  obtain ⟨rfl, hf, hv⟩ := RoundTrip.of_stream (st0 := .v) rfl hwf
  exact Word.v_vicmp d a b k f hf hv (enc rfl (by omega))

theorem RoundTrip.vbmul (d : BitVec 6) (a : BitVec 6) (b : BitVec 6) (x : BitVec 3) (y : BitVec 3) (s : BitVec 1) : RoundTrip.Statement (.vbmul d a b x y s) := by
  intro st hwf
  obtain ⟨rfl, hf, hv⟩ := RoundTrip.of_stream (st0 := .v) rfl hwf
  exact Word.v_vbmul d a b x y s hf hv (enc rfl (by omega))

theorem RoundTrip.vbdot (d : BitVec 6) (a : BitVec 6) (b : BitVec 6) (x : BitVec 3) (y : BitVec 3) (s : BitVec 1) : RoundTrip.Statement (.vbdot d a b x y s) := by
  intro st hwf
  obtain ⟨rfl, hf, hv⟩ := RoundTrip.of_stream (st0 := .v) rfl hwf
  exact Word.v_vbdot d a b x y s hf hv (enc rfl (by omega))

theorem RoundTrip.vbmac (d : BitVec 6) (a : BitVec 6) (b : BitVec 6) (x : BitVec 3) (y : BitVec 3) (s : BitVec 1) : RoundTrip.Statement (.vbmac d a b x y s) := by
  intro st hwf
  obtain ⟨rfl, hf, hv⟩ := RoundTrip.of_stream (st0 := .v) rfl hwf
  exact Word.v_vbmac d a b x y s hf hv (enc rfl (by omega))

theorem RoundTrip.vld (d : BitVec 6) (h : BitVec 8) (o : BitVec 11) : RoundTrip.Statement (.vld d h o) := by
  intro st hwf
  obtain ⟨rfl, hf, hv⟩ := RoundTrip.of_stream (st0 := .v) rfl hwf
  exact Word.v_vld d h o hf hv (enc rfl (by omega))

theorem RoundTrip.vst (d : BitVec 6) (h : BitVec 8) (o : BitVec 11) : RoundTrip.Statement (.vst d h o) := by
  intro st hwf
  obtain ⟨rfl, hf, hv⟩ := RoundTrip.of_stream (st0 := .v) rfl hwf
  exact Word.v_vst d h o hf hv (enc rfl (by omega))

theorem RoundTrip.vldx (d : BitVec 6) (a : BitVec 6) (b : BitVec 6) (k : BitVec 3) : RoundTrip.Statement (.vldx d a b k) := by
  intro st hwf
  obtain ⟨rfl, hf, hv⟩ := RoundTrip.of_stream (st0 := .v) rfl hwf
  exact Word.v_vldx d a b k hf hv (enc rfl (by omega))

theorem RoundTrip.vstx (d : BitVec 6) (a : BitVec 6) (b : BitVec 6) (k : BitVec 3) : RoundTrip.Statement (.vstx d a b k) := by
  intro st hwf
  obtain ⟨rfl, hf, hv⟩ := RoundTrip.of_stream (st0 := .v) rfl hwf
  exact Word.v_vstx d a b k hf hv (enc rfl (by omega))

theorem RoundTrip.vbcast (d : BitVec 6) (a : BitVec 6) (l : BitVec 8) (k : BitVec 3) : RoundTrip.Statement (.vbcast d a l k) := by
  intro st hwf
  obtain ⟨rfl, hf, hv⟩ := RoundTrip.of_stream (st0 := .v) rfl hwf
  exact Word.v_vbcast d a l k hf hv (enc rfl (by omega))

theorem RoundTrip.vmov (d : BitVec 6) (a : BitVec 6) (k : BitVec 3) : RoundTrip.Statement (.vmov d a k) := by
  intro st hwf
  obtain ⟨rfl, hf, hv⟩ := RoundTrip.of_stream (st0 := .v) rfl hwf
  exact Word.v_vmov d a k hf hv (enc rfl (by omega))

theorem RoundTrip.vperm (d : BitVec 6) (a : BitVec 6) (b : BitVec 6) (k : BitVec 3) : RoundTrip.Statement (.vperm d a b k) := by
  intro st hwf
  obtain ⟨rfl, hf, hv⟩ := RoundTrip.of_stream (st0 := .v) rfl hwf
  exact Word.v_vperm d a b k hf hv (enc rfl (by omega))

theorem RoundTrip.vshuf (d : BitVec 6) (a : BitVec 6) (b : BitVec 6) (k : BitVec 3) (f : BitVec 4) : RoundTrip.Statement (.vshuf d a b k f) := by
  intro st hwf
  obtain ⟨rfl, hf, hv⟩ := RoundTrip.of_stream (st0 := .v) rfl hwf
  exact Word.v_vshuf d a b k f hf hv (enc rfl (by omega))

theorem RoundTrip.vext (d : BitVec 6) (a : BitVec 6) (k : BitVec 3) (n : BitVec 4) : RoundTrip.Statement (.vext d a k n) := by
  intro st hwf
  obtain ⟨rfl, hf, hv⟩ := RoundTrip.of_stream (st0 := .v) rfl hwf
  exact Word.v_vext d a k n hf hv (enc rfl (by omega))

theorem RoundTrip.vins (d : BitVec 6) (a : BitVec 6) (l : BitVec 8) (k : BitVec 3) : RoundTrip.Statement (.vins d a l k) := by
  intro st hwf
  obtain ⟨rfl, hf, hv⟩ := RoundTrip.of_stream (st0 := .v) rfl hwf
  exact Word.v_vins d a l k hf hv (enc rfl (by omega))

theorem RoundTrip.vmset (d : BitVec 3) (a : BitVec 6) (k : BitVec 3) (f : BitVec 4) : RoundTrip.Statement (.vmset d a k f) := by
  intro st hwf
  obtain ⟨rfl, hf, hv⟩ := RoundTrip.of_stream (st0 := .v) rfl hwf
  exact Word.v_vmset d a k f hf hv (enc rfl (by omega))

theorem RoundTrip.vmand (d : BitVec 3) (a : BitVec 3) (b : BitVec 3) (k : BitVec 3) : RoundTrip.Statement (.vmand d a b k) := by
  intro st hwf
  obtain ⟨rfl, hf, hv⟩ := RoundTrip.of_stream (st0 := .v) rfl hwf
  exact Word.v_vmand d a b k hf hv (enc rfl (by omega))

theorem RoundTrip.vmor (d : BitVec 3) (a : BitVec 3) (b : BitVec 3) (k : BitVec 3) : RoundTrip.Statement (.vmor d a b k) := by
  intro st hwf
  obtain ⟨rfl, hf, hv⟩ := RoundTrip.of_stream (st0 := .v) rfl hwf
  exact Word.v_vmor d a b k hf hv (enc rfl (by omega))

theorem RoundTrip.vmnot (d : BitVec 3) (a : BitVec 3) (k : BitVec 3) : RoundTrip.Statement (.vmnot d a k) := by
  intro st hwf
  obtain ⟨rfl, hf, hv⟩ := RoundTrip.of_stream (st0 := .v) rfl hwf
  exact Word.v_vmnot d a k hf hv (enc rfl (by omega))

theorem RoundTrip.vmpop (d : BitVec 6) (a : BitVec 3) (k : BitVec 3) : RoundTrip.Statement (.vmpop d a k) := by
  intro st hwf
  obtain ⟨rfl, hf, hv⟩ := RoundTrip.of_stream (st0 := .v) rfl hwf
  exact Word.v_vmpop d a k hf hv (enc rfl (by omega))

theorem RoundTrip.vred (d : BitVec 6) (a : BitVec 6) (b : BitVec 6) (k : BitVec 3) (f : BitVec 4) : RoundTrip.Statement (.vred d a b k f) := by
  intro st hwf
  obtain ⟨rfl, hf, hv⟩ := RoundTrip.of_stream (st0 := .v) rfl hwf
  exact Word.v_vred d a b k f hf hv (enc rfl (by omega))

theorem RoundTrip.vscan (d : BitVec 6) (a : BitVec 6) (k : BitVec 3) (f : BitVec 4) : RoundTrip.Statement (.vscan d a k f) := by
  intro st hwf
  obtain ⟨rfl, hf, hv⟩ := RoundTrip.of_stream (st0 := .v) rfl hwf
  exact Word.v_vscan d a k f hf hv (enc rfl (by omega))

theorem RoundTrip.vfn (d : BitVec 6) (a : BitVec 6) (k : BitVec 3) (f : BitVec 4) : RoundTrip.Statement (.vfn d a k f) := by
  intro st hwf
  obtain ⟨rfl, hf, hv⟩ := RoundTrip.of_stream (st0 := .v) rfl hwf
  exact Word.v_vfn d a k f hf hv (enc rfl (by omega))

theorem RoundTrip.vgate (d : BitVec 6) (a : BitVec 6) (b : BitVec 6) (g : BitVec 6) : RoundTrip.Statement (.vgate d a b g) := by
  intro st hwf
  obtain ⟨rfl, hf, hv⟩ := RoundTrip.of_stream (st0 := .v) rfl hwf
  exact Word.v_vgate d a b g hf hv (enc rfl (by omega))

theorem RoundTrip.vstat (d : BitVec 6) (a : BitVec 6) (b : BitVec 6) (k : BitVec 3) (f : BitVec 4) : RoundTrip.Statement (.vstat d a b k f) := by
  intro st hwf
  obtain ⟨rfl, hf, hv⟩ := RoundTrip.of_stream (st0 := .v) rfl hwf
  exact Word.v_vstat d a b k f hf hv (enc rfl (by omega))

theorem RoundTrip.vnorm (d : BitVec 6) (a : BitVec 6) (b : BitVec 6) (k : BitVec 3) (f : BitVec 4) : RoundTrip.Statement (.vnorm d a b k f) := by
  intro st hwf
  obtain ⟨rfl, hf, hv⟩ := RoundTrip.of_stream (st0 := .v) rfl hwf
  exact Word.v_vnorm d a b k f hf hv (enc rfl (by omega))

theorem RoundTrip.vsmax (d : BitVec 6) (a : BitVec 6) (b : BitVec 6) (k : BitVec 3) (f : BitVec 4) : RoundTrip.Statement (.vsmax d a b k f) := by
  intro st hwf
  obtain ⟨rfl, hf, hv⟩ := RoundTrip.of_stream (st0 := .v) rfl hwf
  exact Word.v_vsmax d a b k f hf hv (enc rfl (by omega))

theorem RoundTrip.vsmxn (d : BitVec 6) (a : BitVec 6) (b : BitVec 6) (k : BitVec 3) : RoundTrip.Statement (.vsmxn d a b k) := by
  intro st hwf
  obtain ⟨rfl, hf, hv⟩ := RoundTrip.of_stream (st0 := .v) rfl hwf
  exact Word.v_vsmxn d a b k hf hv (enc rfl (by omega))

theorem RoundTrip.vx (d : BitVec 6) (a : BitVec 6) (b : BitVec 6) (s : BitVec 6) (k : BitVec 1) : RoundTrip.Statement (.vx d a b s k) := by
  intro st hwf
  obtain ⟨rfl, hf, hv⟩ := RoundTrip.of_stream (st0 := .v) rfl hwf
  exact Word.v_vx d a b s k hf hv (enc rfl (by omega))

theorem RoundTrip.vrng (d : BitVec 6) (a : BitVec 6) (c : BitVec 6) (k : BitVec 3) (n : BitVec 4) : RoundTrip.Statement (.vrng d a c k n) := by
  intro st hwf
  obtain ⟨rfl, hf, hv⟩ := RoundTrip.of_stream (st0 := .v) rfl hwf
  exact Word.v_vrng d a c k n hf hv (enc rfl (by omega))

theorem RoundTrip.vsyb (n : BitVec 4) : RoundTrip.Statement (.vsyb n) := by
  intro st hwf
  obtain ⟨rfl, hf, hv⟩ := RoundTrip.of_stream (st0 := .v) rfl hwf
  exact Word.v_vsyb n hf hv (enc rfl (by omega))

theorem RoundTrip.vsyw (n : BitVec 4) : RoundTrip.Statement (.vsyw n) := by
  intro st hwf
  obtain ⟨rfl, hf, hv⟩ := RoundTrip.of_stream (st0 := .v) rfl hwf
  exact Word.v_vsyw n hf hv (enc rfl (by omega))

theorem RoundTrip.vbr (d : BitVec 6) (o : BitVec 19) : RoundTrip.Statement (.vbr d o) := by
  intro st hwf
  obtain ⟨rfl, hf, hv⟩ := RoundTrip.of_stream (st0 := .v) rfl hwf
  exact Word.v_vbr d o hf hv (enc rfl (by omega))

theorem RoundTrip.vloop (d : BitVec 6) (o : BitVec 19) : RoundTrip.Statement (.vloop d o) := by
  intro st hwf
  obtain ⟨rfl, hf, hv⟩ := RoundTrip.of_stream (st0 := .v) rfl hwf
  exact Word.v_vloop d o hf hv (enc rfl (by omega))

theorem RoundTrip.vring (r : BitVec 2) (h : BitVec 8) (c : BitVec 8) : RoundTrip.Statement (.vring r h c) := by
  intro st hwf
  obtain ⟨rfl, hf, hv⟩ := RoundTrip.of_stream (st0 := .v) rfl hwf
  exact Word.v_vring r h c hf hv (enc rfl (by omega))

theorem RoundTrip.vtoks (s : BitVec 6) (c : BitVec 4) : RoundTrip.Statement (.vtoks s c) := by
  intro st hwf
  obtain ⟨rfl, hf, hv⟩ := RoundTrip.of_stream (st0 := .v) rfl hwf
  exact Word.v_vtoks s c hf hv (enc rfl (by omega))

theorem RoundTrip.vtokw (d : BitVec 6) (c : BitVec 4) : RoundTrip.Statement (.vtokw d c) := by
  intro st hwf
  obtain ⟨rfl, hf, hv⟩ := RoundTrip.of_stream (st0 := .v) rfl hwf
  exact Word.v_vtokw d c hf hv (enc rfl (by omega))

theorem RoundTrip.vcue (n : BitVec 20) : RoundTrip.Statement (.vcue n) := by
  intro st hwf
  obtain ⟨rfl, hf, hv⟩ := RoundTrip.of_stream (st0 := .v) rfl hwf
  exact Word.v_vcue n hf hv (enc rfl (by omega))

theorem RoundTrip.vflags (d : BitVec 6) : RoundTrip.Statement (.vflags d) := by
  intro st hwf
  obtain ⟨rfl, hf, hv⟩ := RoundTrip.of_stream (st0 := .v) rfl hwf
  exact Word.v_vflags d hf hv (enc rfl (by omega))

theorem RoundTrip.mnest (l : BitVec 3) (f : BitVec 2) (v : BitVec 20) : RoundTrip.Statement (.mnest l f v) := by
  intro st hwf
  obtain ⟨rfl, hf, hv⟩ := RoundTrip.of_stream (st0 := .m) rfl hwf
  exact Word.m_mnest l f v hf hv (enc rfl (by omega))

theorem RoundTrip.mfmt (x : BitVec 1) (t : BitVec 2) (f : BitVec 4) : RoundTrip.Statement (.mfmt x t f) := by
  intro st hwf
  obtain ⟨rfl, hf, hv⟩ := RoundTrip.of_stream (st0 := .m) rfl hwf
  exact Word.m_mfmt x t f hf hv (enc rfl (by omega))

theorem RoundTrip.mwld (h : BitVec 8) (f : BitVec 4) : RoundTrip.Statement (.mwld h f) := by
  intro st hwf
  obtain ⟨rfl, hf, hv⟩ := RoundTrip.of_stream (st0 := .m) rfl hwf
  exact Word.m_mwld h f hf hv (enc rfl (by omega))

theorem RoundTrip.mwldF (h : BitVec 8) (n : BitVec 4) (f : BitVec 4) : RoundTrip.Statement (.mwldF h n f) := by
  intro st hwf
  obtain ⟨rfl, hf, hv⟩ := RoundTrip.of_stream (st0 := .m) rfl hwf
  exact Word.m_mwldF h n f hf hv (enc rfl (by omega))

theorem RoundTrip.mwldS (f : BitVec 4) : RoundTrip.Statement (.mwldS f) := by
  intro st hwf
  obtain ⟨rfl, hf, hv⟩ := RoundTrip.of_stream (st0 := .m) rfl hwf
  exact Word.m_mwldS f hf hv (enc rfl (by omega))

theorem RoundTrip.macc (n : BitVec 2) (d : BitVec 4) (m : BitVec 2) : RoundTrip.Statement (.macc n d m) := by
  intro st hwf
  obtain ⟨rfl, hf, hv⟩ := RoundTrip.of_stream (st0 := .m) rfl hwf
  exact Word.m_macc n d m hf hv (enc rfl (by omega))

theorem RoundTrip.mgo (a : BitVec 8) (b : BitVec 8) : RoundTrip.Statement (.mgo a b) := by
  intro st hwf
  obtain ⟨rfl, hf, hv⟩ := RoundTrip.of_stream (st0 := .m) rfl hwf
  exact Word.m_mgo a b hf hv (enc rfl (by omega))

theorem RoundTrip.mgoF (a : BitVec 8) (b : BitVec 8) (n : BitVec 4) : RoundTrip.Statement (.mgoF a b n) := by
  intro st hwf
  obtain ⟨rfl, hf, hv⟩ := RoundTrip.of_stream (st0 := .m) rfl hwf
  exact Word.m_mgoF a b n hf hv (enc rfl (by omega))

theorem RoundTrip.msplit (v : BitVec 20) : RoundTrip.Statement (.msplit v) := by
  intro st hwf
  obtain ⟨rfl, hf, hv⟩ := RoundTrip.of_stream (st0 := .m) rfl hwf
  exact Word.m_msplit v hf hv (enc rfl (by omega))

theorem RoundTrip.mqOpen (n : BitVec 16) (h : BitVec 8) : RoundTrip.Statement (.mqOpen n h) := by
  intro st hwf
  obtain ⟨rfl, hf, hv⟩ := RoundTrip.of_stream (st0 := .m) rfl hwf
  exact Word.m_mqOpen n h hf hv (enc rfl (by omega))

theorem RoundTrip.mqClose (n : BitVec 16) (h : BitVec 8) : RoundTrip.Statement (.mqClose n h) := by
  intro st hwf
  obtain ⟨rfl, hf, hv⟩ := RoundTrip.of_stream (st0 := .m) rfl hwf
  exact Word.m_mqClose n h hf hv (enc rfl (by omega))

theorem RoundTrip.mtoks (c : BitVec 4) (v : BitVec 16) : RoundTrip.Statement (.mtoks c v) := by
  intro st hwf
  obtain ⟨rfl, hf, hv⟩ := RoundTrip.of_stream (st0 := .m) rfl hwf
  exact Word.m_mtoks c v hf hv (enc rfl (by omega))

theorem RoundTrip.mtokw (c : BitVec 4) : RoundTrip.Statement (.mtokw c) := by
  intro st hwf
  obtain ⟨rfl, hf, hv⟩ := RoundTrip.of_stream (st0 := .m) rfl hwf
  exact Word.m_mtokw c hf hv (enc rfl (by omega))

theorem RoundTrip.mcue (n : BitVec 20) : RoundTrip.Statement (.mcue n) := by
  intro st hwf
  obtain ⟨rfl, hf, hv⟩ := RoundTrip.of_stream (st0 := .m) rfl hwf
  exact Word.m_mcue n hf hv (enc rfl (by omega))

theorem RoundTrip.mring (r : BitVec 2) (c : BitVec 8) (h : BitVec 8) : RoundTrip.Statement (.mring r c h) := by
  intro st hwf
  obtain ⟨rfl, hf, hv⟩ := RoundTrip.of_stream (st0 := .m) rfl hwf
  exact Word.m_mring r c h hf hv (enc rfl (by omega))

theorem RoundTrip.cla (d : BitVec 4) (k : BitVec 2) (v : BitVec 16) : RoundTrip.Statement (.cla d k v) := by
  intro st hwf
  obtain ⟨rfl, hf, hv⟩ := RoundTrip.of_stream (st0 := .c) rfl hwf
  exact Word.c_cla d k v hf hv (enc rfl (by omega))

theorem RoundTrip.cadd (d : BitVec 4) (i : BitVec 20) : RoundTrip.Statement (.cadd d i) := by
  intro st hwf
  obtain ⟨rfl, hf, hv⟩ := RoundTrip.of_stream (st0 := .c) rfl hwf
  exact Word.c_cadd d i hf hv (enc rfl (by omega))

theorem RoundTrip.caddReg (d : BitVec 4) (s : BitVec 4) : RoundTrip.Statement (.caddReg d s) := by
  intro st hwf
  obtain ⟨rfl, hf, hv⟩ := RoundTrip.of_stream (st0 := .c) rfl hwf
  exact Word.c_caddReg d s hf hv (enc rfl (by omega))

theorem RoundTrip.ccpy (a : BitVec 4) (q : BitVec 3) (h : BitVec 8) (s : BitVec 8) (t : BitVec 1) : RoundTrip.Statement (.ccpy a q h s t) := by
  intro st hwf
  obtain ⟨rfl, hf, hv⟩ := RoundTrip.of_stream (st0 := .c) rfl hwf
  exact Word.c_ccpy a q h s t hf hv (enc rfl (by omega))

theorem RoundTrip.ccpyOut (a : BitVec 4) (q : BitVec 3) (h : BitVec 8) (s : BitVec 8) (t : BitVec 1) : RoundTrip.Statement (.ccpyOut a q h s t) := by
  intro st hwf
  obtain ⟨rfl, hf, hv⟩ := RoundTrip.of_stream (st0 := .c) rfl hwf
  exact Word.c_ccpyOut a q h s t hf hv (enc rfl (by omega))

theorem RoundTrip.ccpys (a : BitVec 4) (q : BitVec 3) (h : BitVec 8) (s : BitVec 8) : RoundTrip.Statement (.ccpys a q h s) := by
  intro st hwf
  obtain ⟨rfl, hf, hv⟩ := RoundTrip.of_stream (st0 := .c) rfl hwf
  exact Word.c_ccpys a q h s hf hv (enc rfl (by omega))

theorem RoundTrip.cwst (a : BitVec 4) (q : BitVec 3) : RoundTrip.Statement (.cwst a q) := by
  intro st hwf
  obtain ⟨rfl, hf, hv⟩ := RoundTrip.of_stream (st0 := .c) rfl hwf
  exact Word.c_cwst a q hf hv (enc rfl (by omega))

theorem RoundTrip.ctab (q : BitVec 3) (h : BitVec 8) : RoundTrip.Statement (.ctab q h) := by
  intro st hwf
  obtain ⟨rfl, hf, hv⟩ := RoundTrip.of_stream (st0 := .c) rfl hwf
  exact Word.c_ctab q h hf hv (enc rfl (by omega))

theorem RoundTrip.cgath (a : BitVec 4) (b : BitVec 4) (c : BitVec 4) (q : BitVec 3) (h : BitVec 8) : RoundTrip.Statement (.cgath a b c q h) := by
  intro st hwf
  obtain ⟨rfl, hf, hv⟩ := RoundTrip.of_stream (st0 := .c) rfl hwf
  exact Word.c_cgath a b c q h hf hv (enc rfl (by omega))

theorem RoundTrip.cscat (a : BitVec 4) (b : BitVec 4) (c : BitVec 4) (q : BitVec 3) (h : BitVec 8) : RoundTrip.Statement (.cscat a b c q h) := by
  intro st hwf
  obtain ⟨rfl, hf, hv⟩ := RoundTrip.of_stream (st0 := .c) rfl hwf
  exact Word.c_cscat a b c q h hf hv (enc rfl (by omega))

theorem RoundTrip.cxfer (a : BitVec 4) (q : BitVec 3) (h : BitVec 8) : RoundTrip.Statement (.cxfer a q h) := by
  intro st hwf
  obtain ⟨rfl, hf, hv⟩ := RoundTrip.of_stream (st0 := .c) rfl hwf
  exact Word.c_cxfer a q h hf hv (enc rfl (by omega))

theorem RoundTrip.cred (a : BitVec 4) (b : BitVec 4) (c : BitVec 4) (q : BitVec 3) (x : BitVec 1) (l : BitVec 4) (o : BitVec 2) : RoundTrip.Statement (.cred a b c q x l o) := by
  intro st hwf
  obtain ⟨rfl, hf, hv⟩ := RoundTrip.of_stream (st0 := .c) rfl hwf
  exact Word.c_cred a b c q x l o hf hv (enc rfl (by omega))

theorem RoundTrip.cbcst (a : BitVec 4) (b : BitVec 4) (c : BitVec 4) (q : BitVec 3) (x : BitVec 1) : RoundTrip.Statement (.cbcst a b c q x) := by
  intro st hwf
  obtain ⟨rfl, hf, hv⟩ := RoundTrip.of_stream (st0 := .c) rfl hwf
  exact Word.c_cbcst a b c q x hf hv (enc rfl (by omega))

theorem RoundTrip.cpref (a : BitVec 4) (b : BitVec 4) (q : BitVec 3) : RoundTrip.Statement (.cpref a b q) := by
  intro st hwf
  obtain ⟨rfl, hf, hv⟩ := RoundTrip.of_stream (st0 := .c) rfl hwf
  exact Word.c_cpref a b q hf hv (enc rfl (by omega))

theorem RoundTrip.cmig (a : BitVec 4) (q : BitVec 3) (t : BitVec 1) : RoundTrip.Statement (.cmig a q t) := by
  intro st hwf
  obtain ⟨rfl, hf, hv⟩ := RoundTrip.of_stream (st0 := .c) rfl hwf
  exact Word.c_cmig a q t hf hv (enc rfl (by omega))

theorem RoundTrip.crrd (a : BitVec 4) (b : BitVec 4) (c : BitVec 4) (q : BitVec 3) : RoundTrip.Statement (.crrd a b c q) := by
  intro st hwf
  obtain ⟨rfl, hf, hv⟩ := RoundTrip.of_stream (st0 := .c) rfl hwf
  exact Word.c_crrd a b c q hf hv (enc rfl (by omega))

theorem RoundTrip.cwaitm (m : BitVec 8) : RoundTrip.Statement (.cwaitm m) := by
  intro st hwf
  obtain ⟨rfl, hf, hv⟩ := RoundTrip.of_stream (st0 := .c) rfl hwf
  exact Word.c_cwaitm m hf hv (enc rfl (by omega))

theorem RoundTrip.ctoks (d : BitVec 4) (v : BitVec 16) (c : BitVec 4) : RoundTrip.Statement (.ctoks d v c) := by
  intro st hwf
  obtain ⟨rfl, hf, hv⟩ := RoundTrip.of_stream (st0 := .c) rfl hwf
  exact Word.c_ctoks d v c hf hv (enc rfl (by omega))

theorem RoundTrip.ctoksAll (d : BitVec 4) (v : BitVec 16) (c : BitVec 4) : RoundTrip.Statement (.ctoksAll d v c) := by
  intro st hwf
  obtain ⟨rfl, hf, hv⟩ := RoundTrip.of_stream (st0 := .c) rfl hwf
  exact Word.c_ctoksAll d v c hf hv (enc rfl (by omega))

theorem RoundTrip.ctokw (c : BitVec 4) : RoundTrip.Statement (.ctokw c) := by
  intro st hwf
  obtain ⟨rfl, hf, hv⟩ := RoundTrip.of_stream (st0 := .c) rfl hwf
  exact Word.c_ctokw c hf hv (enc rfl (by omega))

theorem RoundTrip.ctokwLd (d : BitVec 4) (c : BitVec 4) : RoundTrip.Statement (.ctokwLd d c) := by
  intro st hwf
  obtain ⟨rfl, hf, hv⟩ := RoundTrip.of_stream (st0 := .c) rfl hwf
  exact Word.c_ctokwLd d c hf hv (enc rfl (by omega))

theorem RoundTrip.ctokwAdd (d : BitVec 4) (c : BitVec 4) : RoundTrip.Statement (.ctokwAdd d c) := by
  intro st hwf
  obtain ⟨rfl, hf, hv⟩ := RoundTrip.of_stream (st0 := .c) rfl hwf
  exact Word.c_ctokwAdd d c hf hv (enc rfl (by omega))

theorem RoundTrip.ccue (n : BitVec 20) : RoundTrip.Statement (.ccue n) := by
  intro st hwf
  obtain ⟨rfl, hf, hv⟩ := RoundTrip.of_stream (st0 := .c) rfl hwf
  exact Word.c_ccue n hf hv (enc rfl (by omega))

theorem RoundTrip.cfence (s : BitVec 3) : RoundTrip.Statement (.cfence s) := by
  intro st hwf
  obtain ⟨rfl, hf, hv⟩ := RoundTrip.of_stream (st0 := .c) rfl hwf
  exact Word.c_cfence s hf hv (enc rfl (by omega))

theorem RoundTrip.cring (r : BitVec 2) (c : BitVec 8) (h : BitVec 8) : RoundTrip.Statement (.cring r c h) := by
  intro st hwf
  obtain ⟨rfl, hf, hv⟩ := RoundTrip.of_stream (st0 := .c) rfl hwf
  exact Word.c_cring r c h hf hv (enc rfl (by omega))

theorem RoundTrip.fload (h : BitVec 8) (e : BitVec 6) (b : BitVec 5) (n : BitVec 6) : RoundTrip.Statement (.fload h e b n) := by
  intro st hwf
  obtain ⟨rfl, hf, hv⟩ := RoundTrip.of_stream (st0 := .f) rfl hwf
  exact Word.f_fload h e b n hf hv (enc rfl (by omega))

theorem RoundTrip.fopen (h : BitVec 8) (e : BitVec 6) (r : BitVec 1) (l : BitVec 8) : RoundTrip.Statement (.fopen h e r l) := by
  intro st hwf
  obtain ⟨rfl, hf, hv⟩ := RoundTrip.of_stream (st0 := .f) rfl hwf
  exact Word.f_fopen h e r l hf hv (enc rfl (by omega))

theorem RoundTrip.fopenOut (h : BitVec 8) (e : BitVec 6) (r : BitVec 1) (l : BitVec 8) : RoundTrip.Statement (.fopenOut h e r l) := by
  intro st hwf
  obtain ⟨rfl, hf, hv⟩ := RoundTrip.of_stream (st0 := .f) rfl hwf
  exact Word.f_fopenOut h e r l hf hv (enc rfl (by omega))

theorem RoundTrip.fclose (h : BitVec 8) (e : BitVec 6) : RoundTrip.Statement (.fclose h e) := by
  intro st hwf
  obtain ⟨rfl, hf, hv⟩ := RoundTrip.of_stream (st0 := .f) rfl hwf
  exact Word.f_fclose h e hf hv (enc rfl (by omega))

theorem RoundTrip.fsched (e : BitVec 6) (p : BitVec 4) (f : BitVec 4) : RoundTrip.Statement (.fsched e p f) := by
  intro st hwf
  obtain ⟨rfl, hf, hv⟩ := RoundTrip.of_stream (st0 := .f) rfl hwf
  exact Word.f_fsched e p f hf hv (enc rfl (by omega))

theorem RoundTrip.fschedOff (e : BitVec 6) (p : BitVec 4) (f : BitVec 4) : RoundTrip.Statement (.fschedOff e p f) := by
  intro st hwf
  obtain ⟨rfl, hf, hv⟩ := RoundTrip.of_stream (st0 := .f) rfl hwf
  exact Word.f_fschedOff e p f hf hv (enc rfl (by omega))

theorem RoundTrip.fstart (w : BitVec 20) : RoundTrip.Statement (.fstart w) := by
  intro st hwf
  obtain ⟨rfl, hf, hv⟩ := RoundTrip.of_stream (st0 := .f) rfl hwf
  exact Word.f_fstart w hf hv (enc rfl (by omega))

theorem RoundTrip.fqry (c : BitVec 1) (r : BitVec 4) (w : BitVec 2) (e : BitVec 6) : RoundTrip.Statement (.fqry c r w e) := by
  intro st hwf
  obtain ⟨rfl, hf, hv⟩ := RoundTrip.of_stream (st0 := .f) rfl hwf
  exact Word.f_fqry c r w e hf hv (enc rfl (by omega))

theorem RoundTrip.ftoks (c : BitVec 4) (v : BitVec 16) : RoundTrip.Statement (.ftoks c v) := by
  intro st hwf
  obtain ⟨rfl, hf, hv⟩ := RoundTrip.of_stream (st0 := .f) rfl hwf
  exact Word.f_ftoks c v hf hv (enc rfl (by omega))

theorem RoundTrip.ftokw (c : BitVec 4) : RoundTrip.Statement (.ftokw c) := by
  intro st hwf
  obtain ⟨rfl, hf, hv⟩ := RoundTrip.of_stream (st0 := .f) rfl hwf
  exact Word.f_ftokw c hf hv (enc rfl (by omega))

theorem RoundTrip.fcue (n : BitVec 20) : RoundTrip.Statement (.fcue n) := by
  intro st hwf
  obtain ⟨rfl, hf, hv⟩ := RoundTrip.of_stream (st0 := .f) rfl hwf
  exact Word.f_fcue n hf hv (enc rfl (by omega))

theorem RoundTrip.fring (r : BitVec 2) (c : BitVec 8) (h : BitVec 8) : RoundTrip.Statement (.fring r c h) := by
  intro st hwf
  obtain ⟨rfl, hf, hv⟩ := RoundTrip.of_stream (st0 := .f) rfl hwf
  exact Word.f_fring r c h hf hv (enc rfl (by omega))

theorem RoundTrip.eAdd (d : BitVec 4) (a : BitVec 4) (b : BitVec 4) : RoundTrip.Statement (.eAdd d a b) := by
  intro st hwf
  obtain ⟨rfl, hf, hv⟩ := RoundTrip.of_stream (st0 := .e) rfl hwf
  exact Word.e_eAdd d a b hf hv (enc rfl (by omega))

theorem RoundTrip.eSub (d : BitVec 4) (a : BitVec 4) (b : BitVec 4) : RoundTrip.Statement (.eSub d a b) := by
  intro st hwf
  obtain ⟨rfl, hf, hv⟩ := RoundTrip.of_stream (st0 := .e) rfl hwf
  exact Word.e_eSub d a b hf hv (enc rfl (by omega))

theorem RoundTrip.eAnd (d : BitVec 4) (a : BitVec 4) (b : BitVec 4) : RoundTrip.Statement (.eAnd d a b) := by
  intro st hwf
  obtain ⟨rfl, hf, hv⟩ := RoundTrip.of_stream (st0 := .e) rfl hwf
  exact Word.e_eAnd d a b hf hv (enc rfl (by omega))

theorem RoundTrip.eOr (d : BitVec 4) (a : BitVec 4) (b : BitVec 4) : RoundTrip.Statement (.eOr d a b) := by
  intro st hwf
  obtain ⟨rfl, hf, hv⟩ := RoundTrip.of_stream (st0 := .e) rfl hwf
  exact Word.e_eOr d a b hf hv (enc rfl (by omega))

theorem RoundTrip.eXor (d : BitVec 4) (a : BitVec 4) (b : BitVec 4) : RoundTrip.Statement (.eXor d a b) := by
  intro st hwf
  obtain ⟨rfl, hf, hv⟩ := RoundTrip.of_stream (st0 := .e) rfl hwf
  exact Word.e_eXor d a b hf hv (enc rfl (by omega))

theorem RoundTrip.eShl (d : BitVec 4) (a : BitVec 4) (b : BitVec 4) : RoundTrip.Statement (.eShl d a b) := by
  intro st hwf
  obtain ⟨rfl, hf, hv⟩ := RoundTrip.of_stream (st0 := .e) rfl hwf
  exact Word.e_eShl d a b hf hv (enc rfl (by omega))

theorem RoundTrip.eShr (d : BitVec 4) (a : BitVec 4) (b : BitVec 4) (sg : BitVec 1) : RoundTrip.Statement (.eShr d a b sg) := by
  intro st hwf
  obtain ⟨rfl, hf, hv⟩ := RoundTrip.of_stream (st0 := .e) rfl hwf
  exact Word.e_eShr d a b sg hf hv (enc rfl (by omega))

theorem RoundTrip.eCmp (d : BitVec 4) (a : BitVec 4) (b : BitVec 4) (cc : BitVec 3) : RoundTrip.Statement (.eCmp d a b cc) := by
  intro st hwf
  obtain ⟨rfl, hf, hv⟩ := RoundTrip.of_stream (st0 := .e) rfl hwf
  exact Word.e_eCmp d a b cc hf hv (enc rfl (by omega))

theorem RoundTrip.eSel (d : BitVec 4) (a : BitVec 4) (b : BitVec 4) (c : BitVec 4) : RoundTrip.Statement (.eSel d a b c) := by
  intro st hwf
  obtain ⟨rfl, hf, hv⟩ := RoundTrip.of_stream (st0 := .e) rfl hwf
  exact Word.e_eSel d a b c hf hv (enc rfl (by omega))

theorem RoundTrip.eMin (d : BitVec 4) (a : BitVec 4) (b : BitVec 4) (u : BitVec 1) : RoundTrip.Statement (.eMin d a b u) := by
  intro st hwf
  obtain ⟨rfl, hf, hv⟩ := RoundTrip.of_stream (st0 := .e) rfl hwf
  exact Word.e_eMin d a b u hf hv (enc rfl (by omega))

theorem RoundTrip.eMax (d : BitVec 4) (a : BitVec 4) (b : BitVec 4) (u : BitVec 1) : RoundTrip.Statement (.eMax d a b u) := by
  intro st hwf
  obtain ⟨rfl, hf, hv⟩ := RoundTrip.of_stream (st0 := .e) rfl hwf
  exact Word.e_eMax d a b u hf hv (enc rfl (by omega))

theorem RoundTrip.eMul16 (d : BitVec 4) (a : BitVec 4) (b : BitVec 4) (u : BitVec 1) : RoundTrip.Statement (.eMul16 d a b u) := by
  intro st hwf
  obtain ⟨rfl, hf, hv⟩ := RoundTrip.of_stream (st0 := .e) rfl hwf
  exact Word.e_eMul16 d a b u hf hv (enc rfl (by omega))

theorem RoundTrip.ePopc (d : BitVec 4) (a : BitVec 4) : RoundTrip.Statement (.ePopc d a) := by
  intro st hwf
  obtain ⟨rfl, hf, hv⟩ := RoundTrip.of_stream (st0 := .e) rfl hwf
  exact Word.e_ePopc d a hf hv (enc rfl (by omega))

theorem RoundTrip.eMov (d : BitVec 4) (a : BitVec 4) : RoundTrip.Statement (.eMov d a) := by
  intro st hwf
  obtain ⟨rfl, hf, hv⟩ := RoundTrip.of_stream (st0 := .e) rfl hwf
  exact Word.e_eMov d a hf hv (enc rfl (by omega))

theorem RoundTrip.eCxch (d : BitVec 4) (c : BitVec 4) (a : BitVec 4) (b : BitVec 4) (sg : BitVec 1) : RoundTrip.Statement (.eCxch d c a b sg) := by
  intro st hwf
  obtain ⟨rfl, hf, hv⟩ := RoundTrip.of_stream (st0 := .e) rfl hwf
  exact Word.e_eCxch d c a b sg hf hv (enc rfl (by omega))

theorem RoundTrip.eLdi (d : BitVec 4) (i : BitVec 17) : RoundTrip.Statement (.eLdi d i) := by
  intro st hwf
  obtain ⟨rfl, hf, hv⟩ := RoundTrip.of_stream (st0 := .e) rfl hwf
  exact Word.e_eLdi d i hf hv (enc rfl (by omega))

theorem RoundTrip.eLdiH (d : BitVec 4) (i : BitVec 16) : RoundTrip.Statement (.eLdiH d i) := by
  intro st hwf
  obtain ⟨rfl, hf, hv⟩ := RoundTrip.of_stream (st0 := .e) rfl hwf
  exact Word.e_eLdiH d i hf hv (enc rfl (by omega))

theorem RoundTrip.eLds (d : BitVec 4) (a : BitVec 4) (i : BitVec 17) : RoundTrip.Statement (.eLds d a i) := by
  intro st hwf
  obtain ⟨rfl, hf, hv⟩ := RoundTrip.of_stream (st0 := .e) rfl hwf
  exact Word.e_eLds d a i hf hv (enc rfl (by omega))

theorem RoundTrip.eSts (s : BitVec 4) (a : BitVec 4) (i : BitVec 17) : RoundTrip.Statement (.eSts s a i) := by
  intro st hwf
  obtain ⟨rfl, hf, hv⟩ := RoundTrip.of_stream (st0 := .e) rfl hwf
  exact Word.e_eSts s a i hf hv (enc rfl (by omega))

theorem RoundTrip.eLoop (d : BitVec 4) (t : BitVec 6) : RoundTrip.Statement (.eLoop d t) := by
  intro st hwf
  obtain ⟨rfl, hf, hv⟩ := RoundTrip.of_stream (st0 := .e) rfl hwf
  exact Word.e_eLoop d t hf hv (enc rfl (by omega))

theorem RoundTrip.eRecv (d : BitVec 4) (dir : BitVec 3) : RoundTrip.Statement (.eRecv d dir) := by
  intro st hwf
  obtain ⟨rfl, hf, hv⟩ := RoundTrip.of_stream (st0 := .e) rfl hwf
  exact Word.e_eRecv d dir hf hv (enc rfl (by omega))

theorem RoundTrip.eSend (s : BitVec 4) (dir : BitVec 3) : RoundTrip.Statement (.eSend s dir) := by
  intro st hwf
  obtain ⟨rfl, hf, hv⟩ := RoundTrip.of_stream (st0 := .e) rfl hwf
  exact Word.e_eSend s dir hf hv (enc rfl (by omega))

theorem RoundTrip.ePeek (d : BitVec 4) (dir : BitVec 3) : RoundTrip.Statement (.ePeek d dir) := by
  intro st hwf
  obtain ⟨rfl, hf, hv⟩ := RoundTrip.of_stream (st0 := .e) rfl hwf
  exact Word.e_ePeek d dir hf hv (enc rfl (by omega))

theorem RoundTrip.eEmit (s : BitVec 4) (dir : BitVec 3) (sc : BitVec 2) : RoundTrip.Statement (.eEmit s dir sc) := by
  intro st hwf
  obtain ⟨rfl, hf, hv⟩ := RoundTrip.of_stream (st0 := .e) rfl hwf
  exact Word.e_eEmit s dir sc hf hv (enc rfl (by omega))

theorem RoundTrip.eEmitReg (s : BitVec 4) (dir : BitVec 3) (k : BitVec 4) : RoundTrip.Statement (.eEmitReg s dir k) := by
  intro st hwf
  obtain ⟨rfl, hf, hv⟩ := RoundTrip.of_stream (st0 := .e) rfl hwf
  exact Word.e_eEmitReg s dir k hf hv (enc rfl (by omega))

theorem RoundTrip.eBub (dir : BitVec 3) : RoundTrip.Statement (.eBub dir) := by
  intro st hwf
  obtain ⟨rfl, hf, hv⟩ := RoundTrip.of_stream (st0 := .e) rfl hwf
  exact Word.e_eBub dir hf hv (enc rfl (by omega))

theorem RoundTrip.lotteryGrant (u : BitVec 8) : RoundTrip.Statement (.lotteryGrant u) := RoundTrip.no_stream rfl

theorem RoundTrip.dierstComplete (pass : Bool) (trained : BitVec 8) : RoundTrip.Statement (.dierstComplete pass trained) := RoundTrip.no_stream rfl

theorem RoundTrip.pageMigration (b : BitVec 4) (f : BitVec 23) : RoundTrip.Statement (.pageMigration b f) := RoundTrip.no_stream rfl

theorem RoundTrip.migrationEpochEnd (b : BitVec 4) : RoundTrip.Statement (.migrationEpochEnd b) := RoundTrip.no_stream rfl

theorem RoundTrip.remoteReadRequest (b : BitVec 4) (pkg : BitVec 16) (a : BitVec 36) (n : BitVec 24) : RoundTrip.Statement (.remoteReadRequest b pkg a n) := RoundTrip.no_stream rfl

theorem RoundTrip.peerRequest (pkg : BitVec 16) (p : BitVec 5) (wr : Bool) (a : BitVec 56) (n : BitVec 24) (bs : List (BitVec 8)) : RoundTrip.Statement (.peerRequest pkg p wr a n bs) := RoundTrip.no_stream rfl

theorem RoundTrip.boot (passed : BitVec 36) (trained : BitVec 288) : RoundTrip.Statement (.boot passed trained) := RoundTrip.no_stream rfl

theorem RoundTrip.resumption (passed : BitVec 36) (trained : BitVec 288) : RoundTrip.Statement (.resumption passed trained) := RoundTrip.no_stream rfl

theorem RoundTrip.ucieFlitCrcError (socket : BitVec 6) (m : BitVec 3) (c : BitVec 12) (k : BitVec 3) (far : BitVec 6) : RoundTrip.Statement (.ucieFlitCrcError socket m c k far) := RoundTrip.no_stream rfl

theorem RoundTrip.moduleRetrain (socket : BitVec 6) (m : BitVec 3) : RoundTrip.Statement (.moduleRetrain socket m) := RoundTrip.no_stream rfl

theorem RoundTrip.moduleRetrainEnd (socket : BitVec 6) (m : BitVec 3) (ok : Bool) : RoundTrip.Statement (.moduleRetrainEnd socket m ok) := RoundTrip.no_stream rfl

theorem RoundTrip.vexfyFlitResend (p : BitVec 5) (ok : Bool) : RoundTrip.Statement (.vexfyFlitResend p ok) := RoundTrip.no_stream rfl

theorem RoundTrip.vexfyPortDown (p : BitVec 5) : RoundTrip.Statement (.vexfyPortDown p) := RoundTrip.no_stream rfl

theorem RoundTrip.patrolScrub (unit : BitVec 2) (b : BitVec 8) (blk : BitVec 31) : RoundTrip.Statement (.patrolScrub unit b blk) := RoundTrip.no_stream rfl

theorem RoundTrip.histogramSample (tm : BitVec 9) (tv : BitVec 9) (tg : BitVec 9) (tb : BitVec 9) (ts : BitVec 9) (th : BitVec 9) : RoundTrip.Statement (.histogramSample tm tv tg tb ts th) := RoundTrip.no_stream rfl

theorem RoundTrip.powerLimitWindow (pwr : BitVec 16) (gate : BitVec 6) : RoundTrip.Statement (.powerLimitWindow pwr gate) := RoundTrip.no_stream rfl

theorem RoundTrip.vexfyPortTrained (p : BitVec 5) (peer : BitVec 16) : RoundTrip.Statement (.vexfyPortTrained p peer) := RoundTrip.no_stream rfl

theorem RoundTrip.remoteCollectiveFrame (rank : BitVec 6) (lcore : BitVec 8) (e : BitVec 48 × Option (BitVec 21)) (v : BitVec 32) : RoundTrip.Statement (.remoteCollectiveFrame rank lcore e v) := RoundTrip.no_stream rfl

theorem RoundTrip.loadDataReturn : RoundTrip.Statement .loadDataReturn := RoundTrip.no_stream rfl

theorem RoundTrip.mark : RoundTrip.Statement .mark := by
  intro st hwf
  obtain ⟨rfl, hf, hv⟩ := RoundTrip.of_stream (st0 := .s) rfl hwf
  exact Word.s_mark hf hv (enc rfl (by omega))

theorem RoundTrip.cueReached : RoundTrip.Statement .cueReached := RoundTrip.no_stream rfl

theorem RoundTrip.sevDelivery : RoundTrip.Statement .sevDelivery := RoundTrip.no_stream rfl

theorem RoundTrip.cutArrival : RoundTrip.Statement .cutArrival := RoundTrip.no_stream rfl

theorem RoundTrip.remoteTokenDelivery : RoundTrip.Statement .remoteTokenDelivery := RoundTrip.no_stream rfl

theorem RoundTrip.eret : RoundTrip.Statement .eret := by
  intro st hwf
  obtain ⟨rfl, hf, hv⟩ := RoundTrip.of_stream (st0 := .s) rfl hwf
  exact Word.s_eret hf hv (enc rfl (by omega))

theorem RoundTrip.halt : RoundTrip.Statement .halt := by
  intro st hwf
  obtain ⟨rfl, hf, hv⟩ := RoundTrip.of_stream (st0 := .s) rfl hwf
  exact Word.s_halt hf hv (enc rfl (by omega))

theorem RoundTrip.nop : RoundTrip.Statement .nop := by
  intro st hwf
  obtain ⟨rfl, hf, hv⟩ := RoundTrip.of_stream (st0 := .s) rfl hwf
  exact Word.s_nop hf hv (enc rfl (by omega))

theorem RoundTrip.vfork : RoundTrip.Statement .vfork := by
  intro st hwf
  obtain ⟨rfl, hf, hv⟩ := RoundTrip.of_stream (st0 := .v) rfl hwf
  exact Word.v_vfork hf hv (enc rfl (by omega))

theorem RoundTrip.vjoin : RoundTrip.Statement .vjoin := by
  intro st hwf
  obtain ⟨rfl, hf, hv⟩ := RoundTrip.of_stream (st0 := .v) rfl hwf
  exact Word.v_vjoin hf hv (enc rfl (by omega))

theorem RoundTrip.vnop : RoundTrip.Statement .vnop := by
  intro st hwf
  obtain ⟨rfl, hf, hv⟩ := RoundTrip.of_stream (st0 := .v) rfl hwf
  exact Word.v_vnop hf hv (enc rfl (by omega))

theorem RoundTrip.mwldComplete : RoundTrip.Statement .mwldComplete := RoundTrip.no_stream rfl

theorem RoundTrip.cwstPairing : RoundTrip.Statement .cwstPairing := RoundTrip.no_stream rfl

theorem RoundTrip.mwsw : RoundTrip.Statement .mwsw := by
  intro st hwf
  obtain ⟨rfl, hf, hv⟩ := RoundTrip.of_stream (st0 := .m) rfl hwf
  exact Word.m_mwsw hf hv (enc rfl (by omega))

theorem RoundTrip.mgoStep : RoundTrip.Statement .mgoStep := RoundTrip.no_stream rfl

theorem RoundTrip.operandFetchComplete : RoundTrip.Statement .operandFetchComplete := RoundTrip.no_stream rfl

theorem RoundTrip.mwait : RoundTrip.Statement .mwait := by
  intro st hwf
  obtain ⟨rfl, hf, hv⟩ := RoundTrip.of_stream (st0 := .m) rfl hwf
  exact Word.m_mwait hf hv (enc rfl (by omega))

theorem RoundTrip.mwaitEnd : RoundTrip.Statement .mwaitEnd := by
  intro st hwf
  obtain ⟨rfl, hf, hv⟩ := RoundTrip.of_stream (st0 := .m) rfl hwf
  exact Word.m_mwaitEnd hf hv (enc rfl (by omega))

theorem RoundTrip.mnop : RoundTrip.Statement .mnop := by
  intro st hwf
  obtain ⟨rfl, hf, hv⟩ := RoundTrip.of_stream (st0 := .m) rfl hwf
  exact Word.m_mnop hf hv (enc rfl (by omega))

theorem RoundTrip.cxferArrival : RoundTrip.Statement .cxferArrival := RoundTrip.no_stream rfl

theorem RoundTrip.copyComplete : RoundTrip.Statement .copyComplete := RoundTrip.no_stream rfl

theorem RoundTrip.cnop : RoundTrip.Statement .cnop := by
  intro st hwf
  obtain ⟨rfl, hf, hv⟩ := RoundTrip.of_stream (st0 := .c) rfl hwf
  exact Word.c_cnop hf hv (enc rfl (by omega))

theorem RoundTrip.runComplete : RoundTrip.Statement .runComplete := RoundTrip.no_stream rfl

theorem RoundTrip.fabricBound : RoundTrip.Statement .fabricBound := RoundTrip.no_stream rfl

theorem RoundTrip.inputPortPush : RoundTrip.Statement .inputPortPush := RoundTrip.no_stream rfl

theorem RoundTrip.outputPortWrite : RoundTrip.Statement .outputPortWrite := RoundTrip.no_stream rfl

theorem RoundTrip.fwait : RoundTrip.Statement .fwait := by
  intro st hwf
  obtain ⟨rfl, hf, hv⟩ := RoundTrip.of_stream (st0 := .f) rfl hwf
  exact Word.f_fwait hf hv (enc rfl (by omega))

theorem RoundTrip.fwaitEnd : RoundTrip.Statement .fwaitEnd := by
  intro st hwf
  obtain ⟨rfl, hf, hv⟩ := RoundTrip.of_stream (st0 := .f) rfl hwf
  exact Word.f_fwaitEnd hf hv (enc rfl (by omega))

theorem RoundTrip.eHalt : RoundTrip.Statement .eHalt := by
  intro st hwf
  obtain ⟨rfl, hf, hv⟩ := RoundTrip.of_stream (st0 := .e) rfl hwf
  exact Word.e_eHalt hf hv (enc rfl (by omega))

theorem RoundTrip.eNop : RoundTrip.Statement .eNop := by
  intro st hwf
  obtain ⟨rfl, hf, hv⟩ := RoundTrip.of_stream (st0 := .e) rfl hwf
  exact Word.e_eNop hf hv (enc rfl (by omega))

theorem RoundTrip.packetEnqueue : RoundTrip.Statement .packetEnqueue := RoundTrip.no_stream rfl

theorem RoundTrip.packetDispatch : RoundTrip.Statement .packetDispatch := RoundTrip.no_stream rfl

theorem RoundTrip.launch : RoundTrip.Statement .launch := RoundTrip.no_stream rfl

theorem RoundTrip.pushseed : RoundTrip.Statement .pushseed := RoundTrip.no_stream rfl

theorem RoundTrip.popseed : RoundTrip.Statement .popseed := RoundTrip.no_stream rfl

theorem RoundTrip.forkseed : RoundTrip.Statement .forkseed := RoundTrip.no_stream rfl

theorem RoundTrip.setlevel : RoundTrip.Statement .setlevel := RoundTrip.no_stream rfl

theorem RoundTrip.signal : RoundTrip.Statement .signal := RoundTrip.no_stream rfl

theorem RoundTrip.signalReport : RoundTrip.Statement .signalReport := RoundTrip.no_stream rfl

theorem RoundTrip.reelRetirement : RoundTrip.Statement .reelRetirement := RoundTrip.no_stream rfl

theorem RoundTrip.statqRead : RoundTrip.Statement .statqRead := RoundTrip.no_stream rfl

theorem RoundTrip.sliceSwitch : RoundTrip.Statement .sliceSwitch := RoundTrip.no_stream rfl

theorem RoundTrip.waitHoldExpiry : RoundTrip.Statement .waitHoldExpiry := RoundTrip.no_stream rfl

theorem RoundTrip.boundOverrun : RoundTrip.Statement .boundOverrun := RoundTrip.no_stream rfl

theorem RoundTrip.watchpoint : RoundTrip.Statement .watchpoint := RoundTrip.no_stream rfl

theorem RoundTrip.watchpointMatch : RoundTrip.Statement .watchpointMatch := RoundTrip.no_stream rfl

theorem RoundTrip.folioFrameLoad : RoundTrip.Statement .folioFrameLoad := RoundTrip.no_stream rfl

theorem RoundTrip.preemption : RoundTrip.Statement .preemption := RoundTrip.no_stream rfl

theorem RoundTrip.contextRestore : RoundTrip.Statement .contextRestore := RoundTrip.no_stream rfl

theorem RoundTrip.quiesceSaveTimeout : RoundTrip.Statement .quiesceSaveTimeout := RoundTrip.no_stream rfl

theorem RoundTrip.ctxcmdResume : RoundTrip.Statement .ctxcmdResume := RoundTrip.no_stream rfl

theorem RoundTrip.ctxcmdRemove : RoundTrip.Statement .ctxcmdRemove := RoundTrip.no_stream rfl

theorem RoundTrip.dierstReset : RoundTrip.Statement .dierstReset := RoundTrip.no_stream rfl

theorem RoundTrip.dierstDisable : RoundTrip.Statement .dierstDisable := RoundTrip.no_stream rfl

theorem RoundTrip.dierstEnable : RoundTrip.Statement .dierstEnable := RoundTrip.no_stream rfl

theorem RoundTrip.xlinv : RoundTrip.Statement .xlinv := RoundTrip.no_stream rfl

theorem RoundTrip.xlinvComplete : RoundTrip.Statement .xlinvComplete := RoundTrip.no_stream rfl

theorem RoundTrip.remapgo : RoundTrip.Statement .remapgo := RoundTrip.no_stream rfl

theorem RoundTrip.remapCommitComplete : RoundTrip.Statement .remapCommitComplete := RoundTrip.no_stream rfl

theorem RoundTrip.remapEntryWrite : RoundTrip.Statement .remapEntryWrite := RoundTrip.no_stream rfl

theorem RoundTrip.migcmd : RoundTrip.Statement .migcmd := RoundTrip.no_stream rfl

theorem RoundTrip.folreqRead : RoundTrip.Statement .folreqRead := RoundTrip.no_stream rfl

theorem RoundTrip.folresp : RoundTrip.Statement .folresp := RoundTrip.no_stream rfl

theorem RoundTrip.elogqRead : RoundTrip.Statement .elogqRead := RoundTrip.no_stream rfl

theorem RoundTrip.elogcntWrite : RoundTrip.Statement .elogcntWrite := RoundTrip.no_stream rfl

theorem RoundTrip.pchashWrite : RoundTrip.Statement .pchashWrite := RoundTrip.no_stream rfl

theorem RoundTrip.hbmctlWrite : RoundTrip.Statement .hbmctlWrite := RoundTrip.no_stream rfl

theorem RoundTrip.pccntWrite : RoundTrip.Statement .pccntWrite := RoundTrip.no_stream rfl

theorem RoundTrip.sramctlWrite : RoundTrip.Statement .sramctlWrite := RoundTrip.no_stream rfl

theorem RoundTrip.migctlWrite : RoundTrip.Statement .migctlWrite := RoundTrip.no_stream rfl

theorem RoundTrip.pkgidWrite : RoundTrip.Statement .pkgidWrite := RoundTrip.no_stream rfl

theorem RoundTrip.colltabWrite : RoundTrip.Statement .colltabWrite := RoundTrip.no_stream rfl

theorem RoundTrip.vxportWrite : RoundTrip.Statement .vxportWrite := RoundTrip.no_stream rfl

theorem RoundTrip.funcmodeWrite : RoundTrip.Statement .funcmodeWrite := RoundTrip.no_stream rfl

theorem RoundTrip.pwrctlWrite : RoundTrip.Statement .pwrctlWrite := RoundTrip.no_stream rfl

theorem RoundTrip.boctlWrite : RoundTrip.Statement .boctlWrite := RoundTrip.no_stream rfl

theorem RoundTrip.bootstatRetry : RoundTrip.Statement .bootstatRetry := RoundTrip.no_stream rfl

theorem RoundTrip.bocmdEnter : RoundTrip.Statement .bocmdEnter := RoundTrip.no_stream rfl

theorem RoundTrip.bocmdResume : RoundTrip.Statement .bocmdResume := RoundTrip.no_stream rfl

theorem RoundTrip.registerWrite : RoundTrip.Statement .registerWrite := RoundTrip.no_stream rfl

theorem RoundTrip.bar2HostRead : RoundTrip.Statement .bar2HostRead := RoundTrip.no_stream rfl

theorem RoundTrip.bar2HostWrite : RoundTrip.Statement .bar2HostWrite := RoundTrip.no_stream rfl

theorem RoundTrip.powerOff : RoundTrip.Statement .powerOff := RoundTrip.no_stream rfl

theorem RoundTrip.brownoutTrigger : RoundTrip.Statement .brownoutTrigger := RoundTrip.no_stream rfl

theorem RoundTrip.brownoutEntry : RoundTrip.Statement .brownoutEntry := RoundTrip.no_stream rfl

theorem RoundTrip.brownoutHostTimeout : RoundTrip.Statement .brownoutHostTimeout := RoundTrip.no_stream rfl

theorem RoundTrip.drainWindowExpiry : RoundTrip.Statement .drainWindowExpiry := RoundTrip.no_stream rfl

theorem RoundTrip.retentionLoss : RoundTrip.Statement .retentionLoss := RoundTrip.no_stream rfl

theorem RoundTrip.lifetimeCommit : RoundTrip.Statement .lifetimeCommit := RoundTrip.no_stream rfl

theorem RoundTrip.entropyHealthFailure : RoundTrip.Statement .entropyHealthFailure := RoundTrip.no_stream rfl

theorem RoundTrip.storePerform : RoundTrip.Statement .storePerform := RoundTrip.no_stream rfl

theorem RoundTrip.vInstructionCompletion : RoundTrip.Statement .vInstructionCompletion := RoundTrip.no_stream rfl

theorem RoundTrip.mqRow : RoundTrip.Statement .mqRow := RoundTrip.no_stream rfl

theorem RoundTrip.pageMoveComplete : RoundTrip.Statement .pageMoveComplete := RoundTrip.no_stream rfl

theorem RoundTrip.entropyHealthPass : RoundTrip.Statement .entropyHealthPass := RoundTrip.no_stream rfl

theorem RoundTrip.dailyHistogramSample : RoundTrip.Statement .dailyHistogramSample := RoundTrip.no_stream rfl

end Sys2Proof.Laws
end

