-- ==== Sys2Proof/Tests/Slice0.lean ====
section
/-! SUPPORT. Tests of the decoder, of well-formedness and of single steps, with expected results from the spec's tables and worked
examples; and for every statement with hypotheses a state and operands that meet them. -/

namespace Sys2Proof.Tests

open Sys2Proof.Machine

-- One theorem at a time: the kernel evaluations are many.
set_option Elab.async false

/-! ## Small states -/

/-- A package in operation with every die good; context 0 of instance 0 is running with a handler at 0x1000. -/
def hub1 : Hub := { State.reset.hub with boot := 1, good := BitVec.allOnes 36 }

/-- The context. -/
def ctx1 : Ctx := { life := .running, level := 1, t := { tvec := 0x1000 } }

/-- The state. -/
def w : State := { State.reset with me := ctx1, hub := hub1 }

/-- The state with another context in focus. -/
def own (s : State) (c : Ctx) : State := { s with me := c }

/-- The state with one register of the context set. -/
def reg (s : State) (r : BitVec 5) (v : W64) : State := own s (s.me.wg r v false)

/-- The state with the acting stream given, after the turns of those that go first in a cycle. -/
def act (s : State) (st : Stream) : State :=
  let had := fun (x : Strm) => { x with lastCc := some s.cc }
  { s with cur := { s.cur with st := st }, me := { s.me with s := if st = .s then s.me.s else had s.me.s,
                                                             e := if st = .c then had s.me.e else s.me.e } }

/-- The state with instance 0 given. -/
def inst0 (s : State) (x : Inst) : State := s.modInst 0 fun _ => x

/-- The state with one tile of the context. -/
def tileAt (s : State) (h : BitVec 8) (t : Tile) : State := own s (s.me.setTile h t)

/-- Lane j of a v register of a cluster. -/
def laneOf (s : State) (k : BitVec 4) (r : BitVec 6) (j : Nat) : W32 := lane ((s.me.v.cluster k).vreg r) j

/-- A v register with 256 lanes given by a function, in every cluster. -/
def vec (s : State) (r : BitVec 6) (f : Nat → W32) : State :=
  own s { s.me with v := { s.me.v with cl := s.me.v.cl.map fun c => { c with v := c.v.set r.toNat (ofLanes ((List.range 256).map f)) r.isLt } } }

/-- The instruction answers a next state with p. -/
def goes (i : Instr) (s : State) (p : State → Bool) : Bool :=
  match exec i s with | .next t => p t | _ => false

/-- The word decodes, on a stream, to the instruction. -/
def reads (st : Stream) (w : W32) (i : Instr) : Bool :=
  match decode st false w with | .ok j => j == i | .error _ => false

/-- The word is refused with the error. -/
def refusesWord (st : Stream) (w : W32) (e : DecodeError) : Bool :=
  match decode st false w with | .ok _ => false | .error d => d == e

/-! ## Words written out from the tables, and the spec's own examples -/

/-- 0x01, d 1, a 2, b 3, fn 0 (R94). -/
theorem test_decode_add : reads .s 0b0000001_00001_00010_00011_0000000000 (.add 1 2 3) = true := by decide
/-- The example of R73. -/
theorem test_decode_addi : reads .s 0x0451FFF4 (.addi 5 3 (-12)) = true := by decide
/-- The example of R97. -/
theorem test_decode_lih : reads .s 0x1857FC00 (.lih 5 0x7FC00) = true := by decide
/-- 0x10, a 1, b 2, offset -1 (R98). -/
theorem test_decode_beq : reads .s 0b0010000_00001_00010_111111111111111 (.beq 1 2 (-1)) = true := by decide
/-- 0x20, d 1, a 2, z 3, offset 8 (R101). -/
theorem test_decode_ld : reads .s 0b0100000_00001_00010_11_0000000001000 (.ld 1 2 3 8) = true := by decide
/-- `gset gd3, false` (the example of 10_execution): 0x6600_0302. -/
theorem test_decode_gset : reads .s 0x66000302 (.gset 0 3 2) = true := by decide
/-- The example of R135's format. -/
theorem test_decode_vadd : reads .v 0x020841A0 (.vadd 1 2 3 2 0) = true := by decide
/-- The example of R143. -/
theorem test_decode_vld : reads .v 0x50286003 (.vld 5 12 3) = true := by decide
/-- The example of R166. -/
theorem test_decode_vbdot : reads .v 0x42106233 (.vbdot 2 3 4 3 1 1) = true := by decide
/-- `mnest 0, sw, 1` (07_matrix). -/
theorem test_decode_mnest : reads .m 0x02300001 (.mnest 0 3 1) = true := by decide
/-- `pfx guard=gd3, bound=320` on the C stream (03_encoding). -/
theorem test_decode_pfx : reads .c 0xFE65A000 (.pfx 3 0 5 10 0) = true := by decide
/-- 0x01, ad 3, imm 5 (R79, R216). -/
theorem test_decode_cla : reads .c 0b0000001_0011_000000000000000000101 (.cla 3 0 5) = true := by decide
/-- The example of R248; n less one is stored. -/
theorem test_decode_fload : reads .f 0x02280845 (.fload 20 1 1 5) = true := by decide
/-- `fsched 9, 2, 1` (R249). -/
theorem test_decode_fsched : reads .f 0x08004888 (.fsched 9 1 1) = true := by decide
/-- `peek e4, port` (R245). -/
theorem test_decode_peek : reads .e 0x34900000 (.ePeek 4 4) = true := by decide
/-- `emit e2, east, e4` (R245). -/
theorem test_decode_emit : reads .e 0x36440014 (.eEmitReg 2 1 4) = true := by decide
/-- Unassigned opcodes and sub-functions, reserved values, misused prefixes and nest levels are refused by name (R63, R64, R77). -/
theorem test_refused_words :
    refusesWord .s 0 .illegal = true ∧ refusesWord .s 0b0000001_00001_00010_00011_0000010110 .illegal = true ∧
    refusesWord .s 0b0000001_00001_00010_00011_0000010100 .reserved = true ∧ refusesWord .c 0x18000000 .illegal = true ∧
    refusesWord .m 0b0000001_110_11_00000000000000000001 .nestConfig = true := by decide

/-! ## Ill-formed terms are refused, one for each check (R63, R64, R67, R69) -/

/-- The stream. -/
theorem test_wf_stream : wellFormed .s (.vadd 1 2 3 0 0) = false ∧ wellFormed .v (.vadd 1 2 3 0 0) = true ∧
    wellFormed .s .launch = false := by decide
/-- The sub-function code. -/
theorem test_wf_fn : fnAssigned (.vadd 1 2 3 0 3) = false ∧ fnAssigned (.vabs 1 2 0 3) = false ∧ fnAssigned (.vcmp 1 2 3 0 8) = false ∧
    fnAssigned (.vcvt 1 2 0 15) = false ∧ fnAssigned (.viadd 1 2 3 0 3) = false ∧ fnAssigned (.vimin 1 2 3 0 2) = false ∧
    fnAssigned (.vicmp 1 2 3 0 6) = false ∧ fnAssigned (.vshuf 1 2 3 0 5) = false ∧ fnAssigned (.vmset 1 2 0 3) = false ∧
    fnAssigned (.vred 1 2 0 0 6) = false ∧ fnAssigned (.vscan 1 2 0 4) = false ∧ fnAssigned (.vfn 1 2 0 14) = false ∧
    fnAssigned (.vgate 1 2 3 2) = false ∧ fnAssigned (.vstat 1 2 3 0 2) = false ∧ fnAssigned (.vsmax 1 2 3 0 3) = false := by decide
/-- Prefixes. -/
theorem test_wf_pfx : valuesOk .v (.pfx 0 1 0 0 0) = false ∧ valuesOk .v (.pfx 0 0 1 0 0) = false ∧ valuesOk .s (.pfx 1 0 0 0 0) = false ∧
    valuesOk .s (.pfx 0 0 0 0 2) = false ∧ valuesOk .v (.pfx 0 0 0 0 0x11) = false ∧ valuesOk .v (.pfx 0 0 0 0 0x200) = true := by decide
/-- The S stream's field values. -/
theorem test_wf_s : valuesOk .s (.loop 0 0) = false ∧ valuesOk .s (.ldsx 1 2 3 0) = false ∧ valuesOk .s (.fence 5) = false ∧
    valuesOk .s (.toks 1 1 0) = false ∧ valuesOk .s (.toksRemote 1 208 0 0) = false ∧ valuesOk .s (.tokw 1 14) = false ∧
    valuesOk .s (.gset 1 0 3) = false ∧ valuesOk .s (.gset 1 1 3) = false ∧ valuesOk .s (.gset 0 1 1) = false ∧
    valuesOk .s (.wfe 1 0) = false ∧ valuesOk .s (.domr 1 0 0) = false ∧ valuesOk .s (.seedrd 1 2) = false ∧
    valuesOk .s (.tinfo 1 0 2) = false ∧ valuesOk .s (.tring 4 0 1) = false ∧ valuesOk .s (.tring 0 0 0) = false := by decide
/-- The V stream's. -/
theorem test_wf_v : valuesOk .v (.vshuf 1 2 3 0 4) = false ∧ valuesOk .v (.vbmul 1 2 3 0 0 0) = false ∧ valuesOk .v (.vmset 0 1 0 0) = false ∧
    valuesOk .v (.vmset 1 1 0 1) = false ∧ valuesOk .v (.vmand 0 1 2 0) = false ∧ valuesOk .v (.vmnot 0 1 0) = false ∧
    valuesOk .v (.vred 1 2 3 0 0) = false ∧ valuesOk .v (.vstat 1 2 3 0 0) = false ∧ valuesOk .v (.vstat 1 2 3 1 1) = false ∧
    valuesOk .v (.vsmax 1 2 3 0 0) = false ∧ valuesOk .v (.vrng 1 2 3 0 0) = false ∧ valuesOk .v (.vring 0 0 0) = false ∧
    valuesOk .v (.vtoks 1 0) = false ∧ valuesOk .v (.vtokw 1 1) = false := by decide
/-- The M, C, F and E streams'. -/
theorem test_wf_mcf : valuesOk .m (.mnest 6 0 0) = false ∧ valuesOk .m (.mfmt 0 0 7) = false ∧ valuesOk .m (.mfmt 0 1 6) = false ∧
    valuesOk .m (.macc 3 0 0) = false ∧ valuesOk .m (.macc 0 0 2) = false ∧ valuesOk .m (.mqOpen 0 0) = false ∧
    valuesOk .m (.mtoks 0 0) = false ∧ valuesOk .m (.mtokw 1) = false ∧ valuesOk .m (.mring 0 0 0) = false ∧
    valuesOk .c (.ccpy 13 0 0 0 0) = false ∧ valuesOk .c (.ccpy 0 0 0 4 1) = false ∧ valuesOk .c (.cgath 0 0 14 0 0) = false ∧
    valuesOk .c (.cxfer 15 0 0) = false ∧ valuesOk .c (.cwaitm 0) = false ∧ valuesOk .c (.ctoks 0 0 2) = false ∧
    valuesOk .c (.ctokw 3) = false ∧ valuesOk .c (.cfence 5) = false ∧ valuesOk .c (.cring 0 0 0) = false ∧
    valuesOk .f (.fsched 0 0 1) = false ∧ valuesOk .f (.fopen 0 0 0 1) = false ∧ valuesOk .f (.fstart 0) = false ∧
    valuesOk .f (.fqry 0 1 0 0) = false ∧ valuesOk .f (.ftoks 0 0) = false ∧ valuesOk .f (.ftokw 1) = false ∧
    valuesOk .f (.fring 0 0 0) = false ∧ valuesOk .e (.eCmp 0 0 0 6) = false ∧ valuesOk .e (.eCxch 1 1 0 0 0) = false ∧
    valuesOk .e (.eRecv 0 5) = false ∧ valuesOk .e (.eEmit 0 0 1) = false ∧ valuesOk .e (.eBub 5) = false := by decide

/-! ## The S stream: results, and the hypotheses of the statements about it -/

/-- 5 + 7 (R94), and the wrap at the top of the signed range (R95). -/
theorem test_add : goes (.add 1 2 3) (reg (reg w 2 5) 3 7) (fun t => t.me.rg 1 == 12 && t.me.s.pc == 4) = true ∧
    goes (.addi 1 2 1) (reg w 2 0x7FFFFFFFFFFFFFFF) (fun t => t.me.rg 1 == 0x8000000000000000 && t.me.nflags == 0) = true := by decide
/-- A division by zero: all ones, and dz, which is NFLAGS bit 1 (R95, R36). -/
theorem test_div_zero : goes (.div 1 2 3) (reg w 2 5) (fun t => t.me.rg 1 == BitVec.allOnes 64 && t.me.nflags == 2) = true ∧
    goes (.rem 1 2 3) (reg w 2 5) (fun t => t.me.rg 1 == 5) = true := by decide
/-- Both sides of the divisor's case. -/
theorem witness_ScalarInstructionsCompute : (w.me.rg 2 = 0) ∧ ((reg w 2 1).me.rg 2 ≠ 0) := by decide
/-- Patterns of every kind in each format, chunks and trees of each length, block pairs with and without a NaN; and 0.1 + 0.2, the
quotient of a zero, a sum of blocks (R48 to R51, R54, R56). -/
theorem witness_NumbersRoundOnce :
    let F := FFmt.fp32
    let ones : Blk := { x := some 0, s := List.replicate 32 1 }
    let half : Blk := { x := some (-1), s := List.replicate 32 1 }
    let bad : Blk := { x := none, s := List.replicate 32 0 }
    let l := [(ones, ones), (half, ones)]
    let terms := l.map fun p => ((List.zipWith (· * ·) p.1.s p.2.s).sum, p.1.x.getD 0 + p.2.x.getD 0)
    (F.isFin 0x3DCCCCCD ∧ F.isFin 0x3E4CCCCD ∧ F.neg 0x80000000 = true ∧ (F.decode 0x7F800000).isInf = true ∧ (F.decode 0x7F800001).isSnan = true ∧
      (F.decode 0x7FC00000).isNan = true ∧ FFmt.fe4m3.isFin 0x7E ∧ (FFmt.fe4m3.decode 0x7F).isNan = true ∧ FFmt.fp16.isFin 0xFBFF ∧
      (FFmt.bf16.decode 0xFF80).isInf = true ∧ FFmt.e5m2.isFin 0x7B ∧ (FFmt.fp16.decode 0x7C00).isInf = true) ∧
    [0x3F800000].length = 2 ^ 0 ∧ 2 ^ 1 < [1, 2, 3].length ∧ [1, 2, 3].length ≤ 2 ^ 2 ∧
    (∃ p ∈ [(ones, bad)], p.1.x = none ∨ p.2.x = none) ∧ (∀ p ∈ l, p.1.x ≠ none ∧ p.2.x ≠ none) ∧ (∃ t ∈ terms, t.1 ≠ 0 ∧ t.2 = 0) ∧
    (∀ t ∈ terms, t.1 ≠ 0 → t.2 ≤ 0) ∧ (2 ^ 31 : W32).toNat = 2 ^ 31 ∧
    fpAdd F .rne 0x3DCCCCCD 0x3E4CCCCD = (0x3E99999A, fNx) ∧ fpMul F .rne 0x7F800000 0 = (0x7FC00000, fNv) ∧
    (fpAdd F .rne 0x7F800001 0).1 = 0x7FC00001 ∧ chunkSumMx l = (0x42400000, 0) ∧ chunkSumMx [(ones, bad)] = (0x7FC00000, fNanin) ∧
    canonicalTree [0x3F800000, 0x40000000, 0x40400000] = (0x40C00000, 0) ∧
    -- 1 and 2^-24 are each less than half an ulp from what their sum would lose, and are kept by the exact sum (R54)
    (chunkSumF32 [0x3F800000, 0x33800000, 0x33800000]).1 = 0x3F800001 := by
  unfold FFmt.isFin; decide +kernel
/-- `loop` from 1 ends, from 0 wraps and branches (R100). -/
theorem test_loop : goes (.loop 1 (-1)) (reg w 1 1) (fun t => t.me.rg 1 == 0 && t.me.s.pc == 4) = true ∧
    goes (.loop 1 4) w (fun t => t.me.rg 1 == BitVec.allOnes 64 && t.me.s.pc == 16) = true := by decide
/-- Targets of JALR at a multiple of 4 and not, with a handler. -/
theorem witness_ScalarJumpsAndBranches : ((1 : BitVec 5) ≠ 0) ∧ (((reg w 1 8).me.rg 1 + (-4 : BitVec 15).signExtend 64).toNat % 4 = 0) ∧
    (((reg w 1 8).me.rg 1 + (-1 : BitVec 15).signExtend 64).toNat % 4 ≠ 0) ∧ CanHandle (reg w 1 8) ∧
    goes (.jalr 1 1 (-1)) (reg w 1 8) (fun t => t.me.t.cause == 4 && t.me.t.tval == 7 && t.me.s.pc == 0x1000) = true := by
  unfold CanHandle Handles; decide

/-- A pointer to private memory of logical core 0 (R30). -/
def pv (off : W64) : W64 := 0x8000000000000000 + off
/-- An entry of the load queue. -/
def ldE (n : Nat) (l : Loc) (d : BitVec 5) : LoadEnt := { (default : LoadEnt) with num := n, d := d, loc := l, size := 8 }
/-- An entry of the store queue. -/
def stE (n : Nat) (l : Loc) (v : W64) : StoreEnt := { (default : StoreEnt) with num := n, loc := l, size := 8, val := v }
/-- The state with these queues. -/
def queued (s : State) (ls : List LoadEnt) (ss : List StoreEnt) : State := own s { s.me with sq := { s.me.sq with loads := ls, stores := ss, num := 2 } }

/-- The last doubleword of private memory is in reach and the one after it is not; queues with room and full ones. -/
theorem witness_AccessesIssueOrTrap :
    w.mem.wf = true ∧ place (reg w 2 (pv 0x3FFF8)) (pv 0x3FFF8) 8 false = .at (.priv 0x3FFF8) ∧
    place (reg w 2 (pv 0x3FFF8)) (pv 0x3FFF8) 8 true = .at (.priv 0x3FFF8) ∧
    place (reg w 2 (pv 0x40000)) (pv 0x40000) 8 false = .trap 0x15 ∧ place (reg w 2 (pv 0x40000)) (pv 0x40000) 8 true = .trap 0x15 ∧
    w.me.sq.loads.length < 64 ∧ w.me.sq.stores.length < 64 ∧
    64 ≤ (queued w (List.replicate 64 default) []).me.sq.loads.length ∧ 64 ≤ (queued w [] (List.replicate 64 default)).me.sq.stores.length ∧
    CanHandle (reg w 2 (pv 0x40000)) ∧ ((0x15 : BitVec 7) ≠ 0x20) ∧
    (let p : Pfx := { gslot := 0, gpol := 0, bexp := 5, bman := 10, mods := 0, addr := 0 }
     let b := own (reg w 2 (pv 8)) { (reg w 2 (pv 8)).me with s := { pc := 4, pfx := some p } }
     let held := queued w [{ ldE 1 (.priv 8) 5 with head := true }] []
     boundOf b.me.s.pfx ≠ 0 ∧ held.me.sq.loads.any (·.head) = true ∧
     goes (.ld 1 2 3 0) b (fun t => t.me.sq.loads.map (·.head) == [true] && t.me.s.pc == 4 && t.me.s.wait.isSome) = true ∧
     goes (.ld 1 2 3 0) held (fun t => t.me.sq.loads.length == 1 && t.me.s.pc == 0) = true ∧
     goes .loadDataReturn held (fun t => t.me.sq.loads == [] && t.me.s.pc == 4) = true) ∧
    goes (.ld 1 2 3 0) (reg w 2 (pv 0x3FFF8)) (fun t => t.me.sq.loads.length == 1 && t.me.s.pc == 4) = true ∧
    goes (.st 1 2 3 0) (reg w 2 (pv 0x40000)) (fun t => t.me.t.cause == 0x15 && t.me.t.tval == pv 0x40000) = true ∧
    goes (.cas 1 2 3 1) (reg w 2 (pv 0x40000)) (fun t => t.me.t.cause == 0x15) = true := by
  unfold CanHandle Handles; decide

/-- The oldest load from memory, from an older store that covers it, and the oldest store. -/
theorem witness_QueuedAccessesPerform :
    let s := queued w [ldE 1 (.priv 8) 5] []
    let f := queued w [ldE 1 (.priv 8) 5] [stE 0 (.priv 8) 77]
    w.mem.wf = true ∧ w.me.spad.wf = true ∧ w.me.priv.wf = true ∧ (∀ c ∈ w.rest, c.spad.wf = true) ∧ (8 ∈ [1, 2, 4, 8]) ∧
    (∀ x ∈ f.me.sq.stores, (ldE 1 (.priv 8) 5).barS ≤ x.num) ∧ locInside (.priv 8) 8 (.priv 8) 8 = some 0 ∧
    badWord s.me.badPriv 8 8 = false ∧
    goes .loadDataReturn s (fun t => t.me.rg 5 == 0 && t.me.sq.loads == []) = true ∧
    goes .loadDataReturn f (fun t => t.me.rg 5 == 77) = true ∧
    goes .storePerform (queued w [] [stE 0 (.priv 8) 0x1122]) (fun t =>
      t.me.priv.get 8 == 0x22 && t.me.priv.get 9 == 0x11 && t.me.sq.stores == []) = true := by decide

/-- An aligned doubleword of private memory, and both cases of CAS. -/
theorem witness_AtomicsReadModifyWrite :
    let s := reg (reg w 2 (pv 0x3FFF8)) 3 9
    s.me.sDone = true ∧ place s (s.me.rg 2) 8 true = .at (.priv 0x3FFF8) ∧ badWord s.me.badPriv 0x3FFF8 8 = false ∧
    goes (.amoadd 1 2 3 1) s (fun t => t.me.rg 1 == 0 && t.me.priv.get 0x3FFF8 == 9) = true ∧
    goes (.cas 1 2 3 1) s (fun t => t.me.rg 1 == 0 && t.me.priv.get 0x3FFF8 == 9) = true ∧
    goes (.cas 1 2 3 1) (reg s 1 4) (fun t => t.me.rg 1 == 0 && t.me.priv.get 0x3FFF8 == 0) = true := by decide

/-- A FENCE with nothing and with something to wait for. -/
theorem witness_MarkAndFenceOrder : w.me.storeErr = none ∧ w.me.sq.loads = [] ∧ w.me.sq.stores = [] ∧
    (queued w [default] []).me.sq.loads ≠ [] ∧ (queued w [default] []).me.storeErr = none ∧
    goes (.fence 4) w (fun t => t.me.s.pc == 4) = true ∧
    goes (.fence 0) (queued w [default] []) (fun t => t.me.s.pc == 0 && t.me.s.wait.isSome) = true := by decide

/-- Dirty SRAM lines with writes of the stream, with writes it has acquired, and with others'; a fence writes back the first two. -/
theorem witness_FencesWriteBackWhatTheyCover :
    let line := fun (n : Nat) (who : List (Agent × Nat)) =>
      ({ line := n, retain := false, dirty := true, old := List.replicate 128 0, who := who } : Line)
    let lines := [line 1 [((0, 0), 0)], line 2 [((5, 0), 3)], line 3 [((6, 0), 3)]]
    let s : State := own { w with sram := lines, tick := 1 } { w.me with hb := { w.me.hb with s := [((5, 0), 4)] } }
    let c : State := own { act w .c with sram := [line 1 [((0, 3), 0)], line 2 [((5, 0), 3)], line 3 [((6, 0), 3)]] }
      { (act w .c).me with hb := { w.me.hb with c := [((5, 0), 4)], copied := 1 } }
    let known := fun (p : Agent × Nat) => (p.1 = (s.me.id, 0) ∧ p.2 < s.tick) ∨ p.2 < s.me.hb.s.bound p.1
    let copied := fun (p : Agent × Nat) => (p.1 = (c.me.id, 3) ∧ p.2 < c.me.hb.copied) ∨ p.2 < c.me.hb.c.bound p.1
    (∃ p ∈ (line 1 [((0, 0), 0)]).who, known p) ∧ (∃ p ∈ (line 2 [((5, 0), 3)]).who, known p) ∧ ¬ (∃ p ∈ (line 3 [((6, 0), 3)]).who, known p) ∧
    (∃ p ∈ (line 1 [((0, 3), 0)]).who, copied p) ∧ ¬ (∃ p ∈ (line 3 [((6, 0), 3)]).who, copied p) ∧
    goes (.fence 4) s (fun t => t.sram.map (fun l => (l.line, l.dirty)) == [(1, false), (2, false), (3, true)]) = true ∧
    goes (.fence 0) s (fun t => t.sram == lines) = true ∧ c.me.cp.copies = [] ∧ c.me.cp.errs = [] ∧
    goes (.cfence 4) c (fun t => t.sram.map (fun l => (l.line, l.dirty)) == [(1, false), (2, false), (3, true)]) = true := by decide +kernel

/-! ## Pointers, tokens, cues, guards, events, cuts -/

/-- The example of R30: handle 12, owner 70, offset 0x40. -/
theorem test_spc_tile : goes (.spcTile 1 2 3) (own (reg (reg w 2 0x40) 3 12) { (reg (reg w 2 0x40) 3 12).me with id := 70 })
    (fun t => t.me.rg 1 == 0x900C046000000040) = true := by decide

/-- Operands at and past the limits of each form. -/
theorem witness_PointersAreCheckedAndBuilt :
    ptrCheck1 (pv 0) = true ∧ ptrCheck1 0xB000000000000000 = false ∧
    (2 ^ 56 - 1 : W64).toNat < 2 ^ 56 ∧ 2 ^ 56 ≤ (2 ^ 56 : W64).toNat ∧ (0x3FFFF : W64).toNat < 0x40000 ∧ 0x40000 ≤ (0x40000 : W64).toNat ∧
    (0xFFFFFFFF : W64).toNat < 2 ^ 32 ∧ 2 ^ 32 ≤ (0x100000000 : W64).toNat ∧ (255 : W64).toNat < 256 ∧ 256 ≤ (256 : W64).toNat ∧
    (207 * 256 + 255 : W64).toNat < 2 ^ 20 ∧ (207 * 256 + 255 : W64).toNat / 256 ≤ 207 ∧ 207 < (208 * 256 : W64).toNat / 256 ∧
    (208 * 256 : W64).toNat < 2 ^ 20 ∧ 2 ^ 20 ≤ (0x100000 : W64).toNat ∧ CanHandle w ∧
    goes (.spcShared 1 2 3) (reg w 3 (208 * 256)) (fun t => t.me.t.cause == 0x14 && t.me.t.tval == 0) = true ∧
    goes (.spcPrivate 1 2) (reg w 2 0x40000) (fun t => t.me.t.cause == 0x15) = true ∧
    goes (.spcOffset 1 2) (reg w 2 0xB000000000000000) (fun t => t.me.t.cause == 0x14) = true := by
  unfold CanHandle Handles; decide

/-- The state with tokens in a channel. -/
def toks (s : State) (ch : Nat) (l : List W16) : State := own s (s.me.setChan ch l)

/-- A channel with room and a full one; the outbound buffer with room and full; an engine with nothing in progress. -/
theorem witness_TokenSendsQueueOrHold :
    let full := toks (reg w 1 4) 2 (List.replicate 32 0)
    let out := own w { w.me with sq := { w.me.sq with outq := List.replicate 32 default } }
    w.cur.st = .s ∧ w.me.sDone = true ∧ w.me.v.forked = false ∧ w.me.m.cur = none ∧ w.me.cp.copies = [] ∧ w.me.cp.errs = [] ∧
    (w.me.chan 13).length < 32 ∧ 32 ≤ (full.me.chan 2).length ∧ 32 ≤ out.me.sq.outq.length ∧ out.me.sDone = true ∧
    goes (.toks 1 2 5) (reg w 1 4) (fun t => t.me.chan 2 == [9] && t.me.s.pc == 4) = true ∧
    goes (.toks 1 2 5) full (fun t => t.me.s.pc == 0 && t.me.s.wait == some { kind := 2, obj := 2 }) = true ∧
    goes (.toksRemote 1 3 2 5) (reg w 1 4) (fun t => t.me.sq.outq.map (fun o => (o.core, o.ch, o.val, o.due)) == [(3, 2, 9, none)]) = true ∧
    goes (.toksRemote 1 3 2 5) out (fun t => t.me.s.wait.isSome) = true ∧
    goes (.fqry 0 0 0 0) (act w .f) (fun t => t.me.chan 1 == [0x8000]) = true := by decide

/-- A token to take and an empty channel, on the S stream and on the V stream. -/
theorem witness_TokenWaitsTakeOrHold :
    let s := toks w 13 [7, 8]
    let v := toks (act w .v) 0 [7]
    s.lateWait = none ∧ (13 : BitVec 4).toNat < 14 ∧ s.me.chan 13 = 7 :: [8] ∧ w.me.chan 13 = [] ∧ v.cur.st = .v ∧ v.me.v.forked = false ∧
    v.me.chan 0 = 7 :: [] ∧
    goes (.tokw 1 13) s (fun t => t.me.rg 1 == 7 && t.me.chan 13 == [8] && t.me.s.pc == 4) = true ∧
    goes (.tokw 1 13) w (fun t => t.me.s.pc == 0 && t.me.s.wait == some { kind := 2, obj := 13 }) = true ∧
    goes (.vtokw 3 0) v (fun t => laneOf t 15 3 255 == 7 && t.me.e.pc == 4) = true := by decide +kernel

/-- A sheet whose cue 2 is at cycle 10, in use at the timed level, at a cycle of the take. -/
def cued (y : Nat) : State :=
  inst0 (own { w with cc := y } { w.me with castcls := 0, level := 0 }) { ({} : Inst) with holds := true, cues := 3, sheets := [(0, [(2, 10)])] }

/-- Before, at and after the cycle of a cue; a cue the cast lacks; the ordered level; a stream held at a cue, and in a handler. -/
theorem witness_CuesHoldUntilTheirCycle :
    let s := cued 9
    let o := own s { s.me with level := 1 }
    let h := own (cued 10) { (cued 10).me with s := { wait := some { kind := 3, obj := 2 } } }
    s.me.timed = true ∧ o.me.timed = false ∧ s.myInst.cues ≤ (3 : BitVec 20).toNat ∧ (2 : BitVec 20).toNat < s.myInst.cues ∧
    cueCycle s s.me 2 = some 10 ∧ s.takecc s.me < 10 ∧ (cued 10).takecc (cued 10).me = 10 ∧ 10 < (cued 11).takecc (cued 11).me ∧
    (cued 11).myInst.tfd = false ∧ CanHandle s ∧ CanHandle (cued 11) ∧ h.me.life = .running ∧ cueDue h h.me h.me.s = true ∧
    cueDue s s.me s.me.s = false ∧ h.me.t.hmode = false ∧ (own h { h.me with t := { hmode := true } }).me.t.hmode = true ∧
    goes (.cue 2) s (fun t => t.me.s.pc == 0 && t.me.s.wait.isSome) = true ∧ goes (.cue 2) (cued 10) (fun t => t.me.s.pc == 4) = true ∧
    goes (.cue 2) (cued 11) (fun t => t.me.t.cause == 0x48 && t.me.t.tval == 2) = true ∧
    goes (.cue 3) s (fun t => t.me.t.cause == 0x4A) = true ∧ goes (.cue 2) o (fun t => t.me.s.pc == 4) = true ∧
    goes .cueReached h (fun t => t.me.s.pc == 4) = true := by
  unfold CanHandle Handles; decide

/-- Events that a WFE asks for and lacks; SEV to the last logical core and past it; a delivery that is due. -/
theorem witness_GuardsAndEventsReachTheirTargets :
    let e := own w { w.me with events := 5 }
    let d : State := { w with sevs := [{ ctx := 0, bits := 2, due := 0 }] }
    w.me.sDone = true ∧ w.me.events &&& 4 = 0 ∧ e.me.events &&& 4 ≠ 0 ∧ 207 < ((reg w 1 208).me.rg 1).toNat % 256 ∧
    ((reg w 1 207).me.rg 1).toNat % 256 ≤ 207 ∧ CanHandle (reg w 1 208) ∧ d.me.life = .running ∧
    d.sevs.find? (fun f => f.ctx == d.me.id && f.due ≤ d.cc) = some { ctx := 0, bits := 2, due := 0 } ∧
    goes (.gset 0 3 2) w (fun t => t.me.guard 3 == 2 && t.me.guard 2 == 0) = true ∧
    goes (.wfe 1 4) e (fun t => t.me.rg 1 == 4 && t.me.events == 1) = true ∧
    goes (.wfe 1 4) w (fun t => t.me.s.wait == some { kind := 8, obj := 4 }) = true ∧
    goes (.sev 1 2) (reg w 1 208) (fun t => t.me.t.cause == 0x14 && t.me.t.tval == 208) = true ∧
    goes .sevDelivery d (fun t => t.me.events == 2 && t.sevs == []) = true := by
  unfold CanHandle Handles; decide

/-- Route tag 1 of the instance covers domain 0 at level 1. -/
def tagged (s : State) : State :=
  inst0 (own s { s.me with e := { halted := true }, c := { halted := true } }) { ({} : Inst) with holds := true, btcfg := Vector.replicate 8 0x0100 }

/-- A context that may arrive at its cut, one that may not, one of no domain of the tag; a cut that is due; a token in flight. -/
theorem witness_CutsEndTakes :
    let s := tagged w
    let busy := queued s [default] []
    let held := own s { s.me with s := { wait := some { kind := 9, obj := 1 } } }
    let f : CutFlight := { inst := 0, tag := 1, due := 0 }
    let last : State := own { s with cuts := [f] } { s.me with arrived := some 1 }
    let o : OutTok := { core := 0, ch := 2, val := 9, due := some (0, 0) }
    let sent := own w { w.me with sq := { w.me.sq with outq := [o] } }
    s.me.life = .running ∧ s.me.t.hmode = false ∧ s.me.storeErr = none ∧ inDomain s.myInst s.me 1 = true ∧ inDomain w.myInst w.me 1 = false ∧
    s.me.cp.errs = [] ∧ cutReady s s.me = true ∧ cutReady busy busy.me = false ∧ CanHandle w ∧ held.me.arrived = none ∧
    held.me.s.wait = some { kind := 9, obj := (1 : BitVec 3).setWidth 20 } ∧ cutReady held held.me = true ∧
    last.cuts.find? (fun f => f.inst == last.cur.inst && f.tag == 1 && f.due ≤ last.cc) = some f ∧ last.allArrived 0 1 = true ∧
    instOf last.me.id = last.cur.inst ∧ last.me.lcore < 208 ∧ ((last.inst last.cur.inst).btcfg[1]).extractLsb' 8 3 ≠ 7 ∧
    (∀ c ∈ sent.rest, c.sq.outq = []) ∧ sent.me.sq.outq = o :: [] ∧ o.core.toNat = sent.me.lcore ∧ (sent.me.chan (6 + 2)).length < 32 ∧
    goes (.cut 1) s (fun t => t.me.arrived == some 1 && t.me.s.pc == 0) = true ∧ goes (.cut 1) busy (fun t => t.me.arrived == none) = true ∧
    goes (.cut 1) w (fun t => t.me.t.cause == 0x4B && t.me.t.tval == 1) = true ∧
    goes .cutArrival held (fun t => t.me.arrived == some 1) = true ∧
    goes (.cutComplete 1) last (fun t => t.me.take == 1 && (t.inst 0).btcnt[1] == 1 && t.me.s.pc == 4 && t.cuts == []) = true ∧
    goes .remoteTokenDelivery sent (fun t => t.me.chan 8 == [9] && t.me.sq.outq == []) = true := by
  unfold CanHandle Handles; decide

/-- A context that has arrived at a cut on a package tag which is due, with a fork of the seed and a level pending. -/
def packageCut : State :=
  let ch : Change := { op := 5, tag := 9, arg := 2, seed := 0, take := 0, late := false }
  let push : Change := { op := 2, tag := 8, arg := 0, seed := 7, take := 0, late := false }
  let f : CutFlight := { inst := 0, tag := 1, due := 0 }
  let pk : State := inst0 { tagged w with cuts := [f] } { ({} : Inst) with holds := true, btcfg := Vector.replicate 8 0x0700, seeds := [5], pending := [push, ch],
                                                                             remap := canonRemap w.hub }
  own pk { pk.me with arrived := some 1 }

/-- The same, where the remap is not the canonical one. -/
def rejoiningCut : State := inst0 packageCut { packageCut.inst 0 with remap := Vector.replicate 208 9 }

/-- A cut on a package tag at which no die rejoins, and one at which the remap returns to the canonical one (R24, R353). -/
theorem witness_PackageCutsAndTokensOfOthers :
    let last := packageCut; let home := rejoiningCut
    let f : CutFlight := { inst := 0, tag := 1, due := 0 }
    last.me.life = .running ∧ last.Proper ∧ OnPackage last 1 ∧ Rejoins last = false ∧ OnPackage home 1 ∧ Rejoins home = true ∧ home.Proper ∧
    last.cuts.find? (fun f => f.inst == last.cur.inst && f.tag == 1 && f.due ≤ last.cc) = some f ∧ last.allArrived 0 1 = true ∧
    home.allArrived 0 1 = true ∧ inDomain (last.inst 0) last.me 1 = true := by
  unfold State.Proper ProperCtxs OnPackage; decide +kernel

/-- The pending changes apply at a package cut, with their status records (R24, R277, R287). -/
theorem witness_PackageCutsAndTokensOfOthers_changes :
    goes (.cutComplete 1) packageCut (fun t => (t.inst 0).pending.length == 0 && (t.inst 0).seeds == [7, 5] && (t.inst 0).level == 2 && t.me.level == 2 &&
      t.hub.statq.map (fun r => (r.code, r.tag)) == [(0, 8), (0, 9)]) = true := by decide +kernel

/-- The remap returns to the canonical one at a package cut (R353). -/
theorem witness_PackageCutsAndTokensOfOthers_rejoins :
    goes (.cutComplete 1) rejoiningCut (fun t => (t.inst 0).remap[3] == (canonRemap w.hub)[3]) = true := by decide +kernel

/-- Tokens of two senders for another context, one of them not due (R113). -/
theorem witness_PackageCutsAndTokensOfOthers_tokens :
    let o := fun (v : W16) (sp : Nat) (due : Nat) => ({ core := 2, ch := 3, val := v, due := some (due, sp) } : OutTok)
    let from_ := fun (n : BitVec 12) (l : List OutTok) => ({ ctx1 with id := n, sq := { ({} : SQueues) with outq := l } } : Ctx)
    let s := { own w { w.me with id := 2 } with rest := [from_ 1 [o 7 0 0, o 8 0 5], from_ 0 [o 9 0 0]] }
    s.Proper ∧ (∀ ch, ch < 8 → (s.me.chan (6 + ch)).length + (dueTokens s s.me.id ch).length ≤ 32) ∧
    goes .remoteTokenDelivery s (fun t => t.me.chan 9 == [9, 7] && t.rest.map (·.sq.outq.length) == [1, 0]) = true := by
  unfold State.Proper ProperCtxs; decide +kernel

/-- A seed stack with a top. -/
theorem witness_DomainsSeedsAndHandlesRead :
    let s := inst0 w { ({} : Inst) with seeds := [0x10000000000000002] }
    s.myInst.seeds = 0x10000000000000002 :: [] ∧ (1 : BitVec 8) ≠ 0 ∧
    goes (.seedrd 1 1) s (fun t => t.me.rg 1 == 1) = true ∧ goes (.seedrd 1 0) s (fun t => t.me.rg 1 == 2) = true ∧
    goes (.domr 1 1 1) s (fun t => t.me.rg 1 == 1) = true ∧ goes (.domr 1 1 0) s (fun t => t.me.rg 1 == 0) = true ∧
    goes (.rnga 3 1 2) (reg s 1 5) (fun t => t.me.rn[3] == (0, 5)) = true := by decide

/-! ## Folio slots, tiles, rings, control registers, traps -/

/-- FOLIO with every check passing, and failing each in turn. -/
theorem witness_FolioSlotsBindAndEmpty :
    let ok := reg (reg w 1 0x100) 2 0x0303
    ((ok.me.rg 1).extractLsb' 56 8 = 0 ∧ (ok.me.rg 1).toNat % 256 = 0 ∧ (ok.me.rg 2).toNat % 64 ≠ 0 ∧ (ok.me.rg 2).toNat % 64 ≤ 3 ∧
      (ok.me.rg 2).extractLsb' 6 2 = 0) ∧ CanHandle ok ∧
    goes (.folio 1 2 63) ok (fun t => t.me.slot 63 == { st := 1, nin := 3, lat := 3, image := 0x100, hash := 0 }) = true ∧
    goes (.folio 1 2 0) (reg ok 1 (2 ^ 56)) (fun t => t.me.t.cause == 0x21 && t.me.t.tval == 0x11) = true ∧
    goes (.folio 1 2 0) (reg ok 1 0x180) (fun t => t.me.t.cause == 0x21 && t.me.t.tval == 0x12) = true ∧
    goes (.folio 1 2 0) (reg ok 2 0x0304) (fun t => t.me.t.cause == 0x21 && t.me.t.tval == 0x13) = true ∧
    goes (.folio 1 2 0) (reg ok 2 0x0343) (fun t => t.me.t.cause == 0x21 && t.me.t.tval == 0x14) = true := by
  unfold CanHandle Handles; decide +kernel

/-- A row tile of FP32 elements: 16 rows of 16 columns in 1024 bytes. -/
def rowTile : Tile := { valid := true, rows := 16, cols := 16, size := 1024 }
/-- The ring of the example of R19: 4 slots, head 3, 2 filled. -/
def ring4 : Tile := { valid := true, level := 3, rows := 1, cols := 1, size := 1024, slots := 4, head := 3, filled := 2 }

/-- A legal descriptor with room, an illegal one, one too large, a handle in use; a free and a busy handle. -/
theorem witness_TilesAreAllocatedAndFreed :
    let ok := reg (reg w 1 0x0000001000100050) 2 1024
    let x := ok.me.rg 1
    let busy := tileAt w 5 { rowTile with busy := 1 }
    (x.extractLsb' 48 16 = 0 ∧ x.getLsbD 3 = false ∧ (x.extractLsb' 0 3).toNat ≤ 3 ∧ x.extractLsb' 16 16 ≠ 0 ∧ x.extractLsb' 32 16 ≠ 0 ∧
      x.extractLsb' 8 8 = 0 ∧ (ok.me.rg 2).toNat ≠ 0 ∧ (ok.me.rg 2).toNat % 256 = 0 ∧ (ok.me.rg 2).toNat ≤ 2 ^ 23) ∧
    (ok.me.tile 5).valid = false ∧ spadFree ok.me 0 1024 = true ∧ CanHandle ok ∧
    (busy.me.tile 5).valid = true ∧ (busy.me.tile 5).busy ≠ 0 ∧ ((tileAt w 5 rowTile).me.tile 5).busy = 0 ∧
    goes (.talloc 3 1 2 5) ok (fun t => t.me.rg 3 == 0 && (t.me.tile 5).size == 1024 && (t.me.tile 5).fmt == 5) = true ∧
    goes (.talloc 3 1 2 5) (reg ok 2 1000) (fun t => t.me.t.cause == 0x18 && t.me.t.tval == 5) = true ∧
    goes (.talloc 3 1 2 5) (tileAt ok 4 { rowTile with size := 2 ^ 23 }) (fun t => t.me.t.cause == 0x19) = true ∧
    goes (.tfree 5) (tileAt w 5 rowTile) (fun t => !(t.me.tile 5).valid) = true ∧
    goes (.tfree 5) busy (fun t => (t.me.tile 5).valid && t.me.s.wait == some { kind := 7, obj := 5 }) = true ∧
    goes (.tfree 5) w (fun t => t.me.t.cause == 0x16 && t.me.t.tval == 5) = true := by
  unfold CanHandle Handles; decide +kernel

/-- The ring of R19 with one slot committed, two released, and more asked of it than it has; a handle that is no ring. -/
theorem witness_RingsProduceAndConsume :
    let s := tileAt w 7 ring4
    let e := s.me.tile 7
    s.lateWait = none ∧ s.strm.busy = none ∧ s.cur.st = .s ∧ s.me.sDone = true ∧ e.valid = true ∧ e.level = 3 ∧
    (4 : BitVec 8).toNat ≤ e.slots.toNat ∧ e.slots.toNat < (5 : BitVec 8).toNat ∧ e.filled.toNat ≤ e.slots.toNat ∧ e.busy ≠ 255 ∧
    CanHandle s ∧ (w.me.tile 7).valid = false ∧ ((tileAt w 7 rowTile).me.tile 7).level ≠ 3 ∧
    (act s .v).me.v.forked = false ∧ (act s .v).me.v.pend = [] ∧ (act s .m).me.m.cur = none ∧ (act s .c).me.cp.copies = [] ∧
    goes (.tring 0 7 1) s (fun t => (t.me.tile 7).filled == 3 && (t.me.tile 7).head == 3) = true ∧
    goes (.tring 1 7 1) s (fun t => (t.me.tile 7).filled == 1 && (t.me.tile 7).head == 0) = true ∧
    goes (.tring 0 7 3) s (fun t => (t.me.tile 7).filled == 2 && t.me.s.wait == some { kind := 4, obj := 7 }) = true ∧
    goes (.fring 1 3 7) (act s .f) (fun t => (t.me.tile 7).busy == 1 && (t.me.tile 7).filled == 2 && t.me.e.wait.isSome) = true ∧
    goes (.tring 1 7 5) s (fun t => t.me.t.cause == 0x18 && t.me.t.tval == 7) = true ∧
    goes (.tring 1 7 1) w (fun t => t.me.t.cause == 0x16) = true := by
  unfold CanHandle Handles; decide +kernel

/-- Legal and reserved values of MODDEF and NFLAGS; a read-only register and an unassigned one. -/
theorem witness_ControlRegistersReadAndWrite :
    let s := reg (reg w 1 0x6600) 2 0x3600
    let legal := fun (v : W64) => v.toNat < 2 ^ 16 ∧ v.getLsbD 12 = false ∧ v.getLsbD 0 = false ∧ 2 ≤ v.toNat / 2 ^ 13 ∧
      v.toNat / 2 ^ 9 % 8 ≤ 4 ∧ v.toNat / 2 ^ 5 % 4 ≠ 3 ∧ v.toNat / 2 ^ 2 % 8 ≤ 3
    legal (s.me.rg 1) ∧ ¬ legal (s.me.rg 2) ∧ (255 : W64).toNat < 256 ∧ 256 ≤ (256 : W64).toNat ∧ CanHandle s ∧
    goes (.csrw 1 0x010) s (fun t => t.me.moddef == 0x6600 && t.me.s.pc == 4) = true ∧
    goes (.csrw 2 0x010) s (fun t => t.me.t.cause == 0x02) = true ∧ goes (.csrw 1 0x000) s (fun t => t.me.t.cause == 0x01) = true ∧
    goes (.csrr 3 0x007) s (fun t => t.me.t.cause == 0x01) = true ∧ goes (.csrr 3 0x020) s (fun t => t.me.rg 3 == 0x1000) = true ∧
    goes (.csrs 1 0x020 3) s (fun t => t.me.t.tvec == 0x7603) = true ∧
    -- the value that CSRS would write is reserved, or does not fit
    ¬ legal (s.me.moddef ||| s.me.rg 1 ||| (1 : BitVec 5).setWidth 64) ∧ 256 ≤ ((s.me.nflags.setWidth 64) ||| s.me.rg 1 ||| (0 : BitVec 5).setWidth 64).toNat ∧
    goes (.csrs 1 0x010 1) s (fun t => t.me.t.cause == 0x02) = true ∧ goes (.csrs 1 0x011 0) s (fun t => t.me.t.cause == 0x02) = true ∧
    goes (.csrs 1 0x000 0) s (fun t => t.me.t.cause == 0x01) = true := by
  unfold CanHandle Handles; decide

/-- In handler mode, with and without kept registers; traps handed to the host, with saves enabled. -/
theorem witness_TrapsEnterAndLeaveTheHandler :
    let h := own w { w.me with t := { tvec := 0x1000, epc := 0x40, hmode := true, cause := 5 } }
    let k : KeptTrap := { cause := 1, tval := 2, epc := 3, tseqs := 4, tseqe := 5, tseqc := 6, slot := 0 }
    let hk := own h { h.me with t := { h.me.t with kept := some k } }
    let f := inst0 { w with hub := { hub1 with funcmode := 4 } } { ({} : Inst) with savebase := 1 }
    CanHandle w ∧ f.me.t.hmode = false ∧ f.hub.funcmode.getLsbD 2 = true ∧ f.canSave f.me.id = true ∧ h.me.t.hmode = true ∧
    h.me.sq.loads = [] ∧ h.me.sq.stores = [] ∧ h.me.sq.errs = [] ∧ h.me.t.kept = none ∧ hk.me.t.kept = some k ∧
    goes (.trap 9) w (fun t => t.me.t.cause == 5 && t.me.t.tval == 9 && t.me.s.pc == 0x1000 && t.me.t.hmode) = true ∧
    goes (.trap 9) h (fun t => t.me.life == .removed && t.me.t.cause == 6) = true ∧
    goes (.trap 9) f (fun t => t.me.life == .stopped && !t.me.t.hmode) = true ∧
    -- the save area can be written, or lies in a stack that is out of service
    (let u := inst0 { f with bdies := f.bdies.set 0 { (f.bdie 0) with en := false } } { ({} : Inst) with savebase := 0x4000000001 }
     f.me.copyUnder = false ∧ f.me.imageDue = none ∧ f.areaHeld f.me.id = false ∧ u.canSave u.me.id = true ∧ u.areaHeld u.me.id = true ∧
     goes (.trap 9) f (fun t => t.me.imageDue.isNone) = true ∧ goes (.trap 9) u (fun t => t.me.imageDue == some 4) = true) ∧
    goes .eret h (fun t => t.me.s.pc == 0x40 && !t.me.t.hmode) = true ∧ goes .eret hk (fun t => t.me.t.epc == 3) = true ∧
    goes .eret w (fun t => t.me.t.cause == 1) = true ∧ goes .halt h (fun t => t.me.life == .removed && t.me.t.cause == 5) = true := by
  unfold CanHandle Handles; decide +kernel

/-- A matrix instruction in progress. -/
def mBusy (s : State) (i : Instr) : State :=
  own s { s.me with m := { s.me.m with cur := some { i := i, addr := 0, seq := 0, cache := 0, headCc := 0, bound := 0, fetched := true, pair := none } } }

/-- An S stream with nothing outstanding and with an access outstanding, and matrix engines at rest and at work. -/
theorem witness_NopsPrefixesAndEnds :
    let b := queued w [default] []
    let m := mBusy (act w .m) .mnop
    w.cur.st = .s ∧ w.me.m.cur = none ∧ m.me.m.cur ≠ none ∧ w.me.sq.errs = [] ∧ w.me.t.hmode = false ∧ w.me.sDone = true ∧
    b.me.sDone = false ∧ goes .nop w (fun t => t.me.s.pc == 4 && t.me.s.seq == 1) = true ∧
    goes .halt w (fun t => t.me.s.halted && t.me.s.pc == 0) = true ∧ goes .halt b (fun t => !t.me.s.halted) = true ∧
    goes .mwait m (fun t => t.me.e.wait.isSome) = true ∧ goes .fwaitEnd (act w .f) (fun t => t.me.e.halted) = true := by decide

/-! ## The V stream -/

/-- The V stream acting. -/
def v0 : State := act w .v
/-- Forked clusters, cluster 2 acting. -/
def fk : State :=
  let had : Cluster := { ({} : Cluster) with st := { lastCc := some 0 } }
  { own v0 { v0.me with v := { v0.me.v with forked := true, cl := ((Vector.replicate 16 {}).set 0 had).set 1 had } } with
    cur := { v0.cur with cl := 2 } }

/-- FP32 1.5 + 2.25 (R40) in the last lane of the acting cluster, under a full mask. -/
theorem test_vadd : goes (.vadd 1 2 3 0 0) (vec (vec fk 2 fun _ => 0x3FC00000) 3 fun _ => 0x40100000) (fun t =>
    laneOf t 2 1 255 == 0x40700000 && (t.me.v.cluster 2).st.pc == 4 && t.me.v.pend.length == 1) = true := by decide +kernel
/-- The example of R169: lane 0 receives -674. -/
theorem test_vbdot : goes (.vbdot 2 3 4 3 1 1) (vec (vec fk 3 fun _ => 0x05FD7F80) 4 fun _ => 0x00009F27) (fun t =>
    laneOf t 2 2 0 == 0xFFFFFD5E) = true := by decide +kernel
/-- The table of R62, words 3 to 0, which R157 puts into lanes 3 to 0. -/
theorem test_vrng : mcg128 0 0 = 0x87AA77CCF001422DB7A8A97B5C745ABA := by decide +kernel
/-- I8 saturation: 127 + 1 (R41), wrapping and under the saturation modifier. -/
theorem test_viadd : goes (.viadd 1 2 3 0 1) (vec (vec fk 2 fun _ => 127) 3 fun _ => 1) (fun t => laneOf t 2 1 7 == 0xFFFFFF80) = true ∧
    goes (.viadd 1 2 3 0 1) (own (vec (vec fk 2 fun _ => 127) 3 fun _ => 1)
      { (vec (vec v0 2 fun _ => 127) 3 fun _ => 1).me with moddef := 0x6602 }) (fun t => laneOf t 2 1 7 == 127) = true := by decide +kernel

/-- The V stream acts; the types and conditions are the operands' own. -/
theorem witness_IntegerLanesCompute : v0.cur.st = .v ∧
    goes (.vimin 1 2 3 0 1) (vec fk 2 fun _ => 0xFFFFFFFF) (fun t => laneOf t 2 1 0 == 0) = true ∧
    goes (.vicmp 1 2 3 0 4) (vec fk 2 fun _ => 0xFFFFFFFF) (fun t => laneOf t 2 1 0 == 0) = true := by decide +kernel

/-- Floating-point lanes run for every state of the V stream. -/
theorem witness_FloatLanesCompute : v0.cur.st = .v ∧
    goes (.vgate 1 2 3 0) (vec fk 3 fun _ => 0x3F800000) (fun t => laneOf t 2 1 0 == 0) = true := by decide +kernel

/-- Lanes that move, in lockstep and forked, and a writable mask register; `vext` while forked traps (R147). -/
theorem witness_LanesMoveAndMasksCombine : v0.cur.st = .v ∧ v0.me.v.forked = false ∧ fk.me.v.forked = true ∧ CanHandle fk ∧ ((1 : BitVec 3) ≠ 0) ∧
    goes (.vshuf 1 2 3 0 4) (vec fk 2 fun j => BitVec.ofNat 32 j) (fun t => laneOf t 2 1 0 == 255 && laneOf t 2 1 255 == 0) = true ∧
    goes (.vext 1 2 0 1) fk (fun t => t.me.t.cause == 0x24) = true ∧
    goes (.vmset 1 2 0 2) fk (fun t => (t.me.v.cluster 2).mreg 1 == 0 && (t.me.v.cluster 2).mreg 0 == BitVec.allOnes 256) = true := by
  unfold CanHandle Handles; decide +kernel

/-- Each code of the reductions and statistics; the V stream acts. -/
theorem witness_ReductionsAndStatistics : v0.cur.st = .v ∧
    goes (.vred 1 2 0 0 3) (vec fk 2 fun j => BitVec.ofNat 32 j) (fun t => laneOf t 2 1 200 == 32640) = true ∧
    goes (.vred 1 2 0 0 4) (vec fk 2 fun j => BitVec.ofNat 32 j) (fun t => laneOf t 2 1 0 == 255) = true ∧
    goes (.vsmax 1 0 0 0 2) fk (fun t => laneOf t 2 1 0 == 0xFF800000 && laneOf t 2 1 3 == 0) = true := by decide +kernel

/-- A row tile of 64 KiB of FP32 elements (the example of R143). -/
def bigTile : Tile := { valid := true, fmt := 0, rows := 64, cols := 256, size := 65536 }

/-- The last vector group inside the example's tile, and the first past it; an invalid and a matrix handle. -/
theorem witness_VectorTileAccesses :
    let s := tileAt v0 12 bigTile
    vecCheck s 12 3 true = none ∧ vecCheck s 12 3 false = none ∧ vecInside bigTile (16 * 4) = false ∧ (s.me.tile 12).busy ≠ 255 ∧
    s.me.badSpad = [] ∧ s.me.spad.wf = true ∧ (s.me.tile 12).fmt.toNat < 10 ∧ 10 ≤ (0xB : BitVec 4).toNat ∧
    splitBlock ((s.me.v.cluster 0).mreg 0) = false ∧ CanHandle s ∧ (v0.me.tile 12).valid = false ∧
    s.me.v.forked = false ∧ (s.me.tile 12).level ≠ 1 ∧ ((tileAt v0 12 { bigTile with level := 1 }).me.tile 12).level = 1 ∧
    goes (.vld 5 12 3) s (fun t => (t.me.tile 12).busy == 1 && laneOf t 15 5 255 == 0) = true ∧
    goes (.vld 5 12 4) s (fun t => t.me.t.cause == 0x1A && t.me.t.tval == 0) = true ∧
    goes (.vst 5 12 4) v0 (fun t => t.me.t.cause == 0x16 && t.me.t.tval == 12) = true := by
  unfold CanHandle Handles; decide +kernel

/-- Block tiles, one of columns that are no multiple of 256, the Q4 forms, a mask that splits a block, a tile that holds the vector
of cluster 0 alone (R143, R144, R146). -/
theorem witness_BlockTilesAndRanges :
    let blk := fun (n : BitVec 4) => ({ valid := true, fmt := n, rows := 16, cols := 256, size := 16384 } : Tile)
    let s := tileAt v0 12 (blk 0xE)
    let odd := tileAt v0 12 { blk 0xE with cols := 128 }
    let q := tileAt v0 12 (blk 0xF)
    let half := own fk { fk.me with v := { fk.me.v with cl := fk.me.v.cl.map fun c => { c with m := c.m.set 0 1 } } }
    let split := own (tileAt half 12 (blk 0xE)) { (tileAt half 12 (blk 0xE)).me with
      v := { half.me.v with cl := half.me.v.cl.map fun c => { c with st := { c.st with pfx := some { gslot := 0, gpol := 0, bexp := 0, bman := 0, mods := 0x200, addr := 0 } } } } }
    let one := tileAt v0 12 { bigTile with rows := 1, size := 1024 }
    let u := fun (k : BitVec 4) => 16 * vecGroup (one.me.tile 12) 0 + k.toNat
    vecCheck s 12 0 true = none ∧ vecCheck s 12 0 false = none ∧ s.vPfxMask = 0 ∧ splitBlock ((s.me.v.cluster 3).mreg 0) = false ∧
    (s.me.tile 12).cols ≠ 0 ∧ (odd.me.tile 12).cols.toNat % 256 ≠ 0 ∧ (512 : BitVec 11).extractLsb' 9 2 ≠ 0 ∧
    vecCheck split 12 0 false = none ∧ splitBlock ((split.me.v.cluster 2).mreg split.vPfxMask) = true ∧ Runs split 2 ∧
    vecInside (one.me.tile 12) (u 0) = true ∧ vecInside (one.me.tile 12) (u 1) = false ∧ CanHandle s ∧ CanHandle split ∧
    goes (.vst 5 12 0) s (fun t => t.me.e.pc == 4) = true ∧ goes (.vld 5 12 0) q (fun t => t.me.e.pc == 4) = true ∧
    goes (.vst 5 12 512) q (fun t => t.me.e.pc == 4) = true ∧
    goes (.vld 5 12 512) q (fun t => t.me.t.cause == 0x18) = true ∧ goes (.vst 5 12 0) odd (fun t => t.me.t.cause == 0x18) = true ∧
    goes (.vst 5 12 0) split (fun t => t.me.t.cause == 0x18 && t.me.t.tval == 12) = true ∧
    goes (.vld 5 12 0) one (fun t => t.me.t.cause == 0x1A && t.me.t.tval == 1) = true := by
  unfold CanHandle Handles Runs; decide +kernel

/-- The first and the last unit of a lockstep access, and a forked one. -/
theorem witness_IndexedAccessesGoByUnits :
    let s := vec (tileAt v0 12 bigTile) 3 fun _ => 12
    let l := own s { s.me with piV := 240 }
    let f := vec (tileAt fk 12 bigTile) 3 fun _ => 12
    s.cur.st = .v ∧ s.me.badSpad = [] ∧ xCheck s 2 0 (s.xHandles 3) = none ∧ (s.xHandles 3).all (fun p => (s.me.tile p.2).busy != 255) = true ∧
    ¬ (s.me.v.forked = true ∨ 240 ≤ s.me.piV.toNat) ∧ 240 ≤ l.me.piV.toNat ∧ f.me.v.forked = true ∧ xCheck f 2 0 (f.xHandles 3) = none ∧
    goes (.vldx 1 2 3 0) l (fun t => t.me.piV == 0 && t.me.e.pc == 4) = true ∧
    -- of the lanes that name element 0 the last of the highest cluster wins
    s.me.spad.wf = true ∧ (f.me.v.forked = true → f.me.piV = 0) ∧
    goes (.vstx 1 2 3 0) (vec s 1 fun j => BitVec.ofNat 32 j) (fun t => t.me.elemAt 0 0 0 == 15) = true := by decide +kernel

/-- A width pair with a slot width and one without; a resident folio with its frame, a bound slot and an empty one. -/
theorem witness_BricksAndFolios :
    let image : List Byte := []
    let fr : CoreFrames := { socket := 0, core := 0, frames := Vector.replicate 4 { valid := true, image := image } }
    let r : State := { own v0 { v0.me with folio := v0.me.folio.set 0 { st := 2, nin := 1 } } with cores := [fr] }
    slotWidth 3 3 = some 16 ∧ slotWidth 6 4 = none ∧ CanHandle v0 ∧ (r.me.slot 0).st = 2 ∧
    (r.coreFrames.toList.find? (fun f => f.tagged r.me.id 0)).isSome = true ∧ (v0.me.slot 0).st ≠ 2 ∧
    goes (.vbmul 2 3 4 6 4 1) v0 (fun t => t.me.t.cause == 0x22) = true ∧
    goes (.vx 1 2 0 5 0) v0 (fun t => t.me.t.cause == 0x20 && t.me.t.tval == 0x45) = true := by
  unfold CanHandle Handles; decide +kernel

/-- Forms that a forked V stream may not issue trap at their word (R147, R161, R165, R326). -/
theorem witness_ForkedFormsTrap : fk.me.v.forked = true ∧ CanHandle fk ∧ fk.lateWait = none ∧ fk.strm.busy = none ∧ (2 : BitVec 4).toNat < 14 ∧
    goes (.vtoks 1 2) fk (fun t => t.me.t.cause == 0x24 && t.me.t.tval == 0) = true ∧
    goes (.vtokw 1 2) fk (fun t => t.me.t.cause == 0x24) = true ∧ goes (.vring 0 1 7) fk (fun t => t.me.t.cause == 0x24) = true := by
  unfold CanHandle Handles; decide +kernel

/-- Forked and joined states, sync bits set and clear, V instructions pending and none. -/
theorem witness_ClustersForkJoinAndBranch :
    let last : State := own fk { fk.me with v := { fk.me.v with cl := (Vector.replicate 16 { ({} : Cluster) with join := some 0 }).set 2 {} } }
    let odd : State := own fk { fk.me with v := { fk.me.v with cl := (Vector.replicate 16 { ({} : Cluster) with join := some 8 }).set 2 {} } }
    let y := own v0 { v0.me with v := { v0.me.v with y := 0x0010 } }
    let pend := own v0 { v0.me with v := { v0.me.v with pend := [{ seq := 0, flags := 0x10, handle := none }] } }
    v0.me.v.forked = false ∧ fk.me.v.forked = true ∧ (∃ k, k ≠ fk.cur.cl ∧ (fk.me.v.cluster k).join = none) ∧
    (∀ k, k ≠ last.cur.cl → (last.me.v.cluster k).join = some last.strm.pc) ∧ odd.cur.cl ≠ 0 ∧ (odd.me.v.cluster 0).join = some 8 ∧
    (8 : W64) ≠ odd.strm.pc ∧ (∀ k, k ≠ odd.cur.cl → (odd.me.v.cluster k).join.isSome = true) ∧ CanHandle fk ∧ CanHandle odd ∧ CanHandle v0 ∧
    v0.lateWait = none ∧ y.me.v.y.getLsbD 4 = true ∧ v0.me.v.y.getLsbD 4 = false ∧ lowerWaits y = false ∧ v0.me.v.pend = [] ∧
    pend.me.v.pend ≠ [] ∧
    goes .vfork v0 (fun t => t.me.v.forked) = true ∧ goes .vjoin fk (fun t => t.me.v.forked && (t.me.v.cluster 2).join == some 0) = true ∧
    goes .vjoin last (fun t => !t.me.v.forked && t.me.e.pc == 4) = true ∧ goes .vjoin odd (fun t => t.me.t.cause == 0x24 && t.me.t.tval == 8) = true ∧
    goes (.vsyw 4) y (fun t => t.me.v.y == 0 && t.me.e.pc == 4) = true ∧ goes (.vsyw 4) v0 (fun t => t.me.e.wait.isSome) = true ∧
    goes (.vflags 1) pend (fun t => t.me.e.pc == 0) = true ∧
    goes .vInstructionCompletion pend (fun t => t.me.nflags == 0x10 && t.me.v.pend == []) = true := by
  unfold CanHandle Handles; decide +kernel

/-! ## The C stream -/

/-- Global memory whose first GiB is mapped, readable and writable, onto itself (R302): the level-4 entry at 0, the level-3 leaf
at 0x1000, and data at 0x20000. -/
def mapped : State :=
  let s := inst0 { act w .c with mem := { cells := [(0, 0x01), (1, 0x10), (0x1000, 0x0B), (0x20000, 0x11), (0x20001, 0x22)] } }
    { ({} : Inst) with holds := true, ptroot := 1 }
  own { s with hub := { s.hub with linkUp := Vector.replicate 36 0xFF } } (s.me.setTile 5 rowTile)

/-- The state with address registers from 0 on. -/
def ars (s : State) (l : List W64) : State :=
  own s { s.me with cp := { s.me.cp with a := Vector.ofFn fun i => l.getD i.val 0 } }

/-- A descriptor of one row of 64 bytes at 0x20000, to the tile's start (R216). -/
def desc1 : List W64 := [0x20000, 64 * 2 ^ 40 + 2 ^ 20 + 1, 0, 0]

/-- The state with scoreboard token 1 raised, and with a pending copy error on it. -/
def sbUp (s : State) : State := own s { s.me with cp := { s.me.cp with sb := s.me.cp.sb.set 1 1 } }
/-- A deferred error of copy 3. -/
def cErr : CErr := { seq := 3, sb := 1, cause := 0x39, val := 7 }

/-- Clear and raised scoreboard tokens, errors of other tokens and of these, copies in progress and none, each scope. -/
theorem witness_AddressRegistersAndCopyWaits :
    let s := mapped
    let e := own s { s.me with cp := { s.me.cp with errs := [cErr] } }
    let b := own s { s.me with cp := { s.me.cp with copies := [default] } }
    s.lateWait = none ∧ (∀ n : BitVec 3, (2 : BitVec 8).getLsbD n.toNat = true → s.me.cp.sb[n.toNat] = 0) ∧
    ¬ (∀ n : BitVec 3, (2 : BitVec 8).getLsbD n.toNat = true → (sbUp s).me.cp.sb[n.toNat] = 0) ∧
    (∀ x ∈ e.me.cp.errs, (1 : BitVec 8).getLsbD x.sb.toNat = false) ∧ CanHandle e ∧
    e.me.cp.errs.find? (fun x => (2 : BitVec 8).getLsbD x.sb.toNat) = some cErr ∧ cErr.cause ≠ 0x20 ∧ e.me.cp.errs = cErr :: [] ∧
    s.me.cp.copies = [] ∧ s.me.cp.errs = [] ∧ b.me.cp.copies ≠ [] ∧
    goes (.cla 3 1 5) s (fun t => t.me.ar 3 == 0x50000 && t.me.c.pc == 4) = true ∧ goes (.cadd 3 (-1)) s (fun t => t.me.ar 3 == BitVec.allOnes 64) = true ∧
    goes (.cwaitm 2) (sbUp s) (fun t => t.me.c.wait == some { kind := 5, obj := 2 }) = true ∧
    goes (.cwaitm 2) e (fun t => t.me.t.cause == 0x39 && t.me.t.tval == 0x300000007 && t.me.cp.errs == []) = true ∧
    goes (.cfence 4) b (fun t => t.me.c.pc == 0) = true ∧ goes (.cfence 4) s (fun t => t.me.c.pc == 4) = true := by
  unfold CanHandle Handles; decide +kernel

/-- Translations that hold, and the first address that faults. -/
def mapsTo : Captured → Bool
  | .ok _ _ => true
  | _ => false
/-- The address of a page fault. -/
def faultOf : Captured → Option Nat
  | .fault va _ => some va
  | _ => none

/-- The bytes of an answer without an error. -/
def bytesOf {β σ : Type} : Acc (List (Option Byte) × Option β × σ) → Option (List (Option Byte))
  | .ok (b, none, _) => some b
  | _ => none

/-- A pointer to tile 5 of logical core 0 (R30). -/
def ptr5 : W64 := 0x9005000000000000

/-- Operands with which each kind of copy passes its checks, and its result; a transfer that leaves at once, one behind a copy, and one
whose request is lost; a root that is this context and one that is another. -/
theorem witness_CopiesIssue :
    let s := ars mapped desc1
    let one := fun (i : Instr) (s : State) => goes i s fun t => t.me.cp.copies.length == 1 && t.me.cp.sb[1] == 1 && t.me.c.pc == 4
    let xf := ars mapped [0xA000005000000000, 64 * 2 ^ 40]
    let xg : State := { ars mapped [0xA000105000000000, 64 * 2 ^ 40] with rest := [{ ctx1 with id := 1 }] }
    let lost : State := { xg with cur := { xg.cur with loss := some (BitVec.ofNat 6 (xg.socketOf 1)) } }
    let late : State := own xf { xf.me with runCc := 320, c := { xf.me.c with headCc := some 0, pfx := some { gslot := 0, gpol := 0, bexp := 5, bman := 10, mods := 0, addr := 0 } } }
    let bound := own xf { xf.me with t := { xf.me.t with hmode := true } }
    let two := own xf { xf.me with cp := { xf.me.cp with copies := [default] } }
    let ga := ars mapped [0x20000, ptr5, 64 * 2 ^ 40 + 2 ^ 20, 2 ^ 32 + 64, 64]
    let mt := tileAt (ars mapped [0x20000, 256 * 2 ^ 40 + 2 ^ 20 + 1, 0, 0]) 5 { rowTile with level := 1, fmt := 6, rows := 1, cols := 256 }
    let co := ars mapped [ptr5, ptr5 + 64, 4]
    let co1 : State := { (ars mapped [ptr5, ptr5, 2 ^ 32 + 4]) with rest := [{ ctx1 with id := 1 }] }
    s.cur.st = .c ∧ s.me.cp.copies.length < 32 ∧ s.mem.wf = true ∧ (∀ k, (s.me.tile k).busy ≠ 255) ∧ s.me.cp.sb[1] ≠ 65535 ∧
    descCheck s.me 0 5 0 none 64 64 = none ∧ mapsTo (captures 0 false ((descOf desc1).segs 64) [] s) = true ∧
    mapsTo (captures 0 true ((descOf desc1).segs 64) [] s) = true ∧
    one (.ccpy 0 1 5 0 0) s = true ∧ one (.ccpyOut 0 1 5 0 0) s = true ∧
    trLen (mt.me.tile 5) = 256 ∧ descCheck mt.me 0 5 0 none 256 (trRow (mt.me.tile 5) 0) = none ∧ one (.ccpy 0 1 5 0 1) mt = true ∧
    one (.cwst 0 1) (ars mapped [0x20000, 2 ^ 32 + 1]) = true ∧ one (.ctab 1 5) s = true ∧ s.me.badSpad = [] ∧ s.me.flipSpad = [] ∧
    gathCheck ga 0 1 2 5 = none ∧ mapsTo (captures 0 false (endSegs ptr5 4) [] ga) = true ∧
    bytesOf (ga.endRead [] 0 0 (ptrEnd ga.me ptr5) 0 4) = some [some 0, some 0, some 0, some 0] ∧
    one (.cgath 0 1 2 1 5) ga = true ∧ one (.cscat 0 1 2 1 5) ga = true ∧
    xf.unanswered (xf.socketOf 0) (xf.socketOf 0) = none ∧ lost.noWay 1 = some (0x51, BitVec.ofNat 32 (lost.socketOf 1)) ∧ xf.noWay 0 = none ∧ canIssue xf .c = true ∧
    boundExpired xf.me xf.strm = false ∧ boundExpired late.me late.strm = true ∧ canIssue bound .c = false ∧ bound.me.life = .running ∧
    ptrTag (xf.me.ar 0) = 10 ∧ ptrCheck1 (xf.me.ar 0) = true ∧ ptrCheck2 xf (xf.me.headed xf.strm) (xf.me.ar 0) = true ∧
    goes (.cxfer 0 1 5) xf (fun t => t.xfers.length == 1) = true ∧ goes (.cxfer 0 1 5) lost (fun t => t.xfers == [] && t.me.cp.errs.length == 1) = true ∧
    goes (.cxfer 0 1 5) two (fun t => t.xfers == [] && t.me.cp.copies.length == 2) = true ∧
    goes (.cxfer 0 1 5) late (fun t => t.xfers == [] && t.me.cp.copies.length == 1) = true ∧
    goes (.cxfer 0 1 5) bound (fun t => t.xfers == [] && t.me.cp.copies.length == 1) = true ∧
    endCheck co ptr5 16 = none ∧ mapsTo (captures 0 false (endSegs ptr5 16) [] co) = true ∧ one (.cred 0 1 2 1 0 0 0) co = true ∧
    (co.group co.me (co.me.headed co.strm).dsl).findIdx? (fun z => z.id == co.me.id) = some 0 ∧ one (.cbcst 0 1 2 1 0) co = true ∧
    (co1.group co1.me (co1.me.headed co1.strm).dsl).length = 2 ∧
    (co1.group co1.me (co1.me.headed co1.strm).dsl).findIdx? (fun z => z.id == co1.me.id) = some 0 ∧ one (.cbcst 0 1 2 1 0) co1 = true ∧
    one (.cmig 0 1 0) s = true ∧ one (.cpref 0 1 1) (ars mapped [0x20000, 64]) = true ∧
    endCheck (ars mapped [0x20000, 0x30000, 32]) 0x30000 32 = none ∧ one (.crrd 0 1 2 1) (ars mapped [0x20000, 0x30000, 32]) = true ∧
    sparseWidth { rowTile with fmt := 1 } = some 2 ∧
    one (.ccpys 0 1 5 0) (tileAt (ars mapped [0x20000, 64 * 2 ^ 40 + 2 ^ 20 + 1, 0, 0]) 5 { rowTile with fmt := 1 }) = true := by
  decide +kernel

/-- An access that a home answers. -/
def answers {α : Type} : Acc α → Bool
  | .ok _ => true
  | _ => false

/-- A descriptor of no rows, an address that is not mapped, a matrix tile, an invalid handle, a bad code table, bad fields of each kind of
copy, a group table whose other rank has no port in service, a full copy engine. -/
theorem witness_CopyChecksTrapOrHold :
    let s := ars mapped [0x20000, 0, 0, 0]
    let far := ars mapped [2 ^ 40, 64 * 2 ^ 40 + 2 ^ 20 + 1, 0, 0]
    let mt := tileAt s 5 { rowTile with level := 1, fmt := 6, rows := 1, cols := 256 }
    let bad := own s { s.me with spad := s.me.spad.set 6 1 }
    let full := own s { s.me with cp := { s.me.cp with copies := List.replicate 32 default } }
    let tab : List W64 := [0x8000000000000000 + 0x3F0000, 0x8000000000000001]
    let grp := (ars { mapped with hub := { mapped.hub with colltab := Vector.ofFn fun i => tab.getD i.val 0 } } [ptr5, ptr5, 4])
    let traps := fun (i : Instr) (s : State) (c : BitVec 7) (v : W64) => goes i s fun t => t.me.t.cause == c && t.me.t.tval == v
    s.cur.st = .c ∧ CanHandle s ∧ CanHandle bad ∧ CanHandle grp ∧ descCheck s.me 0 5 0 none 0 0 = some (0x38, 0) ∧
    descCheck mt.me 0 5 0 (trBad (mt.me.tile 5) (descOf (descRegs mt.me 0)) 0 0) 0 288 = some (0x38, 0) ∧ sparseWidth rowTile = none ∧
    sparseWidth { rowTile with fmt := 1 } = some 2 ∧ descCheck far.me 0 5 0 none 64 64 = none ∧
    faultOf (captures 0 true ((descOf [2 ^ 40, 64 * 2 ^ 40 + 2 ^ 20 + 1, 0, 0]).segs 64) [] far) = some (2 ^ 40) ∧
    gathCheck s 0 1 2 5 = some (0x38, 2) ∧ (s.me.tile 6).valid = false ∧ 1024 ≤ (s.me.tile 5).size.toNat ∧
    codeOk (BitVec.ofNat 32 (bad.me.spad.readLE 4 4)) = false ∧ codeOk (BitVec.ofNat 32 (bad.me.spad.readLE 0 4)) = true ∧
    collRank grp.hub = some 0 ∧ grp.deadRank 0 = some 1 ∧ endCheck grp ptr5 16 = none ∧
    32 ≤ full.me.cp.copies.length ∧ (full.me.ar 0).extractLsb' 56 8 = 0 ∧
    traps (.ccpy 0 1 5 0 0) s 0x38 0 = true ∧ traps (.ccpyOut 0 1 5 0 0) far 0x10 (2 ^ 40) = true ∧
    traps (.cwst 15 1) s 0x38 15 = true ∧ traps (.cwst 0 1) s 0x38 1 = true ∧
    traps (.cwst 0 1) (ars mapped [2 ^ 56 - 1, 2 * 2 ^ 32 + 1]) 0x14 (2 ^ 56 - 1) = true ∧
    traps (.ctab 1 6) s 0x16 6 = true ∧ traps (.ctab 1 5) (tileAt s 5 { rowTile with size := 512 }) 0x1A 0 = true ∧
    traps (.ctab 1 5) bad 0x3D 1 = true ∧ traps (.cxfer 0 1 5) s 0x38 0 = true ∧
    traps (.cxfer 0 1 5) (ars mapped [0, 2 ^ 40 + 2 ^ 32]) 0x38 1 = true ∧ traps (.cxfer 0 1 5) (ars mapped [0, 1025 * 2 ^ 40]) 0x1A 0 = true ∧
    traps (.cxfer 0 1 5) (ars mapped [0, 2 ^ 40]) 0x14 0 = true ∧
    traps (.cxfer 0 1 5) (ars mapped [0xA000105000000000, 2 ^ 40]) 0x13 0xA000105000000000 = true ∧
    traps (.cred 0 1 2 1 0 0 0) s 0x38 2 = true ∧ traps (.cbcst 0 1 2 1 0) s 0x38 2 = true ∧ traps (.cred 0 1 2 1 1 0 0) grp 0x3A 1 = true ∧
    traps (.cpref 0 1 1) (ars mapped [2 ^ 56, 1]) 0x14 (2 ^ 56) = true ∧ traps (.cpref 0 1 1) s 0x38 1 = true ∧
    traps (.crrd 0 1 2 1) (ars mapped [1]) 0x38 0 = true ∧ traps (.crrd 0 1 2 1) s 0x38 2 = true ∧
    goes (.cmig 0 1 0) full (fun t => t.me.c.wait == some { kind := 7, obj := 0 }) = true := by
  unfold CanHandle Handles; decide +kernel

/-- A full scoreboard token, and a handle whose busy count is full. -/
theorem witness_CopiesWaitForTokensAndHandles :
    let d := ars mapped desc1
    let sb := own d { d.me with cp := { d.me.cp with sb := d.me.cp.sb.set 1 65535 } }
    let b := tileAt d 5 { rowTile with busy := 255 }
    sb.me.cp.sb[1] = 65535 ∧ (b.me.tile 5).busy = 255 ∧ b.me.cp.copies.length < 32 ∧ descCheck b.me 0 5 0 none 64 64 = none ∧
    goes (.ccpy 0 1 5 0 0) sb (fun t => t.me.c.wait == some { kind := 7, obj := 0 }) = true ∧
    goes (.ccpy 0 1 5 0 0) b (fun t => t.me.c.wait == some { kind := 7, obj := 5 }) = true := by decide +kernel

/-- A copy in progress. -/
def copying (i : Instr) (ops : List W64) (hs : List (BitVec 8)) : Copy :=
  { (default : Copy) with i := i, ops := ops, handles := hs, pages := [(2, 0x20000)] }
/-- The state with this copy alone, token 1 counting it. -/
def withCopy (s : State) (k : Copy) : State :=
  own s { (k.handles.foldl Ctx.busyUp s.me) with cp := { s.me.cp with copies := [k], sb := s.me.cp.sb.set 1 1 } }

/-- A copy of one row in, out, sparse and transposed, a gathered, padded and scattered row, a page move and a table. -/
theorem witness_CopiesComplete :
    let s := withCopy mapped (copying (.ccpy 0 1 5 0 0) desc1 [5])
    let d := descOf desc1
    let out := withCopy (own mapped { mapped.me with spad := mapped.me.spad.set 1 7 }) (copying (.ccpyOut 0 1 5 0 0) desc1 [5])
    let sp := withCopy (tileAt (tileAt mapped 5 { rowTile with fmt := 1 }) 6 rowTile) (copying (.ccpys 0 1 5 0) [0x20000, 16 * 2 ^ 40 + 2 ^ 20 + 1, 0, 0] [5])
    let spm : State := { sp with mem := sp.mem.set 0x20008 0x44 }
    let g : List W64 := [0x20000, 0, 64 * 2 ^ 40 + 2 ^ 20, 2 ^ 32 + 64, 64]
    let row := fun (i : Instr) (x : W32) => withCopy mapped { copying i g [5] with table := [x] }
    let rows := withCopy (own mapped { mapped.me with spad := mapped.me.spad.set 64 7 }) { copying (.cscat 0 1 2 1 5) g [5] with table := [0] }
    let tab := { copying (.ctab 1 5) [] [5] with table := List.replicate 256 1 }
    let ends := fun (s : State) (p : State → Bool) => goes .copyComplete s fun t =>
      p t && t.me.cp.copies == [] && t.me.cp.sb[1] == 0 && (t.me.tile 5).busy == 0
    s.me.spad.wf = true ∧ s.mem.wf = true ∧ canIssue s .c = true ∧ s.me.piC = 0 ∧ (s.me.tile 5).level ≠ 3 ∧ s.me.badSpad = [] ∧
    s.me.flipSpad = [] ∧ d.n1 = 1 ∧ d.n2 = 1 ∧ 0 < d.len ∧ d.base.toNat % 65536 + 64 ≤ 65536 ∧
    pagePa [(2, 0x20000)] 0x20000 = some 0x20000 ∧ answers (homeState s (s.socketOf s.me.id) 0x20000) = true ∧ poisoned s 0x20000 64 = false ∧
    ends s (fun t => t.me.spad.get 0 == 0x11 && t.me.spad.get 1 == 0x22) = true ∧ ends out (fun t => t.mem.get 0x20000 == 0 && t.mem.get 0x20001 == 7) = true ∧
    sparseWidth (sp.me.tile 5) = some 2 ∧ sparseRow 16 2 = 9 ∧ 16 % (8 * 2) = 0 ∧
    -- the metadata 0x44 puts the two elements of each group at positions 0 and 1
    ends spm (fun t => t.me.spad.get 0 == 0x11 && t.me.spad.get 1 == 0x22 && t.me.spad.get 2 == 0) = true ∧
    padIndex ≠ 0 ∧ ends (row (.cgath 0 1 2 1 5) 0) (fun t => t.me.spad.get 64 == 0x11) = true ∧
    ends (row (.cgath 0 1 2 1 5) padIndex) (fun t => t.me.spad.get 64 == 0) = true ∧
    ends rows (fun t => t.mem.get 0x20000 == 7 && t.mem.get 0x20001 == 0) = true ∧ ends (row (.cscat 0 1 2 1 5) padIndex) (fun t => t.mem == mapped.mem) = true ∧
    tab.table.length = 256 ∧ ends (withCopy mapped tab) (fun t => t.me.cp.shadowWritten && t.me.cp.shadowTab[255] == 1) = true := by
  decide +kernel

/-- A transposing copy of one row of 256 bytes. -/
theorem witness_CopiesComplete_transposed :
    let tr := withCopy (tileAt mapped 5 { rowTile with level := 1, fmt := 6, rows := 1, cols := 256 })
      (copying (.ccpy 0 1 5 0 1) [0x20000, 256 * 2 ^ 40 + 2 ^ 20 + 1, 0, 0] [5])
    let ends := fun (s : State) (p : State → Bool) => goes .copyComplete s fun t =>
      p t && t.me.cp.copies == [] && t.me.cp.sb[1] == 0 && (t.me.tile 5).busy == 0
    trLen (tr.me.tile 5) = 256 ∧ ends tr (fun t => t.me.spad.get 0 == 9 && t.me.spad.get 64 == 0 && t.me.spad.get 128 == 9) = true := by
  decide +kernel

/-- Two rows that cross a page and do not overlap, in and out; a gather of a padded row and one that is not; a prefetch, and a page
asked to move to HBM or asked to stay. -/
theorem witness_CopiesOfManyRowsComplete :
    let d : List W64 := [0x2FFE0, 64 * 2 ^ 40 + 2 * 2 ^ 20 + 1, 128 * 2 ^ 32, 0]
    let k := fun (i : Instr) => { copying i d [5] with pages := [(2, 0x20000), (3, 0x30000)] }
    let loc := fun (r x : Nat) => (descOf d).row r + x
    let s : State := { withCopy mapped (k (.ccpy 0 1 5 0 0)) with mem := (mapped.mem.set 0x30000 5).set 0x30060 6 }
    let out := withCopy (own mapped { mapped.me with spad := (mapped.me.spad.set 32 5).set 64 6 }) (k (.ccpyOut 0 1 5 0 0))
    let g := withCopy mapped { copying (.cgath 0 1 2 1 5) [0x20000, 0, 64 * 2 ^ 40 + 2 ^ 20, 2 ^ 32 + 64, 64] [5] with table := [padIndex, 0] }
    let m := fun (t : BitVec 1) => withCopy mapped (copying (.cmig 0 1 t) [0x20000] [])
    let ask : MigReq := { b := 0, f := 2, host := mapped.hub.migMode == 1 }
    (descOf d).rows = 2 ∧ (∀ r ∈ [0, 1], ∀ x ∈ [0, 31, 32, 63], pagePa (k (.ccpy 0 1 5 0 0)).pages ((descOf d).row r + x) = some (loc r x) ∧
      answers (homeState s (s.socketOf s.me.id) (loc r x)) = true ∧ poisoned s (loc r x) 1 = false) ∧
    (k (.ccpy 0 1 5 0 0)).expired 0 = false ∧ (walk mapped 0 0x20000 false).pa = some 0x20000 ∧ isHbm 0x20000 = false ∧
    goes .copyComplete s (fun t => t.me.spad.get 32 == 5 && t.me.spad.get 64 == 6 && t.me.cp.copies.length == 0) = true ∧
    goes .copyComplete out (fun t => t.mem.get 0x30000 == 5 && t.mem.get 0x30060 == 6 && t.me.cp.copies.length == 0) = true ∧
    goes .copyComplete g (fun t => t.me.spad.get 64 == 0 && t.me.spad.get 128 == 0x11) = true ∧
    goes .copyComplete (withCopy mapped (copying (.cpref 0 1 1) [0x20000, 200] [])) (fun t => t.sram.any fun l => l.line == 0x400 + 1) = true ∧
    goes .copyComplete (m 0) (fun t => t.migReqs == [ask]) = true ∧ goes .copyComplete (m 1) (fun t => t.migReqs == []) = true := by
  decide +kernel

/-- A remote read, whatever the other package's stack answers. -/
theorem witness_RemoteRead :
    let k := copying (.crrd 0 1 2 1) [0x20000, ptr5, 32] [5]
    let s := withCopy mapped k
    ptrTag (k.op 1) = 9 ∧ 0 < (k.op 2).toNat ∧ (k.op 2).toNat ≤ 4096 ∧ canIssue s .c = true ∧ s.me.piC = 0 ∧
    k.got = [] ∧ k.put = 0 ∧ s.me.cp.errs = [] := by decide +kernel

/-- Two contexts at one reduction and at one broadcast whose contributions are there (R227, R228): 1 + 2 = 3 as integers; a splice
transfer that is due; and a frame of the other package of a group table. -/
theorem witness_CollectivesAndTransfersComplete :
    let half := fun (k : Copy) (n : Byte) => { k with got := [some n, some 0, some 0, some 0], sent := true, put := 0 }
    let red := copying (.cred 0 1 2 1 0 0 3) [ptr5, ptr5, 1] [5]
    let cast := copying (.cbcst 0 1 2 1 0) [ptr5, ptr5, 2 ^ 32 + 4] [5]
    let two : Copy → Byte → Byte → State := fun k a b =>
      let o := (withCopy mapped (half k b)).me
      { withCopy mapped (half k a) with rest := [{ o with id := 1 }], cc := 16 }
    let s := two red 1 2
    let kx := copying (.cxfer 0 1 5) [0xA000105000000000, 2 ^ 40] [5]
    let f : XferFlight := { src := 0, dst := 1, seq := 0, h := 5, off := 0, bytes := [], due := 0 }
    let d : Ctx := { (ctx1.setTile 5 rowTile) with id := 1 }
    let x : State := { withCopy (own mapped { mapped.me with spad := mapped.me.spad.set 0 7 }) { kx with sent := true } with rest := [d], xfers := [f] }
    let tab : List W64 := [0x8000000000000000 + 0x3F0000, 0x8000000000000001]
    let far := { red with i := .cred 0 1 2 1 1 0 3 }
    let grp : State := { withCopy mapped far with
      hub := { mapped.hub with colltab := Vector.ofFn fun i => tab.getD i.val 0 }, ports := mapped.ports.set 0 { en := true, up := true } }
    canIssue s .c = true ∧ s.me.life = .running ∧ s.me.cp.copies.map (·.isColl 0) = [true] ∧ (s.group s.me 0).map (·.id) = [0, 1] ∧
    (s.group s.me 0).map (fun c => (s.mate c [0, 1]).map (·.fields)) = [some red.fields, some red.fields] ∧
    (s.group s.me 0).map (fun c => (s.mate c [0, 1]).map (·.got)) = [some [some 1, some 0, some 0, some 0], some [some 2, some 0, some 0, some 0]] ∧
    s.legsTime (s.group s.me 0) (s.me.cp.copies ++ s.me.cp.copies) = true ∧ (∀ d ∈ s.group s.me 0, s.legsFault red (s.group s.me 0) d = none) ∧
    ptrTag (red.op 1) = 9 ∧ s.me.cp.copies.map (·.combined) = [false] ∧ s.me.cp.copies.map (·.bound) = [0] ∧
    goes .copyComplete s (fun t => t.me.spad.readLE 0 4 == 3 && t.me.cp.copies == [] && t.me.cp.sb[1] == 0) = true ∧
    goes .copyComplete (two cast 1 2) (fun t => t.me.spad.get 0 == 2 && t.me.cp.copies == []) = true ∧
    x.flight = some f ∧ f.first ≤ x.cc ∧ f.due ≤ x.cc ∧ x.noWay 1 = none ∧ (x.ctx? 1).map (·.id) = some d.id ∧ f.dst ≠ x.me.id ∧ d.life = .running ∧ (d.tile 5).valid = true ∧ (d.tile 5).busy ≠ 255 ∧
    f.off + 1 ≤ (d.tile 5).size.toNat ∧ d.badSpad = [] ∧ d.flipSpad = [] ∧ d.spad.wf = true ∧ x.me.badSpad = [] ∧
    goes .cxferArrival x (fun t => ((t.ctx? 1).map fun c => c.spad.get 0) == some 7 && t.xfers == []) = true ∧
    collRank grp.hub = some 0 ∧ (collEntries grp.hub).length = 2 ∧ rankPort grp.hub 1 = 0 ∧ grp.portUp 0 = true ∧ far.isColl 1 = true ∧
    goes (.remoteCollectiveFrame 1 0 (0, some 0) 5) grp (fun t => t.me.cp.copies.map (·.remote) == [[(1, 0, 5)]]) = true := by decide +kernel

/-! ## The M stream -/

/-- The M stream acts. Tile 5 holds a record of 256 I8 activations, the first of them 2; tile 6 is an accumulator of 4 by 4 elements at
1024; tile 7 holds a row of 256 N4 weights; the active bank has one I8 column whose first weight is 3. -/
def mat : State :=
  let s := { mapped with cur := { mapped.cur with st := .m } }
  let c := ((s.me.setTile 5 { rowTile with level := 1, fmt := 6, rows := 1, cols := 256, size := 512 }).setTile 6
    { rowTile with level := 2, rows := 4, cols := 4, base := 1024, size := 256 }).setTile 7
    { rowTile with fmt := 8, rows := 1, cols := 256, base := 2048, size := 256 }
  own s { c with e := {}, spad := c.spad.set 0 2,
                 m := { c.m with fmt := 6, active := { fmt := 6, nw := 1, loaded := true, bytes := ({} : Mem).set 0 3 } } }
/-- The state with the matrix engine given by a function of it. -/
def eng (s : State) (f : MState → MState) : State := own s { s.me with m := f s.me.m }
/-- An instruction in progress, its operands fetched. -/
def doing (s : State) (i : Instr) : State := (mBusy s i)
/-- Accumulator element (row, 0) of tile 6 set. -/
def accSet (s : State) (row : Nat) (v : Nat) : State := own s { s.me with spad := s.me.spad.writeLE (1024 + 16 * row) 4 v }
/-- A CWST of one byte for one column, in a code table whose code 0x11 stands for 128 bytes 9. -/
def stream1 : Copy :=
  { copying (.cwst 0 1) [0x20000, 2 ^ 32 + 1] [] with table := (List.replicate 256 0).set 0x11 0x4000097F }

/-- An engine at rest and one at work, shadow banks with weights and without. -/
theorem witness_MatrixConfigurationIsSet :
    let b := mBusy mat .mnop
    let l := eng mat fun m => { m with shadow := m.active }
    mat.me.m.cur = none ∧ b.me.m.cur ≠ none ∧ l.me.m.shadow.loaded = true ∧ mat.me.m.shadow.loaded = false ∧ CanHandle mat ∧
    goes (.mnest 5 3 0x80000) mat (fun t => (t.me.m.shadowNest[5]).sw == 0xFFF80000 && t.me.e.pc == 4) = true ∧
    goes (.macc 2 3 1) mat (fun t => t.me.m.mode == 1 && t.me.m.depth == 3 && !t.me.m.arm) = true ∧
    goes .mwsw l (fun t => t.me.m.shadow.loaded) = true ∧ goes .mwsw mat (fun t => t.me.t.cause == 0x33 && t.me.t.tval == 0) = true ∧
    goes (.msplit 7) b (fun t => t.me.e.wait.isSome && t.me.m.j == 0) = true := by
  unfold CanHandle Handles; decide +kernel

/-- Tiles and address registers that pass the checks, and each check failing; a weight stream for the MWLD that waits, of a number of
columns at the format's limit and past it. -/
theorem witness_LongMatrixInstructionsBegin :
    let s := mat
    let t := eng mat fun m => { m with mode := 2, depth := 1 }
    let waits : Copy → State := fun k => { eng s (fun m => { m with want := some 8 }) with
      me := { (eng s fun m => { m with want := some 8 }).me with cp := { s.me.cp with copies := [k] } } }
    let wide := { stream1 with ops := [0x20000, 2 ^ 32 + 8193] }
    let odd := own s { s.me with cp := { s.me.cp with a := s.me.cp.a.set 0 1 } }
    let nested := fun (s : State) => { s.me with m := { s.me.m with activeNest := s.me.m.shadowNest } }
    s.me.m.cur = none ∧ (∀ k, (s.me.tile k).busy ≠ 255) ∧ mwldCheck s.me 7 8 = none ∧ fetchCheck s.me 0 = none ∧ isWeightFmt 8 = true ∧
    isWeightFmt 0 = false ∧ mgoCheck (nested s) 5 6 0 = none ∧ mqCheck t.me 1 6 0 = none ∧ CanHandle s ∧
    (waits stream1).me.cp.copies = stream1 :: [] ∧ (waits stream1).me.m.want = some 8 ∧ canIssue (waits stream1) .c = true ∧
    ((stream1.op 1).extractLsb' 0 16).toNat ≤ weightLimit 8 ∧ weightLimit 8 < ((wide.op 1).extractLsb' 0 16).toNat ∧
    mwldCheck s.me 5 8 = some (0x18, 5) ∧ mgoCheck (nested s) 5 5 0 = some (0x18, 5) ∧ mqCheck s.me 1 6 0 = some (0x31, 0) ∧
    fetchCheck odd.me 0 = some (0x11, 1) ∧
    goes (.mwld 7 8) s (fun t => t.me.m.cur.isSome && (t.me.tile 7).busy == 1 && t.me.e.pc == 4) = true ∧
    goes (.mwldF 7 0 8) s (fun t => t.me.m.cur.isSome) = true ∧ goes (.mwldF 7 0 8) odd (fun t => t.me.t.cause == 0x11) = true ∧
    goes (.mwldS 8) s (fun t => t.me.m.want == some 8 && t.me.e.pc == 0) = true ∧ goes (.mwldS 0) s (fun t => t.me.t.cause == 0x32) = true ∧
    goes .cwstPairing (waits stream1) (fun t => t.me.m.cur.isSome && t.me.m.want == none && t.me.e.pc == 4) = true ∧
    goes .cwstPairing (waits wide) (fun t => t.me.t.cause == 0x31) = true ∧
    goes (.mgo 5 6) s (fun t => (t.me.tile 5).busy == 1 && (t.me.tile 6).busy == 1) = true ∧
    goes (.mgo 5 5) s (fun t => t.me.t.cause == 0x18 && t.me.t.tval == 5) = true ∧
    goes (.mqOpen 1 6) t (fun t => t.me.m.cur.isSome) = true ∧ goes (.mqClose 1 6) s (fun t => t.me.t.cause == 0x31) = true := by
  unfold CanHandle Handles; decide +kernel

/-- 2·3 = 6 overwrites, is added to 1, and climbs over a leaf 1 of its tree; a NaN under the armed detector; a leaf out of order; MQ; a
bank load from a tile and from a stream; an operand fetch (R199 to R201, R204, R205). -/
theorem witness_MatrixInstructionsProgress :
    let go := fun (s : State) => doing s (.mgo 5 6)
    let md := fun (s : State) (n : BitVec 2) => eng s fun m => { m with mode := n, depth := 1 }
    let tree := fun (s : State) => eng (md s 2) fun m => { m with activeNest := m.activeNest.set 0 { count := 2, sw := 1 } }
    let leaf2 := accSet (accSet (own (tree mat) { (tree mat).me with piM := 1 }) 0 0x3F800000) 2 1
    let ld := { mBusy (own mat { mat.me with spad := mat.me.spad.set 2048 5 }) (.mwld 7 8) with cur := mat.cur }
    let st0 := { mBusy mat (.mwldS 8) with rest := [] }
    let st := own st0 { st0.me with cp := { st0.me.cp with copies := [stream1], sb := st0.me.cp.sb.set 1 1 },
                                    m := { st0.me.m with cur := st0.me.m.cur.map fun c => { c with pair := some 0 } } }
    let fe := own mat { mat.me with m := { mat.me.m with cur := some { i := .mwldF 7 0 8, addr := 0, seq := 0, cache := 0, headCc := 0, bound := 0,
                                                                       fetched := false, pair := none, base := 0x20000 } } }
    let acc := fun (t : State) (r : Nat) => t.me.accGet (t.me.tile 6) r 0
    let nan := accSet (md mat 1) 0 0x7FC00000
    let nanTree := accSet (accSet (own (tree mat) { (tree mat).me with piM := 1 }) 0 0x7FC00000) 2 1
    let closing := doing (accSet (accSet (md mat 2) 0 0x7FC00000) 2 1) (.mqClose 1 6)
    let fg := own mat { mat.me with m := { mat.me.m with cur := fe.me.m.cur.map fun c => { c with i := .mgoF 7 6 0 } } }
    mat.mRuns = true ∧ mat.me.badSpad = [] ∧ mat.me.flipSpad = [] ∧ mat.me.spad.wf = true ∧ (md mat 2).me.m.j = 0 ∧
    bytesOf (fe.cpGlobRead [(2, 0x20000)] 0 0x20000 256 true) = some (some 0x11 :: some 0x22 :: List.replicate 254 (some 0)) ∧
    mapsTo (captures 0 false (pageSegs 0x20000 256) [] fe) = true ∧
    goes .mgoStep (go mat) (fun t => acc t 0 == 0x40C00000 && t.me.m.cur == none) = true ∧
    goes .mgoStep (go (accSet (md mat 1) 0 0x3F800000)) (fun t => acc t 0 == 0x40E00000) = true ∧
    goes .mgoStep (go (tree mat)) (fun t => acc t 0 == 0x40C00000 && acc t 2 == 1 && t.me.piM == 1) = true ∧
    goes .mgoStep (go leaf2) (fun t => acc t 1 == 0x40E00000 && acc t 2 == 2 && t.me.m.cur == none) = true ∧
    nan.me.m.arm = true ∧ Handles (go nan) ∧ (go nan).sSettled = true ∧
    goes .mgoStep (go nan) (fun t => t.me.t.cause == 0x30 && !t.me.m.arm && acc t 0 == 0x7FC00000) = true ∧
    -- a first NaN in a tree, at a leaf and while MQ closes it
    nanTree.me.m.arm = true ∧ Handles (go nanTree) ∧ (go nanTree).me.copyUnder = false ∧ closing.me.v.pend = [] ∧ Handles closing ∧
    closing.sSettled = true ∧ closing.mRuns = true ∧
    goes .mgoStep (go nanTree) (fun t => t.me.t.cause == 0x30 && t.me.t.tval == BitVec.ofNat 64 (2 ^ 44) && acc t 2 == 1) = true ∧
    goes .mqRow closing (fun t => t.me.t.cause == 0x30 && t.me.t.tval == BitVec.ofNat 64 (2 ^ 44) && acc t 2 == 1) = true ∧
    goes .mgoStep (go (accSet (tree mat) 2 1)) (fun t => t.me.t.cause == 0x34) = true ∧ st.copyStarts stream1 = true ∧ stream1.expired 0 = false ∧
    goes .mqRow (doing (accSet (md mat 2) 2 1) (.mqOpen 1 6)) (fun t => acc t 2 == 0 && t.me.m.cur == none) = true ∧
    goes .mqRow (doing (eng (accSet (accSet (md mat 2) 0 0x40C00000) 2 1) fun m => { m with arm := false }) (.mqClose 1 6))
      (fun t => acc t 2 == 2 && acc t 1 == 0x40C00000) = true ∧
    goes .mwldComplete ld (fun t => t.me.m.shadow.loaded && t.me.m.shadow.bytes.get 0 == 5 && t.me.m.shadow.nw == 1) = true ∧
    goes .mwldComplete st (fun t => t.me.m.shadow.loaded && t.me.m.shadow.bytes.get 127 == 9 && t.me.cp.copies == [] && t.me.cp.sb[1] == 0) = true ∧
    goes .operandFetchComplete fg (fun t => t.me.spad.get 2048 == 0x11 && t.me.m.cur.map (·.fetched) == some true) = true ∧
    goes .operandFetchComplete fe (fun t => t.me.spad.get 2048 == 0x11 && t.me.m.cur.map (·.fetched) == some true) = true := by
  unfold Handles; decide +kernel

/-! ## The F stream and the fabric -/

/-- The F stream acts; tile 5 is a row tile, and element 0 has a port on it. -/
def fab : State := tileAt (act w .f) 5 rowTile
/-- The state with element 0 given. -/
def el0 (s : State) (x : Elem) : State := own s { s.me with f := { s.me.f with el := s.me.f.el.set 0 x } }
/-- A port of tile 5. -/
def port5 (out : Bool) : Port := { handle := 5, out := out, rag := false, hl := 0 }
/-- A run under way with a window of n cycles, the element started. -/
def running (s : State) (n : BitVec 20) : State := own s { s.me with f := { s.me.f with run := some n } }

/-- A tile with room for a program, a free edge element, a bound port, runs under way and none, an invalid handle. -/
theorem witness_FabricIsConfiguredAndStarted :
    let bound := el0 fab { port := some (port5 false) }
    let prog := own fab { fab.me with spad := fab.me.spad.writeLE 0 12 (0x7E000000 + 0x7E000000 * 2 ^ 32 + 0x7E000000 * 2 ^ 64) }
    let holding := fun (s : State) => tileAt (s.setStrm { s.strm with busy := some 5 }) 5 { rowTile with busy := 1 }
    let prog5 := holding prog
    let bad5 := holding fab
    (fab.me.tile 5).valid = true ∧ (fab.me.tile 5).level = 0 ∧ 1024 * 0 + 12 * 1 ≤ (fab.me.tile 5).size.toNat ∧ fab.me.badSpad = [] ∧
    bundleBad 0 1 (BitVec.ofNat 96 (prog.me.spad.readLE 0 12)) = none ∧ portTileOk (fab.me.tile 5) = true ∧ isEdge 0 = true ∧
    (fab.me.f.elem 0).port = none ∧ (fab.me.tile 5).busy ≠ 255 ∧ (bound.me.f.elem 0).port = some (port5 false) ∧
    fab.me.f.run = none ∧ (∀ k, (fab.me.f.elem k).starts = true → portMissing (fab.me.f.elem k) = false) ∧
    (running fab 5).me.f.run ≠ none ∧ CanHandle fab ∧ (fab.me.tile 6).valid = false ∧
    fab.strm.busy = none ∧ (prog5.strm.busy = some 5 ∧ prog5.cur.st = .f) ∧ CanHandle bad5 ∧
    bundleBad 0 1 (BitVec.ofNat 96 (bad5.me.spad.readLE 0 12)) = some 0x01 ∧
    goes (.fload 5 0 0 0) prog (fun t => (t.me.tile 5).busy == 1 && t.me.e.pc == 0 && t.me.e.busy == some 5) = true ∧
    goes (.fload 5 0 0 0) (tileAt fab 5 { rowTile with busy := 255 }) (fun t => t.me.e.wait == some { kind := 7, obj := 5 }) = true ∧
    goes (.fload 5 0 0 0) bad5 (fun t => t.me.t.cause == 1 && t.me.t.tval == 0) = true ∧
    goes (.fload 5 0 0 0) prog5 (fun t => (t.me.f.elem 0).loaded && (t.me.f.elem 0).n == 1 && t.me.e.pc == 4) = true ∧
    goes (.fopen 5 0 0 0) fab (fun t => (t.me.f.elem 0).port == some (port5 false) && (t.me.tile 5).busy == 1) = true ∧
    goes (.fclose 5 0) bound (fun t => (t.me.f.elem 0).port == none) = true ∧
    goes (.fsched 9 1 1) fab (fun t => (t.me.f.elem 9).per == 1 && (t.me.f.elem 9).pha == 1) = true ∧
    goes (.fstart 5) fab (fun t => t.me.f.run == some 5 && t.me.e.pc == 0) = true ∧
    (port5 false).handle ≠ 6 ∧ goes (.fclose 6 0) bound (fun t => t.me.t.cause == 0x42 && t.me.t.tval == 0) = true ∧
    goes (.fload 6 0 0 0) fab (fun t => t.me.t.cause == 0x16) = true ∧ goes (.fclose 5 0) fab (fun t => t.me.t.cause == 0x42 && t.me.t.tval == 0) = true := by
  unfold CanHandle Handles; decide +kernel

/-- The context after the writes of element 0's output port. -/
def portOut (s : State) : Option Ctx :=
  match portWrite s.me (s.me.portWrites 0) with
  | .ok c => some c
  | .error _ => none

/-- A finished run, one at its window's end, and one whose input or output port has a word to move. -/
theorem witness_FabricRunsMoveAndEnd :
    let r := running (own fab { fab.me with spad := fab.me.spad.set 0 9 }) 5
    let fin := r
    let x : Elem := { started := true, halted := false }
    let late := own (el0 r x) { (el0 r x).me with piF := 5 }
    let inp := el0 r { x with port := some (port5 false) }
    let out := el0 r { x with port := some (port5 true), outq := [{ data := 7, code := 0 }] }
    let hl : Tile := { rowTile with base := 1024 }
    let rag := fun (code : BitVec 2) => el0 (tileAt r 6 hl)
      { x with port := some { handle := 5, out := true, rag := true, hl := 6 }, outq := [{ data := 7, code := code }] }
    let ragged := el0 (tileAt (own r { r.me with spad := (r.me.spad.set 1024 7).set 1028 7 }) 6 hl)
      { x with halted := true, port := some { handle := 5, out := true, rag := true, hl := 6, row := 1 } }
    canIssue r .f = true ∧ r.me.f.run = some 5 ∧ fin.me.f.finished = true ∧ late.me.f.finished = false ∧ (5 : BitVec 20).toNat ≤ late.me.piF.toNat ∧
    CanHandle late.asF ∧ (∀ k, ((fin.me.f.elem k).port).isNone = true) ∧ (fab.me.tile 5).holdsWord 0 = true ∧ inp.me.f.finished = false ∧ inp.me.piF.toNat < 5 ∧ inp.me.f.lastCc ≠ some inp.me.runCc ∧
    elems.find? (fun k => !inp.me.portIdle k false) = some 0 ∧ elems.find? (fun k => !out.me.portIdle k true) = some 0 ∧
    inp.me.badSpad = [] ∧ out.me.spad.wf = true ∧
    goes .runComplete fin (fun t => t.me.f.run == none && t.me.e.pc == 4) = true ∧ goes .fabricBound late (fun t => t.me.t.cause == 0x40) = true ∧
    goes .inputPortPush inp (fun t => t.me.f.moves.length == 1) = true ∧
    goes .outputPortWrite out (fun t => t.me.f.moves.length == 1) = true ∧
    (out.me.f.elem 0).started = true ∧ out.me.flipSpad = [] ∧
    -- of a ragged port a bubble writes the length 0, the last word of a row its columns beside the word
    (portOut out).map (fun c => c.spad.get 0) = some 7 ∧ hl.holdsWord 0 = true ∧
    -- a run whose ragged output port has not reached rows of its tile
    ragged.me.f.finished = true ∧ ragged.me.spad.wf = true ∧ ragged.me.badSpad = [] ∧
    goes .runComplete ragged (fun t => t.me.spad.get 1024 == 7 && t.me.spad.get 1028 == 0 && t.me.f.run == none) = true ∧
    (portOut (rag 1)).map (fun c => c.spad.get 1024) = some 0 ∧
    (portOut (rag 2)).map (fun c => (c.spad.get 0, c.spad.get 1024)) = some (7, 1) := by
  unfold CanHandle Handles; decide +kernel

/-- Sums, signed comparisons and the loop of an element (R242, R244). -/
theorem witness_ElementsCompute :
    let s := el0 fab { n := 2, e := (Vector.replicate 16 0).set 1 0xFFFFFFFF, pc := 1 }
    (2 : BitVec 4) ≠ 3 ∧ goes (.eAdd 2 1 1) s (fun t => (t.me.f.elem 0).reg 2 == 0xFFFFFFFE && (t.me.f.elem 0).pc == 0) = true ∧
    goes (.eCmp 2 1 0 2) s (fun t => (t.me.f.elem 0).reg 2 == 1) = true ∧ goes (.eCmp 2 1 0 4) s (fun t => (t.me.f.elem 0).reg 2 == 0) = true ∧
    goes (.eLoop 1 1) s (fun t => (t.me.f.elem 0).reg 1 == 0xFFFFFFFE && (t.me.f.elem 0).pc == 1) = true ∧
    goes (.eSts 1 0 255) s (fun t => (t.me.f.elem 0).lmem[255] == 0xFFFFFFFF) = true := by decide +kernel

/-- Queues with a word, empty, with room and full; a neighbour to the east; an output port that takes a word. -/
theorem witness_ElementsExchangeWords :
    let wd : FWord := { data := 9, code := 2 }
    let got := el0 fab { n := 2, q := (Vector.replicate 5 []).set 1 [wd] }
    let full := own fab { fab.me with f := { fab.me.f with el := fab.me.f.el.set 1 { q := (Vector.replicate 5 []).set 3 [wd, wd] } } }
    let out := el0 fab { n := 2, port := some (port5 true), halted := false }
    let outFull := el0 fab { n := 2, port := some (port5 true), outq := [wd, wd] }
    let p := port5 true
    (1 : BitVec 3).toNat ≤ 4 ∧ (1 : BitVec 3).toNat < 4 ∧ elNeighbour 0 1 = some 1 ∧ ((fab.me.f.elem 1).queue 3).length < 2 ∧
    2 ≤ ((full.me.f.elem 1).queue 3).length ∧ (fab.me.f.elem 0).queue 1 = [] ∧ (got.me.f.elem 0).queue 1 = wd :: [] ∧
    (out.me.f.elem 0).outq.length < 2 ∧ 2 ≤ (outFull.me.f.elem 0).outq.length ∧ (out.me.f.elem 0).port = some p ∧
    outError (fab.me.tile 5) ((out.me.f.elem 0).pushPort p 16) { data := 0, code := 0 } = none ∧
    outError (fab.me.tile 5) ((out.me.f.elem 0).pushPort p 16) { data := 0, code := 3 } ≠ none ∧ CanHandle out ∧
    goes (.eRecv 1 1) got (fun t => (t.me.f.elem 0).reg 1 == 9 && (t.me.f.elem 0).queue 1 == []) = true ∧
    goes (.ePeek 1 1) got (fun t => (t.me.f.elem 0).reg 1 == 2 && ((t.me.f.elem 0).queue 1).length == 1) = true ∧
    goes (.eRecv 1 1) fab (fun t => (t.me.f.elem 0).pc == 0) = true ∧
    goes (.eSend 1 1) fab (fun t => (t.me.f.elem 1).queue 3 == [{ data := 0, code := 0 }]) = true ∧
    goes (.eSend 1 1) full (fun t => ((t.me.f.elem 1).queue 3).length == 2 && (t.me.f.elem 0).pc == 0) = true ∧
    goes (.eEmit 1 4 3) out (fun t => t.me.t.cause == 0x41) = true := by
  unfold CanHandle Handles; decide +kernel

/-! ## The hub's sequencer -/

/-- A packet of an op for instance 0. -/
def pkt (op arg w1 : W64) : Packet := { w0 := op ||| arg <<< 32, w1 := w1, w2 := 0, w3 := 0 }
/-- The state with the hub given. -/
def hubOf (s : State) (h : Hub) : State := { s with hub := h }

/-- A FIFO with room and a full one, an instance's queue with room and full, status records read and held. -/
theorem witness_PacketsAndStatusRecordsQueue :
    let p := pkt 6 0 0
    let r : Status := { code := 1, tag := 2, inst := 3, op := 4, value := 5 }
    let full := hubOf w { w.hub with cmdq := List.replicate 256 p }
    let one := hubOf w { w.hub with cmdq := [p] }
    let crowd := inst0 one { ({} : Inst) with pkts := List.replicate 16 p }
    let st := hubOf w { w.hub with statq := [r] }
    let held := hubOf w { w.hub with statq := List.replicate 256 r, statWait := [r] }
    w.hub.active = true ∧ w.hub.cmdq.length < 256 ∧ 256 ≤ full.hub.cmdq.length ∧ one.hub.cmdq = p :: [] ∧ one.hub.statWait = [] ∧
    (one.inst 0).pkts.length < 16 ∧ 16 ≤ (crowd.inst 0).pkts.length ∧ st.hub.statq = r :: [] ∧ held.hub.statWait = r :: [] ∧ w.hub.statq = [] ∧
    goes .packetEnqueue w (fun t => t.hub.cmdq.length == 1) = true ∧ goes .packetEnqueue full (fun t => t.hub.dropped == 1) = true ∧
    goes .packetDispatch one (fun t => t.hub.cmdq == [] && (t.inst 0).pkts == [p]) = true ∧
    goes .packetDispatch crowd (fun t => t.hub.cmdq == [p]) = true ∧ goes .statqRead st (fun t => t.hub.statq == []) = true ∧
    goes .statqRead held (fun t => t.hub.statq.length == 256 && t.hub.statWait == []) = true ∧
    goes .statqRead w (fun t => t.hub.hostOut == 0) = true := by decide +kernel

/-- The example of R285: queue 3 with 16 tickets, queue 9 with 48, the generator at 1: queue 9 wins. -/
theorem test_lottery : lotPick [(3, 16), (9, 48)] ((xorshift32 1).toNat % 64) = some 9 ∧ xorshift32 1 = 0x42021 := by decide

/-- One instance with a good packet, one with a bad one, one with no ticket; a B-die port with an access, a G-die port with a word. -/
theorem witness_LotteryGrants :
    let q := fun (p : Packet) (n : BitVec 8) => inst0 w { ({} : Inst) with holds := true, tickets := n, pkts := [p] }
    let acc := queued w [ldE 1 (.glob 0x20000 0x20000) 5] []
    let x : Elem := { started := true, halted := false, port := some (port5 false) }
    let f := own (el0 (running fab 5) x) { (el0 (running fab 5) x).me with id := 192 }
    w.hub.active = true ∧ w.hub.statWait = [] ∧ (q (pkt 6 0 0) 1).seqBusy = false ∧ (pkt 6 0 0).bad = false ∧ (pkt 7 0 0).bad = true ∧
    ((q (pkt 6 0 0) 1).inst 0).hubTickets = 1 ∧ ((q (pkt 6 0 0) 0).inst 0).hubTickets = 0 ∧
    (bIndex w.hub.product 1 = some 0 ∧ portHead acc.me 0 = some true) ∧ acc.me.life = .running ∧ (∀ c ∈ acc.rest, c.life ≠ .running) ∧
    kindOf w.hub.product 0 = .g ∧ f.socketOf f.me.id = 0 ∧ portWaits f.me = true ∧ f.me.engine = .f ∧ canIssue f .f = true ∧ elems.find? (fun k => !f.me.portIdle k false) = some 0 ∧
    goes (.lotteryGrant 128) (q (pkt 6 0 0) 1) (fun t => (t.inst 0).granted) = true ∧
    goes (.lotteryGrant 128) (q (pkt 7 0 0) 1) (fun t => (t.inst 0).pkts == [] && t.hub.statq.map (·.code) == [1]) = true ∧
    -- the hub's sequencer grants twice a cycle, another unit once
    goes (.lotteryGrant 128) (hubOf (q (pkt 6 0 0) 1) { w.hub with granted := [(128, 0)] }) (fun t => (t.inst 0).granted) = true ∧
    goes (.lotteryGrant 128) (hubOf (q (pkt 6 0 0) 1) { w.hub with granted := [(128, 0), (128, 0)] }) (fun t => !(t.inst 0).granted) = true ∧
    goes (.lotteryGrant 1) (hubOf acc { w.hub with granted := [(1, 0)] }) (fun t => t.me.sq.loads.length == 1) = true ∧
    goes (.lotteryGrant 128) (q (pkt 6 0 0) 0) (fun t => (t.inst 0).granted && t.hub.lotGen 128 == w.hub.lotGen 128) = true ∧
    goes (.lotteryGrant 1) acc (fun t => t.me.sq.loads == []) = true := by decide +kernel

/-- A granted packet of each op, with and without a reel, earlier changes pending, a waiting SIGNAL, the entropy source failed. -/
theorem witness_SeedLevelAndSignalPackets :
    let g := fun (p : Packet) (x : Inst) => inst0 w { x with pkts := [p], granted := true }
    let held : Inst := { ({} : Inst) with holds := true }
    let pend : Inst := { held with pending := [default] }
    let sig := inst0 w { held with pkts := [pkt 6 9 0], waiting := true }
    let dead := hubOf (g (pkt 2 1 0) held) { w.hub with entropyOk := false }
    w.hub.active = true ∧ w.hub.statWait = [] ∧ (pkt 2 0 0).op = 2 ∧ (pkt 2 0 0).arg.getLsbD 0 = false ∧ (pkt 2 1 0).arg.getLsbD 0 = true ∧
    w.hub.entropyOk = true ∧ dead.hub.entropyOk = false ∧ (pkt 3 0 0).op = 3 ∧ (pkt 4 0 0).op = 4 ∧ (pkt 5 1 0).op = 5 ∧ (pkt 6 9 0).op = 6 ∧
    held.pending = [] ∧ pend.pending ≠ [] ∧ (sig.inst 0).waiting = true ∧ ({} : Inst).holds = false ∧
    goes .pushseed (g (pkt 2 0 7) held) (fun t => ((t.inst 0).pending.map (·.seed)) == [7]) = true ∧
    goes .pushseed dead (fun t => (t.inst 0).waiting) = true ∧
    goes .setlevel (g (pkt 5 1 0) held) (fun t => ((t.inst 0).pending.map (·.arg)) == [1]) = true ∧
    goes .signal (g (pkt 6 9 0) held) (fun t => t.hub.statq.map (·.value) == [9]) = true ∧
    goes .signal (g (pkt 6 9 0) pend) (fun t => (t.inst 0).waiting) = true ∧
    goes .signalReport sig (fun t => t.hub.statq.map (·.value) == [9]) = true ∧
    goes .popseed (g (pkt 3 0 0) {}) (fun t => t.hub.statq.map (·.code) == [2]) = true := by decide +kernel

/-- Memory with a slate of the ordered level at 0x20000 (R263) and an image without sections at 0x21000, its digest the SHA3-256
of R89. -/
def slated : State :=
  { mapped with mem := { cells :=
      [(0x0, 0x1), (0x1, 0x10), (0x1000, 0xb), (0x20000, 0x53), (0x20001, 0x4c), (0x20002, 0x54), (0x20003, 0x45), (0x20004, 0x1),
       (0x20006, 0x1), (0x20009, 0x10), (0x2000a, 0x2)] ++
      [(0x21000, 0x44), (0x21001, 0x52), (0x21002, 0x52), (0x21003, 0x4c), (0x21004, 0x1), (0x21006, 0x40), (0x21010, 0x40),
       (0x21020, 0xbc), (0x21021, 0x94), (0x21022, 0x8a), (0x21023, 0x15), (0x21024, 0x38), (0x21025, 0x22), (0x21026, 0xf0),
       (0x21027, 0x1f), (0x21028, 0xd8), (0x21029, 0x32), (0x2102a, 0xd8), (0x2102b, 0xcb), (0x2102c, 0x6d), (0x2102d, 0x4c),
       (0x2102e, 0x3a), (0x2102f, 0x4), (0x21030, 0xec), (0x21031, 0xd1), (0x21032, 0x9b), (0x21033, 0xa5), (0x21034, 0x97)] ++
      [(0x21035, 0xe3), (0x21036, 0xbd), (0x21037, 0x55), (0x21038, 0x42), (0x21039, 0x8a), (0x2103a, 0x71), (0x2103b, 0xff),
       (0x2103c, 0x5), (0x2103d, 0xca), (0x2103e, 0x9d), (0x2103f, 0xa3)] } }

/-- A LAUNCH granted to instance 0, which holds no reel, of the slate at an address. -/
def launching (va : W64) : State :=
  let s := inst0 slated { ({} : Inst) with ptroot := 1, pkts := [pkt 1 0 va], granted := true }
  own s {}

/-- The hub has read all. -/
def hubOk : HubAns → Bool
  | .ok _ _ => true
  | _ => false

/-- It has met a page that fails. -/
def hubBad : HubAns → Bool
  | .bad _ => true
  | _ => false

/-- The bytes that the hub reads. -/
def hubBytes (s : State) (va n : Nat) : List Byte := match hubRead s 0 va n with | .ok b _ => b | _ => []

/-- The image of 64 bytes. -/
def image0 : List Byte :=
  [
   0x44, 0x52, 0x52, 0x4c, 0x1, 0x0, 0x40, 0x0, 0x0, 0x0, 0x0, 0x0, 0x0, 0x0, 0x0, 0x0, 0x40, 0x0, 0x0, 0x0, 0x0, 0x0,
   0x0, 0x0, 0x0, 0x0, 0x0, 0x0, 0x0, 0x0, 0x0, 0x0, 0xbc, 0x94, 0x8a, 0x15, 0x38, 0x22, 0xf0, 0x1f, 0xd8, 0x32, 0xd8,
   0xcb, 0x6d, 0x4c, 0x3a, 0x4, 0xec, 0xd1, 0x9b, 0xa5, 0x97, 0xe3, 0xbd, 0x55, 0x42, 0x8a, 0x71, 0xff, 0x5, 0xca, 0x9d,
   0xa3]

/-- The hub reads the slate's bytes and the image's. -/
theorem test_slate_reads : hubBytes (launching 0x20000) 0x20000 1632 =
    [0x53, 0x4C, 0x54, 0x45, 1, 0, 1, 0, 0, 0x10, 2, 0] ++ List.replicate 1620 0 ∧ hubBytes (launching 0x20000) 0x21000 64 = image0 := by decide +kernel

/-- A slate and an image that pass every check, a slate that fails at offset 0, an instance that holds a reel, a misaligned slate;
and a reel whose one context has halted and drained, with and without a buffer for its record. -/
theorem witness_ReelsLaunchAndRetire :
    let s := launching 0x20000
    let odd := launching 0x20001
    let ctx : Ctx := { ctx1 with s := { halted := true }, e := { halted := true }, c := { halted := true } }
    let done := inst0 (own mapped ctx) { ({} : Inst) with holds := true }
    let buf := inst0 done { ({} : Inst) with holds := true, runrec := 0x100001 }
    s.mem.wf = true ∧ s.hub.active = true ∧ s.hub.statWait = [] ∧ s.hub.statq.length < 256 ∧ (s.inst 0).granted = true ∧
    (s.inst 0).waiting = false ∧ (s.inst 0).pkts = [pkt 1 0 0x20000] ∧ (pkt 1 0 0x20000).op = 1 ∧ (s.inst 0).holds = false ∧
    (pkt 1 0 0x20000).w1.toNat % 64 = 0 ∧ (pkt 1 0 0x20001).w1.toNat % 64 ≠ 0 ∧ slateFails (List.replicate 1632 0) = some 0 ∧
    slateFails ([0x53, 0x4C, 0x54, 0x45, 1, 0, 1, 0, 0, 0x10, 2, 0] ++ List.replicate 1620 0) = none ∧
    fieldAt ([0x53, 0x4C, 0x54, 0x45, 1, 0, 1, 0, 0, 0x10, 2, 0] ++ List.replicate 1620 0) 8 8 = 0x21000 ∧ fieldAt image0 0x10 8 = 64 ∧
    headerOk image0 = true ∧ sectionsOf image0 = some [] ∧ sectionsOk [] = true ∧ pagesOk s 0 [] = true ∧ hubOk (loadSections s 0 [] []) = true ∧
    ((List.range 208).all fun n => (loadCtx [] { id := ctxIdOf 0 n }).isSome) = true ∧ (match launchTable s 0 with | .inr _ => true | .inl _ => false) = true ∧
    s.hub.entropyOk = true ∧ (∀ c ∈ s.ctxs, instOf c.id ≠ 0) ∧
    hubBad (hubRead (launching (2 ^ 40)) 0 (2 ^ 40) 1632) = true ∧ (2 ^ 40 : W64).toNat % 64 = 0 ∧ s.Proper ∧
    ((inst0 s { (s.inst 0) with holds := true }).inst 0).holds = true ∧
    goes .launch (launching (2 ^ 40)) (fun t => t.hub.statq.map (·.code) == [3]) = true ∧
    goes .launch (inst0 s { (s.inst 0) with holds := true }) (fun t => t.hub.statq.map (·.code) == [2]) = true ∧
    goes .launch odd (fun t => t.hub.statq.map (·.code) == [3] && t.hub.statq.map (·.value) == [BitVec.allOnes 64]) = true ∧
    done.retires 0 = true ∧ (done.inst 0).pending = [] ∧ (done.inst 0).runrec.getLsbD 0 = false ∧ (buf.inst 0).runrec.getLsbD 0 = true ∧
    physExists buf.hub (buf.inst 0).recordPa = true ∧ answers (homeState buf 6 (buf.inst 0).recordPa) = true ∧
    poisoned buf (buf.inst 0).recordPa 4096 = false ∧ buf.retires 0 = true ∧
    goes .reelRetirement done (fun t => !(t.inst 0).holds && t.ctxs.length == 0 && t.hub.statq.map (·.code) == [10]) = true := by
  unfold State.Proper ProperCtxs; decide +kernel

/-! ## Contexts, the host's registers, dies, the aperture and peers -/

/-- The state whose context may be saved: SAVEBASE of instance 0 names physical address 2^33. -/
def savable (s : State) : State := inst0 s { (s.inst 0) with savebase := 2 ^ 33 + 1 }

/-- A context of a die that is to move, one that another may follow, one in its save area, and a quiesce past its time. -/
theorem witness_ContextsAreSavedAndRestored :
    let d : Ctx := { ctx1 with id := 1, life := .saved }
    let two := savable { w with rest := [d] }
    let cut := own two { two.me with arrived := some 1 }
    let drained := own two { two.me with s := { halted := true }, e := { halted := true }, c := { halted := true } }
    let wt : Strm := { wait := some { kind := 2, obj := 0 } }
    let held := own two { two.me with holdCc := 256, s := wt, e := wt, c := wt }
    let op : DieOp := { socket := 0, op := 1, q := 0, tables := [(0, Vector.replicate 208 1)], fenced := true }
    let remap := savable (hubOf (inst0 w { (w.inst 0) with staged := [(0, 1)] }) { w.hub with remapBusy := some 0 })
    let gone := hubOf (inst0 w { (w.inst 0) with staged := [(0, 1)] }) { w.hub with remapBusy := some 0 }
    let die := hubOf { w with cc := 65536 } { w.hub with dieOp := some op }
    let sv := savable (own w { ctx1 with life := .saved })
    w.mem.wf = true ∧ two.me.life = .running ∧ two.hub.lets 0 = true ∧ cut.me.arrived ≠ none ∧ drained.me.arrived = none ∧
    drained.me.drained = true ∧ 256 ≤ held.me.holdCc ∧ held.me.allHeld = true ∧ two.rest.map (·.id) = [d.id] ∧ two.nextSlice = some d.id ∧
    cut.atBoundary = true ∧ drained.atBoundary = true ∧ held.atBoundary = true ∧ cut.nextSlice = some d.id ∧ held.nextSlice = some d.id ∧
    two.canSave two.me.id = true ∧ physExists two.hub (two.saveAddr two.me.id) = true ∧ two.moving two.me.id = false ∧
    remap.moving remap.me.id = true ∧ remap.atBoundary = true ∧ remap.hub.dieOp = none ∧ remap.canSave remap.me.id = true ∧
    gone.moving gone.me.id = true ∧ gone.atBoundary = true ∧ gone.canSave gone.me.id = false ∧ die.moving die.me.id = true ∧
    die.hub.dieOp.map (·.q) = some op.q ∧ op.q + 65536 ≤ die.cc ∧ sv.me.life = .saved ∧ sv.mayRestore sv.me = true ∧ sv.me.qualifies = true ∧
    sv.coreIdle sv.me.id = true ∧ two.me.imageDue = none ∧
    (∀ c ∈ sv.rest, c.qualifies = true → sv.sameCore c.id sv.me.id = false) ∧
    goes .sliceSwitch cut (fun t => t.me.id == 1 && t.me.life == .running) = true ∧
    goes .waitHoldExpiry held (fun t => t.me.id == 1) = true ∧ goes .preemption remap (fun t => t.me.life == .saved) = true ∧
    goes .preemption gone (fun t => t.me.life == .removed && t.me.t.cause == 0x53) = true ∧
    goes .quiesceSaveTimeout die (fun t => t.me.life == .removed && t.me.t.cause == 0x50) = true ∧
    goes .contextRestore sv (fun t => t.me.life == .running) = true := by
  decide +kernel

/-- The contexts of these states are proper. -/
theorem witness_Proper : (savable (own w { ctx1 with life := .saved })).Proper ∧ w.Proper ∧ State.reset.Proper ∧
    (savable { w with rest := [{ ctx1 with id := 1, life := .saved }] }).Proper := by
  unfold State.Proper ProperCtxs; decide

/-- Memory with the image of the folio whose output is the constant 5 (R173, R174), and a slot bound to it, its hash the first bytes of
the SHA3-256 digest; the load of the slot is to read it. -/
def folio5 : State :=
  let s := { mapped with cur := { mapped.cur with st := .s }, mem := { cells := [(0, 0x01), (1, 0x10), (0x1000, 0x0B)] ++
    [(0x20000, 0x46), (0x20001, 0x4f), (0x20002, 0x4c), (0x20003, 0x49), (0x20004, 0x1), (0x20006, 0x2), (0x20008, 0x1), (0x20009, 0x2), (0x20010, 0x30), (0x20014, 0x30), (0x20020, 0x5), (0x20027, 0x28), (0x2002e, 0x40), (0x2002f, 0x30)] } }
  own s { s.me with folio := s.me.folio.set 3 { st := 1, nin := 1, lat := 2, image := 0x20000, hash := 0x59776106c8ec },
                    t := { s.me.t with load := some (3, 2) } }

/-- The image reads so. -/
def imgOk : ImgRead → Bool
  | .ok _ _ => true
  | _ => false

/-- An expired bound, a watchpoint's report, a stopped context whose block the host writes, a running and a halted one, a folio to be
loaded, of a good image and of one whose header is not. -/
theorem witness_ContextEventsAndCommands :
    let p : Pfx := { gslot := 0, gpol := 0, bexp := 0, bman := 1, mods := 0, addr := 0 }
    let late := own w { w.me with runCc := 5, s := { pfx := some p, headCc := some 4 } }
    let wp := own w { w.me with t := { w.me.t with wpend := some 7 } }
    let m : WpMatch := { (default : WpMatch) with ctx := 0, tval := 9 }
    let hit : State := { w with matches_ := [m] }
    let cmd := savable (hubOf (own w { ctx1 with life := .stopped }) { w.hub with bus := { off := 0x400040 } })
    let run := savable (hubOf w { w.hub with bus := { off := 0x400040 } })
    let ended := savable (hubOf (own w { ctx1 with s := { halted := true } }) { w.hub with bus := { off := 0x400040 } })
    let load := own w { w.me with folio := w.me.folio.set 3 { st := 1, nin := 1 }, t := { w.me.t with load := some (3, 0) } }
    let asks := hubOf load { w.hub with funcmode := 2 }
    let bad : State := { folio5 with mem := folio5.mem.set 0x20000 0 }
    Handles late ∧ w.hub.lets 0 = true ∧ late.me.s.headCc = some 4 ∧ boundOf late.me.s.pfx ≠ 0 ∧ 4 + boundOf late.me.s.pfx ≤ late.me.runCc ∧
    wp.me.t.wpend = some 7 ∧ wp.causePending = false ∧ hit.matches_ = m :: [] ∧ m.ctx = hit.me.id ∧ hit.me.life = .running ∧
    cmd.hub.active = true ∧ ctxBlock cmd.hub.bus.off.toNat = some (0, 0x40) ∧ cmd.mem.wf = true ∧ cmd.Proper ∧ cmd.me.life = .stopped ∧ cmd.me.imageDue = none ∧ late.me.copyUnder = false ∧
    cmd.me.s.halted = false ∧ ended.me.s.halted = true ∧ run.me.s.halted = false ∧
    load.me.t.load = some (3, 0) ∧ load.me.t.hmode = false ∧ (load.me.slot 3).st = 1 ∧ asks.hub.funcmode.getLsbD 1 = true ∧
    asks.hub.folreq.length < 16 ∧ load.hub.funcmode.getLsbD 1 = false ∧ imgOk (readVirt folio5 0x20000 1) = true ∧
    imgOk (readVirt folio5 0x20000 2) = true ∧ headerCheck (folio5.mem.read 0x20000 32) (folio5.me.slot 3) = none ∧
    headerCheck (bad.mem.read 0x20000 32) (bad.me.slot 3) = some 1 ∧ bodyCheck (folio5.mem.read 0x20000 48) (folio5.me.slot 3) = none ∧
    goes .boundOverrun late (fun t => t.me.t.cause == 0x49) = true ∧ goes .watchpoint wp (fun t => t.me.t.cause == 0x58 && t.me.t.tval == 7) = true ∧
    goes .watchpointMatch hit (fun t => t.me.t.wpend == some 9) = true ∧
    goes .folioFrameLoad asks (fun t => t.hub.folreq.length == 1 && t.me.t.load == some (3, 1)) = true ∧
    goes .folioFrameLoad load (fun t => t.me.t.load == some (3, 2)) = true ∧
    goes .folioFrameLoad bad (fun t => t.me.t.cause == 0x21 && t.me.t.tval == 1) = true ∧
    goes .ctxcmdResume cmd (fun t => t.me.life == .saved && t.me.s.pc == 0) = true ∧
    goes .ctxcmdRemove cmd (fun t => t.me.life == .removed) = true ∧ goes .ctxcmdRemove run (fun t => t.me.t.cause == 0x53) = true ∧
    goes .ctxcmdRemove ended (fun t => t.me.life == .running) = true := by
  unfold Handles State.Proper ProperCtxs; decide +kernel

/-- Expired bounds of a matrix instruction in progress, an engine's head, a cluster, a copy and a C head; a folio that the host has
refused (R180, R282, R283, R330). -/
theorem witness_BoundsOfEveryStreamExpire :
    let p : Pfx := { gslot := 0, gpol := 0, bexp := 0, bman := 1, mods := 0, addr := 0 }
    let late : Strm := { pfx := some p, headCc := some 4 }
    let b := fun (f : Ctx → Ctx) => own w (f { w.me with runCc := 5, s := { halted := true } })
    let m := mBusy (b id) .mnop
    let m1 := own m { m.me with m := { m.me.m with cur := m.me.m.cur.map fun c => { c with headCc := 4, bound := 1 } } }
    let e := b fun c => { c with e := late }
    let v := b fun c => { c with id := 64, v := { c.v with forked := true, cl := ((c.v.cl.set 0 { ({} : Cluster) with st := { halted := true } }).set 1
      { ({} : Cluster) with st := { halted := true } }).set 2 { ({} : Cluster) with st := late } } }
    let k := b fun c => { c with e := { halted := true }, cp := { c.cp with copies := [{ copying (.ccpy 0 1 5 0 0) desc1 [] with headCc := 4, bound := 1 }] } }
    let c := b fun c => { c with e := { halted := true }, c := late }
    let ref := own w { w.me with folio := w.me.folio.set 3 { st := 1, nin := 1 }, t := { w.me.t with load := some (3, 3) } }
    let traps := fun (s : State) (x : Nat) => goes .boundOverrun s fun t => t.me.t.cause == 0x49 && t.me.t.tval.toNat == x
    Handles m1 ∧ m1.sSettled = true ∧ m1.me.engine = .m ∧ e.me.m.cur = none ∧ v.me.engine = .v ∧ v.me.v.forked = true ∧ v.lowerSettled 2 = true ∧
    k.engineSettled = true ∧ c.engineSettled = true ∧ c.me.cp.copies = [] ∧ Handles ref ∧ ref.me.t.load = some (3, 3) ∧ ref.me.copyUnder = false ∧
    traps m1 (2 ^ 60) = true ∧ traps e (2 ^ 60) = true ∧ traps v (2 * 2 ^ 60 + 2 * 2 ^ 56) = true ∧ traps k (3 * 2 ^ 60) = true ∧ traps c (3 * 2 ^ 60) = true ∧
    goes .folioFrameLoad ref (fun t => t.me.t.cause == 0x21 && t.me.t.tval == 0x10 && t.me.t.load.isNone) = true := by
  unfold Handles; decide +kernel

/-- The host writes v at an offset. -/
def wr (s : State) (off : BitVec 28) (v : W64) : State := hubOf s { s.hub with bus := { off := off, v := v } }

/-- With and without a reel, ports up and down, FIFOs that hold a record, values in range and out of it. -/
theorem witness_HubRegistersTakeWrites :
    let reel := inst0 w { ({} : Inst) with holds := true }
    let up : State := { w with ports := w.ports.set 0 { en := true, up := true } }
    let req := hubOf w { w.hub with folreq := [{ ctx := 0, slot := 0, image := 0, hash := 5 }], elogq := [{ w0 := 0, w1 := 0, w2 := 0, w3 := 8 }] }
    let asked := own w { w.me with t := { w.me.t with load := some (3, 1) } }
    let under := own asked { asked.me with cp := { asked.me.cp with copies := [{ copying (.cxfer 0 1 5) [] [] with sent := true }] } }
    w.hub.active = true ∧ ¬ (∃ i, (w.inst i).holds = true) ∧ (∃ i, (reel.inst i).holds = true) ∧ (∀ p ∈ w.ports.toList, p.up = false) ∧
    (∃ p ∈ up.ports.toList, p.up = true) ∧ portSocket w.hub.product 0 = some 11 ∧ w.hub.absent 11 = false ∧ asked.me.t.load = some (3, 1) ∧
    lcoreOf 207 < 208 ∧
    goes .funcmodeWrite (wr w 0 0x3F) (fun t => t.hub.funcmode == 0x3F) = true ∧ goes .funcmodeWrite (wr reel 0 0x3F) (fun t => t.hub.funcmode == 0x37) = true ∧
    goes .colltabWrite (wr w 0x5F8 (BitVec.allOnes 64)) (fun t => t.hub.colltab[63] == 0x80000000003FFFFF) = true ∧
    goes .pwrctlWrite (wr w 0 (4501 * 65536)) (fun t => t.hub.limit == 4500) = true ∧
    goes .folreqRead req (fun t => t.hub.folreq == [] && t.hub.hostOut == 5) = true ∧ goes .elogqRead req (fun t => t.hub.hostOut == 8) = true ∧
    goes .vxportWrite (wr up 0x200000 0) (fun t => !t.ports[0].up && !t.ports[0].en) = true ∧
    goes .folresp (wr asked 0 0x10000) (fun t => t.me.t.load == some (3, 2)) = true ∧
    (asked.me.id == 0) = true ∧ Handles asked ∧ goes .folresp (wr asked 0 0) (fun t => t.me.t.cause == 0x21 && t.me.t.tval == 0x10) = true ∧
    asked.me.copyUnder = false ∧ under.me.copyUnder = true ∧ w.mem.wf = true ∧
    goes .folresp (wr under 0 0) (fun t => t.me.t.load == some (3, 3) && t.me.t.cause == 0) = true ∧
    goes .registerWrite (wr w 0x400008 (BitVec.allOnes 64)) (fun t => (t.hub.block 0).wpaddr[1] == 0xFFFFFFFFFFFFE0) = true ∧
    goes .registerWrite (wr w 0x108 (BitVec.allOnes 64)) (fun t => (t.inst 1).ptroot == 0x7FFFFF00001) = true := by
  unfold Handles; decide +kernel

/-- A die in service and one that is not, an enabled stack and a disabled one, values in range and out of it. -/
theorem witness_BDieRegistersTakeWrites :
    let gone := hubOf w { w.hub with good := 0 }
    let on : State := { w with bdies := w.bdies.set 11 { en := true } }
    let counted : State := { w with bdies := w.bdies.set 11 { pcNow := (0, [3, 3]) } }
    w.hub.active = true ∧ w.mem.wf = true ∧ bSocket w.hub.product 11 = some 34 ∧ (0x60 : Nat) < 65536 ∧ w.hub.absent 34 = false ∧
    gone.hub.absent 34 = true ∧ (on.bdie 11).en = true ∧ (w.bdie 11).en = false ∧
    goes .pchashWrite (wr on 0x1B0000 1) (fun t => (t.bdie 11).hlock) = true ∧ goes .pchashWrite (wr w 0x1B0000 1) (fun t => (t.bdie 11).pchash[0] == 1) = true ∧
    goes .hbmctlWrite (wr w 0x1B0040 0x1901) (fun t => (t.bdie 11).en && (t.bdie 11).scrub == 16) = true ∧
    (counted.bdie 11).countedIn 0 = [3, 3] ∧ (0x118 : Nat) = 0x100 + 8 * (3 : Fin 64).val ∧
    goes .pccntWrite (wr counted 0x1B0118 7) (fun t => (t.bdie 11).pccnt[3] == 9) = true ∧
    goes .pccntWrite (wr w 0x1B0118 7) (fun t => (t.bdie 11).pccnt[3] == 7) = true ∧
    goes .sramctlWrite (wr w 0x1B0048 33) (fun t => (t.bdie 11).retain == 0) = true ∧
    goes .registerWrite (wr w 0x1B0060 (BitVec.allOnes 64)) (fun t => (t.bdie 11).migrmap == 0x7FFFFFF0000) = true ∧
    goes .migctlWrite (wr w 0x1B0050 0) (fun t => (t.bdie 11).migctl == 0x180140000000) = true := by decide +kernel

/-- Invalidations, commits and die operations at rest, in progress, refused and complete. -/
theorem witness_RemapsInvalidationsAndDies :
    let host := hubOf (inst0 w { ({} : Inst) with holds := true }) { w.hub with funcmode := 8 }
    let xl := hubOf w { w.hub with xl := some (0, 0) }
    let busy := hubOf host { host.hub with remapBusy := some 0 }
    let d : DieOp := { socket := 17, op := 1, q := 0, tables := [], fenced := true }
    let die := hubOf w { w.hub with dieOp := some d }
    w.hub.active = true ∧ w.hub.xl = none ∧ xl.hub.xl = some (0, 0) ∧ (∀ c ∈ xl.ctxs, c.xlPending xl 0 0 = false) ∧ xl.hub.xlHeld = [] ∧
    w.hub.remapBusy = none ∧ busy.hub.remapBusy = some 0 ∧ host.hub.funcmode.getLsbD 3 = true ∧ (host.inst 0).holds = true ∧
    tableFails host.hub (Vector.ofFn fun n => (host.inst 0).stagedEntry n.val) ≠ none ∧ tableFails host.hub (canonRemap host.hub) = none ∧
    (∀ c ∈ busy.ctxs, c.life = .running → busy.moving c.id = false) ∧ busy.hub.remapHeld = [] ∧
    w.hub.dieOp = none ∧ w.dieRefused 1 6 = true ∧ w.dieRefused 1 17 = false ∧ w.dieRefused 3 17 = false ∧ die.hub.dieOp.map (·.tables) = some [] ∧ die.hub.dieOp.map (·.fenced) = some true ∧ (0xFF : BitVec 8) &&& facing die.hub.product 17 ≠ 0 ∧
    die.hub.dieHeld = [] ∧ die.hub.remapHeld = [] ∧ (∀ c ∈ die.ctxs, c.life = .running → die.moving c.id = false) ∧
    goes .xlinv (wr w 0 5) (fun t => t.hub.xl == some (5, 0)) = true ∧ goes .xlinvComplete xl (fun t => t.hub.xl == none) = true ∧
    goes .remapgo (wr host 0x58 0) (fun t => t.hub.remapFail) = true ∧ goes .remapCommitComplete busy (fun t => t.hub.remapBusy == none) = true ∧
    goes .dierstReset (wr w 0 0x51) (fun t => t.hub.dieOp.isSome && !t.hub.isGood 17) = true ∧
    goes .dierstReset (wr w 0 0x46) (fun t => t.hub.dieFail) = true ∧
    w.hub.isGood 17 = true ∧
    (hubOf w { w.hub with power := .entering, bus := { off := 0x58 } }).hub.boot = 1 ∧
    goes .remapgo (hubOf w { w.hub with power := .entering, bus := { off := 0x58 } }) (fun t => t.hub.remapHeld.length == 1) = true ∧
    (let held := fun (p : Power) (off : BitVec 28) => hubOf w { w.hub with power := p, resumeOk := true, remapBusy := some 0, bus := { off := off } }
     (held .waiting 0x58).hub.power = .waiting ∧ (held .waiting 0x58).hub.resumeOk = true ∧ (held .entering 0).hub.boot = 1 ∧ w.mem.wf = true ∧
     goes .remapgo (held .waiting 0x58) (fun t => t.hub.remapHeld.length == 1) = true ∧
     goes .remapEntryWrite (held .waiting 0x4000) (fun t => t.hub.remapHeld.length == 1) = true ∧
     goes .remapEntryWrite (held .entering 0x4000) (fun t => t.hub.remapHeld.length == 1) = true) ∧
    goes (.dierstComplete true 0xFF) die (fun t => t.hub.dieOp == none && t.hub.isGood 17) = true ∧
    goes (.dierstComplete true 0) die (fun t => t.hub.dieFail && !t.hub.isGood 17) = true := by decide +kernel

/-- The aperture in recovery and in service, on mapped and unmapped pages; a remote read and a peer with and without a grant. -/
theorem witness_ApertureAndPeersReachMemory :
    let rec_ := hubOf w { w.hub with boot := 2, bus := { off := 8, z := 3, v := 5 } }
    let ap := hubOf mapped { mapped.hub with bar2 := 1, bus := { off := 0x20000, z := 1 } }
    let far := hubOf mapped { mapped.hub with bar2 := 1 + 4 * 2 ^ 28, bus := { off := 0, z := 3 } }
    let d : BDie := { en := true, act := (Vector.replicate 64 (0, 0)).set 0 (2 ^ 63, 2 ^ 40) }
    let gr : State := { mapped with bdies := mapped.bdies.set 0 d }
    let win := fun (p : W16) => { hubOf mapped { mapped.hub with windows := mapped.hub.windows.set 0 (3 * 2 ^ 62, 5 * 2 ^ 48 + 2 ^ 30) } with
      ports := mapped.ports.set 0 { en := true, up := true, peer := p } }
    rec_.hub.boot = 2 ∧ rec_.hub.power = .on ∧ ap.hub.active = true ∧ ap.hub.bar2.getLsbD 0 = true ∧ w.hub.bar2.getLsbD 0 = false ∧
    (walk ap 0 0x20000 false).pa = some 0x20000 ∧ (walk ap 0 0x20000 true).pa = some 0x20000 ∧ (walk far 0 (2 ^ 30) false).pa = none ∧
    answers (homeState ap 6 0x20000) = true ∧ poisoned ap 0x20000 2 = false ∧ bSocket gr.hub.product 0 = some 1 ∧ gr.hub.serves 1 = true ∧
    d.grants 0 0 32 = true ∧ (mapped.bdie 0).grants 0 0 32 = false ∧ (gr.bdie 0).en = true ∧ poisoned gr 0x4000000000 32 = false ∧
    windowOk ((win 5).hub.windows[0]) 5 true 0x20000 2 = true ∧ windowOk ((win 5).hub.windows[0]) 6 false 0x20000 2 = false ∧
    goes .bar2HostWrite rec_ (fun t => t.hub.staging.get 8 == 5) = true ∧ goes .bar2HostRead ap (fun t => t.hub.hostOut == 0x2211) = true ∧
    goes .bar2HostRead far (fun t => t.hub.hostOut == BitVec.allOnes 64) = true ∧
    goes (.remoteReadRequest 0 0 0 32) gr (fun t => t.replies.map (·.code) == [0]) = true ∧
    goes (.remoteReadRequest 0 0 0 32) mapped (fun t => t.replies.map (·.code) == [1]) = true ∧
    (win 5).peerUp 0 5 = true ∧ (win 6).peerUp 0 5 = false ∧ (win 5).peerUp 1 5 = false ∧ peerSize false 2 [] = 2 ∧
    peerSize true 0 [7, 8] = 2 ∧
    goes (.peerRequest 5 0 false 0x20000 2 []) (win 5) (fun t => t.replies.map (·.bytes) == [[0x11, 0x22]]) = true ∧
    goes (.peerRequest 5 0 true 0x20000 0 [7, 8]) (win 5) (fun t => t.replies.map (·.code) == [0] && t.mem.get 0x20001 == 8) = true ∧
    goes (.peerRequest 6 0 false 0x20000 2 []) (win 6) (fun t => t.replies.map (·.code) == [1]) = true ∧
    goes (.peerRequest 5 0 false 0x20000 2 []) (win 6) (fun t => t.replies.length == 0) = true := by decide +kernel

/-! ## Bring-up, power, links, pages; the step -/

/-- Off, ready, in recovery, retained and waiting states; whatever the free image checks answer, some clause of the chain applies. -/
theorem witness_PackageBootsAndResumes :
    let off := hubOf State.reset { State.reset.hub with power := .off }
    let rcv := hubOf State.reset { State.reset.hub with boot := 2 }
    let ret := hubOf State.reset { State.reset.hub with power := .retention }
    let asks := hubOf ret { ret.hub with funcmode := 16 }
    let wait := hubOf asks { asks.hub with power := .waiting, resumeOk := true }
    let r : Resume := { ctxs := [{ ctx1 with id := 0x300 }], seeds := [], pending := [], level := 1, castcls := 0, take := 0, undo := [(5, List.replicate 256 1)],
                        sevs := [], cc := 0, overflow := false }
    let kept := hubOf ret { ret.hub with retained := some { insts := [(3, r)], meas := [] } }
    (off.hub.retained = none ∧ off.hub.power = .off ∧ State.reset.hub.power = .on ∧ State.reset.hub.boot = 0 ∧ ret.hub.power = .retention ∧
      ret.hub.funcmode.getLsbD 4 = false ∧ asks.hub.funcmode.getLsbD 4 = true ∧ wait.hub.power = .waiting ∧ wait.hub.resumeOk = true ∧
      rcv.hub.power = .on ∧ rcv.hub.boot = 2 ∧ kept.hub.retained.isSome = true ∧ kept.hub.remapHeld = [] ∧ kept.mem.wf = true ∧
      (r.undo.Pairwise fun p q => p.1 ≠ q.1) ∧ (∀ p ∈ r.undo, p.2.length = 256) ∧ r.ctxs.length = 1 ∧
      (∀ d ∈ kept.ctxs, d.life = .running → instOf d.id = 3) ∧ (∀ c ∈ r.ctxs, instOf c.id = 3) ∧ (∀ c ∈ r.ctxs, c.life = .running ∨ c.life = .saved) ∧
      goes .bootstatRetry rcv (fun t => t.hub.boot == 0 && t.hub.fromStaging) = true ∧
      goes (.resumption 0 0) asks (fun t => decide (t.hub.power = .waiting)) = true ∧
      goes .powerOff State.reset (fun t => decide (t.hub.power = .off)) = true ∧
      goes .retentionLoss ret (fun t => t.hub.bostat == 2 && t.hub.counter 3 == 1) = true) ∧
    ∀ h : Hub, (∀ k, k < 7 → imageReason (h.image k) = 0) ∨
      ∃ k, k < 7 ∧ (∀ n, n < k → imageReason (h.image n) = 0) ∧ imageReason (h.image k) ≠ 0 := by
  refine ⟨by decide +kernel, fun h => ?_⟩
  by_cases p : ∀ k, k < 7 → imageReason (h.image k) = 0
  · exact .inl p
  · refine .inr ?_
    simp only [Classical.not_forall] at p
    obtain ⟨k, hk, hn⟩ := p
    induction k using Nat.strongRecOn with
    | ind k ih =>
      by_cases q : ∀ n, n < k → imageReason (h.image n) = 0
      · exact ⟨k, hk, q, hn⟩
      · simp only [Classical.not_forall] at q
        obtain ⟨n, hlt, hne⟩ := q
        exact ih n hlt (by omega) hne

/-- A powered package, a power within the limit, a temperature at each end of the bins (R383). -/
theorem witness_LifetimeAndHealthAreRecorded :
    w.hub.powered = true ∧ (4500 : W16).toNat ≤ w.hub.limit.toNat ∧
    goes (.histogramSample 24 25 136 137 0 511) w (fun t => t.hub.bin 0 == 1 && t.hub.bin (16 + 1) == 1 && t.hub.bin (32 + 14) == 1 &&
      t.hub.bin (48 + 15) == 1) = true ∧
    goes (.powerLimitWindow 4500 3) w (fun t => t.hub.pwr == 4500 && t.hub.gate == 3) = true ∧
    goes .entropyHealthFailure w (fun t => !t.hub.entropyOk) = true := by decide +kernel

/-- Each phase of a brown-out, armed and not, under the host's control and not. -/
theorem witness_BrownOutEntersRetention :
    let at_ := fun (p : Power) (f : BitVec 6) => hubOf w { w.hub with power := p, funcmode := f }
    let calm := hubOf w { w.hub with boArm := false }
    let done := hubOf (at_ .entering 0) { (at_ .entering 0).hub with drained := BitVec.allOnes 16 }
    calm.hub.boArm = false ∧ w.hub.boArm = true ∧ w.hub.power = .on ∧ w.hub.boot = 1 ∧ w.untouched = false ∧ w.hub.funcmode.getLsbD 4 = false ∧
    (at_ .on 16).hub.funcmode.getLsbD 4 = true ∧ (at_ .waiting 16).hub.power = .waiting ∧ (at_ .triggered 16).hub.power = .triggered ∧
    (at_ .entering 0).hub.power = .entering ∧ (∀ i : BitVec 4, done.hub.drained.getLsbD i.toNat = true) ∧
    (∀ c ∈ (savable done).ctxs, c.life = .running → (savable done).canSave c.id = true) ∧
    goes .brownoutTrigger w (fun t => decide (t.hub.power = .entering)) = true ∧
    goes .brownoutTrigger (at_ .on 16) (fun t => decide (t.hub.power = .triggered)) = true ∧
    goes .bocmdEnter (at_ .triggered 16) (fun t => decide (t.hub.power = .entering)) = true ∧
    goes .bocmdResume (at_ .waiting 16) (fun t => t.hub.resumeOk) = true ∧
    goes .drainWindowExpiry (at_ .entering 0) (fun t => t.me.life == .removed && t.me.t.cause == 0x52) = true ∧
    goes .brownoutEntry (savable done) (fun t => decide (t.hub.power = .retention) && t.me.life == .saved) = true := by decide +kernel

/-- A module in service with no error and with eight, one that retrains; a port up with and without 16 failures, and down. -/
theorem witness_LinksFailAndRecover :
    let s := mapped
    let e8 := hubOf s { s.hub with crcLog := List.replicate 8 (7, 2, 0) }
    let tr := hubOf s { s.hub with retrain := [(7, 2, 0)] }
    let p := fun (n : Nat) => ({ w with ports := w.ports.set 0 { en := true, up := true, fails := n } } : State)
    let dn : State := { w with ports := w.ports.set 0 { en := true } }
    let ld := queued mapped [ldE 1 (.glob 0x20000 0x20000) 5] []
    s.hub.boot = 1 ∧ s.hub.powered = true ∧ s.hub.moduleUp 7 2 = true ∧ s.me.life = .running ∧ ld.me.sq.stores = [] ∧
    8 ≤ (e8.hub.crcLog.filter fun x => x.1 == 7 && x.2.1 == 2 && e8.cc < x.2.2 + 2 ^ 20).length ∧ s.hub.crcLog.length < 8 ∧
    tr.hub.retrain = [(7, 2, 0)] ∧ ((p 15).ports[0]).up = true ∧ ((p 15).ports[0]).fails < 16 ∧ 16 ≤ ((p 16).ports[0]).fails ∧
    portSocket w.hub.product 0 = some 11 ∧ w.hub.serves 11 = true ∧ (dn.ports[0]).en = true ∧ (dn.ports[0]).up = false ∧
    goes (.ucieFlitCrcError 7 2 0 7 1) s (fun t => t.hub.linkCrc[7] == 0x10) = true ∧
    carries ld.hub (ld.socketOf 0) 1 0 2 = true ∧ ld.hub.moduleUp 0 2 = true ∧ bSocket ld.hub.product (dieOf 0x20000) = some 1 ∧ ld.hub.serves 1 = true ∧
    goes (.ucieFlitCrcError 0 2 0 0 1) ld (fun t => t.me.sq.loads == [] && t.me.sq.errs.map (·.cause) == [0x51]) = true ∧
    goes (.moduleRetrain 7 2) e8 (fun t => !t.hub.moduleUp 7 2) = true ∧ goes (.moduleRetrain 7 2) s (fun t => t.hub.moduleUp 7 2) = true ∧
    goes (.moduleRetrainEnd 7 2 true) tr (fun t => t.hub.retrain == []) = true ∧
    goes (.vexfyFlitResend 0 false) (p 15) (fun t => t.ports[0].fails == 16 && t.ports[0].retry == 1) = true ∧
    goes (.vexfyPortDown 0) (p 16) (fun t => !t.ports[0].up) = true ∧ goes (.vexfyPortTrained 0 9) dn (fun t => t.ports[0].up && t.ports[0].peer == 9) = true := by
  decide +kernel

/-- B-die 0 with its migration engine on: maps at 2^32 (free frames), 2^33 (leaves) and 2^34 (counters); frame 0x400000 of the stack is
free, and frame 2 is hot, its leaf at 0x3000. -/
def mig : State :=
  let d : BDie := { migctl := 0x180140000001, migbase := 2 ^ 32, migrmap := 2 ^ 33, migcnt := 2 ^ 34 }
  let m := (({ w.mem with cells := [] }.set (2 ^ 32 + 0x80000) 1).writeLE (2 ^ 33 + 16) 8 0x3000).set (2 ^ 34 + 2) 0x40
  hubOf { w with bdies := w.bdies.set 0 d, mem := m.writeLE 0x3000 8 0x2000B } w.hub

/-- Blocks of a scrub, a hot and an asked frame with a free one to go to, both modes, a move with a whole and a poisoned page. -/
theorem witness_PagesAreScrubbedAndMoved :
    let held := hubOf mig { mig.hub with migMode := 1 }
    let fixed : State := { mig with mem := (mig.mem.writeLE 0x3000 8 0x2001B) }
    let mv : PageMove := { b := 0, src := 2, dst := 0x400000, leafPa := 0x3000 }
    let moving : State := { mig with moves := [mv], bdies := mig.bdies.set 0 { (mig.bdie 0) with en := true } }
    let asked := fun (h : Bool) => ({ mig with migReqs := [{ b := 0, f := 2, host := h }] } : State)
    let hot2 : State := { mig with flips := [(0x4000000000 / 32 + 1, true), (0x4000000000 / 32 + 2, false)], bdies := mig.bdies.set 0 { (mig.bdie 0) with en := true } }
    let core := own w { w.me with flipSpad := [(3, true), (600, false)] }
    w.hub.boot = 1 ∧ w.hub.power = .on ∧ bSocket w.hub.product 0 = some 1 ∧ w.hub.serves 1 = true ∧ (w.bdie 0).scrub.toNat ≠ 0 ∧
    w.cc % 2 ^ (w.bdie 0).scrub.toNat = 0 ∧ (hot2.bdie 0).en = true ∧ 0 = hot2.cc / 2 ^ (hot2.bdie 0).scrub.toNat % 2 ^ 24 ∧
    0 = core.cc / 2 ^ 19 % 2048 ∧ core.cc % 2 ^ 19 = 0 ∧ core.me.life = .running ∧
    goes (.patrolScrub 0 0 0) hot2 (fun t => t.flips == [] && t.poison == [0x4000000000 / 32 + 1]) = true ∧
    goes (.patrolScrub 2 0 0) core (fun t => t.me.badSpad == [3] && t.me.flipSpad == [(600, false)]) = true ∧
    ((asked true).askedFor 0 2).isSome = true ∧ (mig.askedFor 0 2).isNone = true ∧ (moving.bdie 0).en = true ∧
    goes (.pageMigration 0 2) (asked false) (fun t => t.moves == [mv] && t.migReqs.length == 0) = true ∧
    goes (.pageMigration 0 2) (asked true) (fun t => t.moves == [] && t.migReqs.length == 1) = true ∧
    goes .migcmd (hubOf (asked true) { mig.hub with bus := { off := 0x100070, v := 2 * 2 ^ 16 } }) (fun t => t.moves.length == 1) = true ∧
    mig.engineOn 0 = true ∧ mig.hub.migMode = 0 ∧ held.hub.migMode = 1 ∧ hbmFrame 2 = false ∧
    ((mig.bdie 0).migctl.extractLsb' 24 8).toNat ≤ mig.frameCount 0 2 ∧
    ((tierFrames 0 true).find? fun x => mig.frameFree 0 x) = some 0x400000 ∧ mig.leafOf 0 2 = 0x3000 ∧
    (mig.mem.w64 0x3000).getLsbD 4 = false ∧ (fixed.mem.w64 0x3000).getLsbD 4 = true ∧ frameGranted (mig.bdie 0) 2 = false ∧
    mig.frameWatched 2 = false ∧ mig.cc % 2 ^ ((mig.bdie 0).migctl.extractLsb' 40 8).toNat = 0 ∧ moving.moves = mv :: [] ∧
    moving.mem.wf = true ∧ mv.src ≠ mv.dst ∧ poisoned moving (2 * 65536) 65536 = false ∧
    poisoned ({ moving with poison := [4096] } : State) (2 * 65536) 65536 = true ∧
    goes (.pageMigration 0 2) mig (fun t => t.moves == [mv]) = true ∧ goes (.pageMigration 0 2) fixed (fun t => t.moves == []) = true ∧
    goes (.pageMigration 0 2) held (fun t => t.migReqs.length == 1) = true ∧
    goes .pageMoveComplete { moving with poison := [4096] } (fun t => t.moves == [] && t.mem.get (0x400000 * 65536) == 0) = true := by
  decide +kernel

/-- The leaf entry of the frame that moves is no counter of a running migration engine. -/
theorem witness_LeafIsNoCounter (k : Nat) (h : k < 8) : ¬ IsCounter mig (.glob (0x3000 + k) 0) := by
  rintro ⟨b, f, va, hb, he⟩
  have h0 : ∀ n : Fin 12, (mig.bdie n.val).migctl.getLsbD 0 = true → n = 0 := by decide +kernel
  by_cases hn : b < 12
  · obtain rfl : b = 0 := congrArg Fin.val (h0 ⟨b, hn⟩ hb)
    have : (mig.bdie 0).counterPa f = 2 ^ 34 + f % 2 ^ 23 := rfl
    injection he
    omega
  · rw [show mig.bdie b = {} from by rw [State.bdie, Array.getD_eq_getD_getElem?, Array.getElem?_eq_none (by simpa using hn)]; rfl] at hb
    exact absurd hb (by decide)

/-- A stream at the word `addi g5, g3, -12` (R73), mapped at address 0x20000 (R302), its turn next. -/
def atWord : State :=
  let s := { mapped with mem := (mapped.mem.writeLE 0x20000 4 0x0451FFF4), agenda := [.stream 0 .s 0] }
  own s { s.me with s := { pc := 0x20000 } }

/-- A stream's turn, an event's and the host's; reset keeps what every step keeps. -/
theorem witness_StepRunsTheDecodedInstruction :
    let ev : State := { w with agenda := [.event 0 .storePerform] }
    let host : State := { w with agenda := [.hostWrite 0x50 1] }
    atWord.choice = .stream 0 .s 0 ∧ hasStream atWord.me .s = true ∧ canIssue atWord .s = true ∧ atWord.me.s.halted = false ∧
    atWord.me.s.lastCc ≠ some atWord.cc ∧ atWord.me.s.pfx = none ∧ atWord.me.s.pc.extractLsb' 56 8 = 0 ∧
    (walk atWord 0 0x20000 false).pa = some 0x20000 ∧ answers (homeState atWord 0 0x20000) = true ∧ poisoned atWord 0x20000 4 = false ∧
    reads .s (BitVec.ofNat 32 (atWord.mem.readLE 0x20000 4)) (.addi 5 3 (-12)) = true ∧ loadPending atWord.me (.addi 5 3 (-12)) = false ∧
    loadError atWord.me (.addi 5 3 (-12)) = none ∧ ev.choice = .event 0 .storePerform ∧ streamsOf .storePerform = [] ∧
    onBusOnly .storePerform = false ∧ host.choice = .hostWrite 0x50 1 ∧
    (match step atWord with | .next t => t.me.rg 5 == -12 && t.me.s.pc == 0x20004 | _ => false) = true ∧
    (match step host with | .next t => t.hub.bar2 == 1 | _ => false) = true := by decide +kernel

/-- A flit error while the S stream's word is on its way; a word that has been read runs though its place has changed, one past the
address space traps, and one whose table lies in a stack out of service holds (R13, R298, R327, R351). -/
theorem witness_FetchesFailHoldAndKeepTheirWord :
    let s : State := { atWord with cur := { atWord.cur with st := .s, cl := 0 } }
    let got := own { atWord with mem := atWord.mem.set 0x20000 0 } { atWord.me with s := { atWord.me.s with word := some 0x0451FFF4 } }
    let past := own atWord { atWord.me with s := { pc := 2 ^ 56 } }
    let held : State := { (inst0 atWord { (atWord.inst 0) with ptroot := 0x4000000001 }) with bdies := atWord.bdies.set 0 { (atWord.bdie 0) with en := false } }
    let at_ := walk held 0 0x20000 false
    s.hasTurn = true ∧ s.me.s.word = none ∧ carries s.hub (s.socketOf 0) 1 0 2 = true ∧ CanHandle s ∧ past.me.s.pc.extractLsb' 56 8 ≠ 0 ∧ CanHandle { past with cur := s.cur } ∧
    past.me.s.trapping = false ∧ got.me.s.word = some 0x0451FFF4 ∧ at_.hold = true ∧ at_.pa = none ∧
    goes (.ucieFlitCrcError 0 2 0 4 1) s (fun t => t.me.t.cause == 7 && t.me.t.tval == 0x20000) = true ∧
    (match step got with | .next t => t.me.rg 5 == -12 | _ => false) = true ∧
    (match step past with | .next t => t.me.t.cause == 7 && t.me.t.tval == 2 ^ 56 | _ => false) = true ∧
    (match step held with | .next t => t.me.s.wait.isSome && t.me.s.pc == 0x20000 | _ => false) = true := by
  unfold CanHandle Handles; decide +kernel

/-- The word of an instruction as the host places it runs first. -/
theorem test_withFetchWord :
    (match step (State.reset.withFetchWord 32 0x0451FFF4) with | .next t => t.me.rg 5 == -12 | _ => false) = true := by decide +kernel

/-- A reel's context runs, and a core cycle passes. -/
theorem witness_EveryStepKeeps :
    let s : State := { tagged w with agenda := [.cycle] }
    s.memsWf ∧ s.ReelsHold ∧ (match step s with | .next _ => true | _ => false) = true := by
  have h : ({ tagged w with agenda := [.cycle] } : State).heldCtxs = [] := by decide +kernel
  refine ⟨⟨by decide, by decide, ⟨by decide, by decide⟩, (fun c hc => nomatch hc), fun p hp => absurd (h ▸ hp) (List.not_mem_nil)⟩,
    ⟨⟨by decide, ?_⟩, ?_, fun p hp => absurd (h ▸ hp) (List.not_mem_nil)⟩, by decide +kernel⟩
  all_goals (intro c hc; rw [show ({ tagged w with agenda := [.cycle] } : State).ctxs = [(tagged w).me] from rfl, List.mem_singleton] at hc
             subst hc; decide)

/-- Well-formed instructions of every stream (R64). -/
theorem witness_DecodingInvertsEncoding : wellFormed .s (.add 1 2 3) = true ∧ wellFormed .v (.vred 1 2 3 0 7) = true ∧
    wellFormed .m (.macc 1 15 2) = true ∧ wellFormed .c (.ccpy 12 7 255 3 1) = true ∧ wellFormed .f (.fopen 255 63 1 255) = true ∧
    wellFormed .e (.eEmit 15 4 3) = true := by decide

end Sys2Proof.Tests
end

section
namespace Sys2Proof.Machine

/-! ## Traps and holds of the S stream -/

/-- A trap that the context can handle is taken as a handler entry (R331). -/
theorem State.trap_entry (s : State) (cause : BitVec 7) (tval : W64) (h : CanHandle s) (hc : cause ≠ 0x20) :
    TrapEntry s (s.trap cause tval) cause tval := by
  unfold State.trap
  rw [if_pos h.1]
  exact s.takeTrapFrom_entry _ cause tval h hc

/-- A stream that is held waits for its object (R283). -/
theorem Strm.held_heldAt (st : Strm) (kind : BitVec 4) (obj cc : Nat) : HeldAt st (st.held kind obj cc) kind obj :=
  ⟨rfl, rfl, rfl, rfl, rfl⟩

/-- An S instruction that holds changes the S stream alone. -/
theorem State.holdS_held (s : State) (kind : BitVec 4) (obj : Nat) :
    HeldAt s.me.s (s.holdS kind obj).me.s kind obj ∧
      s.holdS kind obj = { s with me := { s.me with s := (s.holdS kind obj).me.s } } :=
  ⟨s.me.s.held_heldAt kind obj s.me.runCc, rfl⟩

/-! ## What streams know (R314) -/

theorem Known.bound_cons (p : Agent × Nat) (k : Known) (w : Agent) :
    Known.bound (p :: k) w = if w = p.1 then p.2 else k.bound w := by
  unfold Known.bound
  rw [List.lookup_cons]
  by_cases h : w = p.1
  · rw [if_pos h, beq_iff_eq.2 h]; rfl
  · rw [if_neg h, beq_false_of_ne h]

/-- Entries of another writer do not matter. -/
theorem Known.bound_filter_ne (k : Known) (v w : Agent) (h : w ≠ v) : Known.bound (k.filter fun q => q.1 != v) w = k.bound w := by
  induction k with
  | nil => rfl
  | cons p k ih =>
    by_cases hp : p.1 = v
    · rw [List.filter_cons_of_neg (by simpa using hp), ih, Known.bound_cons, if_neg (hp ▸ h)]
    · rw [List.filter_cons_of_pos (by simpa using hp), Known.bound_cons, Known.bound_cons, ih]

/-- One entry joins what is known: its writer's bound rises to it, the others stay. -/
theorem Known.bound_join_entry (a : Known) (p : Agent × Nat) (w : Agent) :
    Known.bound ((p.1, Nat.max p.2 (a.bound p.1)) :: a.filter fun q => q.1 != p.1) w =
      if w = p.1 then max p.2 (a.bound w) else a.bound w := by
  rw [Known.bound_cons]
  by_cases h : w = p.1
  · subst h; simp
  · rw [if_neg h, if_neg h, Known.bound_filter_ne _ _ _ h]

/-- What two streams know together is at least what each knows (R314). -/
theorem Known.bound_join (a b : Known) (w : Agent) : a.bound w ≤ (a.join b).bound w ∧ b.bound w ≤ (a.join b).bound w := by
  induction b generalizing a with
  | nil => exact ⟨le_refl _, Nat.zero_le _⟩
  | cons p b ih =>
    obtain ⟨h1, h2⟩ := ih ((p.1, Nat.max p.2 (a.bound p.1)) :: a.filter fun q => q.1 != p.1)
    rw [Known.bound_join_entry] at h1
    rw [Known.bound_cons]
    show a.bound w ≤ Known.bound (Known.join _ b) w ∧ _ ≤ Known.bound (Known.join _ b) w
    by_cases h : w = p.1
    · rw [if_pos h] at h1 ⊢
      exact ⟨(le_max_right _ _).trans h1, (le_max_left _ _).trans h1⟩
    · rw [if_neg h] at h1 ⊢
      exact ⟨h1, h2⟩

theorem Known.bound_le_join_left (a b : Known) (w : Agent) : a.bound w ≤ (a.join b).bound w := (a.bound_join b w).1
theorem Known.bound_le_join_right (a b : Known) (w : Agent) : b.bound w ≤ (a.join b).bound w := (a.bound_join b w).2

/-- Joining some of a family, in the order of a list, is at least each that takes part. -/
theorem Known.bound_le_foldl_join {α : Type} (hit : α → Bool) (f : α → Known) (w : Agent) (l : List α) (k : Known) :
    k.bound w ≤ (l.foldl (fun k n => if hit n then k.join (f n) else k) k).bound w ∧
    ∀ n ∈ l, hit n = true → (f n).bound w ≤ (l.foldl (fun k n => if hit n then k.join (f n) else k) k).bound w := by
  induction l generalizing k with
  | nil => simp
  | cons a l ih =>
    obtain ⟨h1, h2⟩ := ih (if hit a then k.join (f a) else k)
    rw [List.foldl_cons]
    by_cases ha : hit a = true
    · rw [if_pos ha] at h1 h2 ⊢
      refine ⟨(k.bound_le_join_left _ w).trans h1, fun n hn hh => ?_⟩
      rcases List.mem_cons.1 hn with rfl | hn
      · exact (k.bound_le_join_right _ w).trans h1
      · exact h2 n hn hh
    · rw [if_neg ha] at h1 h2 ⊢
      refine ⟨h1, fun n hn hh => ?_⟩
      rcases List.mem_cons.1 hn with rfl | hn
      · exact absurd hh ha
      · exact h2 n hn hh

/-! ## Streams that test again -/

/-- A stream told to test a guard or a sync bit again goes on being held at it until it has (R21, R160); every other wait ends. -/
theorem retests_woken (st : Strm) (kind : BitVec 4) (obj : Nat) :
    Retests st (if st.wait = some { kind := kind, obj := BitVec.ofNat 20 obj } then
      { st with wait := if kind = 1 || kind = 6 then st.wait else none, tried := none } else st) := by
  by_cases h : st.wait = some { kind := kind, obj := BitVec.ofNat 20 obj }
  · rw [if_pos h]
    refine Or.inr ⟨rfl, ?_⟩
    by_cases hk : (kind = 1 || kind = 6) = true
    · exact Or.inr (if_pos hk)
    · exact Or.inl (if_neg hk)
  · rw [if_neg h]; exact Or.inl rfl

theorem Ctx.wake_retests (c : Ctx) (kind : BitVec 4) (obj : Nat) :
    Retests c.s (c.wake kind obj).s ∧ Retests c.e (c.wake kind obj).e ∧ Retests c.c (c.wake kind obj).c :=
  ⟨retests_woken .., retests_woken .., retests_woken ..⟩

/-- A stream that has retired after being told to test again has retired as it would have without. -/
theorem Retests.goesOn {a b : Strm} (h : Retests a b) (cc : Nat) : GoesOn a (b.next (b.pc + 4) cc) (a.pc + 4) cc := by
  rcases h with rfl | ⟨hb, -⟩
  · exact Strm.next_goesOn ..
  · rw [hb]; exact Strm.next_goesOn ..

/-! ## GSET (R116) -/

/-- GSET holds in the cycle in which a queue head has tested its slot (R21). -/
theorem execGset_holds (s : State) (d : BitVec 5) (g : BitVec 4) (v : BitVec 8) (h : s.me.testedNow g = true) :
    exec (.gset d g v) s = .next (s.holdS 0 0) := if_pos h

/-- GSET writes its slot, what it releases with it, and goes on. -/
theorem execGset_writes (s : State) (d : BitVec 5) (g : BitVec 4) (v : BitVec 8) (h : s.me.testedNow g = false)
    (hd : s.me.sDone = true) :
    exec (.gset d g v) s = .next ({ s with me := (s.me.setGuard g (gsetState s.me d v) s.gives).wake 1 g.toNat }).retireS :=
  (if_neg (by simp [h])).trans (if_pos hd)

/-- What the guard slots carry after one of them is written (R314). -/
theorem Ctx.setGuard_known (c : Ctx) (g i : BitVec 4) (x : BitVec 2) (k : Known) :
    (c.setGuard g x k).hb.gd[i.toNat] = if i = g then k else c.hb.gd[i.toNat] := by
  simp only [Ctx.setGuard, Vector.getElem_set, BitVec.toNat_inj]
  by_cases h : g = i
  · simp [h]
  · simp [h, Ne.symm h]

/-! ## WFE, SEV and SEV_DELIVERY (R117) -/

/-- WFE holds while none of its bits is set, or an SEV that arrives in this cycle is still to be taken. -/
theorem execWfe_holds (s : State) (d : BitVec 5) (m : BitVec 8)
    (h : s.me.events &&& m = 0 ∨ ∃ f ∈ s.sevs, f.ctx = s.me.id ∧ f.due ≤ s.cc) :
    exec (.wfe d m) s = .next (s.holdS 8 m.toNat) :=
  if_pos (by simpa using h)

/-- WFE takes its bits, acquires what they carry, and goes on. -/
theorem execWfe_takes (s : State) (d : BitVec 5) (m : BitVec 8) (h : s.me.events &&& m ≠ 0)
    (hs : ∀ f ∈ s.sevs, f.ctx = s.me.id → s.cc < f.due) :
    exec (.wfe d m) s = .next ({ s with me :=
      ((s.me.clearEvents m).2.acquire .s (s.me.clearEvents m).1).wg d ((s.me.events &&& m).setWidth 64) false }).retireS :=
  if_neg (by simpa using ⟨h, hs⟩)

/-- The bits that are taken carry at least what each of them does (R314). -/
theorem Ctx.clearEvents_bound (c : Ctx) (m : BitVec 8) (n : Fin 8) (hn : (c.events &&& m).getLsbD n.val = true) (w : Agent) :
    Known.bound c.hb.ev[n] w ≤ (c.clearEvents m).1.bound w := by
  have h := (Known.bound_le_foldl_join (fun n => c.events.getLsbD n && m.getLsbD n) (fun n => c.hb.ev.toArray.getD n []) w
    (List.range 8) []).2 n.val (List.mem_range.2 n.isLt) (by simpa using hn)
  have he : c.hb.ev.toArray.getD n.val [] = c.hb.ev[n] := by simp [Array.getD, n.isLt]
  rw [he] at h
  exact h

/-- SEV to a logical core that cannot be traps. -/
theorem execSev_traps (s : State) (d : BitVec 5) (m : BitVec 8) (h : 207 < (s.me.rg d).toNat % 256) :
    exec (.sev d m) s = .next (s.trap 0x14 (s.me.rg d)) := if_pos h

/-- SEV sends its bits on their way with what it releases. -/
theorem execSev_sends (s : State) (d : BitVec 5) (m : BitVec 8) (h : (s.me.rg d).toNat % 256 ≤ 207) (hd : s.me.sDone = true) :
    ∃ f : SevFlight, exec (.sev d m) s = .next ({ s with sevs := s.sevs ++ [f] }).retireS ∧
      f.ctx = ctxIdOf (instOf s.me.id) ((s.me.rg d).toNat % 256) ∧ f.bits = m ∧ f.known = s.gives ∧
      f.due = s.cc + latency s.hub (s.socketOf s.me.id) (s.socketOf f.ctx) :=
  ⟨_, (if_neg (by omega)).trans (if_pos hd), rfl, rfl, rfl, rfl⟩

/-- Which of the instances a CTXID belongs to (R11). -/
@[simp] theorem instOf_ctxIdOf (i : BitVec 4) (n : Nat) (hn : n < 256) : instOf (ctxIdOf i n) = i := by
  apply BitVec.eq_of_toNat_eq
  simp only [ctxIdOf, instOf, BitVec.toNat_ofNat, BitVec.extractLsb'_toNat]
  omega

/-- The logical core of a CTXID (R11). -/
@[simp] theorem lcoreOf_ctxIdOf (i : BitVec 4) (n : Nat) (hn : n < 256) : lcoreOf (ctxIdOf i n) = n := by
  simp only [ctxIdOf, lcoreOf, BitVec.toNat_ofNat]
  omega

/-- A context in focus that runs is found by its CTXID. -/
theorem State.ctx?_me {s : State} (h : s.me.life ≠ .none) : s.ctx? s.me.id = some s.me := by
  simp [State.ctx?, State.ctxs, h]

/-- A context that is not stopped for the host is seen as it is. -/
theorem State.view_eq {s : State} {id : BitVec 12} {c : Ctx} (h : s.ctx? id = some c) (hl : c.life ≠ .stopped) :
    s.view id = some c := by
  simp [State.view, h, hl]

/-- A change of the context in focus. -/
theorem State.modCtx_me {s : State} (h : s.me.life ≠ .none) (f : Ctx → Ctx) : s.modCtx s.me.id f = { s with me := f s.me } :=
  if_pos ⟨rfl, h⟩

/-- A context that runs has no image that could change. -/
theorem State.poke_running {s : State} {id : BitVec 12} {c : Ctx} (h : s.ctx? id = some c) (hl : c.life = .running)
    (l : List (Nat × List Byte)) : s.poke id l = s := by
  simp [State.poke, h, Ctx.away, hl]

/-- A change of the context in focus, which runs, reaches no image. -/
theorem State.update_me {s : State} (h : s.me.life = .running) (f : Ctx → Ctx) (g : Ctx → List (Nat × List Byte))
    (hi : (f s.me).id = s.me.id) (hl : (f s.me).life = s.me.life) : s.update s.me.id f g = { s with me := f s.me } := by
  have hn : s.me.life ≠ .none := by simp [h]
  have hr : s.refresh s.me.id = s := by
    simp only [State.refresh, State.view_eq (State.ctx?_me hn) (by simp [h])]
    exact State.modCtx_me hn _
  have hm : ({ s with me := f s.me } : State).ctx? s.me.id = some (f s.me) :=
    hi ▸ State.ctx?_me (s := { s with me := f s.me }) (by simp [hl, h])
  simp only [State.update, hr, State.modCtx_me hn, hm]
  exact State.poke_running hm (hl.trans h) _

/-- SEV_DELIVERY to a running context. -/
theorem execSevDelivery_arrives (s : State) (f : SevFlight) (h : s.sevs.find? (fun f => f.ctx == s.me.id && f.due ≤ s.cc) = some f)
    (hl : s.me.life = .running) :
    exec .sevDelivery s = .next { s with sevs := s.sevs.erase f, me := s.me.getEvents f.bits f.known } := by
  show execSevDelivery s = _
  have hu := State.update_me (s := { s with sevs := s.sevs.erase f }) hl (fun c => c.getEvents f.bits f.known)
    (fun c => [(0x60, leBytes 8 c.events.toNat)]) rfl rfl
  simp only [execSevDelivery, h]
  rw [if_neg (by simp [hl])]
  exact congrArg Host.Outcome.next hu

/-- A stream to whose context bits arrive tests a held WFE again, in the same cycle (R117). -/
theorem Ctx.getEvents_s (c : Ctx) (bits : BitVec 8) (k : Known) :
    Retests c.s (c.getEvents bits k).s ∧
      ∀ o, c.s.wait = some { kind := 8, obj := o } → (c.getEvents bits k).s.tried = none := by
  simp only [Ctx.getEvents]
  split
  next w hw =>
    by_cases h8 : w.kind = 8
    · rw [if_pos h8]
      exact ⟨Or.inr ⟨rfl, Or.inr rfl⟩, fun _ _ => rfl⟩
    · rw [if_neg h8]
      refine ⟨Or.inl rfl, fun o ho => absurd ?_ h8⟩
      rw [hw] at ho
      exact congrArg Wait.kind (Option.some.inj ho)
  next hw => exact ⟨Or.inl rfl, fun o ho => by rw [hw] at ho; cases ho⟩

theorem Ctx.getEvents_ev (c : Ctx) (bits : BitVec 8) (k : Known) (n : Fin 8) :
    (c.getEvents bits k).hb.ev[n] = if bits.getLsbD n.val then Known.join c.hb.ev[n] k else c.hb.ev[n] := by
  simp [Ctx.getEvents]

/-- Settles O12: each clause by the equation of its instruction. -/
theorem guardsAndEventsReachTheirTargets : Obligations.GuardsAndEventsReachTheirTargets := by
  intro s d g v m x pc
  refine ⟨fun h => ?_, fun h hd => ?_, fun h => ?_, fun h hs => ?_, fun h hc => ?_, fun h hd => ?_, fun f hf hl => ?_⟩
  · exact ⟨_, execGset_holds s d g v h, s.holdS_held 0 0⟩
  · have hw := (s.me.setGuard g (gsetState s.me d v) s.gives).wake_retests 1 g.toNat
    exact ⟨_, execGset_writes s d g v h hd, fun i => s.me.setGuard_guard g i (gsetState s.me d v) s.gives, hw.1.goesOn s.cc,
      hw.2.1, hw.2.2, rfl, fun i => s.me.setGuard_known g i (gsetState s.me d v) s.gives, sameBytes_of rfl rfl rfl rfl rfl rfl⟩
  · exact ⟨_, execWfe_holds s d m h, s.holdS_held 8 m.toNat⟩
  · refine ⟨_, execWfe_takes s d m h hs, ?_, ?_, ?_, ?_, ?_, fun n hn w => ?_⟩
    · exact gWrite_wg (by unfold Ctx.wg; split <;> rfl) (by unfold Ctx.wg; split <;> rfl)
    · simp [State.retireS, Ctx.clearEvents]
    · show GoesOn _ _ (s.me.s.pc + 4) _
      simpa [State.retireS, Ctx.clearEvents] using s.me.s.next_goesOn (s.me.s.pc + 4) s.cc
    · exact sameBytes_of rfl (by simp [State.retireS, Ctx.clearEvents]) (by simp [State.retireS, Ctx.clearEvents]) rfl
        (by simp [State.retireS, Ctx.clearEvents]) (by simp [State.retireS, Ctx.clearEvents])
    · unfold Ctx.wg; split <;> rfl
    · have hb := s.me.clearEvents_bound m n hn w
      simp only [State.retireS, Ctx.wg_hb]
      exact hb.trans (Known.bound_le_join_right _ _ w)
  · exact ⟨_, execSev_traps s d m h, s.trap_entry 0x14 x hc (by decide)⟩
  · have hx : x.toNat % 256 < 256 := Nat.mod_lt _ (by decide)
    obtain ⟨f, he, hid, hb, hk, hdue⟩ := execSev_sends s d m h hd
    exact ⟨_, he, ⟨f, rfl, by rw [hid, instOf_ctxIdOf _ _ hx], by rw [hid, lcoreOf_ctxIdOf _ _ hx], hb, hk, hdue⟩,
      s.me.s.next_goesOn pc s.cc, rfl⟩
  · have hs := s.me.getEvents_s f.bits f.known
    exact ⟨_, execSevDelivery_arrives s f hf hl, rfl, rfl, hs.1, hs.2, s.me.getEvents_ev f.bits f.known, rfl⟩

end Sys2Proof.Machine
end

section
namespace Sys2Proof.Machine

/-! ## A unit's grants and its generator (R284, R285) -/

/-- The grants that a unit has made in this cycle (R284). -/
def State.grantsNow (s : State) (u : Nat) : Nat := (s.hub.granted.filter fun p => p == (u, s.cc)).length

/-- The state once a unit's grant of this cycle is noted. -/
def State.noteGrant (s : State) (u : Nat) : State :=
  { s with hub := { s.hub with granted := (u, s.cc) :: (s.hub.granted.filter fun p => p == (u, s.cc)) ++
      (s.hub.granted.filter fun p => p.1 != u) } }

/-- The hub after a unit's grant: it is noted, and where `adv` and one of the instances holds a reel the unit's generator has moved on; the
words in which the statement says so. -/
def Draws (s : State) (u : Nat) (adv : Prop) (h : Hub) : Prop :=
  h = { s.hub with lottery := h.lottery, granted := h.granted } ∧
  (∀ v, h.granted.lookup v = if v = u then some s.cc else s.hub.granted.lookup v) ∧
  (h.granted.filter fun p => p == (u, s.cc)).length = s.grantsNow u + 1 ∧
  let moves := adv ∧ ∃ j, (s.inst j).holds = true
  ∀ v, (v = u ∧ moves → h.lotGen v = xorshift32 (s.hub.lotGen u)) ∧ (¬ (v = u ∧ moves) → h.lotGen v = s.hub.lotGen v)

/-- Entries of other keys do not matter to a lookup. -/
theorem lookup_append_of_ne {β : Type} (l m : List (Nat × β)) (v : Nat) (h : ∀ p ∈ l, p.1 ≠ v) :
    (l ++ m).lookup v = m.lookup v := by
  rw [List.lookup_append, List.lookup_eq_none_iff.2 fun p hp => by simpa using (h p hp).symm]
  rfl

theorem lookup_filter_ne {β : Type} (l : List (Nat × β)) {u v : Nat} (h : v ≠ u) :
    (l.filter fun p => p.1 != u).lookup v = l.lookup v := by
  induction l with
  | nil => rfl
  | cons p l ih =>
    by_cases hp : p.1 = u
    · rw [List.filter_cons_of_neg (by simpa using hp), ih, List.lookup_cons, beq_false_of_ne (hp ▸ h)]
    · rw [List.filter_cons_of_pos (by simpa using hp), List.lookup_cons, List.lookup_cons, ih]

theorem State.noteGrant_lookup (s : State) (u v : Nat) :
    (s.noteGrant u).hub.granted.lookup v = if v = u then some s.cc else s.hub.granted.lookup v := by
  show List.lookup v ((u, s.cc) :: ((s.hub.granted.filter fun p => p == (u, s.cc)) ++ s.hub.granted.filter fun p => p.1 != u)) = _
  rw [List.lookup_cons]
  by_cases h : v = u
  · rw [if_pos h, beq_iff_eq.2 h]
  · rw [if_neg h, beq_false_of_ne h]
    have hne : ∀ p ∈ s.hub.granted.filter fun p => p == (u, s.cc), p.1 ≠ v := fun p hp => by
      have := (List.mem_filter.1 hp).2
      rw [beq_iff_eq] at this
      rw [this]; exact Ne.symm h
    show List.lookup v (_ ++ _) = _
    rw [lookup_append_of_ne _ _ _ hne, lookup_filter_ne _ h]

theorem State.noteGrant_grants (s : State) (u : Nat) :
    ((s.noteGrant u).hub.granted.filter fun p => p == (u, s.cc)).length = s.grantsNow u + 1 := by
  have h : ∀ p ∈ s.hub.granted.filter fun p => p.1 != u, ¬ (p == (u, s.cc)) = true := fun p hp hq => by
    rw [beq_iff_eq.1 hq] at hp
    simpa using (List.mem_filter.1 hp).2
  show (List.filter _ ((u, s.cc) :: (s.hub.granted.filter fun p => p == (u, s.cc)) ++ _)).length = _
  rw [List.filter_append, List.filter_eq_nil_iff.2 h, List.append_nil, List.filter_cons_of_pos (by simp), List.filter_filter]
  simp [State.grantsNow]

/-- One of the instances holds a reel. -/
theorem State.any_holds (s : State) : s.insts.toList.any (·.holds) = true ↔ ∃ j, (s.inst j).holds = true := by
  simp only [List.any_eq_true, List.mem_iff_getElem]
  constructor
  · rintro ⟨x, ⟨n, hn, rfl⟩, h⟩
    have hn : n < 16 := by simpa using hn
    exact ⟨BitVec.ofNat 4 n, by simpa [State.inst, Nat.mod_eq_of_lt hn] using h⟩
  · rintro ⟨j, h⟩
    exact ⟨s.inst j, ⟨j.toNat, by simpa using j.isLt, by simp [State.inst]⟩, h⟩

/-- A draw changes generators alone. -/
theorem State.setLot_lottery (s : State) (u : Nat) (x : W32) :
    ∃ g, s.setLot u x = { s with hub := { s.hub with lottery := g } } := by
  unfold State.setLot; split
  · exact ⟨_, rfl⟩
  · exact ⟨_, rfl⟩

/-- A generator after one of them is written (R285). -/
theorem Hub.setLot_lotGen (h : Hub) (u v : Nat) (x : W32) : (h.setLot u x).lotGen v = if v = u then x else h.lotGen v := by
  unfold Hub.lotGen
  show (List.lookup v ((u, x) :: h.lottery.filter fun p => p.1 != u)).getD _ = _
  rw [List.lookup_cons]
  by_cases hv : v = u
  · rw [if_pos hv, beq_iff_eq.2 hv]; rfl
  · rw [if_neg hv, beq_false_of_ne hv]
    exact congrArg (·.getD (lotStart h.lotbase v)) (lookup_filter_ne h.lottery hv)

/-- A noted grant and its draw change the hub alone. -/
theorem State.noteGrant_setLot (s : State) (u : Nat) (x : W32) :
    (s.noteGrant u).setLot u x = { s with hub := ((s.noteGrant u).setLot u x).hub } := by
  obtain ⟨g, hg⟩ := (s.noteGrant u).setLot_lottery u x
  rw [hg]; rfl

/-- A noted grant whose draw leaves the generator at its next value where `adv`, and where it is otherwise. -/
theorem draws_of (s : State) (u : Nat) (adv : Prop) [Decidable adv] (x : W32)
    (hx : x = if adv then xorshift32 (s.hub.lotGen u) else s.hub.lotGen u) : Draws s u adv ((s.noteGrant u).setLot u x).hub := by
  by_cases hh : s.insts.toList.any (·.holds) = true
  · rw [show (s.noteGrant u).setLot u x = { s.noteGrant u with hub := (s.noteGrant u).hub.setLot u x } from if_pos hh]
    have hj := s.any_holds.1 hh
    refine ⟨rfl, s.noteGrant_lookup u, s.noteGrant_grants u, fun v => ?_⟩
    have hg : ((s.noteGrant u).hub.setLot u x).lotGen v = if v = u then x else s.hub.lotGen v := Hub.setLot_lotGen ..
    refine ⟨fun h => ?_, fun h => ?_⟩
    · rw [hg, if_pos h.1, hx, if_pos h.2.1]
    · refine hg.trans ?_
      by_cases hv : v = u
      · rw [if_pos hv, hx, if_neg fun ha => h ⟨hv, ha, hj⟩, hv]
      · rw [if_neg hv]
  · rw [show (s.noteGrant u).setLot u x = s.noteGrant u from if_neg hh]
    exact ⟨rfl, s.noteGrant_lookup u, s.noteGrant_grants u, fun v =>
      ⟨fun h => absurd (s.any_holds.2 h.2.2) hh, fun _ => rfl⟩⟩

/-! ## The draw (R285) -/

/-- Among queues in order, the one whose interval of cumulative tickets holds the value is picked. -/
theorem lotPick_append {α : Type} (a b : List (α × Nat)) (q : α) (t r : Nat) (h1 : (a.map (·.2)).sum ≤ r)
    (h2 : r < (a.map (·.2)).sum + t) : lotPick (a ++ (q, t) :: b) r = some q := by
  induction a generalizing r with
  | nil => exact if_pos (by simpa using h2)
  | cons p a ih =>
    rw [List.map_cons, List.sum_cons] at h1 h2
    exact (if_neg (by omega)).trans (ih (r - p.2) (by omega) (by omega))

theorem foldl_add_snd {α : Type} (l : List (α × Nat)) (n : Nat) : l.foldl (fun n p => n + p.2) n = n + (l.map (·.2)).sum := by
  induction l generalizing n with
  | nil => simp
  | cons p l ih => rw [List.foldl_cons, ih, List.map_cons, List.sum_cons, Nat.add_assoc]

/-- The generator after a grant: it has moved unless no queue holds a ticket. -/
theorem lotGrant_gen {α : Type} (c : List (α × Nat)) (x : W32) :
    (lotGrant c x).2 = if (c.map (·.2)).sum ≠ 0 then xorshift32 x else x := by
  unfold lotGrant
  rw [foldl_add_snd, Nat.zero_add]
  by_cases h : (c.map (·.2)).sum = 0 <;> simp [h]

/-- The queue that a grant chooses: by its interval, or the first while no queue holds a ticket. -/
theorem lotGrant_queue {α : Type} (a b : List (α × Nat)) (q : α) (t : Nat) (x : W32)
    (total below : Nat) (ht : ((a ++ (q, t) :: b).map (·.2)).sum = total) (hb : (a.map (·.2)).sum = below)
    (h1 : total ≠ 0 → below ≤ (xorshift32 x).toNat % total ∧ (xorshift32 x).toNat % total < below + t)
    (h2 : total = 0 → a = []) : (lotGrant (a ++ (q, t) :: b) x).1 = some q := by
  unfold lotGrant
  rw [foldl_add_snd, Nat.zero_add, ht]
  by_cases h : total = 0
  · rw [if_pos h, h2 h]; rfl
  · rw [if_neg h]
    exact lotPick_append a b q t _ (hb ▸ (h1 h).1) (hb ▸ (h1 h).2)

/-- A grant to the only queue. -/
theorem lotGrant_single {α : Type} (q : α) (t : Nat) (x : W32) :
    lotGrant [(q, t)] x = (some q, if t ≠ 0 then xorshift32 x else x) := by
  refine Prod.ext (lotGrant_queue [] [] q t x t 0 (by simp) rfl (fun h => ⟨Nat.zero_le _, ?_⟩) fun _ => rfl) ?_
  · rw [Nat.zero_add]; exact Nat.mod_lt _ (by omega)
  · rw [lotGrant_gen]; simp

/-! ## The hub's sequencer (R260) -/

/-- Whether j of the instances contends for the sequencer. -/
def State.contends (s : State) (j : BitVec 4) : Bool := !(s.inst j).pkts.isEmpty && !(s.inst j).granted

/-- The tickets that j brings, if it contends. -/
def State.seqTickets (s : State) (j : BitVec 4) : Nat := if s.contends j then (s.inst j).hubTickets else 0

/-- The tickets of the instances below n. -/
def State.ticketsBelow (s : State) (n : Nat) : Nat := ((List.range n).map fun j => s.seqTickets (BitVec.ofNat 4 j)).sum

/-- The queue that j is to the lottery, if it contends. -/
def State.seqQueue (s : State) (j : BitVec 4) : Option (BitVec 4 × Nat) :=
  if s.contends j then some (j, (s.inst j).hubTickets) else none

theorem State.seqQueues_eq (s : State) : s.seqQueues = ((List.range 16).map (BitVec.ofNat 4)).filterMap s.seqQueue := by
  unfold State.seqQueues
  congr 1
  funext j
  cases h1 : (s.inst j).pkts.isEmpty <;> cases h2 : (s.inst j).granted <;> simp [State.seqQueue, State.contends, h1, h2]

/-- The tickets of the queues among some instances. -/
theorem State.sum_seqQueue (s : State) (l : List (BitVec 4)) :
    ((l.filterMap s.seqQueue).map (·.2)).sum = (l.map s.seqTickets).sum := by
  induction l with
  | nil => rfl
  | cons j l ih => cases h : s.contends j <;> simp [State.seqQueue, State.seqTickets, h, ih]

/-- The queues, split at one of those that contend. -/
theorem State.seqQueues_split (s : State) (i : BitVec 4) (h : s.contends i = true) :
    ∃ b, s.seqQueues = ((List.range i.toNat).map (BitVec.ofNat 4)).filterMap s.seqQueue ++ (i, (s.inst i).hubTickets) :: b := by
  have hr : List.range 16 = List.range i.toNat ++ i.toNat :: (List.range (15 - i.toNat)).map fun n => i.toNat + (n + 1) := by
    rw [show 16 = i.toNat + ((15 - i.toNat) + 1) by have := i.isLt; omega, List.range_add, List.range_succ_eq_map]
    simp
  have hq : s.seqQueue (BitVec.ofNat 4 i.toNat) = some (i, (s.inst i).hubTickets) := by simp [State.seqQueue, h]
  exact ⟨_, by rw [State.seqQueues_eq, hr, List.map_append, List.filterMap_append, List.map_cons, List.filterMap_cons_some hq]⟩

/-- The winner of the sequencer, and the generator after it (R284, R285). -/
theorem State.sequencer_winner (s : State) (i : BitVec 4) (x : W32) (hi : s.contends i = true)
    (h1 : s.ticketsBelow 16 ≠ 0 → s.ticketsBelow i.toNat ≤ (xorshift32 x).toNat % s.ticketsBelow 16 ∧
      (xorshift32 x).toNat % s.ticketsBelow 16 < s.ticketsBelow i.toNat + s.seqTickets i)
    (h2 : s.ticketsBelow 16 = 0 → ∀ j, s.contends j = true → i.toNat ≤ j.toNat) :
    lotGrant s.seqQueues x = (some i, if s.ticketsBelow 16 ≠ 0 then xorshift32 x else x) := by
  have hbelow : ∀ n, ((((List.range n).map (BitVec.ofNat 4)).filterMap s.seqQueue).map (·.2)).sum = s.ticketsBelow n := fun n => by
    rw [State.sum_seqQueue, List.map_map]; rfl
  have htotal : (s.seqQueues.map (·.2)).sum = s.ticketsBelow 16 := by rw [State.seqQueues_eq, hbelow]
  obtain ⟨b, hb⟩ := s.seqQueues_split i hi
  have ht : s.seqTickets i = (s.inst i).hubTickets := if_pos hi
  rw [ht] at h1
  refine Prod.ext ?_ ?_
  · rw [hb]
    refine lotGrant_queue _ b i _ x _ _ (hb ▸ htotal) (hbelow _) h1 fun h0 => ?_
    rw [List.filterMap_eq_nil_iff]
    intro j hj
    obtain ⟨n, hn, rfl⟩ := List.mem_map.1 hj
    have hn := List.mem_range.1 hn
    refine if_neg fun hc => ?_
    have := h2 h0 _ hc
    rw [BitVec.toNat_ofNat] at this
    have := Nat.mod_le n (2 ^ 4)
    omega
  · rw [lotGrant_gen, htotal]

/-! ## Status records (R262, R364) -/

theorem State.pushStatus_entered (s : State) (r : Status) :
    Entered s.hub (s.pushStatus r).hub r ∧ s.pushStatus r = { s with hub := (s.pushStatus r).hub } := by
  unfold State.pushStatus Status.vector Entered
  by_cases h : r.code ≠ 0
  · rw [if_pos h, if_pos h]; exact ⟨rfl, rfl⟩
  · rw [if_neg h, if_neg h]
    by_cases h6 : r.op = 6
    · rw [if_pos h6, if_pos h6]; exact ⟨rfl, rfl⟩
    · rw [if_neg h6, if_neg h6]; exact ⟨rfl, rfl⟩

/-- The sequencer writes its status record, and the hub alone changes. -/
theorem State.status_recorded (s : State) (code : BitVec 8) (tag : W16) (i : BitVec 4) (op : BitVec 8) (value : W64) :
    Recorded s.hub (s.status code tag i op value).hub { code := code, tag := tag, inst := i, op := op, value := value } ∧
      s.status code tag i op value = { s with hub := (s.status code tag i op value).hub } := by
  unfold State.status Recorded
  by_cases h : s.hub.statWait = [] ∧ s.hub.statq.length < 256
  · have hc : ¬ (256 ≤ s.hub.statq.length || !s.hub.statWait.isEmpty) = true := by simp [h.1, h.2]
    simp only [if_neg hc, if_pos h]
    exact s.pushStatus_entered _
  · have hc : (256 ≤ s.hub.statq.length || !s.hub.statWait.isEmpty) = true := by
      by_contra hn
      simp only [Bool.or_eq_true, not_or, decide_eq_true_eq, Nat.not_le, Bool.not_eq_true', Bool.not_eq_false,
        List.isEmpty_iff] at hn
      exact h ⟨hn.2, hn.1⟩
    simp only [if_pos hc, if_neg h]
    exact ⟨trivial, trivial⟩

theorem State.modInst_only (s : State) (i : BitVec 4) (f : Inst → Inst) : OnlyInst s (s.modInst i f) i (f (s.inst i)) :=
  fun _ => State.modInst_inst ..

theorem State.inst_congr {s t : State} (h : t.insts = s.insts) (j : BitVec 4) : t.inst j = s.inst j := by
  simp only [State.inst, h]

/-- The packet at the head of one of the queues has executed, with its status record (R262). -/
theorem State.packetStatus_spec (s : State) (i : BitVec 4) (p : Packet) (l : List Packet) (code : BitVec 8) (value : W64)
    (hp : (s.inst i).pkts = p :: l) :
    let t := s.packetStatus i p code value
    Recorded s.hub t.hub { code := code, tag := p.tag, inst := i, op := p.op, value := value } ∧
      OnlyInst s t i { s.inst i with pkts := l, granted := false, waiting := false } ∧ t = { s with insts := t.insts, hub := t.hub } := by
  intro t
  obtain ⟨hr, ho⟩ := (s.packetDone i).status_recorded code p.tag i p.op value
  have ht : t = { s.packetDone i with hub := t.hub } := ho
  refine ⟨hr, fun j => ?_, by rw [ht]; rfl⟩
  have hj := s.modInst_only i (fun x => { x with pkts := x.pkts.tail, granted := false, waiting := false }) j
  rw [hp] at hj
  exact (State.inst_congr (s := s.packetDone i) (congrArg State.insts ht :) j).trans hj

/-! ## LOTTERY_GRANT -/

/-- A unit that has made its grants of this cycle makes no other. -/
theorem execLotteryGrant_spent (s : State) (u : BitVec 8) (h : ¬ s.grantsNow u.toNat < if u.toNat = 128 then 2 else 1) :
    exec (.lotteryGrant u) s = .next s := if_pos (Nat.not_lt.1 h)

theorem execLotteryGrant_sequencer (s : State) (h : s.grantsNow 128 < 2) :
    exec (.lotteryGrant 128) s = .next (s.noteGrant 128).grantSequencer := if_neg (Nat.not_le.2 h)

theorem execLotteryGrant_port (s : State) (u : BitVec 8) (b : Nat) (h : s.grantsNow u.toNat < if u.toNat = 128 then 2 else 1)
    (hu : u.toNat < 64) (hb : bIndex s.hub.product u.toNat = some b) :
    exec (.lotteryGrant u) s = .next ((s.noteGrant u.toNat).grantPort u.toNat b) := by
  refine (if_neg (Nat.not_le.2 h)).trans ((if_neg (by omega)).trans ((if_neg (by omega)).trans ?_))
  simp only [hb]
  rfl

theorem execLotteryGrant_stream (s : State) (u : BitVec 8) (h : s.grantsNow u.toNat < if u.toNat = 128 then 2 else 1)
    (h1 : 64 ≤ u.toNat) (h2 : u.toNat < 128) (hk : kindOf s.hub.product (u.toNat - 64) = .g) :
    exec (.lotteryGrant u) s = .next ((s.noteGrant u.toNat).grantStream u.toNat (u.toNat - 64)) := by
  refine (if_neg (Nat.not_le.2 h)).trans ((if_neg (by omega)).trans ((if_pos h1).trans (congrArg _ (if_pos hk))))

/-- The packet of the winner is granted, or ends at once when a field of it is bad (R260, R262). -/
theorem State.grantSequencer_eq (s : State) (i : BitVec 4) (p : Packet) (l : List Packet) (x : W32) (ha : s.hub.active = true)
    (hw : s.hub.statWait = []) (hb : s.seqBusy = false) (hg : lotGrant s.seqQueues (s.hub.lotGen 128) = (some i, x))
    (hp : (s.inst i).pkts = p :: l) :
    s.grantSequencer = if p.bad then (s.setLot 128 x).packetStatus i p 0x01 0
      else (s.setLot 128 x).modInst i fun y => { y with granted := true } := by
  have hi : ((s.setLot 128 x).inst i).pkts = p :: l := by obtain ⟨g, hg⟩ := s.setLot_lottery 128 x; rw [hg]; exact hp
  unfold State.grantSequencer
  rw [if_neg (by simp [ha, hw, hb]), hg]
  simp only [hi]

/-- The only contending context is the one in focus. -/
theorem State.filterMap_ctxs_alone {β : Type} (s : State) (f : Ctx → Option β) (x : β) (hl : s.me.life = .running)
    (hx : f s.me = some x) (h : ∀ c ∈ s.rest, f c = none) : s.ctxs.filterMap f = [x] := by
  unfold State.ctxs
  rw [if_neg (by simp [hl]), List.filterMap_cons_some hx, List.filterMap_eq_nil_iff.2 h]

/-- A port grants the only context whose access waits for it, and the access performs (R284, R293). -/
theorem State.grantPort_alone (s : State) (u b : Nat) (ld : Bool) (hl : s.me.life = .running)
    (h : ∀ c ∈ s.rest, c.life ≠ .running) (hp : portHead s.me b = some ld) :
    let n := ((s.inst (instOf s.me.id)).mtk.toArray.getD s.me.lcore 0).toNat
    let t := s.setLot u (if n ≠ 0 then xorshift32 (s.hub.lotGen u) else s.hub.lotGen u)
    s.grantPort u b = (if ld then performLoad t else performStore t).getD t := by
  intro n t
  obtain ⟨g, ht⟩ : ∃ g, t = { s with hub := { s.hub with lottery := g } } := s.setLot_lottery u _
  have hf : t.focus s.me.id = some t := by rw [ht]; exact if_pos ⟨rfl, by simp [hl]⟩
  have hq := s.filterMap_ctxs_alone (fun c => if c.life = .running && (portHead c b).isSome then
    some (c.id, ((s.inst (instOf c.id)).mtk.toArray.getD c.lcore 0).toNat) else none) (s.me.id, n) hl
    (if_pos (by simp [hl, hp])) fun c hc => if_neg (by simp [h c hc])
  have hh : portHead t.me b = some ld := by rw [ht]; exact hp
  unfold State.grantPort
  simp only [hq]
  rw [show ascending [(s.me.id, n)] = [(s.me.id, n)] from rfl, lotGrant_single]
  show (match t.focus s.me.id with | none => t | some t => _) = _
  rw [hf]
  simp only [hh]
  cases ld <;> rfl

/-- A stream port grants the only context with a port word to move, whose port moves it (R284). -/
theorem State.grantStream_alone (s : State) (u sk : Nat) (e : BitVec 6) (hl : s.me.life = .running)
    (h : ∀ c ∈ s.rest, c.life ≠ .running) (hp : portWaits s.me = true) (he : s.me.engine = .f) (hs : s.socketOf s.me.id = sk)
    (hc : ∀ g, canIssue { s with hub := { s.hub with lottery := g } } .f = true)
    (hi : elems.find? (fun k => !s.me.portIdle k false) = some e) :
    let n := ((s.inst (instOf s.me.id)).ptk.toArray.getD (s.me.lcore - 192) 0).toNat
    let t := s.setLot u (if n ≠ 0 then xorshift32 (s.hub.lotGen u) else s.hub.lotGen u)
    s.grantStream u sk = { t with me := s.me.portAct e false } := by
  intro n t
  obtain ⟨g, ht⟩ : ∃ g, t = { s with hub := { s.hub with lottery := g } } := s.setLot_lottery u _
  have hf : t.focus s.me.id = some t := by rw [ht]; exact if_pos ⟨rfl, by simp [hl]⟩
  have hw : ∀ c ∈ s.rest, portWaits c = false := fun c hc => by simp [portWaits, h c hc]
  have hq := s.filterMap_ctxs_alone (fun c => if c.engine = .f && s.socketOf c.id == sk && portWaits c then
    some (c.id, ((s.inst (instOf c.id)).ptk.toArray.getD (c.lcore - 192) 0).toNat) else none) (s.me.id, n) hl
    (if_pos (by simp [he, hs, hp])) fun c hc => if_neg (by simp [hw c hc])
  have hci : canIssue t .f = true := by rw [ht]; exact hc _
  have hm : t.me = s.me := by rw [ht]
  unfold State.grantStream
  simp only [hq]
  rw [show ascending [(s.me.id, n)] = [(s.me.id, n)] from rfl, lotGrant_single]
  show (match t.focus s.me.id with | none => t | some t => _) = _
  rw [hf]
  simp [hci, hm, hi]

/-- A context with a port word to move runs. -/
theorem portWaits_running {c : Ctx} (h : portWaits c = true) : c.life = .running := by
  by_contra hn
  simp [portWaits, hn] at h

/-- Settles O41: the sequencer's winner by the split of its queues, the ports' by the only queue there is. -/
theorem lotteryGrants : Obligations.LotteryGrants := by
  intro s grants draws first has tk below r alone
  refine ⟨fun u hu => ⟨s, execLotteryGrant_spent s u hu, rfl⟩, ?_, ?_, ?_⟩
  · intro i p l hfirst hact hwait hbusy hhas hpk hwin hlow
    have hg : lotGrant (s.noteGrant 128).seqQueues ((s.noteGrant 128).hub.lotGen 128) = _ :=
      s.sequencer_winner i (s.hub.lotGen 128) hhas hwin hlow
    have he := (s.noteGrant 128).grantSequencer_eq i p l _ hact hwait hbusy hg hpk
    have hd := draws_of s 128 (s.ticketsBelow 16 ≠ 0) _ rfl
    generalize hu : (s.noteGrant 128).setLot 128 _ = v at he hd
    have hv : v = { s with hub := v.hub } := hu ▸ s.noteGrant_setLot 128 _
    have hvi : ∀ j, v.inst j = s.inst j := fun j => by rw [hv]; rfl
    refine ⟨fun hbad => ⟨_, execLotteryGrant_sequencer s hfirst, ?_⟩, fun hbad => ⟨_, execLotteryGrant_sequencer s hfirst, ?_⟩⟩
    · rw [he, if_neg (by simp [hbad])]
      refine ⟨hd, fun j => ?_, ?_⟩
      · rw [v.modInst_only i _ j, hvi, hvi]
      · rw [hv]; rfl
    · rw [he, if_pos hbad]
      obtain ⟨hr, hi, ht⟩ := v.packetStatus_spec i p l 0x01 0 (by rw [hvi, hpk])
      exact ⟨v.hub, hd, hr, fun j => by rw [hi j, hvi, hvi], by rw [ht, hv]⟩
  · intro u b hfirst hu hb hrun halone n ld hld
    refine ⟨_, execLotteryGrant_port s u b hfirst hu hb, _, draws_of s u.toNat (n ≠ 0) _ rfl, ?_⟩
    exact ((s.noteGrant u.toNat).grantPort_alone u.toNat b ld hrun halone hld).trans
      (congrArg (fun t => (if ld then performLoad t else performStore t).getD t) (s.noteGrant_setLot u.toNat _))
  · intro u e hfirst h1 h2 hk halone hw he hs hc hi n
    refine ⟨_, execLotteryGrant_stream s u hfirst h1 h2 hk, _, draws_of s u.toNat (n ≠ 0) _ rfl, ?_⟩
    exact ((s.noteGrant u.toNat).grantStream_alone u.toNat (u.toNat - 64) e (portWaits_running hw) halone hw he hs
      (fun _ => hc) hi).trans (congrArg (fun t => { t with me := s.me.portAct e false }) (s.noteGrant_setLot u.toNat _))

end Sys2Proof.Machine
end

section
namespace Sys2Proof.Machine

/-! ## What an access to memory does beside (R294, R299, R305, R384)

An access moves lines of the SRAM, counts its granules, lets a migration engine count its frame, and meets errors. None of this
touches a byte that a program can see. -/

/-- What homes go by of a B-die's registers is kept: whether the migration engine runs, where its counters lie, whether the stack is
in service. -/
def CtlKept (a b : BDie) : Prop := b.migctl = a.migctl ∧ b.migcnt = a.migcnt ∧ b.en = a.en

/-- So it is of every B-die. -/
def DiesKept (s t : State) : Prop := ∀ n, CtlKept (s.bdie n) (t.bdie n)

theorem CtlKept.refl (a : BDie) : CtlKept a a := ⟨rfl, rfl, rfl⟩

theorem CtlKept.trans {a b c : BDie} (h : CtlKept a b) (k : CtlKept b c) : CtlKept a c :=
  ⟨k.1.trans h.1, k.2.1.trans h.2.1, k.2.2.trans h.2.2⟩

theorem DiesKept.refl (s : State) : DiesKept s s := fun _ => .refl _

theorem DiesKept.trans {s t u : State} (h : DiesKept s t) (k : DiesKept t u) : DiesKept s u := fun n => (h n).trans (k n)

/-- Equal registers. -/
theorem DiesKept.of_bdies {s t : State} (h : t.bdies = s.bdies) : DiesKept s t := fun n => by
  unfold State.bdie; rw [h]; exact .refl _

theorem State.modBdie_kept (s : State) (b : Nat) (f : BDie → BDie) (h : ∀ d, CtlKept d (f d)) : DiesKept s (s.modBdie b f) := by
  intro n
  unfold State.modBdie State.bdie
  by_cases hn : n < 12
  · by_cases hb : b = n
    · subst hb; simpa [Array.getD, hn] using h _
    · simpa [Array.getD, hn, Array.getElem_setIfInBounds, hb] using CtlKept.refl _
  · simpa [Array.getD, hn] using CtlKept.refl _

/-- The migration engines count where they did. -/
theorem DiesKept.isCounter {s t : State} (h : DiesKept s t) (l : Loc) : IsCounter t l ↔ IsCounter s l := by
  have hc : ∀ b f, (t.bdie b).counterPa f = (s.bdie b).counterPa f := fun b f => by unfold BDie.counterPa; rw [(h b).2.1]
  unfold IsCounter
  simp only [hc, fun b => (h b).1]

/-- Where an address is a counter does not depend on the virtual address that names it. -/
theorem isCounter_glob {s : State} {a va vb : Nat} (h : IsCounter s (.glob a va)) : IsCounter s (.glob a vb) := by
  obtain ⟨b, f, v, hr, hl⟩ := h
  cases hl
  exact ⟨b, f, vb, hr, rfl⟩

/-- From s to t lines have moved and accesses were counted: no byte of global memory but the counters has changed. -/
structure LinesMoved (s t : State) : Prop where
  only : t = { s with mem := t.mem, sram := t.sram, bdies := t.bdies }
  dies : DiesKept s t
  mem : s.mem.wf = true → t.mem.wf = true ∧ SameGlobal s t

theorem LinesMoved.of_mem {s t : State} (ho : t = { s with sram := t.sram, bdies := t.bdies }) (hd : DiesKept s t) :
    LinesMoved s t := by
  have hm : t.mem = s.mem := by rw [ho]
  exact ⟨by rw [hm]; exact ho, hd, fun h => ⟨hm ▸ h, fun a _ => by rw [hm]⟩⟩

theorem LinesMoved.refl (s : State) : LinesMoved s s := .of_mem rfl (.refl s)

theorem LinesMoved.trans {s t u : State} (h : LinesMoved s t) (k : LinesMoved t u) : LinesMoved s u := by
  refine ⟨?_, h.dies.trans k.dies, fun hw => ?_⟩
  · conv => lhs; rw [k.only, h.only]
  · obtain ⟨w1, e1⟩ := h.mem hw
    obtain ⟨w2, e2⟩ := k.mem w1
    exact ⟨w2, fun a ha => (e2 a fun hc => ha ((h.dies.isCounter _).1 hc)).trans (e1 a ha)⟩

theorem LinesMoved.sram {s t : State} (h : LinesMoved s t) (l : List Line) : LinesMoved s { t with sram := l } :=
  h.trans (.of_mem rfl (.refl t))

theorem LinesMoved.foldl {α : Type} {f : State → α → State} (h : ∀ s a, LinesMoved s (f s a)) (l : List α) (s : State) :
    LinesMoved s (l.foldl f s) := by
  induction l generalizing s with
  | nil => exact .refl s
  | cons a l ih => exact (h s a).trans (ih _)

theorem State.countGranule_moved (s : State) (pa : Nat) : LinesMoved s (s.countGranule pa) := by
  unfold State.countGranule
  split
  · exact .of_mem rfl (s.modBdie_kept _ _ fun _ => ⟨rfl, rfl, rfl⟩)
  · exact .refl s

theorem State.writeBack_moved (s : State) (l : Line) : LinesMoved s (s.writeBack l) := by
  unfold State.writeBack
  split
  · exact s.countGranule_moved _
  · exact .refl s

theorem State.evict_moved (s : State) (b : Nat) (retain : Bool) : LinesMoved s (s.evict b retain) := by
  simp only [State.evict]
  split
  · exact .refl s
  · split
    · exact .refl s
    · exact (s.writeBack_moved _).sram _

theorem State.sramLine_moved (s : State) (line : Nat) (w : Option Agent) (whole : Bool) (cache : BitVec 2) :
    LinesMoved s (s.sramLine line w whole cache) := by
  simp only [State.sramLine]
  split
  · exact (LinesMoved.refl s).sram _
  · split
    · split
      · exact s.countGranule_moved _
      · refine LinesMoved.sram (LinesMoved.trans ?_ (State.evict_moved _ _ _)) _
        split
        · exact .refl s
        · exact s.countGranule_moved _
    · split
      · exact s.countGranule_moved _
      · exact ((s.countGranule_moved _).trans (State.evict_moved _ _ _)).sram _

/-- The migration engine writes its counter and nothing else (R305). -/
theorem State.countFrame_moved (s : State) (line : Nat) : LinesMoved s (s.countFrame line) := by
  simp only [State.countFrame]
  split
  · exact .refl s
  next hr =>
    split
    · exact .refl s
    · refine ⟨rfl, .of_bdies rfl, fun hw => ⟨Mem.wf_set hw _ _, fun a ha => ?_⟩⟩
      refine (Mem.get_set hw _ _ _).trans (if_neg fun he => ha ?_)
      exact ⟨dieOf (line * 128), line / 512, 0, by simpa using hr, by rw [he]⟩

theorem State.sramRead_moved (s : State) (pa n : Nat) (cache : BitVec 2) : LinesMoved s (s.sramRead pa n cache) :=
  .foldl (fun s l => (s.sramLine_moved l none false cache).trans (State.countFrame_moved _ l)) _ s

theorem State.sramWrite_moved (s : State) (pa n : Nat) (cache : BitVec 2) (w : Agent) : LinesMoved s (s.sramWrite pa n cache w) :=
  .foldl (fun s l => (s.sramLine_moved l (some w) _ cache).trans (State.countFrame_moved _ l)) _ s

/-- A save area is read through the SRAM as other memory is. -/
theorem State.sramBulk_moved (s : State) (pa n : Nat) (w : Option Agent) : LinesMoved s (s.sramBulk pa n w) := by
  unfold State.sramBulk
  split
  · exact .foldl (fun s l => (s.sramLine_moved l w true 1).trans (State.countFrame_moved _ l)) _ s
  · split
    · exact .refl s
    · exact (LinesMoved.refl s).sram _

/-- The write-backs of a release leave every byte (R295). -/
theorem State.flushLines_moved (s : State) (p : Line → Bool) :
    LinesMoved s (s.flushLines p) ∧ (s.flushLines p).mem = s.mem := by
  have hm : ∀ (s : State) (l : Line), (s.writeBack l).mem = s.mem := fun s l => by
    unfold State.writeBack State.countGranule
    split
    · split <;> rfl
    · rfl
  refine ⟨LinesMoved.sram (.foldl (fun s l => s.writeBack_moved l) _ s) _, ?_⟩
  exact foldl_keep State.mem (fun s l => s.writeBack l) hm _ s

/-! ## Errors that are met (R299, R367, R383) -/

/-- Of the hub only counts and reports of memory errors have changed. -/
def HubNoted (a b : Hub) : Prop :=
  b = { a with life := b.life, elogq := b.elogq, elogLost := b.elogLost, msix := b.msix, msixHeld := b.msixHeld }

theorem HubNoted.refl (a : Hub) : HubNoted a a := rfl

theorem HubNoted.trans {a b c : Hub} (h : HubNoted a b) (k : HubNoted b c) : HubNoted a c := by
  unfold HubNoted at *
  conv => lhs; rw [k, h]

/-- Nothing but such counts and reports has changed. -/
structure Noted (s t : State) : Prop where
  only : t = { s with hub := t.hub }
  hub : HubNoted s.hub t.hub

theorem Noted.refl (s : State) : Noted s s := ⟨rfl, .refl _⟩

theorem Noted.trans {s t u : State} (h : Noted s t) (k : Noted t u) : Noted s u :=
  ⟨by conv => { lhs; rw [k.only, h.only] }, h.hub.trans k.hub⟩

theorem Noted.foldl {α : Type} {f : State → α → State} (h : ∀ s a, Noted s (f s a)) (l : List α) (s : State) :
    Noted s (l.foldl f s) := by
  induction l generalizing s with
  | nil => exact .refl s
  | cons a l ih => exact (h s a).trans (ih _)

theorem State.lifeInc_noted (s : State) (k : Nat) : Noted s (s.lifeInc k) := ⟨rfl, rfl⟩

theorem State.elog_noted (s : State) (event socket cause : Nat) (ctx : Option (BitVec 12)) (w1 w3 : W64) :
    Noted s (s.elog event socket cause ctx w1 w3) := by
  unfold State.elog
  split
  · exact .refl s
  · split
    · exact ⟨rfl, rfl⟩
    · exact ⟨rfl, rfl⟩

/-- From s to t accesses to global memory have been served: lines have moved, errors were met; no byte but the counters has
changed. -/
structure Serviced (s t : State) : Prop where
  only : t = { s with hub := t.hub, mem := t.mem, sram := t.sram, bdies := t.bdies, poison := t.poison, flips := t.flips }
  hub : HubNoted s.hub t.hub
  dies : DiesKept s t
  mem : s.mem.wf = true → t.mem.wf = true ∧ SameGlobal s t

theorem LinesMoved.serviced {s t : State} (h : LinesMoved s t) : Serviced s t := by
  refine ⟨?_, ?_, h.dies, h.mem⟩
  · conv => lhs; rw [h.only]
    rw [h.only]
  · rw [h.only]; rfl

theorem Noted.serviced {s t : State} (h : Noted s t) : Serviced s t := by
  obtain ⟨ho, hh⟩ := h
  rw [ho]
  exact ⟨rfl, hh, .of_bdies rfl, fun hw => ⟨hw, fun _ _ => rfl⟩⟩

theorem Serviced.refl (s : State) : Serviced s s := (LinesMoved.refl s).serviced

theorem Serviced.trans {s t u : State} (h : Serviced s t) (k : Serviced t u) : Serviced s u := by
  refine ⟨?_, h.hub.trans k.hub, h.dies.trans k.dies, fun hw => ?_⟩
  · conv => lhs; rw [k.only, h.only]
  · obtain ⟨w1, e1⟩ := h.mem hw
    obtain ⟨w2, e2⟩ := k.mem w1
    exact ⟨w2, fun a ha => (e2 a fun hc => ha ((h.dies.isCounter _).1 hc)).trans (e1 a ha)⟩

theorem Serviced.foldl {α : Type} {f : State → α → State} (h : ∀ s a, Serviced s (f s a)) (l : List α) (s : State) :
    Serviced s (l.foldl f s) := by
  induction l generalizing s with
  | nil => exact .refl s
  | cons a l ih => exact (h s a).trans (ih _)

/-- Errors of atoms are marked or forgotten. -/
theorem Serviced.atoms (s : State) (p : List Nat) (f : List (Nat × Bool)) : Serviced s { s with poison := p, flips := f } :=
  ⟨rfl, rfl, .of_bdies rfl, fun hw => ⟨hw, fun _ _ => rfl⟩⟩

theorem Serviced.of_modBdie (s : State) (b : Nat) (f : BDie → BDie) (h : ∀ d, CtlKept d (f d)) : Serviced s (s.modBdie b f) :=
  ⟨rfl, rfl, s.modBdie_kept b f h, fun hw => ⟨hw, fun _ _ => rfl⟩⟩

theorem State.noteCor_serviced (s : State) (pa : Nat) : Serviced s (s.noteCor pa) := by
  simp only [State.noteCor]
  refine Serviced.trans (Serviced.of_modBdie s (dieOf pa) _ fun d => ?_)
    (Noted.serviced ((State.lifeInc_noted _ _).trans (State.elog_noted ..)))
  split <;> exact ⟨rfl, rfl, rfl⟩

theorem State.noteUnc_serviced (s : State) (pa : Nat) : Serviced s (s.noteUnc pa) :=
  ((Serviced.of_modBdie s _ _ fun d => by split <;> exact ⟨rfl, rfl, rfl⟩).trans (.atoms _ _ _)).trans
    (State.lifeInc_noted _ _).serviced

theorem State.meet_serviced (s : State) (pa n : Nat) : Serviced s (s.meet pa n) := by
  refine (Serviced.atoms s s.poison _).trans (.foldl (fun s f => ?_) _ _)
  split
  · exact s.noteUnc_serviced _
  · exact s.noteCor_serviced _

/-- Where no error waits, none is met. -/
theorem State.meet_quiet (s : State) (pa n : Nat) (h : s.flips = []) : s.meet pa n = s := by
  have e : ({ s with flips := [] } : State) = s := by rw [← h]
  simp only [State.meet, h, List.filter_nil, List.foldl_nil]
  exact e

theorem State.healAtoms_serviced (s : State) (p : Nat → Bool) : Serviced s (s.healAtoms p) := .atoms s _ _

/-- A read through the SRAM that meets the errors of its bytes; where none waits the hub is as it was. -/
theorem LinesMoved.meet {s t : State} (h : LinesMoved s t) (pa n : Nat) :
    Serviced s (t.meet pa n) ∧ (s.flips = [] → (t.meet pa n).hub = s.hub) := by
  refine ⟨h.serviced.trans (t.meet_serviced pa n), fun hf => ?_⟩
  have ht : t.flips = [] := by rw [h.only]; exact hf
  rw [t.meet_quiet pa n ht, h.only]

/-- The contexts, the clock and the instances are as they were. -/
theorem Serviced.me {s t : State} (h : Serviced s t) : t.me = s.me := by rw [h.only]
theorem Serviced.rest {s t : State} (h : Serviced s t) : t.rest = s.rest := by rw [h.only]

theorem Serviced.ctx? {s t : State} (h : Serviced s t) (id : BitVec 12) : t.ctx? id = s.ctx? id := by
  unfold State.ctx? State.ctxs; rw [h.me, h.rest]

/-- A home answers as it did while the stacks in service, the moves and the links are what they were. -/
theorem homeState_kept {s t : State} (h : DiesKept s t) (hh : t.hub = s.hub) (hc : t.cur = s.cur) (hm : t.moves = s.moves)
    (sk pa : Nat) : homeState t sk pa = homeState s sk pa := by
  have ha : t.holdsAt pa = s.holdsAt pa := by
    unfold State.holdsAt
    rw [(h _).2.2, hm]
  unfold homeState State.unanswered
  rw [ha, hh, hc]

end Sys2Proof.Machine
end

section
namespace Sys2Proof.Machine

/-! ## Contexts found and changed -/

theorem State.ctx?_mem {s : State} {id : BitVec 12} {c : Ctx} (h : s.ctx? id = some c) : c ∈ s.ctxs ∧ c.id = id :=
  ⟨List.mem_of_find?_eq_some h, by simpa using List.find?_some h⟩

/-- A change of one context changes contexts alone: the one in focus and the others each by it or not at all. -/
theorem State.modCtx_parts (s : State) (id : BitVec 12) (f : Ctx → Ctx) :
    s.modCtx id f = { s with me := (s.modCtx id f).me, rest := (s.modCtx id f).rest } ∧
      ((s.modCtx id f).me = s.me ∨ (s.modCtx id f).me = f s.me) ∧
      ∃ g, (s.modCtx id f).rest = s.rest.map g ∧ ∀ c, g c = c ∨ g c = f c := by
  unfold State.modCtx
  split
  · exact ⟨rfl, .inr rfl, fun c => c, by simp, fun _ => .inl rfl⟩
  · refine ⟨rfl, .inl rfl, fun c => if c.id = id then f c else c, rfl, fun c => ?_⟩
    by_cases h : c.id = id
    · exact .inr (if_pos h)
    · exact .inl (if_neg h)

theorem State.modCtx_self (s : State) (id : BitVec 12) : s.modCtx id (fun c => c) = s := by
  unfold State.modCtx
  split
  · rfl
  · simp

/-! ## Words of a core's memories (R291) -/

/-- A context is as it was, but for what is known of errors in the words of its memories. -/
def Worn (a b : Ctx) : Prop :=
  b = { a with flipSpad := b.flipSpad, flipPriv := b.flipPriv, badSpad := b.badSpad, badPriv := b.badPriv }

theorem Worn.refl (a : Ctx) : Worn a a := rfl

/-- The words of one memory of a context that no read can give. -/
def Ctx.badIn (c : Ctx) (priv : Bool) : List Nat := if priv then c.privBad else c.spadBad

/-- The errors among the words of an access of n bytes at an offset. -/
def Ctx.metWords (c : Ctx) (priv : Bool) (off n : Nat) : List (Nat × Bool) :=
  (if priv then c.flipPriv else c.flipSpad).filter fun f => off / 8 ≤ f.1 && f.1 ≤ (off + n - 1) / 8

/-- What meeting those errors does to a context; `bad` are the words whose errors cannot be corrected. -/
def Ctx.wordsMet (priv : Bool) (off n : Nat) (bad : List Nat) (c : Ctx) : Ctx :=
  let left := fun (l : List (Nat × Bool)) => l.filter fun f => !(off / 8 ≤ f.1 && f.1 ≤ (off + n - 1) / 8)
  if priv then { c with flipPriv := left c.flipPriv, badPriv := bad ++ c.badPriv }
  else { c with flipSpad := left c.flipSpad, badSpad := bad ++ c.badSpad }

theorem Ctx.wordsMet_worn (priv : Bool) (off n : Nat) (bad : List Nat) (c : Ctx) : Worn c (c.wordsMet priv off n bad) := by
  cases priv <;> rfl

theorem Ctx.wordsMet_corrected (priv : Bool) (off n : Nat) (c : Ctx) : Corrected c (c.wordsMet priv off n []) := by
  cases priv <;> rfl

/-- Where no word of an access fails, no error among its words is one that cannot be corrected. -/
theorem Ctx.metWords_good {c : Ctx} {priv : Bool} {off n : Nat} (h : badWord (c.badIn priv) off n = false) :
    ((c.metWords priv off n).filter (·.2)).map (·.1) = [] := by
  rw [List.map_eq_nil_iff, List.filter_eq_nil_iff]
  intro f hf hb
  obtain ⟨hm, hr⟩ := List.mem_filter.1 hf
  have hw : f.1 ∈ c.badIn priv := by
    cases priv
    · exact List.mem_append_right _ (List.mem_map.2 ⟨f, List.mem_filter.2 ⟨hm, hb⟩, rfl⟩)
    · exact List.mem_append_right _ (List.mem_map.2 ⟨f, List.mem_filter.2 ⟨hm, hb⟩, rfl⟩)
  exact Bool.false_ne_true (h ▸ List.any_eq_true.2 ⟨f.1, hw, hr⟩)

theorem State.meetWords_none {s : State} {id : BitVec 12} (h : s.ctx? id = none) (priv : Bool) (off n : Nat) :
    s.meetWords id priv off n = s := by
  unfold State.meetWords; rw [h]

/-- Meeting the errors of a context's words: none, or the context is changed and those of a single bit are noted. -/
theorem State.meetWords_some {s : State} {id : BitVec 12} {c : Ctx} (h : s.ctx? id = some c) (priv : Bool) (off n : Nat) :
    s.meetWords id priv off n = if (c.metWords priv off n).isEmpty then s else
      ((c.metWords priv off n).filter fun f => !f.2).foldl (fun s f =>
        (s.lifeInc (64 + s.socketOf id)).elog 0x01 (s.socketOf id) 0 (some id)
          (if priv then c.privPtr (8 * f.1) else c.spadPtr (8 * f.1)) 2)
        (s.modCtx id (Ctx.wordsMet priv off n (((c.metWords priv off n).filter (·.2)).map (·.1)))) := by
  unfold State.meetWords; rw [h]; rfl

/-- The errors that an access to a core's memories meets are marked in the context that holds them, and noted; where none of its
words fails they are corrected. -/
theorem State.meetWords_spec (s : State) (id : BitVec 12) (priv : Bool) (off n : Nat) :
    ∃ f : Ctx → Ctx, (∀ c, Worn c (f c)) ∧ Noted (s.modCtx id f) (s.meetWords id priv off n) ∧
      ((∀ c, s.ctx? id = some c → badWord (c.badIn priv) off n = false) → ∀ c, Corrected c (f c)) := by
  have same : Noted (s.modCtx id fun c => c) s := by rw [State.modCtx_self]; exact .refl s
  cases hc : s.ctx? id with
  | none =>
    rw [State.meetWords_none hc]
    exact ⟨fun c => c, .refl, same, fun _ _ => rfl⟩
  | some c =>
    rw [State.meetWords_some hc]
    by_cases hm : (c.metWords priv off n).isEmpty = true
    · rw [if_pos hm]
      exact ⟨fun c => c, .refl, same, fun _ _ => rfl⟩
    · rw [if_neg hm]
      refine ⟨_, Ctx.wordsMet_worn priv off n _, .foldl (fun s f => (State.lifeInc_noted _ _).trans (State.elog_noted ..)) _ _,
        fun h => ?_⟩
      rw [Ctx.metWords_good (h c rfl)]
      exact Ctx.wordsMet_corrected priv off n

/-- Where no error waits, none is met. -/
theorem State.meetWords_quiet (s : State) (id : BitVec 12) (priv : Bool) (off n : Nat)
    (h : ∀ c, s.ctx? id = some c → c.flipSpad = [] ∧ c.flipPriv = []) : s.meetWords id priv off n = s := by
  cases hc : s.ctx? id with
  | none => exact State.meetWords_none hc ..
  | some c =>
    obtain ⟨h1, h2⟩ := h c hc
    rw [State.meetWords_some hc, if_pos]
    cases priv <;> simp [Ctx.metWords, h1, h2]

/-! ## Reads -/

/-- Bytes are kept where the memories of the contexts are, and global memory but for the counters. -/
theorem nothingWritten_of {s t : State} (hg : SameGlobal s t) (hid : t.me.id = s.me.id) (hl : t.me.life = s.me.life)
    (hs : t.me.spad = s.me.spad) (hp : t.me.priv = s.me.priv)
    (hr : t.rest.map (fun c => (c.id, c.spad)) = s.rest.map fun c => (c.id, c.spad)) : NothingWritten s t := by
  intro x hx
  have hc := byteAt_of_ctx (s := s) (t := { t with mem := s.mem }) rfl hid (ctx?_spad_map hid hl hs hr) hs hp
  cases x with
  | glob pa va => exact hg (pa + 0) fun h => hx (isCounter_glob h)
  | priv off => exact hc (.priv off) 0
  | spad core off => exact hc (.spad core off) 0

/-- From s to t bytes have been read: lines have moved and errors of single bits were corrected, in the context in focus and others;
the stream may have acquired what a release carries. -/
structure Reading (s t : State) : Prop where
  only : t = { s with me := t.me, rest := t.rest, hub := t.hub, mem := t.mem, sram := t.sram, bdies := t.bdies,
                      poison := t.poison, flips := t.flips }
  me : t.me = { s.me with flipSpad := t.me.flipSpad, flipPriv := t.me.flipPriv, hb := t.me.hb }
  rest : AllCorrected s.rest t.rest
  noted : ErrorsNoted s t
  bytes : s.mem.wf = true → NothingWritten s t

theorem Corrected.refl (c : Ctx) : Corrected c c := rfl

theorem AllCorrected.refl (l : List Ctx) : AllCorrected l l := ⟨fun c => c, by simp, .refl⟩

theorem AllCorrected.spads {l m : List Ctx} (h : AllCorrected l m) :
    m.map (fun c => (c.id, c.spad)) = l.map fun c => (c.id, c.spad) := by
  obtain ⟨f, rfl, hf⟩ := h
  rw [List.map_map]
  refine List.map_congr_left fun c _ => ?_
  show ((f c).id, (f c).spad) = _
  rw [hf c]

/-- A read of global memory. -/
theorem Serviced.reading {s t : State} (h : Serviced s t) (hq : s.flips = [] → t.hub = s.hub) : Reading s t := by
  refine ⟨?_, ?_, ?_, ⟨h.hub, fun hf _ => hq hf⟩, fun hw => ?_⟩
  · conv => lhs; rw [h.only]
    rw [h.only]
  · rw [h.me]
  · rw [h.rest]; exact .refl _
  · exact nothingWritten_of (h.mem hw).2 (by rw [h.me]) (by rw [h.me]) (by rw [h.me]) (by rw [h.me]) (by rw [h.rest])

/-- A read of words of a core's memories none of which fails, through global memory or not. -/
theorem Serviced.reading_words {s u : State} (h : Serviced s u) (hq : s.flips = [] → u.hub = s.hub) (id : BitVec 12)
    (priv : Bool) (off n : Nat) (hb : ∀ c, s.ctx? id = some c → badWord (c.badIn priv) off n = false) :
    Reading s (u.meetWords id priv off n) := by
  obtain ⟨f, -, hn, hf⟩ := u.meetWords_spec id priv off n
  have hf := hf fun c hc => hb c (h.ctx? id ▸ hc)
  obtain ⟨hu, hm, g, hg, hgf⟩ := u.modCtx_parts id f
  have hquiet := u.meetWords_quiet id priv off n
  generalize u.meetWords id priv off n = t at hn hquiet ⊢
  have hme : Corrected s.me t.me := by
    rw [hn.only, ← h.me]
    rcases hm with e | e
    · show Corrected _ (u.modCtx id f).me; rw [e]; exact .refl _
    · show Corrected _ (u.modCtx id f).me; rw [e]; exact hf _
  have hrest : AllCorrected s.rest t.rest := by
    rw [hn.only, ← h.rest]
    refine ⟨g, hg, fun c => ?_⟩
    rcases hgf c with e | e
    · rw [e]; exact .refl c
    · rw [e]; exact hf c
  have hkeep : t = { u with me := t.me, rest := t.rest, hub := t.hub } := by
    conv => lhs; rw [hn.only, hu]
    rw [hn.only]
  have hmem : t.mem = u.mem := by rw [hkeep]
  refine ⟨?_, ?_, hrest, ⟨h.hub.trans ?_, fun hfl hcs => ?_⟩, fun hw => ?_⟩
  · conv => lhs; rw [hkeep, h.only]
    rw [hkeep]
  · conv => lhs; rw [hme]
    rw [hme]
  · have := hn.hub
    rw [hu] at this
    exact this
  · rw [hquiet fun c hc => hcs c (State.ctx?_mem (h.ctx? id ▸ hc)).1]
    exact hq hfl
  · refine nothingWritten_of ?_ ?_ ?_ ?_ ?_ hrest.spads
    · intro a ha; rw [hmem]; exact (h.mem hw).2 a ha
    all_goals rw [hme]

theorem Mem.read_eq_map (m : Mem) (a n : Nat) : m.read a n = (List.range n).map fun k => m.get (a + k) := by
  refine List.ext_getElem (by simp) fun k h1 h2 => ?_
  have hk : k < n := by simpa using h2
  have h := m.read_get a n k hk
  rw [List.getElem?_eq_getElem h1, Option.some.injEq] at h
  simpa using h

/-- A context's own logical core gives back its CTXID (R11). -/
theorem ctxIdOf_lcoreOf (i : BitVec 12) : ctxIdOf (instOf i) (lcoreOf i) = i := by
  apply BitVec.eq_of_toNat_eq
  simp only [ctxIdOf, instOf, lcoreOf, BitVec.toNat_ofNat, BitVec.extractLsb'_toNat]
  omega

/-- A byte of the scratchpad of the context in focus. -/
theorem byteAt_spad_me {s : State} {core : Nat} (h : core = s.me.lcore) (off : Nat) :
    byteAt s (.spad core off) = fun k => s.me.spad.get (off + k) := funext fun _ => if_pos h

/-- A byte of the scratchpad of another logical core. -/
theorem byteAt_spad_other {s : State} {core : Nat} {d : Ctx} (h : core ≠ s.me.lcore)
    (hd : s.ctx? (ctxIdOf (instOf s.me.id) core) = some d) (off : Nat) :
    byteAt s (.spad core off) = fun k => d.spad.get (off + k) := funext fun _ => (if_neg h).trans (by rw [hd]; rfl)

/-- The image of a saved context is read as other global memory is. -/
theorem State.readAway_serviced (s : State) (d : Ctx) (off n : Nat) :
    Serviced s (s.readAway d off n) ∧ (s.flips = [] → (s.readAway d off n).hub = s.hub) := by
  unfold State.readAway
  split
  · exact (s.sramBulk_moved _ _ _).meet _ _
  · exact ⟨.refl s, fun _ => rfl⟩

theorem readable_spad_me {s : State} {core : Nat} (h : core = s.me.lcore) (off n : Nat) :
    Readable s (.spad core off) n ↔ badWord s.me.spadBad off n = false := by simp [Readable, h]

theorem readable_spad_other {s : State} {core : Nat} (h : core ≠ s.me.lcore) (off n : Nat) :
    Readable s (.spad core off) n ↔ ∃ d, s.ctx? (ctxIdOf (instOf s.me.id) core) = some d ∧ d.life ≠ .stopped ∧
      s.reach s.me d off n false = .ok () ∧ badWord d.spadBad off n = false := by simp [Readable, h]

/-- Bytes that can be read are read (R291, R299, R348). -/
theorem State.locRead_readable (s : State) (l : Loc) (n : Nat) (cache : BitVec 2) (hl : s.me.life = .running)
    (h : Readable s l n) : ∃ t, s.locRead s.me l n cache = .ok ((List.range n).map (byteAt s l), t) ∧ Reading s t := by
  have hme := State.ctx?_me (s := s) (by simp [hl])
  cases l with
  | glob pa va =>
    obtain ⟨h1, h2⟩ := h
    obtain ⟨hs, hq⟩ := (s.sramRead_moved pa n cache).meet pa n
    refine ⟨_, ?_, hs.reading hq⟩
    simp only [State.locRead, State.globRead, h1, h2, Mem.read_eq_map]
    rfl
  | priv off =>
    have hb : badWord s.me.privBad off n = false := h
    refine ⟨_, ?_, (Serviced.refl s).reading_words (fun _ => rfl) s.me.id true off n fun c hc => ?_⟩
    · simp only [State.locRead, Ctx.privRead, hb, Mem.read_eq_map]
      rfl
    · rw [hme] at hc; cases hc; exact hb
  | spad core off =>
    by_cases hc : core = s.me.lcore
    · have hb := (readable_spad_me hc off n).1 h
      refine ⟨_, ?_, (Serviced.refl s).reading_words (fun _ => rfl) s.me.id false off n fun c hc => ?_⟩
      · simp only [State.locRead, if_pos hc, Ctx.spadRead, hb, Mem.read_eq_map, byteAt_spad_me hc]
        rfl
      · rw [hme] at hc; cases hc; exact hb
    · obtain ⟨d, hd, hst, hr, hb⟩ := (readable_spad_other hc off n).1 h
      obtain ⟨hs, hq⟩ := s.readAway_serviced d off n
      refine ⟨_, ?_, hs.reading_words hq d.id false off n fun c hc => ?_⟩
      · simp only [State.locRead, if_neg hc, State.view_eq hd hst, hr, Ctx.spadRead, hb, Mem.read_eq_map,
          byteAt_spad_other hc hd]
        rfl
      · rw [(State.ctx?_mem hd).2, hd] at hc; cases hc; exact hb

end Sys2Proof.Machine
end

section
namespace Sys2Proof.Machine

/-! ## The bytes of a number (R10) and the extension of a load (R101) -/

theorem leNat_lt (l : List Byte) : leNat l < 2 ^ (8 * l.length) := by
  induction l with
  | nil => simp [leNat]
  | cons b l ih =>
    have hb := b.isLt
    have hp : (2 : Nat) ^ (8 * (l.length + 1)) = 256 * 2 ^ (8 * l.length) := by rw [Nat.mul_succ, Nat.pow_add]; omega
    rw [leNat, List.length_cons, hp]
    omega

/-- Byte k of the little-endian bytes of a register. -/
theorem leBytes_getElem (n : Nat) (v k : Nat) (hk : k < n) :
    (leBytes n v)[k]'(by simpa using hk) = BitVec.ofNat 8 (v / 256 ^ k) := by
  induction n generalizing v k with
  | zero => omega
  | succ n ih =>
    cases k with
    | zero => simp [leBytes]
    | succ k =>
      simp only [leBytes, List.getElem_cons_succ]
      rw [ih (v / 256) k (by omega), Nat.div_div_eq_div_mul, Nat.pow_succ, Nat.mul_comm]

theorem leBytes_extract (v : W64) (n k : Nat) (hk : k < n) :
    (leBytes n v.toNat)[k]'(by simpa using hk) = v.extractLsb' (8 * k) 8 := by
  rw [leBytes_getElem n _ k hk]
  apply BitVec.eq_of_toNat_eq
  rw [BitVec.toNat_ofNat, BitVec.extractLsb'_toNat, Nat.shiftRight_eq_div_pow, Nat.pow_mul]

/-- The value a load writes is the number of its bytes, sign-extended from its size or not (R101). -/
theorem extendLoad_eq (sgn : Bool) (size v : Nat) (hs : size ∈ [1, 2, 4, 8]) (hv : v < 2 ^ (8 * size)) :
    extendLoad sgn size v = if sgn then (BitVec.ofNat (8 * size) v).signExtend 64 else BitVec.ofNat 64 v := by
  have h64 : 2 ^ (8 * size) ≤ 2 ^ 64 := by
    simp only [List.mem_cons, List.not_mem_nil, or_false] at hs
    exact Nat.pow_le_pow_right Nat.two_pos (by omega)
  have hmsb : (BitVec.ofNat (8 * size) v).msb = decide (2 ^ (8 * size - 1) ≤ v) := by
    rw [BitVec.msb_eq_decide, BitVec.toNat_ofNat, Nat.mod_eq_of_lt hv]
  have hneg : ((BitVec.ofNat (8 * size) v).signExtend 64).toNat =
      v + if 2 ^ (8 * size - 1) ≤ v then 2 ^ 64 - 2 ^ (8 * size) else 0 := by
    rw [BitVec.toNat_signExtend, hmsb, BitVec.toNat_setWidth, BitVec.toNat_ofNat, Nat.mod_eq_of_lt hv,
      Nat.mod_eq_of_lt (hv.trans_le h64)]
    simp only [decide_eq_true_eq]
  unfold extendLoad
  cases sgn with
  | false => rw [if_neg Bool.false_ne_true, if_neg (by simp)]
  | true =>
    rw [if_pos rfl]
    apply BitVec.eq_of_toNat_eq
    rw [hneg]
    generalize 2 ^ (8 * size) = p at hv h64 ⊢
    generalize 2 ^ (8 * size - 1) = q
    by_cases hn : q ≤ v
    · rw [if_pos (by simp [hn]), if_pos hn, BitVec.toNat_ofNat]; omega
    · rw [if_neg (by simp [hn]), if_neg hn, BitVec.toNat_ofNat]; omega

/-! ## A queued load performs (R103) -/

/-- The context once a load has its value: the register takes it, the queue is what is left, and a load at its queue head retires. -/
def Ctx.landLoad (c : Ctx) (cc : Nat) (l : LoadEnt) (ls : List LoadEnt) (v : W64) : Ctx :=
  let d := { c with sq := { c.sq with loads := ls } }.wg l.d v l.tnt
  if l.head then { d with s := d.s.next (d.s.pc + 4) cc } else d

def State.landLoad (s : State) (l : LoadEnt) (ls : List LoadEnt) (v : W64) : State := { s with me := s.me.landLoad s.cc l ls v }

theorem State.landLoad_eq (s : State) (l : LoadEnt) (ls : List LoadEnt) (v : W64) :
    (let t := { s with me := { s.me with sq := { s.me.sq with loads := ls } }.wg l.d v l.tnt }
     if l.head then t.retireS else t) = s.landLoad l ls v := by
  unfold State.landLoad Ctx.landLoad
  cases l.head <;> rfl

/-- What the end of a load leaves of the context. -/
theorem Ctx.landLoad_only (c : Ctx) (cc : Nat) (l : LoadEnt) (ls : List LoadEnt) (v : W64) :
    c.landLoad cc l ls v = { c with g := (c.wg l.d v l.tnt).g, taint := (c.wg l.d v l.tnt).taint, sq := { c.sq with loads := ls },
                                    s := if l.head then c.s.next (c.s.pc + 4) cc else c.s } := by
  unfold Ctx.landLoad Ctx.wg
  by_cases hd : l.d = 0
  · simp only [if_pos hd]; cases l.head <;> rfl
  · simp only [if_neg hd]; cases l.head <;> rfl

/-- What a load that performs does, as the statement has it: `v` is its value. -/
def LoadLands (s : State) (l : LoadEnt) (ls : List LoadEnt) (v : W64) (t : State) : Prop :=
  GWrite s t l.d v l.tnt ∧ t.me.sq.loads = ls ∧ t.me.sq.stores = s.me.sq.stores ∧ t.me.nflags = s.me.nflags ∧
  (if l.head then GoesOn s.me.s t.me.s (s.me.s.pc + 4) s.cc else t.me.s = s.me.s) ∧
  t.me = { s.me with g := t.me.g, taint := t.me.taint, s := t.me.s, sq := t.me.sq, flipSpad := t.me.flipSpad,
                     flipPriv := t.me.flipPriv, hb := t.me.hb } ∧
  AllCorrected s.rest t.rest ∧ ErrorsNoted s t ∧ NothingWritten s t

/-- A load ends as it should once its bytes have been read. -/
theorem Reading.landLoad {s t : State} (h : Reading s t) (hw : s.mem.wf = true) (l : LoadEnt) (ls : List LoadEnt) (v : W64) :
    LoadLands s l ls v (t.landLoad l ls v) := by
  have hc : t.cc = s.cc := by rw [h.only]
  have hme : (t.landLoad l ls v).me = _ := t.me.landLoad_only t.cc l ls v
  have hgt : (t.me.wg l.d v l.tnt).g = (s.me.wg l.d v l.tnt).g ∧ (t.me.wg l.d v l.tnt).taint = (s.me.wg l.d v l.tnt).taint := by
    rw [h.me]; unfold Ctx.wg; split <;> exact ⟨rfl, rfl⟩
  refine ⟨gWrite_wg ?_ ?_, ?_, ?_, ?_, ?_, ?_, h.rest, h.noted, fun x hx => ?_⟩
  · rw [hme]; exact hgt.1
  · rw [hme]; exact hgt.2
  · rw [hme]
  · rw [hme, h.me]
  · rw [hme, h.me]
  · have hs : t.me.s = s.me.s := by rw [h.me]
    by_cases hh : l.head = true
    · rw [if_pos hh, hme]
      show GoesOn _ (if l.head then _ else _) _ _
      rw [if_pos hh, hs, hc]; exact Strm.next_goesOn ..
    · rw [if_neg hh, hme]
      exact (if_neg hh).trans hs
  · rw [hme, h.me]
  · have hb : SameBytes t (t.landLoad l ls v) :=
      sameBytes_of rfl (by rw [hme]) (by rw [hme]) rfl (by rw [hme]) (by rw [hme])
    exact (hb x).trans (h.bytes hw x hx)

/-- Reading nothing. -/
theorem Reading.refl (s : State) : Reading s s := (Serviced.refl s).reading fun _ => rfl

/-- A stream acquires what the release of its bytes carries. -/
theorem Reading.acquire {s t : State} (h : Reading s t) (k : Known) : Reading s { t with me := t.me.acquire .s k } := by
  refine ⟨?_, ?_, h.rest, h.noted, fun hw x hx => ?_⟩
  · conv => lhs; rw [h.only]
  · show t.me.acquire .s k = _
    unfold Ctx.acquire
    conv => lhs; rw [h.me]
  · have hb : SameBytes t { t with me := t.me.acquire .s k } := sameBytes_of rfl rfl rfl rfl rfl rfl
    exact (hb x).trans (h.bytes hw x hx)

/-- Locations that lie inside each other overlap. -/
theorem locOverlap_of_inside {a b : Loc} {n m k : Nat} (h : locInside a n b m = some k) (hn : 0 < n) : locOverlap a n b m = true := by
  cases a <;> cases b <;> simp only [locInside, locOverlap, Option.ite_none_right_eq_some, Bool.and_eq_true,
    decide_eq_true_eq, reduceCtorEq] at h ⊢ <;> omega

/-- The stores that a load looks at for its bytes: the older ones that overlap it (R103). -/
def SQueues.sources (q : SQueues) (l : LoadEnt) : List StoreEnt :=
  q.stores.filter fun x => x.num < l.num && locOverlap l.loc l.size x.loc x.size

theorem SQueues.sources_nil {q : SQueues} {l : LoadEnt}
    (h : ∀ x ∈ q.stores, x.num < l.num → locOverlap l.loc l.size x.loc x.size = false) : (q.sources l).getLast? = none := by
  have : q.sources l = [] := List.filter_eq_nil_iff.2 fun x hx => by
    by_cases hn : x.num < l.num
    · simp [h x hx hn]
    · simp [hn]
  rw [this]; rfl

/-- The youngest older store that overlaps a load. -/
theorem SQueues.sources_last {q : SQueues} {l : LoadEnt} {older newer : List StoreEnt} {x : StoreEnt}
    (hq : q.stores = older ++ x :: newer) (hn : x.num < l.num) (ho : locOverlap l.loc l.size x.loc x.size = true)
    (h : ∀ y ∈ newer, y.num < l.num → locOverlap l.loc l.size y.loc y.size = false) : (q.sources l).getLast? = some x := by
  have hnew : (newer.filter fun x => x.num < l.num && locOverlap l.loc l.size x.loc x.size) = [] :=
    List.filter_eq_nil_iff.2 fun y hy => by
      by_cases hn : y.num < l.num
      · simp [h y hy hn]
      · simp [hn]
  have hx : (decide (x.num < l.num) && locOverlap l.loc l.size x.loc x.size) = true := by simp [hn, ho]
  unfold SQueues.sources
  rw [hq, List.filter_append, List.filter_cons_of_pos (by exact hx), hnew, List.getLast?_append]
  rfl

section
variable {s : State} {l : LoadEnt} {ls : List LoadEnt} (hq : s.me.sq.loads = l :: ls)
  (hbar : ∀ x ∈ s.me.sq.stores, l.barS ≤ x.num)
include hq hbar

/-- A load takes its value from the youngest older store that covers it (R103). -/
theorem performLoad_forwards {x : StoreEnt} {k : Nat} (hx : (s.me.sq.sources l).getLast? = some x)
    (hk : locInside l.loc l.size x.loc x.size = some k) :
    performLoad s = some (s.landLoad l ls (extendLoad l.sgn l.size (x.val.toNat / 2 ^ (8 * k) % 2 ^ (8 * l.size)))) := by
  have hg : ¬ (s.me.sq.stores.any fun x => x.num < l.barS) = true := by simpa using hbar
  unfold SQueues.sources at hx
  simp only [performLoad, hq, if_neg hg, hx, hk]
  exact congrArg some (s.landLoad_eq l ls _)

/-- A load that no older store overlaps takes its value from memory, and acquires what its bytes carry (R103, R314). -/
theorem performLoad_reads {bs : List Byte} {t : State} (hx : (s.me.sq.sources l).getLast? = none)
    (hr : s.locRead s.me l.loc l.size l.cache = .ok (bs, t)) :
    ∃ k, performLoad s = some (({ t with me := t.me.acquire .s k } : State).landLoad l ls (extendLoad l.sgn l.size (leNat bs))) := by
  have hg : ¬ (s.me.sq.stores.any fun x => x.num < l.barS) = true := by simpa using hbar
  unfold SQueues.sources at hx
  refine ⟨if l.acq || l.tnt then s.released s.me l.loc l.size else [], ?_⟩
  simp only [performLoad, hq, if_neg hg, hx, hr]
  generalize (if l.acq || l.tnt then s.released s.me l.loc l.size else []) = k
  exact congrArg some (State.landLoad_eq { t with me := t.me.acquire .s k } l ls (extendLoad l.sgn l.size (leNat bs)))

end

/-- LOAD_DATA_RETURN while the context runs. -/
theorem execLoadDataReturn_performs {s t : State} (hl : s.me.life = .running) (h : performLoad s = some t) :
    exec .loadDataReturn s = .next t := by
  show Host.Outcome.next (s.perform performLoad) = _
  unfold State.perform
  rw [if_pos (by simp [hl]), h]
  rfl

end Sys2Proof.Machine
end

section
namespace Sys2Proof.Machine

/-! ## Writes -/

/-- The contexts and their memories are those they were. -/
structure SameCtxMems (s t : State) : Prop where
  id : t.me.id = s.me.id
  life : t.me.life = s.me.life
  spad : t.me.spad = s.me.spad
  priv : t.me.priv = s.me.priv
  rest : t.rest.map (fun c => (c.id, c.spad)) = s.rest.map fun c => (c.id, c.spad)

theorem SameCtxMems.byteAt {s t : State} (h : SameCtxMems s t) (hm : t.mem = s.mem) (l : Loc) (k : Nat) :
    byteAt t l k = byteAt s l k :=
  byteAt_of_ctx hm h.id (ctx?_spad_map h.id h.life h.spad h.rest) h.spad h.priv l k

theorem SameCtxMems.of_me {s t : State} (h : t.me = { s.me with sq := t.me.sq }) (hr : t.rest = s.rest) : SameCtxMems s t :=
  ⟨by rw [h], by rw [h], by rw [h], by rw [h], by rw [hr]⟩

/-- A change of a context that leaves its memories. -/
theorem State.modCtx_sameMems (s : State) (id : BitVec 12) (f : Ctx → Ctx)
    (hf : ∀ c, (f c).id = c.id ∧ (f c).life = c.life ∧ (f c).spad = c.spad ∧ (f c).priv = c.priv) :
    SameCtxMems s (s.modCtx id f) := by
  obtain ⟨-, hm, g, hg, hgf⟩ := s.modCtx_parts id f
  obtain ⟨h1, h2, h3, h4⟩ := hf s.me
  have hr : (s.modCtx id f).rest.map (fun c => (c.id, c.spad)) = s.rest.map fun c => (c.id, c.spad) := by
    rw [hg, List.map_map]
    refine List.map_congr_left fun c _ => ?_
    show ((g c).id, (g c).spad) = _
    rcases hgf c with e | e
    · rw [e]
    · rw [e, (hf c).1, (hf c).2.2.1]
  rcases hm with e | e
  · exact ⟨by rw [e], by rw [e], by rw [e], by rw [e], hr⟩
  · exact ⟨by rw [e, h1], by rw [e, h2], by rw [e, h3], by rw [e, h4], hr⟩

/-- A byte of any scratchpad, through the context that has it. -/
theorem byteAt_spad {s : State} (hl : s.me.life = .running) (core off k : Nat) :
    byteAt s (.spad core off) k =
      ((s.ctx? (ctxIdOf (instOf s.me.id) core)).map fun d => d.spad.get (off + k)).getD 0 := by
  by_cases h : core = s.me.lcore
  · rw [byteAt_spad_me h, h, show ctxIdOf (instOf s.me.id) s.me.lcore = s.me.id from ctxIdOf_lcoreOf _,
      State.ctx?_me (by simp [hl])]
    rfl
  · exact if_neg h

theorem find?_map_set (l : List Ctx) (id j : BitVec 12) (e : Ctx) (he : e.id = id) :
    (l.map fun c => if c.id = id then e else c).find? (fun c => c.id == j) =
      if j = id then (l.find? fun c => c.id == id).map fun _ => e else l.find? fun c => c.id == j := by
  induction l with
  | nil => simp
  | cons c l ih =>
    rw [List.map_cons, List.find?_cons, List.find?_cons, List.find?_cons, ih]
    by_cases hc : c.id = id
    · rw [if_pos hc, he, hc]
      by_cases hj : j = id
      · simp [hj]
      · simp [hj, beq_false_of_ne (Ne.symm hj)]
    · rw [if_neg hc, beq_false_of_ne hc]
      by_cases hj : j = id
      · simp [hj, beq_false_of_ne hc]
      · simp [hj]

/-- The contexts found once one of them is replaced. -/
theorem State.ctx?_set {s : State} {id : BitVec 12} {d e : Ctx} (h : s.ctx? id = some d) (he : e.id = id)
    (hl : e.life ≠ .none) (j : BitVec 12) : (s.modCtx id fun _ => e).ctx? j = if j = id then some e else s.ctx? j := by
  unfold State.modCtx
  by_cases hm : s.me.id = id ∧ s.me.life ≠ .none
  · rw [if_pos hm]
    simp only [State.ctx?, State.ctxs, if_neg hl, if_neg hm.2, List.find?_cons, he, hm.1]
    by_cases hj : j = id
    · simp [hj]
    · simp [hj, beq_false_of_ne (Ne.symm hj)]
  · rw [if_neg hm]
    by_cases hn : s.me.life = .none
    · simp only [State.ctx?, State.ctxs, if_pos hn] at h ⊢
      rw [find?_map_set _ _ _ _ he, h]; rfl
    · have hi : s.me.id ≠ id := fun hi => hm ⟨hi, hn⟩
      simp only [State.ctx?, State.ctxs, if_neg hn, List.find?_cons, beq_false_of_ne hi] at h ⊢
      rw [find?_map_set _ _ _ _ he, h]
      by_cases hj : j = id
      · simp [hj, beq_false_of_ne hi]
      · simp [hj]

theorem badWord_healWords {bad : List Nat} {off n : Nat} (h : badWord bad off n = false) :
    badWord (healWords bad off n) off n = false := by
  simp only [badWord, List.any_eq_false] at h ⊢
  exact fun w hw => h w (List.mem_filter.1 hw).1

/-- A write of scratchpad bytes none of whose words fails (R291). -/
theorem Ctx.spadWrite_good {c : Ctx} {off : Nat} {bs : List Byte} (h : badWord c.spadBad off bs.length = false) :
    ∃ d, c.spadWrite off bs = some d ∧ d.spad = c.spad.write off bs ∧
      d = { c with spad := d.spad, badSpad := d.badSpad, flipSpad := d.flipSpad, hb := d.hb } :=
  ⟨_, if_neg (by rw [badWord_healWords h]; exact Bool.false_ne_true), rfl, rfl⟩

/-- A write of bytes of `priv` none of whose words fails (R291). -/
theorem Ctx.privWrite_good {c : Ctx} {off : Nat} {bs : List Byte} (h : badWord c.privBad off bs.length = false) :
    ∃ d, c.privWrite off bs = some d ∧ d.priv = c.priv.write off bs ∧
      d = { c with priv := d.priv, badPriv := d.badPriv, flipPriv := d.flipPriv } :=
  ⟨_, if_neg (by rw [badWord_healWords h]; exact Bool.false_ne_true), rfl, rfl⟩

theorem Mem.get_write_at {m : Mem} (h : m.wf = true) (a : Nat) (bs : List Byte) (k : Nat) (hk : k < bs.length) :
    (m.write a bs).get (a + k) = bs[k] := by
  rw [Mem.get_write h, dif_pos (by omega)]
  simp

/-- Of a context its memories alone have changed, and what is known of errors and releases in them. -/
def MemoriesOnly (a b : Ctx) : Prop :=
  b = { a with spad := b.spad, priv := b.priv, badSpad := b.badSpad, badPriv := b.badPriv, flipSpad := b.flipSpad,
               flipPriv := b.flipPriv, hb := b.hb }

theorem MemoriesOnly.refl (a : Ctx) : MemoriesOnly a a := rfl

theorem MemoriesOnly.trans {a b c : Ctx} (h : MemoriesOnly a b) (k : MemoriesOnly b c) : MemoriesOnly a c := by
  unfold MemoriesOnly at *
  conv => lhs; rw [k, h]

theorem Worn.memoriesOnly {a b : Ctx} (h : Worn a b) : MemoriesOnly a b := by
  unfold MemoriesOnly
  conv => lhs; rw [h]
  rw [h]

/-- From s to t the bytes at a location have been written, and no other; of the rest of the context in focus nothing has changed. -/
structure Writing (s t : State) (l : Loc) (bs : List Byte) : Prop where
  bytes : ∀ k (h : k < bs.length), byteAt t l k = bs[k]
  outside : SameOutside s t l bs.length
  me : MemoriesOnly s.me t.me

theorem State.journal_only (s : State) (i : BitVec 4) (pa n : Nat) : ∃ x, s.journal i pa n = { s with insts := x } := by
  unfold State.journal
  split
  · exact ⟨s.insts, rfl⟩
  · exact ⟨_, rfl⟩

/-- A write of global memory whose bytes can be reached (R291, R299, R348). -/
theorem State.globWrite_good (s : State) (pa va : Nat) (bs : List Byte) (cache : BitVec 2) (i : BitVec 4) (w : Writer)
    (hw : s.mem.wf = true) (h : Readable s (.glob pa va) bs.length) :
    ∃ t, s.globWrite (s.socketOf s.me.id) pa bs cache i w = .ok t ∧ Writing s t (.glob pa va) bs := by
  obtain ⟨h1, h2⟩ := h
  have hbad : ¬ (s.badAtoms.any fun a => pa / 32 ≤ a && a ≤ (pa + bs.length - 1) / 32 && !wholeAtom pa bs.length a) = true := by
    simp only [poisoned, List.any_eq_false] at h2
    simp only [List.any_eq_true, not_exists, not_and]
    intro a ha hb
    exact h2 a ha (Bool.and_eq_true_iff.1 hb).1
  have hs : Serviced s (((s.healAtoms (wholeAtom pa bs.length)).sramWrite pa bs.length cache (w.who i)).meet pa bs.length) :=
    ((s.healAtoms_serviced _).trans (State.sramWrite_moved ..).serviced).trans (State.meet_serviced ..)
  simp only [State.globWrite, h1, if_neg hbad]
  generalize ((s.healAtoms (wholeAtom pa bs.length)).sramWrite pa bs.length cache (w.who i)).meet pa bs.length = u at hs
  obtain ⟨x, hx⟩ : ∃ x, (if w.own then u.journal i pa bs.length else u) = { u with insts := x } := by
    split
    · exact u.journal_only ..
    · exact ⟨u.insts, rfl⟩
  rw [hx]
  obtain ⟨hwf, hg⟩ := hs.mem hw
  refine ⟨_, rfl, fun k hk => Mem.get_write_at hwf pa bs k hk, fun y _ ho hc => ?_, ?_⟩
  · cases y with
    | glob q vq =>
      simp only [locOverlap, Bool.and_eq_false_iff, decide_eq_false_iff_not] at ho
      exact (Mem.get_write_other hwf pa bs (q + 0) (by omega)).trans (hg _ fun h => hc (isCounter_glob h))
    | priv off => exact congrArg (fun c => c.priv.get (off + 0)) hs.me
    | spad core off =>
      have hsame : SameCtxMems s { u with mem := s.mem } := .of_me (by show u.me = _; rw [hs.me]) hs.rest
      exact hsame.byteAt rfl (.spad core off) 0
  · show MemoriesOnly s.me u.me
    rw [hs.me]; exact .refl _

/-- Meeting the errors of words changes no byte. -/
theorem State.meetWords_keeps (s : State) (id : BitVec 12) (priv : Bool) (off n : Nat) :
    SameCtxMems s (s.meetWords id priv off n) ∧ (s.meetWords id priv off n).mem = s.mem ∧
      MemoriesOnly s.me (s.meetWords id priv off n).me := by
  obtain ⟨f, hf, hn, -⟩ := s.meetWords_spec id priv off n
  obtain ⟨hu, hm, -⟩ := s.modCtx_parts id f
  have hs : SameCtxMems s (s.modCtx id f) := s.modCtx_sameMems id f fun c => by rw [hf c]; exact ⟨rfl, rfl, rfl, rfl⟩
  rw [hn.only]
  refine ⟨⟨hs.id, hs.life, hs.spad, hs.priv, hs.rest⟩, by rw [hu], ?_⟩
  show MemoriesOnly s.me (s.modCtx id f).me
  rcases hm with e | e
  · rw [e]; exact .refl _
  · rw [e]; exact (hf _).memoriesOnly

theorem Writing.keeps {s t u : State} {l : Loc} {bs : List Byte} (h : Writing s t l bs) (hs : SameCtxMems t u)
    (hm : u.mem = t.mem) (ho : MemoriesOnly t.me u.me) : Writing s u l bs :=
  ⟨fun k hk => (hs.byteAt hm l k).trans (h.bytes k hk), fun x hr hx hc => (hs.byteAt hm x 0).trans (h.outside x hr hx hc),
    h.me.trans ho⟩

/-- A write of bytes of `priv` none of whose words fails. -/
theorem State.locWrite_priv (s : State) (off : Nat) (bs : List Byte) (cache : BitVec 2) (w : Writer) (hl : s.me.life = .running)
    (hw : s.me.priv.wf = true) (h : Readable s (.priv off) bs.length) :
    ∃ t, s.locWrite s.me (.priv off) bs cache w = .ok t ∧ Writing s t (.priv off) bs := by
  obtain ⟨d, hd, hp, ho⟩ := Ctx.privWrite_good (c := s.me) h
  have hr : s.locWrite s.me (.priv off) bs cache w = .ok (({ s with me := d } : State).meetWords s.me.id true off bs.length) := by
    simp only [State.locWrite, hd, State.modCtx_me (s := s) (by simp [hl])]
  have hwr : Writing s { s with me := d } (.priv off) bs := by
    refine ⟨fun k hk => ?_, fun y _ hy _ => ?_, by rw [ho]; rfl⟩
    · show d.priv.get (off + k) = _
      rw [hp]; exact Mem.get_write_at hw off bs k hk
    · cases y with
      | glob q vq => rfl
      | priv q =>
        simp only [locOverlap, Bool.and_eq_false_iff, decide_eq_false_iff_not] at hy
        show d.priv.get (q + 0) = _
        rw [hp]; exact Mem.get_write_other hw off bs (q + 0) (by omega)
      | spad core q =>
        have hc := ctx?_spad (s := s) (t := { s with me := d }) (by rw [ho]) (by rw [ho]) rfl (by rw [ho])
        rw [byteAt_spad hl, byteAt_spad (s := { s with me := d }) (by show d.life = _; rw [ho]; exact hl),
          show d.id = s.me.id by rw [ho]]
        simpa [Option.map_map, Function.comp_def] using congrArg (fun o => (o.map fun m : Mem => m.get (q + 0)).getD 0)
          (hc (ctxIdOf (instOf s.me.id) core))
  obtain ⟨h1, h2, h3⟩ := ({ s with me := d } : State).meetWords_keeps s.me.id true off bs.length
  exact ⟨_, hr, hwr.keeps h1 h2 h3⟩

/-- The CTXIDs of different logical cores differ (R11). -/
theorem ctxIdOf_core_inj {i : BitVec 4} {m n : Nat} (hm : m < 256) (hn : n < 256) (h : ctxIdOf i m = ctxIdOf i n) : m = n := by
  have := congrArg lcoreOf h
  rwa [lcoreOf_ctxIdOf i m hm, lcoreOf_ctxIdOf i n hn] at this

/-- A context whose scratchpad has been written. -/
theorem writing_of_spad {s : State} {core off : Nat} {bs : List Byte} {d e : Ctx} (hl : s.me.life = .running) (hc : core < 256)
    (hd : s.ctx? (ctxIdOf (instOf s.me.id) core) = some d) (hw : d.spad.wf = true) (he : e.spad = d.spad.write off bs)
    (ho : e = { d with spad := e.spad, badSpad := e.badSpad, flipSpad := e.flipSpad, hb := e.hb }) (hdl : d.life = .running) :
    Writing s (s.modCtx (ctxIdOf (instOf s.me.id) core) fun _ => e) (.spad core off) bs := by
  generalize hid : ctxIdOf (instOf s.me.id) core = id at hd
  have hei : e.id = id := by rw [ho]; exact (State.ctx?_mem hd).2
  have hel : e.life = .running := by rw [ho]; exact hdl
  have hset := State.ctx?_set hd hei (by simp [hel])
  have hme : (s.modCtx id fun _ => e).me.id = s.me.id ∧ (s.modCtx id fun _ => e).me.life = .running ∧
      (s.modCtx id fun _ => e).me.priv = s.me.priv ∧ (s.modCtx id fun _ => e).mem = s.mem ∧
      MemoriesOnly s.me (s.modCtx id fun _ => e).me := by
    unfold State.modCtx
    by_cases h : s.me.id = id ∧ s.me.life ≠ .none
    · have hds : d = s.me := by
        rw [← h.1, State.ctx?_me h.2] at hd; exact (Option.some.inj hd).symm
      rw [if_pos h]
      exact ⟨hei.trans h.1.symm, hel, by show e.priv = _; rw [ho, hds], rfl, by show MemoriesOnly _ e; rw [ho, hds]; rfl⟩
    · rw [if_neg h]
      exact ⟨rfl, hl, rfl, rfl, .refl _⟩
  obtain ⟨h1, h2, h3, h4, h5⟩ := hme
  generalize (s.modCtx id fun _ => e) = t at hset h1 h2 h3 h4 h5
  have hbyte : ∀ n q k, byteAt t (.spad n q) k = ((t.ctx? (ctxIdOf (instOf s.me.id) n)).map fun d => d.spad.get (q + k)).getD 0 :=
    fun n q k => by rw [byteAt_spad h2, h1]
  refine ⟨fun k hk => ?_, fun y hy hov _ => ?_, h5⟩
  · rw [hbyte, hid, hset, if_pos rfl]
    show e.spad.get (off + k) = _
    rw [he]; exact Mem.get_write_at hw off bs k hk
  · cases y with
    | glob q vq => exact congrArg (fun m : Mem => m.get (q + 0)) h4
    | priv q => exact congrArg (fun m : Mem => m.get (q + 0)) h3
    | spad n q =>
      rw [hbyte, byteAt_spad hl, hset]
      by_cases hn : n = core
      · subst hn
        simp only [locOverlap, decide_true, Bool.true_and, Bool.and_eq_false_iff, decide_eq_false_iff_not] at hov
        rw [hid, if_pos rfl, hd]
        show e.spad.get (q + 0) = d.spad.get (q + 0)
        rw [he]; exact Mem.get_write_other hw off bs (q + 0) (by omega)
      · rw [if_neg fun h => hn (ctxIdOf_core_inj hy hc (h.trans hid.symm))]

/-- A write of the scratchpad of a context that runs and can be reached, none of whose words fails. -/
theorem State.locWrite_spad (s : State) (core off : Nat) (bs : List Byte) (cache : BitVec 2) (w : Writer)
    (hl : s.me.life = .running) (hsp : s.me.spad.wf = true) (hrest : ∀ c ∈ s.rest, c.spad.wf = true) (hc : core < 256)
    (h : Writable s (.spad core off) bs.length) :
    ∃ t, s.locWrite s.me (.spad core off) bs cache w = .ok t ∧ Writing s t (.spad core off) bs := by
  obtain ⟨hread, d, hd, hdl⟩ := h
  obtain ⟨hreach, hbad⟩ : s.reach s.me d off bs.length true = .ok () ∧ badWord d.spadBad off bs.length = false := by
    by_cases hcore : core = s.me.lcore
    · have hb := (readable_spad_me hcore off _).1 hread
      rw [hcore, show ctxIdOf (instOf s.me.id) s.me.lcore = s.me.id from ctxIdOf_lcoreOf _,
        State.ctx?_me (by simp [hl])] at hd
      cases hd
      exact ⟨by simp [State.reach, State.unreached], hb⟩
    · obtain ⟨d', hd', -, hr, hb⟩ := (readable_spad_other hcore off _).1 hread
      cases hd.symm.trans hd'
      exact ⟨by simpa [State.reach, Ctx.away, hdl] using hr, hb⟩
  have hwf : d.spad.wf = true := by
    have hm := (State.ctx?_mem hd).1
    simp only [State.ctxs, hl, reduceCtorEq, if_false, List.mem_cons] at hm
    rcases hm with rfl | hm
    · exact hsp
    · exact hrest d hm
  obtain ⟨e, he, hes, heo⟩ := Ctx.spadWrite_good hbad
  have hwr := writing_of_spad hl hc hd hwf hes heo hdl
  have hset := State.ctx?_set hd (e := e) (by rw [heo]; exact (State.ctx?_mem hd).2) (by rw [heo]; simp [hdl])
    (ctxIdOf (instOf s.me.id) core)
  rw [if_pos rfl] at hset
  have hr : s.locWrite s.me (.spad core off) bs cache w = .ok ((s.modCtx (ctxIdOf (instOf s.me.id) core) fun _ => e).meetWords
      (ctxIdOf (instOf s.me.id) core) false off bs.length) := by
    simp only [State.locWrite, State.view_eq hd (by simp [hdl]), hreach, he,
      State.poke_running hset (by rw [heo]; exact hdl)]
  obtain ⟨h1, h2, h3⟩ := (s.modCtx (ctxIdOf (instOf s.me.id) core) fun _ => e).meetWords_keeps
    (ctxIdOf (instOf s.me.id) core) false off bs.length
  exact ⟨_, hr, hwr.keeps h1 h2 h3⟩

/-- Bytes that can be written are written, and no other (R291, R299, R348). -/
theorem State.locWrite_writable (s : State) (l : Loc) (bs : List Byte) (cache : BitVec 2) (w : Writer) (hm : s.mem.wf = true)
    (hsp : s.me.spad.wf = true) (hpr : s.me.priv.wf = true) (hrest : ∀ c ∈ s.rest, c.spad.wf = true)
    (hl : s.me.life = .running) (hr : RealLoc l) (h : Writable s l bs.length) :
    ∃ t, s.locWrite s.me l bs cache w = .ok t ∧ Writing s t l bs := by
  cases l with
  | glob pa va => exact s.globWrite_good pa va bs cache _ w hm h.1
  | priv off => exact s.locWrite_priv off bs cache w hl hpr h.1
  | spad core off => exact s.locWrite_spad core off bs cache w hl hsp hrest hr h

end Sys2Proof.Machine
end

section
namespace Sys2Proof.Machine

/-! ## A queued store performs (R103, R295) -/

/-- From s to t the context's store queue has changed and dirty lines may have been written back (R295): no byte has. -/
structure Popped (s t : State) : Prop where
  only : t = { s with me := t.me, sram := t.sram, bdies := t.bdies }
  me : t.me = { s.me with sq := t.me.sq }
  dies : DiesKept s t

theorem Popped.id {s t : State} (h : Popped s t) : t.me.id = s.me.id := by rw [h.me]

theorem Popped.life {s t : State} (h : Popped s t) : t.me.life = s.me.life := by rw [h.me]

theorem Popped.rest {s t : State} (h : Popped s t) : t.rest = s.rest := by rw [h.only]

theorem Popped.mem {s t : State} (h : Popped s t) : t.mem = s.mem := by rw [h.only]

theorem Popped.byteAt {s t : State} (h : Popped s t) (l : Loc) (k : Nat) : byteAt t l k = byteAt s l k :=
  (SameCtxMems.of_me h.me h.rest).byteAt h.mem l k

theorem Popped.socketOf {s t : State} (h : Popped s t) (id : BitVec 12) : t.socketOf id = s.socketOf id := by rw [h.only]; rfl

theorem Popped.unanswered {s t : State} (h : Popped s t) (a b : Nat) : t.unanswered a b = s.unanswered a b := by
  rw [h.only]; rfl

theorem Popped.home {s t : State} (h : Popped s t) (sk pa : Nat) : homeState t sk pa = homeState s sk pa :=
  homeState_kept h.dies (by rw [h.only]) (by rw [h.only]) (by rw [h.only]) sk pa

/-- The other contexts are found as before. -/
theorem Popped.ctx?_other {s t : State} (h : Popped s t) {id : BitVec 12} (hi : id ≠ s.me.id) : t.ctx? id = s.ctx? id := by
  have hs : (s.me.id == id) = false := beq_false_of_ne (Ne.symm hi)
  have ht : (t.me.id == id) = false := h.id ▸ hs
  unfold State.ctx? State.ctxs
  rw [h.life, h.rest]
  split
  · rfl
  · rw [List.find?_cons, List.find?_cons, hs, ht]

/-- A context that runs is reached unless the links between the cores fail (R271, R348). -/
theorem State.reach_running {s : State} {c d : Ctx} (hd : d.life = .running) (off n : Nat) (wr : Bool) :
    s.reach c d off n wr = match s.unreached c d with | some e => .err e | none => .ok () := by
  unfold State.reach
  exact if_pos (by simp [Ctx.away, hd])

theorem Popped.reach {s t : State} (h : Popped s t) {d : Ctx} (hd : d.life = .running) (off n : Nat) (wr : Bool) :
    t.reach t.me d off n wr = s.reach s.me d off n wr := by
  rw [State.reach_running hd, State.reach_running hd]
  unfold State.unreached
  rw [h.id, h.socketOf, h.socketOf, h.unanswered]

/-- What can be written before can be written after. -/
theorem Popped.writable {s t : State} (h : Popped s t) {l : Loc} {n : Nat} (hl : s.me.life = .running) (hr : RealLoc l)
    (hw : Writable s l n) : Writable t l n := by
  obtain ⟨hread, hrun⟩ := hw
  cases l with
  | glob pa va =>
    obtain ⟨h1, h2⟩ := hread
    refine ⟨⟨by rw [h.home, h.socketOf, h.id]; exact h1, ?_⟩, trivial⟩
    rw [h.only]; exact h2
  | priv off => exact ⟨by show badWord t.me.privBad off n = _; rw [h.me]; exact hread, trivial⟩
  | spad core off =>
    have hc : t.me.lcore = s.me.lcore := by unfold Ctx.lcore; rw [h.id]
    by_cases hcore : core = s.me.lcore
    · have hb := (readable_spad_me hcore off n).1 hread
      refine ⟨?_, t.me, ?_, h.life.trans hl⟩
      · rw [readable_spad_me (hcore.trans hc.symm), h.me]; exact hb
      · rw [hcore, ← hc, show ctxIdOf (instOf t.me.id) t.me.lcore = t.me.id from ctxIdOf_lcoreOf _]
        exact State.ctx?_me (by simp [h.life, hl])
    · obtain ⟨d, hd, hdl⟩ := hrun
      obtain ⟨d', hd', hst, hreach, hb⟩ := (readable_spad_other hcore off n).1 hread
      cases hd.symm.trans hd'
      have hd2 : t.ctx? (ctxIdOf (instOf t.me.id) core) = some d := by
        rw [h.id, h.ctx?_other fun hi => hcore (ctxIdOf_inj hr hi)]; exact hd
      have hcore' : core ≠ t.me.lcore := fun hi => hcore (hi.trans hc)
      exact ⟨(readable_spad_other hcore' off n).2 ⟨d, hd2, hst, (h.reach hdl off n false).trans hreach, hb⟩, d, hd2, hdl⟩

/-- The state in which the oldest store writes: it has left the queue, and a release at system scope has written back what it
covers (R295, R316). -/
def State.popStore (s : State) (x : StoreEnt) (xs : List StoreEnt) : State :=
  let s0 := { s with me := { s.me with sq := { s.me.sq with stores := xs } } }
  if x.scope = 4 && x.rel then s0.release (s0.me.gives .s s0.tick) else s0

theorem State.popStore_popped (s : State) (x : StoreEnt) (xs : List StoreEnt) :
    Popped s (s.popStore x xs) ∧ (s.popStore x xs).me = { s.me with sq := { s.me.sq with stores := xs } } := by
  unfold State.popStore State.release
  generalize hs : ({ s with me := { s.me with sq := { s.me.sq with stores := xs } } } : State) = u
  have hu : Popped s u := by subst hs; exact ⟨rfl, rfl, .of_bdies rfl⟩
  have hum : u.me = { s.me with sq := { s.me.sq with stores := xs } } := by subst hs; rfl
  split
  · obtain ⟨hm, hmem⟩ := u.flushLines_moved fun l => l.covered (u.me.gives .s u.tick)
    generalize (u.flushLines fun l => l.covered (u.me.gives .s u.tick)) = t at hm hmem
    have hme : t.me = u.me := by rw [hm.only]
    refine ⟨⟨?_, by rw [hme]; exact hu.me, hu.dies.trans hm.dies⟩, hme.trans hum⟩
    conv => lhs; rw [hm.only, hmem, hu.only]
    rw [hme]
  · exact ⟨hu, hum⟩

/-- A context whose scratchpad holds the bytes of one more release. -/
def Ctx.mark (m : Mark) (c : Ctx) : Ctx := { c with hb := { c.hb with marks := m :: c.hb.marks } }

/-- A release marks the bytes it has written and writes nothing else (R314). -/
theorem State.bear_keeps (s : State) (l : Loc) (n : Nat) (k : Known) (scope : BitVec 3) (dsl : Nat) :
    SameCtxMems s (s.bear s.me l n k scope dsl) ∧ (s.bear s.me l n k scope dsl).mem = s.mem ∧
      MemoriesOnly s.me (s.bear s.me l n k scope dsl).me := by
  cases l with
  | glob pa va => exact ⟨.of_me rfl rfl, rfl, .refl _⟩
  | priv off => exact ⟨.of_me rfl rfl, rfl, .refl _⟩
  | spad core off =>
    obtain ⟨m, hb⟩ : ∃ m, s.bear s.me (.spad core off) n k scope dsl = s.modCtx (ctxIdOf (instOf s.me.id) core) (Ctx.mark m) :=
      ⟨_, rfl⟩
    obtain ⟨hu, hme, -⟩ := s.modCtx_parts (ctxIdOf (instOf s.me.id) core) (Ctx.mark m)
    rw [hb]
    refine ⟨s.modCtx_sameMems _ (Ctx.mark m) fun c => ⟨rfl, rfl, rfl, rfl⟩, by rw [hu], ?_⟩
    rcases hme with e | e
    · rw [e]; exact .refl _
    · rw [e]; rfl

/-- The oldest store writes its bytes, when no older load keeps it waiting; a release marks them. -/
theorem performStore_writes {s t : State} {x : StoreEnt} {xs : List StoreEnt} (hq : s.me.sq.stores = x :: xs)
    (hl : ∀ l ∈ s.me.sq.loads, x.barL ≤ l.num ∧ (l.num < x.num → locOverlap l.loc l.size x.loc x.size = false))
    (hw : (s.popStore x xs).locWrite (s.popStore x xs).me x.loc (leBytes x.size x.val.toNat) x.cache
      { kind := 0, ctx := s.me.id, st := 0, seq := x.seq } = .ok t) :
    ∃ k, performStore s = some (if x.rel then t.bear t.me x.loc x.size k x.scope x.dsl else t) := by
  have hg : ¬ (s.me.sq.loads.any fun l => l.num < x.barL || (l.num < x.num && locOverlap l.loc l.size x.loc x.size)) = true := by
    simp only [List.any_eq_true, not_exists, not_and, Bool.or_eq_true, Bool.and_eq_true, decide_eq_true_eq, not_or]
    intro l hm
    obtain ⟨h1, h2⟩ := hl l hm
    exact ⟨by omega, fun hn => by simp [h2 hn]⟩
  unfold State.popStore at hw
  simp only [performStore, hq, if_neg hg, hw]
  exact ⟨_, rfl⟩

/-- STORE_PERFORM while the context runs. -/
theorem execStorePerform_performs {s t : State} (hl : s.me.life = .running) (h : performStore s = some t) :
    exec .storePerform s = .next t := by
  show Host.Outcome.next (s.perform performStore) = _
  unfold State.perform
  rw [if_pos (by simp [hl]), h]
  rfl

/-- A store that performs writes its bytes, little-endian, and no other; of its context the queue alone changes. -/
theorem performStore_lands {s : State} {x : StoreEnt} {xs : List StoreEnt} (hm : s.mem.wf = true) (hsp : s.me.spad.wf = true)
    (hpr : s.me.priv.wf = true) (hrest : ∀ c ∈ s.rest, c.spad.wf = true) (hl : s.me.life = .running)
    (hq : s.me.sq.stores = x :: xs) (hr : RealLoc x.loc)
    (hload : ∀ l ∈ s.me.sq.loads, x.barL ≤ l.num ∧ (l.num < x.num → locOverlap l.loc l.size x.loc x.size = false))
    (hw : Writable s x.loc x.size) :
    ∃ t, performStore s = some t ∧
      (∀ k (h : k < (leBytes x.size x.val.toNat).length), byteAt t x.loc k = (leBytes x.size x.val.toNat)[k]) ∧
      SameOutside s t x.loc x.size ∧ MemoriesOnly { s.me with sq := { s.me.sq with stores := xs } } t.me := by
  obtain ⟨hp, hpme⟩ := s.popStore_popped x xs
  obtain ⟨u, hu, hwr⟩ := (s.popStore x xs).locWrite_writable x.loc (leBytes x.size x.val.toNat) x.cache
    { kind := 0, ctx := s.me.id, st := 0, seq := x.seq } (by rw [hp.mem]; exact hm) (by rw [hp.me]; exact hsp)
    (by rw [hp.me]; exact hpr) (by rw [hp.rest]; exact hrest) (hp.life.trans hl) hr
    (by rw [leBytes_length]; exact hp.writable hl hr hw)
  obtain ⟨k, hk⟩ := performStore_writes hq hload hu
  obtain ⟨hb1, hb2, hb3⟩ := u.bear_keeps x.loc x.size k x.scope x.dsl
  have hwt : Writing (s.popStore x xs) (if x.rel then u.bear u.me x.loc x.size k x.scope x.dsl else u) x.loc
      (leBytes x.size x.val.toNat) := by
    split
    · exact hwr.keeps hb1 hb2 hb3
    · exact hwr
  obtain ⟨hin, hout, hme⟩ := hwt
  rw [hpme] at hme
  rw [leBytes_length] at hout
  exact ⟨_, hk, hin, fun y hy ho hc => (hout y hy ho fun h => hc ((hp.dies.isCounter y).1 h)).trans (hp.byteAt y 0), hme⟩

/-! ## What the queues' accesses do -/

/-- The sizes of accesses are positive. -/
theorem size_pos {n : Nat} (h : n ∈ [1, 2, 4, 8]) : 0 < n := by
  simp only [List.mem_cons, List.not_mem_nil, or_false] at h
  omega

/-- The oldest load takes its bytes from memory. -/
theorem loadDataReturn_reads {s : State} {l : LoadEnt} {ls : List LoadEnt} (hm : s.mem.wf = true) (hl : s.me.life = .running)
    (hq : s.me.sq.loads = l :: ls) (hsz : l.size ∈ [1, 2, 4, 8]) (hbar : ∀ x ∈ s.me.sq.stores, l.barS ≤ x.num)
    (hno : ∀ x ∈ s.me.sq.stores, x.num < l.num → locOverlap l.loc l.size x.loc x.size = false)
    (hread : Readable s l.loc l.size) :
    Completes .loadDataReturn s (LoadLands s l ls (let n := leNat ((List.range l.size).map (byteAt s l.loc))
      if l.sgn then (BitVec.ofNat (8 * l.size) n).signExtend 64 else BitVec.ofNat 64 n)) := by
  obtain ⟨t, hr, ht⟩ := s.locRead_readable l.loc l.size l.cache hl hread
  obtain ⟨k, hk⟩ := performLoad_reads hq hbar (SQueues.sources_nil hno) hr
  have hlt := leNat_lt ((List.range l.size).map (byteAt s l.loc))
  rw [List.length_map, List.length_range] at hlt
  rw [extendLoad_eq _ _ _ hsz hlt] at hk
  exact ⟨_, execLoadDataReturn_performs hl hk, (ht.acquire k).landLoad hm l ls _⟩

/-- The oldest load takes its bytes from a store that has not performed. -/
theorem loadDataReturn_forwards {s : State} {l : LoadEnt} {ls : List LoadEnt} {older newer : List StoreEnt} {x : StoreEnt} {k : Nat}
    (hm : s.mem.wf = true) (hl : s.me.life = .running) (hq : s.me.sq.loads = l :: ls) (hsz : l.size ∈ [1, 2, 4, 8])
    (hbar : ∀ x ∈ s.me.sq.stores, l.barS ≤ x.num) (hx : s.me.sq.stores = older ++ x :: newer) (hn : x.num < l.num)
    (hin : locInside l.loc l.size x.loc x.size = some k)
    (hnew : ∀ y ∈ newer, y.num < l.num → locOverlap l.loc l.size y.loc y.size = false) :
    Completes .loadDataReturn s (LoadLands s l ls (let n := x.val.toNat / 2 ^ (8 * k) % 2 ^ (8 * l.size)
      if l.sgn then (BitVec.ofNat (8 * l.size) n).signExtend 64 else BitVec.ofNat 64 n)) := by
  have hlast := SQueues.sources_last hx hn (locOverlap_of_inside hin (size_pos hsz)) hnew
  have hk := performLoad_forwards hq hbar hlast hin
  rw [extendLoad_eq _ _ _ hsz (Nat.mod_lt _ (Nat.two_pow_pos _))] at hk
  exact ⟨_, execLoadDataReturn_performs hl hk, (Reading.refl s).landLoad hm l ls _⟩

/-- Settles O5: a load reads from memory or from the youngest older store that covers it, a store writes its bytes and no other. -/
theorem queuedAccessesPerform : Obligations.QueuedAccessesPerform := by
  unfold Obligations.QueuedAccessesPerform
  refine ⟨fun s l ls hm hl hq hsz hbar => ⟨fun hno hread => loadDataReturn_reads hm hl hq hsz hbar hno hread,
    fun older x newer k hx hn _ hin hnew => loadDataReturn_forwards hm hl hq hsz hbar hx hn hin hnew⟩,
    fun s x xs hm hsp hpr hrest hl hq _ hreal hload hw => ?_⟩
  obtain ⟨t, ht, hin, hout, hme⟩ := performStore_lands hm hsp hpr hrest hl hq hreal hload hw
  refine ⟨t, execStorePerform_performs hl ht, fun k hk => ?_, hout, ?_⟩
  · rw [hin k (by simpa using hk), leBytes_extract _ _ _ hk]
  · rw [hme]
    exact ⟨rfl, rfl, rfl, rfl, rfl, rfl, rfl⟩

end Sys2Proof.Machine
end

section
namespace Sys2Proof.Machine

/-! ## Results and traps of the S stream -/

/-- An instruction that answers a result without flags (R16, R92). -/
theorem completes_putS {i : Instr} {s : State} {d : BitVec 5} {v : W64} {tn : Bool} (h : exec i s = .next (s.putS d v tn)) :
    Completes i s fun t => SWrote s t d v tn 0 (s.me.s.pc + 4) :=
  ⟨_, h, s.putS_wrote d v tn 0⟩

/-- An instruction that traps with a cause other than FOLIO_ABSENT enters the handler (R331). -/
theorem completes_trap {i : Instr} {s : State} {cause : BitVec 7} {tval : W64} (h : exec i s = s.trapR cause tval) (hc : CanHandle s)
    (hn : cause ≠ 0x20) : Completes i s (TrapEntry s · cause tval) :=
  ⟨_, h, s.trap_entry cause tval hc hn⟩

/-! ## Domains, seeds and random-number handles (R120 to R122) -/

/-- A random-number handle takes a value; the others keep theirs. -/
theorem rn_set (l : Vector (W128 × W128) 16) (n m : BitVec 4) (v : W128 × W128) :
    (l.set n.toNat v n.isLt)[m.toNat] = if m = n then v else l[m.toNat] := by
  by_cases h : m = n
  · simp [h]
  · have : n.toNat ≠ m.toNat := fun e => h (BitVec.eq_of_toNat_eq e.symm)
    simp [h, this]

/-- The state after a random-number handle has taken a value. -/
theorem rn_keeps (s : State) (n : BitVec 4) (v : W128 × W128) :
    let t := ({ s with me := { s.me with rn := s.me.rn.set n.toNat v n.isLt } } : State).retireS
    (∀ m : BitVec 4, t.me.rn[m.toNat] = if m = n then v else s.me.rn[m.toNat]) ∧
      GoesOn s.me.s t.me.s (s.me.s.pc + 4) s.cc ∧ t = { s with me := { s.me with rn := t.me.rn, s := t.me.s } } :=
  ⟨fun m => rn_set s.me.rn n m v, s.me.s.next_goesOn _ _, rfl⟩

/-- Settles O14: each instruction is its defining equation; SEEDRD's seed is the head of the stack. -/
theorem domainsSeedsAndHandlesRead : Obligations.DomainsSeedsAndHandlesRead := by
  intro s d a b l w h n top rest hseeds peers gives r pair keeps
  have seed : ∀ h, exec (.seedrd d h) s = .next (s.putS d (if h = 0 then top.extractLsb' 0 64 else top.extractLsb' 64 64) false) := by
    intro h
    show Host.Outcome.next _ = _
    rw [hseeds]
    rfl
  refine ⟨completes_putS rfl, fun hw => completes_putS ?_, completes_putS (seed 0), fun hh => completes_putS ?_,
    ⟨_, rfl, rn_keeps s n _⟩, ⟨_, rfl, rn_keeps s n _⟩⟩
  · show Host.Outcome.next (s.putS d (BitVec.ofNat 64 (if w = 0 then _ else _)) false) = _
    rw [if_neg hw]
  · rw [seed h, if_neg hh]

end Sys2Proof.Machine
end

section
namespace Sys2Proof.Machine

/-! ## Pointers (R110, R111) -/

/-- An instruction whose result is described rather than named. -/
theorem completes_putS_of {i : Instr} {s : State} {d : BitVec 5} {v : W64} {tn : Bool} {p : W64 → Prop}
    (h : exec i s = .next (s.putS d v tn)) (hp : p v) :
    Completes i s fun t => ∃ v, p v ∧ SWrote s t d v tn 0 (s.me.s.pc + 4) :=
  ⟨_, h, v, hp, s.putS_wrote d v tn 0⟩

/-- The fields of the word that SPT answers: the tag and one bit for each of the checks 2 to 4. -/
theorem sptWord_fields : ∀ (tag : Fin 16) (c2 c3 c4 : Bool),
    let v := BitVec.ofNat 64 (tag.val + (if c2 then 16 else 0) + (if c3 then 32 else 0) + if c4 then 64 else 0)
    v.toNat % 16 = tag.val ∧ v.toNat < 128 ∧ v.getLsbD 4 = c2 ∧ v.getLsbD 5 = c3 ∧ v.getLsbD 6 = c4 := by decide

theorem sptBits_unassigned {s : State} {p : W64} (h : ptrCheck1 p = false) : sptBits s p = 0xF := by simp [sptBits, h]

theorem sptBits_fields {s : State} {p : W64} (h : ptrCheck1 p = true) :
    (sptBits s p).toNat % 16 = ptrTag p ∧ (sptBits s p).toNat < 128 ∧ (sptBits s p).getLsbD 4 = ptrCheck2 s s.me p ∧
      (sptBits s p).getLsbD 5 = (ptrCheck2 s s.me p && ptrCheck3 s s.me p) ∧
      (sptBits s p).getLsbD 6 = (ptrCheck2 s s.me p && ptrCheck3 s s.me p && ptrCheck4 s s.me p 1) := by
  have := sptWord_fields ⟨ptrTag p, (p.extractLsb' 60 4).isLt⟩ (ptrCheck2 s s.me p) (ptrCheck2 s s.me p && ptrCheck3 s s.me p)
    (ptrCheck2 s s.me p && ptrCheck3 s s.me p && ptrCheck4 s s.me p 1)
  unfold sptBits
  rw [if_neg (by simp [h])]
  exact this

theorem Ctx.lcore_lt (c : Ctx) : c.lcore < 256 := Nat.mod_lt _ (by decide)

/-- The offset that SPC extracts. -/
theorem spcOffset_toNat (x : W64) :
    (if ptrTag x = 0 then x &&& 0xFFFFFFFFFFFFFF else x &&& 0xFFFFFFFF).toNat = x.toNat % 2 ^ (if ptrTag x = 0 then 56 else 32) := by
  split
  · exact (BitVec.toNat_and ..).trans (Nat.and_two_pow_sub_one_eq_mod x.toNat 56)
  · exact (BitVec.toNat_and ..).trans (Nat.and_two_pow_sub_one_eq_mod x.toNat 32)

/-- Settles O8: the fields of SPT's word are the checks; each SPC has its cases in the order of its conditions. -/
theorem pointersAreCheckedAndBuilt : Obligations.PointersAreCheckedAndBuilt := by
  intro s d a b
  dsimp only
  have hn := s.me.lcore_lt
  refine ⟨completes_putS_of rfl ⟨sptBits_unassigned, sptBits_fields⟩, fun h => completes_putS_of (if_neg (by omega)) rfl,
    fun h => completes_putS_of (if_neg (by omega)) ?_, fun h hy => completes_putS_of (if_neg (by simp; omega)) ?_,
    fun h hy hc => completes_putS_of ((if_neg (by simp; omega)).trans (if_neg (by omega))) ?_,
    fun h => completes_putS_of (if_neg (by simp [h])) (spcOffset_toNat _),
    fun hh => ⟨fun h => completes_trap (if_pos h) hh (by decide), fun h => completes_trap (if_pos h) hh (by decide),
      fun h => completes_trap (if_pos (by simpa using h)) hh (by decide),
      fun h => completes_trap (if_pos (by simpa using h)) hh (by decide),
      fun h hy hc => completes_trap ((if_neg (by simp; omega)).trans (if_pos hc)) hh (by decide),
      fun h => completes_trap (if_pos (by simp [h])) hh (by decide)⟩⟩
  · rw [BitVec.toNat_ofNat, Nat.mod_eq_of_lt (by omega)]
  · rw [BitVec.toNat_ofNat, Nat.mod_eq_of_lt (by omega)]
  · rw [BitVec.toNat_ofNat, Nat.mod_eq_of_lt (by omega)]

/-! ## Folio slots (R25, R123) -/

/-- The frames of the cores once the frame that a slot has tagged is no longer valid. -/
theorem State.dropFrame_cores (s : State) (id : BitVec 12) (i : BitVec 6) :
    (s.dropFrame id i).cores = s.cores.map fun k =>
      { k with frames := k.frames.map fun f => { f with valid := f.valid && !f.tagged id i } } := by
  have hf : ∀ f : Frame, (if (f.valid && f.ctx == id && f.slot == i) = true then { f with valid := false } else f) =
      { f with valid := f.valid && !f.tagged id i } := by
    intro f
    by_cases h : f.tagged id i = true
    · exact (if_pos h).trans (by simp [h])
    · exact (if_neg h).trans (by simp [h])
  show s.cores.map _ = _
  simp only [hf]

/-- A slot takes an entry, and the frame that held it loses its tag. -/
theorem setSlot_becomes (s : State) (i : BitVec 6) (e : FolioSlot) :
    let t := ({ s.dropFrame s.me.id i with me := s.me.setSlot i e } : State).retireS
    (∀ j, t.me.slot j = if j = i then e else s.me.slot j) ∧ GoesOn s.me.s t.me.s (s.me.s.pc + 4) s.cc ∧
      t.cores = (s.cores.map fun k =>
        { k with frames := k.frames.map fun f => { f with valid := f.valid && !f.tagged s.me.id i } }) ∧
      t = { s with me := { s.me with folio := t.me.folio, s := t.me.s }, cores := t.cores } :=
  ⟨fun j => s.me.setSlot_slot i j e, s.me.s.next_goesOn _ _, s.dropFrame_cores _ _, rfl⟩

/-- FOLIO_IMAGE's cases in order. -/
theorem folioCode_eq (x y : W64) : folioCode x y =
    if ¬ x.extractLsb' 56 8 = 0 then some 0x11 else if ¬ x.toNat % 256 = 0 then some 0x12
    else if ¬ (y.toNat % 64 ≠ 0 ∧ y.toNat % 64 ≤ 3) then some 0x13 else if ¬ y.extractLsb' 6 2 = 0 then some 0x14 else none := by
  have h2 : x.extractLsb' 0 8 ≠ 0 ↔ ¬ x.toNat % 256 = 0 := by simp [← BitVec.toNat_inj]
  have h3 : (y.extractLsb' 0 6 = 0 || 3 < (y.extractLsb' 0 6).toNat) = true ↔ ¬ (y.toNat % 64 ≠ 0 ∧ y.toNat % 64 ≤ 3) := by
    simp [← BitVec.toNat_inj]; omega
  unfold folioCode
  simp only [h2, h3, ne_eq]

/-- Settles O15: FOLIO by its checks in order, FUNBIND as the binding of an empty entry. -/
theorem folioSlotsBindAndEmpty : Obligations.FolioSlotsBindAndEmpty := by
  intro s a b i x y c1 c2 c3 c4 becomes
  have run : exec (.folio a b i) s = match folioCode x y with
      | some code => s.trapR 0x21 code
      | none => .next ({ s.dropFrame s.me.id i with me := s.me.setSlot i (boundSlot x y) }).retireS := rfl
  rw [folioCode_eq] at run
  refine ⟨fun h1 h2 h3 h4 => ⟨_, ?_, setSlot_becomes s i _⟩, ⟨_, rfl, setSlot_becomes s i _⟩, fun hh =>
    ⟨fun h1 => completes_trap ?_ hh (by decide), fun h1 h2 => completes_trap ?_ hh (by decide),
      fun h1 h2 h3 => completes_trap ?_ hh (by decide), fun h1 h2 h3 h4 => completes_trap ?_ hh (by decide)⟩⟩
  · rw [run, if_neg (not_not.2 h1), if_neg (not_not.2 h2), if_neg (not_not.2 h3), if_neg (not_not.2 h4)]; rfl
  · rw [run, if_pos h1]
  · rw [run, if_neg (not_not.2 h1), if_pos h2]
  · rw [run, if_neg (not_not.2 h1), if_neg (not_not.2 h2), if_pos h3]
  · rw [run, if_neg (not_not.2 h1), if_neg (not_not.2 h2), if_neg (not_not.2 h3), if_pos h4]

end Sys2Proof.Machine
end

section
namespace Sys2Proof.Machine

/-! ## Tiles (R17, R125, R126) -/

/-- What R125 asks of TALLOC's operands. -/
def TileLegal (x y : W64) : Prop :=
  let n := y.toNat
  let level : BitVec 3 := x.extractLsb' 0 3
  let fmt : BitVec 4 := x.extractLsb' 4 4
  let slots : BitVec 8 := x.extractLsb' 8 8
  x.extractLsb' 48 16 = 0 ∧ x.getLsbD 3 = false ∧ level.toNat ≤ 3 ∧ x.extractLsb' 16 16 ≠ 0 ∧
    x.extractLsb' 32 16 ≠ 0 ∧ n ≠ 0 ∧ n % 256 = 0 ∧ n ≤ 2 ^ 23 ∧
    (level = 3 → slots ≠ 0 ∧ n % (256 * slots.toNat) = 0) ∧ (level ≠ 3 → slots = 0) ∧
    (level = 1 → fmt.toNat ∈ [6, 8, 9, 10, 11, 12, 15]) ∧ (level = 2 → fmt = 0)

/-- The tile that legal operands describe. -/
def describedTile (x y : W64) : Tile :=
  { valid := true, level := x.extractLsb' 0 3, fmt := x.extractLsb' 4 4, rows := x.extractLsb' 16 16, cols := x.extractLsb' 32 16,
    size := BitVec.ofNat 24 y.toNat, slots := x.extractLsb' 8 8 }

theorem fmtSuits_iff (level : BitVec 3) (fmt : BitVec 4) :
    fmtSuits level fmt = true ↔ (level = 1 → fmt.toNat ∈ [6, 8, 9, 10, 11, 12, 15]) ∧ (level = 2 → fmt = 0) := by
  unfold fmtSuits
  by_cases h1 : level = 1
  · simp [h1]
  · rw [if_neg h1]
    by_cases h2 : level = 2
    · simp [h2]
    · rw [if_neg h2]
      exact iff_of_true rfl ⟨fun h => absurd h h1, fun h => absurd h h2⟩

/-- TILE_DESC applies to every pair of operands that is not legal. -/
theorem tileDesc_eq (x y : W64) [Decidable (TileLegal x y)] :
    tileDesc x y = if TileLegal x y then some (describedTile x y) else none := by
  by_cases h : TileLegal x y
  · obtain ⟨h1, h2, h3, h4, h5, h6, h7, h8, h9, h10, h11⟩ := h
    rw [if_pos ⟨h1, h2, h3, h4, h5, h6, h7, h8, h9, h10, h11⟩]
    have hf := (fmtSuits_iff _ _).2 h11
    unfold tileDesc
    rw [if_neg (by simp only [h1, h2, h4, h5]; simpa using h3), if_neg (by simp only [h6, h7]; simpa using h8), if_neg, if_neg,
      if_neg (by simp [hf])]
    · rfl
    · simpa using h10
    · simpa using h9
  · rw [if_neg h]
    unfold tileDesc
    dsimp only
    split_ifs with a1 a2 a3 a4 a5
    · rfl
    · rfl
    · rfl
    · rfl
    · rfl
    · refine absurd ⟨?_, ?_, ?_, ?_, ?_, ?_, ?_, ?_, ?_, ?_, (fmtSuits_iff _ _).1 (by simpa using a5)⟩ h
      all_goals simp at a1 a2 a3 a4 ⊢
      · exact a1.1.1.1.1
      · exact a1.1.1.1.2
      · exact a1.1.1.2
      · exact a1.1.2
      · exact a1.2
      · exact a2.1.1
      · exact a2.1.2
      · exact a2.2
      · exact a3
      · exact a4

/-- The end of a tile, rounded up to where a tile may be based. -/
def Tile.roundedEnd (t : Tile) : Nat := (t.base.toNat + t.size.toNat + 255) / 256 * 256

/-- The bases that TALLOC considers. -/
def tileBases (c : Ctx) : List Nat := 0 :: c.tiles.toList.filterMap fun t => if t.valid then some t.roundedEnd else none

theorem spadPlace_eq (c : Ctx) (n : Nat) : spadPlace c n = ((tileBases c).filter fun b => spadFree c b n).min? := rfl

theorem tileBases_aligned {c : Ctx} {b : Nat} (h : b ∈ tileBases c) : b % 256 = 0 := by
  simp only [tileBases, List.mem_cons, List.mem_filterMap] at h
  rcases h with rfl | ⟨t, -, ht⟩
  · rfl
  · split at ht
    · cases ht; exact Nat.mul_mod_left _ _
    · cases ht

theorem roundedEnd_mem_tileBases {c : Ctx} {t : Tile} (h : t ∈ c.tiles.toList) (hv : t.valid = true) : t.roundedEnd ∈ tileBases c :=
  List.mem_cons_of_mem _ (List.mem_filterMap.2 ⟨t, h, if_pos hv⟩)

theorem spadFree_iff (c : Ctx) (b n : Nat) : spadFree c b n = true ↔
    b + n ≤ 2 ^ 23 ∧ ∀ t ∈ c.tiles.toList, t.valid = true → b + n ≤ t.base.toNat ∨ t.base.toNat + t.size.toNat ≤ b := by
  simp only [spadFree, Bool.and_eq_true, decide_eq_true_eq, List.all_eq_true, Bool.or_eq_true, Bool.not_eq_true', or_assoc]
  refine and_congr_right fun _ => forall₂_congr fun t _ => ?_
  cases t.valid <;> simp

/-- Below every free aligned base there is a free base that TALLOC considers: the last tile end before it. -/
theorem spadFree_considered {c : Ctx} {z n : Nat} (hz : z % 256 = 0) (h : spadFree c z n = true) :
    ∃ b ∈ tileBases c, b ≤ z ∧ spadFree c b n = true := by
  obtain ⟨hsize, hfree⟩ := (spadFree_iff c z n).1 h
  let below := (tileBases c).filter fun b => b ≤ z
  have hne : below ≠ [] := List.ne_nil_of_mem (List.mem_filter.2 ⟨List.mem_cons_self, by simp⟩)
  obtain ⟨b, hb⟩ : ∃ b, below.max? = some b := Option.isSome_iff_exists.1 (by
    rw [Option.isSome_iff_ne_none]; exact fun e => hne (List.max?_eq_none_iff.1 e))
  obtain ⟨hmem, hmax⟩ := List.max?_eq_some_iff.1 hb
  obtain ⟨hcon, hle⟩ := List.mem_filter.1 hmem
  have hle : b ≤ z := by simpa using hle
  refine ⟨b, hcon, hle, (spadFree_iff c b n).2 ⟨by omega, fun t ht hv => ?_⟩⟩
  rcases hfree t ht hv with hbefore | hafter
  · exact .inl (by omega)
  · have hround : t.roundedEnd ≤ z := by unfold Tile.roundedEnd; omega
    have := hmax _ (List.mem_filter.2 ⟨roundedEnd_mem_tileBases ht hv, by simpa using hround⟩)
    unfold Tile.roundedEnd at this
    exact .inr (by omega)

/-- A base is found wherever an aligned one is free, and it is the lowest. -/
theorem spadPlace_some {c : Ctx} {n : Nat} (h : ∃ base, base % 256 = 0 ∧ spadFree c base n = true) :
    ∃ base, spadPlace c n = some base ∧ base % 256 = 0 ∧ spadFree c base n = true ∧
      ∀ z, z < base → z % 256 = 0 → spadFree c z n = false := by
  obtain ⟨z, hz, hfree⟩ := h
  obtain ⟨b, hb, -, hbf⟩ := spadFree_considered hz hfree
  obtain ⟨base, hbase⟩ : ∃ base, spadPlace c n = some base := Option.isSome_iff_exists.1 (by
    rw [Option.isSome_iff_ne_none, spadPlace_eq]
    exact fun e => List.ne_nil_of_mem (List.mem_filter.2 ⟨hb, hbf⟩) (List.min?_eq_none_iff.1 e))
  obtain ⟨hmem, hmin⟩ := List.min?_eq_some_iff.1 hbase
  obtain ⟨hcon, hf⟩ := List.mem_filter.1 hmem
  refine ⟨base, hbase, tileBases_aligned hcon, hf, fun y hy hya => Bool.eq_false_iff.2 fun hyf => ?_⟩
  obtain ⟨b', hb', hle, hbf'⟩ := spadFree_considered hya hyf
  have := hmin _ (List.mem_filter.2 ⟨hb', hbf'⟩)
  omega

/-- No base is found where no aligned one is free. -/
theorem spadPlace_none {c : Ctx} {n : Nat} (h : ∀ base, base % 256 = 0 → spadFree c base n = false) : spadPlace c n = none := by
  rw [spadPlace_eq, List.min?_eq_none_iff, List.filter_eq_nil_iff]
  intro b hb
  simp [h b (tileBases_aligned hb)]

theorem describedTile_size {x y : W64} (h : TileLegal x y) : (describedTile x y).size.toNat = y.toNat := by
  obtain ⟨-, -, -, -, -, -, -, h, -⟩ := h
  exact (BitVec.toNat_ofNat ..).trans (Nat.mod_eq_of_lt (by omega))

/-- TALLOC of a handle that is in use, or of operands that are not legal. -/
theorem execTalloc_refused {s : State} {d a b : BitVec 5} {h : BitVec 8}
    (hr : ¬ TileLegal (s.me.rg a) (s.me.rg b) ∨ (s.me.tile h).valid = true) :
    exec (.talloc d a b h) s = s.trapR 0x18 (h.setWidth 64) := by
  classical
  have hdesc : (if (s.me.tile h).valid = true then none else tileDesc (s.me.rg a) (s.me.rg b)) = none := by
    rw [tileDesc_eq]
    split
    · rfl
    · next hv => exact if_neg (hr.resolve_right hv)
  show execTalloc d a b h s = _
  unfold execTalloc
  rw [hdesc]

/-- TALLOC of legal operands and a free handle looks for a base of the size. -/
theorem execTalloc_desc {s : State} {a b : BitVec 5} {h : BitVec 8} (hl : TileLegal (s.me.rg a) (s.me.rg b))
    (hv : (s.me.tile h).valid = false) :
    (if (s.me.tile h).valid = true then none else tileDesc (s.me.rg a) (s.me.rg b)) =
      some (describedTile (s.me.rg a) (s.me.rg b)) := by
  classical
  rw [if_neg (by simp [hv]), tileDesc_eq, if_pos hl]

theorem execTalloc_full {s : State} {d a b : BitVec 5} {h : BitVec 8} (hl : TileLegal (s.me.rg a) (s.me.rg b))
    (hv : (s.me.tile h).valid = false) (hp : spadPlace s.me (s.me.rg b).toNat = none) :
    exec (.talloc d a b h) s = s.trapR 0x19 (h.setWidth 64) := by
  show execTalloc d a b h s = _
  unfold execTalloc
  rw [execTalloc_desc hl hv]
  dsimp only
  rw [describedTile_size hl, hp]

theorem execTalloc_placed {s : State} {d a b : BitVec 5} {h : BitVec 8} {base : Nat} (hl : TileLegal (s.me.rg a) (s.me.rg b))
    (hv : (s.me.tile h).valid = false) (hp : spadPlace s.me (s.me.rg b).toNat = some base) :
    exec (.talloc d a b h) s = .next ({ s with me := (s.me.setTile h
      { describedTile (s.me.rg a) (s.me.rg b) with base := BitVec.ofNat 23 base }).wg d (BitVec.ofNat 64 base) false }).retireS := by
  show execTalloc d a b h s = _
  unfold execTalloc
  rw [execTalloc_desc hl hv]
  dsimp only
  rw [describedTile_size hl, hp]

/-- A tile entry and a register have been written. -/
theorem setTile_wg (s : State) (h : BitVec 8) (e : Tile) (d : BitVec 5) (v : W64) :
    let t := ({ s with me := (s.me.setTile h e).wg d v false } : State).retireS
    t.me.tile h = e ∧ GWrite s t d v false ∧
      ((∀ k, k ≠ h → t.me.tile k = s.me.tile k) ∧ GoesOn s.me.s t.me.s (s.me.s.pc + 4) s.cc ∧ SameBytes s t) ∧
      t = { s with me := { s.me with g := t.me.g, taint := t.me.taint, tiles := t.me.tiles, s := t.me.s } } := by
  have ht : ∀ k, (((s.me.setTile h e).wg d v false).tile k) = if k = h then e else s.me.tile k := fun k => by
    rw [← Ctx.setTile_tile]; simp [Ctx.tile]
  refine ⟨(ht h).trans (if_pos rfl), gWrite_wg ?_ ?_, ⟨fun k hk => (ht k).trans (if_neg hk), ?_, ?_⟩, ?_⟩
  · unfold Ctx.wg; split <;> rfl
  · unfold Ctx.wg; split <;> rfl
  · simpa [State.retireS] using s.me.s.next_goesOn (s.me.s.pc + 4) s.cc
  · exact sameBytes_of rfl (by simp) (by simp) rfl (by simp) (by simp)
  · unfold Ctx.wg; split <;> rfl

/-- A tile entry has been written. -/
theorem setTile_freed (s : State) (h : BitVec 8) (e : Tile) :
    let t := ({ s with me := s.me.setTile h e } : State).retireS
    t.me.tile h = e ∧
      ((∀ k, k ≠ h → t.me.tile k = s.me.tile k) ∧ GoesOn s.me.s t.me.s (s.me.s.pc + 4) s.cc ∧ SameBytes s t) ∧
      t = { s with me := { s.me with tiles := t.me.tiles, s := t.me.s } } :=
  ⟨(s.me.setTile_tile h h e).trans (if_pos rfl), ⟨fun k hk => (s.me.setTile_tile h k e).trans (if_neg hk),
    s.me.s.next_goesOn _ _, sameBytes_of rfl rfl rfl rfl rfl rfl⟩, rfl⟩

/-- Settles O16: TALLOC by the lowest free base among the ends of tiles, which no aligned free base lies below. -/
theorem tilesAreAllocatedAndFreed : Obligations.TilesAreAllocatedAndFreed := by
  intro s d a b h half x n level fmt slots legal rest
  refine ⟨fun hl hv hfree => ?_, fun hh => ⟨fun hbad => completes_trap (execTalloc_refused hbad) hh (by decide),
    fun hl hv hfull => completes_trap (execTalloc_full hl hv (spadPlace_none hfull)) hh (by decide),
    fun hv => completes_trap (if_pos (by simp [hv])) hh (by decide)⟩,
    fun hv hb => ⟨_, (if_neg (by simp [hv])).trans (if_neg (not_not.2 hb)), setTile_freed s h _⟩,
    fun hv hb => ⟨_, (if_neg (by simp [hv])).trans (if_pos hb), s.holdS_held 7 h.toNat⟩, fun hh => ?_⟩
  · obtain ⟨base, hplace, halign, hf, hlow⟩ := spadPlace_some hfree
    obtain ⟨htile, hg, hrest, hframe⟩ := setTile_wg s h { describedTile x (s.me.rg b) with base := BitVec.ofNat 23 base } d
      (BitVec.ofNat 64 base)
    exact ⟨_, execTalloc_placed hl hv hplace, base, halign, hf, hlow, htile, hg, hrest, hframe⟩
  · refine ⟨_, rfl, _, ?_, s.putS_wrote d _ false 0⟩
    rw [BitVec.toNat_ofNat]
    rcases hh with rfl | rfl
    · simp
    · simp

end Sys2Proof.Machine
end

section
namespace Sys2Proof.Machine

/-! ## Control registers (R29, R32, R34, R35, R129) -/

theorem bv3_cases : ∀ k : BitVec 3, k = 0 ∨ k = 1 ∨ k = 2 ∨ k = 3 ∨ k = 4 ∨ k = 5 ∨ k = 6 ∨ k = 7 := by decide

/-- An entry read with a default is the entry. -/
theorem toArray_getD_vector {α : Type} {n : Nat} (v : Vector α n) (k : Nat) (d : α) (h : k < n) : v.toArray.getD k d = v[k] := by
  simp [Array.getD, h]

/-- The BTCFG registers. -/
theorem csrRead_btcfg (s : State) (k : BitVec 3) :
    csrRead s ((0x050 : BitVec 12) + k.setWidth 12).toNat = some ((s.myInst.btcfg[k.toNat]).setWidth 64) := by
  rw [← toArray_getD_vector _ _ 0 k.isLt]
  rcases bv3_cases k with rfl | rfl | rfl | rfl | rfl | rfl | rfl | rfl <;> rfl

/-- The BTCNT registers. -/
theorem csrRead_btcnt (s : State) (k : BitVec 3) :
    csrRead s ((0x058 : BitVec 12) + k.setWidth 12).toNat = some ((s.myInst.btcnt[k.toNat]).setWidth 64) := by
  rw [← toArray_getD_vector _ _ 0 k.isLt]
  rcases bv3_cases k with rfl | rfl | rfl | rfl | rfl | rfl | rfl | rfl <;> rfl

/-- A selector that R32 does not assign. -/
theorem csrRead_unassigned {s : State} {n : Nat}
    (h : n ∉ ([0, 1, 2, 3, 4, 5, 6, 0x10, 0x11, 0x20, 0x21, 0x22, 0x23, 0x24, 0x25, 0x26, 0x28, 0x30, 0x31, 0x32,
      0x33, 0x40, 0x60] ++ (List.range 16).map (0x50 + ·) : List Nat)) : csrRead s n = none := by
  have hr : ¬ (0x50 ≤ n ∧ n < 0x60) := fun ⟨h1, h2⟩ =>
    h (List.mem_append_right _ (List.mem_map.2 ⟨n - 0x50, List.mem_range.2 (by omega), by omega⟩))
  have hl := fun hm => h (List.mem_append_left _ hm)
  unfold csrRead
  split
  case h_24 =>
    exact (if_neg fun ⟨h1, h2⟩ => hr ⟨h1, by omega⟩).trans (if_neg fun ⟨h1, h2⟩ => hr ⟨by omega, h2⟩)
  all_goals exact absurd (by decide) hl

/-- MODDEF's reserved values (R34, R35). -/
theorem moddefOk_iff (v : W64) : moddefOk v = true ↔
    v.toNat < 2 ^ 16 ∧ v.getLsbD 12 = false ∧ v.getLsbD 0 = false ∧ 2 ≤ v.toNat / 2 ^ 13 ∧
      v.toNat / 2 ^ 9 % 8 ≤ 4 ∧ v.toNat / 2 ^ 5 % 4 ≠ 3 ∧ v.toNat / 2 ^ 2 % 8 ≤ 3 := by
  have hv := v.isLt
  have h1 : v.extractLsb' 16 48 = 0 ↔ v.toNat < 2 ^ 16 := by
    rw [← BitVec.toNat_inj, BitVec.extractLsb'_toNat, Nat.shiftRight_eq_div_pow]; simp; omega
  have h2 : v.extractLsb' 5 2 ≠ 3 ↔ v.toNat / 2 ^ 5 % 4 ≠ 3 := by
    rw [ne_eq, ← BitVec.toNat_inj, BitVec.extractLsb'_toNat, Nat.shiftRight_eq_div_pow]; simp
  simp only [moddefOk, Bool.and_eq_true, decide_eq_true_eq, Bool.not_eq_true', h1, h2, BitVec.extractLsb'_toNat,
    Nat.shiftRight_eq_div_pow, and_assoc]
  constructor
  · rintro ⟨a, b, c, d, e⟩
    exact ⟨a, b, c, by omega, e⟩
  · rintro ⟨a, b, c, d, e⟩
    exact ⟨a, b, c, by omega, e⟩

theorem nflags_legal (v : W64) : v.extractLsb' 8 56 = 0 ↔ v.toNat < 256 := by
  have hv := v.isLt
  rw [← BitVec.toNat_inj, BitVec.extractLsb'_toNat, Nat.shiftRight_eq_div_pow]; simp; omega

/-- A selector that is unassigned or read-only. -/
theorem csrWrite_illegal {c : Ctx} {n : BitVec 12} (v : W64)
    (h : n ∉ ([0x010, 0x011, 0x020, 0x021, 0x028] : List (BitVec 12))) : csrWrite c n.toNat v = .illegal := by
  simp only [List.mem_cons, List.not_mem_nil, or_false, not_or, ← BitVec.toNat_inj] at h
  obtain ⟨h1, h2, h3, h4, h5⟩ := h
  unfold csrWrite
  split
  case h_6 => rfl
  all_goals contradiction

/-- A write that a control register takes: the context is q but for the S stream, which goes on. -/
theorem putCsr_ok {s : State} {n : BitVec 12} {v : W64} {q : Ctx} (h : csrWrite s.me n.toNat v = .ok q) (hs : q.s = s.me.s) :
    ∃ t, s.putCsr n v = .next t ∧ GoesOn s.me.s t.me.s (s.me.s.pc + 4) s.cc ∧ t = { s with me := { q with s := t.me.s } } :=
  ⟨({ s with me := q } : State).retireS, by unfold State.putCsr; rw [h], by
    show GoesOn _ (q.s.next (q.s.pc + 4) s.cc) _ _
    rw [hs]; exact s.me.s.next_goesOn _ _, rfl⟩

theorem putCsr_illegal {s : State} {n : BitVec 12} {v : W64} (h : csrWrite s.me n.toNat v = .illegal) :
    s.putCsr n v = s.trapR 0x01 s.me.s.restart := by unfold State.putCsr; rw [h]

theorem putCsr_reserved {s : State} {n : BitVec 12} {v : W64} (h : csrWrite s.me n.toNat v = .reserved) :
    s.putCsr n v = s.trapR 0x02 s.me.s.restart := by unfold State.putCsr; rw [h]

/-- CSRS writes what CSRW would write with the old value and the immediate added. -/
theorem execCsrs_eq {s : State} {n : BitVec 12} {old : W64} (h : csrRead s n.toNat = some old) (x : BitVec 5) (i : BitVec 8) :
    exec (.csrs x n i) s = s.putCsr n (old ||| s.me.rg x ||| i.setWidth 64) := by
  show s.putCsr n ((csrRead s n.toNat).getD 0 ||| _ ||| _) = _
  rw [h]; rfl

/-- Settles O18: every register has its reading; CSRW and CSRS are one write, of a value that is legal, reserved or refused. -/
theorem controlRegistersReadAndWrite : Obligations.ControlRegistersReadAndWrite := by
  intro s d x n i k c word regs assigned legal writes traps or
  have reads : ∀ p, p ∈ regs → csrRead s p.1.toNat = some p.2 := by
    intro p hp
    simp only [regs, List.mem_cons, List.not_mem_nil, or_false] at hp
    rcases hp with rfl | rfl | rfl | rfl | rfl | rfl | rfl | rfl | rfl | rfl | rfl | rfl | rfl | rfl | rfl | rfl | rfl | rfl |
      rfl | rfl | rfl | rfl | rfl | rfl | rfl
    case inr.inr.inr.inr.inr.inr.inr.inr.inr.inr.inr.inr.inr.inr.inr.inr.inr.inr.inr.inr.inr.inr.inr.inl =>
      exact csrRead_btcfg s k
    case inr.inr.inr.inr.inr.inr.inr.inr.inr.inr.inr.inr.inr.inr.inr.inr.inr.inr.inr.inr.inr.inr.inr.inr =>
      exact csrRead_btcnt s k
    all_goals rfl
  have writes_of : ∀ v m q, csrWrite s.me m.toNat v = .ok q → q.s = s.me.s → writes v m q := by
    refine fun v m q hq hs => ⟨fun hv => ?_, fun old ho hv => ?_⟩
    · subst hv; exact putCsr_ok hq hs
    · obtain ⟨t, ht, hp⟩ := putCsr_ok hq hs
      exact ⟨t, (execCsrs_eq (reads _ ho) x i).trans (hv ▸ ht), hp⟩
  have moddef_reserved : ∀ v, ¬ legal v → csrWrite s.me 0x010 v = .reserved := fun v hv =>
    if_neg fun h => hv ((moddefOk_iff v).1 h)
  have nflags_reserved : ∀ v : W64, 256 ≤ v.toNat → csrWrite s.me 0x011 v = .reserved := fun v hv =>
    if_neg fun h => absurd ((nflags_legal v).1 h) (by omega)
  refine ⟨fun p hp => completes_putS ?_, fun hn hh => completes_trap ?_ hh (by decide),
    fun v hv => writes_of v 0x010 _ (if_pos ((moddefOk_iff v).2 hv)) rfl,
    fun v hv => writes_of v 0x011 _ (if_pos ((nflags_legal v).2 hv)) rfl,
    fun v => writes_of v 0x020 _ rfl rfl, fun v => writes_of v 0x021 _ rfl rfl, fun v => writes_of v 0x028 _ rfl rfl,
    fun hv hh => completes_trap (putCsr_reserved (moddef_reserved _ hv)) hh (by decide),
    fun hv hh => completes_trap (putCsr_reserved (nflags_reserved _ hv)) hh (by decide),
    fun hv hh => completes_trap ((execCsrs_eq rfl x i).trans (putCsr_reserved (moddef_reserved _ hv))) hh (by decide),
    fun hv hh => completes_trap ((execCsrs_eq rfl x i).trans (putCsr_reserved (nflags_reserved _ hv))) hh (by decide),
    fun hn => ⟨fun hh => completes_trap (putCsr_illegal (csrWrite_illegal _ hn)) hh (by decide),
      fun hh => completes_trap (putCsr_illegal (csrWrite_illegal _ hn)) hh (by decide)⟩⟩
  · show execCsrr d p.1 s = _
    unfold execCsrr
    rw [reads p hp]
  · show execCsrr d n s = _
    unfold execCsrr
    rw [csrRead_unassigned hn]

end Sys2Proof.Machine
end

section
namespace Sys2Proof.Machine

/-! ## Lanes and masks (R14, R15, R132) -/

/-- A number packed from fields of w bits. -/
theorem packNat_lt (w : Nat) (l : List Nat) (h : ∀ x ∈ l, x < 2 ^ w) : packNat w l < 2 ^ (w * l.length) := by
  induction l with
  | nil => simp [packNat]
  | cons x l ih =>
    have hx := h x List.mem_cons_self
    have ih := ih fun y hy => h y (List.mem_cons_of_mem _ hy)
    show x + 2 ^ w * packNat w l < 2 ^ (w * (l.length + 1))
    calc x + 2 ^ w * packNat w l < 2 ^ w * (packNat w l + 1) := by rw [Nat.mul_add]; omega
      _ ≤ 2 ^ w * 2 ^ (w * l.length) := Nat.mul_le_mul_left _ ih
      _ = 2 ^ (w * (l.length + 1)) := by rw [← Nat.pow_add, Nat.mul_add, Nat.mul_one, Nat.add_comm]

/-- Field j of the number is entry j of the list. -/
theorem packNat_field (w : Nat) (l : List Nat) (h : ∀ x ∈ l, x < 2 ^ w) (j : Nat) (hj : j < l.length) :
    packNat w l / 2 ^ (w * j) % 2 ^ w = l[j] := by
  induction l generalizing j with
  | nil => simp at hj
  | cons x l ih =>
    have hx := h x List.mem_cons_self
    show (x + 2 ^ w * packNat w l) / 2 ^ (w * j) % 2 ^ w = _
    cases j with
    | zero => simp [Nat.mod_eq_of_lt hx]
    | succ j =>
      rw [Nat.mul_succ, Nat.add_comm (w * j), Nat.pow_add, ← Nat.div_div_eq_div_mul, Nat.add_mul_div_left _ _ (Nat.two_pow_pos w),
        Nat.div_eq_of_lt hx, Nat.zero_add]
      exact ih (fun y hy => h y (List.mem_cons_of_mem _ hy)) j (by simpa using hj)

/-- A lane of a register that is given by its lanes. -/
theorem lane_ofLanes (l : List W32) (hl : l.length = 256) (j : Nat) (hj : j < 256) : lane (ofLanes l) j = l[j] := by
  have hlt : ∀ x ∈ l.map (·.toNat), x < 2 ^ 32 := by
    intro x hx
    obtain ⟨w, -, rfl⟩ := List.mem_map.1 hx
    exact w.isLt
  have hp := packNat_lt 32 _ hlt
  have hf := packNat_field 32 _ hlt j (by simpa [hl] using hj)
  rw [List.length_map, hl] at hp
  rw [List.getElem_map] at hf
  refine BitVec.eq_of_toNat_eq ?_
  unfold lane ofLanes
  rw [BitVec.extractLsb'_toNat, BitVec.toNat_ofNat, Nat.mod_eq_of_lt hp, Nat.shiftRight_eq_div_pow, hf]

/-- A bit of a mask that is given by its bits. -/
theorem packMask_bit (f : Nat → Bool) (j : Nat) (hj : j < 256) : (packMask f).getLsbD j = f j := by
  have hlt : ∀ x ∈ (List.range 256).map fun j => if f j then 1 else 0, x < 2 ^ 1 := by
    intro x hx
    obtain ⟨n, -, rfl⟩ := List.mem_map.1 hx
    split <;> decide
  have hf := packNat_field 1 _ hlt j (by simpa using hj)
  rw [List.getElem_map, List.getElem_range, Nat.one_mul, Nat.pow_one] at hf
  unfold packMask
  rw [BitVec.getLsbD_ofNat, decide_eq_true hj, Bool.true_and, Nat.testBit_eq_decide_div_mod_eq, hf]
  cases f j <;> rfl

/-- The union of the flags of a list. -/
theorem foldl_or_bit {α : Type} {w : Nat} (g : α → BitVec w) (l : List α) (x : BitVec w) (i : Nat) :
    (l.foldl (fun a y => a ||| g y) x).getLsbD i = true ↔ x.getLsbD i = true ∨ ∃ y ∈ l, (g y).getLsbD i = true := by
  induction l generalizing x with
  | nil => simp
  | cons y l ih => simp [ih, BitVec.getLsbD_or, or_assoc]

/-- The lanes that a masked map leaves: the enabled ones take their values (R15). -/
theorem laneMap_lane (old : VReg) (mask : MReg) (f : Nat → W32 × Flags) (j : Nat) (hj : j < 256) :
    lane (laneMap old mask f).1 j = if mask.getLsbD j then (f j).1 else lane old j := by
  unfold laneMap
  rw [lane_ofLanes _ (by simp) j hj]
  simp only [List.getElem_map, List.getElem_range]
  split <;> rfl

/-- The flags that it raises: those of the enabled lanes. -/
theorem laneMap_flags (old : VReg) (mask : MReg) (f : Nat → W32 × Flags) (i : Nat) :
    (laneMap old mask f).2.getLsbD i = true ↔ ∃ j, j < 256 ∧ mask.getLsbD j = true ∧ (f j).2.getLsbD i = true := by
  unfold laneMap
  rw [foldl_or_bit]
  have h0 : (0 : Flags).getLsbD i = false := BitVec.getLsbD_zero
  simp only [h0, Bool.false_eq_true, false_or, List.mem_map, List.mem_range, exists_exists_and_eq_and]
  refine exists_congr fun j => and_congr_right fun _ => ?_
  split <;> simp_all

theorem Cluster.mreg_of_ne (k : Cluster) {r : BitVec 3} (h : r ≠ 0) :
    k.mreg r = k.m[r.toNat - 1]'(by have := r.isLt; omega) := dif_neg h

/-- An m register after one is written; m0 is all lanes (R15). -/
theorem Cluster.setM_mreg (k : Cluster) {r : BitVec 3} (hr : r ≠ 0) (q : BitVec 3) (x : MReg) :
    (k.setM r x).mreg q = if q = r then x else k.mreg q := by
  by_cases hq : q = 0
  · subst hq
    rw [if_neg (Ne.symm hr)]
    rfl
  · have hm : (k.setM r x).m = k.m.set (r.toNat - 1) x (by have := r.isLt; omega) := if_neg hr
    have hne : q.toNat ≠ 0 ∧ r.toNat ≠ 0 := ⟨fun e => hq (BitVec.eq_of_toNat_eq e), fun e => hr (BitVec.eq_of_toNat_eq e)⟩
    rw [Cluster.mreg_of_ne _ hq, Cluster.mreg_of_ne _ hq]
    simp only [hm, Vector.getElem_set]
    by_cases h : q = r
    · rw [if_pos (by rw [h]), if_pos h]
    · rw [if_neg fun e => h (BitVec.eq_of_toNat_eq (by omega)), if_neg h]

@[simp] theorem Cluster.setM_vreg (k : Cluster) (r : BitVec 3) (q : BitVec 6) (x : MReg) : (k.setM r x).vreg q = k.vreg q := rfl
@[simp] theorem Cluster.setV_m (k : Cluster) (r : BitVec 6) (x : VReg) : (k.setV r x).m = k.m := rfl

/-! ## What a V instruction does in its clusters (R132, R133) -/

theorem State.mem_vClusters (s : State) (k : BitVec 4) : k ∈ s.vClusters ↔ Runs s k := by
  unfold State.vClusters Runs
  split
  · next h => simp [h]
  · next h =>
    simp only [h, Bool.false_eq_true, IsEmpty.forall_iff, iff_true, List.mem_map, List.mem_range]
    exact ⟨k.toNat, k.isLt, by simp⟩

/-- Every running cluster takes what its function gives from the registers as they stood; the flags are those of all of them. -/
theorem vApply_foldl (v : VState) (f : BitVec 4 → Cluster → Cluster × Flags) (l : List (BitVec 4)) (r : VState × Flags) :
    let t := l.foldl (fun (r : VState × Flags) k => (r.1.setCluster k (f k (v.cluster k)).1, r.2 ||| (f k (v.cluster k)).2)) r
    t.1 = { r.1 with cl := t.1.cl } ∧ (∀ q, t.1.cluster q = if q ∈ l then (f q (v.cluster q)).1 else r.1.cluster q) ∧
      ∀ i, t.2.getLsbD i = true ↔ r.2.getLsbD i = true ∨ ∃ k ∈ l, (f k (v.cluster k)).2.getLsbD i = true := by
  induction l generalizing r with
  | nil => simp
  | cons k l ih =>
    obtain ⟨h1, h2, h3⟩ := ih (r.1.setCluster k (f k (v.cluster k)).1, r.2 ||| (f k (v.cluster k)).2)
    refine ⟨by rw [List.foldl_cons, h1]; rfl, fun q => ?_, fun i => ?_⟩
    · rw [List.foldl_cons, h2, VState.setCluster_cluster]
      by_cases hl : q ∈ l
      · simp [hl]
      · by_cases hk : q = k
        · subst hk; simp [hl]
        · simp [hl, hk]
    · rw [List.foldl_cons, h3]
      simp [BitVec.getLsbD_or, or_assoc]

theorem State.vApply_only (s : State) (f : BitVec 4 → Cluster → Cluster × Flags) :
    (s.vApply f).1 = { s.me.v with cl := (s.vApply f).1.cl } :=
  (vApply_foldl s.me.v f s.vClusters (s.me.v, 0)).1

open Classical in
theorem State.vApply_cluster (s : State) (f : BitVec 4 → Cluster → Cluster × Flags) (q : BitVec 4) :
    (s.vApply f).1.cluster q = if Runs s q then (f q (s.me.v.cluster q)).1 else s.me.v.cluster q := by
  rw [show (s.vApply f).1.cluster q = _ from (vApply_foldl s.me.v f s.vClusters (s.me.v, 0)).2.1 q]
  simp only [State.mem_vClusters]

theorem State.vApply_flags (s : State) (f : BitVec 4 → Cluster → Cluster × Flags) (i : Nat) :
    (s.vApply f).2.getLsbD i = true ↔ ∃ k, Runs s k ∧ (f k (s.me.v.cluster k)).2.getLsbD i = true := by
  rw [show (s.vApply f).2.getLsbD i = true ↔ _ from (vApply_foldl s.me.v f s.vClusters (s.me.v, 0)).2.2 i]
  simp [State.mem_vClusters]

/-- From `v` to `w` only v and m registers have changed. -/
structure RegsOnly (v w : VState) : Prop where
  only : w = { v with cl := w.cl }
  st : ∀ k, (w.cluster k).st = (v.cluster k).st
  join : ∀ k, (w.cluster k).join = (v.cluster k).join

/-- A cluster's function that writes v and m registers alone keeps the rest of the engine. -/
theorem State.vApply_regsOnly (s : State) (f : BitVec 4 → Cluster → Cluster × Flags)
    (h : ∀ k c, (f k c).1.st = c.st ∧ (f k c).1.join = c.join) : RegsOnly s.me.v (s.vApply f).1 where
  only := s.vApply_only f
  st k := by rw [s.vApply_cluster]; split; exacts [(h k _).1, rfl]
  join k := by rw [s.vApply_cluster]; split; exacts [(h k _).2, rfl]

/-- The V stream's instruction is in lockstep on the engine stream, and in the acting cluster while forked (R132). -/
theorem State.strm_v {s : State} (h : s.cur.st = .v) :
    s.strm = if s.me.v.forked then (s.me.v.cluster s.cur.cl).st else s.me.e := by
  unfold State.strm; rw [h]; rfl

theorem State.setStrm_v {s : State} (h : s.cur.st = .v) (st : Strm) :
    s.setStrm st = if s.me.v.forked then
        { s with me := { s.me with v := s.me.v.setCluster s.cur.cl { s.me.v.cluster s.cur.cl with st := st } } }
      else { s with me := { s.me with e := st } } := by
  unfold State.setStrm; rw [h]; rfl

/-- The stream that acts is found in its context's streams and in nothing else. -/
theorem State.strm_congr {s t : State} (hc : t.cur = s.cur) (hs : t.me.s = s.me.s) (he : t.me.e = s.me.e) (hcc : t.me.c = s.me.c)
    (hf : t.me.v.forked = s.me.v.forked) (hv : ∀ k, (t.me.v.cluster k).st = (s.me.v.cluster k).st) : t.strm = s.strm := by
  have hcl := hv s.cur.cl
  unfold VState.cluster at hcl
  unfold State.strm
  simp only [hc, hs, he, hcc, hf, hcl]

/-- The state of an executed V instruction: its registers, and the V engine's bookkeeping. -/
theorem State.vDone_did (s : State) (v : VState) (f : Flags) (hc : s.cur.st = .v) (hv : RegsOnly s.me.v v) :
    VDid s s.me (s.vDone v f none) f none ∧ SameBytes s (s.vDone v f none) ∧
      ∀ k, ((s.vDone v f none).me.v.cluster k).v = (v.cluster k).v ∧ ((s.vDone v f none).me.v.cluster k).m = (v.cluster k).m := by
  obtain ⟨honly, hst, hjoin⟩ := hv
  generalize v.cl = cl at honly
  subst honly
  let p : VPend := { seq := s.strm.seq, flags := f.setWidth 32, handle := none }
  let w : VState := { s.me.v with cl := cl, pend := s.me.v.pend ++ [p] }
  let next := s.strm.next (s.strm.pc + 4) s.cc
  have hstrm : ({ s with me := { s.me with v := w } } : State).strm = s.strm := State.strm_congr rfl rfl rfl rfl rfl hst
  have hdone : s.vDone { s.me.v with cl := cl } f none = ({ s with me := { s.me with v := w } } : State).setStrm next := by
    show State.setStrm _ (Strm.next _ _ _) = _
    rw [hstrm]
  have hgoes : GoesOn s.strm (({ s with me := { s.me with v := w } } : State).setStrm next).strm (s.strm.pc + 4) s.cc := by
    rw [State.setStrm_strm]; exact s.strm.next_goesOn _ _
  have hbytes : SameBytes s (({ s with me := { s.me with v := w } } : State).setStrm next) :=
    sameBytes_of (by simp) (by simp) (by simp) (by simp) (by simp) (by simp)
  rw [hdone]
  rw [State.setStrm_v (s := { s with me := { s.me with v := w } }) hc] at hgoes hbytes ⊢
  by_cases hf : s.me.v.forked = true
  · rw [if_pos hf] at hgoes hbytes ⊢
    have hcl : ∀ k, (w.setCluster s.cur.cl { w.cluster s.cur.cl with st := next }).cluster k =
        if k = s.cur.cl then { w.cluster s.cur.cl with st := next } else w.cluster k := fun k => VState.setCluster_cluster ..
    refine ⟨⟨hgoes, rfl, fun _ => rfl, fun k => ?_, fun k hk => ?_, fun x => rfl⟩, hbytes, fun k => ?_⟩
    · show Cluster.join (VState.cluster _ k) = _
      rw [hcl]; split
      · next h => rw [h]; exact hjoin _
      · exact hjoin _
    · show Cluster.st (VState.cluster _ k) = _
      rw [hcl, if_neg (hk.resolve_left (by simp [hf]))]; exact hst _
    · show Cluster.v (VState.cluster _ k) = _ ∧ Cluster.m (VState.cluster _ k) = _
      rw [hcl]; split
      · next h => rw [h]; exact ⟨rfl, rfl⟩
      · exact ⟨rfl, rfl⟩
  · rw [if_neg hf] at hgoes hbytes ⊢
    exact ⟨⟨hgoes, rfl, fun h => absurd h hf, hjoin, fun k _ => hst k, fun x => rfl⟩, hbytes, fun k => ⟨rfl, rfl⟩⟩

end Sys2Proof.Machine
end

section
namespace Sys2Proof.Machine

/-! ## Lane and mask instructions (R15, R134, R147, R148) -/

/-- The function by which a lane instruction changes a running cluster. -/
def laneFn (d : BitVec 6) (k : BitVec 3) (f : BitVec 4 → Cluster → Nat → W32 × Flags) (n : BitVec 4) (c : Cluster) : Cluster × Flags :=
  let r := laneMap (c.vreg d) (c.mreg k) (f n c)
  (c.setV d r.1, r.2)

/-- The lanes and registers that a lane instruction leaves in its clusters, wherever its state keeps the registers. -/
theorem vApply_lanes (s : State) (d : BitVec 6) (k : BitVec 3) (f : BitVec 4 → Cluster → Nat → W32 × Flags) (t : State)
    (ht : ∀ q, (t.me.v.cluster q).v = ((s.vApply (laneFn d k f)).1.cluster q).v ∧
      (t.me.v.cluster q).m = ((s.vApply (laneFn d k f)).1.cluster q).m) :
    Lanes s t d k (fun n j => (f n (s.me.v.cluster n) j).1) ∧ OnlyV s t [d] := by
  have hv : ∀ q r, (t.me.v.cluster q).vreg r = ((s.vApply (laneFn d k f)).1.cluster q).vreg r := fun q r => by
    unfold Cluster.vreg; rw [(ht q).1]
  refine ⟨fun q hq j hj => ?_, fun q => ⟨?_, fun r hr => ?_⟩⟩
  · rw [hv, s.vApply_cluster, if_pos hq]
    show lane (((s.me.v.cluster q).setV d _).vreg d) j = _
    rw [Cluster.setV_vreg, if_pos rfl, laneMap_lane _ _ _ _ hj]
  · rw [(ht q).2, s.vApply_cluster]
    split <;> rfl
  · rw [hv, s.vApply_cluster]
    by_cases hq : Runs s q
    · rw [if_pos hq]
      show ((s.me.v.cluster q).setV d _).vreg r = _
      rw [Cluster.setV_vreg, if_neg (by simpa [hq] using hr)]
    · rw [if_neg hq]

theorem laneFn_keeps (d : BitVec 6) (k : BitVec 3) (f : BitVec 4 → Cluster → Nat → W32 × Flags) (n : BitVec 4) (c : Cluster) :
    (laneFn d k f n c).1.st = c.st ∧ (laneFn d k f n c).1.join = c.join := ⟨rfl, rfl⟩

/-- A lane instruction takes each enabled lane's value and its flags from the registers as they stood. -/
theorem vLanes_op (s : State) (d : BitVec 6) (k : BitVec 3) (f : BitVec 4 → Cluster → Nat → W32 × Flags) (hc : s.cur.st = .v) :
    ∃ t, s.vLanes d k f = .next t ∧ LaneOp s d k (fun n j => f n (s.me.v.cluster n) j) t := by
  obtain ⟨hdid, hbytes, hregs⟩ := s.vDone_did (s.vApply (laneFn d k f)).1 (s.vApply (laneFn d k f)).2 hc
    (s.vApply_regsOnly _ (laneFn_keeps d k f))
  obtain ⟨hl, ho⟩ := vApply_lanes s d k f _ hregs
  refine ⟨_, rfl, hl, ho, ⟨_, fun i => ?_, hdid⟩, hbytes⟩
  rw [s.vApply_flags]
  simp only [laneFn, laneMap_flags]
  exact ⟨fun ⟨q, hq, j, hj, hm, hf⟩ => ⟨q, j, hq, hj, hm, hf⟩, fun ⟨q, j, hq, hj, hm, hf⟩ => ⟨q, hq, j, hj, hm, hf⟩⟩

/-- An instruction that is a lane instruction of this function. -/
theorem completes_vLanes {i : Instr} {s : State} {d : BitVec 6} {k : BitVec 3} {f : BitVec 4 → Cluster → Nat → W32 × Flags}
    {g : BitVec 4 → Nat → W32 × Flags} (hc : s.cur.st = .v) (h : exec i s = s.vLanes d k f)
    (hg : ∀ n j, f n (s.me.v.cluster n) j = g n j) : Completes i s (LaneOp s d k g) := by
  obtain ⟨t, ht, hop⟩ := vLanes_op s d k f hc
  rw [funext fun n => funext fun j => hg n j] at hop
  exact ⟨t, h.trans ht, hop⟩

/-- The function by which a mask instruction changes a running cluster. -/
def maskFn (d k : BitVec 3) (f : Cluster → Nat → Bool) (_ : BitVec 4) (c : Cluster) : Cluster × Flags :=
  (c.setM d (packMask fun j => if (c.mreg k).getLsbD j then f c j else (c.mreg d).getLsbD j), 0)

/-- A mask instruction takes the selected bits from the registers as they stood; it raises no flag. -/
theorem vMask_op (s : State) {d : BitVec 3} (hd : d ≠ 0) (k : BitVec 3) (f : Cluster → Nat → Bool) (hc : s.cur.st = .v) :
    ∃ t, s.vMask d k f = .next t ∧ MaskOp s d k (fun n j => f (s.me.v.cluster n) j) t := by
  obtain ⟨hdid, hbytes, hregs⟩ := s.vDone_did (s.vApply (maskFn d k f)).1 (s.vApply (maskFn d k f)).2 hc
    (s.vApply_regsOnly _ fun n c => ⟨rfl, rfl⟩)
  have hflags : (s.vApply (maskFn d k f)).2 = 0 := BitVec.eq_of_getLsbD_eq fun i _ => by
    have h0 : (0 : Flags).getLsbD i = false := BitVec.getLsbD_zero
    rw [h0, Bool.eq_false_iff, ne_eq, s.vApply_flags]
    rintro ⟨q, -, hq⟩
    exact absurd (h0.symm.trans hq) (by decide)
  refine ⟨s.vDone (s.vApply (maskFn d k f)).1 (s.vApply (maskFn d k f)).2 none, rfl, ?_⟩
  generalize s.vDone (s.vApply (maskFn d k f)).1 (s.vApply (maskFn d k f)).2 none = t at hdid hbytes hregs ⊢
  rw [hflags] at hdid
  have hm : ∀ q r, (t.me.v.cluster q).mreg r = ((s.vApply (maskFn d k f)).1.cluster q).mreg r := fun q r => by
    unfold Cluster.mreg; rw [(hregs q).2]
  refine ⟨fun q => ⟨fun r => ?_, fun r hr => ?_, fun hq j hj => ?_⟩, hdid, hbytes⟩
  · unfold Cluster.vreg
    rw [(hregs q).1, s.vApply_cluster]
    split <;> rfl
  · rw [hm, s.vApply_cluster]
    by_cases hq : Runs s q
    · rw [if_pos hq]
      show ((s.me.v.cluster q).setM d _).mreg r = _
      rw [Cluster.setM_mreg _ hd, if_neg (by simpa [hq] using hr)]
    · rw [if_neg hq]
  · rw [hm, s.vApply_cluster, if_pos hq]
    show (((s.me.v.cluster q).setM d _).mreg d).getLsbD j = _
    rw [Cluster.setM_mreg _ hd, if_pos rfl, packMask_bit _ _ hj]

/-- An instruction that is a mask instruction of this function. -/
theorem completes_vMask {i : Instr} {s : State} {d k : BitVec 3} {f : Cluster → Nat → Bool} {g : BitVec 4 → Nat → Bool}
    (hc : s.cur.st = .v) (hd : d ≠ 0) (h : exec i s = s.vMask d k f) (hg : ∀ n j, f (s.me.v.cluster n) j = g n j) :
    Completes i s (MaskOp s d k g) := by
  obtain ⟨t, ht, hop⟩ := vMask_op s hd k f hc
  rw [funext fun n => funext fun j => hg n j] at hop
  exact ⟨t, h.trans ht, hop⟩

/-- The number of one bits, counted as a list. -/
theorem popcount_eq {w : Nat} (x : BitVec w) (n : Nat) : popcount x n = ((List.range n).filter x.getLsbD).length := by
  induction n with
  | zero => rfl
  | succ n ih =>
    show (if x.getLsbD n then 1 else 0) + popcount x n = _
    rw [List.range_succ, List.filter_append, List.length_append, ← ih, Nat.add_comm]
    cases h : x.getLsbD n <;> simp [h]

/-- Settles O23: each instruction is a lane or a mask instruction of a function that is read off its definition. -/
theorem lanesMoveAndMasksCombine : Obligations.LanesMoveAndMasksCombine := by
  refine ⟨fun s d a b k m f l hc => ?_, fun s d a b k r hc hd => ?_⟩
  · refine ⟨completes_vLanes hc rfl fun _ _ => rfl, completes_vLanes hc rfl fun _ _ => rfl, completes_vLanes hc rfl fun _ _ => rfl,
      fun hf => completes_vLanes hc rfl fun n j => ?_, fun hf => completes_vLanes hc rfl fun n j => ?_,
      fun hf => completes_vLanes hc rfl fun n j => ?_, fun hf => completes_vLanes hc rfl fun n j => ?_,
      fun hf => completes_vLanes hc rfl fun n j => ?_, fun hf => completes_vLanes hc (if_neg (by simp [hf])) fun _ _ => rfl,
      completes_vLanes hc rfl fun n j => ?_, completes_vLanes hc rfl fun n j => ?_,
      fun hf hh => completes_trap (if_pos hf) hh (by decide)⟩
    · subst hf
      show (if j % 2 = 0 then _ else _, _) = (if j % 2 = 0 then _ else _, _)
      by_cases hj : j % 2 = 0
      · rw [if_pos hj, if_pos hj]
      · rw [if_neg hj, if_neg hj, show (j - 1) / 2 = j / 2 by omega]
    · subst hf
      show (if j % 2 = 0 then _ else _, _) = (if j % 2 = 0 then _ else _, _)
      by_cases hj : j % 2 = 0
      · rw [if_pos hj, if_pos hj]
      · rw [if_neg hj, if_neg hj, show (j - 1) / 2 = j / 2 by omega]
    · subst hf; rfl
    · subst hf
      show (if j < 128 then _ else _, _) = (if j < 128 then _ else _, _)
      by_cases hj : j < 128
      · rw [if_pos hj, if_pos hj]
      · rw [if_neg hj, if_neg hj, show 2 * j - 256 + 1 = 2 * j - 255 by omega]
    · subst hf; rfl
    · show (if j = l.toNat then _ else _, _) = (if j = l.toNat then _ else _, _)
      split <;> rfl
    · show (BitVec.ofNat 32 (popcount _ 256), _) = _
      rw [popcount_eq]
  · exact ⟨completes_vMask hc hd rfl fun _ _ => rfl, completes_vMask hc hd rfl fun _ _ => rfl, completes_vMask hc hd rfl fun _ _ => rfl,
      completes_vMask hc hd rfl fun _ _ => rfl, completes_vMask hc hd rfl fun _ _ => rfl, completes_vMask hc hd rfl fun _ _ => rfl,
      fun cl j hj => (BitVec.getLsbD_allOnes (v := 256)).trans (decide_eq_true hj)⟩

end Sys2Proof.Machine
end

section
namespace Sys2Proof.Machine

/-! ## Streams that go on or hold (R13, R92, R283) -/

/-- A wake tells streams to test their waits again and changes nothing else. -/
theorem Ctx.wake_woken (c : Ctx) (kind : BitVec 4) (obj : Nat) : Woken c (c.wake kind obj) := by
  have hcl : ∀ k, ∃ st, (c.wake kind obj).v.cluster k = { c.v.cluster k with st := st } ∧ Retests (c.v.cluster k).st st :=
    fun k => ⟨_, by simp [Ctx.wake, VState.cluster]; rfl, retests_woken ..⟩
  obtain ⟨hs, he, hcc⟩ := c.wake_retests kind obj
  refine ⟨rfl, hs, he, hcc, fun k => ?_⟩
  obtain ⟨st, hk, hr⟩ := hcl k
  exact ⟨by rw [hk], by rw [hk]; exact hr⟩

/-- The acting stream is one of those that a wake reaches. -/
theorem Woken.strm {s : State} {c d : Ctx} (h : Woken c d) (hc : ({ s with me := c } : State).strm = s.strm) :
    Retests s.strm ({ s with me := d } : State).strm := by
  obtain ⟨hd, hs, he, hcc, hv⟩ := h
  have hf : d.v.forked = c.v.forked := by rw [hd]
  rw [← hc]
  have hcl := (hv s.cur.cl).2
  unfold VState.cluster at hcl
  unfold State.strm
  simp only [hf]
  cases s.cur.st with
  | s => exact hs
  | c => exact hcc
  | v => show Retests (if _ then _ else _) (if _ then _ else _); split; exacts [hcl, he]
  | m => exact he
  | f => exact he
  | e => exact he

/-- The acting stream retires; the context was changed and its streams woken before. -/
theorem goes_of_woken {s : State} {c d : Ctx} (h : Woken c d) (hc : ({ s with me := c } : State).strm = s.strm)
    (hb : SameBytes s ({ s with me := d } : State).retire) : Goes s c ({ s with me := d } : State).retire := by
  refine ⟨⟨d, h, ?_, ?_⟩, hb⟩
  · rw [State.retire_strm]
    exact (h.strm hc).goesOn s.cc
  · rw [State.retire_strm]; rfl

/-- The acting stream holds; nothing else changes. -/
theorem State.hold_holds (s : State) (kind : BitVec 4) (obj : Nat) : Holds s (s.hold kind obj) kind obj :=
  ⟨by rw [State.hold_strm]; exact s.strm.held_heldAt _ _ _, by rw [State.hold_strm]; rfl,
    sameBytes_of (by simp) (by simp) (by simp) (by simp) (by simp) (by simp)⟩

/-! ## Token sends (R20, R112, R161, R206, R232, R256) -/

/-- The context once channel ch holds the list and its releases are known. -/
def Ctx.withChan (c : Ctx) (ch : Nat) (l : List W16) (hb : Before) : Ctx := { c.setChan ch l with hb := hb }

theorem Ctx.withChan_chan (c : Ctx) {ch : Nat} (l : List W16) (hb : Before) (h : ch < 14) (k : Nat) :
    (c.withChan ch l hb).chan k = if k = ch then l else c.chan k := c.setChan_chan ch k l h

/-- The channels after the acting stream has retired are those of the woken context. -/
theorem chan_retire_wake (s : State) (c : Ctx) (kind : BitVec 4) (obj k : Nat) :
    (({ s with me := c.wake kind obj } : State).retire).me.chan k = c.chan k := by
  unfold Ctx.chan; simp

/-- A context that differs in a channel and in what is known, once woken, goes on. -/
theorem goes_withChan (s : State) (c : Ctx) {ch : Nat} (l : List W16) (hb : Before) (hn : ch < 14)
    (hs : ({ s with me := c } : State).strm = s.strm)
    (hm : c.id = s.me.id ∧ c.life = s.me.life ∧ c.spad = s.me.spad ∧ c.priv = s.me.priv) :
    let t := ({ s with me := (c.withChan ch l hb).wake 2 ch } : State).retire
    Goes s { c.setChan ch l with hb := hb } t ∧ t.me.chan ch = l ∧ ∀ m, m ≠ ch → t.me.chan m = c.chan m := by
  obtain ⟨hid, hlife, hspad, hpriv⟩ := hm
  refine ⟨goes_of_woken ((c.withChan ch l hb).wake_woken 2 ch) hs ?_, ?_, fun m hm => ?_⟩
  · exact sameBytes_of (by simp) (by simpa [Ctx.withChan] using hid) (by simpa [Ctx.withChan] using hlife) (by simp)
      (by simpa [Ctx.withChan] using hspad) (by simpa [Ctx.withChan] using hpriv)
  · rw [chan_retire_wake, c.withChan_chan l hb hn, if_pos rfl]
  · rw [chan_retire_wake, c.withChan_chan l hb hn, if_neg hm]

/-- What is known with the tokens of a channel once the acting stream has sent one more. -/
def State.sentKnown (s : State) (n : Nat) : Before :=
  { s.me.hb with tok := s.me.hb.tok.setIfInBounds n ((s.me.hb.tok.toArray.getD n []).take (s.me.chan n).length ++ [s.gives]) }

/-- A send into a channel with room. -/
theorem sendTok_room {s : State} {n : Nat} (v : W16) (h : (s.me.chan n).length < 32) :
    s.sendTok n v = .next ({ s with me := (s.me.withChan n (s.me.chan n ++ [v]) (s.sentKnown n)).wake 2 n } : State).retire := by
  unfold State.sendTok Ctx.pushTok
  rw [if_pos h]
  rfl

/-- A send into a full channel. -/
theorem sendTok_full {s : State} {n : Nat} (v : W16) (h : 32 ≤ (s.me.chan n).length) : s.sendTok n v = .next (s.hold 2 n) := by
  unfold State.sendTok Ctx.pushTok
  rw [if_neg (by omega)]

/-- An instruction that sends a token. -/
theorem completes_sendTok {j : Instr} {s : State} {n : Nat} {v : W16} {p : W16 → Prop} (h : exec j s = s.sendTok n v) (hp : p v)
    (hn : n < 14) :
    ((s.me.chan n).length < 32 → Completes j s fun t => ∃ tok, p tok ∧
      Goes s { s.me.setChan n (s.me.chan n ++ [tok]) with hb := s.sentKnown n } t ∧ t.me.chan n = s.me.chan n ++ [tok] ∧
      ∀ m, m ≠ n → t.me.chan m = s.me.chan m) ∧
    (32 ≤ (s.me.chan n).length → Completes j s (Holds s · 2 n)) :=
  ⟨fun hr => ⟨_, h.trans (sendTok_room v hr), v, hp, goes_withChan s s.me _ _ hn rfl ⟨rfl, rfl, rfl, rfl⟩⟩,
    fun hf => ⟨_, h.trans (sendTok_full v hf), s.hold_holds 2 n⟩⟩

/-- An instruction that releases, once the earlier accesses have performed. -/
theorem State.releasing_done {s : State} (h : s.me.sDone = true) (go : Res) : s.releasing go = go := if_pos h

/-- The fields of FQRY's word about an element's state. -/
theorem fqryWord_fields : ∀ (h l o q : Bool) (pc : BitVec 6),
    let b := fun (v : Bool) (n : Nat) => if v then 2 ^ n else 0
    let tok := BitVec.ofNat 16 (b h 15 + b l 14 + b o 13 + b q 12 + pc.toNat)
    tok.getLsbD 15 = h ∧ tok.getLsbD 14 = l ∧ tok.getLsbD 13 = o ∧ tok.getLsbD 12 = q ∧ tok.toNat % 4096 = pc.toNat := by
  decide

/-- What FQRY answers (R256). -/
theorem fqryToken_spec (f : FState) (el : BitVec 6) (r : BitVec 4) (w : BitVec 2) :
    (w = 0 → (fqryToken f el r w).getLsbD 15 = (f.elem el).halted ∧ (fqryToken f el r w).getLsbD 14 = (f.elem el).loaded ∧
      (fqryToken f el r w).getLsbD 13 = (f.elem el).off ∧ (fqryToken f el r w).getLsbD 12 = (f.elem el).port.isSome ∧
      (fqryToken f el r w).toNat % 4096 = (f.elem el).pc.toNat) ∧
    (w = 1 → fqryToken f el r w = ((f.elem el).reg r).extractLsb' 0 16) ∧
    (w = 2 → fqryToken f el r w = ((f.elem el).reg r).extractLsb' 16 16) ∧
    (w = 3 → fqryToken f el r w = f.lastMoved[el.toNat]) := by
  refine ⟨?_, ?_, ?_, ?_⟩ <;> rintro rfl
  · exact fqryWord_fields _ _ _ _ _
  · refine (show fqryToken f el r 1 = ((f.elem el).reg r).setWidth 16 from rfl).trans ?_
    exact BitVec.setWidth_eq_extractLsb' (by decide)
  · rfl
  · rfl

/-- Settles O9: each instruction is a send of its token, but for the outbound buffer of TOKS to another core. -/
theorem tokenSendsQueueOrHold : Obligations.TokenSendsQueueOrHold := by
  intro s x y ch d r i core rc v u w el known sends n f own q
  have send : ∀ m (p : W16 → Prop) j v, exec j s = s.sendTok m v → p v → sends m p j := fun m p j v h hp hm =>
    completes_sendTok h hp hm
  have after : ∀ go, s.me.cp.copies = [] → s.me.cp.errs = [] → s.afterCopies go = go := fun go h1 h2 => by
    unfold State.afterCopies; rw [h1, h2]; rfl
  refine ⟨fun hc hd => send _ _ _ own (State.releasing_done hd _) rfl, fun hf => send _ _ _ _ (if_neg (by simp [hf])) rfl,
    fun hf hh => completes_trap (if_pos hf) hh (by decide), fun hm => send _ _ _ v ?_ rfl, send _ _ _ _ rfl rfl,
    fun h1 h2 => send _ _ _ _ (after _ h1 h2) rfl, send _ _ _ _ rfl rfl, send _ _ _ _ rfl (fqryToken_spec s.me.f el r w),
    fun hd hq => ⟨_, (State.releasing_done hd _).trans (if_neg (not_le.2 hq)), rfl, s.me.s.next_goesOn _ _, rfl⟩,
    fun hd hq => ⟨_, (State.releasing_done hd _).trans (if_pos hq), s.holdS_held 7 0⟩⟩
  show s.mAfter _ = _
  unfold State.mAfter
  rw [if_pos (by simp [hm])]

end Sys2Proof.Machine
end

section
namespace Sys2Proof.Machine

/-! ## Token waits (R20, R114, R161, R206, R232, R256) -/

/-- What the context knows once the acting stream has taken the oldest token of a channel and acquired its release. -/
def State.takenKnown (s : State) (n : Nat) : Before :=
  (({ s.me with hb := { s.me.hb with tok := s.me.hb.tok.setIfInBounds n (s.me.hb.tok.toArray.getD n []).tail } } : Ctx).acquire
    s.cur.st (s.me.tokKnown n)).hb

/-- A wait that is not late and can complete. -/
theorem State.wait_done {s t : State} {done : State → Option State} (h : s.lateWait = none) (hd : done s = some t) (kind : BitVec 4)
    (obj : Nat) : s.wait kind obj done = .next t := by
  unfold State.wait
  rw [h]
  dsimp only
  rw [hd]

/-- A wait that is not late and cannot complete. -/
theorem State.wait_held {s : State} {done : State → Option State} (h : s.lateWait = none) (hd : done s = none) (kind : BitVec 4)
    (obj : Nat) : s.wait kind obj done = .next (s.hold kind obj) := by
  unfold State.wait
  rw [h]
  dsimp only
  rw [hd]

/-- A wait at an empty channel. -/
theorem takeTok_empty {s : State} {n : Nat} (put : W16 → State → State) (h : s.lateWait = none) (he : s.me.chan n = []) :
    s.takeTok n put = .next (s.hold 2 n) := by
  have hp : s.me.popTok n = none := by unfold Ctx.popTok; rw [he]
  exact State.wait_held h (by rw [hp]) 2 n

/-- A wait at a channel that holds a token. -/
theorem takeTok_some {s : State} {n : Nat} {tok : W16} {rest : List W16} (put : W16 → State → State) (h : s.lateWait = none)
    (he : s.me.chan n = tok :: rest) :
    s.takeTok n put = .next (put tok { s with me := (s.me.withChan n rest (s.takenKnown n)).wake 2 n }).retire := by
  obtain ⟨c, hp, hc⟩ : ∃ c, s.me.popTok n = some (tok, c) ∧ ({ s with me := c } : State).acquire (s.me.tokKnown n) =
      { s with me := (s.me.withChan n rest (s.takenKnown n)).wake 2 n } := by
    unfold Ctx.popTok
    rw [he]
    exact ⟨_, rfl, rfl⟩
  exact State.wait_done h (by rw [hp]; dsimp only; rw [hc]) 2 n

/-- An instruction that takes a token and puts it into the context. -/
theorem completes_takeTok {j : Instr} {s : State} {n : Nat} (put : W16 → State → State) (into : W16 → Ctx)
    (h : exec j s = s.takeTok n put) (hl : s.lateWait = none) (hn : n < 14)
    (hput : ∀ tok rest, put tok { s with me := (s.me.withChan n rest (s.takenKnown n)).wake 2 n } =
      { s with me := ((into tok).withChan n rest (s.takenKnown n)).wake 2 n })
    (hs : ∀ tok, ({ s with me := into tok } : State).strm = s.strm)
    (hm : ∀ tok, (into tok).id = s.me.id ∧ (into tok).life = s.me.life ∧ (into tok).spad = s.me.spad ∧ (into tok).priv = s.me.priv)
    (hc : ∀ tok k, (into tok).chan k = s.me.chan k) :
    (∀ tok rest, s.me.chan n = tok :: rest → Completes j s fun t =>
      Goes s { (into tok).setChan n rest with hb := s.takenKnown n } t ∧ t.me.chan n = rest ∧
        ∀ m, m ≠ n → t.me.chan m = s.me.chan m) ∧
    (s.me.chan n = [] → Completes j s (Holds s · 2 n)) := by
  refine ⟨fun tok rest he => ?_, fun he => ⟨_, h.trans (takeTok_empty put hl he), s.hold_holds 2 n⟩⟩
  obtain ⟨hg, hch, ho⟩ := goes_withChan s (into tok) rest (s.takenKnown n) hn (hs tok) (hm tok)
  exact ⟨_, (h.trans (takeTok_some put hl he)).trans (by rw [hput]), hg, hch, fun m hm => (ho m hm).trans (hc tok m)⟩

/-- An instruction that takes a token and keeps no part of it. -/
theorem completes_dropTok {j : Instr} {s : State} {n : Nat} (h : exec j s = s.takeTok n fun _ s => s) (hl : s.lateWait = none)
    (hn : n < 14) :
    (∀ tok rest, s.me.chan n = tok :: rest → Completes j s fun t =>
      Goes s { s.me.setChan n rest with hb := s.takenKnown n } t ∧ t.me.chan n = rest ∧
        ∀ m, m ≠ n → t.me.chan m = s.me.chan m) ∧
    (s.me.chan n = [] → Completes j s (Holds s · 2 n)) :=
  completes_takeTok _ (fun _ => s.me) h hl hn (fun _ _ => rfl) (fun _ => rfl) (fun _ => ⟨rfl, rfl, rfl, rfl⟩) fun _ _ => rfl

/-- A CTOKW takes its token unless an error waits to be raised. -/
theorem ctokw_take {s : State} (h : s.me.cp.errs = []) (ch : BitVec 4) (put : W16 → State → State) :
    s.ctokw ch put = s.takeTok ch.toNat put := by
  unfold State.ctokw
  simp only [h, List.head?_nil, ite_self]

/-- The registers that V instructions leave do not depend on their flags. -/
theorem State.vApply_fst (s : State) (f : BitVec 4 → Cluster → Cluster × Flags) :
    (s.vApply f).1 = s.vClusters.foldl (fun v k => v.setCluster k (f k (s.me.v.cluster k)).1) s.me.v := by
  have h : ∀ (l : List (BitVec 4)) (r : VState × Flags),
      (l.foldl (fun (r : VState × Flags) k => (r.1.setCluster k (f k (s.me.v.cluster k)).1, r.2 ||| (f k (s.me.v.cluster k)).2)) r).1 =
        l.foldl (fun v k => v.setCluster k (f k (s.me.v.cluster k)).1) r.1 := by
    intro l
    induction l with
    | nil => exact fun _ => rfl
    | cons k l ih => exact fun r => ih _
  exact h _ _

/-- The write of a token to lanes, as the change of the running clusters. -/
theorem putLanes_eq (d : BitVec 6) (x : W32) (s : State) :
    putLanes d x s = { s with me := { s.me with v := (s.vApply (laneFn d s.vPfxMask fun _ _ _ => (x, 0))).1 } } := by
  unfold putLanes laneFn
  simp only [State.vApply_fst]

/-- In lockstep the V stream is the engine stream. -/
theorem State.strm_lockstep {s : State} (hv : s.cur.st = .v) (hf : s.me.v.forked = false) : s.strm = s.me.e := by
  rw [State.strm_v hv, if_neg (by simp [hf])]

theorem State.retire_lockstep {s : State} (hv : s.cur.st = .v) (hf : s.me.v.forked = false) :
    s.retire = { s with me := { s.me with e := s.me.e.next (s.me.e.pc + 4) s.cc } } := by
  unfold State.retire
  rw [State.strm_lockstep hv hf, State.setStrm_v hv, if_neg (by simp [hf])]

/-- The lanes that a token enters in lockstep, and the engine stream past its instruction. -/
theorem putLanes_retire {s : State} (hv : s.cur.st = .v) (hf : s.me.v.forked = false) (y : BitVec 6) (x : W32) :
    ∃ cl, (putLanes y x s).retire =
        { s with me := { s.me with v := { s.me.v with cl := cl }, e := s.me.e.next (s.me.e.pc + 4) s.cc } } ∧
      Lanes s (putLanes y x s).retire y s.vPfxMask (fun _ _ => x) ∧ OnlyV s (putLanes y x s).retire [y] := by
  let f := laneFn y s.vPfxMask fun _ _ _ => (x, 0)
  have hout : (putLanes y x s).retire =
      { s with me := { s.me with v := (s.vApply f).1, e := s.me.e.next (s.me.e.pc + 4) s.cc } } := by
    rw [putLanes_eq, State.retire_lockstep (s := { s with me := { s.me with v := (s.vApply f).1 } }) hv
      (by rw [s.vApply_only]; exact hf)]
  refine ⟨(s.vApply f).1.cl, ?_, ?_⟩
  · rw [hout, ← s.vApply_only]
  · rw [hout]
    exact vApply_lanes s y s.vPfxMask (fun _ _ _ => (x, 0)) _ fun q => ⟨rfl, rfl⟩

/-- VTOKW that goes on: the token is in the lanes that its prefixes enable, and the other streams may have been woken. -/
theorem vtokw_takes {s : State} {y : BitVec 6} {n : Nat} {tok : W16} {rest : List W16} (hv : s.cur.st = .v)
    (hf : s.me.v.forked = false) (hn : n < 14) :
    let t := (putLanes y (tok.setWidth 32) { s with me := (s.me.withChan n rest (s.takenKnown n)).wake 2 n } : State).retire
    t.me.chan n = rest ∧ (∀ m, m ≠ n → t.me.chan m = s.me.chan m) ∧
      Lanes s t y s.vPfxMask (fun _ _ => tok.setWidth 32) ∧ OnlyV s t [y] ∧ SameBytes s t ∧
      GoesOn s.me.e t.me.e (s.me.e.pc + 4) s.cc ∧ t.me.v.pend = s.me.v.pend ∧
      t = { s with me := { s.me with tok := t.me.tok, s := t.me.s, e := t.me.e, c := t.me.c, v := { s.me.v with cl := t.me.v.cl },
                                     hb := s.takenKnown n } } := by
  have hwoken := (s.me.withChan n rest (s.takenKnown n)).wake_woken 2 n
  have hchan := s.me.withChan_chan rest (s.takenKnown n) hn
  generalize hu : ({ s with me := (s.me.withChan n rest (s.takenKnown n)).wake 2 n } : State) = u
  obtain ⟨-, -, he, -, hcl⟩ := hwoken
  have hkeep : ∀ q, (u.me.v.cluster q).v = (s.me.v.cluster q).v ∧ (u.me.v.cluster q).m = (s.me.v.cluster q).m := fun q => by
    subst hu; dsimp only; rw [(hcl q).1]; exact ⟨rfl, rfl⟩
  have hvreg : ∀ q r, (u.me.v.cluster q).vreg r = (s.me.v.cluster q).vreg r := fun q r => by unfold Cluster.vreg; rw [(hkeep q).1]
  have hmreg : ∀ q r, (u.me.v.cluster q).mreg r = (s.me.v.cluster q).mreg r := fun q r => by unfold Cluster.mreg; rw [(hkeep q).2]
  have hue : Retests s.me.e u.me.e := by subst hu; exact he
  have huv : u.cur.st = .v := by subst hu; exact hv
  have huf : u.me.v.forked = false := by subst hu; exact hf
  have hmask : u.vPfxMask = s.vPfxMask := by
    unfold State.vPfxMask
    rw [State.strm_lockstep huv huf, State.strm_lockstep hv hf]
    rcases hue with h | ⟨h, -⟩ <;> rw [h]
  have hus : u = { s with me := { s.me with tok := u.me.tok, s := u.me.s, e := u.me.e, c := u.me.c,
                                            v := { s.me.v with cl := u.me.v.cl }, hb := s.takenKnown n } } := by subst hu; rfl
  have hcc : u.cc = s.cc := by rw [hus]
  have hsame : u.mem = s.mem ∧ u.me.id = s.me.id ∧ u.me.life = s.me.life ∧ u.rest = s.rest ∧ u.me.spad = s.me.spad ∧
      u.me.priv = s.me.priv := by rw [hus]; exact ⟨rfl, rfl, rfl, rfl, rfl, rfl⟩
  have huruns : ∀ q, Runs u q := fun q hq => absurd hq (by simp [huf])
  obtain ⟨cl, ht, hl, ho⟩ := putLanes_retire huv huf y (tok.setWidth 32)
  rw [ht] at hl ho
  dsimp only
  rw [ht]
  refine ⟨?_, fun m hm => ?_, fun q hq j hj => ?_, fun q => ⟨(ho q).1.trans (hkeep q).2, fun r hr => ?_⟩, ?_, ?_, ?_, ?_⟩
  · subst hu; exact (hchan n).trans (if_pos rfl)
  · subst hu; exact (hchan m).trans (if_neg hm)
  · rw [hl q (huruns q) j hj, hmreg, hvreg, hmask]
  · rw [← hvreg]; exact (ho q).2 r (hr.imp_right fun h _ => h fun hf' => absurd hf' (by simp [hf]))
  · obtain ⟨hmem, hid, hlife, hrest, hspad, hpriv⟩ := hsame
    exact sameBytes_of hmem hid hlife hrest hspad hpriv
  · show GoesOn s.me.e (u.me.e.next (u.me.e.pc + 4) u.cc) _ _
    rw [hcc]; exact hue.goesOn s.cc
  · subst hu; rfl
  · show ({ u with me := { u.me with v := { u.me.v with cl := cl }, e := u.me.e.next (u.me.e.pc + 4) u.cc } } : State) = _
    rw [hcc]
    conv_lhs => rw [hus]

/-- Settles O10: each instruction takes a token into its own place; VTOKW into lanes. -/
theorem tokenWaitsTakeOrHold : Obligations.TokenWaitsTakeOrHold := by
  intro s d y ch a hl hn n popped hb waits same
  have drop : ∀ j, exec j s = s.takeTok n (fun _ s => s) → waits j same := fun j h => completes_dropTok h hl hn
  refine ⟨completes_takeTok (fun tok s => { s with me := s.me.wg d (tok.setWidth 64) false })
      (fun tok => s.me.wg d (tok.setWidth 64) false) rfl hl hn (fun tok rest => ?_) (fun tok => ?_)
      (fun tok => by simp) (fun tok k => by simp [Ctx.chan]), fun hm => drop _ ?_, drop _ rfl, fun he => ⟨drop _ (ctokw_take he ch _),
      completes_takeTok _ (fun tok => s.me.setAr a (tok.setWidth 64)) (ctokw_take he ch _) hl hn (fun _ _ => rfl) (fun _ => rfl)
        (fun _ => ⟨rfl, rfl, rfl, rfl⟩) fun _ _ => rfl,
      completes_takeTok _ (fun tok => s.me.setAr a (s.me.ar a + tok.setWidth 64)) (ctokw_take he ch _) hl hn (fun _ _ => rfl)
        (fun _ => rfl) (fun _ => ⟨rfl, rfl, rfl, rfl⟩) fun _ _ => rfl⟩,
    fun hf hh => completes_trap (if_pos hf) hh (by decide), fun hv hf => ⟨fun he => ?_, fun tok rest he => ?_⟩⟩
  · show ({ s with me := Ctx.wg _ d _ false } : State) = _
    unfold Ctx.wg; split <;> rfl
  · exact State.strm_congr rfl (by simp) (by simp) (by simp) (by simp) fun k => by simp
  · show s.mAfter _ = _
    unfold State.mAfter
    rw [if_pos (by simp [hm])]
  · exact ⟨_, (if_neg (by simp [hf])).trans (takeTok_empty _ hl he), s.hold_holds 2 n⟩
  · exact ⟨_, (if_neg (by simp [hf])).trans (takeTok_some _ hl he), vtokw_takes hv hf hn⟩

end Sys2Proof.Machine
end

section
namespace Sys2Proof.Machine

/-! ## Rings (R19, R127, R128) -/

/-- What the streams know once a ring instruction has acquired and released (R314). -/
def State.ringHb (s : State) (h cnt : BitVec 8) (role : Nat) : Before :=
  let a := s.me.acquire s.cur.st (s.me.ringGives h role cnt.toNat)
  (a.ringKnown h role cnt.toNat (if s.cur.st = .s then a.gives .s s.tick else [])).hb

/-- The context after a ring instruction has changed the entry of its handle. -/
def State.ringDone (s : State) (h cnt : BitVec 8) (role : Nat) (x : Tile) : Ctx := { s.me.setTile h x with hb := s.ringHb h cnt role }

theorem ringTrap_none {c : Ctx} {h cnt : BitVec 8} (hv : (c.tile h).valid = true) (hl : (c.tile h).level = 3)
    (hs : cnt.toNat ≤ (c.tile h).slots.toNat) : ringTrap c h cnt = none := by
  unfold ringTrap
  rw [if_neg (by simp [hv]), if_neg (by simp [hl]; exact hs)]

theorem ringTrap_unallocated {c : Ctx} {h cnt : BitVec 8} (hv : (c.tile h).valid = false) : ringTrap c h cnt = some 0x16 := by
  unfold ringTrap
  rw [if_pos (by simp [hv])]

theorem ringTrap_noRing {c : Ctx} {h cnt : BitVec 8} (hv : (c.tile h).valid = true)
    (hb : (c.tile h).level ≠ 3 ∨ (c.tile h).slots.toNat < cnt.toNat) : ringTrap c h cnt = some 0x18 := by
  unfold ringTrap
  rw [if_neg (by simp [hv]), if_pos (by simpa using hb)]

/-- A ring instruction that traps. -/
theorem ring_trap {s : State} {h cnt : BitVec 8} {c : BitVec 7} (ht : ringTrap s.me h cnt = some c) (role : Nat) (settled : Bool) :
    s.ring h cnt role settled = s.trapR c (h.setWidth 64) := by
  unfold State.ring
  rw [ht]

/-- A ring instruction whose condition holds, of a stream that keeps no handle busy. -/
theorem ring_done {s : State} {h cnt : BitVec 8} {role : Nat} {settled : Bool} (hl : s.lateWait = none) (hb : s.strm.busy = none)
    (ht : ringTrap s.me h cnt = none) (hs : role = 0 → settled = true) (hr : ringReady (s.me.tile h) role cnt.toNat = true) :
    s.ring h cnt role settled = .next
      ({ s with me := (s.ringDone h cnt role (ringStep (s.me.tile h) role cnt.toNat)).wake 4 h.toNat } : State).retire := by
  have hfree : s.freeRing = s := by unfold State.freeRing; rw [hb]
  have hc : ((decide (role = 0) && !settled) || !ringReady (s.me.tile h) role cnt.toNat) = false := by
    rw [hr]
    by_cases h0 : role = 0
    · simp [hs h0]
    · simp [h0]
  have hgive : (if (s.acquire (s.me.ringGives h role cnt.toNat)).cur.st = .s then (s.acquire (s.me.ringGives h role cnt.toNat)).gives
      else []) =
      if s.cur.st = .s then (s.me.acquire s.cur.st (s.me.ringGives h role cnt.toNat)).gives .s s.tick else [] := by
    show (if s.cur.st = .s then (s.me.acquire s.cur.st (s.me.ringGives h role cnt.toNat)).gives s.cur.st s.tick else []) = _
    by_cases hst : s.cur.st = .s
    · rw [if_pos hst, if_pos hst, hst]
    · rw [if_neg hst, if_neg hst]
  unfold State.ring
  rw [ht, hl, ite_self]
  dsimp only
  rw [if_neg (by simp [hc]), hfree, hgive]
  rfl

/-- A ring instruction whose condition does not hold. -/
theorem ring_held {s : State} {h cnt : BitVec 8} {role : Nat} {settled : Bool} (hl : s.lateWait = none)
    (ht : ringTrap s.me h cnt = none) (hr : ringReady (s.me.tile h) role cnt.toNat = false) :
    s.ring h cnt role settled = .next (s.holdRing h) := by
  unfold State.ring
  rw [ht, hl, ite_self]
  dsimp only
  rw [if_pos (by simp [hr])]

/-- The entry of a ring and what is known have changed; the acting stream goes on. -/
theorem ringDone_becomes (s : State) (h cnt : BitVec 8) (role : Nat) (x : Tile) :
    let t := ({ s with me := (s.ringDone h cnt role x).wake 4 h.toNat } : State).retire
    (∀ k, t.me.tile k = if k = h then x else s.me.tile k) ∧
      Goes s { s.me with tiles := t.me.tiles, hb := s.ringHb h cnt role } t := by
  have htiles : (({ s with me := (s.ringDone h cnt role x).wake 4 h.toNat } : State).retire).me.tiles = (s.me.setTile h x).tiles := by
    simp [State.ringDone]
  refine ⟨fun k => ?_, ?_⟩
  · rw [← Ctx.setTile_tile]
    unfold Ctx.tile
    simp only [htiles]
  · rw [htiles]
    exact goes_of_woken ((s.ringDone h cnt role x).wake_woken 4 h.toNat) rfl
      (sameBytes_of (by simp) (by simp [State.ringDone]) (by simp [State.ringDone]) (by simp) (by simp [State.ringDone])
        (by simp [State.ringDone]))

/-- A stream that is written twice, with tiles between, is written once. -/
theorem setStrm_tiles_setStrm (s : State) (a b : Strm) (l : Vector Tile 256) :
    ({ s.setStrm a with me := { (s.setStrm a).me with tiles := l } } : State).setStrm b =
      ({ s with me := { s.me with tiles := l } } : State).setStrm b := by
  cases hc : s.cur.st with
  | v => by_cases hf : s.me.v.forked = true <;> simp [State.setStrm, hc, hf]
  | _ => simp [State.setStrm, hc]

/-- A ring wait of the S stream that holds. -/
theorem holdRing_s {s : State} (hc : s.cur.st = .s) (h : BitVec 8) : s.holdRing h = s.hold 4 h.toNat :=
  if_pos (by simp [hc])

/-- A ring wait of another stream that holds keeps its handle busy. -/
theorem holdRing_busy {s : State} (hc : s.cur.st ≠ .s) (hb : s.strm.busy = none) {h : BitVec 8} (he : (s.me.tile h).busy ≠ 255) :
    s.holdRing h = ({ s with me := s.me.busyUp h } : State).setStrm { s.strm.held 4 h.toNat s.me.runCc with busy := some h } := by
  have htile : (s.hold 4 h.toNat).me.tile h = s.me.tile h := by simp [Ctx.tile]
  unfold State.holdRing
  dsimp only
  rw [if_neg (by simp [hc, hb, Strm.held]), if_neg (by rw [htile]; exact he), State.hold_strm]
  have hup : (s.hold 4 h.toNat).me.busyUp h = { (s.hold 4 h.toNat).me with tiles := (s.me.busyUp h).tiles } := by
    unfold Ctx.busyUp
    simp only [htile]
    simp [Ctx.setTile]
  rw [hup]
  exact setStrm_tiles_setStrm s _ _ _

/-- What a ring wait that holds does. -/
theorem holdRing_holds {s : State} (hb : s.strm.busy = none) {h : BitVec 8} (he : (s.me.tile h).busy ≠ 255) :
    HeldAt s.strm (s.holdRing h).strm 4 h.toNat ∧ SameBytes s (s.holdRing h) ∧
      (s.cur.st = .s → s.holdRing h = s.setStrm (s.holdRing h).strm) ∧
      (s.cur.st ≠ .s → (s.holdRing h).strm.busy = some h ∧ ((s.holdRing h).me.tile h).busy = (s.me.tile h).busy + 1 ∧
        (∀ k, k ≠ h → (s.holdRing h).me.tile k = s.me.tile k) ∧
        s.holdRing h = ({ s with me := { s.me with tiles := (s.holdRing h).me.tiles } } : State).setStrm (s.holdRing h).strm) := by
  by_cases hc : s.cur.st = .s
  · rw [holdRing_s hc]
    obtain ⟨hh, ht, hbytes⟩ := s.hold_holds 4 h.toNat
    exact ⟨hh, hbytes, fun _ => ht, fun hn => absurd hc hn⟩
  · rw [holdRing_busy hc hb he, State.setStrm_strm]
    have htiles : ∀ k, ((({ s with me := s.me.busyUp h } : State).setStrm
        { s.strm.held 4 h.toNat s.me.runCc with busy := some h }).me.tile k) = (s.me.busyUp h).tile k := fun k => by
      simp [Ctx.tile]
    refine ⟨⟨rfl, rfl, rfl, rfl, rfl⟩, sameBytes_of (by simp) (by simp) (by simp) (by simp) (by simp) (by simp),
      fun hs => absurd hs hc, fun _ => ⟨rfl, ?_, fun k hk => ?_, ?_⟩⟩
    · rw [htiles]
      unfold Ctx.busyUp
      rw [Ctx.setTile_tile, if_pos rfl]
    · rw [htiles]
      unfold Ctx.busyUp
      rw [Ctx.setTile_tile, if_neg hk]
    · simp [Ctx.busyUp, Ctx.setTile]

/-- The condition of a role. -/
theorem ringReady_iff (e : Tile) (role : BitVec 2) (cnt : Nat) : ringReady e role.toNat cnt = true ↔
    if role = 0 ∨ role = 3 then cnt ≤ e.slots.toNat - e.filled.toNat else cnt ≤ e.filled.toNat := by
  have h0 : role.toNat = 0 ↔ role = 0 := by rw [← BitVec.toNat_inj]; rfl
  have h3 : role.toNat = 3 ↔ role = 3 := by rw [← BitVec.toNat_inj]; rfl
  unfold ringReady
  simp only [h0, h3, Bool.or_eq_true, decide_eq_true_eq]
  split <;> simp

/-- Every ring instruction of a stream in which it may act is the shared one. -/
theorem all_rings {s : State} {h cnt : BitVec 8} {role : BitVec 2} {p : State → Prop}
    (hp : ∀ settled, (role = 0 → settled = true) → ∃ t, s.ring h cnt role.toNat settled = .next t ∧ p t) :
    (s.cur.st = .s → (role = 0 → s.me.sDone) → Completes (.tring (role.setWidth 5) h cnt) s p) ∧
    (s.cur.st = .v → s.me.v.forked = false → (role = 0 → s.me.v.pend = []) → Completes (.vring role h cnt) s p) ∧
    (s.cur.st = .m → s.me.m.cur = none → Completes (.mring role cnt h) s p) ∧
    (s.cur.st = .c → (role = 0 → s.me.cp.copies = []) → Completes (.cring role cnt h) s p) ∧
    (s.cur.st = .f → Completes (.fring role cnt h) s p) := by
  refine ⟨fun _ hs => ?_, fun _ hf hs => ?_, fun _ hm => ?_, fun _ hs => hp _ fun h0 => by simp [hs h0], fun _ => hp _ fun _ => rfl⟩
  · obtain ⟨t, ht, hpt⟩ := hp s.me.sDone hs
    refine ⟨t, ?_, hpt⟩
    rw [← ht]
    show s.ring h cnt (role.setWidth 5).toNat s.me.sDone = _
    rw [BitVec.toNat_setWidth, Nat.mod_eq_of_lt (by omega)]
  · obtain ⟨t, ht, hpt⟩ := hp s.me.v.pend.isEmpty fun h0 => by simp [hs h0]
    exact ⟨t, (if_neg (by simp [hf])).trans ht, hpt⟩
  · obtain ⟨t, ht, hpt⟩ := hp true fun _ => rfl
    refine ⟨t, ?_, hpt⟩
    show s.mAfter _ = _
    unfold State.mAfter
    rw [if_pos (by simp [hm]), ← ht]

/-- Settles O17: the five ring instructions are one, which traps, changes its entry or holds. -/
theorem ringsProduceAndConsume : Obligations.RingsProduceAndConsume := by
  intro s h cnt role hl hb e free all becomes holds ready
  have ready_iff : ringReady e role.toNat cnt.toNat = true ↔ ready := ringReady_iff e role cnt.toNat
  have done : e.valid = true → e.level = 3 → cnt.toNat ≤ e.slots.toNat → ready → ∀ x, ringStep e role.toNat cnt.toNat = x →
      all (becomes x) := fun hv h3 hs hr x hx =>
    all_rings fun settled h0 => by
      refine ⟨_, ring_done hl hb (ringTrap_none hv h3 hs) (fun hz => h0 (BitVec.eq_of_toNat_eq hz)) (ready_iff.2 hr), ?_⟩
      subst hx
      exact ringDone_becomes s h cnt role.toNat _
  have traps : ∀ c, CanHandle s → c ≠ 0x20 → ringTrap s.me h cnt = some c → all (TrapEntry s · c (h.setWidth 64)) :=
    fun c hh hn ht => all_rings fun settled _ => ⟨_, ring_trap ht _ _, s.trap_entry c _ hh hn⟩
  refine ⟨fun hv h3 hs hfill => ⟨fun hr h0 => done hv h3 hs hr _ ?_, fun hr h1 => done hv h3 hs hr _ ?_,
    fun hr h23 => done hv h3 hs hr _ ?_, fun hr h255 => all_rings fun settled _ => ?_⟩,
    fun hh => ⟨fun hf => completes_trap (if_pos hf) hh (by decide), fun hv => traps _ hh (by decide) (ringTrap_unallocated hv),
      fun hv hbad => traps _ hh (by decide) (ringTrap_noRing hv hbad)⟩⟩
  · subst h0
    show ({ e with filled := BitVec.ofNat 8 (e.filled.toNat + cnt.toNat) } : Tile) = _
    rw [BitVec.ofNat_add, BitVec.ofNat_toNat, BitVec.ofNat_toNat, BitVec.setWidth_eq, BitVec.setWidth_eq]
  · subst h1
    have hle : cnt ≤ e.filled := hr
    show ({ e with head := _, filled := BitVec.ofNat 8 (e.filled.toNat - cnt.toNat) } : Tile) = _
    rw [← BitVec.toNat_sub_of_le hle, BitVec.ofNat_toNat, BitVec.setWidth_eq]
  · rcases h23 with rfl | rfl <;> rfl
  · refine ⟨_, ring_held hl (ringTrap_none hv h3 hs) (Bool.eq_false_iff.2 fun hc => hr (ready_iff.1 hc)), ?_⟩
    exact holdRing_holds hb h255

end Sys2Proof.Machine
end

section
namespace Sys2Proof.Machine

/-! ## A turn of a stream (R63, R65, R67, R70, R92, R104) -/

theorem State.logBad_noted (s : State) (who : Option (BitVec 12 × BitVec 7)) (pa : Nat) : Noted s (s.logBad who pa) :=
  s.elog_noted ..

theorem State.countWalk_serviced (s : State) (w : Walk) (who : Option (BitVec 12 × BitVec 7)) : Serviced s (s.countWalk w who) := by
  have reads := Serviced.foldl (f := fun (s : State) a => (s.sramRead a 8 0).meet a 8)
    (fun s a => (s.sramRead_moved a 8 0).serviced.trans (State.meet_serviced ..)) w.reads s
  unfold State.countWalk
  dsimp only
  split
  · exact reads.trans ((State.lifeInc_noted ..).trans (State.logBad_noted ..)).serviced
  · exact reads

theorem State.failed_serviced (s : State) (cause : BitVec 7) (pa n : Nat) (cache : BitVec 2) : Serviced s (s.failed cause pa n cache) := by
  unfold State.failed State.logFail
  exact ((s.sramRead_moved pa n cache).serviced.trans (State.meet_serviced ..)).trans (State.logBad_noted ..).serviced

theorem State.fetched_serviced (s : State) (a : W64) : Serviced s (s.fetched a) := by
  have read : ∀ (s : State) (pa : Nat), Serviced s ((s.sramRead pa 4 0).meet pa 4) := fun s pa =>
    (s.sramRead_moved pa 4 0).serviced.trans (State.meet_serviced ..)
  have walks := s.countWalk_serviced (walk s (instOf s.me.id) a.toNat false) (some (s.me.id, 0x07))
  unfold State.fetched
  split
  · exact .refl s
  · dsimp only
    split
    · exact walks
    · split
      · split
        · exact walks.trans (State.failed_serviced ..)
        · exact walks.trans (read _ _)
      · exact walks

theorem Serviced.cur {s t : State} (h : Serviced s t) : t.cur = s.cur := by rw [h.only]

theorem Serviced.strm {s t : State} (h : Serviced s t) : t.strm = s.strm := by
  exact State.strm_congr h.cur (by rw [h.me]) (by rw [h.me]) (by rw [h.me]) (by rw [h.me]) fun k => by rw [h.me]

theorem boundExpired_noPrefix {c : Ctx} {st : Strm} (h : st.pfx = none) : boundExpired c st = false := by
  have none : boundOf st.pfx = 0 := by rw [h]; rfl
  unfold boundExpired
  rw [none]
  cases st.headCc <;> simp

section Turn
variable {s u : State} {id : BitVec 12} {st : Stream} {cl : BitVec 4}

/-- The state in which a stream takes its turn. -/
def State.acting (u : State) (id : BitVec 12) (st : Stream) (cl : BitVec 4) : State :=
  { u with cur := { st := st, cl := cl, inst := instOf id } }

theorem State.focus_cc (h : s.focus id = some u) : u.cc = s.cc := by
  unfold State.focus at h
  split at h
  · cases h; rfl
  · split at h
    · cases h
    · cases h; rfl

theorem hasTurn_of (h1 : hasStream u.me st = true) (h2 : canIssue (u.acting id st cl) st = true)
    (h3 : (u.acting id st cl).strm.halted = false) (h4 : (u.acting id st cl).strm.lastCc ≠ some u.cc)
    (h5 : (u.acting id st cl).strm.pfx = none) (h6 : ¬ (st = .v ∧ u.me.v.forked = true ∧ (u.me.v.cluster cl).join ≠ none)) :
    (u.acting id st cl).hasTurn = true := by
  have joins : (st = .v && u.me.v.forked && (u.me.v.cluster cl).join.isSome) = false := by
    rw [Bool.eq_false_iff]
    intro h
    simp only [Bool.and_eq_true, decide_eq_true_eq] at h
    exact h6 ⟨h.1.1, h.1.2, Option.isSome_iff_ne_none.1 h.2⟩
  unfold State.hasTurn
  simp only [Bool.and_eq_true, decide_eq_true_eq, Bool.not_eq_true']
  exact ⟨⟨⟨⟨⟨h1, h2⟩, h3⟩, joins⟩, h4⟩, boundExpired_noPrefix h5⟩

theorem front_word {t : State} {w : W32} {i : Instr} (hf : s.focus id = some u) (ht : (u.acting id st cl).hasTurn = true)
    (hw : (u.acting id st cl).fetch = (.word w, t)) (hp : t.strm.pfx = none)
    (hd : decode st (t.me.engine == .f) w = .ok i)
    (hs : st = .s → loadPending t.me i = false ∧ loadError t.me i = none) : front s id st cl = .run i t.arriveAt := by
  have hpa : t.arriveAt.strm.pfx = none := by simpa [State.arriveAt, Strm.arrive] using hp
  have hda : decodeAt st (t.arriveAt.me.engine == .f) false w = .ok i := by
    rw [← hd]
    simp [decodeAt, State.arriveAt, Ctx.engine, Ctx.lcore]
  have goes : front s id st cl = if st = .s then interlock t.arriveAt i else guardTest t.arriveAt i := by
    unfold State.acting at ht hw
    simp only [front, hf, ht, hw, hpa, pfxMask]
    simp [hda]
  rw [goes]
  split
  next h =>
    obtain ⟨hl, he⟩ := hs h
    have sq : t.arriveAt.me.sq = t.me.sq := by simp [State.arriveAt]
    have hl' : loadPending t.arriveAt.me i = false := by unfold loadPending at hl ⊢; rw [sq]; exact hl
    have he' : loadError t.arriveAt.me i = none := by unfold loadError at he ⊢; rw [sq]; exact he
    simp only [interlock, hl', he']
    simp
  next => simp only [guardTest, hpa]

theorem front_fault {t : State} (hf : s.focus id = some u) (ht : (u.acting id st cl).hasTurn = true)
    (hw : (u.acting id st cl).fetch = (.fault, t)) : front s id st cl = .stay (t.arriveAt.trap 0x07 t.strm.pc) := by
  unfold State.acting at ht hw
  simp only [front, hf, ht, hw]
  exact if_neg (by decide)

theorem front_hold {t : State} (hf : s.focus id = some u) (ht : (u.acting id st cl).hasTurn = true)
    (hw : (u.acting id st cl).fetch = (.hold, t)) : front s id st cl = .stay t.fetchHold := by
  unfold State.acting at ht hw
  simp only [front, hf, ht, hw]
  exact if_neg (by decide)

end Turn

/-! ### What fetching answers (R13, R327) -/

section Fetch
variable {s : State}

theorem fetch_held {w : W32} (h : s.strm.word = some w) : s.fetch = (.word w, s) := by
  unfold State.fetch
  rw [h]

theorem fetch_fault (hw : s.strm.word = none) (hf : fetchWord s s.strm.pc = .fault) :
    s.fetch = (.fault, if s.strm.trapping then s else s.fetched s.strm.pc) := by
  unfold State.fetch
  rw [hw, hf]

theorem fetch_hold (hw : s.strm.word = none) (hf : fetchWord s s.strm.pc = .hold) : s.fetch = (.hold, s) := by
  unfold State.fetch
  rw [hw, hf]

theorem fetch_word {w : W32} (hw : s.strm.word = none) (hf : fetchWord s s.strm.pc = .word w) :
    s.fetch = (.word w, (s.fetched s.strm.pc).gotWord w) := by
  unfold State.fetch
  rw [hw, hf]

variable {a : W64}

theorem fetchWord_outside (h : a.extractLsb' 56 8 ≠ 0) : fetchWord s a = .fault := if_pos h

theorem fetchWord_unmapped (h : a.extractLsb' 56 8 = 0) (hw : (walk s (instOf s.me.id) a.toNat false).pa = none) :
    fetchWord s a = if (walk s (instOf s.me.id) a.toNat false).hold then .hold else .fault := by
  unfold fetchWord
  rw [if_neg (not_not.2 h)]
  dsimp only
  rw [hw]

theorem fetchWord_mapped {pa : Nat} (h : a.extractLsb' 56 8 = 0) (hw : (walk s (instOf s.me.id) a.toNat false).pa = some pa)
    (hh : homeState s (s.socketOf s.me.id) pa = .ok ()) :
    fetchWord s a = if poisoned s pa 4 then .fault else .word (s.mem.w32 pa) := by
  unfold fetchWord
  rw [if_neg (not_not.2 h)]
  dsimp only
  rw [hw]
  dsimp only
  rw [hh]

theorem fetchWord_homeless {pa : Nat} {e : BitVec 7} (h : a.extractLsb' 56 8 = 0)
    (hw : (walk s (instOf s.me.id) a.toNat false).pa = some pa) (hh : homeState s (s.socketOf s.me.id) pa = .err e) :
    fetchWord s a = .fault := by
  unfold fetchWord
  rw [if_neg (not_not.2 h)]
  dsimp only
  rw [hw]
  dsimp only
  rw [hh]

end Fetch

theorem step_of_stream {s : State} {id : BitVec 12} {st : Stream} {cl : BitVec 4} (h : s.choice = .stream id st cl) :
    turn s.taken s.choice = front s.taken id st cl := by rw [h, turn]

theorem step_run {s t : State} {i : Instr} (h : turn s.taken s.choice = .run i t) : step s = exec i t := by rw [step, h]

theorem step_stay {s t : State} (h : turn s.taken s.choice = .stay t) : step s = .next t := by rw [step, h]

/-- Settles O58: one equation for what fetching answers, one for the turn that follows. -/
theorem stepRunsTheDecodedInstruction : Obligations.StepRunsTheDecodedInstruction := by
  unfold Obligations.StepRunsTheDecodedInstruction
  refine ⟨fun s u id st cl hch hf => ?_, fun s i id h hs hb => step_run ?_, fun s off v h => step_run ?_⟩
  · intro v pc at_ home runs h1 h2 h3 h4 h5 h6
    have turns : turn s.taken s.choice = front s.taken id st cl := step_of_stream hch
    have ht : (u.acting id st cl).hasTurn = true := hasTurn_of h1 h2 h3 (State.focus_cc hf ▸ h4) h5 h6
    have word : ∀ {w : W32} {t : State}, v.fetch = (.word w, t) → t.me.engine = v.me.engine → t.me.sq = v.me.sq →
        t.strm.pfx = none → runs w t := by
      intro w t hw he hq hp i hd hs
      refine step_run (turns.trans (front_word hf ht hw hp (he ▸ hd) fun h => ?_))
      unfold loadPending loadError at hs ⊢
      rw [hq]
      exact hs h
    have serv : Serviced v (v.fetched pc) := v.fetched_serviced pc
    refine ⟨fun w hw => word (fetch_held hw) rfl rfl h5, fun pa hw hx hpa hh hp => ?_, fun hw hbad => ?_, fun hw hx hh hn => ?_⟩
    · refine word (fetch_word hw (by rw [fetchWord_mapped hx hpa hh, if_neg (by simp [hp])]; rfl)) ?_ ?_ ?_
      · simp [State.gotWord, Ctx.engine, Ctx.lcore, serv.me]
      · simp [State.gotWord, serv.me]
      · simpa [State.gotWord, serv.strm] using h5
    · intro f hcan
      have hfault : fetchWord v pc = .fault := by
        by_cases hx : pc.extractLsb' 56 8 = 0
        · obtain h | ⟨hn, hh⟩ | ⟨pa, hpa, ⟨e, he⟩ | ⟨hok, hp⟩⟩ := hbad
          · exact absurd hx h
          · rw [fetchWord_unmapped hx hn]; exact if_neg (by simpa using hh)
          · exact fetchWord_homeless hx hpa he
          · rw [fetchWord_mapped hx hpa hok, if_pos hp]
        · exact fetchWord_outside hx
      have stays : step s = .next (f.arriveAt.trap 0x07 f.strm.pc) :=
        step_stay (turns.trans (front_fault hf ht (fetch_fault hw hfault)))
      have same : f.strm.pc = pc := by
        show (if v.strm.trapping then v else v.fetched pc).strm.pc = pc
        split
        · rfl
        · rw [serv.strm]
      rw [same] at stays
      exact ⟨_, stays, State.trap_entry _ 0x07 pc hcan (by decide)⟩
    · have hhold : fetchWord v pc = .hold := by rw [fetchWord_unmapped hx hn]; exact if_pos hh
      exact step_stay (turns.trans (front_hold hf ht (fetch_hold hw hhold)))
  · simp [h, turn, hs, hb]
  · rw [h, turn]

end Sys2Proof.Machine
end

section
namespace Sys2Proof.Machine

/-! ## Accesses that write nothing, and what they leave in reach (R291, R299, R302) -/

/-- A context is as it was, but for what is known of errors in the words of its memories; no more of them fail. -/
structure Touched (a b : Ctx) : Prop where
  only : Worn a b
  spad : ∀ w ∈ b.spadBad, w ∈ a.spadBad
  priv : ∀ w ∈ b.privBad, w ∈ a.privBad

theorem Touched.refl (a : Ctx) : Touched a a := ⟨rfl, fun _ h => h, fun _ h => h⟩

theorem Touched.trans {a b c : Ctx} (h : Touched a b) (k : Touched b c) : Touched a c := by
  refine ⟨?_, fun w hw => h.spad w (k.spad w hw), fun w hw => h.priv w (k.priv w hw)⟩
  have h1 := h.only
  have h2 := k.only
  unfold Worn at *
  conv => lhs; rw [h2, h1]

theorem Touched.id {a b : Ctx} (h : Touched a b) : b.id = a.id := by rw [h.only]
theorem Touched.life {a b : Ctx} (h : Touched a b) : b.life = a.life := by rw [h.only]

theorem badWord_of_subset {l m : List Nat} {off n : Nat} (h : ∀ w ∈ m, w ∈ l) (hb : badWord l off n = false) :
    badWord m off n = false := by
  simp only [badWord, List.any_eq_false] at hb ⊢
  exact fun w hw => hb w (h w hw)

theorem mem_bad_filter {l : List (Nat × Bool)} {p : Nat × Bool → Bool} {w : Nat}
    (h : w ∈ ((l.filter p).filter (·.2)).map (·.1)) : w ∈ (l.filter (·.2)).map (·.1) := by
  obtain ⟨f, hf, rfl⟩ := List.mem_map.1 h
  obtain ⟨hf, hb⟩ := List.mem_filter.1 hf
  exact List.mem_map.2 ⟨f, List.mem_filter.2 ⟨(List.mem_filter.1 hf).1, hb⟩, rfl⟩

/-- Where no error of the words of an access is uncorrectable, meeting them corrects them. -/
theorem Ctx.wordsMet_touched (priv : Bool) (off n : Nat) (c : Ctx) : Touched c (c.wordsMet priv off n []) := by
  refine ⟨c.wordsMet_worn priv off n [], fun w hw => ?_, fun w hw => ?_⟩
  · cases priv
    · exact (List.mem_append.1 hw).elim (List.mem_append_left _) fun h => List.mem_append_right _ (mem_bad_filter h)
    · exact hw
  · cases priv
    · exact hw
    · exact (List.mem_append.1 hw).elim (List.mem_append_left _) fun h => List.mem_append_right _ (mem_bad_filter h)

/-- From s to t accesses have been made that write nothing: no byte but the counters has changed, and no more atoms or words fail. -/
structure Passing (s t : State) : Prop where
  only : t = { s with me := t.me, rest := t.rest, hub := t.hub, mem := t.mem, sram := t.sram, bdies := t.bdies,
                      poison := t.poison, flips := t.flips }
  me : Touched s.me t.me
  rest : ∃ f : Ctx → Ctx, t.rest = s.rest.map f ∧ ∀ c, Touched c (f c)
  hub : HubNoted s.hub t.hub
  dies : DiesKept s t
  atoms : ∀ a ∈ t.badAtoms, a ∈ s.badAtoms
  mem : s.mem.wf = true → t.mem.wf = true ∧ SameGlobal s t

theorem Serviced.passing {s t : State} (h : Serviced s t) (ha : ∀ a ∈ t.badAtoms, a ∈ s.badAtoms) : Passing s t := by
  refine ⟨?_, h.me ▸ .refl _, ⟨fun c => c, by simp [h.rest], .refl⟩, h.hub, h.dies, ha, h.mem⟩
  conv => lhs; rw [h.only]
  rw [h.me, h.rest]

theorem LinesMoved.passing {s t : State} (h : LinesMoved s t) : Passing s t :=
  h.serviced.passing fun a ha => by rw [h.only] at ha; exact ha

theorem Noted.passing {s t : State} (h : Noted s t) : Passing s t :=
  h.serviced.passing fun a ha => by rw [h.only] at ha; exact ha

theorem Passing.refl (s : State) : Passing s s := (LinesMoved.refl s).passing

theorem Passing.trans {s t u : State} (h : Passing s t) (k : Passing t u) : Passing s u := by
  obtain ⟨f, hf, hft⟩ := h.rest
  obtain ⟨g, hg, hgt⟩ := k.rest
  refine ⟨?_, h.me.trans k.me, ⟨g ∘ f, by rw [hg, hf, List.map_map], fun c => (hft c).trans (hgt _)⟩, h.hub.trans k.hub,
    h.dies.trans k.dies, fun a ha => h.atoms a (k.atoms a ha), fun hw => ?_⟩
  · conv => lhs; rw [k.only, h.only]
  · obtain ⟨w1, e1⟩ := h.mem hw
    obtain ⟨w2, e2⟩ := k.mem w1
    exact ⟨w2, fun a ha => (e2 a fun hc => ha ((h.dies.isCounter _).1 hc)).trans (e1 a ha)⟩

theorem Passing.foldl {α : Type} {f : State → α → State} (h : ∀ s a, Passing s (f s a)) (l : List α) (s : State) :
    Passing s (l.foldl f s) := by
  induction l generalizing s with
  | nil => exact .refl s
  | cons a l ih => exact (h s a).trans (ih _)

theorem Passing.id {s t : State} (h : Passing s t) : t.me.id = s.me.id := h.me.id
theorem Passing.life {s t : State} (h : Passing s t) : t.me.life = s.me.life := h.me.life

theorem Passing.socketOf {s t : State} (h : Passing s t) (id : BitVec 12) : t.socketOf id = s.socketOf id := by rw [h.only]; rfl

theorem Passing.unanswered {s t : State} (h : Passing s t) (a b : Nat) : t.unanswered a b = s.unanswered a b := by
  have hc : t.cur = s.cur := by rw [h.only]
  unfold State.unanswered
  rw [hc, h.hub]
  rfl

theorem Passing.home {s t : State} (h : Passing s t) (sk pa : Nat) : homeState t sk pa = homeState s sk pa := by
  have ha : t.holdsAt pa = s.holdsAt pa := by
    have hm : t.moves = s.moves := by rw [h.only]
    unfold State.holdsAt
    rw [(h.dies _).2.2, hm]
  unfold homeState
  rw [ha]
  simp only [h.unanswered]
  rw [h.hub]
  rfl

theorem Passing.nothingWritten {s t : State} (h : Passing s t) (hw : s.mem.wf = true) : NothingWritten s t := by
  obtain ⟨f, hf, hft⟩ := h.rest
  refine nothingWritten_of (h.mem hw).2 h.id h.life (by rw [h.me.only]) (by rw [h.me.only]) ?_
  rw [hf, List.map_map]
  refine List.map_congr_left fun c _ => ?_
  show ((f c).id, (f c).spad) = _
  rw [(hft c).only]

theorem find?_map_id (l : List Ctx) (f : Ctx → Ctx) (hf : ∀ c, (f c).id = c.id) (id : BitVec 12) :
    (l.map f).find? (fun c => c.id == id) = (l.find? fun c => c.id == id).map f := by
  rw [List.find?_map]
  simp [hf]

/-- Another context is found where it was, touched at most. -/
theorem Passing.ctx?_other {s t : State} (h : Passing s t) {id : BitVec 12} {d : Ctx} (hd : s.ctx? id = some d) :
    ∃ e, t.ctx? id = some e ∧ Touched d e := by
  obtain ⟨f, hf, hft⟩ := h.rest
  have others : ∀ d, (s.rest.find? fun c => c.id == id) = some d → (t.rest.find? fun c => c.id == id) = some (f d) :=
    fun d hd => by rw [hf, find?_map_id _ _ (fun c => (hft c).id), hd]; rfl
  unfold State.ctx? State.ctxs at hd ⊢
  rw [h.life]
  by_cases hl : s.me.life = .none
  · rw [if_pos hl] at hd ⊢
    exact ⟨f d, others d hd, hft d⟩
  · rw [if_neg hl] at hd ⊢
    rw [List.find?_cons] at hd ⊢
    rw [h.id]
    cases hi : s.me.id == id
    · rw [hi] at hd
      exact ⟨f d, others d hd, hft d⟩
    · rw [hi] at hd
      cases hd
      exact ⟨t.me, rfl, h.me⟩

theorem Passing.reach {s t : State} (h : Passing s t) {d e : Ctx} (hd : d.life = .running) (he : Touched d e) (off n : Nat)
    (wr : Bool) : t.reach t.me e off n wr = s.reach s.me d off n wr := by
  rw [State.reach_running hd, State.reach_running (he.life.trans hd)]
  unfold State.unreached
  rw [h.id, he.id, h.socketOf, h.socketOf, h.unanswered]

/-- What can be written before can be written after. -/
theorem Passing.writable {s t : State} (h : Passing s t) {l : Loc} {n : Nat} (hl : s.me.life = .running) (hw : Writable s l n) :
    Writable t l n := by
  obtain ⟨hread, hrun⟩ := hw
  cases l with
  | glob pa va =>
    obtain ⟨h1, h2⟩ := hread
    refine ⟨⟨by rw [h.home, h.socketOf, h.id]; exact h1, ?_⟩, trivial⟩
    simp only [poisoned, List.any_eq_false] at h2 ⊢
    exact fun a ha => h2 a (h.atoms a ha)
  | priv off => exact ⟨badWord_of_subset h.me.priv hread, trivial⟩
  | spad core off =>
    have hc : t.me.lcore = s.me.lcore := by unfold Ctx.lcore; rw [h.id]
    by_cases hcore : core = s.me.lcore
    · have hb := (readable_spad_me hcore off n).1 hread
      refine ⟨(readable_spad_me (hcore.trans hc.symm) off n).2 (badWord_of_subset h.me.spad hb), t.me, ?_, h.life.trans hl⟩
      rw [hcore, ← hc, show ctxIdOf (instOf t.me.id) t.me.lcore = t.me.id from ctxIdOf_lcoreOf _]
      exact State.ctx?_me (by simp [h.life, hl])
    · obtain ⟨d, hd, hdl⟩ := hrun
      obtain ⟨d', hd', hst, hreach, hb⟩ := (readable_spad_other hcore off n).1 hread
      cases hd.symm.trans hd'
      obtain ⟨e, he, het⟩ := h.ctx?_other hd
      rw [← h.id] at he
      exact ⟨(readable_spad_other (fun hi => hcore (hi.trans hc)) off n).2 ⟨e, he, het.life ▸ hst,
        (h.reach hdl het off n false).trans hreach, badWord_of_subset het.spad hb⟩, e, he, het.life.trans hdl⟩

/-! ### The accesses -/

theorem State.noteUnc_atoms (s : State) (a : Nat) : ∀ x ∈ (s.noteUnc (a * 32)).badAtoms, x = a ∨ x ∈ s.badAtoms := by
  intro x hx
  have hx : x ∈ (a * 32 / 32 :: s.poison.erase (a * 32 / 32)) ++ (s.flips.filter (·.2)).map (·.1) := hx
  rw [Nat.mul_div_cancel a (by decide)] at hx
  rcases List.mem_append.1 hx with h | h
  · rcases List.mem_cons.1 h with h | h
    · exact .inl h
    · exact .inr (List.mem_append_left _ (List.mem_of_mem_erase h))
  · exact .inr (List.mem_append_right _ h)

theorem State.noteCor_atoms (s : State) (pa : Nat) : (s.noteCor pa).badAtoms = s.badAtoms := by
  simp only [State.noteCor]
  rw [((State.lifeInc_noted _ _).trans (State.elog_noted ..)).only]
  rfl

/-- The uncorrectable errors that are met were so before. -/
theorem foldl_note_atoms (l : List (Nat × Bool)) (s : State) :
    ∀ x ∈ (l.foldl (fun s f => if f.2 then s.noteUnc (f.1 * 32) else s.noteCor (f.1 * 32)) s).badAtoms,
      x ∈ (l.filter (·.2)).map (·.1) ∨ x ∈ s.badAtoms := by
  induction l generalizing s with
  | nil => exact fun x hx => .inr hx
  | cons f l ih =>
    intro x hx
    rw [List.foldl_cons] at hx
    cases hf : f.2 with
    | true =>
      rw [List.filter_cons, if_pos (by simpa using hf), List.map_cons, List.mem_cons]
      rcases ih _ x hx with h | h
      · exact .inl (.inr h)
      · rw [hf, if_pos rfl] at h
        exact (s.noteUnc_atoms f.1 x h).imp .inl fun h => h
    | false =>
      rw [List.filter_cons, if_neg (by simp [hf])]
      refine (ih _ x hx).imp_right fun h => ?_
      rw [hf, if_neg Bool.false_ne_true, State.noteCor_atoms] at h
      exact h

theorem State.meet_passing (s : State) (pa n : Nat) : Passing s (s.meet pa n) := by
  refine (s.meet_serviced pa n).passing fun a ha => ?_
  rcases foldl_note_atoms _ _ a ha with h | h
  · exact List.mem_append_right _ (mem_bad_filter h)
  · exact (List.mem_append.1 h).elim (List.mem_append_left _) fun h => List.mem_append_right _ (mem_bad_filter h)

theorem State.countWalk_passing (s : State) (w : Walk) (who : Option (BitVec 12 × BitVec 7)) : Passing s (s.countWalk w who) := by
  have reads := Passing.foldl (f := fun (s : State) a => (s.sramRead a 8 0).meet a 8)
    (fun s a => (s.sramRead_moved a 8 0).passing.trans (State.meet_passing ..)) w.reads s
  unfold State.countWalk
  dsimp only
  split
  · exact reads.trans ((State.lifeInc_noted ..).trans (State.logBad_noted ..)).passing
  · exact reads

theorem State.walked_passing (s : State) (ea : W64) (wr : Bool) : Passing s (s.walked ea wr) := by
  unfold State.walked
  split
  · exact s.countWalk_passing _ _
  · exact .refl s

theorem State.modCtx_passing (s : State) (id : BitVec 12) (f : Ctx → Ctx) (hf : ∀ c, Touched c (f c)) : Passing s (s.modCtx id f) := by
  obtain ⟨hu, hm, g, hg, hgf⟩ := s.modCtx_parts id f
  refine ⟨?_, ?_, ⟨g, hg, fun c => ?_⟩, ?_, .of_bdies (by rw [hu]), fun a ha => by rw [hu] at ha; exact ha, fun hw => ?_⟩
  · conv => lhs; rw [hu]
    rw [hu]
  · exact hm.elim (fun e => e ▸ .refl _) fun e => e ▸ hf _
  · rcases hgf c with e | e
    · rw [e]; exact .refl c
    · rw [e]; exact hf c
  · rw [hu]; exact .refl _
  · rw [hu]; exact ⟨hw, fun _ _ => rfl⟩

/-- Meeting the errors of words none of which fails. -/
theorem State.meetWords_passing (s : State) (id : BitVec 12) (priv : Bool) (off n : Nat)
    (h : ∀ c, s.ctx? id = some c → badWord (c.badIn priv) off n = false) : Passing s (s.meetWords id priv off n) := by
  cases hc : s.ctx? id with
  | none => rw [State.meetWords_none hc]; exact .refl s
  | some c =>
    rw [State.meetWords_some hc]
    split
    · exact .refl s
    · rw [Ctx.metWords_good (h c hc)]
      exact (s.modCtx_passing id _ (Ctx.wordsMet_touched priv off n)).trans
        (Noted.foldl (fun s f => (State.lifeInc_noted _ _).trans (State.elog_noted ..)) _ _).passing

/-- Bytes that can be read and written are read, and stay in reach. -/
theorem State.locRead_passing (s : State) (l : Loc) (n : Nat) (cache : BitVec 2) (hl : s.me.life = .running)
    (h : Writable s l n) : ∃ t, s.locRead s.me l n cache = .ok ((List.range n).map (byteAt s l), t) ∧ Passing s t := by
  obtain ⟨hread, hrun⟩ := h
  have hme := State.ctx?_me (s := s) (by simp [hl])
  cases l with
  | glob pa va =>
    obtain ⟨h1, h2⟩ := hread
    refine ⟨_, ?_, (s.sramRead_moved pa n cache).passing.trans (State.meet_passing _ pa n)⟩
    simp only [State.locRead, State.globRead, h1, h2, Mem.read_eq_map]
    rfl
  | priv off =>
    have hb : badWord s.me.privBad off n = false := hread
    refine ⟨_, ?_, s.meetWords_passing s.me.id true off n fun c hc => ?_⟩
    · simp only [State.locRead, Ctx.privRead, hb, Mem.read_eq_map]
      rfl
    · rw [hme] at hc; cases hc; exact hb
  | spad core off =>
    by_cases hc : core = s.me.lcore
    · have hb := (readable_spad_me hc off n).1 hread
      refine ⟨_, ?_, s.meetWords_passing s.me.id false off n fun c hc => ?_⟩
      · simp only [State.locRead, if_pos hc, Ctx.spadRead, hb, Mem.read_eq_map, byteAt_spad_me hc]
        rfl
      · rw [hme] at hc; cases hc; exact hb
    · obtain ⟨d, hd, hst, hr, hb⟩ := (readable_spad_other hc off n).1 hread
      obtain ⟨d', hd', hdl⟩ := hrun
      cases hd.symm.trans hd'
      have near : s.readAway d off n = s := if_neg (by simp [Ctx.away, hdl])
      refine ⟨_, ?_, s.meetWords_passing d.id false off n fun c hc => ?_⟩
      · simp only [State.locRead, if_neg hc, State.view_eq hd hst, hr, Ctx.spadRead, hb, Mem.read_eq_map,
          byteAt_spad_other hc hd, near]
        rfl
      · rw [(State.ctx?_mem hd).2, hd] at hc; cases hc; exact hb

end Sys2Proof.Machine
end

section
namespace Sys2Proof.Machine

/-! ## Atomics (R107 to R109) -/

/-- The logical core of a place fits a CTXID (R11, R31). -/
theorem checkPtr_realLoc {s : State} {p : W64} {n core off base : Nat} {h : BitVec 8}
    (hc : checkPtr s s.me p n = .ok (.tile core h off base)) : core < 256 := by
  unfold checkPtr at hc
  split at hc
  · cases hc
  next h1 =>
    split at hc
    · cases hc
    · split at hc
      · cases hc
      · split at hc
        · cases hc
        · dsimp only at hc
          split at hc
          · cases hc
          next h0 =>
            split at hc
            · cases hc
            next h8 =>
              cases hc
              unfold ptrTileRef
              split
              · exact s.me.lcore_lt
              next h9 =>
                have h10 : (p.extractLsb' 44 12).toNat ≤ 207 := by
                  simp only [Bool.not_eq_true', Bool.not_eq_false, ptrCheck1, if_neg h0, if_neg h8, if_neg h9] at h1
                  split at h1
                  · exact absurd h1 Bool.false_ne_true
                  · simp only [Bool.if_false_right, Bool.and_eq_true, decide_eq_true_eq] at h1
                    exact h1.2.2
                show (p.extractLsb' 44 12).toNat < 256
                omega

theorem place_realLoc {s : State} {ea : W64} {n : Nat} {wr : Bool} {l : Loc} (h : place s ea n wr = .at l) : RealLoc l := by
  unfold place at h
  split at h
  · cases h
  next p hp =>
    split at h
    · cases h
    · split at h
      · cases h; trivial
      · cases h; exact checkPtr_realLoc hp
      · dsimp only at h
        split at h
        · split at h <;> cases h
        · cases h; trivial

/-! ### The clock stands while memory is written -/

theorem State.journal_cc (s : State) (i : BitVec 4) (pa n : Nat) : (s.journal i pa n).cc = s.cc := by
  obtain ⟨x, hx⟩ := s.journal_only i pa n
  rw [hx]

theorem State.meetWords_cc (s : State) (id : BitVec 12) (priv : Bool) (off n : Nat) : (s.meetWords id priv off n).cc = s.cc := by
  obtain ⟨f, -, hn, -⟩ := s.meetWords_spec id priv off n
  rw [hn.only]
  exact s.modCtx_cc id f

theorem Serviced.cc {s t : State} (h : Serviced s t) : t.cc = s.cc := by rw [h.only]

theorem State.withMem_cc (s : State) (m : Mem) : ({ s with mem := m } : State).cc = s.cc := rfl

theorem State.pokeAt_cc (s : State) (id : BitVec 12) (pa n : Nat) (p : Nat → Bool) :
    ((((s.healAtoms p).journal (instOf id) pa n).sramBulk pa n (some (id, 0xFE))).meet pa n).cc = s.cc := by
  have heal : (s.healAtoms p).cc = s.cc := rfl
  rw [(State.meet_serviced ..).cc, (State.sramBulk_moved ..).serviced.cc, State.journal_cc, heal]

theorem State.poke_cc (s : State) (id : BitVec 12) (segs : List (Nat × List Byte)) : (s.poke id segs).cc = s.cc := by
  unfold State.poke
  split
  · split
    · rfl
    · split
      · exact s.modCtx_cc ..
      · refine foldl_keep State.cc _ (fun s p => ?_) _ s
        refine (State.withMem_cc _ _).trans ?_
        generalize s.saveAddr id + p.1 = pa
        exact s.pokeAt_cc id pa p.2.length _
  · rfl

theorem State.globWrite_cc {s t : State} {sk pa : Nat} {bs : List Byte} {cache : BitVec 2} {i : BitVec 4} {w : Writer}
    (h : s.globWrite sk pa bs cache i w = .ok t) : t.cc = s.cc := by
  simp only [State.globWrite] at h
  split at h
  · cases h
  · cases h
  · split at h
    · cases h
    · cases h
      have hs : ((s.healAtoms (wholeAtom pa bs.length)).sramWrite pa bs.length cache (w.who i)).cc = s.cc :=
        (State.sramWrite_moved ..).serviced.cc
      show State.cc (if w.own then _ else _) = s.cc
      split
      · exact (State.journal_cc ..).trans ((State.meet_serviced ..).cc.trans hs)
      · exact (State.meet_serviced ..).cc.trans hs

theorem State.locWrite_cc {s t : State} {c : Ctx} {l : Loc} {bs : List Byte} {cache : BitVec 2} {w : Writer}
    (h : s.locWrite c l bs cache w = .ok t) : t.cc = s.cc := by
  cases l with
  | glob pa va => exact State.globWrite_cc h
  | priv off =>
    simp only [State.locWrite] at h
    split at h
    · cases h; exact (State.meetWords_cc ..).trans (State.modCtx_cc ..)
    · cases h
  | spad core off =>
    simp only [State.locWrite] at h
    split at h
    · split at h
      · cases h
      · cases h
      · split at h
        · cases h; exact (State.meetWords_cc ..).trans ((State.poke_cc ..).trans (State.modCtx_cc ..))
        · cases h
    · cases h

theorem State.bear_cc (s : State) (c : Ctx) (l : Loc) (n : Nat) (k : Known) (scope : BitVec 3) (dsl : Nat) :
    (s.bear c l n k scope dsl).cc = s.cc := by
  cases l with
  | glob pa va => rfl
  | priv off => rfl
  | spad core off => exact s.modCtx_cc ..

section Atomic
variable {s : State} {d a : BitVec 5} {z : BitVec 1} {l : Loc}

/-- The old value of an atomic access, as its operation sees it. -/
def State.amoOld (s : State) (z : BitVec 1) (l : Loc) : W64 :=
  amoView z (BitVec.ofNat 64 (leNat ((List.range (amoSize z)).map (byteAt s l))))

/-- What an atomic access leaves of its context besides memory, as the statement has it. -/
def AmoMoves (s : State) (d : BitVec 5) (old : W64) (tn : Bool) (t : State) : Prop :=
  GWrite s t d old tn ∧ GoesOn s.me.s t.me.s (s.me.s.pc + 4) s.cc ∧ t.me.nflags = s.me.nflags ∧ t.me.t = s.me.t ∧
  t.me.sq = s.me.sq ∧ t.me.v = s.me.v ∧ t.me.m = s.me.m ∧ t.me.cp = s.me.cp ∧ t.me.f = s.me.f ∧ t.me.tiles = s.me.tiles

/-- The end of an atomic access: the stream acquires, g[d] takes the old value, and the stream goes on. -/
def State.amoEnd (s : State) (d : BitVec 5) (old : W64) (tn : Bool) (got : Known) : State :=
  ({ s with me := (s.me.acquire .s got).wg d old tn }).retireS

theorem State.amoEnd_moves {s t : State} (h : MemoriesOnly s.me t.me) (hc : t.cc = s.cc) (d : BitVec 5) (old : W64) (tn : Bool)
    (got : Known) : AmoMoves s d old tn (t.amoEnd d old tn got) := by
  have hs : t.me.s = s.me.s := by rw [h]
  have hg : ((t.me.acquire .s got).wg d old tn).g = (s.me.wg d old tn).g ∧
      ((t.me.acquire .s got).wg d old tn).taint = (s.me.wg d old tn).taint := by
    rw [h]; unfold Ctx.wg; split <;> exact ⟨rfl, rfl⟩
  refine ⟨gWrite_wg hg.1 hg.2, ?_, ?_⟩
  · have hst : (t.amoEnd d old tn got).me.s = t.me.s.next (t.me.s.pc + 4) t.cc := by simp [State.amoEnd, State.retireS, Ctx.acquire]
    rw [hst, hs, hc]
    exact Strm.next_goesOn ..
  · simp only [State.amoEnd, State.retireS, Ctx.acquire, Ctx.wg_nflags, Ctx.wg_t, Ctx.wg_sq, Ctx.wg_v, Ctx.wg_m, Ctx.wg_cp,
      Ctx.wg_f, Ctx.wg_tiles]
    rw [h]
    exact ⟨rfl, rfl, rfl, rfl, rfl, rfl, rfl, rfl⟩

theorem State.amoEnd_keeps (s : State) (d : BitVec 5) (old : W64) (tn : Bool) (got : Known) :
    SameCtxMems s (s.amoEnd d old tn got) ∧ (s.amoEnd d old tn got).mem = s.mem :=
  ⟨⟨by simp [State.amoEnd, State.retireS, Ctx.acquire], by simp [State.amoEnd, State.retireS, Ctx.acquire],
    by simp [State.amoEnd, State.retireS, Ctx.acquire], by simp [State.amoEnd, State.retireS, Ctx.acquire], rfl⟩, rfl⟩

/-- Bytes that are no counters read after such accesses as before. -/
theorem Passing.byteAt {s t : State} (h : Passing s t) (hw : s.mem.wf = true) {l : Loc} {n : Nat}
    (hc : ∀ k, k < n → ∀ pa va, l = .glob pa va → ¬ IsCounter s (.glob (pa + k) 0)) {k : Nat} (hk : k < n) :
    byteAt t l k = byteAt s l k := by
  cases l with
  | glob pa va => exact (h.mem hw).2 (pa + k) (hc k hk pa va rfl)
  | priv off => exact congrArg (fun m => m.get (off + k)) (show t.me.priv = s.me.priv by rw [h.me.only])
  | spad core off =>
    exact h.nothingWritten hw (.spad core (off + k)) fun ⟨_, _, _, _, he⟩ => Loc.noConfusion he

theorem Passing.wf {s t : State} (h : Passing s t) (hr : ∀ c ∈ s.rest, c.spad.wf = true) : ∀ c ∈ t.rest, c.spad.wf = true := by
  obtain ⟨f, hf, hft⟩ := h.rest
  intro c hc
  rw [hf] at hc
  obtain ⟨b, hb, rfl⟩ := List.mem_map.1 hc
  rw [(hft b).only]
  exact hr b hb

theorem Touched.memoriesOnly {a b : Ctx} (h : Touched a b) : MemoriesOnly a b := h.only.memoriesOnly

/-- The read of an atomic access that completes, and the write-backs of its release: they write nothing, and its bytes stay in
reach. -/
theorem amo_reads (hm : s.mem.wf = true) (hl : s.me.life = .running) (hd : s.me.sDone = true)
    (hp : place s (s.me.rg a) (amoSize z) true = .at l) (hw : Writable s l (amoSize z))
    (hc : ∀ k, k < amoSize z → ∀ pa va, l = .glob pa va → ¬ IsCounter s (.glob (pa + k) 0)) (d : BitVec 5) (tn : Bool)
    (new : W64 → Option W64) : ∃ u got, Passing s u ∧
      (new (s.amoOld z l) = none → s.amo d a z tn new = .next (u.amoEnd d (s.amoOld z l) tn got)) ∧
      (∀ v t, new (s.amoOld z l) = some v →
        u.locWrite u.me l (leBytes (amoSize z) v.toNat) (mCache s.me s.me.s) { kind := 0, ctx := s.me.id, st := 0, seq := s.me.s.seq } =
          .ok t → ∃ k, s.amo d a z tn new = .next ((if releases (mOrder s.me s.me.s) then
            t.bear t.me l (amoSize z) k (mScope s.me s.me.s) s.me.dsl else t).amoEnd d (s.amoOld z l) tn got)) := by
  have pass1 := s.walked_passing (s.me.rg a) true
  obtain ⟨s2, hr, pass2⟩ := (s.walked (s.me.rg a) true).locRead_passing l (amoSize z) (mCache s.me s.me.s) (pass1.life.trans hl)
    (pass1.writable hl hw)
  have hbytes : (List.range (amoSize z)).map (byteAt (s.walked (s.me.rg a) true) l) = (List.range (amoSize z)).map (byteAt s l) :=
    List.map_congr_left fun k hk => pass1.byteAt hm hc (List.mem_range.1 hk)
  rw [hbytes] at hr
  have pass3 : Passing s2 (if releases (mOrder s.me s.me.s) && mScope s.me s.me.s = 4 then s2.release (s.me.gives .s s.tick) else s2) := by
    split
    · exact (s2.flushLines_moved _).1.passing
    · exact .refl s2
  refine ⟨_, if acquires (mOrder s.me s.me.s) then (s.walked (s.me.rg a) true).released s.me l (amoSize z) else [],
    (pass1.trans pass2).trans pass3, fun hn => ?_, fun v t hn ht => ⟨s.me.gives .s s.tick, ?_⟩⟩
  · unfold State.amo
    simp only [hp, hd, hr]
    unfold State.amoOld at hn ⊢
    rw [hn]
    rfl
  · unfold State.amo
    simp only [hp, hd, hr]
    unfold State.amoOld at hn ⊢
    rw [hn]
    simp only [ht]
    rfl

/-- What an atomic access that completes does: its operation writes, or not. -/
theorem amo_lands (hm : s.mem.wf = true) (hsp : s.me.spad.wf = true) (hpr : s.me.priv.wf = true)
    (hrest : ∀ c ∈ s.rest, c.spad.wf = true) (hl : s.me.life = .running) (hd : s.me.sDone = true)
    (hp : place s (s.me.rg a) (amoSize z) true = .at l) (hw : Writable s l (amoSize z))
    (hc : ∀ k, k < amoSize z → ∀ pa va, l = .glob pa va → ¬ IsCounter s (.glob (pa + k) 0)) (d : BitVec 5) (tn : Bool)
    (new : W64 → Option W64) :
    (new (s.amoOld z l) = none → ∃ t, s.amo d a z tn new = .next t ∧ AmoMoves s d (s.amoOld z l) tn t ∧ NothingWritten s t) ∧
    (∀ v, new (s.amoOld z l) = some v → ∃ t, s.amo d a z tn new = .next t ∧ AmoMoves s d (s.amoOld z l) tn t ∧
      (∀ k, k < amoSize z → byteAt t l k = v.extractLsb' (8 * k) 8) ∧ SameOutside s t l (amoSize z)) := by
  obtain ⟨u, got, pass, hnone, hsome⟩ := amo_reads hm hl hd hp hw hc d tn new
  have hucc : u.cc = s.cc := by rw [pass.only]
  refine ⟨fun hn => ⟨_, hnone hn, State.amoEnd_moves pass.me.memoriesOnly hucc .., fun x hx => ?_⟩, fun v hv => ?_⟩
  · obtain ⟨hk, hkm⟩ := u.amoEnd_keeps d (s.amoOld z l) tn got
    exact (hk.byteAt hkm x 0).trans (pass.nothingWritten hm x hx)
  · obtain ⟨t, ht, hwr⟩ := u.locWrite_writable l (leBytes (amoSize z) v.toNat) (mCache s.me s.me.s)
      { kind := 0, ctx := s.me.id, st := 0, seq := s.me.s.seq } (pass.mem hm).1 (by rw [pass.me.only]; exact hsp)
      (by rw [pass.me.only]; exact hpr) (pass.wf hrest) (pass.life.trans hl) (place_realLoc hp)
      (by rw [leBytes_length]; exact pass.writable hl hw)
    obtain ⟨k, hk⟩ := hsome v t hv ht
    obtain ⟨hb1, hb2, hb3⟩ := t.bear_keeps l (amoSize z) k (mScope s.me s.me.s) s.me.dsl
    have hwt : Writing u (if releases (mOrder s.me s.me.s) then t.bear t.me l (amoSize z) k (mScope s.me s.me.s) s.me.dsl else t) l
        (leBytes (amoSize z) v.toNat) := by
      split
      · exact hwr.keeps hb1 hb2 hb3
      · exact hwr
    have hcc : (if releases (mOrder s.me s.me.s) then t.bear t.me l (amoSize z) k (mScope s.me s.me.s) s.me.dsl else t).cc = s.cc := by
      rw [← hucc, ← State.locWrite_cc ht]
      split
      · exact t.bear_cc ..
      · rfl
    generalize (if releases (mOrder s.me s.me.s) then t.bear t.me l (amoSize z) k (mScope s.me s.me.s) s.me.dsl else t) = r at *
    obtain ⟨hin, hout, hme⟩ := hwt
    rw [leBytes_length] at hout
    obtain ⟨he, hem⟩ := r.amoEnd_keeps d (s.amoOld z l) tn got
    refine ⟨_, hk, State.amoEnd_moves (pass.me.memoriesOnly.trans hme) hcc .., fun k hk => ?_, fun y hy ho hcy => ?_⟩
    · rw [he.byteAt hem, hin k (by simpa using hk), leBytes_extract _ _ _ hk]
    · exact (he.byteAt hem y 0).trans ((hout y hy ho fun h => hcy ((pass.dies.isCounter y).1 h)).trans
        (pass.nothingWritten hm y hcy))

end Atomic

/-! ### What the operations write (R107, R108) -/

/-- Numbers whose low bits agree have the same low bytes. -/
theorem lowBytes_eq {z : BitVec 1} {v w : W64} (h : z ≠ 1 → v.setWidth 32 = w.setWidth 32) (hz : z = 1 → v = w) {k : Nat}
    (hk : k < amoSize z) : v.extractLsb' (8 * k) 8 = w.extractLsb' (8 * k) 8 := by
  by_cases h1 : z = 1
  · rw [hz h1]
  · have hk4 : k < 4 := by rwa [amoSize, if_neg h1] at hk
    refine BitVec.eq_of_getLsbD_eq fun j hj => ?_
    have hb := congrArg (fun x => x.getLsbD (8 * k + j)) (h h1)
    simpa [BitVec.getLsbD_extractLsb', BitVec.getLsbD_setWidth, hj, show 8 * k + j < 32 by omega] using hb

/-- The value that an operation sees has the low bits of the register. -/
theorem amoView_low (z : BitVec 1) (v : W64) : (amoView z v).setWidth 32 = v.setWidth 32 := by
  unfold amoView sextW
  split
  · rfl
  · refine BitVec.eq_of_getLsbD_eq fun j hj => ?_
    simp only [BitVec.getLsbD_setWidth, BitVec.getLsbD_signExtend, hj, show j < 64 by omega, decide_true, Bool.true_and, if_true]

theorem amoView_all {z : BitVec 1} (h : z = 1) (v : W64) : amoView z v = v := if_pos h

theorem ite_slt (x y : W64) : (if x.slt y then x else y) = if x.toInt < y.toInt then x else y := by
  simp only [BitVec.slt_iff_toInt_lt]

theorem ite_slt_swap (x y : W64) : (if y.slt x then x else y) = if y.toInt < x.toInt then x else y := by
  simp only [BitVec.slt_iff_toInt_lt]

theorem ite_ult (x y : W64) : (if x.ult y then x else y) = if x.toNat < y.toNat then x else y := by
  simp only [BitVec.ult_iff_lt, BitVec.lt_def]

theorem ite_ult_swap (x y : W64) : (if y.ult x then x else y) = if y.toNat < x.toNat then x else y := by
  simp only [BitVec.ult_iff_lt, BitVec.lt_def]

/-- Settles O6: the accesses of an atomic that completes keep its bytes in reach, and what each operation writes has the low bytes of
the value that the statement names. -/
theorem atomicsReadModifyWrite : Obligations.AtomicsReadModifyWrite := by
  unfold Obligations.AtomicsReadModifyWrite
  intro s d a b z l hm hsp hpr hrest hl hd n hp hw hc raw view old y moves swap swaps tn
  have lands := amo_lands (z := z) hm hsp hpr hrest hl hd hp hw hc d
  have op : ∀ {i : Instr} {tn : Bool} (new : W64 → Option W64) (v w : W64), (exec i s = s.amo d a z tn new) → new old = some w →
      (z ≠ 1 → w.setWidth 32 = v.setWidth 32) → (z = 1 → w = v) → Completes i s (swap tn v) := by
    intro i tn new v w hi hn hlow hall
    obtain ⟨t, ht, hmoves, hbytes, hout⟩ := (lands tn new).2 w hn
    exact ⟨t, hi.trans ht, hmoves, fun k hk => (hbytes k hk).trans (lowBytes_eq hlow hall hk), hout⟩
  have same : ∀ {i : Instr} (new : W64 → Option W64) (v : W64), (exec i s = s.amo d a z false new) → new old = some v →
      Completes i s (swaps v) := fun new v hi hn => op new v v hi hn (fun _ => rfl) fun _ => rfl
  have low : y.setWidth 32 = (s.me.rg b).setWidth 32 := amoView_low z _
  have all : z = 1 → s.me.rg b = y := fun h => (amoView_all h _).symm
  let cas := fun old => if old = amoView z (s.me.rg d) then some (s.me.rg b) else none
  refine ⟨op (fun _ => some (s.me.rg b)) y _ rfl rfl (fun _ => low.symm) all,
    op (fun old => some (old + s.me.rg b)) (old + y) _ rfl rfl (fun _ => ?_) (fun h => by rw [all h]),
    op (fun old => some (old &&& s.me.rg b)) (old &&& y) _ rfl rfl (fun _ => ?_) (fun h => by rw [all h]),
    op (fun old => some (old ||| s.me.rg b)) (old ||| y) _ rfl rfl (fun _ => ?_) (fun h => by rw [all h]),
    op (fun old => some (old ^^^ s.me.rg b)) (old ^^^ y) _ rfl rfl (fun _ => ?_) (fun h => by rw [all h]),
    same (fun old => some (if y.slt old then y else old)) _ rfl (congrArg some (ite_slt y old)),
    same (fun old => some (if old.slt y then y else old)) _ rfl (congrArg some (ite_slt_swap y old)),
    same (fun old => some (if y.ult old then y else old)) _ rfl (congrArg some (ite_ult y old)),
    same (fun old => some (if old.ult y then y else old)) _ rfl (congrArg some (ite_ult_swap y old)),
    fun he => op cas y _ rfl (if_pos he) (fun _ => low.symm) all, fun hne => (lands tn cas).1 (if_neg hne)⟩
  · rw [BitVec.setWidth_add _ _ (by decide), BitVec.setWidth_add _ _ (by decide), low]
  · rw [BitVec.setWidth_and, BitVec.setWidth_and, low]
  · rw [BitVec.setWidth_or, BitVec.setWidth_or, low]
  · rw [BitVec.setWidth_xor, BitVec.setWidth_xor, low]

end Sys2Proof.Machine
end

section
namespace Sys2Proof.Machine

/-! ## Packets of seeds, levels and signals (R261, R262, R277, R287) -/

section Packets
variable {s : State} {p : Packet} {l : List Packet}

/-- The sequencer executes the packet at the head of the queue that the event names. -/
def State.Granted (s : State) (p : Packet) (l : List Packet) : Prop :=
  s.hub.active = true ∧ s.hub.statWait = [] ∧ (s.inst s.cur.inst).granted = true ∧ (s.inst s.cur.inst).waiting = false ∧
    (s.inst s.cur.inst).pkts = p :: l

/-- What stays of the queue whose packet has executed. -/
def Inst.done (x : Inst) (l : List Packet) : Inst := { x with pkts := l, granted := false, waiting := false }

theorem State.Granted.packet (h : s.Granted p l) {n : Nat} (ho : p.op.toNat = n) : s.packet n = some p := by
  obtain ⟨ha, hs, hg, hw, hp⟩ := h
  simp [State.packet, ha, hs, hg, hw, hp, ho]

theorem exec_reel (h : s.Granted p l) (hx : (s.inst s.cur.inst).holds = true) {j : Instr} {n : Nat} {go : BitVec 4 → Packet → State}
    (hj : exec j s = s.withReel n go) (ho : p.op.toNat = n) : exec j s = .next (go s.cur.inst p) := by
  rw [hj, State.withReel, h.packet ho]
  exact congrArg _ (if_pos hx)

/-- Without a reel, a packet is answered at once (R262). -/
theorem exec_reelless (h : s.Granted p l) (hx : (s.inst s.cur.inst).holds = false) {j : Instr} {n : Nat}
    {go : BitVec 4 → Packet → State} (hj : exec j s = s.withReel n go) (ho : p.op.toNat = n) :
    exec j s = .next (s.packetStatus s.cur.inst p 2 0) := by
  rw [hj, State.withReel, h.packet ho]
  exact congrArg _ (if_neg (by simp [hx]))

theorem exec_pushseed (s : State) : exec .pushseed s = s.withReel (2 : BitVec 8).toNat fun i p =>
    if p.arg.getLsbD 0 then
      if !s.hub.entropyOk then s.modInst i fun x => { x with waiting := true }
      else (s.drawSeed 2 i 0 (s.instTake i).toNat).2.pend i p (s.drawSeed 2 i 0 (s.instTake i).toNat).1 p.w3
    else s.pend i p (p.w2 ++ p.w1) p.w3 := rfl

theorem exec_popseed (s : State) : exec .popseed s = s.withReel (3 : BitVec 8).toNat fun i p => s.pend i p 0 p.w3 := rfl

theorem exec_forkseed (s : State) : exec .forkseed s = s.withReel (4 : BitVec 8).toNat fun i p => s.pend i p 0 p.w3 := rfl

theorem exec_setlevel (s : State) : exec .setlevel s = s.withReel (5 : BitVec 8).toNat fun i p => s.pend i p 0 0 := rfl

theorem exec_signal (s : State) : exec .signal s = s.withReel (6 : BitVec 8).toNat fun i p =>
    if (s.inst i).pending.isEmpty then s.packetStatus i p 0x00 (p.arg.setWidth 64)
    else s.modInst i fun x => { x with waiting := true } := rfl

/-- The pending change that a packet becomes (R277, R287). -/
def State.changeOf (s : State) (i : BitVec 4) (p : Packet) (seed : W128) (take : W64) : Change :=
  { op := p.op, tag := p.tag, arg := p.arg, seed := seed, take := take, late := take ≠ 0 && take.toNat ≤ (s.instTake i).toNat }

theorem State.pend_only (s : State) (i : BitVec 4) (p : Packet) (seed : W128) (take : W64) {l : List Packet}
    (hp : (s.inst i).pkts = p :: l) :
    OnlyInst s (s.pend i p seed take) i { (s.inst i).done l with pending := (s.inst i).pending ++ [s.changeOf i p seed take] } ∧
      s.pend i p seed take = { s with insts := (s.pend i p seed take).insts } := by
  refine ⟨fun j => ?_, rfl⟩
  unfold State.pend State.packetDone
  by_cases h : j = i
  · subst h
    simp only [State.modInst_inst, if_true, hp, List.tail_cons]
    rfl
  · simp only [State.modInst_inst, if_neg h]

/-- Answering with a status record ends the packet. -/
theorem answers_packetStatus (h : s.Granted p l) {j : Instr} {code : BitVec 8} {v : W64}
    (hj : exec j s = .next (s.packetStatus s.cur.inst p code v)) :
    Completes j s fun t => OnlyInst s t s.cur.inst ((s.inst s.cur.inst).done l) ∧ t = { s with insts := t.insts, hub := t.hub } ∧
      Recorded s.hub t.hub { code := code, tag := p.tag, inst := s.cur.inst, op := p.op, value := v } := by
  obtain ⟨-, -, -, -, hp⟩ := h
  obtain ⟨hr, ho, ht⟩ := s.packetStatus_spec s.cur.inst p l code v hp
  exact ⟨_, hj, ho, ht, hr⟩

theorem waits_modInst {j : Instr} (hj : exec j s = .next (s.modInst s.cur.inst fun x => { x with waiting := true })) :
    Completes j s fun t => OnlyInst s t s.cur.inst { s.inst s.cur.inst with waiting := true } ∧ t = { s with insts := t.insts } :=
  ⟨_, hj, s.modInst_only _ _, rfl⟩

theorem pends_pend (h : s.Granted p l) {j : Instr} {seed : W128} {take : W64}
    (hj : exec j s = .next (s.pend s.cur.inst p seed take)) :
    Completes j s fun t => OnlyInst s t s.cur.inst { (s.inst s.cur.inst).done l with
        pending := (s.inst s.cur.inst).pending ++ [s.changeOf s.cur.inst p seed take] } ∧ t = { s with insts := t.insts } := by
  obtain ⟨-, -, -, -, hp⟩ := h
  obtain ⟨ho, ht⟩ := s.pend_only s.cur.inst p seed take hp
  exact ⟨_, hj, ho, ht⟩

/-- The entry of the seed log for an entropy seed of PUSHSEED (R374). -/
def State.pushEntry (s : State) (i : BitVec 4) : List Byte :=
  leBytes 8 s.hub.slogCnt.toNat ++ [2, i.setWidth 8, 0, 0] ++ leBytes 4 (s.instTake i).toNat ++
    leBytes 16 (Config.entropy s.hub.entropyN).toNat

/-- The hub once a seed has left the entropy source. -/
def Hub.drawn (h : Hub) (entry : List Byte) : Hub :=
  { h with entropyN := h.entropyN + 1, slogCnt := h.slogCnt + 1,
           seedLog := (h.slogCnt.toNat % 1024, entry) :: h.seedLog.filter fun p => p.1 != h.slogCnt.toNat % 1024 }

theorem drawSeed_push (s : State) (i : BitVec 4) :
    s.drawSeed 2 i 0 (s.instTake i).toNat = (Config.entropy s.hub.entropyN,
      ({ s with hub := s.hub.drawn (s.pushEntry i) } : State).modInst i fun y =>
        { y with seedDigest := sha3 (y.seedDigest ++ s.pushEntry i) }) := rfl

/-- PUSHSEED with a seed of the entropy source: the seed is logged, and its change pends. -/
theorem pend_drawn (s : State) (p : Packet) {l : List Packet} (i : BitVec 4) (hp : (s.inst i).pkts = p :: l) :
    let r := s.drawSeed 2 i 0 (s.instTake i).toNat
    let t := r.2.pend i p r.1 p.w3
    OnlyInst s t i { (s.inst i).done l with
      pending := (s.inst i).pending ++ [s.changeOf i p (Config.entropy s.hub.entropyN) p.w3],
      seedDigest := sha3 ((s.inst i).seedDigest ++ s.pushEntry i) } ∧ t = { s with insts := t.insts, hub := s.hub.drawn (s.pushEntry i) } := by
  intro r t
  have hr : r = _ := drawSeed_push s i
  have hi : ∀ j, r.2.inst j = if j = i then { s.inst i with seedDigest := sha3 ((s.inst i).seedDigest ++ s.pushEntry i) } else s.inst j :=
    fun j => by rw [hr]; exact State.modInst_inst ..
  have hii := hi i
  rw [if_pos rfl] at hii
  obtain ⟨ho, ht⟩ := r.2.pend_only i p r.1 p.w3 (l := l) (by rw [hii]; exact hp)
  refine ⟨fun j => ?_, ht⟩
  rw [ho j, hii, hi j]
  by_cases h : j = i
  · rw [if_pos h, if_pos h, hr]; rfl
  · rw [if_neg h, if_neg h, if_neg h]

theorem Hub.drawn_seedLog (h : Hub) (entry : List Byte) :
    (h.drawn entry).seedLog.lookup (h.slogCnt.toNat % 1024) = some entry ∧
      ∀ k, k ≠ h.slogCnt.toNat % 1024 → (h.drawn entry).seedLog.lookup k = h.seedLog.lookup k := by
  refine ⟨by simp [Hub.drawn], fun k hk => ?_⟩
  show List.lookup k ((_, entry) :: _) = _
  rw [List.lookup_cons, beq_false_of_ne hk]
  exact lookup_filter_ne _ hk

end Packets

/-- Settles O42: what `withReel` answers, with or without a reel, and the change or the record that each packet leaves. -/
theorem seedLevelAndSignalPackets : Obligations.SeedLevelAndSignalPackets := by
  unfold Obligations.SeedLevelAndSignalPackets
  intro s p l i x granted done late change pends waits answers
  refine ⟨fun h hx => ?_, fun ha hs hp hw ho => ?_, fun h hx => ?_⟩
  · have h : s.Granted p l := h
    have hp : x.pkts = p :: l := h.2.2.2.2
    have reel : ∀ {j : Instr} {op : BitVec 8} {go : BitVec 4 → Packet → State}, exec j s = s.withReel op.toNat go → p.op = op →
        exec j s = .next (go i p) := fun hj ho => exec_reel h hx hj (congrArg BitVec.toNat ho)
    refine ⟨fun ho hb => pends_pend h ((reel (exec_pushseed s) ho).trans (congrArg _ (if_neg (ne_true_of_eq_false hb)))), fun ho hb he => ?_,
      fun ho hb he => ?_, fun ho => pends_pend h (reel (exec_popseed s) ho), fun ho => pends_pend h (reel (exec_forkseed s) ho),
      fun ho => pends_pend h (reel (exec_setlevel s) ho), fun ho hx => ?_, fun ho hx => ?_⟩
    · obtain ⟨hi, ht⟩ := pend_drawn s p i hp
      refine ⟨_, (reel (exec_pushseed s) ho).trans (congrArg _ ((if_pos hb).trans (if_neg (c := (!s.hub.entropyOk) = true) (by simp [he])))), hi, ?_⟩
      rw [ht]
      exact ⟨(s.hub.drawn_seedLog _).1, (s.hub.drawn_seedLog _).2, rfl⟩
    · exact waits_modInst ((reel (exec_pushseed s) ho).trans (congrArg _ ((if_pos hb).trans (if_pos (c := (!s.hub.entropyOk) = true) (by simp [he])))))
    · exact answers_packetStatus h ((reel (exec_signal s) ho).trans (congrArg _ (if_pos (List.isEmpty_iff.2 hx))))
    · exact waits_modInst ((reel (exec_signal s) ho).trans (congrArg _ (if_neg (mt List.isEmpty_iff.1 hx))))
  · have report : exec .signalReport s = if x.pending.isEmpty then .next (s.packetStatus i p 0x00 (p.arg.setWidth 64)) else .next s := by
      have hp' : (s.inst s.cur.inst).pkts = p :: l := hp
      have hw' : (s.inst s.cur.inst).waiting = true := hw
      show execSignalReport s = _
      simp [execSignalReport, hp', ha, hs, hw', ho, i, x]
    obtain ⟨hr, hi, ht⟩ := s.packetStatus_spec i p l 0 (p.arg.setWidth 64) hp
    exact ⟨fun hx => ⟨_, report.trans (if_pos (by simp [hx])), hi, ht, hr⟩,
      fun hx => ⟨s, report.trans (if_neg (by simpa using hx)), rfl⟩⟩
  · have h : s.Granted p l := h
    have answer : ∀ {j : Instr} {op : BitVec 8} {go : BitVec 4 → Packet → State}, exec j s = s.withReel op.toNat go → p.op = op →
        answers j 2 0 := fun hj ho => answers_packetStatus h (exec_reelless h hx hj (congrArg BitVec.toNat ho))
    exact ⟨answer (exec_pushseed s), answer (exec_popseed s), answer (exec_forkseed s), answer (exec_setlevel s), answer (exec_signal s)⟩

end Sys2Proof.Machine
end

section
namespace Sys2Proof.Machine

open BitVec

/-- A core without a context at which a C instruction acts, its tile 0 of 1024 bytes with an invalid code in entry 0, while the
only existing context, which has the same CTXID, has a correctable error in the first word of its scratchpad. -/
def strayFlip : State :=
  { State.reset with
    cur := { st := .c }
    me := { ({} : Ctx) with
      t := { tvec := 4 }, s := { halted := true }, e := { halted := true }
      spad := ({} : Mem).set 3 0xC0
      tiles := (Vector.replicate 256 {}).set 0 { valid := true, size := 1024 } }
    rest := [{ life := .running, flipSpad := [(0, false)] }] }

/-- The lifetime counters that an instruction leaves behind. -/
def livesAfter : Res → List (Nat × W64)
  | .next t => t.hub.life
  | _ => []

theorem strayFlip_tile : strayFlip.me.tile 0 = { valid := true, size := 1024 } := by decide +kernel

theorem strayFlip_codeBad :
    codeOk (BitVec.ofNat 32 (strayFlip.me.spad.readLE ((strayFlip.me.tile 0).base.toNat + 4 * 0) 4)) = false := by
  decide +kernel

theorem strayFlip_canHandle : CanHandle strayFlip := by
  unfold CanHandle Handles
  decide +kernel

/-- The table check of CTAB reads the scratchpad words of the context found by CTXID, corrects its error and counts it (R383). -/
theorem strayFlip_counts : livesAfter (exec (.ctab 0 0) strayFlip) ≠ strayFlip.hub.life := by
  decide +kernel

/-- Refutes O34: with no context at the acting core, CTAB's check of an invalid table meets the scratchpad errors of another
context with the same CTXID; the correction is counted in the hub, which the trap entry of the statement leaves unchanged. -/
theorem not_copyChecksTrapOrHold : ¬ Obligations.CopyChecksTrapOrHold := by
  unfold Obligations.CopyChecksTrapOrHold
  intro holds
  obtain ⟨_, _, _, _, _, ctab, _⟩ := holds strayFlip 0 0 0 0 0 0 0 0 0 0 rfl strayFlip_canHandle
  have valid : (strayFlip.me.tile 0).valid = true := by rw [strayFlip_tile]
  have size : 1024 ≤ (strayFlip.me.tile 0).size.toNat := by rw [strayFlip_tile]; decide
  have noneBefore : ∀ k, k < 0 →
      codeOk (BitVec.ofNat 32 (strayFlip.me.spad.readLE ((strayFlip.me.tile 0).base.toNat + 4 * k) 4)) = true :=
    fun k hk => absurd hk (Nat.not_lt_zero k)
  obtain ⟨t, ran, _, _, _, _, _, _, _, _, _, _, _, _, _, _, _, _, _, _, hub, _⟩ :=
    ctab 0 valid size ⟨rfl, rfl⟩ (by decide) strayFlip_codeBad noneBefore
  exact strayFlip_counts (by rw [ran]; exact congrArg Hub.life hub)

end Sys2Proof.Machine
end

section
namespace Sys2Proof.Machine

open BitVec

/-! ## Save areas written and read (R294, R335, R342, R384) -/

/-- From s to t the hub has read or written save areas, but for the bytes: lines have moved, errors were met, journals have grown. -/
structure Filed (s t : State) : Prop where
  only : t = { s with hub := t.hub, mem := t.mem, sram := t.sram, bdies := t.bdies, poison := t.poison, flips := t.flips,
                      insts := t.insts }
  hub : HubNoted s.hub t.hub
  quiet : s.flips = [] → t.flips = [] ∧ t.hub = s.hub
  dies : DiesKept s t
  insts : ∀ j, ∃ r, t.inst j = { s.inst j with resume := r }

theorem LinesMoved.filed {s t : State} (h : LinesMoved s t) : Filed s t where
  only := by rw [h.only]
  hub := by rw [h.only]; rfl
  quiet := fun hf => by rw [h.only]; exact ⟨hf, rfl⟩
  dies := h.dies
  insts := fun j => by rw [h.only]; exact ⟨_, rfl⟩

theorem Filed.refl (s : State) : Filed s s := (LinesMoved.refl s).filed

theorem Filed.trans {s t u : State} (h : Filed s t) (k : Filed t u) : Filed s u := by
  refine ⟨?_, h.hub.trans k.hub, fun hf => ?_, h.dies.trans k.dies, fun j => ?_⟩
  · conv => lhs; rw [k.only, h.only]
  · obtain ⟨tf, th⟩ := h.quiet hf
    obtain ⟨uf, uh⟩ := k.quiet tf
    exact ⟨uf, uh.trans th⟩
  · obtain ⟨r, hr⟩ := h.insts j
    obtain ⟨q, hq⟩ := k.insts j
    exact ⟨q, by rw [hq, hr]⟩

theorem Filed.foldl {α : Type} {f : State → α → State} (h : ∀ s a, Filed s (f s a)) (l : List α) (s : State) :
    Filed s (l.foldl f s) := by
  induction l generalizing s with
  | nil => exact .refl s
  | cons a l ih => exact (h s a).trans (ih _)

theorem Filed.withMem {s t : State} (h : Filed s t) (m : Mem) : Filed s { t with mem := m } where
  only := by conv => { lhs; rw [h.only] }
  hub := h.hub
  quiet := h.quiet
  dies := h.dies
  insts := h.insts

theorem State.journal_filed (s : State) (i : BitVec 4) (pa n : Nat) : Filed s (s.journal i pa n) := by
  unfold State.journal
  split
  · exact .refl s
  · refine ⟨rfl, rfl, fun hf => ⟨hf, rfl⟩, .of_bdies rfl, fun j => ?_⟩
    rw [State.modInst_inst]
    split
    · next hj => exact ⟨_, by rw [hj]⟩
    · exact ⟨_, rfl⟩

theorem State.healAtoms_filed (s : State) (p : Nat → Bool) : Filed s (s.healAtoms p) :=
  ⟨rfl, rfl, fun hf => ⟨by simp [State.healAtoms, hf], rfl⟩, .of_bdies rfl, fun j => ⟨_, rfl⟩⟩

theorem State.meet_filed (s : State) (pa n : Nat) : Filed s (s.meet pa n) where
  only := by
    conv => lhs; rw [(s.meet_serviced pa n).only]
    rw [(s.meet_serviced pa n).only]
  hub := (s.meet_serviced pa n).hub
  quiet := fun hf => by rw [s.meet_quiet pa n hf]; exact ⟨hf, rfl⟩
  dies := (s.meet_serviced pa n).dies
  insts := fun j => ⟨_, by rw [(s.meet_serviced pa n).only]; rfl⟩

theorem Filed.me {s t : State} (h : Filed s t) : t.me = s.me := by rw [h.only]
theorem Filed.rest {s t : State} (h : Filed s t) : t.rest = s.rest := by rw [h.only]
theorem Filed.moves {s t : State} (h : Filed s t) : t.moves = s.moves := by rw [h.only]
theorem Filed.cores {s t : State} (h : Filed s t) : t.cores = s.cores := by rw [h.only]

theorem Filed.ctx? {s t : State} (h : Filed s t) (id : BitVec 12) : t.ctx? id = s.ctx? id := by
  unfold State.ctx? State.ctxs; rw [h.me, h.rest]

theorem Filed.errorsNoted {s t : State} (h : Filed s t) : t.hub = { s.hub with
    life := t.hub.life, elogq := t.hub.elogq, elogLost := t.hub.elogLost, msix := t.hub.msix, msixHeld := t.hub.msixHeld } ∧
    (s.flips = [] → t.hub = s.hub) := ⟨h.hub, fun hf => (h.quiet hf).2⟩

theorem Filed.saveAddr {s t : State} (h : Filed s t) (id : BitVec 12) : t.saveAddr id = s.saveAddr id := by
  obtain ⟨r, hr⟩ := h.insts (instOf id)
  unfold State.saveAddr; rw [hr]

theorem Filed.canSave {s t : State} (h : Filed s t) (id : BitVec 12) : t.canSave id = s.canSave id := by
  obtain ⟨r, hr⟩ := h.insts (instOf id)
  unfold State.canSave; rw [hr]

theorem Filed.remapEntry {s t : State} (h : Filed s t) (id : BitVec 12) : t.remapEntry id = s.remapEntry id := by
  obtain ⟨r, hr⟩ := h.insts (instOf id)
  unfold State.remapEntry; rw [hr]

theorem Filed.areaHeld {s t : State} (h : Filed s t) (id : BitVec 12) : t.areaHeld id = s.areaHeld id := by
  unfold State.areaHeld
  simp only [h.saveAddr, h.canSave, h.moves, (h.dies _).2.2]

/-! ### The image -/

/-- The regions of a context's save area. -/
def areaRegions (base : Nat) (c : Ctx) : List (Nat × Nat) := (imageRegions c).map fun r => (base + r.1, r.2)

/-- What the write of one region of an image does before its bytes change. -/
def State.fileRegion (id : BitVec 12) (s : State) (r : Nat × Nat) : State :=
  (s.journal (instOf id) r.1 r.2).sramBulk r.1 r.2 (some (id, 0xFE))

/-- What the write of the regions of an image does before the bytes change. -/
def State.fileRegions (s : State) (id : BitVec 12) (l : List (Nat × Nat)) : State :=
  (l.foldl (State.fileRegion id) s).healAtoms fun a => l.any fun r => wholeAtom r.1 r.2 a

theorem State.fileRegions_filed (s : State) (id : BitVec 12) (l : List (Nat × Nat)) : Filed s (s.fileRegions id l) :=
  (Filed.foldl (f := State.fileRegion id)
    (fun s r => (s.journal_filed _ r.1 r.2).trans (State.sramBulk_moved _ r.1 r.2 _).filed) l s).trans (State.healAtoms_filed _ _)

theorem State.fileRegion_mem {s u : State} (id : BitVec 12) (r : Nat × Nat) (hw : u.mem.wf = true) (hg : SameGlobal s u)
    (hd : DiesKept s u) :
    (u.fileRegion id r).mem.wf = true ∧ SameGlobal s (u.fileRegion id r) ∧ DiesKept s (u.fileRegion id r) := by
  unfold State.fileRegion
  obtain ⟨x, hx⟩ := u.journal_only (instOf id) r.1 r.2
  rw [hx]
  have hm := ({ u with insts := x } : State).sramBulk_moved r.1 r.2 (some (id, 0xFE))
  have hd' : DiesKept s { u with insts := x } := hd
  obtain ⟨w2, e2⟩ := hm.mem hw
  exact ⟨w2, fun a ha => (e2 a fun hc => ha ((hd'.isCounter _).1 hc)).trans (hg a ha), hd'.trans hm.dies⟩

/-- Before the bytes of an image change, none but the counters has. -/
theorem State.fileRegions_mem (s : State) (id : BitVec 12) (l : List (Nat × Nat)) (hw : s.mem.wf = true) :
    (s.fileRegions id l).mem.wf = true ∧ SameGlobal s (s.fileRegions id l) := by
  have all : ∀ (l : List (Nat × Nat)) (u : State), u.mem.wf = true → SameGlobal s u → DiesKept s u →
      (l.foldl (State.fileRegion id) u).mem.wf = true ∧ SameGlobal s (l.foldl (State.fileRegion id) u) := by
    intro l
    induction l with
    | nil => exact fun u hw hg _ => ⟨hw, hg⟩
    | cons r l ih =>
      intro u hw hg hd
      obtain ⟨hw, hg, hd⟩ := State.fileRegion_mem id r hw hg hd
      exact ih _ hw hg hd
  exact all l s hw (fun _ _ => rfl) (.refl s)

/-- An image is written: what goes before, and the bytes. -/
def State.filedImage (s : State) (id : BitVec 12) (c : Ctx) : State :=
  let l := areaRegions (s.saveAddr id) c
  { s.fileRegions id l with mem := (s.fileRegions id l).mem.overlay l (imageCells (s.saveAddr id) c) }

theorem State.writeImage_eq {s : State} {id : BitVec 12} {c : Ctx} (hc : s.ctx? id = some c) (hs : s.canSave id = true) :
    s.writeImage id = s.filedImage id c := by
  unfold State.writeImage
  rw [hc]
  simp only [hs]
  rfl

theorem State.filedImage_filed (s : State) (id : BitVec 12) (c : Ctx) : Filed s (s.filedImage id c) :=
  (s.fileRegions_filed id _).withMem _

theorem State.writeImage_filed (s : State) (id : BitVec 12) : Filed s (s.writeImage id) := by
  cases hc : s.ctx? id with
  | none => unfold State.writeImage; rw [hc]; exact .refl s
  | some c =>
    cases hs : s.canSave id with
    | false => unfold State.writeImage; rw [hc]; simp only [hs]; exact .refl s
    | true => rw [State.writeImage_eq hc hs]; exact s.filedImage_filed id c

theorem readImage_step (s : State) (base : Nat) (r : Nat × Nat) :
    Filed s ((s.sramBulk (base + r.1) r.2 none).meet (base + r.1) r.2) ∧
      Serviced s ((s.sramBulk (base + r.1) r.2 none).meet (base + r.1) r.2) :=
  ⟨(s.sramBulk_moved _ _ none).filed.trans (State.meet_filed ..), (s.sramBulk_moved _ _ none).serviced.trans (State.meet_serviced ..)⟩

/-- The reads of a restore leave every byte but the counters. -/
theorem State.readImage_filed (s : State) (id : BitVec 12) : Filed s (s.readImage id) ∧ Serviced s (s.readImage id) := by
  unfold State.readImage
  split
  · exact ⟨.refl s, .refl s⟩
  · next c _ =>
    generalize imageRegions c = l
    exact ⟨.foldl (fun s r => (readImage_step s _ r).1) l s, .foldl (fun s r => (readImage_step s _ r).2) l s⟩

end Sys2Proof.Machine
end

section
namespace Sys2Proof.Machine

open BitVec

/-! ### The image does not depend on the contexts that are not in focus -/

/-- The state with other contexts beside the one in focus. -/
def State.withRest (s : State) (l : List Ctx) : State := { s with rest := l }

@[simp] theorem State.withRest_sram (s : State) (l : List Ctx) : (s.withRest l).sram = s.sram := rfl
@[simp] theorem State.withRest_mem (s : State) (l : List Ctx) : (s.withRest l).mem = s.mem := rfl
@[simp] theorem State.withRest_tick (s : State) (l : List Ctx) : (s.withRest l).tick = s.tick := rfl
@[simp] theorem State.withRest_bdie (s : State) (l : List Ctx) (b : Nat) : (s.withRest l).bdie b = s.bdie b := rfl
@[simp] theorem State.withRest_inst (s : State) (l : List Ctx) (i : BitVec 4) : (s.withRest l).inst i = s.inst i := rfl

theorem State.countGranule_withRest (s : State) (l : List Ctx) (pa : Nat) :
    (s.withRest l).countGranule pa = (s.countGranule pa).withRest l := by
  unfold State.countGranule
  split <;> rfl

theorem State.writeBack_withRest (s : State) (l : List Ctx) (x : Line) : (s.withRest l).writeBack x = (s.writeBack x).withRest l := by
  unfold State.writeBack
  split
  · exact s.countGranule_withRest l _
  · rfl

theorem State.evict_withRest (s : State) (l : List Ctx) (b : Nat) (retain : Bool) :
    (s.withRest l).evict b retain = (s.evict b retain).withRest l := by
  simp only [State.evict, State.withRest_sram, State.withRest_bdie, State.writeBack_withRest]
  split
  · rfl
  · split <;> rfl

theorem State.countFrame_withRest (s : State) (l : List Ctx) (n : Nat) :
    (s.withRest l).countFrame n = (s.countFrame n).withRest l := by
  unfold State.countFrame
  by_cases hr : (!(s.bdie (dieOf (n * 128))).migctl.getLsbD 0) = true
  · exact (if_pos hr).trans (congrArg (State.withRest · l) (if_pos hr).symm)
  · refine (if_neg hr).trans (Eq.trans ?_ (congrArg (State.withRest · l) (if_neg hr).symm))
    by_cases hf : s.mem.get ((s.bdie (dieOf (n * 128))).counterPa (n / 512)) = 255
    · exact (if_pos hf).trans (congrArg (State.withRest · l) (if_pos hf).symm)
    · refine (if_neg hf).trans (Eq.trans ?_ (congrArg (State.withRest · l) (if_neg hf).symm))
      rfl

theorem State.sramLine_withRest (s : State) (l : List Ctx) (n : Nat) (w : Option Agent) (whole : Bool) (cache : BitVec 2) :
    (s.withRest l).sramLine n w whole cache = (s.sramLine n w whole cache).withRest l := by
  simp only [State.sramLine, State.withRest_sram, State.withRest_bdie, State.withRest_mem, State.withRest_tick,
    State.countGranule_withRest, State.evict_withRest]
  split
  · split <;> rfl
  · split
    · split
      · rfl
      · split <;> rw [State.evict_withRest] <;> rfl
    · split <;> rfl

theorem State.sramBulk_withRest (s : State) (l : List Ctx) (pa n : Nat) (w : Option Agent) :
    (s.withRest l).sramBulk pa n w = (s.sramBulk pa n w).withRest l := by
  unfold State.sramBulk
  rw [State.withRest_bdie]
  split
  · exact List.foldl_hom (State.withRest · l)
      (fun s x => by rw [State.sramLine_withRest, State.countFrame_withRest])
  · split <;> rfl

theorem State.journal_withRest (s : State) (l : List Ctx) (i : BitVec 4) (pa n : Nat) :
    (s.withRest l).journal i pa n = (s.journal i pa n).withRest l := by
  simp only [State.journal, State.withRest_inst, State.withRest_mem]
  split <;> rfl

theorem State.fileRegions_withRest (s : State) (l : List Ctx) (id : BitVec 12) (rs : List (Nat × Nat)) :
    (s.withRest l).fileRegions id rs = (s.fileRegions id rs).withRest l := by
  have step : ∀ (s : State) r, (s.withRest l).fileRegion id r = (s.fileRegion id r).withRest l := fun s r => by
    unfold State.fileRegion
    rw [State.journal_withRest, State.sramBulk_withRest]
  unfold State.fileRegions
  rw [List.foldl_hom (State.withRest · l) step]
  rfl

theorem State.filedImage_withRest (s : State) (l : List Ctx) (id : BitVec 12) (c : Ctx) :
    (s.withRest l).filedImage id c = (s.filedImage id c).withRest l := by
  have hb : (s.withRest l).saveAddr id = s.saveAddr id := rfl
  simp only [State.filedImage, hb, State.fileRegions_withRest]
  rfl

/-! ### The bytes of an image (R342) -/

theorem cellsGet_eq_some {lo : Option Nat} {l : List Host.Cell} (h : cellsSorted lo l = true) (a : Nat) (b : Byte) :
    cellsGet l a = some b ↔ (a, b) ∈ l := by
  induction l generalizing lo with
  | nil => simp [cellsGet]
  | cons c l ih =>
    obtain ⟨k, x⟩ := c
    have tail := (cellsSorted_cons.1 h).2
    have later := cellsSorted_lt tail
    simp only [cellsGet, List.mem_cons, Prod.mk.injEq]
    split
    · next hk =>
      subst hk
      constructor
      · intro e; cases e; exact .inl ⟨rfl, rfl⟩
      · rintro (⟨-, rfl⟩ | hm)
        · rfl
        · exact absurd (later _ hm) (lt_irrefl _)
    · next hk =>
      split
      · next hlt =>
        refine ⟨fun e => (nomatch e), ?_⟩
        rintro (⟨rfl, -⟩ | hm)
        · exact absurd rfl hk
        · have : k < a := later _ hm
          omega
      · rw [ih tail]
        exact ⟨.inr, fun h => h.resolve_left fun e => hk e.1.symm⟩

/-- Canonical memories of one stack history with the same cells at an address read the same there. -/
theorem Mem.get_congr {m k : Mem} (hm : m.wf = true) (hk : k.wf = true) (hj : k.junk = m.junk) {a : Nat}
    (h : ∀ b, (a, b) ∈ k.cells ↔ (a, b) ∈ m.cells) : k.get a = m.get a := by
  have hd : k.dflt a = m.dflt a := by unfold Mem.dflt; rw [hj]
  have hg : cellsGet k.cells a = cellsGet m.cells a := by
    refine Option.ext fun b => ?_
    rw [cellsGet_eq_some ((Mem.wf_iff k).1 hk).1, cellsGet_eq_some ((Mem.wf_iff m).1 hm).1, h b]
  unfold Mem.get
  rw [hg, hd]

theorem mem_cellsIn {lo hi : Nat} {l : List Host.Cell} {c : Host.Cell} :
    c ∈ cellsIn lo hi l ↔ c ∈ l ∧ lo ≤ c.1 ∧ c.1 < hi := by
  simp [cellsIn]

/-- Outside the span of the regions an overlay leaves every byte. -/
theorem Mem.get_overlay_other {m : Mem} (hm : m.wf = true) {rs : List (Nat × Nat)} (cs : List Host.Cell) {p n q k a : Nat}
    (hp : rs.head? = some (p, n)) (hq : rs.getLast? = some (q, k)) (ha : a < p ∨ q + k ≤ a)
    (hr : ∀ r ∈ rs, a < r.1 ∨ r.1 + r.2 ≤ a) : (m.overlay rs cs).get a = m.get a := by
  refine Mem.get_congr hm (Mem.wf_overlay hm rs cs) rfl fun b => ?_
  have hold : (rs.any fun r => decide (r.1 ≤ a) && decide (a < r.1 + r.2)) = false := by
    refine List.any_eq_false.2 fun r hm => ?_
    have := hr r hm
    simp only [Bool.and_eq_true, decide_eq_true_eq]
    omega
  unfold Mem.overlay
  simp only [hp, hq, List.mem_append, mem_cellsIn, List.mem_filter, hold, Bool.not_false, and_true, decide_eq_true_eq,
    Bool.and_eq_true]
  constructor
  · rintro ((⟨h, -⟩ | ⟨-, h1, h2⟩) | ⟨h, -⟩)
    · exact h
    · omega
    · exact h
  · intro h
    rcases ha with ha | ha
    · exact .inl (.inl ⟨h, ha⟩)
    · by_cases hl : a < p
      · exact .inl (.inl ⟨h, hl⟩)
      · exact .inr ⟨h, by omega, ha⟩

end Sys2Proof.Machine
end

section
namespace Sys2Proof.Machine

open BitVec

/-! ## Contexts found beside a change of another (R11) -/

theorem find?_insertCtx_other {c : Ctx} {k : BitVec 12} (h : c.id ≠ k) (l : List Ctx) :
    (insertCtx c l).find? (fun d => d.id == k) = l.find? fun d => d.id == k := by
  have hc : (c.id == k) = false := by simpa using h
  induction l with
  | nil => simp [insertCtx, hc]
  | cons d l ih =>
    unfold insertCtx
    split
    · rw [List.find?_cons, hc]
    · rw [List.find?_cons, List.find?_cons, ih]

theorem find?_insertCtx_self {c : Ctx} (l : List Ctx) (h : ∀ d ∈ l, d.id ≠ c.id) :
    (insertCtx c l).find? (fun d => d.id == c.id) = some c := by
  induction l with
  | nil => simp [insertCtx]
  | cons d l ih =>
    unfold insertCtx
    split
    · simp
    · rw [List.find?_cons, show (d.id == c.id) = false by simpa using h d List.mem_cons_self]
      exact ih fun x hx => h x (List.mem_cons_of_mem d hx)

theorem State.modCtx_ctx?_other {s : State} {id k : BitVec 12} {f : Ctx → Ctx} (hf : ∀ c, (f c).id = c.id) (h : id ≠ k) :
    (s.modCtx id f).ctx? k = s.ctx? k := by
  have others : (s.rest.map fun c => if c.id = id then f c else c).find? (fun c => c.id == k) = s.rest.find? fun c => c.id == k := by
    induction s.rest with
    | nil => rfl
    | cons d l ih =>
      rw [List.map_cons, List.find?_cons, List.find?_cons, ih]
      by_cases hd : d.id = id
      · rw [if_pos hd, hf, show (d.id == k) = false by rw [hd]; simpa using h]
      · rw [if_neg hd]
  unfold State.modCtx State.ctx? State.ctxs
  split
  · next hm =>
    obtain ⟨hid, hl⟩ := hm
    have hk : (s.me.id == k) = false := by rw [hid]; simpa using h
    have hfk : ((f s.me).id == k) = false := by rw [hf]; exact hk
    dsimp only
    rw [if_neg hl, List.find?_cons, hk]
    split
    · rfl
    · rw [List.find?_cons, hfk]
  · dsimp only
    split
    · exact others
    · rw [List.find?_cons, List.find?_cons, others]

theorem State.putImage_ctx?_other {s : State} {id k : BitVec 12} (h : id ≠ k) (v : BitVec 6) :
    (s.putImage id v).ctx? k = s.ctx? k := by
  unfold State.putImage
  split
  · rfl
  · dsimp only
    split
    · exact State.modCtx_ctx?_other (fun _ => rfl) h
    · have hw : (((s.modCtx id fun c => { c with imageDue := none }).writeImage id)).ctx? k = s.ctx? k :=
        ((State.writeImage_filed _ id).ctx? k).trans (State.modCtx_ctx?_other (fun _ => rfl) h)
      split
      · exact hw
      · exact hw

theorem State.ctx?_insert_other {s : State} {c : Ctx} {k : BitVec 12} (h : c.id ≠ k) :
    ({ s with rest := insertCtx c s.rest } : State).ctx? k = s.ctx? k := by
  unfold State.ctx? State.ctxs
  dsimp only
  split
  · exact find?_insertCtx_other h _
  · rw [List.find?_cons, List.find?_cons, find?_insertCtx_other h]

/-- A new context leaves the others (R265). -/
theorem State.install_ctx?_other {s : State} {c : Ctx} {k : BitVec 12} (h : c.id ≠ k) : (s.install c).ctx? k = s.ctx? k := by
  unfold State.install
  dsimp only
  split
  · exact State.ctx?_insert_other h
  · exact (State.putImage_ctx?_other h 0).trans (State.ctx?_insert_other (c := { c with life := .saved }) h)

theorem State.foldl_install_ctx?_other {k : BitVec 12} (l : List Ctx) (h : ∀ c ∈ l, c.id ≠ k) (s : State) :
    (l.foldl State.install s).ctx? k = s.ctx? k := by
  induction l generalizing s with
  | nil => rfl
  | cons c l ih =>
    rw [List.foldl_cons, ih fun d hd => h d (List.mem_cons_of_mem c hd)]
    exact State.install_ctx?_other (h c List.mem_cons_self)

/-- A new context whose core is not idle, and whose save area a home holds, waits for its image to be written (R270, R306). -/
theorem State.install_due {s : State} {c : Ctx} (hme : s.me.life = .none) (hnew : ∀ d ∈ s.rest, d.id ≠ c.id)
    (hdue : c.imageDue = none) (hheld : s.areaHeld c.id = true)
    (hbusy : ∃ d ∈ s.rest, d.life = .running ∧ s.remapEntry d.id = s.remapEntry c.id) :
    ((s.install c).ctx? c.id).map (·.imageDue) = some (some 0) := by
  obtain ⟨d, hd, hrun, hsame⟩ := hbusy
  have busy : (s.ctxs.any fun d => d.life == .running && entSocket (s.remapEntry d.id) == entSocket (s.remapEntry c.id) &&
      entCore (s.remapEntry d.id) == entCore (s.remapEntry c.id)) = true := by
    rw [State.ctxs, if_pos hme]
    exact List.any_eq_true.2 ⟨d, hd, by simp [hrun, hsame]⟩
  let u : State := { s with rest := insertCtx { c with life := .saved } s.rest }
  have found : u.ctx? c.id = some { c with life := .saved } := by
    show ((if s.me.life = .none then _ else _ : List Ctx).find? _) = _
    rw [if_pos hme]
    exact find?_insertCtx_self (c := { c with life := .saved }) _ hnew
  have held : u.imageReady { c with life := .saved } = false := by
    have : u.areaHeld c.id = true := hheld
    simp [State.imageReady, this]
  have away : s.install c = u.putImage c.id 0 := by
    unfold State.install
    dsimp only
    rw [busy]
    simp only [Bool.not_true, Bool.and_false]
    rfl
  have put : u.putImage c.id 0 = u.modCtx c.id fun c => { c with imageDue := some 0 } := by
    unfold State.putImage
    rw [found]
    dsimp only
    rw [held, hdue]
    rfl
  rw [away, put]
  have hm : ¬ (u.me.id = c.id ∧ u.me.life ≠ .none) := fun h => h.2 hme
  unfold State.modCtx State.ctx? State.ctxs
  rw [if_neg hm]
  dsimp only
  rw [if_pos (show u.me.life = .none from hme)]
  rw [List.find?_map]
  have hp : ((fun d : Ctx => d.id == c.id) ∘ fun d => if d.id = c.id then { d with imageDue := some 0 } else d) = fun d => d.id == c.id := by
    funext d
    show ((if d.id = c.id then { d with imageDue := some 0 } else d : Ctx).id == c.id) = _
    split <;> rfl
  rw [hp]
  have hfound : u.rest.find? (fun d => d.id == c.id) = some { c with life := .saved } := find?_insertCtx_self (c := { c with life := .saved }) _ hnew
  rw [hfound]
  simp

end Sys2Proof.Machine
end

section
namespace Sys2Proof.Machine

open BitVec

/-! ## The hub's reads in the space of one of the instances (R294) -/

/-- The hub has read these bytes. -/
def HubAns.gives : HubAns → List Byte → Bool
  | .ok x _, b => x == b
  | _, _ => false

/-- The state that an answer leaves. -/
def HubAns.state : HubAns → State
  | .hold => State.reset
  | .bad s => s
  | .ok _ s => s

theorem HubAns.eq_of_gives {r : HubAns} {b : List Byte} (h : r.gives b = true) : r = .ok b r.state := by
  cases r with
  | hold => simp [HubAns.gives] at h
  | bad s => simp [HubAns.gives] at h
  | ok x s => rw [show x = b by simpa [HubAns.gives] using h]; rfl

theorem hubReadPieces_serviced {s u : State} {i : BitVec 4} {l : List (Nat × Nat)} {b : List Byte}
    (h : hubReadPieces s i l = .ok b u) : Serviced s u := by
  induction l generalizing s b with
  | nil => cases h; exact .refl _
  | cons p l ih =>
    obtain ⟨va, n⟩ := p
    have walked := s.countWalk_serviced (walk s i va false) none
    simp only [hubReadPieces] at h
    split at h
    · cases h
    split at h
    · cases h
    split at h
    · cases h
    next pa _ =>
    split at h
    · cases h
    · cases h
    next b' v hread =>
    have served : Serviced (s.countWalk (walk s i va false)) v := by
      unfold State.globRead at hread
      split at hread
      · cases hread
      · cases hread
      · split at hread
        · cases hread
        · cases hread
          exact ((State.sramRead_moved _ pa n 1).serviced.trans (State.meet_serviced ..))
    split at h
    · next bs w hrest => cases h; exact (walked.trans served).trans (ih hrest)
    · next hno => exact absurd h (hno _ _)

theorem hubRead_serviced {s u : State} {i : BitVec 4} {va n : Nat} {b : List Byte} (h : hubRead s i va n = .ok b u) :
    Serviced s u := hubReadPieces_serviced h

/-! ## A launch of an image without sections (R265) -/

/-- The contexts of such a launch: no stream has code. -/
def codeless (c : Ctx) : Ctx :=
  { c with s := { halted := true, absent := true }, e := { halted := true, absent := true }, c := { halted := true, absent := true } }

theorem loadCtx_nil (c : Ctx) : loadCtx [] c = some (codeless c) := rfl

/-- The state in which the contexts of a launch into a package without a reel are created, its level 1, its sections none. -/
def State.launchedBare (s : State) (i : BitVec 4) (p : Packet) (b : Slate) (img : List Byte) (t : Vector W32 208) : State :=
  let u := s.modInst i fun x => x.launched s b img p t [] 1 (chooseCls s.hub t [])
  { u with hub := { u.hub with lottery := [], lotbase := BitVec.ofNat 32 (fieldAt b 0x20 4), retained := none } }

theorem State.startReel_bare {s : State} {b : Slate} (hseed : slateEseed b = false) (hlevel : slateLevel b = 1)
    (hreel : s.insts.toList.any (·.holds) = false) (i : BitVec 4) (p : Packet) (img : List Byte) (t : Vector W32 208) :
    s.startReel i p b img [] t = ((((List.range 208).filterMap fun n => loadCtx []
      (freshCtx (s.launchedBare i p b img t) i b 1 (chooseCls s.hub t []) n)).foldl State.install (s.launchedBare i p b img t)).mark
        i).packetStatus i p 0 ((chooseCls s.hub t []).setWidth 64) := by
  unfold State.startReel
  simp only [hseed, hlevel, hreel]
  rfl

theorem Serviced.inst {s t : State} (h : Serviced s t) (i : BitVec 4) : t.inst i = s.inst i := by rw [h.only]; rfl

theorem Serviced.launchTable {s t : State} (h : Serviced s t) (i : BitVec 4) : launchTable t i = launchTable s i := by
  have hard : t.hub.hardRemap = s.hub.hardRemap := by rw [h.hub]; rfl
  have kinds : lackingKind t.hub = lackingKind s.hub := by rw [h.hub]; rfl
  have canon : canonRemap t.hub = canonRemap s.hub := by rw [h.hub]; rfl
  have fails : ∀ x, tableFails t.hub x = tableFails s.hub x := fun x => by rw [h.hub]; rfl
  unfold Machine.launchTable
  simp only [hard, kinds, canon, fails, h.inst]

/-- A slate and an image without sections that pass every check start the reel (R265). -/
theorem exec_launch_bare {s u v w : State} {p : Packet} {b head img : List Byte} {t : Vector W32 208}
    (hp : s.packet 1 = some p) (hreel : (s.inst s.cur.inst).holds = false) (halign : p.w1.toNat % 64 = 0)
    (hslate : hubRead s s.cur.inst p.w1.toNat 1632 = .ok b u) (hgood : slateFails b = none)
    (hhead : hubRead u s.cur.inst (fieldAt b 8 8) 64 = .ok head v)
    (himg : hubRead u s.cur.inst (fieldAt b 8 8) (fieldAt head 0x10 8) = .ok img w) (hok : headerOk img = true)
    (hsec : sectionsOf img = some []) (ht : launchTable s s.cur.inst = .inr t) (hseed : slateEseed b = false)
    (hlevel : slateLevel b = 1) :
    exec .launch s = .next (w.startReel s.cur.inst p b img [] t) := by
  have seeds : ∀ x, needsEntropy x b = false := fun x => by simp [needsEntropy, hseed, hlevel]
  have served : Serviced s w := (hubRead_serviced hslate).trans (hubRead_serviced himg)
  have cores : ((List.range 208).all fun n => (loadCtx [] { id := ctxIdOf s.cur.inst n }).isSome) = true := by
    simp [loadCtx_nil]
  have image : u.launchImage s.cur.inst p b = w.startReel s.cur.inst p b img [] t := by
    have walks : loadWalks w s.cur.inst [] = [] := rfl
    have same : w.countWalks [] = w := rfl
    have sections : sectionsOk [] = true := rfl
    have pages : pagesOk w s.cur.inst [] = true := rfl
    have table : launchTable w s.cur.inst = .inr t := (served.launchTable _).trans ht
    have loaded : loadSections w s.cur.inst [] [] = .ok [] w := rfl
    unfold State.launchImage
    simp only [hhead, himg, hok, hsec, if_true, walks, same, cores, sections, pages, table, seeds, loaded, List.any_nil,
      Bool.not_true, Bool.or_false, Bool.false_and, if_false, Bool.false_eq_true]
  show execLaunch s = _
  unfold execLaunch
  simp only [hp, hreel, halign, hslate, hgood, seeds, image, Bool.not_false, Bool.or_true, if_true, if_false, ne_eq,
    not_true_eq_false, Bool.false_eq_true]

theorem State.launchedBare_inst (s : State) (i : BitVec 4) (p : Packet) (b : Slate) (img : List Byte) (t : Vector W32 208)
    (k : BitVec 4) : (s.launchedBare i p b img t).inst k =
      if k = i then (s.inst i).launched s b img p t [] 1 (chooseCls s.hub t []) else s.inst k :=
  s.modInst_inst i k fun x => x.launched s b img p t [] 1 (chooseCls s.hub t [])

/-- One of the instances takes its table; the others keep theirs. -/
theorem State.launchedBare_remap (s : State) (i : BitVec 4) (p : Packet) (b : Slate) (img : List Byte) (t : Vector W32 208)
    (k : BitVec 4) : ((s.launchedBare i p b img t).inst k).remap = if k = i then t else (s.inst k).remap := by
  rw [State.launchedBare_inst]
  split <;> rfl

theorem State.launchedBare_me (s : State) (i : BitVec 4) (p : Packet) (b : Slate) (img : List Byte) (t : Vector W32 208) :
    (s.launchedBare i p b img t).me = s.me := rfl
theorem State.launchedBare_rest (s : State) (i : BitVec 4) (p : Packet) (b : Slate) (img : List Byte) (t : Vector W32 208) :
    (s.launchedBare i p b img t).rest = s.rest := rfl

theorem State.mark_ctx? (s : State) (i : BitVec 4) (k : BitVec 12) : (s.mark i).ctx? k = s.ctx? k := rfl

/-- Homes hold the save areas that they held. -/
theorem State.launchedBare_areaHeld (s : State) (i : BitVec 4) (p : Packet) (b : Slate) (img : List Byte) (t : Vector W32 208)
    (k : BitVec 12) : (s.launchedBare i p b img t).areaHeld k = s.areaHeld k := by
  have base : ((s.launchedBare i p b img t).inst (instOf k)).savebase = (s.inst (instOf k)).savebase := by
    rw [State.launchedBare_inst]
    split
    · next h => rw [h]; rfl
    · rfl
  have dies : ∀ n, (s.launchedBare i p b img t).bdie n = s.bdie n := fun _ => rfl
  have moves : (s.launchedBare i p b img t).moves = s.moves := rfl
  simp only [State.areaHeld, State.saveAddr, State.canSave, base, dies, moves]

theorem Serviced.areaHeld {s t : State} (h : Serviced s t) (k : BitVec 12) : t.areaHeld k = s.areaHeld k := by
  have moves : t.moves = s.moves := by rw [h.only]
  simp only [State.areaHeld, State.saveAddr, State.canSave, h.inst, moves, (h.dies _).2.2]

theorem State.packetStatus_ctx? (s : State) (i : BitVec 4) (p : Packet) (code : BitVec 8) (v : W64) (k : BitVec 12) :
    (s.packetStatus i p code v).ctx? k = s.ctx? k := by
  unfold State.packetStatus State.status
  dsimp only
  split
  · rfl
  · unfold State.pushStatus
    dsimp only
    split <;> rfl

end Sys2Proof.Machine
end

section
namespace Sys2Proof.Machine

open BitVec

/-! ## A launch while the migration engine holds a save area -/

/-- The image without a section, its digest the SHA3-256 of R89. -/
def bareImage : List Byte :=
  [0x44, 0x52, 0x52, 0x4C, 1, 0, 0x40, 0] ++ List.replicate 8 0 ++ [0x40] ++ List.replicate 15 0 ++
  [0xBC, 0x94, 0x8A, 0x15, 0x38, 0x22, 0xF0, 0x1F, 0xD8, 0x32, 0xD8, 0xCB, 0x6D, 0x4C, 0x3A, 0x04,
   0xEC, 0xD1, 0x9B, 0xA5, 0x97, 0xE3, 0xBD, 0x55, 0x42, 0x8A, 0x71, 0xFF, 0x05, 0xCA, 0x9D, 0xA3]

/-- A slate of the ordered level that names the image at 0x21000 (R263). -/
def bareSlate : List Byte := [0x53, 0x4C, 0x54, 0x45, 1, 0, 1, 0, 0, 0x10, 2] ++ List.replicate 1621 0

/-- The launch's packet: the slate lies at 0x20000. -/
def barePacket : Packet := { w0 := 1, w1 := 0x20000, w2 := 0, w3 := 0 }

/-- The cells of bytes at an address that are not 0. -/
def cellsFrom (a : Nat) (bs : List Byte) : List Host.Cell := (bs.zipIdx.map fun p => (a + p.2, p.1)).filter fun c => c.2 != 0

/-- The hub of a package in operation, every die good and every link up. -/
def readyHub : Hub := { State.reset.hub with boot := 1, good := BitVec.allOnes 36, linkUp := Vector.replicate 36 0xFF }

/-- A LAUNCH is granted to number 0, whose save areas begin at 2^33, while a context of number 1 runs on the core of its logical
core 0 and the migration engine moves a frame of that core's save area. The first GiB is mapped onto itself (R302). -/
def launchingAside : State :=
  let s := State.reset
  { s with
    hub := readyHub
    insts := (s.insts.set 0 { ptroot := 1, savebase := 2 ^ 33 + 1, granted := true, pkts := [barePacket] }).set 1
      { remap := canonRemap readyHub }
    mem := { cells := [(0, 0x01), (1, 0x10), (0x1000, 0x0B)] ++ cellsFrom 0x20000 bareSlate ++ cellsFrom 0x21000 bareImage }
    rest := [{ id := 256, life := .running }]
    moves := [{ b := 0, src := 0x20000, dst := 0, leafPa := 0 }] }

/-- The hub's reads of the slate, and then of the image's header and of the image. -/
def slateRead : HubAns := hubRead launchingAside 0 0x20000 1632
def headerRead : HubAns := hubRead slateRead.state 0 0x21000 64
def imageRead : HubAns := hubRead slateRead.state 0 0x21000 64

theorem slateRead_eq : slateRead = .ok bareSlate slateRead.state := HubAns.eq_of_gives (by decide +kernel)
theorem headerRead_eq : headerRead = .ok bareImage headerRead.state := HubAns.eq_of_gives (by decide +kernel)
theorem imageRead_eq : imageRead = .ok bareImage imageRead.state := HubAns.eq_of_gives (by decide +kernel)
theorem bareImage_ok : headerOk bareImage = true := by decide +kernel
theorem bareSlate_ok : slateFails bareSlate = none := by decide +kernel
theorem launchingAside_wf : launchingAside.mem.wf = true := by decide +kernel
theorem readyHub_kinds : lackingKind readyHub = none := by decide +kernel
end Sys2Proof.Machine
end

section
namespace Sys2Proof.Machine

open BitVec

theorem bareSlate_at : fieldAt bareSlate 8 8 = 0x21000 := by decide +kernel
theorem bareImage_size : fieldAt bareImage 0x10 8 = 64 := by decide +kernel
theorem bareImage_sections : sectionsOf bareImage = some [] := by decide +kernel
theorem bareSlate_seed : slateEseed bareSlate = false := by decide +kernel
theorem bareSlate_level : slateLevel bareSlate = 1 := by decide +kernel
theorem launchingAside_packet : launchingAside.packet 1 = some barePacket := by decide +kernel
theorem launchingAside_reels : launchingAside.insts.toList.any (·.holds) = false := by decide +kernel
theorem launchingAside_table : launchTable launchingAside 0 = .inr (canonRemap readyHub) := by
  have hard : launchingAside.hub.hardRemap = true := rfl
  unfold launchTable
  rw [if_pos hard, show launchingAside.hub = readyHub from rfl, readyHub_kinds]
theorem launchingAside_held : launchingAside.areaHeld 0 = true := by decide +kernel
theorem launchingAside_active : launchingAside.hub.active = true := by decide +kernel
theorem launchingAside_contexts : ∀ c ∈ launchingAside.ctxs, instOf c.id ≠ 0 := by decide +kernel

theorem slateRead_of : hubRead launchingAside 0 barePacket.w1.toNat 1632 = .ok bareSlate slateRead.state := slateRead_eq

theorem headerRead_of : hubRead slateRead.state 0 (fieldAt bareSlate 8 8) 64 = .ok bareImage headerRead.state := by
  rw [bareSlate_at]; exact headerRead_eq

theorem imageRead_of :
    hubRead slateRead.state 0 (fieldAt bareSlate 8 8) (fieldAt bareImage 0x10 8) = .ok bareImage imageRead.state := by
  rw [bareSlate_at, bareImage_size]; exact imageRead_eq

theorem imageRead_serviced : Serviced launchingAside imageRead.state :=
  (hubRead_serviced slateRead_of).trans (hubRead_serviced imageRead_of)

theorem imageRead_table : launchTable imageRead.state 0 = .inr (canonRemap readyHub) :=
  (imageRead_serviced.launchTable 0).trans launchingAside_table

/-- The launch reaches the creation of the contexts. -/
theorem launchingAside_starts : exec .launch launchingAside =
    .next (imageRead.state.startReel 0 barePacket bareSlate bareImage [] (canonRemap readyHub)) :=
  exec_launch_bare launchingAside_packet rfl rfl slateRead_of bareSlate_ok headerRead_of imageRead_of bareImage_ok
    bareImage_sections launchingAside_table bareSlate_seed bareSlate_level

/-- The state in which the contexts are created. -/
def launchedAside : State := imageRead.state.launchedBare 0 barePacket bareSlate bareImage (canonRemap readyHub)

/-- The context of a logical core as the launch creates it. -/
def freshAside (n : Nat) : Ctx :=
  codeless (freshCtx launchedAside 0 bareSlate 1 (chooseCls imageRead.state.hub (canonRemap readyHub) []) n)

theorem ctxIdOf_zero_ne : ∀ n < 207, ctxIdOf 0 (n + 1) ≠ 0 := by decide +kernel

/-- The context of logical core 0 is saved from the start, and its image is due. -/
theorem launchedAside_due : ((launchedAside.install (freshAside 0)).ctx? 0).map (·.imageDue) = some (some 0) := by
  have me : launchedAside.me = launchingAside.me :=
    (State.launchedBare_me ..).trans imageRead_serviced.me
  have rest : launchedAside.rest = launchingAside.rest :=
    (State.launchedBare_rest ..).trans imageRead_serviced.rest
  have held : launchedAside.areaHeld 0 = true :=
    ((State.launchedBare_areaHeld ..).trans (imageRead_serviced.areaHeld 0)).trans launchingAside_held
  have mine : (launchedAside.inst 0).remap = canonRemap readyHub := State.launchedBare_remap ..
  have theirs : (launchedAside.inst 1).remap = canonRemap readyHub := by
    refine (State.launchedBare_remap ..).trans ?_
    rw [if_neg (by decide), imageRead_serviced.inst]
    rfl
  have shared : launchedAside.remapEntry 256 = launchedAside.remapEntry 0 := by
    unfold State.remapEntry
    rw [show instOf 256 = 1 by decide, show instOf 0 = 0 by decide, show lcoreOf 256 = lcoreOf 0 by decide, mine, theirs]
  refine State.install_due (c := freshAside 0) (by rw [me]; rfl) (fun d hd => ?_) rfl held ⟨{ id := 256, life := .running }, ?_, rfl, ?_⟩
  · rw [rest] at hd
    rw [List.mem_singleton.1 hd]
    decide
  · rw [rest]; exact List.mem_singleton.2 rfl
  · exact shared

/-- So it is after the launch. -/
theorem launchingAside_due :
    ((imageRead.state.startReel 0 barePacket bareSlate bareImage [] (canonRemap readyHub)).ctx? 0).map (·.imageDue) =
      some (some 0) := by
  have reels : imageRead.state.insts.toList.any (·.holds) = false := by
    rw [imageRead_serviced.only]; exact launchingAside_reels
  have news : ((List.range 208).filterMap fun n => loadCtx [] (freshCtx launchedAside 0 bareSlate 1
      (chooseCls imageRead.state.hub (canonRemap readyHub) []) n)) =
      freshAside 0 :: (List.range 207).map fun n => freshAside (n + 1) := by
    rw [List.range_succ_eq_map, List.filterMap_cons, loadCtx_nil]
    simp only [loadCtx_nil, List.filterMap_map]
    rw [← List.filterMap_eq_map]
    rfl
  rw [State.startReel_bare bareSlate_seed bareSlate_level reels, State.packetStatus_ctx?, State.mark_ctx?,
    show imageRead.state.launchedBare 0 barePacket bareSlate bareImage (canonRemap readyHub) = launchedAside from rfl, news, List.foldl_cons, State.foldl_install_ctx?_other]
  · exact launchedAside_due
  · intro c hc
    obtain ⟨n, hn, rfl⟩ := List.mem_map.1 hc
    exact ctxIdOf_zero_ne n (List.mem_range.1 hn)

/-- Refutes O43: a context that starts in its save area, while the migration engine moves a frame of that area, has its image due
(R270, R306), which no context of the statement's launch has. -/
theorem not_reelsLaunchAndRetire : ¬ Obligations.ReelsLaunchAndRetire := by
  unfold Obligations.ReelsLaunchAndRetire
  intro holds
  obtain ⟨_, _, _, _, launches, _⟩ := holds launchingAside barePacket [] launchingAside_wf launchingAside_active rfl (by decide)
  obtain ⟨t, ran, _, _, _, created, _⟩ := launches bareSlate slateRead.state bareImage headerRead.state bareImage imageRead.state []
    (canonRemap readyHub) [] imageRead.state ⟨rfl, rfl, rfl, rfl⟩ rfl rfl launchingAside_contexts slateRead_of bareSlate_ok headerRead_of
    imageRead_of bareImage_ok bareImage_sections rfl rfl (fun _ _ => rfl) imageRead_table rfl rfl
  have due := launchingAside_due
  have same : imageRead.state.startReel 0 barePacket bareSlate bareImage [] (canonRemap readyHub) = t := by
    injection launchingAside_starts.symm.trans ran
  rw [same] at due
  rcases created 0 _ (by decide) (loadCtx_nil _) with found | found
  · rw [show (0 : BitVec 12) = ctxIdOf launchingAside.cur.inst 0 from rfl, found] at due
    cases due
  · rw [show (0 : BitVec 12) = ctxIdOf launchingAside.cur.inst 0 from rfl, found] at due
    cases due

end Sys2Proof.Machine
end

section
namespace Sys2Proof.Machine

open BitVec

/-! ## A context is saved (R279, R335, R341) -/

/-- A context of that number is demoted, if one is. -/
def Ctx.demotes (i : BitVec 4) (dem : Bool) (d : Ctx) : Ctx := { d with demoted := d.demoted || (dem && instOf d.id == i) }

/-- So every context. -/
def State.demotes (s : State) (i : BitVec 4) (dem : Bool) : State :=
  { s with me := s.me.demotes i dem, rest := s.rest.map (Ctx.demotes i dem) }

theorem Ctx.demotes_false (i : BitVec 4) (d : Ctx) : d.demotes i false = d := by
  unfold Ctx.demotes
  rw [Bool.false_and, Bool.or_false]

theorem State.demotes_false (s : State) (i : BitVec 4) : s.demotes i false = s := by
  have h : Ctx.demotes i false = fun d => d := funext (Ctx.demotes_false i)
  unfold State.demotes
  rw [h, List.map_id']

/-- An event at the timed level demotes every context of that number (R279). -/
theorem State.demote_eq {s : State} (h : s.me.life ≠ .none) (i : BitVec 4) :
    s.demote i = s.demotes i (decide ((s.inst i).level = 0)) := by
  have each : ∀ d : Ctx, (if instOf d.id = i then { d with demoted := true } else d) = d.demotes i true := fun d => by
    unfold Ctx.demotes
    by_cases hd : instOf d.id = i
    · simp [hd]
    · rw [if_neg hd, beq_false_of_ne hd, Bool.and_false, Bool.or_false]
  unfold State.demote
  split
  · next hl =>
    simp only [State.mapCtxs, if_neg h, each, hl, decide_true]
    rfl
  · next hl => rw [decide_eq_false hl, State.demotes_false]

/-- A context with another demotion bit. -/
def Ctx.withDemoted (c : Ctx) (b : Bool) : Ctx := { c with demoted := b }

/-- What settles one V instruction in flight (R164). -/
def Ctx.settleOne (c : Ctx) (p : VPend) : Ctx :=
  let c := c.raise p.flags
  match p.handle with | some h => c.busyDown h | none => c

theorem Ctx.settleV_eq (c : Ctx) :
    c.settleV = { c.v.pend.foldl Ctx.settleOne c with v := { (c.v.pend.foldl Ctx.settleOne c).v with pend := [] } } := rfl

theorem Ctx.settleOne_demoted (c : Ctx) (p : VPend) (b : Bool) :
    (c.withDemoted b).settleOne p = (c.settleOne p).withDemoted b := by
  have raises : (c.withDemoted b).raise p.flags = (c.raise p.flags).withDemoted b := by
    unfold Ctx.raise
    split <;> rfl
  unfold Ctx.settleOne
  dsimp only
  rw [raises]
  split <;> rfl

theorem Ctx.settleV_demoted (c : Ctx) (b : Bool) : (c.withDemoted b).settleV = c.settleV.withDemoted b := by
  have fold : (c.withDemoted b).v.pend.foldl Ctx.settleOne (c.withDemoted b) = (c.v.pend.foldl Ctx.settleOne c).withDemoted b :=
    List.foldl_hom (Ctx.withDemoted · b) fun c p => c.settleOne_demoted p b
  rw [Ctx.settleV_eq, fold]
  rfl

/-- What a save keeps of a context does not depend on its demotion, but for that. -/
theorem Ctx.atRest_demoted (c : Ctx) (b : Bool) : (c.withDemoted b).atRest = c.atRest.withDemoted b := by
  unfold Ctx.atRest
  rw [Ctx.settleV_demoted]
  rfl

theorem Ctx.atRest_keep {γ : Type} (p : Ctx → γ) (hr : ∀ c n r, p { c with nflags := n, raised := r } = p c)
    (hb : ∀ c h, p (Ctx.busyDown c h) = p c) (hv : ∀ c v, p { c with v := v } = p c) (hm : ∀ c m, p { c with m := m } = p c)
    (hk : ∀ c l, p { c with cp := { c.cp with copies := l } } = p c) (hf : ∀ c f, p { c with f := f } = p c)
    (hs : ∀ c t r h x y z v, p { c with t := t, raised := r, holdCc := h, s := x, e := y, c := z, v := v } = p c) (c : Ctx) :
    p c.atRest = p c :=
  (hs c.settleV.restartM.restartC.settleF _ _ _ _ _ _ _).trans (Ctx.stopped_keep p hr hb hv hm hk hf c)

theorem Ctx.atRest_id (c : Ctx) : c.atRest.id = c.id :=
  c.atRest_keep (fun c => c.id) (fun _ _ _ => rfl) (fun _ _ => rfl) (fun _ _ => rfl) (fun _ _ => rfl) (fun _ _ => rfl) (fun _ _ => rfl)
    fun _ _ _ _ _ _ _ _ => rfl
theorem Ctx.atRest_imageDue (c : Ctx) : c.atRest.imageDue = c.imageDue :=
  c.atRest_keep (fun c => c.imageDue) (fun _ _ _ => rfl) (fun _ _ => rfl) (fun _ _ => rfl) (fun _ _ => rfl) (fun _ _ => rfl)
    (fun _ _ => rfl) fun _ _ _ _ _ _ _ _ => rfl

/-- A context as its save leaves it. -/
def Ctx.kept (c : Ctx) (dem : Bool) : Ctx := { c.atRest with life := .saved, demoted := c.demoted || dem }

theorem Ctx.kept_id (c : Ctx) (dem : Bool) : (c.kept dem).id = c.id := c.atRest_id

theorem Ctx.without_imageDue {c : Ctx} (h : c.imageDue = none) : { c with imageDue := none } = c := by rw [← h]

/-- The save of the context in focus: it is as its save leaves it, and its image is written (R335, R341, R342). -/
theorem State.save_demotes {s : State} (dem : Bool) (hsave : s.canSave s.me.id = true) (hheld : s.areaHeld s.me.id = false)
    (hdue : s.me.imageDue = none) :
    (s.demotes (instOf s.me.id) dem).save .saved =
      (({ s with me := s.me.kept dem } : State).filedImage s.me.id (s.me.kept dem)).withRest
        (s.rest.map (Ctx.demotes (instOf s.me.id) dem)) := by
  let u : State := ({ s with me := s.me.kept dem } : State).withRest (s.rest.map (Ctx.demotes (instOf s.me.id) dem))
  have hme : { (s.me.demotes (instOf s.me.id) dem).atRest with life := Life.saved } = s.me.kept dem := by
    have h := s.me.atRest_demoted (s.me.demoted || (dem && instOf s.me.id == instOf s.me.id))
    unfold Ctx.withDemoted at h
    unfold Ctx.demotes Ctx.kept
    rw [h, beq_self_eq_true, Bool.and_true]
  have rests : (s.demotes (instOf s.me.id) dem).save .saved = u.putImage s.me.id 0 := by
    have : (s.demotes (instOf s.me.id) dem).canSave (s.demotes (instOf s.me.id) dem).me.id = true := hsave
    unfold State.save
    dsimp only
    rw [this]
    show State.putImage { s.demotes (instOf s.me.id) dem with
      me := { (s.me.demotes (instOf s.me.id) dem).atRest with life := Life.saved } } s.me.id 0 = _
    rw [hme]
    rfl
  have hid : u.me.id = s.me.id := Ctx.kept_id ..
  have live : u.me.life ≠ .none := fun h => nomatch (show Life.saved = Life.none from h)
  have found : u.ctx? s.me.id = some (s.me.kept dem) := by
    rw [← hid]; exact State.ctx?_me live
  have ready : u.imageReady (s.me.kept dem) = true := by
    have : u.areaHeld (s.me.kept dem).id = false := by rw [Ctx.kept_id]; exact hheld
    unfold State.imageReady
    rw [this]
    rfl
  have due : (s.me.kept dem).imageDue = none := (Ctx.atRest_imageDue _).trans hdue
  have told : u.modCtx s.me.id (fun c => { c with imageDue := none }) = u := by
    rw [← hid, State.modCtx_me live, Ctx.without_imageDue (show u.me.imageDue = none from due)]
  rw [rests]
  unfold State.putImage
  rw [found]
  dsimp only
  rw [ready, due, told]
  have saves : u.canSave s.me.id = true := hsave
  show u.writeImage s.me.id = _
  rw [State.writeImage_eq found saves]
  exact State.filedImage_withRest ..

end Sys2Proof.Machine
end

section
namespace Sys2Proof.Machine

open BitVec

/-! ## Bytes outside a save area (R341, R342) -/

theorem areaRegions_within (base : Nat) (c : Ctx) : ∀ r ∈ areaRegions base c, base ≤ r.1 ∧ r.1 + r.2 ≤ base + 2 ^ 24 := by
  have offsets : ∀ r ∈ imageRegions c, r.1 + r.2 ≤ 2 ^ 24 := by
    cases h : c.engine <;> simp [imageRegions, h]
  intro r hr
  obtain ⟨q, hq, rfl⟩ := List.mem_map.1 hr
  have := offsets q hq
  dsimp only
  omega

theorem areaRegions_head (base : Nat) (c : Ctx) : (areaRegions base c).head? = some (base, 0x3000) := by
  simp [areaRegions, imageRegions]

theorem areaRegions_last (base : Nat) (c : Ctx) : (areaRegions base c).getLast? = some (base + 0x800000, 0x800000) := by
  cases h : c.engine <;> simp [areaRegions, imageRegions, h]

/-- An overlay of a save area's regions leaves what lies outside the area. -/
theorem Mem.get_overlay_area {m : Mem} (hm : m.wf = true) (base : Nat) (c : Ctx) (cs : List Host.Cell) {a : Nat}
    (ha : a < base ∨ base + 2 ^ 24 ≤ a) : (m.overlay (areaRegions base c) cs).get a = m.get a := by
  have span : a < base ∨ base + 0x800000 + 0x800000 ≤ a := by
    rwa [Nat.add_assoc, show 0x800000 + 0x800000 = 2 ^ 24 by norm_num]
  refine Mem.get_overlay_other hm cs (areaRegions_head base c) (areaRegions_last base c) span fun r hr => ?_
  have := areaRegions_within base c r hr
  omega

theorem State.filedImage_mem (s : State) (id : BitVec 12) (c : Ctx) : (s.filedImage id c).mem =
    (s.fileRegions id (areaRegions (s.saveAddr id) c)).mem.overlay (areaRegions (s.saveAddr id) c) (imageCells (s.saveAddr id) c) := rfl

/-- The write of an image changes no byte outside the save area but the counters. -/
theorem State.filedImage_outside {s : State} (hw : s.mem.wf = true) (id : BitVec 12) (c : Ctx) {a : Nat}
    (ha : a < s.saveAddr id ∨ s.saveAddr id + 2 ^ 24 ≤ a) (hc : ¬ IsCounter s (.glob a 0)) :
    (s.filedImage id c).mem.get a = s.mem.get a := by
  rw [State.filedImage_mem]
  generalize s.saveAddr id = base at *
  obtain ⟨wf, same⟩ := s.fileRegions_mem id (areaRegions base c) hw
  rw [Mem.get_overlay_area wf base c _ ha, same a hc]

theorem State.filedImage_wf {s : State} (hw : s.mem.wf = true) (id : BitVec 12) (c : Ctx) : (s.filedImage id c).mem.wf = true :=
  Mem.wf_overlay (s.fileRegions_mem id (areaRegions (s.saveAddr id) c) hw).1 (areaRegions (s.saveAddr id) c) _

/-! ## A context is read back and runs (R26, R335) -/

/-- What a restore reads leaves all but what the hub's accesses change. -/
theorem Filed.coreFrames {s t : State} (h : Filed s t) : t.coreFrames = s.coreFrames := by
  unfold State.coreFrames
  rw [h.me, h.cores, h.remapEntry]

/-- The slot as a restore finds it: a resident one whose frame is gone is bound (R26). -/
def foundSlot (fs : List Frame) (id : BitVec 12) (n : BitVec 6) (e : FolioSlot) : FolioSlot :=
  if e.st = 2 ∧ ¬ (∃ f ∈ fs, f.tagged id n = true) then { e with st := 1 } else e

theorem foundSlot_eq (fs : List Frame) (id : BitVec 12) (n : BitVec 6) (e : FolioSlot) :
    (if (e.st = 2 && !(fs.any fun f => f.tagged id n)) = true then { e with st := 1 } else e) = foundSlot fs id n e := by
  unfold foundSlot
  congr 1
  simp

/-- The slots of the context in focus as a restore finds them. -/
def State.foundFolio (s : State) : Vector FolioSlot 64 :=
  Vector.ofFn fun n => foundSlot s.coreFrames.toList s.me.id (BitVec.ofNat 6 n.val) s.me.folio[n]

theorem State.foundFolio_slot (s : State) (n : BitVec 6) :
    s.foundFolio[n.toNat] = foundSlot s.coreFrames.toList s.me.id n (s.me.slot n) := by
  unfold State.foundFolio
  rw [Vector.getElem_ofFn, BitVec.ofNat_toNat, BitVec.setWidth_eq]
  rfl

/-- The context in focus runs again: all but the image's reads changes it alone. -/
theorem State.restoreMe_eq (s : State) : s.restoreMe =
    { s.readImage s.me.id with me := { s.me with life := .running, holdCc := 0, folio := s.foundFolio } } := by
  have filed := (s.readImage_filed s.me.id).1
  unfold State.restoreMe State.foundFolio
  dsimp only
  rw [filed.coreFrames]
  simp only [foundSlot_eq, filed.me]

end Sys2Proof.Machine
end

section
namespace Sys2Proof.Machine

open BitVec

/-! ## Contexts change places (R270) -/

/-- From s to t contexts have changed, and the hub has read or written save areas. -/
structure Refiled (s t : State) : Prop where
  only : t = { s with me := t.me, rest := t.rest, hub := t.hub, mem := t.mem, sram := t.sram, bdies := t.bdies,
                      poison := t.poison, flips := t.flips, insts := t.insts }
  hub : HubNoted s.hub t.hub
  quiet : s.flips = [] → t.flips = [] ∧ t.hub = s.hub
  dies : DiesKept s t
  insts : ∀ j, ∃ r, t.inst j = { s.inst j with resume := r }

theorem Filed.refiled {s t : State} (h : Filed s t) : Refiled s t where
  only := by
    conv => lhs; rw [h.only]
    rw [h.me, h.rest]
  hub := h.hub
  quiet := h.quiet
  dies := h.dies
  insts := h.insts

theorem Refiled.contexts {s t : State} (h : Refiled s t) (c : Ctx) (l : List Ctx) : Refiled s { t with me := c, rest := l } where
  only := by conv => { lhs; rw [h.only] }
  hub := h.hub
  quiet := h.quiet
  dies := h.dies
  insts := h.insts

theorem Refiled.trans {s t u : State} (h : Refiled s t) (k : Refiled t u) : Refiled s u := by
  refine ⟨?_, h.hub.trans k.hub, fun hf => ?_, h.dies.trans k.dies, fun j => ?_⟩
  · conv => lhs; rw [k.only, h.only]
  · obtain ⟨tf, th⟩ := h.quiet hf
    obtain ⟨uf, uh⟩ := k.quiet tf
    exact ⟨uf, uh.trans th⟩
  · obtain ⟨r, hr⟩ := h.insts j
    obtain ⟨q, hq⟩ := k.insts j
    exact ⟨q, by rw [hq, hr]⟩

theorem Refiled.errorsNoted {s t : State} (h : Refiled s t) : ErrorsNoted s t := ⟨h.hub, fun hf _ => (h.quiet hf).2⟩

/-! ### Finding a context -/

theorem find?_filter_other {j k : BitVec 12} (h : k ≠ j) (l : List Ctx) :
    (l.filter fun d => d.id != j).find? (fun d => d.id == k) = l.find? fun d => d.id == k := by
  rw [List.find?_filter]
  congr 1
  funext d
  by_cases hk : d.id = k
  · simp [hk, h]
  · simp [hk]

theorem find?_of_mem {l : List Ctx} (hp : l.Pairwise fun c d => c.id ≠ d.id) {d : Ctx} (hd : d ∈ l) :
    l.find? (fun c => c.id == d.id) = some d := by
  induction l with
  | nil => cases hd
  | cons c l ih =>
    obtain ⟨hc, hl⟩ := List.pairwise_cons.1 hp
    rcases List.mem_cons.1 hd with rfl | hd
    · simp
    · rw [List.find?_cons, beq_false_of_ne (hc d hd)]
      exact ih hl hd

theorem Ctx.demotes_id (i : BitVec 4) (dem : Bool) (d : Ctx) : (d.demotes i dem).id = d.id := rfl

/-- The other contexts, by CTXID, once they are demoted. -/
theorem find?_demotes (i : BitVec 4) (dem : Bool) (l : List Ctx) (k : BitVec 12) :
    (l.map (Ctx.demotes i dem)).find? (fun d => d.id == k) = (l.find? fun d => d.id == k).map (Ctx.demotes i dem) :=
  find?_map_id l _ (Ctx.demotes_id i dem) k

theorem State.Proper.me_ne {s : State} (h : s.Proper) (hl : s.me.life ≠ .none) : ∀ d ∈ s.rest, s.me.id ≠ d.id := by
  have hp := h.1
  rw [State.ctxs, if_neg hl] at hp
  exact (List.pairwise_cons.1 hp).1

theorem State.Proper.rest_pairwise {s : State} (h : s.Proper) (hl : s.me.life ≠ .none) : s.rest.Pairwise fun c d => c.id ≠ d.id := by
  have hp := h.1
  rw [State.ctxs, if_neg hl] at hp
  exact (List.pairwise_cons.1 hp).2

theorem State.ctx?_rest {s : State} (hl : s.me.life ≠ .none) {k : BitVec 12} (h : k ≠ s.me.id) :
    s.ctx? k = s.rest.find? fun c => c.id == k := by
  rw [State.ctx?, State.ctxs, if_neg hl, List.find?_cons, beq_false_of_ne (Ne.symm h)]

/-! ## A slice switch (R270, R279, R388) -/

theorem State.withRest_me (s : State) (l : List Ctx) : (s.withRest l).me = s.me := rfl
theorem State.withRest_rest (s : State) (l : List Ctx) : (s.withRest l).rest = l := rfl

theorem Refiled.withRest {s t : State} (h : Refiled s t) (l : List Ctx) : Refiled s (t.withRest l) := h.contexts t.me l

/-- The state with another context in focus. -/
def State.withMe (s : State) (c : Ctx) : State := { s with me := c }

theorem State.withMe_refiled (s : State) (c : Ctx) : Refiled s (s.withMe c) := (Filed.refl s).refiled.contexts c s.rest

/-- The state after the save of the context in focus. -/
def State.saved (s : State) (dem : Bool) : State :=
  ((s.withMe (s.me.kept dem)).filedImage s.me.id (s.me.kept dem)).withRest (s.rest.map (Ctx.demotes (instOf s.me.id) dem))

/-- The state in which another context has come into focus, after that save. -/
def State.turned (s : State) (d : Ctx) (dem : Bool) : State :=
  { s.saved dem with
    me := d.demotes (instOf s.me.id) dem
    rest := insertCtx (s.me.kept dem) ((s.rest.map (Ctx.demotes (instOf s.me.id) dem)).filter fun x => x.id != d.id) }

theorem State.saved_me (s : State) (dem : Bool) : (s.saved dem).me = s.me.kept dem := by
  unfold State.saved
  rw [State.withRest_me, (State.filedImage_filed _ _ _).me]
  rfl

theorem State.saved_rest (s : State) (dem : Bool) : (s.saved dem).rest = s.rest.map (Ctx.demotes (instOf s.me.id) dem) := by
  unfold State.saved
  rw [State.withRest_rest]

theorem State.saved_refiled (s : State) (dem : Bool) : Refiled s (s.saved dem) :=
  ((s.withMe_refiled _).trans (State.filedImage_filed _ _ _).refiled).withRest _

theorem State.turned_eq {s : State} (hl : s.me.life ≠ .none) (hp : s.Proper) {d : Ctx} (hd : d ∈ s.rest) (dem : Bool) :
    (s.saved dem).focus d.id = some (s.turned d dem) := by
  have hid : (s.saved dem).me.id ≠ d.id := by
    rw [State.saved_me, Ctx.kept_id]
    exact hp.me_ne hl d hd
  have found : (s.saved dem).rest.find? (fun c => c.id == d.id) = some (d.demotes (instOf s.me.id) dem) := by
    rw [State.saved_rest, find?_demotes, find?_of_mem (hp.rest_pairwise hl) hd]
    rfl
  unfold State.focus
  rw [if_neg fun h => hid h.1, found]
  dsimp only
  have live : (s.me.kept dem).life ≠ .none := fun h => nomatch (show Life.saved = .none from h)
  rw [State.saved_me, State.saved_rest, if_neg live]
  rfl

theorem State.turned_refiled (s : State) (d : Ctx) (dem : Bool) : Refiled s (s.turned d dem) := (s.saved_refiled dem).contexts _ _

/-- The context that a switch saves, and those that it leaves (R270). -/
theorem State.turned_rest {s : State} (hl : s.me.life ≠ .none) (hp : s.Proper) (d : Ctx) (dem : Bool) :
    (s.turned d dem).rest.find? (fun c => c.id == s.me.id) = some (s.me.kept dem) ∧
    ∀ k, k ≠ s.me.id → k ≠ d.id → (s.turned d dem).rest.find? (fun c => c.id == k) =
      (s.ctx? k).map (Ctx.demotes (instOf s.me.id) dem) := by
  refine ⟨?_, fun k hk hd => ?_⟩
  · rw [← s.me.kept_id dem]
    refine find?_insertCtx_self _ fun x hx => ?_
    obtain ⟨y, hy, rfl⟩ := List.mem_map.1 (List.mem_filter.1 hx).1
    rw [Ctx.kept_id]
    exact (hp.me_ne hl y hy).symm
  · refine (find?_insertCtx_other (c := s.me.kept dem) (by rw [Ctx.kept_id]; exact Ne.symm hk) _).trans ?_
    rw [find?_filter_other hd, find?_demotes, State.ctx?_rest hl hk]

end Sys2Proof.Machine
end

section
namespace Sys2Proof.Machine

open BitVec

/-- The save's image is that of the context as the save leaves it. -/
theorem State.saved_mem {s : State} (hsave : s.canSave s.me.id = true) (dem : Bool) :
    (s.saved dem).mem = ((s.withMe (s.me.kept dem)).writeImage s.me.id).mem := by
  have live : (s.withMe (s.me.kept dem)).me.life ≠ .none := fun h => nomatch (show Life.saved = .none from h)
  have found : (s.withMe (s.me.kept dem)).ctx? s.me.id = some (s.me.kept dem) := by
    have := State.ctx?_me live
    rwa [show (s.withMe (s.me.kept dem)).me.id = s.me.id from s.me.kept_id dem] at this
  unfold State.saved
  rw [State.withRest_mem, State.writeImage_eq found hsave]

theorem State.saved_wf {s : State} (hw : s.mem.wf = true) (dem : Bool) : (s.saved dem).mem.wf = true := by
  unfold State.saved
  rw [State.withRest_mem]
  exact State.filedImage_wf (s := s.withMe (s.me.kept dem)) hw _ _

/-- A save changes no byte outside the context's save area but the counters. -/
theorem State.saved_outside {s : State} (hw : s.mem.wf = true) (dem : Bool) {a : Nat}
    (ha : a < s.saveAddr s.me.id ∨ s.saveAddr s.me.id + 2 ^ 24 ≤ a) (hc : ¬ IsCounter s (.glob a 0)) :
    (s.saved dem).mem.get a = s.mem.get a := by
  have out := State.filedImage_outside (s := s.withMe (s.me.kept dem)) hw s.me.id (s.me.kept dem) ha hc
  unfold State.saved
  rw [State.withRest_mem, out]
  rfl

/-! ## What runs after a restore -/

/-- The context in focus after its restore. -/
theorem State.restoreMe_me (s : State) :
    s.restoreMe.me = { s.me with life := .running, holdCc := 0, folio := s.foundFolio } := by
  rw [State.restoreMe_eq]

theorem State.restoreMe_rest (s : State) : s.restoreMe.rest = s.rest := by
  rw [State.restoreMe_eq]
  exact (s.readImage_filed s.me.id).1.rest

theorem State.restoreMe_refiled (s : State) : Refiled s s.restoreMe := by
  rw [State.restoreMe_eq]
  exact (s.readImage_filed s.me.id).1.refiled.contexts _ (s.readImage s.me.id).rest

/-- A restore changes no byte but the counters. -/
theorem State.restoreMe_mem {s : State} (hw : s.mem.wf = true) {a : Nat} (hc : ¬ IsCounter s (.glob a 0)) :
    s.restoreMe.mem.get a = s.mem.get a := by
  rw [State.restoreMe_eq]
  exact ((s.readImage_filed s.me.id).2.mem hw).2 a hc

theorem State.restoreMe_slot (s : State) (n : BitVec 6) :
    s.restoreMe.me.slot n = foundSlot s.coreFrames.toList s.me.id n (s.me.slot n) := by
  rw [State.restoreMe_me]
  exact s.foundFolio_slot n

theorem Refiled.coreFrames {s t : State} (h : Refiled s t) {c : Ctx} (hc : t.me.id = c.id) : t.coreFrames = (s.withMe c).coreFrames := by
  have cores : t.cores = s.cores := by rw [h.only]
  have entry : t.remapEntry t.me.id = (s.withMe c).remapEntry c.id := by
    obtain ⟨r, hr⟩ := h.insts (instOf t.me.id)
    unfold State.remapEntry
    rw [hr, hc]
    rfl
  unfold State.coreFrames
  rw [cores, entry]
  rfl

/-! ## Switches, moves and restores -/

theorem State.restoreMe_ctx?_other (s : State) {k : BitVec 12} (hk : k ≠ s.me.id) :
    s.restoreMe.ctx? k = s.rest.find? fun c => c.id == k := by
  have live : s.restoreMe.me.life ≠ .none := by
    rw [State.restoreMe_me]
    exact fun h => nomatch (show Life.running = .none from h)
  have other : k ≠ s.restoreMe.me.id := by rw [State.restoreMe_me]; exact hk
  rw [State.ctx?_rest live other, State.restoreMe_rest]

/-- A slice switch saves the context in focus and runs the next one (R270, R279). -/
theorem State.sliceSwitch_turns {s : State} {d : Ctx} (hrun : s.me.life = .running) (hdue : s.me.imageDue = none)
    (hlets : s.hub.lets (instOf s.me.id) = true) (hp : s.Proper) (hd : d ∈ s.rest) (hnext : s.nextSlice = some d.id)
    (hb : s.atBoundary = true) (hcan : s.canSave s.me.id = true) (hphys : physExists s.hub (s.saveAddr s.me.id) = true)
    (hmov : s.moving s.me.id = false) (demotes : Bool) :
    s.sliceSwitch demotes = .next (s.turned d (demotes && decide ((s.inst (instOf s.me.id)).level = 0))).restoreMe := by
  have live : s.me.life ≠ .none := by rw [hrun]; decide
  have held : s.areaHeld s.me.id = false := by
    have h : (!s.splicing && !s.me.dueNow s && !s.areaHeld s.me.id) = true := hb
    simpa using (Bool.and_eq_true_iff.1 h).2
  have hole : s.saveHole = none := by
    unfold State.saveHole
    rw [hphys, Bool.not_true, Bool.and_false]
    rfl
  have turn : ∀ dem, (s.demotes (instOf s.me.id) dem).switchTo d.id = (s.turned d dem).restoreMe := fun dem => by
    have hs : (s.demotes (instOf s.me.id) dem).save .saved = s.saved dem := State.save_demotes dem hcan held hdue
    unfold State.switchTo
    simp only [hs, State.turned_eq live hp hd dem]
  unfold State.sliceSwitch
  rw [hlets, hb, hmov, hnext, hole]
  cases demotes with
  | false =>
    have := turn false
    rw [State.demotes_false] at this
    exact congrArg (fun t : State => (.next t : Res)) this
  | true =>
    have := turn (decide ((s.inst (instOf s.me.id)).level = 0))
    rw [← State.demote_eq live] at this
    exact congrArg (fun t : State => (.next t : Res)) this

end Sys2Proof.Machine
end

section
namespace Sys2Proof.Machine

open BitVec

/-- The context is as its save leaves it, and so are the bytes of its image; no byte outside its save area has changed (R341, R342). -/
def State.Written (s : State) (dem : Bool) (t : State) : Prop :=
  t.ctx? s.me.id = some (s.me.kept dem) ∧
  (∀ a, ¬ IsCounter s (.glob a 0) → t.mem.get a = ((s.withMe (s.me.kept dem)).writeImage s.me.id).mem.get a) ∧
  (∀ a, (a < s.saveAddr s.me.id ∨ s.saveAddr s.me.id + 2 ^ 24 ≤ a) → ¬ IsCounter s (.glob a 0) → t.mem.get a = s.mem.get a)

/-- The contexts but two are as they were, demoted with the others. -/
def State.OthersKept (s : State) (j : BitVec 12) (dem : Bool) (t : State) : Prop :=
  ∀ k, k ≠ s.me.id → k ≠ j → ∀ d, s.ctx? k = some d →
    t.ctx? k = some { d with demoted := d.demoted || (dem && instOf k == instOf s.me.id) }

/-- The context runs in focus, its slots as its restore finds them (R26, R335). -/
def State.RunsAs (s : State) (d : Ctx) (t : State) : Prop :=
  t.me = { d with life := .running, holdCc := 0, folio := t.me.folio, demoted := t.me.demoted } ∧
  ∀ n, t.me.slot n = foundSlot (s.withMe d).coreFrames.toList d.id n (d.slot n)

theorem State.saved_written {s t : State} {dem : Bool} (hw : s.mem.wf = true) (hcan : s.canSave s.me.id = true)
    (hctx : t.ctx? s.me.id = some (s.me.kept dem))
    (hmem : ∀ a, ¬ IsCounter s (.glob a 0) → t.mem.get a = (s.saved dem).mem.get a) : s.Written dem t :=
  ⟨hctx, fun a ha => by rw [hmem a ha, State.saved_mem hcan], fun a ho ha => (hmem a ha).trans (State.saved_outside hw dem ho ha)⟩

theorem Refiled.changes {s t : State} (h : Refiled s t) :
    t = { s with me := t.me, rest := t.rest, mem := t.mem, sram := t.sram, bdies := t.bdies, poison := t.poison, flips := t.flips,
                 insts := t.insts, hub := t.hub } ∧ ErrorsNoted s t ∧ ∀ j, ∃ r, t.inst j = { s.inst j with resume := r } :=
  ⟨by conv => { lhs; rw [h.only] }, h.errorsNoted, h.insts⟩

/-- After a switch: the next context runs, the one that ran is saved, the others are kept. -/
theorem State.turned_runs {s : State} (hw : s.mem.wf = true) (hl : s.me.life ≠ .none) (hp : s.Proper)
    (hcan : s.canSave s.me.id = true) {d : Ctx} (hd : d ∈ s.rest) (dem : Bool) :
    let t := (s.turned d dem).restoreMe
    s.RunsAs d t ∧ t.me.demoted = (d.demoted || (dem && instOf d.id == instOf s.me.id)) ∧ s.Written dem t ∧
      s.OthersKept d.id dem t ∧ Refiled s t := by
  have me : (s.turned d dem).restoreMe.me = { d.demotes (instOf s.me.id) dem with
      life := .running, holdCc := 0, folio := (s.turned d dem).foundFolio } := State.restoreMe_me _
  have turned := s.turned_refiled d dem
  obtain ⟨mine, others⟩ := State.turned_rest hl hp d dem
  have frames : (s.turned d dem).coreFrames = (s.withMe d).coreFrames := turned.coreFrames rfl
  refine ⟨⟨?_, fun n => ?_⟩, ?_, State.saved_written hw hcan ?_ fun a ha => ?_, fun k hk hkd e he => ?_,
    turned.trans (State.restoreMe_refiled _)⟩
  · rw [me]; rfl
  · rw [State.restoreMe_slot, frames]; rfl
  · rw [me]; rfl
  · rw [State.restoreMe_ctx?_other _ (show s.me.id ≠ d.id from hp.me_ne hl d hd)]
    exact mine
  · have wf : (s.turned d dem).mem.wf = true := State.saved_wf hw dem
    exact State.restoreMe_mem wf fun hc => ha ((turned.dies.isCounter _).1 hc)
  · obtain rfl := (State.ctx?_mem he).2
    rw [State.restoreMe_ctx?_other _ (show e.id ≠ d.id from hkd), others e.id hk hkd, he]
    rfl

/-- After the save for a move. -/
theorem State.saved_moves {s : State} (hw : s.mem.wf = true) (hl : s.me.life ≠ .none) (hcan : s.canSave s.me.id = true) (dem : Bool) :
    (s.saved dem).me = s.me.kept dem ∧ s.Written dem (s.saved dem) ∧ s.OthersKept s.me.id dem (s.saved dem) ∧
      Refiled s (s.saved dem) := by
  have live : (s.saved dem).me.life ≠ .none := by
    rw [State.saved_me]
    exact fun h => nomatch (show Life.saved = .none from h)
  have hid : (s.saved dem).me.id = s.me.id := by rw [State.saved_me, Ctx.kept_id]
  refine ⟨s.saved_me dem, State.saved_written hw hcan ?_ fun _ _ => rfl, fun k hk _ d hd => ?_, s.saved_refiled dem⟩
  · rw [← hid, State.ctx?_me live, State.saved_me]
  · obtain rfl := (State.ctx?_mem hd).2
    rw [State.ctx?_rest hl hk] at hd
    rw [State.ctx?_rest live (by rw [hid]; exact hk), State.saved_rest, find?_demotes, hd]
    rfl

/-- A pre-emption saves the context in focus (R335). -/
theorem exec_preemption {s : State} (hrun : s.me.life = .running) (hdue : s.me.imageDue = none) (hmov : s.moving s.me.id = true)
    (hb : s.atBoundary = true) (hop : s.hub.dieOp = none) (hcan : s.canSave s.me.id = true)
    (hphys : physExists s.hub (s.saveAddr s.me.id) = true) :
    exec .preemption s = .next (s.saved (decide ((s.inst (instOf s.me.id)).level = 0))) := by
  have live : s.me.life ≠ .none := by rw [hrun]; decide
  have held : s.areaHeld s.me.id = false := by
    have h : (!s.splicing && !s.me.dueNow s && !s.areaHeld s.me.id) = true := hb
    simpa using (Bool.and_eq_true_iff.1 h).2
  have hole : s.saveHole = none := by
    unfold State.saveHole
    rw [hphys, Bool.not_true, Bool.and_false]
    rfl
  have late : s.saveLate s.me = false := by unfold State.saveLate; rw [hop]
  have saves : (s.demote (instOf s.me.id)).save .saved = s.saved (decide ((s.inst (instOf s.me.id)).level = 0)) := by
    rw [State.demote_eq live]
    exact State.save_demotes _ hcan held hdue
  have settled : (s.saved (decide ((s.inst (instOf s.me.id)).level = 0))).settleDie =
      s.saved (decide ((s.inst (instOf s.me.id)).level = 0)) := by
    have : (s.saved (decide ((s.inst (instOf s.me.id)).level = 0))).hub.dieOp = none := by
      rw [(s.saved_refiled _).hub]; exact hop
    unfold State.settleDie
    rw [this]
  show execPreemption s = _
  unfold execPreemption
  rw [hrun, hmov, hb, late, hole]
  show (.next ((s.demote (instOf s.me.id)).save .saved).settleDie : Res) = _
  rw [saves, settled]

/-- The only context of its core that may run does (R335). -/
theorem exec_contextRestore {s : State} (hsaved : s.me.life = .saved) (hmay : s.mayRestore s.me = true) (hq : s.me.qualifies = true)
    (hidle : s.coreIdle s.me.id = true) (hsole : ∀ d ∈ s.rest, d.qualifies = true → s.sameCore d.id s.me.id = false) :
    exec .contextRestore s = .next s.restoreMe := by
  have live : s.me.life ≠ .none := by rw [hsaved]; decide
  have mine : s.sameCore s.me.id s.me.id = true := by simp [State.sameCore]
  have sole : s.ctxs.filter (fun c => c.qualifies && s.mayRestore c && s.sameCore c.id s.me.id) = [s.me] := by
    rw [State.ctxs, if_neg live, List.filter_cons, if_pos (by rw [hq, hmay, mine]; rfl)]
    congr 1
    refine List.filter_eq_nil_iff.2 fun d hd => ?_
    cases h : d.qualifies with
    | false => simp
    | true => simp [hsole d hd h]
  have first : (s.bySlice [s.me]).head?.map (·.id) = some s.me.id := rfl
  show execContextRestore s = _
  unfold execContextRestore
  simp [sole, first, hsaved, hidle]

/-- It runs as its save left it. -/
theorem State.restoreMe_runs {s : State} (hw : s.mem.wf = true) :
    s.RunsAs s.me s.restoreMe ∧ s.restoreMe.me.demoted = s.me.demoted ∧ Refiled s s.restoreMe ∧
      ∀ a, ¬ IsCounter s (.glob a 0) → s.restoreMe.mem.get a = s.mem.get a := by
  refine ⟨⟨?_, fun n => s.restoreMe_slot n⟩, ?_, s.restoreMe_refiled, fun a ha => State.restoreMe_mem hw ha⟩
  · rw [State.restoreMe_me]
  · rw [State.restoreMe_me]

end Sys2Proof.Machine
end

section
namespace Sys2Proof.Machine

open BitVec

/-! ## The S accesses of a removed context (R337) -/

theorem Ctx.spadWrite_memories {c d : Ctx} {off : Nat} {bs : List Byte} (h : c.spadWrite off bs = some d) : MemoriesOnly c d := by
  unfold Ctx.spadWrite at h
  dsimp only at h
  split at h
  · cases h
  · cases h; rfl

theorem Ctx.privWrite_memories {c d : Ctx} {off : Nat} {bs : List Byte} (h : c.privWrite off bs = some d) : MemoriesOnly c d := by
  unfold Ctx.privWrite at h
  dsimp only at h
  split at h
  · cases h
  · cases h; rfl

/-- From s to t an access of the context in focus has been made: of it no more than its memories has changed, and what homes go by is
kept. -/
structure Accessed (s t : State) : Prop where
  me : MemoriesOnly s.me t.me
  dies : DiesKept s t
  insts : ∀ j, ∃ r, t.inst j = { s.inst j with resume := r }
  moves : t.moves = s.moves
  hub : HubNoted s.hub t.hub

theorem Accessed.refl (s : State) : Accessed s s := ⟨.refl _, .refl s, fun _ => ⟨_, rfl⟩, rfl, rfl⟩

theorem Accessed.trans {s t u : State} (h : Accessed s t) (k : Accessed t u) : Accessed s u := by
  refine ⟨h.me.trans k.me, h.dies.trans k.dies, fun j => ?_, k.moves.trans h.moves, h.hub.trans k.hub⟩
  obtain ⟨r, hr⟩ := h.insts j
  obtain ⟨q, hq⟩ := k.insts j
  exact ⟨q, by rw [hq, hr]⟩

theorem Accessed.foldl {α : Type} {f : State → α → State} (h : ∀ s a, Accessed s (f s a)) (l : List α) (s : State) :
    Accessed s (l.foldl f s) := by
  induction l generalizing s with
  | nil => exact .refl s
  | cons a l ih => exact (h s a).trans (ih _)

theorem Accessed.id {s t : State} (h : Accessed s t) : t.me.id = s.me.id := by rw [h.me]
theorem Accessed.life {s t : State} (h : Accessed s t) : t.me.life = s.me.life := by rw [h.me]

theorem Accessed.canSave {s t : State} (h : Accessed s t) (id : BitVec 12) : t.canSave id = s.canSave id := by
  obtain ⟨r, hr⟩ := h.insts (instOf id)
  unfold State.canSave; rw [hr]

theorem Accessed.areaHeld {s t : State} (h : Accessed s t) (id : BitVec 12) : t.areaHeld id = s.areaHeld id := by
  obtain ⟨r, hr⟩ := h.insts (instOf id)
  simp only [State.areaHeld, State.saveAddr, State.canSave, hr, h.moves, (h.dies _).2.2]

theorem Serviced.accessed {s t : State} (h : Serviced s t) : Accessed s t :=
  ⟨h.me ▸ .refl _, h.dies, fun j => ⟨_, by rw [h.inst]⟩, by rw [h.only], h.hub⟩

theorem Filed.accessed {s t : State} (h : Filed s t) : Accessed s t := ⟨h.me ▸ .refl _, h.dies, h.insts, h.moves, h.hub⟩

/-- A change of contexts that changes no more than the memories of the one in focus. -/
theorem Accessed.of_contexts {s t : State} (h : t = { s with me := t.me, rest := t.rest }) (hm : MemoriesOnly s.me t.me) : Accessed s t :=
  ⟨hm, .of_bdies (by rw [h]), fun j => ⟨_, by rw [h]; rfl⟩, by rw [h], by rw [h]; rfl⟩

theorem State.modCtx_accessed (s : State) (id : BitVec 12) {f : Ctx → Ctx} (h : id = s.me.id → MemoriesOnly s.me (f s.me)) :
    Accessed s (s.modCtx id f) := by
  unfold State.modCtx
  split
  · next hi => exact .of_contexts rfl (h hi.1.symm)
  · exact .of_contexts rfl (.refl _)

theorem State.meetWords_accessed (s : State) (id : BitVec 12) (priv : Bool) (off n : Nat) :
    Accessed s (s.meetWords id priv off n) := by
  obtain ⟨f, hf, hn, -⟩ := s.meetWords_spec id priv off n
  exact (s.modCtx_accessed id fun _ => (hf s.me).memoriesOnly).trans hn.serviced.accessed

theorem State.ctx?_me_of {s : State} {id : BitVec 12} {c : Ctx} (hl : s.me.life ≠ .none) (hi : id = s.me.id)
    (h : s.ctx? id = some c) : c = s.me := by
  rw [hi, State.ctx?_me hl] at h
  exact (Option.some.inj h).symm

/-- The image of another context takes the bytes of a change. -/
theorem State.poke_accessed (s : State) (id : BitVec 12) (l : List (Nat × List Byte)) (hl : s.me.life = .running) :
    Accessed s (s.poke id l) := by
  have live : s.me.life ≠ .none := by rw [hl]; decide
  unfold State.poke
  split
  · next c hc =>
    split
    · exact .refl s
    · next hgo =>
      split
      · refine s.modCtx_accessed id fun hi => absurd ?_ hgo
        rw [State.ctx?_me_of live hi hc, Ctx.away, hl]
        rfl
      · refine .foldl (fun s p => ?_) l s
        have filed : Filed s ((((s.healAtoms (wholeAtom (s.saveAddr id + p.1) p.2.length)).journal (instOf id) (s.saveAddr id + p.1)
            p.2.length).sramBulk (s.saveAddr id + p.1) p.2.length (some (id, 0xFE))).meet (s.saveAddr id + p.1) p.2.length) :=
          (((s.healAtoms_filed _).trans (State.journal_filed ..)).trans (State.sramBulk_moved ..).filed).trans (State.meet_filed ..)
        exact (filed.withMem _).accessed
  · exact .refl s

/-! ### The accesses -/

theorem State.globRead_accessed {s t : State} {sk pa n : Nat} {cache : BitVec 2} {b : List Byte}
    (h : s.globRead sk pa n cache = .ok (b, t)) : Accessed s t := by
  unfold State.globRead at h
  split at h
  · cases h
  · cases h
  · split at h
    · cases h
    · cases h
      exact ((s.sramRead_moved pa n cache).serviced.trans (State.meet_serviced ..)).accessed

theorem State.globWrite_accessed {s t : State} {sk pa : Nat} {bs : List Byte} {cache : BitVec 2} {i : BitVec 4} {w : Writer}
    (h : s.globWrite sk pa bs cache i w = .ok t) : Accessed s t := by
  unfold State.globWrite at h
  split at h
  · cases h
  · cases h
  · dsimp only at h
    split at h
    · cases h
    · cases h
      have served := ((s.healAtoms_serviced (wholeAtom pa bs.length)).trans
        (State.sramWrite_moved _ pa bs.length cache (w.who i)).serviced).trans (State.meet_serviced _ pa bs.length)
      generalize (((s.healAtoms (wholeAtom pa bs.length)).sramWrite pa bs.length cache (w.who i)).meet pa bs.length) = u at served
      have journaled : Accessed u (if w.own then u.journal i pa bs.length else u) := by
        split
        · exact (u.journal_filed i pa bs.length).accessed
        · exact .refl u
      generalize (if w.own then u.journal i pa bs.length else u) = v at journaled
      have wrote : Accessed v { v.wrote w pa bs.length with mem := (v.wrote w pa bs.length).mem.write pa bs } :=
        ⟨.refl _, .of_bdies rfl, fun _ => ⟨_, rfl⟩, rfl, rfl⟩
      exact (served.accessed.trans journaled).trans wrote

theorem State.locRead_accessed {s t : State} {l : Loc} {n : Nat} {cache : BitVec 2} {b : List Byte}
    (h : s.locRead s.me l n cache = .ok (b, t)) : Accessed s t := by
  cases l with
  | glob pa va => exact State.globRead_accessed h
  | priv off =>
    simp only [State.locRead] at h
    split at h
    · cases h; exact s.meetWords_accessed ..
    · cases h
  | spad core off =>
    simp only [State.locRead] at h
    split at h
    · split at h
      · cases h; exact s.meetWords_accessed ..
      · cases h
    · split at h
      · split at h
        · cases h
        · cases h
        · split at h
          · cases h
            exact (s.readAway_serviced _ off n).1.accessed.trans (State.meetWords_accessed ..)
          · cases h
      · cases h

theorem State.view_me {s : State} {id : BitVec 12} {c : Ctx} (hl : s.me.life = .running) (hi : id = s.me.id)
    (h : s.view id = some c) : c = s.me := by
  rw [hi, State.view_eq (State.ctx?_me (by simp [hl])) (by simp [hl])] at h
  exact (Option.some.inj h).symm

theorem State.locWrite_accessed {s t : State} {l : Loc} {bs : List Byte} {cache : BitVec 2} {w : Writer} (hl : s.me.life = .running)
    (h : s.locWrite s.me l bs cache w = .ok t) : Accessed s t := by
  cases l with
  | glob pa va => exact State.globWrite_accessed h
  | priv off =>
    simp only [State.locWrite] at h
    split at h
    · next d hd =>
      cases h
      exact (s.modCtx_accessed _ fun _ => Ctx.privWrite_memories hd).trans (State.meetWords_accessed ..)
    · cases h
  | spad core off =>
    simp only [State.locWrite] at h
    split at h
    · next d hd =>
      split at h
      · cases h
      · cases h
      · split at h
        · next d' hd' =>
          cases h
          have set : Accessed s (s.modCtx (ctxIdOf (instOf s.me.id) core) fun _ => d') :=
            s.modCtx_accessed _ fun hi => State.view_me hl hi hd ▸ Ctx.spadWrite_memories hd'
          exact (set.trans (State.poke_accessed _ _ _ (set.life.trans hl))).trans (State.meetWords_accessed ..)
        · cases h
    · cases h

theorem State.logAccess_accessed (s : State) (cause : BitVec 7) (l : Loc) (ea : W64) (n : Nat) (cache : BitVec 2) :
    Accessed s (s.logAccess cause l ea n cache) := by
  unfold State.logAccess
  split
  · split
    · exact (s.failed_serviced cause _ n cache).accessed
    · exact (s.meetWords_accessed ..).trans (State.elog_noted ..).serviced.accessed
    · exact (s.meetWords_accessed ..).trans (State.elog_noted ..).serviced.accessed
  · exact .refl s

theorem State.bear_accessed (s : State) (l : Loc) (n : Nat) (k : Known) (scope : BitVec 3) (dsl : Nat) :
    Accessed s (s.bear s.me l n k scope dsl) := by
  cases l with
  | glob pa va => exact ⟨.refl _, .refl _, fun _ => ⟨_, rfl⟩, rfl, rfl⟩
  | priv off => exact .refl s
  | spad core off => exact s.modCtx_accessed _ fun _ => rfl

end Sys2Proof.Machine
end

section
namespace Sys2Proof.Machine

open BitVec

/-! ### Performing what is queued (R103, R337) -/

/-- The S accesses of a context that perform change its registers, memories and queues alone; the queues shrink from the front. -/
structure Ctx.Drains (a b : Ctx) : Prop where
  only : b = { a with g := b.g, taint := b.taint, sq := b.sq, hb := b.hb, spad := b.spad, priv := b.priv, badSpad := b.badSpad,
                      badPriv := b.badPriv, flipSpad := b.flipSpad, flipPriv := b.flipPriv }
  loads : b.sq.loads <:+ a.sq.loads
  stores : b.sq.stores <:+ a.sq.stores

theorem Ctx.Drains.refl (a : Ctx) : Ctx.Drains a a := ⟨rfl, List.suffix_refl _, List.suffix_refl _⟩

theorem Ctx.Drains.trans {a b c : Ctx} (h : Ctx.Drains a b) (k : Ctx.Drains b c) : Ctx.Drains a c :=
  ⟨by conv => { lhs; rw [k.only, h.only] }, k.loads.trans h.loads, k.stores.trans h.stores⟩

theorem MemoriesOnly.sq {a b : Ctx} (h : MemoriesOnly a b) : b.sq = a.sq := by rw [h]

theorem MemoriesOnly.drains {a b : Ctx} (h : MemoriesOnly a b) : Ctx.Drains a b := by
  refine ⟨?_, h.sq ▸ List.suffix_refl _, h.sq ▸ List.suffix_refl _⟩
  conv => lhs; rw [h]
  rw [h.sq, show b.g = a.g by rw [h], show b.taint = a.taint by rw [h]]

/-- The context with other queues. -/
def Ctx.withQueues (c : Ctx) (q : SQueues) : Ctx := { c with sq := q }

theorem Ctx.withQueues_drains (c : Ctx) {q : SQueues} (hl : q.loads <:+ c.sq.loads) (hs : q.stores <:+ c.sq.stores) :
    Ctx.Drains c (c.withQueues q) := ⟨rfl, hl, hs⟩

theorem Ctx.wg_drains (c : Ctx) (d : BitVec 5) (v : W64) (tn : Bool) : Ctx.Drains c (c.wg d v tn) := by
  unfold Ctx.wg
  split
  · exact .refl c
  · exact ⟨rfl, List.suffix_refl _, List.suffix_refl _⟩

/-- From s to t S accesses of the context in focus have performed: what a removal goes by has not changed. -/
structure Draining (s t : State) : Prop where
  me : Ctx.Drains s.me t.me
  dies : DiesKept s t
  insts : ∀ j, ∃ r, t.inst j = { s.inst j with resume := r }
  moves : t.moves = s.moves
  hub : HubNoted s.hub t.hub

theorem Draining.refl (s : State) : Draining s s := ⟨.refl _, .refl s, fun _ => ⟨_, rfl⟩, rfl, rfl⟩

theorem Draining.trans {s t u : State} (h : Draining s t) (k : Draining t u) : Draining s u := by
  refine ⟨h.me.trans k.me, h.dies.trans k.dies, fun j => ?_, k.moves.trans h.moves, h.hub.trans k.hub⟩
  obtain ⟨r, hr⟩ := h.insts j
  obtain ⟨q, hq⟩ := k.insts j
  exact ⟨q, by rw [hq, hr]⟩

theorem Accessed.draining {s t : State} (h : Accessed s t) : Draining s t := ⟨h.me.drains, h.dies, h.insts, h.moves, h.hub⟩

theorem Draining.life {s t : State} (h : Draining s t) : t.me.life = s.me.life := by rw [h.me.only]

theorem Draining.canSave {s t : State} (h : Draining s t) (id : BitVec 12) : t.canSave id = s.canSave id := by
  obtain ⟨r, hr⟩ := h.insts (instOf id)
  unfold State.canSave; rw [hr]

theorem Draining.areaHeld {s t : State} (h : Draining s t) (id : BitVec 12) : t.areaHeld id = s.areaHeld id := by
  obtain ⟨r, hr⟩ := h.insts (instOf id)
  simp only [State.areaHeld, State.saveAddr, State.canSave, hr, h.moves, (h.dies _).2.2]

theorem State.withMe_draining {s : State} {c : Ctx} (hc : Ctx.Drains s.me c) : Draining s (s.withMe c) :=
  ⟨hc, .of_bdies rfl, fun _ => ⟨_, rfl⟩, rfl, rfl⟩

/-- A load that does not wait at its queue head leaves its stream alone. -/
theorem performLoad_draining {s t : State} (hq : ∀ x ∈ s.me.sq.loads, x.head = false) (h : performLoad s = some t) : Draining s t := by
  unfold performLoad at h
  split at h
  · cases h
  next l ls hl =>
  have head : l.head = false := hq l (by rw [hl]; exact List.mem_cons_self)
  have less : ls <:+ s.me.sq.loads := by rw [hl]; exact List.suffix_cons l ls
  simp only [head, Bool.false_eq_true, if_false] at h
  split at h
  · cases h
  split at h
  · split at h
    · cases h
      refine State.withMe_draining (Ctx.Drains.trans ?_ (Ctx.wg_drains (s.me.withQueues { s.me.sq with loads := ls }) _ _ _))
      exact s.me.withQueues_drains less (List.suffix_refl _)
    · cases h
  · split at h
    · cases h
    · next c hc =>
      cases h
      have popped := State.withMe_draining
        (s.me.withQueues_drains (q := { s.me.sq with loads := ls, errs := s.me.sq.errs ++ [{ d := some l.d, cause := c, tval := l.ea }] })
          less (List.suffix_refl _))
      exact popped.trans (State.logAccess_accessed ..).draining
    · next bs u hu =>
      cases h
      have read := State.locRead_accessed hu
      have queues := read.me.sq
      refine read.draining.trans (State.withMe_draining (Ctx.Drains.trans ?_ (Ctx.wg_drains _ _ _ _)))
      have known : ∀ k, Ctx.Drains u.me (u.me.acquire .s k) := fun k => ⟨rfl, List.suffix_refl _, List.suffix_refl _⟩
      refine (known _).trans (Ctx.withQueues_drains _ ?_ (List.suffix_refl _))
      show ls <:+ u.me.sq.loads
      rw [queues]
      exact less

/-- A release first writes back what it covers. -/
theorem State.released_accessed (s : State) (b : Bool) (k : Known) : Accessed s (if b then s.release k else s) := by
  split
  · exact (s.flushLines_moved _).1.serviced.accessed
  · exact .refl s

theorem performStore_draining {s t : State} (hl : s.me.life = .running) (h : performStore s = some t) : Draining s t := by
  unfold performStore at h
  split at h
  · cases h
  next x xs hx =>
  have less : xs <:+ s.me.sq.stores := by rw [hx]; exact List.suffix_cons x xs
  split at h
  · cases h
  dsimp only at h
  have popped : Draining s (s.withMe (s.me.withQueues { s.me.sq with stores := xs })) :=
    State.withMe_draining (s.me.withQueues_drains (List.suffix_refl _) less)
  split at h
  · cases h
  · next c hc =>
    cases h
    have failed := State.withMe_draining
      (s.me.withQueues_drains (q := { s.me.sq with stores := xs, errs := s.me.sq.errs ++ [{ d := none, cause := c, tval := x.ea }] })
        (List.suffix_refl _) less)
    exact failed.trans (State.logAccess_accessed ..).draining
  · next u hu =>
    cases h
    have released := (s.withMe (s.me.withQueues { s.me.sq with stores := xs })).released_accessed (x.scope = 4 && x.rel)
      ((s.withMe (s.me.withQueues { s.me.sq with stores := xs })).me.gives .s s.tick)
    have wrote := State.locWrite_accessed (released.life.trans hl) hu
    refine (popped.trans (released.trans wrote).draining).trans ?_
    split
    · exact (State.bear_accessed ..).draining
    · exact .refl u

theorem drainS_draining {s : State} (n : Nat) (hl : s.me.life = .running) (hq : ∀ x ∈ s.me.sq.loads, x.head = false) :
    Draining s (drainS n s) := by
  induction n generalizing s with
  | zero => exact .refl s
  | succ n ih =>
    unfold drainS
    split
    · next t ht =>
      have step := performLoad_draining hq ht
      exact step.trans (ih (step.life.trans hl) fun x hx => hq x (step.me.loads.subset hx))
    · split
      · next t ht =>
        have step := performStore_draining hl ht
        exact step.trans (ih (step.life.trans hl) fun x hx => hq x (step.me.loads.subset hx))
      · exact .refl s

end Sys2Proof.Machine
end

section
namespace Sys2Proof.Machine

/-! ## Vectors and images of a removal (R298, R306, R337) -/

theorem State.msi_raised (s : State) (v : Nat) : Raised (s.msi v).hub (BitVec.ofNat 6 v) := by
  let h : Hub := { s.hub with msixHeld := s.hub.msixHeld ++ [BitVec.ofNat 6 v] }
  have mem : BitVec.ofNat 6 v ∈ h.msixHeld := List.mem_append_right _ List.mem_cons_self
  show BitVec.ofNat 6 v ∈ h.msix ++ h.msixHeld.filter (fun v => !h.masked v) ∨ BitVec.ofNat 6 v ∈ h.msixHeld.filter h.masked
  cases hm : h.masked (BitVec.ofNat 6 v) with
  | true => exact .inr (List.mem_filter.2 ⟨mem, hm⟩)
  | false => exact .inl (List.mem_append_right _ (List.mem_filter.2 ⟨mem, by rw [hm]; rfl⟩))

/-- Of the hub only reports have changed, as far as quiesce goes by it. -/
def HubQuiet (a b : Hub) : Prop := b.dieOp = a.dieOp ∧ b.product = a.product

theorem HubNoted.quiet {a b : Hub} (h : HubNoted a b) : HubQuiet a b := by
  rw [h]; exact ⟨rfl, rfl⟩

/-- What a removal needs before its image can be written. -/
def State.drained (u : State) : Prop :=
  u.areaHeld u.me.id = false ∧ u.me.sq.loads = [] ∧ u.me.sq.stores = [] ∧ u.me.cp.copies = []

/-- The image of a removed context in focus: written, and vector 5 follows, or both due. -/
theorem State.putImage_removed {u : State} (hl : u.me.life = .removed) : ∃ due,
    (u.putImage u.me.id 5).me = { u.me with imageDue := due } ∧
    (∀ j, ∃ r, (u.putImage u.me.id 5).inst j = { u.inst j with resume := r }) ∧ HubQuiet u.hub (u.putImage u.me.id 5).hub ∧
    (u.drained → u.me.imageDue = none → Raised (u.putImage u.me.id 5).hub 5) ∧ (¬ u.drained → due.isSome = true) := by
  have live : u.me.life ≠ .none := by rw [hl]; decide
  have ready : u.imageReady u.me = true ↔ u.drained := by
    simp [State.imageReady, State.drained, hl, and_assoc]
  unfold State.putImage
  rw [State.ctx?_me live]
  dsimp only
  rw [State.modCtx_me live, State.modCtx_me live]
  by_cases hr : u.drained
  · rw [ready.2 hr]
    have filed := State.writeImage_filed { u with me := { u.me with imageDue := none } } u.me.id
    generalize ({ u with me := { u.me with imageDue := none } } : State).writeImage u.me.id = t at filed
    refine ⟨none, ?_⟩
    have told : ∀ x : Nat, (t.msi x).me = { u.me with imageDue := none } := fun _ => filed.me
    rw [Bool.not_true, if_neg Bool.false_ne_true]
    split
    · next hz =>
      refine ⟨filed.me, filed.insts, filed.hub.quiet, fun _ hd => ?_, fun h => absurd hr h⟩
      rw [hd] at hz
      exact absurd hz (by decide)
    · refine ⟨filed.me, filed.insts, filed.hub.quiet, fun _ hd => ?_, fun h => absurd hr h⟩
      rw [hd]
      exact t.msi_raised 5
  · have no : u.imageReady u.me = false := by
      rw [← Bool.not_eq_true]
      exact fun h => hr (ready.1 h)
    rw [no]
    exact ⟨_, rfl, fun j => ⟨_, rfl⟩, ⟨rfl, rfl⟩, fun h => absurd h hr, fun _ => rfl⟩

/-! ## The record of a removed context (R329, R337) -/

/-- The busy counts are those that the copies leave. -/
def Ctx.recounted (c : Ctx) : Ctx :=
  { c with tiles := Vector.ofFn fun h => { c.tiles[h] with busy := c.busyOf (BitVec.ofNat 8 h.val) } }

/-- A removed context before its last accesses perform. -/
def Ctx.removing (c : Ctx) (cause : BitVec 7) (tval : W64) : Ctx :=
  let c := { c with t := { c.t with cause := cause, tval := tval, load := none } }
  ({ c with m := { c.m with cur := none }, cp := c.cp.discard, f := { c.f with run := none } } : Ctx).recounted

/-- A removed context, its channels empty. -/
def Ctx.emptied (c : Ctx) : Ctx := { c with tok := Vector.replicate 14 [], v := { c.v with y := 0 }, life := .removed }

/-- The removal of the context in focus, before its image is written. -/
def State.removed (s : State) (cause : BitVec 7) (tval : W64) : State :=
  let u := drainS 256 (s.withMe ((s.me.record none).removing cause tval))
  let v := (u.withMe u.me.emptied).modInst (instOf u.me.id) fun i => { i with recFlags := i.recFlags ||| 1 }
  v.elog 0x08 (v.socketOf u.me.id) cause.toNat (some u.me.id) 0 tval

theorem State.remove_eq (s : State) (cause : BitVec 7) (tval : W64) : s.remove cause tval =
    (if (s.removed cause tval).canSave (drainS 256 (s.withMe ((s.me.record none).removing cause tval))).me.id
     then (s.removed cause tval).putImage (drainS 256 (s.withMe ((s.me.record none).removing cause tval))).me.id 5
     else (s.removed cause tval).msi 5) := rfl

theorem Ctx.recounted_busy (c : Ctx) (h : BitVec 8) : (c.recounted.tile h).busy = c.recounted.busyOf h := by
  have copies : c.recounted.cp = c.cp := by unfold Ctx.recounted; dsimp only
  have same : c.recounted.busyOf h = c.busyOf h := by unfold Ctx.busyOf; rw [copies]
  rw [same]
  unfold Ctx.tile Ctx.recounted
  rw [Vector.getElem_ofFn, BitVec.ofNat_toNat, BitVec.setWidth_eq]

/-- What a stopped copy keeps (R234). -/
theorem Ctx.restartC_copies (c : Ctx) : ∀ k ∈ c.restartC.cp.copies, ∃ x ∈ c.cp.copies, k = { x with got := k.got } := by
  intro k hk
  obtain ⟨x, hx, rfl⟩ := List.mem_map.1 hk
  refine ⟨x, hx, ?_⟩
  split
  · rfl
  · split <;> rfl
  · split <;> rfl
  · rfl

theorem Ctx.record_copies (c : Ctx) (cl : Option (BitVec 4)) : ∀ k ∈ (c.record cl).cp.copies, ∃ x ∈ c.cp.copies, k = { x with got := k.got } := by
  have same : c.settleV.restartM.cp = c.cp :=
    c.settleV_keep (fun c => c.cp) (fun _ _ _ => rfl) (fun _ _ => rfl) (fun _ _ => rfl)
  intro k hk
  have := Ctx.restartC_copies c.settleV.restartM k hk
  rwa [same] at this

/-- The copies that a removal does not discard. -/
theorem CState.discard_copies (c : CState) : ∀ k ∈ c.discard.copies, (k.under = true ∨ k.isCollective = true) ∧ k ∈ c.copies := by
  intro k hk
  unfold CState.discard at hk
  dsimp only at hk
  split at hk
  · next x l hl =>
    split at hk
    · next hu =>
      obtain rfl := List.mem_singleton.1 hk
      exact ⟨by simpa using hu, by rw [hl]; exact List.mem_cons_self⟩
    · cases hk
  · cases hk

end Sys2Proof.Machine
end

section
namespace Sys2Proof.Machine

theorem Ctx.record_id (c : Ctx) : (c.record none).id = c.id :=
  c.record_keep (fun c => c.id) (fun _ _ _ => rfl) (fun _ _ => rfl) (fun _ _ => rfl) (fun _ _ => rfl) (fun _ _ => rfl) (fun _ _ => rfl)
    (fun _ _ _ _ _ _ _ _ => rfl) none

theorem Ctx.record_life (c : Ctx) : (c.record none).life = c.life :=
  c.record_keep (fun c => c.life) (fun _ _ _ => rfl) (fun _ _ => rfl) (fun _ _ => rfl) (fun _ _ => rfl) (fun _ _ => rfl) (fun _ _ => rfl)
    (fun _ _ _ _ _ _ _ _ => rfl) none

theorem Ctx.record_imageDue (c : Ctx) : (c.record none).imageDue = c.imageDue :=
  c.record_keep (fun c => c.imageDue) (fun _ _ _ => rfl) (fun _ _ => rfl) (fun _ _ => rfl) (fun _ _ => rfl) (fun _ _ => rfl)
    (fun _ _ => rfl) (fun _ _ _ _ _ _ _ _ => rfl) none

theorem Ctx.record_sq (c : Ctx) : (c.record none).sq = c.sq.stop :=
  congrArg SQueues.stop (c.stopped_keep (fun c => c.sq) (fun _ _ _ => rfl) (fun _ _ => rfl) (fun _ _ => rfl) (fun _ _ => rfl)
    (fun _ _ => rfl) fun _ _ => rfl)

theorem Ctx.record_epc (c : Ctx) : (c.record none).t.epc = c.s.restart ∧ (c.record none).t.tseqs = c.s.seq :=
  ⟨c.stopped_keep (fun c => c.s.restart) (fun _ _ _ => rfl) (fun _ _ => rfl) (fun _ _ => rfl) (fun _ _ => rfl) (fun _ _ => rfl) fun _ _ => rfl,
   c.stopped_keep (fun c => c.s.seq) (fun _ _ _ => rfl) (fun _ _ => rfl) (fun _ _ => rfl) (fun _ _ => rfl) (fun _ _ => rfl) fun _ _ => rfl⟩

/-- A load that waits at its queue head has had no effect when its stream stops there (R68, R329). -/
theorem SQueues.stop_heads (q : SQueues) : ∀ x ∈ q.stop.loads, x.head = false := by
  intro x hx
  have := (List.mem_filter.1 hx).2
  simpa using this

theorem State.withMe_me (s : State) (c : Ctx) : (s.withMe c).me = c := rfl
theorem State.withMe_canSave (s : State) (c : Ctx) (k : BitVec 12) : (s.withMe c).canSave k = s.canSave k := rfl
theorem State.withMe_areaHeld (s : State) (c : Ctx) (k : BitVec 12) : (s.withMe c).areaHeld k = s.areaHeld k := rfl

theorem Ctx.emptied_chan (c : Ctx) : ∀ k, k < 14 → c.emptied.chan k = [] := by
  intro k hk
  unfold Ctx.chan Ctx.emptied
  simp [Array.getD, hk]

/-- A removed context before its channels are emptied: what it keeps of its record. -/
structure Ctx.Removing (c d : Ctx) (cause : BitVec 7) (tval : W64) : Prop where
  id : d.id = c.id
  life : d.life = c.life
  due : d.imageDue = c.imageDue
  trap : d.t.cause = cause ∧ d.t.tval = tval ∧ d.t.epc = c.t.epc ∧ d.t.tseqs = c.t.tseqs
  queues : d.sq = c.sq
  engines : d.m.cur = none ∧ d.f.run = none
  copies : d.cp = c.cp.discard
  busy : ∀ h, (d.tile h).busy = d.busyOf h

theorem Ctx.removing_spec (c : Ctx) (cause : BitVec 7) (tval : W64) : Ctx.Removing c (c.removing cause tval) cause tval := by
  unfold Ctx.removing
  generalize hb : ({ ({ c with t := { c.t with cause := cause, tval := tval, load := none } } : Ctx) with
    m := { c.m with cur := none }, cp := c.cp.discard, f := { c.f with run := none } } : Ctx) = b
  have counted := b.recounted_busy
  have only : b.recounted = { b with tiles := b.recounted.tiles } := by unfold Ctx.recounted; dsimp only
  dsimp only at hb ⊢
  rw [hb]
  generalize b.recounted = d at counted only
  rw [← hb] at only
  exact ⟨by rw [only], by rw [only], by rw [only], by rw [only]; exact ⟨rfl, rfl, rfl, rfl⟩, by rw [only], by rw [only]; exact ⟨rfl, rfl⟩,
    by rw [only], counted⟩

theorem Ctx.busyOf_congr {c d : Ctx} (h : c.cp = d.cp) (k : BitVec 8) : c.busyOf k = d.busyOf k := by
  unfold Ctx.busyOf; rw [h]

/-- The parts of a removal (R337). -/
theorem removed_of {s t u : State} {c : Ctx} {cause : BitVec 7} {tval : W64} {due : Option (BitVec 6)}
    (hc : Ctx.Removing (s.me.record none) c cause tval) (hu : Ctx.Drains c u.me) (hme : t.me = { u.me.emptied with imageDue := due })
    (hrec : (t.inst (instOf s.me.id)).recFlags.getLsbD 0 = true) (htold : RemovalTold s t) : Removed s t cause tval := by
  obtain ⟨only, loads, stores⟩ := hu
  have tid : t.me.id = u.me.id := by rw [hme]; rfl
  have tlife : t.me.life = .removed := by rw [hme]; rfl
  have ttrap : t.me.t = u.me.t := by rw [hme]; rfl
  have tsq : t.me.sq = u.me.sq := by rw [hme]; rfl
  have tm : t.me.m = u.me.m := by rw [hme]; rfl
  have tf : t.me.f = u.me.f := by rw [hme]; rfl
  have tcp : t.me.cp = u.me.cp := by rw [hme]; rfl
  have ttiles : t.me.tiles = u.me.tiles := by rw [hme]; rfl
  have tchan : ∀ k, k < 14 → t.me.chan k = [] := by rw [hme]; exact u.me.emptied_chan
  have uid : u.me.id = c.id := by rw [only]
  have utrap : u.me.t = c.t := by rw [only]
  have um : u.me.m = c.m := by rw [only]
  have uf : u.me.f = c.f := by rw [only]
  have ucp : u.me.cp = c.cp := by rw [only]
  have utiles : u.me.tiles = c.tiles := by rw [only]
  obtain ⟨cause_, tval_, epc, tseqs⟩ := hc.trap
  rw [hc.queues, Ctx.record_sq] at loads stores
  refine ⟨?_, tlife, ?_, ?_, ?_, ?_, ?_, ?_, ?_, ?_, ?_, tchan, ?_, hrec, htold⟩
  · rw [tid, uid, hc.id, Ctx.record_id]
  · rw [ttrap, utrap, cause_]
  · rw [ttrap, utrap, tval_]
  · rw [ttrap, utrap, epc, s.me.record_epc.1]
  · rw [ttrap, utrap, tseqs, s.me.record_epc.2]
  · rw [tsq]; exact loads
  · rw [tsq]; exact stores
  · rw [tm, um]; exact hc.engines.1
  · rw [tf, uf]; exact hc.engines.2
  · intro k hk
    rw [tcp, ucp, hc.copies] at hk
    obtain ⟨kept, mem⟩ := CState.discard_copies _ k hk
    exact ⟨kept, s.me.record_copies none k mem⟩
  · intro h
    rw [Ctx.busyOf_congr (tcp.trans ucp), ← hc.busy h]
    unfold Ctx.tile
    rw [ttiles, utiles]

end Sys2Proof.Machine
end

section
namespace Sys2Proof.Machine

/-- The accesses of a removed context that perform (R337). -/
def State.removalDrain (s : State) (cause : BitVec 7) (tval : W64) : State :=
  drainS 256 (s.withMe ((s.me.record none).removing cause tval))

/-- The removal of the context in focus, but for its image and the report of it. -/
structure RemovedBut (s w : State) (cause : BitVec 7) (tval : W64) (u : State) : Prop where
  me : w.me = u.me.emptied
  insts : ∀ j, (w.inst j).savebase = (s.inst j).savebase
  flagged : (w.inst (instOf s.me.id)).recFlags.getLsbD 0 = true
  hub : HubQuiet s.hub w.hub
  held : w.areaHeld s.me.id = s.areaHeld s.me.id

theorem HubQuiet.trans {a b c : Hub} (h : HubQuiet a b) (k : HubQuiet b c) : HubQuiet a c := ⟨k.1.trans h.1, k.2.trans h.2⟩

theorem recFlags_set (x : BitVec 8) : (x ||| 1).getLsbD 0 = true := by simp

theorem State.removed_spec {s : State} (hl : s.me.life = .running) (cause : BitVec 7) (tval : W64) :
    Draining (s.withMe ((s.me.record none).removing cause tval)) (s.removalDrain cause tval) ∧
    RemovedBut s (s.removed cause tval) cause tval (s.removalDrain cause tval) := by
  have spec := (s.me.record none).removing_spec cause tval
  have drains : Draining (s.withMe ((s.me.record none).removing cause tval)) (s.removalDrain cause tval) := by
    refine drainS_draining 256 ?_ ?_
    · rw [State.withMe_me, spec.life, Ctx.record_life]; exact hl
    · rw [State.withMe_me, spec.queues, Ctx.record_sq]; exact SQueues.stop_heads _
  refine ⟨drains, ?_⟩
  have uid : (s.removalDrain cause tval).me.id = s.me.id := by
    rw [drains.me.only]
    exact spec.id.trans s.me.record_id
  have hid : s.removed cause tval = ((((s.removalDrain cause tval).withMe (s.removalDrain cause tval).me.emptied).modInst
      (instOf (s.removalDrain cause tval).me.id) fun i => { i with recFlags := i.recFlags ||| 1 }).elog 0x08
      ((((s.removalDrain cause tval).withMe (s.removalDrain cause tval).me.emptied).modInst (instOf (s.removalDrain cause tval).me.id)
        fun i => { i with recFlags := i.recFlags ||| 1 }).socketOf (s.removalDrain cause tval).me.id) cause.toNat
      (some (s.removalDrain cause tval).me.id) 0 tval) := rfl
  rw [uid] at hid
  generalize s.removalDrain cause tval = u at *
  let v := (u.withMe u.me.emptied).modInst (instOf s.me.id) fun i => { i with recFlags := i.recFlags ||| 1 }
  have logged : Noted v (s.removed cause tval) := by rw [hid]; exact State.elog_noted ..
  have inst : ∀ j, (s.removed cause tval).inst j = v.inst j := fun j => by rw [logged.only]; rfl
  have base : ∀ j, (v.inst j).savebase = (s.inst j).savebase := fun j => by
    obtain ⟨r, hr⟩ := drains.insts j
    have same : (u.inst j).savebase = (s.inst j).savebase := by rw [hr]; rfl
    rw [← same]
    show ((State.modInst _ _ _).inst j).savebase = _
    rw [State.modInst_inst]
    split
    · next hj => rw [hj]; rfl
    · rfl
  have flag : (v.inst (instOf s.me.id)).recFlags.getLsbD 0 = true := by
    show ((State.modInst _ _ _).inst (instOf s.me.id)).recFlags.getLsbD 0 = true
    rw [State.modInst_inst, if_pos rfl]
    exact recFlags_set _
  refine ⟨by rw [logged.only]; rfl, fun j => by rw [inst, base], by rw [inst]; exact flag,
    (HubNoted.quiet drains.hub).trans logged.hub.quiet, ?_⟩
  have moves : (s.removed cause tval).moves = s.moves := by rw [logged.only]; exact drains.moves
  have en : ∀ n, ((s.removed cause tval).bdie n).en = (s.bdie n).en := fun n => by
    have : (s.removed cause tval).bdie n = u.bdie n := by rw [logged.only]; rfl
    rw [this]; exact (drains.dies n).2.2
  simp only [State.areaHeld, State.saveAddr, State.canSave, inst, base, moves, en]

/-- The removal of a context that runs (R337). -/
theorem State.remove_removed {s : State} (hl : s.me.life = .running) (cause : BitVec 7) (tval : W64) :
    Removed s (s.remove cause tval) cause tval ∧ HubQuiet s.hub (s.remove cause tval).hub := by
  obtain ⟨drains, but⟩ := State.removed_spec hl cause tval
  have spec := (s.me.record none).removing_spec cause tval
  have uid : (s.removalDrain cause tval).me.id = s.me.id := by
    rw [drains.me.only]
    exact spec.id.trans s.me.record_id
  have udue : (s.removalDrain cause tval).me.imageDue = s.me.imageDue := by
    rw [drains.me.only]
    exact spec.due.trans s.me.record_imageDue
  have removes : s.remove cause tval = if (s.removed cause tval).canSave (s.removalDrain cause tval).me.id
      then (s.removed cause tval).putImage (s.removalDrain cause tval).me.id 5 else (s.removed cause tval).msi 5 := s.remove_eq cause tval
  have saves : (s.removed cause tval).canSave s.me.id = s.canSave s.me.id := by unfold State.canSave; rw [but.insts]
  rw [uid, saves] at removes
  rw [removes]
  generalize s.removed cause tval = w at but
  generalize s.removalDrain cause tval = u at but drains uid udue
  cases hs : s.canSave s.me.id with
  | false =>
    rw [if_neg Bool.false_ne_true]
    refine ⟨removed_of spec drains.me (due := u.me.emptied.imageDue) (show w.me = _ by rw [but.me]) but.flagged
      ⟨fun _ _ => w.msi_raised 5, fun h => absurd (.inl hs) h⟩, but.hub⟩
  | true =>
    have wid : w.me.id = s.me.id := by rw [but.me]; exact uid
    have removed : w.me.life = .removed := by rw [but.me]; rfl
    obtain ⟨due, hme, insts, hub, told, waits⟩ := State.putImage_removed removed
    rw [wid] at hme insts hub told
    rw [if_pos rfl]
    have flag : ((w.putImage s.me.id 5).inst (instOf s.me.id)).recFlags.getLsbD 0 = true := by
      obtain ⟨r, hr⟩ := insts (instOf s.me.id)
      rw [hr]; exact but.flagged
    have queues : (w.putImage s.me.id 5).me.sq = w.me.sq ∧ (w.putImage s.me.id 5).me.cp = w.me.cp := by rw [hme]; exact ⟨rfl, rfl⟩
    have drained : w.drained ↔ (s.canSave s.me.id = false ∨ s.areaHeld s.me.id = false ∧ (w.putImage s.me.id 5).me.sq.loads = [] ∧
        (w.putImage s.me.id 5).me.sq.stores = [] ∧ (w.putImage s.me.id 5).me.cp.copies = []) := by
      unfold State.drained
      rw [wid, but.held, queues.1, queues.2, hs]
      exact ⟨.inr, fun h => h.resolve_left (by decide)⟩
    refine ⟨removed_of spec drains.me (due := due) (by rw [hme, but.me]) flag
      ⟨fun ready hd => told (drained.2 ready) ?_, fun no => ?_⟩, but.hub.trans hub⟩
    · rw [but.me]
      exact udue.trans hd
    · rw [hme]
      exact waits fun h => no (drained.1 h)

end Sys2Proof.Machine
end

section
namespace Sys2Proof.Machine

/-! ## A die settles after a removal (R339, R353) -/

/-- What a removal is told by has not changed. -/
structure Settled (s t : State) : Prop where
  me : t.me = s.me
  flags : ∀ j, (t.inst j).recFlags = (s.inst j).recFlags
  msix : t.hub.msix = s.hub.msix ∧ t.hub.msixHeld = s.hub.msixHeld

theorem Settled.refl (s : State) : Settled s s := ⟨rfl, fun _ => rfl, rfl, rfl⟩

theorem Settled.trans {s t u : State} (h : Settled s t) (k : Settled t u) : Settled s u :=
  ⟨k.me.trans h.me, fun j => (k.flags j).trans (h.flags j), k.msix.1.trans h.msix.1, k.msix.2.trans h.msix.2⟩

/-- The fence of a die changes modules alone. -/
theorem Hub.fence_keep {γ : Type} (p : Hub → γ) (hm : ∀ h s m u f, p (Hub.putMods h s m u f) = p h)
    (hs : ∀ h s, p (Hub.stopMods h s) = p h) (hr : ∀ h r c, p { h with retrain := r, crcLog := c } = p h) (h : Hub) (sk : Nat) :
    p (h.fence sk) = p h := by
  unfold Hub.fence
  exact (foldl_keep p _ (fun h q => hm h _ _ _ _) _ _).trans ((hs _ _).trans (hr _ _ _))

theorem Hub.fence_msix (h : Hub) (sk : Nat) : (h.fence sk).msix = h.msix ∧ (h.fence sk).msixHeld = h.msixHeld :=
  ⟨h.fence_keep (fun h => h.msix) (fun _ _ _ _ _ => rfl) (fun _ _ => rfl) (fun _ _ _ => rfl) sk,
   h.fence_keep (fun h => h.msixHeld) (fun _ _ _ _ _ => rfl) (fun _ _ => rfl) (fun _ _ _ => rfl) sk⟩

theorem Hub.fence_product (h : Hub) (sk : Nat) : (h.fence sk).product = h.product :=
  h.fence_keep (fun h => h.product) (fun _ _ _ _ _ => rfl) (fun _ _ => rfl) (fun _ _ _ => rfl) sk

theorem State.flushDie_moved (s : State) (b : Nat) : LinesMoved s (s.flushDie b) :=
  (LinesMoved.foldl (fun s l => s.writeBack_moved l) _ s).sram _

/-- A B-die writes back its lines and stops its engine. -/
def State.stopEngine (s : State) (sk : Nat) : State :=
  match bIndex s.hub.product sk with
  | some b => { s.flushDie b with moves := s.moves.filter fun m => m.b.toNat != b }
  | none => s

/-- The links of the die are fenced, and its quiesce has begun. -/
def State.fenceDie (s : State) (d : DieOp) : State :=
  { s with hub := ({ s.hub with dieOp := some { d with fenced := true } } : Hub).fence d.socket.toNat }

theorem State.stopEngine_settled (s : State) (sk : Nat) : Settled s (s.stopEngine sk) ∧ (s.stopEngine sk).hub = s.hub := by
  unfold State.stopEngine
  split
  · next b _ =>
    have moved := s.flushDie_moved b
    generalize s.flushDie b = v at moved
    have hub : v.hub = s.hub := by rw [moved.only]
    exact ⟨⟨by rw [moved.only], fun j => by rw [moved.only]; rfl, by rw [moved.only], by rw [moved.only]⟩, hub⟩
  · exact ⟨.refl s, rfl⟩

theorem State.fenceDie_settled (s : State) (d : DieOp) : Settled s (s.fenceDie d) := by
  obtain ⟨h1, h2⟩ := Hub.fence_msix { s.hub with dieOp := some { d with fenced := true } } d.socket.toNat
  exact ⟨rfl, fun _ => rfl, h1, h2⟩

theorem State.fenceDie_product (s : State) (d : DieOp) : (s.fenceDie d).hub.product = s.hub.product := Hub.fence_product _ _

/-- The quiesce of a die that is not an S-die brings no port down (R353, R354). -/
theorem State.quiesce_settled {s : State} (d : DieOp) (h : (socketsOf s.hub.product .s).contains d.socket.toNat = false) :
    Settled s (s.quiesce d) := by
  obtain ⟨stopped, hub⟩ := s.stopEngine_settled d.socket.toNat
  have product : ((s.stopEngine d.socket.toNat).fenceDie d).hub.product = s.hub.product := by rw [State.fenceDie_product, hub]
  have noPort : (socketsOf ((s.stopEngine d.socket.toNat).fenceDie d).hub.product .s).findIdx? (· == d.socket.toNat) = none := by
    rw [product, List.findIdx?_eq_none_iff]
    intro x hx
    by_contra hne
    have same : x = d.socket.toNat := by simpa using hne
    rw [List.contains_eq_mem, decide_eq_false_iff_not] at h
    exact h (same ▸ hx)
  have quiet : s.quiesce d = (s.stopEngine d.socket.toNat).fenceDie d := by
    have parts : s.quiesce d = match (socketsOf ((s.stopEngine d.socket.toNat).fenceDie d).hub.product .s).findIdx?
        (· == d.socket.toNat) with
      | some k => (List.range 6).foldl (fun (s : State) i => s.portDown (6 * k + i)) ((s.stopEngine d.socket.toNat).fenceDie d)
      | none => (s.stopEngine d.socket.toNat).fenceDie d := rfl
    rw [parts, noPort]
  rw [quiet]
  exact stopped.trans (State.fenceDie_settled _ d)

/-- A die operation goes on, without a port that goes down (R353). -/
theorem State.settleDie_settled {s : State} {d : DieOp} (hd : s.hub.dieOp = some d)
    (h : d.fenced = true ∨ (socketsOf s.hub.product .s).contains d.socket.toNat = false) : Settled s s.settleDie := by
  have tables : ∀ (l : List (BitVec 4 × Vector W32 208)) (u : State), Settled s u → u.hub = s.hub →
      Settled s (l.foldl (fun s p => s.modInst p.1 fun x => { x with remap := p.2, staged := [], recls := true }) u) ∧
      (l.foldl (fun (s : State) p => s.modInst p.1 fun x => { x with remap := p.2, staged := [], recls := true }) u).hub = s.hub := by
    intro l
    induction l with
    | nil => exact fun u hu hh => ⟨hu, hh⟩
    | cons p l ih =>
      intro u hu hh
      refine ih _ (hu.trans ⟨rfl, fun j => ?_, rfl, rfl⟩) hh
      rw [State.modInst_inst]
      split
      · next hj => rw [hj]
      · rfl
  unfold State.settleDie
  rw [hd]
  dsimp only
  have start : ∀ b : Bool, Settled s (if b then d.tables.foldl (fun s p => s.modInst p.1 fun x =>
      { x with remap := p.2, staged := [], recls := true }) s else s) ∧
      (if b then d.tables.foldl (fun s p => s.modInst p.1 fun x => { x with remap := p.2, staged := [], recls := true }) s else s).hub =
        s.hub := fun b => by
    cases b with
    | true => exact tables d.tables s (.refl s) rfl
    | false => exact ⟨.refl s, rfl⟩
  obtain ⟨base, hub⟩ := start (s.ctxs.filter fun c => c.life == .running && s.moving c.id).isEmpty
  generalize (if (s.ctxs.filter fun c => c.life == .running && s.moving c.id).isEmpty then d.tables.foldl (fun s p =>
    s.modInst p.1 fun x => { x with remap := p.2, staged := [], recls := true }) s else s) = u at base hub
  split
  · exact base.trans ⟨rfl, fun _ => rfl, rfl, rfl⟩
  · next hno =>
    have free : (socketsOf s.hub.product .s).contains d.socket.toNat = false := by
      refine h.resolve_left fun hf => hno ?_
      rw [hf]
      simp
    exact base.trans (State.quiesce_settled _ (by rw [hub]; exact free))

/-- A removal that has settled is the removal. -/
theorem Settled.removed {s t u : State} {cause : BitVec 7} {tval : W64} (h : Settled t u) (hr : Removed s t cause tval) :
    Removed s u cause tval := by
  have raised : Raised t.hub 5 → Raised u.hub 5 := fun hm => by
    unfold Raised at *
    rw [h.msix.1, h.msix.2]
    exact hm
  unfold Removed RemovalTold at *
  rw [h.me, h.flags]
  obtain ⟨h1, h2, h3, h4, h5, h6, h7, h8, h9, h10, h11, h12, h13, h14, told, due⟩ := hr
  exact ⟨h1, h2, h3, h4, h5, h6, h7, h8, h9, h10, h11, h12, h13, h14, fun r d => raised (told r d), due⟩

/-- A pre-emption while saves are disabled removes the context (R341). -/
theorem exec_preemption_removes {s : State} (hrun : s.me.life = .running) (hmov : s.moving s.me.id = true) (hb : s.atBoundary = true)
    (hop : s.hub.dieOp = none) (hcan : s.canSave s.me.id = false) : Completes .preemption s (Removed s · 0x53 0) := by
  have live : s.me.life ≠ .none := by rw [hrun]; decide
  have late : s.saveLate s.me = false := by unfold State.saveLate; rw [hop]
  have hole : s.saveHole = none := by
    unfold State.saveHole
    rw [hcan]
    rfl
  let u := s.demotes (instOf s.me.id) (decide ((s.inst (instOf s.me.id)).level = 0))
  obtain ⟨removed, quiet⟩ := State.remove_removed (s := u) hrun 0x53 0
  have saves : (s.demote (instOf s.me.id)).save .saved = u.remove 0x53 0 := by
    have no : u.canSave u.me.id = false := hcan
    rw [State.demote_eq live]
    show State.save u .saved = _
    unfold State.save
    simp only [no]
    rfl
  have settled : (u.remove 0x53 0).settleDie = u.remove 0x53 0 := by
    have : (u.remove 0x53 0).hub.dieOp = none := quiet.1.trans hop
    unfold State.settleDie
    rw [this]
  refine ⟨u.remove 0x53 0, ?_, removed⟩
  show execPreemption s = _
  unfold execPreemption
  rw [hrun, hmov, hb, late, hole]
  show (.next ((s.demote (instOf s.me.id)).save .saved).settleDie : Res) = _
  rw [saves, settled]

/-- A context still not saved when a quiesce has outlasted its time is removed (R339). -/
theorem exec_quiesceSaveTimeout {s : State} {d : DieOp} (hrun : s.me.life = .running) (hmov : s.moving s.me.id = true)
    (hop : s.hub.dieOp = some d) (htime : d.q + 65536 ≤ s.cc)
    (h : d.fenced = true ∨ (socketsOf s.hub.product .s).contains d.socket.toNat = false) :
    Completes .quiesceSaveTimeout s (Removed s · 0x50 (d.socket.setWidth 64)) := by
  obtain ⟨removed, dieOp, product⟩ := State.remove_removed (s := s) hrun 0x50 (d.socket.setWidth 64)
  have late : s.saveLate s.me = true := by
    unfold State.saveLate
    rw [hop, hmov, hrun]
    simpa using htime
  have settled := State.settleDie_settled (s := s.remove 0x50 (d.socket.setWidth 64)) (d := d) (dieOp.trans hop) (by rw [product]; exact h)
  refine ⟨_, ?_, settled.removed removed⟩
  show execQuiesceSaveTimeout s = _
  unfold execQuiesceSaveTimeout
  simp only [hop, late]
  rfl

end Sys2Proof.Machine
end

section
namespace Sys2Proof.Machine

/-- Settles O44: a save is the write of the kept context's image, a restore the reads of one, and a removal the drain of its accesses. -/
theorem contextsAreSavedAndRestored : Obligations.ContextsAreSavedAndRestored := by
  unfold Obligations.ContextsAreSavedAndRestored
  intro s hw hp id base timed c changes written othersBut runs switches
  have turns : ∀ (j : Instr) (demotes : Bool), exec j s = s.sliceSwitch demotes → s.me.life = .running → s.me.imageDue = none →
      s.hub.lets (instOf s.me.id) = true →
      switches j (demotes && decide ((s.inst (instOf s.me.id)).level = 0)) := by
    intro j demotes hj hrun hdue hlets d hd hnext hb hcan hphys hmov
    have live : s.me.life ≠ .none := by rw [hrun]; decide
    obtain ⟨h1, h2, h3, h4, h5⟩ := State.turned_runs hw live hp hcan hd (demotes && decide ((s.inst (instOf s.me.id)).level = 0))
    exact ⟨_, hj.trans (State.sliceSwitch_turns hrun hdue hlets hp hd hnext hb hcan hphys hmov demotes), h1, h2, h3, h4, h5.changes⟩
  refine ⟨fun hrun hdue => ⟨fun hlets ha => ?_, fun hlets ha hdr => ?_, fun hlets hh hall => ?_, fun hmov hb hop => ⟨fun hcan hphys => ?_, ?_⟩,
    fun d hmov hop ht h => exec_quiesceSaveTimeout hrun hmov hop ht h⟩, fun hsaved hmay hq hidle hsole => ?_⟩
  · refine turns .sliceSwitch false ?_ hrun hdue hlets
    obtain ⟨x, hx⟩ := Option.ne_none_iff_exists'.1 ha
    show execSliceSwitch s = _
    unfold execSliceSwitch
    rw [hrun, hx]
    rfl
  · refine turns .sliceSwitch true ?_ hrun hdue hlets
    show execSliceSwitch s = _
    unfold execSliceSwitch
    rw [hrun, ha, hdr]
    rfl
  · refine turns .waitHoldExpiry true ?_ hrun hdue hlets
    show execWaitHoldExpiry s = _
    unfold execWaitHoldExpiry
    rw [hrun, hall, decide_eq_true hh]
    rfl
  · have live : s.me.life ≠ .none := by rw [hrun]; decide
    obtain ⟨h1, h2, h3, h4⟩ := State.saved_moves hw live hcan (decide ((s.inst (instOf s.me.id)).level = 0))
    exact ⟨_, exec_preemption hrun hdue hmov hb hop hcan hphys, h1, h2, h3, h4.changes⟩
  · exact fun hcan => exec_preemption_removes hrun hmov hb hop hcan
  · obtain ⟨h1, h2, h3, h4⟩ := State.restoreMe_runs (s := s) hw
    exact ⟨_, exec_contextRestore hsaved hmay hq hidle hsole, h1, h2, h3.changes, h4⟩

end Sys2Proof.Machine
end

section
/-! The roster of a state: which contexts exist, which instances hold a reel, and what a brown-out would bring back. Most of the
machine leaves it alone; the lemmas here say so for the operations on memory and on the hub's records (O60). -/

namespace Sys2Proof.Machine

/-- The context exists. -/
def Life.exists (l : Life) : Bool := l != .none

/-- What a roster keeps of a context: its CTXID, and whether it exists. -/
def Ctx.badge (c : Ctx) : BitVec 12 × Bool := (c.id, c.life.exists)

/-- What a roster keeps of one of the instances: whether it holds a reel, and the contexts of its resume point. -/
def Inst.badge (x : Inst) : Bool × Option (List (BitVec 12 × Bool)) := (x.holds, x.resume.map fun r => r.ctxs.map Ctx.badge)

/-- What a roster keeps of the retention region: the contexts of the instances in it. -/
def Retained.badge (r : Retained) : List (BitVec 4 × List (BitVec 12 × Bool)) := r.insts.map fun p => (p.1, p.2.ctxs.map Ctx.badge)

/-- All that `State.ReelsHold` speaks of. -/
structure Roster where
  me : BitVec 12 × Bool
  rest : List (BitVec 12 × Bool)
  insts : Vector (Bool × Option (List (BitVec 12 × Bool))) 16
  kept : Option (List (BitVec 4 × List (BitVec 12 × Bool)))

/-- The context in focus exists. -/
def Roster.Live (r : Roster) : Prop := r.me.2 = true

/-- Every other context on the list exists. -/
def Roster.Full (r : Roster) : Prop := ∀ b ∈ r.rest, b.2 = true

/-- The roster of a state. -/
def State.roster (s : State) : Roster :=
  ⟨(s.me.id, s.me.life.exists), s.rest.map Ctx.badge, s.insts.map Inst.badge, s.hub.retained.map Retained.badge⟩

@[simp] theorem State.roster_mk (me : Ctx) (rest : List Ctx) (cur agenda tick cc) (insts : Vector Inst 16) (hub : Hub)
    (bdies ports cores mem sram poison flips sevs xfers cuts moves migReqs matches_ marks replies) :
    State.roster ⟨me, rest, cur, agenda, tick, cc, insts, hub, bdies, ports, cores, mem, sram, poison, flips, sevs, xfers, cuts,
      moves, migReqs, matches_, marks, replies⟩ =
    ⟨(me.id, me.life.exists), rest.map Ctx.badge, insts.map Inst.badge, hub.retained.map Retained.badge⟩ := rfl

@[simp] theorem State.roster_eta (s : State) :
    (⟨(s.me.id, s.me.life.exists), s.rest.map Ctx.badge, s.insts.map Inst.badge, s.hub.retained.map Retained.badge⟩ : Roster) =
      s.roster := rfl

theorem State.live_of_ne {s : State} (h : s.me.life ≠ .none) : s.roster.Live := by
  simpa [Roster.Live, State.roster, Life.exists] using h

theorem State.Live.ne {s : State} (h : s.roster.Live) : s.me.life ≠ .none := by
  simpa [Roster.Live, State.roster, Life.exists] using h

theorem foldl_roster {α : Type} {f : State → α → State} (h : ∀ s a, (f s a).roster = s.roster) (l : List α) (s : State) :
    (l.foldl f s).roster = s.roster := by
  induction l generalizing s with
  | nil => rfl
  | cons a l ih => rw [List.foldl_cons, ih, h]

/-! ### Instances and dies -/

theorem State.modInst_roster {s : State} {i : BitVec 4} {f : Inst → Inst} (h : (f (s.inst i)).badge = (s.inst i).badge) :
    (s.modInst i f).roster = s.roster := by
  have hi : (s.insts.set i.toNat (f (s.inst i)) (by have := i.isLt; omega)).map Inst.badge = s.insts.map Inst.badge := by
    refine Vector.ext fun n hn => ?_
    rw [Vector.getElem_map, Vector.getElem_map, Vector.getElem_set]
    split
    · next he => subst he; exact h
    · rfl
  unfold State.modInst State.roster
  rw [hi]

theorem State.modBdie_roster (s : State) (b : Nat) (f : BDie → BDie) : (s.modBdie b f).roster = s.roster := rfl

/-! ### The SRAM -/

theorem State.countGranule_roster (s : State) (pa : Nat) : (s.countGranule pa).roster = s.roster := by
  grind [State.countGranule, State.modBdie_roster]

theorem State.writeBack_roster (s : State) (l : Line) : (s.writeBack l).roster = s.roster := by
  grind [State.writeBack, State.countGranule_roster]

theorem State.evict_roster (s : State) (b : Nat) (r : Bool) : (s.evict b r).roster = s.roster := by
  grind [State.evict, State.writeBack_roster, State.roster_mk, State.roster_eta]

theorem State.sramLine_roster (s : State) (n : Nat) (w : Option Agent) (whole : Bool) (cache : BitVec 2) :
    (s.sramLine n w whole cache).roster = s.roster := by
  grind [State.sramLine, State.evict_roster, State.countGranule_roster, State.roster_mk, State.roster_eta]

theorem State.countFrame_roster (s : State) (n : Nat) : (s.countFrame n).roster = s.roster := by
  grind [State.countFrame, State.roster_mk, State.roster_eta]

theorem State.sramRead_roster (s : State) (pa n : Nat) (cache : BitVec 2) : (s.sramRead pa n cache).roster = s.roster :=
  foldl_roster (fun s _ => (countFrame_roster _ _).trans (s.sramLine_roster _ _ _ _)) _ s

theorem State.sramWrite_roster (s : State) (pa n : Nat) (cache : BitVec 2) (w : Agent) : (s.sramWrite pa n cache w).roster = s.roster :=
  foldl_roster (fun s _ => (countFrame_roster _ _).trans (s.sramLine_roster _ _ _ _)) _ s

theorem State.flushLines_roster (s : State) (p : Line → Bool) : (s.flushLines p).roster = s.roster :=
  foldl_roster (fun s l => s.writeBack_roster l) _ s

theorem State.release_roster (s : State) (k : Known) : (s.release k).roster = s.roster := s.flushLines_roster _

theorem State.flushInst_roster (s : State) (i : BitVec 4) : (s.flushInst i).roster = s.roster := s.flushLines_roster _

theorem State.flushDie_roster (s : State) (b : Nat) : (s.flushDie b).roster = s.roster :=
  foldl_roster (fun s l => s.writeBack_roster l) _ s

theorem State.sramBulk_roster (s : State) (pa n : Nat) (w : Option Agent) : (s.sramBulk pa n w).roster = s.roster := by
  unfold State.sramBulk
  split
  · exact foldl_roster (fun s _ => (countFrame_roster _ _).trans (s.sramLine_roster _ _ _ _)) _ s
  · split <;> rfl

/-! ### The hub's records -/

theorem State.msi_roster (s : State) (v : Nat) : (s.msi v).roster = s.roster := rfl

theorem State.lifeInc_roster (s : State) (k : Nat) : (s.lifeInc k).roster = s.roster := rfl

theorem State.lifeAdd_roster (s : State) (k n : Nat) : (s.lifeAdd k n).roster = s.roster := by
  induction n generalizing s with
  | zero => rfl
  | succ n ih => exact (ih _).trans (s.lifeInc_roster k)

theorem State.elog_roster (s : State) (event socket cause : Nat) (ctx : Option (BitVec 12)) (w1 w3 : W64) :
    (s.elog event socket cause ctx w1 w3).roster = s.roster := by
  unfold State.elog
  split
  · rfl
  · split <;> rfl

theorem State.logBad_roster (s : State) (who : Option (BitVec 12 × BitVec 7)) (pa : Nat) : (s.logBad who pa).roster = s.roster :=
  s.elog_roster _ _ _ _ _ _

theorem State.noteCor_roster (s : State) (pa : Nat) : (s.noteCor pa).roster = s.roster := by
  unfold State.noteCor
  rw [elog_roster, lifeInc_roster, modBdie_roster]

theorem State.noteUnc_roster (s : State) (pa : Nat) : (s.noteUnc pa).roster = s.roster := rfl

theorem State.meet_roster (s : State) (pa n : Nat) : (s.meet pa n).roster = s.roster := by
  refine foldl_roster (fun s f => ?_) _ _
  split
  · exact s.noteUnc_roster _
  · exact s.noteCor_roster _

theorem State.countWalk_roster (s : State) (w : Walk) (who : Option (BitVec 12 × BitVec 7)) :
    (s.countWalk w who).roster = s.roster := by
  have hr : (w.reads.foldl (fun (s : State) a => (s.sramRead a 8 0).meet a 8) s).roster = s.roster :=
    foldl_roster (fun s _ => (meet_roster _ _ _).trans (s.sramRead_roster _ _ _)) _ s
  grind [State.countWalk, State.logBad_roster, State.lifeInc_roster]

theorem State.countWalks_roster (s : State) (l : List Walk) : (s.countWalks l).roster = s.roster :=
  foldl_roster (fun s w => s.countWalk_roster w none) l s

theorem Hub.setBlock_retained (h : Hub) (id : BitVec 12) (b : CtxBlock) : (h.setBlock id b).retained = h.retained := rfl

theorem State.installWp_roster (s : State) (id : BitVec 12) (n : Nat) : (s.installWp id n).roster = s.roster :=
  s.countWalks_roster _

theorem State.watch_roster (s : State) (w : Writer) (pa k : Nat) : (s.watch w pa k).roster = s.roster := rfl

theorem State.wrote_roster (s : State) (w : Writer) (pa k : Nat) : (s.wrote w pa k).roster = s.roster := rfl

/-! ### Global memory -/

theorem State.journal_roster (s : State) (i : BitVec 4) (pa n : Nat) : (s.journal i pa n).roster = s.roster := by
  unfold State.journal
  split
  · rfl
  · next r hr => exact State.modInst_roster (by simp [Inst.badge, hr])

theorem State.healAtoms_roster (s : State) (p : Nat → Bool) : (s.healAtoms p).roster = s.roster := rfl

theorem State.globRead_roster {s t : State} {sk pa n : Nat} {cache : BitVec 2} {b : List Byte}
    (h : s.globRead sk pa n cache = .ok (b, t)) : t.roster = s.roster := by
  grind [State.globRead, State.meet_roster, State.sramRead_roster]

theorem State.globWrite_roster {s t : State} {sk pa : Nat} {bs : List Byte} {cache : BitVec 2} {i : BitVec 4} {w : Writer}
    (h : s.globWrite sk pa bs cache i w = .ok t) : t.roster = s.roster := by
  grind [State.globWrite, State.meet_roster, State.sramWrite_roster, State.healAtoms_roster, State.journal_roster,
    State.wrote_roster, State.roster_mk, State.roster_eta]

end Sys2Proof.Machine
end

section
/-! The contexts of a roster: what changes of a context, of its memories and of its save area leave alone. -/

namespace Sys2Proof.Machine

/-- The change keeps a context's CTXID, and whether it exists. -/
def Ctx.Badged (f : Ctx → Ctx) : Prop := ∀ c, (f c).badge = c.badge

theorem Ctx.badge_id {c d : Ctx} (h : c.badge = d.badge) : c.id = d.id := congrArg Prod.fst h
theorem Ctx.badge_life {c d : Ctx} (h : c.badge = d.badge) : c.life.exists = d.life.exists := congrArg Prod.snd h

theorem Life.exists_of_ne {l : Life} (h : l ≠ .none) : l.exists = true := by simpa [Life.exists] using h

theorem State.withMe_roster {s : State} {c : Ctx} (h : c.badge = s.me.badge) : ({ s with me := c } : State).roster = s.roster := by
  rw [State.roster_mk, Ctx.badge_id h, Ctx.badge_life h, State.roster_eta]

theorem map_badge {f : Ctx → Ctx} (l : List Ctx) (h : ∀ c ∈ l, (f c).badge = c.badge) : (l.map f).map Ctx.badge = l.map Ctx.badge := by
  rw [List.map_map]
  exact List.map_congr_left h

theorem State.modCtx_roster {s : State} {id : BitVec 12} {f : Ctx → Ctx} (hf : Ctx.Badged f) : (s.modCtx id f).roster = s.roster := by
  unfold State.modCtx
  split
  · exact State.withMe_roster (hf _)
  · rw [State.roster_mk, map_badge _ fun c _ => by split <;> first | exact hf c | rfl, State.roster_eta]

theorem State.mapCtxs_roster {s : State} {f : Ctx → Ctx} (hf : Ctx.Badged f) : (s.mapCtxs f).roster = s.roster := by
  have hm : (if s.me.life = .none then s.me else f s.me).badge = s.me.badge := by
    split
    · rfl
    · exact hf _
  unfold State.mapCtxs
  rw [State.roster_mk, Ctx.badge_id hm, Ctx.badge_life hm, map_badge _ fun c _ => hf c, State.roster_eta]

theorem State.ctx?_id {s : State} {id : BitVec 12} {c : Ctx} (h : s.ctx? id = some c) : c.id = id := by
  simpa using List.find?_some h

theorem Roster.Full.rest {s : State} (h : s.roster.Full) {c : Ctx} (hc : c ∈ s.rest) : c.life.exists = true :=
  h c.badge (List.mem_map_of_mem hc)

theorem State.ctx?_exists {s : State} {id : BitVec 12} {c : Ctx} (hf : s.roster.Full) (h : s.ctx? id = some c) :
    c.life.exists = true := by
  have hc : c ∈ s.ctxs := List.mem_of_find?_eq_some h
  unfold State.ctxs at hc
  split at hc
  · exact hf.rest hc
  · next hl =>
    rcases List.mem_cons.mp hc with rfl | hr
    · exact Life.exists_of_ne hl
    · exact hf.rest hr

/-- A context takes another's place, under the same CTXID. -/
theorem State.modCtx_const_roster {s : State} {id : BitVec 12} {d : Ctx} (hf : s.roster.Full) (hi : d.id = id)
    (hd : d.life.exists = true) : (s.modCtx id fun _ => d).roster = s.roster := by
  unfold State.modCtx
  split
  · next h =>
    obtain ⟨hme, hl⟩ := h
    exact State.withMe_roster (Prod.ext (hi.trans hme.symm) (hd.trans (Life.exists_of_ne hl).symm))
  · rw [State.roster_mk, map_badge _ fun c hc => ?_, State.roster_eta]
    split
    · next h => exact Prod.ext (hi.trans h.symm) (hd.trans (hf.rest hc).symm)
    · rfl

@[simp] theorem Ctx.readBack_id (c : Ctx) (mem : Mem) (base : Nat) : (c.readBack mem base).id = c.id := by
  unfold Ctx.readBack; dsimp only
@[simp] theorem Ctx.readBack_life (c : Ctx) (mem : Mem) (base : Nat) : (c.readBack mem base).life = c.life := by
  unfold Ctx.readBack; dsimp only

theorem State.view_badge {s : State} {id : BitVec 12} {d : Ctx} (hf : s.roster.Full) (h : s.view id = some d) :
    d.id = id ∧ d.life.exists = true := by
  unfold State.view at h
  cases hc : s.ctx? id with
  | none => simp [hc] at h
  | some c =>
    obtain ⟨hi, hl⟩ : c.id = id ∧ c.life.exists = true := ⟨State.ctx?_id hc, State.ctx?_exists hf hc⟩
    rw [hc, Option.map_some, Option.some.injEq] at h
    rw [← h]
    split
    · exact ⟨(Ctx.readBack_id _ _ _).trans hi, (congrArg Life.exists (Ctx.readBack_life _ _ _)).trans hl⟩
    · exact ⟨hi, hl⟩

theorem State.refresh_roster {s : State} (id : BitVec 12) (hf : s.roster.Full) : (s.refresh id).roster = s.roster := by
  unfold State.refresh
  split
  · next d hd =>
    obtain ⟨hi, hl⟩ := State.view_badge hf hd
    exact State.modCtx_const_roster hf hi hl
  · rfl

/-! ### The memories of a context -/

theorem Ctx.spadWrite_badge {c d : Ctx} {off : Nat} {bs : List Byte} (h : c.spadWrite off bs = some d) : d.badge = c.badge := by
  rw [Ctx.spadWrite_memories h]
  rfl

theorem Ctx.privWrite_badge {c d : Ctx} {off : Nat} {bs : List Byte} (h : c.privWrite off bs = some d) : d.badge = c.badge := by
  rw [Ctx.privWrite_memories h]
  rfl

theorem State.meetWords_roster (s : State) (id : BitVec 12) (priv : Bool) (off n : Nat) : (s.meetWords id priv off n).roster = s.roster := by
  cases hc : s.ctx? id with
  | none => rw [State.meetWords_none hc]
  | some c =>
    rw [State.meetWords_some hc]
    split
    · rfl
    · rw [foldl_roster fun s f => (State.elog_roster _ _ _ _ _ _ _).trans (s.lifeInc_roster _)]
      exact State.modCtx_roster fun c => by cases priv <;> rfl

/-! ### Save areas -/

theorem State.writeImage_roster (s : State) (id : BitVec 12) : (s.writeImage id).roster = s.roster := by
  unfold State.writeImage
  split
  · rfl
  · split
    · rfl
    · rw [State.roster_mk, State.roster_eta, State.healAtoms_roster]
      exact foldl_roster (fun s _ => (State.sramBulk_roster _ _ _ _).trans (s.journal_roster _ _ _)) _ s

theorem State.putImage_roster (s : State) (id : BitVec 12) (v : BitVec 6) : (s.putImage id v).roster = s.roster := by
  have hd (o : Option (BitVec 6)) : (s.modCtx id fun c => { c with imageDue := o }).roster = s.roster :=
    State.modCtx_roster fun _ => rfl
  unfold State.putImage
  split
  · rfl
  · dsimp only
    split
    · exact hd _
    · split
      · exact (State.writeImage_roster _ _).trans (hd _)
      · exact (State.writeImage_roster _ _).trans (hd _)

theorem State.flushImages_roster (s : State) : s.flushImages.roster = s.roster := by
  refine foldl_roster (fun s c => ?_) _ s
  grind [State.putImage_roster]

theorem State.poke_roster (s : State) (id : BitVec 12) (segs : List (Nat × List Byte)) : (s.poke id segs).roster = s.roster := by
  unfold State.poke
  split
  · split
    · rfl
    · split
      · exact State.modCtx_roster fun _ => rfl
      · refine foldl_roster (fun s p => ?_) _ s
        rw [State.roster_mk, State.roster_eta, meet_roster, sramBulk_roster, journal_roster, healAtoms_roster]
  · rfl

theorem State.update_roster {s : State} (id : BitVec 12) {f : Ctx → Ctx} (segs : Ctx → List (Nat × List Byte)) (hs : s.roster.Full)
    (hf : Ctx.Badged f) : (s.update id f segs).roster = s.roster := by
  have ht : ((s.refresh id).modCtx id f).roster = s.roster := (State.modCtx_roster hf).trans (s.refresh_roster id hs)
  unfold State.update
  dsimp only
  split
  · exact (State.poke_roster _ _ _).trans ht
  · exact ht

theorem State.readImage_roster (s : State) (id : BitVec 12) : (s.readImage id).roster = s.roster := by
  unfold State.readImage
  split
  · rfl
  · exact foldl_roster (fun s _ => (State.meet_roster _ _ _).trans (s.sramBulk_roster _ _ _)) _ s

/-! ### Accesses of the S stream -/

theorem State.readAway_roster (s : State) (d : Ctx) (off n : Nat) : (s.readAway d off n).roster = s.roster := by
  grind [State.readAway, State.meet_roster, State.sramBulk_roster]

theorem State.locRead_roster {s t : State} {c : Ctx} {l : Loc} {n : Nat} {cache : BitVec 2} {b : List Byte}
    (h : s.locRead c l n cache = .ok (b, t)) : t.roster = s.roster := by
  cases l <;> grind [State.locRead, State.globRead_roster, State.meetWords_roster, State.readAway_roster]

theorem State.locWrite_roster {s t : State} {c : Ctx} {l : Loc} {bs : List Byte} {cache : BitVec 2} {w : Writer} (hf : s.roster.Full)
    (hc : c.life.exists = true) (h : s.locWrite c l bs cache w = .ok t) : t.roster = s.roster := by
  cases l with
  | glob pa va => exact State.globWrite_roster h
  | priv off =>
    rw [State.locWrite] at h
    split at h
    · next c' hw =>
      cases h
      obtain ⟨hi, hl⟩ := Prod.ext_iff.mp (Ctx.privWrite_badge hw)
      rw [meetWords_roster]
      exact State.modCtx_const_roster hf hi (hl.trans hc)
    · cases h
  | spad core off =>
    rw [State.locWrite] at h
    split at h
    · next d hv =>
      obtain ⟨hi, hl⟩ := State.view_badge hf hv
      split at h
      · cases h
      · cases h
      · split at h
        · next d' hw =>
          cases h
          obtain ⟨hi', hl'⟩ := Prod.ext_iff.mp (Ctx.spadWrite_badge hw)
          rw [meetWords_roster, poke_roster]
          exact State.modCtx_const_roster hf (hi'.trans hi) (hl'.trans hl)
        · cases h
    · cases h

theorem State.bear_roster (s : State) (c : Ctx) (l : Loc) (n : Nat) (k : Known) (scope : BitVec 3) (dsl : Nat) :
    (s.bear c l n k scope dsl).roster = s.roster := by
  cases l with
  | glob pa va => rfl
  | priv off => rfl
  | spad core off => exact State.modCtx_roster fun _ => rfl

theorem State.logFail_roster (s : State) (who : Option (BitVec 12 × BitVec 7)) (pa n : Nat) (cache : BitVec 2) :
    (s.logFail who pa n cache).roster = s.roster := by
  grind [State.logFail, State.logBad_roster, State.meet_roster, State.sramRead_roster]

theorem State.failed_roster (s : State) (cause : BitVec 7) (pa n : Nat) (cache : BitVec 2) :
    (s.failed cause pa n cache).roster = s.roster := s.logFail_roster _ _ _ _

theorem State.logAtom_roster (s : State) (pa : Nat) : (s.logAtom pa).roster = s.roster := by
  grind [State.logAtom, State.logBad_roster, State.meet_roster]

theorem State.logWord_roster (s : State) (p : W64) : (s.logWord p).roster = s.roster := s.elog_roster _ _ _ _ _ _

theorem State.logAccess_roster (s : State) (cause : BitVec 7) (l : Loc) (ea : W64) (n : Nat) (cache : BitVec 2) :
    (s.logAccess cause l ea n cache).roster = s.roster := by
  cases l <;> grind [State.logAccess, State.failed_roster, State.logWord_roster, State.meetWords_roster]

end Sys2Proof.Machine
end

section
/-! The roster and the streams: what retires, holds, traps or removes a context leaves the roster as it was, as long as the context
in focus exists. -/

namespace Sys2Proof.Machine

theorem State.setStrm_roster (s : State) (st : Strm) : (s.setStrm st).roster = s.roster := by
  unfold State.setStrm
  split
  · rfl
  · rfl
  · split <;> rfl
  · rfl
  · rfl
  · rfl

theorem State.retire_roster (s : State) : s.retire.roster = s.roster := s.setStrm_roster _
theorem State.retireTo_roster (s : State) (pc : W64) : (s.retireTo pc).roster = s.roster := s.setStrm_roster _
theorem State.retireS_roster (s : State) : s.retireS.roster = s.roster := rfl
theorem State.retireSTo_roster (s : State) (pc : W64) : (s.retireSTo pc).roster = s.roster := rfl
theorem State.hold_roster (s : State) (kind : BitVec 4) (obj : Nat) : (s.hold kind obj).roster = s.roster := s.setStrm_roster _
theorem State.holdS_roster (s : State) (kind : BitVec 4) (obj : Nat) : (s.holdS kind obj).roster = s.roster := rfl
theorem State.acquire_roster (s : State) (k : Known) : (s.acquire k).roster = s.roster := rfl

theorem Ctx.busyDown_badge (c : Ctx) (h : BitVec 8) : (c.busyDown h).badge = c.badge := rfl
theorem Ctx.busyUp_badge (c : Ctx) (h : BitVec 8) : (c.busyUp h).badge = c.badge := rfl
theorem Ctx.wg_badge (c : Ctx) (r : BitVec 5) (v : W64) (tn : Bool) : (c.wg r v tn).badge = c.badge :=
  Prod.ext (c.wg_id r v tn) (congrArg Life.exists (c.wg_life r v tn))
theorem Ctx.raise_badge (c : Ctx) (f : W32) : (c.raise f).badge = c.badge :=
  Prod.ext (c.raise_id f) (congrArg Life.exists (c.raise_life f))

theorem State.freeRing_roster (s : State) : s.freeRing.roster = s.roster := by
  unfold State.freeRing
  split
  · exact State.setStrm_roster _ _
  · rfl

/-! ### Accesses that perform -/

theorem performLoad_roster {s t : State} (h : performLoad s = some t) : t.roster = s.roster := by
  grind [performLoad, State.locRead_roster, State.retireS_roster, State.logAccess_roster, State.roster_mk, State.roster_eta,
    Ctx.wg_id, Ctx.wg_life, Ctx.acquire_id, Ctx.acquire_life]

theorem performStore_roster {s t : State} (hf : s.roster.Full) (hl : s.roster.Live) (h : performStore s = some t) :
    t.roster = s.roster := by
  have hm : s.me.life.exists = true := hl
  grind [performStore, State.locWrite_roster, State.release_roster, State.logAccess_roster, State.bear_roster, State.roster_mk, State.roster_eta]

theorem drainS_roster (n : Nat) {s : State} (hf : s.roster.Full) (hl : s.roster.Live) : (drainS n s).roster = s.roster := by
  induction n generalizing s with
  | zero => rfl
  | succ n ih => grind [drainS, performLoad_roster, performStore_roster]

/-! ### Removals and saves -/

theorem Ctx.record_badge (c : Ctx) (cl : Option (BitVec 4)) : (c.record cl).badge = c.badge :=
  Prod.ext c.record_id (congrArg Life.exists c.record_life)

theorem State.demote_roster (s : State) (i : BitVec 4) : (s.demote i).roster = s.roster := by
  unfold State.demote
  split
  · exact State.mapCtxs_roster fun c => by split <;> rfl
  · rfl

/-- The context in focus takes another form, and exists as before. -/
theorem State.withLive_roster {s : State} {c : Ctx} (hl : s.roster.Live) (hi : c.id = s.me.id) (hc : c.life.exists = true) :
    ({ s with me := c } : State).roster = s.roster :=
  State.withMe_roster (Prod.ext hi (hc.trans hl.symm))

/-- A removal once its accesses have performed, but for the image. -/
def State.emptied (u : State) (cause : BitVec 7) (tval : W64) : State :=
  let v := (u.withMe u.me.emptied).modInst (instOf u.me.id) fun i => { i with recFlags := i.recFlags ||| 1 }
  v.elog 0x08 (v.socketOf u.me.id) cause.toNat (some u.me.id) 0 tval

theorem State.emptied_roster {u : State} (cause : BitVec 7) (tval : W64) (hl : u.roster.Live) :
    (u.emptied cause tval).roster = u.roster := by
  have hw : (u.withMe u.me.emptied).roster = u.roster := State.withLive_roster hl rfl rfl
  unfold State.emptied
  rw [elog_roster, State.modInst_roster rfl, hw]

theorem State.finishRemoval_eq (s : State) (cause : BitVec 7) (tval : W64) : s.finishRemoval cause tval =
    (if ((drainS 256 (s.withMe (s.me.removing cause tval))).emptied cause tval).canSave
        (drainS 256 (s.withMe (s.me.removing cause tval))).me.id
     then ((drainS 256 (s.withMe (s.me.removing cause tval))).emptied cause tval).putImage
        (drainS 256 (s.withMe (s.me.removing cause tval))).me.id 5
     else ((drainS 256 (s.withMe (s.me.removing cause tval))).emptied cause tval).msi 5) := rfl

theorem Ctx.removing_badge (c : Ctx) (cause : BitVec 7) (tval : W64) : (c.removing cause tval).badge = c.badge := by
  have spec := c.removing_spec cause tval
  exact Prod.ext spec.id (congrArg Life.exists spec.life)

theorem State.finishRemoval_roster {s : State} (cause : BitVec 7) (tval : W64) (hf : s.roster.Full) (hl : s.roster.Live) :
    (s.finishRemoval cause tval).roster = s.roster := by
  have hm : (s.withMe (s.me.removing cause tval)).roster = s.roster := State.withMe_roster (s.me.removing_badge cause tval)
  have hd : (drainS 256 (s.withMe (s.me.removing cause tval))).roster = s.roster :=
    (drainS_roster 256 (hm ▸ hf) (hm ▸ hl)).trans hm
  rw [State.finishRemoval_eq]
  generalize drainS 256 (s.withMe (s.me.removing cause tval)) = u at hd ⊢
  rw [← hd] at hl
  have he := u.emptied_roster cause tval hl
  split
  · exact (State.putImage_roster _ _ _).trans (he.trans hd)
  · exact (State.msi_roster _ _).trans (he.trans hd)

theorem State.remove_roster {s : State} (cause : BitVec 7) (tval : W64) (hf : s.roster.Full) (hl : s.roster.Live) :
    (s.remove cause tval).roster = s.roster := by
  have hr : ({ s with me := s.me.record none } : State).roster = s.roster := State.withMe_roster (s.me.record_badge none)
  rw [← hr] at hf hl
  exact (State.finishRemoval_roster cause tval hf hl).trans hr

theorem State.save_roster {s : State} {life : Life} (v : BitVec 6) (hs : life.exists = true) (hf : s.roster.Full) (hl : s.roster.Live) :
    (s.save life v).roster = s.roster := by
  unfold State.save
  dsimp only
  split
  · exact State.remove_roster _ _ hf hl
  · exact (State.putImage_roster _ _ _).trans (State.withLive_roster hl s.me.atRest_id hs)

/-! ### Traps -/

theorem State.takeTrapFrom_roster {s : State} (cl : Option (BitVec 4)) (cause : BitVec 7) (tval : W64) (hf : s.roster.Full)
    (hl : s.roster.Live) : (s.takeTrapFrom cl cause tval).roster = s.roster := by
  have hd := s.demote_roster (instOf s.me.id)
  have hr (c : Ctx) : (c.record cl).id = c.id ∧ (c.record cl).life.exists = c.life.exists := Prod.ext_iff.mp (c.record_badge cl)
  have he : Life.exists .stopped = true := rfl
  grind [State.takeTrapFrom, State.remove_roster, State.finishRemoval_roster, State.save_roster, Ctx.dropLoad_id, Ctx.dropLoad_life,
    State.roster_mk, State.roster_eta]

theorem State.trap_roster {s : State} (cause : BitVec 7) (tval : W64) (hf : s.roster.Full) (hl : s.roster.Live) :
    (s.trap cause tval).roster = s.roster := by
  grind [State.trap, State.takeTrapFrom_roster, State.setStrm_roster]

theorem State.raiseS_roster {s : State} (e : SErr) (hf : s.roster.Full) (hl : s.roster.Live) : (s.raiseS e).roster = s.roster := by
  grind [State.raiseS, State.takeTrapFrom_roster, Ctx.dropErr_id, Ctx.dropErr_life, State.roster_mk, State.roster_eta]

theorem State.eccTrap_roster {s : State} (p : W64) (hf : s.roster.Full) (hl : s.roster.Live) : (s.eccTrap p).roster = s.roster := by
  grind [State.eccTrap, State.trap_roster, State.logWord_roster, State.meetWords_roster]

theorem State.comeBack_roster (s : State) (st : Strm) : (s.comeBack st).roster = s.roster := by
  unfold State.comeBack
  dsimp only
  split <;> rfl

theorem State.eret_roster (s : State) : s.eret.roster = s.roster := s.comeBack_roster _
theorem State.resume_roster (s : State) : s.resume.roster = s.roster := s.comeBack_roster _

end Sys2Proof.Machine
end

section
/-! The roster and what the streams share: waits, rings, tokens, the vector engine, and the accesses of copies. -/

namespace Sys2Proof.Machine

/-- Whatever state the answer leads to has that roster. -/
def Res.Keeps (r : Res) (ρ : Roster) : Prop := ∀ t, r = .next t → t.roster = ρ

theorem Res.keeps_next {t : State} {ρ : Roster} (h : t.roster = ρ) : Res.Keeps (.next t) ρ := by
  rintro _ ⟨⟩
  exact h

theorem Res.keeps_fault (f : Fault) (ρ : Roster) : Res.Keeps (.fault f) ρ := by rintro _ ⟨⟩

theorem State.trapR_keeps {s : State} {ρ : Roster} (cause : BitVec 7) (tval : W64) (hs : s.roster = ρ) (hf : ρ.Full) (hl : ρ.Live) :
    (s.trapR cause tval).Keeps ρ := by
  subst hs
  exact Res.keeps_next (State.trap_roster cause tval hf hl)

theorem State.walked_roster (s : State) (ea : W64) (wr : Bool) : (s.walked ea wr).roster = s.roster := by
  grind [State.walked, State.countWalk_roster]

theorem State.placeTrap_keeps {s : State} {ρ : Roster} (cause : BitVec 7) (ea : W64) (wr : Bool) (hs : s.roster = ρ) (hf : ρ.Full)
    (hl : ρ.Live) : (s.placeTrap cause ea wr).Keeps ρ := by
  grind [State.placeTrap, State.trapR_keeps, State.walked_roster]

theorem State.putS_roster (s : State) (d : BitVec 5) (v : W64) (t : Bool) (f : Flags) : (s.putS d v t f).roster = s.roster := by
  grind [State.putS, State.retireS_roster, State.roster_mk, State.roster_eta, Ctx.wg_id, Ctx.wg_life, Ctx.raiseFl_id, Ctx.raiseFl_life]

/-! ### Waits -/

theorem State.timingFault_keeps {s : State} {ρ : Roster} (n : BitVec 20) {go : State → Res} (hs : s.roster = ρ) (hf : ρ.Full)
    (hl : ρ.Live) (hg : ∀ t, t.roster = ρ → (go t).Keeps ρ) : (s.timingFault n go).Keeps ρ := by
  unfold State.timingFault
  split
  · refine hg _ ?_
    rw [setStrm_roster, elog_roster, lifeInc_roster, demote_roster, hs]
  · exact State.trapR_keeps _ _ hs hf hl

theorem State.wait_keeps {s : State} {ρ : Roster} (kind : BitVec 4) (obj : Nat) {done : State → Option State} (hs : s.roster = ρ)
    (hf : ρ.Full) (hl : ρ.Live) (hd : ∀ t u, t.roster = ρ → done t = some u → u.roster = ρ) : (s.wait kind obj done).Keeps ρ := by
  have go (t : State) (ht : t.roster = ρ) :
      Res.Keeps (match done t with | some u => .next u | none => .next (t.hold kind obj)) ρ := by
    split
    · next u hu => exact Res.keeps_next (hd t u ht hu)
    · exact Res.keeps_next ((t.hold_roster _ _).trans ht)
  unfold State.wait
  dsimp only
  split
  · exact State.timingFault_keeps _ hs hf hl go
  · exact go s hs

theorem State.cue_keeps {s : State} {ρ : Roster} (n : BitVec 20) (hs : s.roster = ρ) (hf : ρ.Full) (hl : ρ.Live) : (s.cue n).Keeps ρ := by
  have late (t : State) (ht : t.roster = ρ) : Res.Keeps (.next t.retire) ρ := Res.keeps_next (t.retire_roster.trans ht)
  grind [State.cue, State.trapR_keeps, State.timingFault_keeps, Res.keeps_next, State.retire_roster, State.hold_roster, State.setStrm_roster]

theorem Ctx.pushTok_badge {c d : Ctx} {ch : Nat} {v : W16} {k : Known} (h : c.pushTok ch v k = some d) : d.badge = c.badge := by
  unfold Ctx.pushTok at h
  split at h
  · cases h; rfl
  · cases h

theorem Ctx.popTok_badge {c d : Ctx} {ch : Nat} {v : W16} (h : c.popTok ch = some (v, d)) : d.badge = c.badge := by
  unfold Ctx.popTok at h
  split at h
  · cases h
  · cases h; rfl

theorem State.sendTok_keeps {s : State} {ρ : Roster} (ch : Nat) (v : W16) (hs : s.roster = ρ) : (s.sendTok ch v).Keeps ρ := by
  grind [State.sendTok, Res.keeps_next, State.hold_roster, State.retire_roster, State.withMe_roster, Ctx.pushTok_badge]

theorem State.takeTok_keeps {s : State} {ρ : Roster} (ch : Nat) {put : W16 → State → State} (hs : s.roster = ρ) (hf : ρ.Full)
    (hl : ρ.Live) (hp : ∀ v t, t.roster = ρ → (put v t).roster = ρ) : (s.takeTok ch put).Keeps ρ := by
  refine State.wait_keeps _ _ hs hf hl fun t u ht hu => ?_
  grind [State.retire_roster, State.acquire_roster, State.withMe_roster, Ctx.popTok_badge]

/-! ### Rings -/

theorem State.holdRing_roster (s : State) (h : BitVec 8) : (s.holdRing h).roster = s.roster := by
  grind [State.holdRing, State.hold_roster, State.setStrm_roster, State.withMe_roster, Ctx.busyUp_badge]

theorem Ctx.ringKnown_badge (c : Ctx) (h : BitVec 8) (role cnt : Nat) (k : Known) : (c.ringKnown h role cnt k).badge = c.badge := rfl
theorem Ctx.ringDone_badge (c : Ctx) (h : BitVec 8) (t : Tile) (n : Nat) : ((c.setTile h t).wake 4 n).badge = c.badge := rfl

theorem State.ring_keeps {s : State} {ρ : Roster} (h cnt : BitVec 8) (role : Nat) (settled : Bool) (hs : s.roster = ρ) (hf : ρ.Full)
    (hl : ρ.Live) : (s.ring h cnt role settled).Keeps ρ := by
  have go (t : State) (ht : t.roster = ρ) : Res.Keeps
      (if (role = 0 && !settled) || !ringReady (t.me.tile h) role cnt.toNat then .next (t.holdRing h)
       else
        let s := t.freeRing
        let s := s.acquire (s.me.ringGives h role cnt.toNat)
        let me := s.me.ringKnown h role cnt.toNat (if s.cur.st = .s then s.gives else [])
        let s := { s with me := me }
        .next ({ s with me := (s.me.setTile h (ringStep (s.me.tile h) role cnt.toNat)).wake 4 h.toNat }).retire) ρ := by
    split
    · exact Res.keeps_next ((t.holdRing_roster h).trans ht)
    · grind [Res.keeps_next, State.retire_roster, State.acquire_roster, State.freeRing_roster, State.withMe_roster,
        Ctx.ringKnown_badge, Ctx.ringDone_badge]
  unfold State.ring
  dsimp only
  split
  · exact State.trapR_keeps _ _ hs hf hl
  · split
    · exact State.timingFault_keeps _ hs hf hl go
    · exact go s hs

theorem State.raising_keeps {s : State} {ρ : Roster} (err : Option SErr) {go : State → Res} (hs : s.roster = ρ) (hf : ρ.Full)
    (hl : ρ.Live) (hg : (go s).Keeps ρ) : (s.raising err go).Keeps ρ := by
  cases err with
  | none => exact hg
  | some e => subst hs; exact Res.keeps_next (State.raiseS_roster e hf hl)

theorem State.raiseCopy_roster {s : State} (e : CErr) (hf : s.roster.Full) (hl : s.roster.Live) : (s.raiseCopy e).roster = s.roster := by
  grind [State.raiseCopy, State.trap_roster, State.roster_mk, State.roster_eta]

/-! ### The vector engine -/

theorem State.vDone_roster (s : State) (v : VState) (f : Flags) (h : Option (BitVec 8)) : (s.vDone v f h).roster = s.roster := by
  unfold State.vDone
  dsimp only
  rw [retire_roster]
  split <;> rfl

theorem State.vRun_keeps {s : State} {ρ : Roster} (f : BitVec 4 → Cluster → Cluster × Flags) (hs : s.roster = ρ) : (s.vRun f).Keeps ρ :=
  Res.keeps_next ((s.vDone_roster _ _ _).trans hs)

theorem State.clusterMode_keeps {s : State} {ρ : Roster} (hs : s.roster = ρ) (hf : ρ.Full) (hl : ρ.Live) : s.clusterMode.Keeps ρ :=
  State.trapR_keeps _ _ hs hf hl

theorem State.lockstepOnly_keeps {s : State} {ρ : Roster} {go : Res} (hs : s.roster = ρ) (hf : ρ.Full) (hl : ρ.Live) (hg : go.Keeps ρ) :
    (s.lockstepOnly go).Keeps ρ := by
  grind [State.lockstepOnly, State.clusterMode_keeps]

theorem State.meetOwn_roster (s : State) (l : List (Nat × Nat)) : (s.meetOwn l).roster = s.roster := by
  unfold State.meetOwn
  split
  · rfl
  · exact foldl_roster (fun s p => s.meetWords_roster _ _ _ _) l s

theorem State.tileEcc_keeps {s : State} {ρ : Roster} (h : BitVec 8) (w : Nat) (hs : s.roster = ρ) (hf : ρ.Full) (hl : ρ.Live) :
    (s.tileEcc h w).Keeps ρ := by
  subst hs
  exact Res.keeps_next (State.eccTrap_roster _ hf hl)

theorem Ctx.spadCells_badge {c d : Ctx} {l : List (Nat × Byte)} (h : c.spadCells l = .ok d) : d.badge = c.badge := by
  unfold Ctx.spadCells at h
  dsimp only at h
  split at h
  · cases h; rfl
  · split at h
    · cases h
    · cases h; rfl

theorem foldl_badge {α : Type} {f : Ctx → α → Ctx} (h : ∀ c a, (f c a).badge = c.badge) (l : List α) (c : Ctx) :
    (l.foldl f c).badge = c.badge := by
  induction l generalizing c with
  | nil => rfl
  | cons a l ih => rw [List.foldl_cons, ih, h]

theorem State.xNext_roster (s : State) (hs : List (BitVec 8)) (f : Flags) : (s.xNext hs f).roster = s.roster := by
  have up : (hs.eraseDups.foldl Ctx.busyUp s.me).badge = s.me.badge := foldl_badge (fun c h => c.busyUp_badge h) _ _
  have down (c : Ctx) : (hs.eraseDups.foldl Ctx.busyDown c).badge = c.badge := foldl_badge (fun c h => c.busyDown_badge h) _ _
  unfold State.xNext
  split
  · exact s.vDone_roster _ _ _
  · dsimp only
    have hu : (if s.me.piV = 0 then hs.eraseDups.foldl Ctx.busyUp s.me else s.me).badge = s.me.badge := by
      split
      · exact up
      · rfl
    split
    · rw [hold_roster]
      exact State.withMe_roster hu
    · rw [vDone_roster]
      exact State.withMe_roster ((down _).trans hu)

theorem State.indexed_keeps {s : State} {ρ : Roster} (a b : BitVec 6) (k : BitVec 3) {go : List (BitVec 4 × BitVec 8) → Res}
    (hs : s.roster = ρ) (hf : ρ.Full) (hl : ρ.Live) (hg : ∀ l, (go l).Keeps ρ) : (s.indexed a b k go).Keeps ρ := by
  grind [State.indexed, State.trapR_keeps, State.tileEcc_keeps, State.hold_roster, Res.keeps_next]

theorem execVld_keeps {s : State} {ρ : Roster} (d : BitVec 6) (h : BitVec 8) (o : BitVec 11) (hs : s.roster = ρ) (hf : ρ.Full)
    (hl : ρ.Live) : (execVld d h o s).Keeps ρ := by
  grind [execVld, State.trapR_keeps, State.tileEcc_keeps, State.hold_roster, State.meetOwn_roster, State.vDone_roster, Res.keeps_next]

theorem execVst_keeps {s : State} {ρ : Roster} (d : BitVec 6) (h : BitVec 8) (o : BitVec 11) (hs : s.roster = ρ) (hf : ρ.Full)
    (hl : ρ.Live) : (execVst d h o s).Keeps ρ := by
  grind [execVst, State.trapR_keeps, State.tileEcc_keeps, State.hold_roster, State.meetOwn_roster, State.vDone_roster, Res.keeps_next,
    State.withMe_roster, Ctx.spadCells_badge]

theorem execVldx_keeps {s : State} {ρ : Roster} (d a b : BitVec 6) (k : BitVec 3) (hs : s.roster = ρ) (hf : ρ.Full)
    (hl : ρ.Live) : (execVldx d a b k s).Keeps ρ :=
  State.indexed_keeps a b k hs hf hl fun _ => Res.keeps_next ((State.meetOwn_roster _ _).trans ((State.xNext_roster _ _ _).trans hs))

theorem execVstx_keeps {s : State} {ρ : Roster} (d a b : BitVec 6) (k : BitVec 3) (hs : s.roster = ρ) (hf : ρ.Full)
    (hl : ρ.Live) : (execVstx d a b k s).Keeps ρ :=
  State.indexed_keeps a b k hs hf hl fun _ => Res.keeps_next ((State.meetOwn_roster _ _).trans ((State.xNext_roster _ _ _).trans hs))

theorem execVInstructionCompletion_keeps {s : State} {ρ : Roster} (hs : s.roster = ρ) : (execVInstructionCompletion s).Keeps ρ := by
  unfold execVInstructionCompletion
  split
  · exact Res.keeps_next hs
  · refine Res.keeps_next (Eq.trans (State.withMe_roster ?_) hs)
    split
    · exact Ctx.raise_badge _ _
    · exact Ctx.raise_badge _ _

/-! ### Accesses of copies -/

theorem captures_roster {i : BitVec 4} {wr : Bool} {l pages out : List (Nat × Nat)} {s t : State}
    (h : captures i wr l pages s = .ok out t) : t.roster = s.roster := by
  induction l generalizing pages s with
  | nil => grind [captures]
  | cons p l ih => grind [captures, State.countWalk_roster]

theorem captures_fault_roster {i : BitVec 4} {wr : Bool} {l pages : List (Nat × Nat)} {va : Nat} {s t : State}
    (h : captures i wr l pages s = .fault va t) : t.roster = s.roster := by
  induction l generalizing pages s with
  | nil => grind [captures]
  | cons p l ih => grind [captures, State.countWalk_roster]

theorem State.touchLines_roster (s : State) (pa n left : Nat) (seen : Option Nat) (w : Option Agent) (cache : BitVec 2) :
    (s.touchLines pa n left seen w cache).roster = s.roster := by
  refine foldl_roster (fun s l => ?_) _ s
  grind [State.sramLine_roster, State.countFrame_roster]

theorem readSegs_roster {pages : List (Nat × Nat)} {cache : BitVec 2} {first : Bool} {l : List (Nat × Nat)} {s t : State}
    {bs out : List CByte} {e f : CFault} (h : readSegs pages cache first l s bs e = .ok (out, f, t)) : t.roster = s.roster := by
  induction l generalizing first s bs e with
  | nil => grind [readSegs]
  | cons p l ih => grind [readSegs, State.meet_roster, State.touchLines_roster, State.logAtom_roster]

theorem State.passRuns_roster (s : State) (pa left : Nat) (seen : Option Nat) (cache : BitVec 2) (w : Writer) (l : List (Nat × Nat)) :
    (s.passRuns pa left seen cache w l).roster = s.roster := by
  unfold State.passRuns
  dsimp only
  generalize instOf s.me.id = i
  induction l generalizing s seen with
  | nil => rfl
  | cons q l ih =>
    rw [List.foldl_cons, ih, wrote_roster, journal_roster, touchLines_roster]

theorem writeSegs_roster {pages : List (Nat × Nat)} {cache : BitVec 2} {w : Writer} {more : Nat} {first : Bool} {l : List (Nat × Nat)}
    {s t : State} {bs : List CByte} {e f : CFault} (h : writeSegs pages cache w more first l bs s e = .ok (f, t)) :
    t.roster = s.roster := by
  induction l generalizing first s bs e with
  | nil => grind [writeSegs]
  | cons p l ih =>
    grind [writeSegs, State.meet_roster, State.passRuns_roster, State.logAtom_roster, State.healAtoms_roster, State.roster_mk, State.roster_eta]

theorem State.logTile_roster (s : State) (d : Ctx) (base : Nat) (e : CFault) : (s.logTile d base e).roster = s.roster := by
  cases e <;> grind [State.logTile, State.logWord_roster, State.meetWords_roster]

theorem Ctx.cpTileWrite_badge (c : Ctx) (base off : Nat) (bs : List CByte) : (c.cpTileWrite base off bs).1.badge = c.badge := rfl

theorem State.tileWrite_roster {s : State} (id : BitVec 12) (base off : Nat) (bs : List CByte) (hf : s.roster.Full) :
    (s.tileWrite id base off bs).2.roster = s.roster := by
  unfold State.tileWrite
  split
  · rfl
  · next d hd =>
    obtain ⟨hi, hl⟩ := State.view_badge hf hd
    dsimp only
    rw [logTile_roster, meetWords_roster, poke_roster]
    exact State.modCtx_const_roster hf hi hl

theorem State.cpTile_roster {s : State} (base off : Nat) (bs : List CByte) (hf : s.roster.Full) :
    (s.cpTile base off bs).2.roster = s.roster := State.tileWrite_roster _ _ _ _ hf

theorem State.ownRead_roster {s t : State} {base off n : Nat} {bs : List CByte} {e : CFault} (h : s.ownRead base off n = .ok (bs, e, t)) :
    t.roster = s.roster := by
  grind [State.ownRead, State.logTile_roster, State.meetWords_roster]

theorem State.endRead_roster {s t : State} {pages : List (Nat × Nat)} {cache : BitVec 2} {cc : Nat} {x : CEnd} {o n : Nat}
    {bs : List CByte} {e : CFault} (h : s.endRead pages cache cc x o n = .ok (bs, e, t)) : t.roster = s.roster := by
  cases x <;> grind [State.endRead, State.cpGlobRead, readSegs_roster, State.ownRead_roster]

theorem State.endWrite_roster {s t : State} {pages : List (Nat × Nat)} {cache : BitVec 2} {w : Writer} {x : CEnd} {o more : Nat}
    {bs : List CByte} {e : CFault} (hf : s.roster.Full) (h : s.endWrite pages cache w x o bs more = .ok (e, t)) : t.roster = s.roster := by
  cases x <;> grind [State.endWrite, State.cpGlobWrite, writeSegs_roster, State.cpTile_roster]

/-! ### Fetch -/

theorem State.fetched_roster (s : State) (addr : W64) : (s.fetched addr).roster = s.roster := by
  grind [State.fetched, State.countWalk_roster, State.failed_roster, State.meet_roster, State.sramRead_roster]

theorem State.arriveAt_roster (s : State) : s.arriveAt.roster = s.roster := s.setStrm_roster _
theorem State.fetchHold_roster (s : State) : s.fetchHold.roster = s.roster := s.setStrm_roster _
theorem State.gotWord_roster (s : State) (w : W32) : (s.gotWord w).roster = s.roster := s.setStrm_roster _

theorem State.fetch_roster (s : State) : s.fetch.2.roster = s.roster := by
  grind [State.fetch, State.fetched_roster, State.gotWord_roster]

end Sys2Proof.Machine
end

section
/-! The roster and the matrix engine, its weight loads apart, and the folio loader. -/

namespace Sys2Proof.Machine

theorem live_of_running {s : State} (h : s.me.life = .running) : s.roster.Live := State.live_of_ne (by rw [h]; decide)

theorem canIssue_running {s : State} {st : Stream} (h : canIssue s st = true) : s.me.life = .running := by
  simp only [canIssue, Bool.and_eq_true, decide_eq_true_eq] at h
  exact h.1.1

theorem canIssue_live {s : State} {st : Stream} (h : canIssue s st = true) : s.roster.Live := live_of_running (canIssue_running h)

/-! ### Issue -/

theorem State.mAfter_keeps {s : State} {ρ : Roster} {go : Res} (hs : s.roster = ρ) (hg : go.Keeps ρ) : (s.mAfter go).Keeps ρ := by
  grind [State.mAfter, Res.keeps_next, State.hold_roster]

theorem State.mRetire_keeps {s : State} {ρ : Roster} (m : MState) (hs : s.roster = ρ) : (s.mRetire m).Keeps ρ :=
  Res.keeps_next ((State.retire_roster _).trans hs)

theorem Ctx.busyEach_badge {c d : Ctx} {l : List (BitVec 8)} (h : c.busyEach l = some d) : d.badge = c.badge := by
  induction l generalizing c with
  | nil => grind [Ctx.busyEach]
  | cons a l ih => grind [Ctx.busyEach, Ctx.busyUp_badge]

theorem Ctx.busyAll_badge {c d : Ctx} {l : List (BitVec 8)} (h : c.busyAll l = some d) : d.badge = c.badge := Ctx.busyEach_badge h

theorem Ctx.freeAll_badge (c : Ctx) (l : List (BitVec 8)) : (c.freeAll l).badge = c.badge := foldl_badge (fun c h => c.busyDown_badge h) _ _

theorem State.mStart_keeps {s : State} {ρ : Roster} (i : Instr) (l : List (BitVec 8)) (base : W64) (fetched : Bool) (hs : s.roster = ρ) :
    (s.mStart i l base fetched).Keeps ρ := by
  unfold State.mStart
  split
  · exact Res.keeps_next ((s.hold_roster _ _).trans hs)
  · next c hc =>
    refine Res.keeps_next ((State.retire_roster _).trans (Eq.trans (State.withMe_roster ?_) hs))
    exact (Ctx.busyAll_badge hc : c.badge = s.me.badge)

theorem State.mDone_roster (s : State) : s.mDone.roster = s.roster := by
  unfold State.mDone
  split
  · rfl
  · exact State.withMe_roster (s.me.freeAll_badge _)

/-- A trap of an M instruction, or what its checks let through. -/
theorem State.checked_keeps {s : State} {ρ : Roster} {e : Option (BitVec 7 × W64)} {go : Res} (hs : s.roster = ρ) (hf : ρ.Full)
    (hl : ρ.Live) (hg : go.Keeps ρ) : Res.Keeps (match e with | some e => s.trapR e.1 e.2 | none => go) ρ := by
  cases e with
  | none => exact hg
  | some e => exact State.trapR_keeps _ _ hs hf hl

section
variable {s : State} {ρ : Roster} (hs : s.roster = ρ) (hf : ρ.Full) (hl : ρ.Live)
include hs

theorem execMnest_keeps (l : BitVec 3) (f : BitVec 2) (v : BitVec 20) : (execMnest l f v s).Keeps ρ :=
  State.mAfter_keeps hs (State.mRetire_keeps _ hs)

theorem execMfmt_keeps (x : BitVec 1) (t : BitVec 2) (f : BitVec 4) : (execMfmt x t f s).Keeps ρ :=
  State.mAfter_keeps hs (State.mRetire_keeps _ hs)

theorem execMacc_keeps (n : BitVec 2) (d : BitVec 4) (m : BitVec 2) : (execMacc n d m s).Keeps ρ :=
  State.mAfter_keeps hs (State.mRetire_keeps _ hs)

theorem execMsplit_keeps (v : BitVec 20) : (execMsplit v s).Keeps ρ := State.mAfter_keeps hs (State.mRetire_keeps _ hs)

theorem execMtoks_keeps (c : BitVec 4) (v : BitVec 16) : (execMtoks c v s).Keeps ρ := State.mAfter_keeps hs (State.sendTok_keeps _ _ hs)

include hf hl

theorem execMwsw_keeps : (execMwsw s).Keeps ρ := by
  refine State.mAfter_keeps hs ?_
  split
  · exact State.trapR_keeps _ _ hs hf hl
  · exact State.mRetire_keeps _ hs

theorem execMwld_keeps (h : BitVec 8) (f : BitVec 4) : (execMwld h f s).Keeps ρ :=
  State.mAfter_keeps hs (State.checked_keeps hs hf hl (State.mStart_keeps _ _ _ _ hs))

theorem execMwldF_keeps (h : BitVec 8) (n f : BitVec 4) : (execMwldF h n f s).Keeps ρ :=
  State.mAfter_keeps hs (State.checked_keeps hs hf hl (State.checked_keeps hs hf hl (State.mStart_keeps _ _ _ _ hs)))

theorem execMwldS_keeps (f : BitVec 4) : (execMwldS f s).Keeps ρ := by
  refine State.mAfter_keeps hs ?_
  split
  · exact State.trapR_keeps _ _ hs hf hl
  · exact Res.keeps_next ((State.hold_roster _ _ _).trans hs)

theorem State.mgoHead_keeps (i : Instr) (a b : BitVec 8) (n : Option (BitVec 4)) : (s.mgoHead i a b n).Keeps ρ := by
  let u : State := { s with me := { s.me with m := { s.me.m with activeNest := s.me.m.shadowNest } } }
  have hu : u.roster = ρ := hs
  refine State.mAfter_keeps hs (State.checked_keeps hu hf hl ?_)
  cases n with
  | none => exact State.mStart_keeps _ _ _ _ hu
  | some n => exact State.checked_keeps hu hf hl (State.mStart_keeps _ _ _ _ hu)

theorem State.mqHead_keeps (i : Instr) (n : BitVec 16) (h : BitVec 8) : (s.mqHead i n h).Keeps ρ :=
  State.mAfter_keeps hs (State.checked_keeps hs hf hl (State.mStart_keeps _ _ _ _ hs))

theorem execMtokw_keeps (c : BitVec 4) : (execMtokw c s).Keeps ρ :=
  State.mAfter_keeps hs (State.takeTok_keeps _ hs hf hl fun _ _ ht => ht)

theorem execMring_keeps (r : BitVec 2) (c h : BitVec 8) : (execMring r c h s).Keeps ρ :=
  State.mAfter_keeps hs (State.ring_keeps _ _ _ _ hs hf hl)

end

theorem execMwait_keeps {s : State} {ρ : Roster} (hs : s.roster = ρ) : (execMwait s).Keeps ρ :=
  State.mAfter_keeps hs (Res.keeps_next (s.retire_roster.trans hs))

theorem execMwaitEnd_keeps {s : State} {ρ : Roster} (hs : s.roster = ρ) : (execMwaitEnd s).Keeps ρ :=
  State.mAfter_keeps hs (Res.keeps_next ((State.setStrm_roster _ _).trans (s.retire_roster.trans hs)))

/-! ### Steps -/

theorem State.asStep_roster (s : State) : s.asStep.roster = s.roster := rfl

theorem State.stepTrap_keeps {s t : State} {ρ : Roster} (hs : s.roster = ρ) (ht : t.roster = ρ) : (s.stepTrap t).Keeps ρ := by
  grind [State.stepTrap, Res.keeps_next]

/-- Both outcomes of a step have that roster. -/
def StepKeeps (r : Except State State) (ρ : Roster) : Prop := (∀ t, r = .ok t → t.roster = ρ) ∧ ∀ t, r = .error t → t.roster = ρ

theorem StepKeeps.ok {t : State} {ρ : Roster} (h : t.roster = ρ) : StepKeeps (.ok t) ρ := ⟨by rintro _ ⟨⟩; exact h, by rintro _ ⟨⟩⟩
theorem StepKeeps.error {t : State} {ρ : Roster} (h : t.roster = ρ) : StepKeeps (.error t) ρ := ⟨by rintro _ ⟨⟩, by rintro _ ⟨⟩; exact h⟩

section
variable {s : State} {ρ : Roster} (hs : s.roster = ρ) (hf : ρ.Full) (hl : ρ.Live)
include hs hf hl

theorem State.asStep_trap (cause : BitVec 7) (tval : W64) : (s.asStep.trap cause tval).roster = ρ := by
  subst hs
  exact State.trap_roster (s := s.asStep) cause tval hf hl

theorem State.asStep_eccTrap (p : W64) : (s.asStep.eccTrap p).roster = ρ := by
  subst hs
  exact State.eccTrap_roster (s := s.asStep) p hf hl

theorem State.leaf_finish_keeps (t : Tile) (h : BitVec 8) (l : List (Nat × Nat × Nat)) (f : Flags) (rd : List (Nat × Nat)) :
    StepKeeps (State.leaf.finish s t h l f rd) ρ := by
  have hm : (s.meetOwn rd).roster = ρ := (s.meetOwn_roster rd).trans hs
  unfold State.leaf.finish
  dsimp only
  split
  · exact .error (State.asStep_eccTrap hm hf hl _)
  · next c hc =>
    exact .ok ((State.withMe_roster ((Ctx.raise_badge _ _).trans (Ctx.spadCells_badge hc))).trans hm)

theorem State.leaf_keeps (t : Tile) (h : BitVec 8) (chunk u : Nat) (x : Leaf) (cols : Nat) :
    StepKeeps (s.leaf t h chunk u x cols) ρ := by
  cases x with
  | ecc w => exact .error (State.asStep_eccTrap hs hf hl _)
  | split => exact .error (State.asStep_trap hs hf hl _ _)
  | writes l f rd =>
    rw [State.leaf]
    split
    · split
      · exact .error (State.asStep_trap (s := { s with me := { s.me with m := { s.me.m with arm := false } } }) hs hf hl _ _)
      · exact State.leaf_finish_keeps hs hf hl _ _ _ _ _
    · exact State.leaf_finish_keeps hs hf hl _ _ _ _ _

theorem mgoStepAt_keeps (a b : BitVec 8) (n : Nat) : StepKeeps (mgoStepAt s a b n) ρ := by
  unfold mgoStepAt
  dsimp only
  split
  · exact .error (State.asStep_eccTrap hs hf hl _)
  · exact State.leaf_keeps ((s.meetOwn_roster _).trans hs) hf hl _ _ _ _ _ _

omit hs in
theorem mqFeed_keeps (t : Tile) (h : BitVec 8) (u nw n : Nat) {s : State} (hs : s.roster = ρ) : StepKeeps (mqFeed t h u nw n s) ρ := by
  induction n generalizing s with
  | zero => exact .ok hs
  | succ n ih =>
    rw [mqFeed]
    split
    · exact .ok hs
    · have hk := State.leaf_keeps hs hf hl t h (s.me.m.j.toNat * 2 ^ s.me.m.depth.toNat + s.me.accGet t (u * (s.me.m.depth.toNat + 2) + s.me.m.depth.toNat + 1) 0)
        u (treeLeaf s.me t s.me.m.depth.toNat (u * (s.me.m.depth.toNat + 2)) (s.me.accGet t (u * (s.me.m.depth.toNat + 2) + s.me.m.depth.toNat + 1) 0)
          (List.replicate nw (0, 0))) nw
      split
      · next e he => exact .error (hk.2 e he)
      · next v hv => exact ih (hk.1 v hv)

end

theorem execMgoStep_keeps {s : State} {ρ : Roster} (hs : s.roster = ρ) (hf : ρ.Full) : (execMgoStep s).Keeps ρ := by
  unfold execMgoStep
  split
  · exact Res.keeps_next hs
  · next hr =>
    have hl : ρ.Live := hs ▸ canIssue_live (by simpa [State.mRuns] using hr)
    have go (m : MCur) (a b : BitVec 8) : Res.Keeps
        (if !m.fetched then .next s
         else
          match mgoStepAt s a b s.me.piM.toNat with
          | .error t => s.stepTrap t
          | .ok s =>
            let n := s.me.piM + 1
            if nestTotal s.me.m.activeNest ≤ n.toNat then .next s.mDone
            else .next { s with me := { s.me with piM := n } }) ρ := by
      have hk := mgoStepAt_keeps hs hf hl a b s.me.piM.toNat
      split
      · exact Res.keeps_next hs
      · split
        · next t ht => exact State.stepTrap_keeps hs (hk.2 t ht)
        · next t ht =>
          have := hk.1 t ht
          dsimp only
          split
          · exact Res.keeps_next (t.mDone_roster.trans this)
          · exact Res.keeps_next this
    dsimp only
    split
    · exact Res.keeps_next hs
    · next m _ =>
      split
      · exact go m _ _
      · exact go m _ _
      · exact Res.keeps_next hs

theorem execMqRow_keeps {s : State} {ρ : Roster} (hs : s.roster = ρ) (hf : ρ.Full) : (execMqRow s).Keeps ρ := by
  unfold execMqRow
  split
  · exact Res.keeps_next hs
  · next hr =>
    have hl : ρ.Live := hs ▸ canIssue_live (by simpa [State.mRuns] using hr)
    have done (n : BitVec 16) (u : Nat) (r : Except State State) : StepKeeps r ρ → Res.Keeps
        (match r with
         | .error t => s.stepTrap t
         | .ok s => if n.toNat ≤ u + 1 then .next s.mDone else .next { s with me := { s.me with piM := s.me.piM + 1 } }) ρ := by
      intro hk
      split
      · next t => exact State.stepTrap_keeps hs (hk.2 t rfl)
      · next t =>
        have := hk.1 t rfl
        split
        · exact Res.keeps_next (t.mDone_roster.trans this)
        · exact Res.keeps_next this
    dsimp only
    split
    · exact Res.keeps_next hs
    · split
      · exact done _ _ _ (State.leaf_keeps hs hf hl _ _ _ _ _ _)
      · split
        · exact State.stepTrap_keeps hs (State.asStep_eccTrap hs hf hl _)
        · exact done _ _ _ (mqFeed_keeps hf hl _ _ _ _ _ hs)
      · exact Res.keeps_next hs

/-! ### Folios -/

theorem State.setFrames_roster (s : State) (f : Vector Frame 4) : (s.setFrames f).roster = s.roster := rfl
theorem State.useFrame_roster (s : State) (slot : BitVec 6) : (s.useFrame slot).roster = s.roster := rfl

theorem execVx_keeps {s : State} {ρ : Roster} (d a b slot : BitVec 6) (k : BitVec 1) (hs : s.roster = ρ) (hf : ρ.Full) (hl : ρ.Live) :
    (execVx d a b slot k s).Keeps ρ := by
  unfold execVx
  dsimp only
  split
  · exact State.trapR_keeps _ _ hs hf hl
  · split
    · exact State.trapR_keeps _ _ hs hf hl
    · exact State.vRun_keeps _ hs

theorem execVbmul_keeps {s : State} {ρ : Roster} (d a b : BitVec 6) (x y : BitVec 3) (sg : BitVec 1) (hs : s.roster = ρ) (hf : ρ.Full)
    (hl : ρ.Live) : (execVbmul d a b x y sg s).Keeps ρ := by
  unfold execVbmul
  split
  · exact State.trapR_keeps _ _ hs hf hl
  · exact State.vRun_keeps _ hs

/-- The state that a read of an image leads to has that roster. -/
def ImgRead.Keeps (r : ImgRead) (ρ : Roster) : Prop :=
  (∀ va t, r = .fault va t → t.roster = ρ) ∧ (∀ t, r = .bad t → t.roster = ρ) ∧ ∀ bs t, r = .ok bs t → t.roster = ρ

theorem readVirt_keeps (s : State) (va n : Nat) : (readVirt s va n).Keeps s.roster := by
  induction n with
  | zero => grind [readVirt, ImgRead.Keeps]
  | succ n ih => grind [readVirt, ImgRead.Keeps, State.countWalk_roster, State.globRead_roster, State.failed_roster]

theorem State.takeFrame_roster (s : State) (i : Nat) : (s.takeFrame i).roster = s.roster := by
  unfold State.takeFrame
  dsimp only
  rw [setFrames_roster]
  split <;> rfl

theorem State.pickFrame_roster (s : State) (slot : BitVec 6) (ph : BitVec 2) : (s.pickFrame slot ph).roster = s.roster :=
  s.takeFrame_roster _

theorem State.askFolio_roster (s : State) (slot : BitVec 6) : (s.askFolio slot).roster = s.roster := by
  unfold State.askFolio
  split
  · rfl
  · exact State.takeFrame_roster _ _

theorem State.loadDone_roster (s : State) (slot : BitVec 6) (img : List Byte) : (s.loadDone slot img).roster = s.roster := rfl

theorem State.loadEnds_roster {s t : State} (cause : BitVec 7) (tval : W64) (hf : s.roster.Full) (hl : s.roster.Live)
    (ht : t.roster = s.roster) : (s.loadEnds t cause tval).roster = s.roster := by
  unfold State.loadEnds
  split
  · rfl
  · rw [← ht] at hf hl ⊢
    exact State.takeTrapFrom_roster (s := { t with me := t.me.dropLoad }) _ _ _ hf hl

theorem State.loadFolio_roster {s : State} (slot : BitVec 6) (hf : s.roster.Full) (hl : s.roster.Live) :
    (s.loadFolio slot).roster = s.roster := by
  have ends {t : State} (c : BitVec 7) (v : W64) (ht : t.roster = s.roster) := State.loadEnds_roster c v hf hl ht
  unfold State.loadFolio
  dsimp only
  split
  · rfl
  · next va t h => exact ends _ _ ((readVirt_keeps s _ _).1 va t h)
  · next t h => exact ends _ _ ((readVirt_keeps s _ _).2.1 t h)
  · next bs t h =>
    have ht : t.roster = s.roster := (readVirt_keeps s _ _).2.2 bs t h
    split
    · exact ends _ _ ht
    · split
      · rfl
      · next va u h => exact ends _ _ ((readVirt_keeps _ _ _).1 va u h)
      · next u h => exact ends _ _ ((readVirt_keeps _ _ _).2.1 u h)
      · next bs u h =>
        have hu : u.roster = s.roster := (readVirt_keeps _ _ _).2.2 bs u h
        split
        · exact ends _ _ hu
        · exact (State.loadDone_roster u _ _).trans hu

theorem execFolioFrameLoad_keeps {s : State} {ρ : Roster} (hs : s.roster = ρ) (hf : ρ.Full) : (execFolioFrameLoad s).Keeps ρ := by
  have drop : ({ s with me := s.me.dropLoad } : State).roster = s.roster := rfl
  grind [execFolioFrameLoad, Res.keeps_next, State.askFolio_roster, State.pickFrame_roster, State.loadEnds_roster, State.loadFolio_roster,
    live_of_running]

end Sys2Proof.Machine
end

section
/-! The roster and the copy engine: issue, the matrix engine's reads through it, and splice transfers (R211 to R225). -/

namespace Sys2Proof.Machine

theorem Ctx.setHead_badge (c : Ctx) (k : Copy) : (c.setHead k).badge = c.badge := rfl

theorem State.setHead_roster (s : State) (k : Copy) : (s.setHead k).roster = s.roster := rfl

theorem State.cpErr_roster (s : State) (k : Copy) (e : CFault) : (s.cpErr k e).roster = s.roster := by
  cases e with
  | none => rfl
  | some x =>
    unfold State.cpErr
    dsimp only
    split <;> rfl

theorem State.startHead_roster (s : State) : s.startHead.roster = s.roster := by
  grind [State.startHead, State.setHead_roster, State.cpErr_roster, State.roster_mk, State.roster_eta]

theorem State.endCopy_roster {s : State} (hf : s.roster.Full) : s.endCopy.roster = s.roster := by
  have last (u : State) (c : Ctx) (hc : c.badge = u.me.badge) (hu : u.roster = s.roster) : ({ u with me := c } : State).roster = s.roster :=
    (State.withMe_roster hc).trans hu
  unfold State.endCopy
  split
  · rfl
  · next k rest hk =>
    refine last _ _ ?_ ?_
    · exact (Ctx.freeAll_badge _ _ :)
    · split
      · next h =>
        simp only [Bool.and_eq_true, decide_eq_true_eq] at h
        exact State.takeTrapFrom_roster _ _ _ hf (live_of_running h.1.2)
      · rfl

theorem State.finishCopy_roster {s : State} (hf : s.roster.Full) : s.finishCopy.roster = s.roster :=
  s.endCopy.startHead_roster.trans (State.endCopy_roster hf)

/-! ### Issue -/

section
variable {s s1 : State} {ρ : Roster} (hs : s.roster = ρ) (h1 : s1.roster = ρ)
include hs h1

theorem State.cIssue_keeps (i : Instr) (x : Capture) : (s.cIssue s1 i x).Keeps ρ := by
  unfold State.cIssue
  dsimp only
  split
  · exact Res.keeps_next ((s.hold_roster _ _).trans hs)
  · split
    · exact Res.keeps_next ((s.hold_roster _ _).trans hs)
    · next c hc =>
      have hb : c.badge = s1.me.badge := Ctx.busyAll_badge hc
      have put (u : State) (hu : u.roster = ρ) : Res.Keeps (.next (if s.me.cp.copies.isEmpty then u.retire.startHead else u.retire)) ρ := by
        refine Res.keeps_next ?_
        split
        · exact (State.startHead_roster _).trans (u.retire_roster.trans hu)
        · exact u.retire_roster.trans hu
      exact put _ ((State.cpErr_roster _ _ _).trans (Eq.trans (State.withMe_roster (s := s1) hb) h1))

variable (hf : ρ.Full) (hl : ρ.Live)
include hf hl

theorem State.trapIn_keeps (cause : BitVec 7) (tval : W64) : (s.trapIn s1 cause tval).Keeps ρ := by
  unfold State.trapIn
  split
  · exact State.trapR_keeps _ _ h1 hf hl
  · exact State.trapR_keeps _ _ hs hf hl

theorem State.cTranslate_keeps (wr : Bool) (segs pages : List (Nat × Nat)) {go : List (Nat × Nat) → State → Res}
    (hg : ∀ p t, t.roster = ρ → (go p t).Keeps ρ) : (s.cTranslate s1 wr segs pages go).Keeps ρ := by
  unfold State.cTranslate
  split
  · exact Res.keeps_next ((s.hold_roster _ _).trans hs)
  · next va t ht => exact State.trapIn_keeps hs ((captures_fault_roster ht).trans h1) hf hl _ _
  · next p t ht => exact hg _ _ ((captures_roster ht).trans h1)

end

section
variable {s : State} {ρ : Roster} (hs : s.roster = ρ)
include hs

theorem execCla_keeps (d : BitVec 4) (k : BitVec 2) (v : BitVec 16) : (execCla d k v s).Keeps ρ :=
  Res.keeps_next ((State.retire_roster _).trans hs)

theorem execCadd_keeps (d : BitVec 4) (i : BitVec 20) : (execCadd d i s).Keeps ρ := Res.keeps_next ((State.retire_roster _).trans hs)

theorem execCaddReg_keeps (d r : BitVec 4) : (execCaddReg d r s).Keeps ρ := Res.keeps_next ((State.retire_roster _).trans hs)

variable (hf : ρ.Full) (hl : ρ.Live)
include hf hl

theorem State.tileCopy_keeps (i : Instr) (a : BitVec 4) (h slot : BitVec 8) (wr : Bool) (bad : Option (BitVec 4)) (gl tl : Nat) :
    (s.tileCopy i a h slot wr bad gl tl).Keeps ρ := by
  unfold State.tileCopy
  split
  · exact State.trapR_keeps _ _ hs hf hl
  · exact State.cTranslate_keeps hs hs hf hl _ _ _ fun _ _ ht => State.cIssue_keeps hs ht _ _

theorem execCcpy_keeps (a : BitVec 4) (q : BitVec 3) (h sl : BitVec 8) (t : BitVec 1) : (execCcpy a q h sl t s).Keeps ρ := by
  unfold execCcpy
  dsimp only
  split
  · exact State.tileCopy_keeps hs hf hl _ _ _ _ _ _ _ _
  · exact State.tileCopy_keeps hs hf hl _ _ _ _ _ _ _ _

theorem execCcpyOut_keeps (a : BitVec 4) (q : BitVec 3) (h sl : BitVec 8) (t : BitVec 1) : (execCcpyOut a q h sl t s).Keeps ρ :=
  State.tileCopy_keeps hs hf hl _ _ _ _ _ _ _ _

theorem execCcpys_keeps (a : BitVec 4) (q : BitVec 3) (h sl : BitVec 8) : (execCcpys a q h sl s).Keeps ρ := by
  unfold execCcpys
  dsimp only
  split
  · exact State.tileCopy_keeps hs hf hl _ _ _ _ _ _ _ _
  · exact State.tileCopy_keeps hs hf hl _ _ _ _ _ _ _ _

theorem execCtab_keeps (q : BitVec 3) (h : BitVec 8) : (execCtab q h s).Keeps ρ := by
  have trap (c : BitVec 7) (v : W64) : (s.trapR c v).Keeps ρ := State.trapR_keeps c v hs hf hl
  have h1 : ((s.meetWords s.me.id false (s.me.tile h).base.toNat 1024).logTile s.me (s.me.tile h).base.toNat
      (s.me.cpTileRead (s.me.tile h).base.toNat 0 1024).2).roster = ρ :=
    (State.logTile_roster _ _ _ _).trans ((State.meetWords_roster _ _ _ _ _).trans hs)
  unfold execCtab
  dsimp only
  split
  · exact trap _ _
  · split
    · exact trap _ _
    · split
      · exact Res.keeps_next ((s.hold_roster _ _).trans hs)
      · split
        · exact State.cIssue_keeps hs h1 _ _
        · split
          · exact State.trapIn_keeps hs h1 hf hl _ _
          · exact State.cIssue_keeps hs h1 _ _

theorem execCwst_keeps (a : BitVec 4) (q : BitVec 3) : (execCwst a q s).Keeps ρ := by
  have trap (c : BitVec 7) (v : W64) : (s.trapR c v).Keeps ρ := State.trapR_keeps c v hs hf hl
  unfold execCwst
  dsimp only
  split
  · exact trap _ _
  · split
    · exact trap _ _
    · split
      · exact trap _ _
      · exact State.cTranslate_keeps hs hs hf hl _ _ _ fun _ _ ht => State.cIssue_keeps hs ht _ _

theorem State.gather_keeps (i : Instr) (a b c : BitVec 4) (h : BitVec 8) (wr : Bool) : (s.gather i a b c h wr).Keeps ρ := by
  unfold State.gather
  split
  · exact State.trapR_keeps _ _ hs hf hl
  · dsimp only
    split
    · exact Res.keeps_next ((s.hold_roster _ _).trans hs)
    · refine State.cTranslate_keeps hs hs hf hl _ _ _ fun pages s1 h1 => ?_
      have trap (u : State) (hu : u.roster = ρ) (cause : BitVec 7) (v : W64) : (s.trapIn u cause v).Keeps ρ :=
        State.trapIn_keeps hs hu hf hl cause v
      split
      · exact Res.keeps_next ((s.hold_roster _ _).trans hs)
      · exact trap _ h1 _ _
      · next bs e s2 hr =>
        have h2 : s2.roster = ρ := (State.endRead_roster hr).trans h1
        split
        · exact trap _ h2 _ _
        · split
          · exact trap _ h2 _ _
          · split
            · exact trap _ h2 _ _
            · exact State.cTranslate_keeps hs h2 hf hl _ _ _ fun _ _ ht => State.cIssue_keeps hs ht _ _

theorem execCgath_keeps (a b c : BitVec 4) (q : BitVec 3) (h : BitVec 8) : (execCgath a b c q h s).Keeps ρ :=
  State.gather_keeps hs hf hl _ _ _ _ _ _

theorem execCscat_keeps (a b c : BitVec 4) (q : BitVec 3) (h : BitVec 8) : (execCscat a b c q h s).Keeps ρ :=
  State.gather_keeps hs hf hl _ _ _ _ _ _

theorem execCxfer_keeps (a : BitVec 4) (q : BitVec 3) (h : BitVec 8) : (execCxfer a q h s).Keeps ρ := by
  have trap (c : BitVec 7) (v : W64) : (s.trapR c v).Keeps ρ := State.trapR_keeps c v hs hf hl
  grind [execCxfer, State.cIssue_keeps]

theorem State.collective_keeps (i : Instr) (a b c : BitVec 4) (x : BitVec 1) (unit most : Nat) (bcast : Bool) :
    (s.collective i a b c x unit most bcast).Keeps ρ := by
  have trap (c : BitVec 7) (v : W64) : (s.trapR c v).Keeps ρ := State.trapR_keeps c v hs hf hl
  unfold State.collective
  extract_lets
  split
  · exact trap _ _
  · split
    · exact trap _ _
    · split
      · exact trap _ _
      · split
        · exact trap _ _
        · exact State.cTranslate_keeps hs hs hf hl _ _ _ fun _ _ h1 =>
            State.cTranslate_keeps hs h1 hf hl _ _ _ fun _ _ h2 => State.cIssue_keeps hs h2 _ _

theorem execCred_keeps (a b c : BitVec 4) (q : BitVec 3) (x : BitVec 1) (l : BitVec 4) (o : BitVec 2) :
    (execCred a b c q x l o s).Keeps ρ := State.collective_keeps hs hf hl _ _ _ _ _ _ _ _

theorem execCbcst_keeps (a b c : BitVec 4) (q : BitVec 3) (x : BitVec 1) : (execCbcst a b c q x s).Keeps ρ :=
  State.collective_keeps hs hf hl _ _ _ _ _ _ _ _

theorem execCpref_keeps (a b : BitVec 4) (q : BitVec 3) : (execCpref a b q s).Keeps ρ := by
  have trap (c : BitVec 7) (v : W64) : (s.trapR c v).Keeps ρ := State.trapR_keeps c v hs hf hl
  grind [execCpref, State.cIssue_keeps]

theorem execCmig_keeps (a : BitVec 4) (q : BitVec 3) (t : BitVec 1) : (execCmig a q t s).Keeps ρ := by
  have trap (c : BitVec 7) (v : W64) : (s.trapR c v).Keeps ρ := State.trapR_keeps c v hs hf hl
  grind [execCmig, State.cIssue_keeps]

theorem execCrrd_keeps (a b c : BitVec 4) (q : BitVec 3) : (execCrrd a b c q s).Keeps ρ := by
  have trap (c : BitVec 7) (v : W64) : (s.trapR c v).Keeps ρ := State.trapR_keeps c v hs hf hl
  unfold execCrrd
  dsimp only
  split
  · exact trap _ _
  · split
    · exact trap _ _
    · split
      · exact trap _ _
      · exact State.cTranslate_keeps hs hs hf hl _ _ _ fun _ _ ht => State.cIssue_keeps hs ht _ _

/-! ### Tokens and fences -/

theorem State.raiseCopy_keeps (e : CErr) : Res.Keeps (.next (s.raiseCopy e)) ρ := by
  subst hs
  exact Res.keeps_next (State.raiseCopy_roster e hf hl)

theorem State.afterCopies_keeps {go : Res} (hg : go.Keeps ρ) : (s.afterCopies go).Keeps ρ := by
  unfold State.afterCopies
  split
  · exact Res.keeps_next ((s.hold_roster _ _).trans hs)
  · split
    · exact State.raiseCopy_keeps hs hf hl _
    · exact hg

theorem execCwaitm_keeps (m : BitVec 8) : (execCwaitm m s).Keeps ρ := by
  refine State.wait_keeps _ _ hs hf hl fun u t hu h => ?_
  split at h
  · cases h
  · split at h
    · cases h
      subst hu
      exact State.raiseCopy_roster _ hf hl
    · cases h
      exact u.retire_roster.trans hu

omit hf hl in
theorem execCtoks_keeps (d : BitVec 4) (v : BitVec 16) (c : BitVec 4) : (execCtoks d v c s).Keeps ρ := State.sendTok_keeps _ _ hs

theorem execCtoksAll_keeps (d : BitVec 4) (v : BitVec 16) (c : BitVec 4) : (execCtoksAll d v c s).Keeps ρ :=
  State.afterCopies_keeps hs hf hl (State.sendTok_keeps _ _ hs)

theorem State.ctokw_keeps (c : BitVec 4) {put : W16 → State → State} (hp : ∀ v t, t.roster = ρ → (put v t).roster = ρ) :
    (s.ctokw c put).Keeps ρ := by
  unfold State.ctokw
  dsimp only
  split
  · exact State.raiseCopy_keeps hs hf hl _
  · exact State.takeTok_keeps _ hs hf hl hp

theorem execCtokw_keeps (c : BitVec 4) : (execCtokw c s).Keeps ρ := State.ctokw_keeps hs hf hl _ fun _ _ ht => ht
theorem execCtokwLd_keeps (d c : BitVec 4) : (execCtokwLd d c s).Keeps ρ := State.ctokw_keeps hs hf hl _ fun _ _ ht => ht
theorem execCtokwAdd_keeps (d c : BitVec 4) : (execCtokwAdd d c s).Keeps ρ := State.ctokw_keeps hs hf hl _ fun _ _ ht => ht

theorem execCfence_keeps (sc : BitVec 3) : (execCfence sc s).Keeps ρ := by
  refine State.afterCopies_keeps hs hf hl (Res.keeps_next ((State.retire_roster _).trans ?_))
  split
  · exact (s.release_roster _).trans hs
  · exact hs

theorem execCring_keeps (r : BitVec 2) (c h : BitVec 8) : (execCring r c h s).Keeps ρ := State.ring_keeps _ _ _ _ hs hf hl

end

theorem execCnop_keeps {s : State} {ρ : Roster} (hs : s.roster = ρ) : (execCnop s).Keeps ρ := Res.keeps_next (s.retire_roster.trans hs)

theorem execRemoteCollectiveFrame_keeps {s : State} {ρ : Roster} (rank : BitVec 6) (lcore : BitVec 8)
    (e : BitVec 48 × Option (BitVec 21)) (v : BitVec 32) (hs : s.roster = ρ) : (execRemoteCollectiveFrame rank lcore e v s).Keeps ρ := by
  unfold execRemoteCollectiveFrame
  split
  · exact Res.keeps_next hs
  · dsimp only
    split
    · exact Res.keeps_next hs
    · exact Res.keeps_next hs

/-! ### The matrix engine's reads -/

theorem State.cpGlobRead_roster {s t : State} {pages : List (Nat × Nat)} {cache : BitVec 2} {va n : Nat} {first : Bool} {bs : List CByte}
    {e : CFault} (h : s.cpGlobRead pages cache va n first = .ok (bs, e, t)) : t.roster = s.roster := by
  grind [State.cpGlobRead, readSegs_roster]

theorem State.partFetch_roster {s : State} (m : MCur) (pages : List (Nat × Nat)) (base va k : Nat) (hf : s.roster.Full) :
    (s.partFetch m pages base va k).roster = s.roster := by
  grind [State.partFetch, State.cpGlobRead_roster, State.cpTile_roster]

theorem State.fetchPut_roster (s : State) (m : MCur) (pages : List (Nat × Nat)) (put : Nat) (done : Bool) :
    (s.fetchPut m pages put done).roster = s.roster := rfl

theorem State.pairHead_roster (s : State) (f : BitVec 4) (seq : W64) : (s.pairHead f seq).roster = s.roster := rfl

theorem fetchPages_roster {s t : State} {m : MCur} {i : BitVec 4} {l pages : List (Nat × Nat)}
    (h : (if m.pages.isEmpty then captures i false l [] s else .ok m.pages s) = .ok pages t) : t.roster = s.roster := by
  split at h
  · exact captures_roster h
  · cases h; rfl

theorem fetchPages_fault_roster {s t : State} {m : MCur} {i : BitVec 4} {l : List (Nat × Nat)} {va : Nat}
    (h : (if m.pages.isEmpty then captures i false l [] s else .ok m.pages s) = .fault va t) : t.roster = s.roster := by
  split at h
  · exact captures_fault_roster h
  · cases h

theorem fetchAtom_roster {s : State} (hf : s.roster.Full) : (fetchAtom s).roster = s.roster := by
  unfold fetchAtom
  split
  · rfl
  · split
    · rfl
    · split
      · rfl
      · split
        · next p t ht =>
          have h1 := fetchPages_roster ht
          split
          · next bs u hu =>
            have h2 : u.roster = s.roster := (State.cpGlobRead_roster hu).trans h1
            rw [State.fetchPut_roster, State.cpTile_roster _ _ _ (h2 ▸ hf), h2]
          · exact h1
        · rfl

theorem execOperandFetchComplete_keeps {s : State} {ρ : Roster} (hs : s.roster = ρ) (hf : ρ.Full) :
    (execOperandFetchComplete s).Keeps ρ := by
  unfold execOperandFetchComplete
  split
  · exact Res.keeps_next hs
  · next hr =>
    have hl : ρ.Live := hs ▸ canIssue_live (by simpa [State.mRuns] using hr)
    have trap {u : State} (hu : u.roster = ρ) (c : BitVec 7) (v : W64) : (s.stepTrap (u.asStep.trap c v)).Keeps ρ :=
      State.stepTrap_keeps hs (State.asStep_trap hu hf hl c v)
    split
    · exact Res.keeps_next hs
    · next m h va n _ =>
      dsimp only
      split
      · exact trap hs _ _
      · split
        · exact Res.keeps_next hs
        · next bad s1 h1 =>
          have h1 := (fetchPages_fault_roster h1).trans hs
          exact trap ((State.partFetch_roster _ _ _ _ _ (h1 ▸ hf)).trans h1) _ _
        · next pages s1 h1 =>
          have h1 := (fetchPages_roster h1).trans hs
          split
          · exact Res.keeps_next hs
          · exact trap h1 _ _
          · next bs e s2 hr =>
            have h2 : s2.roster = ρ := (State.cpGlobRead_roster hr).trans h1
            split
            · exact trap ((State.partFetch_roster _ _ _ _ _ (h2 ▸ hf)).trans h2) _ _
            · exact Res.keeps_next ((State.fetchPut_roster _ _ _ _ _).trans ((State.cpTile_roster _ _ _ (h2 ▸ hf)).trans h2))

section
variable {s : State} {ρ : Roster} (hs : s.roster = ρ) (hf : ρ.Full)
include hs hf

theorem State.loadTile_keeps (h : BitVec 8) (f : BitVec 4) (hl : ρ.Live) : (s.loadTile h f).Keeps ρ := by
  have shadow (b : Bank) : ({ s with me := { s.me with m := { s.me.m with shadow := b } } } : State).roster = ρ := hs
  unfold State.loadTile
  dsimp only
  split
  · exact State.stepTrap_keeps hs (State.asStep_eccTrap (shadow _) hf hl _)
  · exact Res.keeps_next ((State.mDone_roster _).trans ((State.meetOwn_roster _ _).trans hs))

theorem State.loadStream_keeps (f : BitVec 4) (k : Copy) : (s.loadStream f k).Keeps ρ := by
  have last {u : State} (hu : u.roster = ρ) (b : Bank) :
      Res.Keeps (.next ({ u with me := { u.me with m := { u.me.m with shadow := b } } } : State).mDone.finishCopy) ρ := by
    have hd : ({ u with me := { u.me with m := { u.me.m with shadow := b } } } : State).mDone.roster = ρ := (State.mDone_roster _).trans hu
    exact Res.keeps_next ((State.finishCopy_roster (hd ▸ hf)).trans hd)
  unfold State.loadStream
  dsimp only
  split
  · exact Res.keeps_next hs
  · exact Res.keeps_next hs
  · next bs e t ht =>
    have h1 := (State.cpGlobRead_roster ht).trans hs
    split
    · exact last h1 _
    · exact last ((State.cpErr_roster _ _ _).trans h1) _

theorem execMwldComplete_keeps : (execMwldComplete s).Keeps ρ := by
  unfold execMwldComplete
  split
  · exact Res.keeps_next hs
  · next hr =>
    have hl : ρ.Live := hs ▸ canIssue_live (by simpa [State.mRuns] using hr)
    split
    · exact Res.keeps_next hs
    · split
      · exact State.loadTile_keeps hs hf _ _ hl
      · split
        · exact State.loadTile_keeps hs hf _ _ hl
        · exact Res.keeps_next hs
      · split
        · split
          · exact State.loadStream_keeps hs hf _ _
          · exact Res.keeps_next hs
        · exact Res.keeps_next hs
      · exact Res.keeps_next hs

theorem execCwstPairing_keeps : (execCwstPairing s).Keeps ρ := by
  have pair (u : State) (seq : W64) (limit : Nat) (hl : ρ.Live) (hu : u.roster = ρ) : Res.Keeps
      (match u.me.m.want with
       | some f =>
         if weightLimit f.toNat < limit then
           if ({ u with cur := { u.cur with st := .m } } : State).mayTrap .m 0 then
             ({ u with cur := { u.cur with st := .m } } : State).endCopy.trapR 0x31 u.me.e.pc
           else .next u
         else .next (u.pairHead f seq)
       | none => .next u) ρ := by
    split
    · split
      · split
        · have h2 : ({ u with cur := { u.cur with st := .m } } : State).roster = ρ := hu
          exact State.trapR_keeps _ _ ((State.endCopy_roster (h2 ▸ hf)).trans h2) hf hl
        · exact Res.keeps_next hu
      · exact Res.keeps_next ((u.pairHead_roster _ _).trans hu)
    · exact Res.keeps_next hu
  unfold execCwstPairing
  split
  · exact Res.keeps_next hs
  · next hr =>
    have hl : ρ.Live := hs ▸ canIssue_live (by simpa using hr)
    split
    · exact Res.keeps_next hs
    · next k rest _ =>
      split
      · refine pair { s with me := if k.table.isEmpty then s.me.reachCwst k rest else s.me } _ _ hl (Eq.trans (State.withMe_roster ?_) hs)
        split <;> rfl
      · exact Res.keeps_next hs

end

/-! ### Splice transfers -/

theorem State.setFlight_roster (s : State) (f : XferFlight) : (s.setFlight f).roster = s.roster := rfl

theorem State.endFlight_roster (s : State) (f : XferFlight) (k : Copy) (e : CFault) : (s.endFlight f k e).roster = s.roster :=
  State.cpErr_roster _ _ _

theorem State.xferStep_roster {s : State} (k : Copy) (f : XferFlight) (atoms : Bool) (hf : s.roster.Full) :
    (s.xferStep k f atoms).roster = s.roster := by
  have less : Ctx.Badged fun c => c.busyDown f.h := fun c => c.busyDown_badge f.h
  have more : Ctx.Badged fun c => c.busyUp f.h := fun c => c.busyUp_badge f.h
  have done (u : State) (hu : u.roster = s.roster) : (u.update f.dst (fun c => c.busyDown f.h) (tileSeg f.h)).roster = s.roster :=
    (State.update_roster _ _ (hu ▸ hf) less).trans hu
  unfold State.xferStep
  extract_lets len src o upTo a u
  split
  · split
    · next bs e t ht =>
      exact (State.cpErr_roster _ _ _).trans ((State.setFlight_roster _ _).trans (State.ownRead_roster ht))
    · rfl
  · split
    · rfl
    · split
      · exact State.endFlight_roster _ _ _ _
      · refine (State.endFlight_roster _ _ _ _).trans ?_
        unfold u
        split
        · exact done s rfl
        · rfl
      · extract_lets t n last r s1
        split
        · rfl
        · split
          · exact State.endFlight_roster _ _ _ _
          · split
            · split
              · rfl
              · exact (State.setFlight_roster _ _).trans (State.update_roster _ _ hf more)
            · split
              · rfl
              · have h1 : s1.roster = s.roster := (State.cpErr_roster _ _ _).trans (State.tileWrite_roster _ _ _ _ hf)
                split
                · exact (State.endFlight_roster _ _ _ _).trans (done _ h1)
                · exact h1

theorem execCxferArrival_keeps {s : State} {ρ : Roster} (hs : s.roster = ρ) (hf : ρ.Full) : (execCxferArrival s).Keeps ρ := by
  have go (u : State) (hu : u.roster = ρ) : (match u.flight, u.me.cp.copies with
      | some f, k :: _ => if u.cc < f.first || (f.begun && u.cc < f.due) then u else u.xferStep k f false
      | _, _ => u).roster = ρ := by
    split
    · split
      · exact hu
      · exact (State.xferStep_roster _ _ _ (hu ▸ hf)).trans hu
    · exact hu
  exact Res.keeps_next (go _ (go _ (go _ hs)))

/-! ### Units -/

theorem State.unitDone_roster {s : State} (k : Copy) (u : Nat) (hf : s.roster.Full) : (s.unitDone k u).roster = s.roster := by
  unfold State.unitDone
  dsimp only
  split
  · exact State.finishCopy_roster (s := ({ s with me := { s.me with piC := BitVec.ofNat 32 u } } : State).setHead _) hf
  · rfl

theorem State.unitStep_roster {s t : State} {k : Copy} {atoms : Bool} (hf : s.roster.Full) (h : s.unitStep k atoms = some t) :
    t.roster = s.roster := by
  have fail (e : CFault) : ((s.cpErr k e).unitDone k k.units).roster = s.roster := by
    have := s.cpErr_roster k e
    exact (State.unitDone_roster _ _ (this ▸ hf)).trans this
  have last (u v : State) (hu : u.roster = s.roster) (n put left : Nat)
      (h : (if left ≤ n then u.unitDone k (s.me.piC.toNat + 1) else u.setHead { k with put := put }) = v) : v.roster = s.roster := by
    subst h
    split
    · exact (State.unitDone_roster _ _ (hu ▸ hf)).trans hu
    · exact hu
  unfold State.unitStep at h
  dsimp only at h
  split at h
  · cases h
    exact State.unitDone_roster _ _ hf
  · split at h
    · cases h; exact fail _
    · split at h
      · split at h
        · next bs e u hu =>
          cases h
          exact (State.cpErr_roster _ _ _).trans (State.endRead_roster hu)
        · cases h
      · split at h
        · cases h; exact fail _
        · split at h
          · next e u hu =>
            exact last _ _ ((State.cpErr_roster u k e).trans (State.endWrite_roster hf hu)) _ _ _ (Option.some.inj h)
          · cases h

theorem prefetch_roster (cache : BitVec 2) (l : List (Nat × Nat)) (s : State) : (prefetch cache l s).roster = s.roster := by
  induction l generalizing s with
  | nil => rfl
  | cons p l ih => grind [prefetch, State.countWalk_roster, State.meet_roster, State.sramRead_roster]

theorem State.askMove_roster (s : State) (va : Nat) (toLpddr : Bool) : (s.askMove va toLpddr).roster = s.roster := by
  grind [State.askMove, State.countWalk_roster, State.msi_roster, State.roster_mk, State.roster_eta]

end Sys2Proof.Machine
end

section
/-! What a change of focus keeps: the contexts, up to their order, what the instances hold, and what a brown-out would bring back
(R11, R262, R265). -/

namespace Sys2Proof.Machine

/-! ### Contexts by their badges -/

/-- Badges as `ProperCtxs` wants their contexts. -/
def ProperBadges (l : List (BitVec 12 × Bool)) : Prop := (l.Pairwise fun a b => a.1 ≠ b.1) ∧ ∀ b ∈ l, b.2 = true ∧ lcoreOf b.1 < 208

theorem Life.exists_iff {l : Life} : l.exists = true ↔ l ≠ .none := by simp [Life.exists]

theorem properCtxs_iff_badges (l : List Ctx) : ProperCtxs l ↔ ProperBadges (l.map Ctx.badge) := by
  simp [ProperCtxs, ProperBadges, List.pairwise_map, Ctx.badge, Life.exists_iff]

theorem ProperBadges.perm {l m : List (BitVec 12 × Bool)} (h : l.Perm m) (hm : ProperBadges m) : ProperBadges l :=
  ⟨(h.pairwise_iff fun hab => Ne.symm hab).mpr hm.1, fun b hb => hm.2 b (h.subset hb)⟩

/-- The badges of the contexts that a brown-out would bring back for number i stand well: its own, each once, and it holds a reel. -/
def HeldWell (holds : BitVec 4 → Bool) (i : BitVec 4) (l : List (BitVec 12 × Bool)) : Prop :=
  ProperBadges l ∧ holds i = true ∧ ∀ b ∈ l, instOf b.1 = i

/-- What `State.ReelsHold` says, of badges. -/
structure Sound (cs : List (BitVec 12 × Bool)) (holds : BitVec 4 → Bool) (resume : BitVec 4 → Option (List (BitVec 12 × Bool)))
    (kept : Option (List (BitVec 4 × List (BitVec 12 × Bool)))) : Prop where
  proper : ProperBadges cs
  held : ∀ b ∈ cs, holds (instOf b.1) = true
  points : ∀ i l, resume i = some l → HeldWell holds i l
  region : ∀ ret, kept = some ret → ∀ p ∈ ret, HeldWell holds p.1 p.2

/-- The badges of the existing contexts. -/
def State.badges (s : State) : List (BitVec 12 × Bool) := s.ctxs.map Ctx.badge

/-- Which instances hold a reel. -/
def State.holding (s : State) (i : BitVec 4) : Bool := (s.inst i).holds

/-- The badges of a resume point. -/
def State.point (s : State) (i : BitVec 4) : Option (List (BitVec 12 × Bool)) := (s.inst i).resume.map fun r => r.ctxs.map Ctx.badge

/-- The badges of the retention region. -/
def State.region (s : State) : Option (List (BitVec 4 × List (BitVec 12 × Bool))) := s.hub.retained.map Retained.badge

theorem State.mem_heldCtxs {s : State} {p : BitVec 4 × List Ctx} : p ∈ s.heldCtxs ↔
    (∃ r, (s.inst p.1).resume = some r ∧ r.ctxs = p.2) ∨ ∃ ret, s.hub.retained = some ret ∧ ∃ q ∈ ret.insts, (q.1, q.2.ctxs) = p := by
  obtain ⟨i, l⟩ := p
  unfold State.heldCtxs
  rw [List.mem_append, List.mem_filterMap]
  refine or_congr ?_ ?_
  · constructor
    · rintro ⟨n, hn, h⟩
      obtain ⟨r, hr, h⟩ := Option.map_eq_some_iff.mp h
      cases h
      exact ⟨r, hr, rfl⟩
    · rintro ⟨r, hr, rfl⟩
      refine ⟨i.toNat, List.mem_range.mpr i.isLt, ?_⟩
      rw [BitVec.ofNat_toNat, BitVec.setWidth_eq]
      exact Option.map_eq_some_iff.mpr ⟨r, hr, rfl⟩
  · cases hk : s.hub.retained with
    | none => simp
    | some ret => simp

theorem State.reelsHold_iff (s : State) : s.ReelsHold ↔ Sound s.badges s.holding s.point s.region := by
  have well (i : BitVec 4) (l : List Ctx) :
      (ProperCtxs l ∧ (s.inst i).holds = true ∧ ∀ c ∈ l, instOf c.id = i) ↔ HeldWell s.holding i (l.map Ctx.badge) := by
    rw [properCtxs_iff_badges, HeldWell]
    simp [State.holding, Ctx.badge]
  constructor
  · rintro ⟨hp, hh, hk⟩
    refine ⟨(properCtxs_iff_badges _).mp hp, by simpa [State.badges, State.holding, Ctx.badge] using hh, fun i l h => ?_, fun ret h p hm => ?_⟩
    · obtain ⟨r, hr, rfl⟩ := Option.map_eq_some_iff.mp h
      exact (well _ _).mp (hk (i, r.ctxs) (State.mem_heldCtxs.mpr (.inl ⟨r, hr, rfl⟩)))
    · obtain ⟨r, hr, rfl⟩ := Option.map_eq_some_iff.mp h
      obtain ⟨q, hq, rfl⟩ := List.mem_map.mp hm
      exact (well _ _).mp (hk (q.1, q.2.ctxs) (State.mem_heldCtxs.mpr (.inr ⟨r, hr, q, hq, rfl⟩)))
  · rintro ⟨hp, hh, hr, hk⟩
    refine ⟨(properCtxs_iff_badges _).mpr hp, by simpa [State.badges, State.holding, Ctx.badge] using hh, fun p hm => (well _ _).mpr ?_⟩
    obtain ⟨r, hr', hc⟩ | ⟨ret, hret, q, hq, rfl⟩ := State.mem_heldCtxs.mp hm
    · exact hr _ _ (Option.map_eq_some_iff.mpr ⟨r, hr', by rw [hc]⟩)
    · exact hk _ (Option.map_eq_some_iff.mpr ⟨ret, hret, rfl⟩) (q.1, q.2.ctxs.map Ctx.badge) (List.mem_map.mpr ⟨q, hq, rfl⟩)

/-! ### States of one kin -/

/-- The same contexts, in some order; the same reels, and the same contexts to bring back. -/
structure State.Kin (t s : State) : Prop where
  badges : t.badges.Perm s.badges
  holding : t.holding = s.holding
  point : t.point = s.point
  region : t.region = s.region

theorem State.Kin.refl (s : State) : s.Kin s := ⟨.refl _, rfl, rfl, rfl⟩

theorem State.Kin.trans {s t u : State} (h : u.Kin t) (g : t.Kin s) : u.Kin s :=
  ⟨h.badges.trans g.badges, h.holding.trans g.holding, h.point.trans g.point, h.region.trans g.region⟩

theorem State.Kin.reelsHold {s t : State} (h : t.Kin s) (hs : s.ReelsHold) : t.ReelsHold := by
  rw [State.reelsHold_iff] at hs ⊢
  obtain ⟨hb, hh, hp, hr⟩ := h
  rw [hh, hp, hr]
  exact ⟨hs.proper.perm hb, fun b hm => hs.held b (hb.subset hm), hs.points, hs.region⟩

/-- The badges of the existing contexts of a roster. -/
def Roster.badges (ρ : Roster) : List (BitVec 12 × Bool) := if ρ.me.2 then ρ.me :: ρ.rest else ρ.rest

theorem State.roster_badges (s : State) : s.roster.badges = s.badges := by
  unfold Roster.badges State.badges State.ctxs State.roster
  by_cases h : s.me.life = .none
  · rw [if_pos h, if_neg (by simp [Life.exists, h])]
  · rw [if_neg h, if_pos (Life.exists_of_ne h)]
    rfl

theorem State.inst_badge_of_roster {s t : State} (h : t.roster = s.roster) (i : BitVec 4) : (t.inst i).badge = (s.inst i).badge := by
  have hi : t.insts.map Inst.badge = s.insts.map Inst.badge := congrArg Roster.insts h
  have := congrArg (fun v : Vector _ 16 => v[i.toNat]'i.isLt) hi
  simpa [State.inst] using this

theorem State.Kin.of_roster {s t : State} (h : t.roster = s.roster) : t.Kin s where
  badges := by rw [← State.roster_badges, ← State.roster_badges, h]
  holding := funext fun i => congrArg Prod.fst (State.inst_badge_of_roster h i)
  point := funext fun i => congrArg Prod.snd (State.inst_badge_of_roster h i)
  region := congrArg Roster.kept h

theorem State.ReelsHold.roster {s t : State} (hs : s.ReelsHold) (h : t.roster = s.roster) : t.ReelsHold :=
  (State.Kin.of_roster h).reelsHold hs

theorem State.ReelsHold.full {s : State} (h : s.ReelsHold) : s.roster.Full := by
  intro b hb
  obtain ⟨c, hc, rfl⟩ := List.mem_map.mp hb
  have hm : c ∈ s.ctxs := by
    unfold State.ctxs
    split
    · exact hc
    · exact List.mem_cons_of_mem _ hc
  exact Life.exists_of_ne (h.1.2 c hm).1

/-! ### Focus -/

theorem insertCtx_perm (c : Ctx) (l : List Ctx) : (insertCtx c l).Perm (c :: l) := by
  induction l with
  | nil => exact .refl _
  | cons d l ih =>
    rw [insertCtx]
    split
    · exact .refl _
    · exact (ih.cons d).trans (.swap _ _ _)

theorem cons_filter_ne_perm {l : List Ctx} {id : BitVec 12} {c : Ctx} (hp : l.Pairwise fun a b => a.id ≠ b.id)
    (h : l.find? (fun c => c.id == id) = some c) : (c :: l.filter fun d => d.id != id).Perm l := by
  induction l with
  | nil => cases h
  | cons d l ih =>
    obtain ⟨hd, hl⟩ := List.pairwise_cons.mp hp
    rw [List.find?_cons] at h
    by_cases he : d.id = id
    · rw [he, beq_self_eq_true] at h
      cases h
      have hall : (l.filter fun d => d.id != id) = l := List.filter_eq_self.mpr fun x hx => bne_iff_ne.mpr fun hxi => hd x hx (he.trans hxi.symm)
      rw [List.filter_cons_of_neg (by simp [he]), hall]
    · rw [beq_false_of_ne he] at h
      rw [List.filter_cons_of_pos (by simp [he])]
      exact (List.Perm.swap _ _ _).trans ((ih hl h).cons d)

/-- The context that comes into focus exists, and is the one asked for. -/
theorem State.focus_me {s t : State} {id : BitVec 12} (hf : s.roster.Full) (h : s.focus id = some t) : t.me.id = id ∧ t.roster.Live := by
  unfold State.focus at h
  split at h
  · next hm =>
    cases h
    exact ⟨hm.1, State.live_of_ne hm.2⟩
  · split at h
    · cases h
    · next c hc =>
      cases h
      exact ⟨by simpa using List.find?_some hc, hf.rest (List.mem_of_find?_eq_some hc)⟩

theorem State.focus_ctxs {s t : State} {id : BitVec 12} (hp : s.Proper) (h : s.focus id = some t) : t.ctxs.Perm s.ctxs := by
  unfold State.focus at h
  split at h
  · cases h; exact .refl _
  · split at h
    · cases h
    · next c hc =>
      have hin : c ∈ s.rest := List.mem_of_find?_eq_some hc
      have hrest : s.rest.Pairwise fun a b => a.id ≠ b.id := by
        have := hp.1
        unfold State.ctxs at this
        split at this
        · exact this
        · exact (List.pairwise_cons.mp this).2
      have hcl : c.life ≠ .none := (hp.2 c (by unfold State.ctxs; split <;> simp [hin])).1
      have hperm := cons_filter_ne_perm hrest hc
      cases h
      by_cases hl : s.me.life = .none
      · simpa [State.ctxs, hl, hcl] using hperm
      · have : (c :: insertCtx s.me (s.rest.filter fun d => d.id != id)).Perm (s.me :: s.rest) :=
          (((insertCtx_perm _ _).cons c).trans (.swap _ _ _)).trans (hperm.cons s.me)
        simpa [State.ctxs, hl, hcl] using this

theorem State.focus_rest {s t : State} {id : BitVec 12} (h : s.focus id = some t) : t.insts = s.insts ∧ t.hub = s.hub := by
  unfold State.focus at h
  split at h
  · cases h; exact ⟨rfl, rfl⟩
  · split at h
    · cases h
    · cases h; exact ⟨rfl, rfl⟩

/-- Contexts in another order, and the same instances and hub. -/
theorem State.Kin.of_ctxs {s t : State} (h : t.ctxs.Perm s.ctxs) (hi : t.insts = s.insts) (hh : t.hub = s.hub) : t.Kin s where
  badges := h.map _
  holding := by unfold State.holding State.inst; rw [hi]
  point := by unfold State.point State.inst; rw [hi]
  region := by unfold State.region; rw [hh]

theorem State.focus_kin {s t : State} {id : BitVec 12} (hs : s.ReelsHold) (h : s.focus id = some t) : t.Kin s :=
  .of_ctxs (State.focus_ctxs hs.1 h) (State.focus_rest h).1 (State.focus_rest h).2

theorem State.aim_kin {s : State} (id : BitVec 12) (hs : s.ReelsHold) : (s.aim id).Kin s := by
  unfold State.aim
  split
  · next t ht =>
    obtain ⟨hi, hh⟩ := State.focus_rest ht
    exact .of_ctxs (show t.ctxs.Perm s.ctxs from State.focus_ctxs hs.1 ht) hi hh
  · refine .of_ctxs ?_ rfl rfl
    by_cases hl : s.me.life = .none
    · simp [State.ctxs, hl]
    · simpa [State.ctxs, hl] using insertCtx_perm s.me s.rest

theorem State.aim_live {s : State} {id : BitVec 12} (hs : s.ReelsHold) (h : (s.ctx? id).isSome) : (s.aim id).roster.Live := by
  have hfocus : s.focus id ≠ none := by
    intro hn
    unfold State.focus at hn
    split at hn
    · cases hn
    · next hme =>
      split at hn
      · next hr =>
        refine absurd h ?_
        have hnone : s.ctxs.find? (fun c => c.id == id) = none := by
          unfold State.ctxs
          split
          · exact hr
          · next hl => rw [List.find?_cons_of_neg (by simpa using fun he => hme ⟨he, hl⟩), hr]
        simp [State.ctx?, hnone]
      · cases hn
  unfold State.aim
  split
  · next t ht => exact (State.focus_me hs.full ht).2
  · next hn => exact absurd hn hfocus

/-- To act on a context in focus keeps what the act keeps. -/
theorem State.within_kin {s : State} {id : BitVec 12} {f : State → State} (hs : s.ReelsHold)
    (hf : ∀ t : State, t.ReelsHold → t.me.id = id → t.roster.Live → (f t).Kin t) : (s.within id f).Kin s := by
  unfold State.within
  dsimp only
  split
  · exact .refl s
  · next t ht =>
    have h1 := State.focus_kin hs ht
    obtain ⟨hid, hl⟩ := State.focus_me hs.full ht
    have h2 : (f t).Kin s := (hf t (h1.reelsHold hs) hid hl).trans h1
    cases h3 : (f t).focus s.me.id with
    | none => exact h2
    | some u => exact (State.focus_kin (h2.reelsHold hs) h3).trans h2

theorem foldl_kin {α : Type} {f : State → α → State} (hf : ∀ t a, t.ReelsHold → (f t a).Kin t) (l : List α) {s : State} (hs : s.ReelsHold) :
    (l.foldl f s).Kin s := by
  induction l generalizing s with
  | nil => exact .refl s
  | cons a l ih => exact (ih ((hf s a hs).reelsHold hs)).trans (hf s a hs)

/-! ### Outcomes -/

/-- The next state of an outcome, if it has one, keeps the contexts. -/
def Res.Safe (r : Res) : Prop := ∀ t, r = .next t → t.ReelsHold

theorem Res.safe_next {t : State} (h : t.ReelsHold) : Res.Safe (.next t) := by rintro _ ⟨⟩; exact h

theorem Res.Keeps.safe {r : Res} {s : State} (h : r.Keeps s.roster) (hs : s.ReelsHold) : r.Safe := fun t ht => hs.roster (h t ht)

/-! ### Collectives and the copy engine (R213, R226 to R228, R234) -/

theorem State.endColl_roster {s : State} (e : BitVec 7 × W32) (hf : s.roster.Full) : (s.endColl e).roster = s.roster := by
  unfold State.endColl
  split
  · next k _ _ => exact (State.finishCopy_roster ((s.cpErr_roster k _) ▸ hf)).trans (s.cpErr_roster k _)
  · rfl

theorem State.failColl_roster {s : State} (r : Nat) (hf : s.roster.Full) : (s.failColl r).roster = s.roster := State.endColl_roster _ hf

theorem Ctx.takeResult_badged (bs : List CByte) (f : Flags) : Ctx.Badged (Ctx.takeResult bs f) := by
  intro c
  unfold Ctx.takeResult
  split
  · exact (Ctx.setHead_badge _ _).trans (Ctx.raise_badge _ _)
  · rfl

theorem State.localColl_kin {s : State} (k : Copy) (hs : s.ReelsHold) : (s.localColl k).Kin s := by
  have ends (e : BitVec 7 × W32) (u : State) (id : BitVec 12) (hu : u.ReelsHold) : (u.within id fun t => t.endColl e).Kin u :=
    State.within_kin hu fun t ht _ _ => .of_roster (State.endColl_roster _ ht.full)
  unfold State.localColl
  dsimp only
  split
  · exact .of_roster (State.failColl_roster _ hs.full)
  · split
    · exact .refl s
    · split
      · exact foldl_kin (fun u id hu => ends _ u id hu) _ hs
      · split
        · exact .refl s
        · refine foldl_kin (fun u p hu => ?_) _ hs
          split
          · exact ends _ u _ hu
          · exact .of_roster (State.update_roster _ _ hu.full (Ctx.takeResult_badged _ _))

theorem State.xpColl_roster {s : State} (k : Copy) (hf : s.roster.Full) : (s.xpColl k).roster = s.roster := by
  have fail (r : Nat) : (s.failColl r).roster = s.roster := State.failColl_roster r hf
  unfold State.xpColl
  split
  · exact fail _
  · exact fail _
  · extract_lets ranks heads srcs r
    split
    · exact State.endColl_roster _ hf
    · split
      · rfl
      · split
        · exact fail _
        · split
          · rfl
          · exact State.update_roster _ _ hf (Ctx.takeResult_badged _ _)

theorem State.collStep_kin {s : State} (k : Copy) (atoms : Bool) (hs : s.ReelsHold) : (s.collStep k atoms).Kin s := by
  unfold State.collStep
  extract_lets upTo e left n e'
  split
  · split
    · next x t ht =>
      have h1 := (State.cpErr_roster t k x).trans (State.endWrite_roster hs.full ht)
      extract_lets u
      refine .of_roster ?_
      split
      · exact (State.finishCopy_roster (h1 ▸ hs.full)).trans h1
      · exact h1
    · exact .refl s
  · split
    · split
      · next bs x t ht => exact .of_roster ((State.cpErr_roster _ _ _).trans ((State.setHead_roster _ _).trans (State.endRead_roster ht)))
      · exact .refl s
    · split
      · exact .of_roster (State.xpColl_roster k hs.full)
      · exact State.localColl_kin k hs

theorem State.copyStep_kin {s t : State} {atoms : Bool} (hs : s.ReelsHold) (h : s.copyStep atoms = some t) : t.Kin s := by
  unfold State.copyStep at h
  split at h
  · cases h
  · next k _ _ =>
    split at h
    · cases h
    · have h1 : (s.refresh s.me.id).roster = s.roster := State.refresh_roster _ hs.full
      have hu : (s.refresh s.me.id).ReelsHold := hs.roster h1
      refine State.Kin.trans ?_ (.of_roster h1)
      generalize s.refresh s.me.id = u at h hu
      dsimp only at h
      split at h
      · split at h
        · obtain ⟨f, -, rfl⟩ := Option.map_eq_some_iff.mp h
          exact .of_roster (State.xferStep_roster _ _ _ hu.full)
        · cases h
          exact .of_roster u.startHead_roster
      · cases h; exact State.collStep_kin _ _ hu
      · cases h; exact State.collStep_kin _ _ hu
      · split at h
        · split at h
          · next bs x v hv =>
            cases h
            exact .of_roster ((State.setHead_roster _ _).trans ((State.cpErr_roster _ _ _).trans (State.endRead_roster hv)))
          · cases h
        · cases h
      · split at h
        · cases h
        · exact .of_roster (State.unitStep_roster hu.full h)

theorem copyUnit_kin {s : State} (hs : s.ReelsHold) : (copyUnit s).Kin s := by
  unfold copyUnit
  cases h : s.copyStep true with
  | none => exact .refl s
  | some t => exact State.copyStep_kin hs h

theorem copySteps_kin (seq : W64) (n : Nat) {s : State} (hs : s.ReelsHold) : (copySteps seq n s).Kin s := by
  induction n generalizing s with
  | zero => exact .refl s
  | succ n ih =>
    rw [copySteps]
    split
    · exact .refl s
    · split
      · exact .refl s
      · split
        · next t ht =>
          have h1 := State.copyStep_kin hs ht
          exact (ih (h1.reelsHold hs)).trans h1
        · exact .refl s

theorem execCopyComplete_safe {s : State} (hs : s.ReelsHold) : (execCopyComplete s).Safe := by
  have fin (u : State) (hu : u.ReelsHold) : Res.Safe (.next u.finishCopy) := Res.safe_next (hu.roster (State.finishCopy_roster hu.full))
  have steps (seq : W64) (n : Nat) : (copySteps seq n s).ReelsHold := (copySteps_kin seq n hs).reelsHold hs
  unfold execCopyComplete
  split
  · exact Res.safe_next hs
  · next k _ _ =>
    split
    · exact Res.safe_next hs
    · split
      · split
        · exact Res.safe_next (hs.roster s.startHead_roster)
        · split
          · exact fin _ (hs.roster (State.refresh_roster _ hs.full))
          · exact Res.safe_next hs
      · exact Res.safe_next (steps _ _)
      · exact Res.safe_next (steps _ _)
      · exact Res.safe_next hs
      · exact fin _ (hs.roster rfl)
      · exact fin _ (hs.roster (prefetch_roster _ _ _))
      · exact fin _ (hs.roster (State.askMove_roster _ _ _))
      · extract_lets t
        have ht : t.ReelsHold := steps _ _
        split
        · split
          · exact fin _ ht
          · exact Res.safe_next ht
        · exact Res.safe_next ht

end Sys2Proof.Machine
end

section
/-! The roster and the fabric (R236 to R259). -/

namespace Sys2Proof.Machine

theorem portWrite_badge {c d : Ctx} {l : List (BitVec 8 × Nat × W32)} (h : portWrite c l = .ok d) : d.badge = c.badge := by
  induction l generalizing c with
  | nil => cases h; rfl
  | cons p l ih => grind [portWrite, Ctx.spadCells_badge]

theorem Ctx.portAct_badge (c : Ctx) (e : BitVec 6) (out : Bool) : (c.portAct e out).badge = c.badge := by
  grind [Ctx.portAct, Ctx.badge]

theorem Ctx.portsWrite_badge (c : Ctx) : c.portsWrite.badge = c.badge := by
  refine foldl_badge (fun c e => ?_) _ _
  split
  · next d hd => exact portWrite_badge hd
  · rfl

theorem Ctx.endRun_badge (c : Ctx) : c.endRun.badge = c.badge := rfl

theorem Ctx.withFabric_badge (c : Ctx) (f : FState) (n : W32) : ({ c with f := f, piF := n } : Ctx).badge = c.badge := rfl

theorem fabricStep_badge (c : Ctx) : (fabricStep c).2.badge = c.badge := by
  have h : (elems.foldl (fun c e => (c.portAct e false).portAct e true) c).portsWrite.badge = c.badge :=
    (Ctx.portsWrite_badge _).trans (foldl_badge (fun c _ => (Ctx.portAct_badge _ _ _).trans (Ctx.portAct_badge _ _ _)) _ _)
  exact (Ctx.withFabric_badge _ _ _).trans h

theorem State.asF_roster (s : State) : s.asF.roster = s.roster := rfl

theorem fabricCycle_roster {s : State} (hf : s.roster.Full) : (fabricCycle s).roster = s.roster := by
  unfold fabricCycle
  split
  · rfl
  · split
    · rfl
    · next w _ hr =>
      have hl : s.roster.Live := canIssue_live (st := .f) (by grind)
      extract_lets u r t
      have hu : u.roster = s.roster := (s.asF.meetOwn_roster _).trans s.asF_roster
      have hr : r.2.badge = u.me.badge := fabricStep_badge _
      split
      · exact (State.withMe_roster hr).trans hu
      · split
        · rfl
        · have ht : t.roster = s.roster := Eq.trans (State.withMe_roster (s := u) ((Ctx.endRun_badge _).trans hr)) hu
          clear_value t
          split
          · exact (State.eccTrap_roster _ (ht ▸ hf) (ht ▸ hl)).trans ht
          · exact (State.trap_roster _ _ (ht ▸ hf) (ht ▸ hl)).trans ht

theorem State.onePort_keeps {s : State} {ρ : Roster} (out : Bool) (hs : s.roster = ρ) : (s.onePort out).Keeps ρ := by
  grind [State.onePort, Res.keeps_next, State.withMe_roster, Ctx.portAct_badge]

theorem execInputPortPush_keeps {s : State} {ρ : Roster} (hs : s.roster = ρ) : (execInputPortPush s).Keeps ρ := s.onePort_keeps _ hs
theorem execOutputPortWrite_keeps {s : State} {ρ : Roster} (hs : s.roster = ρ) : (execOutputPortWrite s).Keeps ρ := s.onePort_keeps _ hs

theorem execRunComplete_keeps {s : State} {ρ : Roster} (hs : s.roster = ρ) (hf : ρ.Full) : (execRunComplete s).Keeps ρ := by
  unfold execRunComplete
  split
  · exact Res.keeps_next hs
  · next hr =>
    have hl : ρ.Live := hs ▸ canIssue_live (st := .f) (by grind)
    have hu (c : Ctx) (hc : c.badge = s.me.badge) : ({ s.asF with me := c } : State).roster = ρ := (State.withMe_roster hc).trans hs
    dsimp only
    split
    · have h1 := hu s.me.endRun s.me.endRun_badge
      refine Res.keeps_next ?_
      split
      · exact (State.eccTrap_roster _ (h1 ▸ hf) (h1 ▸ hl)).trans h1
      · exact hs
    · next c hc => exact Res.keeps_next ((State.retire_roster _).trans (hu _ (portWrite_badge hc : _ = s.me.badge)))

section
variable {s : State} {ρ : Roster} (hs : s.roster = ρ)
include hs

theorem execFabricBound_keeps (hf : ρ.Full) : (execFabricBound s).Keeps ρ := by
  unfold execFabricBound
  split
  · exact Res.keeps_next hs
  · split
    · exact Res.keeps_next hs
    · next hr =>
      exact State.trapR_keeps (s := { s.asF with me := s.me.endRun }) _ _ hs hf (hs ▸ canIssue_live (st := .f) (by grind))

theorem State.syllable_keeps (i : Instr) (hf : ρ.Full) (hl : ρ.Live) : (s.syllable i).Keeps ρ := by
  unfold State.syllable
  dsimp only
  split
  · exact Res.keeps_next hs
  · split
    · exact State.trapR_keeps (s := { s with me := s.me.endRun }) _ _ hs hf hl
    · exact Res.keeps_next hs

/-! ### The F stream -/

theorem State.schedule_keeps (e : BitVec 6) (p f : BitVec 4) (off : Bool) : (s.schedule e p f off).Keeps ρ :=
  Res.keeps_next ((State.retire_roster _).trans hs)

theorem execFqry_keeps (c : BitVec 1) (r : BitVec 4) (w : BitVec 2) (e : BitVec 6) : (execFqry c r w e s).Keeps ρ :=
  State.sendTok_keeps _ _ hs

theorem execFtoks_keeps (c : BitVec 4) (v : BitVec 16) : (execFtoks c v s).Keeps ρ := State.sendTok_keeps _ _ hs

theorem execFwait_keeps : (execFwait s).Keeps ρ := Res.keeps_next (s.retire_roster.trans hs)

theorem execFwaitEnd_keeps : (execFwaitEnd s).Keeps ρ :=
  Res.keeps_next ((State.setStrm_roster _ _).trans (s.retire_roster.trans hs))

variable (hf : ρ.Full) (hl : ρ.Live)
include hf hl

theorem execFload_keeps (h : BitVec 8) (e : BitVec 6) (b : BitVec 5) (n : BitVec 6) : (execFload h e b n s).Keeps ρ := by
  have trap (c : BitVec 7) (v : W64) : (s.trapR c v).Keeps ρ := State.trapR_keeps c v hs hf hl
  have done (u : State) (hu : u.roster = ρ) : (if u.mayTrap u.cur.st u.cur.cl then u.freeRing else u).roster = ρ := by
    split
    · exact u.freeRing_roster.trans hu
    · exact hu
  unfold execFload
  extract_lets t cnt at_ s1 dn fin s2 bs s3 x loop
  split
  · exact trap _ _
  · split
    · exact trap _ _
    · split
      · exact trap _ _
      · split
        · split
          · exact Res.keeps_next ((s.hold_roster _ _).trans hs)
          · refine Res.keeps_next ((State.setStrm_roster _ _).trans ((State.hold_roster _ _ _).trans ?_))
            exact Eq.trans (State.withMe_roster (Ctx.busyUp_badge _ _)) hs
        · have h2 : s2.roster = ρ := (s.meetOwn_roster _).trans hs
          split
          · exact State.tileEcc_keeps _ _ (done s hs) hf hl
          · split
            · exact State.trapR_keeps _ _ (done s2 h2) hf hl
            · exact Res.keeps_next ((State.retire_roster _).trans (s2.freeRing_roster.trans h2 :))

theorem State.openPort_keeps (h : BitVec 8) (e : BitVec 6) (rag : Bool) (hl : BitVec 8) (out : Bool) :
    (s.openPort h e rag hl out).Keeps ρ := by
  have trap (c : BitVec 7) (v : W64) : (s.trapR c v).Keeps ρ := State.trapR_keeps c v hs hf ‹ρ.Live›
  have put (c : Ctx) (f : FState) (hc : c.badge = s.me.badge) : ({ s with me := { c with f := f } } : State).roster = ρ :=
    (State.withMe_roster (show _ = _ from hc)).trans hs
  unfold State.openPort
  dsimp only
  split
  · exact trap _ _
  · split
    · exact trap _ _
    · split
      · exact trap _ _
      · split
        · exact trap _ _
        · split
          · exact trap _ _
          · split
            · exact Res.keeps_next ((s.hold_roster _ _).trans hs)
            · refine Res.keeps_next ((State.retire_roster _).trans (put _ _ ?_))
              split
              · exact (Ctx.busyUp_badge _ _).trans (Ctx.busyUp_badge _ _)
              · exact Ctx.busyUp_badge _ _

theorem execFclose_keeps (h : BitVec 8) (e : BitVec 6) : (execFclose h e s).Keeps ρ := by
  have put (c : Ctx) (f : FState) (hc : c.badge = s.me.badge) : ({ s with me := { c with f := f } } : State).roster = ρ :=
    (State.withMe_roster (show _ = _ from hc)).trans hs
  unfold execFclose
  dsimp only
  split
  · exact State.trapR_keeps _ _ hs hf hl
  · refine Res.keeps_next ((State.retire_roster _).trans (put _ _ ?_))
    split
    · exact (Ctx.busyDown_badge _ _).trans (Ctx.busyDown_badge _ _)
    · exact Ctx.busyDown_badge _ _

theorem execFstart_keeps (w : BitVec 20) : (execFstart w s).Keeps ρ := by
  unfold execFstart
  split
  · exact Res.keeps_next ((s.hold_roster _ _).trans hs)
  · split
    · exact State.trapR_keeps _ _ hs hf hl
    · exact Res.keeps_next ((State.hold_roster _ _ _).trans hs)

theorem execFtokw_keeps (c : BitVec 4) : (execFtokw c s).Keeps ρ := State.takeTok_keeps _ hs hf hl fun _ _ ht => ht

theorem execFring_keeps (r : BitVec 2) (c h : BitVec 8) : (execFring r c h s).Keeps ρ := State.ring_keeps _ _ _ _ hs hf hl

end

end Sys2Proof.Machine
end

section
/-! The roster and the S stream, and what controls the V stream (R94 to R130, R158 to R163). -/

namespace Sys2Proof.Machine

theorem Ctx.wake_badge (c : Ctx) (kind : BitVec 4) (n : Nat) : (c.wake kind n).badge = c.badge := rfl
theorem Ctx.acquire_badge (c : Ctx) (st : Stream) (k : Known) : (c.acquire st k).badge = c.badge := rfl
theorem Ctx.setGuard_badge (c : Ctx) (i : BitVec 4) (x : BitVec 2) (k : Known) : (c.setGuard i x k).badge = c.badge := rfl
theorem Ctx.getEvents_badge (c : Ctx) (bits : BitVec 8) (k : Known) : (c.getEvents bits k).badge = c.badge := rfl

theorem State.dropFrame_roster (s : State) (id : BitVec 12) (slot : BitVec 6) : (s.dropFrame id slot).roster = s.roster := rfl

theorem csrWrite_badge {c d : Ctx} {n : Nat} {v : W64} (h : csrWrite c n v = .ok d) : d.badge = c.badge := by
  unfold csrWrite at h
  split at h
  · split at h <;> cases h; rfl
  · split at h <;> cases h; rfl
  · cases h; rfl
  · cases h; rfl
  · cases h; rfl
  · cases h

theorem State.withMe_of_roster {u : State} {c : Ctx} {ρ : Roster} (hu : u.roster = ρ) (hc : c.badge = ρ.me) :
    ({ u with me := c } : State).roster = ρ :=
  (State.withMe_roster (hc.trans (congrArg Roster.me hu).symm)).trans hu

section
variable {s : State} {ρ : Roster} (hs : s.roster = ρ)
include hs

theorem State.roster_me : s.me.badge = ρ.me := congrArg Roster.me hs

/-- An S instruction completes with its context changed as the roster allows. -/
theorem State.retireS_keeps {c : Ctx} (hc : c.badge = s.me.badge) : Res.Keeps (.next ({ s with me := c } : State).retireS) ρ :=
  Res.keeps_next ((State.retireS_roster _).trans ((State.withMe_roster hc).trans hs))

theorem State.holdS_keeps (kind : BitVec 4) (obj : Nat) : Res.Keeps (.next (s.holdS kind obj)) ρ :=
  Res.keeps_next ((s.holdS_roster _ _).trans hs)

theorem State.putS_keeps (d : BitVec 5) (v : W64) (t : Bool) (f : Flags) : Res.Keeps (.next (s.putS d v t f)) ρ :=
  Res.keeps_next ((s.putS_roster _ _ _ _).trans hs)

theorem State.op2_keeps (d a b : BitVec 5) (r : W64 × Flags) : (s.op2 d a b r).Keeps ρ := State.putS_keeps hs _ _ _ _
theorem State.op1_keeps (d a : BitVec 5) (r : W64 × Flags) : (s.op1 d a r).Keeps ρ := State.putS_keeps hs _ _ _ _

theorem State.branch_keeps (o : BitVec 15) (taken : Bool) : (s.branch o taken).Keeps ρ := by
  cases taken
  · exact Res.keeps_next ((State.retireS_roster _).trans hs)
  · exact Res.keeps_next ((State.retireSTo_roster _ _).trans hs)

theorem execJal_keeps (d : BitVec 5) (o : BitVec 20) : (execJal d o s).Keeps ρ :=
  Res.keeps_next ((State.retireSTo_roster _ _).trans ((State.withMe_roster (Ctx.wg_badge _ _ _ _)).trans hs))

theorem execLoop_keeps (a : BitVec 5) (o : BitVec 15) : (execLoop a o s).Keeps ρ :=
  State.branch_keeps ((State.withMe_roster (Ctx.wg_badge _ _ _ _)).trans hs) _ _

theorem State.releasing_keeps {go : Res} (hg : go.Keeps ρ) : (s.releasing go).Keeps ρ := by
  unfold State.releasing
  split
  · exact hg
  · exact State.holdS_keeps hs _ _

theorem execToks_keeps (x : BitVec 5) (c : BitVec 4) (i : BitVec 8) : (execToks x c i s).Keeps ρ :=
  State.releasing_keeps hs (State.sendTok_keeps _ _ hs)

theorem execToksRemote_keeps (x : BitVec 5) (t : BitVec 8) (c : BitVec 3) (i : BitVec 8) : (execToksRemote x t c i s).Keeps ρ := by
  refine State.releasing_keeps hs ?_
  split
  · exact State.holdS_keeps hs _ _
  · exact State.retireS_keeps hs rfl

theorem execGset_keeps (d : BitVec 5) (g : BitVec 4) (v : BitVec 8) : (execGset d g v s).Keeps ρ := by
  unfold execGset
  split
  · exact State.holdS_keeps hs _ _
  · exact State.releasing_keeps hs (State.retireS_keeps hs ((Ctx.wake_badge _ _ _).trans (Ctx.setGuard_badge _ _ _ _)))

theorem execWfe_keeps (d : BitVec 5) (m : BitVec 8) : (execWfe d m s).Keeps ρ := by
  unfold execWfe
  dsimp only
  split
  · exact State.holdS_keeps hs _ _
  · exact State.retireS_keeps hs ((Ctx.wg_badge _ _ _ _).trans (Ctx.acquire_badge _ _ _))

theorem execRngk_keeps (n : BitVec 4) (a b : BitVec 5) : (execRngk n a b s).Keeps ρ := State.retireS_keeps hs rfl
theorem execRnga_keeps (n : BitVec 4) (a b : BitVec 5) : (execRnga n a b s).Keeps ρ := State.retireS_keeps hs rfl

theorem execFunbind_keeps (i : BitVec 6) : (execFunbind i s).Keeps ρ := State.retireS_keeps ((s.dropFrame_roster _ _).trans hs) rfl

theorem execNop_keeps : (execNop s).Keeps ρ := Res.keeps_next (s.retireS_roster.trans hs)

theorem execPfx_keeps (g : BitVec 4) (p : BitVec 1) (e m : BitVec 4) (f : BitVec 12) : (execPfx g p e m f s).Keeps ρ :=
  Res.keeps_next ((s.setStrm_roster _).trans hs)

theorem execVsyb_keeps (n : BitVec 4) : (execVsyb n s).Keeps ρ :=
  Res.keeps_next ((State.retire_roster _).trans (State.withMe_of_roster hs (State.roster_me hs :)))

theorem putLanes_roster (d : BitVec 6) (x : W32) : (putLanes d x s).roster = ρ := hs

theorem execVflags_keeps (d : BitVec 6) : (execVflags d s).Keeps ρ := by
  unfold execVflags
  split
  · exact Res.keeps_next ((State.retire_roster _).trans (putLanes_roster hs _ _))
  · exact Res.keeps_next ((s.hold_roster _ _).trans hs)

theorem execVnop_keeps : (execVnop s).Keeps ρ := Res.keeps_next (s.retire_roster.trans hs)

theorem execVbr_keeps (d : BitVec 6) (o : BitVec 19) : (execVbr d o s).Keeps ρ := by
  unfold execVbr
  split
  · exact Res.keeps_next ((s.retireTo_roster _).trans hs)
  · exact Res.keeps_next (s.retire_roster.trans hs)

theorem execVloop_keeps (d : BitVec 6) (o : BitVec 19) : (execVloop d o s).Keeps ρ := by
  refine Res.keeps_next ?_
  split
  · exact (State.retireTo_roster _ _).trans hs
  · exact (State.retire_roster _).trans hs

variable (hf : ρ.Full) (hl : ρ.Live)
include hf hl

theorem execJalr_keeps (d a : BitVec 5) (i : BitVec 15) : (execJalr d a i s).Keeps ρ := by
  unfold execJalr
  dsimp only
  split
  · exact State.trapR_keeps _ _ hs hf hl
  · exact Res.keeps_next ((State.retireSTo_roster _ _).trans ((State.withMe_roster (Ctx.wg_badge _ _ _ _)).trans hs))

/-! ### Loads, stores and atomics -/

theorem State.load_keeps (d a : BitVec 5) (z : BitVec 2) (o : BitVec 13) (sgn ldc : Bool) : (s.load d a z o sgn ldc).Keeps ρ := by
  have hold (k : BitVec 4) (n : Nat) : Res.Keeps (.next (s.holdS k n)) ρ := State.holdS_keeps hs k n
  unfold State.load
  extract_lets ea size t
  split
  · exact hold _ _
  · split
    · exact hold _ _
    · split
      · exact State.placeTrap_keeps _ _ _ hs hf hl
      · exact hold _ _
      · extract_lets t
        have ht : t.roster = ρ := State.withMe_of_roster ((s.walked_roster _ _).trans hs) (State.roster_me hs :)
        refine Res.keeps_next ?_
        split
        · exact t.retireS_roster.trans ht
        · exact (t.holdS_roster _ _).trans ht

theorem execSt_keeps (x a : BitVec 5) (z : BitVec 2) (o : BitVec 13) : (execSt x a z o s).Keeps ρ := by
  unfold execSt
  extract_lets ea size
  split
  · exact State.holdS_keeps hs _ _
  · split
    · exact State.placeTrap_keeps _ _ _ hs hf hl
    · exact State.holdS_keeps hs _ _
    · exact Res.keeps_next ((State.retireS_roster _).trans
        (State.withMe_of_roster ((s.walked_roster ea true).trans hs) (State.roster_me hs :)))

theorem execMark_keeps : (execMark s).Keeps ρ :=
  State.raising_keeps _ hs hf hl (State.retireS_keeps hs rfl)

theorem execFence_keeps (sc : BitVec 3) : (execFence sc s).Keeps ρ := by
  refine State.raising_keeps _ hs hf hl ?_
  split
  · refine Res.keeps_next ((State.retireS_roster _).trans ?_)
    split
    · exact (s.release_roster _).trans hs
    · exact hs
  · exact State.holdS_keeps hs _ _

theorem State.amo_keeps (d a : BitVec 5) (z : BitVec 1) (tn : Bool) (new : W64 → Option W64) : (s.amo d a z tn new).Keeps ρ := by
  have fail (u : State) (hu : u.roster = ρ) (c : BitVec 7) (l : Loc) (ea : W64) (n : Nat) (cache : BitVec 2) :
      Res.Keeps (.next (({ u with me := u.me.amoErr d c ea }).logAccess c l ea n cache).retireS) ρ :=
    Res.keeps_next ((State.retireS_roster _).trans ((State.logAccess_roster _ _ _ _ _ _).trans hu))
  have done (u : State) (hu : u.roster = ρ) (got : Known) (old : W64) :
      Res.Keeps (.next ({ u with me := (u.me.acquire .s got).wg d old tn } : State).retireS) ρ :=
    State.retireS_keeps hu ((Ctx.wg_badge _ _ _ _).trans (Ctx.acquire_badge _ _ _))
  unfold State.amo
  extract_lets ea size cache s1 w order scope k
  split
  · exact State.placeTrap_keeps _ _ _ hs hf hl
  · exact State.holdS_keeps hs _ _
  · next l _ =>
    split
    · exact State.holdS_keeps hs _ _
    · have h1 : s1.roster = ρ := (s.walked_roster _ _).trans hs
      split
      · exact State.holdS_keeps hs _ _
      · exact fail s1 h1 _ _ _ _ _
      · next bs s2 hr =>
        have h2 : s2.roster = ρ := (State.locRead_roster hr).trans h1
        extract_lets old got s2' fin
        have h2' : s2'.roster = ρ := by
          unfold s2'
          split
          · exact (s2.release_roster _).trans h2
          · exact h2
        split
        · exact done _ h2' _ _
        · split
          · exact State.holdS_keeps hs _ _
          · exact fail _ h2' _ _ _ _ _
          · next s3 hw =>
            have h3 : s3.roster = ρ := (State.locWrite_roster (h2' ▸ hf) ((congrArg Prod.snd (State.roster_me h2')).trans hl) hw).trans h2'
            refine done _ ?_ _ _
            split
            · exact (State.bear_roster _ _ _ _ _ _ _).trans h3
            · exact h3

/-! ### Pointers, tokens, events and cuts -/

theorem execSpcGlobal_keeps (d a : BitVec 5) : (execSpcGlobal d a s).Keeps ρ := by
  unfold execSpcGlobal
  dsimp only
  split
  · exact State.trapR_keeps _ _ hs hf hl
  · exact State.putS_keeps hs _ _ _ _

theorem execSpcPrivate_keeps (d a : BitVec 5) : (execSpcPrivate d a s).Keeps ρ := by
  unfold execSpcPrivate
  dsimp only
  split
  · exact State.trapR_keeps _ _ hs hf hl
  · exact State.putS_keeps hs _ _ _ _

theorem execSpcTile_keeps (d a b : BitVec 5) : (execSpcTile d a b s).Keeps ρ := by
  unfold execSpcTile
  dsimp only
  split
  · exact State.trapR_keeps _ _ hs hf hl
  · exact State.putS_keeps hs _ _ _ _

theorem execSpcShared_keeps (d a b : BitVec 5) : (execSpcShared d a b s).Keeps ρ := by
  unfold execSpcShared
  dsimp only
  split
  · exact State.trapR_keeps _ _ hs hf hl
  · split
    · exact State.trapR_keeps _ _ hs hf hl
    · exact State.putS_keeps hs _ _ _ _

theorem execSpcOffset_keeps (d a : BitVec 5) : (execSpcOffset d a s).Keeps ρ := by
  unfold execSpcOffset
  dsimp only
  split
  · exact State.trapR_keeps _ _ hs hf hl
  · exact State.putS_keeps hs _ _ _ _

theorem execTokw_keeps (d : BitVec 5) (c : BitVec 4) : (execTokw d c s).Keeps ρ :=
  State.takeTok_keeps _ hs hf hl fun _ _ ht => (State.withMe_roster (Ctx.wg_badge _ _ _ _)).trans ht

theorem execSev_keeps (d : BitVec 5) (m : BitVec 8) : (execSev d m s).Keeps ρ := by
  unfold execSev
  dsimp only
  split
  · exact State.trapR_keeps _ _ hs hf hl
  · exact State.releasing_keeps hs (Res.keeps_next ((State.retireS_roster _).trans hs))

theorem State.arrive_roster (t : BitVec 3) : (s.arrive t).roster = ρ := by
  have h1 : (s.holdS 9 t.toNat).roster = ρ := (s.holdS_roster _ _).trans hs
  unfold State.arrive
  extract_lets u
  change u.roster = ρ at h1
  split
  · split
    · exact (State.raiseCopy_roster _ (h1 ▸ hf) (h1 ▸ hl)).trans h1
    · exact h1
  · exact h1

theorem execCut_keeps (t : BitVec 3) : (execCut t s).Keeps ρ := by
  unfold execCut
  split
  · exact State.trapR_keeps _ _ hs hf hl
  · refine State.raising_keeps _ hs hf hl ?_
    split
    · exact State.trapR_keeps _ _ hs hf hl
    · exact Res.keeps_next (State.arrive_roster hs hf hl _)

/-! ### Folios, tiles and the system -/

theorem execFolio_keeps (a b : BitVec 5) (i : BitVec 6) : (execFolio a b i s).Keeps ρ := by
  unfold execFolio
  split
  · exact State.trapR_keeps _ _ hs hf hl
  · exact State.retireS_keeps ((s.dropFrame_roster _ _).trans hs) rfl

theorem execTalloc_keeps (d a b : BitVec 5) (h : BitVec 8) : (execTalloc d a b h s).Keeps ρ := by
  unfold execTalloc
  split
  · exact State.trapR_keeps _ _ hs hf hl
  · split
    · exact State.trapR_keeps _ _ hs hf hl
    · exact State.retireS_keeps hs (Ctx.wg_badge _ _ _ _)

theorem execTfree_keeps (h : BitVec 8) : (execTfree h s).Keeps ρ := by
  unfold execTfree
  dsimp only
  split
  · exact State.trapR_keeps _ _ hs hf hl
  · split
    · exact State.holdS_keeps hs _ _
    · exact State.retireS_keeps hs rfl

theorem execTring_keeps (r : BitVec 5) (h c : BitVec 8) : (execTring r h c s).Keeps ρ := State.ring_keeps _ _ _ _ hs hf hl

theorem execCsrr_keeps (d : BitVec 5) (n : BitVec 12) : (execCsrr d n s).Keeps ρ := by
  unfold execCsrr
  split
  · exact State.trapR_keeps _ _ hs hf hl
  · exact State.putS_keeps hs _ _ _ _

theorem State.putCsr_keeps (n : BitVec 12) (v : W64) : (s.putCsr n v).Keeps ρ := by
  unfold State.putCsr
  split
  · exact State.trapR_keeps _ _ hs hf hl
  · exact State.trapR_keeps _ _ hs hf hl
  · next c hc => exact State.retireS_keeps hs (csrWrite_badge hc)

theorem execEret_keeps : (execEret s).Keeps ρ := by
  unfold execEret
  split
  · exact Res.keeps_next (s.eret_roster.trans hs)
  · exact State.trapR_keeps _ _ hs hf hl

theorem execHalt_keeps : (execHalt s).Keeps ρ := by
  refine State.raising_keeps _ hs hf hl ?_
  split
  · exact Res.keeps_next ((State.remove_roster _ _ (hs ▸ hf) (hs ▸ hl)).trans hs)
  · split
    · exact State.holdS_keeps hs _ _
    · exact Res.keeps_next hs

/-! ### The V stream -/

theorem execVfork_keeps : (execVfork s).Keeps ρ := State.lockstepOnly_keeps hs hf hl (Res.keeps_next hs)

theorem execVjoin_keeps : (execVjoin s).Keeps ρ := by
  unfold execVjoin
  split
  · exact State.clusterMode_keeps hs hf hl
  · have put (v : VState) : ({ s with me := { s.me with v := v } } : State).roster = ρ := hs
    dsimp only
    split
    · exact Res.keeps_next ((State.hold_roster _ _ _).trans (put _))
    · split
      · exact Res.keeps_next hs
      · refine Res.keeps_next ?_
        split
        · exact (State.takeTrapFrom_roster _ _ _ (put _ ▸ hf) (put _ ▸ hl)).trans (put _)
        · exact (State.trap_roster _ _ (hs ▸ hf) (hs ▸ hl)).trans hs

theorem execVsyw_keeps (n : BitVec 4) : (execVsyw n s).Keeps ρ := by
  refine State.wait_keeps _ _ hs hf hl fun u t hu h => ?_
  split at h
  · cases h
    exact (State.retire_roster _).trans hu
  · cases h

theorem execVtoks_keeps (x : BitVec 6) (c : BitVec 4) : (execVtoks x c s).Keeps ρ :=
  State.lockstepOnly_keeps hs hf hl (State.sendTok_keeps _ _ hs)

theorem execVtokw_keeps (d : BitVec 6) (c : BitVec 4) : (execVtokw d c s).Keeps ρ :=
  State.lockstepOnly_keeps hs hf hl (State.takeTok_keeps _ hs hf hl fun _ _ ht => putLanes_roster ht _ _)

theorem execVring_keeps (r : BitVec 2) (h c : BitVec 8) : (execVring r h c s).Keeps ρ :=
  State.lockstepOnly_keeps hs hf hl (State.ring_keeps _ _ _ _ hs hf hl)

theorem execVext_keeps (d a : BitVec 6) (k : BitVec 3) (n : BitVec 4) : (execVext d a k n s).Keeps ρ :=
  State.lockstepOnly_keeps hs hf hl (State.vRun_keeps _ hs)

end

/-! ### What is delivered to a context -/

section
variable {s : State} {ρ : Roster} (hs : s.roster = ρ)
include hs

theorem execCueReached_keeps : (execCueReached s).Keeps ρ := by
  unfold execCueReached
  dsimp only
  split
  · exact Res.keeps_next hs
  · refine Res.keeps_next (Eq.trans (State.withMe_roster ?_) hs)
    split <;> rfl

variable (hf : ρ.Full)
include hf

omit hf in
theorem execLoadDataReturn_keeps : (execLoadDataReturn s).Keeps ρ := by
  refine Res.keeps_next ?_
  unfold State.perform
  split
  · cases h : performLoad s with
    | none => exact hs
    | some t => exact (performLoad_roster h).trans hs
  · exact hs

theorem execStorePerform_keeps : (execStorePerform s).Keeps ρ := by
  refine Res.keeps_next ?_
  unfold State.perform
  split
  · next hr =>
    have hl : ρ.Live := hs ▸ State.live_of_ne fun h => by simp [h] at hr
    cases h : performStore s with
    | none => exact hs
    | some t => exact (performStore_roster (hs ▸ hf) (hs ▸ hl) h).trans hs
  · exact hs

theorem execSevDelivery_keeps : (execSevDelivery s).Keeps ρ := by
  unfold execSevDelivery
  split
  · exact Res.keeps_next hs
  · next f _ =>
    extract_lets t
    have ht : t.roster = ρ := hs
    split
    · exact Res.keeps_next ht
    · exact Res.keeps_next ((State.update_roster _ _ (ht ▸ hf) fun c => c.getEvents_badge _ _).trans ht)

theorem State.deliverTok_roster (ch : Nat) (x : Nat × Nat × BitVec 12 × OutTok) : (s.deliverTok ch x).roster = ρ := by
  unfold State.deliverTok
  extract_lets t
  have less : Ctx.Badged fun c => { c with sq := { c.sq with outq := c.sq.outq.erase x.2.2.2 } } := fun _ => rfl
  have ht : t.roster = ρ := (State.modCtx_roster less).trans hs
  split
  · exact ht
  · refine (State.update_roster _ _ (ht ▸ hf) fun c => ?_).trans ht
    cases h : c.pushTok (6 + ch) x.2.2.2.val x.2.2.2.known with
    | none => rfl
    | some d => exact Ctx.pushTok_badge h

theorem execCutArrival_keeps : (execCutArrival s).Keeps ρ := by
  unfold execCutArrival
  split
  · split
    · next h => exact Res.keeps_next (State.arrive_roster hs hf (hs ▸ live_of_running (by simp at h; exact h.1.1.2)) _)
    · exact Res.keeps_next hs
  · exact Res.keeps_next hs

end

theorem foldl_full_roster {α : Type} {f : State → α → State} (h : ∀ s a, s.roster.Full → (f s a).roster = s.roster) (l : List α)
    {s : State} (hf : s.roster.Full) : (l.foldl f s).roster = s.roster := by
  induction l generalizing s with
  | nil => rfl
  | cons a l ih => rw [List.foldl_cons, ih ((h s a hf).symm ▸ hf), h s a hf]

theorem execRemoteTokenDelivery_keeps {s : State} {ρ : Roster} (hs : s.roster = ρ) (hf : ρ.Full) :
    (execRemoteTokenDelivery s).Keeps ρ := by
  subst hs
  exact Res.keeps_next (foldl_full_roster (fun t ch ht => foldl_full_roster (fun u x hu => State.deliverTok_roster rfl hu _ _) _ ht) _ hf)

end Sys2Proof.Machine
end

section
/-! The contexts and a stream's turn, the hub's sequencer and the lottery (R63 to R71, R260 to R262, R284, R285). -/

namespace Sys2Proof.Machine

/-! ### A stream's turn -/

/-- What a stream's turn leads to keeps the contexts, and an instruction that is to execute has its context. -/
def Front.Safe (f : Front) : Prop := (∀ t, f = .stay t → t.ReelsHold) ∧ ∀ i t, f = .run i t → t.ReelsHold ∧ t.roster.Live

theorem Front.safe_stay {t : State} (h : t.ReelsHold) : Front.Safe (.stay t) := ⟨by rintro _ ⟨⟩; exact h, by rintro _ _ ⟨⟩⟩

theorem Front.safe_run {i : Instr} {t : State} (h : t.ReelsHold) (hl : t.roster.Live) : Front.Safe (.run i t) :=
  ⟨by rintro _ ⟨⟩, by rintro _ _ ⟨⟩; exact ⟨h, hl⟩⟩

section
variable {s : State} (hs : s.ReelsHold) (hl : s.roster.Live)
include hs hl

theorem interlock_safe (i : Instr) : (interlock s i).Safe := by
  unfold interlock
  split
  · exact Front.safe_stay (hs.roster (s.holdS_roster _ _))
  · split
    · exact Front.safe_stay (hs.roster (State.raiseS_roster _ hs.full hl))
    · exact Front.safe_run hs hl

theorem guardTest_safe (i : Instr) : (guardTest s i).Safe := by
  unfold guardTest
  split
  · exact Front.safe_run hs hl
  · split
    · exact Front.safe_run hs hl
    · extract_lets g t
      split
      · exact Front.safe_stay (hs.roster (s.hold_roster _ _))
      · have ht : t.roster = s.roster := rfl
        split
        · exact Front.safe_stay (hs.roster ((State.retire_roster _).trans ((State.freeRing_roster _).trans ht)))
        · have hu (k : Known) (st : Strm) : ((t.acquire k).setStrm st).roster = s.roster :=
            (State.setStrm_roster _ _).trans ((State.acquire_roster _ _).trans ht)
          exact Front.safe_run (hs.roster (hu _ _)) (hu _ _ ▸ hl)

end

theorem State.hasTurn_live {s : State} (h : s.hasTurn = true) : s.roster.Live := by
  simp only [State.hasTurn, Bool.and_eq_true] at h
  exact canIssue_live h.1.1.1.1.2

theorem front_safe {s : State} (id : BitVec 12) (st : Stream) (cl : BitVec 4) (hs : s.ReelsHold) : (front s id st cl).Safe := by
  unfold front
  split
  · exact Front.safe_stay hs
  · next s0 h0 =>
    have h1 : ({ s0 with cur := { st := st, cl := cl, inst := instOf id } } : State).ReelsHold :=
      ((State.focus_kin hs h0).reelsHold hs).roster rfl
    generalize ({ s0 with cur := { st := st, cl := cl, inst := instOf id } } : State) = u at h1
    extract_lets v
    split
    · exact Front.safe_stay h1
    · next hturn =>
      have hl := State.hasTurn_live (s := u) (by simpa using hturn)
      have hr := u.fetch_roster
      have trap (w : State) (hw : w.roster = u.roster) (c : BitVec 7) (x : W64) : Front.Safe (.stay (w.trap c x)) :=
        Front.safe_stay (h1.roster ((State.trap_roster _ _ (hw ▸ h1.full) (hw ▸ hl)).trans hw))
      split
      · next w hw => exact Front.safe_stay (h1.roster ((State.fetchHold_roster _).trans (by rw [hw] at hr; exact hr)))
      · next w hw => exact trap _ ((State.arriveAt_roster _).trans (by rw [hw] at hr; exact hr)) _ _
      · next x w hw =>
        extract_lets a
        have h2 : a.roster = u.roster := (State.arriveAt_roster _).trans (by rw [hw] at hr; exact hr)
        split
        · exact trap _ h2 _ _
        · split
          · exact trap _ h2 _ _
          · split
            · exact interlock_safe (h1.roster h2) (h2 ▸ hl) _
            · exact guardTest_safe (h1.roster h2) (h2 ▸ hl) _

/-! ### Status records and packets -/

theorem State.pushStatus_roster (s : State) (r : Status) : (s.pushStatus r).roster = s.roster := by
  unfold State.pushStatus
  dsimp only
  split <;> rfl

theorem State.status_roster (s : State) (code : BitVec 8) (tag : W16) (i : BitVec 4) (op : BitVec 8) (v : W64) :
    (s.status code tag i op v).roster = s.roster := by
  unfold State.status
  dsimp only
  split
  · rfl
  · exact s.pushStatus_roster _

theorem State.popStatus_roster (s : State) : s.popStatus.roster = s.roster := by
  unfold State.popStatus
  dsimp only
  split
  · exact State.pushStatus_roster _ _
  · rfl

theorem State.packetDone_roster (s : State) (i : BitVec 4) : (s.packetDone i).roster = s.roster := State.modInst_roster rfl

theorem State.packetStatus_roster (s : State) (i : BitVec 4) (p : Packet) (code : BitVec 8) (v : W64) :
    (s.packetStatus i p code v).roster = s.roster := (State.status_roster _ _ _ _ _ _).trans (s.packetDone_roster i)

theorem State.drawSeed_roster (s : State) (kind : Nat) (i : BitVec 4) (u take : Nat) : (s.drawSeed kind i u take).2.roster = s.roster := by
  exact (State.modInst_roster rfl).trans rfl

theorem State.pend_roster (s : State) (i : BitVec 4) (p : Packet) (seed : W128) (take : W64) : (s.pend i p seed take).roster = s.roster :=
  (State.packetDone_roster _ _).trans (State.modInst_roster rfl)

theorem insts_map_badge {v : Vector Inst 16} {f : Inst → Inst} (hf : ∀ x, (f x).badge = x.badge) :
    (v.map f).map Inst.badge = v.map Inst.badge := by
  rw [Vector.map_map]
  exact Vector.map_congr_left fun x _ => hf x

section
variable {s : State} {ρ : Roster} (hs : s.roster = ρ)
include hs

theorem execPacketEnqueue_keeps : (execPacketEnqueue s).Keeps ρ := by
  unfold execPacketEnqueue
  split
  · exact Res.keeps_next hs
  · dsimp only
    refine Res.keeps_next ?_
    split <;> exact hs

theorem execPacketDispatch_keeps : (execPacketDispatch s).Keeps ρ := by
  unfold execPacketDispatch
  split
  · exact Res.keeps_next hs
  · next p t _ =>
    split
    · exact Res.keeps_next hs
    · extract_lets n h u
      have hu : u.roster = ρ := (State.modInst_roster rfl).trans hs
      refine Res.keeps_next ?_
      split
      · exact hu
      · exact (u.status_roster _ _ _ _ _).trans hu

theorem State.withReel_keeps (op : Nat) {go : BitVec 4 → Packet → State} (hg : ∀ i p, (go i p).roster = ρ) : (s.withReel op go).Keeps ρ := by
  unfold State.withReel
  split
  · exact Res.keeps_next hs
  · refine Res.keeps_next ?_
    split
    · exact hg _ _
    · exact (s.packetStatus_roster _ _ _ _).trans hs

theorem execPushseed_keeps : (execPushseed s).Keeps ρ := by
  refine State.withReel_keeps hs _ fun i p => ?_
  split
  · split
    · exact (State.modInst_roster rfl).trans hs
    · exact (State.pend_roster _ _ _ _ _).trans ((s.drawSeed_roster _ _ _ _).trans hs)
  · exact (s.pend_roster _ _ _ _).trans hs

theorem execPopseed_keeps : (execPopseed s).Keeps ρ := State.withReel_keeps hs _ fun _ _ => (s.pend_roster _ _ _ _).trans hs
theorem execForkseed_keeps : (execForkseed s).Keeps ρ := State.withReel_keeps hs _ fun _ _ => (s.pend_roster _ _ _ _).trans hs
theorem execSetlevel_keeps : (execSetlevel s).Keeps ρ := State.withReel_keeps hs _ fun _ _ => (s.pend_roster _ _ _ _).trans hs

theorem execSignal_keeps : (execSignal s).Keeps ρ := by
  refine State.withReel_keeps hs _ fun i p => ?_
  split
  · exact (s.packetStatus_roster _ _ _ _).trans hs
  · exact (State.modInst_roster rfl).trans hs

theorem execSignalReport_keeps : (execSignalReport s).Keeps ρ := by
  unfold execSignalReport
  dsimp only
  split
  · split
    · exact Res.keeps_next ((s.packetStatus_roster _ _ _ _).trans hs)
    · exact Res.keeps_next hs
  · exact Res.keeps_next hs

theorem execEntropyHealthFailure_keeps : (execEntropyHealthFailure s).Keeps ρ :=
  Res.keeps_next ((State.elog_roster _ _ _ _ _ _ _).trans ((State.lifeInc_roster _ _).trans hs))

theorem execEntropyHealthPass_keeps : (execEntropyHealthPass s).Keeps ρ := by
  have go (x : Inst) : (if (match x.pkts with | p :: _ => p.op != 6 | [] => true) then { x with waiting := false } else x).badge = x.badge := by
    cases x.pkts with
    | nil => rfl
    | cons p l => dsimp only; split <;> rfl
  have hi := insts_map_badge (v := s.insts) go
  refine Res.keeps_next (Eq.trans ?_ hs)
  unfold State.roster
  exact congrArg (fun v => (⟨(s.me.id, s.me.life.exists), s.rest.map Ctx.badge, v, s.hub.retained.map Retained.badge⟩ : Roster)) hi

end

/-! ### The lottery -/

theorem State.setLot_roster (s : State) (u : Nat) (x : W32) : (s.setLot u x).roster = s.roster := by
  unfold State.setLot
  split <;> rfl

theorem State.restLottery_roster (s : State) : s.restLottery.roster = s.roster := by
  unfold State.restLottery
  split <;> rfl

theorem State.grantSequencer_roster (s : State) : s.grantSequencer.roster = s.roster := by
  have grant (u : State) (i : BitVec 4) : (u.modInst i fun x => { x with granted := true }).roster = u.roster := State.modInst_roster rfl
  unfold State.grantSequencer
  split
  · rfl
  · extract_lets r t
    split
    · rfl
    · next i _ =>
      have ht : t.roster = s.roster := s.setLot_roster _ _
      split
      · split
        · exact (t.packetStatus_roster _ _ _ _).trans ht
        · exact (grant t i).trans ht
      · exact ht

theorem State.grantPort_kin {s : State} (u b : Nat) (hs : s.ReelsHold) : (s.grantPort u b).Kin s := by
  unfold State.grantPort
  extract_lets q r t
  split
  · exact .refl s
  · next id _ =>
    have ht : t.Kin s := .of_roster (s.setLot_roster _ _)
    have hold := ht.reelsHold hs
    split
    · exact ht
    · next v hv =>
      have hk := (State.focus_kin hold hv).trans ht
      have hf := hk.reelsHold hs
      refine State.Kin.trans ?_ hk
      split
      · cases h : performLoad v with
        | none => exact .refl v
        | some w => exact .of_roster (performLoad_roster h)
      · cases h : performStore v with
        | none => exact .refl v
        | some w => exact .of_roster (performStore_roster hf.full (State.focus_me hold.full hv).2 h)

theorem State.grantStream_kin {s : State} (u sk : Nat) (hs : s.ReelsHold) : (s.grantStream u sk).Kin s := by
  have act (v : State) (e : BitVec 6) (out : Bool) : ({ v with me := v.me.portAct e out } : State).Kin v :=
    .of_roster (State.withMe_roster (Ctx.portAct_badge _ _ _))
  unfold State.grantStream
  extract_lets q r t
  split
  · exact .refl s
  · next id _ =>
    have ht : t.Kin s := .of_roster (s.setLot_roster _ _)
    split
    · exact ht
    · next v hv =>
      refine State.Kin.trans ?_ ((State.focus_kin (ht.reelsHold hs) hv).trans ht)
      split
      · exact .refl v
      · split
        · exact act v _ _
        · split
          · exact act v _ _
          · exact .refl v

theorem execLotteryGrant_safe {s : State} (u : BitVec 8) (hs : s.ReelsHold) : (execLotteryGrant u s).Safe := by
  have go (t : State) (n : Nat) (ht : t.ReelsHold) : Res.Safe
      (if n = 128 then .next t.grantSequencer
       else if 64 ≤ n then .next (if kindOf t.hub.product (n - 64) = .g then t.grantStream n (n - 64) else t)
       else match bIndex t.hub.product n with | some b => .next (t.grantPort n b) | none => .next t) := by
    split
    · exact Res.safe_next (ht.roster t.grantSequencer_roster)
    · split
      · refine Res.safe_next ?_
        split
        · exact (State.grantStream_kin _ _ ht).reelsHold ht
        · exact ht
      · split
        · exact Res.safe_next ((State.grantPort_kin _ _ ht).reelsHold ht)
        · exact Res.safe_next ht
  have skip (b : Prop) [Decidable b] (t : State) (ht : t.ReelsHold) (r : Res) (hr : r.Safe) : Res.Safe (if b then .next t else r) := by
    split
    · exact Res.safe_next ht
    · exact hr
  exact skip _ _ hs _ (go _ _ (hs.roster rfl))

end Sys2Proof.Machine
end

section
/-! The contexts and the cuts, the resume point among what they change (R118, R272, R273, R379). -/

namespace Sys2Proof.Machine

/-- Number i goes on to hold a reel, or none, and has a resume point that stands well. -/
theorem State.ReelsHold.modInst {s : State} {i : BitVec 4} {f : Inst → Inst} (hs : s.ReelsHold)
    (hh : (f (s.inst i)).holds = (s.inst i).holds)
    (hp : ∀ r, (f (s.inst i)).resume = some r → HeldWell s.holding i (r.ctxs.map Ctx.badge)) : (s.modInst i f).ReelsHold := by
  have hold : (s.modInst i f).holding = s.holding := by
    funext j
    unfold State.holding
    rw [State.modInst_inst]
    split
    · next h => rw [hh, h]
    · rfl
  rw [State.reelsHold_iff] at hs ⊢
  rw [hold]
  refine ⟨hs.proper, hs.held, fun j l hl => ?_, hs.region⟩
  unfold State.point at hl
  rw [State.modInst_inst] at hl
  split at hl
  · next h =>
    obtain ⟨r, hr, rfl⟩ := Option.map_eq_some_iff.mp hl
    exact h ▸ hp r hr
  · exact hs.points j l hl

theorem ProperBadges.filter {l : List (BitVec 12 × Bool)} (h : ProperBadges l) (p : BitVec 12 × Bool → Bool) : ProperBadges (l.filter p) :=
  ⟨h.1.filter _, fun b hb => h.2 b (List.mem_of_mem_filter hb)⟩

theorem State.snapshot_well {s : State} {i : BitVec 4} (hs : s.ReelsHold) (hi : s.holding i = true) :
    HeldWell s.holding i ((s.snapshot i).ctxs.map Ctx.badge) := by
  have hb : (s.snapshot i).ctxs.map Ctx.badge = s.badges.filter fun b => instOf b.1 == i := by
    unfold State.badges
    rw [List.filter_map]
    rfl
  rw [hb]
  exact ⟨((State.reelsHold_iff s).mp hs).proper.filter _, hi, fun b hm => by simpa using (List.mem_filter.mp hm).2⟩

theorem State.mark_reelsHold {s : State} {i : BitVec 4} (hs : s.ReelsHold) (hi : s.holding i = true) : (s.mark i).ReelsHold := by
  refine hs.modInst rfl fun r hr => ?_
  dsimp only at hr
  split at hr
  · cases hr
    exact State.snapshot_well hs hi
  · cases hr

theorem State.drainCut_reelsHold {s : State} {i : BitVec 4} (hs : s.ReelsHold) (hi : s.holding i = true) : (s.drainCut i).ReelsHold := by
  unfold State.drainCut
  split
  · have h1 : (s.modInst i fun x => { x with resume := some (s.snapshot i) }).ReelsHold := by
      refine hs.modInst rfl fun r hr => ?_
      cases hr
      exact State.snapshot_well hs hi
    exact h1.roster rfl
  · exact hs

theorem State.mark_holding (s : State) (i : BitVec 4) : (s.mark i).holding = s.holding := by
  funext j
  unfold State.mark State.holding
  rw [State.modInst_inst]
  split
  · next h => rw [h]
  · rfl

/-! ### Completion -/

theorem State.sendTokens_roster (s : State) (ids : List (BitVec 12)) (id : BitVec 12) : (s.sendTokens ids id).roster = s.roster :=
  State.modCtx_roster fun _ => rfl

theorem Ctx.cutDone_badge (c : Ctx) (t : BitVec 3) (cc : Nat) : (c.cutDone t cc).badge = c.badge := by
  unfold Ctx.cutDone
  split
  · rfl
  · dsimp only
    split <;> rfl

theorem Ctx.acquireAll_badge (c : Ctx) (k : Known) : (c.acquireAll k).badge = c.badge := rfl

theorem State.changed_roster (s : State) (i : BitVec 4) (c : Change) (seed : W128) {f : Inst → Inst} (code : BitVec 8) (v : W64)
    (hf : ∀ x, (f x).badge = x.badge) : (s.changed i c seed f code v).roster = s.roster :=
  (State.status_roster _ _ _ _ _ _).trans (State.modInst_roster (hf _))

theorem State.applyChange_roster (s : State) (i : BitVec 4) (c : Change) : (s.applyChange i c).roster = s.roster := by
  have depth (n : W64) : (s.status 6 c.tag i c.op n).roster = s.roster := s.status_roster _ _ _ _ _
  have changed (seed : W128) (f : Inst → Inst) (code : BitVec 8) (v : W64) (hf : ∀ x, (f x).badge = x.badge) :
      (s.changed i c seed f code v).roster = s.roster := s.changed_roster i c seed code v hf
  unfold State.applyChange
  extract_lets x code dep push none_
  have hpush (seed : W128) : (push seed).roster = s.roster := by
    unfold push
    split
    · exact depth _
    · exact changed _ _ _ _ fun _ => rfl
  split
  · exact hpush _
  · split
    · exact depth _
    · exact changed _ _ _ _ fun _ => rfl
  · exact hpush _
  · exact changed _ _ _ _ fun _ => rfl

theorem State.applyPending_roster (s : State) (i : BitVec 4) : (s.applyPending i).roster = s.roster :=
  (foldl_roster (fun s c => s.applyChange_roster i c) _ _).trans (State.modInst_roster rfl)

theorem State.setLevel_roster (s : State) (i : BitVec 4) : (s.setLevel i).roster = s.roster := by
  refine Eq.trans (State.mapCtxs_roster fun c => ?_) (State.modInst_roster rfl)
  split <;> rfl

theorem Inst.noteChange_badge (x : Inst) (n : RunChange) : (x.noteChange n).badge = x.badge := rfl

theorem State.reclass_roster (s : State) (i : BitVec 4) : (s.reclass i).roster = s.roster := by
  unfold State.reclass
  dsimp only
  split
  · rfl
  · refine State.modInst_roster ?_
    split
    · rfl
    · exact Inst.noteChange_badge _ _

theorem State.moveAll_kin {s : State} (i : BitVec 4) (t : Vector W32 208) (hs : s.ReelsHold) : (s.moveAll i t).Kin s := by
  unfold State.moveAll
  extract_lets moved u v
  have hu : u.Kin s := by
    unfold u
    split
    · exact .refl s
    · exact .of_roster (s.demote_roster i)
  have hv : v.Kin u := by
    refine foldl_kin (fun w id hw => State.within_kin hw fun x hx _ hl => ?_) _ (hu.reelsHold hs)
    exact .of_roster (State.save_roster _ rfl hx.full hl)
  exact .trans (.of_roster (State.modInst_roster rfl)) (hv.trans hu)

theorem State.rejoin_kin {s : State} (i : BitVec 4) (hs : s.ReelsHold) : (s.rejoin i).Kin s := by
  unfold State.rejoin
  split
  · exact State.moveAll_kin i _ hs
  · exact .refl s

theorem State.packageCut_reelsHold {s : State} {i : BitVec 4} (hs : s.ReelsHold) (hi : s.holding i = true) : (s.packageCut i).ReelsHold := by
  let u := (((s.rejoin i).reclass i).applyPending i).setLevel i
  have hu : u.Kin s :=
    .trans (.of_roster ((State.setLevel_roster _ _).trans ((State.applyPending_roster _ _).trans (State.reclass_roster _ _)))) (State.rejoin_kin i hs)
  have hui : u.holding i = true := hu.holding ▸ hi
  change ((u.mark i).drainCut i).ReelsHold
  clear_value u
  exact State.drainCut_reelsHold (State.mark_reelsHold (hu.reelsHold hs) hui) ((congrFun (u.mark_holding i) i).trans hui)

theorem State.completeCut_reelsHold {s : State} {i : BitVec 4} (t : BitVec 3) (hs : s.ReelsHold) (hi : s.holding i = true) :
    (s.completeCut i t).ReelsHold := by
  unfold State.completeCut
  extract_lets ids s1 known s2 s3 lvl
  have h1 : s1.roster = s.roster := foldl_roster (fun u id => u.sendTokens_roster _ id) _ _
  have h2 : s2.roster = s1.roster := by
    refine foldl_full_roster (fun u id hu => State.update_roster _ _ hu fun c => ?_) _ (h1 ▸ hs.full)
    exact (Ctx.acquireAll_badge _ _).trans (c.cutDone_badge _ _)
  have h3 : s3.roster = s.roster := (State.modInst_roster rfl).trans (h2.trans h1)
  have hk : s3.Kin s := .of_roster h3
  split
  · exact State.packageCut_reelsHold (hk.reelsHold hs) (hk.holding ▸ hi)
  · exact hk.reelsHold hs

/-- One whose cut is complete holds a reel: one of its contexts is at the cut. -/
theorem State.holding_of_allArrived {s : State} {i : BitVec 4} {t : BitVec 3} (hs : s.ReelsHold) (h : s.allArrived i t = true) :
    s.holding i = true := by
  simp only [State.allArrived, Bool.and_eq_true, List.any_eq_true] at h
  obtain ⟨-, c, hc, -⟩ := h
  have hm := List.mem_filter.mp hc
  have hi : instOf c.id = i := eq_of_beq (Bool.and_eq_true_iff.mp hm.2).1
  exact hi ▸ hs.2.1 c hm.1

theorem execCutComplete_safe {s : State} (t : BitVec 3) (hs : s.ReelsHold) : (execCutComplete t s).Safe := by
  unfold execCutComplete
  dsimp only
  split
  · exact Res.safe_next hs
  · next f _ =>
    have hu : ({ s with cuts := s.cuts.erase f } : State).ReelsHold := hs.roster rfl
    refine Res.safe_next ?_
    split
    · next ha => exact State.completeCut_reelsHold t hu (State.holding_of_allArrived hu ha)
    · exact hu

/-! ### The cycle -/

theorem State.startCuts_roster (s : State) : s.startCuts.roster = s.roster := rfl

theorem Ctx.tick_badge (c : Ctx) : c.tick.badge = c.badge := by
  unfold Ctx.tick
  split <;> rfl

theorem State.scrubMem_roster (s : State) (b blk : Nat) (hbm : Bool) : (s.scrubMem b blk hbm).roster = s.roster :=
  (foldl_roster (fun s _ => s.logBad_roster _ _) _ _).trans (s.meet_roster _ _)

theorem State.scrubCore_roster (s : State) (c : Ctx) (blk : Nat) (priv : Bool) : (s.scrubCore c blk priv).roster = s.roster :=
  (foldl_roster (fun s _ => s.elog_roster _ _ _ _ _ _) _ _).trans (s.meetWords_roster _ _ _ _)

theorem State.scrub_roster (s : State) : s.scrub.roster = s.roster := by
  unfold State.scrub
  split
  · rfl
  · extract_lets tier u
    have ht (hbm : Bool) (v : State) (b : Nat) : (tier hbm v b).roster = v.roster := by
      unfold tier
      split
      · exact v.scrubMem_roster _ _ _
      · rfl
    have hu : u.roster = s.roster := foldl_roster (fun v b => (ht _ _ _).trans (ht _ _ _)) _ _
    split
    · exact (foldl_roster (fun v c => (State.scrubCore_roster _ _ _ _).trans (v.scrubCore_roster _ _ _)) _ _).trans hu
    · exact hu

theorem doCycle_roster (s : State) : (doCycle s).roster = s.roster := by
  unfold doCycle
  split
  · rfl
  · have h1 : (s.flushImages.startCuts.mapCtxs Ctx.tick).roster = s.roster :=
      (State.mapCtxs_roster Ctx.tick_badge).trans ((State.startCuts_roster _).trans s.flushImages_roster)
    exact (State.scrub_roster _).trans h1

end Sys2Proof.Machine
end

section
/-! The contexts as a reel comes and goes: what launch adds, and what retirement takes away (R262 to R265). -/

namespace Sys2Proof.Machine

/-! ### The hub's record -/

theorem foldl_hub_retained {α : Type} {f : Hub → α → Hub} (hf : ∀ h a, (f h a).retained = h.retained) (l : List α) (h : Hub) :
    (l.foldl f h).retained = h.retained := by
  induction l generalizing h with
  | nil => rfl
  | cons a l ih => rw [List.foldl_cons, ih, hf]

theorem State.withHub_roster (s : State) {h : Hub} (hr : h.retained = s.hub.retained) : ({ s with hub := h } : State).roster = s.roster := by
  unfold State.roster
  dsimp only
  rw [hr]

/-! ### Without the retention region -/

/-- What `State.ReelsHold` says of a state, its retention region apart. -/
def State.Bare (s : State) : Prop := Sound s.badges s.holding s.point none

theorem State.ReelsHold.bare {s : State} (hs : s.ReelsHold) : s.Bare := by
  obtain ⟨hp, hh, hr, -⟩ := (State.reelsHold_iff s).mp hs
  exact ⟨hp, hh, hr, nofun⟩

theorem State.Bare.reelsHold {s : State} (hs : s.Bare) (hr : s.hub.retained = none) : s.ReelsHold := by
  have : s.region = none := by rw [State.region, hr]; rfl
  rw [State.reelsHold_iff, this]
  exact hs

/-- Apart from the retention region, one state is of the kin of another. -/
structure State.Alike (t s : State) : Prop where
  badges : t.badges.Perm s.badges
  holding : t.holding = s.holding
  point : t.point = s.point

theorem State.Kin.alike {s t : State} (h : t.Kin s) : t.Alike s := ⟨h.badges, h.holding, h.point⟩

theorem State.Alike.trans {s t u : State} (h : u.Alike t) (g : t.Alike s) : u.Alike s :=
  ⟨h.badges.trans g.badges, h.holding.trans g.holding, h.point.trans g.point⟩

theorem State.Alike.bare {s t : State} (h : t.Alike s) (hs : s.Bare) : t.Bare := by
  unfold State.Bare at hs ⊢
  rw [h.holding, h.point]
  exact ⟨hs.proper.perm h.badges, fun b hm => hs.held b (h.badges.subset hm), hs.points, hs.region⟩

/-! ### A reel goes -/

theorem State.dropReel_badges (s : State) (i : BitVec 4) : (s.dropReel i).badges = s.badges.filter fun b => instOf b.1 != i := by
  have hc : (s.dropReel i).ctxs = s.ctxs.filter fun c => instOf c.id != i := by
    have hne (id : BitVec 12) : (!(instOf id == i)) = (instOf id != i) := rfl
    unfold State.dropReel State.ctxs
    dsimp only
    by_cases hi : instOf s.me.id = i
    · by_cases hl : s.me.life = .none
      · simp [hi, hl, hne]
      · simp [hi, hl, hne]
    · by_cases hl : s.me.life = .none
      · simp [hi, hl, hne]
      · simp [hi, hl, hne]
  unfold State.badges
  rw [hc, List.filter_map]
  rfl

theorem State.modInst_holding (s : State) (i : BitVec 4) (f : Inst → Inst) :
    (s.modInst i f).holding = fun j => if j = i then (f (s.inst i)).holds else s.holding j := by
  funext j
  unfold State.holding
  rw [State.modInst_inst]
  split <;> rfl

theorem State.modInst_point (s : State) (i : BitVec 4) (f : Inst → Inst) :
    (s.modInst i f).point = fun j => if j = i then (f (s.inst i)).resume.map fun r => r.ctxs.map Ctx.badge else s.point j := by
  funext j
  unfold State.point
  rw [State.modInst_inst]
  split <;> rfl

/-- What holds no reel any more loses its contexts with it. -/
theorem State.Bare.drop {s t : State} {i : BitVec 4} {f : Inst → Inst} (hs : s.Bare) (hh : (f (s.inst i)).holds = false)
    (hr : (f (s.inst i)).resume = none) (ht : t.Alike (s.modInst i f)) : (t.dropReel i).Bare := by
  have hhold : (t.dropReel i).holding = fun j => if j = i then false else s.holding j := by
    refine Eq.trans (b := t.holding) rfl ?_
    rw [ht.holding, State.modInst_holding, hh]
  have hpoint : (t.dropReel i).point = fun j => if j = i then none else s.point j := by
    refine Eq.trans (b := t.point) rfl ?_
    rw [ht.point, State.modInst_point, hr]
    rfl
  have hb : (t.dropReel i).badges.Perm (s.badges.filter fun b => instOf b.1 != i) := by
    rw [State.dropReel_badges]
    exact ht.badges.filter _
  unfold State.Bare
  rw [hhold, hpoint]
  refine ⟨(hs.proper.filter _).perm hb, fun b hm => ?_, fun j l hl => ?_, nofun⟩
  · obtain ⟨h1, h2⟩ := List.mem_filter.mp (hb.subset hm)
    rw [if_neg (by simpa using h2)]
    exact hs.held b h1
  · split at hl
    · cases hl
    · next hj =>
      obtain ⟨hp, hh, hi⟩ := hs.points j l hl
      exact ⟨hp, by dsimp only; rw [if_neg hj]; exact hh, hi⟩

/-! ### Contexts join -/

theorem ProperBadges.append {l m : List (BitVec 12 × Bool)} (hl : ProperBadges l) (hm : ProperBadges m)
    (h : ∀ a ∈ l, ∀ b ∈ m, a.1 ≠ b.1) : ProperBadges (l ++ m) :=
  ⟨List.pairwise_append.mpr ⟨hl.1, hm.1, h⟩, fun b hb => (List.mem_append.mp hb).elim (hl.2 b) (hm.2 b)⟩

/-- Contexts with those badges have joined the state. -/
structure State.Joined (t s : State) (l : List (BitVec 12 × Bool)) : Prop where
  badges : t.badges.Perm (l ++ s.badges)
  holding : t.holding = s.holding
  point : t.point = s.point
  region : t.region = s.region

theorem State.Joined.cons {s t u : State} {l : List (BitVec 12 × Bool)} {b : BitVec 12 × Bool} (h : u.Joined t l)
    (g : t.Joined s [b]) : u.Joined s (b :: l) where
  badges := h.badges.trans (((List.perm_append_left_iff l).mpr g.badges).trans List.perm_middle)
  holding := h.holding.trans g.holding
  point := h.point.trans g.point
  region := h.region.trans g.region

theorem foldl_joined {α : Type} {f : State → α → State} {g : α → BitVec 12 × Bool} {l : List α}
    (hf : ∀ a ∈ l, ∀ t, (f t a).Joined t [g a]) (s : State) : (l.foldl f s).Joined s (l.map g) := by
  induction l generalizing s with
  | nil => exact ⟨.refl _, rfl, rfl, rfl⟩
  | cons a l ih => exact (ih (fun b hb => hf b (List.mem_cons_of_mem _ hb)) (f s a)).cons (hf a List.mem_cons_self s)

theorem State.Joined.sound {s t : State} {i : BitVec 4} {l : List (BitVec 12 × Bool)} (h : t.Joined s l)
    (hs : Sound s.badges s.holding s.point s.region) (hl : HeldWell s.holding i l) (hi : ∀ b ∈ s.badges, instOf b.1 ≠ i) :
    Sound t.badges t.holding t.point t.region := by
  obtain ⟨hp, hh, hin⟩ := hl
  rw [h.holding, h.point, h.region]
  refine ⟨(hp.append hs.proper fun a ha b hb he => hi b hb (he ▸ hin a ha)).perm h.badges, fun b hb => ?_, hs.points, hs.region⟩
  obtain hm | hm := List.mem_append.mp (h.badges.subset hb)
  · rw [hin b hm]; exact hh
  · exact hs.held b hm

/-- A context joins the list. -/
theorem State.insert_joined (s : State) {c : Ctx} (hc : c.life.exists = true) :
    ({ s with rest := insertCtx c s.rest } : State).Joined s [(c.id, true)] := by
  refine ⟨?_, rfl, rfl, rfl⟩
  have hb : c.badge = (c.id, true) := Prod.ext rfl hc
  have hr : ((insertCtx c s.rest).map Ctx.badge).Perm ((c.id, true) :: s.rest.map Ctx.badge) := hb ▸ (insertCtx_perm c s.rest).map _
  unfold State.badges State.ctxs
  dsimp only
  split
  · exact hr
  · exact (hr.cons s.me.badge).trans (.swap _ _ _)

theorem State.Joined.then {s t u : State} {l : List (BitVec 12 × Bool)} (h : t.Joined s l) (hu : u.Kin t) : u.Joined s l :=
  ⟨hu.badges.trans h.badges, hu.holding.trans h.holding, hu.point.trans h.point, hu.region.trans h.region⟩

/-! ### The hub's accesses -/

/-- What an access of the hub leads to has that roster. -/
def HubAns.Keeps (r : HubAns) (ρ : Roster) : Prop := (∀ t, r = .bad t → t.roster = ρ) ∧ ∀ bs t, r = .ok bs t → t.roster = ρ

theorem hubReadPieces_keeps (l : List (Nat × Nat)) (i : BitVec 4) (s : State) : (hubReadPieces s i l).Keeps s.roster := by
  induction l generalizing s with
  | nil => grind [hubReadPieces, HubAns.Keeps]
  | cons p l ih => grind [hubReadPieces, HubAns.Keeps, State.countWalk_roster, State.globRead_roster, State.logFail_roster]

theorem hubRead_keeps (s : State) (i : BitVec 4) (va n : Nat) : (hubRead s i va n).Keeps s.roster := hubReadPieces_keeps _ _ _

theorem hubWritePieces_keeps (l : List (Nat × Nat)) (i : BitVec 4) (wr : Bool) (w : Writer) (bs : List Byte) (s : State) :
    (hubWritePieces s i wr w l bs).Keeps s.roster := by
  induction l generalizing s bs with
  | nil => grind [hubWritePieces, HubAns.Keeps]
  | cons p l ih => grind [hubWritePieces, HubAns.Keeps, State.countWalk_roster, State.globWrite_roster, State.logFail_roster]

theorem loadSections_keeps (l : List Section) (i : BitVec 4) (done : List Nat) (s : State) : (loadSections s i l done).Keeps s.roster := by
  induction l generalizing s done with
  | nil => grind [loadSections, HubAns.Keeps]
  | cons x l ih =>
    have hw := hubWritePieces_keeps (piecesOf x.vaddr x.data.length) i false hubWriter x.data s
    grind [loadSections, HubAns.Keeps]

/-! ### Launch -/

theorem applyTile_badge {c d : Ctx} {r : List Byte} (h : applyTile c r = some d) : d.badge = c.badge := by
  unfold applyTile at h
  dsimp only at h
  split at h
  · cases h
  · split at h
    · cases h
    · obtain ⟨b, -, rfl⟩ := Option.map_eq_some_iff.mp h
      rfl

theorem applyFolio_badge {c d : Ctx} {r : List Byte} (h : applyFolio c r = some d) : d.badge = c.badge := by
  unfold applyFolio at h
  dsimp only at h
  split at h
  · cases h
  · cases h; rfl

theorem applyE_badge {c d : Ctx} {x : Section} (h : applyE c x = some d) : d.badge = c.badge := by
  unfold applyE at h
  dsimp only at h
  split at h
  · cases h
  · cases h; rfl

theorem foldlM_badge {α : Type} {f : Ctx → α → Option Ctx} (hf : ∀ c d a, f c a = some d → d.badge = c.badge) {l : List α} {c d : Ctx}
    (h : l.foldlM f c = some d) : d.badge = c.badge := by
  induction l generalizing c with
  | nil => cases h; rfl
  | cons a l ih =>
    rw [List.foldlM_cons] at h
    obtain ⟨e, he, h⟩ := Option.bind_eq_some_iff.mp h
    exact (ih h).trans (hf c e a he)

theorem applyAll_badge {l : List Section} {type size : Nat} {f : Ctx → List Byte → Option Ctx} {c d : Ctx}
    (hf : ∀ c d r, f c r = some d → d.badge = c.badge) (h : applyAll l type size f c = some d) : d.badge = c.badge :=
  foldlM_badge (fun _ _ _ h => foldlM_badge hf h) h

theorem loadCtx_badge {l : List Section} {c d : Ctx} (h : loadCtx l c = some d) : d.badge = c.badge := by
  unfold loadCtx at h
  dsimp only at h
  obtain ⟨c1, h1, h⟩ := Option.bind_eq_some_iff.mp h
  obtain ⟨c2, h2, h⟩ := Option.bind_eq_some_iff.mp h
  obtain ⟨c3, h3, h⟩ := Option.bind_eq_some_iff.mp h
  cases h
  have e1 := applyAll_badge (fun _ _ _ h => applyTile_badge h) h1
  have e2 := applyAll_badge (fun _ _ _ h => applyFolio_badge h) h2
  have e3 := foldlM_badge (fun _ _ _ h => applyE_badge h) h3
  exact (e3.trans (e2.trans e1) :)

theorem State.install_joined (s : State) {c : Ctx} (hc : c.life.exists = true) : (s.install c).Joined s [(c.id, true)] := by
  unfold State.install
  dsimp only
  split
  · exact s.insert_joined hc
  · exact (s.insert_joined (c := { c with life := .saved }) rfl).then (.of_roster (State.putImage_roster _ _ _))

theorem State.seedLottery_roster (s : State) (i : BitVec 4) (lvl : BitVec 2) (x : W32) : (s.seedLottery i lvl x).roster = s.roster := by
  unfold State.seedLottery
  split
  · rfl
  · refine Eq.trans (foldl_roster (fun t u => ?_) _ _) rfl
    exact (State.withHub_roster _ rfl).trans (t.drawSeed_roster 3 i u 0)

/-- The contexts that a launch creates stand well where a reel is held. -/
theorem launched_well {holds : BitVec 4 → Bool} {i : BitVec 4} {f : Nat → Option Ctx} (hi : holds i = true)
    (hf : ∀ n c, f n = some c → c.id = ctxIdOf i n) : HeldWell holds i (((List.range 208).filterMap f).map fun c => (c.id, true)) := by
  have bound {c : Ctx} {n : Nat} (hn : n ∈ List.range 208) (h : f n = some c) : n < 208 ∧ c.id = ctxIdOf i n :=
    ⟨List.mem_range.mp hn, hf n c h⟩
  refine ⟨⟨?_, ?_⟩, hi, ?_⟩
  · rw [List.pairwise_map]
    refine List.Pairwise.filterMap (R := fun a b : Nat => a < b ∧ b < 208) f (fun a b hab c hc d hd he => ?_)
      (List.Pairwise.imp_of_mem (fun _ hb hab => ⟨hab, List.mem_range.mp hb⟩) List.pairwise_lt_range)
    obtain ⟨hlt, hb⟩ := hab
    rw [hf a c hc, hf b d hd] at he
    exact absurd (ctxIdOf_core_inj (by omega) (by omega) he) (by omega)
  · intro b hb
    obtain ⟨c, hc, rfl⟩ := List.mem_map.mp hb
    obtain ⟨n, hn, h⟩ := List.mem_filterMap.mp hc
    obtain ⟨hlt, hid⟩ := bound hn h
    exact ⟨rfl, by rw [hid, lcoreOf_ctxIdOf i n (by omega)]; exact hlt⟩
  · intro b hb
    obtain ⟨c, hc, rfl⟩ := List.mem_map.mp hb
    obtain ⟨n, hn, h⟩ := List.mem_filterMap.mp hc
    obtain ⟨hlt, hid⟩ := bound hn h
    exact (congrArg instOf hid).trans (instOf_ctxIdOf i n (by omega))

/-- One of the instances takes up a reel: it has no context yet, nor a resume point. -/
theorem State.Bare.hold {s : State} {i : BitVec 4} {f : Inst → Inst} (hs : s.Bare) (hh : (f (s.inst i)).holds = true)
    (hr : (f (s.inst i)).resume = none) : (s.modInst i f).Bare := by
  have more (j : BitVec 4) (hj : s.holding j = true) : (s.modInst i f).holding j = true := by
    rw [State.modInst_holding]
    dsimp only
    split
    · exact hh
    · exact hj
  refine ⟨hs.proper, fun b hb => more _ (hs.held b hb), fun j l hl => ?_, nofun⟩
  rw [State.modInst_point] at hl
  dsimp only at hl
  split at hl
  · rw [hr] at hl; cases hl
  · obtain ⟨hp, hj, hin⟩ := hs.points j l hl
    exact ⟨hp, more _ hj, hin⟩

/-- Where no reel is held, there is no context. -/
theorem State.ReelsHold.none_of_empty {s : State} {i : BitVec 4} (hs : s.ReelsHold) (hi : (s.inst i).holds = false) :
    ∀ b ∈ s.badges, instOf b.1 ≠ i := by
  intro b hb he
  obtain ⟨c, hc, rfl⟩ := List.mem_map.mp hb
  have := hs.2.1 c hc
  rw [show instOf c.id = i from he, hi] at this
  cases this

/-- Contexts that stand well join. -/
theorem State.installs_reelsHold {u : State} {i : BitVec 4} {l : List Ctx} (hu : u.ReelsHold) (hb : ∀ b ∈ u.badges, instOf b.1 ≠ i)
    (hl : ∀ c ∈ l, c.life.exists = true) (hw : HeldWell u.holding i (l.map fun c => (c.id, true))) :
    (l.foldl State.install u).ReelsHold ∧ (l.foldl State.install u).holding i = true := by
  have hj : (l.foldl State.install u).Joined u (l.map fun c => (c.id, true)) :=
    foldl_joined (f := State.install) (g := fun c => (c.id, true)) (fun c hc v => v.install_joined (hl c hc)) u
  exact ⟨(State.reelsHold_iff _).mpr (hj.sound ((State.reelsHold_iff u).mp hu) hw hb), (congrFun hj.holding i).trans hw.2.1⟩

theorem State.startReel_reelsHold {s : State} {i : BitVec 4} (p : Packet) (b : Slate) (img : List Byte) (l : List Section)
    (t : Vector W32 208) (hs : s.ReelsHold) (hi : (s.inst i).holds = false) : (s.startReel i p b img l t).ReelsHold := by
  unfold State.startReel
  extract_lets sh cls none_ lvl first s1 r s2 s3 new h s4
  have h1 : s1.Bare := hs.bare.hold rfl rfl
  have hold1 : s1.holding i = true := by
    rw [State.modInst_holding]
    exact if_pos rfl
  have h2 : s2.roster = s1.roster := by
    unfold s2
    split
    · exact (State.modInst_roster rfl).trans (s1.drawSeed_roster _ _ _ _)
    · rfl
  have h3 : s3.roster = s1.roster := by
    unfold s3
    split
    · exact (s2.seedLottery_roster _ _ _).trans h2
    · exact h2
  have hk : s3.Alike s1 := (State.Kin.of_roster h3).alike
  have hb : ∀ b ∈ s3.badges, instOf b.1 ≠ i := fun b hb => hs.none_of_empty hi b (hk.badges.subset hb)
  have hbare := hk.bare h1
  have hold3 := (congrFun hk.holding i).trans hold1
  clear_value s3
  let u : State := { s3 with hub := { s3.hub with retained := none } }
  have hu : u.ReelsHold := State.Bare.reelsHold (s := u) hbare rfl
  have loaded (n : Nat) (c : Ctx) (hc : loadCtx l (freshCtx s3 i b lvl cls n) = some c) : c.badge = (ctxIdOf i n, true) := loadCtx_badge hc
  have hl : ∀ c ∈ new, c.life.exists = true := by
    intro c hc
    obtain ⟨n, -, hn⟩ := List.mem_filterMap.mp hc
    exact congrArg Prod.snd (loaded n c hn)
  have hw : HeldWell u.holding i (new.map fun c => (c.id, true)) := launched_well hold3 fun n c hc => congrArg Prod.fst (loaded n c hc)
  clear_value new
  obtain ⟨h4, hold4⟩ := State.installs_reelsHold hu hb hl hw
  exact (State.mark_reelsHold h4 hold4).roster (State.packetStatus_roster _ _ _ _ _)

theorem State.launchImage_reelsHold {s : State} {i : BitVec 4} (p : Packet) (b : Slate) (hs : s.ReelsHold)
    (hi : (s.inst i).holds = false) : (s.launchImage i p b).ReelsHold := by
  have status (u : State) (hu : u.roster = s.roster) (code : BitVec 8) (v : W64) : (u.packetStatus i p code v).ReelsHold :=
    hs.roster ((u.packetStatus_roster _ _ _ _).trans hu)
  unfold State.launchImage
  extract_lets reject va
  split
  · exact hs
  · next u hu => exact status u ((hubRead_keeps _ _ _ _).1 u hu) _ _
  · split
    · exact hs
    · next u hu => exact status u ((hubRead_keeps _ _ _ _).1 u hu) _ _
    · next img s1 h1 =>
      have h1 : s1.roster = s.roster := (hubRead_keeps _ _ _ _).2 _ _ h1
      split
      · exact status s1 h1 _ _
      · next l _ =>
        extract_lets s2
        have h2 : s2.roster = s.roster := (s1.countWalks_roster _).trans h1
        clear_value s2
        split
        · exact hs
        · split
          · exact status s2 h2 _ _
          · split
            · exact status s2 h2 _ _
            · split
              · exact hs.roster (State.modInst_roster rfl)
              · split
                · exact hs
                · next u hu => exact status u (((loadSections_keeps _ _ _ _).1 u hu).trans h2) _ _
                · next bs u hu =>
                  have h3 : u.roster = s.roster := ((loadSections_keeps _ _ _ _).2 _ u hu).trans h2
                  have hi' : (u.inst i).holds = false := (congrFun (State.Kin.of_roster h3).holding i).trans hi
                  exact State.startReel_reelsHold p b img l _ (hs.roster h3) hi'

theorem execLaunch_safe {s : State} (hs : s.ReelsHold) : (execLaunch s).Safe := by
  unfold execLaunch
  split
  · exact Res.safe_next hs
  · next p _ =>
    have status (u : State) (hu : u.roster = s.roster) (code : BitVec 8) (v : W64) : (u.packetStatus s.cur.inst p code v).ReelsHold :=
      hs.roster ((u.packetStatus_roster _ _ _ _).trans hu)
    refine Res.safe_next ?_
    split
    · exact status s rfl _ _
    · next hi =>
      split
      · exact status s rfl _ _
      · split
        · exact hs
        · next u hu => exact status u ((hubRead_keeps _ _ _ _).1 u hu) _ _
        · next bs u hu =>
          have h1 : u.roster = s.roster := (hubRead_keeps _ _ _ _).2 _ u hu
          have hi' : (u.inst s.cur.inst).holds = false :=
            (congrFun (State.Kin.of_roster h1).holding _).trans (Bool.eq_false_iff.mpr hi)
          split
          · exact status u h1 _ _
          · split
            · exact State.launchImage_reelsHold p _ (hs.roster h1) hi'
            · exact hs.roster (State.modInst_roster rfl)

/-! ### Retirement -/

theorem State.writeRecord_roster {s t : State} {i : BitVec 4} (h : s.writeRecord i = .ok t) : t.roster = s.roster := by
  unfold State.writeRecord at h
  dsimp only at h
  split at h
  · cases h; rfl
  · split at h
    · next u hu => cases h; exact (State.lifeInc_roster _ _).trans (State.globWrite_roster hu)
    · next hr => exact absurd h (hr t)

theorem State.keepStats_retained (s : State) (i : BitVec 4) : (s.keepStats i).hub.retained = s.hub.retained := by
  refine foldl_hub_retained (fun h c => ?_) _ _
  dsimp only
  split <;> rfl

theorem State.keepStats_roster (s : State) (i : BitVec 4) : (s.keepStats i).roster = s.roster := s.withHub_roster (s.keepStats_retained i)

theorem State.retireReel_reelsHold {s t : State} {i : BitVec 4} (hs : s.ReelsHold) (h : s.retireReel i = .ok t) : t.ReelsHold := by
  have gone (u v : State) (hu : u.roster = s.roster) (f : Inst → Inst) (hh : ∀ x, (f x).holds = false) (hr : ∀ x, (f x).resume = none)
      (hv : v = { u with hub := { u.hub with retained := none } }) : ((((v.modInst i f).keepStats i).dropReel i).restLottery).ReelsHold := by
    have hb : v.Bare := by
      subst hv
      exact (State.Kin.of_roster hu).alike.bare hs.bare
    have hd := hb.drop (hh _) (hr _) (State.Kin.of_roster ((v.modInst i f).keepStats_roster i)).alike
    have hn : (((v.modInst i f).keepStats i).dropReel i).hub.retained = none := by
      refine ((v.modInst i f).keepStats_retained i).trans ?_
      subst hv
      rfl
    exact (hd.reelsHold hn).roster (State.restLottery_roster _)
  unfold State.retireReel at h
  extract_lets x take s1 s2 at h
  have h1 : s1.roster = s.roster := (foldl_roster (fun u c => u.status_roster _ _ _ _ _) _ _).trans (s.flushInst_roster i)
  have h2 : s2.roster = s.roster := (State.modInst_roster rfl).trans h1
  split at h
  · next u hu =>
    have h3 : u.roster = s.roster := (State.writeRecord_roster hu).trans h2
    cases h
    exact gone _ _ ((State.status_roster _ _ _ _ _ _).trans ((u.flushInst_roster i).trans h3)) _ (fun _ => rfl) (fun _ => rfl) rfl
  · next hr => exact absurd h (hr t)

theorem execReelRetirement_safe {s : State} (hs : s.ReelsHold) : (execReelRetirement s).Safe := by
  unfold execReelRetirement
  dsimp only
  split
  · exact Res.safe_next hs
  · split
    · rintro _ ⟨⟩
    · split
      · next t ht => exact Res.safe_next (State.retireReel_reelsHold hs ht)
      · exact Res.safe_next hs
      · refine Res.safe_next ?_
        split
        · next t ht =>
          have h1 : (s.modInst s.cur.inst fun x => { x with runrec := 0 }).ReelsHold := hs.roster (State.modInst_roster rfl)
          exact (State.retireReel_reelsHold h1 ht).roster (State.modInst_roster rfl)
        · exact hs

end Sys2Proof.Machine
end

section
/-! The contexts and the dies, the switches of contexts, the host's commands and the migration engine (R270, R305, R334, R353). -/

namespace Sys2Proof.Machine

/-! ### Die operations -/

theorem Hub.putMods_retained (h : Hub) (s : Nat) (mask up failed : BitVec 8) : (h.putMods s mask up failed).retained = h.retained := rfl

theorem Hub.fence_retained (h : Hub) (sk : Nat) : (h.fence sk).retained = h.retained := by
  unfold Hub.fence
  refine (foldl_hub_retained (fun x p => ?_) _ _).trans rfl
  rfl

theorem Hub.retrainDie_retained (h : Hub) (sk : Nat) (t : BitVec 8) : (h.retrainDie sk t).retained = h.retained := by
  unfold Hub.retrainDie
  extract_lets f own _ h'
  have hh : h'.retained = h.retained := by
    unfold h'
    split <;> rfl
  refine (foldl_hub_retained (fun x p => ?_) _ _).trans hh
  split <;> rfl

theorem Ctx.losePort_badge (c : Ctx) (r : Nat) : (c.losePort r).badge = c.badge := rfl

theorem State.portDown_roster (s : State) (p : Nat) : (s.portDown p).roster = s.roster := by
  unfold State.portDown
  extract_lets v t u
  split
  · rfl
  · refine (State.msi_roster _ _).trans ((State.elog_roster _ _ _ _ _ _ _).trans ?_)
    unfold u
    split
    · next r _ => exact (State.mapCtxs_roster fun c => c.losePort_badge r).trans rfl
    · rfl

theorem State.quiesce_roster (s : State) (d : DieOp) : (s.quiesce d).roster = s.roster := by
  unfold State.quiesce
  extract_lets sk u h v
  have hu : u.roster = s.roster := by
    unfold u
    split
    · next b _ => exact (s.flushDie_roster b :)
    · rfl
  have hv : v.roster = s.roster := (State.withHub_roster u (by exact (Hub.fence_retained _ _).trans rfl)).trans hu
  clear_value v
  split
  · exact (foldl_roster (fun t i => t.portDown_roster _) _ _).trans hv
  · exact hv

theorem State.settleDie_roster (s : State) : s.settleDie.roster = s.roster := by
  unfold State.settleDie
  split
  · rfl
  · next d _ =>
    extract_lets moving hosts d' u
    have hu : u.roster = s.roster := by
      unfold u
      split
      · exact foldl_roster (fun t p => State.modInst_roster rfl) _ _
      · rfl
    clear_value u
    split
    · exact hu
    · exact (u.quiesce_roster _).trans hu

theorem State.commitDone_roster (s : State) : s.commitDone.roster = s.roster := by
  unfold State.commitDone
  split
  · rfl
  · split
    · rfl
    · extract_lets u
      have hu : u.roster = s.roster := State.modInst_roster rfl
      clear_value u
      exact hu

/-! ### Switches -/

theorem State.restoreMe_roster {s : State} (hl : s.roster.Live) : s.restoreMe.roster = s.roster := by
  unfold State.restoreMe
  extract_lets u fs slot
  have hu : u.roster = s.roster := s.readImage_roster _
  have put (c : Ctx) (hi : c.id = u.me.id) (hc : c.life.exists = true) : ({ u with me := c } : State).roster = s.roster :=
    (State.withLive_roster (hu ▸ hl) hi hc).trans hu
  exact put _ rfl rfl

theorem execContextRestore_keeps {s : State} {ρ : Roster} (hs : s.roster = ρ) : (execContextRestore s).Keeps ρ := by
  unfold execContextRestore
  dsimp only
  split
  · exact Res.keeps_next hs
  · next h =>
    have hl : s.roster.Live := State.live_of_ne fun hn => by simp [hn] at h
    exact Res.keeps_next ((State.restoreMe_roster hl).trans hs)

theorem State.switchTo_kin {s : State} (id : BitVec 12) (hs : s.ReelsHold) (hl : s.roster.Live) : (s.switchTo id).Kin s := by
  unfold State.switchTo
  extract_lets u
  have hu : u.Kin s := .of_roster (State.save_roster _ rfl hs.full hl)
  split
  · next t ht =>
    have hold := hu.reelsHold hs
    exact .trans (.of_roster (State.restoreMe_roster (State.focus_me hold.full ht).2)) ((State.focus_kin hold ht).trans hu)
  · exact hu

theorem State.sliceSwitch_safe {s : State} (demotes : Bool) (hs : s.ReelsHold) (hl : s.roster.Live) : (s.sliceSwitch demotes).Safe := by
  have hd : (if demotes then s.demote (instOf s.me.id) else s).roster = s.roster := by
    split
    · exact s.demote_roster _
    · rfl
  unfold State.sliceSwitch
  split
  · exact Res.safe_next hs
  · split
    · exact Res.safe_next hs
    · rintro _ ⟨⟩
    · have h1 := hs.roster hd
      exact Res.safe_next ((State.switchTo_kin _ h1 (hd ▸ hl)).reelsHold h1)

theorem execSliceSwitch_safe {s : State} (hs : s.ReelsHold) : (execSliceSwitch s).Safe := by
  unfold execSliceSwitch
  split
  · next h => exact State.sliceSwitch_safe _ hs (live_of_running (by simp at h; exact h.1))
  · exact Res.safe_next hs

theorem execWaitHoldExpiry_safe {s : State} (hs : s.ReelsHold) : (execWaitHoldExpiry s).Safe := by
  unfold execWaitHoldExpiry
  split
  · next h => exact State.sliceSwitch_safe _ hs (live_of_running (by simp at h; exact h.1.1))
  · exact Res.safe_next hs

theorem State.saveLate_live {s : State} (h : s.saveLate s.me = true) : s.roster.Live := by
  unfold State.saveLate at h
  split at h
  · simp at h
    exact live_of_running h.1.1
  · exact absurd h (by decide)

section
variable {s : State} {ρ : Roster} (hs : s.roster = ρ) (hf : ρ.Full)
include hs hf

theorem execPreemption_keeps : (execPreemption s).Keeps ρ := by
  unfold execPreemption
  split
  · exact Res.keeps_next hs
  · next h =>
    have hl : s.roster.Live := live_of_running (by simp at h; exact h.1.1.1)
    have hd := s.demote_roster (instOf s.me.id)
    split
    · rintro _ ⟨⟩
    · exact Res.keeps_next ((State.settleDie_roster _).trans
        ((State.save_roster _ rfl (hd ▸ hs ▸ hf) (hd ▸ hl)).trans (hd.trans hs)))

theorem execQuiesceSaveTimeout_keeps : (execQuiesceSaveTimeout s).Keeps ρ := by
  unfold execQuiesceSaveTimeout
  split
  · exact Res.keeps_next hs
  · split
    · next h =>
      exact Res.keeps_next ((State.settleDie_roster _).trans ((State.remove_roster _ _ (hs ▸ hf) (State.saveLate_live h)).trans hs))
    · exact Res.keeps_next hs

theorem execBoundOverrun_keeps : (execBoundOverrun s).Keeps ρ := by
  unfold execBoundOverrun
  split
  · exact Res.keeps_next hs
  · next h =>
    have hl : s.roster.Live := live_of_running (by simp at h; exact h.1)
    split
    · exact Res.keeps_next hs
    · exact Res.keeps_next ((State.takeTrapFrom_roster _ _ _ (hs ▸ hf) hl).trans hs)

omit hs hf in
theorem Ctx.badged_trap (f : TrapState → TrapState) : Ctx.Badged fun c => { c with t := f c.t } := fun _ => rfl

theorem State.updateTrap_roster (f : TrapState → TrapState) (segs : Ctx → List (Nat × List Byte)) :
    (s.update s.me.id (fun c => { c with t := f c.t }) segs).roster = ρ :=
  hs ▸ State.update_roster _ segs (hs ▸ hf) (Ctx.badged_trap f)

theorem execWatchpointMatch_keeps : (execWatchpointMatch s).Keeps ρ := by
  unfold execWatchpointMatch
  split
  · exact Res.keeps_next hs
  · extract_lets u report
    have hu : u.roster = ρ := hs
    refine Res.keeps_next ?_
    clear_value u
    clear_value report
    split
    · exact hu
    · exact State.updateTrap_roster hu hf _ _

theorem execWatchpoint_keeps : (execWatchpoint s).Keeps ρ := by
  unfold execWatchpoint
  split
  · exact Res.keeps_next hs
  · split
    · exact Res.keeps_next hs
    · next h =>
      have hl : s.roster.Live := live_of_running (by simp at h; exact h.1.1.1.1)
      have trap (u : State) (hu : u.roster = s.roster) (v : W64) : (u.takeTrapFrom none 0x58 v).roster = ρ :=
        (State.takeTrapFrom_roster _ _ _ (hu ▸ hs ▸ hf) (hu ▸ hl)).trans (hu.trans hs)
      exact Res.keeps_next (trap { s with me := { s.me with t := { s.me.t with wpend := none } } } rfl _)

end

/-! ### The host's commands to a context -/

theorem execCtxcmdResume_safe {s : State} (hs : s.ReelsHold) : (execCtxcmdResume s).Safe := by
  unfold execCtxcmdResume
  split
  · exact Res.safe_next hs
  · refine Res.safe_next ((State.within_kin hs fun t ht _ hl => ?_).reelsHold hs)
    split
    · exact .refl t
    · extract_lets u
      have hu : u.roster = t.roster := State.refresh_roster _ ht.full
      have put (c : Ctx) (hi : c.id = u.me.id) (hc : c.life.exists = true) : ({ u with me := c } : State).roster = t.roster :=
        (State.withLive_roster (hu ▸ hl) hi hc).trans hu
      exact .of_roster ((State.putImage_roster _ _ _).trans ((State.resume_roster _).trans (put _ rfl rfl)))

theorem execCtxcmdRemove_safe {s : State} (hs : s.ReelsHold) : (execCtxcmdRemove s).Safe := by
  unfold execCtxcmdRemove
  split
  · exact Res.safe_next hs
  · refine Res.safe_next ((State.within_kin hs fun t ht _ hl => ?_).reelsHold hs)
    split
    · have done (u : State) (hu : u.roster = t.roster) : (u.finishRemoval 0x53 0).roster = t.roster :=
        (State.finishRemoval_roster _ _ (hu ▸ ht.full) (hu ▸ hl)).trans hu
      exact .of_roster (done _ (State.refresh_roster _ ht.full))
    · split
      · exact .refl t
      · exact .of_roster (State.remove_roster _ _ ht.full hl)

theorem execFolresp_safe {s : State} (hs : s.ReelsHold) : (execFolresp s).Safe := by
  unfold execFolresp
  dsimp only
  split
  · exact Res.safe_next hs
  · refine Res.safe_next ((State.within_kin hs fun t ht _ hl => ?_).reelsHold hs)
    split
    · split
      · exact .refl t
      · split
        · exact .of_roster rfl
        · split
          · exact .of_roster rfl
          · exact .of_roster (State.takeTrapFrom_roster (s := { t with me := t.me.dropLoad }) _ _ _ ht.full hl)
    · exact .refl t

/-! ### Migration -/

theorem State.startMove_roster (s : State) (b f : Nat) : (s.startMove b f).roster = s.roster := by
  unfold State.startMove
  split
  · rfl
  · split <;> rfl

theorem startMoves_roster (b : Nat) (l : List Nat) (s : State) : (startMoves b l s).roster = s.roster :=
  foldl_roster (fun t f => t.startMove_roster b f) _ _

theorem State.countPage_roster (s : State) (f n : Nat) : (s.countPage f n).roster = s.roster := by
  unfold State.countPage
  split
  · rfl
  · exact foldl_roster (fun t k => t.countGranule_roster _) _ _

theorem Ctx.follow_badge (c : Ctx) (m : PageMove) : (c.follow m).badge = c.badge := rfl

theorem Inst.follow_badge (x : Inst) (m : PageMove) : ({ x with resume := x.resume.map fun r => r.follow m } : Inst).badge = x.badge := by
  unfold Inst.badge
  dsimp only
  rw [Option.map_map]
  rfl

theorem State.withInsts_roster (s : State) {v : Vector Inst 16} (k : List Mark) (h : v.map Inst.badge = s.insts.map Inst.badge) :
    ({ s with insts := v, marks := k } : State).roster = s.roster := by
  unfold State.roster
  dsimp only
  rw [h]

theorem State.setFrameFree_roster (s : State) (b f : Nat) (v : Bool) : (s.setFrameFree b f v).roster = s.roster := rfl

theorem State.withMemory_roster (s : State) (mem : Mem) (l : List Line) (p : List Nat) (f : List (Nat × Bool)) :
    ({ s with mem := mem, sram := l, poison := p, flips := f } : State).roster = s.roster := rfl

theorem State.movePage_roster (s : State) (m : PageMove) : (s.movePage m).roster = s.roster := by
  unfold State.movePage
  extract_lets b bytes s1 s2 leaf new mem s3 s4 d s5 s6
  have h2 : s2.roster = s.roster := (State.sramWrite_roster _ _ _ _ _).trans ((State.countPage_roster _ _ _).trans (State.countPage_roster _ _ _))
  have h3 : s3.roster = s.roster := (State.withMemory_roster s2 _ _ _ _).trans h2
  have h4 : s4.roster = s.roster := (State.setFrameFree_roster _ _ _ _).trans ((State.setFrameFree_roster s3 _ _ _).trans h3)
  have h5 : s5.roster = s.roster := (State.withMemory_roster s4 _ _ _ _).trans h4
  have h6 : s6.roster = s.roster := (State.mapCtxs_roster fun c => c.follow_badge m).trans h5
  clear_value s6
  exact (State.withInsts_roster s6 _ (insts_map_badge fun x => x.follow_badge m)).trans h6

section
variable {s : State} {ρ : Roster} (hs : s.roster = ρ)
include hs

theorem execPageMigration_keeps (b : BitVec 4) (f : BitVec 23) : (execPageMigration b f s).Keeps ρ := by
  have start (l : List MigReq) (b f : Nat) : (({ s with migReqs := l } : State).startMove b f).roster = ρ := (State.startMove_roster _ _ _).trans hs
  unfold execPageMigration
  extract_lets fr up hot st
  split
  · exact Res.keeps_next hs
  · split
    · refine Res.keeps_next ?_
      split
      · exact hs
      · exact start _ _ _
    · split
      · exact Res.keeps_next hs
      · split
        · exact Res.keeps_next hs
        · exact Res.keeps_next (start _ _ _)

theorem execMigrationEpochEnd_keeps (b : BitVec 4) : (execMigrationEpochEnd b s).Keeps ρ := by
  unfold execMigrationEpochEnd
  dsimp only
  split
  · exact Res.keeps_next hs
  · split
    · exact Res.keeps_next hs
    · exact Res.keeps_next ((startMoves_roster _ _ _).trans hs)

theorem execPageMoveComplete_keeps : (execPageMoveComplete s).Keeps ρ := by
  unfold execPageMoveComplete
  split
  · exact Res.keeps_next hs
  · extract_lets u bad n v
    have hv : v.roster = ρ := (State.meet_roster _ _ _).trans hs
    clear_value v
    refine Res.keeps_next ?_
    split
    · exact (v.countPage_roster _ _).trans hv
    · exact (State.lifeInc_roster _ _).trans ((v.movePage_roster _).trans hv)

theorem State.reply_roster (pkg : W16) (code : BitVec 2) (bs : List Byte) : (s.reply pkg code bs).roster = ρ := hs

theorem State.countGranules_roster (l : List Nat) : (l.foldl (fun s l => s.countGranule (l * 128)) s).roster = ρ :=
  (foldl_roster (fun t _ => t.countGranule_roster _) _ _).trans hs

theorem State.logRemote_roster (pa n : Nat) : (s.logRemote pa n).roster = ρ := by
  unfold State.logRemote
  extract_lets at_
  exact (State.logBad_roster _ _ _).trans ((State.meet_roster _ _ _).trans (State.countGranules_roster hs _))

theorem execRemoteReadRequest_keeps (b : BitVec 4) (pkg : BitVec 16) (a : BitVec 36) (n : BitVec 24) :
    (execRemoteReadRequest b pkg a n s).Keeps ρ := by
  have reply (u : State) (hu : u.roster = ρ) (c : BitVec 2) (bs : List Byte) : Res.Keeps (.next (u.reply pkg c bs)) ρ := Res.keeps_next hu
  unfold execRemoteReadRequest
  extract_lets pa serves t
  split
  · exact Res.keeps_next hs
  · split
    · exact reply s hs _ _
    · split
      · exact reply s hs _ _
      · split
        · exact Res.keeps_next hs
        · split
          · exact reply _ (State.logRemote_roster hs _ _) _ _
          · exact reply _ ((State.meet_roster _ _ _).trans (State.countGranules_roster hs _)) _ _

theorem execPeerRequest_keeps (pkg : BitVec 16) (p : BitVec 5) (wr : Bool) (a : BitVec 56) (n : BitVec 24) (bs : List (BitVec 8)) :
    (execPeerRequest pkg p wr a n bs s).Keeps ρ := by
  have reply (u : State) (hu : u.roster = ρ) (c : BitVec 2) (bs : List Byte) : Res.Keeps (.next (u.reply pkg c bs)) ρ := Res.keeps_next hu
  unfold execPeerRequest
  extract_lets m
  split
  · exact Res.keeps_next hs
  · split
    · exact reply s hs _ _
    · next w _ =>
      have hk : (if wr then hubWritePieces s (w.1.extractLsb' 56 4) true { kind := 4, pkg := pkg, own := false } (piecesOf a.toNat m) bs
          else hubReadPieces s (w.1.extractLsb' 56 4) (piecesOf a.toNat m)).Keeps ρ := by
        rw [← hs]
        split
        · exact hubWritePieces_keeps _ _ _ _ _ _
        · exact hubReadPieces_keeps _ _ _
      dsimp only
      split
      · exact Res.keeps_next hs
      · split
        · exact reply s hs _ _
        · split
          · exact Res.keeps_next hs
          · next t ht => exact reply _ (hk.1 _ ht) _ _
          · next bs t ht => exact reply _ (hk.2 _ _ ht) _ _

theorem execPatrolScrub_keeps (unit : BitVec 2) (b : BitVec 8) (blk : BitVec 31) : (execPatrolScrub unit b blk s).Keeps ρ := by
  unfold execPatrolScrub
  dsimp only
  split
  · exact Res.keeps_next hs
  · split
    · generalize (_ && _ : Bool) = due
      cases due
      · exact Res.keeps_next hs
      · exact Res.keeps_next ((s.scrubMem_roster _ _ _).trans hs)
    · generalize (_ && _ : Bool) = due
      cases due
      · exact Res.keeps_next hs
      · exact Res.keeps_next ((s.scrubCore_roster _ _ _).trans hs)

end

end Sys2Proof.Machine
end

section
/-! The contexts and the host's accesses: what it reads, and the registers and tables it writes (R297, R304, R352, R360 to R363, R389). -/

namespace Sys2Proof.Machine

theorem Hub.release_retained (h : Hub) : h.release.retained = h.retained := rfl

theorem State.hostMove_roster (s : State) (b : Nat) (v : W64) : (s.hostMove b v).roster = s.roster := by
  unfold State.hostMove
  dsimp only
  split
  · rfl
  · exact (State.startMove_roster _ _ _).trans rfl

theorem State.bdieWrite_roster (s : State) (f : Nat → W64 → BDie → BDie) : (s.bdieWrite f).roster = s.roster := by
  unfold State.bdieWrite
  dsimp only
  split
  · split
    · rfl
    · exact s.modBdie_roster _ _
  · rfl

/-! ### Invalidations -/

theorem State.rewatch_roster (s : State) (v : W64) : (s.rewatch v).roster = s.roster := by
  refine foldl_roster (fun t p => ?_) _ _
  split
  · rfl
  · refine foldl_roster (fun u n => ?_) _ _
    split
    · exact u.installWp_roster _ _
    · rfl

/-! ### The remap table -/

theorem Inst.badge_congr {x y : Inst} (hh : x.holds = y.holds) (hr : x.resume = y.resume) : x.badge = y.badge := by
  unfold Inst.badge
  rw [hh, hr]

theorem State.entryWrite_roster (s : State) (b : Bus) : (s.entryWrite b).roster = s.roster := by
  have put (i : BitVec 4) (f : Inst → Inst) (hf : ∀ x, (f x).badge = x.badge) : (s.modInst i f).roster = s.roster :=
    State.modInst_roster (hf _)
  unfold State.entryWrite
  dsimp only
  split
  · rfl
  · split
    · exact put _ _ fun _ => Inst.badge_congr rfl rfl
    · exact put _ _ fun _ => Inst.badge_congr rfl rfl

theorem State.commit_roster (s : State) (i : BitVec 4) : (s.commit i).roster = s.roster := by
  unfold State.commit
  extract_lets x h fail
  have hf : fail.roster = s.roster := State.withHub_roster s rfl
  clear_value fail
  split
  · exact hf
  · split
    · exact (State.modInst_roster rfl).trans hf
    · exact State.withHub_roster s rfl

theorem State.remapWrite_roster (s : State) (b : Bus) : (s.remapWrite b).roster = s.roster := by
  unfold State.remapWrite
  dsimp only
  split
  · exact State.withHub_roster s rfl
  · split
    · exact s.commit_roster _
    · exact s.entryWrite_roster b

theorem State.releaseRemap_roster (s : State) : s.releaseRemap.roster = s.roster :=
  (foldl_roster State.remapWrite_roster _ _).trans (State.withHub_roster s rfl)

/-! ### Die operations -/

theorem State.dieStart_roster (s : State) (op : BitVec 2) (sk : Nat) : (s.dieStart op sk).roster = s.roster := by
  unfold State.dieStart
  extract_lets h tables d
  exact (State.settleDie_roster _).trans (State.withHub_roster s rfl)

theorem State.dieWrite_roster (s : State) (v : W64) : (s.dieWrite v).roster = s.roster := by
  have hub (h : Hub) (hr : h.retained = s.hub.retained) : ({ s with hub := h } : State).roster = s.roster := s.withHub_roster hr
  unfold State.dieWrite
  extract_lets sk op d
  split
  · exact hub _ rfl
  · split
    · exact hub _ rfl
    · split
      · rfl
      · split
        · exact s.dieStart_roster _ _
        · split
          · rfl
          · exact hub _ rfl

theorem State.dieEnds_roster (s : State) (d : DieOp) (pass : Bool) (trained : BitVec 8) : (s.dieEnds d pass trained).roster = s.roster := by
  unfold State.dieEnds
  extract_lets sk back h t u
  have hh : h.retained = s.hub.retained := by
    unfold h
    split
    · rfl
    · exact s.hub.retrainDie_retained _ _
  clear_value h
  have ht : t.roster = s.roster := s.withHub_roster hh
  clear_value t
  have hu : u.roster = s.roster := by
    unfold u
    split
    · exact (t.lifeInc_roster _).trans ht
    · exact ht
  clear_value u
  exact (State.elog_roster _ _ _ _ _ _ _).trans ((u.msi_roster _).trans hu)

theorem State.hubRegWrite_roster (s : State) (off : Nat) (v : W64) : (s.hubRegWrite off v).roster = s.roster := by
  have hub (h : Hub) (hr : h.retained = s.hub.retained) : ({ s with hub := h } : State).roster = s.roster := s.withHub_roster hr
  unfold State.hubRegWrite
  extract_lets h k k' w w'
  split
  · rfl
  · split
    · exact State.modInst_roster rfl
    · split
      · exact State.modInst_roster rfl
      · split
        · exact hub _ rfl
        · split
          · exact hub _ rfl
          · split
            · exact State.modInst_roster rfl
            · split
              · exact hub _ rfl
              · split
                · exact s.dieWrite_roster v
                · rfl

section
variable {s : State} {ρ : Roster} (hs : s.roster = ρ)
include hs

omit hs in
theorem State.withPorts_roster (s : State) (v : Vector VxPort 18) : ({ s with ports := v } : State).roster = s.roster := rfl

theorem State.nextHub_keeps {h : Hub} (hr : h.retained = s.hub.retained) : Res.Keeps (.next { s with hub := h }) ρ :=
  Res.keeps_next ((s.withHub_roster hr).trans hs)

theorem State.returns_roster (v : W64) : (s.returns v).roster = ρ := (s.withHub_roster rfl).trans hs

theorem State.hubWrite_keeps {f : W64 → Hub → Hub} (hf : ∀ v h, (f v h).retained = h.retained) : (s.hubWrite f).Keeps ρ := by
  refine Res.keeps_next ?_
  split
  · exact (s.withHub_roster (hf _ _)).trans hs
  · exact hs

theorem State.nextBdieWrite_keeps (f : Nat → W64 → BDie → BDie) : Res.Keeps (.next (s.bdieWrite f)) ρ :=
  Res.keeps_next ((s.bdieWrite_roster f).trans hs)

/-! ### Reads that have an effect -/

theorem execStatqRead_keeps : (execStatqRead s).Keeps ρ := by
  refine Res.keeps_next ?_
  split
  · exact (State.popStatus_roster _).trans (State.returns_roster hs _)
  · exact State.returns_roster hs _

theorem execFolreqRead_keeps : (execFolreqRead s).Keeps ρ := by
  refine Res.keeps_next ?_
  split
  · exact (State.withHub_roster (s.hostRead 0x918) rfl).trans (State.returns_roster hs _)
  · exact State.returns_roster hs _

theorem execElogqRead_keeps : (execElogqRead s).Keeps ρ := by
  refine Res.keeps_next ?_
  split
  · exact (State.withHub_roster (s.hostRead 0xB18) rfl).trans (State.returns_roster hs _)
  · exact State.returns_roster hs _

/-! ### Writes -/

theorem execElogcntWrite_keeps : (execElogcntWrite s).Keeps ρ := State.hubWrite_keeps hs fun _ _ => rfl

theorem execPkgidWrite_keeps : (execPkgidWrite s).Keeps ρ := State.hubWrite_keeps hs fun _ _ => by split <;> rfl

theorem execColltabWrite_keeps : (execColltabWrite s).Keeps ρ := State.hubWrite_keeps hs fun _ _ => by split <;> rfl

theorem execFuncmodeWrite_keeps : (execFuncmodeWrite s).Keeps ρ := State.hubWrite_keeps hs fun _ _ => rfl

theorem execPwrctlWrite_keeps : (execPwrctlWrite s).Keeps ρ := State.hubWrite_keeps hs fun _ _ => rfl

theorem execBoctlWrite_keeps : (execBoctlWrite s).Keeps ρ := State.hubWrite_keeps hs fun _ _ => rfl

theorem execXlinv_keeps : (execXlinv s).Keeps ρ := State.hubWrite_keeps hs fun _ _ => by split <;> rfl

theorem execPchashWrite_keeps : (execPchashWrite s).Keeps ρ := by
  unfold execPchashWrite
  extract_lets off b mask t
  have ht : t.roster = ρ := (s.bdieWrite_roster _).trans hs
  clear_value t
  refine Res.keeps_next ?_
  split
  · exact ht
  · exact (State.withMemory_roster t _ _ _ _).trans ht

theorem execHbmctlWrite_keeps : (execHbmctlWrite s).Keeps ρ := State.nextBdieWrite_keeps hs _

theorem execPccntWrite_keeps : (execPccntWrite s).Keeps ρ := State.nextBdieWrite_keeps hs _

theorem execSramctlWrite_keeps : (execSramctlWrite s).Keeps ρ := State.nextBdieWrite_keeps hs _

theorem execMigctlWrite_keeps : (execMigctlWrite s).Keeps ρ := State.nextBdieWrite_keeps hs _

theorem execMigcmd_keeps : (execMigcmd s).Keeps ρ := by
  unfold execMigcmd
  dsimp only
  split
  · refine Res.keeps_next ?_
    split
    · exact hs
    · exact (s.hostMove_roster _ _).trans hs
  · exact Res.keeps_next hs

theorem execVxportWrite_keeps : (execVxportWrite s).Keeps ρ := by
  unfold execVxportWrite
  extract_lets off p v x u
  have hu : u.roster = ρ := (State.withPorts_roster s _).trans hs
  clear_value u
  split
  · exact Res.keeps_next hs
  · split
    · exact Res.keeps_next hs
    · refine Res.keeps_next ?_
      split
      · exact hu
      · exact (u.portDown_roster p).trans hu

theorem execVexfyPortTrained_keeps (p : BitVec 5) (peer : BitVec 16) : (execVexfyPortTrained p peer s).Keeps ρ := by
  unfold execVexfyPortTrained
  extract_lets x
  split
  · exact Res.keeps_next hs
  · split
    · exact Res.keeps_next hs
    · exact Res.keeps_next ((State.msi_roster _ _).trans hs)

theorem execVexfyFlitResend_keeps (p : BitVec 5) (ok : Bool) : (execVexfyFlitResend p ok s).Keeps ρ := by
  unfold execVexfyFlitResend
  extract_lets x n
  split
  · exact Res.keeps_next hs
  · exact Res.keeps_next hs

theorem execVexfyPortDown_keeps (p : BitVec 5) : (execVexfyPortDown p s).Keeps ρ := by
  refine Res.keeps_next ?_
  split
  · exact hs
  · exact (s.portDown_roster _).trans hs

theorem execXlinvComplete_keeps : (execXlinvComplete s).Keeps ρ := by
  unfold execXlinvComplete
  split
  · exact Res.keeps_next hs
  · next v _ _ =>
    split
    · exact Res.keeps_next hs
    · extract_lets u
      have hu : u.roster = ρ := (s.rewatch_roster v).trans hs
      clear_value u
      split
      · exact State.nextHub_keeps hu rfl
      · exact State.nextHub_keeps hu rfl

theorem execRemapgo_keeps : (execRemapgo s).Keeps ρ := by
  refine Res.keeps_next ?_
  split
  · exact (s.remapWrite_roster _).trans hs
  · exact hs

theorem execRemapEntryWrite_keeps : (execRemapEntryWrite s).Keeps ρ := by
  refine Res.keeps_next ?_
  split
  · exact (s.remapWrite_roster _).trans hs
  · exact hs

theorem execRemapCommitComplete_keeps : (execRemapCommitComplete s).Keeps ρ := by
  unfold execRemapCommitComplete
  extract_lets t
  have ht : t.roster = ρ := s.commitDone_roster.trans hs
  clear_value t
  refine Res.keeps_next ?_
  split
  · exact t.releaseRemap_roster.trans ht
  · exact ht

theorem State.dierst_keeps : Res.Keeps (.next (if s.hub.active then s.dieWrite s.hub.bus.v else s)) ρ := by
  refine Res.keeps_next ?_
  split
  · exact (s.dieWrite_roster _).trans hs
  · exact hs

theorem execDierstReset_keeps : (execDierstReset s).Keeps ρ := State.dierst_keeps hs

theorem execDierstDisable_keeps : (execDierstDisable s).Keeps ρ := State.dierst_keeps hs

theorem execDierstEnable_keeps : (execDierstEnable s).Keeps ρ := State.dierst_keeps hs

theorem execDierstComplete_keeps (pass : Bool) (trained : BitVec 8) : (execDierstComplete pass trained s).Keeps ρ := by
  unfold execDierstComplete
  extract_lets u
  have hu : u.roster = ρ := s.settleDie_roster.trans hs
  clear_value u
  split
  · exact Res.keeps_next hu
  · next d _ =>
    split
    · exact Res.keeps_next hu
    · extract_lets v held
      have hv : v.roster = ρ := (u.dieEnds_roster d pass trained).trans hu
      clear_value held v
      exact Res.keeps_next ((State.releaseRemap_roster _).trans
        ((foldl_roster State.dieWrite_roster _ _).trans ((State.withHub_roster v rfl).trans hv)))

theorem execRegisterWrite_keeps : (execRegisterWrite s).Keeps ρ := by
  have hub (h : Hub) (hr : h.retained = s.hub.retained) : ({ s with hub := h } : State).roster = ρ := (s.withHub_roster hr).trans hs
  unfold execRegisterWrite
  extract_lets off v
  refine Res.keeps_next ?_
  split
  · exact hs
  · split
    · exact (s.hubRegWrite_roster _ _).trans hs
    · split
      · split
        · exact hub _ rfl
        · exact hs
      · split
        · exact (s.bdieWrite_roster _).trans hs
        · split
          · split
            · exact hub _ (Hub.release_retained _)
            · exact hs
          · split
            · next id r _ =>
              dsimp only
              split
              · exact (State.installWp_roster _ _ _).trans (hub _ (Hub.setBlock_retained _ _ _))
              · exact hub _ (Hub.setBlock_retained _ _ _)
            · exact hs

/-! ### The BAR2 aperture -/

theorem State.bar2Refused_roster (wr : Bool) : (s.bar2Refused wr).roster = ρ := (s.elog_roster _ _ _ _ _ _).trans hs

theorem execBar2HostRead_keeps : (execBar2HostRead s).Keeps ρ := by
  unfold execBar2HostRead
  extract_lets n none_
  have hn : (none_ s).roster = ρ := State.returns_roster (State.bar2Refused_roster hs _) _
  clear_value none_
  split
  · exact Res.keeps_next (State.returns_roster hs _)
  · split
    · exact Res.keeps_next hs
    · split
      · exact Res.keeps_next hn
      · next i va _ =>
        split
        · exact Res.keeps_next hn
        · split
          · exact Res.keeps_next hs
          · next t ht => exact Res.keeps_next (State.returns_roster (((hubRead_keeps _ _ _ _).1 t ht).trans hs) _)
          · next bs t ht => exact Res.keeps_next (State.returns_roster (((hubRead_keeps _ _ _ _).2 bs t ht).trans hs) _)

theorem execBar2HostWrite_keeps : (execBar2HostWrite s).Keeps ρ := by
  unfold execBar2HostWrite
  extract_lets n off
  split
  · exact State.nextHub_keeps hs rfl
  · split
    · exact Res.keeps_next hs
    · split
      · exact Res.keeps_next (State.bar2Refused_roster hs _)
      · split
        · exact Res.keeps_next (State.bar2Refused_roster hs _)
        · split
          · exact Res.keeps_next hs
          · next t ht => exact Res.keeps_next (((hubWritePieces_keeps _ _ _ _ _ _).1 t ht).trans hs)
          · next bs t ht => exact Res.keeps_next (((hubWritePieces_keeps _ _ _ _ _ _).2 bs t ht).trans hs)

end

end Sys2Proof.Machine
end

section
/-! The contexts through bring-up, loss of power, brown-out and its resumption, and over the links (R351, R369 to R383). -/

namespace Sys2Proof.Machine

/-! ### Lifetime records -/

theorem State.binInc_roster (s : State) (k b : Nat) : (s.binInc k b).roster = s.roster := s.withHub_roster rfl

theorem State.commitLife_roster (s : State) : s.commitLife.roster = s.roster := s.withHub_roster rfl

section
variable {s : State} {ρ : Roster} (hs : s.roster = ρ)
include hs

theorem execLifetimeCommit_keeps : (execLifetimeCommit s).Keeps ρ := by
  refine Res.keeps_next ?_
  split
  · exact s.commitLife_roster.trans hs
  · exact hs

theorem execHistogramSample_keeps (tm tv tg tb ts th : BitVec 9) : (execHistogramSample tm tv tg tb ts th s).Keeps ρ := by
  unfold execHistogramSample
  split
  · exact Res.keeps_next hs
  · extract_lets u
    have hu : u.roster = ρ := (foldl_roster (fun t p => t.binInc_roster _ _) _ _).trans ((s.lifeInc_roster 0).trans hs)
    clear_value u
    exact Res.keeps_next ((u.binInc_roster _ _).trans hu)

theorem execDailyHistogramSample_keeps : (execDailyHistogramSample s).Keeps ρ := by
  unfold execDailyHistogramSample
  split
  · exact Res.keeps_next hs
  · extract_lets dies t
    have ht : t.roster = ρ := (foldl_roster (fun u b => u.binInc_roster _ _) _ _).trans hs
    clear_value t
    exact State.nextHub_keeps ht rfl

theorem execPowerLimitWindow_keeps (pwr : BitVec 16) (gate : BitVec 6) : (execPowerLimitWindow pwr gate s).Keeps ρ := by
  refine Res.keeps_next ?_
  split
  · exact (s.withHub_roster rfl).trans hs
  · exact hs

end

/-! ### The boot chain -/

theorem Hub.measure_retained (n : Nat) (h : Hub) : (Hub.measure n h).retained = h.retained := by
  induction n generalizing h with
  | zero => rfl
  | succ n ih =>
    unfold Hub.measure
    dsimp only
    split
    · rfl
    · exact (ih _).trans rfl

theorem Hub.train_retained (h : Hub) (trained : BitVec 288) : (h.train trained).retained = h.retained := by
  unfold Hub.train
  rfl

theorem Hub.readCast_retained (h : Hub) (passed : BitVec 36) (trained : BitVec 288) :
    (h.readCast passed trained).retained = h.retained := by
  unfold Hub.readCast
  rfl

theorem State.chain_roster (s : State) (passed : BitVec 36) (trained : BitVec 288) : (s.chain passed trained).roster = s.roster := by
  unfold State.chain
  extract_lets _ h store m₀ m m' w
  have hm : m.retained = s.hub.retained := (Hub.measure_retained 7 h).trans rfl
  clear_value m
  have hm' : m'.retained = s.hub.retained := by
    unfold m'
    split
    · exact hm
    · exact hm
  clear_value m'
  have hw : w.retained = s.hub.retained := (Hub.readCast_retained _ _ _).trans ((Hub.train_retained _ _).trans hm')
  clear_value w
  split
  · exact (State.lifeInc_roster _ _).trans (s.withHub_roster hm')
  · exact s.withHub_roster hw

/-! ### What the retention region holds -/

theorem State.Bare.withHub {s : State} (hs : s.Bare) (h : Hub) : ({ s with hub := h } : State).Bare := hs

theorem State.discardReels_reelsHold {s : State} (hs : s.Bare) : s.discardReels.ReelsHold := by
  unfold State.discardReels
  extract_lets t
  have ht : t.Bare := by
    refine List.foldlRecOn (motive := State.Bare) _ _ hs fun u hu i _ => ?_
    exact hu.drop rfl rfl (State.Kin.refl _).alike
  clear_value t
  exact ((ht.withHub _).reelsHold rfl).roster (State.restLottery_roster _)

theorem Ctx.again_badge (c : Ctx) (cc d : Nat) : (c.again cc d).badge = c.badge := by
  unfold Ctx.again
  split
  · rfl
  · rfl

theorem State.putBack_joined (s : State) {c : Ctx} (hc : c.life.exists = true) : (s.putBack c).Joined s [(c.id, true)] := by
  unfold State.putBack
  dsimp only
  split
  · exact s.insert_joined hc
  · exact (s.insert_joined (c := { c with life := .saved }) rfl).then (.of_roster (State.putImage_roster _ _ _))

theorem State.unwrite_roster (s : State) (undo : List (Nat × List Byte)) : (s.unwrite undo).roster = s.roster := by
  unfold State.unwrite
  extract_lets u
  exact (State.withMemory_roster u _ _ _ _).trans (s.healAtoms_roster _)

/-- A state keeps the contexts, and the same instances hold reels as in another. -/
structure State.Holds (t s : State) : Prop where
  reels : t.ReelsHold
  holding : t.holding = s.holding

theorem State.Holds.then {s t u : State} (h : t.Holds s) (hu : u.Kin t) : u.Holds s := ⟨hu.reelsHold h.reels, hu.holding.trans h.holding⟩

theorem State.dropReel_holds {s : State} (i : BitVec 4) (hs : s.ReelsHold) : (s.dropReel i).Holds s := by
  refine ⟨?_, rfl⟩
  obtain ⟨hp, hh, hr, hk⟩ := (State.reelsHold_iff s).mp hs
  have hb := s.dropReel_badges i
  refine (State.reelsHold_iff _).mpr ⟨hb ▸ hp.filter _, fun b hm => ?_, hr, hk⟩
  rw [hb] at hm
  exact hh b (List.mem_of_mem_filter hm)

theorem State.rewind_holds {s : State} {i : BitVec 4} {r : Resume} (hs : s.ReelsHold) (hw : HeldWell s.holding i (r.ctxs.map Ctx.badge)) :
    (s.rewind i r).Holds s := by
  unfold State.rewind
  extract_lets d u sevs v w
  have hu : u.roster = (s.dropReel i).roster := State.unwrite_roster _ _
  have hv : v.roster = (s.dropReel i).roster := hu
  have hw' : w.roster = (s.dropReel i).roster := (State.modInst_roster (Inst.badge_congr rfl rfl)).trans hv
  clear_value w
  have hk : w.Kin (s.dropReel i) := .of_roster hw'
  have hd : w.Holds s := (State.dropReel_holds i hs).then hk
  have hb : ∀ b ∈ w.badges, instOf b.1 ≠ i := by
    intro b hm
    have := hk.badges.subset hm
    rw [State.dropReel_badges] at this
    simpa using (List.mem_filter.mp this).2
  have hj : (r.ctxs.foldl (fun (s : State) c => s.putBack (c.again s.cc d)) w).Joined w (r.ctxs.map Ctx.badge) := by
    refine foldl_joined (f := fun (s : State) c => s.putBack (c.again s.cc d)) (g := Ctx.badge) (fun c hc t => ?_) w
    have hb : (c.again t.cc d).badge = c.badge := c.again_badge _ _
    have he : c.life.exists = true := (hw.1.2 _ (List.mem_map_of_mem hc)).1
    have hbadge : c.badge = ((c.again t.cc d).id, true) := Prod.ext (Ctx.badge_id hb).symm he
    rw [hbadge]
    exact t.putBack_joined ((Ctx.badge_life hb).trans he)
  refine ⟨(State.reelsHold_iff _).mpr (hj.sound ((State.reelsHold_iff w).mp hd.reels) ?_ hb), hj.holding.trans hd.holding⟩
  rw [hd.holding]
  exact hw

theorem State.noteRemoved_roster (s : State) (i : BitVec 4) : (s.noteRemoved i).roster = s.roster := s.withHub_roster rfl

theorem State.removeReel_kin {s : State} (i : BitVec 4) (hs : s.ReelsHold) : (s.removeReel i).Kin s := by
  unfold State.removeReel
  extract_lets t
  have ht : t.Kin s := .of_roster (s.noteRemoved_roster i)
  clear_value t
  refine (foldl_kin (fun u id hu => State.within_kin hu fun v hv _ hl => ?_) _ (ht.reelsHold hs)).trans ht
  split
  · exact .refl v
  · exact .of_roster (State.remove_roster _ _ hv.full hl)

theorem State.restart_holds {s : State} {i : BitVec 4} {r : Resume} (hs : s.ReelsHold) (hw : HeldWell s.holding i (r.ctxs.map Ctx.badge)) :
    (s.restart i r).Holds s := by
  unfold State.restart
  split
  · have h := State.rewind_holds hs hw
    exact h.then (State.removeReel_kin i h.reels)
  · extract_lets u v
    have hu : u.Holds s := by
      have rewind (t : State) (ht : t.roster = s.roster) : (t.rewind i r).Holds s := by
        have hk : t.Kin s := .of_roster ht
        have h := State.rewind_holds (r := r) (hk.reelsHold hs) (hk.holding ▸ hw)
        exact ⟨h.reels, h.holding.trans hk.holding⟩
      exact rewind _ (State.modInst_roster (Inst.badge_congr rfl rfl))
    clear_value u
    have hk : ((u.reclass i).setLevel i).Holds s :=
      hu.then (.of_roster ((State.setLevel_roster _ _).trans (u.reclass_roster i)))
    have hv : v.Holds s :=
      ⟨State.mark_reelsHold hk.reels ((congrFun hk.holding i).trans hw.2.1), (State.mark_holding _ i).trans hk.holding⟩
    clear_value v
    exact hv.then (.of_roster (v.withHub_roster rfl))

/-- What a brown-out has kept is put back, one reel after another. -/
theorem State.restarts_holds {s : State} (l : List (BitVec 4 × Resume)) (hs : s.ReelsHold)
    (hl : ∀ p ∈ l, HeldWell s.holding p.1 (p.2.ctxs.map Ctx.badge)) : (l.foldl (fun (s : State) p => s.restart p.1 p.2) s).ReelsHold := by
  induction l generalizing s with
  | nil => exact hs
  | cons p l ih =>
    have h := State.restart_holds hs (hl p List.mem_cons_self)
    exact ih h.reels fun q hq => h.holding ▸ hl q (List.mem_cons_of_mem _ hq)

theorem State.restore_reelsHold {s : State} (ret : Retained) (hs : s.ReelsHold)
    (hl : ∀ p ∈ ret.insts, HeldWell s.holding p.1 (p.2.ctxs.map Ctx.badge)) : (s.restore ret).ReelsHold := by
  unfold State.restore
  split
  · exact hs
  · split
    · exact (State.discardReels_reelsHold hs.bare).roster (State.releaseRemap_roster _)
    · extract_lets _ u
      have hu : u.Kin s := .of_roster (s.withHub_roster rfl)
      clear_value u
      have h := State.restarts_holds ret.insts (hu.reelsHold hs) (hu.holding ▸ hl)
      exact h.roster ((State.releaseRemap_roster _).trans (State.lifeInc_roster _ _))

theorem State.bring_reelsHold {s : State} (passed : BitVec 36) (trained : BitVec 288) (hs : s.ReelsHold) : (s.bring passed trained).ReelsHold := by
  unfold State.bring
  extract_lets t
  have ht : t.Kin s := .of_roster (s.chain_roster _ _)
  clear_value t
  split
  · next ret hr =>
    refine State.restore_reelsHold ret (ht.reelsHold hs) fun p hp => ?_
    have hk : s.region = some ret.badge := by rw [State.region, hr]; rfl
    rw [ht.holding]
    exact ((State.reelsHold_iff s).mp hs).region _ hk (p.1, p.2.ctxs.map Ctx.badge) (List.mem_map.mpr ⟨p, hp, rfl⟩)
  · exact ht.reelsHold hs

section
variable {s : State} (hs : s.ReelsHold)
include hs

theorem execBoot_safe (passed : BitVec 36) (trained : BitVec 288) : (execBoot passed trained s).Safe := by
  unfold execBoot
  split
  · exact Res.safe_next (State.bring_reelsHold _ _ hs)
  · exact Res.safe_next hs

theorem State.withHub_reelsHold {h : Hub} (hr : h.retained = s.hub.retained) : ({ s with hub := h } : State).ReelsHold :=
  hs.roster (s.withHub_roster hr)

theorem execBootstatRetry_safe : (execBootstatRetry s).Safe := by
  unfold execBootstatRetry
  split
  · exact Res.safe_next (State.withHub_reelsHold hs rfl)
  · exact Res.safe_next hs

theorem execResumption_safe (passed : BitVec 36) (trained : BitVec 288) : (execResumption passed trained s).Safe := by
  unfold execResumption
  split
  · exact Res.safe_next (State.withHub_reelsHold hs rfl)
  · split
    · exact Res.safe_next (State.bring_reelsHold _ _ hs)
    · exact Res.safe_next hs

theorem execBocmdResume_safe : (execBocmdResume s).Safe := by
  refine Res.safe_next ?_
  split
  · exact State.withHub_reelsHold hs rfl
  · exact hs

/-! ### Loss of power -/

omit hs in
theorem State.unpowered_reelsHold (s : State) (bostat : W64) (life : List (Nat × W64)) : (s.unpowered bostat life).ReelsHold := by
  have hb : (s.unpowered bostat life).badges = [] := rfl
  have hp (i : BitVec 4) : (s.unpowered bostat life).point i = none := by
    simp [State.point, State.inst, State.unpowered]
  refine State.Bare.reelsHold ⟨?_, ?_, fun i l hl => ?_, nofun⟩ rfl
  · rw [hb]
    exact ⟨.nil, nofun⟩
  · rw [hb]
    exact nofun
  · rw [hp] at hl
    cases hl

theorem execPowerOff_safe : (execPowerOff s).Safe := by
  unfold execPowerOff
  split
  · exact Res.safe_next hs
  · exact Res.safe_next hs
  · exact Res.safe_next (State.withHub_reelsHold hs rfl)
  · exact Res.safe_next (s.unpowered_reelsHold _ _)

theorem execRetentionLoss_safe : (execRetentionLoss s).Safe := by
  unfold execRetentionLoss
  split
  · exact Res.safe_next hs
  · exact Res.safe_next (s.unpowered_reelsHold _ _)

/-! ### Brown-out -/

omit hs in
theorem State.enter_roster (s : State) : s.enter.roster = s.roster := by
  unfold State.enter
  extract_lets drained
  exact (State.lifeInc_roster _ _).trans (s.withHub_roster rfl)

omit hs in
theorem Hub.dropDieOp_retained (h : Hub) : h.dropDieOp.retained = h.retained := by
  unfold Hub.dropDieOp
  split <;> rfl

omit hs in
theorem State.diesOff_roster (s : State) : s.diesOff.roster = s.roster := rfl

theorem execBrownoutTrigger_safe : (execBrownoutTrigger s).Safe := by
  unfold execBrownoutTrigger
  split
  · exact Res.safe_next hs
  · extract_lets u
    have hu : u.ReelsHold := by
      refine State.withHub_reelsHold hs ?_
      split
      · exact s.hub.dropDieOp_retained
      · rfl
    clear_value u
    split
    · exact Res.safe_next (hu.roster u.diesOff_roster)
    · split
      · exact Res.safe_next hu
      · split
        · exact Res.safe_next ((State.withHub_reelsHold hu rfl).roster (State.msi_roster _ _))
        · exact Res.safe_next (hu.roster u.enter_roster)

theorem State.hostEnter_safe : s.hostEnter.Safe := by
  refine Res.safe_next ?_
  split
  · exact hs.roster s.enter_roster
  · exact hs

theorem execBocmdEnter_safe : (execBocmdEnter s).Safe := State.hostEnter_safe hs

theorem execBrownoutHostTimeout_safe : (execBrownoutHostTimeout s).Safe := State.hostEnter_safe hs

theorem execDrainWindowExpiry_safe : (execDrainWindowExpiry s).Safe := by
  unfold execDrainWindowExpiry
  split
  · exact Res.safe_next hs
  · extract_lets t
    have ht : t.ReelsHold := (foldl_kin (fun u i hu => State.removeReel_kin i hu) _ hs).reelsHold hs
    clear_value t
    exact Res.safe_next (State.withHub_reelsHold ht rfl)

theorem State.spill_kin (id : BitVec 12) : (s.spill id).Kin s := by
  refine State.within_kin hs fun t ht _ hl => ?_
  split
  · exact .refl t
  · split
    · exact .of_roster (State.withLive_roster hl rfl rfl)
    · exact .of_roster (State.remove_roster _ _ ht.full hl)

theorem State.retain_well {i : BitVec 4} {p : BitVec 4 × Resume} (h : s.retain i = some p) :
    HeldWell s.holding p.1 (p.2.ctxs.map Ctx.badge) := by
  unfold State.retain at h
  dsimp only at h
  split at h
  · cases h
  · obtain ⟨r, hr, rfl⟩ := Option.map_eq_some_iff.mp h
    exact ((State.reelsHold_iff s).mp hs).points i _ (by rw [State.point, hr]; rfl)

/-- The retention region is written anew. -/
theorem State.retained_reelsHold {h : Hub} {ret : Retained} (hr : h.retained = some ret)
    (hw : ∀ p ∈ ret.insts, HeldWell s.holding p.1 (p.2.ctxs.map Ctx.badge)) : ({ s with hub := h } : State).ReelsHold := by
  obtain ⟨hp, hh, hpt, -⟩ := (State.reelsHold_iff s).mp hs
  refine (State.reelsHold_iff _).mpr ⟨hp, hh, hpt, fun l hl p hm => ?_⟩
  rw [State.region, hr] at hl
  cases hl
  obtain ⟨q, hq, rfl⟩ := List.mem_map.mp hm
  exact hw q hq

theorem execBrownoutEntry_safe : (execBrownoutEntry s).Safe := by
  unfold execBrownoutEntry
  split
  · exact Res.safe_next hs
  · extract_lets u v ret w
    have hu : u.ReelsHold := (foldl_kin (fun t id ht => State.spill_kin ht id) _ hs).reelsHold hs
    have hv : v.ReelsHold := hu.roster u.commitDone_roster
    clear_value v
    have hk : w.Kin v := .of_roster ((State.commitLife_roster _).trans (v.binInc_roster _ _))
    clear_value w
    refine Res.safe_next (State.ReelsHold.roster (State.retained_reelsHold (hk.reelsHold hv) rfl fun p hp => ?_) (State.diesOff_roster _))
    obtain ⟨i, -, hi⟩ := List.mem_filterMap.mp hp
    rw [hk.holding]
    exact State.retain_well hv hi

/-! ### Links -/

omit hs in
theorem Hub.setModule_retained (h : Hub) (k m : Nat) (up failed : Bool) : (h.setModule k m up failed).retained = h.retained := by
  unfold Hub.setModule
  refine foldl_hub_retained (fun x p => ?_) _ _
  rfl

theorem State.landing_reelsHold {r : Res} (hr : r.Safe) : (s.landing r).ReelsHold := by
  unfold State.landing
  split
  · exact hr _ rfl
  · exact hs

omit hs in
theorem atomicOf_safe {i : Instr} {f : State → Res} {t : State} (h : atomicOf i = some f) (ht : t.ReelsHold) (hl : t.roster.Live) :
    (f t).Safe := by
  have amo (d a : BitVec 5) (z : BitVec 1) (tn : Bool) (new : W64 → Option W64) : (t.amo d a z tn new).Safe :=
    (State.amo_keeps rfl ht.full hl d a z tn new).safe ht
  cases i <;> cases h <;> exact amo _ _ _ _ _

theorem State.lostWord_reelsHold (st : Stream) : (s.lostWord st).ReelsHold := by
  unfold State.lostWord
  extract_lets at_
  split
  · exact hs
  · next k hk =>
    extract_lets t
    have hr : t.roster = s.roster := rfl
    have hl : t.roster.Live := State.hasTurn_live (List.find?_some hk :)
    clear_value t
    split
    · have ha : t.arriveAt.roster = s.roster := t.arriveAt_roster.trans hr
      exact hs.roster ((State.trap_roster _ _ (ha ▸ hs.full) (ha ▸ hr ▸ hl)).trans ha)
    · exact hs

theorem State.onLink_reelsHold (k : Nat) (hl : s.roster.Live) : (s.onLink k).ReelsHold := by
  unfold State.onLink
  split
  · split
    · cases h : performLoad s with
      | none => exact hs
      | some t => exact hs.roster (performLoad_roster h)
    · have hf := front_safe s.me.id .s 0 hs
      split
      · next i t hi =>
        obtain ⟨ht, hlt⟩ := hf.2 i t hi
        split
        · next f hfn => exact State.landing_reelsHold ht (atomicOf_safe hfn (ht.roster rfl) hlt)
        · exact hs
      · exact hs
  · cases h : performStore s with
    | none => exact hs
    | some t => exact hs.roster (performStore_roster hs.full hl h)
  · exact State.landing_reelsHold hs ((execOperandFetchComplete_keeps rfl hs.full).safe hs)
  · exact (copyUnit_kin hs).reelsHold hs
  · exact State.lostWord_reelsHold hs _
  · exact State.lostWord_reelsHold hs _
  · exact State.lostWord_reelsHold hs _
  · exact hs

/-- To act on a context in focus keeps the contexts if the act does. -/
theorem State.within_reelsHold {id : BitVec 12} {f : State → State}
    (hf : ∀ t : State, t.ReelsHold → t.roster.Live → (f t).ReelsHold) : (s.within id f).ReelsHold := by
  unfold State.within
  dsimp only
  split
  · exact hs
  · next t ht =>
    have h := hf t ((State.focus_kin hs ht).reelsHold hs) (State.focus_me hs.full ht).2
    cases hback : (f t).focus s.me.id with
    | none => exact h
    | some u => exact (State.focus_kin h hback).reelsHold h

theorem execUcieFlitCrcError_safe (socket : BitVec 6) (m : BitVec 3) (c : BitVec 12) (k : BitVec 3) (far : BitVec 6) :
    (execUcieFlitCrcError socket m c k far s).Safe := by
  unfold execUcieFlitCrcError
  extract_lets n crc crc' _ u mine v lost
  split
  · exact Res.safe_next hs
  · have hu : u.ReelsHold := State.withHub_reelsHold hs rfl
    clear_value u
    have hv : v.ReelsHold := hu.roster (u.elog_roster _ _ _ _ _ _)
    clear_value v
    have hlost : lost.ReelsHold := by
      refine State.within_reelsHold hv fun t ht hl => ?_
      have on (x : State) (hx : x.roster = t.roster) : (x.onLink k.toNat).ReelsHold :=
        State.onLink_reelsHold (ht.roster hx) _ (hx ▸ hl)
      split
      · exact on _ rfl
      · exact ht
    clear_value lost
    exact Res.safe_next (hlost.roster rfl)

theorem execModuleRetrain_safe (socket : BitVec 6) (m : BitVec 3) : (execModuleRetrain socket m s).Safe := by
  unfold execModuleRetrain
  extract_lets n mine _ h
  split
  · exact Res.safe_next hs
  · have hu : ({ s with hub := h.setModule n m.toNat false false } : State).ReelsHold :=
      State.withHub_reelsHold hs ((Hub.setModule_retained h _ _ _ _).trans rfl)
    exact Res.safe_next (hu.roster (State.lifeInc_roster _ _))

theorem execModuleRetrainEnd_safe (socket : BitVec 6) (m : BitVec 3) (ok : Bool) : (execModuleRetrainEnd socket m ok s).Safe := by
  unfold execModuleRetrainEnd
  extract_lets n
  split
  · exact Res.safe_next hs
  · extract_lets h u
    have hu : u.ReelsHold := State.withHub_reelsHold hs ((Hub.setModule_retained _ _ _ _ _).trans rfl)
    clear_value u
    refine Res.safe_next (State.ReelsHold.roster ?_ (State.elog_roster _ _ _ _ _ _ _))
    split
    · exact hu
    · exact hu.roster (u.lifeInc_roster _)

end

end Sys2Proof.Machine
end

section
/-! The contexts and a step: every instruction and every event keeps them, whatever the schedule chooses (R11, R262, R265). -/

namespace Sys2Proof.Machine

/-! ### The instructions, stream by stream -/

section
variable {s : State} {ρ : Roster} (hs : s.roster = ρ)
include hs

theorem execVred_keeps (d a b : BitVec 6) (k : BitVec 3) (f : BitVec 4) : (execVred d a b k f s).Keeps ρ := by
  unfold execVred
  split
  · exact State.vRun_keeps _ hs
  · exact State.vRun_keeps _ hs

variable (hf : ρ.Full) (hl : ρ.Live)
include hf hl

theorem exec_scalar_keeps (i : Instr) (hi : Stream.s ∈ streamsOf i) : Res.Keeps (exec i s) ρ := by
  cases i with
  | add | sub | and | or | xor | shl | shr | sra | mul | mulh | div | divu | rem | remu | min | max | minu | maxu | slt
    | sltu => exact State.op2_keeps hs _ _ _ _
  | clz | popc | addi | andi | ori | xori | shli | shri | srai | slti | sltui => exact State.op1_keeps hs _ _ _
  | lih | addpc | spt | domr | seedrd | tinfo => exact State.putS_keeps hs _ _ _ _
  | beq | bne | blt | bge | bltu | bgeu => exact State.branch_keeps hs _ _
  | ld | ldsx | ldc => exact State.load_keeps hs hf hl _ _ _ _ _ _
  | amoswap d a b z => exact (State.amo_keeps hs hf hl d a z _ _ : (execAmoswap d a b z s).Keeps ρ)
  | amoadd d a b z => exact (State.amo_keeps hs hf hl d a z _ _ : (execAmoadd d a b z s).Keeps ρ)
  | amoand d a b z => exact (State.amo_keeps hs hf hl d a z _ _ : (execAmoand d a b z s).Keeps ρ)
  | amoor d a b z => exact (State.amo_keeps hs hf hl d a z _ _ : (execAmoor d a b z s).Keeps ρ)
  | amoxor d a b z => exact (State.amo_keeps hs hf hl d a z _ _ : (execAmoxor d a b z s).Keeps ρ)
  | amomin d a b z => exact (State.amo_keeps hs hf hl d a z _ _ : (execAmomin d a b z s).Keeps ρ)
  | amomax d a b z => exact (State.amo_keeps hs hf hl d a z _ _ : (execAmomax d a b z s).Keeps ρ)
  | amominu d a b z => exact (State.amo_keeps hs hf hl d a z _ _ : (execAmominu d a b z s).Keeps ρ)
  | amomaxu d a b z => exact (State.amo_keeps hs hf hl d a z _ _ : (execAmomaxu d a b z s).Keeps ρ)
  | cas d a b z => exact (State.amo_keeps hs hf hl d a z _ _ : (execCas d a b z s).Keeps ρ)
  | cue => exact State.cue_keeps _ hs hf hl
  | trap => exact State.trapR_keeps _ _ hs hf hl
  | csrw | csrs => exact State.putCsr_keeps hs hf hl _ _
  | jal => exact execJal_keeps hs _ _
  | jalr => exact execJalr_keeps hs hf hl _ _ _
  | loop => exact execLoop_keeps hs _ _
  | st => exact execSt_keeps hs hf hl _ _ _ _
  | fence => exact execFence_keeps hs hf hl _
  | spcGlobal => exact execSpcGlobal_keeps hs hf hl _ _
  | spcPrivate => exact execSpcPrivate_keeps hs hf hl _ _
  | spcTile => exact execSpcTile_keeps hs hf hl _ _ _
  | spcShared => exact execSpcShared_keeps hs hf hl _ _ _
  | spcOffset => exact execSpcOffset_keeps hs hf hl _ _
  | toks => exact execToks_keeps hs _ _ _
  | toksRemote => exact execToksRemote_keeps hs _ _ _ _
  | tokw => exact execTokw_keeps hs hf hl _ _
  | gset => exact execGset_keeps hs _ _ _
  | wfe => exact execWfe_keeps hs _ _
  | sev => exact execSev_keeps hs hf hl _ _
  | cut => exact execCut_keeps hs hf hl _
  | rngk => exact execRngk_keeps hs _ _ _
  | rnga => exact execRnga_keeps hs _ _ _
  | folio => exact execFolio_keeps hs hf hl _ _ _
  | funbind => exact execFunbind_keeps hs _
  | talloc => exact execTalloc_keeps hs hf hl _ _ _ _
  | tfree => exact execTfree_keeps hs hf hl _
  | tring => exact execTring_keeps hs hf hl _ _ _
  | csrr => exact execCsrr_keeps hs hf hl _ _
  | mark => exact execMark_keeps hs hf hl
  | eret => exact execEret_keeps hs hf hl
  | halt => exact execHalt_keeps hs hf hl
  | nop => exact execNop_keeps hs
  | pfx => exact execPfx_keeps hs _ _ _ _ _
  | _ => nomatch hi

theorem exec_vector_keeps (i : Instr) (hi : Stream.v ∈ streamsOf i) : Res.Keeps (exec i s) ρ := by
  cases i with
  | vcue => exact State.cue_keeps _ hs hf hl
  | vadd | vsub | vmul | vfma | vfms | vmin | vmax | vabs | vneg | vcmp | vsel | vcvt | vrnd | viadd | visub | vimul | vand | vor | vxor
    | vshl | vshr | vsra | vimin | vimax | vicmp | vbdot | vbmac | vbcast | vmov | vperm | vshuf | vins | vmset | vmand | vmor | vmnot
    | vmpop | vscan | vfn | vgate | vstat | vnorm | vsmax | vsmxn | vrng => exact State.vRun_keeps _ hs
  | vred => exact execVred_keeps hs _ _ _ _ _
  | vbmul => exact execVbmul_keeps _ _ _ _ _ _ hs hf hl
  | vld => exact execVld_keeps _ _ _ hs hf hl
  | vst => exact execVst_keeps _ _ _ hs hf hl
  | vldx => exact execVldx_keeps _ _ _ _ hs hf hl
  | vstx => exact execVstx_keeps _ _ _ _ hs hf hl
  | vext => exact execVext_keeps hs hf hl _ _ _ _
  | vx => exact execVx_keeps _ _ _ _ _ hs hf hl
  | vsyb => exact execVsyb_keeps hs _
  | vsyw => exact execVsyw_keeps hs hf hl _
  | vbr => exact execVbr_keeps hs _ _
  | vloop => exact execVloop_keeps hs _ _
  | vring => exact execVring_keeps hs hf hl _ _ _
  | vtoks => exact execVtoks_keeps hs hf hl _ _
  | vtokw => exact execVtokw_keeps hs hf hl _ _
  | vflags => exact execVflags_keeps hs _
  | vfork => exact execVfork_keeps hs hf hl
  | vjoin => exact execVjoin_keeps hs hf hl
  | vnop => exact execVnop_keeps hs
  | pfx => exact execPfx_keeps hs _ _ _ _ _
  | _ => nomatch hi

theorem exec_matrix_keeps (i : Instr) (hi : Stream.m ∈ streamsOf i) : Res.Keeps (exec i s) ρ := by
  cases i with
  | mgo a b => exact State.mgoHead_keeps hs hf hl (.mgo a b) a b none
  | mgoF a b n => exact State.mgoHead_keeps hs hf hl (.mgoF a b n) a b (some n)
  | mqOpen | mqClose => exact State.mqHead_keeps hs hf hl _ _ _
  | mcue => exact State.cue_keeps _ hs hf hl
  | mnop => exact Res.keeps_next (s.retire_roster.trans hs)
  | mnest => exact execMnest_keeps hs _ _ _
  | mfmt => exact execMfmt_keeps hs _ _ _
  | mwld => exact execMwld_keeps hs hf hl _ _
  | mwldF => exact execMwldF_keeps hs hf hl _ _ _
  | mwldS => exact execMwldS_keeps hs hf hl _
  | macc => exact execMacc_keeps hs _ _ _
  | msplit => exact execMsplit_keeps hs _
  | mtoks => exact execMtoks_keeps hs _ _
  | mtokw => exact execMtokw_keeps hs hf hl _
  | mring => exact execMring_keeps hs hf hl _ _ _
  | mwsw => exact execMwsw_keeps hs hf hl
  | mwait => exact execMwait_keeps hs
  | mwaitEnd => exact execMwaitEnd_keeps hs
  | pfx => exact execPfx_keeps hs _ _ _ _ _
  | _ => nomatch hi

theorem exec_copy_keeps (i : Instr) (hi : Stream.c ∈ streamsOf i) : Res.Keeps (exec i s) ρ := by
  cases i with
  | ccue => exact State.cue_keeps _ hs hf hl
  | cla => exact execCla_keeps hs _ _ _
  | cadd => exact execCadd_keeps hs _ _
  | caddReg => exact execCaddReg_keeps hs _ _
  | ccpy => exact execCcpy_keeps hs hf hl _ _ _ _ _
  | ccpyOut => exact execCcpyOut_keeps hs hf hl _ _ _ _ _
  | ccpys => exact execCcpys_keeps hs hf hl _ _ _ _
  | cwst => exact execCwst_keeps hs hf hl _ _
  | ctab => exact execCtab_keeps hs hf hl _ _
  | cgath => exact execCgath_keeps hs hf hl _ _ _ _ _
  | cscat => exact execCscat_keeps hs hf hl _ _ _ _ _
  | cxfer => exact execCxfer_keeps hs hf hl _ _ _
  | cred => exact execCred_keeps hs hf hl _ _ _ _ _ _ _
  | cbcst => exact execCbcst_keeps hs hf hl _ _ _ _ _
  | cpref => exact execCpref_keeps hs hf hl _ _ _
  | cmig => exact execCmig_keeps hs hf hl _ _ _
  | crrd => exact execCrrd_keeps hs hf hl _ _ _ _
  | cwaitm => exact execCwaitm_keeps hs hf hl _
  | ctoks => exact execCtoks_keeps hs _ _ _
  | ctoksAll => exact execCtoksAll_keeps hs hf hl _ _ _
  | ctokw => exact execCtokw_keeps hs hf hl _
  | ctokwLd => exact execCtokwLd_keeps hs hf hl _ _
  | ctokwAdd => exact execCtokwAdd_keeps hs hf hl _ _
  | cfence => exact execCfence_keeps hs hf hl _
  | cring => exact execCring_keeps hs hf hl _ _ _
  | cnop => exact execCnop_keeps hs
  | pfx => exact execPfx_keeps hs _ _ _ _ _
  | _ => nomatch hi

theorem exec_fabric_keeps (i : Instr) (hi : Stream.f ∈ streamsOf i) : Res.Keeps (exec i s) ρ := by
  cases i with
  | fopen | fopenOut => exact State.openPort_keeps hs hf hl _ _ _ _ _
  | fsched | fschedOff => exact State.schedule_keeps hs _ _ _ _
  | fcue => exact State.cue_keeps _ hs hf hl
  | fload => exact execFload_keeps hs hf hl _ _ _ _
  | fclose => exact execFclose_keeps hs hf hl _ _
  | fstart => exact execFstart_keeps hs hf hl _
  | fqry => exact execFqry_keeps hs _ _ _ _
  | ftoks => exact execFtoks_keeps hs _ _
  | ftokw => exact execFtokw_keeps hs hf hl _
  | fring => exact execFring_keeps hs hf hl _ _ _
  | fwait => exact execFwait_keeps hs
  | fwaitEnd => exact execFwaitEnd_keeps hs
  | pfx => exact execPfx_keeps hs _ _ _ _ _
  | _ => nomatch hi

theorem exec_syllable_keeps (i : Instr) (hi : Stream.e ∈ streamsOf i) : Res.Keeps (exec i s) ρ := by
  cases i with
  | eAdd d a b => exact State.syllable_keeps hs (.eAdd d a b) hf hl
  | eSub d a b => exact State.syllable_keeps hs (.eSub d a b) hf hl
  | eAnd d a b => exact State.syllable_keeps hs (.eAnd d a b) hf hl
  | eOr d a b => exact State.syllable_keeps hs (.eOr d a b) hf hl
  | eXor d a b => exact State.syllable_keeps hs (.eXor d a b) hf hl
  | eShl d a b => exact State.syllable_keeps hs (.eShl d a b) hf hl
  | eShr d a b sg => exact State.syllable_keeps hs (.eShr d a b sg) hf hl
  | eCmp d a b cc => exact State.syllable_keeps hs (.eCmp d a b cc) hf hl
  | eSel d a b c => exact State.syllable_keeps hs (.eSel d a b c) hf hl
  | eMin d a b u => exact State.syllable_keeps hs (.eMin d a b u) hf hl
  | eMax d a b u => exact State.syllable_keeps hs (.eMax d a b u) hf hl
  | eMul16 d a b u => exact State.syllable_keeps hs (.eMul16 d a b u) hf hl
  | ePopc d a => exact State.syllable_keeps hs (.ePopc d a) hf hl
  | eMov d a => exact State.syllable_keeps hs (.eMov d a) hf hl
  | eCxch d c a b sg => exact State.syllable_keeps hs (.eCxch d c a b sg) hf hl
  | eLdi d i0 => exact State.syllable_keeps hs (.eLdi d i0) hf hl
  | eLdiH d i0 => exact State.syllable_keeps hs (.eLdiH d i0) hf hl
  | eLds d a i0 => exact State.syllable_keeps hs (.eLds d a i0) hf hl
  | eSts s0 a i0 => exact State.syllable_keeps hs (.eSts s0 a i0) hf hl
  | eLoop d t => exact State.syllable_keeps hs (.eLoop d t) hf hl
  | eRecv d dir => exact State.syllable_keeps hs (.eRecv d dir) hf hl
  | eSend s0 dir => exact State.syllable_keeps hs (.eSend s0 dir) hf hl
  | ePeek d dir => exact State.syllable_keeps hs (.ePeek d dir) hf hl
  | eEmit s0 dir sc => exact State.syllable_keeps hs (.eEmit s0 dir sc) hf hl
  | eEmitReg s0 dir k => exact State.syllable_keeps hs (.eEmitReg s0 dir k) hf hl
  | eBub dir => exact State.syllable_keeps hs (.eBub dir) hf hl
  | eHalt => exact State.syllable_keeps hs (.eHalt) hf hl
  | eNop => exact State.syllable_keeps hs (.eNop) hf hl
  | _ => nomatch hi


theorem exec_stream_keeps (i : Instr) (hi : streamsOf i ≠ []) : Res.Keeps (exec i s) ρ := by
  obtain ⟨st, hst⟩ := List.exists_mem_of_ne_nil _ hi
  cases st with
  | s => exact exec_scalar_keeps hs hf hl i hst
  | v => exact exec_vector_keeps hs hf hl i hst
  | m => exact exec_matrix_keeps hs hf hl i hst
  | c => exact exec_copy_keeps hs hf hl i hst
  | f => exact exec_fabric_keeps hs hf hl i hst
  | e => exact exec_syllable_keeps hs hf hl i hst

end

/-! ### The events -/

theorem exec_event_safe {s : State} (i : Instr) (hi : streamsOf i = []) (hs : s.ReelsHold) : Res.Safe (exec i s) := by
  cases i with
  | cutComplete => exact execCutComplete_safe _ hs
  | lotteryGrant => exact execLotteryGrant_safe _ hs
  | dierstComplete => exact (execDierstComplete_keeps rfl _ _).safe hs
  | pageMigration => exact (execPageMigration_keeps rfl _ _).safe hs
  | migrationEpochEnd => exact (execMigrationEpochEnd_keeps rfl _).safe hs
  | remoteReadRequest => exact (execRemoteReadRequest_keeps rfl _ _ _ _).safe hs
  | peerRequest => exact (execPeerRequest_keeps rfl _ _ _ _ _ _).safe hs
  | boot => exact execBoot_safe hs _ _
  | resumption => exact execResumption_safe hs _ _
  | ucieFlitCrcError => exact execUcieFlitCrcError_safe hs _ _ _ _ _
  | moduleRetrain => exact execModuleRetrain_safe hs _ _
  | moduleRetrainEnd => exact execModuleRetrainEnd_safe hs _ _ _
  | vexfyFlitResend => exact (execVexfyFlitResend_keeps rfl _ _).safe hs
  | vexfyPortDown => exact (execVexfyPortDown_keeps rfl _).safe hs
  | patrolScrub => exact (execPatrolScrub_keeps rfl _ _ _).safe hs
  | histogramSample => exact (execHistogramSample_keeps rfl _ _ _ _ _ _).safe hs
  | powerLimitWindow => exact (execPowerLimitWindow_keeps rfl _ _).safe hs
  | vexfyPortTrained => exact (execVexfyPortTrained_keeps rfl _ _).safe hs
  | remoteCollectiveFrame => exact (execRemoteCollectiveFrame_keeps _ _ _ _ rfl).safe hs
  | loadDataReturn => exact (execLoadDataReturn_keeps rfl).safe hs
  | cueReached => exact (execCueReached_keeps rfl).safe hs
  | sevDelivery => exact (execSevDelivery_keeps rfl hs.full).safe hs
  | cutArrival => exact (execCutArrival_keeps rfl hs.full).safe hs
  | remoteTokenDelivery => exact (execRemoteTokenDelivery_keeps rfl hs.full).safe hs
  | mwldComplete => exact (execMwldComplete_keeps rfl hs.full).safe hs
  | cwstPairing => exact (execCwstPairing_keeps rfl hs.full).safe hs
  | mgoStep => exact (execMgoStep_keeps rfl hs.full).safe hs
  | operandFetchComplete => exact (execOperandFetchComplete_keeps rfl hs.full).safe hs
  | cxferArrival => exact (execCxferArrival_keeps rfl hs.full).safe hs
  | copyComplete => exact execCopyComplete_safe hs
  | runComplete => exact (execRunComplete_keeps rfl hs.full).safe hs
  | fabricBound => exact (execFabricBound_keeps rfl hs.full).safe hs
  | inputPortPush => exact (execInputPortPush_keeps rfl).safe hs
  | outputPortWrite => exact (execOutputPortWrite_keeps rfl).safe hs
  | packetEnqueue => exact (execPacketEnqueue_keeps rfl).safe hs
  | packetDispatch => exact (execPacketDispatch_keeps rfl).safe hs
  | launch => exact execLaunch_safe hs
  | pushseed => exact (execPushseed_keeps rfl).safe hs
  | popseed => exact (execPopseed_keeps rfl).safe hs
  | forkseed => exact (execForkseed_keeps rfl).safe hs
  | setlevel => exact (execSetlevel_keeps rfl).safe hs
  | signal => exact (execSignal_keeps rfl).safe hs
  | signalReport => exact (execSignalReport_keeps rfl).safe hs
  | reelRetirement => exact execReelRetirement_safe hs
  | statqRead => exact (execStatqRead_keeps rfl).safe hs
  | sliceSwitch => exact execSliceSwitch_safe hs
  | waitHoldExpiry => exact execWaitHoldExpiry_safe hs
  | boundOverrun => exact (execBoundOverrun_keeps rfl hs.full).safe hs
  | watchpoint => exact (execWatchpoint_keeps rfl hs.full).safe hs
  | watchpointMatch => exact (execWatchpointMatch_keeps rfl hs.full).safe hs
  | folioFrameLoad => exact (execFolioFrameLoad_keeps rfl hs.full).safe hs
  | preemption => exact (execPreemption_keeps rfl hs.full).safe hs
  | contextRestore => exact (execContextRestore_keeps rfl).safe hs
  | quiesceSaveTimeout => exact (execQuiesceSaveTimeout_keeps rfl hs.full).safe hs
  | ctxcmdResume => exact execCtxcmdResume_safe hs
  | ctxcmdRemove => exact execCtxcmdRemove_safe hs
  | dierstReset => exact (execDierstReset_keeps rfl).safe hs
  | dierstDisable => exact (execDierstDisable_keeps rfl).safe hs
  | dierstEnable => exact (execDierstEnable_keeps rfl).safe hs
  | xlinv => exact (execXlinv_keeps rfl).safe hs
  | xlinvComplete => exact (execXlinvComplete_keeps rfl).safe hs
  | remapgo => exact (execRemapgo_keeps rfl).safe hs
  | remapCommitComplete => exact (execRemapCommitComplete_keeps rfl).safe hs
  | remapEntryWrite => exact (execRemapEntryWrite_keeps rfl).safe hs
  | migcmd => exact (execMigcmd_keeps rfl).safe hs
  | folreqRead => exact (execFolreqRead_keeps rfl).safe hs
  | folresp => exact execFolresp_safe hs
  | elogqRead => exact (execElogqRead_keeps rfl).safe hs
  | elogcntWrite => exact (execElogcntWrite_keeps rfl).safe hs
  | pchashWrite => exact (execPchashWrite_keeps rfl).safe hs
  | hbmctlWrite => exact (execHbmctlWrite_keeps rfl).safe hs
  | pccntWrite => exact (execPccntWrite_keeps rfl).safe hs
  | sramctlWrite => exact (execSramctlWrite_keeps rfl).safe hs
  | migctlWrite => exact (execMigctlWrite_keeps rfl).safe hs
  | pkgidWrite => exact (execPkgidWrite_keeps rfl).safe hs
  | colltabWrite => exact (execColltabWrite_keeps rfl).safe hs
  | vxportWrite => exact (execVxportWrite_keeps rfl).safe hs
  | funcmodeWrite => exact (execFuncmodeWrite_keeps rfl).safe hs
  | pwrctlWrite => exact (execPwrctlWrite_keeps rfl).safe hs
  | boctlWrite => exact (execBoctlWrite_keeps rfl).safe hs
  | bootstatRetry => exact execBootstatRetry_safe hs
  | bocmdEnter => exact execBocmdEnter_safe hs
  | bocmdResume => exact execBocmdResume_safe hs
  | registerWrite => exact (execRegisterWrite_keeps rfl).safe hs
  | bar2HostRead => exact (execBar2HostRead_keeps rfl).safe hs
  | bar2HostWrite => exact (execBar2HostWrite_keeps rfl).safe hs
  | powerOff => exact execPowerOff_safe hs
  | brownoutTrigger => exact execBrownoutTrigger_safe hs
  | brownoutEntry => exact execBrownoutEntry_safe hs
  | brownoutHostTimeout => exact execBrownoutHostTimeout_safe hs
  | drainWindowExpiry => exact execDrainWindowExpiry_safe hs
  | retentionLoss => exact execRetentionLoss_safe hs
  | lifetimeCommit => exact (execLifetimeCommit_keeps rfl).safe hs
  | entropyHealthFailure => exact (execEntropyHealthFailure_keeps rfl).safe hs
  | storePerform => exact (execStorePerform_keeps rfl hs.full).safe hs
  | vInstructionCompletion => exact (execVInstructionCompletion_keeps rfl).safe hs
  | mqRow => exact (execMqRow_keeps rfl hs.full).safe hs
  | pageMoveComplete => exact (execPageMoveComplete_keeps rfl).safe hs
  | entropyHealthPass => exact (execEntropyHealthPass_keeps rfl).safe hs
  | dailyHistogramSample => exact (execDailyHistogramSample_keeps rfl).safe hs
  | _ => nomatch hi

theorem exec_safe {s : State} (i : Instr) (hs : s.ReelsHold) (hl : streamsOf i = [] ∨ s.roster.Live) : Res.Safe (exec i s) := by
  by_cases hi : streamsOf i = []
  · exact exec_event_safe i hi hs
  · exact (exec_stream_keeps rfl hs.full (hl.resolve_left hi) i hi).safe hs

/-! ### The host's rows -/

theorem hubWriteRow_event (off : Nat) (v : W64) : streamsOf (hubWriteRow off v) = [] := by
  unfold hubWriteRow
  dsimp only
  repeat' split
  all_goals rfl

theorem bdieWriteRow_event (off : Nat) : streamsOf (bdieWriteRow off) = [] := by
  unfold bdieWriteRow
  repeat' split
  all_goals rfl

theorem ctxWriteRow_event (off : Nat) (v : W64) : streamsOf (ctxWriteRow off v) = [] := by
  unfold ctxWriteRow
  repeat' split
  all_goals rfl

theorem hostWriteRow_event (off : Nat) (v : W64) : streamsOf (hostWriteRow off v) = [] := by
  unfold hostWriteRow
  split
  · rfl
  · split
    · rfl
    · split
      · exact hubWriteRow_event off v
      · split
        · rfl
        · split
          · exact bdieWriteRow_event _
          · split
            · split <;> rfl
            · split
              · exact ctxWriteRow_event off v
              · rfl

theorem hostReadRow_event {off : Nat} {i : Instr} (h : hostReadRow off = some i) : streamsOf i = [] := by
  unfold hostReadRow at h
  split at h <;> cases h <;> rfl

/-! ### The step -/

/-- What an action leads to keeps the contexts, and an instruction of a stream that is to execute has its context. -/
def Front.Ready (f : Front) : Prop :=
  (∀ t, f = .stay t → t.ReelsHold) ∧ ∀ i t, f = .run i t → t.ReelsHold ∧ (streamsOf i = [] ∨ t.roster.Live)

theorem Front.Safe.ready {f : Front} (h : f.Safe) : f.Ready :=
  ⟨h.1, fun i t ht => ⟨(h.2 i t ht).1, .inr (h.2 i t ht).2⟩⟩

theorem Front.ready_stay {t : State} (h : t.ReelsHold) : Front.Ready (.stay t) := ⟨by rintro _ ⟨⟩; exact h, by rintro _ _ ⟨⟩⟩

theorem Front.ready_event {i : Instr} {t : State} (h : t.ReelsHold) (hi : streamsOf i = []) : Front.Ready (.run i t) :=
  ⟨by rintro _ ⟨⟩, by rintro _ _ ⟨⟩; exact ⟨h, .inl hi⟩⟩

theorem State.upsetAtom_roster (s : State) (a : Nat) (bad : Bool) : (s.upsetAtom a bad).roster = s.roster := by
  unfold State.upsetAtom
  split <;> rfl

theorem State.upsetWord_roster (s : State) (id : BitVec 12) (priv : Bool) (w : Nat) (bad : Bool) :
    (s.upsetWord id priv w bad).roster = s.roster := by
  refine State.modCtx_roster fun c => ?_
  split
  · rfl
  · split
    · split <;> rfl
    · split <;> rfl

theorem State.aimed_reelsHold {s : State} {id : BitVec 12} {f : State → State} (hs : s.ReelsHold) (hf : ∀ t : State, t.ReelsHold → (f t).ReelsHold) :
    (if (s.ctx? id).isSome then f (s.aim id) else s).ReelsHold := by
  split
  · exact hf _ ((State.aim_kin id hs).reelsHold hs)
  · exact hs

theorem turn_ready {s : State} (a : Action) (hs : s.ReelsHold) : (turn s a).Ready := by
  have onBus (off : BitVec 28) (z : BitVec 2) (v : W64) : (s.onBus off z v).ReelsHold := State.withHub_reelsHold hs rfl
  cases a with
  | stream id st cl => exact (front_safe id st cl hs).ready
  | event id i =>
    unfold turn
    dsimp only
    split
    · next h => exact Front.ready_event ((State.aim_kin id hs).reelsHold hs) (by simp at h; exact h.1)
    · exact Front.ready_stay hs
  | hostWrite off v => exact Front.ready_event (onBus _ _ _) (hostWriteRow_event _ _)
  | hostRead off =>
    unfold turn
    dsimp only
    split
    · next i hi => exact Front.ready_event (onBus _ _ _) (hostReadRow_event hi)
    · exact Front.ready_stay (State.withHub_reelsHold (onBus _ _ _) rfl)
  | bar2Read off z => exact Front.ready_event (onBus _ _ _) rfl
  | bar2Write off z v => exact Front.ready_event (onBus _ _ _) rfl
  | copyUnit id => exact Front.ready_stay (State.aimed_reelsHold hs fun t ht => (copyUnit_kin ht).reelsHold ht)
  | fetchAtom id => exact Front.ready_stay (State.aimed_reelsHold hs fun t ht => ht.roster (fetchAtom_roster ht.full))
  | fabricCycle id => exact Front.ready_stay (State.aimed_reelsHold hs fun t ht => ht.roster (fabricCycle_roster ht.full))
  | upsetAtom a bad => exact Front.ready_stay (hs.roster (s.upsetAtom_roster _ _))
  | upsetWord id priv w bad => exact Front.ready_stay (hs.roster (s.upsetWord_roster _ _ _ _))
  | cycle => exact Front.ready_stay (hs.roster (doCycle_roster s))

/-- Settles O60: every instruction and every event keeps the contexts, and so does the choice of the schedule that brings it. -/
theorem everyStepKeepsTheContexts : Obligations.EveryStepKeepsTheContexts := by
  intro s t hs ht
  have ready := turn_ready s.choice (hs.roster (t := s.taken) rfl)
  unfold step at ht
  split at ht
  · next u hu =>
    cases ht
    exact ready.1 _ hu
  · next i u hu =>
    obtain ⟨h, hl⟩ := ready.2 i u hu
    exact exec_safe i h hl t ht

end Sys2Proof.Machine
end

section
namespace Sys2Proof.Machine

/-! ## Integers of a width (R41) -/

/-- The two's complement reading of the low bits is the balanced residue. -/
theorem sintOf_eq_bmod {n : Nat} (hn : n ≠ 0) (x : Nat) : sintOf n x = Int.bmod x (2 ^ n) := by
  obtain ⟨n, rfl⟩ := Nat.exists_eq_add_one_of_ne_zero hn
  have hpow : 2 ^ (n + 1) = 2 * 2 ^ n := Nat.pow_succ'
  have hmod : ((x % 2 ^ (n + 1) : Nat) : Int) = (x : Int) % ((2 ^ (n + 1) : Nat) : Int) := Int.natCast_emod _ _
  have hread : sintOf (n + 1) x =
      if x % 2 ^ (n + 1) < 2 ^ n then ((x % 2 ^ (n + 1) : Nat) : Int) else (x % 2 ^ (n + 1) : Nat) - ((2 ^ (n + 1) : Nat) : Int) := by
    push_cast; rfl
  rw [hread, Int.bmod_def, ← hmod]
  by_cases h : x % 2 ^ (n + 1) < 2 ^ n
  · rw [if_pos h, if_pos (by omega)]
  · rw [if_neg h, if_neg (by omega)]

theorem sintOf_toNat_eq_toInt (w : W32) : sintOf 32 w.toNat = w.toInt := by
  rw [sintOf_eq_bmod (by decide), BitVec.toInt_eq_toNat_bmod]

theorem sintOf_toNat_eq_setWidth_toInt (w : W32) : sintOf 8 w.toNat = (w.setWidth 8).toInt := by
  rw [sintOf_eq_bmod (by decide), BitVec.toInt_eq_toNat_bmod, BitVec.toNat_setWidth, Int.natCast_emod]
  exact (Int.emod_bmod ..).symm

/-- A residue read back by two's complement is the balanced residue. -/
theorem sintOf_toNat_emod {n : Nat} (hn : n ≠ 0) (x : Int) : sintOf n (x % 2 ^ n).toNat = Int.bmod x (2 ^ n) := by
  have hpos : (0 : Int) < 2 ^ n := by positivity
  rw [sintOf_eq_bmod hn, Int.toNat_of_nonneg (Int.emod_nonneg x hpos.ne')]
  exact_mod_cast Int.emod_bmod x (2 ^ n)

/-- A residue, written with zeros above. -/
theorem ofNat_toNat_emod {n : Nat} (x : Int) : BitVec.ofNat 32 (x % 2 ^ n).toNat = BitVec.ofInt 32 (x % 2 ^ n) := by
  have hpos : (0 : Int) < 2 ^ n := by positivity
  rw [← BitVec.ofInt_natCast, Int.toNat_of_nonneg (Int.emod_nonneg x hpos.ne')]

theorem ofInt_emod_two_pow (x : Int) : BitVec.ofInt 32 (x % 2 ^ 32) = BitVec.ofInt 32 x := by
  refine BitVec.eq_of_toNat_eq ?_
  rw [BitVec.toNat_ofInt, BitVec.toNat_ofInt]
  norm_num

/-- An exact integer brought into w bits and written as a word by `e`: as it is inside the range, else clamped with sat, or
wrapped to the residue that `e` reads (R41). -/
theorem toWidth_write {w : Nat} {lo hi : Int} (h : lo ≤ hi) {e : Nat → W32} {r : Int → Int}
    (he : ∀ y : Int, e (y % 2 ^ w).toNat = BitVec.ofInt 32 (r y)) (hr : ∀ y, lo ≤ y → y ≤ hi → r y = y) (sat : Bool) (x : Int) :
    (e (toWidth w lo hi sat x).1, (toWidth w lo hi sat x).2) =
      if lo ≤ x ∧ x ≤ hi then (BitVec.ofInt 32 x, 0)
      else if sat then (BitVec.ofInt 32 (if x < lo then lo else hi), fSat) else (BitVec.ofInt 32 (r x), 0) := by
  have hlo := hr lo le_rfl h
  have hhi := hr hi h le_rfl
  by_cases hin : lo ≤ x ∧ x ≤ hi
  · have hx := hr x hin.1 hin.2
    simp [toWidth, hin, not_lt.2 hin.1, not_lt.2 hin.2, he, hx]
  · cases sat with
    | false => simp [toWidth, hin, he]
    | true =>
      by_cases hx : x < lo
      · simp [toWidth, hin, hx, he, hlo]
      · have hgt : hi < x := by omega
        simp [toWidth, hin, hx, hgt, he, hhi]

theorem bmod_byte_eq_self (x : Int) (hlo : -128 ≤ x) (hhi : x ≤ 127) : Int.bmod x 256 = x :=
  Int.bmod_eq_of_le (by omega) (by omega)

theorem emod_byte_eq_self (x : Int) (hlo : 0 ≤ x) (hhi : x ≤ 255) : x % 256 = x := Int.emod_eq_of_lt hlo (by omega)

/-- A signed byte in a lane (R41, R142). -/
theorem toWidth_signedByte (sat : Bool) (x : Int) :
    (BitVec.ofInt 32 (sintOf 8 (toWidth 8 (-128) 127 sat x).1), (toWidth 8 (-128) 127 sat x).2) = IntFit 1 sat x :=
  toWidth_write (e := fun n => BitVec.ofInt 32 (sintOf 8 n)) (by decide)
    (fun y => congrArg _ (sintOf_toNat_emod (by decide) y)) bmod_byte_eq_self sat x

/-- A natural byte in a lane; every type code but those of I32 and I8 reads as N8 (R41, R142). -/
theorem toWidth_naturalByte (sat : Bool) (x : Int) : w32 (toWidth 8 0 255 sat x) = IntFit 2 sat x :=
  toWidth_write (e := BitVec.ofNat 32) (by decide) (fun y => ofNat_toNat_emod y) emod_byte_eq_self sat x

/-- A word in a lane (R41, R142). -/
theorem toWidth_word (sat : Bool) (x : Int) : w32 (toI32 sat x) = IntFit 0 sat x :=
  toWidth_write (e := BitVec.ofNat 32) (r := id) (by decide) (fun y => (ofNat_toNat_emod y).trans (ofInt_emod_two_pow y))
    (fun _ _ _ => rfl) sat x

end Sys2Proof.Machine
end

section
namespace Sys2Proof.Machine

/-! ## Integer lanes (R142) -/

/-- What a lane of an integer type takes for an exact result (R41, R142). -/
theorem intFit_eq (f : BitVec 4) (sat : Bool) (x : Int) : intFit f sat x = IntFit f sat x := by
  by_cases h0 : f = 0
  · subst h0; exact toWidth_word sat x
  · by_cases h1 : f = 1
    · subst h1; exact toWidth_signedByte sat x
    · have hfit : IntFit f sat x = IntFit 2 sat x := by
        simp only [IntFit, if_neg h0, if_neg h1]; rfl
      rw [hfit, ← toWidth_naturalByte]
      unfold intFit
      rw [if_neg h0, if_neg h1]

/-- The integer of a lane (R142). -/
theorem intElem_eq (f : BitVec 4) (w : W32) :
    intElem f w = if f = 0 then w.toInt else if f = 1 then (w.setWidth 8).toInt else ((w.toNat % 256 : Nat) : Int) := by
  unfold intElem
  rw [sintOf_toNat_eq_toInt, sintOf_toNat_eq_setWidth_toInt]

theorem shiftLeft_eq_ofNat (x : W32) (n : Nat) : x <<< n = BitVec.ofNat 32 (x.toNat * 2 ^ n) :=
  BitVec.eq_of_toNat_eq (by rw [BitVec.toNat_shiftLeft, BitVec.toNat_ofNat, Nat.shiftLeft_eq])

theorem ushiftRight_eq_ofNat (x : W32) (n : Nat) : x >>> n = BitVec.ofNat 32 (x.toNat / 2 ^ n) := by
  rw [← Nat.shiftRight_eq_div_pow, ← BitVec.toNat_ushiftRight, BitVec.ofNat_toNat, BitVec.setWidth_eq]

theorem sshiftRight_eq_ofInt (x : W32) (n : Nat) : x.sshiftRight n = BitVec.ofInt 32 (x.toInt / 2 ^ n) := by
  rw [BitVec.sshiftRight_eq, Int.shiftRight_eq_div_pow]
  push_cast; rfl

/-- The signed or unsigned extreme of two words, chosen by comparing them. -/
theorem ite_slt_eq_min (x y : W32) : (if y.slt x then y else x) = BitVec.ofInt 32 (min x.toInt y.toInt) := by
  rw [BitVec.slt_eq_decide, min_comm, min_def_lt]
  by_cases h : y.toInt < x.toInt <;> simp [h]

theorem ite_slt_eq_max (x y : W32) : (if x.slt y then y else x) = BitVec.ofInt 32 (max x.toInt y.toInt) := by
  rw [BitVec.slt_eq_decide, max_def_lt]
  by_cases h : x.toInt < y.toInt <;> simp [h]

theorem ite_ult_eq_min (x y : W32) : (if y.ult x then y else x) = BitVec.ofNat 32 (min x.toNat y.toNat) := by
  rw [BitVec.ult_eq_decide, min_comm, min_def_lt]
  by_cases h : y.toNat < x.toNat <;> simp [h]

theorem ite_ult_eq_max (x y : W32) : (if x.ult y then y else x) = BitVec.ofNat 32 (max x.toNat y.toNat) := by
  rw [BitVec.ult_eq_decide, max_def_lt]
  by_cases h : x.toNat < y.toNat <;> simp [h]

/-- The word of a comparison whose condition is decided by `vicmpHolds`. -/
theorem maskWord_vicmpHolds {f : BitVec 4} {x y : W32} {p : Prop} [Decidable p] (h : vicmpHolds f x y = true ↔ p) :
    maskWord (vicmpHolds f x y) = if p then 0xFFFFFFFF else 0 := by
  unfold maskWord
  simp only [h]

/-- The conditions of VICMP by code (R142). -/
theorem vicmpHolds_iff {f : BitVec 4} {p : W32 → W32 → Prop}
    (h : (f = 0 ∧ (∀ x y, p x y ↔ x = y)) ∨ (f = 1 ∧ (∀ x y, p x y ↔ x ≠ y)) ∨ (f = 2 ∧ (∀ x y, p x y ↔ x.toInt < y.toInt)) ∨
      (f = 3 ∧ (∀ x y, p x y ↔ y.toInt ≤ x.toInt)) ∨ (f = 4 ∧ (∀ x y, p x y ↔ x.toNat < y.toNat)) ∨
      (f = 5 ∧ (∀ x y, p x y ↔ y.toNat ≤ x.toNat))) (x y : W32) : vicmpHolds f x y = true ↔ p x y := by
  rcases h with ⟨rfl, h⟩ | ⟨rfl, h⟩ | ⟨rfl, h⟩ | ⟨rfl, h⟩ | ⟨rfl, h⟩ | ⟨rfl, h⟩ <;> rw [h]
  · exact beq_iff_eq
  · exact bne_iff_ne
  · exact BitVec.slt_iff_toInt_lt
  · show (!x.slt y) = true ↔ _
    rw [BitVec.slt_eq_decide]; simp
  · exact BitVec.ult_iff_toNat_lt
  · show (!x.ult y) = true ↔ _
    rw [BitVec.ult_eq_decide]; simp

/-- Settles O22: each instruction is a lane instruction; in a lane, exact arithmetic is brought into its type, and shifts, extremes
and comparisons are those of the numbers that the words read as. -/
theorem integerLanesCompute : Obligations.IntegerLanesCompute := by
  intro s d a b k f hc reg int fit nat cond
  have arith : ∀ {i : Instr} (op : Int → Int → Int), exec i s = s.vInt2 d a b k f op →
      Completes i s (LaneOp s d k fun cl j => fit (op (int (reg cl a j)) (int (reg cl b j)))) := fun op h =>
    completes_vLanes hc h fun n j => by
      show intFit f s.vSat (op (intElem f (reg n a j)) (intElem f (reg n b j))) = _
      rw [intFit_eq, intElem_eq, intElem_eq]
  refine ⟨arith (· + ·) rfl, arith (· - ·) rfl, arith (· * ·) rfl, completes_vLanes hc rfl fun _ _ => rfl,
    completes_vLanes hc rfl fun _ _ => rfl, completes_vLanes hc rfl fun _ _ => rfl,
    completes_vLanes hc rfl fun n j => congrArg (·, 0) (shiftLeft_eq_ofNat ..),
    completes_vLanes hc rfl fun n j => congrArg (·, 0) (ushiftRight_eq_ofNat ..),
    completes_vLanes hc rfl fun n j => congrArg (·, 0) (sshiftRight_eq_ofInt ..), ?_, ?_, fun p dec hp => ?_⟩
  · rintro rfl
    exact ⟨completes_vLanes hc rfl fun n j => congrArg (·, 0) (ite_slt_eq_min ..),
      completes_vLanes hc rfl fun n j => congrArg (·, 0) (ite_slt_eq_max ..)⟩
  · rintro rfl
    exact ⟨completes_vLanes hc rfl fun n j => congrArg (·, 0) (ite_ult_eq_min ..),
      completes_vLanes hc rfl fun n j => congrArg (·, 0) (ite_ult_eq_max ..)⟩
  · exact completes_vLanes hc rfl fun n j => congrArg (·, 0) (maskWord_vicmpHolds (vicmpHolds_iff hp ..))

end Sys2Proof.Machine
end

section
namespace Sys2Proof.Machine

/-! ## Exact values (R48) -/

/-- A magnitude with a sign. -/
def withSign (neg : Bool) (x : ℚ) : ℚ := if neg then -x else x

theorem two_zpow_pos (e : ℤ) : (0 : ℚ) < 2 ^ e := zpow_pos (by norm_num) e

theorem two_zpow_add (a b : ℤ) : (2 : ℚ) ^ (a + b) = 2 ^ a * 2 ^ b := zpow_add₀ (by norm_num) a b

theorem two_zpow_le {a b : ℤ} : (2 : ℚ) ^ a ≤ 2 ^ b ↔ a ≤ b := zpow_le_zpow_iff_right₀ (by norm_num)

theorem two_zpow_lt {a b : ℤ} : (2 : ℚ) ^ a < 2 ^ b ↔ a < b := zpow_lt_zpow_iff_right₀ (by norm_num)

/-- A power of two by a nonnegative integer is a natural number. -/
theorem two_pow_toNat {e : ℤ} (h : 0 ≤ e) : (2 : ℚ) ^ e.toNat = 2 ^ e := by
  rw [← zpow_natCast, Int.toNat_of_nonneg h]

@[simp] theorem Dy.val_zero : Dy.zero.val = 0 := by simp [Dy.val, Dy.zero]

theorem Dy.at_val (x : Dy) {lo : Int} (h : lo ≤ x.e) : (x.at lo : ℚ) * 2 ^ lo = x.val := by
  unfold Dy.at Dy.val
  push_cast
  rw [two_pow_toNat (by omega), mul_assoc, ← two_zpow_add, sub_add_cancel]

@[simp] theorem Dy.val_add (x y : Dy) : (x.add y).val = x.val + y.val := by
  have h : ∀ lo, lo ≤ x.e → lo ≤ y.e → ((x.at lo + y.at lo : Int) : ℚ) * 2 ^ lo = x.val + y.val := fun lo hx hy => by
    push_cast
    rw [add_mul, x.at_val hx, y.at_val hy]
  unfold Dy.add
  dsimp only
  split
  · exact h _ le_rfl ‹_›
  · exact h _ (by omega) le_rfl

@[simp] theorem Dy.val_neg (x : Dy) : x.neg.val = -x.val := by simp [Dy.val, Dy.neg]

@[simp] theorem Dy.val_sub (x y : Dy) : (x.sub y).val = x.val - y.val := by simp [Dy.sub, sub_eq_add_neg]

theorem Dy.val_eq_zero_iff (x : Dy) : x.val = 0 ↔ x.m = 0 := by
  simp [Dy.val, (two_zpow_pos x.e).ne']

theorem Dy.val_neg_iff (x : Dy) : x.val < 0 ↔ x.m < 0 := by
  unfold Dy.val
  rw [mul_neg_iff, Int.cast_lt_zero]
  simp [two_zpow_pos x.e, (two_zpow_pos x.e).not_gt]

theorem Dy.lt_iff (x y : Dy) : x.lt y = true ↔ x.val < y.val := by
  rw [← sub_neg, ← Dy.val_sub, Dy.val_neg_iff]; exact decide_eq_true_iff

theorem Dy.eqv_iff (x y : Dy) : x.eqv y = true ↔ x.val = y.val := by
  rw [← sub_eq_zero (a := x.val), ← Dy.val_sub, Dy.val_eq_zero_iff]; exact decide_eq_true_iff

theorem Dy.le_iff (x y : Dy) : x.le y = true ↔ x.val ≤ y.val := by
  rw [← sub_nonpos, ← Dy.val_sub, le_iff_lt_or_eq, Dy.val_neg_iff, Dy.val_eq_zero_iff, ← le_iff_lt_or_eq]; exact decide_eq_true_iff

theorem Dy.abs_val (x : Dy) : |x.val| = x.m.natAbs * 2 ^ x.e := by
  unfold Dy.val
  rw [abs_mul, abs_of_pos (two_zpow_pos _), Nat.cast_natAbs, Int.cast_abs]

/-- The exponent of a nonzero number. -/
theorem Dy.log2_bounds {x : Dy} (h : x.m ≠ 0) : (2 : ℚ) ^ x.log2 ≤ |x.val| ∧ |x.val| < 2 ^ (x.log2 + 1) := by
  have hm : x.m.natAbs ≠ 0 := Int.natAbs_ne_zero.2 h
  have hlo : (2 : ℚ) ^ Nat.log2 x.m.natAbs ≤ x.m.natAbs := by exact_mod_cast Nat.log2_self_le hm
  have hhi : (x.m.natAbs : ℚ) < 2 ^ (Nat.log2 x.m.natAbs + 1) := by exact_mod_cast Nat.lt_log2_self
  have hpos := two_zpow_pos x.e
  rw [Dy.abs_val]
  unfold Dy.log2
  rw [add_right_comm, two_zpow_add, two_zpow_add]
  exact ⟨mul_le_mul_of_nonneg_right (by exact_mod_cast hlo) hpos.le, mul_lt_mul_of_pos_right (by exact_mod_cast hhi) hpos⟩

/-! ## Rounding to a multiple (R48) -/

/-- Each mode rounds to the nearest multiple, away from zero or toward it. -/
theorem roundsTo_iff (rm : Rm) (neg : Bool) (q x : ℚ) (k : ℕ) :
    RoundsTo rm neg q x k ↔
      if rm = .rne then |k * q - x| ≤ q / 2 ∧ (|k * q - x| = q / 2 → k % 2 = 0)
      else if rm.away neg then x ≤ k * q ∧ k * q < x + q
      else k * q ≤ x ∧ x < (k + 1) * q := by
  cases rm <;> cases neg <;> rfl

/-- The multiple is less than one unit away. -/
theorem RoundsTo.near {rm : Rm} {neg : Bool} {q x : ℚ} {k : ℕ} (hq : 0 < q) (h : RoundsTo rm neg q x k) :
    x < (k + 1) * q ∧ k * q < x + q := by
  rw [roundsTo_iff] at h
  split_ifs at h
  · obtain ⟨hlo, hhi⟩ := abs_le.1 h.1
    constructor <;> linarith
  · constructor <;> linarith
  · constructor <;> linarith

/-- Rounding does not pass a multiple of the unit. -/
theorem RoundsTo.le_of_le {rm : Rm} {neg : Bool} {q x : ℚ} {k a : ℕ} (hq : 0 < q) (h : RoundsTo rm neg q x k) (ha : a * q ≤ x) :
    a ≤ k := by
  have hlt : (a : ℚ) < k + 1 := lt_of_mul_lt_mul_right (ha.trans_lt (h.near hq).1) hq.le
  exact Nat.lt_succ_iff.1 (by exact_mod_cast hlt)

theorem RoundsTo.ge_of_ge {rm : Rm} {neg : Bool} {q x : ℚ} {k a : ℕ} (hq : 0 < q) (h : RoundsTo rm neg q x k) (ha : x ≤ a * q) :
    k ≤ a := by
  have hlt : (k : ℚ) < a + 1 := lt_of_mul_lt_mul_right (by linarith [(h.near hq).2]) hq.le
  exact Nat.lt_succ_iff.1 (by exact_mod_cast hlt)

/-- A multiple of the unit rounds to itself. -/
theorem RoundsTo.eq_of_eq {rm : Rm} {neg : Bool} {q x : ℚ} {k a : ℕ} (hq : 0 < q) (h : RoundsTo rm neg q x k) (ha : x = a * q) :
    k = a := le_antisymm (h.ge_of_ge hq ha.le) (h.le_of_le hq ha.ge)

theorem roundsTo_self (rm : Rm) (neg : Bool) (k : ℕ) : RoundsTo rm neg 1 k k := by
  cases rm <;> cases neg <;> simp [RoundsTo]

/-- Rounding is the same in every unit. -/
theorem RoundsTo.scale {rm : Rm} {neg : Bool} {x : ℚ} {k : ℕ} {q : ℚ} (hq : 0 < q) (h : RoundsTo rm neg 1 x k) :
    RoundsTo rm neg q (x * q) k := by
  have hle : ∀ {a b : ℚ}, a ≤ b → a * q ≤ b * q := fun h => mul_le_mul_of_nonneg_right h hq.le
  have hlt : ∀ {a b : ℚ}, a < b → a * q < b * q := fun h => mul_lt_mul_of_pos_right h hq
  have hadd : x * q + q = (x + 1) * q := by ring
  have habs : |k * q - x * q| = |k - x| * q := by rw [← sub_mul, abs_mul, abs_of_pos hq]
  have hhalf : q / 2 = 1 / 2 * q := by ring
  rw [roundsTo_iff] at h ⊢
  simp only [mul_one, hadd, habs, hhalf] at h ⊢
  split_ifs at h ⊢
  · exact ⟨hle h.1, fun he => h.2 (mul_right_cancel₀ hq.ne' he)⟩
  · exact ⟨hle h.1, hlt h.2⟩
  · exact ⟨hle h.1, hlt h.2⟩

/-- A number strictly between two integers is rounded to one of them. -/
theorem roundsTo_between {rm : Rm} {neg up : Bool} {n : ℕ} {t : ℚ} (h0 : 0 < t) (h1 : t < 1)
    (hne : rm = .rne → (up = true ↔ 1 / 2 < t ∨ t = 1 / 2 ∧ n % 2 = 1)) (haway : rm ≠ .rne → up = rm.away neg) :
    RoundsTo rm neg 1 (n + t) (if up then n + 1 else n) := by
  rw [roundsTo_iff]
  simp only [mul_one]
  by_cases hr : rm = .rne
  · rw [if_pos hr]
    cases up with
    | true =>
      have hd : |((n + 1 : ℕ) : ℚ) - (n + t)| = 1 - t := by
        push_cast; rw [abs_of_pos] <;> linarith
      rw [if_pos rfl, hd]
      rcases (hne hr).1 rfl with h | ⟨h, hodd⟩
      · exact ⟨by linarith, fun he => by linarith⟩
      · exact ⟨by linarith, fun _ => by omega⟩
    | false =>
      have hd : |(n : ℚ) - (n + t)| = t := by rw [sub_add_cancel_left, abs_neg, abs_of_pos h0]
      have hn := mt (hne hr).2 Bool.false_ne_true
      simp only [not_or, not_and, not_lt] at hn
      rw [if_neg Bool.false_ne_true, hd]
      exact ⟨hn.1, fun he => by have := hn.2 he; omega⟩
  · rw [if_neg hr, ← haway hr]
    cases up with
    | true => simp only [if_true]; push_cast; constructor <;> linarith
    | false => simp only [Bool.false_eq_true, if_false]; constructor <;> linarith

/-- The remainder of a division, as a part of the divisor, lies above the quotient. -/
theorem nat_div_add_fraction (m : ℕ) {d : ℕ} (hd : 0 < d) : (m / d : ℕ) + (m % d : ℕ) / (d : ℚ) = m / d := by
  have hd' : (d : ℚ) ≠ 0 := by exact_mod_cast hd.ne'
  rw [eq_div_iff hd', add_mul, div_mul_cancel₀ _ hd', mul_comm]
  exact_mod_cast Nat.div_add_mod m d

/-- The whole part of a magnitude and the fraction above it are those of a division (R48). -/
theorem roundNat_frac (m : ℕ) {sh : ℤ} (rm : Rm) (neg : Bool) (hsh : ¬ sh ≥ 0) :
    ∃ (n : ℕ) (t : ℚ), (m * 2 ^ sh : ℚ) = n + t ∧ 0 ≤ t ∧ t < 1 ∧
      (t = 0 → roundNat m sh rm neg = (n, false)) ∧
      (t ≠ 0 → ∃ up : Bool, roundNat m sh rm neg = (if up then n + 1 else n, true) ∧
        (rm = .rne → (up = true ↔ 1 / 2 < t ∨ t = 1 / 2 ∧ n % 2 = 1)) ∧ (rm ≠ .rne → up = rm.away neg)) := by
  let d := 2 ^ (-sh).toNat
  have hd : 0 < d := Nat.two_pow_pos _
  have hdq : (0 : ℚ) < d := by exact_mod_cast hd
  have hval : (m * 2 ^ sh : ℚ) = (m / d : ℕ) + (m % d : ℕ) / (d : ℚ) := by
    rw [nat_div_add_fraction m hd, div_eq_mul_inv]
    congr 1
    push_cast [d]
    rw [two_pow_toNat (by omega), zpow_neg, inv_inv]
  have hzero : ((m % d : ℕ) : ℚ) / d = 0 ↔ m % d = 0 := by simp [hdq.ne']
  refine ⟨m / d, (m % d : ℕ) / (d : ℚ), hval, by positivity, (div_lt_one hdq).2 (by exact_mod_cast Nat.mod_lt m hd),
    fun ht => ?_, fun ht => ?_⟩
  · simp only [roundNat, if_neg hsh, d, if_pos (hzero.1 ht)]
  · have hhalf : (1 / 2 : ℚ) < (m % d : ℕ) / (d : ℚ) ↔ d < 2 * (m % d) := by
      rw [div_lt_div_iff₀ two_pos hdq, one_mul, mul_comm]; exact_mod_cast Iff.rfl
    have htie : ((m % d : ℕ) / (d : ℚ) = 1 / 2) ↔ 2 * (m % d) = d := by
      rw [div_eq_div_iff hdq.ne' two_ne_zero, one_mul, mul_comm]; exact_mod_cast Iff.rfl
    rw [hhalf, htie]
    refine ⟨_, (if_neg hsh).trans (if_neg (mt hzero.2 ht)), fun hr => ?_, fun hr => ?_⟩
    · subst hr; simp [d]
    · cases rm
      · exact absurd rfl hr
      all_goals cases neg <;> rfl

/-- `roundNat` rounds m·2^sh to an integer and says whether it changed it. -/
theorem roundNat_spec (m : ℕ) (sh : ℤ) (rm : Rm) (neg : Bool) :
    RoundsTo rm neg 1 (m * 2 ^ sh) (roundNat m sh rm neg).1 ∧
      ((roundNat m sh rm neg).2 = true ↔ ((roundNat m sh rm neg).1 : ℚ) ≠ m * 2 ^ sh) := by
  by_cases hsh : sh ≥ 0
  · have hval : (m * 2 ^ sh : ℚ) = (m * 2 ^ sh.toNat : ℕ) := by push_cast; rw [two_pow_toNat hsh]
    rw [hval]
    simp only [roundNat, if_pos hsh]
    exact ⟨roundsTo_self rm neg _, by simp⟩
  · obtain ⟨n, t, hval, h0, h1, hexact, hinexact⟩ := roundNat_frac m rm neg hsh
    rw [hval]
    by_cases ht : t = 0
    · rw [hexact ht, ht, add_zero]
      exact ⟨roundsTo_self rm neg n, by simp⟩
    · obtain ⟨up, hup, hne, haway⟩ := hinexact ht
      rw [hup]
      refine ⟨roundsTo_between (lt_of_le_of_ne h0 (Ne.symm ht)) h1 hne haway, iff_of_true rfl ?_⟩
      cases up with
      | true => simp only [if_true]; push_cast; intro h; linarith
      | false => simpa using ht

/-- The same in any unit. -/
theorem roundNat_roundsTo (m : ℕ) (e : ℤ) (u : ℤ) (rm : Rm) (neg : Bool) :
    RoundsTo rm neg (2 ^ u) (m * 2 ^ e) (roundNat m (e - u) rm neg).1 ∧
      ((roundNat m (e - u) rm neg).2 = true ↔ ((roundNat m (e - u) rm neg).1 : ℚ) * 2 ^ u ≠ m * 2 ^ e) := by
  have hu := two_zpow_pos u
  have hval : (m * 2 ^ e : ℚ) = m * 2 ^ (e - u) * 2 ^ u := by rw [mul_assoc, ← two_zpow_add, sub_add_cancel]
  obtain ⟨hr, hx⟩ := roundNat_spec m (e - u) rm neg
  rw [hval]
  exact ⟨hr.scale hu, hx.trans (mul_left_injective₀ hu.ne').ne_iff.symm⟩

end Sys2Proof.Machine
end

section
namespace Sys2Proof.Machine

/-! ## Patterns of a format (R39) -/

/-- The layouts of R39: room for a quiet bit, a bias in the middle of the exponent fields, and E4M3 as the one format without
infinities. -/
structure FFmt.Sound (f : FFmt) : Prop where
  p_ge : 2 ≤ f.p
  ew_ge : 2 ≤ f.ew
  bias : f.e4m3 = false → 2 * (f.bias + 1) = 2 ^ f.ew
  e4m3 : f.e4m3 = true → f = .fe4m3

theorem FFmt.fp32_sound : FFmt.fp32.Sound := ⟨by decide, by decide, by decide, by decide⟩

theorem FFmt.sound_of_mem {f : FFmt} (h : f ∈ [FFmt.fp32, .fp16, .bf16, .e5m2, .fe4m3]) : f.Sound := by
  simp only [List.mem_cons, List.not_mem_nil, or_false] at h
  rcases h with rfl | rfl | rfl | rfl | rfl <;> exact ⟨by decide, by decide, by decide, by decide⟩

/-- The patterns that stand for no number. -/
def FFmt.special (f : FFmt) (w : Nat) : Prop :=
  if f.e4m3 then f.expo w = 0xF ∧ f.frac w = 7 else f.expo w = 2 ^ f.ew - 1

/-- The significand of a pattern as an integer. -/
def FFmt.sig (f : FFmt) (w : Nat) : Nat := if f.expo w = 0 then f.frac w else f.frac w + 2 ^ (f.p - 1)

/-- The exponent of the last bit of a significand. -/
def FFmt.ulp (f : FFmt) (w : Nat) : Int := (max (f.expo w) 1 : Nat) - f.bias - (f.p - 1)

theorem FFmt.decode_of_not_special {f : FFmt} {w : Nat} (h : ¬ f.special w) : f.decode w = .fin (f.neg w) (f.sig w) (f.ulp w) := by
  have hfin : (if f.expo w = 0 then FV.fin (f.neg w) (f.frac w) (f.emin - (f.p - 1))
      else FV.fin (f.neg w) (f.frac w + 2 ^ (f.p - 1)) (f.expo w - f.bias - (f.p - 1))) = .fin (f.neg w) (f.sig w) (f.ulp w) := by
    unfold FFmt.sig FFmt.ulp FFmt.emin
    by_cases h0 : f.expo w = 0
    · simp [h0]
    · simp [h0, Nat.one_le_iff_ne_zero.2 h0]
  unfold FFmt.special at h
  rw [← hfin]
  unfold FFmt.decode
  split <;> rename_i he
  · rw [if_pos he] at h; exact if_neg h
  · rw [if_neg he] at h; exact if_neg h

/-- What the patterns denote that stand for no number: a NaN, or an infinity where the format has one. -/
theorem FFmt.decode_of_special {f : FFmt} {w : Nat} (h : f.special w) :
    f.decode w = if f.e4m3 then .nan (f.neg w) false 0
      else if f.frac w = 0 then .inf (f.neg w) else .nan (f.neg w) (decide (f.frac w / 2 ^ (f.p - 2) % 2 = 0)) (f.frac w) := by
  unfold FFmt.special at h
  unfold FFmt.decode
  split <;> rename_i he
  · rw [if_pos he] at h; exact if_pos h
  · rw [if_neg he] at h; exact if_pos h

@[simp] theorem FFmt.decode_isNeg (f : FFmt) (w : Nat) : (f.decode w).isNeg = f.neg w := by
  by_cases h : f.special w
  · rw [decode_of_special h]
    split_ifs <;> rfl
  · rw [decode_of_not_special h]; rfl

theorem FFmt.isFin_iff (f : FFmt) (w : Nat) : f.isFin w ↔ ¬ f.special w := by
  unfold FFmt.isFin
  by_cases h : f.special w
  · rw [decode_of_special h]
    simp only [h, not_true_eq_false, iff_false]
    split_ifs <;> simp [FV.isNan, FV.isInf]
  · rw [decode_of_not_special h]
    simp [h, FV.isNan, FV.isInf]

theorem FFmt.decode_of_isFin {f : FFmt} {w : Nat} (h : f.isFin w) : f.decode w = .fin (f.neg w) (f.sig w) (f.ulp w) :=
  decode_of_not_special ((f.isFin_iff w).1 h)

theorem FV.fin_val (neg : Bool) (m : Nat) (e : Int) : (FV.fin neg m e).dy.val = withSign neg (m * 2 ^ e) := by
  cases neg <;> simp [FV.dy, Dy.val, withSign]

/-- The number of a pattern: its significand at its exponent, with its sign. -/
theorem FFmt.num_of_isFin {f : FFmt} {w : Nat} (h : f.isFin w) : f.num w = withSign (f.neg w) (f.sig w * 2 ^ f.ulp w) := by
  unfold FFmt.num
  rw [decode_of_isFin h, FV.fin_val]

theorem FFmt.frac_lt (f : FFmt) (w : Nat) : f.frac w < 2 ^ (f.p - 1) := Nat.mod_lt _ (Nat.two_pow_pos _)

theorem FFmt.expo_lt (f : FFmt) (w : Nat) : f.expo w < 2 ^ f.ew := Nat.mod_lt _ (Nat.two_pow_pos _)

theorem two_pow_p {f : FFmt} (hf : f.Sound) : 2 ^ f.p = 2 * 2 ^ (f.p - 1) := by
  rw [← Nat.pow_succ']; congr 1; have := hf.p_ge; omega

theorem FFmt.sig_lt {f : FFmt} (hf : f.Sound) (w : Nat) : f.sig w < 2 ^ f.p := by
  have hw := f.frac_lt w
  rw [two_pow_p hf]
  unfold FFmt.sig
  split <;> omega

/-! ### Putting a pattern together -/

/-- The pattern with a sign, an exponent field and a fraction. -/
def FFmt.pattern (f : FFmt) (neg : Bool) (ex fr : Nat) : Nat := f.signBit neg + ex * 2 ^ (f.p - 1) + fr

/-- The sign bit, in units of the exponent field. -/
theorem FFmt.signBit_eq {f : FFmt} (hf : f.Sound) (neg : Bool) : f.signBit neg = (if neg then 2 ^ f.ew else 0) * 2 ^ (f.p - 1) := by
  have hp := hf.p_ge
  unfold FFmt.signBit
  split
  · rw [← Nat.pow_add]; congr 1; omega
  · simp

section Pattern
variable {f : FFmt} (hf : f.Sound) {ex fr : Nat} (neg : Bool) (hex : ex < 2 ^ f.ew) (hfr : fr < 2 ^ (f.p - 1))

include hf hfr

theorem FFmt.frac_pattern : f.frac (f.pattern neg ex fr) = fr := by
  unfold FFmt.pattern FFmt.frac
  rw [FFmt.signBit_eq hf, ← Nat.add_mul, Nat.mul_comm, Nat.mul_add_mod, Nat.mod_eq_of_lt hfr]

include hex

theorem FFmt.expo_pattern : f.expo (f.pattern neg ex fr) = ex := by
  unfold FFmt.pattern FFmt.expo
  rw [FFmt.signBit_eq hf, ← Nat.add_mul, Nat.mul_comm, Nat.mul_add_div (Nat.two_pow_pos _), Nat.div_eq_of_lt hfr, Nat.add_zero]
  split
  · rw [Nat.add_mod_left, Nat.mod_eq_of_lt hex]
  · rw [Nat.zero_add, Nat.mod_eq_of_lt hex]

/-- Below its sign a pattern is less than the sign bit. -/
theorem FFmt.pattern_low : ex * 2 ^ (f.p - 1) + fr < 2 ^ (f.p + f.ew - 1) := by
  have hp := hf.p_ge
  calc ex * 2 ^ (f.p - 1) + fr < (ex + 1) * 2 ^ (f.p - 1) := by rw [Nat.succ_mul]; omega
    _ ≤ 2 ^ f.ew * 2 ^ (f.p - 1) := Nat.mul_le_mul_right _ hex
    _ = 2 ^ (f.p + f.ew - 1) := by rw [← Nat.pow_add]; congr 1; omega

theorem FFmt.pattern_lt : f.pattern neg ex fr < 2 ^ f.bits := by
  have hlow := FFmt.pattern_low hf hex hfr
  have hp := hf.p_ge
  have hb : 2 ^ f.bits = 2 * 2 ^ (f.p + f.ew - 1) := by
    rw [← Nat.pow_succ']; unfold FFmt.bits; congr 1; omega
  unfold FFmt.pattern FFmt.signBit
  split <;> omega

theorem FFmt.neg_pattern : f.neg (f.pattern neg ex fr) = neg := by
  have hlow := FFmt.pattern_low hf hex hfr
  unfold FFmt.pattern FFmt.signBit FFmt.neg
  rw [Nat.add_assoc]
  cases neg with
  | true => simp [Nat.add_div_left _ (Nat.two_pow_pos _), Nat.div_eq_of_lt hlow]
  | false => simp [Nat.div_eq_of_lt hlow]

end Pattern

/-! ### The pattern of a rounded magnitude -/

/-- The pattern of k·2^e with a sign, as `roundFp` forms it: k = 2^p comes from a carry out of the significand. -/
def FFmt.pack (f : FFmt) (neg : Bool) (k : Nat) (e : Int) : Nat :=
  if k < 2 ^ (f.p - 1) then f.signBit neg + k
  else
    let k' := if k = 2 ^ f.p then k / 2 else k
    let e' := if k = 2 ^ f.p then e + 1 else e
    f.signBit neg + (e' + ((f.p : Int) - 1) + f.bias).toNat * 2 ^ (f.p - 1) + (k' - 2 ^ (f.p - 1))

/-- A magnitude is within the range of a format (R48, R51). -/
def FFmt.InRange (f : FFmt) (y : ℚ) : Prop := if f.e4m3 then y ≤ 448 else y < (2 : ℚ) ^ (f.emax + 1)

/-- A pattern of the format stands for the number with this sign and magnitude. -/
structure FFmt.Stands (f : FFmt) (n : Bool) (y : ℚ) (w : Nat) : Prop where
  lt : w < 2 ^ f.bits
  fin : f.isFin w
  neg : f.neg w = n
  num : f.num w = withSign n y

section Pack
variable {f : FFmt} (hf : f.Sound) (neg : Bool) {k : Nat} {e : Int}
include hf

/-- A pattern with fields that stand for a number. -/
theorem FFmt.stands_pattern {ex fr : Nat} (hex : ex < 2 ^ f.ew) (hfr : fr < 2 ^ (f.p - 1))
    (hs : if f.e4m3 then ¬ (ex = 0xF ∧ fr = 7) else ex ≠ 2 ^ f.ew - 1) {y : ℚ}
    (hy : y = (if ex = 0 then fr else fr + 2 ^ (f.p - 1) : ℕ) * 2 ^ ((max ex 1 : ℕ) - f.bias - (f.p - 1))) :
    f.Stands neg y (f.pattern neg ex fr) := by
  have hx := FFmt.expo_pattern hf neg hex hfr
  have hr := FFmt.frac_pattern hf (ex := ex) neg hfr
  have hn := FFmt.neg_pattern hf neg hex hfr
  have hfin : f.isFin (f.pattern neg ex fr) := by
    rw [FFmt.isFin_iff]
    unfold FFmt.special
    rw [hx, hr]
    split <;> rename_i he <;> simpa [he] using hs
  refine ⟨FFmt.pattern_lt hf neg hex hfr, hfin, hn, ?_⟩
  rw [FFmt.num_of_isFin hfin, hn, hy]
  unfold FFmt.sig FFmt.ulp
  rw [hx, hr]

/-- A magnitude in range keeps its exponent field below that of the infinities, or in E4M3 below the NaN. -/
theorem FFmt.expo_of_inRange (hk : 2 ^ (f.p - 1) ≤ k) (hin : f.InRange (k * 2 ^ e)) {ex : Nat}
    (hex : (ex : Int) = e + (f.p - 1) + f.bias) :
    ex < 2 ^ f.ew ∧ if f.e4m3 then ¬ (ex = 0xF ∧ k - 2 ^ (f.p - 1) = 7) else ex ≠ 2 ^ f.ew - 1 := by
  have hp := hf.p_ge
  have hlow : (2 : ℚ) ^ (e + (f.p - 1)) ≤ k * 2 ^ e := by
    rw [add_comm, two_zpow_add, show ((f.p : Int) - 1) = ((f.p - 1 : ℕ) : Int) by omega, zpow_natCast]
    exact mul_le_mul_of_nonneg_right (by exact_mod_cast hk) (two_zpow_pos e).le
  unfold FFmt.InRange at hin
  by_cases h4 : f.e4m3 = true
  · obtain rfl := hf.e4m3 h4
    rw [if_pos h4] at hin ⊢
    have he : e + 3 < 9 := two_zpow_lt.1 ((hlow.trans hin).trans_lt (by norm_num))
    simp only [FFmt.fe4m3] at hex hk ⊢
    refine ⟨by omega, fun ⟨h15, h7⟩ => ?_⟩
    have he5 : e = 5 := by omega
    have hk15 : k = 15 := by omega
    rw [he5, hk15] at hin
    norm_num at hin
  · have hb := hf.bias (by simpa using h4)
    rw [if_neg h4] at hin ⊢
    have he := two_zpow_lt.1 (hlow.trans_lt hin)
    have hpos : (1 : Int) ≤ 2 ^ f.ew := by exact_mod_cast Nat.one_le_two_pow
    simp only [FFmt.emax, if_neg h4] at he
    have hlt : (ex : Int) < 2 ^ f.ew - 1 := by omega
    have hnat : ex < 2 ^ f.ew - 1 := by
      have : ((2 ^ f.ew : ℕ) : Int) = 2 ^ f.ew := by push_cast; rfl
      omega
    omega

/-- A magnitude with p significant bits has its pattern. -/
theorem FFmt.stands_normal (hk : 2 ^ (f.p - 1) ≤ k) (hk' : k < 2 ^ f.p) (he : f.emin ≤ e + (f.p - 1))
    (hin : f.InRange (k * 2 ^ e)) :
    f.Stands neg (k * 2 ^ e) (f.pattern neg (e + ((f.p : Int) - 1) + f.bias).toNat (k - 2 ^ (f.p - 1))) := by
  unfold FFmt.emin at he
  have hex : ((e + ((f.p : Int) - 1) + f.bias).toNat : Int) = e + (f.p - 1) + f.bias := Int.toNat_of_nonneg (by omega)
  obtain ⟨hlt, hs⟩ := FFmt.expo_of_inRange hf hk hin hex
  have h2 := two_pow_p hf
  refine FFmt.stands_pattern hf neg hlt (by omega) hs ?_
  generalize (e + ((f.p : Int) - 1) + f.bias).toNat = ex at hex hlt hs ⊢
  rw [if_neg (by omega : ex ≠ 0), Nat.sub_add_cancel hk, Nat.max_eq_left (by omega), hex]
  congr 2; ring

/-- What `roundFp` packs stands for the magnitude. -/
theorem FFmt.stands_pack (hk : k ≤ 2 ^ f.p) (he : f.emin ≤ e + (f.p - 1)) (hsub : k < 2 ^ (f.p - 1) → e + (f.p - 1) = f.emin)
    (hin : f.InRange (k * 2 ^ e)) : f.Stands neg (k * 2 ^ e) (f.pack neg k e) := by
  have h2 := two_pow_p hf
  unfold FFmt.pack
  split <;> rename_i hlt
  · have h := FFmt.stands_pattern hf neg (ex := 0) (fr := k) (y := k * 2 ^ e) (Nat.two_pow_pos _) hlt ?_ ?_
    · simpa [FFmt.pattern] using h
    · have hew : 2 ^ 2 ≤ 2 ^ f.ew := Nat.pow_le_pow_right two_pos hf.ew_ge
      split <;> omega
    · have h := hsub hlt
      unfold FFmt.emin at h
      simp only [if_true, zero_le, Nat.max_eq_right]
      congr 2; push_cast; omega
  · by_cases hc : k = 2 ^ f.p
    · have hval : (k * 2 ^ e : ℚ) = (2 ^ (f.p - 1) : ℕ) * 2 ^ (e + 1) := by
        rw [hc, h2, two_zpow_add]; push_cast; ring
      simp only [if_pos hc]
      rw [hval] at hin ⊢
      rw [hc, h2, Nat.mul_div_cancel_left _ two_pos]
      exact FFmt.stands_normal hf neg le_rfl (by have := Nat.two_pow_pos (f.p - 1); omega) (by omega) hin
    · simp only [if_neg hc]
      exact FFmt.stands_normal hf neg (not_lt.1 hlt) (by omega) he hin

end Pack

end Sys2Proof.Machine
end

section
namespace Sys2Proof.Machine

/-! ## `roundFp` rounds once (R48, R51) -/

/-- What an overflow answers (R48, R51). -/
def FFmt.overflow (f : FFmt) (neg : Bool) (rm : Rm) : Nat × Flags :=
  if f.e4m3 then (f.maxFin neg, fOf ||| fNx ||| fSat)
  else if rm = .rne ∨ rm.away neg = true then (f.inf neg, fOf ||| fNx) else (f.maxFin neg, fOf ||| fNx)

/-- The exponent of the last place that a number keeps (R48). -/
def FFmt.quantum (f : FFmt) (x : Dy) : Int := max x.log2 f.emin - (f.p - 1)

/-- The flags of a rounding that does not overflow: nx, and uf where the number is tiny as well (R48). -/
def roundFlags (inexact tiny : Bool) : Flags := Flags.when inexact fNx ||| Flags.when (tiny && inexact) fUf

theorem FFmt.quantum_eq (f : FFmt) (x : Dy) :
    (if x.log2 ≥ f.emin then x.log2 - ((f.p : Int) - 1) else f.emin - ((f.p : Int) - 1)) = f.quantum x := by
  unfold FFmt.quantum
  split <;> omega

/-- The test for an overflow is that of the number's range. -/
theorem inRange_iff (f : FFmt) (k : Nat) (e : Int) :
    f.InRange (k * 2 ^ e) ↔ ¬ (if f.e4m3 then Dy.lt ⟨448, 0⟩ ⟨k, e⟩ else Dy.le ⟨1, f.emax + 1⟩ ⟨k, e⟩) = true := by
  unfold FFmt.InRange
  split
  · rw [Dy.lt_iff]; simp [Dy.val]
  · rw [Dy.le_iff]; simp [Dy.val]

/-- `roundFp` of a nonzero number: overflow, a flushed zero, or the packed magnitude. -/
theorem roundFp_of_ne (f : FFmt) {x : Dy} (hx : x.m ≠ 0) (zs : Bool) (rm : Rm) (ftz : Bool) :
    let neg := decide (x.m < 0)
    let e := f.quantum x
    let r := roundNat x.m.natAbs (x.e - e) rm neg
    let fine := x.log2 - ((f.p : Int) - 1)
    let tiny := Dy.lt ⟨(roundNat x.m.natAbs (x.e - fine) rm neg).1, fine⟩ ⟨1, f.emin⟩
    let flushed := ftz = true ∧ r.1 < 2 ^ (f.p - 1) ∧ r.1 ≠ 0
    (¬ f.InRange (r.1 * 2 ^ e) → roundFp f x zs rm ftz = f.overflow neg rm) ∧
    (f.InRange (r.1 * 2 ^ e) → flushed → roundFp f x zs rm ftz = (f.signBit neg, roundFlags r.2 tiny ||| fUf ||| fNx)) ∧
    (f.InRange (r.1 * 2 ^ e) → ¬ flushed → roundFp f x zs rm ftz = (f.pack neg r.1 e, roundFlags r.2 tiny)) := by
  intro neg e r fine tiny flushed
  rw [inRange_iff, not_not]
  unfold roundFp
  rw [if_neg hx]
  simp only [FFmt.quantum_eq]
  refine ⟨fun hbig => if_pos hbig, fun hbig hfl => (if_neg hbig).trans (if_pos hfl),
    fun hbig hfl => (if_neg hbig).trans ((if_neg hfl).trans ?_)⟩
  unfold FFmt.pack
  by_cases hsub : r.1 < 2 ^ (f.p - 1)
  · rw [if_pos hsub, if_pos hsub]; rfl
  · rw [if_neg hsub, if_neg hsub]; rfl

section Rounding
variable {f : FFmt} (hf : f.Sound)

theorem not_inRange_iff (f : FFmt) (y : ℚ) :
    ¬ f.InRange y ↔ if f.e4m3 then 448 < y else (2 : ℚ) ^ (f.emax + 1) ≤ y := by
  unfold FFmt.InRange
  split
  · exact not_le
  · exact not_lt

include hf

/-- 2^(p−1) last places make a power of two. -/
theorem two_pow_mul_quantum (x : Dy) : ((2 ^ (f.p - 1) : ℕ) : ℚ) * 2 ^ f.quantum x = 2 ^ max x.log2 f.emin := by
  have hp := hf.p_ge
  rw [Nat.cast_pow, Nat.cast_ofNat, ← zpow_natCast, ← two_zpow_add]
  congr 1
  unfold FFmt.quantum
  omega

/-- The rounded significand has at most p bits, or is 2^p after a carry, and has p bits unless the number is subnormal. -/
theorem rounded_significand {x : Dy} (hx : x.m ≠ 0) {rm : Rm} {neg : Bool} {k : Nat}
    (hk : RoundsTo rm neg (2 ^ f.quantum x) |x.val| k) :
    k ≤ 2 ^ f.p ∧ (k < 2 ^ (f.p - 1) → f.quantum x + (f.p - 1) = f.emin) := by
  obtain ⟨hlo, hhi⟩ := Dy.log2_bounds hx
  have hq := two_zpow_pos (f.quantum x)
  have hmul := two_pow_mul_quantum hf x
  refine ⟨hk.ge_of_ge hq ?_, fun hlt => ?_⟩
  · rw [two_pow_p hf, Nat.cast_mul, mul_assoc, hmul, Nat.cast_ofNat, mul_comm, ← zpow_add_one₀ two_ne_zero]
    exact hhi.le.trans (two_zpow_le.2 (by omega))
  · by_contra hne
    have hmax : max x.log2 f.emin = x.log2 := by unfold FFmt.quantum at hne; omega
    exact absurd (hk.le_of_le hq (by rwa [hmul, hmax])) (not_le.2 hlt)

/-- A magnitude below the normal numbers has fewer than p bits. -/
theorem lt_emin_iff {x : Dy} {k : Nat} (hsub : k < 2 ^ (f.p - 1) → f.quantum x + (f.p - 1) = f.emin) :
    (k : ℚ) * 2 ^ f.quantum x < 2 ^ f.emin ↔ k < 2 ^ (f.p - 1) := by
  have hq := two_zpow_pos (f.quantum x)
  have hmul := two_pow_mul_quantum hf x
  constructor
  · intro h
    have hlt : (k : ℚ) * 2 ^ f.quantum x < (2 ^ (f.p - 1) : ℕ) * 2 ^ f.quantum x :=
      h.trans_le (hmul ▸ two_zpow_le.2 (le_max_right ..))
    exact_mod_cast lt_of_mul_lt_mul_right hlt hq.le
  · intro h
    have hmax : max x.log2 f.emin = f.emin := by have := hsub h; unfold FFmt.quantum at this; omega
    rw [← hmax, ← hmul]
    exact mul_lt_mul_of_pos_right (by exact_mod_cast h) hq

omit hf in
/-- The flags by what the rounding changed (R48). -/
theorem roundFlags_eq {inexact tiny : Bool} {y a : ℚ} (hx : inexact = true ↔ y ≠ a) {p : Prop} [Decidable p]
    (ht : tiny = true ↔ p) :
    roundFlags inexact tiny = if y = a then 0 else if p then fUf ||| fNx else fNx := by
  cases inexact with
  | false => simp only [Bool.false_eq_true, false_iff, not_not] at hx; rw [if_pos hx]; cases tiny <;> rfl
  | true =>
    rw [if_neg (hx.1 rfl)]
    cases tiny with
    | false => rw [if_neg fun h => Bool.false_ne_true (ht.2 h)]; rfl
    | true => rw [if_pos (ht.1 rfl)]; rfl

omit hf in
theorem roundFlags_flushed (inexact tiny : Bool) : roundFlags inexact tiny ||| fUf ||| fNx = fUf ||| fNx := by
  cases inexact <;> cases tiny <;> rfl

/-- `roundFp` forms the rounded number of its exact argument (R48, R51). -/
theorem roundFp_rounded (x : Dy) (zs : Bool) (rm : Rm) (ftz : Bool) : Rounded f x.val zs rm ftz (roundFp f x zs rm ftz) := by
  by_cases hx : x.m = 0
  · exact ⟨fun _ => if_pos hx, fun h => absurd (x.val_eq_zero_iff.2 hx) h⟩
  · refine ⟨fun h => absurd (x.val_eq_zero_iff.1 h) hx, fun _ => ?_⟩
    have hneg : decide (x.m < 0) = decide (x.val < 0) := decide_eq_decide.2 x.val_neg_iff.symm
    obtain ⟨hover, hflush, hpack⟩ := hneg ▸ roundFp_of_ne f hx zs rm ftz
    obtain ⟨hlo, hhi⟩ := Dy.log2_bounds hx
    obtain ⟨hk, hinexact⟩ := roundNat_roundsTo x.m.natAbs x.e (f.quantum x) rm (decide (x.val < 0))
    obtain ⟨hi, -⟩ := roundNat_roundsTo x.m.natAbs x.e (x.log2 - ((f.p : Int) - 1)) rm (decide (x.val < 0))
    rw [← Dy.abs_val] at hk hinexact hi
    obtain ⟨hkp, hsub⟩ := rounded_significand hf hx hk
    have htiny := Dy.lt_iff ⟨(roundNat x.m.natAbs (x.e - (x.log2 - ((f.p : Int) - 1))) rm (decide (x.val < 0))).1,
      x.log2 - ((f.p : Int) - 1)⟩ ⟨1, f.emin⟩
    refine ⟨x.log2, _, _, hlo, hhi, hi, hk, fun hbig => hover ((not_inRange_iff f _).2 hbig), fun hbig hfl => ?_, fun hbig hfl => ?_⟩
    · have hin := not_not.1 (mt (not_inRange_iff f _).1 hbig)
      exact (hflush hin ⟨hfl.1, (lt_emin_iff hf hsub).1 hfl.2.1, hfl.2.2⟩).trans (congrArg _ (roundFlags_flushed ..))
    · have hin := not_not.1 (mt (not_inRange_iff f _).1 hbig)
      have hr := hpack hin fun h => hfl ⟨h.1, (lt_emin_iff hf hsub).2 h.2.1, h.2.2⟩
      obtain ⟨hlt, hfin, hn, hnum⟩ := FFmt.stands_pack hf (decide (x.val < 0)) hkp (by unfold FFmt.quantum; omega) hsub hin
      rw [hr]
      refine ⟨hlt, hfin, hn, hnum, (roundFlags_eq hinexact htiny).trans ?_⟩
      simp only [Dy.val, Int.cast_one, one_mul, Int.cast_natCast]
      rfl

end Rounding

end Sys2Proof.Machine
end

section
namespace Sys2Proof.Machine

/-! ## What a rounded result is (R48) -/

section Bounds
variable {f : FFmt} (hf : f.Sound) (neg : Bool)
include hf

theorem two_pow_bits : 2 ^ f.bits = 2 * (2 ^ f.ew * 2 ^ (f.p - 1)) := by
  have hp := hf.p_ge
  rw [← Nat.pow_add, ← Nat.pow_succ']
  unfold FFmt.bits
  congr 1; omega

/-- What fits below the sign bit fits the format with its sign. -/
theorem FFmt.signBit_add_lt {n : Nat} (h : n < 2 ^ f.ew * 2 ^ (f.p - 1)) : f.signBit neg + n < 2 ^ f.bits := by
  rw [FFmt.signBit_eq hf, two_pow_bits hf]
  split <;> omega

theorem FFmt.signBit_lt : f.signBit neg < 2 ^ f.bits := by
  simpa using FFmt.signBit_add_lt hf neg (Nat.mul_pos (Nat.two_pow_pos f.ew) (Nat.two_pow_pos (f.p - 1)))

theorem FFmt.inf_lt : f.inf neg < 2 ^ f.bits := by
  refine FFmt.signBit_add_lt hf neg ?_
  split <;> rename_i h4
  · obtain rfl := hf.e4m3 h4; decide
  · exact Nat.mul_lt_mul_of_pos_right (Nat.sub_lt (Nat.two_pow_pos _) one_pos) (Nat.two_pow_pos _)

theorem FFmt.maxFin_lt : f.maxFin neg < 2 ^ f.bits := by
  refine FFmt.signBit_add_lt hf neg ?_
  split <;> rename_i h4
  · obtain rfl := hf.e4m3 h4; decide
  · exact (Nat.sub_le ..).trans_lt (Nat.mul_lt_mul_of_pos_right (Nat.sub_lt (Nat.two_pow_pos _) one_pos) (Nat.two_pow_pos _))

theorem Rounded.lt {x : ℚ} {zs : Bool} {rm : Rm} {ftz : Bool} {r : Nat × Flags} (h : Rounded f x zs rm ftz r) :
    r.1 < 2 ^ f.bits := by
  obtain ⟨h0, hne⟩ := h
  by_cases hx : x = 0
  · rw [h0 hx]; exact FFmt.signBit_lt hf zs
  · obtain ⟨l, i, k, -, -, -, -, hbig, hflush, hfin⟩ := hne hx
    by_cases hb : if f.e4m3 then 448 < (k : ℚ) * 2 ^ (max l f.emin - (f.p - 1)) else
        (2 : ℚ) ^ (f.emax + 1) ≤ k * 2 ^ (max l f.emin - (f.p - 1))
    · rw [hbig hb]
      split_ifs
      exacts [FFmt.maxFin_lt hf _, FFmt.inf_lt hf _, FFmt.maxFin_lt hf _]
    · by_cases hfl : ftz = true ∧ (k : ℚ) * 2 ^ (max l f.emin - (f.p - 1)) < 2 ^ f.emin ∧ k ≠ 0
      · rw [hflush hb hfl]; exact FFmt.signBit_lt hf _
      · exact (hfin hb hfl).1

end Bounds

/-- A magnitude that a format with infinities holds exactly: n·2^e with at most p bits, no finer than the last place of the subnormal
numbers and below the overflow. -/
structure FFmt.Holds (f : FFmt) (y : ℚ) : Prop where
  ieee : f.e4m3 = false
  lt : y < 2 ^ (f.emax + 1)
  dyadic : ∃ (n : ℕ) (e : ℤ), y = n * 2 ^ e ∧ n < 2 ^ f.p ∧ f.emin - (f.p - 1) ≤ e

/-- What a format holds is a multiple of the last place that rounding keeps. -/
theorem FFmt.Holds.multiple {f : FFmt} {y : ℚ} (h : f.Holds y) {l : ℤ} (hl : (2 : ℚ) ^ l ≤ y) :
    ∃ a : ℕ, y = a * 2 ^ (max l f.emin - (f.p - 1)) := by
  obtain ⟨n, e, rfl, hn, he⟩ := h.dyadic
  have hle : max l f.emin - (f.p - 1) ≤ e := by
    have hlt : (2 : ℚ) ^ l < 2 ^ (f.p + e : ℤ) := by
      rw [two_zpow_add, zpow_natCast]
      exact hl.trans_lt (mul_lt_mul_of_pos_right (by exact_mod_cast hn) (two_zpow_pos e))
    have := two_zpow_lt.1 hlt
    omega
  obtain ⟨d, hd⟩ := Int.le.dest hle
  refine ⟨n * 2 ^ d, ?_⟩
  rw [← hd]
  push_cast
  rw [two_zpow_add, zpow_natCast]; ring

/-- A number that the format holds is not changed. -/
theorem Rounded.exact {f : FFmt} (hf : f.Sound) {neg : Bool} {y : ℚ} (hy : 0 ≤ y) (hh : f.Holds y) {rm : Rm} {r : Nat × Flags}
    (h : Rounded f (withSign neg y) neg rm false r) : f.Stands neg y r.1 ∧ r.2 = 0 := by
  obtain ⟨h0, hne⟩ := h
  rcases hy.eq_or_lt with rfl | hpos
  · have hr := h0 (by unfold withSign; split <;> simp)
    have hp := FFmt.stands_pack hf neg (k := 0) (e := f.emin - (f.p - 1)) (Nat.zero_le _) (by omega) (fun _ => by omega)
      (by unfold FFmt.InRange; rw [if_neg (by simp [hh.ieee])]; simpa using two_zpow_pos _)
    rw [hr]
    simpa [FFmt.pack] using hp
  · have habs : |withSign neg y| = y := by unfold withSign; split <;> simp [abs_of_pos hpos]
    have hsign : decide (withSign neg y < 0) = neg := by unfold withSign; cases neg <;> simp [hpos, hpos.le]
    have hnz : withSign neg y ≠ 0 := by rw [← abs_pos, habs]; exact hpos
    obtain ⟨l, i, k, hlo, -, -, hk, -, -, hfin⟩ := hne hnz
    simp only [hsign, habs, hh.ieee, Bool.false_eq_true, if_false, false_and, not_false_eq_true, true_imp_iff] at hfin hlo hk
    obtain ⟨a, ha⟩ := hh.multiple hlo
    have hka := hk.eq_of_eq (two_zpow_pos _) ha
    rw [hka, ← ha] at hfin
    obtain ⟨hlt, hfn, hn, hnum, hfl⟩ := hfin (not_le.2 hh.lt)
    exact ⟨⟨hlt, hfn, hn, hnum⟩, by rw [hfl, if_pos rfl]⟩

end Sys2Proof.Machine
end

section
namespace Sys2Proof.Machine

/-! ## NaN operands (R49, R50) -/

theorem firstNan_eq_none_iff {f : FFmt} {ws : List Nat} : firstNan f ws = none ↔ ∀ w ∈ ws, (f.decode w).isNan = false := by
  induction ws with
  | nil => simp [firstNan]
  | cons w ws ih =>
    unfold firstNan
    cases h : (f.decode w).isNan
    · simp [h, ih]
    · simp [h]

theorem firstNan_append {f : FFmt} {a : List Nat} (ha : ∀ v ∈ a, (f.decode v).isNan = false) {w : Nat}
    (hw : (f.decode w).isNan = true) (b : List Nat) : firstNan f (a ++ w :: b) = some (f.quiet w) := by
  induction a with
  | nil => simp [firstNan, hw]
  | cons v a ih => simp [firstNan, ha v, ih fun u hu => ha u (List.mem_cons_of_mem _ hu)]

theorem nanFlags_of_mem {vs : List FV} {v : FV} (hv : v ∈ vs) (hn : v.isNan = true) :
    nanFlags vs = fNanin ||| if vs.any FV.isSnan then fNv else 0 := by
  have hany : vs.any FV.isNan = true := List.any_eq_true.2 ⟨v, hv, hn⟩
  simp [nanFlags, Flags.when, hany]

/-- An operation that answers its first NaN operand, with the flags of all of them. -/
theorem nanResult_of {f : FFmt} {ws : List Nat} {more : Flags} {r : Nat × Flags}
    (h : ∀ q, firstNan f ws = some q → r = (q, nanFlags (ws.map f.decode) ||| more)) : NanResult f ws more r := by
  rintro a w b rfl ha hw
  rw [h _ (firstNan_append ha hw b), nanFlags_of_mem (List.mem_map_of_mem (by simp)) hw, List.any_map]
  exact ⟨rfl, rfl⟩

/-! ## Sums and products (R49, R50, R136, R137) -/

/-- What is not a NaN is an infinity or a number. -/
theorem FV.inf_or_fin {v : FV} (h : v.isNan = false) : (∃ n, v = .inf n) ∨ ∃ n m e, v = .fin n m e := by
  cases v with
  | nan n s fr => simp [FV.isNan] at h
  | inf n => exact .inl ⟨n, rfl⟩
  | fin n m e => exact .inr ⟨n, m, e, rfl⟩

@[simp] theorem FV.negate_isNan (v : FV) : v.negate.isNan = v.isNan := by cases v <;> rfl
@[simp] theorem FV.negate_isInf (v : FV) : v.negate.isInf = v.isInf := by cases v <;> rfl

theorem FV.negate_isNeg {v : FV} (h : v.isNan = false) : v.negate.isNeg = !v.isNeg := by
  obtain ⟨n, rfl⟩ | ⟨n, m, e, rfl⟩ := FV.inf_or_fin h <;> rfl

@[simp] theorem FV.negate_val (v : FV) : v.negate.dy.val = -v.dy.val := by
  cases v with
  | fin n m e => rw [FV.negate, FV.fin_val, FV.fin_val]; cases n <;> simp [withSign]
  | nan _ _ _ | inf _ => simp [FV.negate, FV.dy]

theorem zeroSumSign_eq (na nb : Bool) (rm : Rm) : zeroSumSign na nb rm = if na = nb then na else rm == .rdn := by
  cases rm <;> rfl

/-- Addition of what two patterns denote. -/
theorem addFV_summed {f : FFmt} (hf : f.Sound) {a b : FV} (ha : a.isNan = false) (hb : b.isNan = false) (rm : Rm) (ftz : Bool) :
    Summed f rm ftz (rm == .rdn) a.isInf b.isInf a.isNeg b.isNeg (a.dy.val + b.dy.val) (addFV f a b rm ftz) := by
  unfold Summed
  obtain ⟨na, rfl⟩ | ⟨na, ma, ea, rfl⟩ := FV.inf_or_fin ha <;> obtain ⟨nb, rfl⟩ | ⟨nb, mb, eb, rfl⟩ := FV.inf_or_fin hb
  · by_cases h : na = nb <;> simp [addFV, FV.isInf, FV.isNeg, h]
  · simp [addFV, FV.isInf]; rfl
  · simp [addFV, FV.isInf]; rfl
  · have h := roundFp_rounded hf ((FV.fin na ma ea).dy.add (FV.fin nb mb eb).dy) (zeroSumSign na nb rm) rm ftz
    simp only [FV.isInf, Bool.false_eq_true, false_and, if_false]
    rw [Dy.val_add] at h
    exact zeroSumSign_eq na nb rm ▸ h

/-- A product is invalid exactly where a zero meets an infinity; else it is exact, an infinity if an operand is one. -/
theorem mulFV_spec {a b : FV} (ha : a.isNan = false) (hb : b.isNan = false) :
    if (a.isInf && b.isZero) || (a.isZero && b.isInf) then mulFV a b = none
    else ∃ v, mulFV a b = some v ∧ v.isNan = false ∧ v.isInf = (a.isInf || b.isInf) ∧ v.isNeg = (a.isNeg != b.isNeg) ∧
      v.dy.val = a.dy.val * b.dy.val := by
  obtain ⟨na, rfl⟩ | ⟨na, ma, ea, rfl⟩ := FV.inf_or_fin ha <;> obtain ⟨nb, rfl⟩ | ⟨nb, mb, eb, rfl⟩ := FV.inf_or_fin hb
  · simp [mulFV, FV.isInf, FV.isZero, FV.isNan, FV.isNeg, FV.dy]
  · by_cases h : mb = 0 <;> simp [mulFV, FV.isInf, FV.isZero, FV.isNan, FV.isNeg, FV.dy, h]
  · by_cases h : ma = 0 <;> simp [mulFV, FV.isInf, FV.isZero, FV.isNan, FV.isNeg, FV.dy, h]
  · have hval : (FV.fin (na != nb) (ma * mb) (ea + eb)).dy.val = (FV.fin na ma ea).dy.val * (FV.fin nb mb eb).dy.val := by
      simp only [FV.fin_val, two_zpow_add]
      push_cast
      cases na <;> cases nb <;> simp [withSign] <;> ring
    simp only [FV.isInf, FV.isZero, Bool.false_and, Bool.and_false, Bool.or_false, Bool.false_eq_true, if_false]
    exact ⟨_, rfl, rfl, rfl, rfl, hval⟩

/-- The product of operands without a NaN is invalid where a zero meets an infinity. -/
theorem mulFV_invalid (a b : FV) :
    (!(a.isNan || b.isNan) && (mulFV a b).isNone) = ((a.isInf && b.isZero) || (a.isZero && b.isInf)) := by
  cases a with
  | nan => simp [FV.isNan, FV.isInf, FV.isZero]
  | inf n => cases b <;> simp [FV.isNan, FV.isInf, FV.isZero, mulFV, apply_ite Option.isNone]
  | fin n m e => cases b <;> simp [FV.isNan, FV.isInf, FV.isZero, mulFV, apply_ite Option.isNone]

section Lanes
variable {f : FFmt} (hf : f.Sound) (rm : Rm) {a b : Nat}

theorem fpAdd_nan (f : FFmt) (rm : Rm) (a b : Nat) : NanResult f [a, b] 0 (fpAdd f rm a b) :=
  nanResult_of fun q hq => by simp [fpAdd, hq]

theorem fpSub_nan (f : FFmt) (rm : Rm) (a b : Nat) : NanResult f [a, b] 0 (fpSub f rm a b) :=
  nanResult_of fun q hq => by simp [fpSub, hq]

theorem fpMul_nan (f : FFmt) (rm : Rm) (a b : Nat) : NanResult f [a, b] 0 (fpMul f rm a b) :=
  nanResult_of fun q hq => by simp [fpMul, hq]

theorem fpMin_nan (f : FFmt) (a b : Nat) : NanResult f [a, b] 0 (fpMin f a b) :=
  nanResult_of fun q hq => by simp [fpMin, hq]

theorem fpMax_nan (f : FFmt) (a b : Nat) : NanResult f [a, b] 0 (fpMax f a b) :=
  nanResult_of fun q hq => by simp [fpMax, hq]

theorem treeAdd_nan (a b : Nat) : NanResult .fp32 [a, b] 0 (treeAdd a b) :=
  nanResult_of fun q hq => by simp [treeAdd, hq]

theorem firstNan_pair (ha : (f.decode a).isNan = false) (hb : (f.decode b).isNan = false) : firstNan f [a, b] = none :=
  firstNan_eq_none_iff.2 (by simp [ha, hb])

include hf

theorem fpAdd_summed (ha : (f.decode a).isNan = false) (hb : (f.decode b).isNan = false) :
    Summed f rm false (rm == .rdn) (f.decode a).isInf (f.decode b).isInf (f.neg a) (f.neg b) (f.num a + f.num b) (fpAdd f rm a b) := by
  have h := addFV_summed hf ha hb rm false
  simpa [fpAdd, firstNan_pair ha hb, FFmt.num] using h

theorem fpSub_summed (ha : (f.decode a).isNan = false) (hb : (f.decode b).isNan = false) :
    Summed f rm false (rm == .rdn) (f.decode a).isInf (f.decode b).isInf (f.neg a) (!f.neg b) (f.num a - f.num b) (fpSub f rm a b) := by
  have h := addFV_summed hf (b := (f.decode b).negate) ha (by simpa using hb) rm false
  simpa [fpSub, firstNan_pair ha hb, FFmt.num, FV.negate_isNeg hb, sub_eq_add_neg] using h

theorem fpMul_spec (ha : (f.decode a).isNan = false) (hb : (f.decode b).isNan = false) :
    if ((f.decode a).isInf && (f.decode b).isZero) || ((f.decode a).isZero && (f.decode b).isInf) then fpMul f rm a b = (f.defNan, fNv)
    else if (f.decode a).isInf || (f.decode b).isInf then fpMul f rm a b = (f.inf (f.neg a != f.neg b), 0)
    else Rounded f (f.num a * f.num b) (f.neg a != f.neg b) rm false (fpMul f rm a b) := by
  have h := mulFV_spec ha hb
  split_ifs at h ⊢ with hbad hinf
  · simp [fpMul, firstNan_pair ha hb, h]
  · obtain ⟨v, hv, hnan, hi, hn, -⟩ := h
    rw [FFmt.decode_isNeg, FFmt.decode_isNeg] at hn
    obtain ⟨n, rfl⟩ | ⟨n, m, e, rfl⟩ := FV.inf_or_fin hnan
    · obtain rfl : n = _ := hn
      simp [fpMul, firstNan_pair ha hb, hv]
    · exact absurd (hi.trans hinf) Bool.false_ne_true
  · obtain ⟨v, hv, hnan, hi, hn, hval⟩ := h
    rw [FFmt.decode_isNeg, FFmt.decode_isNeg] at hn
    obtain ⟨n, rfl⟩ | ⟨n, m, e, rfl⟩ := FV.inf_or_fin hnan
    · exact absurd hi.symm hinf
    · obtain rfl : n = _ := hn
      have hr := roundFp_rounded hf (FV.fin (f.neg a != f.neg b) m e).dy (f.neg a != f.neg b) rm false
      rw [hval] at hr
      simpa [fpMul, firstNan_pair ha hb, hv, FFmt.num, FV.isNeg] using hr

/-- A fused product and sum: an invalid product, or the sum of the exact product and the addend (R137). -/
theorem fpFma_spec {c : Nat} (pn cn : Bool) (ha : (f.decode a).isNan = false) (hb : (f.decode b).isNan = false)
    (hc : (f.decode c).isNan = false) :
    if ((f.decode a).isInf && (f.decode b).isZero) || ((f.decode a).isZero && (f.decode b).isInf) then
      fpFma f rm pn cn a b c = (f.defNan, fNv)
    else Summed f rm false (rm == .rdn) ((f.decode a).isInf || (f.decode b).isInf) (f.decode c).isInf ((f.neg a != f.neg b) != pn)
      (f.neg c != cn) (withSign pn (f.num a * f.num b) + withSign cn (f.num c)) (fpFma f rm pn cn a b c) := by
  have h := mulFV_spec ha hb
  have hnone : firstNan f [a, b, c] = none := firstNan_eq_none_iff.2 (by simp [ha, hb, hc])
  split_ifs at h ⊢ with hbad
  · simp [fpFma, hnone, h]
  · obtain ⟨v, hv, hnan, hi, hn, hval⟩ := h
    have hsum := addFV_summed hf (a := if pn then v.negate else v) (b := if cn then (f.decode c).negate else f.decode c)
      (by split <;> simp [hnan]) (by split <;> simp [hc]) rm false
    have hres : fpFma f rm pn cn a b c =
        addFV f (if pn then v.negate else v) (if cn then (f.decode c).negate else f.decode c) rm false := by
      simp [fpFma, hnone, hv]
    rw [hres]
    rw [FFmt.decode_isNeg, FFmt.decode_isNeg] at hn
    cases pn <;> cases cn <;> simpa [withSign, hi, hn, hval, FV.negate_isNeg, hnan, hc, FFmt.num] using hsum

omit hf in
/-- A NaN operand of a fused product and sum wins, with nv for an invalid product besides (R49, R50). -/
theorem fpFma_nan (f : FFmt) (rm : Rm) (pn cn : Bool) (a b c : Nat) :
    NanResult f [a, b, c]
      (if ((f.decode a).isInf && (f.decode b).isZero) || ((f.decode a).isZero && (f.decode b).isInf) then fNv else 0)
      (fpFma f rm pn cn a b c) := by
  refine nanResult_of fun q hq => ?_
  simp only [fpFma, hq, mulFV_invalid]
  rfl

end Lanes

end Sys2Proof.Machine
end

section
namespace Sys2Proof.Machine

/-! ## The order of patterns (R50, R138) -/

/-- A pattern without its sign. -/
def FFmt.low (f : FFmt) (w : Nat) : Nat := w % 2 ^ (f.bits - 1)

/-- The place of a pattern in the order of the numbers, both zeros at 0. -/
def FFmt.place (f : FFmt) (w : Nat) : Int := if f.neg w then -(f.low w : Int) else f.low w

/-- The magnitude of a pattern in units of the smallest subnormal number. -/
def FFmt.steps (f : FFmt) (w : Nat) : Nat := f.sig w * 2 ^ (f.expo w - 1)

section Order
variable {f : FFmt} (hf : f.Sound)
include hf

theorem FFmt.low_eq (w : Nat) : f.low w = f.expo w * 2 ^ (f.p - 1) + f.frac w := by
  have hp := hf.p_ge
  have hb : f.bits - 1 = (f.p - 1) + f.ew := by unfold FFmt.bits; omega
  unfold FFmt.low FFmt.expo FFmt.frac
  rw [hb, Nat.pow_add, Nat.mod_mul, Nat.add_comm, Nat.mul_comm]

omit hf in
theorem FFmt.magnitude_eq (w : Nat) : (f.sig w : ℚ) * 2 ^ f.ulp w = f.steps w * 2 ^ (f.emin - (f.p - 1)) := by
  unfold FFmt.steps FFmt.ulp FFmt.emin
  push_cast
  rw [mul_assoc, ← zpow_natCast (2 : ℚ) (f.expo w - 1), ← two_zpow_add]
  congr 2
  omega

omit hf in
/-- A pattern is below every one of a greater exponent. -/
theorem FFmt.steps_lt_of_expo_le {w e : Nat} (h : f.expo w ≤ e) : f.steps w < 2 ^ (f.p - 1) * 2 ^ e := by
  have hw := f.frac_lt w
  unfold FFmt.steps FFmt.sig
  by_cases h0 : f.expo w = 0
  · rw [if_pos h0, h0]
    exact Nat.mul_lt_mul_of_lt_of_le hw (Nat.pow_le_pow_right two_pos (Nat.zero_le e)) (Nat.two_pow_pos _)
  · rw [if_neg h0]
    calc (f.frac w + 2 ^ (f.p - 1)) * 2 ^ (f.expo w - 1) < (2 * 2 ^ (f.p - 1)) * 2 ^ (f.expo w - 1) :=
          Nat.mul_lt_mul_of_pos_right (by omega) (Nat.two_pow_pos _)
      _ = 2 ^ (f.p - 1) * 2 ^ (f.expo w - 1 + 1) := by ring
      _ ≤ 2 ^ (f.p - 1) * 2 ^ e := Nat.mul_le_mul_left _ (Nat.pow_le_pow_right two_pos (by omega))

/-- Magnitudes grow with their patterns. -/
theorem FFmt.steps_lt {v w : Nat} (h : f.low v < f.low w) : f.steps v < f.steps w := by
  rw [FFmt.low_eq hf, FFmt.low_eq hf] at h
  have hv := f.frac_lt v
  have hw := f.frac_lt w
  rcases lt_trichotomy (f.expo v) (f.expo w) with he | he | he
  · refine (FFmt.steps_lt_of_expo_le (Nat.le_sub_one_of_lt he)).trans_le ?_
    unfold FFmt.steps FFmt.sig
    rw [if_neg (by omega : f.expo w ≠ 0)]
    exact Nat.mul_le_mul_right _ (Nat.le_add_left ..)
  · unfold FFmt.steps FFmt.sig
    rw [he] at h ⊢
    refine Nat.mul_lt_mul_of_pos_right ?_ (Nat.two_pow_pos _)
    split <;> omega
  · have hle : (f.expo w + 1) * 2 ^ (f.p - 1) ≤ f.expo v * 2 ^ (f.p - 1) := Nat.mul_le_mul_right _ he
    rw [Nat.succ_mul] at hle
    omega

theorem FFmt.steps_congr {v w : Nat} (h : f.low v = f.low w) : f.steps v = f.steps w := by
  have hv := f.frac_lt v
  have hw := f.frac_lt w
  have hexpo : ∀ {u : Nat}, f.frac u < 2 ^ (f.p - 1) → f.expo u = f.low u / 2 ^ (f.p - 1) ∧ f.frac u = f.low u % 2 ^ (f.p - 1) :=
    fun hu => by
      rw [FFmt.low_eq hf, Nat.mul_comm, Nat.mul_add_div (Nat.two_pow_pos _), Nat.mul_add_mod, Nat.div_eq_of_lt hu, Nat.mod_eq_of_lt hu]
      exact ⟨rfl, rfl⟩
  unfold FFmt.steps FFmt.sig
  rw [(hexpo hv).1, (hexpo hv).2, (hexpo hw).1, (hexpo hw).2, h]

theorem FFmt.steps_lt_iff (v w : Nat) : f.steps v < f.steps w ↔ f.low v < f.low w := by
  refine ⟨fun h => ?_, FFmt.steps_lt hf⟩
  rcases lt_trichotomy (f.low v) (f.low w) with hl | hl | hl
  · exact hl
  · exact absurd (FFmt.steps_congr hf hl) h.ne
  · exact absurd (FFmt.steps_lt hf hl) h.not_gt

theorem FFmt.steps_pos_iff (w : Nat) : 0 < f.steps w ↔ 0 < f.low w := by
  have h := FFmt.steps_lt_iff hf 0 w
  rwa [show f.steps 0 = 0 by simp [FFmt.steps, FFmt.sig, FFmt.expo, FFmt.frac], show f.low 0 = 0 from Nat.zero_mod _] at h

/-- Numbers are ordered as their patterns are. -/
theorem FFmt.num_lt_iff {a b : Nat} (ha : f.isFin a) (hb : f.isFin b) : f.num a < f.num b ↔ f.place a < f.place b := by
  have hsteps : ∀ {w : Nat}, f.isFin w →
      f.num w = ((if f.neg w then -(f.steps w : Int) else f.steps w : Int) : ℚ) * 2 ^ (f.emin - (f.p - 1)) := fun hw => by
    rw [FFmt.num_of_isFin hw, FFmt.magnitude_eq]
    unfold withSign
    split <;> push_cast <;> ring
  rw [hsteps ha, hsteps hb, mul_lt_mul_iff_left₀ (two_zpow_pos _), Int.cast_lt]
  have hab := FFmt.steps_lt_iff hf a b
  have hba := FFmt.steps_lt_iff hf b a
  have ha0 := FFmt.steps_pos_iff hf a
  have hb0 := FFmt.steps_pos_iff hf b
  unfold FFmt.place
  split <;> split <;> omega

theorem FFmt.num_eq_iff {a b : Nat} (ha : f.isFin a) (hb : f.isFin b) : f.num a = f.num b ↔ f.place a = f.place b := by
  have hab := FFmt.num_lt_iff hf ha hb
  have hba := FFmt.num_lt_iff hf hb ha
  rw [le_antisymm_iff, ← not_lt, ← not_lt, hab, hba]
  omega

/-! ### Infinities in the order -/

/-- The place of +inf. -/
theorem FFmt.top_pos : 0 < (2 ^ f.ew - 1) * 2 ^ (f.p - 1) :=
  Nat.mul_pos (Nat.sub_pos_of_lt (Nat.one_lt_two_pow (by have := hf.ew_ge; omega))) (Nat.two_pow_pos _)

variable (hi : f.e4m3 = false)
include hi

theorem FFmt.low_of_inf {w : Nat} (h : (f.decode w).isInf = true) : f.low w = (2 ^ f.ew - 1) * 2 ^ (f.p - 1) := by
  by_cases hs : f.special w
  · have hd := FFmt.decode_of_special hs
    rw [hi] at hd
    unfold FFmt.special at hs
    rw [hi] at hs
    simp only [Bool.false_eq_true, if_false] at hd hs
    rw [hd] at h
    have h0 : f.frac w = 0 := by
      by_contra h0
      rw [if_neg h0] at h
      exact Bool.false_ne_true h
    rw [FFmt.low_eq hf, hs, h0, Nat.add_zero]
  · rw [FFmt.decode_of_not_special hs] at h
    exact absurd h Bool.false_ne_true

theorem FFmt.low_of_isFin {w : Nat} (h : f.isFin w) : f.low w < (2 ^ f.ew - 1) * 2 ^ (f.p - 1) := by
  have hx := f.expo_lt w
  have hr := f.frac_lt w
  have hs := (f.isFin_iff w).1 h
  unfold FFmt.special at hs
  rw [hi] at hs
  simp only [Bool.false_eq_true, if_false] at hs
  calc f.low w < (f.expo w + 1) * 2 ^ (f.p - 1) := by rw [FFmt.low_eq hf, Nat.succ_mul]; omega
    _ ≤ (2 ^ f.ew - 1) * 2 ^ (f.p - 1) := Nat.mul_le_mul_right _ (by omega)

/-- What a pattern without a NaN is in the order: an infinity beyond the numbers, or a number. -/
theorem FFmt.inf_or_isFin {w : Nat} (h : (f.decode w).isNan = false) :
    (f.decode w = .inf (f.neg w) ∧ f.low w = (2 ^ f.ew - 1) * 2 ^ (f.p - 1)) ∨
      (∃ m e, f.decode w = .fin (f.neg w) m e) ∧ f.isFin w ∧ f.low w < (2 ^ f.ew - 1) * 2 ^ (f.p - 1) := by
  have hn := f.decode_isNeg w
  obtain ⟨n, hd⟩ | ⟨n, m, e, hd⟩ := FV.inf_or_fin h
  · rw [hd] at hn
    obtain rfl : n = f.neg w := hn
    exact .inl ⟨hd, FFmt.low_of_inf hf hi (by rw [hd]; rfl)⟩
  · rw [hd] at hn
    obtain rfl : n = f.neg w := hn
    have hfin : f.isFin w := ⟨h, by rw [hd]; rfl⟩
    exact .inr ⟨⟨m, e, hd⟩, hfin, FFmt.low_of_isFin hf hi hfin⟩

/-- The order of what patterns denote, with both zeros equal. -/
theorem ltNum_iff {a b : Nat} (ha : (f.decode a).isNan = false) (hb : (f.decode b).isNan = false) :
    ltNum (f.decode a) (f.decode b) = true ↔ f.place a < f.place b := by
  have htop := FFmt.top_pos hf
  obtain ⟨hda, hla⟩ | ⟨⟨ma, ea, hda⟩, hfa, hla⟩ := FFmt.inf_or_isFin hf hi ha <;>
    obtain ⟨hdb, hlb⟩ | ⟨⟨mb, eb, hdb⟩, hfb, hlb⟩ := FFmt.inf_or_isFin hf hi hb
  case inr.inr =>
    rw [← FFmt.num_lt_iff hf hfa hfb, FFmt.num, FFmt.num, ← Dy.lt_iff, hda, hdb]
    rfl
  all_goals
    rw [hda, hdb]
    unfold FFmt.place
    cases f.neg a <;> cases f.neg b <;> simp [ltNum] <;> omega

/-- The order with −0 below +0. -/
theorem ltFV_iff {a b : Nat} (ha : (f.decode a).isNan = false) (hb : (f.decode b).isNan = false) :
    ltFV (f.decode a) (f.decode b) = true ↔ f.place a < f.place b ∨ (f.place a = f.place b ∧ f.neg a = true ∧ f.neg b = false) := by
  have htop := FFmt.top_pos hf
  obtain ⟨hda, hla⟩ | ⟨⟨ma, ea, hda⟩, hfa, hla⟩ := FFmt.inf_or_isFin hf hi ha <;>
    obtain ⟨hdb, hlb⟩ | ⟨⟨mb, eb, hdb⟩, hfb, hlb⟩ := FFmt.inf_or_isFin hf hi hb
  case inr.inr =>
    rw [← FFmt.num_lt_iff hf hfa hfb, ← FFmt.num_eq_iff hf hfa hfb, FFmt.num, FFmt.num, ← Dy.lt_iff, ← Dy.eqv_iff, hda, hdb]
    simp [ltFV, FV.isNeg, and_assoc]
  all_goals
    rw [hda, hdb]
    unfold FFmt.place
    cases f.neg a <;> cases f.neg b <;> simp [ltFV] <;> omega

/-- The order of patterns as one number, −0 below +0 (R50). -/
def FFmt.key (f : FFmt) (w : Nat) : Int := if f.neg w then -(f.low w : Int) - 1 else f.low w

theorem ltFV_iff_key {a b : Nat} (ha : (f.decode a).isNan = false) (hb : (f.decode b).isNan = false) :
    ltFV (f.decode a) (f.decode b) = true ↔ f.key a < f.key b := by
  rw [ltFV_iff hf hi ha hb]
  unfold FFmt.place FFmt.key
  cases f.neg a <;> cases f.neg b <;> simp <;> omega

theorem fpMin_eq {a b : Nat} (ha : (f.decode a).isNan = false) (hb : (f.decode b).isNan = false) :
    fpMin f a b = (if f.key b < f.key a then b else a, 0) := by
  simp only [fpMin, firstNan_pair ha hb, ltFV_iff_key hf hi hb ha]

theorem fpMax_eq {a b : Nat} (ha : (f.decode a).isNan = false) (hb : (f.decode b).isNan = false) :
    fpMax f a b = (if f.key a < f.key b then b else a, 0) := by
  simp only [fpMax, firstNan_pair ha hb, ltFV_iff_key hf hi ha hb]

end Order

/-- The condition of a comparison by code, from whether a NaN is present and which operand is below the other (R138). -/
theorem fpCmp_eq {a b : Nat} {un lt gt : Bool} (hun : ((FFmt.fp32.decode a).isNan || (FFmt.fp32.decode b).isNan) = un)
    (hlt : un = false → ltNum (FFmt.fp32.decode a) (FFmt.fp32.decode b) = lt)
    (hgt : un = false → ltNum (FFmt.fp32.decode b) (FFmt.fp32.decode a) = gt) {fn : Nat} (hfn : fn < 8) :
    fpCmp fn a b = ([!un && (!lt && !gt), un || (lt || gt), !un && lt, !un && (lt || (!lt && !gt)), !un && gt,
        !un && (gt || (!lt && !gt)), un, !un].getD fn false,
      (if un then fNanin else 0) ||| (if (if fn ∈ [0, 1, 6, 7] then (FFmt.fp32.decode a).isSnan || (FFmt.fp32.decode b).isSnan else un)
        then fNv else 0)) := by
  have h1 : (!un && ltNum (FFmt.fp32.decode a) (FFmt.fp32.decode b)) = (!un && lt) := by cases un <;> simp_all
  have h2 : (!un && ltNum (FFmt.fp32.decode b) (FFmt.fp32.decode a)) = (!un && gt) := by cases un <;> simp_all
  simp only [fpCmp, hun, h1, h2, Flags.when]
  refine Prod.ext ?_ (by simp only [List.mem_cons, List.not_mem_nil, or_false])
  interval_cases fn <;> cases un <;> simp

/-- The comparisons of VCMP in the order of the patterns (R138). -/
theorem fpCmp_spec {fn : Nat} (hfn : fn < 8) (a b : Nat) :
    let F := FFmt.fp32
    let un := (F.decode a).isNan || (F.decode b).isNan
    let sig := (F.decode a).isSnan || (F.decode b).isSnan
    fpCmp fn a b =
      ([!un && F.place a = F.place b, un || F.place a ≠ F.place b, !un && F.place a < F.place b, !un && F.place a ≤ F.place b,
        !un && F.place b < F.place a, !un && F.place b ≤ F.place a, un, !un].getD fn false,
      (if un then fNanin else 0) ||| (if (if fn ∈ [0, 1, 6, 7] then sig else un) then fNv else 0)) := by
  intro F un sig
  have hord : ∀ {x y : Nat}, (F.decode x).isNan = false → (F.decode y).isNan = false →
      ltNum (F.decode x) (F.decode y) = decide (F.place x < F.place y) := fun hx hy =>
    Bool.eq_iff_iff.2 ((ltNum_iff FFmt.fp32_sound rfl hx hy).trans decide_eq_true_iff.symm)
  have hcmp := fpCmp_eq (a := a) (b := b) (un := un) rfl
    (fun h => hord (Bool.or_eq_false_iff.1 h).1 (Bool.or_eq_false_iff.1 h).2)
    (fun h => hord (Bool.or_eq_false_iff.1 h).2 (Bool.or_eq_false_iff.1 h).1) hfn
  refine hcmp.trans (Prod.ext (congrArg (fun l : List Bool => l.getD fn false) ?_) rfl)
  rcases lt_trichotomy (F.place a) (F.place b) with h | h | h
  · simp [h, h.le, h.ne, h.not_gt, h.not_ge]
  · simp [h]
  · simp [h, h.le, h.ne', h.not_gt, h.not_ge]

end Sys2Proof.Machine
end

section
namespace Sys2Proof.Machine

/-! ## Rounding to an integer (R51, R141) -/

/-- The numbers of a format lie below its overflow. -/
theorem FFmt.magnitude_lt {f : FFmt} (hf : f.Sound) {w : Nat} (h : f.isFin w) : (f.sig w : ℚ) * 2 ^ f.ulp w < 2 ^ (f.emax + 1) := by
  have hs := (f.isFin_iff w).1 h
  have hx := f.expo_lt w
  have hp := hf.p_ge
  have hle : (f.p : Int) + f.ulp w ≤ f.emax + 1 := by
    unfold FFmt.special at hs
    by_cases h4 : f.e4m3 = true
    · obtain rfl := hf.e4m3 h4
      simp only [FFmt.ulp, FFmt.emax, FFmt.fe4m3, if_true] at hx ⊢
      omega
    · have hb := hf.bias (by simpa using h4)
      have hew : 2 ^ 2 ≤ 2 ^ f.ew := Nat.pow_le_pow_right two_pos hf.ew_ge
      have hcast : ((2 ^ f.ew : ℕ) : Int) = 2 ^ f.ew := by push_cast; rfl
      rw [if_neg h4] at hs
      unfold FFmt.ulp FFmt.emax
      rw [if_neg h4]
      omega
  calc (f.sig w : ℚ) * 2 ^ f.ulp w < 2 ^ f.p * 2 ^ f.ulp w :=
        mul_lt_mul_of_pos_right (by exact_mod_cast FFmt.sig_lt hf w) (two_zpow_pos _)
    _ = 2 ^ ((f.p : Int) + f.ulp w) := by rw [two_zpow_add, zpow_natCast]
    _ ≤ 2 ^ (f.emax + 1) := two_zpow_le.2 hle

theorem FFmt.emin_le_ulp (f : FFmt) (w : Nat) : f.emin - (f.p - 1) ≤ f.ulp w := by
  unfold FFmt.emin FFmt.ulp; omega

/-- A format with infinities holds the numbers of every format that is no wider. -/
theorem FFmt.holds_of_isFin {g f : FFmt} (hg : g.e4m3 = false) (hf : f.Sound) (hp : f.p ≤ g.p) (hmax : f.emax ≤ g.emax)
    (hmin : g.emin - (g.p - 1) ≤ f.emin - (f.p - 1)) {w : Nat} (h : f.isFin w) : g.Holds (f.sig w * 2 ^ f.ulp w) where
  ieee := hg
  lt := (FFmt.magnitude_lt hf h).trans_le (two_zpow_le.2 (by omega))
  dyadic := ⟨f.sig w, f.ulp w, rfl, (FFmt.sig_lt hf w).trans_le (Nat.pow_le_pow_right two_pos hp), hmin.trans (f.emin_le_ulp w)⟩

theorem withSign_zero (neg : Bool) : withSign neg 0 = 0 := by cases neg <;> simp [withSign]

theorem FFmt.abs_num {f : FFmt} {w : Nat} (h : f.isFin w) : |f.num w| = f.sig w * 2 ^ f.ulp w := by
  have hpos : (0 : ℚ) ≤ f.sig w * 2 ^ f.ulp w := mul_nonneg (Nat.cast_nonneg _) (two_zpow_pos _).le
  rw [FFmt.num_of_isFin h]
  unfold withSign
  split <;> simp [abs_of_nonneg hpos]

/-- A single-precision number rounds to an integer that FP32 holds. -/
theorem holds_of_roundsTo {rm : Rm} {neg : Bool} {y : ℚ} (hy : FFmt.fp32.Holds y) {k : Nat} (hk : RoundsTo rm neg 1 y k) :
    FFmt.fp32.Holds k := by
  by_cases h : (2 : ℚ) ^ (23 : ℤ) ≤ y
  · obtain ⟨a, ha⟩ := hy.multiple h
    have ha : y = a * 1 := by simpa [FFmt.fp32, FFmt.emin] using ha
    rw [hk.eq_of_eq one_pos ha, ← mul_one (a : ℚ), ← ha]
    exact hy
  · have hle : k ≤ 2 ^ 23 := hk.ge_of_ge one_pos (by push_cast; rw [mul_one]; exact (not_le.1 h).le)
    exact ⟨rfl, (Nat.cast_le.2 hle).trans_lt (by norm_num [FFmt.fp32, FFmt.emax]), k, 0, by simp, by
      simp only [FFmt.fp32]; omega, by decide⟩

theorem Dy.signed_val (neg : Bool) (k : Nat) : (⟨if neg then -(k : Int) else k, 0⟩ : Dy).val = withSign neg k := by
  cases neg <;> simp [Dy.val, withSign]

/-- The flag of a rounding to an integer. -/
theorem nxFlag_eq {inexact : Bool} {x y : ℚ} (h : inexact = true ↔ x ≠ y) : Flags.when inexact fNx = if x = y then 0 else fNx := by
  cases inexact with
  | true => rw [if_neg (h.1 rfl)]; rfl
  | false => rw [if_pos (not_not.1 (mt h.2 Bool.false_ne_true))]; rfl

/-- An integral value keeps the sign of its operand (R141). -/
theorem fpRoundInt_spec (rm : Rm) {a : Nat} (ha : a < 2 ^ 32) (h : FFmt.fp32.isFin a) :
    ∃ k, RoundsTo rm (FFmt.fp32.neg a) 1 |FFmt.fp32.num a| k ∧ FFmt.fp32.Stands (FFmt.fp32.neg a) k (fpRoundInt rm a).1 ∧
      (fpRoundInt rm a).2 = if (k : ℚ) = |FFmt.fp32.num a| then 0 else fNx := by
  have hd := FFmt.decode_of_isFin h
  by_cases hm : FFmt.fp32.sig a = 0
  · have hnum : FFmt.fp32.num a = 0 := by rw [FFmt.num_of_isFin h, hm]; simp [withSign_zero]
    have hr : fpRoundInt rm a = (a, 0) := by simp [fpRoundInt, hd, hm]
    rw [hr, hnum, abs_zero]
    exact ⟨0, by exact_mod_cast roundsTo_self rm _ 0, ⟨ha, h, rfl, by simp [hnum, withSign_zero]⟩, by simp⟩
  · have hr : fpRoundInt rm a = ((roundFp .fp32 ⟨if FFmt.fp32.neg a then
        -((roundNat (FFmt.fp32.sig a) (FFmt.fp32.ulp a) rm (FFmt.fp32.neg a)).1 : Int)
        else (roundNat (FFmt.fp32.sig a) (FFmt.fp32.ulp a) rm (FFmt.fp32.neg a)).1, 0⟩ (FFmt.fp32.neg a) .rne false).1,
        Flags.when (roundNat (FFmt.fp32.sig a) (FFmt.fp32.ulp a) rm (FFmt.fp32.neg a)).2 fNx) := by
      simp [fpRoundInt, hd, hm]
    obtain ⟨hk, hx⟩ := roundNat_spec (FFmt.fp32.sig a) (FFmt.fp32.ulp a) rm (FFmt.fp32.neg a)
    generalize roundNat (FFmt.fp32.sig a) (FFmt.fp32.ulp a) rm (FFmt.fp32.neg a) = r at hr hk hx
    have hround := roundFp_rounded FFmt.fp32_sound ⟨if FFmt.fp32.neg a then -(r.1 : Int) else r.1, 0⟩ (FFmt.fp32.neg a) .rne false
    rw [Dy.signed_val] at hround
    have hholds := FFmt.holds_of_isFin (g := .fp32) rfl FFmt.fp32_sound le_rfl le_rfl le_rfl h
    rw [hr, FFmt.abs_num h]
    exact ⟨r.1, hk, (hround.exact FFmt.fp32_sound (Nat.cast_nonneg _) (holds_of_roundsTo hholds hk)).1, nxFlag_eq hx⟩

theorem nanFlags_nan (n s : Bool) (fr : Nat) : nanFlags [.nan n s fr] = fNanin ||| if s then fNv else 0 := by
  cases s <;> simp [nanFlags, Flags.when, FV.isNan, FV.isSnan]

theorem fpRoundInt_nan (rm : Rm) (a : Nat) : NanResult .fp32 [a] 0 (fpRoundInt rm a) := by
  refine nanResult_of fun q hq => ?_
  cases hd : FFmt.fp32.decode a with
  | nan n s fr =>
    obtain rfl : FFmt.fp32.quiet a = q := by simpa [firstNan, hd, FV.isNan] using hq
    simp [fpRoundInt, hd]
  | inf n => simp [firstNan, hd, FV.isNan] at hq
  | fin n m e => simp [firstNan, hd, FV.isNan] at hq

theorem FFmt.decode_of_isInf {f : FFmt} {w : Nat} (h : (f.decode w).isInf = true) : f.decode w = .inf (f.neg w) := by
  have hn := f.decode_isNeg w
  cases hd : f.decode w with
  | nan n s fr => rw [hd] at h; exact absurd h Bool.false_ne_true
  | inf n => rw [hd] at hn; exact congrArg _ hn
  | fin n m e => rw [hd] at h; exact absurd h Bool.false_ne_true

theorem fpRoundInt_inf (rm : Rm) {a : Nat} (h : (FFmt.fp32.decode a).isInf = true) : fpRoundInt rm a = (a, 0) := by
  simp [fpRoundInt, FFmt.decode_of_isInf h]

/-! ## Conversions to an integer (R51) -/

/-- How an integer of w bits is written in a lane: `e` reads the residue of each integer of the range as the integer. -/
structure WritesInt (w : Nat) (lo hi : Int) (e : Nat → W32) : Prop where
  le : lo ≤ hi
  zero : e 0 = 0
  residue : ∀ y : Int, lo ≤ y → y ≤ hi → e (y % 2 ^ w).toNat = BitVec.ofInt 32 y

theorem writesInt_word : WritesInt 32 (-(2 ^ 31)) (2 ^ 31 - 1) (BitVec.ofNat 32) :=
  ⟨by decide, rfl, fun y _ _ => (ofNat_toNat_emod y).trans (ofInt_emod_two_pow y)⟩

theorem writesInt_naturalByte : WritesInt 8 0 255 (BitVec.ofNat 32) :=
  ⟨by decide, rfl, fun y h0 h1 => (ofNat_toNat_emod y).trans (congrArg _ (emod_byte_eq_self y h0 h1))⟩

theorem writesInt_signed {n : Nat} (hn : n ≠ 0) {lo hi : Int} (hle : lo ≤ hi)
    (hself : ∀ y, lo ≤ y → y ≤ hi → Int.bmod y (2 ^ n) = y) :
    WritesInt n lo hi fun x => BitVec.ofInt 32 (sintOf n x) where
  le := hle
  zero := by simp [sintOf_eq_bmod hn]
  residue y h0 h1 := by rw [sintOf_toNat_emod hn, hself y h0 h1]

theorem bmod_nibble_eq_self (y : Int) (hlo : -8 ≤ y) (hhi : y ≤ 7) : Int.bmod y 16 = y :=
  Int.bmod_eq_of_le (by omega) (by omega)

section ToInt
variable {w : Nat} {lo hi : Int} {e : Nat → W32} (he : WritesInt w lo hi e) (rm : Rm) {x : Nat}

/-- A NaN is 0, invalid. -/
theorem cvtF32ToInt_nan (w : Nat) (lo hi : Int) (rm : Rm) (h : (FFmt.fp32.decode x).isNan = true) :
    cvtF32ToInt w lo hi rm x = (0, fNanin ||| fNv) := by
  cases hd : FFmt.fp32.decode x with
  | nan n s fr =>
    simp only [cvtF32ToInt, hd, nanFlags_nan]
    cases s <;> rfl
  | inf n => rw [hd] at h; exact absurd h Bool.false_ne_true
  | fin n m e => rw [hd] at h; exact absurd h Bool.false_ne_true

include he

/-- An infinity is clamped. -/
theorem cvtF32ToInt_inf (h : (FFmt.fp32.decode x).isInf = true) :
    (e (cvtF32ToInt w lo hi rm x).1, (cvtF32ToInt w lo hi rm x).2) =
      (BitVec.ofInt 32 (if FFmt.fp32.neg x then lo else hi), fSat ||| fNx) := by
  simp only [cvtF32ToInt, FFmt.decode_of_isInf h]
  split
  · rw [he.residue lo le_rfl he.le]
  · rw [he.residue hi he.le le_rfl]

/-- A number is rounded to an integer, and clamped outside the range. -/
theorem cvtF32ToInt_fin (h : FFmt.fp32.isFin x) :
    ∃ k : Nat, RoundsTo rm (FFmt.fp32.neg x) 1 |FFmt.fp32.num x| k ∧
      let v : Int := if FFmt.fp32.neg x then -(k : Int) else k
      (e (cvtF32ToInt w lo hi rm x).1, (cvtF32ToInt w lo hi rm x).2) =
        if lo ≤ v ∧ v ≤ hi then (BitVec.ofInt 32 v, if (k : ℚ) = |FFmt.fp32.num x| then 0 else fNx)
        else (BitVec.ofInt 32 (if v < lo then lo else hi), fSat ||| fNx) := by
  obtain ⟨hk, hx⟩ := roundNat_spec (FFmt.fp32.sig x) (FFmt.fp32.ulp x) rm (FFmt.fp32.neg x)
  rw [← FFmt.abs_num h] at hk hx
  refine ⟨_, hk, ?_⟩
  simp only [cvtF32ToInt, FFmt.decode_of_isFin h]
  rw [← nxFlag_eq hx]
  generalize roundNat (FFmt.fp32.sig x) (FFmt.fp32.ulp x) rm (FFmt.fp32.neg x) = r
  generalize (if FFmt.fp32.neg x then -(r.1 : Int) else r.1) = v
  by_cases hlo : v < lo
  · simp [hlo, not_le.2 hlo, he.residue lo le_rfl he.le]
  · by_cases hhi : hi < v
    · simp [hlo, hhi, not_le.2 hhi, he.residue hi he.le le_rfl]
    · simp [hlo, hhi, not_lt.1 hlo, not_lt.1 hhi, he.residue v (not_lt.1 hlo) (not_lt.1 hhi)]

end ToInt

/-! ## Conversions between floating-point formats (R51) -/

/-- Setting the top bit of a fraction. -/
theorem or_two_pow {n c : Nat} (hc : c < 2 * 2 ^ n) : c ||| 2 ^ n = if c / 2 ^ n % 2 = 1 then c else c + 2 ^ n := by
  have hor : ∀ {d : Nat}, d < 2 ^ n → 2 ^ n + d = 2 ^ n ||| d := fun hd => by
    simpa using Nat.two_pow_add_eq_or_of_lt hd 1
  by_cases h : c < 2 ^ n
  · rw [Nat.div_eq_of_lt h, if_neg (by decide), Nat.add_comm, hor h, Nat.or_comm]
  · obtain ⟨d, rfl⟩ := Nat.exists_eq_add_of_le (not_lt.1 h)
    have hd : d < 2 ^ n := by omega
    rw [Nat.add_div_left _ (Nat.two_pow_pos _), Nat.div_eq_of_lt hd, if_pos rfl, hor hd, Nat.or_comm, ← Nat.or_assoc, Nat.or_self]

/-- A pattern is quieted in its fraction (R50). -/
theorem FFmt.quiet_eq {f : FFmt} (hf : f.Sound) (hi : f.e4m3 = false) (b : Nat) {c : Nat} (hc : c < 2 ^ (f.p - 1)) :
    f.quiet (b * 2 ^ (f.p - 1) + c) = b * 2 ^ (f.p - 1) + (c ||| 2 ^ (f.p - 2)) := by
  have h2 : 2 ^ (f.p - 1) = 2 * 2 ^ (f.p - 2) := by
    rw [← Nat.pow_succ']; congr 1; have := hf.p_ge; omega
  rw [h2] at hc ⊢
  have hdiv : (b * (2 * 2 ^ (f.p - 2)) + c) / 2 ^ (f.p - 2) % 2 = c / 2 ^ (f.p - 2) % 2 := by
    rw [← Nat.mul_assoc, Nat.mul_comm (b * 2), Nat.mul_add_div (Nat.two_pow_pos _), Nat.mul_add_mod']
  unfold FFmt.quiet
  rw [hi, or_two_pow hc, hdiv]
  simp only [Bool.false_eq_true, if_false]
  split <;> omega

/-- A NaN of a format, with its sign, whether it signals, and its payload. -/
theorem FFmt.decode_of_isNan {f : FFmt} {w : Nat} (h : (f.decode w).isNan = true) :
    f.decode w = .nan (f.neg w) (f.decode w).isSnan (if f.e4m3 then 0 else f.frac w) := by
  by_cases hs : f.special w
  · rw [FFmt.decode_of_special hs] at h ⊢
    by_cases h4 : f.e4m3 = true
    · simp only [if_pos h4]; rfl
    · by_cases h0 : f.frac w = 0
      · rw [if_neg h4, if_pos h0] at h
        exact absurd h Bool.false_ne_true
      · simp only [if_neg h4, if_neg h0]; rfl
  · rw [FFmt.decode_of_not_special hs] at h
    exact absurd h Bool.false_ne_true

/-- A format that FP32 holds: its numbers are FP32 numbers, and its patterns fit a lane. -/
structure FFmt.Narrow (f : FFmt) : Prop where
  sound : f.Sound
  p_le : f.p ≤ 24
  emax_le : f.emax ≤ 127
  ulp_ge : -149 ≤ f.emin - (f.p - 1)
  bits_le : f.bits ≤ 32

theorem FFmt.narrow_of_mem {f : FFmt} (h : f ∈ [FFmt.fp16, .bf16, .fe4m3, .e5m2]) : f.Narrow := by
  simp only [List.mem_cons, List.not_mem_nil, or_false] at h
  rcases h with rfl | rfl | rfl | rfl <;>
    exact ⟨⟨by decide, by decide, by decide, by decide⟩, by decide, by decide, by decide, by decide⟩

/-- The payload bits of a NaN that fit a narrower fraction. -/
theorem fraction_narrowed_lt {f : FFmt} (hf : f.Narrow) (x : Nat) :
    FFmt.fp32.frac x / 2 ^ (24 - f.p) < 2 ^ (f.p - 1) := by
  rw [Nat.div_lt_iff_lt_mul (Nat.two_pow_pos _), ← Nat.pow_add,
    show f.p - 1 + (24 - f.p) = 23 by have := hf.sound.p_ge; have := hf.p_le; omega]
  exact FFmt.fp32.frac_lt x

/-- The payload of a narrower NaN in the fraction of FP32. -/
theorem fraction_widened_lt {f : FFmt} (hf : f.Narrow) (y : Nat) : f.frac y * 2 ^ (24 - f.p) < 2 ^ 23 := by
  rw [show 23 = f.p - 1 + (24 - f.p) by have := hf.sound.p_ge; have := hf.p_le; omega, Nat.pow_add]
  exact Nat.mul_lt_mul_of_pos_right (f.frac_lt y) (Nat.two_pow_pos _)

section Narrow
variable {f : FFmt} (rm : Rm) {x : Nat}

/-- FP32 to another format: a number rounds once. -/
theorem cvtFromF32_fin (hf : f.Sound) (h : FFmt.fp32.isFin x) :
    Rounded f (FFmt.fp32.num x) (FFmt.fp32.neg x) rm false (cvtFromF32 f rm x) := by
  have hr := roundFp_rounded hf (FV.fin (FFmt.fp32.neg x) (FFmt.fp32.sig x) (FFmt.fp32.ulp x)).dy (FFmt.fp32.neg x) rm false
  rw [FV.fin_val, ← FFmt.num_of_isFin h] at hr
  simpa only [cvtFromF32, FFmt.decode_of_isFin h] using hr

theorem cvtFromF32_inf (f : FFmt) (h : (FFmt.fp32.decode x).isInf = true) :
    cvtFromF32 f rm x = if f.e4m3 then (f.maxFin (FFmt.fp32.neg x), fOf ||| fNx ||| fSat) else (f.inf (FFmt.fp32.neg x), 0) := by
  simp only [cvtFromF32, FFmt.decode_of_isInf h]

/-- A NaN keeps its sign and the highest payload bits that fit, quieted. -/
theorem cvtFromF32_nan (hf : f.Narrow) (h : (FFmt.fp32.decode x).isNan = true) :
    cvtFromF32 f rm x = (f.signBit (FFmt.fp32.neg x) +
      (if f.e4m3 then 0x7F else (2 ^ f.ew - 1) * 2 ^ (f.p - 1) + (FFmt.fp32.frac x / 2 ^ (24 - f.p) ||| 2 ^ (f.p - 2))),
      fNanin ||| if (FFmt.fp32.decode x).isSnan then fNv else 0) := by
  have hd := FFmt.decode_of_isNan h
  generalize (FFmt.fp32.decode x).isSnan = s at hd ⊢
  simp only [cvtFromF32, hd, nanFlags_nan]
  split <;> rename_i h4
  · rfl
  · have hpay := fraction_narrowed_lt hf x
    have hq := FFmt.quiet_eq hf.sound (by simpa using h4) ((if FFmt.fp32.neg x then 2 ^ f.ew else 0) + (2 ^ f.ew - 1)) hpay
    rw [Nat.add_mul, ← FFmt.signBit_eq hf.sound] at hq
    show (f.quiet (_ + FFmt.fp32.frac x / 2 ^ (24 - f.p) % 2 ^ (f.p - 1)), _) = _
    rw [Nat.mod_eq_of_lt hpay, hq, Nat.add_assoc]

end Narrow

section Wide
variable {f : FFmt} {y : Nat}

/-- A format that FP32 holds: the number is unchanged. -/
theorem cvtToF32_fin (hf : f.Narrow) (h : f.isFin y) :
    FFmt.fp32.Stands (f.neg y) (f.sig y * 2 ^ f.ulp y) (cvtToF32 f false y).1 ∧ (cvtToF32 f false y).2 = 0 := by
  have hr := roundFp_rounded FFmt.fp32_sound (FV.fin (f.neg y) (f.sig y) (f.ulp y)).dy (f.neg y) .rne false
  rw [FV.fin_val] at hr
  have hholds := FFmt.holds_of_isFin (g := .fp32) rfl hf.sound hf.p_le hf.emax_le hf.ulp_ge h
  simp only [cvtToF32, FFmt.decode_of_isFin h]
  exact ⟨(hr.exact FFmt.fp32_sound (mul_nonneg (Nat.cast_nonneg _) (two_zpow_pos _).le) hholds).1, trivial⟩

theorem cvtToF32_inf (h : (f.decode y).isInf = true) : cvtToF32 f false y = (FFmt.fp32.inf (f.neg y), 0) := by
  simp only [cvtToF32, FFmt.decode_of_isInf h]

/-- A NaN keeps its sign and payload, quieted. -/
theorem cvtToF32_nan (hf : f.Narrow) (h : (f.decode y).isNan = true) :
    cvtToF32 f false y = (FFmt.fp32.signBit (f.neg y) +
      (if f.e4m3 then 0x7FC00000 else 0x7F800000 + (f.frac y * 2 ^ (24 - f.p) ||| 2 ^ 22)),
      fNanin ||| if (f.decode y).isSnan then fNv else 0) := by
  have hd := FFmt.decode_of_isNan h
  generalize (f.decode y).isSnan = s at hd ⊢
  simp only [cvtToF32, hd, nanFlags_nan]
  split <;> rename_i h4
  · rfl
  · have hpay := fraction_widened_lt hf y
    have hq := FFmt.quiet_eq FFmt.fp32_sound rfl ((if f.neg y then 2 ^ FFmt.fp32.ew else 0) + 0xFF) hpay
    rw [Nat.add_mul, ← FFmt.signBit_eq FFmt.fp32_sound] at hq
    exact Prod.ext (hq.trans (Nat.add_assoc ..)) rfl

end Wide

end Sys2Proof.Machine
end

section
namespace Sys2Proof.Machine

/-! ## VCVT in a lane (R51, R140) -/

theorem w32_toNat {r : Nat × Flags} (h : r.1 < 2 ^ 32) : ((w32 r).1.toNat, (w32 r).2) = r :=
  Prod.ext (Nat.mod_eq_of_lt h) rfl

theorem cvtFromF32_lt {f : FFmt} (hf : f.Narrow) (rm : Rm) (x : Nat) : (cvtFromF32 f rm x).1 < 2 ^ 32 := by
  refine Nat.lt_of_lt_of_le ?_ (Nat.pow_le_pow_right two_pos hf.bits_le)
  by_cases hn : (FFmt.fp32.decode x).isNan = true
  · rw [cvtFromF32_nan rm hf hn]
    refine FFmt.signBit_add_lt hf.sound _ ?_
    split <;> rename_i h4
    · obtain rfl := hf.sound.e4m3 h4; decide
    · have h2 := hf.sound.p_ge
      have hor := Nat.or_lt_two_pow (fraction_narrowed_lt hf x) (Nat.pow_lt_pow_right one_lt_two (by omega : f.p - 2 < f.p - 1))
      calc _ < (2 ^ f.ew - 1 + 1) * 2 ^ (f.p - 1) := by rw [Nat.succ_mul]; omega
        _ = _ := by rw [Nat.sub_add_cancel (Nat.two_pow_pos f.ew)]
  · by_cases hi : (FFmt.fp32.decode x).isInf = true
    · rw [cvtFromF32_inf rm f hi]
      split
      · exact FFmt.maxFin_lt hf.sound _
      · exact FFmt.inf_lt hf.sound _
    · exact (cvtFromF32_fin rm hf.sound ⟨by simpa using hn, by simpa using hi⟩).lt hf.sound

theorem cvtToF32_lt {f : FFmt} (hf : f.Narrow) (y : Nat) : (cvtToF32 f false y).1 < 2 ^ 32 := by
  by_cases hn : (f.decode y).isNan = true
  · rw [cvtToF32_nan hf hn]
    refine FFmt.signBit_add_lt FFmt.fp32_sound _ ?_
    have hor := Nat.or_lt_two_pow (fraction_widened_lt hf y) (by decide : 2 ^ 22 < 2 ^ 23)
    show _ < 2 ^ 8 * 2 ^ 23
    split <;> omega
  · by_cases hi : (f.decode y).isInf = true
    · rw [cvtToF32_inf hi]; exact FFmt.inf_lt FFmt.fp32_sound _
    · exact (cvtToF32_fin hf ⟨by simpa using hn, by simpa using hi⟩).1.lt

/-- The codes that narrow FP32. -/
theorem vcvtLane_narrow {p : Nat × FFmt} (hp : p ∈ [(0, FFmt.fp16), (1, .bf16), (2, .fe4m3), (3, .e5m2)])
    (rm : Rm) (sat : Bool) (w : W32) :
    p.2.Narrow ∧ ((vcvtLane p.1 rm sat w).1.toNat, (vcvtLane p.1 rm sat w).2) = cvtFromF32 p.2 rm w.toNat := by
  have hcode : vcvtLane p.1 rm sat w = w32 (cvtFromF32 p.2 rm w.toNat) := by
    simp only [List.mem_cons, List.not_mem_nil, or_false] at hp
    rcases hp with rfl | rfl | rfl | rfl <;> rfl
  have hf : p.2.Narrow := FFmt.narrow_of_mem (List.mem_map_of_mem (f := Prod.snd) hp)
  rw [hcode]
  exact ⟨hf, w32_toNat (cvtFromF32_lt hf rm _)⟩

/-- The codes that widen to FP32. -/
theorem vcvtLane_wide {p : Nat × FFmt} (hp : p ∈ [(4, FFmt.fp16), (5, .bf16), (6, .fe4m3), (7, .e5m2)])
    (rm : Rm) (sat : Bool) (w : W32) :
    p.2.Narrow ∧ ((vcvtLane p.1 rm sat w).1.toNat, (vcvtLane p.1 rm sat w).2) = cvtToF32 p.2 false (w.toNat % 2 ^ p.2.bits) := by
  have hcode : vcvtLane p.1 rm sat w = w32 (cvtToF32 p.2 false (w.toNat % 2 ^ p.2.bits)) := by
    simp only [List.mem_cons, List.not_mem_nil, or_false] at hp
    rcases hp with rfl | rfl | rfl | rfl <;> rfl
  have hf : p.2.Narrow := FFmt.narrow_of_mem (List.mem_map_of_mem (f := Prod.snd) hp)
  rw [hcode]
  exact ⟨hf, w32_toNat (cvtToF32_lt hf _)⟩

/-- The codes that make integers of FP32. -/
theorem vcvtLane_toInt {p : Nat × Int × Int}
    (hp : p ∈ [(0x8, (-(2 ^ 31) : Int), (2 ^ 31 - 1 : Int)), (0xA, -128, 127), (0xB, 0, 255), (0xC, -8, 7)]) :
    ∃ n e, WritesInt n p.2.1 p.2.2 e ∧ ∀ rm sat w, vcvtLane p.1 rm sat w =
      (e (cvtF32ToInt n p.2.1 p.2.2 rm w.toNat).1, (cvtF32ToInt n p.2.1 p.2.2 rm w.toNat).2) := by
  simp only [List.mem_cons, List.not_mem_nil, or_false] at hp
  rcases hp with rfl | rfl | rfl | rfl
  · exact ⟨32, _, writesInt_word, fun _ _ _ => rfl⟩
  · exact ⟨8, _, writesInt_signed (by decide) (by decide) bmod_byte_eq_self, fun _ _ _ => rfl⟩
  · exact ⟨8, _, writesInt_naturalByte, fun _ _ _ => rfl⟩
  · exact ⟨4, _, writesInt_signed (by decide) (by decide) bmod_nibble_eq_self, fun _ _ _ => rfl⟩

/-- I32 to FP32 rounds once. -/
theorem vcvtLane_fromInt (rm : Rm) (sat : Bool) (w : W32) :
    Rounded .fp32 w.toInt false rm false ((vcvtLane 9 rm sat w).1.toNat, (vcvtLane 9 rm sat w).2) := by
  have hr := roundFp_rounded FFmt.fp32_sound (Dy.ofInt (sintOf 32 w.toNat)) false rm false
  have hval : (Dy.ofInt (sintOf 32 w.toNat)).val = w.toInt := by simp [Dy.val, Dy.ofInt, sintOf_toNat_eq_toInt]
  rw [hval] at hr
  have hcode : vcvtLane 9 rm sat w = w32 (roundFp .fp32 (Dy.ofInt (sintOf 32 w.toNat)) false rm false) := rfl
  rw [hcode, w32_toNat (hr.lt FFmt.fp32_sound)]
  exact hr

/-- I32 to a signed byte (R41). -/
theorem vcvtLane_signedByte (rm : Rm) (sat : Bool) (w : W32) : vcvtLane 0xD rm sat w = IntFit 1 sat w.toInt := by
  rw [← toWidth_signedByte, ← sintOf_toNat_eq_toInt]
  exact Prod.ext ((ofNat_toNat_emod _).trans (ofInt_emod_two_pow _)) rfl

/-- I32 to a natural byte (R41). -/
theorem vcvtLane_naturalByte (rm : Rm) (sat : Bool) (w : W32) : vcvtLane 0xE rm sat w = IntFit 2 sat w.toInt := by
  rw [← toWidth_naturalByte, ← sintOf_toNat_eq_toInt]
  rfl

end Sys2Proof.Machine
end

section
namespace Sys2Proof.Machine

/-! ## The canonical tree (R56) -/

theorem treeLevel_length (l : List Nat) : (treeLevel l).1.length = (l.length + 1) / 2 := by
  induction l using treeLevel.induct with
  | case1 => rfl
  | case2 a => simp [treeLevel]
  | case3 a b rest ih => simp [treeLevel, ih]; omega

/-- The pairs of a list are those of its parts, when the first part has no lone node. -/
theorem treeLevel_append {xs : List Nat} (h : xs.length % 2 = 0) (ys : List Nat) :
    treeLevel (xs ++ ys) = ((treeLevel xs).1 ++ (treeLevel ys).1, (treeLevel xs).2 ||| (treeLevel ys).2) := by
  induction xs using treeLevel.induct with
  | case1 => simp [treeLevel]
  | case2 a => simp at h
  | case3 a b rest ih =>
    have h' : rest.length % 2 = 0 := by simp at h; omega
    simp [treeLevel, ih h', BitVec.or_assoc]

theorem treeLevels_length {n : Nat} {l : List Nat} (h : l.length = 2 ^ n) : (treeLevels n l).1.length = 1 := by
  induction n generalizing l with
  | zero => exact h
  | succ n ih => exact ih (by rw [treeLevel_length, h, Nat.pow_succ]; omega)

/-- Two halves of a tree climb side by side. -/
theorem treeLevels_append {n : Nat} {xs ys : List Nat} (hx : xs.length = 2 ^ n) (hy : ys.length = 2 ^ n) :
    treeLevels n (xs ++ ys) = ((treeLevels n xs).1 ++ (treeLevels n ys).1, (treeLevels n xs).2 ||| (treeLevels n ys).2) := by
  induction n generalizing xs ys with
  | zero => simp [treeLevels]
  | succ n ih =>
    rw [Nat.pow_succ] at hx hy
    have hl := ih (xs := (treeLevel xs).1) (ys := (treeLevel ys).1) (by rw [treeLevel_length]; omega) (by rw [treeLevel_length]; omega)
    simp only [treeLevels, treeLevel_append (by omega : xs.length % 2 = 0), hl]
    exact Prod.ext rfl (by ac_rfl)

/-- The last level of a tree, apart. -/
theorem treeLevels_succ (n : Nat) (l : List Nat) :
    treeLevels (n + 1) l = ((treeLevel (treeLevels n l).1).1, (treeLevels n l).2 ||| (treeLevel (treeLevels n l).1).2) := by
  induction n generalizing l with
  | zero => simp [treeLevels]
  | succ n ih =>
    rw [treeLevels, ih]
    simp [treeLevels, BitVec.or_assoc]

theorem ceilLog2_eq {d n : Nat} (hlo : 2 ^ d < 2 * n) (hhi : n ≤ 2 ^ d) : ceilLog2 n = d := by
  unfold ceilLog2
  cases d with
  | zero => rw [if_pos (by omega)]
  | succ d =>
    rw [Nat.pow_succ] at hlo hhi
    have hpos := Nat.two_pow_pos d
    rw [if_neg (by omega)]
    congr 1
    rw [Nat.log2_eq_iff (by omega), Nat.pow_succ]
    omega

theorem canonicalTree_eq {d : Nat} {l : List Nat} (h : ceilLog2 l.length = d) :
    canonicalTree l = ((treeLevels d (l ++ List.replicate (2 ^ d - l.length) 0)).1.headD 0,
      (treeLevels d (l ++ List.replicate (2 ^ d - l.length) 0)).2) := by
  subst h; rfl

theorem canonicalTree_of_length {d : Nat} {l : List Nat} (h : l.length = 2 ^ d) :
    canonicalTree l = ((treeLevels d l).1.headD 0, (treeLevels d l).2) := by
  have hd : ceilLog2 l.length = d := ceilLog2_eq (by have := Nat.two_pow_pos d; omega) h.le
  rw [canonicalTree_eq hd, h, Nat.sub_self, List.replicate_zero, List.append_nil]

/-- A tree over two full halves adds the trees of its halves. -/
theorem canonicalTree_append {d : Nat} {xs ys : List Nat} (hx : xs.length = 2 ^ d) (hy : ys.length = 2 ^ d) :
    canonicalTree (xs ++ ys) = ((treeAdd (canonicalTree xs).1 (canonicalTree ys).1).1,
      (canonicalTree xs).2 ||| (canonicalTree ys).2 ||| (treeAdd (canonicalTree xs).1 (canonicalTree ys).1).2) := by
  obtain ⟨a, ha⟩ := List.length_eq_one_iff.1 (treeLevels_length hx)
  obtain ⟨b, hb⟩ := List.length_eq_one_iff.1 (treeLevels_length hy)
  rw [canonicalTree_of_length hx, canonicalTree_of_length hy,
    canonicalTree_of_length (d := d + 1) (by rw [List.length_append, hx, hy, Nat.pow_succ]; omega), treeLevels_succ,
    treeLevels_append hx hy, ha, hb]
  simp [treeLevel]

/-- Positive zeros fill the leaves up to the next power of two. -/
theorem canonicalTree_padded {d : Nat} {xs : List Nat} (hlo : 2 ^ d < xs.length) (hhi : xs.length ≤ 2 ^ (d + 1)) :
    canonicalTree xs = canonicalTree (xs ++ List.replicate (2 ^ (d + 1) - xs.length) 0) := by
  have hd : ceilLog2 xs.length = d + 1 := ceilLog2_eq (by rw [Nat.pow_succ]; omega) hhi
  rw [canonicalTree_eq hd]
  exact (canonicalTree_of_length (by rw [List.length_append, List.length_replicate]; omega)).symm

theorem treeAdd_eq {p q : Nat} (hp : (FFmt.fp32.decode p).isNan = false) (hq : (FFmt.fp32.decode q).isNan = false) :
    treeAdd p q = addFV .fp32 (FFmt.fp32.decode p) (FFmt.fp32.decode q) .rne true := by
  have hz : ∀ na nb : Bool, (na && nb) = zeroSumSign na nb .rne := by decide
  simp only [treeAdd, firstNan_pair hp hq]
  obtain ⟨np, hdp⟩ | ⟨np, mp, ep, hdp⟩ := FV.inf_or_fin hp <;> obtain ⟨nq, hdq⟩ | ⟨nq, mq, eq, hdq⟩ := FV.inf_or_fin hq <;>
    simp only [hdp, hdq, addFV, hz]

/-- A node of the tree adds as a lane does, nearest-even, its subnormal results flushed. -/
theorem treeAdd_summed {p q : Nat} (hp : (FFmt.fp32.decode p).isNan = false) (hq : (FFmt.fp32.decode q).isNan = false) :
    Summed .fp32 .rne true false (FFmt.fp32.decode p).isInf (FFmt.fp32.decode q).isInf (FFmt.fp32.neg p) (FFmt.fp32.neg q)
      (FFmt.fp32.num p + FFmt.fp32.num q) (treeAdd p q) := by
  have h := addFV_summed FFmt.fp32_sound hp hq .rne true
  rw [← treeAdd_eq hp hq, FFmt.decode_isNeg, FFmt.decode_isNeg] at h
  exact h

end Sys2Proof.Machine
end

section
namespace Sys2Proof.Machine

/-! ## Chunk sums (R54, R55) -/

/-- A chunk sum is exact. -/
theorem foldl_add_val (f : FFmt) (xs : List Nat) (z : Dy) :
    ((xs.map f.decode).foldl (fun a v => a.add v.dy) z).val = z.val + (xs.map f.num).sum := by
  induction xs generalizing z with
  | nil => simp
  | cons x xs ih => simp [ih, FFmt.num, add_assoc]

theorem chunkSumF32_nan (xs : List Nat) : NanResult .fp32 xs 0 (chunkSumF32 xs) :=
  nanResult_of fun q hq => by simp [chunkSumF32, hq]

/-- Without a NaN a chunk sum is an infinity, invalid, or its exact sum rounded once. -/
theorem chunkSumF32_spec {xs : List Nat} (h : ∀ x ∈ xs, (FFmt.fp32.decode x).isNan = false) :
    let has := fun (n : Bool) => xs.any fun x => (FFmt.fp32.decode x).isInf && FFmt.fp32.neg x == n
    if has false && has true then chunkSumF32 xs = (FFmt.fp32.defNan, fNv)
    else if has false || has true then chunkSumF32 xs = (FFmt.fp32.inf (has true), 0)
    else Rounded .fp32 (xs.map FFmt.fp32.num).sum false .rne true (chunkSumF32 xs) := by
  intro has
  have hpos : ((xs.map FFmt.fp32.decode).any fun v => v.isInf && !v.isNeg) = has false := by
    simp [has, List.any_map, Function.comp_def]
  have hneg : ((xs.map FFmt.fp32.decode).any fun v => v.isInf && v.isNeg) = has true := by
    simp [has, List.any_map, Function.comp_def]
  have hround := roundFp_rounded FFmt.fp32_sound ((xs.map FFmt.fp32.decode).foldl (fun a v => a.add v.dy) Dy.zero) false .rne true
  rw [foldl_add_val, Dy.val_zero, zero_add] at hround
  have heq : chunkSumF32 xs = if has false && has true then (FFmt.fp32.defNan, fNv) else if has false then (FFmt.fp32.inf false, 0)
      else if has true then (FFmt.fp32.inf true, 0)
      else roundFp .fp32 ((xs.map FFmt.fp32.decode).foldl (fun a v => a.add v.dy) Dy.zero) false .rne true := by
    rw [← hpos, ← hneg]
    simp only [chunkSumF32, firstNan_eq_none_iff.2 h]
  rw [heq]
  generalize has false = p
  generalize has true = n
  cases p <;> cases n <;> simp [hround]

end Sys2Proof.Machine
end

section
namespace Sys2Proof.Machine

/-! ## The matrix chunk sum (R54, R203) -/

theorem dotInt_eq (as bs : List Int) : dotInt as bs = (List.zipWith (· * ·) as bs).sum := by
  induction as generalizing bs with
  | nil => simp [dotInt]
  | cons a as ih =>
    cases bs with
    | nil => simp [dotInt]
    | cons b bs => simp [dotInt, ih]

/-- The term of a block pair in units of 2^lo. -/
def mxTerm (lo : Int) (t : Int × Int) : ℚ := (t.1 : ℚ) * 2 ^ (t.2 - lo)

/-- The accumulation of a term: its whole units, and whether some part of a unit is lost (R54). -/
def mxStep (lo : Int) (acc : Int × Bool) (t : Int × Int) : Int × Bool :=
  let sh := t.2 - lo
  if sh ≥ 0 then (acc.1 + t.1 * 2 ^ sh.toNat, acc.2)
  else
    let d : Int := 2 ^ (-sh).toNat
    (acc.1 + t.1.fdiv d, acc.2 || decide (t.1.fmod d ≠ 0))

theorem mxStep_eq (lo : Int) (acc : Int × Bool) (t : Int × Int) :
    mxStep lo acc t = (acc.1 + ⌊mxTerm lo t⌋, acc.2 || decide (mxTerm lo t ≠ ⌊mxTerm lo t⌋)) := by
  by_cases h : t.2 - lo ≥ 0
  · have hv : mxTerm lo t = ((t.1 * 2 ^ (t.2 - lo).toNat : Int) : ℚ) := by
      unfold mxTerm; push_cast; rw [two_pow_toNat h]
    simp only [mxStep, if_pos h, hv, Int.floor_intCast]
    simp
  · let d : Nat := 2 ^ (-(t.2 - lo)).toNat
    have hd : (0 : Int) < d := by exact_mod_cast Nat.two_pow_pos _
    have hcast : (2 : Int) ^ (-(t.2 - lo)).toNat = d := by push_cast [d]; rfl
    have hv : mxTerm lo t = (t.1 : ℚ) / d := by
      unfold mxTerm
      rw [div_eq_mul_inv]
      congr 1
      push_cast [d]
      rw [two_pow_toNat (by omega), zpow_neg, inv_inv]
    have hfloor : ⌊mxTerm lo t⌋ = t.1.fdiv d := by
      rw [hv, Rat.floor_intCast_div_natCast, Int.fdiv_eq_ediv_of_nonneg _ hd.le]
    have hexact : mxTerm lo t = ⌊mxTerm lo t⌋ ↔ t.1.fmod d = 0 := by
      have hdq : (d : ℚ) ≠ 0 := by exact_mod_cast hd.ne'
      have hdiv := Int.mul_fdiv_add_fmod t.1 d
      rw [hfloor, hv, div_eq_iff hdq]
      constructor
      · intro he
        have he : t.1 = t.1.fdiv d * d := by exact_mod_cast he
        linarith
      · intro he
        rw [he] at hdiv
        have : t.1 = t.1.fdiv d * d := by linarith
        exact_mod_cast this
    simp only [mxStep, if_neg h, hcast, hfloor.symm, ne_eq, hexact]

/-- The terms that are not zero give the sum, and the sticky bit, of all of them. -/
theorem foldl_mxStep (lo : Int) (ts : List (Int × Int)) (acc : Int × Bool) :
    (ts.filter fun t => decide (t.1 ≠ 0)).foldl (mxStep lo) acc =
      (acc.1 + (ts.map fun t => ⌊mxTerm lo t⌋).sum, acc.2 || !(ts.all fun t => decide (mxTerm lo t = ⌊mxTerm lo t⌋))) := by
  induction ts generalizing acc with
  | nil => simp
  | cons t ts ih =>
    by_cases h : t.1 = 0
    · have hv : mxTerm lo t = 0 := by simp [mxTerm, h]
      rw [List.filter_cons_of_neg (by simpa using h), ih]
      simp [hv]
    · rw [List.filter_cons_of_pos (by simpa using h), List.foldl_cons, ih, mxStep_eq]
      simp [add_assoc, Bool.or_assoc]

/-- The greatest exponent, found by going through the terms. -/
theorem foldl_exponent_eq {ts : List (Int × Int)} {a top : Int} (ha : a ≤ top) (hle : ∀ t ∈ ts, t.2 ≤ top)
    (hmem : a = top ∨ ∃ t ∈ ts, t.2 = top) : ts.foldl (fun a t => if a < t.2 then t.2 else a) a = top := by
  induction ts generalizing a with
  | nil => simpa using hmem
  | cons t ts ih =>
    have ht := hle t List.mem_cons_self
    have hnext : (if a < t.2 then t.2 else a) ≤ top := by split <;> assumption
    refine ih hnext (fun u hu => hle u (List.mem_cons_of_mem _ hu)) ?_
    rcases hmem with rfl | ⟨u, hu, rfl⟩
    · exact .inl (if_neg (not_lt.2 ht))
    · rcases List.mem_cons.1 hu with rfl | hu
      · refine .inl (show (if a < u.2 then u.2 else a) = u.2 from ?_)
        split <;> omega
      · exact .inr ⟨u, hu, rfl⟩

/-- A NaN block makes the chunk sum a NaN. -/
theorem chunkSumMx_nan {l : List (Blk × Blk)} (h : ∃ p ∈ l, p.1.x = none ∨ p.2.x = none) :
    chunkSumMx l = (FFmt.fp32.defNan, fNanin) := by
  obtain ⟨p, hp, hx⟩ := h
  refine if_pos (List.any_eq_true.2 ⟨p, hp, ?_⟩)
  rcases hx with hx | hx <;> simp [hx]

/-- The integer and the exponent that each block pair adds (R54). -/
def mxTerms (l : List (Blk × Blk)) : List (Int × Int) :=
  l.map fun p => ((List.zipWith (· * ·) p.1.s p.2.s).sum, p.1.x.getD 0 + p.2.x.getD 0)

/-- Without a NaN block the terms that are not zero decide, and the greatest exponent among them places the accumulator. -/
theorem chunkSumMx_eq {l : List (Blk × Blk)} (h : ∀ p ∈ l, p.1.x ≠ none ∧ p.2.x ≠ none) {live : List (Int × Int)}
    (hl : (mxTerms l).filter (fun t => decide (t.1 ≠ 0)) = live) :
    (live = [] → chunkSumMx l = (0, 0)) ∧
    ∀ t0 rest, live = t0 :: rest →
      let lo := rest.foldl (fun a t => if a < t.2 then t.2 else a) t0.2 - 72
      let r := live.foldl (mxStep lo) (0, false)
      chunkSumMx l = roundFp .fp32 ⟨2 * r.1 + (if r.2 then 1 else 0), lo - 1⟩ false .rne true := by
  have hany : ¬ (l.any fun p => p.1.x.isNone || p.2.x.isNone) = true := by
    simp only [List.any_eq_true, not_exists, not_and, Bool.or_eq_true, Option.isNone_iff_eq_none, not_or]
    exact h
  have hterms : (l.map fun p => (dotInt p.1.s p.2.s, p.1.x.getD 0 + p.2.x.getD 0)) = mxTerms l := by
    simp only [mxTerms, dotInt_eq]
  constructor
  · rintro rfl
    simp only [chunkSumMx, if_neg hany, hterms, hl]
  · rintro t0 rest rfl
    simp only [chunkSumMx, if_neg hany, hterms, hl]
    rfl

theorem chunkSumMx_zero {l : List (Blk × Blk)} (h : ∀ p ∈ l, p.1.x ≠ none ∧ p.2.x ≠ none) (hz : ∀ t ∈ mxTerms l, t.1 = 0) :
    chunkSumMx l = (0, 0) :=
  (chunkSumMx_eq h rfl).1 (List.filter_eq_nil_iff.2 fun t ht => by simp [hz t ht])

/-- A sticky bit stands for half a unit. -/
theorem Dy.val_sticky (n : Int) (b : Bool) (e : Int) :
    (⟨2 * n + (if b then 1 else 0), e - 1⟩ : Dy).val = (n + if b then 1 / 2 else 0) * 2 ^ e := by
  simp only [Dy.val]
  rw [zpow_sub_one₀ two_ne_zero]
  cases b <;> simp <;> ring

/-- The whole units of the terms and the sticky bit below them, rounded once. -/
theorem chunkSumMx_rounded {l : List (Blk × Blk)} (h : ∀ p ∈ l, p.1.x ≠ none ∧ p.2.x ≠ none) {top : Int}
    (hex : ∃ t ∈ mxTerms l, t.1 ≠ 0 ∧ t.2 = top) (hle : ∀ t ∈ mxTerms l, t.1 ≠ 0 → t.2 ≤ top) :
    let acc : Int := ((mxTerms l).map fun t => ⌊mxTerm (top - 72) t⌋).sum
    let sticky : ℚ := if (mxTerms l).all fun t => mxTerm (top - 72) t = ⌊mxTerm (top - 72) t⌋ then 0 else 1 / 2
    Rounded .fp32 ((acc + sticky) * 2 ^ (top - 72)) false .rne true (chunkSumMx l) := by
  intro acc sticky
  obtain ⟨live, hl⟩ : ∃ live, (mxTerms l).filter (fun t => decide (t.1 ≠ 0)) = live := ⟨_, rfl⟩
  have hmem : ∀ t, t ∈ live ↔ t ∈ mxTerms l ∧ t.1 ≠ 0 := fun t => by rw [← hl, List.mem_filter]; simp
  obtain ⟨u, hu, hu0, hutop⟩ := hex
  have hulive := (hmem u).2 ⟨hu, hu0⟩
  obtain ⟨t0, rest, hcons⟩ := List.exists_cons_of_ne_nil (List.ne_nil_of_mem hulive)
  have htop : ∀ t ∈ live, t.2 ≤ top := fun t ht => hle t ((hmem t).1 ht).1 ((hmem t).1 ht).2
  have hchunk := (chunkSumMx_eq h hl).2 t0 rest hcons
  have hlo : rest.foldl (fun a t => if a < t.2 then t.2 else a) t0.2 = top := by
    rw [hcons] at htop hulive
    refine foldl_exponent_eq (htop t0 List.mem_cons_self) (fun t ht => htop t (List.mem_cons_of_mem _ ht)) ?_
    rcases List.mem_cons.1 hulive with rfl | hur
    · exact .inl hutop
    · exact .inr ⟨u, hur, hutop⟩
  simp only [hlo, ← hl, foldl_mxStep, zero_add, Bool.false_or] at hchunk
  have hsticky : sticky = if !((mxTerms l).all fun t => decide (mxTerm (top - 72) t = ⌊mxTerm (top - 72) t⌋)) then 1 / 2 else 0 := by
    simp only [sticky]
    cases (mxTerms l).all fun t => decide (mxTerm (top - 72) t = ⌊mxTerm (top - 72) t⌋) <;> rfl
  rw [hchunk, hsticky, ← Dy.val_sticky]
  exact roundFp_rounded FFmt.fp32_sound _ false .rne true

end Sys2Proof.Machine
end

section
namespace Sys2Proof.Machine

/-! ## The operands of the built-in functions that no table serves (R151) -/

/-- Every function answers a NaN with the NaN, quieted. -/
theorem vfn_of_isNan {fn a : Nat} (hfn : fn < 14) (h : (FFmt.fp32.decode a).isNan = true) : vfn fn a = fnNan a := by
  obtain ⟨n, s, fr, hd⟩ : ∃ n s fr, FFmt.fp32.decode a = .nan n s fr := ⟨_, _, _, FFmt.decode_of_isNan h⟩
  interval_cases fn
  all_goals
    simp only [vfn, fnExp2, fnLog2, fnExp, fnLog, fnOdd, fnSigmoid, fnRsqrt, fpSqrt, fnRecip, fnSilu, fnGelu, fnTrig, fnNan]
    rw [hd]

theorem vfn_nan {fn : Nat} (hfn : fn < 14) (a : Nat) : NanResult .fp32 [a] 0 (vfn fn a) := by
  refine nanResult_of fun q hq => ?_
  cases h : (FFmt.fp32.decode a).isNan with
  | false => simp [firstNan, h] at hq
  | true =>
    obtain rfl : FFmt.fp32.quiet a = q := by simpa [firstNan, h] using hq
    rw [vfn_of_isNan hfn h]
    simp [fnNan]

/-- The logarithms and the roots have no value at a negative number. -/
theorem vfn_of_negative {fn a : Nat} (hfn : fn ∈ [1, 3, 7, 8]) (h : FFmt.fp32.isFin a) (hn : FFmt.fp32.neg a = true)
    (hz : (FFmt.fp32.decode a).isZero = false) : vfn fn a = (FFmt.fp32.defNan, fNv) := by
  have hd := FFmt.decode_of_isFin h
  rw [hn] at hd
  have hm : FFmt.fp32.sig a ≠ 0 := by simpa [hd, FV.isZero] using hz
  simp only [List.mem_cons, List.not_mem_nil, or_false] at hfn
  rcases hfn with rfl | rfl | rfl | rfl <;> simp only [vfn, fnLog2, fnLog, fnRsqrt, fpSqrt, hd, if_neg hm, if_true] <;> rfl

end Sys2Proof.Machine
end

section
namespace Sys2Proof.Machine

/-- One leaf is its own tree. -/
theorem canonicalTree_singleton (x : Nat) : canonicalTree [x] = (x, 0) := canonicalTree_of_length (d := 0) rfl

/-- Settles O2: `roundFp` forms the rounded number of its exact argument; each operation hands it the exact sum, product or integer, and
answers its NaNs, infinities and zeros before. -/
theorem numbersRoundOnce : Obligations.NumbersRoundOnce := by
  unfold Obligations.NumbersRoundOnce
  intro inf nan zero signed F
  refine ⟨fun f hf x zs rm ftz => roundFp_rounded (FFmt.sound_of_mem hf) x zs rm ftz, fun f hf rm a b _ _ => ?_,
    fun rm pn cn a b c => ⟨fpFma_nan F rm pn cn a b c, fpFma_spec FFmt.fp32_sound rm pn cn⟩, fun rm a ha => ?_,
    fun a b fn hfn => fpCmp_spec hfn a b, fun rm sat w => ?_,
    fun p q => ⟨treeAdd_nan p q, treeAdd_summed⟩, fun d xs ys hx hy => canonicalTree_append hx hy, canonicalTree_singleton,
    fun d xs => canonicalTree_padded, fun xs => ⟨chunkSumF32_nan xs, chunkSumF32_spec⟩,
    fun l => ⟨chunkSumMx_nan, fun h => ⟨chunkSumMx_zero h, fun top => chunkSumMx_rounded h⟩⟩,
    fun fn a hfn => ⟨vfn_nan hfn a, vfn_of_negative⟩, ?_⟩
  · have hs : f.Sound := FFmt.sound_of_mem (List.mem_of_mem_take (i := 3) hf)
    have hi : f.e4m3 = false := by
      simp only [List.mem_cons, List.not_mem_nil, or_false] at hf
      rcases hf with rfl | rfl | rfl <;> rfl
    refine ⟨fun r hr => ?_, fun ha hb => ⟨fpAdd_summed hs rm ha hb, fpSub_summed hs rm ha hb, fpMul_spec hs rm ha hb,
      fpMin_eq hs hi ha hb, fpMax_eq hs hi ha hb⟩⟩
    simp only [List.mem_cons, List.not_mem_nil, or_false] at hr
    rcases hr with rfl | rfl | rfl | rfl | rfl
    exacts [fpAdd_nan f rm a b, fpSub_nan f rm a b, fpMul_nan f rm a b, fpMin_nan f a b, fpMax_nan f a b]
  · refine ⟨fpRoundInt_nan rm a, fpRoundInt_inf rm, fun h => ?_⟩
    obtain ⟨k, hk, hst, hfl⟩ := fpRoundInt_spec rm ha h
    exact ⟨hst.fin, hst.neg, k, hk, hst.num, hfl⟩
  · refine ⟨fun p hp => ?_, fun p hp => ?_, fun p hp => ?_, vcvtLane_fromInt rm sat w, vcvtLane_signedByte rm sat w,
      vcvtLane_naturalByte rm sat w⟩
    · obtain ⟨hf, hcode⟩ := vcvtLane_narrow hp rm sat w
      dsimp only
      rw [hcode]
      refine ⟨cvtFromF32_fin rm hf.sound, cvtFromF32_inf rm p.2, fun hn => ?_⟩
      have hres := Prod.ext_iff.1 (hcode.trans (cvtFromF32_nan rm hf hn))
      exact ⟨hres.2, hres.1⟩
    · obtain ⟨hf, hcode⟩ := vcvtLane_wide hp rm sat w
      dsimp only
      refine ⟨fun h => ?_, fun h => hcode.trans (cvtToF32_inf h), fun hn => ?_⟩
      · obtain ⟨hst, hfl⟩ := cvtToF32_fin hf h
        rw [← hcode] at hst hfl
        exact ⟨hst.fin, hst.num.trans (FFmt.num_of_isFin h).symm, hst.neg, hfl⟩
      · have hres := Prod.ext_iff.1 (hcode.trans (cvtToF32_nan hf hn))
        exact ⟨hres.2, hres.1⟩
    · obtain ⟨n, e, he, hcode⟩ := vcvtLane_toInt hp
      dsimp only
      rw [hcode]
      refine ⟨fun hn => ?_, fun h => ?_, fun h => cvtF32ToInt_fin he rm h⟩
      · rw [cvtF32ToInt_nan n _ _ rm hn, he.zero]
      · rw [cvtF32ToInt_inf he rm h]
        have hle := he.le
        cases F.neg w.toNat
        · simp [show ¬ p.2.2 + 1 < p.2.1 by omega]
        · simp
  · decide

end Sys2Proof.Machine
end
